-- ==== Sys2Proof/Word.lean ====
section
/-! DEFINITION. The word types of the device: a 32-bit register (R9), a byte of memory, of a descriptor or of a frame. -/
namespace Sys2Proof

/-- A register of BAR0 (R9). -/
abbrev Word := BitVec 32

/-- A byte. -/
abbrev Byte := BitVec 8

end Sys2Proof
end

