-- ==== Sys2Proof/Syntax.lean ====
section
/-! DEFINITION. The commands the block takes: one constructor for each row of the opcode table, with what arrives with the
command (an address, a value, a frame's bytes, what a read returned). Timer rows carry only the instance whose timer expired. -/
namespace Sys2Proof

/-- Who makes a BAR0 access (R10): a host port or the device agent. -/
inductive Requester
  | host (p : Fin 4)
  | agent
deriving DecidableEq, Repr

/-- The size of a BAR0 access (R9). -/
inductive AccSize | b8 | b16 | b32 | b64
deriving DecidableEq, Repr

/-- Where a BAR0 access goes, and its size (R9). -/
structure Access where
  off : BitVec 27
  size : AccSize := .b32
deriving DecidableEq, Repr

/-- A write of a function's `PMCSR` (R345): `PME_En`, and whether 1 is written to `PME_Status`. -/
structure PmeWrite where
  en : Bool
  clear : Bool
deriving DecidableEq, Repr

/-- A write of a function's MSI-X Message Control (R318): MSI-X Enable and Function Mask. -/
structure MsixWrite where
  enable : Bool
  mask : Bool
deriving DecidableEq, Repr

/-- Where a command comes from: a `CMD` ring, or a core through its cluster's command queue (R272). -/
inductive Origin
  | ring (r : Fin 16384)
  | core (n : Fin 128)
deriving DecidableEq, Repr

/-- A command descriptor as the device read it (R328), with the input its `DATA_ADDR` points at. -/
structure Cmd where
  /-- word 0 bits 47:32 -/
  flags : BitVec 16 := 0
  ctx : BitVec 32 := 0
  arg0 : BitVec 32 := 0
  arg1 : BitVec 32 := 0
  arg2 : BitVec 32 := 0
  arg3 : BitVec 32 := 0
  dataAddr : BitVec 64 := 0
  outAddr : BitVec 64 := 0
  /-- `OUT_LEN`, the output capacity -/
  outLen : BitVec 32 := 0
  data : List Byte := []
deriving DecidableEq, Repr

/-- The commands of R329, in the order of their opcodes. -/
inductive CmdOp
  | nop | ringCreate | ringDestroy | ringQuery
  | flowInsert | flowModify | flowDelete | flowQuery | natPoolSet | natPortFree | beGroupSet | beSlotSet | backendSet
  | progLoad | tmplSet | parseSet | clsSet
  | fdbSet | fdbDelete | fdbQuery | fdbFlush | bdSet | lpmAdd | lpmDelete | nhSet | ecmpGroupSet | ecmpMemberSet
  | ecmpMemberDown | ecmpMemberUp | subSet | subQuery | policerSet | policerQuery | gclSet
  | steerSet | steerQuery | promote | coreLoad | attest | tagWrite | ownerEnrol
  | reserved
deriving DecidableEq, Repr

/-- What a checker finds (R393): the source, the severity of the condition, the detail word of R394, and a second detail
where the block's own reaction (R395) needs one. -/
structure Hazard where
  src : BitVec 10
  sev : Fin 5
  detail : BitVec 32 := 0
  arg : BitVec 32 := 0
deriving DecidableEq, Repr

/-- The kinds of host memory read outcome: the data, or Unsupported Request, Completer Abort or poisoned data (R349). -/
inductive HostRead
  | data (b : List Byte)
  | failed
deriving DecidableEq, Repr

/-- Where an item that asks for admission comes from (R265). -/
inductive WorkSrc
  | punt (pipe : Fin 32)
  | host (ring : Fin 16384)
  | age
  | post (core : Fin 128)
deriving DecidableEq, Repr

/-- What a junction sensor answers (R437, R438): a temperature in °C, one out of its range, or nothing. -/
inductive SensorRead
  | degc (t : BitVec 8)
  | outOfRange (t : BitVec 8)
  | silent
deriving DecidableEq, Repr

/-- The commands of the table. -/
inductive Instr
  /-- `PWRGOOD_RISE` (R461) -/
  | pwrgoodRise
  /-- `PWRGOOD_FALL` (R461) -/
  | pwrgoodFall
  /-- `RESET_N_ASSERT` (R461) -/
  | resetNAssert
  /-- `RESET_N_RELEASE` (R368) -/
  | resetNRelease
  /-- `ROOT_PLL_UNLOCK` (R442) -/
  | rootPllUnlock
  /-- `FAMILY_PLL_UNLOCK` (R442) -/
  | familyPllUnlock (family : Fin 6)
  /-- `PCIE_PERST_ASSERT` (R471) -/
  | pciePerstAssert (p : Fin 4)
  /-- `PPS_IN_EDGE` (R238) -/
  | ppsInEdge (phase : Fin 16)
  /-- `PPS_MISSING_TIMEOUT` (R238) -/
  | ppsMissingTimeout
  /-- `PPS_OUT_RISE` (R240) -/
  | ppsOutRise
  /-- `PPS_OUT_FALL` (R240) -/
  | ppsOutFall
  /-- `I2C_1_ALERT` (R463) -/
  | i2c1Alert
  /-- `I2C_0_READ` (R473) -/
  | i2c0Read (off : BitVec 27)
  /-- `JTAG_TAP_ACTIVE` (R407) -/
  | jtagTapActive
  /-- `THERMAL_SENSOR_READ` (R437) -/
  | thermalSensorRead (temps : List SensorRead)
  /-- `THERMTRIP_ASSERT` (R466) -/
  | thermtripAssert
  /-- `RAIL_TELEMETRY_READ` (R463) -/
  | railTelemetryRead (watts : List (Option Nat))
  /-- `LOADER_VERIFIED` (R416) -/
  | loaderVerified (setA setB : List Byte)
  /-- `IMAGE_VERIFIED` (R416) -/
  | imageVerified (setA setB : List Byte) (started : Bool)
  /-- `HBM_TRAINING_DONE` (R368) -/
  | hbmTrainingDone (ok : Bool)
  /-- `SERDES_CALIBRATION_DONE` (R368) -/
  | serdesCalibrationDone (failed : BitVec 256)
  /-- `RNG_FIRST_SEED` (R427) -/
  | rngFirstSeed
  /-- `RNG_SEED_TIMEOUT` (R427) -/
  | rngSeedTimeout
  /-- `DRBG_RESEED` (R427) -/
  | drbgReseed (ok : Bool)
  /-- `REG_WRITE` (R13) -/
  | regWrite (q : Requester) (a : Access) (v : Word)
  /-- `REG_READ_LO_LATCH` (R10) -/
  | regReadLoLatch (q : Requester) (a : Access)
  /-- `REG_WRITE_HI_APPLY` (R10) -/
  | regWriteHiApply (q : Requester) (off : BitVec 27) (v : Word)
  /-- `REG_READ_CLEAR` (R13) -/
  | regReadClear (q : Requester) (off : BitVec 27)
  /-- `TOD_NOW_READ` (R236) -/
  | todNowRead (q : Requester)
  /-- `SEAL_WRITE` (R375) -/
  | sealWrite (q : Requester)
  /-- `SEAL_CHECKS_DONE` (R378) -/
  | sealChecksDone
  /-- `RESTART_WRITE` (R390) -/
  | restartWrite (q : Requester)
  /-- `RESTART_COMPLETE` (R390) -/
  | restartComplete
  /-- `TURN_COMMIT_GO` (R385) -/
  | turnCommitGo (q : Requester)
  /-- `TURN_DISCARD` (R388) -/
  | turnDiscard (q : Requester)
  /-- `TURN_BOUNDARY` (R386) -/
  | turnBoundary
  /-- `TURN_DRAIN_DONE` (R73) -/
  | turnDrainDone
  /-- `BANK_COPY_DONE` (R73) -/
  | bankCopyDone
  /-- `PORT_ROLE_WRITE` (R320) -/
  | portRoleWrite (q : Requester) (primary : Fin 4) (roles : BitVec 8)
  /-- `PRIMARY_MOVE` (R320) -/
  | primaryMove
  /-- `ADMIN_RING_ENABLE` (R324) -/
  | adminRingEnable (q : Requester) (p : Fin 4)
  /-- `ADMIN_RING_DISABLE` (R324) -/
  | adminRingDisable (q : Requester) (p : Fin 4)
  /-- `FST_ENABLE` (R120) -/
  | fstEnable (q : Requester)
  /-- `FST_DISABLE` (R120) -/
  | fstDisable (q : Requester)
  /-- `FST_CLEAR_DONE` (R120) -/
  | fstClearDone
  /-- `FST_TAKEOVER_GO` (R117) -/
  | fstTakeoverGo (q : Requester) (slot : Fin 16)
  /-- `STASH_IMAGE_LOADED` (R117) -/
  | stashImageLoaded
  /-- `TAKEOVER_WRITEBACK_DONE` (R117) -/
  | takeoverWritebackDone
  /-- `FSL_REBUILD` (R109) -/
  | fslRebuild (q : Requester) (slice : Fin 17)
  /-- `FSL_SWEEP_NOW` (R121) -/
  | fslSweepNow (q : Requester) (slice : Fin 17)
  /-- `PPL_DRAIN` (R75) -/
  | pplDrain (q : Requester) (n : Fin 32)
  /-- `PORT_ENABLE` (R468) -/
  | portEnable (q : Requester) (g : Fin 32) (p : Fin 6) (speed : Fin 8) (fec : Fin 4) (lane : Fin 8)
  /-- `GATE_CONFIG_CHANGE` (R246) -/
  | gateConfigChange (q : Requester) (l : Fin 256)
  /-- `GATE_CHANGE_CANCEL` (R246) -/
  | gateChangeCancel (q : Requester) (l : Fin 256)
  /-- `GATE_CHANGE_TIME` (R246) -/
  | gateChangeTime (l : Fin 256)
  /-- `GATE_INTERVAL_EXPIRY` (R245) -/
  | gateIntervalExpiry (l : Fin 256)
  /-- `GATE_CYCLE_START` (R245) -/
  | gateCycleStart (l : Fin 256)
  /-- `SHAPER_RATE_WRITE` (R230) -/
  | shaperRateWrite (q : Requester) (off : BitVec 27) (v : Word)
  /-- `SHAPER_BURST_WRITE` (R230) -/
  | shaperBurstWrite (q : Requester) (off : BitVec 27) (v : Word)
  /-- `TOD_STEP` (R236) -/
  | todStep (q : Requester)
  /-- `TOD_OFFSET` (R236) -/
  | todOffset (q : Requester)
  /-- `TOD_STEP_APPLY` (R237) -/
  | todStepApply
  /-- `TOD_REPLICA_CORRECT` (R235) -/
  | todReplicaCorrect (die : Fin 8) (skew : Int)
  /-- `MSC_SA_IN_USE_SET` (R361) -/
  | mscSaInUseSet (q : Requester) (die : Fin 4) (e : Fin 4096)
  /-- `MSC_SA_READY` (R361) -/
  | mscSaReady (die : Fin 4) (e : Fin 4096)
  /-- `MSC_SA_IN_USE_CLEAR` (R361) -/
  | mscSaInUseClear (q : Requester) (die : Fin 4) (e : Fin 4096)
  /-- `MSC_TX_AN_WRITE` (R364) -/
  | mscTxAnWrite (q : Requester) (die : Fin 4) (n : Fin 64) (an : Fin 4)
  /-- `MSC_BULK_GO` (R365) -/
  | mscBulkGo (q : Requester) (die : Fin 4)
  /-- `MSC_BULK_PREPARE_DONE` (R365) -/
  | mscBulkPrepareDone (die : Fin 4)
  /-- `FLT_ACK_WRITE` (R405) -/
  | fltAckWrite (q : Requester) (cls : Fin 64) (clear : Bool)
  /-- `FLT_INJECT_WRITE` (R403) -/
  | fltInjectWrite (q : Requester) (v : Word)
  /-- `FIRST_ERROR_CLEAR` (R398) -/
  | firstErrorClear (q : Requester)
  /-- `FLT_RESTORE_GO` (R406) -/
  | fltRestoreGo (q : Requester) (kind : Fin 8) (inst : Fin 256)
  /-- `RESTORE_SELFTEST_DONE` (R406) -/
  | restoreSelftestDone (pass : Bool)
  /-- `DIGEST_NOW` (R311) -/
  | digestNow (q : Requester)
  /-- `DUO_YIELD_WRITE` (R305) -/
  | duoYieldWrite (q : Requester) (yield : Bool)
  /-- `CORE_RUN_START` (R271) -/
  | coreRunStart (q : Requester) (core : Fin 128)
  /-- `CORE_RUN_STOP` (R271) -/
  | coreRunStop (q : Requester) (core : Fin 128)
  /-- `CORE_STOPPED` (R271) -/
  | coreStopped (core : Fin 128)
  /-- `CORE_RESET` (R271) -/
  | coreReset (q : Requester) (core : Fin 128)
  /-- `DOORBELL` (R335) -/
  | doorbell (p : Fin 4) (off : BitVec 26) (len : Nat) (v : BitVec 64)
  /-- `DOORBELL_INVAL` (R338) -/
  | doorbellInval (p : Fin 4) (r : Fin 16384) (tail : BitVec 16)
  /-- `DOORBELL_ARM` (R343) -/
  | doorbellArm (p : Fin 4) (r : Fin 16384) (tail : BitVec 16)
  /-- `POLL_TAIL_READ` (R337) -/
  | pollTailRead (r : Fin 16384) (v : BitVec 64)
  /-- `DESC_FETCH_DONE` (R338) -/
  | descFetchDone (r : Fin 16384) (ds : Option (List (List Byte)))
  /-- `DATA_READ_DONE` (R349) -/
  | dataReadDone (r : Fin 16384) (x : HostRead)
  /-- `MOD_TIME_EXPIRY` (R343) -/
  | modTimeExpiry (r : Fin 16384)
  /-- `L1_EXIT_START` (R344) -/
  | l1ExitStart (p : Fin 4)
  /-- `HOST_LINK_DOWN` (R348) -/
  | hostLinkDown (p : Fin 4)
  /-- `HOST_FUNCTION_RESET` (R348) -/
  | hostFunctionReset (p : Fin 4) (hot : Bool)
  /-- `HOST_POWER_STATE_CHANGE` (R345) -/
  | hostPowerStateChange (p : Fin 4) (d3 bme : Bool) (pme : PmeWrite) (msix : MsixWrite)
  /-- `TXP_FRAME_ADMIT` (R332) -/
  | txpFrameAdmit (r : Fin 16384)
  /-- `RXP_DELIVER` (R333) -/
  | rxpDeliver (r : Fin 16384)
  /-- `HOST_DMA_RETRY` (R193) -/
  | hostDmaRetry (pipe : Fin 32)
  /-- `CMD_NOP` (R329) -/
  | cmdNop (r : Fin 16384) (q : Cmd)
  /-- `CMD_RESERVED_OPCODE` (R329) -/
  | cmdReservedOpcode (r : Fin 16384) (opc : Fin 128) (q : Cmd)
  /-- `RING_CREATE` (R325) -/
  | ringCreate (r : Fin 16384) (q : Cmd)
  /-- `RING_DESTROY` (R326) -/
  | ringDestroy (r : Fin 16384) (q : Cmd)
  /-- `RING_QUERY` (R326) -/
  | ringQuery (r : Fin 16384) (q : Cmd)
  /-- `FLOW_INSERT` (R113) -/
  | flowInsert (r : Fin 16384) (q : Cmd)
  /-- `FLOW_MODIFY` (R113) -/
  | flowModify (r : Fin 16384) (q : Cmd)
  /-- `FLOW_DELETE` (R113) -/
  | flowDelete (r : Fin 16384) (q : Cmd)
  /-- `FLOW_QUERY` (R113) -/
  | flowQuery (r : Fin 16384) (q : Cmd)
  /-- `NAT_POOL_SET` (R140) -/
  | natPoolSet (r : Fin 16384) (q : Cmd)
  /-- `NAT_PORT_FREE` (R143) -/
  | natPortFree (r : Fin 16384) (q : Cmd)
  /-- `BE_GROUP_SET` (R146) -/
  | beGroupSet (r : Fin 16384) (q : Cmd)
  /-- `BE_SLOT_SET` (R146) -/
  | beSlotSet (r : Fin 16384) (q : Cmd)
  /-- `BACKEND_SET` (R146) -/
  | backendSet (r : Fin 16384) (q : Cmd)
  /-- `PROG_LOAD` (R122) -/
  | progLoad (r : Fin 16384) (q : Cmd)
  /-- `TMPL_SET` (R154) -/
  | tmplSet (r : Fin 16384) (q : Cmd)
  /-- `PARSE_SET` (R329) -/
  | parseSet (r : Fin 16384) (q : Cmd)
  /-- `CLS_SET` (R329) -/
  | clsSet (r : Fin 16384) (q : Cmd)
  /-- `FDB_SET` (R184) -/
  | fdbSet (r : Fin 16384) (q : Cmd)
  /-- `FDB_DELETE` (R184) -/
  | fdbDelete (r : Fin 16384) (q : Cmd)
  /-- `FDB_QUERY` (R184) -/
  | fdbQuery (r : Fin 16384) (q : Cmd)
  /-- `FDB_FLUSH` (R184) -/
  | fdbFlush (r : Fin 16384) (q : Cmd)
  /-- `BD_SET` (R184) -/
  | bdSet (r : Fin 16384) (q : Cmd)
  /-- `LPM_ADD` (R178) -/
  | lpmAdd (r : Fin 16384) (q : Cmd)
  /-- `LPM_DELETE` (R178) -/
  | lpmDelete (r : Fin 16384) (q : Cmd)
  /-- `NH_SET` (R184) -/
  | nhSet (r : Fin 16384) (q : Cmd)
  /-- `ECMP_GROUP_SET` (R184) -/
  | ecmpGroupSet (r : Fin 16384) (q : Cmd)
  /-- `ECMP_MEMBER_SET` (R184) -/
  | ecmpMemberSet (r : Fin 16384) (q : Cmd)
  /-- `ECMP_MEMBER_DOWN` (R180) -/
  | ecmpMemberDown (r : Fin 16384) (q : Cmd)
  /-- `ECMP_MEMBER_UP` (R180) -/
  | ecmpMemberUp (r : Fin 16384) (q : Cmd)
  /-- `SUB_SET` (R181) -/
  | subSet (r : Fin 16384) (q : Cmd)
  /-- `SUB_QUERY` (R181) -/
  | subQuery (r : Fin 16384) (q : Cmd)
  /-- `POLICER_SET` (R231) -/
  | policerSet (r : Fin 16384) (q : Cmd)
  /-- `POLICER_QUERY` (R231) -/
  | policerQuery (r : Fin 16384) (q : Cmd)
  /-- `GCL_SET` (R244) -/
  | gclSet (r : Fin 16384) (q : Cmd)
  /-- `STEER_SET` (R286) -/
  | steerSet (r : Fin 16384) (q : Cmd)
  /-- `STEER_QUERY` (R315) -/
  | steerQuery (r : Fin 16384) (q : Cmd)
  /-- `PROMOTE` (R309) -/
  | promote (r : Fin 16384) (q : Cmd)
  /-- `CORE_LOAD` (R274) -/
  | coreLoad (r : Fin 16384) (q : Cmd)
  /-- `ATTEST` (R423) -/
  | attest (r : Fin 16384) (q : Cmd)
  /-- `TAG_WRITE` (R425) -/
  | tagWrite (r : Fin 16384) (q : Cmd)
  /-- `OWNER_ENROL` (R418) -/
  | ownerEnrol (r : Fin 16384) (q : Cmd)
  /-- `KEY_TREE_GEN_DONE` (R420) -/
  | keyTreeGenDone
  /-- `WORK_GET` (R266) -/
  | workGet (core : Fin 128)
  /-- `WORK_ARM` (R266) -/
  | workArm (core : Fin 128) (v : BitVec 64)
  /-- `WORK_DONE_DROP` (R267) -/
  | workDoneDrop (core : Fin 128) (slot : Fin 4) (reserved : Bool)
  /-- `WORK_DONE_INJECT` (R267) -/
  | workDoneInject (core : Fin 128) (slot : Fin 4) (v : BitVec 60) (held : List Byte)
  /-- `WORK_DONE_DELIVER` (R267) -/
  | workDoneDeliver (core : Fin 128) (slot : Fin 4) (v : BitVec 60) (held : List Byte)
  /-- `WORK_DONE_FORWARD` (R267) -/
  | workDoneForward (core : Fin 128) (slot : Fin 4) (v : BitVec 60)
  /-- `WORK_BUF_ALLOC` (R266) -/
  | workBufAlloc (core : Fin 128)
  /-- `WORK_BUF_FREE` (R266) -/
  | workBufFree (core : Fin 128) (v : BitVec 64)
  /-- `WORK_POST_GO` (R266) -/
  | workPostGo (core : Fin 128) (staged : List Byte) (held : List Byte)
  /-- `CLUSTER_CMD_SUBMIT` (R272) -/
  | clusterCmdSubmit (core : Fin 128) (opc : Fin 128) (q : Cmd)
  /-- `WORK_ITEM_ADMIT` (R265) -/
  | workItemAdmit (src : WorkSrc)
  /-- `OUTPUT_RELEASE` (R269) -/
  | outputRelease
  /-- `SVC_TIMEOUT` (R275) -/
  | svcTimeout (core : Fin 128) (slot : Fin 4)
  /-- `FRAME_ARRIVAL` (R48) -/
  | frameArrival (l : Fin 256) (f : List Byte) (err more : Bool)
  /-- `CT_TAIL_ARRIVAL` (R49) -/
  | ctTailArrival (l : Fin 256) (err : Bool)
  /-- `PACKET_PARSE` (R47) -/
  | packetParse (pipe : Fin 32)
  /-- `FLOW_RESPONSE` (R65) -/
  | flowResponse (pipe : Fin 32) (idx : Fin 2048)
  /-- `HOLD_TIMEOUT` (R67) -/
  | holdTimeout (pipe : Fin 32) (idx : Fin 2048)
  /-- `RECIRC_REENTER` (R71) -/
  | recircReenter (pipe : Fin 32)
  /-- `PUNT_TRANSFER` (R264) -/
  | puntTransfer (pipe : Fin 32)
  /-- `CROSS_DIE_ARRIVAL` (R30) -/
  | crossDieArrival (die : Fin 2)
  /-- `PARK_RELEASE` (R295) -/
  | parkRelease
  /-- `DEQUEUE_SELECT` (R224) -/
  | dequeueSelect (l : Fin 256)
  /-- `FRAME_TX_DONE` (R195) -/
  | frameTxDone (l : Fin 256)
  /-- `MCAST_RELEASE` (R198) -/
  | mcastRelease (die : Fin 2)
  /-- `SPILL_WRITE` (R207) -/
  | spillWrite (die : Fin 2)
  /-- `PAGE_RETURN` (R208) -/
  | pageReturn (q : Fin 131072)
  /-- `PAGE_QUEUE_REFILL` (R202) -/
  | pageQueueRefill (k : Fin 8)
  /-- `TALLY_PASS_START` (R215) -/
  | tallyPassStart (die : Fin 2)
  /-- `TALLY_PASS_DONE` (R215) -/
  | tallyPassDone (die : Fin 2)
  /-- `PAGE_TALLY_START` (R216) -/
  | pageTallyStart
  /-- `PAGE_TALLY_DONE` (R216) -/
  | pageTallyDone
  /-- `LEARN_PROCESS` (R174) -/
  | learnProcess (die : Fin 2)
  /-- `FDB_AGE_TICK` (R176) -/
  | fdbAgeTick (die : Fin 2)
  /-- `SLICE_REQUEST` (R93) -/
  | sliceRequest (pipe : Fin 32) (region : Fin 16)
  /-- `HBM_BUCKET_READ_DONE` (R94) -/
  | hbmBucketReadDone (region : Fin 16) (b : BitVec 24)
  /-- `RECORD_MOVE` (R99) -/
  | recordMove (region : Fin 16)
  /-- `STASH_RETRY` (R103) -/
  | stashRetry (region : Fin 16)
  /-- `WRITEBACK_APPLY` (R111) -/
  | writebackApply (region : Fin 16)
  /-- `WRITEBACK_HOLD_EXPIRY` (R111) -/
  | writebackHoldExpiry
  /-- `GUARD_LAPSE` (R112) -/
  | guardLapse (region : Fin 16)
  /-- `COMPANION_INSERT` (R142) -/
  | companionInsert
  /-- `COMPANION_DELETE_CONFIRM` (R143) -/
  | companionDeleteConfirm
  /-- `NAT_QUEUE_REFILL` (R141) -/
  | natQueueRefill (pool : Fin 1024)
  /-- `AGE_TICK` (R106) -/
  | ageTick
  /-- `SWEEP_DUE` (R108) -/
  | sweepDue
  /-- `SWEEP_PASS_START` (R108) -/
  | sweepPassStart (region : Fin 16)
  /-- `AGE_OUT` (R110) -/
  | ageOut (region : Fin 16)
  /-- `SWEEP_PASS_END` (R109) -/
  | sweepPassEnd (region : Fin 16)
  /-- `IPFIX_FLUSH` (R159) -/
  | ipfixFlush (n : Fin 16)
  /-- `IPFIX_TEMPLATE_REFRESH` (R159) -/
  | ipfixTemplateRefresh
  /-- `HELLO_SEND` (R302) -/
  | helloSend (p : Fin 8)
  /-- `SYNC_FRAME_RX` (R279) -/
  | syncFrameRx (l : Fin 256) (f : List Byte)
  /-- `HELLO_RX` (R303) -/
  | helloRx (p : Fin 8)
  /-- `REC_UPDATE_RX` (R294) -/
  | recUpdateRx (p : Fin 8)
  /-- `REC_DELETE_RX` (R294) -/
  | recDeleteRx (p : Fin 8)
  /-- `CTR_DELTA_RX` (R297) -/
  | ctrDeltaRx (p : Fin 8)
  /-- `ACK_RX` (R291) -/
  | ackRx (p : Fin 8)
  /-- `BULK_RX` (R313) -/
  | bulkRx (p : Fin 8)
  /-- `RECONCILE_RX` (R311) -/
  | reconcileRx (p : Fin 8)
  /-- `STEER_MSG_RX` (R309) -/
  | steerMsgRx (p : Fin 8)
  /-- `STEERED_FRAME_RX` (R285) -/
  | steeredFrameRx (l : Fin 256) (f : List Byte) (uncontrolled : Bool)
  /-- `SYNC_FRAME_TX` (R290) -/
  | syncFrameTx (p : Fin 8) (path : Fin 2)
  /-- `ACK_SEND` (R291) -/
  | ackSend (p : Fin 8)
  /-- `RETX_TIMEOUT` (R291) -/
  | retxTimeout (p : Fin 8)
  /-- `LEASE_CHECK` (R302) -/
  | leaseCheck
  /-- `STRICT_WAIT_EXPIRY` (R295) -/
  | strictWaitExpiry (p : Fin 8)
  /-- `MIRROR_RETRY` (R296) -/
  | mirrorRetry (region : Fin 16)
  /-- `DIGEST_PERIOD_EXPIRY` (R311) -/
  | digestPeriodExpiry (p : Fin 8)
  /-- `LINK_RETRAIN_FAIL` (R28) -/
  | linkRetrainFail (link : Fin 18) (module : Fin 2) (ok : Bool)
  /-- `FAULT_TICK_PROCESS` (R396) -/
  | faultTickProcess (hs : List Hazard) (inj : List (BitVec 32 × BitVec 32))
  /-- `QUIET_TIMER_EXPIRY` (R405) -/
  | quietTimerExpiry (cls : Fin 64)
  /-- `HEALTH_TOGGLE` (R408) -/
  | healthToggle
  /-- `PC_COPY_DONE` (R400) -/
  | pcCopyDone (stack : Fin 6)
  /-- `HEAVY_OP_REQUEST` (R432) -/
  | heavyOpRequest (op : Fin 12) (unit : Nat)
  /-- `HEAVY_OP_RELEASE` (R430) -/
  | heavyOpRelease (op : Fin 12) (unit : Nat)
  /-- `GOVERNOR_EVAL` (R430) -/
  | governorEval
  /-- `DEFER_TIMEOUT` (R433) -/
  | deferTimeout
  /-- `SCRUB_PASS_DUE` (R439) -/
  | scrubPassDue (stack : Fin 6)
  /-- `SCRUB_PASS_END` (R439) -/
  | scrubPassEnd (stack : Fin 6)
  /-- `DUMP_LATCH` (R447) -/
  | dumpLatch (set : Fin 16)
  /-- `LATENCY_SAMPLE_WALK` (R249) -/
  | latencySampleWalk (die : Fin 2)
  /-- `TRACE_BATCH_FLUSH` (R452) -/
  | traceBatchFlush (src : Fin 48)
  /-- `SWEEPER_VISIT` (R108) -/
  | sweeperVisit (region : Fin 16)
  /-- `D2D_LINK_TRAINING_DONE` (R368) -/
  | d2dLinkTrainingDone (ok : Bool)
  /-- `HOST_LINK_UP` (R320) -/
  | hostLinkUp (p : Fin 4)
  /-- `LINK_L1_ENTRY` (R344) -/
  | linkL1Entry (p : Fin 4) (sub : Fin 3)
  /-- `LINK_L0_RETURN` (R344) -/
  | linkL0Return (p : Fin 4)
  /-- `JTAG_TAP_RESET` (R407) -/
  | jtagTapReset
  /-- `HEALTH_LOW_HOLD_EXPIRY` (R408) -/
  | healthLowHoldExpiry
  /-- `STEERING_ENTRY_RESTORE` (R395) -/
  | steeringEntryRestore (e : Fin 65536)
deriving DecidableEq, Repr

end Sys2Proof
end

