-- ==== Sys2Proof/Decode.lean ====
section
/-! DEFINITION. The commands that words spell by the table's bits. No row of the table gives bits: the commands of this hardware are
register accesses, ring and bus events, and the passing of time, none of which is a word. -/
namespace Sys2Proof

/-- No row gives bits. -/
def decodeTableWord (_nbits _w : Nat) : Option Instr := none

end Sys2Proof
end

