-- ==== Sys2Proof/Config.lean ====
section
/-! DEFINITION. What the spec leaves open: constants without a body, so that nothing can evaluate them. A drawn value takes
the state's draw counter as its argument (notes/assumptions/3.md); a value that depends on operands takes them. -/
namespace Sys2Proof.Config

/-- The `n`-th 64-bit value drawn from the random source (R427): seeds, `BOOT_ID`, sampler draws. -/
opaque random : Nat → BitVec 64

/-- A free value of a result the spec does not state, by draw. -/
opaque freeValue : Nat → BitVec 64

/-- Whether a die's spill meets the page manager's back-pressure (R26, R209): it depends on the room that flow requests leave on the link, which is
time the model does not show; a fresh value for each attempt. -/
opaque spillPressed : Nat → Bool

/-- The reports that a die agent's upward queue holds beside the first (R40). -/
opaque upwardRoom : Nat

/-- `HBM_SCRUB_CFG` (R439): whether stacks are scrubbed, and every how many hours. The spec names the register and gives it no offset, field places or
reset value (notes/assumptions/56.md). -/
opaque scrubEn : Bool
opaque scrubHours : Nat

/-- Whether the copy of a pseudo-channel finds a line that it cannot read (R400), by the copy's draw and the line: 0 a place of a record, 1 a page,
by their numbers. -/
opaque lineLost : (draw kind line : Nat) → Bool

/-- Whether a bundle's XMSS signature verifies under the public key it carries (R410, R411): RFC 8391 is named, not stated. -/
opaque xmssVerify : (key msg sig : List Byte) → Bool

/-- The XMSSMT signature of a message by the device's key at a leaf (R422), with the randomness that the random source supplies (R427). -/
opaque xmssSign : (tree leaf : Nat) → (rand msg : List Byte) → List Byte

/-- The attestation public key of a key tree (R420, R423). -/
opaque attestKey : (tree : Nat) → List Byte

/-- AES-GCM of MACsec (R352, IEEE 802.1AE-2018): protects the text under a key and an initialisation vector, with what is only
authenticated; the result is the ciphertext and the 16-byte ICV. -/
opaque gcmSeal : (key iv aad text : List Byte) → List Byte × List Byte

/-- AES-GCM opened: the plain text where the ICV verifies. -/
opaque gcmOpen : (key iv aad text icv : List Byte) → Option (List Byte)

end Sys2Proof.Config
end

