-- ==== Sys2Proof/Machine/Bits.lean ====
section
/-! DEFINITION. Bit fields, bytes in big-endian order (R18) and the sparse tables the state is held in. -/
namespace Sys2Proof.Machine

/-- Bits `hi`..`lo` of a number, bit 0 the least significant (R9). -/
def bits (n hi lo : Nat) : Nat := n / 2 ^ lo % 2 ^ (hi + 1 - lo)

/-- `n` with bits `hi`..`lo` replaced by the low bits of `v`. -/
def putBits (n hi lo v : Nat) : Nat := n - bits n hi lo * 2 ^ lo + v % 2 ^ (hi + 1 - lo) * 2 ^ lo

/-- One bit of a number. -/
def bit (n i : Nat) : Bool := n / 2 ^ i % 2 == 1

/-- The two's complement value of the low `w` bits of `n`. -/
def toSigned (w n : Nat) : Int :=
  if n % 2 ^ w < 2 ^ (w - 1) then (n % 2 ^ w : Nat) else ((n % 2 ^ w : Nat) : Int) - (2 ^ w : Nat)

/-- 1 for true. -/
def b2n (b : Bool) : Nat := if b then 1 else 0

/-- The number a big-endian byte string holds (R18). -/
def beNat (b : List Byte) : Nat := b.foldl (fun a x => a * 256 + x.toNat) 0

/-- `n` bytes, big-endian (R18). -/
def beBytes : Nat → Nat → List Byte
  | 0, _ => []
  | n + 1, v => beBytes n (v / 256) ++ [BitVec.ofNat 8 v]

/-- Bytes `off` to `off + n - 1`. -/
def slice (b : List Byte) (off n : Nat) : List Byte := (b.drop off).take n

/-- The big-endian number of `n` bytes at `off`. -/
def be (b : List Byte) (off n : Nat) : Nat := beNat (slice b off n)

/-- The byte at `off`, 0 past the end. -/
def byteAt (b : List Byte) (off : Nat) : Nat := (b.getD off 0).toNat

/-- `b` with the bytes at `off` replaced by `x`. -/
def splice (b : List Byte) (off : Nat) (x : List Byte) : List Byte :=
  b.take off ++ x ++ b.drop (off + x.length)

/-- Bitwise exclusive or of two byte strings of one length. -/
def xorBytes (a b : List Byte) : List Byte := List.zipWith (fun x y => x ^^^ y) a b

/-- The numbers `0` to `n - 1` for which `p` holds. -/
def pick (n : Nat) (p : Nat → Bool) : List Nat := (List.range n).filter p

/-- The lowest number below `n` for which `p` holds. -/
@[irreducible] def lowest? (n : Nat) (p : Nat → Bool) : Option Nat := (List.range n).find? p

/-- A list with its entry `i` replaced. -/
def setAt {α : Type} (l : List α) (i : Nat) (x : α) : List α := l.set i x

/-- Ceiling of a quotient. -/
def ceilDiv (a b : Nat) : Nat := (a + b - 1) / b

/-- A sparse table: pairs of key and value, keys strictly rising. What an unlisted key holds is the reader's default. -/
abbrev Tbl (α : Type) := List (Nat × α)

namespace Tbl
variable {α : Type}

/-- The entry of a key. -/
def find : Tbl α → Nat → Option α
  | [], _ => none
  | (k, v) :: t, i => if i = k then some v else if i < k then none else find t i

/-- Enters a value under a key, replacing what was there. -/
def ins : Tbl α → Nat → α → Tbl α
  | [], i, x => [(i, x)]
  | (k, v) :: t, i, x =>
    if i < k then (i, x) :: (k, v) :: t else if i = k then (i, x) :: t else (k, v) :: ins t i x

/-- Removes a key. -/
def del : Tbl α → Nat → Tbl α
  | [], _ => []
  | (k, v) :: t, i => if i < k then (k, v) :: t else if i = k then t else (k, v) :: del t i

/-- What a table with default `d` holds under a key. -/
def look (d : α) (t : Tbl α) (i : Nat) : α := (find t i).getD d

/-- Writes a table with default `d`: writing the default removes the entry. -/
def put [DecidableEq α] (d : α) (t : Tbl α) (i : Nat) (x : α) : Tbl α := if x = d then del t i else ins t i x

/-- Applies a function to what a key holds. -/
def upd [DecidableEq α] (d : α) (t : Tbl α) (i : Nat) (f : α → α) : Tbl α := put d t i (f (look d t i))

/-- Keys strictly rising: the canonical form of a table without a default. -/
def rising : Tbl α → Bool
  | [] => true
  | [_] => true
  | (k, _) :: (k', v) :: t => decide (k < k') && rising ((k', v) :: t)

/-- The canonical form of a table with a default: keys rising, and no entry that equals its default. -/
def canon [DecidableEq α] (d : Nat → α) (t : Tbl α) : Bool := rising t && t.all fun e => decide (e.2 ≠ d e.1)

/-- The entries whose key and value satisfy `p`. -/
def keep (t : Tbl α) (p : Nat → α → Bool) : Tbl α := t.filter fun e => p e.1 e.2

/-- The keys. -/
def keys (t : Tbl α) : List Nat := t.map (·.1)

end Tbl

end Sys2Proof.Machine
end

