-- ==== Sys2Proof/Machine/Hash.lean ====
section
/-! DEFINITION. The hash and check functions the spec names: SipHash-2-4 (R63), CRC-16/CCITT (R86), CRC-32C, the Ethernet
FCS, the one's complement checksum, SHAKE256 (R379). PRESUMED (notes/assumptions/1.md): the spec names these published functions
and does not restate them. -/
namespace Sys2Proof.Machine

/-- A word of SipHash and of Keccak. -/
abbrev W64 := BitVec 64

/-- The number a little-endian byte string holds. -/
def leNat (b : List Byte) : Nat := beNat b.reverse

/-- `n` bytes, little-endian. -/
def leBytes (n v : Nat) : List Byte := (beBytes n v).reverse

/-- One SipRound. -/
def sipRound (v : W64 × W64 × W64 × W64) : W64 × W64 × W64 × W64 :=
  let (a, b, c, d) := v
  let a := a + b
  let b := b.rotateLeft 13 ^^^ a
  let a := a.rotateLeft 32
  let c := c + d
  let d := d.rotateLeft 16 ^^^ c
  let a := a + d
  let d := d.rotateLeft 21 ^^^ a
  let c := c + b
  let b := b.rotateLeft 17 ^^^ c
  let c := c.rotateLeft 32
  (a, b, c, d)

/-- One 8-byte message word of SipHash-2-4. -/
def sipWord (v : W64 × W64 × W64 × W64) (m : W64) : W64 × W64 × W64 × W64 :=
  let (a, b, c, d) := v
  let (a, b, c, d) := sipRound (sipRound (a, b, c, d ^^^ m))
  (a ^^^ m, b, c, d)

/-- The full message words of `n` × 8 bytes. -/
def sipWords : Nat → List Byte → List W64
  | 0, _ => []
  | n + 1, b => BitVec.ofNat 64 (leNat (b.take 8)) :: sipWords n (b.drop 8)

/-- SipHash-2-4 of a byte string under a 16-byte key (R63). -/
def sipHash24 (key msg : List Byte) : W64 :=
  let k0 : W64 := BitVec.ofNat 64 (leNat (key.take 8))
  let k1 : W64 := BitVec.ofNat 64 (leNat (slice key 8 8))
  let n := msg.length / 8
  let lastW : W64 := BitVec.ofNat 64 (msg.length % 256 * 2 ^ 56 + leNat (msg.drop (8 * n)))
  let v0 : W64 × W64 × W64 × W64 :=
    (k0 ^^^ 0x736f6d6570736575#64, k1 ^^^ 0x646f72616e646f6d#64, k0 ^^^ 0x6c7967656e657261#64, k1 ^^^ 0x7465646279746573#64)
  let (a, b, c, d) := (sipWords n msg ++ [lastW]).foldl sipWord v0
  let (a, b, c, d) := sipRound (sipRound (sipRound (sipRound (a, b, c ^^^ 0xff#64, d))))
  a ^^^ b ^^^ c ^^^ d

/-- Shifts one bit into a CRC register kept most significant bit first, of `w` bits and polynomial `p`. -/
def crcBit (w p : Nat) (c : Nat) (b : Bool) : Nat :=
  let top := bit c (w - 1) != b
  let s := c * 2 % 2 ^ w
  if top then Nat.xor s p else s

/-- Shifts the bits of a byte in, most significant first. -/
def crcByteMsb (w p c : Nat) (x : Byte) : Nat :=
  (List.range 8).foldl (fun a i => crcBit w p a (bit x.toNat (7 - i))) c

/-- Shifts the bits of a byte in, least significant first. -/
def crcByteLsb (w p c : Nat) (x : Byte) : Nat :=
  (List.range 8).foldl (fun a i => crcBit w p a (bit x.toNat i)) c

/-- The low `w` bits of a number in reverse order. -/
def bitRev (w n : Nat) : Nat := (List.range w).foldl (fun a i => a * 2 + b2n (bit n i)) 0

/-- CRC-16/CCITT with initial value 0xFFFF (R86). -/
def crc16 (b : List Byte) : Nat := b.foldl (crcByteMsb 16 0x1021) 0xFFFF

/-- A reflected 32-bit CRC of polynomial `p`, initial value and final exclusive or all ones. -/
def crc32With (p : Nat) (b : List Byte) : Nat := Nat.xor (bitRev 32 (b.foldl (crcByteLsb 32 p) 0xFFFF_FFFF)) 0xFFFF_FFFF

/-- The Ethernet frame check sequence. -/
def crc32 (b : List Byte) : Nat := crc32With 0x04C1_1DB7 b

/-- CRC-32C. -/
def crc32c (b : List Byte) : Nat := crc32With 0x1EDC_6F41 b

/-- The sum of the 16-bit words of a byte string, an odd last byte padded with 0. -/
def sum16 : List Byte → Nat
  | [] => 0
  | [a] => a.toNat * 256
  | a :: b :: t => a.toNat * 256 + b.toNat + sum16 t

/-- Folds a sum to 16 bits in one's complement. -/
def fold16 (n : Nat) : Nat :=
  let a := n / 65536 + n % 65536
  let b := a / 65536 + a % 65536
  b / 65536 + b % 65536

/-- The Internet checksum of a byte string. -/
def inetSum (b : List Byte) : Nat := 65535 - fold16 (sum16 b)

/-! SHAKE256 -/

/-- The lane at column `x`, row `y`. -/
def kLane (a : List W64) (x y : Nat) : W64 := a.getD (x % 5 + 5 * (y % 5)) 0

/-- The rotations of rho, lane by lane. -/
def kRho : List Nat := [0, 1, 62, 28, 27, 36, 44, 6, 55, 20, 3, 10, 43, 25, 39, 41, 45, 15, 21, 8, 18, 2, 61, 56, 14]

/-- The round constants of iota. -/
def kRc : List W64 :=
  [0x0000000000000001#64, 0x0000000000008082#64, 0x800000000000808A#64, 0x8000000080008000#64, 0x000000000000808B#64,
   0x0000000080000001#64, 0x8000000080008081#64, 0x8000000000008009#64, 0x000000000000008A#64, 0x0000000000000088#64,
   0x0000000080008009#64, 0x000000008000000A#64, 0x000000008000808B#64, 0x800000000000008B#64, 0x8000000000008089#64,
   0x8000000000008003#64, 0x8000000000008002#64, 0x8000000000000080#64, 0x000000000000800A#64, 0x800000008000000A#64,
   0x8000000080008081#64, 0x8000000000008080#64, 0x0000000080000001#64, 0x8000000080008008#64]

/-- One round of Keccak-f[1600]. -/
def kRound (a : List W64) (rc : W64) : List W64 :=
  let col := (List.range 5).map fun x => kLane a x 0 ^^^ kLane a x 1 ^^^ kLane a x 2 ^^^ kLane a x 3 ^^^ kLane a x 4
  let dd := (List.range 5).map fun x => col.getD ((x + 4) % 5) 0 ^^^ (col.getD ((x + 1) % 5) 0).rotateLeft 1
  let th := (List.range 25).map fun i => a.getD i 0 ^^^ dd.getD (i % 5) 0
  let rot := (List.range 25).map fun i => (th.getD i 0).rotateLeft (kRho.getD i 0)
  -- pi: lane (x, y) of the result comes from lane ((x + 3 y) mod 5, x)
  let pi := (List.range 25).map fun i => kLane rot (i % 5 + 3 * (i / 5)) (i % 5)
  let chi := (List.range 25).map fun i =>
    let x := i % 5; let y := i / 5
    kLane pi x y ^^^ (~~~(kLane pi (x + 1) y) &&& kLane pi (x + 2) y)
  match chi with
  | h :: t => (h ^^^ rc) :: t
  | [] => []

/-- Keccak-f[1600]. -/
def keccakF (a : List W64) : List W64 := kRc.foldl kRound a

/-- Absorbs `n` blocks of 136 bytes. -/
def kAbsorb : Nat → List W64 → List Byte → List W64
  | 0, a, _ => a
  | n + 1, a, b =>
    let blk := sipWords 17 (b.take 136)
    kAbsorb n (keccakF ((List.range 25).map fun i => a.getD i 0 ^^^ blk.getD i 0)) (b.drop 136)

/-- SHAKE256 with `n` ≤ 136 bytes of output (R379, R412). -/
@[irreducible] def shake256 (n : Nat) (msg : List Byte) : List Byte :=
  let padLen := 136 - msg.length % 136
  let pad : List Byte :=
    if padLen = 1 then [0x9F] else [0x1F] ++ List.replicate (padLen - 2) 0 ++ [0x80]
  let m := msg ++ pad
  let a := kAbsorb (m.length / 136) (List.replicate 25 0) m
  (a.flatMap fun w => leBytes 8 w.toNat).take n

end Sys2Proof.Machine
end

