-- ==== Sys2Proof/Machine/RegMap.lean ====
section
/-! DEFINITION. The BAR0 register map of R43: every register the spec's register tables name (one constructor of
`Reg` for each), the place of its instances, and every field with its bits, access code (R13), class (R16), reset value
(R14) and the encodings the table does not reserve (R12). Counters (64-bit `_LO`/`_HI` pairs) are rows of their own. -/
namespace Sys2Proof.Machine

/-- Access codes of register fields (R13). -/
inductive Acc | rw | ro | wo | w1c | w1s | rc | rwl
deriving DecidableEq, Repr

/-- Field classes (R16); `none` is the "-" of a status field. -/
inductive Cls | s | t | l | none
deriving DecidableEq, Repr

/-- The values of a field that are no reserved encoding (R12). -/
inductive Chk
  | any
  | range (lo hi : Nat)
  | nonzero
  /-- two's complement of the field's width, of magnitude at most `n` -/
  | signed (n : Nat)
  | align4
deriving DecidableEq, Repr

/-- Every register of the map. A `pmc…` register belongs to a counter bank (R443, R455); its first index is the bank. -/
inductive Reg
  | glbPartId | glbCaps | glbBootStat | glbSeal | glbSealStatus | glbRestart
  | glbDeviceId | glbLaneFail | glbSealDigest | glbCfgRefused | glbCfgRefusedInfo | glbCfgRefusedCnt
  | glbReadBank | glbTurnCommit | glbTurnStat | glbTurnWhere | glbTurnTimeNs | glbTurnTimeSecLo
  | glbTurnTimeSecHi | fltFirstSrc | fltFirstSev | fltFirstTimeLo | fltFirstTimeHi | fltFirstInj
  | fltFirstInfo | fltOverflow | fltAck | fltInject | fltQuietTime | fltRecoveryCount
  | fltHealthCfg | fltStat | fltRestore | fltClassStat | fltClassCnt | pwrBudget
  | pwrCtrl | pwrStat | pwrGrantStatus | pwrThermCfg | pwrOp | pwrTemp
  | pwrClkGate0 | pwrClkGate1 | pwrClkStat | pwrCnt | todCtrl | todStat
  | todNowNs | todNowFrac | todNowSecLo | todNowSecHi | todSetNs | todSetFrac
  | todSetSecLo | todSetSecHi | todAdj | todOffset | todPpsCfg | todPpsWindow
  | todPpsCapNs | todPpsCapFrac | todPpsCapSecLo | todPpsCapSecHi | todPpsOutCfg | todPpsEdges
  | todPpsGlitch | todPpsReject | hifPortRole | hifPollPeriod | hifPrefetchStat | hifEvtRoute
  | hifAdminBaseLo | hifAdminBaseHi | hifAdminCfg | hifAdminStat | hifPortStat | hifDenied
  | hifCnt | hifMsixPba | hifMsixAddr | hifMsixUpper | hifMsixData | hifMsixCtrl
  | secStat | secLeafLo | secLeafHi | secTagWrites | secSerial | secIdcode
  | secLotLo | secLotHi | secMeas | secTag | pmuTraceRings | pmuDumpCfg
  | pmuDumpPeriod | pmuDumpSel | pmuDumpSeq | pmuTracePpl | pmuTraceCore | pmuCnt
  | prtPortCfg | prtLanePol | prtPtpAdj | mscCtrl | mscBulkCtrl | mscPnNear
  | mscCnt | mscSecyCfg | mscSecyTx | mscSecyWin | mscSecySciLo | mscSecySciHi
  | mscRxscCfg | mscRxscSciLo | mscRxscSciHi | mscSaCtrl | mscSaSsci | mscSaPnLo
  | mscSaPnHi | mscSaKey | mscSaSalt | pplCtrl | pplHoldCfg | pplTurnStat
  | pplHoldStat | pplUnresDrop | pplUnresDefault | pplPortCfg | pplPortDefLo | pplPortDefHi
  | pplRangeCfg | pplRangeBounds | pplZprof | pplReason | pplReasonCnt | pplPuntDrop
  | tmgQcfgA | tmgQcfgB | tmgQcfgC | tmgQstat | tmgNat64Pfx0 | tmgNat64Pfx12
  | tmgActDrop | tmgMirror | tmgSampler | tmgCellFree | tmgCellQueued | tmgCellInflight
  | tmgPool | tmgPoolUsed | tmgIngLimit | tmgBufLatch | tmgBufLatchAddr | tmgTallyCfg
  | tmgTallyStat | tmgTallyLeakPtr | tmgEditConflict | tmgPtpMiss | tmgCnt | schSubCfg
  | schSubCir | schSubPir | schSubBurst | schSubQ | schSvcCfg | schSvcCir
  | schSvcPir | schSvcBurst | schPortCfg | schPortPir | schPortBurst | schGateCtrl
  | schGateBaseNs | schGateBaseSecLo | schGateBaseSecHi | schGateCycle | schGateExt | schGateChgNs
  | schGateChgSecLo | schGateChgSecHi | schGateOper | schSampleCfg | schCnt | fslCtrl
  | fslStat | fslOcc | fslCompactCnt | fslWideCnt | fslCheckAddr | fslCnt
  | fstCtrl | fstStat | fstMaxKicks | fstAgeCfg | fstSweepCfg | fstAgeNow
  | fstGuardCfg | fstSeed | fstSaveBaseLo | fstSaveBaseHi | fstTakeover | fslSliceMap
  | fstTprof | fstTprofAct | fstIns | fstNatBase | fstBeCfg | fstIpfixCfg
  | fstIpfixDomain | fstIpfixTimers | fstCnt | fstColl | fstCollZlo | fstCollZhi
  | fwdStat | fwdFdbAge | fwdFdbNow | fwdLearnCfg | fwdRmacLo | fwdRmacHi
  | fwdMtu | fwdLport | fwdEgr | fwdCnt | fwdSubBase | fwdSubValid
  | duoCtrl | duoStat | duoTimers | duoSyncCfg | duoYieldMask | duoMacLo
  | duoMacHi | duoRetxBase | duoPartnerCfg | duoPartnerPort | duoPartnerSqid | duoPartnerTqid
  | duoPartnerAsqid | duoPartnerAtqid | duoPartnerMacLo | duoPartnerMacHi | duoPartnerStat | duoPartnerBoot
  | duoCnt | tskCtrl | tskStat | tskMemBase | tskHistSel | tskHistBin
  | tskPuntRoute | tskAgeRoute | tskGroupCfg | tskCoreCtrl | tskCoreStat | tskCoreBusy
  | tskWqCfg | tskWqLimit | tskWqStat | tskCnt | hbmPartCfg | hbmPageCtrl
  | hbmPageFree | hbmPageLatch | hbmPageLatchPtr | hbmCnt | pmcCtrl | pmcCycLo
  | pmcCycHi | pmcCntCfg | pmcCntLo | pmcCntHi
deriving DecidableEq, Repr

/-- One field of a register. `hw` marks an RW field that the device writes too: it is held with the status fields. -/
structure Fld where
  reg : Reg
  hi : Nat
  lo : Nat
  acc : Acc
  cls : Cls
  hw : Bool
  chk : Chk
  reset : Nat
deriving DecidableEq, Repr

-- GLB_PART_ID (R4)
def glbPartIdPart : Fld := ⟨.glbPartId, 31, 20, .ro, .none, false, .any, 2560⟩
def glbPartIdFamily : Fld := ⟨.glbPartId, 19, 16, .ro, .none, false, .any, 5⟩
def glbPartIdVariant : Fld := ⟨.glbPartId, 15, 12, .ro, .none, false, .any, 0⟩
def glbPartIdMajor : Fld := ⟨.glbPartId, 11, 8, .ro, .none, false, .any, 0⟩
def glbPartIdMinor : Fld := ⟨.glbPartId, 7, 4, .ro, .none, false, .any, 0⟩
-- GLB_CAPS (R347)
def glbCapsAbiMajor : Fld := ⟨.glbCaps, 31, 24, .ro, .none, false, .any, 2⟩
def glbCapsAbiMinor : Fld := ⟨.glbCaps, 23, 16, .ro, .none, false, .any, 0⟩
def glbCapsMacsec : Fld := ⟨.glbCaps, 7, 7, .ro, .none, false, .any, 0⟩
def glbCapsDuo : Fld := ⟨.glbCaps, 6, 6, .ro, .none, false, .any, 1⟩
def glbCapsPolledDb : Fld := ⟨.glbCaps, 5, 5, .ro, .none, false, .any, 1⟩
def glbCapsL1Wake : Fld := ⟨.glbCaps, 4, 4, .ro, .none, false, .any, 0⟩
def glbCapsDescV2 : Fld := ⟨.glbCaps, 1, 1, .ro, .none, false, .any, 1⟩
def glbCapsDescV1 : Fld := ⟨.glbCaps, 0, 0, .ro, .none, false, .any, 1⟩
-- GLB_BOOT_STAT (R391)
def glbBootStatStage : Fld := ⟨.glbBootStat, 31, 29, .ro, .none, false, .any, 1⟩
def glbBootStatCause : Fld := ⟨.glbBootStat, 28, 26, .ro, .none, false, .any, 0⟩
-- GLB_SEAL (R391)
def glbSealKey : Fld := ⟨.glbSeal, 15, 0, .wo, .l, false, .any, 0⟩
-- GLB_SEAL_STATUS (R391)
def glbSealStatusState : Fld := ⟨.glbSealStatus, 31, 30, .ro, .none, false, .any, 0⟩
def glbSealStatusCode : Fld := ⟨.glbSealStatus, 27, 20, .ro, .none, false, .any, 0⟩
def glbSealStatusWhere : Fld := ⟨.glbSealStatus, 19, 0, .ro, .none, false, .any, 0⟩
-- GLB_RESTART (R391)
def glbRestartKey : Fld := ⟨.glbRestart, 15, 0, .wo, .l, false, .any, 0⟩
-- GLB_DEVICE_ID (R277)
def glbDeviceIdId : Fld := ⟨.glbDeviceId, 17, 0, .rwl, .s, false, .any, 0⟩
-- GLB_LANE_FAIL (R391)
def glbLaneFailFail : Fld := ⟨.glbLaneFail, 31, 0, .ro, .none, false, .any, 0⟩
-- GLB_SEAL_DIGEST (R391)
def glbSealDigestDigest : Fld := ⟨.glbSealDigest, 31, 0, .ro, .none, false, .any, 0⟩
-- GLB_CFG_REFUSED (R391)
def glbCfgRefusedCfgWriteRefused : Fld := ⟨.glbCfgRefused, 31, 31, .w1c, .none, false, .any, 0⟩
def glbCfgRefusedOffset : Fld := ⟨.glbCfgRefused, 26, 0, .ro, .none, false, .any, 0⟩
-- GLB_CFG_REFUSED_INFO (R391)
def glbCfgRefusedInfoCause : Fld := ⟨.glbCfgRefusedInfo, 31, 29, .ro, .none, false, .any, 0⟩
def glbCfgRefusedInfoPort : Fld := ⟨.glbCfgRefusedInfo, 28, 27, .ro, .none, false, .any, 0⟩
def glbCfgRefusedInfoAgent : Fld := ⟨.glbCfgRefusedInfo, 26, 26, .ro, .none, false, .any, 0⟩
def glbCfgRefusedInfoCode : Fld := ⟨.glbCfgRefusedInfo, 7, 0, .ro, .none, false, .any, 0⟩
-- GLB_CFG_REFUSED_CNT (R391)
def glbCfgRefusedCntCount : Fld := ⟨.glbCfgRefusedCnt, 31, 0, .ro, .none, false, .any, 0⟩
-- GLB_READ_BANK (R391)
def glbReadBankActive : Fld := ⟨.glbReadBank, 0, 0, .rw, .l, true, .any, 0⟩
-- GLB_TURN_COMMIT (R391)
def glbTurnCommitGo : Fld := ⟨.glbTurnCommit, 31, 31, .w1s, .l, false, .any, 0⟩
def glbTurnCommitDiscard : Fld := ⟨.glbTurnCommit, 30, 30, .w1s, .l, false, .any, 0⟩
-- GLB_TURN_STAT (R391)
def glbTurnStatState : Fld := ⟨.glbTurnStat, 31, 30, .ro, .none, false, .any, 0⟩
def glbTurnStatResult : Fld := ⟨.glbTurnStat, 29, 27, .ro, .none, false, .any, 0⟩
def glbTurnStatCode : Fld := ⟨.glbTurnStat, 23, 16, .ro, .none, false, .any, 0⟩
def glbTurnStatActive : Fld := ⟨.glbTurnStat, 15, 0, .ro, .none, false, .any, 0⟩
-- GLB_TURN_WHERE (R391)
def glbTurnWhereWhere : Fld := ⟨.glbTurnWhere, 19, 0, .ro, .none, false, .any, 0⟩
-- GLB_TURN_TIME_NS (R391)
def glbTurnTimeNsNs : Fld := ⟨.glbTurnTimeNs, 29, 0, .rw, .l, false, (.range 0 999999999), 0⟩
-- GLB_TURN_TIME_SEC_LO (R391)
def glbTurnTimeSecLoSec : Fld := ⟨.glbTurnTimeSecLo, 31, 0, .rw, .l, false, .any, 0⟩
-- GLB_TURN_TIME_SEC_HI (R391)
def glbTurnTimeSecHiSec : Fld := ⟨.glbTurnTimeSecHi, 15, 0, .rw, .l, false, .any, 0⟩
-- FLT_FIRST_SRC (R409)
def fltFirstSrcValid : Fld := ⟨.fltFirstSrc, 31, 31, .w1c, .none, false, .any, 0⟩
def fltFirstSrcSrc : Fld := ⟨.fltFirstSrc, 9, 0, .ro, .none, false, .any, 0⟩
-- FLT_FIRST_SEV (R409)
def fltFirstSevEscalated : Fld := ⟨.fltFirstSev, 3, 3, .ro, .none, false, .any, 0⟩
def fltFirstSevSev : Fld := ⟨.fltFirstSev, 2, 0, .ro, .none, false, .any, 0⟩
-- FLT_FIRST_TIME_LO (R409)
def fltFirstTimeLoNs : Fld := ⟨.fltFirstTimeLo, 31, 0, .ro, .none, false, .any, 0⟩
-- FLT_FIRST_TIME_HI (R409)
def fltFirstTimeHiSec : Fld := ⟨.fltFirstTimeHi, 31, 0, .ro, .none, false, .any, 0⟩
-- FLT_FIRST_INJ (R409)
def fltFirstInjInj : Fld := ⟨.fltFirstInj, 0, 0, .ro, .none, false, .any, 0⟩
-- FLT_FIRST_INFO (R409)
def fltFirstInfoInfo : Fld := ⟨.fltFirstInfo, 31, 0, .ro, .none, false, .any, 0⟩
-- FLT_OVERFLOW (R409)
def fltOverflowOverflow : Fld := ⟨.fltOverflow, 0, 0, .w1c, .none, false, .any, 0⟩
-- FLT_ACK (R409)
def fltAckClear : Fld := ⟨.fltAck, 31, 31, .wo, .l, false, .any, 0⟩
def fltAckClass : Fld := ⟨.fltAck, 5, 0, .wo, .l, false, .any, 0⟩
-- FLT_INJECT (R409)
def fltInjectArmed : Fld := ⟨.fltInject, 31, 31, .rw, .l, true, .any, 0⟩
def fltInjectReact : Fld := ⟨.fltInject, 30, 30, .rw, .l, true, .any, 0⟩
def fltInjectKind : Fld := ⟨.fltInject, 29, 28, .rw, .l, true, (.range 0 2), 0⟩
def fltInjectCount : Fld := ⟨.fltInject, 17, 10, .rw, .l, true, .nonzero, 1⟩
def fltInjectSrc : Fld := ⟨.fltInject, 9, 0, .rw, .l, true, .any, 0⟩
-- FLT_QUIET_TIME (R409)
def fltQuietTimeQuiet : Fld := ⟨.fltQuietTime, 15, 0, .rw, .l, false, .nonzero, 100⟩
-- FLT_RECOVERY_COUNT (R409)
def fltRecoveryCountCount : Fld := ⟨.fltRecoveryCount, 31, 0, .ro, .none, false, .any, 0⟩
-- FLT_HEALTH_CFG (R409)
def fltHealthCfgTest : Fld := ⟨.fltHealthCfg, 31, 31, .rw, .l, false, .any, 0⟩
def fltHealthCfgHealthThreshold : Fld := ⟨.fltHealthCfg, 26, 24, .rw, .l, false, (.range 0 4), 2⟩
def fltHealthCfgHealthPeriod : Fld := ⟨.fltHealthCfg, 16, 0, .rw, .l, false, (.range 10 100000), 100⟩
-- FLT_STAT (R409)
def fltStatFatal : Fld := ⟨.fltStat, 31, 31, .ro, .none, false, .any, 0⟩
def fltStatResetReq : Fld := ⟨.fltStat, 30, 30, .ro, .none, false, .any, 0⟩
def fltStatRestartRefused : Fld := ⟨.fltStat, 29, 29, .w1c, .none, false, .any, 0⟩
def fltStatMode : Fld := ⟨.fltStat, 28, 27, .ro, .none, false, .any, 0⟩
def fltStatHealth : Fld := ⟨.fltStat, 26, 26, .ro, .none, false, .any, 0⟩
def fltStatEvtHeld : Fld := ⟨.fltStat, 10, 0, .ro, .none, false, .any, 0⟩
-- FLT_RESTORE (R409)
def fltRestoreGo : Fld := ⟨.fltRestore, 31, 31, .w1s, .l, false, .any, 0⟩
def fltRestoreResult : Fld := ⟨.fltRestore, 30, 28, .ro, .none, false, .any, 0⟩
def fltRestoreKind : Fld := ⟨.fltRestore, 10, 8, .rw, .l, false, (.range 0 4), 0⟩
def fltRestoreInstance : Fld := ⟨.fltRestore, 7, 0, .rw, .l, false, .any, 0⟩
-- FLT_CLASS_STAT (R409)
def fltClassStatActive : Fld := ⟨.fltClassStat, 31, 31, .ro, .none, false, .any, 0⟩
def fltClassStatUnacked : Fld := ⟨.fltClassStat, 30, 30, .ro, .none, false, .any, 0⟩
def fltClassStatSev : Fld := ⟨.fltClassStat, 29, 27, .ro, .none, false, .any, 0⟩
def fltClassStatQuietLeft : Fld := ⟨.fltClassStat, 16, 0, .ro, .none, false, .any, 0⟩
-- FLT_CLASS_CNT (R409)
def fltClassCntCount : Fld := ⟨.fltClassCnt, 31, 0, .ro, .none, false, .any, 0⟩
-- PWR_BUDGET (R453)
def pwrBudgetReserve : Fld := ⟨.pwrBudget, 25, 16, .rw, .l, false, .any, 64⟩
def pwrBudgetWatts : Fld := ⟨.pwrBudget, 9, 0, .rw, .l, false, (.range 100 980), 980⟩
-- PWR_CTRL (R453)
def pwrCtrlEvt : Fld := ⟨.pwrCtrl, 31, 30, .rw, .l, false, (.range 0 2), 1⟩
def pwrCtrlDeferMax : Fld := ⟨.pwrCtrl, 15, 0, .rw, .l, false, .nonzero, 10000⟩
-- PWR_STAT (R453)
def pwrStatBase : Fld := ⟨.pwrStat, 31, 16, .ro, .none, false, .any, 0⟩
def pwrStatHeld : Fld := ⟨.pwrStat, 15, 6, .ro, .none, false, .any, 0⟩
def pwrStatQueued : Fld := ⟨.pwrStat, 5, 0, .ro, .none, false, .any, 0⟩
-- PWR_GRANT_STATUS (R453)
def pwrGrantStatusOp : Fld := ⟨.pwrGrantStatus, 31, 28, .ro, .none, false, .any, 0⟩
def pwrGrantStatusOutcome : Fld := ⟨.pwrGrantStatus, 27, 26, .ro, .none, false, .any, 0⟩
def pwrGrantStatusReason : Fld := ⟨.pwrGrantStatus, 25, 23, .ro, .none, false, .any, 0⟩
def pwrGrantStatusUnit : Fld := ⟨.pwrGrantStatus, 15, 0, .ro, .none, false, .any, 0⟩
-- PWR_THERM_CFG (R453)
def pwrThermCfgAlertN : Fld := ⟨.pwrThermCfg, 31, 31, .ro, .none, false, .any, 1⟩
def pwrThermCfgTripN : Fld := ⟨.pwrThermCfg, 30, 30, .ro, .none, false, .any, 1⟩
def pwrThermCfgAlert : Fld := ⟨.pwrThermCfg, 6, 0, .rw, .l, false, (.range 70 105), 95⟩
-- PWR_OP (R453)
def pwrOpEn : Fld := ⟨.pwrOp, 31, 31, .rw, .l, false, .any, 1⟩
def pwrOpClass : Fld := ⟨.pwrOp, 11, 10, .rw, .l, false, .any, 0⟩
def pwrOpPips : Fld := ⟨.pwrOp, 9, 0, .rw, .l, false, .nonzero, 0⟩
-- PWR_TEMP (R453)
def pwrTempValid : Fld := ⟨.pwrTemp, 31, 31, .ro, .none, false, .any, 0⟩
def pwrTempDegc : Fld := ⟨.pwrTemp, 7, 0, .ro, .none, false, .any, 0⟩
-- PWR_CLK_GATE_0 (R453)
def pwrClkGate0Gate : Fld := ⟨.pwrClkGate0, 31, 0, .rw, .s, false, .any, 0⟩
-- PWR_CLK_GATE_1 (R453)
def pwrClkGate1Gate : Fld := ⟨.pwrClkGate1, 27, 0, .rw, .s, false, .any, 0⟩
-- PWR_CLK_STAT (R453)
def pwrClkStatRootLock : Fld := ⟨.pwrClkStat, 6, 6, .ro, .none, false, .any, 1⟩
def pwrClkStatLock : Fld := ⟨.pwrClkStat, 5, 0, .ro, .none, false, .any, 63⟩
-- PWR_CNT (R453)
def cPwrGrants : Nat := 0
def cPwrDefers : Nat := 1
def cPwrRefusals : Nat := 2
def cPwrOverdraw : Nat := 3
-- TOD_CTRL (R256)
def todCtrlStep : Fld := ⟨.todCtrl, 31, 31, .w1s, .l, false, .any, 0⟩
def todCtrlOffset : Fld := ⟨.todCtrl, 30, 30, .w1s, .l, false, .any, 0⟩
def todCtrlPpsMode : Fld := ⟨.todCtrl, 29, 28, .rw, .l, false, (.range 0 2), 0⟩
def todCtrlPpsOutEn : Fld := ⟨.todCtrl, 27, 27, .rw, .l, false, .any, 0⟩
-- TOD_STAT (R256)
def todStatStepPending : Fld := ⟨.todStat, 31, 31, .ro, .none, false, .any, 0⟩
def todStatPpsSeen : Fld := ⟨.todStat, 30, 30, .w1c, .none, false, .any, 0⟩
def todStatPpsMissing : Fld := ⟨.todStat, 29, 29, .ro, .none, false, .any, 0⟩
def todStatPpsOutside : Fld := ⟨.todStat, 28, 28, .w1c, .none, false, .any, 0⟩
-- TOD_NOW_NS (R256)
def todNowNsNs : Fld := ⟨.todNowNs, 29, 0, .ro, .l, false, .any, 0⟩
-- TOD_NOW_FRAC (R256)
def todNowFracFrac : Fld := ⟨.todNowFrac, 15, 0, .ro, .l, false, .any, 0⟩
-- TOD_NOW_SEC_LO (R256)
def todNowSecLoSec : Fld := ⟨.todNowSecLo, 31, 0, .ro, .l, false, .any, 0⟩
-- TOD_NOW_SEC_HI (R256)
def todNowSecHiSec : Fld := ⟨.todNowSecHi, 15, 0, .ro, .l, false, .any, 0⟩
-- TOD_SET_NS (R256)
def todSetNsNs : Fld := ⟨.todSetNs, 29, 0, .rw, .l, false, (.range 0 999999999), 0⟩
-- TOD_SET_FRAC (R256)
def todSetFracFrac : Fld := ⟨.todSetFrac, 15, 0, .rw, .l, false, .any, 0⟩
-- TOD_SET_SEC_LO (R256)
def todSetSecLoSec : Fld := ⟨.todSetSecLo, 31, 0, .rw, .l, false, .any, 0⟩
-- TOD_SET_SEC_HI (R256)
def todSetSecHiSec : Fld := ⟨.todSetSecHi, 15, 0, .rw, .l, false, .any, 0⟩
-- TOD_ADJ (R256)
def todAdjAdj : Fld := ⟨.todAdj, 31, 0, .rw, .l, false, (.signed 1000000), 0⟩
-- TOD_OFFSET (R256)
def todOffsetOffset : Fld := ⟨.todOffset, 31, 0, .rw, .l, false, .any, 0⟩
-- TOD_PPS_CFG (R256)
def todPpsCfgEvt : Fld := ⟨.todPpsCfg, 31, 31, .rw, .l, false, .any, 0⟩
def todPpsCfgPpsDelay : Fld := ⟨.todPpsCfg, 15, 0, .rw, .l, false, .any, 0⟩
-- TOD_PPS_WINDOW (R256)
def todPpsWindowWindow : Fld := ⟨.todPpsWindow, 31, 0, .rw, .l, false, (.range 1 100000000), 100000⟩
-- TOD_PPS_CAP_NS (R256)
def todPpsCapNsNs : Fld := ⟨.todPpsCapNs, 29, 0, .ro, .l, false, .any, 0⟩
-- TOD_PPS_CAP_FRAC (R256)
def todPpsCapFracFrac : Fld := ⟨.todPpsCapFrac, 15, 0, .ro, .l, false, .any, 0⟩
-- TOD_PPS_CAP_SEC_LO (R256)
def todPpsCapSecLoSec : Fld := ⟨.todPpsCapSecLo, 31, 0, .ro, .l, false, .any, 0⟩
-- TOD_PPS_CAP_SEC_HI (R256)
def todPpsCapSecHiSec : Fld := ⟨.todPpsCapSecHi, 15, 0, .ro, .l, false, .any, 0⟩
-- TOD_PPS_OUT_CFG (R256)
def todPpsOutCfgWidth : Fld := ⟨.todPpsOutCfg, 31, 16, .rw, .l, false, .nonzero, 10000⟩
def todPpsOutCfgOffset : Fld := ⟨.todPpsOutCfg, 15, 0, .rw, .l, false, .any, 0⟩
-- TOD_PPS_EDGES (R256)
def todPpsEdgesCount : Fld := ⟨.todPpsEdges, 31, 0, .ro, .none, false, .any, 0⟩
-- TOD_PPS_GLITCH (R256)
def todPpsGlitchCount : Fld := ⟨.todPpsGlitch, 31, 0, .ro, .none, false, .any, 0⟩
-- TOD_PPS_REJECT (R256)
def todPpsRejectCount : Fld := ⟨.todPpsReject, 31, 0, .ro, .none, false, .any, 0⟩
-- HIF_PORT_ROLE (R351)
def hifPortRolePrimary : Fld := ⟨.hifPortRole, 31, 30, .rw, .l, true, .any, 0⟩
def hifPortRoleRoles : Fld := ⟨.hifPortRole, 7, 0, .rw, .l, true, .any, 1⟩
-- HIF_POLL_PERIOD (R351)
def hifPollPeriodPeriod : Fld := ⟨.hifPollPeriod, 13, 0, .rw, .l, false, (.range 1 10000), 10⟩
-- HIF_PREFETCH_STAT (R351)
def hifPrefetchStatUsed : Fld := ⟨.hifPrefetchStat, 16, 0, .ro, .none, false, .any, 0⟩
-- HIF_EVT_ROUTE (R351)
def hifEvtRouteEn : Fld := ⟨.hifEvtRoute, 31, 31, .rw, .l, false, .any, 0⟩
def hifEvtRouteRing : Fld := ⟨.hifEvtRoute, 13, 0, .rw, .l, false, .any, 0⟩
-- HIF_ADMIN_BASE_LO (R351)
def hifAdminBaseLoBase : Fld := ⟨.hifAdminBaseLo, 31, 12, .rw, .s, false, .any, 0⟩
-- HIF_ADMIN_BASE_HI (R351)
def hifAdminBaseHiBase : Fld := ⟨.hifAdminBaseHi, 31, 0, .rw, .s, false, .any, 0⟩
-- HIF_ADMIN_CFG (R351)
def hifAdminCfgEn : Fld := ⟨.hifAdminCfg, 31, 31, .rw, .l, true, .any, 0⟩
def hifAdminCfgIrqEn : Fld := ⟨.hifAdminCfg, 30, 30, .rw, .s, false, .any, 0⟩
def hifAdminCfgVer : Fld := ⟨.hifAdminCfg, 29, 28, .rw, .s, false, .any, 1⟩
def hifAdminCfgLog2 : Fld := ⟨.hifAdminCfg, 27, 23, .rw, .s, false, .any, 6⟩
def hifAdminCfgVector : Fld := ⟨.hifAdminCfg, 10, 0, .rw, .s, false, .any, 0⟩
-- HIF_ADMIN_STAT (R351)
def hifAdminStatState : Fld := ⟨.hifAdminStat, 31, 30, .ro, .none, false, .any, 0⟩
def hifAdminStatErr : Fld := ⟨.hifAdminStat, 29, 28, .ro, .none, false, .any, 0⟩
def hifAdminStatHead : Fld := ⟨.hifAdminStat, 15, 0, .ro, .none, false, .any, 0⟩
-- HIF_PORT_STAT (R351)
def hifPortStatLinkUp : Fld := ⟨.hifPortStat, 31, 31, .ro, .none, false, .any, 0⟩
def hifPortStatBme : Fld := ⟨.hifPortStat, 30, 30, .ro, .none, false, .any, 0⟩
def hifPortStatDState : Fld := ⟨.hifPortStat, 29, 28, .ro, .none, false, .any, 0⟩
def hifPortStatL1 : Fld := ⟨.hifPortStat, 27, 26, .ro, .none, false, .any, 0⟩
def hifPortStatRings : Fld := ⟨.hifPortStat, 14, 0, .ro, .none, false, .any, 0⟩
-- HIF_DENIED (R351)
def hifDeniedValid : Fld := ⟨.hifDenied, 31, 31, .w1c, .none, false, .any, 0⟩
def hifDeniedWrite : Fld := ⟨.hifDenied, 30, 30, .ro, .none, false, .any, 0⟩
def hifDeniedOffset : Fld := ⟨.hifDenied, 26, 0, .ro, .none, false, .any, 0⟩
-- HIF_CNT (R351)
def cHifDeny : Nat := 0
def cHifDbBad : Nat := 1
def cHifDbForeign : Nat := 2
def cHifDmaError : Nat := 3
def cHifRxpNobuf : Nat := 4
def cHifEvtMerged : Nat := 5
def cHifDmpDrop : Nat := 6
def cHifTrcDrop : Nat := 7
def cHifEvtNoroute : Nat := 8
def cHifIntr : Nat := 9
def cHifPme : Nat := 10
-- HIF_MSIX_PBA (R351)
def hifMsixPbaPend : Fld := ⟨.hifMsixPba, 31, 0, .ro, .none, false, .any, 0⟩
-- HIF_MSIX_ADDR (R351)
def hifMsixAddrAddr : Fld := ⟨.hifMsixAddr, 31, 2, .rw, .l, false, .any, 0⟩
-- HIF_MSIX_UPPER (R351)
def hifMsixUpperAddr : Fld := ⟨.hifMsixUpper, 31, 0, .rw, .l, false, .any, 0⟩
-- HIF_MSIX_DATA (R351)
def hifMsixDataData : Fld := ⟨.hifMsixData, 31, 0, .rw, .l, false, .any, 0⟩
-- HIF_MSIX_CTRL (R351)
def hifMsixCtrlMask : Fld := ⟨.hifMsixCtrl, 0, 0, .rw, .l, false, .any, 1⟩
-- SEC_STAT (R429)
def secStatOwner : Fld := ⟨.secStat, 31, 31, .ro, .none, false, .any, 0⟩
def secStatRngOk : Fld := ⟨.secStat, 30, 30, .ro, .none, false, .any, 0⟩
def secStatKeyReady : Fld := ⟨.secStat, 29, 29, .ro, .none, false, .any, 0⟩
def secStatBootSet : Fld := ⟨.secStat, 28, 28, .ro, .none, false, .any, 0⟩
def secStatRevoked : Fld := ⟨.secStat, 27, 25, .ro, .none, false, .any, 0⟩
def secStatMinSvn : Fld := ⟨.secStat, 24, 19, .ro, .none, false, .any, 0⟩
-- SEC_LEAF_LO (R429)
def secLeafLoNext : Fld := ⟨.secLeafLo, 31, 0, .ro, .none, false, .any, 0⟩
-- SEC_LEAF_HI (R429)
def secLeafHiNext : Fld := ⟨.secLeafHi, 7, 0, .ro, .none, false, .any, 0⟩
-- SEC_TAG_WRITES (R429)
def secTagWritesCount : Fld := ⟨.secTagWrites, 31, 0, .ro, .none, false, .any, 0⟩
-- SEC_SERIAL (R429)
def secSerialId : Fld := ⟨.secSerial, 31, 0, .ro, .none, false, .any, 0⟩
-- SEC_IDCODE (R429)
def secIdcodeId : Fld := ⟨.secIdcode, 31, 0, .ro, .none, false, .any, 0⟩
-- SEC_LOT_LO (R429)
def secLotLoId : Fld := ⟨.secLotLo, 31, 0, .ro, .none, false, .any, 0⟩
-- SEC_LOT_HI (R429)
def secLotHiId : Fld := ⟨.secLotHi, 31, 0, .ro, .none, false, .any, 0⟩
-- SEC_MEAS (R429)
def secMeasDigest : Fld := ⟨.secMeas, 31, 0, .ro, .none, false, .any, 0⟩
-- SEC_TAG (R429)
def secTagTag : Fld := ⟨.secTag, 31, 0, .ro, .none, false, .any, 0⟩
-- PMU_TRACE_RINGS (R454)
def pmuTraceRingsPkt : Fld := ⟨.pmuTraceRings, 29, 16, .rw, .l, false, .any, 0⟩
def pmuTraceRingsInsn : Fld := ⟨.pmuTraceRings, 13, 0, .rw, .l, false, .any, 0⟩
-- PMU_DUMP_CFG (R454)
def pmuDumpCfgEn : Fld := ⟨.pmuDumpCfg, 31, 31, .rw, .l, false, .any, 0⟩
def pmuDumpCfgKind : Fld := ⟨.pmuDumpCfg, 30, 28, .rw, .l, false, (.range 0 6), 0⟩
def pmuDumpCfgFamily : Fld := ⟨.pmuDumpCfg, 27, 25, .rw, .l, false, (.range 0 5), 0⟩
def pmuDumpCfgDie : Fld := ⟨.pmuDumpCfg, 24, 22, .rw, .l, false, .any, 0⟩
def pmuDumpCfgRing : Fld := ⟨.pmuDumpCfg, 13, 0, .rw, .l, false, .any, 0⟩
-- PMU_DUMP_PERIOD (R454)
def pmuDumpPeriodPeriod : Fld := ⟨.pmuDumpPeriod, 19, 0, .rw, .l, false, (.range 1 1000000), 1000⟩
-- PMU_DUMP_SEL (R454)
def pmuDumpSelFirst : Fld := ⟨.pmuDumpSel, 31, 16, .rw, .l, false, .any, 0⟩
def pmuDumpSelCount : Fld := ⟨.pmuDumpSel, 15, 0, .rw, .l, false, .any, 0⟩
-- PMU_DUMP_SEQ (R454)
def pmuDumpSeqSeq : Fld := ⟨.pmuDumpSeq, 31, 0, .ro, .none, false, .any, 0⟩
-- PMU_TRACE_PPL (R454)
def pmuTracePplEn : Fld := ⟨.pmuTracePpl, 31, 31, .rw, .l, false, .any, 0⟩
def pmuTracePplMode : Fld := ⟨.pmuTracePpl, 30, 29, .rw, .l, false, (.range 0 2), 0⟩
def pmuTracePplN : Fld := ⟨.pmuTracePpl, 23, 0, .rw, .l, false, .any, 1000⟩
-- PMU_TRACE_CORE (R454)
def pmuTraceCoreEn : Fld := ⟨.pmuTraceCore, 31, 31, .rw, .l, false, .any, 0⟩
def pmuTraceCoreN : Fld := ⟨.pmuTraceCore, 19, 0, .rw, .l, false, (.range 16 1048575), 10000⟩
-- PMU_CNT (R454)
def cPmuDumpLate : Nat := 0
def cPmuTraceSkip : Nat := 1
-- PRT_PORT_CFG (R470)
def prtPortCfgEn : Fld := ⟨.prtPortCfg, 31, 31, .rw, .l, false, .any, 0⟩
def prtPortCfgSpeed : Fld := ⟨.prtPortCfg, 30, 28, .rw, .s, false, (.range 0 6), 0⟩
def prtPortCfgFec : Fld := ⟨.prtPortCfg, 27, 26, .rw, .s, false, .any, 0⟩
def prtPortCfgFirstLane : Fld := ⟨.prtPortCfg, 25, 23, .rw, .s, false, .any, 0⟩
-- PRT_LANE_POL (R470)
def prtLanePolRxInv : Fld := ⟨.prtLanePol, 15, 8, .rwl, .s, false, .any, 0⟩
def prtLanePolTxInv : Fld := ⟨.prtLanePol, 7, 0, .rwl, .s, false, .any, 0⟩
-- PRT_PTP_ADJ (R257)
def prtPtpAdjIngAdj : Fld := ⟨.prtPtpAdj, 31, 16, .rw, .l, false, .any, 0⟩
def prtPtpAdjEgrAdj : Fld := ⟨.prtPtpAdj, 15, 0, .rw, .l, false, .any, 0⟩
-- MSC_CTRL (R366)
def mscCtrlPnThresh : Fld := ⟨.mscCtrl, 3, 0, .rw, .l, false, .nonzero, 12⟩
-- MSC_BULK_CTRL (R366)
def mscBulkCtrlGo : Fld := ⟨.mscBulkCtrl, 31, 31, .w1s, .l, false, .any, 0⟩
def mscBulkCtrlBusy : Fld := ⟨.mscBulkCtrl, 30, 30, .ro, .none, false, .any, 0⟩
-- MSC_PN_NEAR (R366)
def mscPnNearNear : Fld := ⟨.mscPnNear, 31, 0, .w1c, .none, false, .any, 0⟩
-- MSC_CNT (R366)
def cMscTxNoSa : Nat := 0
def cMscTxPnExhausted : Nat := 1
def cMscRxTooLong : Nat := 2
-- MSC_SECY_CFG (R366)
def mscSecyCfgEn : Fld := ⟨.mscSecyCfg, 31, 31, .rw, .t, false, .any, 0⟩
def mscSecyCfgProtect : Fld := ⟨.mscSecyCfg, 30, 30, .rw, .t, false, .any, 1⟩
def mscSecyCfgConf : Fld := ⟨.mscSecyCfg, 29, 29, .rw, .t, false, .any, 1⟩
def mscSecyCfgIncludeSci : Fld := ⟨.mscSecyCfg, 28, 28, .rw, .t, false, .any, 1⟩
def mscSecyCfgEs : Fld := ⟨.mscSecyCfg, 27, 27, .rw, .t, false, .any, 0⟩
def mscSecyCfgScb : Fld := ⟨.mscSecyCfg, 26, 26, .rw, .t, false, .any, 0⟩
def mscSecyCfgValidate : Fld := ⟨.mscSecyCfg, 25, 24, .rw, .t, false, (.range 0 2), 2⟩
def mscSecyCfgCipher : Fld := ⟨.mscSecyCfg, 23, 22, .rw, .t, false, .any, 0⟩
def mscSecyCfgConfOffset : Fld := ⟨.mscSecyCfg, 21, 20, .rw, .t, false, (.range 0 2), 0⟩
def mscSecyCfgReplayProtect : Fld := ⟨.mscSecyCfg, 19, 19, .rw, .t, false, .any, 1⟩
-- MSC_SECY_TX (R366)
def mscSecyTxTxAn : Fld := ⟨.mscSecyTx, 31, 30, .rw, .l, true, .any, 0⟩
def mscSecyTxNextAn : Fld := ⟨.mscSecyTx, 29, 28, .rw, .l, false, .any, 0⟩
def mscSecyTxArmed : Fld := ⟨.mscSecyTx, 27, 27, .rw, .l, true, .any, 0⟩
def mscSecyTxSaGroup : Fld := ⟨.mscSecyTx, 9, 0, .rw, .t, false, .any, 0⟩
-- MSC_SECY_WIN (R366)
def mscSecyWinReplayWindow : Fld := ⟨.mscSecyWin, 31, 0, .rw, .t, false, .any, 0⟩
-- MSC_SECY_SCI_LO (R366)
def mscSecySciLoSci : Fld := ⟨.mscSecySciLo, 31, 0, .rw, .t, false, .any, 0⟩
-- MSC_SECY_SCI_HI (R366)
def mscSecySciHiSci : Fld := ⟨.mscSecySciHi, 31, 0, .rw, .t, false, .any, 0⟩
-- MSC_RXSC_CFG (R366)
def mscRxscCfgEn : Fld := ⟨.mscRxscCfg, 31, 31, .rw, .t, false, .any, 0⟩
def mscRxscCfgSecy : Fld := ⟨.mscRxscCfg, 30, 25, .rw, .t, false, .any, 0⟩
def mscRxscCfgSaGroup : Fld := ⟨.mscRxscCfg, 9, 0, .rw, .t, false, .any, 0⟩
-- MSC_RXSC_SCI_LO (R366)
def mscRxscSciLoSci : Fld := ⟨.mscRxscSciLo, 31, 0, .rw, .t, false, .any, 0⟩
-- MSC_RXSC_SCI_HI (R366)
def mscRxscSciHiSci : Fld := ⟨.mscRxscSciHi, 31, 0, .rw, .t, false, .any, 0⟩
-- MSC_SA_CTRL (R366)
def mscSaCtrlInUse : Fld := ⟨.mscSaCtrl, 31, 31, .rw, .l, false, .any, 0⟩
def mscSaCtrlReady : Fld := ⟨.mscSaCtrl, 30, 30, .ro, .none, false, .any, 0⟩
-- MSC_SA_SSCI (R366)
def mscSaSsciSsci : Fld := ⟨.mscSaSsci, 31, 0, .rw, .s, false, .any, 0⟩
-- MSC_SA_PN_LO (R366)
def mscSaPnLoPn : Fld := ⟨.mscSaPnLo, 31, 0, .rw, .s, true, .any, 1⟩
-- MSC_SA_PN_HI (R366)
def mscSaPnHiPn : Fld := ⟨.mscSaPnHi, 31, 0, .rw, .s, true, .any, 0⟩
-- MSC_SA_KEY (R366)
def mscSaKeyKey : Fld := ⟨.mscSaKey, 31, 0, .wo, .s, false, .any, 0⟩
-- MSC_SA_SALT (R366)
def mscSaSaltSalt : Fld := ⟨.mscSaSalt, 31, 0, .wo, .s, false, .any, 0⟩
-- PPL_CTRL (R75)
def pplCtrlDrained : Fld := ⟨.pplCtrl, 2, 2, .ro, .none, false, .any, 1⟩
def pplCtrlDrain : Fld := ⟨.pplCtrl, 1, 1, .w1s, .l, false, .any, 0⟩
def pplCtrlEnable : Fld := ⟨.pplCtrl, 0, 0, .rw, .l, false, .any, 0⟩
-- PPL_HOLD_CFG (R75)
def pplHoldCfgHoldTimeout : Fld := ⟨.pplHoldCfg, 9, 0, .rw, .l, false, (.range 100 800), 400⟩
-- PPL_TURN_STAT (R75)
def pplTurnStatActiveTurn : Fld := ⟨.pplTurnStat, 31, 16, .ro, .none, false, .any, 0⟩
def pplTurnStatDraining : Fld := ⟨.pplTurnStat, 15, 15, .ro, .none, false, .any, 0⟩
def pplTurnStatOldInflight : Fld := ⟨.pplTurnStat, 11, 0, .ro, .none, false, .any, 0⟩
-- PPL_HOLD_STAT (R75)
def pplHoldStatHighWater : Fld := ⟨.pplHoldStat, 27, 16, .rc, .none, false, .any, 0⟩
def pplHoldStatOccupancy : Fld := ⟨.pplHoldStat, 11, 0, .ro, .none, false, .any, 0⟩
-- PPL_UNRES_DROP (R75)
def pplUnresDropCount : Fld := ⟨.pplUnresDrop, 31, 0, .ro, .none, false, .any, 0⟩
-- PPL_UNRES_DEFAULT (R75)
def pplUnresDefaultCount : Fld := ⟨.pplUnresDefault, 31, 0, .ro, .none, false, .any, 0⟩
-- PPL_PORT_CFG (R75)
def pplPortCfgCtEn : Fld := ⟨.pplPortCfg, 31, 31, .rw, .t, false, .any, 0⟩
def pplPortCfgClsLevel : Fld := ⟨.pplPortCfg, 30, 29, .rw, .t, false, (.range 0 2), 0⟩
def pplPortCfgStartState : Fld := ⟨.pplPortCfg, 21, 16, .rw, .t, false, .any, 0⟩
def pplPortCfgPortMeta : Fld := ⟨.pplPortCfg, 15, 0, .rw, .t, false, .any, 0⟩
-- PPL_PORT_DEF_LO (R75)
def pplPortDefLoProg : Fld := ⟨.pplPortDefLo, 31, 24, .rw, .t, false, .any, 0⟩
def pplPortDefLoZprof : Fld := ⟨.pplPortDefLo, 23, 18, .rw, .t, false, .any, 0⟩
def pplPortDefLoExc : Fld := ⟨.pplPortDefLo, 17, 17, .rw, .t, false, .any, 0⟩
def pplPortDefLoReason : Fld := ⟨.pplPortDefLo, 15, 10, .rw, .t, false, .any, 0⟩
def pplPortDefLoTc : Fld := ⟨.pplPortDefLo, 9, 7, .rw, .t, false, .any, 0⟩
def pplPortDefLoInsert : Fld := ⟨.pplPortDefLo, 6, 6, .rw, .t, false, .any, 0⟩
-- PPL_PORT_DEF_HI (R75)
def pplPortDefHiZone : Fld := ⟨.pplPortDefHi, 31, 8, .rw, .t, false, .any, 0⟩
def pplPortDefHiKeyMode : Fld := ⟨.pplPortDefHi, 7, 6, .rw, .t, false, .any, 0⟩
def pplPortDefHiKeyLevel : Fld := ⟨.pplPortDefHi, 5, 4, .rw, .t, false, .any, 0⟩
def pplPortDefHiProg : Fld := ⟨.pplPortDefHi, 3, 0, .rw, .t, false, .any, 0⟩
-- PPL_RANGE_CFG (R75)
def pplRangeCfgEn : Fld := ⟨.pplRangeCfg, 31, 31, .rw, .t, false, .any, 0⟩
def pplRangeCfgInv : Fld := ⟨.pplRangeCfg, 30, 30, .rw, .t, false, .any, 0⟩
def pplRangeCfgLevel : Fld := ⟨.pplRangeCfg, 29, 28, .rw, .t, false, (.range 0 2), 0⟩
def pplRangeCfgSrc : Fld := ⟨.pplRangeCfg, 4, 0, .rw, .t, false, (.range 0 14), 0⟩
-- PPL_RANGE_BOUNDS (R75)
def pplRangeBoundsHi : Fld := ⟨.pplRangeBounds, 31, 16, .rw, .t, false, .any, 0⟩
def pplRangeBoundsLo : Fld := ⟨.pplRangeBounds, 15, 0, .rw, .t, false, .any, 0⟩
-- PPL_ZPROF (R75)
def pplZprofOverloadPolicy : Fld := ⟨.pplZprof, 31, 31, .rw, .t, false, .any, 0⟩
def pplZprofInsertFailPolicy : Fld := ⟨.pplZprof, 30, 29, .rw, .t, false, (.range 0 2), 0⟩
def pplZprofSymmetric : Fld := ⟨.pplZprof, 28, 28, .rw, .t, false, .any, 0⟩
-- PPL_REASON (R75)
def pplReasonDisp : Fld := ⟨.pplReason, 31, 30, .rw, .l, false, .any, 0⟩
def pplReasonTrunc : Fld := ⟨.pplReason, 29, 29, .rw, .l, false, .any, 0⟩
def pplReasonRate : Fld := ⟨.pplReason, 23, 8, .rw, .l, false, .any, 100⟩
def pplReasonBurst : Fld := ⟨.pplReason, 7, 0, .rw, .l, false, .any, 16⟩
-- PPL_REASON_CNT (R75)
-- PPL_PUNT_DROP (R75)
-- TMG_QCFG_A (R218)
def tmgQcfgAExpress : Fld := ⟨.tmgQcfgA, 31, 31, .rw, .t, false, .any, 0⟩
def tmgQcfgADeep : Fld := ⟨.tmgQcfgA, 30, 30, .rw, .t, false, .any, 0⟩
def tmgQcfgAPool : Fld := ⟨.tmgQcfgA, 29, 27, .rw, .t, false, .any, 0⟩
def tmgQcfgAAlpha : Fld := ⟨.tmgQcfgA, 26, 23, .rw, .t, false, (.range 0 10), 7⟩
def tmgQcfgAMin : Fld := ⟨.tmgQcfgA, 19, 0, .rw, .t, false, .any, 0⟩
-- TMG_QCFG_B (R218)
def tmgQcfgBSpillThresh : Fld := ⟨.tmgQcfgB, 31, 20, .rw, .t, false, .any, 64⟩
def tmgQcfgBPageMax : Fld := ⟨.tmgQcfgB, 19, 0, .rw, .t, false, .any, 0⟩
-- TMG_QCFG_C (R218)
def tmgQcfgCAgeLimit : Fld := ⟨.tmgQcfgC, 19, 0, .rw, .l, false, (.range 0 1000000), 0⟩
-- TMG_QSTAT (R218)
def tmgQstatState : Fld := ⟨.tmgQstat, 31, 30, .ro, .none, false, .any, 0⟩
def tmgQstatCells : Fld := ⟨.tmgQstat, 19, 0, .ro, .none, false, .any, 0⟩
-- TMG_NAT64_PFX_0 (R161)
def tmgNat64Pfx0Pfx : Fld := ⟨.tmgNat64Pfx0, 31, 0, .rw, .t, false, .any, 6619035⟩
-- TMG_NAT64_PFX_12 (R161)
def tmgNat64Pfx12Pfx : Fld := ⟨.tmgNat64Pfx12, 31, 0, .rw, .t, false, .any, 0⟩
-- TMG_ACT_DROP (R161)
-- TMG_MIRROR (R161)
def tmgMirrorEn : Fld := ⟨.tmgMirror, 31, 31, .rw, .l, false, .any, 0⟩
def tmgMirrorHost : Fld := ⟨.tmgMirror, 30, 30, .rw, .l, false, .any, 0⟩
def tmgMirrorTrunc : Fld := ⟨.tmgMirror, 29, 29, .rw, .l, false, .any, 0⟩
def tmgMirrorQid : Fld := ⟨.tmgMirror, 16, 0, .rw, .l, false, .any, 0⟩
-- TMG_SAMPLER (R161)
def tmgSamplerEn : Fld := ⟨.tmgSampler, 31, 31, .rw, .l, false, .any, 0⟩
def tmgSamplerN : Fld := ⟨.tmgSampler, 23, 0, .rw, .l, false, .nonzero, 1000⟩
-- TMG_CELL_FREE (R218)
def tmgCellFreeCount : Fld := ⟨.tmgCellFree, 18, 0, .ro, .none, false, .any, 393216⟩
-- TMG_CELL_QUEUED (R218)
def tmgCellQueuedCount : Fld := ⟨.tmgCellQueued, 18, 0, .ro, .none, false, .any, 0⟩
-- TMG_CELL_INFLIGHT (R218)
def tmgCellInflightCount : Fld := ⟨.tmgCellInflight, 18, 0, .ro, .none, false, .any, 0⟩
-- TMG_POOL (R218)
def tmgPoolSize : Fld := ⟨.tmgPool, 19, 0, .rw, .t, false, .any, 0⟩
-- TMG_POOL_USED (R218)
def tmgPoolUsedUsed : Fld := ⟨.tmgPoolUsed, 19, 0, .ro, .none, false, .any, 0⟩
-- TMG_ING_LIMIT (R218)
def tmgIngLimitPuntLimit : Fld := ⟨.tmgIngLimit, 31, 16, .rw, .t, false, (.range 256 65535), 4096⟩
def tmgIngLimitIngLimit : Fld := ⟨.tmgIngLimit, 15, 0, .rw, .t, false, (.range 256 65535), 3072⟩
-- TMG_BUF_LATCH (R218)
def tmgBufLatchValid : Fld := ⟨.tmgBufLatch, 31, 31, .w1c, .none, false, .any, 0⟩
def tmgBufLatchKind : Fld := ⟨.tmgBufLatch, 30, 28, .ro, .none, false, .any, 0⟩
def tmgBufLatchReq : Fld := ⟨.tmgBufLatch, 11, 0, .ro, .none, false, .any, 0⟩
-- TMG_BUF_LATCH_ADDR (R218)
def tmgBufLatchAddrAddr : Fld := ⟨.tmgBufLatchAddr, 27, 0, .ro, .none, false, .any, 0⟩
-- TMG_TALLY_CFG (R218)
def tmgTallyCfgEn : Fld := ⟨.tmgTallyCfg, 31, 31, .rw, .l, false, .any, 1⟩
def tmgTallyCfgAuditReclaim : Fld := ⟨.tmgTallyCfg, 30, 30, .rw, .l, false, .any, 0⟩
def tmgTallyCfgAuditPeriod : Fld := ⟨.tmgTallyCfg, 15, 0, .rw, .l, false, (.range 10 65535), 1000⟩
-- TMG_TALLY_STAT (R218)
def tmgTallyStatRunning : Fld := ⟨.tmgTallyStat, 31, 31, .ro, .none, false, .any, 0⟩
def tmgTallyStatMismatch : Fld := ⟨.tmgTallyStat, 30, 30, .w1c, .none, false, .any, 0⟩
def tmgTallyStatLeakValid : Fld := ⟨.tmgTallyStat, 29, 29, .w1c, .none, false, .any, 0⟩
def tmgTallyStatSuspects : Fld := ⟨.tmgTallyStat, 18, 0, .ro, .none, false, .any, 0⟩
-- TMG_TALLY_LEAK_PTR (R218)
def tmgTallyLeakPtrOwner : Fld := ⟨.tmgTallyLeakPtr, 31, 20, .ro, .none, false, .any, 0⟩
def tmgTallyLeakPtrPtr : Fld := ⟨.tmgTallyLeakPtr, 19, 0, .ro, .none, false, .any, 0⟩
-- TMG_EDIT_CONFLICT (R257)
-- TMG_PTP_MISS (R257)
-- TMG_CNT (R218)
def cTmgNoCell : Nat := 0
def cTmgNoBuffer : Nat := 1
def cTmgEnqDrop : Nat := 2
def cTmgAgeDrop : Nat := 3
def cTmgCtFrames : Nat := 4
def cTmgCtStomp : Nat := 5
def cTmgBufPointer : Nat := 6
def cTmgForeignFree : Nat := 7
def cTmgDoubleFree : Nat := 8
def cTmgBufChain : Nat := 9
def cTmgTallyLeak : Nat := 10
def cTmgTallyReclaim : Nat := 11
def cTmgSpillFrames : Nat := 12
-- SCH_SUB_CFG (R255)
def schSubCfgEn : Fld := ⟨.schSubCfg, 31, 31, .rw, .t, false, .any, 0⟩
def schSubCfgPrio : Fld := ⟨.schSubCfg, 30, 28, .rw, .l, false, .any, 0⟩
def schSubCfgWeight : Fld := ⟨.schSubCfg, 27, 20, .rw, .l, false, .nonzero, 1⟩
def schSubCfgParent : Fld := ⟨.schSubCfg, 11, 0, .rw, .t, false, .any, 0⟩
-- SCH_SUB_CIR (R255)
def schSubCirRst : Fld := ⟨.schSubCir, 31, 30, .wo, .l, false, (.range 0 2), 0⟩
def schSubCirRate : Fld := ⟨.schSubCir, 29, 0, .rw, .l, false, .any, 0⟩
-- SCH_SUB_PIR (R255)
def schSubPirRst : Fld := ⟨.schSubPir, 31, 30, .wo, .l, false, (.range 0 2), 0⟩
def schSubPirRate : Fld := ⟨.schSubPir, 29, 0, .rw, .l, false, .any, 0⟩
-- SCH_SUB_BURST (R255)
def schSubBurstRst : Fld := ⟨.schSubBurst, 31, 30, .wo, .l, false, (.range 0 2), 0⟩
def schSubBurstPbs : Fld := ⟨.schSubBurst, 29, 15, .rw, .l, false, .nonzero, 64⟩
def schSubBurstCbs : Fld := ⟨.schSubBurst, 14, 0, .rw, .l, false, .nonzero, 64⟩
-- SCH_SUB_Q (R255)
def schSubQSample : Fld := ⟨.schSubQ, 14, 14, .rw, .l, false, .any, 0⟩
def schSubQGate : Fld := ⟨.schSubQ, 13, 11, .rw, .l, false, .any, 0⟩
def schSubQPrio : Fld := ⟨.schSubQ, 10, 8, .rw, .l, false, .any, 0⟩
def schSubQWeight : Fld := ⟨.schSubQ, 7, 0, .rw, .l, false, .nonzero, 1⟩
-- SCH_SVC_CFG (R255)
def schSvcCfgEn : Fld := ⟨.schSvcCfg, 31, 31, .rw, .t, false, .any, 0⟩
def schSvcCfgPrio : Fld := ⟨.schSvcCfg, 30, 28, .rw, .l, false, .any, 0⟩
def schSvcCfgWeight : Fld := ⟨.schSvcCfg, 27, 20, .rw, .l, false, .nonzero, 1⟩
def schSvcCfgParent : Fld := ⟨.schSvcCfg, 7, 0, .rw, .t, false, .any, 0⟩
-- SCH_SVC_CIR (R255)
def schSvcCirRst : Fld := ⟨.schSvcCir, 31, 30, .wo, .l, false, (.range 0 2), 0⟩
def schSvcCirRate : Fld := ⟨.schSvcCir, 29, 0, .rw, .l, false, .any, 0⟩
-- SCH_SVC_PIR (R255)
def schSvcPirRst : Fld := ⟨.schSvcPir, 31, 30, .wo, .l, false, (.range 0 2), 0⟩
def schSvcPirRate : Fld := ⟨.schSvcPir, 29, 0, .rw, .l, false, .any, 0⟩
-- SCH_SVC_BURST (R255)
def schSvcBurstRst : Fld := ⟨.schSvcBurst, 31, 30, .wo, .l, false, (.range 0 2), 0⟩
def schSvcBurstPbs : Fld := ⟨.schSvcBurst, 29, 15, .rw, .l, false, .nonzero, 64⟩
def schSvcBurstCbs : Fld := ⟨.schSvcBurst, 14, 0, .rw, .l, false, .nonzero, 64⟩
-- SCH_PORT_CFG (R255)
def schPortCfgEn : Fld := ⟨.schPortCfg, 31, 31, .rw, .t, false, .any, 0⟩
def schPortCfgLenAdj : Fld := ⟨.schPortCfg, 30, 24, .rw, .l, false, .any, 20⟩
def schPortCfgTxLat : Fld := ⟨.schPortCfg, 15, 0, .ro, .none, false, .any, 0⟩
-- SCH_PORT_PIR (R255)
def schPortPirRst : Fld := ⟨.schPortPir, 31, 30, .wo, .l, false, (.range 0 2), 0⟩
def schPortPirRate : Fld := ⟨.schPortPir, 29, 0, .rw, .l, false, .any, 0⟩
-- SCH_PORT_BURST (R255)
def schPortBurstRst : Fld := ⟨.schPortBurst, 31, 30, .wo, .l, false, (.range 0 2), 0⟩
def schPortBurstPbs : Fld := ⟨.schPortBurst, 29, 15, .rw, .l, false, .nonzero, 64⟩
def schPortBurstCbs : Fld := ⟨.schPortBurst, 14, 0, .rw, .l, false, .nonzero, 64⟩
-- SCH_GATE_CTRL (R255)
def schGateCtrlGateEn : Fld := ⟨.schGateCtrl, 31, 31, .rw, .l, false, .any, 0⟩
def schGateCtrlConfigChange : Fld := ⟨.schGateCtrl, 30, 30, .w1s, .l, false, .any, 0⟩
def schGateCtrlPending : Fld := ⟨.schGateCtrl, 29, 29, .ro, .none, false, .any, 0⟩
def schGateCtrlErr : Fld := ⟨.schGateCtrl, 28, 27, .ro, .none, false, .any, 0⟩
def schGateCtrlAdminLen : Fld := ⟨.schGateCtrl, 10, 0, .rw, .l, false, .any, 0⟩
-- SCH_GATE_BASE_NS (R255)
def schGateBaseNsNs : Fld := ⟨.schGateBaseNs, 29, 0, .rw, .l, false, (.range 0 999999999), 0⟩
-- SCH_GATE_BASE_SEC_LO (R255)
def schGateBaseSecLoSec : Fld := ⟨.schGateBaseSecLo, 31, 0, .rw, .l, false, .any, 0⟩
-- SCH_GATE_BASE_SEC_HI (R255)
def schGateBaseSecHiSec : Fld := ⟨.schGateBaseSecHi, 15, 0, .rw, .l, false, .any, 0⟩
-- SCH_GATE_CYCLE (R255)
def schGateCycleCycle : Fld := ⟨.schGateCycle, 29, 0, .rw, .l, false, .any, 1000000⟩
-- SCH_GATE_EXT (R255)
def schGateExtExt : Fld := ⟨.schGateExt, 29, 0, .rw, .l, false, .any, 0⟩
-- SCH_GATE_CHG_NS (R255)
def schGateChgNsChg : Fld := ⟨.schGateChgNs, 29, 0, .ro, .none, false, .any, 0⟩
-- SCH_GATE_CHG_SEC_LO (R255)
def schGateChgSecLoChg : Fld := ⟨.schGateChgSecLo, 31, 0, .ro, .none, false, .any, 0⟩
-- SCH_GATE_CHG_SEC_HI (R255)
def schGateChgSecHiChg : Fld := ⟨.schGateChgSecHi, 15, 0, .ro, .none, false, .any, 0⟩
-- SCH_GATE_OPER (R255)
def schGateOperStates : Fld := ⟨.schGateOper, 31, 24, .ro, .none, false, .any, 255⟩
def schGateOperIndex : Fld := ⟨.schGateOper, 20, 11, .ro, .none, false, .any, 0⟩
def schGateOperOperLen : Fld := ⟨.schGateOper, 10, 0, .ro, .none, false, .any, 0⟩
-- SCH_SAMPLE_CFG (R255)
def schSampleCfgEn : Fld := ⟨.schSampleCfg, 31, 31, .rw, .l, false, .any, 0⟩
def schSampleCfgRing : Fld := ⟨.schSampleCfg, 30, 17, .rw, .l, false, .any, 0⟩
def schSampleCfgPeriod : Fld := ⟨.schSampleCfg, 16, 0, .rw, .l, false, (.range 1 100000), 100⟩
-- SCH_CNT (R255)
def cSchGateOversize : Nat := 0
def cSchGateHold : Nat := 1
def cSchSampleLate : Nat := 2
def cSchSampleDrop : Nat := 3
-- FSL_CTRL (R121)
def fslCtrlRebuild : Fld := ⟨.fslCtrl, 1, 1, .w1s, .l, false, .any, 0⟩
def fslCtrlSweepNow : Fld := ⟨.fslCtrl, 0, 0, .w1s, .l, false, .any, 0⟩
-- FSL_STAT (R121)
def fslStatState : Fld := ⟨.fslStat, 31, 30, .ro, .none, false, .any, 0⟩
def fslStatSlot : Fld := ⟨.fslStat, 27, 24, .ro, .none, false, .any, 0⟩
def fslStatRebuilding : Fld := ⟨.fslStat, 1, 1, .ro, .none, false, .any, 0⟩
def fslStatSweeping : Fld := ⟨.fslStat, 0, 0, .ro, .none, false, .any, 0⟩
-- FSL_OCC (R121)
def fslOccStashOcc : Fld := ⟨.fslOcc, 28, 16, .ro, .none, false, .any, 0⟩
def fslOccLedgerOcc : Fld := ⟨.fslOcc, 6, 0, .ro, .none, false, .any, 0⟩
-- FSL_COMPACT_CNT (R121)
def fslCompactCntCount : Fld := ⟨.fslCompactCnt, 31, 0, .ro, .none, false, .any, 0⟩
-- FSL_WIDE_CNT (R121)
def fslWideCntCount : Fld := ⟨.fslWideCnt, 31, 0, .ro, .none, false, .any, 0⟩
-- FSL_CHECK_ADDR (R121)
def fslCheckAddrValid : Fld := ⟨.fslCheckAddr, 31, 31, .w1c, .none, false, .any, 0⟩
def fslCheckAddrBucket : Fld := ⟨.fslCheckAddr, 25, 2, .ro, .none, false, .any, 0⟩
def fslCheckAddrSlot : Fld := ⟨.fslCheckAddr, 1, 0, .ro, .none, false, .any, 0⟩
-- FSL_CNT (R121)
def cFslHit : Nat := 0
def cFslMiss : Nat := 1
def cFslInsert : Nat := 2
def cFslInsertFail : Nat := 3
def cFslKick : Nat := 4
def cFslStashIn : Nat := 5
def cFslStashOut : Nat := 6
def cFslAgeDelete : Nat := 7
def cFslAgeNotify : Nat := 8
def cFslHostCmd : Nat := 9
def cFslWbApplied : Nat := 10
def cFslWbOrphan : Nat := 11
def cFslLedgerServed : Nat := 12
def cFslGuardWait : Nat := 13
def cFslCheckError : Nat := 14
def cFslLostLine : Nat := 15
def cFslOvfSat : Nat := 16
def cFslSweepLate : Nat := 17
def cFslPathRestart : Nat := 18
def cFslPinOver : Nat := 19
-- FST_CTRL (R120)
def fstCtrlSwSeed : Fld := ⟨.fstCtrl, 1, 1, .rwl, .s, false, .any, 0⟩
def fstCtrlEnable : Fld := ⟨.fstCtrl, 0, 0, .rwl, .s, false, .any, 0⟩
-- FST_STAT (R120)
def fstStatRebuildActive : Fld := ⟨.fstStat, 8, 8, .ro, .none, false, .any, 0⟩
def fstStatTakeoverSlot : Fld := ⟨.fstStat, 7, 4, .ro, .none, false, .any, 0⟩
def fstStatTakeoverActive : Fld := ⟨.fstStat, 3, 3, .ro, .none, false, .any, 0⟩
def fstStatSpareAvail : Fld := ⟨.fstStat, 2, 2, .ro, .none, false, .any, 1⟩
def fstStatClearing : Fld := ⟨.fstStat, 1, 1, .ro, .none, false, .any, 0⟩
def fstStatReady : Fld := ⟨.fstStat, 0, 0, .ro, .none, false, .any, 0⟩
-- FST_MAX_KICKS (R120)
def fstMaxKicksKicks : Fld := ⟨.fstMaxKicks, 4, 0, .rw, .l, false, (.range 0 16), 4⟩
-- FST_AGE_CFG (R120)
def fstAgeCfgAgeTick : Fld := ⟨.fstAgeCfg, 19, 0, .rw, .s, false, (.range 16 1000000), 1000⟩
-- FST_SWEEP_CFG (R120)
def fstSweepCfgEn : Fld := ⟨.fstSweepCfg, 16, 16, .rw, .l, false, .any, 1⟩
def fstSweepCfgInterval : Fld := ⟨.fstSweepCfg, 15, 0, .rw, .l, false, (.range 1 60000), 1000⟩
-- FST_AGE_NOW (R120)
def fstAgeNowNow : Fld := ⟨.fstAgeNow, 15, 0, .ro, .none, false, .any, 0⟩
-- FST_GUARD_CFG (R120)
def fstGuardCfgReinsertGuard : Fld := ⟨.fstGuardCfg, 15, 8, .rw, .l, false, (.range 15 100), 20⟩
def fstGuardCfgStashRetry : Fld := ⟨.fstGuardCfg, 7, 0, .rw, .l, false, .any, 1⟩
-- FST_SEED (R120)
def fstSeedSeed : Fld := ⟨.fstSeed, 31, 0, .wo, .s, false, .any, 0⟩
-- FST_SAVE_BASE_LO (R120)
def fstSaveBaseLoBase : Fld := ⟨.fstSaveBaseLo, 31, 12, .rw, .s, false, .any, 0⟩
-- FST_SAVE_BASE_HI (R120)
def fstSaveBaseHiBase : Fld := ⟨.fstSaveBaseHi, 1, 0, .rw, .s, false, .any, 0⟩
-- FST_TAKEOVER (R120)
def fstTakeoverGo : Fld := ⟨.fstTakeover, 31, 31, .w1s, .l, false, .any, 0⟩
def fstTakeoverSlot : Fld := ⟨.fstTakeover, 3, 0, .rw, .l, false, .any, 0⟩
-- FSL_SLICE_MAP (R120)
def fslSliceMapState : Fld := ⟨.fslSliceMap, 31, 30, .ro, .none, false, .any, 0⟩
def fslSliceMapPhys : Fld := ⟨.fslSliceMap, 4, 0, .ro, .none, false, .any, 0⟩
-- FST_TPROF (R120)
def fstTprofToOdd : Fld := ⟨.fstTprof, 30, 16, .rw, .l, false, .any, 1000⟩
def fstTprofToEven : Fld := ⟨.fstTprof, 14, 0, .rw, .l, false, .any, 1000⟩
-- FST_TPROF_ACT (R120)
def fstTprofActDelete : Fld := ⟨.fstTprofAct, 4, 4, .rw, .l, false, .any, 1⟩
def fstTprofActNotify : Fld := ⟨.fstTprofAct, 3, 3, .rw, .l, false, .any, 0⟩
def fstTprofActExport : Fld := ⟨.fstTprofAct, 2, 2, .rw, .l, false, .any, 0⟩
def fstTprofActNatReturn : Fld := ⟨.fstTprofAct, 1, 1, .rw, .l, false, .any, 1⟩
def fstTprofActDuoDelete : Fld := ⟨.fstTprofAct, 0, 0, .rw, .l, false, .any, 1⟩
-- FST_INS (R120)
def fstInsTprof : Fld := ⟨.fstIns, 7, 4, .rw, .t, false, .any, 0⟩
def fstInsNoage : Fld := ⟨.fstIns, 3, 3, .rw, .t, false, .any, 0⟩
def fstInsExport : Fld := ⟨.fstIns, 2, 2, .rw, .t, false, .any, 0⟩
def fstInsPinned : Fld := ⟨.fstIns, 1, 1, .rw, .t, false, .any, 0⟩
-- FST_NAT_BASE (R162)
def fstNatBaseBase : Fld := ⟨.fstNatBase, 29, 0, .rwl, .s, false, .any, 0⟩
-- FST_BE_CFG (R162)
def fstBeCfgProbe : Fld := ⟨.fstBeCfg, 3, 0, .rw, .l, false, .any, 7⟩
-- FST_IPFIX_CFG (R162)
def fstIpfixCfgEn : Fld := ⟨.fstIpfixCfg, 31, 31, .rw, .l, false, .any, 0⟩
def fstIpfixCfgToRing : Fld := ⟨.fstIpfixCfg, 30, 30, .rw, .l, false, .any, 0⟩
def fstIpfixCfgRing : Fld := ⟨.fstIpfixCfg, 29, 16, .rw, .l, false, .any, 0⟩
def fstIpfixCfgMsgMax : Fld := ⟨.fstIpfixCfg, 15, 11, .rw, .l, false, (.range 4 12), 11⟩
def fstIpfixCfgFlush : Fld := ⟨.fstIpfixCfg, 10, 0, .rw, .l, false, .nonzero, 1000⟩
-- FST_IPFIX_DOMAIN (R162)
def fstIpfixDomainDomain : Fld := ⟨.fstIpfixDomain, 31, 0, .rw, .l, false, .any, 0⟩
-- FST_IPFIX_TIMERS (R162)
def fstIpfixTimersTmplRefresh : Fld := ⟨.fstIpfixTimers, 31, 16, .rw, .l, false, .nonzero, 600⟩
def fstIpfixTimersActive : Fld := ⟨.fstIpfixTimers, 14, 0, .rw, .l, false, .any, 0⟩
-- FST_CNT (R162)
def cFstNatAlloc : Nat := 0
def cFstNatReturn : Nat := 1
def cFstNatExhaust : Nat := 2
def cFstNatBadReturn : Nat := 3
def cFstCompFail : Nat := 4
def cFstBeEmpty : Nat := 5
def cFstIpfixRec : Nat := 6
def cFstIpfixDrop : Nat := 7
-- FST_COLL (R162)
def fstCollEn : Fld := ⟨.fstColl, 31, 31, .rw, .l, false, .any, 0⟩
def fstCollPipe : Fld := ⟨.fstColl, 28, 24, .rw, .l, false, .any, 0⟩
def fstCollTmpl : Fld := ⟨.fstColl, 23, 12, .rw, .l, false, .any, 0⟩
-- FST_COLL_ZLO (R162)
def fstCollZloZone : Fld := ⟨.fstCollZlo, 23, 0, .rw, .l, false, .any, 0⟩
-- FST_COLL_ZHI (R162)
def fstCollZhiZone : Fld := ⟨.fstCollZhi, 23, 0, .rw, .l, false, .any, 16777215⟩
-- FWD_STAT (R185)
def fwdStatFdbOcc : Fld := ⟨.fwdStat, 20, 0, .ro, .none, false, .any, 0⟩
-- FWD_FDB_AGE (R185)
def fwdFdbAgeEn : Fld := ⟨.fwdFdbAge, 31, 31, .rw, .l, false, .any, 1⟩
def fwdFdbAgeTimeout : Fld := ⟨.fwdFdbAge, 30, 16, .rw, .l, false, .any, 300⟩
def fwdFdbAgeTick : Fld := ⟨.fwdFdbAge, 15, 0, .rw, .l, false, .nonzero, 100⟩
-- FWD_FDB_NOW (R185)
def fwdFdbNowNow : Fld := ⟨.fwdFdbNow, 15, 0, .ro, .none, false, .any, 0⟩
-- FWD_LEARN_CFG (R185)
def fwdLearnCfgNotifyLearn : Fld := ⟨.fwdLearnCfg, 31, 31, .rw, .l, false, .any, 0⟩
def fwdLearnCfgNotifyMove : Fld := ⟨.fwdLearnCfg, 30, 30, .rw, .l, false, .any, 0⟩
def fwdLearnCfgNotifyAge : Fld := ⟨.fwdLearnCfg, 29, 29, .rw, .l, false, .any, 0⟩
-- FWD_RMAC_LO (R185)
def fwdRmacLoMacLo : Fld := ⟨.fwdRmacLo, 31, 0, .rw, .t, false, .any, 0⟩
-- FWD_RMAC_HI (R185)
def fwdRmacHiValid : Fld := ⟨.fwdRmacHi, 31, 31, .rw, .t, false, .any, 0⟩
def fwdRmacHiMacHi : Fld := ⟨.fwdRmacHi, 15, 0, .rw, .t, false, .any, 0⟩
-- FWD_MTU (R185)
def fwdMtuMtu : Fld := ⟨.fwdMtu, 13, 0, .rw, .t, false, (.range 68 9198), 1500⟩
-- FWD_LPORT (R185)
def fwdLportLearn : Fld := ⟨.fwdLport, 31, 31, .rw, .t, false, .any, 0⟩
def fwdLportBdMode : Fld := ⟨.fwdLport, 30, 30, .rw, .t, false, .any, 0⟩
def fwdLportBd : Fld := ⟨.fwdLport, 29, 16, .rw, .t, false, .any, 0⟩
def fwdLportPvid : Fld := ⟨.fwdLport, 11, 0, .rw, .t, false, .any, 1⟩
-- FWD_EGR (R185)
def fwdEgrTagged : Fld := ⟨.fwdEgr, 31, 31, .rw, .t, false, .any, 0⟩
def fwdEgrDefNode : Fld := ⟨.fwdEgr, 30, 16, .rw, .t, false, .any, 0⟩
def fwdEgrTcMap : Fld := ⟨.fwdEgr, 15, 0, .rw, .t, false, .any, 0⟩
-- FWD_CNT (R185)
def cFwdLearnOk : Nat := 0
def cFwdLearnFail : Nat := 1
def cFwdLearnDrop : Nat := 2
def cFwdAgeOut : Nat := 3
def cFwdFlood : Nat := 4
def cFwdDiscard : Nat := 5
def cFwdRouteDrop : Nat := 6
def cFwdRmacNonip : Nat := 7
-- FWD_SUB_BASE (R187)
def fwdSubBaseBase : Fld := ⟨.fwdSubBase, 2, 0, .rwl, .s, false, .any, 0⟩
-- FWD_SUB_VALID (R187)
def fwdSubValidCount : Fld := ⟨.fwdSubValid, 23, 0, .ro, .none, false, .any, 0⟩
-- DUO_CTRL (R317)
def duoCtrlEn : Fld := ⟨.duoCtrl, 31, 31, .rwl, .s, false, .any, 0⟩
def duoCtrlYield : Fld := ⟨.duoCtrl, 30, 30, .rw, .l, false, .any, 0⟩
def duoCtrlDigestNow : Fld := ⟨.duoCtrl, 29, 29, .w1s, .l, false, .any, 0⟩
def duoCtrlDigestPeriod : Fld := ⟨.duoCtrl, 15, 0, .rw, .l, false, .any, 60⟩
-- DUO_STAT (R317)
def duoStatReconciling : Fld := ⟨.duoStat, 31, 31, .ro, .none, false, .any, 0⟩
def duoStatYielding : Fld := ⟨.duoStat, 30, 30, .ro, .none, false, .any, 0⟩
def duoStatShadow : Fld := ⟨.duoStat, 7, 0, .ro, .none, false, .any, 0⟩
-- DUO_TIMERS (R317)
def duoTimersLeaseTimeout : Fld := ⟨.duoTimers, 31, 16, .rwl, .s, false, .any, 80⟩
def duoTimersLeasePeriod : Fld := ⟨.duoTimers, 15, 0, .rwl, .s, false, .any, 20⟩
-- DUO_SYNC_CFG (R317)
def duoSyncCfgVersions : Fld := ⟨.duoSyncCfg, 31, 28, .rwl, .s, false, .any, 3⟩
def duoSyncCfgDeltaEvery : Fld := ⟨.duoSyncCfg, 27, 24, .rw, .l, false, .any, 4⟩
def duoSyncCfgRetx : Fld := ⟨.duoSyncCfg, 23, 16, .rw, .l, false, (.range 10 200), 40⟩
def duoSyncCfgStrictWait : Fld := ⟨.duoSyncCfg, 15, 8, .rw, .l, false, (.range 1 20), 20⟩
def duoSyncCfgRetry : Fld := ⟨.duoSyncCfg, 7, 0, .rw, .l, false, .any, 100⟩
-- DUO_YIELD_MASK (R317)
def duoYieldMaskMask : Fld := ⟨.duoYieldMask, 31, 0, .rw, .l, false, .any, 0⟩
-- DUO_MAC_LO (R317)
def duoMacLoMacLo : Fld := ⟨.duoMacLo, 31, 0, .rwl, .s, false, .any, 0⟩
-- DUO_MAC_HI (R317)
def duoMacHiMacHi : Fld := ⟨.duoMacHi, 15, 0, .rwl, .s, false, .any, 0⟩
-- DUO_RETX_BASE (R317)
def duoRetxBaseBase : Fld := ⟨.duoRetxBase, 6, 0, .rwl, .s, false, .any, 0⟩
-- DUO_PARTNER_CFG (R317)
def duoPartnerCfgEn : Fld := ⟨.duoPartnerCfg, 31, 31, .rwl, .s, false, .any, 0⟩
def duoPartnerCfgAltEn : Fld := ⟨.duoPartnerCfg, 30, 30, .rwl, .s, false, .any, 0⟩
def duoPartnerCfgDevice : Fld := ⟨.duoPartnerCfg, 17, 0, .rwl, .s, false, .any, 0⟩
-- DUO_PARTNER_PORT (R317)
def duoPartnerPortPort : Fld := ⟨.duoPartnerPort, 31, 24, .rwl, .s, false, .any, 0⟩
def duoPartnerPortAltPort : Fld := ⟨.duoPartnerPort, 23, 16, .rwl, .s, false, .any, 0⟩
-- DUO_PARTNER_SQID (R317)
def duoPartnerSqidQid : Fld := ⟨.duoPartnerSqid, 16, 0, .rwl, .s, false, .any, 0⟩
-- DUO_PARTNER_TQID (R317)
def duoPartnerTqidQid : Fld := ⟨.duoPartnerTqid, 16, 0, .rwl, .s, false, .any, 0⟩
-- DUO_PARTNER_ASQID (R317)
def duoPartnerAsqidQid : Fld := ⟨.duoPartnerAsqid, 16, 0, .rwl, .s, false, .any, 0⟩
-- DUO_PARTNER_ATQID (R317)
def duoPartnerAtqidQid : Fld := ⟨.duoPartnerAtqid, 16, 0, .rwl, .s, false, .any, 0⟩
-- DUO_PARTNER_MAC_LO (R317)
def duoPartnerMacLoMacLo : Fld := ⟨.duoPartnerMacLo, 31, 0, .rwl, .s, false, .any, 0⟩
-- DUO_PARTNER_MAC_HI (R317)
def duoPartnerMacHiMacHi : Fld := ⟨.duoPartnerMacHi, 15, 0, .rwl, .s, false, .any, 0⟩
-- DUO_PARTNER_STAT (R317)
def duoPartnerStatState : Fld := ⟨.duoPartnerStat, 31, 29, .ro, .none, false, .any, 0⟩
def duoPartnerStatVer : Fld := ⟨.duoPartnerStat, 28, 27, .ro, .none, false, .any, 0⟩
def duoPartnerStatPeerYield : Fld := ⟨.duoPartnerStat, 26, 26, .ro, .none, false, .any, 0⟩
def duoPartnerStatReason : Fld := ⟨.duoPartnerStat, 25, 24, .ro, .none, false, .any, 0⟩
def duoPartnerStatPass : Fld := ⟨.duoPartnerStat, 23, 22, .ro, .none, false, .any, 0⟩
def duoPartnerStatUnacked : Fld := ⟨.duoPartnerStat, 16, 0, .ro, .none, false, .any, 0⟩
-- DUO_PARTNER_BOOT (R317)
def duoPartnerBootPeerBoot : Fld := ⟨.duoPartnerBoot, 31, 0, .ro, .none, false, .any, 0⟩
-- DUO_CNT (R317)
def cDuoTxMsg : Nat := 0
def cDuoRxMsg : Nat := 1
def cDuoRetx : Nat := 2
def cDuoRefused : Nat := 3
def cDuoSteerOut : Nat := 4
def cDuoSteerIn : Nat := 5
def cDuoSteerNowhere : Nat := 6
def cDuoSteerBadfh : Nat := 7
def cDuoSteerOversize : Nat := 8
def cDuoStrictParked : Nat := 9
def cDuoStrictTimeout : Nat := 10
def cDuoParkFull : Nat := 11
def cDuoUnmirrored : Nat := 12
def cDuoConflict : Nat := 13
def cDuoClaimDup : Nat := 14
def cDuoRxBad : Nat := 15
def cDuoWindowFull : Nat := 16
-- TSK_CTRL (R276)
def tskCtrlEnable : Fld := ⟨.tskCtrl, 31, 31, .rw, .l, false, .any, 0⟩
def tskCtrlSvcTimeout : Fld := ⟨.tskCtrl, 15, 0, .rw, .l, false, .any, 1000⟩
-- TSK_STAT (R276)
def tskStatItemsFree : Fld := ⟨.tskStat, 30, 14, .ro, .none, false, .any, 65536⟩
def tskStatBufFree : Fld := ⟨.tskStat, 13, 0, .ro, .none, false, .any, 8192⟩
-- TSK_MEM_BASE (R276)
def tskMemBaseBase : Fld := ⟨.tskMemBase, 3, 0, .rwl, .s, false, .any, 0⟩
-- TSK_HIST_SEL (R276)
def tskHistSelWq : Fld := ⟨.tskHistSel, 11, 0, .rw, .l, false, .any, 0⟩
-- TSK_HIST_BIN (R276)
def tskHistBinCount : Fld := ⟨.tskHistBin, 31, 0, .rc, .none, false, .any, 0⟩
-- TSK_PUNT_ROUTE (R276)
def tskPuntRouteToRing : Fld := ⟨.tskPuntRoute, 31, 31, .rw, .l, false, .any, 0⟩
def tskPuntRouteSpread : Fld := ⟨.tskPuntRoute, 30, 30, .rw, .l, false, .any, 0⟩
def tskPuntRouteTarget : Fld := ⟨.tskPuntRoute, 13, 0, .rw, .l, false, .any, 0⟩
-- TSK_AGE_ROUTE (R276)
def tskAgeRouteEn : Fld := ⟨.tskAgeRoute, 31, 31, .rw, .l, false, .any, 0⟩
def tskAgeRouteWq : Fld := ⟨.tskAgeRoute, 11, 0, .rw, .l, false, .any, 0⟩
-- TSK_GROUP_CFG (R276)
def tskGroupCfgSlot : Fld := ⟨.tskGroupCfg, 31, 31, .rw, .s, false, .any, 0⟩
def tskGroupCfgEntry : Fld := ⟨.tskGroupCfg, 25, 0, .rw, .s, false, .align4, 0⟩
-- TSK_CORE_CTRL (R276)
def tskCoreCtrlRun : Fld := ⟨.tskCoreCtrl, 31, 31, .rw, .l, false, .any, 0⟩
def tskCoreCtrlReset : Fld := ⟨.tskCoreCtrl, 30, 30, .w1s, .l, false, .any, 0⟩
def tskCoreCtrlGroup : Fld := ⟨.tskCoreCtrl, 3, 0, .rw, .s, false, .any, 0⟩
-- TSK_CORE_STAT (R276)
def tskCoreStatState : Fld := ⟨.tskCoreStat, 31, 30, .ro, .none, false, .any, 0⟩
def tskCoreStatItems : Fld := ⟨.tskCoreStat, 2, 0, .ro, .none, false, .any, 0⟩
-- TSK_CORE_BUSY (R276)
-- TSK_WQ_CFG (R276)
def tskWqCfgEn : Fld := ⟨.tskWqCfg, 31, 31, .rw, .l, false, .any, 0⟩
def tskWqCfgMode : Fld := ⟨.tskWqCfg, 30, 29, .rw, .s, false, (.range 0 2), 0⟩
def tskWqCfgPrio : Fld := ⟨.tskWqCfg, 28, 26, .rw, .l, false, .any, 0⟩
def tskWqCfgGroups : Fld := ⟨.tskWqCfg, 15, 0, .rw, .l, false, .any, 0⟩
-- TSK_WQ_LIMIT (R276)
def tskWqLimitDepthMax : Fld := ⟨.tskWqLimit, 31, 16, .rw, .l, false, .nonzero, 1024⟩
def tskWqLimitInflightMax : Fld := ⟨.tskWqLimit, 9, 0, .rw, .l, false, (.range 1 512), 64⟩
-- TSK_WQ_STAT (R276)
def tskWqStatDepth : Fld := ⟨.tskWqStat, 31, 16, .ro, .none, false, .any, 0⟩
def tskWqStatInflight : Fld := ⟨.tskWqStat, 9, 0, .ro, .none, false, .any, 0⟩
-- TSK_CNT (R276)
def cTskAdmit : Nat := 0
def cTskDispatch : Nat := 1
def cTskDone : Nat := 2
def cTskNoQueue : Nat := 3
def cTskBpClocks : Nat := 4
def cTskPostFull : Nat := 5
def cTskSvcTimeout : Nat := 6
def cTskAbandon : Nat := 7
def cTskInject : Nat := 8
def cTskToRing : Nat := 9
def cTskPortMisuse : Nat := 10
-- HBM_PART_CFG (R392)
def hbmPartCfgFlowBase : Fld := ⟨.hbmPartCfg, 31, 24, .rwl, .s, false, .any, 0⟩
def hbmPartCfgDeepBase : Fld := ⟨.hbmPartCfg, 23, 16, .rwl, .s, false, .any, 64⟩
def hbmPartCfgCtrBase : Fld := ⟨.hbmPartCfg, 15, 8, .rwl, .s, false, .any, 112⟩
def hbmPartCfgTblBase : Fld := ⟨.hbmPartCfg, 7, 0, .rwl, .s, false, .any, 128⟩
-- HBM_PAGE_CTRL (R219)
def hbmPageCtrlTallyEn : Fld := ⟨.hbmPageCtrl, 31, 31, .rw, .l, false, .any, 1⟩
def hbmPageCtrlAuditReclaim : Fld := ⟨.hbmPageCtrl, 30, 30, .rw, .l, false, .any, 0⟩
def hbmPageCtrlPdBase : Fld := ⟨.hbmPageCtrl, 21, 16, .rwl, .s, false, .any, 0⟩
def hbmPageCtrlAuditPeriod : Fld := ⟨.hbmPageCtrl, 15, 0, .rw, .l, false, (.range 10 65535), 1000⟩
-- HBM_PAGE_FREE (R219)
def hbmPageFreeCount : Fld := ⟨.hbmPageFree, 23, 0, .ro, .none, false, .any, 12582912⟩
-- HBM_PAGE_LATCH (R219)
def hbmPageLatchValid : Fld := ⟨.hbmPageLatch, 31, 31, .w1c, .none, false, .any, 0⟩
def hbmPageLatchKind : Fld := ⟨.hbmPageLatch, 30, 28, .ro, .none, false, .any, 0⟩
def hbmPageLatchReq : Fld := ⟨.hbmPageLatch, 11, 0, .ro, .none, false, .any, 0⟩
-- HBM_PAGE_LATCH_PTR (R219)
def hbmPageLatchPtrPtr : Fld := ⟨.hbmPageLatchPtr, 23, 0, .ro, .none, false, .any, 0⟩
-- HBM_CNT (R219)
def cHbmPageAlloc : Nat := 0
def cHbmPageRelease : Nat := 1
def cHbmNoPage : Nat := 2
def cHbmSpillBp : Nat := 3
def cHbmPageCheck : Nat := 4
def cHbmTallyLeak : Nat := 5
def cHbmTallyReclaim : Nat := 6
-- counter banks (R455)
def pmcCtrlFreeze : Fld := ⟨.pmcCtrl, 31, 31, .rw, .l, false, .any, 0⟩
def pmcCtrlDumpMask : Fld := ⟨.pmcCtrl, 15, 0, .rw, .l, false, .any, 0⟩
def pmcCycLoCyc : Fld := ⟨.pmcCycLo, 31, 0, .ro, .none, false, .any, 0⟩
def pmcCycHiCyc : Fld := ⟨.pmcCycHi, 31, 0, .ro, .none, false, .any, 0⟩
def pmcCntCfgEn : Fld := ⟨.pmcCntCfg, 31, 31, .rw, .l, false, .any, 0⟩
def pmcCntCfgEdge : Fld := ⟨.pmcCntCfg, 30, 30, .rw, .l, false, .any, 0⟩
def pmcCntCfgChain : Fld := ⟨.pmcCntCfg, 29, 29, .rw, .l, false, .any, 0⟩
def pmcCntCfgOvf : Fld := ⟨.pmcCntCfg, 28, 28, .w1c, .none, false, .any, 0⟩
def pmcCntCfgEvent : Fld := ⟨.pmcCntCfg, 7, 0, .rw, .l, false, .any, 0⟩
def pmcCntLoCnt : Fld := ⟨.pmcCntLo, 31, 0, .rw, .l, true, .any, 0⟩
def pmcCntHiCnt : Fld := ⟨.pmcCntHi, 15, 0, .rw, .l, true, .any, 0⟩

/-- The fields of a register. A counter register has none here: its 64 bits are held whole. -/
def regFields : Reg → List Fld
  | .glbPartId => [glbPartIdPart, glbPartIdFamily, glbPartIdVariant, glbPartIdMajor, glbPartIdMinor]
  | .glbCaps => [glbCapsAbiMajor, glbCapsAbiMinor, glbCapsMacsec, glbCapsDuo, glbCapsPolledDb, glbCapsL1Wake, glbCapsDescV2, glbCapsDescV1]
  | .glbBootStat => [glbBootStatStage, glbBootStatCause]
  | .glbSeal => [glbSealKey]
  | .glbSealStatus => [glbSealStatusState, glbSealStatusCode, glbSealStatusWhere]
  | .glbRestart => [glbRestartKey]
  | .glbDeviceId => [glbDeviceIdId]
  | .glbLaneFail => [glbLaneFailFail]
  | .glbSealDigest => [glbSealDigestDigest]
  | .glbCfgRefused => [glbCfgRefusedCfgWriteRefused, glbCfgRefusedOffset]
  | .glbCfgRefusedInfo => [glbCfgRefusedInfoCause, glbCfgRefusedInfoPort, glbCfgRefusedInfoAgent, glbCfgRefusedInfoCode]
  | .glbCfgRefusedCnt => [glbCfgRefusedCntCount]
  | .glbReadBank => [glbReadBankActive]
  | .glbTurnCommit => [glbTurnCommitGo, glbTurnCommitDiscard]
  | .glbTurnStat => [glbTurnStatState, glbTurnStatResult, glbTurnStatCode, glbTurnStatActive]
  | .glbTurnWhere => [glbTurnWhereWhere]
  | .glbTurnTimeNs => [glbTurnTimeNsNs]
  | .glbTurnTimeSecLo => [glbTurnTimeSecLoSec]
  | .glbTurnTimeSecHi => [glbTurnTimeSecHiSec]
  | .fltFirstSrc => [fltFirstSrcValid, fltFirstSrcSrc]
  | .fltFirstSev => [fltFirstSevEscalated, fltFirstSevSev]
  | .fltFirstTimeLo => [fltFirstTimeLoNs]
  | .fltFirstTimeHi => [fltFirstTimeHiSec]
  | .fltFirstInj => [fltFirstInjInj]
  | .fltFirstInfo => [fltFirstInfoInfo]
  | .fltOverflow => [fltOverflowOverflow]
  | .fltAck => [fltAckClear, fltAckClass]
  | .fltInject => [fltInjectArmed, fltInjectReact, fltInjectKind, fltInjectCount, fltInjectSrc]
  | .fltQuietTime => [fltQuietTimeQuiet]
  | .fltRecoveryCount => [fltRecoveryCountCount]
  | .fltHealthCfg => [fltHealthCfgTest, fltHealthCfgHealthThreshold, fltHealthCfgHealthPeriod]
  | .fltStat => [fltStatFatal, fltStatResetReq, fltStatRestartRefused, fltStatMode, fltStatHealth, fltStatEvtHeld]
  | .fltRestore => [fltRestoreGo, fltRestoreResult, fltRestoreKind, fltRestoreInstance]
  | .fltClassStat => [fltClassStatActive, fltClassStatUnacked, fltClassStatSev, fltClassStatQuietLeft]
  | .fltClassCnt => [fltClassCntCount]
  | .pwrBudget => [pwrBudgetReserve, pwrBudgetWatts]
  | .pwrCtrl => [pwrCtrlEvt, pwrCtrlDeferMax]
  | .pwrStat => [pwrStatBase, pwrStatHeld, pwrStatQueued]
  | .pwrGrantStatus => [pwrGrantStatusOp, pwrGrantStatusOutcome, pwrGrantStatusReason, pwrGrantStatusUnit]
  | .pwrThermCfg => [pwrThermCfgAlertN, pwrThermCfgTripN, pwrThermCfgAlert]
  | .pwrOp => [pwrOpEn, pwrOpClass, pwrOpPips]
  | .pwrTemp => [pwrTempValid, pwrTempDegc]
  | .pwrClkGate0 => [pwrClkGate0Gate]
  | .pwrClkGate1 => [pwrClkGate1Gate]
  | .pwrClkStat => [pwrClkStatRootLock, pwrClkStatLock]
  | .pwrCnt => []
  | .todCtrl => [todCtrlStep, todCtrlOffset, todCtrlPpsMode, todCtrlPpsOutEn]
  | .todStat => [todStatStepPending, todStatPpsSeen, todStatPpsMissing, todStatPpsOutside]
  | .todNowNs => [todNowNsNs]
  | .todNowFrac => [todNowFracFrac]
  | .todNowSecLo => [todNowSecLoSec]
  | .todNowSecHi => [todNowSecHiSec]
  | .todSetNs => [todSetNsNs]
  | .todSetFrac => [todSetFracFrac]
  | .todSetSecLo => [todSetSecLoSec]
  | .todSetSecHi => [todSetSecHiSec]
  | .todAdj => [todAdjAdj]
  | .todOffset => [todOffsetOffset]
  | .todPpsCfg => [todPpsCfgEvt, todPpsCfgPpsDelay]
  | .todPpsWindow => [todPpsWindowWindow]
  | .todPpsCapNs => [todPpsCapNsNs]
  | .todPpsCapFrac => [todPpsCapFracFrac]
  | .todPpsCapSecLo => [todPpsCapSecLoSec]
  | .todPpsCapSecHi => [todPpsCapSecHiSec]
  | .todPpsOutCfg => [todPpsOutCfgWidth, todPpsOutCfgOffset]
  | .todPpsEdges => [todPpsEdgesCount]
  | .todPpsGlitch => [todPpsGlitchCount]
  | .todPpsReject => [todPpsRejectCount]
  | .hifPortRole => [hifPortRolePrimary, hifPortRoleRoles]
  | .hifPollPeriod => [hifPollPeriodPeriod]
  | .hifPrefetchStat => [hifPrefetchStatUsed]
  | .hifEvtRoute => [hifEvtRouteEn, hifEvtRouteRing]
  | .hifAdminBaseLo => [hifAdminBaseLoBase]
  | .hifAdminBaseHi => [hifAdminBaseHiBase]
  | .hifAdminCfg => [hifAdminCfgEn, hifAdminCfgIrqEn, hifAdminCfgVer, hifAdminCfgLog2, hifAdminCfgVector]
  | .hifAdminStat => [hifAdminStatState, hifAdminStatErr, hifAdminStatHead]
  | .hifPortStat => [hifPortStatLinkUp, hifPortStatBme, hifPortStatDState, hifPortStatL1, hifPortStatRings]
  | .hifDenied => [hifDeniedValid, hifDeniedWrite, hifDeniedOffset]
  | .hifCnt => []
  | .hifMsixPba => [hifMsixPbaPend]
  | .hifMsixAddr => [hifMsixAddrAddr]
  | .hifMsixUpper => [hifMsixUpperAddr]
  | .hifMsixData => [hifMsixDataData]
  | .hifMsixCtrl => [hifMsixCtrlMask]
  | .secStat => [secStatOwner, secStatRngOk, secStatKeyReady, secStatBootSet, secStatRevoked, secStatMinSvn]
  | .secLeafLo => [secLeafLoNext]
  | .secLeafHi => [secLeafHiNext]
  | .secTagWrites => [secTagWritesCount]
  | .secSerial => [secSerialId]
  | .secIdcode => [secIdcodeId]
  | .secLotLo => [secLotLoId]
  | .secLotHi => [secLotHiId]
  | .secMeas => [secMeasDigest]
  | .secTag => [secTagTag]
  | .pmuTraceRings => [pmuTraceRingsPkt, pmuTraceRingsInsn]
  | .pmuDumpCfg => [pmuDumpCfgEn, pmuDumpCfgKind, pmuDumpCfgFamily, pmuDumpCfgDie, pmuDumpCfgRing]
  | .pmuDumpPeriod => [pmuDumpPeriodPeriod]
  | .pmuDumpSel => [pmuDumpSelFirst, pmuDumpSelCount]
  | .pmuDumpSeq => [pmuDumpSeqSeq]
  | .pmuTracePpl => [pmuTracePplEn, pmuTracePplMode, pmuTracePplN]
  | .pmuTraceCore => [pmuTraceCoreEn, pmuTraceCoreN]
  | .pmuCnt => []
  | .prtPortCfg => [prtPortCfgEn, prtPortCfgSpeed, prtPortCfgFec, prtPortCfgFirstLane]
  | .prtLanePol => [prtLanePolRxInv, prtLanePolTxInv]
  | .prtPtpAdj => [prtPtpAdjIngAdj, prtPtpAdjEgrAdj]
  | .mscCtrl => [mscCtrlPnThresh]
  | .mscBulkCtrl => [mscBulkCtrlGo, mscBulkCtrlBusy]
  | .mscPnNear => [mscPnNearNear]
  | .mscCnt => []
  | .mscSecyCfg => [mscSecyCfgEn, mscSecyCfgProtect, mscSecyCfgConf, mscSecyCfgIncludeSci, mscSecyCfgEs, mscSecyCfgScb, mscSecyCfgValidate, mscSecyCfgCipher, mscSecyCfgConfOffset, mscSecyCfgReplayProtect]
  | .mscSecyTx => [mscSecyTxTxAn, mscSecyTxNextAn, mscSecyTxArmed, mscSecyTxSaGroup]
  | .mscSecyWin => [mscSecyWinReplayWindow]
  | .mscSecySciLo => [mscSecySciLoSci]
  | .mscSecySciHi => [mscSecySciHiSci]
  | .mscRxscCfg => [mscRxscCfgEn, mscRxscCfgSecy, mscRxscCfgSaGroup]
  | .mscRxscSciLo => [mscRxscSciLoSci]
  | .mscRxscSciHi => [mscRxscSciHiSci]
  | .mscSaCtrl => [mscSaCtrlInUse, mscSaCtrlReady]
  | .mscSaSsci => [mscSaSsciSsci]
  | .mscSaPnLo => [mscSaPnLoPn]
  | .mscSaPnHi => [mscSaPnHiPn]
  | .mscSaKey => [mscSaKeyKey]
  | .mscSaSalt => [mscSaSaltSalt]
  | .pplCtrl => [pplCtrlDrained, pplCtrlDrain, pplCtrlEnable]
  | .pplHoldCfg => [pplHoldCfgHoldTimeout]
  | .pplTurnStat => [pplTurnStatActiveTurn, pplTurnStatDraining, pplTurnStatOldInflight]
  | .pplHoldStat => [pplHoldStatHighWater, pplHoldStatOccupancy]
  | .pplUnresDrop => [pplUnresDropCount]
  | .pplUnresDefault => [pplUnresDefaultCount]
  | .pplPortCfg => [pplPortCfgCtEn, pplPortCfgClsLevel, pplPortCfgStartState, pplPortCfgPortMeta]
  | .pplPortDefLo => [pplPortDefLoProg, pplPortDefLoZprof, pplPortDefLoExc, pplPortDefLoReason, pplPortDefLoTc, pplPortDefLoInsert]
  | .pplPortDefHi => [pplPortDefHiZone, pplPortDefHiKeyMode, pplPortDefHiKeyLevel, pplPortDefHiProg]
  | .pplRangeCfg => [pplRangeCfgEn, pplRangeCfgInv, pplRangeCfgLevel, pplRangeCfgSrc]
  | .pplRangeBounds => [pplRangeBoundsHi, pplRangeBoundsLo]
  | .pplZprof => [pplZprofOverloadPolicy, pplZprofInsertFailPolicy, pplZprofSymmetric]
  | .pplReason => [pplReasonDisp, pplReasonTrunc, pplReasonRate, pplReasonBurst]
  | .pplReasonCnt => []
  | .pplPuntDrop => []
  | .tmgQcfgA => [tmgQcfgAExpress, tmgQcfgADeep, tmgQcfgAPool, tmgQcfgAAlpha, tmgQcfgAMin]
  | .tmgQcfgB => [tmgQcfgBSpillThresh, tmgQcfgBPageMax]
  | .tmgQcfgC => [tmgQcfgCAgeLimit]
  | .tmgQstat => [tmgQstatState, tmgQstatCells]
  | .tmgNat64Pfx0 => [tmgNat64Pfx0Pfx]
  | .tmgNat64Pfx12 => [tmgNat64Pfx12Pfx]
  | .tmgActDrop => []
  | .tmgMirror => [tmgMirrorEn, tmgMirrorHost, tmgMirrorTrunc, tmgMirrorQid]
  | .tmgSampler => [tmgSamplerEn, tmgSamplerN]
  | .tmgCellFree => [tmgCellFreeCount]
  | .tmgCellQueued => [tmgCellQueuedCount]
  | .tmgCellInflight => [tmgCellInflightCount]
  | .tmgPool => [tmgPoolSize]
  | .tmgPoolUsed => [tmgPoolUsedUsed]
  | .tmgIngLimit => [tmgIngLimitPuntLimit, tmgIngLimitIngLimit]
  | .tmgBufLatch => [tmgBufLatchValid, tmgBufLatchKind, tmgBufLatchReq]
  | .tmgBufLatchAddr => [tmgBufLatchAddrAddr]
  | .tmgTallyCfg => [tmgTallyCfgEn, tmgTallyCfgAuditReclaim, tmgTallyCfgAuditPeriod]
  | .tmgTallyStat => [tmgTallyStatRunning, tmgTallyStatMismatch, tmgTallyStatLeakValid, tmgTallyStatSuspects]
  | .tmgTallyLeakPtr => [tmgTallyLeakPtrOwner, tmgTallyLeakPtrPtr]
  | .tmgEditConflict => []
  | .tmgPtpMiss => []
  | .tmgCnt => []
  | .schSubCfg => [schSubCfgEn, schSubCfgPrio, schSubCfgWeight, schSubCfgParent]
  | .schSubCir => [schSubCirRst, schSubCirRate]
  | .schSubPir => [schSubPirRst, schSubPirRate]
  | .schSubBurst => [schSubBurstRst, schSubBurstPbs, schSubBurstCbs]
  | .schSubQ => [schSubQSample, schSubQGate, schSubQPrio, schSubQWeight]
  | .schSvcCfg => [schSvcCfgEn, schSvcCfgPrio, schSvcCfgWeight, schSvcCfgParent]
  | .schSvcCir => [schSvcCirRst, schSvcCirRate]
  | .schSvcPir => [schSvcPirRst, schSvcPirRate]
  | .schSvcBurst => [schSvcBurstRst, schSvcBurstPbs, schSvcBurstCbs]
  | .schPortCfg => [schPortCfgEn, schPortCfgLenAdj, schPortCfgTxLat]
  | .schPortPir => [schPortPirRst, schPortPirRate]
  | .schPortBurst => [schPortBurstRst, schPortBurstPbs, schPortBurstCbs]
  | .schGateCtrl => [schGateCtrlGateEn, schGateCtrlConfigChange, schGateCtrlPending, schGateCtrlErr, schGateCtrlAdminLen]
  | .schGateBaseNs => [schGateBaseNsNs]
  | .schGateBaseSecLo => [schGateBaseSecLoSec]
  | .schGateBaseSecHi => [schGateBaseSecHiSec]
  | .schGateCycle => [schGateCycleCycle]
  | .schGateExt => [schGateExtExt]
  | .schGateChgNs => [schGateChgNsChg]
  | .schGateChgSecLo => [schGateChgSecLoChg]
  | .schGateChgSecHi => [schGateChgSecHiChg]
  | .schGateOper => [schGateOperStates, schGateOperIndex, schGateOperOperLen]
  | .schSampleCfg => [schSampleCfgEn, schSampleCfgRing, schSampleCfgPeriod]
  | .schCnt => []
  | .fslCtrl => [fslCtrlRebuild, fslCtrlSweepNow]
  | .fslStat => [fslStatState, fslStatSlot, fslStatRebuilding, fslStatSweeping]
  | .fslOcc => [fslOccStashOcc, fslOccLedgerOcc]
  | .fslCompactCnt => [fslCompactCntCount]
  | .fslWideCnt => [fslWideCntCount]
  | .fslCheckAddr => [fslCheckAddrValid, fslCheckAddrBucket, fslCheckAddrSlot]
  | .fslCnt => []
  | .fstCtrl => [fstCtrlSwSeed, fstCtrlEnable]
  | .fstStat => [fstStatRebuildActive, fstStatTakeoverSlot, fstStatTakeoverActive, fstStatSpareAvail, fstStatClearing, fstStatReady]
  | .fstMaxKicks => [fstMaxKicksKicks]
  | .fstAgeCfg => [fstAgeCfgAgeTick]
  | .fstSweepCfg => [fstSweepCfgEn, fstSweepCfgInterval]
  | .fstAgeNow => [fstAgeNowNow]
  | .fstGuardCfg => [fstGuardCfgReinsertGuard, fstGuardCfgStashRetry]
  | .fstSeed => [fstSeedSeed]
  | .fstSaveBaseLo => [fstSaveBaseLoBase]
  | .fstSaveBaseHi => [fstSaveBaseHiBase]
  | .fstTakeover => [fstTakeoverGo, fstTakeoverSlot]
  | .fslSliceMap => [fslSliceMapState, fslSliceMapPhys]
  | .fstTprof => [fstTprofToOdd, fstTprofToEven]
  | .fstTprofAct => [fstTprofActDelete, fstTprofActNotify, fstTprofActExport, fstTprofActNatReturn, fstTprofActDuoDelete]
  | .fstIns => [fstInsTprof, fstInsNoage, fstInsExport, fstInsPinned]
  | .fstNatBase => [fstNatBaseBase]
  | .fstBeCfg => [fstBeCfgProbe]
  | .fstIpfixCfg => [fstIpfixCfgEn, fstIpfixCfgToRing, fstIpfixCfgRing, fstIpfixCfgMsgMax, fstIpfixCfgFlush]
  | .fstIpfixDomain => [fstIpfixDomainDomain]
  | .fstIpfixTimers => [fstIpfixTimersTmplRefresh, fstIpfixTimersActive]
  | .fstCnt => []
  | .fstColl => [fstCollEn, fstCollPipe, fstCollTmpl]
  | .fstCollZlo => [fstCollZloZone]
  | .fstCollZhi => [fstCollZhiZone]
  | .fwdStat => [fwdStatFdbOcc]
  | .fwdFdbAge => [fwdFdbAgeEn, fwdFdbAgeTimeout, fwdFdbAgeTick]
  | .fwdFdbNow => [fwdFdbNowNow]
  | .fwdLearnCfg => [fwdLearnCfgNotifyLearn, fwdLearnCfgNotifyMove, fwdLearnCfgNotifyAge]
  | .fwdRmacLo => [fwdRmacLoMacLo]
  | .fwdRmacHi => [fwdRmacHiValid, fwdRmacHiMacHi]
  | .fwdMtu => [fwdMtuMtu]
  | .fwdLport => [fwdLportLearn, fwdLportBdMode, fwdLportBd, fwdLportPvid]
  | .fwdEgr => [fwdEgrTagged, fwdEgrDefNode, fwdEgrTcMap]
  | .fwdCnt => []
  | .fwdSubBase => [fwdSubBaseBase]
  | .fwdSubValid => [fwdSubValidCount]
  | .duoCtrl => [duoCtrlEn, duoCtrlYield, duoCtrlDigestNow, duoCtrlDigestPeriod]
  | .duoStat => [duoStatReconciling, duoStatYielding, duoStatShadow]
  | .duoTimers => [duoTimersLeaseTimeout, duoTimersLeasePeriod]
  | .duoSyncCfg => [duoSyncCfgVersions, duoSyncCfgDeltaEvery, duoSyncCfgRetx, duoSyncCfgStrictWait, duoSyncCfgRetry]
  | .duoYieldMask => [duoYieldMaskMask]
  | .duoMacLo => [duoMacLoMacLo]
  | .duoMacHi => [duoMacHiMacHi]
  | .duoRetxBase => [duoRetxBaseBase]
  | .duoPartnerCfg => [duoPartnerCfgEn, duoPartnerCfgAltEn, duoPartnerCfgDevice]
  | .duoPartnerPort => [duoPartnerPortPort, duoPartnerPortAltPort]
  | .duoPartnerSqid => [duoPartnerSqidQid]
  | .duoPartnerTqid => [duoPartnerTqidQid]
  | .duoPartnerAsqid => [duoPartnerAsqidQid]
  | .duoPartnerAtqid => [duoPartnerAtqidQid]
  | .duoPartnerMacLo => [duoPartnerMacLoMacLo]
  | .duoPartnerMacHi => [duoPartnerMacHiMacHi]
  | .duoPartnerStat => [duoPartnerStatState, duoPartnerStatVer, duoPartnerStatPeerYield, duoPartnerStatReason, duoPartnerStatPass, duoPartnerStatUnacked]
  | .duoPartnerBoot => [duoPartnerBootPeerBoot]
  | .duoCnt => []
  | .tskCtrl => [tskCtrlEnable, tskCtrlSvcTimeout]
  | .tskStat => [tskStatItemsFree, tskStatBufFree]
  | .tskMemBase => [tskMemBaseBase]
  | .tskHistSel => [tskHistSelWq]
  | .tskHistBin => [tskHistBinCount]
  | .tskPuntRoute => [tskPuntRouteToRing, tskPuntRouteSpread, tskPuntRouteTarget]
  | .tskAgeRoute => [tskAgeRouteEn, tskAgeRouteWq]
  | .tskGroupCfg => [tskGroupCfgSlot, tskGroupCfgEntry]
  | .tskCoreCtrl => [tskCoreCtrlRun, tskCoreCtrlReset, tskCoreCtrlGroup]
  | .tskCoreStat => [tskCoreStatState, tskCoreStatItems]
  | .tskCoreBusy => []
  | .tskWqCfg => [tskWqCfgEn, tskWqCfgMode, tskWqCfgPrio, tskWqCfgGroups]
  | .tskWqLimit => [tskWqLimitDepthMax, tskWqLimitInflightMax]
  | .tskWqStat => [tskWqStatDepth, tskWqStatInflight]
  | .tskCnt => []
  | .hbmPartCfg => [hbmPartCfgFlowBase, hbmPartCfgDeepBase, hbmPartCfgCtrBase, hbmPartCfgTblBase]
  | .hbmPageCtrl => [hbmPageCtrlTallyEn, hbmPageCtrlAuditReclaim, hbmPageCtrlPdBase, hbmPageCtrlAuditPeriod]
  | .hbmPageFree => [hbmPageFreeCount]
  | .hbmPageLatch => [hbmPageLatchValid, hbmPageLatchKind, hbmPageLatchReq]
  | .hbmPageLatchPtr => [hbmPageLatchPtrPtr]
  | .hbmCnt => []
  | .pmcCtrl => [pmcCtrlFreeze, pmcCtrlDumpMask]
  | .pmcCycLo => [pmcCycLoCyc]
  | .pmcCycHi => [pmcCycHiCyc]
  | .pmcCntCfg => [pmcCntCfgEn, pmcCntCfgEdge, pmcCntCfgChain, pmcCntCfgOvf, pmcCntCfgEvent]
  | .pmcCntLo => [pmcCntLoCnt]
  | .pmcCntHi => [pmcCntHiCnt]

/-- Where a register lies: the offset of its first instance and the (count, stride) of each index, outermost first.
The counter banks are placed by `pmcBankBase`. -/
structure Place where
  base : Nat
  dims : List (Nat × Nat)
deriving DecidableEq, Repr

def regPlace : Reg → Place
  | .glbPartId => ⟨0x0, []⟩
  | .glbCaps => ⟨0x4, []⟩
  | .glbBootStat => ⟨0x8, []⟩
  | .glbSeal => ⟨0x10, []⟩
  | .glbSealStatus => ⟨0x14, []⟩
  | .glbRestart => ⟨0x1c, []⟩
  | .glbDeviceId => ⟨0x20, []⟩
  | .glbLaneFail => ⟨0x30, [(8, 0x4)]⟩
  | .glbSealDigest => ⟨0x50, [(8, 0x4)]⟩
  | .glbCfgRefused => ⟨0x70, []⟩
  | .glbCfgRefusedInfo => ⟨0x74, []⟩
  | .glbCfgRefusedCnt => ⟨0x78, []⟩
  | .glbReadBank => ⟨0x7c, []⟩
  | .glbTurnCommit => ⟨0x80, []⟩
  | .glbTurnStat => ⟨0x84, []⟩
  | .glbTurnWhere => ⟨0x88, []⟩
  | .glbTurnTimeNs => ⟨0x90, []⟩
  | .glbTurnTimeSecLo => ⟨0x94, []⟩
  | .glbTurnTimeSecHi => ⟨0x98, []⟩
  | .fltFirstSrc => ⟨0x100000, []⟩
  | .fltFirstSev => ⟨0x100004, []⟩
  | .fltFirstTimeLo => ⟨0x100008, []⟩
  | .fltFirstTimeHi => ⟨0x10000c, []⟩
  | .fltFirstInj => ⟨0x100010, []⟩
  | .fltFirstInfo => ⟨0x100014, []⟩
  | .fltOverflow => ⟨0x100018, []⟩
  | .fltAck => ⟨0x100020, []⟩
  | .fltInject => ⟨0x100024, []⟩
  | .fltQuietTime => ⟨0x100028, []⟩
  | .fltRecoveryCount => ⟨0x10002c, []⟩
  | .fltHealthCfg => ⟨0x100030, []⟩
  | .fltStat => ⟨0x100034, []⟩
  | .fltRestore => ⟨0x100040, []⟩
  | .fltClassStat => ⟨0x100100, [(64, 0x4)]⟩
  | .fltClassCnt => ⟨0x100200, [(64, 0x4)]⟩
  | .pwrBudget => ⟨0x200000, []⟩
  | .pwrCtrl => ⟨0x200004, []⟩
  | .pwrStat => ⟨0x200008, []⟩
  | .pwrGrantStatus => ⟨0x20000c, []⟩
  | .pwrThermCfg => ⟨0x200010, []⟩
  | .pwrOp => ⟨0x200040, [(12, 0x4)]⟩
  | .pwrTemp => ⟨0x200100, [(14, 0x4)]⟩
  | .pwrClkGate0 => ⟨0x200200, []⟩
  | .pwrClkGate1 => ⟨0x200204, []⟩
  | .pwrClkStat => ⟨0x200208, []⟩
  | .pwrCnt => ⟨0x201000, [(4, 0x8)]⟩
  | .todCtrl => ⟨0x300000, []⟩
  | .todStat => ⟨0x300004, []⟩
  | .todNowNs => ⟨0x300010, []⟩
  | .todNowFrac => ⟨0x300014, []⟩
  | .todNowSecLo => ⟨0x300018, []⟩
  | .todNowSecHi => ⟨0x30001c, []⟩
  | .todSetNs => ⟨0x300020, []⟩
  | .todSetFrac => ⟨0x300024, []⟩
  | .todSetSecLo => ⟨0x300028, []⟩
  | .todSetSecHi => ⟨0x30002c, []⟩
  | .todAdj => ⟨0x300030, []⟩
  | .todOffset => ⟨0x300034, []⟩
  | .todPpsCfg => ⟨0x300040, []⟩
  | .todPpsWindow => ⟨0x300044, []⟩
  | .todPpsCapNs => ⟨0x300050, []⟩
  | .todPpsCapFrac => ⟨0x300054, []⟩
  | .todPpsCapSecLo => ⟨0x300058, []⟩
  | .todPpsCapSecHi => ⟨0x30005c, []⟩
  | .todPpsOutCfg => ⟨0x300060, []⟩
  | .todPpsEdges => ⟨0x300070, []⟩
  | .todPpsGlitch => ⟨0x300074, []⟩
  | .todPpsReject => ⟨0x300078, []⟩
  | .hifPortRole => ⟨0x400000, []⟩
  | .hifPollPeriod => ⟨0x400004, []⟩
  | .hifPrefetchStat => ⟨0x400008, []⟩
  | .hifEvtRoute => ⟨0x400100, [(16, 0x4)]⟩
  | .hifAdminBaseLo => ⟨0x410000, [(4, 0x10000)]⟩
  | .hifAdminBaseHi => ⟨0x410004, [(4, 0x10000)]⟩
  | .hifAdminCfg => ⟨0x410008, [(4, 0x10000)]⟩
  | .hifAdminStat => ⟨0x41000c, [(4, 0x10000)]⟩
  | .hifPortStat => ⟨0x410010, [(4, 0x10000)]⟩
  | .hifDenied => ⟨0x410014, [(4, 0x10000)]⟩
  | .hifCnt => ⟨0x410100, [(4, 0x10000), (11, 0x8)]⟩
  | .hifMsixPba => ⟨0x414000, [(4, 0x10000), (64, 0x4)]⟩
  | .hifMsixAddr => ⟨0x418000, [(4, 0x10000), (2048, 0x10)]⟩
  | .hifMsixUpper => ⟨0x418004, [(4, 0x10000), (2048, 0x10)]⟩
  | .hifMsixData => ⟨0x418008, [(4, 0x10000), (2048, 0x10)]⟩
  | .hifMsixCtrl => ⟨0x41800c, [(4, 0x10000), (2048, 0x10)]⟩
  | .secStat => ⟨0x500000, []⟩
  | .secLeafLo => ⟨0x500008, []⟩
  | .secLeafHi => ⟨0x50000c, []⟩
  | .secTagWrites => ⟨0x500010, []⟩
  | .secSerial => ⟨0x500020, [(4, 0x4)]⟩
  | .secIdcode => ⟨0x500030, []⟩
  | .secLotLo => ⟨0x500034, []⟩
  | .secLotHi => ⟨0x500038, []⟩
  | .secMeas => ⟨0x500100, [(8, 0x20), (8, 0x4)]⟩
  | .secTag => ⟨0x501000, [(1024, 0x4)]⟩
  | .pmuTraceRings => ⟨0x600000, []⟩
  | .pmuDumpCfg => ⟨0x600100, [(16, 0x10)]⟩
  | .pmuDumpPeriod => ⟨0x600104, [(16, 0x10)]⟩
  | .pmuDumpSel => ⟨0x600108, [(16, 0x10)]⟩
  | .pmuDumpSeq => ⟨0x60010c, [(16, 0x10)]⟩
  | .pmuTracePpl => ⟨0x601000, [(32, 0x4)]⟩
  | .pmuTraceCore => ⟨0x601100, [(128, 0x4)]⟩
  | .pmuCnt => ⟨0x602000, [(2, 0x8)]⟩
  | .prtPortCfg => ⟨0x1000000, [(32, 0x10000), (6, 0x4)]⟩
  | .prtLanePol => ⟨0x1000100, [(32, 0x10000)]⟩
  | .prtPtpAdj => ⟨0x1008000, [(32, 0x10000), (6, 0x4)]⟩
  | .mscCtrl => ⟨0x1400000, [(4, 0x100000)]⟩
  | .mscBulkCtrl => ⟨0x1400004, [(4, 0x100000)]⟩
  | .mscPnNear => ⟨0x1400010, [(4, 0x100000), (128, 0x4)]⟩
  | .mscCnt => ⟨0x1400800, [(4, 0x100000), (3, 0x8)]⟩
  | .mscSecyCfg => ⟨0x1401000, [(4, 0x100000), (64, 0x20)]⟩
  | .mscSecyTx => ⟨0x1401004, [(4, 0x100000), (64, 0x20)]⟩
  | .mscSecyWin => ⟨0x1401008, [(4, 0x100000), (64, 0x20)]⟩
  | .mscSecySciLo => ⟨0x140100c, [(4, 0x100000), (64, 0x20)]⟩
  | .mscSecySciHi => ⟨0x1401010, [(4, 0x100000), (64, 0x20)]⟩
  | .mscRxscCfg => ⟨0x1410000, [(4, 0x100000), (1024, 0x10)]⟩
  | .mscRxscSciLo => ⟨0x1410004, [(4, 0x100000), (1024, 0x10)]⟩
  | .mscRxscSciHi => ⟨0x1410008, [(4, 0x100000), (1024, 0x10)]⟩
  | .mscSaCtrl => ⟨0x1420000, [(4, 0x100000), (4096, 0x40)]⟩
  | .mscSaSsci => ⟨0x1420004, [(4, 0x100000), (4096, 0x40)]⟩
  | .mscSaPnLo => ⟨0x1420008, [(4, 0x100000), (4096, 0x40)]⟩
  | .mscSaPnHi => ⟨0x142000c, [(4, 0x100000), (4096, 0x40)]⟩
  | .mscSaKey => ⟨0x1420010, [(4, 0x100000), (4096, 0x40), (8, 0x4)]⟩
  | .mscSaSalt => ⟨0x1420030, [(4, 0x100000), (4096, 0x40), (3, 0x4)]⟩
  | .pplCtrl => ⟨0x2000000, [(32, 0x40000)]⟩
  | .pplHoldCfg => ⟨0x2000010, [(32, 0x40000)]⟩
  | .pplTurnStat => ⟨0x2000020, [(32, 0x40000)]⟩
  | .pplHoldStat => ⟨0x2000030, [(32, 0x40000)]⟩
  | .pplUnresDrop => ⟨0x2000040, [(32, 0x40000)]⟩
  | .pplUnresDefault => ⟨0x2000044, [(32, 0x40000)]⟩
  | .pplPortCfg => ⟨0x2000100, [(32, 0x40000), (8, 0x10)]⟩
  | .pplPortDefLo => ⟨0x2000104, [(32, 0x40000), (8, 0x10)]⟩
  | .pplPortDefHi => ⟨0x2000108, [(32, 0x40000), (8, 0x10)]⟩
  | .pplRangeCfg => ⟨0x2001000, [(32, 0x40000), (64, 0x8)]⟩
  | .pplRangeBounds => ⟨0x2001004, [(32, 0x40000), (64, 0x8)]⟩
  | .pplZprof => ⟨0x2002000, [(32, 0x40000), (64, 0x4)]⟩
  | .pplReason => ⟨0x2003000, [(32, 0x40000), (64, 0x4)]⟩
  | .pplReasonCnt => ⟨0x2004000, [(32, 0x40000), (64, 0x10)]⟩
  | .pplPuntDrop => ⟨0x2004008, [(32, 0x40000), (64, 0x10)]⟩
  | .tmgQcfgA => ⟨0x3000000, [(2, 0x200000), (65536, 0x10)]⟩
  | .tmgQcfgB => ⟨0x3000004, [(2, 0x200000), (65536, 0x10)]⟩
  | .tmgQcfgC => ⟨0x3000008, [(2, 0x200000), (65536, 0x10)]⟩
  | .tmgQstat => ⟨0x300000c, [(2, 0x200000), (65536, 0x10)]⟩
  | .tmgNat64Pfx0 => ⟨0x3100000, [(2, 0x200000)]⟩
  | .tmgNat64Pfx12 => ⟨0x3100004, [(2, 0x200000), (2, 0x4)]⟩
  | .tmgActDrop => ⟨0x3100010, [(2, 0x200000)]⟩
  | .tmgMirror => ⟨0x3100100, [(2, 0x200000), (64, 0x4)]⟩
  | .tmgSampler => ⟨0x3100200, [(2, 0x200000), (256, 0x4)]⟩
  | .tmgCellFree => ⟨0x3140000, [(2, 0x200000)]⟩
  | .tmgCellQueued => ⟨0x3140004, [(2, 0x200000)]⟩
  | .tmgCellInflight => ⟨0x3140008, [(2, 0x200000)]⟩
  | .tmgPool => ⟨0x3140010, [(2, 0x200000), (8, 0x4)]⟩
  | .tmgPoolUsed => ⟨0x3140030, [(2, 0x200000), (8, 0x4)]⟩
  | .tmgIngLimit => ⟨0x3140100, [(2, 0x200000), (16, 0x4)]⟩
  | .tmgBufLatch => ⟨0x3140200, [(2, 0x200000)]⟩
  | .tmgBufLatchAddr => ⟨0x3140204, [(2, 0x200000)]⟩
  | .tmgTallyCfg => ⟨0x3140300, [(2, 0x200000)]⟩
  | .tmgTallyStat => ⟨0x3140304, [(2, 0x200000)]⟩
  | .tmgTallyLeakPtr => ⟨0x3140308, [(2, 0x200000)]⟩
  | .tmgEditConflict => ⟨0x3140400, [(2, 0x200000)]⟩
  | .tmgPtpMiss => ⟨0x3140408, [(2, 0x200000)]⟩
  | .tmgCnt => ⟨0x3141000, [(2, 0x200000), (13, 0x8)]⟩
  | .schSubCfg => ⟨0x3400000, [(2, 0x400000), (16384, 0x20)]⟩
  | .schSubCir => ⟨0x3400004, [(2, 0x400000), (16384, 0x20)]⟩
  | .schSubPir => ⟨0x3400008, [(2, 0x400000), (16384, 0x20)]⟩
  | .schSubBurst => ⟨0x340000c, [(2, 0x400000), (16384, 0x20)]⟩
  | .schSubQ => ⟨0x3400010, [(2, 0x400000), (16384, 0x20), (4, 0x4)]⟩
  | .schSvcCfg => ⟨0x3480000, [(2, 0x400000), (2048, 0x10)]⟩
  | .schSvcCir => ⟨0x3480004, [(2, 0x400000), (2048, 0x10)]⟩
  | .schSvcPir => ⟨0x3480008, [(2, 0x400000), (2048, 0x10)]⟩
  | .schSvcBurst => ⟨0x348000c, [(2, 0x400000), (2048, 0x10)]⟩
  | .schPortCfg => ⟨0x3490000, [(2, 0x400000), (128, 0x10)]⟩
  | .schPortPir => ⟨0x3490004, [(2, 0x400000), (128, 0x10)]⟩
  | .schPortBurst => ⟨0x3490008, [(2, 0x400000), (128, 0x10)]⟩
  | .schGateCtrl => ⟨0x34a0000, [(2, 0x400000), (128, 0x40)]⟩
  | .schGateBaseNs => ⟨0x34a0004, [(2, 0x400000), (128, 0x40)]⟩
  | .schGateBaseSecLo => ⟨0x34a0008, [(2, 0x400000), (128, 0x40)]⟩
  | .schGateBaseSecHi => ⟨0x34a000c, [(2, 0x400000), (128, 0x40)]⟩
  | .schGateCycle => ⟨0x34a0010, [(2, 0x400000), (128, 0x40)]⟩
  | .schGateExt => ⟨0x34a0014, [(2, 0x400000), (128, 0x40)]⟩
  | .schGateChgNs => ⟨0x34a0018, [(2, 0x400000), (128, 0x40)]⟩
  | .schGateChgSecLo => ⟨0x34a001c, [(2, 0x400000), (128, 0x40)]⟩
  | .schGateChgSecHi => ⟨0x34a0020, [(2, 0x400000), (128, 0x40)]⟩
  | .schGateOper => ⟨0x34a0024, [(2, 0x400000), (128, 0x40)]⟩
  | .schSampleCfg => ⟨0x34b0000, [(2, 0x400000)]⟩
  | .schCnt => ⟨0x34b1000, [(2, 0x400000), (4, 0x8)]⟩
  | .fslCtrl => ⟨0x4000000, [(17, 0x20000)]⟩
  | .fslStat => ⟨0x4000004, [(17, 0x20000)]⟩
  | .fslOcc => ⟨0x4000008, [(17, 0x20000)]⟩
  | .fslCompactCnt => ⟨0x4000010, [(17, 0x20000)]⟩
  | .fslWideCnt => ⟨0x4000014, [(17, 0x20000)]⟩
  | .fslCheckAddr => ⟨0x4000018, [(17, 0x20000)]⟩
  | .fslCnt => ⟨0x4000100, [(17, 0x20000), (20, 0x8)]⟩
  | .fstCtrl => ⟨0x4400000, []⟩
  | .fstStat => ⟨0x4400004, []⟩
  | .fstMaxKicks => ⟨0x4400010, []⟩
  | .fstAgeCfg => ⟨0x4400014, []⟩
  | .fstSweepCfg => ⟨0x4400018, []⟩
  | .fstAgeNow => ⟨0x440001c, []⟩
  | .fstGuardCfg => ⟨0x4400020, []⟩
  | .fstSeed => ⟨0x4400030, [(4, 0x4)]⟩
  | .fstSaveBaseLo => ⟨0x4400040, []⟩
  | .fstSaveBaseHi => ⟨0x4400044, []⟩
  | .fstTakeover => ⟨0x4400050, []⟩
  | .fslSliceMap => ⟨0x4400100, [(16, 0x4)]⟩
  | .fstTprof => ⟨0x4401000, [(16, 0x20), (8, 0x4)]⟩
  | .fstTprofAct => ⟨0x4401200, [(16, 0x4)]⟩
  | .fstIns => ⟨0x4402000, [(64, 0x4)]⟩
  | .fstNatBase => ⟨0x4404000, []⟩
  | .fstBeCfg => ⟨0x4404004, []⟩
  | .fstIpfixCfg => ⟨0x4404010, []⟩
  | .fstIpfixDomain => ⟨0x4404014, []⟩
  | .fstIpfixTimers => ⟨0x4404018, []⟩
  | .fstCnt => ⟨0x4404100, [(8, 0x8)]⟩
  | .fstColl => ⟨0x4404200, [(16, 0x10)]⟩
  | .fstCollZlo => ⟨0x4404204, [(16, 0x10)]⟩
  | .fstCollZhi => ⟨0x4404208, [(16, 0x10)]⟩
  | .fwdStat => ⟨0x4800000, [(2, 0x200000)]⟩
  | .fwdFdbAge => ⟨0x4800010, [(2, 0x200000)]⟩
  | .fwdFdbNow => ⟨0x4800014, [(2, 0x200000)]⟩
  | .fwdLearnCfg => ⟨0x4800018, [(2, 0x200000)]⟩
  | .fwdRmacLo => ⟨0x4800100, [(2, 0x200000), (64, 0x8)]⟩
  | .fwdRmacHi => ⟨0x4800104, [(2, 0x200000), (64, 0x8)]⟩
  | .fwdMtu => ⟨0x4800400, [(2, 0x200000), (8, 0x4)]⟩
  | .fwdLport => ⟨0x4801000, [(2, 0x200000), (128, 0x4)]⟩
  | .fwdEgr => ⟨0x4802000, [(2, 0x200000), (256, 0x4)]⟩
  | .fwdCnt => ⟨0x4803000, [(2, 0x200000), (8, 0x8)]⟩
  | .fwdSubBase => ⟨0x4c00000, []⟩
  | .fwdSubValid => ⟨0x4c00004, []⟩
  | .duoCtrl => ⟨0x5000000, []⟩
  | .duoStat => ⟨0x5000004, []⟩
  | .duoTimers => ⟨0x5000008, []⟩
  | .duoSyncCfg => ⟨0x500000c, []⟩
  | .duoYieldMask => ⟨0x5000010, []⟩
  | .duoMacLo => ⟨0x5000014, []⟩
  | .duoMacHi => ⟨0x5000018, []⟩
  | .duoRetxBase => ⟨0x500001c, []⟩
  | .duoPartnerCfg => ⟨0x5000100, [(8, 0x40)]⟩
  | .duoPartnerPort => ⟨0x5000104, [(8, 0x40)]⟩
  | .duoPartnerSqid => ⟨0x5000108, [(8, 0x40)]⟩
  | .duoPartnerTqid => ⟨0x500010c, [(8, 0x40)]⟩
  | .duoPartnerAsqid => ⟨0x5000110, [(8, 0x40)]⟩
  | .duoPartnerAtqid => ⟨0x5000114, [(8, 0x40)]⟩
  | .duoPartnerMacLo => ⟨0x5000118, [(8, 0x40)]⟩
  | .duoPartnerMacHi => ⟨0x500011c, [(8, 0x40)]⟩
  | .duoPartnerStat => ⟨0x5000120, [(8, 0x40)]⟩
  | .duoPartnerBoot => ⟨0x5000124, [(8, 0x40)]⟩
  | .duoCnt => ⟨0x5001000, [(17, 0x8)]⟩
  | .tskCtrl => ⟨0x6000000, []⟩
  | .tskStat => ⟨0x6000004, []⟩
  | .tskMemBase => ⟨0x6000008, []⟩
  | .tskHistSel => ⟨0x6000010, []⟩
  | .tskHistBin => ⟨0x6000040, [(16, 0x4)]⟩
  | .tskPuntRoute => ⟨0x6000100, [(64, 0x4)]⟩
  | .tskAgeRoute => ⟨0x6000200, [(16, 0x4)]⟩
  | .tskGroupCfg => ⟨0x6000300, [(16, 0x4)]⟩
  | .tskCoreCtrl => ⟨0x6001000, [(128, 0x10)]⟩
  | .tskCoreStat => ⟨0x6001004, [(128, 0x10)]⟩
  | .tskCoreBusy => ⟨0x6001008, [(128, 0x10)]⟩
  | .tskWqCfg => ⟨0x6010000, [(4096, 0x10)]⟩
  | .tskWqLimit => ⟨0x6010004, [(4096, 0x10)]⟩
  | .tskWqStat => ⟨0x6010008, [(4096, 0x10)]⟩
  | .tskCnt => ⟨0x6020000, [(11, 0x8)]⟩
  | .hbmPartCfg => ⟨0x7000000, []⟩
  | .hbmPageCtrl => ⟨0x7100000, []⟩
  | .hbmPageFree => ⟨0x7100004, []⟩
  | .hbmPageLatch => ⟨0x7100010, []⟩
  | .hbmPageLatchPtr => ⟨0x7100014, []⟩
  | .hbmCnt => ⟨0x7101000, [(7, 0x8)]⟩
  | .pmcCtrl => ⟨0x0, []⟩
  | .pmcCycLo => ⟨0x8, []⟩
  | .pmcCycHi => ⟨0xC, []⟩
  | .pmcCntCfg => ⟨0x10, [(8, 0x10)]⟩
  | .pmcCntLo => ⟨0x14, [(8, 0x10)]⟩
  | .pmcCntHi => ⟨0x18, [(8, 0x10)]⟩

/-- The registers that are 64-bit statistical counters, read as an `_LO`/`_HI` pair. -/
def isCounter : Reg → Bool
  | .pwrCnt | .hifCnt | .pmuCnt | .mscCnt | .pplReasonCnt | .pplPuntDrop | .tmgActDrop | .tmgEditConflict | .tmgPtpMiss | .tmgCnt | .schCnt | .fslCnt | .fstCnt | .fwdCnt | .duoCnt | .tskCoreBusy | .tskCnt | .hbmCnt => true
  | _ => false

/-- The `_HI` half of an `_LO` register (R10). `TOD_NOW_*` is no such pair: R236 gives it a latch of its own. -/
def hiOf : Reg → Option Reg
  | .glbTurnTimeSecLo => some .glbTurnTimeSecHi
  | .fltFirstTimeLo => some .fltFirstTimeHi
  | .todSetSecLo => some .todSetSecHi
  | .todPpsCapSecLo => some .todPpsCapSecHi
  | .hifAdminBaseLo => some .hifAdminBaseHi
  | .secLeafLo => some .secLeafHi
  | .secLotLo => some .secLotHi
  | .mscSecySciLo => some .mscSecySciHi
  | .mscRxscSciLo => some .mscRxscSciHi
  | .mscSaPnLo => some .mscSaPnHi
  | .pplPortDefLo => some .pplPortDefHi
  | .schGateBaseSecLo => some .schGateBaseSecHi
  | .schGateChgSecLo => some .schGateChgSecHi
  | .fstSaveBaseLo => some .fstSaveBaseHi
  | .fwdRmacLo => some .fwdRmacHi
  | .duoMacLo => some .duoMacHi
  | .duoPartnerMacLo => some .duoPartnerMacHi
  | .pmcCycLo => some .pmcCycHi
  | .pmcCntLo => some .pmcCntHi
  | _ => none

/-- The `_LO` half of an `_HI` register (R10). -/
def loOf : Reg → Option Reg
  | .glbTurnTimeSecHi => some .glbTurnTimeSecLo
  | .fltFirstTimeHi => some .fltFirstTimeLo
  | .todSetSecHi => some .todSetSecLo
  | .todPpsCapSecHi => some .todPpsCapSecLo
  | .hifAdminBaseHi => some .hifAdminBaseLo
  | .secLeafHi => some .secLeafLo
  | .secLotHi => some .secLotLo
  | .mscSecySciHi => some .mscSecySciLo
  | .mscRxscSciHi => some .mscRxscSciLo
  | .mscSaPnHi => some .mscSaPnLo
  | .pplPortDefHi => some .pplPortDefLo
  | .schGateBaseSecHi => some .schGateBaseSecLo
  | .schGateChgSecHi => some .schGateChgSecLo
  | .fstSaveBaseHi => some .fstSaveBaseLo
  | .fwdRmacHi => some .fwdRmacLo
  | .duoMacHi => some .duoMacLo
  | .duoPartnerMacHi => some .duoPartnerMacLo
  | .pmcCycHi => some .pmcCycLo
  | .pmcCntHi => some .pmcCntLo
  | _ => none

/-- The blocks of the BAR0 address map (R42, R43). -/
inductive Blk
  | glb | flt | pwr | tod | hif | sec | pmu | prt | msc | ppl | tmg | sch | fsl | fst | fwd | duo | tsk | hbm
deriving DecidableEq, Repr

/-- The window of each block (R43): its first offset and the offset past its last. -/
def blkWindow : Blk → Nat × Nat
  | .glb => (0x0, 0x100000)
  | .flt => (0x100000, 0x200000)
  | .pwr => (0x200000, 0x300000)
  | .tod => (0x300000, 0x400000)
  | .hif => (0x400000, 0x500000)
  | .sec => (0x500000, 0x600000)
  | .pmu => (0x600000, 0x700000)
  | .prt => (0x1000000, 0x1200000)
  | .msc => (0x1400000, 0x1800000)
  | .ppl => (0x2000000, 0x2800000)
  | .tmg => (0x3000000, 0x3400000)
  | .sch => (0x3400000, 0x3c00000)
  | .fsl => (0x4000000, 0x4220000)
  | .fst => (0x4400000, 0x4800000)
  | .fwd => (0x4800000, 0x5000000)
  | .duo => (0x5000000, 0x6000000)
  | .tsk => (0x6000000, 0x7000000)
  | .hbm => (0x7000000, 0x8000000)

def allBlks : List Blk := [.glb, .flt, .pwr, .tod, .hif, .sec, .pmu, .prt, .msc, .ppl, .tmg, .sch, .fsl, .fst, .fwd, .duo, .tsk, .hbm]

/-- The registers of each window, the counter banks apart. -/
def blkRegs : Blk → List Reg
  | .glb => [.glbPartId, .glbCaps, .glbBootStat, .glbSeal, .glbSealStatus, .glbRestart, .glbDeviceId, .glbLaneFail, .glbSealDigest, .glbCfgRefused, .glbCfgRefusedInfo, .glbCfgRefusedCnt, .glbReadBank, .glbTurnCommit, .glbTurnStat, .glbTurnWhere, .glbTurnTimeNs, .glbTurnTimeSecLo, .glbTurnTimeSecHi]
  | .flt => [.fltFirstSrc, .fltFirstSev, .fltFirstTimeLo, .fltFirstTimeHi, .fltFirstInj, .fltFirstInfo, .fltOverflow, .fltAck, .fltInject, .fltQuietTime, .fltRecoveryCount, .fltHealthCfg, .fltStat, .fltRestore, .fltClassStat, .fltClassCnt]
  | .pwr => [.pwrBudget, .pwrCtrl, .pwrStat, .pwrGrantStatus, .pwrThermCfg, .pwrOp, .pwrTemp, .pwrClkGate0, .pwrClkGate1, .pwrClkStat, .pwrCnt]
  | .tod => [.todCtrl, .todStat, .todNowNs, .todNowFrac, .todNowSecLo, .todNowSecHi, .todSetNs, .todSetFrac, .todSetSecLo, .todSetSecHi, .todAdj, .todOffset, .todPpsCfg, .todPpsWindow, .todPpsCapNs, .todPpsCapFrac, .todPpsCapSecLo, .todPpsCapSecHi, .todPpsOutCfg, .todPpsEdges, .todPpsGlitch, .todPpsReject]
  | .hif => [.hifPortRole, .hifPollPeriod, .hifPrefetchStat, .hifEvtRoute, .hifAdminBaseLo, .hifAdminBaseHi, .hifAdminCfg, .hifAdminStat, .hifPortStat, .hifDenied, .hifCnt, .hifMsixPba, .hifMsixAddr, .hifMsixUpper, .hifMsixData, .hifMsixCtrl]
  | .sec => [.secStat, .secLeafLo, .secLeafHi, .secTagWrites, .secSerial, .secIdcode, .secLotLo, .secLotHi, .secMeas, .secTag]
  | .pmu => [.pmuTraceRings, .pmuDumpCfg, .pmuDumpPeriod, .pmuDumpSel, .pmuDumpSeq, .pmuTracePpl, .pmuTraceCore, .pmuCnt]
  | .prt => [.prtPortCfg, .prtLanePol, .prtPtpAdj]
  | .msc => [.mscCtrl, .mscBulkCtrl, .mscPnNear, .mscCnt, .mscSecyCfg, .mscSecyTx, .mscSecyWin, .mscSecySciLo, .mscSecySciHi, .mscRxscCfg, .mscRxscSciLo, .mscRxscSciHi, .mscSaCtrl, .mscSaSsci, .mscSaPnLo, .mscSaPnHi, .mscSaKey, .mscSaSalt]
  | .ppl => [.pplCtrl, .pplHoldCfg, .pplTurnStat, .pplHoldStat, .pplUnresDrop, .pplUnresDefault, .pplPortCfg, .pplPortDefLo, .pplPortDefHi, .pplRangeCfg, .pplRangeBounds, .pplZprof, .pplReason, .pplReasonCnt, .pplPuntDrop]
  | .tmg => [.tmgQcfgA, .tmgQcfgB, .tmgQcfgC, .tmgQstat, .tmgNat64Pfx0, .tmgNat64Pfx12, .tmgActDrop, .tmgMirror, .tmgSampler, .tmgCellFree, .tmgCellQueued, .tmgCellInflight, .tmgPool, .tmgPoolUsed, .tmgIngLimit, .tmgBufLatch, .tmgBufLatchAddr, .tmgTallyCfg, .tmgTallyStat, .tmgTallyLeakPtr, .tmgEditConflict, .tmgPtpMiss, .tmgCnt]
  | .sch => [.schSubCfg, .schSubCir, .schSubPir, .schSubBurst, .schSubQ, .schSvcCfg, .schSvcCir, .schSvcPir, .schSvcBurst, .schPortCfg, .schPortPir, .schPortBurst, .schGateCtrl, .schGateBaseNs, .schGateBaseSecLo, .schGateBaseSecHi, .schGateCycle, .schGateExt, .schGateChgNs, .schGateChgSecLo, .schGateChgSecHi, .schGateOper, .schSampleCfg, .schCnt]
  | .fsl => [.fslCtrl, .fslStat, .fslOcc, .fslCompactCnt, .fslWideCnt, .fslCheckAddr, .fslCnt]
  | .fst => [.fstCtrl, .fstStat, .fstMaxKicks, .fstAgeCfg, .fstSweepCfg, .fstAgeNow, .fstGuardCfg, .fstSeed, .fstSaveBaseLo, .fstSaveBaseHi, .fstTakeover, .fslSliceMap, .fstTprof, .fstTprofAct, .fstIns, .fstNatBase, .fstBeCfg, .fstIpfixCfg, .fstIpfixDomain, .fstIpfixTimers, .fstCnt, .fstColl, .fstCollZlo, .fstCollZhi]
  | .fwd => [.fwdStat, .fwdFdbAge, .fwdFdbNow, .fwdLearnCfg, .fwdRmacLo, .fwdRmacHi, .fwdMtu, .fwdLport, .fwdEgr, .fwdCnt, .fwdSubBase, .fwdSubValid]
  | .duo => [.duoCtrl, .duoStat, .duoTimers, .duoSyncCfg, .duoYieldMask, .duoMacLo, .duoMacHi, .duoRetxBase, .duoPartnerCfg, .duoPartnerPort, .duoPartnerSqid, .duoPartnerTqid, .duoPartnerAsqid, .duoPartnerAtqid, .duoPartnerMacLo, .duoPartnerMacHi, .duoPartnerStat, .duoPartnerBoot, .duoCnt]
  | .tsk => [.tskCtrl, .tskStat, .tskMemBase, .tskHistSel, .tskHistBin, .tskPuntRoute, .tskAgeRoute, .tskGroupCfg, .tskCoreCtrl, .tskCoreStat, .tskCoreBusy, .tskWqCfg, .tskWqLimit, .tskWqStat, .tskCnt]
  | .hbm => [.hbmPartCfg, .hbmPageCtrl, .hbmPageFree, .hbmPageLatch, .hbmPageLatchPtr, .hbmCnt]

/-- The counter banks of a block (R443): the number of its first bank, its instances, their stride. The third instance of
`FWD` is the subscriber-table control window. -/
structure PmcRow where
  first : Nat
  count : Nat
  stride : Nat
deriving DecidableEq, Repr

def pmcRow : Blk → PmcRow
  | .glb => ⟨0, 1, 0x100000⟩
  | .flt => ⟨1, 1, 0x100000⟩
  | .pwr => ⟨2, 1, 0x100000⟩
  | .tod => ⟨3, 1, 0x100000⟩
  | .hif => ⟨4, 1, 0x100000⟩
  | .sec => ⟨5, 1, 0x100000⟩
  | .pmu => ⟨6, 1, 0x100000⟩
  | .prt => ⟨7, 32, 0x10000⟩
  | .msc => ⟨39, 4, 0x100000⟩
  | .ppl => ⟨43, 32, 0x40000⟩
  | .tmg => ⟨75, 2, 0x200000⟩
  | .sch => ⟨77, 2, 0x400000⟩
  | .fsl => ⟨79, 17, 0x20000⟩
  | .fst => ⟨96, 1, 0x400000⟩
  | .fwd => ⟨97, 3, 0x200000⟩
  | .duo => ⟨100, 1, 0x1000000⟩
  | .tsk => ⟨101, 1, 0x1000000⟩
  | .hbm => ⟨102, 1, 0x1000000⟩

/-- The number of counter banks of the device. -/
def pmcBanks : Nat := 103

end Sys2Proof.Machine
end

