-- ==== Sys2Proof/Machine/State.lean ====
section
/-! DEFINITION. The state of the device: the configuration software wrote, the machine it drives, and the queue of commands
that wait. Every piece of state the spec names stands here, each structure under the chapter that names it. -/
namespace Sys2Proof.Machine

/-! ### Fused values, configuration, outputs -/

/-- The orderable variants (R1). -/
inductive Variant | m | p
deriving DecidableEq, Repr

/-- Silicon revisions (R4). -/
inductive Rev | a0 | b0
deriving DecidableEq, Repr

/-- What is set at manufacture (R14): variant, revision, serial number, bits 11:0 of the JTAG ID code (R474), lot, the hashes of the vendor key slots (R414) and
the factory certificate's slot, vendor key and signature (R426). -/
structure Fuse where
  variant : Variant := .m
  rev : Rev := .b0
  serial : BitVec 128 := 0
  idLow : BitVec 12 := 0
  lot : BitVec 64 := 0
  slotHash : List (List Byte) := []
  certSlot : Nat := 0
  certKey : List Byte := []
  certSig : List Byte := []
deriving DecidableEq, Repr

/-- What software configured, by BAR0 offset; an unlisted register holds its reset value. T-class fields are held apart
(R16): `shadow` takes the writes, `act` holds the active turn, `old` the turn that drains (R73). -/
structure Cfg where
  fuse : Fuse := {}
  live : Tbl Word := []
  shadow : Tbl Word := []
  act : Tbl Word := []
  old : Tbl Word := []
deriving DecidableEq, Repr

/-- What the device puts out, oldest first: the model's own log (notes/assumptions/4.md). -/
inductive Output
  /-- the answer of a BAR0 read -/
  | regRead (q : Requester) (off : Nat) (v : Word)
  /-- a descriptor written in host memory, completion or fill, from byte 8 on; and its word 0, in a later write (R340) -/
  | desc (port ring index : Nat) (bytes : List Byte)
  | word0 (port ring index : Nat) (bytes : List Byte)
  /-- data written in host memory -/
  | data (port addr : Nat) (bytes : List Byte)
  /-- an MSI-X message of a port, and a PME message (R343, R345) -/
  | msix (port vector : Nat)
  | pme (port : Nat)
  /-- a frame sent on an Ethernet port's lanes, and its egress timestamp in TOD ns -/
  | frame (lport : Nat) (bytes : List Byte) (ts : Nat)
  /-- what a core's load from its work port returns -/
  | coreLoad (core : Nat) (v : Nat)
  /-- a core's machine external interrupt -/
  | coreIrq (core : Nat)
  /-- a completion written into a cluster's command queue, and the output of the command (R272) -/
  | coreDone (cluster index : Nat) (bytes out : List Byte)
  /-- what an I2C target read returns (R473) -/
  | i2c (v : Nat)
  /-- a read of all eight regulators over PMBus (R463) -/
  | pmbus
deriving DecidableEq, Repr

/-- The state beside the configuration that BAR0 reads: status fields and counters by offset, latches and held halves. -/
structure RegSt where
  /-- RO, W1C, W1S and RC fields, and RW fields the device writes too -/
  stat : Tbl Word := []
  /-- 64-bit statistical counters -/
  cnt : Tbl Nat := []
  /-- a held `_LO` half, by its offset (R10) -/
  loHeld : Tbl Word := []
  /-- each requester's one latch of a `_HI` half (R10), 0-3 the host ports, 4 the device agent -/
  hiLatch : Tbl Word := []
  /-- the requesters' latches of `TOD_NOW_*` (R236): the time, in 2^-16 ns -/
  todLatch : Tbl Nat := []
  /-- the requesters' own `GLB_READ_BANK.ACTIVE` (R382) -/
  readBank : BitVec 5 := 0
  /-- the domain's cycle at which a bank counter last met its event, for edge mode (R444) -/
  pmcLast : Tbl Nat := []
  /-- a bank counter written by software: the uptime, and its value with that clock's increments and without the write (R446) -/
  pmcWrote : Tbl (Nat × Nat) := []
deriving DecidableEq, Repr

/-! ### What the parser hands on (R55) -/

/-- An entry of the header stack: class (R51), byte offset, length, encapsulation level. -/
structure Hdr where
  cls : Nat
  off : Nat
  len : Nat
  level : Nat
deriving DecidableEq, Repr

/-- The header stack and the fragment state: 0 none, 1 first, 2 later (R55). -/
structure HdrMap where
  stack : List Hdr := []
  frag : Nat := 0
deriving DecidableEq, Repr

/-! ### Start-up, seal and turns (chapter 12) -/

/-- `GLB_BOOT_STAT.STAGE` (R368). -/
inductive Stage | reset | rom | verify | hbmTrain | serdesCal | waitHost | sealed | failed
deriving DecidableEq, Repr

/-- `GLB_SEAL_STATUS.STATE`. -/
inductive SealSt | unsealed | checking | refused | sealed
deriving DecidableEq, Repr

/-- `GLB_TURN_STAT.STATE` (R73). -/
inductive TurnSt | idle | scheduled | draining
deriving DecidableEq, Repr

/-- What waits until the seal checks end or the turn has drained (R375, R387), in order. -/
inductive HeldOp
  | write (q : Requester) (off : Nat) (v : Word)
  | cmd (op : CmdOp) (o : Origin) (slot : Nat) (c : Cmd)
deriving DecidableEq, Repr

/-- The `GLB` block: stage, seal and turn. -/
structure GlbSt where
  stage : Stage := .rom
  cause : Nat := 0
  /-- `RESET_N` or `PWRGOOD` is low -/
  inReset : Bool := false
  pwrgood : Bool := true
  resetN : Bool := true
  rootLost : Bool := false
  bootId : BitVec 32 := 0
  /-- the image set the loader was taken from, and the image kinds started (R416) -/
  loaderB : Bool := false
  images : List Nat := []
  d2dTrained : Bool := false
  sealSt : SealSt := .unsealed
  sealCode : Nat := 0
  sealWhere : Nat := 0
  /-- the requester that wrote `GLB_SEAL`, whose command the checks follow (R375) -/
  sealBy : Nat := 0
  /-- the outputs run (R380) and are not held (R372, R401) -/
  outputs : Bool := false
  turn : TurnSt := .idle
  turnResult : Nat := 0
  turnCode : Nat := 0
  turnWhere : Nat := 0
  active : BitVec 16 := 0
  /-- the scheduled boundary, in TOD ns -/
  boundary : Nat := 0
  /-- the old turn has drained and the banks are being copied (R73) -/
  copying : Bool := false
  held : List HeldOp := []
  /-- writes that wait at their ports for posted-write credit, behind 1,024 held ones (R375) -/
  noCredit : List HeldOp := []
  /-- `GLB_RESTART` has been written and the blocks return to reset (R390) -/
  restarting : Bool := false
deriving DecidableEq, Repr

/-! ### Faults (chapter 13) -/

/-- A report on its way to the fault controller (R393, R396). `time` is the TOD of its detection in ns. -/
structure Report where
  src : Nat
  sev : Nat
  detail : Nat := 0
  time : Nat := 0
  /-- the AUX tick of its detection (R396) -/
  tick : Nat := 0
  inj : Bool := false
  react : Bool := false
  /-- the model's own: what the isolation needs beside the detail word (for a slice, 1: its write-backs are lost) -/
  arg : Nat := 0
deriving DecidableEq, Repr

/-- A class of faults (R397, R405). `expire` is the uptime at which its quiet timer expires. -/
structure ClassSt where
  active : Bool := false
  unacked : Bool := false
  sev : Nat := 0
  expire : Nat := 0
deriving DecidableEq, Repr

/-- A `FAULT` event (R334, R399). -/
structure FaultEvt where
  src : Nat
  sev : Nat
  time : Nat
  inj : Bool
  esc : Bool
  ovf : Bool := false
deriving DecidableEq, Repr

/-- The fault controller. -/
structure FltSt where
  waiting : List Report := []
  cls : Tbl ClassSt := []
  held : List FaultEvt := []
  fatal : Bool := false
  resetReq : Bool := false
  /-- the level of the `HEALTH` pin (notes/assumptions/85.md) -/
  health : Bool := false
  /-- the uptime of its last edge, and the `HEALTH_PERIOD` taken at the last rising one (R408) -/
  edgeAt : Nat := 0
  period : Nat := 100
  /-- injections still to be made (R403) -/
  injLeft : Nat := 0
  /-- ports whose next frame reads a memory word in error (R395) -/
  badFrame : List Nat := []
  /-- the uptime at which the pin was last held low in service (R408) -/
  lowSince : Option Nat := none
  /-- the TAP is out of Test-Logic-Reset (R407) -/
  tapActive : Bool := false
  /-- the unit under self-test: kind and instance (R406) -/
  restore : Option (Nat × Nat) := none
  /-- pipelines and port groups isolated by a SEVERE report (R400) -/
  pplIso : BitVec 32 := 0
  pgIso : BitVec 32 := 0
  /-- port groups held by a link fault (R28) -/
  pgLink : BitVec 32 := 0
  /-- modules failed on each IO-PD link, number 2k + d, as a mask (R28) -/
  ioModules : Tbl Nat := []
  pdpdDown : Bool := false
  sdDown : BitVec 2 := 0
  cdDown : BitVec 7 := 0
  /-- table entries in error until software reloads them (R395): source and detail word -/
  badEntries : List (Nat × Nat) := []
  /-- entries of the pipelines' tables whose next read alone meets an injected error that acts (R403) -/
  badOnce : List (Nat × Nat) := []
  /-- pseudo-channels held in a stack's repair area (R400): stack, then pseudo-channel and whether the copy is complete -/
  repair : Tbl (Nat × Bool) := []
deriving DecidableEq, Repr

/-! ### Host ports and rings (chapter 10) -/

/-- The kinds of ring (R323). -/
inductive RingKind | cmd | txp | rxp | evt | dmp | trc
deriving DecidableEq, Repr

/-- A ring's state (R326). -/
inductive RingState | absent | active | draining | error
deriving DecidableEq, Repr

/-- A completion waiting for its turn in ring order (R331). -/
structure Completion where
  status : Nat
  detail : Nat := 0
  out : List Byte := []
deriving DecidableEq, Repr

/-- A consumed descriptor: what its completion needs, and the completion once it is known. -/
structure Consumed where
  slot : Nat
  flags : Nat := 0
  opc : Nat
  ctx : BitVec 32
  outAddr : BitVec 64 := 0
  body : List Byte := []
  done : Option Completion := none
deriving DecidableEq, Repr

/-- An event (R334): its type, the 56 bytes of each of its entries, and what a summary marks for it (R342): the BD or slot. -/
structure Evt where
  type : Nat
  bodies : List (List Byte)
  mark : Nat := 0
deriving DecidableEq, Repr

/-- A frame or batch to be written into a buffer ring (R333): the bytes of its first descriptor from byte 8 on as the device
writes them, its `FLAGS` without `MORE`, and the payload. -/
structure Fill where
  flags : Nat := 0
  body : List Byte := []
  payload : List Byte
  /-- for a punt, its pipeline and reason: a drop is counted there (R341) -/
  punt : Option (Nat × Nat) := none
deriving DecidableEq, Repr

/-- A ring's pending summary (R342). -/
structure Summary where
  kinds : Nat := 0
  lost : Nat := 0
  slots : BitVec 16 := 0
  bds : BitVec 256 := 0
deriving DecidableEq, Repr

/-- One ring (R322-R343). -/
structure Ring where
  state : RingState := .absent
  kind : RingKind := .cmd
  ver : Nat := 1
  log2 : Nat := 6
  base : BitVec 64 := 0
  owner : Nat := 0
  admin : Bool := false
  polled : Bool := false
  irqEn : Bool := false
  vector : Nat := 0
  modCount : Nat := 0
  modTime : Nat := 1
  toWq : Bool := false
  wq : Nat := 0
  pipes : BitVec 32 := 0
  tailAddr : BitVec 64 := 0
  head : Nat := 0
  tail : Nat := 0
  phase : Bool := true
  armed : Bool := false
  /-- unsignalled writes, and the uptime of the first of them -/
  unsig : Nat := 0
  firstAt : Option Nat := none
  /-- an interrupt has fallen due and waits for the link or for D0 (R344, R345) -/
  irqDue : Bool := false
  /-- prefetched descriptors not yet consumed, oldest first (R338), and how many fetches in flight an `INVAL` has made worthless -/
  cache : List (List Byte) := []
  stale : Nat := 0
  /-- of a `CMD` or `TXP` ring, the consumed descriptors whose data the device reads, oldest first, each with its slot; of a `TXP` ring, the data
  read for the first of them (R332, R338) -/
  begun : List (Nat × List Byte) := []
  got : List (List Byte) := []
  /-- the uptime at which a polled ring's tail record was last read (R337) -/
  polledAt : Nat := 0
  /-- buffers reserved for the first of `fills`, and what waits to be written (R333) -/
  reserved : List (List Byte) := []
  fills : List Fill := []
  /-- when the cache was last used, for reclaim (R338) -/
  usedAt : Nat := 0
  /-- consumed descriptors whose completion is not written, oldest first -/
  consumed : List Consumed := []
  nextSlot : Nat := 0
  /-- a `RING_DESTROY` waits for the consumed descriptors: the ring and slot it completes on -/
  destroyBy : Option (Nat × Nat) := none
  drops : Nat := 0
  /-- next event sequence number, held events and the summary (R334, R342) -/
  seq : BitVec 32 := 0
  heldEvts : List Evt := []
  summary : Option Summary := none
deriving DecidableEq, Repr

/-- A PCIe link's power state (R344). -/
inductive LinkL | l0 | l10 | l11 | l12
deriving DecidableEq, Repr

/-- One host port (R318-R320, R344-R348). -/
structure HostPort where
  linkUp : Bool := false
  bme : Bool := false
  d3 : Bool := false
  link : LinkL := .l0
  /-- the device has begun to leave L1 (R344) -/
  leaving : Bool := false
  pmeEn : Bool := false
  pmeStatus : Bool := false
  /-- MSI-X Enable and Function Mask of the configuration space (R318) -/
  msixEn : Bool := false
  msixMask : Bool := false
  /-- the function is in reset, or the link down, since this uptime (R320) -/
  lostAt : Option Nat := some 0
  adminErr : Nat := 0
deriving DecidableEq, Repr

/-- The `HIF` block. -/
structure HifSt where
  rings : Tbl Ring := []
  ports : Tbl HostPort := []
deriving DecidableEq, Repr

/-! ### Time of day (R234-R240) -/

/-- The time-of-day unit. -/
structure TodSt where
  /-- TOD in units of 2^-48 ns: the fraction of 2^-16 ns and 32 further bits below it (R234) -/
  now : Nat := 0
  /-- what 10^9 steps of the last unit have not yet made whole (R234) -/
  rem : Nat := 0
  /-- a scheduled step (R236): the TOD in ns at which it is applied, and the new time or the signed change, in 2^-16 ns -/
  stepAt : Option Nat := none
  stepTo : Option Nat := none
  stepBy : Int := 0
  /-- the last accepted edge on `PPS_IN` (R238): its uptime in quarters of a ns -/
  lastEdge : Option Nat := none
  /-- how far each die's replica stands from the master since its last correction, in 2^-16 ns (R235) -/
  replica : Tbl Int := []
  /-- an edge has been accepted since align mode was selected (R239) -/
  aligned : Bool := false
  /-- `PPS_OUT` and the uptime at which its pulse ends; the seconds values that made a pulse or were jumped over (R240) -/
  ppsOut : Bool := false
  ppsEnd : Nat := 0
  ppsDone : List Nat := []
  /-- `TOD_PPS_LOSS` has been raised since the last accepted edge (R238) -/
  lossRaised : Bool := false
deriving DecidableEq, Repr

/-! ### Power leave, clocks, dumps and trace (chapter 15) -/

/-- A request for leave (R431): operation, unit, class, pips, the uptime of its arrival, and whether its deferral was posted. -/
structure LeaveReq where
  op : Nat
  unit : Nat
  cls : Nat
  pips : Nat
  since : Nat
  posted : Bool := false
deriving DecidableEq, Repr

/-- A batch on its way to a ring: the dies it comes from (R40). -/
structure UpBatch where
  dies : List Nat
  ring : Nat
  kind : RingKind
  payload : List Byte
deriving DecidableEq, Repr

/-- The power governor and the clocks. -/
structure PwrSt where
  /-- normal-pool requests in arrival order (R432) -/
  queue : List LeaveReq := []
  /-- operations that hold leave, those of the fault-recovery pool among them -/
  grants : List LeaveReq := []
  /-- the base, in pips (R430) -/
  base : Nat := 0
  /-- the levels of `THERM_ALERT_N` and `THERMTRIP_N` are low -/
  alert : Bool := false
  trip : Bool := false
  /-- `PWR` instance 1 has been raised since the last reset or restart (R437, R438) -/
  tripTold : Bool := false
  /-- requests for leave, operation and unit, behind the fault reports of their dies; and behind both, batches of counter dumps and trace records
  (R40) -/
  asks : List (Nat × Nat) := []
  behind : List UpBatch := []
  /-- the uptime at which each stack's scrub pass next falls due (R439) -/
  scrubAt : Tbl Nat := []
  /-- family PLLs and root PLL not locked (R442) -/
  pllLost : BitVec 6 := 0
  /-- rail telemetry failed (R438) -/
  railFail : Bool := false
  /-- AUX ticks for which each domain has been gated (R441, R444) -/
  gated : Tbl Nat := []
  /-- commands that wait for leave, by their number -/
  waitCmds : Tbl (CmdOp × Origin × Nat × Cmd) := []
  nextWait : Nat := 0
  /-- dump sets whose last batch is still being written until this uptime (R449) -/
  dumpBusy : Tbl Nat := []
  /-- dump sets refused leave, which dump with a period of 100 µs (R433) -/
  dumpSlow : BitVec 16 := 0
  /-- the uptime at which each enabled dump set next latches (R447) -/
  dumpAt : Tbl Nat := []
  /-- trace records held by each source, the uptime of the first, the next batch number (R452) -/
  trace : Tbl (List (List Byte)) := []
  traceAt : Tbl Nat := []
  traceSeq : Tbl Nat := []
  /-- the instructions that each sampled core retires until its next sample (R451) -/
  sampleLeft : Tbl Nat := []
deriving DecidableEq, Repr

/-! ### Cells, pages and queues (chapter 6) -/

/-- A cell: its header (R191) and its frame bytes. `lost` marks a header with an uncorrectable error (R217). -/
structure Cell where
  owner : Nat := 0xFFF
  refcnt : Nat := 0
  next : Nat := 0
  sof : Bool := false
  eof : Bool := false
  mark : Bool := false
  suspect : Bool := false
  lost : Bool := false
  data : List Byte := []
deriving DecidableEq, Repr

/-- A bank's free list (R192): the head pointer, `0xF_FFFF` of an empty list, and the count. The links lie in the free cells. -/
structure Bank where
  head : Nat := 0xF_FFFF
  count : Nat := 0
deriving DecidableEq, Repr

/-- The 32-byte result block (R251). -/
structure EditRes where
  routed : Bool := false
  decap : Nat := 0
  encap : Bool := false
  vniP : Bool := false
  odstP : Bool := false
  nat64 : Nat := 0
  vmode : Bool := false
  ptp : Nat := 0
  rw : BitVec 8 := 0
  nhBd : Nat := 0
  tmpl : Nat := 0
  vni : Nat := 0
  ptpTag : Nat := 0
  grow : Int := 0
  v : BitVec 160 := 0
  /-- what the forwarding lookup read for the edit (R165): the next hop's `DMAC`, and the egress BD's router MAC index and `VID` -/
  dmac : Nat := 0
  rmac : Nat := 0
  vid : Nat := 0
  /-- the IPv4 outer destination where `V` holds `XADDR` of NAT64 mode 2 (R155) -/
  odst4 : Nat := 0
  /-- the model's own: a mirror copy, which leaves as received (R153) -/
  raw : Bool := false
  /-- the model's own: a steered frame's target copy and `FH` (R283) -/
  steer : Option (Nat × Nat) := none
deriving DecidableEq, Repr

/-- A queued frame: its descriptor (R196), result block, and what the model carries beside them (notes/assumptions/9.md): where
the parser found the headers, the pipeline and a trace record begun at the parser. -/
structure FrameD where
  head : Nat := 0
  len : Nat := 0
  enq : Nat := 0
  color : Nat := 0
  mcast : Bool := false
  ct : Bool := false
  turn : BitVec 16 := 0
  inLport : Nat := 0
  res : EditRes := {}
  hdrs : HdrMap := {}
  /-- a cut-through frame was found bad after its head left (R214) -/
  stomp : Bool := false
  held : Bool := false
  /-- `FH[15:0]` and the level whose headers the program edits -/
  hash : Nat := 0
  level : Nat := 0
  trace : List Byte := []
deriving DecidableEq, Repr

/-- A frame in pages (R205): descriptor, bytes, and the pages its entry begins and ends in. -/
structure PEntry where
  fd : FrameD
  bytes : List Byte
  first : Nat
  last : Nat
deriving DecidableEq, Repr

/-- A page: its bit of the L0 map (R202) and its descriptor (R204), whose bytes 14–15 hold `check`. -/
structure Page where
  l0 : Bool := true
  owner : Nat := 0xFFF
  next : Option Nat := none
  fill : Nat := 0
  frames : Nat := 0
  first : Nat := 0
  qid : Nat := 0
  mark : Bool := false
  suspect : Bool := false
  check : Nat := 0
deriving DecidableEq, Repr

/-- An egress queue (R206): head part, page part, staging part; `spill` is its state. -/
structure Queue where
  head : List FrameD := []
  pages : List Nat := []
  entries : List PEntry := []
  staging : List FrameD := []
  spill : Bool := false
  /-- counts read by dumps (R448): frames refused, sent, aged out, bytes sent -/
  refused : Nat := 0
  sent : Nat := 0
  aged : Nat := 0
  sentBytes : Nat := 0
  /-- since the last latency record (R250): largest delay in ns, drops -/
  maxDelay : Nat := 0
  drops : Nat := 0
deriving DecidableEq, Repr

/-- A frame on its way to the other pipeline die (R30, R195): its first cell here, descriptor and target queues. -/
structure Xfer where
  head : Nat
  fd : FrameD
  mcast : Bool
  targets : List (Nat × EditRes)
deriving DecidableEq, Repr

/-- A frame being sent: its port, queue, descriptor, and the bytes after the egress edit. -/
structure TxFrame where
  qid : Nat
  fd : FrameD
  bytes : List Byte
  ts : Nat
deriving DecidableEq, Repr

/-- The buffers and queues of both pipeline dies, and the page store. -/
structure TmgSt where
  cells : Tbl Cell := []
  /-- by 64 × die + bank -/
  banks : Tbl Bank := []
  /-- each requester's rotating bank pointer (R193) -/
  bankPtr : Tbl Nat := []
  /-- ingress and punt accounts of each pipeline, in cells (R199) -/
  ing : Tbl Nat := []
  punt : Tbl Nat := []
  queues : Tbl Queue := []
  /-- the spill writers' order: queues with a staged frame, oldest first, by die (R207) -/
  stage : Tbl (List Nat) := []
  xfer : List Xfer := []
  /-- frames in transmission by logical port -/
  tx : Tbl TxFrame := []
  pages : Tbl Page := []
  /-- allocators' ready queues and cursors (R202), and the spill writers' rotation -/
  ready : Tbl (List Nat) := []
  cursor : Tbl Nat := []
  spillRot : Tbl Nat := []
  /-- tally epoch and a pass in progress, by die; 2 is the page store (R215, R216) -/
  epoch : Tbl Bool := []
  tally : Tbl Bool := []
  /-- the uptime at which each tally pass next falls due -/
  tallyAt : Tbl Nat := []
  /-- tally passes refused leave, which count as late (R433); no register shows them -/
  tallyLate : Tbl Nat := []
  /-- the page leak latched first: its pointer and its owner (R216) -/
  pageLeak : Option (Nat × Nat) := none
  /-- releases waiting at the release agents (R198): the unit that sent them and the address presented -/
  releases : List (Nat × Nat) := []
deriving DecidableEq, Repr

/-! ### Scheduling (R220-R250) -/

/-- A token bucket (R228): tokens in units of 2^-24 byte, what the last refill left over, and the TOD, in 2^-16 ns, at which it
was last evaluated. -/
structure Bucket where
  tok : Int := 0
  frac : Nat := 0
  last : Nat := 0
deriving DecidableEq, Repr

/-- A change of list that awaits its time (R246): the time, and the cycle, extension and length checked with it. -/
structure GateChange where
  time : Nat
  cycle : Nat
  ext : Nat
  len : Nat
deriving DecidableEq, Repr

/-- A gate unit (R244): the administrative list, the operational list with its base, cycle and extension, the change awaited,
and the entry and states shown by `SCH_GATE_OPER`. -/
structure GateUnit where
  admin : Tbl Nat := []
  oper : List Nat := []
  base : Nat := 0
  cycle : Nat := 0
  ext : Nat := 0
  change : Option GateChange := none
  /-- the last change time, as `SCH_GATE_CHG_*` shows it -/
  shown : Nat := 0
  err : Nat := 0
  index : Nat := 0
  states : Nat := 0xFF
deriving DecidableEq, Repr

/-- The schedulers of both pipeline dies. A node's key is its number, service nodes from 2^15 on, port nodes from 2^16 on. -/
structure SchSt where
  cir : Tbl Bucket := []
  pir : Tbl Bucket := []
  /-- current child of a node at a priority (R225), by 8 × node + priority -/
  cur : Tbl Nat := []
  /-- deficits of queues, subscriber and service nodes at their parents -/
  defQ : Tbl Int := []
  defN : Tbl Int := []
  gates : Tbl GateUnit := []
  /-- the samplers' batch numbers, the uptime at which a walk ends, that at which the next is due, and whether that walk has been counted as
  delayed, by die (R249) -/
  seq : Tbl Nat := []
  walkEnd : Tbl Nat := []
  walkDue : Tbl Nat := []
  walkLate : Tbl Bool := []
deriving DecidableEq, Repr

/-! ### Forwarding (chapter 5) and policers -/

/-- A prefix (R177, R330). -/
structure Lpm where
  v6 : Bool
  zone : Nat
  len : Nat
  addr : Nat
  result : Nat
  /-- its place in the dies' tables: 2^20 and up for IPv6 -/
  place : Nat := 0
deriving DecidableEq, Repr

/-- A learn request (R174). -/
structure LearnReq where
  bd : Nat
  mac : Nat
  lport : Nat
  move : Bool
deriving DecidableEq, Repr

/-- A policer (R231): its entry's fields, the C and P buckets, packets and bytes of each colour. -/
structure Policer where
  entry : Nat := 0
  c : Bucket := {}
  p : Bucket := {}
  cnt : List (Nat × Nat) := [(0, 0), (0, 0), (0, 0)]
deriving DecidableEq, Repr

/-- The forwarding tables. Those every command writes on both pipeline dies at once are held once. -/
structure FwdSt where
  /-- FDB entries (R170) by die × 2^20 + 4 × bucket + place -/
  fdb : Tbl Nat := []
  /-- bridge domains, as 384-bit numbers (R167) -/
  bd : Tbl Nat := []
  lpm : List Lpm := []
  nh : Tbl Nat := []
  group : Tbl Nat := []
  member : Tbl Nat := []
  /-- map words on the pipeline dies, and the subscriber entries in HBM (R181, R182) -/
  map : Tbl Nat := []
  sub : Tbl (List Byte) := []
  /-- the learn units' queues, by die (R174) -/
  learn : Tbl (List LearnReq) := []
  /-- the uptime at which a die's FDB age next ticks (R176): 1 s where none stands yet, the reset value of `TICK` -/
  fdbDue : Tbl Nat := []
  policer : Tbl Policer := []
deriving DecidableEq, Repr

/-! ### Turn-banked tables, records (chapters 2-4) -/

/-- The tables loaded by commands that have a bank for each turn (R51, R57, R122): parse states and transitions, classifier rules
by 2,048 × pipeline + index (96 bytes: value, mask, result), programs, templates. -/
structure TurnTabs where
  states : Tbl Nat := []
  trans : Tbl Nat := []
  rules : Tbl (List Byte) := []
  progs : Tbl (List Byte) := []
  tmpls : Tbl (List Byte) := []
deriving DecidableEq, Repr

/-- The action engines' state: the banks, and the flow counters' packets and bytes by die × 65,536 + index (R153). -/
structure ActSt where
  shadow : TurnTabs := {}
  act : TurnTabs := {}
  old : TurnTabs := {}
  ctrs : Tbl (Nat × Nat) := []
deriving DecidableEq, Repr

/-- `TRACK` (R85). -/
structure Track where
  next : Nat := 0
  win : Nat := 0
  wchk : Bool := false
  reply : Bool := false
  rst : Bool := false
deriving DecidableEq, Repr

/-- A flow record (R82-R85). -/
structure Rec where
  wide : Bool := false
  key : List Byte := []
  role : Nat := 0
  tstate : Nat := 0
  tprof : Nat := 0
  noage : Bool := false
  exp : Bool := false
  pinned : Bool := false
  unmirrored : Bool := false
  version : Nat := 0
  lastHit : Nat := 0
  created : Nat := 0
  pkts : Nat := 0
  bytes : Nat := 0
  prog : Nat := 0
  param : List Byte := []
  peer : Nat := 0
  track : Track := {}
  /-- the record's `CHECK` fails (R86) -/
  bad : Bool := false
deriving DecidableEq, Repr

/-- What a packet's program asks of its record (R136): which fields change, and to what. -/
structure WriteBack where
  key : List Byte
  fh : Nat
  created : Nat
  stamp : Nat
  tstate : Option Nat := none
  /-- words of `PARAM` -/
  words : Tbl Nat := []
  track : Option Track := none
  setExport : Bool := false
  now : Bool := false
  /-- the uptime of issue -/
  issued : Nat := 0
deriving DecidableEq, Repr

/-! ### Pipelines (chapter 2) -/

/-- A classifier result (R59). -/
structure ClsResult where
  zone : Nat := 0
  keyMode : Nat := 0
  keyLevel : Nat := 0
  prog : Nat := 0
  zprof : Nat := 0
  exc : Bool := false
  reason : Nat := 0
  tc : Nat := 0
  insert : Bool := false
deriving DecidableEq, Repr

/-- A packet on its way through a pipeline: where its frame lies and what the stages have found. -/
structure Pkt where
  pipe : Nat := 0
  /-- the logical port of this pass, and of the first -/
  lport : Nat := 0
  pass : Bool := false
  metaw : Nat := 0
  /-- `FRAME_LEN` of this pass, without FCS -/
  len : Nat := 0
  /-- first cell and the owner ID it is held under -/
  head : Nat := 0
  owner : Nat := 0
  /-- ingress timestamp, in 2^-16 ns of TOD (R241) -/
  ts : Nat := 0
  turn : BitVec 16 := 0
  hdrs : HdrMap := {}
  cls : ClsResult := {}
  key : Option (List Byte) := none
  dir : Bool := false
  fh : Nat := 0
  /-- the BD a recirculated packet carries (R166) -/
  bd : Option Nat := none
  /-- injected by a policy core (R69 `PUNT_LOOP`) -/
  core : Bool := false
  /-- marked by the MACsec stage (R359) -/
  uncontrolled : Bool := false
  /-- a steered packet: the `FH` its steer header carried (R285) -/
  steered : Option Nat := none
  ptp : Nat := 0
  ptpTag : Nat := 0
  /-- the tail has not arrived (R49) -/
  ct : Bool := false
  /-- it entered at the host port, and so has no ingress timestamp (R241) -/
  host : Bool := false
  /-- its first pass was traced (R450) -/
  traced : Bool := false
  /-- the reasons raised and the trace record begun (R450) -/
  trace : List Byte := []
deriving DecidableEq, Repr

/-- A hold-queue entry (R64-R67): the packet, the uptime of its request, and its place in the order of requests of all pipelines (R34). -/
structure Hold where
  pkt : Pkt
  since : Nat
  no : Nat := 0
deriving DecidableEq, Repr

/-- A flow request on its way to a slice (R64). -/
structure FlowReq where
  pipe : Nat
  idx : Nat
  gen : Nat
  insert : Bool
  key : List Byte
  fh : Nat
  prog : Nat
  zprof : Nat
  turn : BitVec 16
  /-- frame length with FCS (R88) -/
  len : Nat
  steered : Option Nat := none
deriving DecidableEq, Repr

/-- A response (R95): outcome, the entry it releases, the time stamp, the snapshot; for `STEER`, the steering entry (R283). -/
structure Resp where
  pipe : Nat
  idx : Nat
  gen : Nat
  outcome : Nat
  stamp : Nat := 0
  snap : Option Rec := none
  steer : Nat := 0
  /-- a steered request that `STEER_LOOP` ends (R282) -/
  loop : Bool := false
  /-- the first packet of a record whose strict update has been sent (R295) -/
  strict : Bool := false
  /-- the slot of the slice that answers, the request, the uptime at which the response left, and the request's place among its slice's -/
  slot : Nat := 0
  req : Option FlowReq := none
  sent : Nat := 0
  no : Nat := 0
deriving DecidableEq, Repr

/-- A punt-buffer entry (R70). -/
structure Punt where
  code : Nat
  pkt : Pkt
  /-- cells held, and the bytes of the frame without FCS -/
  cells : Nat
  green : Bool
deriving DecidableEq, Repr

/-- A frame for the host port of a pipeline (R193): from a `TXP` ring, which waits for cells, a core, the exporter. -/
structure HostFrame where
  pipe : Nat
  data : List Byte
  metaw : Nat := 0
  core : Bool := false
  ptp : Nat := 0
  ptpTag : Nat := 0
  /-- the host port that does the DMA, the ring and the descriptors that complete once the frame is in cells -/
  port : Nat := 0
  ring : Nat := 0
  slots : List Nat := []
deriving DecidableEq, Repr

/-- Where a cut-through frame is: in its pipeline, waiting for its tail, queued or leaving, or gone (R49, R213). -/
inductive CtAt | pipe | wait | out | gone
deriving DecidableEq, Repr

/-- A cut-through frame from its head's arrival until its tail's: its first cell, the bytes that have no cell yet, and what is done once the tail is
here: a punt, a recirculation, or enqueue. `bad` is known once the tail has arrived; `noRoom` says that a later cell could not be had (R193, R214). -/
structure CtFrame where
  head : Nat
  rest : List Byte := []
  noRoom : Bool := false
  fcsOk : Bool := true
  place : CtAt := .pipe
  bad : Option Bool := none
  pkt : Pkt := {}
  punt : Option Nat := none
  recirc : Bool := false
  strict : Bool := false
  targets : List (Nat × EditRes) := []
  fd : FrameD := {}
deriving DecidableEq, Repr

/-- The pipelines. -/
structure PplSt where
  /-- headers ready at each logical port, oldest first (R47) -/
  ready : Tbl (List Pkt) := []
  /-- the Ethernet port served last, and the cycles since the host and recirculation ports were admitted, by pipeline -/
  rr : Tbl Nat := []
  hostAge : Tbl Nat := []
  recAge : Tbl Nat := []
  /-- issue slots owed to write-backs (R137) and sync frames (R280) -/
  owed : Tbl Nat := []
  /-- hold entries by 2,048 × pipeline + index, and their generations -/
  hold : Tbl Hold := []
  gen : Tbl Nat := []
  /-- the model's own: how many flow requests have been made (R34) -/
  holdNo : Nat := 0
  reqs : List FlowReq := []
  resps : List Resp := []
  punts : Tbl (List Punt) := []
  /-- punt policers by 64 × pipeline + code, in units of 2^-24 token -/
  tokens : Tbl Bucket := []
  recirc : Tbl (List Pkt) := []
  hostWait : List HostFrame := []
  /-- cut-through frames, from the head's arrival on, by their first cell; 2^40 + port once a frame is gone before its tail -/
  ct : Tbl CtFrame := []
deriving DecidableEq, Repr

/-! ### The flow store (chapters 3 and 4) -/

/-- A line, or pair of lines, of a slice's cache (R91): the record at a place of the region, 4 × bucket + slot. -/
structure Line where
  pos : Nat
  rcd : Rec
  dirty : Bool
  /-- how many of a pinned record's lines are beyond the limit of its set -/
  extra : Nat := 0
  /-- of a wide record, only the line of its upper slot is left -/
  half : Bool := false
deriving DecidableEq, Repr

/-- A move of a path (R97-R99): the record's key, from a place or the stash, to a bucket. -/
structure Move where
  key : List Byte
  src : Nat
  dst : Nat
deriving DecidableEq, Repr

/-- A move between its steps 1 and 2 (R99): the ledger entry, the place reserved, and the record as step 1 read it. -/
structure LedgerEnt where
  region : Nat
  mv : Move
  pos : Nat
  rcd : Rec
  /-- its place in the order of its two buckets (R89) -/
  ord : Nat := 0
deriving DecidableEq, Repr

/-- Where a pipeline request stands in its slice (R93, R97): it waits for bucket reads, for moves, or for something else. -/
inductive OpAt
  /-- behind an earlier operation on the same key -/
  | behind
  /-- its lookup: bucket reads still missing; with none missing, its turn in its buckets' order -/
  | look (reads : List Nat)
  | alt (bucket : Nat)
  | search (attempt : Nat) (moves : List Move) (bucket need : Nat)
  /-- the moves left; with none left, the final placement -/
  | moves (attempt : Nat) (left : List Move)
  | guard
  /-- the pool's ready queue is empty but the pool is not (R141) -/
  | nat
  /-- the spare has not yet loaded the stash image (R117) -/
  | image
deriving DecidableEq, Repr

/-- A pipeline request admitted to a slice and not yet answered. -/
structure SliceOp where
  req : FlowReq
  place : OpAt
  /-- buckets this operation has read -/
  seen : List Nat := []
  /-- the partner to which a request in a merging entry goes unless the lookup keeps it (R282) -/
  merge : Option Nat := none
  /-- its place among the requests its slice took, its place in the order of admission, and the buckets whose order it is in (R89) -/
  no : Nat := 0
  ord : Nat := 0
  holds : List Nat := []
deriving DecidableEq, Repr

/-- A NAT pool (R140, R141): descriptor, pairs ready, and the refill cursor as address index × 65,536 + port. -/
structure NatPool where
  desc : List Byte := []
  ready : List (Nat × Nat) := []
  cursor : Nat := 0
deriving DecidableEq, Repr

/-- What a sweeper does (R108, R109, R312). -/
inductive SweepKind | sweep | rebuild | round (partner pass : Nat)
deriving DecidableEq, Repr

/-- A region's sweeper: the pass that runs, where it stands, the passes that wait, and the ages at the starts of passes. -/
structure Sweep where
  running : Option SweepKind := none
  /-- the next bucket, then 2^24 + stash entry -/
  cursor : Nat := 0
  waiting : List SweepKind := []
  /-- a grid pass waits (R108) -/
  gridWaits : Bool := false
  /-- the grid pass whose leave is asked or deferred: the pass that waits behind it is `gridWaits` -/
  gridNow : Bool := false
  /-- age ticks at the start of this pass and of the one before -/
  start : Nat := 0
  prev : Nat := 0
  passes : Nat := 0
  /-- this pass sends `CTR_DELTA` messages (R297) -/
  delta : Bool := false
  /-- keys found expired, to be read again (R110) -/
  found : List (List Byte) := []
deriving DecidableEq, Repr

/-- A companion insert or delete on its way to its slice (R142, R143). -/
inductive CompOp
  /-- insert: the forward record's key and `FH`, the companion record, pool and pair -/
  | ins (fwd : List Byte) (comp : Rec) (pool addr port : Nat)
  /-- delete: the companion's key, then the pair whose bit is cleared -/
  | del (key : List Byte) (pool addr port : Nat)
deriving DecidableEq, Repr

/-- A Duilo message (R288). -/
structure Msg where
  type : Nat
  flags : Nat := 0
  seq : Nat := 0
  body : List Byte := []
deriving DecidableEq, Repr

/-- An operation of a slice besides pipeline requests, moves and the sweeper's: a host flow command, a companion's, the undoing of a
forward record, a write-back, a partner's record message, an `UNMIRRORED` mark, and what a partner's `ACK` says of a record. -/
inductive Job
  | host (op : CmdOp) (o : Origin) (slot : Nat) (q : Cmd)
  | comp (x : CompOp)
  | undo (fwd : List Byte) (pool addr port : Nat)
  | wb (w : WriteBack)
  | msg (partner : Nat) (g : Msg)
  | mark (key : List Byte)
  | ack (g : Msg) (refused : Bool)
deriving DecidableEq, Repr

/-- An operation admitted to a slice: its key, its places as `SliceOp` has them, and whether its wait for the guard is counted. -/
structure Waiter where
  job : Job
  key : List Byte
  region : Nat
  no : Nat
  ord : Nat
  holds : List Nat
  counted : Bool := false
  /-- where an insert stands in its placement (R97, R101): at its buckets, or on a path -/
  place : OpAt := .look []
  /-- `FH` of its key -/
  fh : Nat
deriving DecidableEq, Repr

/-- A collector's message being built (R159): its records by template, the uptime of the first, the data records sent. -/
structure IpfixMsg where
  recs : List (Nat × List Byte) := []
  since : Nat := 0
  seq : Nat := 0
deriving DecidableEq, Repr

/-- A spare takeover (R117): the slot, the failed slice, whether its dirty lines are lost. -/
structure Takeover where
  slot : Nat
  failed : Nat
  loses : Bool
deriving DecidableEq, Repr

/-- The flow store. -/
structure FslSt where
  /-- records in HBM by region × 2^26 + place (R79, R80) -/
  hbm : Tbl Rec := []
  /-- cache sets by slice × 8,192 + set, least recently used first -/
  cache : Tbl (List Line) := []
  /-- overflow counts by region × 2^24 + bucket (R100), and the counts a rebuild is building (R109) -/
  ovf : Tbl Nat := []
  fresh : Tbl Nat := []
  /-- stash entries by region, each also in the region's stash image (R103), and the entry a retry takes next -/
  stash : Tbl (List Rec) := []
  retry : Tbl Nat := []
  /-- buckets whose read is in flight, by region × 2^24 + bucket (R94) -/
  pending : List Nat := []
  /-- bucket reads that wait for a pending entry -/
  readWait : List Nat := []
  ops : List SliceOp := []
  /-- admitted operations of other sources, in the order of admission, and the next number of that order -/
  jobs : List Waiter := []
  nextOrd : Nat := 0
  ledger : List LedgerEnt := []
  /-- the uptime at which a region's next stash retry is due (R103) -/
  retryAt : Tbl Nat := []
  /-- write-backs applied in the last 20 ns, with their region and place (R118) -/
  wbDone : List (WriteBack × Nat × Nat) := []
  /-- guarded keys of each region with the uptime at which each lapses (R112) -/
  guard : Tbl (List (List Byte × Nat)) := []
  victim : Tbl Nat := []
  /-- write-backs held by the crossbar (R94, R111) -/
  wbs : List WriteBack := []
  sweep : Tbl Sweep := []
  /-- the grid's next due time (R108) -/
  due : Nat := 0
  /-- states of the slice map (R81), by slot: 0 normal, 1 takeover, 2 rebuilding; slices offline -/
  mapState : Tbl Nat := []
  mapPhys : Tbl Nat := []
  offline : List Nat := []
  takeover : Option Takeover := none
  /-- slots whose spare is still loading the region's stash image (R117 step 4) -/
  imagesDue : List Nat := []
  spareAvail : Bool := true
  /-- the physical slice that is the spare -/
  spare : Nat := 16
  spareTaken : Bool := false
  lastSlot : Nat := 0
  ready : Bool := false
  clearing : Bool := false
  ageNow : Nat := 0
  /-- the uptime of the next age tick -/
  ageAt : Nat := 0
  /-- the seed of `FH` (R63): drawn at the seal unless software gave it -/
  seed : List Byte := []
  pools : Tbl NatPool := []
  /-- bits marked in the NAT bitmap by row × 65,536 + port, and those outside a loaded pool's ports that have been cleared since (R140) -/
  natBit : Tbl Bool := []
  natFreed : List Nat := []
  comps : List CompOp := []
  beGroup : Tbl Nat := []
  beSlot : Tbl Nat := []
  backend : Tbl (List Byte) := []
  ipfix : Tbl IpfixMsg := []
  /-- the uptime at which the templates were last sent -/
  tmplAt : Nat := 0
deriving DecidableEq, Repr

/-! ### Policy cores and the task scheduler (chapter 8) -/

/-- `TSK_CORE_STAT_c.STATE` (R276). -/
inductive CoreRun | reset | running | stopping | isolated
deriving DecidableEq, Repr

/-- A work item (R261), the bytes its buffers hold, and its admission time. -/
structure WItem where
  src : Nat := 0
  reason : Nat := 0
  wq : Nat := 0
  tag : Nat := 0
  fh : Nat := 0
  origLen : Nat := 0
  inLport : Nat := 0
  pass : Bool := false
  pipe : Nat := 0
  turn : BitVec 16 := 0
  /-- admission sequence within the queue -/
  seq : Nat := 0
  /-- timestamp, TOD ns -/
  ts : Nat := 0
  user : List Byte := []
  /-- the frame or record the buffers hold -/
  data : List Byte := []
  /-- the chain of buffers, first to last -/
  bufs : List Nat := []
  /-- uptime of admission -/
  admitted : Nat := 0
  /-- for a host-ring item, the ring and the consumed descriptors that complete at admission -/
  ring : Nat := 0
  slots : List Nat := []
deriving DecidableEq, Repr

/-- An item in service in a core's slot: since when, and the commands the core issued while it held it (R269). -/
structure InService where
  item : WItem
  since : Nat
  cmds : List Nat := []
deriving DecidableEq, Repr

/-- One output of an item (R269). An injection from a chain of the core's own buffers (`NEWBUF`) keeps that chain until it is released. -/
inductive TOutput
  | inject (pipe : Nat) (frame : List Byte) (metaw : Nat) (chain : List Nat)
  | deliver (ring : Nat) (frame : List Byte)
  | forward (wq : Nat)
  | post (core : Nat) (item : WItem)
  | drop
deriving DecidableEq, Repr

/-- A store to the work port that waits for room in the release unit (R269): a `DONE` of a slot, or a `POST_GO` with what was staged and what the
named buffers hold. -/
inductive PortStore
  | done (slot : Nat) (out : TOutput)
  | post (staged held : List Byte)
deriving DecidableEq, Repr

/-- An entry of a core's physical memory protection (R258; its form is the ratified RISC-V one, notes/assumptions/113.md). -/
structure PmpEntry where
  cfg : BitVec 8 := 0
  addr : BitVec 54 := 0
deriving DecidableEq, Repr

/-- A policy core (R258, R266, R271). -/
structure Core where
  state : CoreRun := .reset
  slots : Tbl InService := []
  armed : Bool := false
  /-- the machine external interrupt has been raised -/
  irq : Bool := false
  /-- buffers allocated through the work port -/
  bufs : List Nat := []
  /-- `POST_STATUS` -/
  post : Nat := 0
  /-- where the core left reset: image slot and entry -/
  slotB : Bool := false
  entry : Nat := 0
  /-- user mode; at reset machine mode -/
  user : Bool := false
  pmp : List PmpEntry := []
  /-- the store that stalls the core (R269) -/
  stall : Option PortStore := none
deriving DecidableEq, Repr

/-- An output in the release unit: the item it belongs to, the commands it waits for, whether the item's `DONE` is given. -/
structure OutEntry where
  out : TOutput
  core : Nat
  item : WItem
  cmds : List Nat := []
  /-- the item's `DONE` has been stored: this entry is its last -/
  last : Bool
deriving DecidableEq, Repr

/-- A work queue (R268): items not in service in admission order, the next sequence number, the places of items in service
or waiting in the release unit in admission order, and the waiting-time histogram (R273). -/
structure WQueue where
  items : List WItem := []
  next : Nat := 0
  places : List Nat := []
  hist : Tbl Nat := []
deriving DecidableEq, Repr

/-- A cluster's command queue (R272): where the next completion is written, and the phase it carries. -/
structure Cluster where
  head : Nat := 0
  phase : Bool := true
deriving DecidableEq, Repr

/-- A command of a core that has not completed: its number, the core, what its completion needs, and the completion once it is known. -/
structure CoreCmd where
  n : Nat
  core : Nat
  opc : Nat
  ctx : BitVec 32
  body : List Byte
  done : Option Completion := none
deriving DecidableEq, Repr

/-- The `TSK` block. -/
structure TskSt where
  cores : Tbl Core := []
  queues : Tbl WQueue := []
  /-- the link array: for each buffer in use, the buffer after it (R262) -/
  link : Tbl (Option Nat) := []
  /-- the queue last served at each priority (R270) -/
  rr : Tbl Nat := []
  outs : List OutEntry := []
  /-- items that ask for admission: host-ring items by ring, age notices, core posts by core (R265) -/
  hostIn : Tbl (List WItem) := []
  ageIn : List WItem := []
  postIn : Tbl (List WItem) := []
  clusters : Tbl Cluster := []
  /-- commands of cores that have not completed, in order (R272) -/
  cmds : List CoreCmd := []
  nextCmd : Nat := 0
  /-- the images of slots A and B in the core memory area (R259, R274) -/
  image : Tbl (List Byte) := []
  /-- the core and queue latched by `TSK_SVC_TIMEOUT` (R275) -/
  svcLatch : Option (Nat × Nat) := none
  /-- the L2 line address of the last uncorrectable error (R275) -/
  l2Latch : Option Nat := none
  /-- bits 24:6 of the addresses of discarded L2 lines (R275) -/
  l2Lost : List Nat := []
deriving DecidableEq, Repr

/-! ### Duilo (chapter 9) -/

/-- A sequenced message not yet acknowledged up to `CUM_SEQ` (R291): when it was first and last sent, whether it waits to be sent,
whether an `ACK` has covered it in `RX_MAP`, and for a strict insert the flow that is parked for it (R295). A copy of a stream that
has ended carries a number of 2^32 or more. -/
structure Copy where
  msg : Msg
  first : Option Nat := none
  sent : Option Nat := none
  toSend : Bool := true
  covered : Bool := false
  strict : Option Nat := none
deriving DecidableEq, Repr

/-- A received `HELLO` (R289). -/
structure Hello where
  lease : Nat := 0
  versions : Nat := 0
  chosen : Nat := 0
  yielding : Bool := false
  hearing : Bool := false
  boot : Nat := 0
  ageTick : Nat := 0
  seedCheck : Nat := 0
deriving DecidableEq, Repr

/-- A steering entry as a partner reported it in a round (R289, R311). -/
structure DigestItem where
  home : Nat
  mirror : Nat
  mEn : Bool
  shadowed : Bool
  digest : Nat
deriving DecidableEq, Repr

/-- A reconcile round on a link (R311, R312): the partner's items by entry, this device's as sent, the exchanged entries once
both are whole, the pass that runs, the regions whose pass has ended, the `DONE` flags sent and received, and whether `LOSS` was received. -/
structure Round where
  theirs : Tbl DigestItem := []
  mine : Tbl DigestItem := []
  exchanged : Option (List Nat) := none
  pass : Nat := 0
  ended : List Nat := []
  doneTx : Nat := 0
  doneRx : Nat := 0
  loss : Bool := false
  bootNew : Bool := false
deriving DecidableEq, Repr

/-- A partner link (R303). `state` and `reason` are encoded as in `DUO_PARTNER_STAT_n`. -/
structure Link where
  state : Nat := 0
  reason : Nat := 0
  ver : Nat := 0
  /-- uptime of the last frame on the primary and alternate path -/
  rx : Tbl Nat := []
  hello : Option Hello := none
  /-- next sequence number sent, copies in order, the engine's messages that wait for a free copy, and unsequenced messages that wait for
  a path -/
  txSeq : Nat := 0
  copies : List Copy := []
  later : List Msg := []
  wait : Tbl (List Msg) := []
  helloAt : Nat := 0
  /-- next sequence number expected, messages held ahead of a gap, messages dispatched and not carried out, with their path -/
  rxSeq : Nat := 0
  ahead : Tbl Msg := []
  inbox : List (Msg × Nat) := []
  /-- carried out beyond `CUM_SEQ`, and refused; all up to `cum` have been carried out -/
  cum : Nat := 2 ^ 32 - 1
  done : List Nat := []
  refused : List Nat := []
  /-- the uptime since which an `ACK` is owed, and of the last one -/
  ackDue : Option Nat := none
  ackAt : Nat := 0
  round : Option Round := none
  /-- a record has been lost since the last round began: the next one sends `LOSS` -/
  lossDue : Bool := false
  /-- the uptime at which the link last entered `UP` or last began a round there -/
  roundAt : Nat := 0
  upBoot : Nat := 0
deriving DecidableEq, Repr

/-- A parked packet (R295): its flow, what enqueue was given. -/
structure Parked where
  fh : Nat
  pkt : Pkt
  fd : FrameD
  targets : List (Nat × EditRes)
deriving DecidableEq, Repr

/-- The Duilo engine, the steering table and the emitters. -/
structure DuoSt where
  /-- steering entries without bits 15:13 (R281); the state of an entry, plus 4 where it is `SHADOWED` -/
  steer : Tbl Nat := []
  est : Tbl Nat := []
  /-- target copies (R283) -/
  target : Tbl Nat := []
  /-- entries whose parity error is being repaired (R395) -/
  restoring : List Nat := []
  links : Tbl Link := []
  /-- parks by die, and the flows of releases on their way to the dies, in the order sent -/
  park : Tbl (List Parked) := []
  release : List Nat := []
  /-- retry lists by region: keys and the uptime at which each is sent again (R296) -/
  retry : Tbl (List (List Byte × Nat)) := []
  /-- keys that found the list of their region full, or not used, and are sent again at the sweeper's next visit -/
  late : Tbl (List (List Byte)) := []
  /-- the age tick at which the sweeper of a region began its last `CTR_DELTA` pass (R297) -/
  delta : Tbl Nat := []
  /-- a slice has lost a record, and rounds with `LOSS` are to begin (R311) -/
  lost : Bool := false
deriving DecidableEq, Repr

/-! ### MACsec (chapter 11) -/

/-- The MACsec stages of the I/O dies. Packet numbers stand in `MSC_SA_PN_*`. -/
structure MscSt where
  /-- SAs whose key is prepared, by 4,096 × die + entry (R361) -/
  ready : List Nat := []
  /-- SAs whose key memory failed and which are not installed again yet (R367) -/
  failed : List Nat := []
  /-- SAs installed while a bulk rekey of their die runs: prepared on their own (R365) -/
  late : List Nat := []
  /-- statistics (R352), by ((die × 4 + object) × 4,096 + index) × 16 + place in clause 10.7's order; object 3 is an SA -/
  stats : Tbl Nat := []
deriving DecidableEq, Repr

/-! ### The trust unit (chapter 14) -/

/-- A measurement (R412, R423): bundle kind, signer, digest. `kind` 0 is an index with nothing loaded. -/
structure Meas where
  kind : Nat := 0
  signer : Nat := 0
  digest : List Byte := List.replicate 32 0
deriving DecidableEq, Repr

/-- What OTP and the secure NV store hold across `RESET_N` (R414, R418, R421, R425). -/
structure NvSt where
  revoked : BitVec 3 := 0
  svn : BitVec 64 := 0
  /-- the owner record: the key's hash -/
  owner : Option (List Byte) := none
  /-- the reservation ring, by position -/
  ring : Tbl (List Byte) := []
  tag : Tbl Byte := []
  tagWrites : Nat := 0
deriving DecidableEq, Repr

/-- The trust unit. -/
structure SecSt where
  nv : NvSt := {}
  /-- `NEXT` (R421) -/
  next : Nat := 0
  /-- generated trees, as layer and index, and the one whose generation runs (R420) -/
  trees : List (Nat × Nat) := []
  gen : Option (Nat × Nat) := none
  meas : Tbl Meas := []
  /-- the shadow measurement of the program bank (R413) -/
  shadowProg : Meas := {}
  rngOk : Bool := false
  rngSeeded : Bool := false
  /-- the uptime of the last signature (R422), and whether instance 3 was raised -/
  signedAt : Option Nat := none
  fewLeft : Bool := false
  /-- banks and slots whose load did not complete (R480): 0, 1 the program banks of the dies, 4, 5 their template banks, 2, 3 core slots -/
  incomplete : List Nat := []
  /-- uncorrectable errors that the next load to write there meets (R480): 0 programs, 1 templates, 2, 3 core slots, and the entry or byte -/
  writeErrs : List (Nat × Nat) := []
deriving DecidableEq, Repr

/-! ### The whole -/

/-- The machine beside its configuration. -/
structure Mach where
  reg : RegSt := {}
  glb : GlbSt := {}
  flt : FltSt := {}
  hif : HifSt := {}
  tod : TodSt := {}
  pwr : PwrSt := {}
  fwd : FwdSt := {}
  tmg : TmgSt := {}
  sch : SchSt := {}
  fsl : FslSt := {}
  act : ActSt := {}
  tsk : TskSt := {}
  duo : DuoSt := {}
  ppl : PplSt := {}
  msc : MscSt := {}
  sec : SecSt := {}
  /-- nanoseconds since the last release of `RESET_N` -/
  up : Nat := 0
  /-- how many free values have been drawn (notes/assumptions/3.md): the model's own field -/
  free : Nat := 0
  /-- what the device has put out, oldest first -/
  out : List Output := []
deriving DecidableEq, Repr

/-- The device: its configuration and the machine. -/
structure Dev where
  cfg : Cfg := {}
  m : Mach := {}
deriving DecidableEq, Repr

/-- The state: the device and the commands that wait, first in, first out. -/
structure State where
  dev : Dev := {}
  pending : List Instr := []
deriving DecidableEq, Repr

/-- Reasons for a fault. None: the spec gives every command of the table an effect, and names no address or register whose
access stops the machine. -/
inductive Fault
deriving DecidableEq, Repr

/-- Reasons for a refusal. -/
inductive Refusal
  /-- the command has no meaning in this model yet; raised by its arm of `exec` alone, and safe: the model stops where
  the device goes on -/
  | notModelled (mnemonic : String)
deriving DecidableEq, Repr

/-- The device right after `RESET_N` is released (R14, R368): every register at its reset value, every table empty, stage
`ROM`, no command waiting. -/
def State.reset : State := { dev := { m := { glb := { bootId := (Config.random 0).setWidth 32 }, free := 1 } } }

end Sys2Proof.Machine
end

