-- ==== Sys2Proof/Machine/Ops.lean ====
section
/-! DEFINITION. The named operations over registers, counters, time, outputs and reports that every meaning is written in. -/
namespace Sys2Proof.Machine

/-- The device ID code: the revision, `0x0A00`, and the fused low bits (R474, R426). -/
def Fuse.idcode (f : Fuse) : Nat := (if f.rev = .a0 then 0 else 2 ^ 28) + 0x0A00 * 2 ^ 12 + f.idLow.toNat

/-! ### Where a register lies -/

/-- The block a counter bank belongs to, by the bank's number (R443). -/
def pmcBlk (n : Nat) : Option Blk :=
  allBlks.find? fun b => decide ((pmcRow b).first ≤ n) && decide (n < (pmcRow b).first + (pmcRow b).count)

/-- The offset of a counter bank: the last 256 bytes of its instance window (R443). -/
def pmcBankBase (n : Nat) : Nat :=
  match pmcBlk n with
  | some b => (blkWindow b).1 + (n - (pmcRow b).first + 1) * (pmcRow b).stride - 0x100
  | none => 0

/-- The registers of a counter bank (R455). -/
def isPmc : Reg → Bool
  | .pmcCtrl | .pmcCycLo | .pmcCycHi | .pmcCntCfg | .pmcCntLo | .pmcCntHi => true
  | _ => false

/-- What the indexes of an instance add to a register's base. -/
def dimOffset : List (Nat × Nat) → Nat → Nat → Nat → Nat
  | [], _, _, _ => 0
  | [(_, a)], i, _, _ => i * a
  | [(_, a), (_, b)], i, j, _ => i * a + j * b
  | (_, a) :: (_, b) :: (_, e) :: _, i, j, k => i * a + j * b + k * e

/-- The BAR0 offset of a register's instance (R43). -/
def regAddr (r : Reg) (i j k : Nat) : Nat :=
  if isPmc r then pmcBankBase i + (regPlace r).base + dimOffset (regPlace r).dims j 0 0
  else (regPlace r).base + dimOffset (regPlace r).dims i j k

/-- A register's instance, found from an offset; `hi` marks the upper half of a counter. -/
structure Loc where
  reg : Reg
  i : Nat := 0
  j : Nat := 0
  k : Nat := 0
  hi : Bool := false
deriving DecidableEq, Repr

/-- Splits an offset from a register's base into its indexes and what is left. -/
def splitDims : List (Nat × Nat) → Nat → Option (List Nat × Nat)
  | [], r => some ([], r)
  | (n, s) :: t, r => if r / s < n then (splitDims t (r % s)).map fun (l, q) => (r / s :: l, q) else none

/-- Whether an offset names an instance of a register. -/
def locateIn (r : Reg) (off : Nat) : Option Loc :=
  let p := regPlace r
  if off < p.base then none else
  match splitDims p.dims (off - p.base) with
  | some (l, q) =>
    if q = 0 then some ⟨r, l.getD 0 0, l.getD 1 0, l.getD 2 0, false⟩
    else if q = 4 && isCounter r then some ⟨r, l.getD 0 0, l.getD 1 0, l.getD 2 0, true⟩
    else none
  | none => none

/-- The register of a counter bank that lies `q` bytes into it (R455). -/
def locatePmc (bank q : Nat) : Option Loc :=
  if q = 0 then some ⟨.pmcCtrl, bank, 0, 0, false⟩
  else if q = 8 then some ⟨.pmcCycLo, bank, 0, 0, false⟩
  else if q = 0xC then some ⟨.pmcCycHi, bank, 0, 0, false⟩
  else if q < 0x10 || 0x90 ≤ q then none
  else match (q - 0x10) % 0x10 with
    | 0 => some ⟨.pmcCntCfg, bank, (q - 0x10) / 0x10, 0, false⟩
    | 4 => some ⟨.pmcCntLo, bank, (q - 0x10) / 0x10, 0, false⟩
    | 8 => some ⟨.pmcCntHi, bank, (q - 0x10) / 0x10, 0, false⟩
    | _ => none

/-- The block whose window an offset lies in (R43). -/
def blkOf (off : Nat) : Option Blk :=
  allBlks.find? fun b => decide ((blkWindow b).1 ≤ off) && decide (off < (blkWindow b).2)

/-- The counter bank of the instance an offset lies in. -/
def bankOf (off : Nat) : Option Nat :=
  match blkOf off with
  | some b =>
    let n := (off - (blkWindow b).1) / (pmcRow b).stride
    if n < (pmcRow b).count then some ((pmcRow b).first + n) else none
  | none => none

/-- The register an offset names: none for an offset outside every window, or that names no register (R43). -/
def locate (off : Nat) : Option Loc :=
  match blkOf off with
  | none => none
  | some b =>
    let rel := (off - (blkWindow b).1) % (pmcRow b).stride
    match bankOf off with
    | some n =>
      if (pmcRow b).stride - 0x100 ≤ rel then locatePmc n (rel - ((pmcRow b).stride - 0x100))
      else (blkRegs b).findSome? (locateIn · off)
    | none => (blkRegs b).findSome? (locateIn · off)

/-! ### Reset values and the parts of a register -/

/-- `PWR_OP_k` at reset: class and pips (R431). -/
def pwrOpReset (k : Nat) : Nat × Nat :=
  ([(1, 2), (2, 8), (1, 2), (0, 4), (1, 2), (1, 4), (3, 1), (3, 20), (3, 6), (2, 16), (0, 40), (0, 12)] : List (Nat × Nat)).getD k (0, 1)

/-- The dispositions of R69. -/
inductive Disp | punt | drop | cont
deriving DecidableEq, Repr

/-- The number of a disposition in `PPL_REASON_c.DISP`. -/
def Disp.num : Disp → Nat
  | .punt => 0 | .drop => 1 | .cont => 2

/-- Allowed dispositions and the reset of each reason code (R69); no disposition for `0x00` and the count-only codes. -/
def reasonRow (code : Nat) : List Disp × Option Disp :=
  if code = 0x00 || code = 0x09 || code = 0x0A || code = 0x0D then ([], none)
  else if code = 0x01 || code = 0x02 || code = 0x34 || code = 0x35 then ([.punt], some .punt)
  else if code = 0x0E || code = 0x33 || code = 0x37 || code = 0x3B || code = 0x3C || code = 0x3E || code = 0x3F then
    ([.drop], some .drop)
  else if code = 0x24 then ([.cont], some .cont)
  else if code = 0x2D then ([.punt, .cont], some .punt)
  else if code = 0x08 || code = 0x2B || code = 0x2C then ([.punt, .drop, .cont], some .punt)
  else if code = 0x0F || code = 0x21 || code = 0x22 || code = 0x30 || code = 0x31 then ([.punt, .drop, .cont], some .drop)
  else if code = 0x25 || code = 0x26 then ([.punt, .drop, .cont], some .cont)
  else if code = 0x03 || code = 0x04 || code = 0x05 || code = 0x06 || code = 0x07 || code = 0x29 || (0x10 ≤ code && code ≤ 0x1F) then
    ([.punt, .drop], some .punt)
  else ([.punt, .drop], some .drop)

/-- A field's reset value (R14). Two registers' values depend on the instance: R431 and R69. -/
def fldReset (x : Fld) (i j _k : Nat) : Nat :=
  if x = pwrOpClass then (pwrOpReset i).1
  else if x = pwrOpPips then (pwrOpReset i).2
  else if x = pplReasonDisp then ((reasonRow j).2.map Disp.num).getD 0
  else x.reset

/-- Where a field's value is held. -/
inductive Part | live | turn | stat | nowhere
deriving DecidableEq, Repr

/-- S-class, L-class and RWL fields are live configuration, T-class fields are banked, what the device writes is status. A WO
field of class L acts at the write and is held nowhere. -/
def Fld.part (x : Fld) : Part :=
  if x.hw then .stat
  else match x.acc with
    | .ro | .w1c | .w1s | .rc => .stat
    | .wo => if x.cls = .s then .live else .nowhere
    | .rw | .rwl => if x.cls = .t then .turn else .live

/-- The fields of a register that one part holds. -/
def partFields (p : Part) (r : Reg) : List Fld := (regFields r).filter fun x => decide (x.part = p)

/-- A part of a register at reset. -/
def wordReset (p : Part) (r : Reg) (i j k : Nat) : Word :=
  BitVec.ofNat 32 ((partFields p r).foldl (fun a x => a + fldReset x i j k * 2 ^ x.lo) 0)

/-- The bits of a register that one part holds. -/
def partMask (p : Part) (r : Reg) : Word :=
  BitVec.ofNat 32 ((partFields p r).foldl (fun a x => a + (2 ^ (x.hi + 1 - x.lo) - 1) * 2 ^ x.lo) 0)

/-- A part of a register held in a table. -/
def partWord (p : Part) (t : Tbl Word) (r : Reg) (i j k : Nat) : Word := Tbl.look (wordReset p r i j k) t (regAddr r i j k)

/-- A field read in a table of its part. -/
def fldIn (t : Tbl Word) (x : Fld) (i j k : Nat) : Nat :=
  match Tbl.find t (regAddr x.reg i j k) with
  | some w => bits w.toNat x.hi x.lo
  | none => fldReset x i j k

/-- A table with one field of a part written. -/
def putFld (t : Tbl Word) (x : Fld) (i j k v : Nat) : Tbl Word :=
  Tbl.put (wordReset x.part x.reg i j k) t (regAddr x.reg i j k)
    (BitVec.ofNat 32 (putBits (partWord x.part t x.reg i j k).toNat x.hi x.lo v))

/-! ### Configuration fields -/

/-- A configuration field as the blocks see it: a T-class field in the active turn. -/
def Cfg.get (c : Cfg) (x : Fld) (i : Nat := 0) (j : Nat := 0) (k : Nat := 0) : Nat :=
  match x.part with
  | .turn => fldIn c.act x i j k
  | _ => fldIn c.live x i j k

/-- A one-bit configuration field. -/
def Cfg.on (c : Cfg) (x : Fld) (i : Nat := 0) (j : Nat := 0) (k : Nat := 0) : Bool := c.get x i j k == 1

/-- A T-class field as the shadow has it. -/
def Cfg.shadowOf (c : Cfg) (x : Fld) (i : Nat := 0) (j : Nat := 0) (k : Nat := 0) : Nat :=
  match x.part with
  | .turn => fldIn c.shadow x i j k
  | _ => fldIn c.live x i j k

/-- A T-class field in the turn a packet carries (R72): the draining turn's value while `old` is set. -/
def Cfg.inTurn (c : Cfg) (old : Bool) (x : Fld) (i : Nat := 0) (j : Nat := 0) (k : Nat := 0) : Nat :=
  if old && decide (x.part = .turn) then fldIn c.old x i j k else c.get x i j k

/-- Writes a configuration field that is not banked. -/
def Cfg.setLive (c : Cfg) (x : Fld) (v : Nat) (i : Nat := 0) (j : Nat := 0) (k : Nat := 0) : Cfg :=
  { c with live := putFld c.live x i j k v }

/-! ### Status fields, counters, outputs -/

/-- A status field. -/
def Mach.st (m : Mach) (x : Fld) (i : Nat := 0) (j : Nat := 0) (k : Nat := 0) : Nat := fldIn m.reg.stat x i j k

/-- A one-bit status field. -/
def Mach.stOn (m : Mach) (x : Fld) (i : Nat := 0) (j : Nat := 0) (k : Nat := 0) : Bool := m.st x i j k == 1

/-- Writes a status field. -/
def Mach.setSt (m : Mach) (x : Fld) (v : Nat) (i : Nat := 0) (j : Nat := 0) (k : Nat := 0) : Mach :=
  { m with reg := { m.reg with stat := putFld m.reg.stat x i j k v } }

/-- Appends to what the device puts out. -/
def Mach.emit (m : Mach) (o : Output) : Mach := { m with out := m.out ++ [o] }

/-- The next free value's number (notes/assumptions/3.md). -/
def Mach.draw (m : Mach) : Mach := { m with free := m.free + 1 }

/-- TOD in whole nanoseconds. -/
def Mach.todNs (m : Mach) : Nat := m.tod.now / 2 ^ 48

/-- A die's replica of TOD, in units of 2^-16 ns (R235): the master's TOD and what the die's last correction left it off by. -/
def Mach.dieFrac (m : Mach) (die : Nat) : Nat := ((m.tod.now / 2 ^ 32 : Nat) + Tbl.look (0 : Int) m.tod.replica die).toNat

/-- TOD in units of 2^-16 ns. -/
def Mach.todFrac (m : Mach) : Nat := m.tod.now / 2 ^ 32

/-- Seconds of a time in ns (48 bits), and the nanoseconds within them. -/
def secOf (ns : Nat) : Nat := ns / 1_000_000_000 % 2 ^ 48
def nsOf (ns : Nat) : Nat := ns % 1_000_000_000

/-- The domain of a counter bank's clock (R443, R440). -/
def bankDomain (n : Nat) : Nat :=
  match pmcBlk n with
  | some b =>
    let i := n - (pmcRow b).first
    match b with
    | .ppl => i / 2
    | .tmg | .sch => 16 + i
    | .fwd => if i < 2 then 16 + i else 43
    | .prt => 18 + i % 16 / 4
    | .msc => 22 + i
    | .fsl => 26 + i
    | .fst | .duo => 43
    | .hbm => 44
    | .glb | .hif | .sec | .pmu | .tsk => 57
    | .flt | .pwr | .tod => 59
  | none => 59

/-- A clock domain is gated (R441). -/
def Cfg.gatedDom (c : Cfg) (d : Nat) : Bool :=
  if d < 32 then bit (c.get pwrClkGate0Gate) d else bit (c.get pwrClkGate1Gate) (d - 32)

/-- The frequency of a domain in MHz (R440). -/
def domMHz (d : Nat) : Nat :=
  if d < 26 then 1250 else if d < 44 then 1500 else if d < 50 then 1200 else if d < 58 then 2000
  else if d = 58 then 1000 else 250

/-- The cycles a domain has counted since `RESET_N` was released (R444). -/
def Mach.cycles (m : Mach) (d : Nat) : Nat := (m.up / 4 - Tbl.look 0 m.pwr.gated d) * domMHz d * 4 / 1000

/-- A 48-bit counter of a bank. -/
def Mach.pmcValue (m : Mach) (bank n : Nat) : Nat := m.st pmcCntHiCnt bank n * 2 ^ 32 + m.st pmcCntLoCnt bank n

/-- What software wrote to a counter in this clock, if it did: the value that a dump of this clock takes (R446). -/
def Mach.pmcOld (m : Mach) (bank n : Nat) : Option Nat :=
  ((Tbl.find m.reg.pmcWrote (bank * 8 + n)).filter (·.1 = m.up)).map (·.2)

/-- Counter `n` of a bank wraps when `x` is added. -/
def pmcWraps (m : Mach) (bank n x : Nat) : Bool := (m.pmcOld bank n).isNone && decide (2 ^ 48 ≤ m.pmcValue bank n + x)

/-- What a dump latch takes of a counter (R446). -/
def Mach.pmcLatch (m : Mach) (bank n : Nat) : Nat := (m.pmcOld bank n).getD (m.pmcValue bank n)

/-- Adds to one counter of a bank; a wrap sets `OVF` (R444). In the clock of a write to it the written value stands and the increment is lost
(R446); the model's clock there is the moment between two ticks (notes/assumptions/6.md). -/
def pmcAdd (m : Mach) (bank n x : Nat) : Mach :=
  match m.pmcOld bank n with
  | some v => { m with reg := { m.reg with pmcWrote := Tbl.ins m.reg.pmcWrote (bank * 8 + n) (m.up, (v + x) % 2 ^ 48) } }
  | none =>
    let w := (m.pmcValue bank n + x) % 2 ^ 48
    let m' := (m.setSt pmcCntLoCnt (w % 2 ^ 32) bank n).setSt pmcCntHiCnt (w / 2 ^ 32) bank n
    if pmcWraps m bank n x then m'.setSt pmcCntCfgOvf 1 bank n else m'

/-- Carries a wrap of counter `n` into the counters chained behind it (R444). -/
def pmcChain (c : Cfg) : Nat → Mach → Nat → Nat → Mach
  | 0, m, _, _ => m
  | fuel + 1, m, bank, n =>
    if n + 1 < 8 && c.on pmcCntCfgEn bank (n + 1) && c.on pmcCntCfgChain bank (n + 1) then
      if pmcWraps m bank (n + 1) 1 then pmcChain c fuel (pmcAdd m bank (n + 1) 1) bank (n + 1) else pmcAdd m bank (n + 1) 1
    else m

/-- `x` occurrences of an event in one clock, met by the counters of a bank (R444, R445). In edge mode a counter adds 1 for a clock of the bank's
domain with an occurrence that follows a clock with none. Event 0x01 fills the last `x` clocks; any other event has its clock at the moment it
occurs (notes/assumptions/6.md). -/
def pmcEvent (c : Cfg) (m : Mach) (bank ev x : Nat) : Mach :=
  if c.on pmcCtrlFreeze bank || c.gatedDom (bankDomain bank) then m
  else (List.range 8).foldl (fun m n =>
    if c.on pmcCntCfgEn bank n && !c.on pmcCntCfgChain bank n && c.get pmcCntCfgEvent bank n == ev then
      let key := bank * 8 + n
      let now := m.cycles (bankDomain bank)
      let last := Tbl.find m.reg.pmcLast key
      let m := { m with reg := { m.reg with pmcLast := Tbl.ins m.reg.pmcLast key now } }
      let add := if c.on pmcCntCfgEdge bank n then b2n (match last with | some t => t + (if ev = 1 then x else 1) < now | none => true) else x
      if pmcWraps m bank n add then pmcChain c 7 (pmcAdd m bank n add) bank n else pmcAdd m bank n add
    else m) m

/-- The offset of a counter: its instance indexes, then the counter's number where its register holds several. -/
def ctrAddr (r : Reg) (i j k : Nat) : Nat := (regPlace r).base + dimOffset (regPlace r).dims i j k

/-- A statistical counter's value. -/
def Mach.ctr (m : Mach) (r : Reg) (i : Nat := 0) (j : Nat := 0) (k : Nat := 0) : Nat := Tbl.look 0 m.reg.cnt (ctrAddr r i j k)

/-- The number of a counter in its block's list (R445); a counter that stands alone has none. -/
def ctrIndex (r : Reg) (i j k : Nat) : Option Nat :=
  match (regPlace r).dims.getLast? with
  | some (_, 8) => some (match (regPlace r).dims.length with | 1 => i | 2 => j | _ => k)
  | _ => none

/-- Adds `x` to a statistical counter, which wraps at 64 bits (R20), and shows the event to the block's bank (R445). The counters of a block whose
clock is stopped do not count (R441). -/
def bump (c : Cfg) (m : Mach) (r : Reg) (i : Nat := 0) (j : Nat := 0) (k : Nat := 0) (x : Nat := 1) : Mach :=
  let a := ctrAddr r i j k
  if (bankOf a).any fun b => c.gatedDom (bankDomain b) then m
  else
  let m := { m with reg := { m.reg with cnt := Tbl.put 0 m.reg.cnt a ((Tbl.look 0 m.reg.cnt a + x) % 2 ^ 64) } }
  match ctrIndex r i j k, bankOf a with
  | some n, some b => pmcEvent c m b (0x10 + n) x
  | _, _ => m

/-- Adds 1 to a 32-bit status counter, which wraps (R20). -/
def Mach.inc32 (m : Mach) (x : Fld) (i : Nat := 0) (j : Nat := 0) (k : Nat := 0) : Mach :=
  m.setSt x ((m.st x i j k + 1) % 2 ^ 32) i j k

/-- The load that writes entry or byte `n` of memory `k` meets an uncorrectable error there (R480). -/
def Mach.writeMeets (m : Mach) (k n : Nat) : Bool := m.sec.writeErrs.contains (k, n)

/-- A load stops at an uncorrectable error of the memory it writes, and leaves the marks `left` in place (R480, notes/assumptions/119.md). -/
def loadStops (m : Mach) (k n : Nat) (left : List Nat) : Mach :=
  { m with sec := { m.sec with writeErrs := m.sec.writeErrs.erase (k, n), incomplete := left ++ m.sec.incomplete.filter fun i => !left.contains i } }

/-- A load that completes clears its marks (R480). -/
def loadDone (m : Mach) (ks : List Nat) : Mach :=
  { m with sec := { m.sec with incomplete := m.sec.incomplete.filter fun i => !ks.contains i } }

/-! ### Reports -/

/-- Sources of reports (R393): 16 × class + instance. -/
def srcOf (cls inst : Nat) : Nat := 16 * cls + inst

/-- The block instance's bank that a class of faults is reported by, for the bank events of R445. -/
def classBank (cls inst : Nat) : Option Nat :=
  match cls with
  | 3 => some ((pmcRow .prt).first + inst)
  | 4 => some ((pmcRow .prt).first + 16 + inst)
  | 5 | 30 => some ((pmcRow .msc).first + inst)
  | 6 | 8 => some ((pmcRow .ppl).first + inst)
  | 7 | 9 => some ((pmcRow .ppl).first + 16 + inst)
  | 10 => some ((pmcRow .fwd).first + inst / 4)
  | 11 => some ((pmcRow .sch).first + inst)
  | 12 | 13 => some ((pmcRow .tmg).first + inst)
  | 14 => if inst < 2 then some ((pmcRow .tmg).first + inst) else some (pmcRow .hbm).first
  | 15 | 20 => some (pmcRow .hbm).first
  | 17 => some ((pmcRow .fsl).first + inst)
  | 18 => some ((pmcRow .fsl).first + 16)
  | 16 | 19 => some (pmcRow .fst).first
  | 21 | 22 => some (pmcRow .duo).first
  | 23 => some (pmcRow .tod).first
  | 24 | 25 | 26 => some (pmcRow .tsk).first
  | 27 => some (pmcRow .hif).first
  | 28 => some (pmcRow .sec).first
  | 29 => some (pmcRow .pwr).first
  | 31 => some (pmcRow .flt).first
  | _ => some (pmcRow .glb).first

/-- The die whose agent reports for a block's instance (R42): 0 and 1 the pipeline dies, 2 `SD`, 3-6 the I/O dies, 7 `CD`. -/
def Blk.die (b : Blk) (n : Nat) : Nat :=
  match b with
  | .prt => 3 + n % 16 / 4
  | .msc => 3 + n
  | .ppl => n / 16
  | .tmg | .sch => n
  | .fwd => min n 2
  | .fsl | .fst | .duo | .hbm => 2
  | _ => 7

/-- The die of a bank. -/
def bankDie (b : Nat) : Nat :=
  match pmcBlk b with
  | some k => k.die (b - (pmcRow k).first)
  | none => 7

/-- The die that reports a source. -/
def sourceDie (src : Nat) : Nat := ((classBank (src / 16) (src % 16)).map bankDie).getD 7

/-- The classes whose reports carry a detail word (R394). -/
def hasDetail (cls inst : Nat) : Bool :=
  (cls == 0 && inst == 4) || [2, 3, 4, 5, 6, 7, 10, 11, 13, 15, 16, 17, 18, 20, 22, 23, 24, 25, 26, 27, 30].contains cls

/-- A report as it leaves its die: with the TOD of the die's replica, in its AUX tick (R394, R396). -/
def reportOf (m : Mach) (src sev detail : Nat) : Report :=
  { src := src, sev := sev, detail := if hasDetail (src / 16) (src % 16) then detail else 0
    time := m.dieFrac (sourceDie src) / 65536, tick := m.up / 4 }

/-- A report leaves for the fault controller, and the bank of its block counts it (R393, R445). Corrected errors of ECC and parity are those of every
class but the links'. -/
def sendReport (c : Cfg) (m : Mach) (r : Report) : Mach :=
  let m := { m with flt := { m.flt with waiting := m.flt.waiting ++ [r] } }
  match classBank (r.src / 16) (r.src % 16) with
  | some b => let m := pmcEvent c m b 0x05 1; if r.sev = 1 && decide (3 ≤ r.src / 16) && r.src / 16 != 14 then pmcEvent c m b 0x06 1 else m
  | none => m

/-- A checker's report leaves for the fault controller, which takes it up with the others of its tick (R393, R396). -/
def raise (c : Cfg) (m : Mach) (cls inst sev : Nat) (detail : Nat := 0) : Mach := sendReport c m (reportOf m (srcOf cls inst) sev detail)


/-- The severities of R393. -/
def NOTE : Nat := 0
def CORRECTED : Nat := 1
def DEGRADED : Nat := 2
def SEVERE : Nat := 3
def FATAL : Nat := 4

/-- The number of a requester's latches: 0-3 the host ports, 4 the device agent. -/
def reqNum : Requester → Nat
  | .host p => p.val
  | .agent => 4

end Sys2Proof.Machine
end

