-- ==== Sys2Proof/Machine/Parse.lean ====
section
/-! DEFINITION. The parser, range unit, classifier key and key builder of a pipeline (R51-R63), as functions of a frame's bytes
without FCS and of the table entries of its turn. -/
namespace Sys2Proof.Machine

/-! ### Table entries -/

/-- A parse-graph state entry (R51). -/
structure PState where
  cls : Nat
  newLevel : Bool
  endNoMatch : Bool
  lenBase : Nat
  lenOff : Nat
  lenMask : Nat
  lenShr : Nat
  lenShl : Nat
  selOff : Nat
  lenCheck : Bool
  csum : Bool
  options : Bool
  frag : Bool

/-- The fields of a 64-bit state entry. -/
def pstate (e : Nat) : PState :=
  { cls := bits e 63 60, newLevel := bit e 59, endNoMatch := bit e 58, lenBase := bits e 57 50, lenOff := bits e 49 44,
    lenMask := bits e 43 36, lenShr := bits e 35 33, lenShl := bits e 32 30, selOff := bits e 29 24, lenCheck := bit e 23,
    csum := bit e 22, options := bit e 21, frag := bit e 20 }

/-- A transition entry (R52) applies in a state to a select value. -/
def transMatches (e st sel : Nat) : Bool :=
  bit e 63 && bits e 62 57 == st && Nat.land sel (bits e 40 25) == Nat.land (bits e 56 41) (bits e 40 25)

/-- The lowest-indexed transition entry that applies. -/
def findTrans (ts : Tbl Nat) (st sel : Nat) : Option (Nat × Nat) := ts.find? fun e => transMatches e.2 st sel

/-! ### Header fields -/

/-- The length of a header in a state. Where `LEN_OFF`, and likewise the select field of `parseFrom`, lies past the header, past byte 256 or past
the frame's end, R51 states no value; the model reads the frame's own byte there, and 0 past its end (DESIGN CHOICE, notes/assumptions/86.md). -/
def hdrLen (s : PState) (f : List Byte) (off : Nat) : Nat :=
  s.lenBase + Nat.land (byteAt f (off + s.lenOff)) s.lenMask / 2 ^ s.lenShr * 2 ^ s.lenShl

/-- The type or TCI-and-type field that ends an Ethernet or VLAN header. -/
def typeOf (f : List Byte) (h : Hdr) : Nat := be f (h.off + h.len - 2) 2

/-- Source addresses that raise `IP_ADDR_INVALID` (R69): multicast, broadcast, loopback, unspecified. -/
def badSource4 (a : Nat) : Bool := a / 2 ^ 28 == 14 || a == 0xFFFF_FFFF || a / 2 ^ 24 == 127 || a == 0
def badSource6 (a : Nat) : Bool := a / 2 ^ 120 == 0xFF || a == 1 || a == 0

/-- The classification reasons a header carries, in code order (R53, R69). `sync` says that the port is a sync port. -/
def classReasons (f : List Byte) (stack : List Hdr) (h : Hdr) (sync : Bool) : List Nat :=
  let v6 := (stack.filter fun g => g.cls = 4 || g.cls = 5).getLast?.map (·.cls) = some 5
  (if h.cls = 4 && badSource4 (be f (h.off + 12) 4) || h.cls = 5 && badSource6 (be f (h.off + 8) 16) then [0x21] else []) ++
  (if h.cls = 7 then
    let fl := byteAt f (h.off + 13)
    (if bit fl 1 && bit fl 0 || bit fl 1 && bit fl 2 || fl = 0 then [0x22] else []) ++
    (if byteAt f (h.off + 12) / 16 < 5 then [0x23] else [])
   else []) ++
  (if h.cls = 13 || h.cls = 10 && v6 && 133 ≤ byteAt f h.off && byteAt f h.off ≤ 137 then [0x2B] else []) ++
  (if h.cls = 1 && be f h.off 5 = 0x01_80C2_0000 && byteAt f (h.off + 5) < 16 then [0x2C] else []) ++
  (if h.cls = 14 && byteAt f h.off % 16 < 4 then [0x2D] else []) ++
  (if (h.cls = 1 || h.cls = 2) && typeOf f h = 0x88B5 && !sync then [0x36] else [])

/-- The declared payload end of a length-bearing header, and whether its length check holds (R54). -/
def lengthCheck (f : List Byte) (frameLen : Nat) (stack : List Hdr) (h : Hdr) (pend : Nat) : Nat × Bool :=
  let first := !(stack.any fun g => g.cls = 4 || g.cls = 5)
  let short := first && frameLen + 4 = 64
  match h.cls with
  | 1 =>
    let t := typeOf f h
    if t < 0x600 then (h.off + h.len + t, h.off + h.len + t = pend) else (pend, true)
  | 4 =>
    let t := be f (h.off + 2) 2
    (h.off + t, decide (byteAt f h.off % 16 * 4 ≤ t) && decide (h.off + t ≤ pend) && (decide (h.off + t = pend) || short))
  | 5 =>
    let t := be f (h.off + 4) 2
    (h.off + 40 + t, decide (t ≠ 0) && decide (h.off + 40 + t ≤ pend) && (decide (h.off + 40 + t = pend) || short))
  | 8 =>
    let t := be f (h.off + 4) 2
    (h.off + t, decide (8 ≤ t) && decide (h.off + t = pend))
  | _ => (pend, true)

/-- Options that `OPTIONS` reports (R51). -/
def hasOptions (s : PState) (f : List Byte) (h : Hdr) : Bool :=
  s.options && (if s.cls = 4 then decide (20 < byteAt f h.off % 16 * 4) else if s.cls = 6 then true else decide (s.lenBase < h.len))

/-- A header's fragment fields (R51, R53): 0 none, 1 first, 2 later. -/
def fragState (s : PState) (f : List Byte) (h : Hdr) : Nat :=
  if !s.frag then 0
  else
    let w := if s.cls = 4 then be f (h.off + 6) 2 else be f (h.off + 2) 2
    let offset := if s.cls = 4 then w % 2 ^ 13 else w / 8
    let more := if s.cls = 4 then bit w 13 else bit w 0
    if offset ≠ 0 then 2 else if more then 1 else 0

/-- What a parse gives: the stack, the reasons counted with `CONTINUE`, and the reason that ended the packet. -/
structure ParseOut where
  hdrs : HdrMap := {}
  counted : List Nat := []
  ended : Option (Nat × Disp) := none
  /-- the entries read: states, and transitions from 64 on -/
  read : List Nat := []
deriving DecidableEq, Repr

/-- The tables and settings a parse reads. -/
structure ParseEnv where
  states : Nat → Nat
  trans : Tbl Nat
  disp : Nat → Disp
  sync : Bool

/-- Raises reasons in order: the first `PUNT` or `DROP` ends the packet, the rest are counted (R53). -/
def raiseAll (disp : Nat → Disp) (o : ParseOut) : List Nat → ParseOut
  | [] => o
  | r :: rs =>
    match disp r with
    | .cont => raiseAll disp { o with counted := o.counted ++ [r] } rs
    | d => { o with ended := some (r, d) }

/-- The reasons of checks 1 to 7 of one header, in order, as far as each check can be made (R53). -/
def headerReasons (e : ParseEnv) (s : PState) (f : List Byte) (stack : List Hdr) (h : Hdr) (deep : Bool) (pend : Nat) : List Nat :=
  let (_, lenOk) := lengthCheck f f.length stack h pend
  (if f.length < h.off + h.len then [0x02] else []) ++
  (if 256 < h.off + h.len || 16 ≤ stack.length || deep then [0x01] else []) ++
  (if s.lenCheck && !lenOk then [0x02] else []) ++
  (if s.csum && s.cls = 4 && fold16 (sum16 (slice f h.off h.len)) ≠ 0xFFFF then [0x0F] else []) ++
  (if s.cls = 4 && byteAt f h.off / 16 ≠ 4 || s.cls = 5 && byteAt f h.off / 16 ≠ 6 then [0x20] else []) ++
  (if hasOptions s f h then [0x08] else []) ++
  classReasons f stack h e.sync

/-- Walks the parse graph from a header on (R53); `fuel` bounds the headers, of which the 17th is an exception. -/
def parseFrom (e : ParseEnv) (f : List Byte) : Nat → Nat → Nat → Nat → Nat → ParseOut → ParseOut
  | 0, _, _, _, _, o => o
  | fuel + 1, st, off, level, pend, o =>
    let s := pstate (e.states st)
    let o := { o with read := st :: o.read }
    let first := o.hdrs.stack = []
    let up := s.newLevel && !first
    let h : Hdr := { cls := s.cls, off := off, len := hdrLen s f off, level := if up then level + 1 else level }
    let o := raiseAll e.disp o (headerReasons e s f o.hdrs.stack h (up && level = 3) pend)
    if o.ended.isSome then o
    else
      let fr := fragState s f h
      let o := { o with hdrs := { stack := o.hdrs.stack ++ [h], frag := if fr = 0 then o.hdrs.frag else fr } }
      if fr = 2 then o
      else
        let pend' := (lengthCheck f f.length o.hdrs.stack.dropLast h pend).1
        match findTrans e.trans st (be f (off + s.selOff) 2) with
        | none => if s.endNoMatch then o else raiseAll e.disp o [0x03]
        | some (i, t) =>
          let o := { o with read := (64 + i) :: o.read }
          if bit t 17 then raiseAll e.disp o [bits t 16 11]
          else if bit t 18 then o
          else parseFrom e f fuel (bits t 24 19) (off + h.len) h.level pend' o

/-- A pass's parse: from offset 0 in the port's start state (R53). -/
def parseFrame (e : ParseEnv) (start : Nat) (f : List Byte) : ParseOut := parseFrom e f 18 start 0 0 f.length {}

/-! ### Levels -/

/-- The innermost level of a stack. -/
def HdrMap.inner (h : HdrMap) : Nat := (h.stack.map (·.level)).foldl max 0

/-- The level a `CLS_LEVEL` or `KEY_LEVEL` names: 0 outermost, 1 innermost, 2 level 1 (R58, R59). -/
def HdrMap.levelOf (h : HdrMap) (sel : Nat) : Nat := match sel with
  | 0 => 0
  | 1 => h.inner
  | _ => 1

/-- The headers of a level. -/
def HdrMap.at (h : HdrMap) (l : Nat) : List Hdr := h.stack.filter (·.level == l)

/-- A level's L3 header. -/
def HdrMap.l3 (h : HdrMap) (l : Nat) : Option Hdr := (h.at l).find? fun x => x.cls = 4 || x.cls = 5

/-- A level's L4 header: TCP, UDP, SCTP or ICMP. -/
def HdrMap.l4 (h : HdrMap) (l : Nat) : Option Hdr := (h.at l).find? fun x => 7 ≤ x.cls && x.cls ≤ 10

/-- The VLAN tags of a level, outermost first. -/
def HdrMap.tags (h : HdrMap) (l : Nat) : List Hdr := (h.at l).filter (·.cls = 2)

/-- The EtherType of a level (R58). -/
def HdrMap.etype (h : HdrMap) (f : List Byte) (l : Nat) : Nat :=
  match ((h.at l).filter fun x => x.cls = 1 || x.cls = 2).getLast? with
  | some x => typeOf f x
  | none => match (h.at l).head? with
    | some x => (match x.cls with | 4 => 0x0800 | 5 => 0x86DD | 3 => 0x8847 | 13 => 0x0806 | _ => 0)
    | none => 0

/-- Protocol, or final next header, of a level (R58). -/
def HdrMap.proto (h : HdrMap) (f : List Byte) (l : Nat) : Nat :=
  match h.l3 l with
  | some x =>
    if x.cls = 4 then byteAt f (x.off + 9)
    else match ((h.at l).filter (·.cls = 6)).getLast? with
      | some y => byteAt f y.off
      | none => byteAt f (x.off + 6)
  | none => 0

/-- DSCP and ECN. -/
def tosOf (f : List Byte) (x : Hdr) : Nat := if x.cls = 4 then byteAt f (x.off + 1) else bits (be f x.off 2) 11 4

/-- TTL or hop limit. -/
def ttlOf (f : List Byte) (x : Hdr) : Nat := if x.cls = 4 then byteAt f (x.off + 8) else byteAt f (x.off + 7)

/-- Source and destination address of an L3 header: a number of 32 or 128 bits. -/
def srcOf3 (f : List Byte) (x : Hdr) : Nat := if x.cls = 4 then be f (x.off + 12) 4 else be f (x.off + 8) 16
def dstOf3 (f : List Byte) (x : Hdr) : Nat := if x.cls = 4 then be f (x.off + 16) 4 else be f (x.off + 24) 16

/-- An ICMP or ICMPv6 echo message. -/
def isEcho (h : HdrMap) (f : List Byte) (l : Nat) (x : Hdr) : Bool :=
  let v6 := (h.l3 l).map (·.cls) = some 5
  let t := byteAt f x.off
  if v6 then t = 128 || t = 129 else t = 0 || t = 8

/-- The L4 source and destination ports of a level as the key takes them (R58, R61): `none` where absent. -/
def HdrMap.ports (h : HdrMap) (f : List Byte) (l : Nat) : Option (Nat × Nat) :=
  match h.l4 l with
  | some x => if x.cls = 10 then (if isEcho h f l x then some (be f (x.off + 4) 2, 0) else none) else some (be f x.off 2, be f (x.off + 2) 2)
  | none => none

/-- The tunnel ID of a level (R58): the VNI of a VXLAN or Geneve header just outside it, or its top MPLS label; `none` without such a header. -/
def HdrMap.tunnel? (h : HdrMap) (f : List Byte) (l : Nat) : Option Nat :=
  match ((h.stack.filter (·.level < l)).getLast?).filter fun x => l ≠ 0 && (x.cls = 11 || x.cls = 12) with
  | some x => some (be f (x.off + 4) 3)
  | none => ((h.at l).find? (·.cls = 3)).map fun x => be f x.off 4 / 2 ^ 12

/-- The tunnel ID as the classifier key has it: 0 when there is none. -/
def HdrMap.tunnel (h : HdrMap) (f : List Byte) (l : Nat) : Nat := (h.tunnel? f l).getD 0

/-! ### Range unit and classifier key -/

/-- What the stages after the parser know of a packet beside its frame. -/
structure PktInfo where
  lport : Nat
  pass : Bool
  metaw : Nat
  frameLen : Nat

/-- The 16-bit source field of a comparator (R56); `none` where it is absent. -/
def rangeField (h : HdrMap) (f : List Byte) (i : PktInfo) (l src : Nat) : Option Nat :=
  match src with
  | 0 => (h.ports f l).map (·.1)
  | 1 => (h.ports f l).map (·.2)
  | 2 => some (i.frameLen % 65536)
  | 3 => (h.l3 l).map fun x => if x.cls = 4 then be f (x.off + 2) 2 else be f (x.off + 4) 2
  | 4 => (h.tags l)[0]?.map fun x => be f (x.off + x.len - 4) 2 % 4096
  | 5 => (h.tags l)[1]?.map fun x => be f (x.off + x.len - 4) 2 % 4096
  | 6 => (h.l3 l).map fun x => tosOf f x / 4
  | 7 => (h.l3 l).map (ttlOf f)
  | 8 => (h.l3 l).map fun _ => h.proto f l
  | 9 => ((h.l4 l).filter (·.cls = 7)).map fun x => byteAt f (x.off + 13)
  | 10 => ((h.l4 l).filter (·.cls = 10)).map fun x => be f x.off 2
  | 11 => if h.etype f l = 0 then none else some (h.etype f l)
  | 12 => some i.metaw
  | 13 => some i.lport
  | 14 => (h.tunnel? f l).map (· % 65536)
  | _ => none

/-- A comparator's configuration (R56, R75). -/
structure RangeCfg where
  en : Bool
  inv : Bool
  level : Nat
  src : Nat
  lo : Nat
  hi : Nat

/-- A comparator's bit. -/
def rangeBit (h : HdrMap) (f : List Byte) (i : PktInfo) (clsLevel : Nat) (r : RangeCfg) : Bool :=
  let l := match r.level with | 0 => 0 | 1 => clsLevel | _ => h.inner
  r.en && (match rangeField h f i l r.src with
    | some v => (decide (r.lo ≤ v) && decide (v ≤ r.hi)) != r.inv
    | none => false)

/-- The L3 kind of a level (R58). -/
def HdrMap.kind (h : HdrMap) (l : Nat) : Nat :=
  match h.l3 l with
  | some x => if x.cls = 4 then 1 else 2
  | none => if (h.at l).all fun x => x.cls = 1 || x.cls = 2 then 0 else 3

/-- A VLAN field of the key. -/
def vlanField (f : List Byte) (t : Option Hdr) : Nat :=
  match t with
  | some x => let w := be f (x.off + x.len - 4) 2; w / 2 ^ 13 * 2 ^ 13 + 2 ^ 12 + w % 4096
  | none => 0

/-- The 44 bytes of the classifier key (R58). -/
def classKey (h : HdrMap) (f : List Byte) (i : PktInfo) (l : Nat) (range : Nat) : List Byte :=
  let l3 := h.l3 l
  let addr (g : List Byte → Hdr → Nat) : Nat := match l3 with
    | some x => if x.cls = 4 then g f x else g f x / 2 ^ 64
    | none => 0
  let ports := (h.ports f l).getD (0, 0)
  let l4icmp := ((h.l4 l).map (·.cls)) = some 10
  beBytes 8 range ++ beBytes 1 i.lport ++
  beBytes 1 (b2n i.pass * 128 + h.kind l * 32 + h.frag * 8 + l % 4 * 2) ++
  beBytes 2 (h.etype f l) ++ beBytes 2 (vlanField f (h.tags l)[0]?) ++ beBytes 2 (vlanField f (h.tags l)[1]?) ++
  beBytes 1 ((l3.map (tosOf f)).getD 0) ++ beBytes 1 (h.proto f l) ++ beBytes 8 (addr srcOf3) ++ beBytes 8 (addr dstOf3) ++
  beBytes 2 ports.1 ++ beBytes 2 (if l4icmp then 0 else ports.2) ++
  beBytes 1 (((h.l4 l).filter (·.cls = 7)).map (fun x => byteAt f (x.off + 13)) |>.getD 0) ++
  beBytes 3 (h.tunnel f l) ++ beBytes 2 i.metaw

/-- A classifier entry matches a key (R57). An entry is 96 bytes: value, mask, result. -/
def ruleMatches (key entry : List Byte) : Bool :=
  (List.zip key (List.zip (entry.take 44) (slice entry 44 44))).all fun (k, v, m) => k &&& m == v &&& m

/-! ### Results and keys -/

def clsResult (e : Nat) : ClsResult :=
  { zone := bits e 63 40, keyMode := bits e 39 38, keyLevel := bits e 37 36, prog := bits e 35 24, zprof := bits e 23 18,
    exc := bit e 17, reason := bits e 15 10, tc := bits e 9 7, insert := bit e 6 }

/-- Reasons a result may name (R59). -/
def clsReasonOk (r : Nat) : Bool := r = 0x06 || (0x10 ≤ r && r ≤ 0x1F)

/-- A 64-bit result that R59 allows. -/
def clsResultOk (e : Nat) : Bool :=
  bits e 39 38 ≠ 3 && bits e 37 36 ≠ 3 && (!bit e 17 || clsReasonOk (bits e 15 10))

/-- A key's bytes in record order (R76). -/
def keyBytes (wide : Bool) (src dst sp dp proto zone : Nat) : List Byte :=
  if wide then beBytes 16 src ++ beBytes 16 dst ++ beBytes 2 sp ++ beBytes 2 dp ++ beBytes 1 proto ++ beBytes 3 zone
  else beBytes 4 src ++ beBytes 4 dst ++ beBytes 2 sp ++ beBytes 2 dp ++ beBytes 1 proto ++ beBytes 3 zone

/-- The IPv4-mapped IPv6 address (R61). -/
def mapped (a : Nat) : Nat := 0xFFFF * 2 ^ 32 + a % 2 ^ 32

/-- The flow key of a packet and its direction bit (R61, R62); `none` where it makes no flow request. -/
def buildKey (h : HdrMap) (f : List Byte) (r : ClsResult) (symmetric : Bool) : Option (List Byte × Bool) :=
  if r.keyMode = 0 then none
  else
    let l := h.levelOf r.keyLevel
    match h.l3 l with
    | none => none
    | some x =>
      let v6 := x.cls = 5
      let wide := v6 || r.keyMode = 2
      let w (a : Nat) : Nat := if wide && !v6 then mapped a else a
      let s := w (srcOf3 f x); let d := w (dstOf3 f x)
      let (sp, dp) := (h.ports f l).getD (0, 0)
      let p := h.proto f l
      let swap := symmetric && (decide (d < s) || (s = d && decide (dp < sp)))
      if swap then some (keyBytes wide d s dp sp p r.zone, true) else some (keyBytes wide s d sp dp p r.zone, false)

end Sys2Proof.Machine
end

