-- ==== Sys2Proof/Machine/Rings.lean ====
section
/-! DEFINITION. Host rings: what is posted, completions in ring order, events, interrupts, buffer fills (R322-R345). -/
namespace Sys2Proof.Machine

/-! ### Ports and rings -/

/-- A ring; an unlisted one is absent. -/
def Mach.ring (m : Mach) (r : Nat) : Ring := Tbl.look {} m.hif.rings r

/-- Writes a ring. -/
def Mach.setRing (m : Mach) (r : Nat) (x : Ring) : Mach := { m with hif := { m.hif with rings := Tbl.put {} m.hif.rings r x } }

/-- A host port. -/
def Mach.port (m : Mach) (p : Nat) : HostPort := Tbl.look {} m.hif.ports p

/-- Writes a host port. -/
def Mach.setPort (m : Mach) (p : Nat) (x : HostPort) : Mach := { m with hif := { m.hif with ports := Tbl.put {} m.hif.ports p x } }

/-- The primary port (R320). -/
def Mach.primary (m : Mach) : Nat := m.st hifPortRolePrimary

/-- A port's role (R319): 0 none, 1 full, 2 ring-only, 3 read-only. The primary's own role is full (R320). -/
def Mach.role (m : Mach) (p : Nat) : Nat :=
  if p = m.primary then 1 else bits (m.st hifPortRoleRoles) (2 * p + 1) (2 * p)

/-- The device may make DMA on a port: link up, D0, Bus Master Enable (R345). -/
def Mach.dmaOk (m : Mach) (p : Nat) : Bool := (m.port p).linkUp && !(m.port p).d3 && (m.port p).bme

/-- The number of descriptors of a ring. -/
def Ring.size (r : Ring) : Nat := 2 ^ r.log2

/-- The number of posted descriptors (R322). -/
def Ring.posted (r : Ring) : Nat := (r.tail + r.size - r.head) % r.size

/-- The bytes of a descriptor (R323, R328). -/
def Ring.descBytes (r : Ring) : Nat := if r.ver = 1 then 32 else 64

/-- Word 0 of a descriptor (R327). -/
def word0 (ph : Bool) (opc status flags : Nat) (ctx : BitVec 32) : List Byte :=
  beBytes 8 (b2n ph * 2 ^ 63 + opc % 128 * 2 ^ 56 + status % 256 * 2 ^ 48 + flags % 65536 * 2 ^ 32 + ctx.toNat)

/-! ### Interrupts (R343-R346) -/

/-- A port's vector is masked: by the function's MSI-X Enable or Function Mask, or by its own mask bit (R318, notes/assumptions/115.md). -/
def vectorMasked (c : Cfg) (m : Mach) (p v : Nat) : Bool := !(m.port p).msixEn || (m.port p).msixMask || c.on hifMsixCtrlMask p v

/-- A vector's pending message is sent once nothing masks it and the port makes DMA (R343, R345). -/
def sendPending (c : Cfg) (m : Mach) (p v : Nat) : Mach :=
  let w := m.st hifMsixPbaPend p (v / 32)
  if bit w (v % 32) && !vectorMasked c m p v && m.dmaOk p then
    (m.setSt hifMsixPbaPend (putBits w (v % 32) (v % 32) 0) p (v / 32)).emit (.msix p v)
  else m

/-- Every pending message of a port that may go. -/
def sendAllPending (c : Cfg) (m : Mach) (p : Nat) : Mach :=
  ((List.range 64).filter fun k => m.st hifMsixPbaPend p k != 0).foldl (fun m k =>
    (List.range 32).foldl (fun m i => sendPending c m p (32 * k + i)) m) m

/-- Sends a ring's MSI-X vector: the ring disarms and its count clears; a masked vector sets its pending bit. -/
def deliverIrq (c : Cfg) (m : Mach) (rid : Nat) : Mach :=
  let r := m.ring rid
  let m := m.setRing rid { r with armed := false, unsig := 0, firstAt := none, irqDue := false }
  let m := bump c m .hifCnt r.owner cHifIntr
  if vectorMasked c m r.owner r.vector then
    let w := m.st hifMsixPbaPend r.owner (r.vector / 32)
    m.setSt hifMsixPbaPend (putBits w (r.vector % 32) (r.vector % 32) 1) r.owner (r.vector / 32)
  else m.emit (.msix r.owner r.vector)

/-- An interrupt falls due: it is sent, or waits while the link is in L1 (R344; for plain L1, notes/assumptions/115.md) or the function without DMA
(R345). -/
def dueIrq (c : Cfg) (m : Mach) (rid : Nat) : Mach :=
  let r := m.ring rid
  let p := m.port r.owner
  if p.d3 then
    let m := m.setRing rid { r with irqDue := true }
    if p.pmeEn then
      bump c ((m.setPort r.owner { p with pmeStatus := true }).emit (.pme r.owner)) .hifCnt r.owner cHifPme
    else m
  else if !p.bme then m.setRing rid { r with irqDue := true }
  else if p.link ≠ .l0 then
    let m := m.setRing rid { r with irqDue := true }
    if p.link = .l12 && c.fuse.rev = .a0 then m else m.setPort r.owner { p with leaving := true }
  else deliverIrq c m rid

/-- The interrupt of a ring that is armed and has reached its count (R343). -/
def checkCount (c : Cfg) (m : Mach) (rid : Nat) : Mach :=
  let r := m.ring rid
  if r.irqEn && r.armed && 0 < r.unsig && (r.admin || r.modCount ≤ 1 || r.modCount ≤ r.unsig) && !r.irqDue then dueIrq c m rid else m

/-- A descriptor at `HEAD` is written, its word 0 in a later write than the rest (R340): `HEAD` advances, the phase turns over at the ring's end (R339), and the write is one
more unsignalled write (R343). -/
def writeDesc (c : Cfg) (m : Mach) (rid opc status flags : Nat) (ctx : BitVec 32) (body : List Byte) : Mach :=
  let r := m.ring rid
  let m := m.emit (.desc r.owner rid r.head (body.take (r.descBytes - 8)))
  let m := m.emit (.word0 r.owner rid r.head (word0 r.phase opc status flags ctx))
  let wrap := r.head + 1 = r.size
  let m := m.setRing rid { r with
    head := if wrap then 0 else r.head + 1
    phase := if wrap then !r.phase else r.phase
    unsig := if r.irqEn then r.unsig + 1 else r.unsig
    firstAt := if r.irqEn then (match r.firstAt with | some t => some t | none => some m.up) else r.firstAt }
  checkCount c m rid

/-! ### Completions (R331) -/

/-- Whether a ring's completions reach host memory: it has not been destroyed by port loss, and its port may make DMA. -/
def canWrite (m : Mach) (r : Ring) : Bool := (r.state = .active || r.state = .draining || r.state = .error) && m.dmaOk r.owner

/-- The completion of one consumed command descriptor: its output at `OUT_ADDR`, then the descriptor (R328, R340). -/
def writeCompletion (c : Cfg) (m : Mach) (rid : Nat) (e : Consumed) (q : Completion) : Mach :=
  let r := m.ring rid
  let m := if q.out = [] then m else m.emit (.data r.owner e.outAddr.toNat q.out)
  let body := if r.kind = .cmd then splice e.body 20 (beBytes 4 q.out.length) else e.body
  writeDesc c m rid e.opc q.status (if r.kind = .cmd then q.detail else e.flags) e.ctx body

/-- Completions are written in ring order: those at the front that are known (R331). -/
def flushDone (c : Cfg) : Nat → Mach → Nat → Mach
  | 0, m, _ => m
  | fuel + 1, m, rid =>
    let r := m.ring rid
    match r.consumed with
    | e :: rest =>
      match e.done with
      | some q => if canWrite m r then flushDone c fuel (writeCompletion c (m.setRing rid { r with consumed := rest }) rid e q) rid else m
      | none => m
    | [] => m

/-- Marks a consumed descriptor complete. -/
def markDone (m : Mach) (rid slot : Nat) (q : Completion) : Mach :=
  let r := m.ring rid
  m.setRing rid { r with consumed := r.consumed.map fun e => if e.slot = slot then { e with done := some q } else e }

/-- A destroyed ring: absent. Its slots are not numbered anew, so that a command it had consumed completes nothing else. -/
def Ring.gone (r : Ring) : Ring := { nextSlot := r.nextSlot }

/-- A ring whose last completion is written while it drains is absent from then on (R326). -/
def endDrain (m : Mach) (rid : Nat) : Mach :=
  let r := m.ring rid
  if r.state = .draining && r.consumed = [] then m.setRing rid r.gone else m

/-- Writes the completions that can be written; a ring that has drained is absent, and the `RING_DESTROY` that waited for it
completes in turn (R326). -/
def flushRing (c : Cfg) (m : Mach) (rid : Nat) : Mach :=
  let m := flushDone c ((m.ring rid).consumed.length) m rid
  let r := m.ring rid
  if r.state = .draining && r.consumed = [] then
    let m := m.setRing rid r.gone
    match r.destroyBy with
    | some (rid', slot') =>
      let m := markDone m rid' slot' ⟨0, 0, []⟩
      endDrain (flushDone c ((m.ring rid').consumed.length) m rid') rid'
    | none => m
  else m

/-- A command's result: its completion enters ring order. -/
def complete (c : Cfg) (m : Mach) (rid slot : Nat) (q : Completion) : Mach := flushRing c (markDone m rid slot q) rid

/-! ### Events (R334, R342) -/

/-- The `EVT` ring an event type is routed to, if it is active (R334). -/
def evtRing (c : Cfg) (m : Mach) (type : Nat) : Option Nat :=
  let rid := c.get hifEvtRouteRing type
  if c.on hifEvtRouteEn type && (m.ring rid).state = .active && (m.ring rid).kind = .evt then some rid else none

/-- The free entries of an `EVT` ring: none while its port makes no DMA (R345). -/
def evtRoom (m : Mach) (rid : Nat) : Nat := if m.dmaOk (m.ring rid).owner then (m.ring rid).posted else 0

/-- Pads a body to the 56 bytes after word 0. -/
def pad56 (b : List Byte) : List Byte := b ++ List.replicate (56 - b.length) 0

/-- The entries of an event, each but the last with `MORE`. -/
def writeEntries (c : Cfg) (seq : BitVec 32) (type : Nat) : List (List Byte) → Mach → Nat → Mach
  | [], m, _ => m
  | b :: bs, m, rid =>
    writeEntries c seq type bs (writeDesc c m rid type 0 (if bs = [] then 0 else 2 ^ 15) seq (pad56 b)) rid

/-- Writes an event into free entries and advances the ring's sequence number. -/
def writeEvt (c : Cfg) (m : Mach) (rid : Nat) (e : Evt) : Mach :=
  let seq := (m.ring rid).seq
  let m := writeEntries c seq e.type e.bodies m rid
  m.setRing rid { m.ring rid with seq := seq + 1 }

/-- Events that merge into the summary (R342). -/
def mergeable (type : Nat) : Bool := 1 ≤ type && type ≤ 4

/-- An event merged into a summary. -/
def Summary.merge (s : Summary) (e : Evt) : Summary :=
  { kinds := if bit s.kinds e.type then s.kinds else s.kinds + 2 ^ e.type
    lost := min (s.lost + 1) (2 ^ 32 - 1)
    slots := if e.type = 4 then s.slots ||| BitVec.ofNat 16 (2 ^ (e.mark % 16)) else s.slots
    bds := if 1 ≤ e.type && e.type ≤ 3 then s.bds ||| BitVec.ofNat 256 (2 ^ (e.mark % 256)) else s.bds }

/-- The `SUMMARY` event of a summary (R334). -/
def Summary.evt (s : Summary) : Evt :=
  { type := 5
    bodies := [beBytes 2 s.kinds ++ [0, 0] ++ beBytes 4 s.lost ++ beBytes 2 s.slots.toNat ++ List.replicate 6 0 ++ beBytes 32 s.bds.toNat] }

/-- An event finds too few free entries (R342). -/
def holdEvt (c : Cfg) (m : Mach) (rid : Nat) (e : Evt) : Mach :=
  let r := m.ring rid
  if mergeable e.type then
    bump c (m.setRing rid { r with summary := some ((r.summary.getD {}).merge e) }) .hifCnt r.owner cHifEvtMerged
  else if r.heldEvts.length < 64 then m.setRing rid { r with heldEvts := r.heldEvts ++ [e] }
  else m.setRing rid { r with summary := some ((r.summary.getD {}).merge e) }

/-- Posts an event other than `FAULT` (R334). -/
def postEvent (c : Cfg) (m : Mach) (e : Evt) : Mach :=
  match evtRing c m e.type with
  | none => bump c m .hifCnt m.primary cHifEvtNoroute
  | some rid =>
    let r := m.ring rid
    if e.bodies.length ≤ evtRoom m rid && r.summary = none && r.heldEvts = [] then writeEvt c m rid e else holdEvt c m rid e

/-- The `FAULT` event of the fault controller (R334). -/
def FaultEvt.evt (f : FaultEvt) : Evt :=
  { type := 6
    bodies := [beBytes 2 f.src ++ beBytes 1 f.sev ++
      beBytes 1 (b2n f.inj * 128 + b2n f.esc * 64 + b2n f.ovf * 32) ++ beBytes 6 (secOf f.time) ++ beBytes 4 (nsOf f.time)] }

/-- A `FAULT` event is written, or held by the controller: one for each source, a further report changing it (R399). -/
def postFault (c : Cfg) (m : Mach) (f : FaultEvt) : Mach :=
  let hold : Mach :=
    if m.flt.held.any (·.src == f.src) then
      { m with flt := { m.flt with held := m.flt.held.map fun g =>
          if g.src = f.src then { g with time := f.time, sev := max g.sev f.sev, ovf := true, inj := f.inj, esc := f.esc } else g } }
    else { m with flt := { m.flt with held := m.flt.held ++ [f] } }
  match evtRing c m 6 with
  | none => hold
  | some rid => if 1 ≤ evtRoom m rid && m.flt.held = [] then writeEvt c m rid f.evt else hold

/-- Freed entries take held faults, then the summary, then held events (R342). -/
def drainEvents (c : Cfg) : Nat → Mach → Nat → Mach
  | 0, m, _ => m
  | fuel + 1, m, rid =>
    let r := m.ring rid
    let room := evtRoom m rid
    match m.flt.held, evtRing c m 6 with
    | f :: fs, some rid' =>
      if rid' = rid then
        if 1 ≤ room then drainEvents c fuel (writeEvt c { m with flt := { m.flt with held := fs } } rid f.evt) rid else m
      else drainRest fuel m rid r room
    | _, _ => drainRest fuel m rid r room
where
  /-- what follows the held faults -/
  drainRest (fuel : Nat) (m : Mach) (rid : Nat) (r : Ring) (room : Nat) : Mach :=
    match r.summary with
    | some s =>
      if 1 ≤ room then drainHeld c (r.heldEvts.length) (writeEvt c (m.setRing rid { r with summary := none }) rid s.evt) rid else m
    | none => drainHeld c (min fuel r.heldEvts.length) m rid
  /-- the held events, in order -/
  drainHeld (c : Cfg) : Nat → Mach → Nat → Mach
    | 0, m, _ => m
    | fuel + 1, m, rid =>
      let r := m.ring rid
      match r.heldEvts with
      | e :: es =>
        if e.bodies.length ≤ evtRoom m rid then drainHeld c fuel (writeEvt c (m.setRing rid { r with heldEvts := es }) rid e) rid else m
      | [] => m

/-! ### Buffer rings (R333, R341) -/

/-- `BUF_LEN` of a posted buffer descriptor. -/
def bufLen (d : List Byte) : Nat := be d 12 2

/-- Fills buffers in ring order: `LEN` over `BUF_LEN`, `BUF_ADDR` unchanged, `MORE` in all but the last. -/
def fillBufs (c : Cfg) (f : Fill) : List (List Byte) → List Byte → Mach → Nat → Mach
  | [], _, m, _ => m
  | d :: ds, pay, m, rid =>
    let n := min (bufLen d) pay.length
    let rest := pay.drop n
    let more := rest ≠ [] && ds ≠ []
    let body := splice (splice (pad56 f.body) 4 (beBytes 2 n)) 8 (slice d 16 8)
    let m := m.emit (.data (m.ring rid).owner (be d 16 8) (pay.take n))
    let m := writeDesc c m rid 0 0 (f.flags % 2 ^ 15 + b2n more * 2 ^ 15) (BitVec.ofNat 32 (be d 4 4)) body
    if rest = [] then m else fillBufs c f ds rest m rid

/-- How many of the buffers a payload needs: `none` where they hold too little. -/
def bufsNeeded : List (List Byte) → Nat → Option Nat
  | _, 0 => some 0
  | [], _ + 1 => none
  | d :: ds, n + 1 => (bufsNeeded ds (n + 1 - bufLen d)).map (· + 1)

/-- Counts a fill that found no buffers at a port: by kind, and a punt under its reason (R341). -/
def countDrop (c : Cfg) (m : Mach) (port : Nat) (kind : RingKind) (f : Fill) : Mach :=
  let m := match kind with
    | .dmp => bump c m .hifCnt port cHifDmpDrop
    | .trc => bump c m .hifCnt port cHifTrcDrop
    | _ => bump c m .hifCnt port cHifRxpNobuf
  match f.punt with
  | some (pipe, code) => bump c m .pplPuntDrop pipe code
  | none => m

/-- A frame or batch that finds too few buffers is dropped whole and counted (R341). -/
def dropFill (c : Cfg) (m : Mach) (rid : Nat) (f : Fill) : Mach :=
  let r := m.ring rid
  countDrop c (m.setRing rid { r with drops := r.drops + 1 }) r.owner r.kind f

/-- The first waiting fill of a ring: written when enough posted buffers are read, dropped when all posted ones are read and
hold too little, otherwise waiting for the fetch of more (R333, R338). -/
def serveFill (c : Cfg) (m : Mach) (rid : Nat) : Mach :=
  let r := m.ring rid
  match r.fills with
  | [] => m
  | f :: fs =>
    if r.state ≠ .active then dropFill c (m.setRing rid { r with fills := fs }) rid f
    else if !m.dmaOk r.owner then m
    else
      let bufs := r.reserved ++ r.cache
      match bufsNeeded bufs (max 1 f.payload.length) with
      | some n =>
        let m := m.setRing rid { r with fills := fs, reserved := [], cache := bufs.drop n, usedAt := m.up }
        fillBufs c f (bufs.take n) f.payload m rid
      | none =>
        if bufs.length < r.posted then m.setRing rid { r with reserved := bufs, cache := [] }
        else dropFill c (m.setRing rid { r with fills := fs, reserved := [], cache := bufs }) rid f

/-- Serves waiting fills while the first of them ends. -/
def serveFills (c : Cfg) : Nat → Mach → Nat → Mach
  | 0, m, _ => m
  | fuel + 1, m, rid =>
    let n := (m.ring rid).fills.length
    let m := serveFill c m rid
    if (m.ring rid).fills.length < n then serveFills c fuel m rid else m

/-- A frame or batch goes to a buffer ring: an absent ring, or one of another kind, has no posted buffers (R326). -/
def queueFill (c : Cfg) (m : Mach) (rid : Nat) (kind : RingKind) (f : Fill) : Mach :=
  let r := m.ring rid
  if r.state = .active && r.kind = kind && m.dmaOk r.owner then m.setRing rid { r with fills := r.fills ++ [f] }
  else if r.state ≠ .absent && r.kind = kind then dropFill c m rid f
  else countDrop c m (if r.state = .absent then m.primary else r.owner) kind f

/-- The bytes of an `RXP` descriptor from byte 8 on (R333); `LEN` and `BUF_ADDR` are set when it is written. -/
def rxpBody (ts : Nat) (lport : Nat) (pass : Bool) (pipe origLen fh : Nat) (turn : BitVec 16) (metaw tag : Nat) (user : List Byte) :
    List Byte :=
  beBytes 4 (nsOf ts) ++ [0, 0] ++ beBytes 1 lport ++ beBytes 1 (b2n pass * 128 + pipe % 32) ++ List.replicate 8 0 ++
    beBytes 6 (secOf ts) ++ beBytes 2 origLen ++ beBytes 8 fh ++ beBytes 2 turn.toNat ++ beBytes 2 metaw ++ beBytes 4 tag ++
    (user ++ List.replicate (16 - user.length) 0)

/-- A batch is written as soon as its buffers are read. -/
def writeBatch (c : Cfg) (m : Mach) (rid : Nat) (kind : RingKind) (payload : List Byte) : Mach :=
  let m := queueFill c m rid kind { payload := payload }
  serveFills c ((m.ring rid).fills.length) m rid

end Sys2Proof.Machine
end

