-- ==== Sys2Proof/Machine/Buffers.lean ====
section
/-! DEFINITION. The cell store and the page store: addresses, allocation, ownership, frees, the release agent (R188-R198,
R202-R205, R210). A cell is named by its 20-bit pointer, bit 19 the die. -/
namespace Sys2Proof.Machine

/-! ### Owner IDs (R190) -/

def ownDequeue (lport : Nat) : Nat := lport / 128 * 2048 + lport % 128
def ownIngress (pipe : Nat) : Nat := pipe / 16 * 2048 + 0x100 + pipe % 16
def ownPunt (pipe : Nat) : Nat := pipe / 16 * 2048 + 0x110 + pipe % 16
def ownRecirc (pipe : Nat) : Nat := pipe / 16 * 2048 + 0x120 + pipe % 16
def ownMcast (die : Nat) : Nat := die * 2048 + 0x130
def ownXfer (die : Nat) : Nat := die * 2048 + 0x131
def ownHost (die port : Nat) : Nat := die * 2048 + 0x140 + port
def ownReturn (die : Nat) : Nat := die * 2048 + 0x150
def ownSpill (die : Nat) : Nat := die * 2048 + 0x151
def ownTally (die : Nat) : Nat := die * 2048 + 0x160

/-! ### Addresses (R188, R189) -/

/-- Cells of one die, and pages. -/
def cellsPerDie : Nat := 393_216
def pageCount : Nat := 12_582_912

/-- The die of a cell pointer. -/
def dieOf (p : Nat) : Nat := p / 2 ^ 19

/-- A cell's byte address (R188). -/
def cellAddr (p : Nat) : Nat := p * 256

/-- The pointer check of R189 for a die's buffer manager: in range, aligned, of this die. -/
def cellAddrOk (die addr : Nat) : Bool :=
  decide (addr % 2 ^ 27 < 0x600_0000) && decide (addr % 256 = 0) && decide (addr / 2 ^ 27 = die)

/-- The pointer that ends a free list (R192). -/
def noLink : Nat := 0xF_FFFF

/-- A cell that was never taken since reset: free, its link to the next of its bank (notes/assumptions/10.md). -/
def freshCell (p : Nat) : Cell := { data := beBytes 4 (if p % 2 ^ 19 + 64 < cellsPerDie then p + 64 else noLink) }

/-- A cell's state. -/
def Mach.cell (m : Mach) (p : Nat) : Cell := Tbl.look (freshCell p) m.tmg.cells p
def Mach.setCell (m : Mach) (p : Nat) (x : Cell) : Mach := { m with tmg := { m.tmg with cells := Tbl.put (freshCell p) m.tmg.cells p x } }

/-- The owner a check sees: none for a header lost to an uncorrectable error (R217). -/
def Cell.seen (x : Cell) : Nat := if x.lost then 0x7FF else x.owner

/-- The kinds of `TMG_BUF_LATCH` and their counters and source instance (R217, R218). -/
inductive BufErr | pointer | foreign | double | chain
deriving DecidableEq, Repr

def BufErr.kind : BufErr → Nat
  | .pointer => 0 | .foreign => 1 | .double => 2 | .chain => 3

def BufErr.counter : BufErr → Nat
  | .pointer => cTmgBufPointer | .foreign => cTmgForeignFree | .double => cTmgDoubleFree | .chain => cTmgBufChain

/-- A refused request latches the requester and the address, is counted, and is reported (R189, R194, R217). -/
def bufError (c : Cfg) (m : Mach) (die : Nat) (e : BufErr) (req addr : Nat) : Mach :=
  let m := bump c m .tmgCnt die e.counter
  let m := if m.stOn tmgBufLatchValid die then m
    else (((m.setSt tmgBufLatchValid 1 die).setSt tmgBufLatchKind e.kind die).setSt tmgBufLatchReq req die).setSt tmgBufLatchAddrAddr (addr % 2 ^ 28) die
  raise c m 12 die DEGRADED

/-! ### Free lists (R192, R193) -/

/-- Cells of one bank: 393,216 ÷ 64. -/
def cellsPerBank : Nat := 6144

/-- A bank at reset, by 64 × die + bank: its list holds its cells in rising order (notes/assumptions/10.md). -/
def freshBank (b : Nat) : Bank := { head := b / 64 * 2 ^ 19 + b % 64, count := cellsPerBank }

def Mach.bank (m : Mach) (b : Nat) : Bank := Tbl.look (freshBank b) m.tmg.banks b
def Mach.setBank (m : Mach) (b : Nat) (x : Bank) : Mach := { m with tmg := { m.tmg with banks := Tbl.put (freshBank b) m.tmg.banks b x } }

/-- The link in word 0 of a free cell. -/
def Mach.linkOf (m : Mach) (p : Nat) : Nat := be (m.cell p).data 0 4 % 2 ^ 20

/-- Free cells of a die: the sum of the bank list counts. -/
def Mach.bankFree (m : Mach) (die : Nat) : Nat :=
  64 * cellsPerBank - (m.tmg.banks.filter (fun e => e.1 / 64 == die)).foldl (fun a e => a + (cellsPerBank - e.2.count)) 0

/-- The die's tally epoch (R215). -/
def Mach.epochOf (m : Mach) (u : Nat) : Bool := Tbl.look false m.tmg.epoch u

/-- A bank takes the head of its list for a requester (R192): the cell's `OWNER` becomes the requester, and its link the new head. A link that fails
the pointer check ends the list at the cell that held it; a head that fails it is no allocation (R189, notes/assumptions/109.md). -/
def popCell (c : Cfg) (m : Mach) (die n owner : Nat) : Option Nat × Mach :=
  let b := 64 * die + n
  let x := m.bank b
  let p := x.head
  if !cellAddrOk die (cellAddr p) then (none, bufError c m die .pointer owner (cellAddr p))
  else
    let link := m.linkOf p
    let m := m.setCell p { m.cell p with owner := owner, mark := m.epochOf die }
    if link = noLink || cellAddrOk die (cellAddr link) then (some p, m.setBank b { head := link, count := x.count - 1 })
    else (some p, bufError c (m.setBank b { head := noLink, count := 0 }) die .pointer owner (cellAddr link))

/-- One cell for a requester: from the next bank in its rotation that has a free cell; `none` is `NO_BUFFER` (R193). -/
def allocCell (c : Cfg) (m : Mach) (die owner : Nat) : Option Nat × Mach :=
  let start := Tbl.look 0 m.tmg.bankPtr owner
  match (List.range 64).find? fun k => (m.bank (64 * die + (start + k) % 64)).head != noLink with
  | some k =>
    let n := (start + k) % 64
    let (p, m) := popCell c m die n owner
    (p, { m with tmg := { m.tmg with bankPtr := Tbl.put 0 m.tmg.bankPtr owner ((n + 1) % 64) } })
  | none => (none, m)

/-- The cell of a bank's free list whose link is `p`, at most `fuel` cells from `q` on. -/
def linkBefore (m : Mach) (p : Nat) : Nat → Nat → Option Nat
  | 0, _ => none
  | fuel + 1, q => if q = noLink then none else if m.linkOf q = p then some q else linkBefore m p fuel (m.linkOf q)

/-- A header has an uncorrectable error: the cell is held by no one and left for the tally (R217). A free one leaves its bank's list, whose other cells
stay in it (notes/assumptions/134.md). -/
def loseHeader (m : Mach) (p : Nat) : Mach :=
  let x := m.cell p
  let b := 64 * dieOf p + p % 2 ^ 19 % 64
  let k := m.bank b
  let m' := m.setCell p { x with lost := true }
  if x.owner ≠ 0xFFF || x.lost then m'
  else if k.head = p then m'.setBank b { head := m.linkOf p, count := k.count - 1 }
  else match linkBefore m p k.count k.head with
    | some q =>
      let y := m'.cell q
      (m'.setCell q { y with data := beBytes 4 (m.linkOf p) ++ y.data.drop 4 }).setBank b { k with count := k.count - 1 }
    | none => m'

/-- Pushes a cell at the head of its bank's list (R192): the old head goes into its word 0, its `OWNER` becomes free. -/
def pushCell (m : Mach) (p : Nat) : Mach :=
  let b := 64 * dieOf p + p % 2 ^ 19 % 64
  let x := m.bank b
  let y := m.cell p
  (m.setBank b { head := p, count := x.count + 1 }).setCell p { y with owner := 0xFFF, lost := false, data := beBytes 4 x.head ++ y.data.drop 4 }

/-- Up to `n` cells in order, as many as there are. -/
def takeCells (c : Cfg) (die owner : Nat) : Nat → Mach → List Nat × Mach
  | 0, m => ([], m)
  | n + 1, m =>
    match allocCell c m die owner with
    | (some p, m) =>
      let (ps, m) := takeCells c die owner n m
      (p :: ps, m)
    | (none, m) => ([], m)

/-- `n` cells, in order (R193). -/
def allocCells (c : Cfg) (die owner n : Nat) (m : Mach) : Option (List Nat × Mach) :=
  let r := takeCells c die owner n m
  if r.1.length = n then some r else none

/-- A requester that got fewer than the `n` cells it asked for frees those it holds (R193). -/
def allocFail (c : Cfg) (m : Mach) (die owner n : Nat) : Mach :=
  let (ps, m) := takeCells c die owner n m
  ps.foldl pushCell m

/-- Writes a frame's bytes and headers into a chain of cells. -/
def writeChain (owner : Nat) (sof : Bool) : List Nat → List Byte → Mach → Mach
  | [], _, m => m
  | [p], b, m => m.setCell p { m.cell p with owner := owner, sof := sof, eof := true, next := 0, refcnt := 0, data := b }
  | p :: q :: ps, b, m =>
    let m := m.setCell p { m.cell p with owner := owner, sof := sof, eof := false, next := q, refcnt := 0, data := b.take 256 }
    writeChain owner false (q :: ps) (b.drop 256) m

/-- Cells a frame of `n` bytes, FCS included, takes (R191). -/
def cellsFor (n : Nat) : Nat := ceilDiv n 256

/-- Stores a frame for a requester: its first cell; `none` is `NO_BUFFER`. -/
def storeFrame (c : Cfg) (m : Mach) (die owner : Nat) (b : List Byte) : Option (Nat × Mach) :=
  match allocCells c die owner (cellsFor b.length) m with
  | some (p :: ps, m) => some (p, writeChain owner true (p :: ps) b m)
  | _ => none

/-- The cells of a frame, at most `fuel`. -/
def chainOf : Nat → Mach → Nat → List Nat
  | 0, _, _ => []
  | n + 1, m, p => if (m.cell p).eof then [p] else p :: chainOf n m (m.cell p).next

/-- A bound on the cells of a frame, beyond any frame's length. -/
def maxChain : Nat := 4096

/-- Reading or writing a frame's headers through, the first pointer that fails the check of die `die` (R189). -/
def chainBad (die : Nat) : Nat → Mach → Nat → Option Nat
  | 0, _, _ => none
  | n + 1, m, p =>
    if !cellAddrOk die (cellAddr p) then some p
    else if (m.cell p).eof then none
    else chainBad die n m (m.cell p).next

/-- The bytes of a stored frame, FCS included. -/
def frameBytes (m : Mach) (p : Nat) : List Byte := (chainOf maxChain m p).flatMap fun q => (m.cell q).data

/-- The header writes of a hand-over by `req`, from cell `p` on; a pointer that fails its check ends them (R189). -/
def handFrom (c : Cfg) (req owner refcnt : Nat) : Nat → Mach → Nat → Mach
  | 0, m, _ => m
  | n + 1, m, p =>
    if !cellAddrOk (req / 2048) (cellAddr p) then bufError c m (req / 2048) .pointer req (cellAddr p)
    else
      let x := m.cell p
      let m := m.setCell p { x with owner := owner, refcnt := if x.sof then refcnt else x.refcnt, mark := m.epochOf (dieOf p) }
      if x.eof then m else handFrom c req owner refcnt n m x.next

/-- Its owner `req` hands a frame over: the new owner, `REFCNT` in the first cell, and `MARK`, into every cell (R195). -/
def handOver (c : Cfg) (m : Mach) (req p owner refcnt : Nat) : Mach := handFrom c req owner refcnt maxChain m p

/-- Frees the later cells of a chain: a pointer or a cell that fails its check stops the walk (R189, R194). -/
def freeRest (c : Cfg) (req : Nat) : Nat → Mach → Nat → Mach
  | 0, m, _ => m
  | n + 1, m, p =>
    let x := m.cell p
    if !cellAddrOk (req / 2048) (cellAddr p) then bufError c m (req / 2048) .pointer req (cellAddr p)
    else if x.seen ≠ req then bufError c m (dieOf p) .chain req (cellAddr p)
    else
      let m := pushCell m p
      if x.eof then m else freeRest c req n m x.next

/-- A free of a frame by its first cell's address (R189, R194). -/
def freeFrame (c : Cfg) (m : Mach) (die req addr : Nat) : Mach :=
  if !cellAddrOk die addr then bufError c m die .pointer req addr
  else
    let p := addr / 256
    let x := m.cell p
    if x.seen = 0xFFF then bufError c m die .double req addr
    else if x.seen ≠ req then bufError c m die .foreign req addr
    else if !x.sof then bufError c m die .chain req addr
    else
      let m := pushCell m p
      if x.eof then m else freeRest c req maxChain m x.next

/-- A release of a multicast copy by the unit `req` (R198). -/
def releaseCopy (c : Cfg) (m : Mach) (die req addr : Nat) : Mach :=
  if !cellAddrOk die addr then bufError c m die .pointer req addr
  else
    let p := addr / 256
    let x := m.cell p
    if x.seen = 0xFFF then bufError c m die .double req addr
    else if x.seen ≠ ownMcast die || x.refcnt = 0 then bufError c m die .foreign req addr
    else
      let m := m.setCell p { x with refcnt := x.refcnt - 1 }
      if x.refcnt = 1 then freeFrame c m die (ownMcast die) addr else m

/-- Sends a release to its die's agent, which serves releases one at a time (R198). -/
def sendRelease (m : Mach) (req p : Nat) : Mach := { m with tmg := { m.tmg with releases := m.tmg.releases ++ [(req, cellAddr p)] } }

/-- A frame that leaves a holder: freed by its owner, or released when it is a multicast copy. -/
def dropFrame (c : Cfg) (m : Mach) (req : Nat) (fd : FrameD) : Mach :=
  if fd.mcast then sendRelease m req fd.head else freeFrame c m (req / 2048) req (cellAddr fd.head)

/-! ### Counts (R199) -/

/-- The cells of a die that are not free; a header that is lost says of no cell that it is (R217). -/
def dieCells (m : Mach) (die : Nat) : List (Nat × Cell) := m.tmg.cells.filter fun e => dieOf e.1 == die && (e.2.owner != 0xFFF || e.2.lost)

/-- Stored cells referenced by queues: held by a dequeue unit, by the release agent or in a staging part. -/
def cellsQueued (m : Mach) (die : Nat) : Nat :=
  ((dieCells m die).filter fun e => e.2.owner % 2048 < 0x80 || e.2.owner % 2048 == 0x130).length

/-- Cells held by any other owner. -/
def cellsInflight (m : Mach) (die : Nat) : Nat := (dieCells m die).length - cellsQueued m die

/-- Free cells of a die. -/
def cellsFree (m : Mach) (die : Nat) : Nat := cellsPerDie - (dieCells m die).length

/-- Charges an account of a pipeline with `n` cells, or gives them back. -/
def chargeIng (m : Mach) (pipe : Nat) (n : Int) : Mach :=
  { m with tmg := { m.tmg with ing := Tbl.put 0 m.tmg.ing pipe (((Tbl.look 0 m.tmg.ing pipe : Nat) + n).toNat) } }
def chargePunt (m : Mach) (pipe : Nat) (n : Int) : Mach :=
  { m with tmg := { m.tmg with punt := Tbl.put 0 m.tmg.punt pipe (((Tbl.look 0 m.tmg.punt pipe : Nat) + n).toNat) } }

/-- Stores an arriving frame under its pipeline's ingress account: `none` when the account or the banks refuse (R193, R199). -/
def storeIngress (c : Cfg) (m : Mach) (pipe owner : Nat) (b : List Byte) : Option (Nat × Mach) :=
  let n := cellsFor b.length
  if c.get tmgIngLimitIngLimit (pipe / 16) (pipe % 16) < Tbl.look 0 m.tmg.ing pipe + n then none
  else (storeFrame c m (pipe / 16) owner b).map fun (p, m) => (p, chargeIng m pipe n)

/-- What is left where `storeIngress` refuses: cells that were taken before the banks ran out are free again. -/
def ingressFail (c : Cfg) (m : Mach) (pipe owner : Nat) (b : List Byte) : Mach :=
  let n := cellsFor b.length
  if c.get tmgIngLimitIngLimit (pipe / 16) (pipe % 16) < Tbl.look 0 m.tmg.ing pipe + n then m else allocFail c m (pipe / 16) owner n

/-- The cells of a cut-through frame's tail (R49, R193): taken by the ingress port block `req`, which goes on in its rotation, for the owner of the
frame's first cell, and linked behind it. -/
def appendCells (c : Cfg) (m : Mach) (req p : Nat) (b : List Byte) : Option Mach :=
  let x := m.cell p
  match allocCells c (dieOf p) req (cellsFor b.length) m with
  | some (q :: qs, m) => some (writeChain x.owner false (q :: qs) b (m.setCell p { m.cell p with eof := false, next := q }))
  | some ([], m) => some m
  | none => none

/-! ### Pages (R202-R205, R210) -/

/-- Bytes 0–13 of a page's descriptor (R204). -/
def Page.image (x : Page) : List Byte :=
  beBytes 2 x.owner ++ beBytes 3 (x.next.getD 0) ++ beBytes 2 (b2n x.next.isSome * 2 ^ 15 + x.fill) ++ beBytes 1 x.frames ++ beBytes 2 x.first ++
    beBytes 3 x.qid ++ beBytes 1 (b2n x.mark * 128 + b2n x.suspect * 64)

/-- A descriptor's `CHECK` holds. -/
def Page.ok (x : Page) : Bool := x.check == crc16 x.image

def Mach.page (m : Mach) (p : Nat) : Page := Tbl.look {} m.tmg.pages p
def Mach.putPage (m : Mach) (p : Nat) (x : Page) : Mach := { m with tmg := { m.tmg with pages := Tbl.put {} m.tmg.pages p x } }

/-- Writes a page's descriptor, with its `CHECK`; a page free in L0 has none. -/
def Mach.setPage (m : Mach) (p : Nat) (x : Page) : Mach := m.putPage p { x with check := if x.l0 then 0 else crc16 x.image }

/-- L1 and L2 of the free map: a bit for each word below that has a free bit (R202). They follow L0. -/
def pageL1 (m : Mach) (w : Nat) : Bool := (List.range 512).any fun i => (m.page (512 * w + i)).l0
def pageL2 (m : Mach) (w : Nat) : Bool := (List.range 512).any fun i => pageL1 m (512 * w + i)

/-- Pages in no queue: those free in L0 and those in a ready queue. -/
def pagesFree (m : Mach) : Nat := pageCount - (m.tmg.pages.filter fun e => e.2.owner != 0xFFF).length

/-- A pointer of the page store is in range (R188, R189), and the descriptor behind it holds its `CHECK` (R210). -/
def Mach.pageOk (m : Mach) (p : Nat) : Bool := decide (p < pageCount) && (m.page p).ok

/-- A page error: latched, counted, reported (R210, R217). -/
def pageError (c : Cfg) (m : Mach) (kind req p : Nat) : Mach :=
  let m := if kind = 4 then bump c m .hbmCnt cHbmPageCheck else m
  let m := if m.stOn hbmPageLatchValid then m
    else (((m.setSt hbmPageLatchValid 1).setSt hbmPageLatchKind kind).setSt hbmPageLatchReq req).setSt hbmPageLatchPtrPtr p
  raise c m 15 0 DEGRADED p

/-- A page that requester `req` reads fails its pointer check or its `CHECK` (R189, R210). -/
def pageReadError (c : Cfg) (m : Mach) (req p : Nat) : Mach := pageError c m (if p < pageCount then 4 else 0) req p

/-- Pages of one allocator. -/
def pagesPerAlloc : Nat := 1_572_864

/-- Find-first-free from an allocator's cursor: the first `n` pages with their L0 bit at 1, at most one round of its pages (R202). -/
def findPages (m : Mach) (k start : Nat) : Nat → Nat → List Nat
  | 0, _ => []
  | _, 0 => []
  | fuel + 1, n + 1 =>
    let p := k * pagesPerAlloc + start % pagesPerAlloc
    if (m.page p).l0 then p :: findPages m k (start + 1) fuel n else findPages m k (start + 1) fuel (n + 1)

/-- A page allocator refills its ready queue up to 64 pages, which it clears in L0 (R202). -/
def refillPages (m : Mach) (k : Nat) : Mach :=
  let q := Tbl.look [] m.tmg.ready k
  if 16 < q.length then m
  else
    let cur := Tbl.look 0 m.tmg.cursor k
    let ps := findPages m k cur (min (m.tmg.pages.length + 64) pagesPerAlloc) (64 - q.length)
    let m := ps.foldl (fun m p => m.setPage p { m.page p with l0 := false }) m
    let cur' := match ps.getLast? with | some p => (p - k * pagesPerAlloc + 1) % pagesPerAlloc | none => cur
    { m with tmg := { m.tmg with ready := Tbl.put [] m.tmg.ready k (q ++ ps), cursor := Tbl.put 0 m.tmg.cursor k cur' } }

/-- One page for the spill writer of a die: from the next allocator in its rotation that has one ready (R203). -/
def allocPage (c : Cfg) (m : Mach) (die owner qid : Nat) : Option (Nat × Mach) :=
  let start := Tbl.look 0 m.tmg.spillRot die
  match (List.range 8).findSome? fun j =>
    let k := (start + j) % 8
    match Tbl.look [] m.tmg.ready k with
    | p :: ps => some (k, p, ps)
    | [] => none with
  | some (k, p, ps) =>
    let m := { m with tmg := { m.tmg with ready := Tbl.put [] m.tmg.ready k ps, spillRot := Tbl.put 0 m.tmg.spillRot die ((k + 1) % 8) } }
    some (p, bump c (m.setPage p { l0 := false, owner := owner, qid := qid, mark := m.epochOf 2 }) .hbmCnt cHbmPageAlloc)
  | none => none

/-- The pages at the head of the ready queues are checked as allocation results (R189): one out of range is reported and not given. -/
def checkReady (c : Cfg) (m : Mach) (req : Nat) : Mach :=
  (List.range 8).foldl (fun m k =>
    let l := Tbl.look [] m.tmg.ready k
    if l.all (· < pageCount) then m
    else
      let m := (l.filter (pageCount ≤ ·)).foldl (fun m p => pageError c m 0 req p) m
      { m with tmg := { m.tmg with ready := Tbl.put [] m.tmg.ready k (l.filter (· < pageCount)) } }) m

/-- A page free, with the requester's ID (R189, R210). A descriptor that fails `CHECK` leaves the page to the tally. -/
def freePage (c : Cfg) (m : Mach) (req p : Nat) : Mach :=
  if pageCount ≤ p then pageError c m 0 req p
  else
    let x := m.page p
    if x.l0 then pageError c m 2 req p
    else if !x.ok then pageError c m 4 req p
    else if x.owner ≠ req then pageError c m 1 req p
    else bump c (m.setPage p {}) .hbmCnt cHbmPageRelease

end Sys2Proof.Machine
end

