-- ==== Sys2Proof/Machine/Leave.lean ====
section
/-! DEFINITION. The power governor: leave for heavy operations (R430-R436), and what goes upward with it (R40). -/
namespace Sys2Proof.Machine

/-- Operation codes of R431. -/
def opSweep : Nat := 0
def opBulk : Nat := 1
def opDump : Nat := 2
def opScrub : Nat := 3
def opCellTally : Nat := 4
def opPageTally : Nat := 5
def opQuote : Nat := 6
def opTree : Nat := 7
def opRekey : Nat := 8
def opSelfTest : Nat := 9
def opWarmUp : Nat := 10
def opCopy : Nat := 11

/-- The fault-recovery pool serves these operations (R431). -/
def recoveryOp (k : Nat) : Bool := k = opWarmUp || k = opCopy

/-- Pips of a set of grants. -/
def pipsOf (l : List LeaveReq) : Nat := (l.map (·.pips)).sum

/-- Held: the normal-pool grants (R430). -/
def Mach.pipsHeld (m : Mach) : Nat := pipsOf (m.pwr.grants.filter fun g => !recoveryOp g.op)

/-- The base in pips (R430, R438). -/
def pwrBase (c : Cfg) (m : Mach) : Nat := if m.pwr.railFail then 2 * (c.get pwrBudgetWatts - 40) else m.pwr.base

/-- The room of R430 for `held` pips. -/
def pwrRoom (c : Cfg) (m : Mach) (held : Nat) : Int :=
  2 * (c.get pwrBudgetWatts : Int) - pwrBase c m - c.get pwrBudgetReserve - held

/-- An outcome is shown in `PWR_GRANT_STATUS` and, as `PWR_CTRL.EVT` selects, posted as a `POWER` event (R432, R436). Outcomes:
0 granted, 1 deferred, 2 refused, 3 released. -/
def pwrReport (c : Cfg) (m : Mach) (q : LeaveReq) (outcome reason : Nat) : Mach :=
  let m := if outcome = 3 then m else
    (((m.setSt pwrGrantStatusOp q.op).setSt pwrGrantStatusOutcome outcome).setSt pwrGrantStatusReason reason).setSt pwrGrantStatusUnit (q.unit % 65536)
  let m := if outcome = 0 then bump c m .pwrCnt cPwrGrants else if outcome = 1 then bump c m .pwrCnt cPwrDefers
    else if outcome = 2 then bump c m .pwrCnt cPwrRefusals else m
  let evt := c.get pwrCtrlEvt
  if evt = 2 || evt = 1 && (outcome = 1 || outcome = 2) then
    postEvent c m { type := 0x0D, bodies :=
      [beBytes 1 q.op ++ beBytes 1 (if recoveryOp q.op then 0xFF else q.cls) ++ beBytes 1 outcome ++ beBytes 1 reason ++
        beBytes 2 q.pips ++ beBytes 2 q.unit ++ beBytes 2 (pwrBase c m) ++ beBytes 2 m.pipsHeld] }
  else m

/-- The request considered first: the head of the highest non-empty class (R432). -/
def leaveHead (l : List LeaveReq) : Option LeaveReq :=
  l.foldl (fun (a : Option LeaveReq) q => match a with | some b => if b.cls < q.cls then some q else a | none => some q) none

/-- Grants from the head while it fits the room, and none while `THERM_ALERT_N` is low (R432, R437). -/
def leaveGrants (c : Cfg) : Nat → Mach → Mach
  | 0, m => m
  | fuel + 1, m =>
    match leaveHead m.pwr.queue with
    | none => m
    | some q =>
      if m.pwr.alert || pwrRoom c m m.pipsHeld < q.pips then m
      else
        leaveGrants c fuel (pwrReport c { m with pwr := { m.pwr with queue := m.pwr.queue.erase q, grants := m.pwr.grants ++ [q] } } q 0 0)

/-- Why a waiting request is deferred (R436): behind the head of a higher class, or for want of room. -/
def deferReason (m : Mach) (q : LeaveReq) : Nat :=
  if m.pwr.alert then 3
  else match leaveHead m.pwr.queue with
    | some h => if q.cls < h.cls then 2 else 1
    | none => 1

/-- The governor's evaluation: grants, then the first deferral of what still waits (R430, R432, R436). -/
def leaveEval (c : Cfg) (m : Mach) : Mach :=
  let m := leaveGrants c m.pwr.queue.length m
  m.pwr.queue.foldl (fun (m : Mach) q =>
    if q.posted then m
    else
      let r := deferReason m q
      pwrReport c { m with pwr := { m.pwr with queue := m.pwr.queue.map fun x => if x = q then { q with posted := true } else x } } q 1 r) m

/-- How a request fared at its arrival. -/
inductive LeaveAns | granted | deferred | refused
deriving DecidableEq, Repr

def Mach.holdsLeave (m : Mach) (op unit : Nat) : Bool := m.pwr.grants.any fun q => q.op == op && q.unit == unit
def Mach.waitsLeave (m : Mach) (op unit : Nat) : Bool := (m.pwr.queue.any fun q => q.op == op && q.unit == unit) || m.pwr.asks.contains (op, unit)

/-- The order in which requests of one clock enter the queue: by class, then lower k, then lower unit (R432). -/
def LeaveReq.before (a b : LeaveReq) : Bool :=
  if a.cls ≠ b.cls then decide (b.cls < a.cls) else if a.op ≠ b.op then decide (a.op < b.op) else decide (a.unit < b.unit)

/-- A request enters the queue behind those of earlier clocks, in its place among those of its own (R432, notes/assumptions/142.md). -/
def LeaveReq.enter (q : LeaveReq) (l : List LeaveReq) : List LeaveReq :=
  let late (x : LeaveReq) : Bool := x.since == q.since && q.before x
  l.takeWhile (fun x => !late x) ++ q :: l.dropWhile fun x => !late x

/-- A request refused at its arrival, after which the governor evaluates again (R430). -/
def leaveRefuse (c : Cfg) (m : Mach) (q : LeaveReq) (reason : Nat) : LeaveAns × Mach := (.refused, leaveEval c (pwrReport c m q 2 reason))

/-- A request for leave reaches the governor (R430-R434). -/
def leaveArrive (c : Cfg) (m : Mach) (op unit : Nat) : LeaveAns × Mach :=
  let q : LeaveReq := { op := op, unit := unit, cls := c.get pwrOpClass op, pips := c.get pwrOpPips op, since := m.up }
  if recoveryOp op then
    let used := pipsOf (m.pwr.grants.filter fun g => recoveryOp g.op)
    let m := pwrReport c { m with pwr := { m.pwr with grants := m.pwr.grants ++ [q] } } q 0 0
    let before := used - c.get pwrBudgetReserve
    let exc := used + q.pips - c.get pwrBudgetReserve
    (.granted, leaveEval c (if before < exc then raise c (bump c m .pwrCnt cPwrOverdraw (x := exc - before)) 29 2 NOTE else m))
  else if !c.on pwrOpEn op then leaveRefuse c m q 2
  else if pwrRoom c m 0 < q.pips then leaveRefuse c m q 1
  else if 64 ≤ m.pwr.queue.length then leaveRefuse c m q 3
  else
    let m := leaveEval c { m with pwr := { m.pwr with queue := q.enter m.pwr.queue } }
    (if m.holdsLeave op unit then .granted else .deferred, m)

/-! ### What a die agent sends upward (R40) -/

/-- The die whose agent sends an operation's request. -/
def leaveDie (op unit : Nat) : Nat :=
  if op = opSweep then Blk.fsl.die unit
  else if op = opCellTally then Blk.tmg.die unit
  else if op = opRekey then Blk.msc.die unit
  else if op = opScrub || op = opPageTally then Blk.hbm.die 0
  else 7

/-- Reports of a die wait for the fault controller; requests for leave wait behind those. -/
def reportsWait (m : Mach) (die : Nat) : Bool := m.flt.waiting.any fun r => sourceDie r.src == die
def asksWait (m : Mach) (die : Nat) : Bool := m.pwr.asks.any fun e => leaveDie e.1 e.2 == die

/-- An operation asks for leave: behind the fault reports of its die (R40). Fault recovery is the fault controller's own. -/
def askLeave (c : Cfg) (m : Mach) (op unit : Nat) : LeaveAns × Mach :=
  if !recoveryOp op && (reportsWait m (leaveDie op unit) || asksWait m (leaveDie op unit)) then
    (.deferred, { m with pwr := { m.pwr with asks := m.pwr.asks ++ [(op, unit)] } })
  else leaveArrive c m op unit

/-- A die agent's upward queue is full: dumps and trace records are held back. What it holds is left open (notes/assumptions/116.md). -/
def upwardFull (m : Mach) (die : Nat) : Bool :=
  decide (Config.upwardRoom < (m.flt.waiting.filter fun r => sourceDie r.src == die).length + (m.pwr.asks.filter fun e => leaveDie e.1 e.2 == die).length +
    (m.pwr.behind.filter fun b => b.dies.contains die).length)

/-- Something that goes first stands in a die agent's upward queue, or an earlier batch. -/
def upwardBusy (m : Mach) (die : Nat) : Bool := reportsWait m die || asksWait m die || m.pwr.behind.any fun b => b.dies.contains die

/-- A batch of counters or records goes to its ring, or waits behind what goes first. -/
def sendBatch (c : Cfg) (m : Mach) (b : UpBatch) : Mach :=
  if b.dies.any (upwardBusy m) then { m with pwr := { m.pwr with behind := m.pwr.behind ++ [b] } } else writeBatch c m b.ring b.kind b.payload

/-- The batches that nothing holds behind it any more are written, in order. -/
def behindGo (c : Cfg) (m : Mach) : Mach := m.pwr.behind.foldl (sendBatch c) { m with pwr := { m.pwr with behind := [] } }

/-- A heavy operation ends: its pips are released and the queue is evaluated again (R430). -/
def releaseLeave (c : Cfg) (m : Mach) (op unit : Nat) : Mach :=
  match m.pwr.grants.find? fun q => q.op == op && q.unit == unit with
  | some q => leaveEval c (pwrReport c { m with pwr := { m.pwr with grants := m.pwr.grants.erase q } } q 3 0)
  | none => m

/-- A request withdrawn by its operation before a decision. -/
def dropLeave (m : Mach) (op unit : Nat) : Mach :=
  { m with pwr := { m.pwr with queue := m.pwr.queue.filter fun q => !(q.op == op && q.unit == unit), asks := m.pwr.asks.filter (· != (op, unit)) } }

/-- The waiting requests that are refused after all, with their reasons (R433): `EN` is 0 now, or they have been deferred for longer than
`DEFER_MAX`. -/
def leaveLapsed (c : Cfg) (m : Mach) : List (LeaveReq × Nat) :=
  m.pwr.queue.filterMap fun q =>
    if !c.on pwrOpEn q.op then some (q, 2)
    else if c.get pwrCtrlDeferMax * 1_000_000 < m.up - q.since then some (q, 4)
    else none


/-! ### When tally passes fall due (R215, R216): 0 and 1 the pipeline dies' cells, 2 the pages -/

/-- Tally passes run. -/
def tallyEn (c : Cfg) (u : Nat) : Bool := if u < 2 then c.on tmgTallyCfgEn u else c.on hbmPageCtrlTallyEn

/-- `AUDIT_PERIOD`, in ns. -/
def tallyPeriod (c : Cfg) (u : Nat) : Nat := 1_000_000 * (if u < 2 then c.get tmgTallyCfgAuditPeriod u else c.get hbmPageCtrlAuditPeriod)

/-- The uptime at which a pass is due: at first one period after the reset. -/
def tallyDue (c : Cfg) (m : Mach) (u : Nat) : Nat := (Tbl.find m.tmg.tallyAt u).getD (tallyPeriod c u)

/-- A pass that is refused leave is skipped and counted as late (R433). -/
def tallyRefused (m : Mach) (u : Nat) : Mach := { m with tmg := { m.tmg with tallyLate := Tbl.upd 0 m.tmg.tallyLate u (· + 1) } }

/-- `HBM_SCRUB_CFG.INTERVAL`, in ns (R439). -/
def scrubInterval : Nat := Config.scrubHours * 3_600_000_000_000

/-- Passes are enabled: the first is due one period on (notes/assumptions/120.md). -/
def tallyOn (c : Cfg) (m : Mach) (u : Nat) : Mach := { m with tmg := { m.tmg with tallyAt := Tbl.ins m.tmg.tallyAt u (m.up + tallyPeriod c u) } }

end Sys2Proof.Machine
end

