-- ==== Sys2Proof/Machine/Trace.lean ====
section
/-! DEFINITION. Packet traces and trace batches (R450, R452). A record in the making is the 64 bytes of R450, a byte that says
whether the packet is selected, and the uptime at parser entry. -/
namespace Sys2Proof.Machine

/-- The die agent that a source's batches go through: a pipeline's die, or `CD` for a core cluster. -/
def traceDie (src : Nat) : Nat := if src < 32 then src / 16 else 7

/-- A batch of a source leaves (R452), or is held back (R40). -/
def traceFlush (c : Cfg) (m : Mach) (src : Nat) : Mach :=
  let l := Tbl.look [] m.pwr.trace src
  if l = [] || upwardFull m (traceDie src) then m
  else
    let seq := Tbl.look 0 m.pwr.traceSeq src
    let ring := if src < 32 then c.get pmuTraceRingsPkt else c.get pmuTraceRingsInsn
    let m := { m with pwr := { m.pwr with trace := Tbl.put [] m.pwr.trace src [], traceAt := Tbl.del m.pwr.traceAt src,
                                          traceSeq := Tbl.put 0 m.pwr.traceSeq src ((seq + 1) % 2 ^ 32) } }
    sendBatch c m ⟨[traceDie src], ring, .trc, beBytes 1 src ++ beBytes 1 l.length ++ [0, 0] ++ beBytes 4 seq ++ l.flatten⟩

/-- A source's record is held; a batch leaves when 16 are. A record that finds 64 held is not made, and the source's sequence numbers show the gap (R40,
R452). -/
def traceAdd (c : Cfg) (m : Mach) (src : Nat) (r : List Byte) : Mach :=
  let l := Tbl.look [] m.pwr.trace src
  if 64 ≤ l.length then
    let seq := Tbl.look 0 m.pwr.traceSeq src
    bump c { m with pwr := { m.pwr with traceSeq := Tbl.put 0 m.pwr.traceSeq src ((seq + 1) % 2 ^ 32) } } .pmuCnt cPmuTraceSkip
  else
    let m := { m with pwr := { m.pwr with trace := Tbl.put [] m.pwr.trace src (l ++ [r]),
                                          traceAt := if l = [] then Tbl.ins m.pwr.traceAt src m.up else m.pwr.traceAt } }
    if 16 ≤ l.length + 1 then traceFlush c m src else m

/-- The 10 µs of a batch have passed (R452). -/
def traceExpiry (c : Cfg) (m : Mach) (src : Nat) : Mach :=
  match Tbl.find m.pwr.traceAt src with
  | some t => if t + 10_000 ≤ m.up then traceFlush c m src else m
  | none => m

/-- A record is begun at parser entry: mode 0 selects here, at random, on the first pass. Each pass of a traced packet has one. -/
def traceBegin (c : Cfg) (m : Mach) (k : Pkt) : List Byte × Mach :=
  if !c.on pmuTracePplEn k.pipe then ([], m)
  else
    let draws := c.get pmuTracePplMode k.pipe = 0 && !k.pass
    let n := c.get pmuTracePplN k.pipe
    let hit := k.traced || draws && decide ((Config.random m.free).toNat % 2 ^ 24 * n < 2 ^ 24)
    let m := if draws then m.draw else m
    let ns := m.todNs
    (List.replicate 8 0 ++ beBytes 1 (k.pipe + 128 * b2n k.pass) ++ beBytes 1 k.lport ++ List.replicate 6 0 ++
      beBytes 6 (secOf ns) ++ beBytes 4 (nsOf ns) ++ beBytes 2 k.turn.toNat ++ List.replicate 24 0xFF ++ [0, 0] ++
      beBytes 2 k.len ++ List.replicate 8 0 ++ beBytes 1 (b2n hit) ++ beBytes 8 m.up, m)

/-- Writes into a record in the making, if there is one. -/
def tracePut (t : List Byte) (off n v : Nat) : List Byte := if t = [] then [] else splice t off (beBytes n v)

/-- Notes the time of a boundary: 0 request, 1 response, 2 action engine, 3 enqueue, 4 dequeue, 5 first bit. -/
def traceTime (t : List Byte) (i now : Nat) : List Byte := tracePut t (28 + 4 * i) 4 (min ((now - be t 65 8) * 4) (2 ^ 32 - 1))

/-- The packet is selected. -/
def traceSelect (t : List Byte) (yes : Bool) : List Byte := if yes then tracePut t 64 1 1 else t

/-- The record is written, with its disposition and the reason that ended the packet. -/
def traceEnd (c : Cfg) (m : Mach) (t : List Byte) (disp code : Nat) : Mach :=
  if byteAt t 64 = 1 then traceAdd c m (bits (byteAt t 8) 4 0) ((splice (splice t 15 (beBytes 1 disp)) 52 (beBytes 1 code)).take 64) else m

/-- In mode 1 a packet that raised the reason is selected: the reason's count has moved since `m₀` (R450). -/
def traceReasons (c : Cfg) (m₀ m : Mach) (k : Pkt) : Pkt :=
  let n := c.get pmuTracePplN k.pipe % 64
  let hit := decide (k.trace ≠ []) && c.get pmuTracePplMode k.pipe == 1 && m.ctr .pplReasonCnt k.pipe n != m₀.ctr .pplReasonCnt k.pipe n
  { k with trace := traceSelect k.trace hit }

end Sys2Proof.Machine
end

