-- ==== Sys2Proof/Machine/Sched.lean ====
section
/-! DEFINITION. Queues and what chooses among them: admission, deep queues, shapers, gates, the selection procedure (R199-R212,
R220-R230, R244-R250). -/
namespace Sys2Proof.Machine

/-! ### Ports -/

/-- The rate of a port in Gb/s by its `SPEED` (R467). -/
def speedOf (s : Nat) : Nat := [10, 25, 50, 100, 200, 400, 800].getD s 800

/-- The speed of a logical port in Gb/s. -/
def portSpeed (c : Cfg) (l : Nat) : Nat := speedOf (c.get prtPortCfgSpeed (l / 8) (l % 8))

/-- The I/O die and the SecY of a logical port (R22, R355). -/
def ioDie (l : Nat) : Nat := l / 8 % 16 / 4
def secyOf (l : Nat) : Nat := 8 * (l / 8 % 4 + 4 * (l / 128)) + l % 8

/-- The SecY of a port is enabled. -/
def secyOn (c : Cfg) (l : Nat) : Bool := decide (l % 8 < 6) && c.on mscSecyCfgEn (ioDie l) (secyOf l)

/-- The bytes protection adds to a frame (R353). -/
def secyGrow (c : Cfg) (l : Nat) : Nat := if secyOn c l then (if c.on mscSecyCfgIncludeSci (ioDie l) (secyOf l) then 32 else 24) else 0

/-- `TX_LAT`, in 1/16 ns (R481). -/
def txLat (c : Cfg) (l : Nat) : Nat :=
  if 6 ≤ l % 8 then 0
  else
    let base := match c.get prtPortCfgSpeed (l / 8) (l % 8), c.get prtPortCfgFec (l / 8) (l % 8) with
      | 0, 1 => 1600 | 0, _ => 1312
      | 1, 1 => 1280 | 1, 2 => 1520 | 1, _ => 1120
      | 2, _ => 1056 | 3, _ => 992 | 4, _ => 960 | 5, _ => 928 | 6, _ => 896
      | _, _ => 0
    if c.fuse.variant = .m then base + 410 else base

/-! ### The tree (R220, R222) -/

/-- The number of a node within its die. -/
def subEn (c : Cfg) (s : Nat) : Bool := c.on schSubCfgEn (s / 16384) (s % 16384)
def svcEn (c : Cfg) (v : Nat) : Bool := c.on schSvcCfgEn (v / 2048) (v % 2048)
def portEn (c : Cfg) (l : Nat) : Bool := c.on schPortCfgEn (l / 128) (l % 128)
def subParent (c : Cfg) (s : Nat) : Nat := c.get schSubCfgParent (s / 16384) (s % 16384)
def svcParent (c : Cfg) (v : Nat) : Nat := c.get schSvcCfgParent (v / 2048) (v % 2048) % 256

/-- The service node and the port node of a queue, if every node of its chain is enabled (R222). -/
def chainUp (c : Cfg) (q : Nat) : Option (Nat × Nat) :=
  let s := q / 4
  let v := subParent c s
  let l := svcParent c v
  if subEn c s && svcEn c v && portEn c l then some (v, l) else none

/-- The port node above a queue, enabled or not. -/
def queuePort (c : Cfg) (q : Nat) : Nat := svcParent c (subParent c (q / 4))

def Mach.queue (m : Mach) (q : Nat) : Queue := Tbl.look {} m.tmg.queues q
def Mach.setQueue (m : Mach) (q : Nat) (x : Queue) : Mach := { m with tmg := { m.tmg with queues := Tbl.put {} m.tmg.queues q x } }

/-! ### Accounts of a queue (R199, R200) -/

/-- Cells charged to a queue: its head and staging parts. -/
def Queue.cells (x : Queue) : Nat := ((x.head ++ x.staging).map fun f => cellsFor f.len).sum

/-- Cells of the head part. -/
def Queue.headCells (x : Queue) : Nat := (x.head.map fun f => cellsFor f.len).sum

def qMin (c : Cfg) (q : Nat) : Nat := c.get tmgQcfgAMin (q / 65536) (q % 65536)
def qPool (c : Cfg) (q : Nat) : Nat := c.get tmgQcfgAPool (q / 65536) (q % 65536)

/-- Shared cells in use in a pool of a die. -/
def poolUsed (c : Cfg) (m : Mach) (die pool : Nat) : Nat :=
  ((m.tmg.queues.filter fun e => e.1 / 65536 == die && qPool c e.1 == pool).map fun e => e.2.cells - qMin c e.1).sum

/-- Whether a queue admits a frame of `n` cells (R200). -/
def admits (c : Cfg) (m : Mach) (q n : Nat) : Bool :=
  let die := q / 65536
  let cells := (m.queue q).cells
  let g := qMin c q - cells
  let d := n - g
  let size := c.get tmgPoolSize die (qPool c q)
  let f := size - poolUsed c m die (qPool c q)
  let e := c.get tmgQcfgAAlpha die (q % 65536)
  d = 0 || (decide (d ≤ f) && decide ((cells - qMin c q) + d ≤ f * 2 ^ e / 128))

/-! ### Deep queues (R205-R209) -/

def isDeep (c : Cfg) (q : Nat) : Bool := c.on tmgQcfgADeep (q / 65536) (q % 65536)
def spillThresh (c : Cfg) (q : Nat) : Nat := c.get tmgQcfgBSpillThresh (q / 65536) (q % 65536)

/-- The bytes of a frame's entry in pages: descriptor, result block, frame, padded (R205). -/
def entryBytes (len : Nat) : Nat := ceilDiv (48 + len) 16 * 16

/-- Bytes left in the last page of a chain. -/
def tailRoom (m : Mach) (x : Queue) : Nat := match x.pages.getLast? with
  | some p => 4096 - (m.page p).fill
  | none => 0

/-- Pages that entries of `n` bytes need beyond the room of the last page. -/
def pagesFor (room n : Nat) : Nat := ceilDiv (n - room) 4096

/-- A frame that asked for two-step timing is discarded: its event says so (R243). -/
def tsDropped (c : Cfg) (m : Mach) (q : Nat) (fd : FrameD) : Mach :=
  if fd.res.ptp = 2 then
    postEvent c m { type := 7, bodies := [beBytes 2 fd.res.ptpTag ++ beBytes 1 (queuePort c q) ++ [0x80]] }
  else m

/-- A frame that a queue loses otherwise than by its age is counted, and its trace record ends (R222, R189, R210, R450). -/
def countLost (c : Cfg) (m : Mach) (q : Nat) (fd : FrameD) : Mach :=
  let m := traceEnd c (tsDropped c m q fd) fd.trace 1 0
  let x := m.queue q
  bump c (m.setQueue q { x with refused := x.refused + 1 }) .tmgCnt (q / 65536) cTmgEnqDrop

/-- A frame that a queue refuses (R200) is counted so, and in the drops of the queue's next latency record (R250). -/
def countRefuse (c : Cfg) (m : Mach) (q : Nat) (fd : FrameD) : Mach :=
  let m := countLost c m q fd
  let x := m.queue q
  m.setQueue q { x with drops := min (x.drops + 1) 65535 }

/-- Enqueue: `none` where the queue refuses, which the caller counts and whose frame it frees (R200, R206, R207, R222). `ENQ_TIME` is the TOD now
(R196). -/
def enqueue (c : Cfg) (m : Mach) (q : Nat) (fd : FrameD) : Option Mach :=
  let x := m.queue q
  let fd := { fd with enq := m.todNs % 2 ^ 32 }
  let n := cellsFor fd.len
  if (chainUp c q).isNone || !admits c m q n then none
  else if isDeep c q && (x.spill || decide (spillThresh c q * 16 < x.cells + n)) then
    let need := pagesFor (tailRoom m x) (((x.staging ++ [fd]).map fun f => entryBytes f.len).sum)
    if c.get tmgQcfgBPageMax (q / 65536) (q % 65536) * 16 < x.pages.length + need then none
    else
      let m := m.setQueue q { x with spill := true, staging := x.staging ++ [fd] }
      some { m with tmg := { m.tmg with stage := Tbl.upd [] m.tmg.stage (q / 65536) (· ++ [q]) } }
  else some (m.setQueue q { x with head := x.head ++ [fd] })

/-- Takes pages for an entry of `n` bytes at the tail of a chain: the last page filled, new ones behind it; `none` while the
store has too few. -/
def takePages (c : Cfg) (die q own : Nat) : Nat → Nat → List Nat → Mach → Option (List Nat × Mach)
  | 0, _, ps, m => some (ps, m)
  | _ + 1, 0, ps, m => some (ps, m)
  | fuel + 1, n, ps, m =>
    match ps.getLast?, (match ps.getLast? with | some p => 4096 - (m.page p).fill | none => 0) with
    | some p, room + 1 =>
      let k := min (room + 1) n
      takePages c die q own fuel (n - k) ps (m.setPage p { m.page p with fill := (m.page p).fill + k })
    | last, _ =>
      match allocPage c m die own q with
      | some (p, m) =>
        let m := match last with
          | some l => m.setPage l { m.page l with next := some p }
          | none => m
        let k := min 4096 n
        takePages c die q own fuel (n - k) (ps ++ [p]) (m.setPage p { m.page p with fill := k })
      | none => none

/-- A pointer or a `CHECK` fails as page `p` of a queue's chain is read (R189, R210): the chain ends at the page before it, the frames beyond are counted, and
their pages are left for the tally. -/
def endChain (c : Cfg) (m : Mach) (req q p : Nat) : Mach :=
  let m := pageReadError c m req p
  let x := m.queue q
  let keep := x.pages.takeWhile (· != p)
  let whole := x.entries.filter fun e => keep.contains e.first && keep.contains e.last
  let m := m.setQueue q { x with pages := keep, entries := whole }
  (x.entries.drop whole.length).foldl (fun m e => countLost c m q e.fd) m

/-- The last page of a chain is read before it is written on: those whose descriptors fail end the chain. -/
def tailCheck (c : Cfg) (req q : Nat) : Nat → Mach → Mach
  | 0, m => m
  | fuel + 1, m =>
    match (m.queue q).pages.getLast? with
    | some p => if m.pageOk p then m else tailCheck c req q fuel (endChain c m req q p)
    | none => m

/-- A stored frame's bytes, FCS included: those in its cells, and of a cut-through frame those still to come. -/
def FrameD.stored (m : Mach) (fd : FrameD) : List Byte :=
  frameBytes m fd.head ++ (if fd.ct then ((Tbl.find m.ppl.ct fd.head).map (·.rest)).getD [] else [])

/-- A queued frame one of whose cells fails the pointer check as unit `req` reads it is skipped and counted; its cells are left for the tally (R189). -/
def skipFrame (c : Cfg) (m : Mach) (req q p : Nat) (fd : FrameD) : Mach :=
  countLost c (bufError c m (q / 65536) .pointer req (cellAddr p)) q fd

/-- The spill writer writes the frame staged longest on its die (R207). Under the page manager's back-pressure, or with no page free, it holds the
frame (R26, R209); the banks of the two blocks show the back-pressure (R445, notes/assumptions/81.md). -/
def spillWrite (c : Cfg) (m : Mach) (die : Nat) : Mach :=
  match Tbl.look [] m.tmg.stage die with
  | [] => m
  | q :: rest =>
    match (m.queue q).staging with
    | [] => { m with tmg := { m.tmg with stage := Tbl.put [] m.tmg.stage die rest } }
    | fd :: fs =>
      if Config.spillPressed m.free then
        pmcEvent c (pmcEvent c (bump c m.draw .hbmCnt cHbmSpillBp) ((pmcRow .tmg).first + die) 0x02 1) (pmcRow .hbm).first 0x03 1
      else match chainBad die maxChain m fd.head with
      | some p =>
        let m := m.draw
        let m := m.setQueue q { m.queue q with staging := fs }
        skipFrame c { m with tmg := { m.tmg with stage := Tbl.put [] m.tmg.stage die rest } } (ownSpill die) q p fd
      | none =>
      let m := checkReady c (tailCheck c (ownSpill die) q (m.queue q).pages.length m.draw) (ownSpill die)
      let x := m.queue q
      let bytes := fd.stored m
      let n := entryBytes fd.len
      let room := tailRoom m x
      match takePages c die q (ownDequeue (queuePort c q)) 8 n x.pages m with
      | none => bump c m .hbmCnt cHbmNoPage
      | some (ps, m) =>
        -- the entry begins in the room of the last page, or with the first new page (R205)
        let begin := if 0 < room then x.pages.length - 1 else x.pages.length
        let first := ps.getD begin 0
        let last := ps.getLast?.getD first
        let pg := m.page first
        let off := if 0 < room then 4096 - room else 0
        let m := m.setPage first { pg with frames := pg.frames + 1, first := if pg.frames = 0 then off else pg.first }
        let m := { m with tmg := { m.tmg with stage := Tbl.put [] m.tmg.stage die rest } }
        let entry : PEntry := { fd := { fd with head := 0, mcast := false }, bytes := bytes, first := first, last := last }
        let m := m.setQueue q { m.queue q with staging := fs, pages := ps, entries := x.entries ++ [entry] }
        let m := if fd.mcast then sendRelease m (ownSpill die) fd.head
          else freeFrame c (handOver c m (ownDequeue (queuePort c q)) fd.head (ownSpill die) 0) die (ownSpill die) (cellAddr fd.head)
        bump c m .tmgCnt die cTmgSpillFrames

/-- The page part is empty: the staging part becomes the head part and the queue is in `CELL` again (R208). -/
def endSpill (m : Mach) (q : Nat) : Mach :=
  let x := m.queue q
  if x.spill && x.entries = [] then
    let m := m.setQueue q { x with spill := false, head := x.head ++ x.staging, staging := [], pages := [] }
    { m with tmg := { m.tmg with stage := Tbl.upd [] m.tmg.stage (q / 65536) (·.filter (· != q)) } }
  else m

/-- The pages at the front of a chain that no entry left to read touches. -/
def Queue.readPages (x : Queue) : List Nat :=
  match x.entries with
  | e :: _ => x.pages.takeWhile (· != e.first)
  | [] => x.pages

/-- Frees the pages of a chain that no entry left to read touches (R208). One that fails its check as it is freed ends the chain (R210). -/
def freeRead (c : Cfg) (m : Mach) (q : Nat) : Mach :=
  let m := match (m.queue q).readPages.find? fun p => !m.pageOk p with
    | some p => endChain c m (ownDequeue (queuePort c q)) q p
    | none => m
  let x := m.queue q
  let m := m.setQueue q { x with pages := x.pages.drop x.readPages.length }
  x.readPages.foldl (fun m p => freePage c m (m.page p).owner p) m

/-- The pages of a chain that an entry lies in. -/
def entryPages (x : Queue) (e : PEntry) : List Nat :=
  let ps := x.pages.dropWhile (· != e.first)
  ps.take ((ps.takeWhile (· != e.last)).length + 1)

/-- One entry is read back into cells: false when the die has too few, where those it got are freed (R193), or nothing is left. A page of it whose
descriptor fails its check ends the chain (R210). -/
def returnOne (c : Cfg) (m : Mach) (q : Nat) : Bool × Mach :=
  let die := q / 65536
  let x := m.queue q
  match x.entries with
  | [] => (false, m)
  | e :: es =>
    match (entryPages x e).find? fun p => !m.pageOk p with
    | some bad => (true, freeRead c (endChain c m (ownReturn die) q bad) q)
    | none =>
      match storeFrame c m die (ownReturn die) e.bytes with
      | none => (false, allocFail c m die (ownReturn die) (cellsFor e.bytes.length))
      | some (p, m) =>
        let m := handOver c m (ownReturn die) p (ownDequeue (queuePort c q)) 0
        let y := m.queue q
        let m := m.setQueue q { y with head := y.head ++ [{ e.fd with head := p }], entries := es }
        (true, freeRead c m q)

/-- Reads entries back until the head part holds `SPILL_THRESH` × 16 cells. -/
def returnLoop (c : Cfg) (q : Nat) : Nat → Mach → Mach
  | 0, m => m
  | fuel + 1, m =>
    if spillThresh c q * 16 ≤ (m.queue q).headCells then m
    else match returnOne c m q with
      | (true, m) => returnLoop c q fuel m
      | (false, m) => m

/-- The page return unit's visit to a queue (R208). -/
def pageReturn (c : Cfg) (m : Mach) (q : Nat) : Mach :=
  let x := m.queue q
  if x.spill && decide (x.headCells < spillThresh c q * 8) then
    endSpill (returnLoop c q x.entries.length m) q
  else m

/-! ### Frames that leave a queue without being sent -/

/-- The unit that owns a queued frame frees or releases it. -/
def dropQueued (c : Cfg) (m : Mach) (q : Nat) (fd : FrameD) : Mach := dropFrame c m (ownDequeue (queuePort c q)) fd

/-- Every frame of a queue is flushed, counted and freed (R222, R400). A page that fails its check ends the chain first (R210). -/
def flushQueue (c : Cfg) (m : Mach) (q : Nat) : Mach :=
  let m := match (m.queue q).pages.find? fun p => !m.pageOk p with
    | some p => endChain c m (ownDequeue (queuePort c q)) q p
    | none => m
  let x := m.queue q
  let m := (x.head ++ x.staging).foldl (fun m fd => dropQueued c (countLost c m q fd) q fd) m
  let m := x.entries.foldl (fun m e => countLost c m q e.fd) m
  let m := x.pages.foldl (fun m p => freePage c m (m.page p).owner p) m
  let y := m.queue q
  let m := m.setQueue q { y with head := [], staging := [], entries := [], pages := [], spill := false }
  { m with tmg := { m.tmg with stage := Tbl.upd [] m.tmg.stage (q / 65536) (·.filter (· != q)) } }

/-! ### Token buckets (R228-R230) -/

/-- A bucket evaluated at TOD `t`, in 2^-16 ns: rate in kb/s, burst in bytes; never below −16,384 bytes, also after a step of TOD backwards
(R228). -/
def Bucket.refill (b : Bucket) (rate burst t : Nat) : Bucket :=
  let add : Int := (rate : Int) * ((t : Int) - b.last) * 256 + b.frac
  { tok := max (-16384 * 2 ^ 24) (min ((burst : Int) * 2 ^ 24) (b.tok + add / 8_000_000)), frac := (add % 8_000_000).toNat, last := t }

/-- A charge of `n` bytes: never below −16,384 bytes. -/
def Bucket.charge (b : Bucket) (n : Int) : Bucket := { b with tok := max (-16384 * 2 ^ 24) (b.tok - n * 2 ^ 24) }

/-- What a write does to a bucket when it takes effect (R230). -/
def Bucket.rst (b : Bucket) (burst rst : Nat) : Bucket :=
  match rst with
  | 1 => { b with tok := (burst : Int) * 2 ^ 24, frac := 0 }
  | 2 => { b with tok := 0, frac := 0 }
  | _ => { b with tok := min b.tok ((burst : Int) * 2 ^ 24) }

/-- A node of the tree. -/
inductive Node
  | sub (n : Nat)
  | svc (n : Nat)
  | port (n : Nat)
deriving DecidableEq, Repr

/-- A node's key in the scheduler's tables. -/
def Node.key : Node → Nat
  | .sub n => n | .svc n => 2 ^ 15 + n | .port n => 2 ^ 16 + n

/-- Rates in kb/s and bursts in bytes of a node. -/
def Node.cirRate (c : Cfg) : Node → Nat
  | .sub n => c.get schSubCirRate (n / 16384) (n % 16384)
  | .svc n => c.get schSvcCirRate (n / 2048) (n % 2048)
  | .port _ => 0
def Node.pirRate (c : Cfg) : Node → Nat
  | .sub n => c.get schSubPirRate (n / 16384) (n % 16384)
  | .svc n => c.get schSvcPirRate (n / 2048) (n % 2048)
  | .port n => c.get schPortPirRate (n / 128) (n % 128)
def Node.cbs (c : Cfg) : Node → Nat
  | .sub n => 256 * c.get schSubBurstCbs (n / 16384) (n % 16384)
  | .svc n => 256 * c.get schSvcBurstCbs (n / 2048) (n % 2048)
  | .port n => 256 * c.get schPortBurstCbs (n / 128) (n % 128)
def Node.pbs (c : Cfg) : Node → Nat
  | .sub n => 256 * c.get schSubBurstPbs (n / 16384) (n % 16384)
  | .svc n => 256 * c.get schSvcBurstPbs (n / 2048) (n % 2048)
  | .port n => 256 * c.get schPortBurstPbs (n / 128) (n % 128)

/-- A node's buckets, evaluated now. -/
def cirNow (c : Cfg) (m : Mach) (n : Node) : Bucket :=
  (Tbl.look {} m.sch.cir n.key).refill (n.cirRate c) (n.cbs c) m.todFrac
def pirNow (c : Cfg) (m : Mach) (n : Node) : Bucket :=
  (Tbl.look {} m.sch.pir n.key).refill (n.pirRate c) (n.pbs c) m.todFrac

/-- The bucket tests of R224: a bucket whose rate is 0 is not used. -/
def pirOk (c : Cfg) (m : Mach) (n : Node) : Bool := n.pirRate c = 0 || decide (0 ≤ (pirNow c m n).tok)
def cirOk (c : Cfg) (m : Mach) (n : Node) : Bool := n.cirRate c != 0 && decide (0 ≤ (cirNow c m n).tok)

/-- A node is evaluated: both buckets hold what they have now (R228). -/
def evalNode (c : Cfg) (m : Mach) (n : Node) : Mach :=
  { m with sch := { m.sch with cir := Tbl.put {} m.sch.cir n.key (cirNow c m n), pir := Tbl.put {} m.sch.pir n.key (pirNow c m n) } }

/-- A node's buckets evaluated, then charged (R226, R228). -/
def chargeNode (c : Cfg) (m : Mach) (n : Node) (len : Int) : Mach :=
  { m with sch := { m.sch with
      cir := Tbl.put {} m.sch.cir n.key ((cirNow c m n).charge len)
      pir := Tbl.put {} m.sch.pir n.key ((pirNow c m n).charge len) } }

/-- A rate or burst write takes effect: both buckets accrue at the old rate to this moment, then `RST` acts (R230). `c` is the
configuration before the write and `c'` after it. -/
def rateWrite (c c' : Cfg) (m : Mach) (n : Node) (cirRst pirRst : Option Nat) : Mach :=
  let a := cirNow c m n
  let b := pirNow c m n
  let a := match cirRst with | some r => a.rst (n.cbs c') r | none => a
  let b := match pirRst with | some r => b.rst (n.pbs c') r | none => b
  { m with sch := { m.sch with cir := Tbl.put {} m.sch.cir n.key a, pir := Tbl.put {} m.sch.pir n.key b } }

/-! ### Gates (R244-R248) -/

def Mach.gate (m : Mach) (l : Nat) : GateUnit := Tbl.look {} m.sch.gates l
def Mach.setGate (m : Mach) (l : Nat) (g : GateUnit) : Mach := { m with sch := { m.sch with gates := Tbl.put {} m.sch.gates l g } }

/-- A gate entry's states and interval. -/
def gStates (e : Nat) : Nat := bits e 39 32
def gInterval (e : Nat) : Nat := bits e 31 0

/-- Time in gate evaluations: units of 2^-48 ns ÷ 100, in which every wire time is whole. -/
def gNs : Nat := 100 * 2 ^ 48

/-- The entry of a list in force at offset `off` into a cycle of `cyc`, and where it ends; the last entry holds to the end. -/
def entryAt (cyc : Nat) : List Nat → Nat → Nat → Nat → Nat × Nat × Nat
  | [], i, _, _ => (i, 0xFF, cyc)
  | [e], i, _, _ => (i, gStates e, cyc)
  | e :: es, i, start, off =>
    let stop := start + gInterval e * gNs
    if off < min stop cyc then (i, gStates e, min stop cyc) else entryAt cyc es (i + 1) stop off

/-- The entry, states and next event of a list at time `t`: cycles begin at the base plus multiples of the cycle time (R245). -/
def listAt (oper : List Nat) (base cycle : Nat) (t : Int) : Nat × Nat × Int :=
  if oper = [] || cycle = 0 then (0, 0xFF, t + 2 ^ 64 * gNs)
  else
    let cyc := cycle * gNs
    let off := ((t - base * gNs) % cyc).toNat
    let (i, s, stop) := entryAt cyc oper 0 0 off
    (i, s, t + (stop - off : Nat))

/-- The old list up to a change at `time` (R247): the last cycle that would begin before it does not begin when less than the
extension is left, and the cycle before runs on to the change, cut there alone. -/
def oldAt (g : GateUnit) (time : Nat) (t : Int) : Nat × Nat × Int :=
  if g.oper = [] || g.cycle = 0 then (0, 0xFF, time * gNs)
  else
    let rest := (((time : Int) - g.base - 1) % g.cycle + 1).toNat
    let c := (time : Int) - rest
    let start := c - g.cycle
    if decide (rest < g.ext) && decide ((g.base : Int) ≤ start) && decide (c * gNs ≤ t) then
      let (i, s, stop) := entryAt ((g.cycle + rest) * gNs) g.oper 0 0 (t - start * gNs).toNat
      (i, s, start * gNs + stop)
    else
      let (i, s, e) := listAt g.oper g.base g.cycle t
      (i, s, min e (time * gNs))

/-- Entry, states and next event of a gate unit at time `t`, a pending change taken into account (R246, R248). -/
def gateAt (g : GateUnit) (t : Int) : Nat × Nat × Int :=
  match g.change with
  | some k =>
    if (k.time * gNs : Int) ≤ t then listAt (((List.range k.len).map fun i => Tbl.look 0 g.admin i)) k.time k.cycle t
    else oldAt g k.time t
  | none => listAt g.oper g.base g.cycle t

/-- The gate is open from `t` to `stop`. -/
def openSpan (g : GateUnit) (gate : Nat) (stop : Int) : Nat → Int → Bool
  | 0, _ => false
  | fuel + 1, t =>
    let (_, s, e) := gateAt g t
    bit s gate && (if stop ≤ e then true else openSpan g gate stop fuel e)

/-- The intervals of one cycle: states and length in ns, cut at the cycle's end, the last entry extended. -/
def cycleRuns (cyc : Nat) : List Nat → Nat → List (Nat × Nat)
  | [], _ => []
  | [e], used => [(gStates e, cyc - used)]
  | e :: es, used =>
    let k := min (gInterval e) (cyc - used)
    (gStates e, k) :: cycleRuns cyc es (used + k)

/-- The longest run of open intervals in a list. -/
def longestIn (gate : Nat) : List (Nat × Nat) → Nat → Nat → Nat
  | [], _, best => best
  | (s, k) :: rest, run, best =>
    let run := if bit s gate then run + k else 0
    longestIn gate rest run (max best run)

/-- A gate's longest open run in ns in the operational list: none where it never closes (R248). -/
def longestRun (g : GateUnit) (gate : Nat) : Option Nat :=
  if g.oper = [] then none
  else
    let runs := cycleRuns g.cycle g.oper 0
    if runs.all fun r => bit r.1 gate || r.2 = 0 then none
    else some (longestIn gate (runs ++ runs) 0 0)

/-- A frame's time on the wire (R248), in gate units. -/
def wireTime (c : Cfg) (l : Nat) (fd : FrameD) : Nat :=
  ((fd.len : Int) + fd.res.grow + 20 + secyGrow c l).toNat * 8 * gNs / portSpeed c l

/-- The gate a queue obeys. -/
def queueGate (c : Cfg) (q : Nat) : Nat := c.get schSubQGate (q / 65536) (q / 4 % 16384) (q % 4)

/-- Gate lists apply to a port. -/
def gatesOn (c : Cfg) (l : Nat) : Bool := c.on schGateCtrlGateEn (l / 128) (l % 128)

/-- The gate unit once a change whose time has come is operational (R246, R237). -/
def GateUnit.applied (g : GateUnit) (now : Nat) : GateUnit :=
  match g.change with
  | some k =>
    if k.time ≤ now then
      { g with oper := (List.range k.len).map fun i => Tbl.look 0 g.admin i, base := k.time, cycle := k.cycle, ext := k.ext, change := none }
    else g
  | none => g

/-- A frame never fits its gate (R248). -/
def gateOversize (c : Cfg) (m : Mach) (l q : Nat) (fd : FrameD) : Bool :=
  gatesOn c l && (match longestRun ((m.gate l).applied m.todNs) (queueGate c q) with
    | some ns => decide (ns * gNs < wireTime c l fd)
    | none => false)

/-- A frame may start now: its gate is open while it would be on the wire (R248). -/
def gateOpen (c : Cfg) (m : Mach) (l q : Nat) (fd : FrameD) : Bool :=
  !gatesOn c l ||
    (let t : Int := (m.tod.now * 100 + txLat c l * (gNs / 16) : Nat)
     openSpan (m.gate l) (queueGate c q) (t + wireTime c l fd) 4096 t)

/-! ### The selection (R223-R226) -/

/-- The queues beneath a port node, each with its service node, by number. -/
def portQueues (c : Cfg) (m : Mach) (l : Nat) : List (Nat × Nat) :=
  m.tmg.queues.filterMap fun e => match chainUp c e.1 with
    | some (v, l') => if l' = l && e.2.head != [] then some (e.1, v) else none
    | none => none

/-- A queue has work (R223). -/
def queueWork (c : Cfg) (m : Mach) (l q : Nat) : Bool := match (m.queue q).head with
  | fd :: _ => gateOpen c m l q fd
  | [] => false

def qPrio (c : Cfg) (q : Nat) : Nat := c.get schSubQPrio (q / 65536) (q / 4 % 16384) (q % 4)
def qWeight (c : Cfg) (q : Nat) : Nat := c.get schSubQWeight (q / 65536) (q / 4 % 16384) (q % 4)
def Node.prio (c : Cfg) : Node → Nat
  | .sub n => c.get schSubCfgPrio (n / 16384) (n % 16384)
  | .svc n => c.get schSvcCfgPrio (n / 2048) (n % 2048)
  | .port _ => 0
def Node.weight (c : Cfg) : Node → Nat
  | .sub n => c.get schSubCfgWeight (n / 16384) (n % 16384)
  | .svc n => c.get schSvcCfgWeight (n / 2048) (n % 2048)
  | .port _ => 0

/-- The deficit round robin of R225 over a set of children in index order: the child, the new current child, its deficit. -/
def dwrr (cur : Nat) (deficit : Nat → Int) (weight : Nat → Nat) (set : List Nat) : Option (Nat × Int) :=
  if set.contains cur && decide (0 < deficit cur) then some (cur, deficit cur)
  else match (set.find? (cur < ·)).or set.head? with
    | some k => some (k, min (deficit k) 0 + (weight k * 256 : Nat))
    | none => none

/-- Chooses a child node (R224): eligible ones, committed before excess, highest priority, then the round robin. -/
def chooseNode (c : Cfg) (m : Mach) (parent : Node) (mk : Nat → Node) (kids : List Nat) : Option (Nat × Mach) :=
  let e := kids.filter fun k => pirOk c m (mk k)
  let g := e.filter fun k => cirOk c m (mk k)
  let s := if g = [] then e else g
  let p := (s.map fun k => (mk k).prio c).foldl max 0
  let set := s.filter fun k => (mk k).prio c == p
  (dwrr (Tbl.look 0 m.sch.cur (8 * parent.key + p)) (fun k => Tbl.look 0 m.sch.defN (mk k).key) (fun k => (mk k).weight c) set).map
    fun (k, d) => (k, { m with sch := { m.sch with
      cur := Tbl.put 0 m.sch.cur (8 * parent.key + p) k, defN := Tbl.put 0 m.sch.defN (mk k).key d } })

/-- Chooses among a subscriber node's queues, which pass both bucket tests. -/
def chooseQ (c : Cfg) (m : Mach) (s : Nat) (qs : List Nat) : Option (Nat × Mach) :=
  let p := (qs.map (qPrio c)).foldl max 0
  let set := qs.filter fun q => qPrio c q == p
  (dwrr (Tbl.look 0 m.sch.cur (8 * s + p)) (fun q => Tbl.look 0 m.sch.defQ q) (qWeight c) set).map
    fun (q, d) => (q, { m with sch := { m.sch with cur := Tbl.put 0 m.sch.cur (8 * s + p) q, defQ := Tbl.put 0 m.sch.defQ q d } })

/-- Without repeats, keeping order. -/
def dedup : List Nat → List Nat
  | [] => []
  | x :: xs => x :: (dedup xs).filter (· != x)

/-- Sorted numbers. -/
def sorted (l : List Nat) : List Nat := l.mergeSort fun a b => decide (a ≤ b)

/-- The queues of a port that have work (R223). -/
def liveQueues (c : Cfg) (m : Mach) (l : Nat) : List (Nat × Nat) := (portQueues c m l).filter fun e => queueWork c m l e.1

/-- The nodes that a selection at a port evaluates: the port's, and those above its queues. -/
def portNodes (c : Cfg) (m : Mach) (l : Nat) : List Node :=
  let qs := portQueues c m l
  .port l :: (dedup (qs.map (·.2))).map .svc ++ (dedup (qs.map (·.1 / 4))).map .sub

/-- A child with no work has its deficit set to 0 (R225). A subscriber node has work where one of its queues has; a service node where a child with work
is eligible (R223). -/
def zeroDeficits (c : Cfg) (m : Mach) (l : Nat) (live : List (Nat × Nat)) : Mach :=
  let keepQ (q : Nat) : Bool := queuePort c q != l || live.any fun e => e.1 == q
  let keepN (n : Nat) : Bool :=
    if n < 2 ^ 15 then svcParent c (subParent c n) != l || live.any fun e => e.1 / 4 == n
    else svcParent c (n - 2 ^ 15) != l || live.any fun e => e.2 == n - 2 ^ 15 && pirOk c m (.sub (e.1 / 4))
  { m with sch := { m.sch with defQ := Tbl.keep m.sch.defQ fun q _ => keepQ q, defN := Tbl.keep m.sch.defN fun n _ => keepN n } }

/-- A frame has left a queue of the port: what has no work now has its deficit set to 0 (R225). -/
def restDeficits (c : Cfg) (m : Mach) (l : Nat) : Mach := zeroDeficits c m l (liveQueues c m l)

/-- Frames at the heads of a port's queues that never fit their gate are discarded; one that must wait is counted once (R248). -/
def gateHeads (c : Cfg) (l q : Nat) : Nat → Mach → Mach
  | 0, m => m
  | fuel + 1, m =>
    let x := m.queue q
    match x.head with
    | fd :: fs =>
      if gateOversize c m l q fd then
        let m := dropQueued c (tsDropped c (m.setQueue q { x with head := fs }) q fd) q fd
        gateHeads c l q fuel (bump c m .schCnt (l / 128) cSchGateOversize)
      else if !gateOpen c m l q fd && !fd.held then
        bump c (m.setQueue q { x with head := { fd with held := true } :: fs }) .schCnt (l / 128) cSchGateHold
      else m
    | [] => m

/-- A selection at a port (R224): the queue chosen, with the round robins moved on. -/
def selectQueue (c : Cfg) (m : Mach) (l : Nat) : Option Nat × Mach :=
  let m := (portQueues c m l).foldl (fun m e => gateHeads c l e.1 (m.queue e.1).head.length m) m
  let live := liveQueues c m l
  let m := (portNodes c m l).foldl (evalNode c) (zeroDeficits c m l live)
  if !pirOk c m (.port l) then (none, m)
  else
    -- a child has work when one of its children has work and is eligible
    let live := live.filter fun e => pirOk c m (.sub (e.1 / 4))
    match chooseNode c m (.port l) .svc (sorted (dedup (live.map (·.2)))) with
    | none => (none, m)
    | some (v, m') =>
      let under := live.filter fun e => e.2 == v
      match chooseNode c m' (.svc v) .sub (sorted (dedup (under.map (·.1 / 4)))) with
      | none => (none, m)
      | some (s, m') =>
        match chooseQ c m' s (sorted ((under.filter fun e => e.1 / 4 == s).map (·.1))) with
        | none => (none, m)
        | some (q, m') => (some q, m')

/-- A frame's charged length (R226). -/
def chargedLen (c : Cfg) (l : Nat) (fd : FrameD) : Int :=
  (fd.len : Int) + fd.res.grow + toSigned 7 (c.get schPortCfgLenAdj (l / 128) (l % 128))

/-- The charges of a dequeue: both buckets and the deficits on the frame's path (R225, R228). -/
def chargePath (c : Cfg) (m : Mach) (l q : Nat) (fd : FrameD) : Mach :=
  let n := chargedLen c l fd
  let v := subParent c (q / 4)
  let m := chargeNode c (chargeNode c (chargeNode c m (.sub (q / 4)) n) (.svc v) n) (.port l) n
  { m with sch := { m.sch with
      defQ := Tbl.upd 0 m.sch.defQ q (· - n)
      defN := Tbl.upd 0 (Tbl.upd 0 m.sch.defN (q / 4) (· - n)) (2 ^ 15 + v) (· - n) } }

/-- A frame's age in ns (R212). -/
def frameAge (m : Mach) (fd : FrameD) : Nat := (m.todNs + 2 ^ 32 - fd.enq % 2 ^ 32) % 2 ^ 32

/-- A frame at the head of a queue is older than its limit. -/
def tooOld (c : Cfg) (m : Mach) (q : Nat) (fd : FrameD) : Bool :=
  let lim := c.get tmgQcfgCAgeLimit (q / 65536) (q % 65536)
  lim != 0 && decide (lim * 1000 < frameAge m fd)

/-! ### Changes of list (R246) -/

/-- A write of 1 to `CONFIG_CHANGE`. -/
def gateConfigChange (c : Cfg) (m : Mach) (l : Nat) : Mach :=
  let d := l / 128; let n := l % 128
  let g := m.gate l
  let cycle := c.get schGateCycleCycle d n
  let ext := c.get schGateExtExt d n
  let len := c.get schGateCtrlAdminLen d n
  let base := (c.get schGateBaseSecHiSec d n * 2 ^ 32 + c.get schGateBaseSecLoSec d n) * 1_000_000_000 + c.get schGateBaseNsNs d n
  if g.change.isSome then m.setGate l { g with err := 1 }
  else if cycle < 1000 || 1_000_000_000 < cycle || len = 0 || 1024 < len || cycle < ext then m.setGate l { g with err := 2 }
  else
    -- the least whole ns at or after W + 2 µs
    let w := ceilDiv (m.tod.now + 2000 * 2 ^ 48) (2 ^ 48)
    let time := if w ≤ base then base else base + ceilDiv (w - base) cycle * cycle
    m.setGate l { g with err := 0, change := some ⟨time, cycle, ext, len⟩, shown := time }

/-- Shows the entry and states in force (R245). -/
def gateShow (m : Mach) (l : Nat) : Mach :=
  let g := m.gate l
  let (i, s, _) := gateAt { g with change := g.change.filter fun k => decide (m.todNs < k.time) } (m.tod.now * 100 : Nat)
  m.setGate l { g with index := i, states := s }

/-- The change time has come: the administrative list becomes operational. -/
def gateChange (m : Mach) (l : Nat) : Mach :=
  let g := m.gate l
  if g.change.any fun k => decide (k.time ≤ m.todNs) then gateShow (m.setGate l (g.applied m.todNs)) l else m

/-- A change that is pending is cancelled. -/
def gateCancel (m : Mach) (l : Nat) : Mach := m.setGate l { m.gate l with change := none }

/-! ### Latency samples (R249, R250) -/

/-- A sampled queue's record; its maximum and drops begin again. -/
def sampleRecord (c : Cfg) (m : Mach) (q : Nat) : List Byte :=
  let x := m.queue q
  let l := queuePort c q
  let held := match x.head with | fd :: _ => !gateOpen c m l q fd | [] => false
  let delay := match x.head with | fd :: _ => frameAge m fd | [] => 0
  beBytes 16 (b2n (x.head = []) * 2 ^ 127 + b2n x.spill * 2 ^ 126 + b2n held * 2 ^ 125 + q * 2 ^ 108 +
    x.cells % 2 ^ 20 * 2 ^ 88 + x.pages.length % 2 ^ 24 * 2 ^ 64 + delay * 2 ^ 32 + min (x.maxDelay / 1000) 65535 * 2 ^ 16 + x.drops)

/-- The queues of a die whose `SAMPLE` is 1: those that the configuration lists. -/
def sampled (c : Cfg) (d : Nat) : List Nat :=
  (c.live.filterMap fun e => match locate e.1 with
    | some ⟨.schSubQ, i, j, k, _⟩ => if i = d && c.on schSubQSample i j k then some (d * 65536 + 4 * j + k) else none
    | _ => none)

/-- A sampler's period begins now: its `EN` was set (R249). -/
def sampleOn (c : Cfg) (m : Mach) (d : Nat) : Mach :=
  { m with sch := { m.sch with walkDue := Tbl.put 0 m.sch.walkDue d (m.up + 10_000 * c.get schSampleCfgPeriod d), walkLate := Tbl.put false m.sch.walkLate d false } }

/-- A sampler's walk, when it is due every `PERIOD` × 10 µs (R249). One that falls due while the walk before still runs is counted once, and made when that
has ended. -/
def sampleWalk (c : Cfg) (m : Mach) (d : Nat) : Mach :=
  let due := Tbl.look 0 m.sch.walkDue d
  if !c.on schSampleCfgEn d || decide (m.up < due) then m
  else if m.up < Tbl.look 0 m.sch.walkEnd d then
    if Tbl.look false m.sch.walkLate d then m
    else bump c { m with sch := { m.sch with walkLate := Tbl.put false m.sch.walkLate d true } } .schCnt d cSchSampleLate
  else
    let m : Mach := { m with sch := { m.sch with
      walkDue := Tbl.put 0 m.sch.walkDue d (due + 10_000 * c.get schSampleCfgPeriod d), walkLate := Tbl.put false m.sch.walkLate d false } }
    let qs := sampled c d
    let seq := Tbl.look 0 m.sch.seq d
    let hdr := beBytes 16 (qs.length * 2 ^ 111 + d * 2 ^ 110 + secOf m.todNs * 2 ^ 48 + nsOf m.todNs * 2 ^ 16 + seq)
    let batch := hdr ++ qs.flatMap (sampleRecord c m)
    let m := { m with sch := { m.sch with
      seq := Tbl.put 0 m.sch.seq d ((seq + 1) % 65536), walkEnd := Tbl.put 0 m.sch.walkEnd d (m.up + ceilDiv (qs.length * 32) 10) } }
    let m : Mach := qs.foldl (fun m q => m.setQueue q { m.queue q with maxDelay := 0, drops := 0 }) m
    let ring := c.get schSampleCfgRing d
    let r := m.ring ring
    let full := (bufsNeeded (r.reserved ++ r.cache) batch.length).isNone && decide (r.posted ≤ (r.reserved ++ r.cache).length)
    let m := if r.state ≠ .active || r.kind ≠ .dmp || !m.dmaOk r.owner || full then bump c m .schCnt d cSchSampleDrop else m
    writeBatch c m ring .dmp batch

end Sys2Proof.Machine
end

