-- ==== Sys2Proof/Machine/Packet.lean ====
section
/-! DEFINITION. What becomes of a packet: reasons, the punt buffer, the hand-over at enqueue and across the die link (R69-R71,
R195-R197, R30). -/
namespace Sys2Proof.Machine

/-! ### Turns (R72) -/

/-- A packet's turn is the one that drains. -/
def Mach.isOld (m : Mach) (turn : BitVec 16) : Bool := m.glb.turn = .draining && turn != m.glb.active

/-- The banks of a turn. -/
def Mach.tabs (m : Mach) (turn : BitVec 16) : TurnTabs := if m.isOld turn then m.act.old else m.act.act

/-- A configuration field in a packet's turn. -/
def Cfg.of (c : Cfg) (m : Mach) (turn : BitVec 16) (x : Fld) (i : Nat := 0) (j : Nat := 0) (k : Nat := 0) : Nat :=
  c.inTurn (m.isOld turn) x i j k

/-! ### Reasons (R69) -/

/-- The disposition of a reason on a pipeline; codes without one read as dropped, and another policy decides. -/
def reasonDisp (c : Cfg) (pipe code : Nat) : Disp :=
  match c.get pplReasonDisp pipe code with
  | 0 => .punt
  | 1 => .drop
  | _ => .cont

/-- Every raised reason is counted on its pipeline, and shown to its bank as event `0x40` + code (R445). -/
def countReason (c : Cfg) (m : Mach) (pipe code : Nat) : Mach := pmcEvent c (bump c m .pplReasonCnt pipe code) ((pmcRow .ppl).first + pipe) (0x40 + code) 1

/-! ### Cells of a packet -/

/-- The bytes of a packet's frame, without FCS. -/
def Pkt.bytes (m : Mach) (k : Pkt) : List Byte := ({ head := k.head, ct := k.ct } : FrameD).stored m |>.dropLast.dropLast.dropLast.dropLast

/-- A pipeline reads a packet's frame through checked pointers (R189): `none` where one fails, and the frame's cells are left for the tally
(notes/assumptions/109.md). -/
def readPkt (c : Cfg) (m : Mach) (k : Pkt) : Option (List Byte) × Mach :=
  match chainBad (k.pipe / 16) maxChain m k.head with
  | some p => (none, bufError c m (k.pipe / 16) .pointer k.owner (cellAddr p))
  | none => (some (k.bytes m), m)

/-- The cells of a packet's frame. -/
def Pkt.cells (m : Mach) (k : Pkt) : Nat := (chainOf maxChain m k.head).length

/-- A pipeline's next issue slots are owed: to write-backs (R137) and to sync frames (R280). -/
def oweSlots (m : Mach) (pipe n : Nat) : Mach := { m with ppl := { m.ppl with owed := Tbl.upd 0 m.ppl.owed pipe (· + n) } }

/-- Cut-through frames stand by their first cell; one that is gone before its tail stands by its port. -/
def ctGone (l : Nat) : Nat := 2 ^ 40 + l

/-- The table of cut-through frames once a packet's frame is gone: an entry stays for a tail that is still to come. -/
def ctMissing (t : Tbl CtFrame) (k : Pkt) (x : CtFrame) : Tbl CtFrame :=
  let t := Tbl.del t k.head
  if x.bad.isSome then t else Tbl.ins t (ctGone k.lport) { x with place := .gone }

/-- A packet's frame is freed by the unit that owns it, and its pipeline's ingress account relieved. A cut-through frame whose
tail is still to come is marked as gone (R49). -/
def dropPkt (c : Cfg) (m : Mach) (k : Pkt) (code : Nat := 0) : Mach :=
  let m := traceEnd c m k.trace 1 code
  let n := k.cells m
  let m := chargeIng (freeFrame c m (k.pipe / 16) k.owner (cellAddr k.head)) k.pipe (-(n : Int))
  if k.ct then { m with ppl := { m.ppl with ct := match Tbl.find m.ppl.ct k.head with
    | some x => ctMissing m.ppl.ct k x
    | none => m.ppl.ct } }
  else m

/-- The first 256 bytes of a frame are kept, in its first cell; the other cells are freed. -/
def truncFrame (c : Cfg) (m : Mach) (req p : Nat) : Mach :=
  let x := m.cell p
  if !cellAddrOk (req / 2048) (cellAddr p) then bufError c m (req / 2048) .pointer req (cellAddr p)
  else if x.eof then m else freeRest c req maxChain (m.setCell p { x with eof := true, next := 0 }) x.next

/-! ### The punt buffer (R70) -/

def Mach.punts (m : Mach) (pipe : Nat) : List Punt := Tbl.look [] m.ppl.punts pipe
def Mach.setPunts (m : Mach) (pipe : Nat) (l : List Punt) : Mach := { m with ppl := { m.ppl with punts := Tbl.put [] m.ppl.punts pipe l } }

/-- A reason's policer up to now, at the rate and depth in force. Time runs by the AUX clock. -/
def puntBucket (c : Cfg) (m : Mach) (pipe code : Nat) : Bucket :=
  (Tbl.look {} m.ppl.tokens (64 * pipe + code)).refill (8 * c.get pplReasonRate pipe code) (16 * c.get pplReasonBurst pipe code) (m.up * 65536)

/-- A write of a reason's register: what has passed accrues at the rate and depth before it, and what the new depth does not hold is lost. -/
def puntAccrue (c c' : Cfg) (m : Mach) (pipe code : Nat) : Mach :=
  let b := puntBucket c m pipe code
  let b := { b with tok := min b.tok (16 * c'.get pplReasonBurst pipe code * 2 ^ 24 : Nat) }
  { m with ppl := { m.ppl with tokens := Tbl.put {} m.ppl.tokens (64 * pipe + code) b } }

/-- A reason's policer marks a punt: green while tokens remain, of which it takes one. -/
def puntColour (c : Cfg) (m : Mach) (pipe code : Nat) : Bool × Mach :=
  let key := 64 * pipe + code
  let b := puntBucket c m pipe code
  let green := decide ((2 ^ 24 : Int) ≤ b.tok)
  let b := if green then { b with tok := b.tok - 2 ^ 24 } else b
  (green, { m with ppl := { m.ppl with tokens := Tbl.put {} m.ppl.tokens key b } })

/-- The buffer cannot take `n` more cells. -/
def puntFull (c : Cfg) (m : Mach) (pipe n : Nat) : Bool :=
  decide (4096 ≤ (m.punts pipe).length) ||
    decide (c.get tmgIngLimitPuntLimit (pipe / 16) (pipe % 16) < Tbl.look 0 m.tmg.punt pipe + n)

/-- A punt leaves the buffer unsent: counted under its reason, its cells freed. -/
def dropPunt (c : Cfg) (m : Mach) (pipe : Nat) (e : Punt) : Mach :=
  let m := chargePunt (freeFrame c m (pipe / 16) (ownPunt pipe) (cellAddr e.pkt.head)) pipe (-(e.cells : Int))
  bump c m .pplPuntDrop pipe e.code

/-- Makes room for a green punt: the most recent red entry is displaced. DESIGN CHOICE: where it is the cell account that is full and one entry is not
enough, further red entries are, most recent first (notes/assumptions/124.md). -/
def displaceRed (c : Cfg) (pipe n : Nat) : Nat → Mach → Mach
  | 0, m => m
  | fuel + 1, m =>
    if !puntFull c m pipe n then m
    else
      let l := m.punts pipe
      match l.reverse.findIdx? fun e => !e.green with
      | none => m
      | some i =>
        let j := l.length - 1 - i
        match l[j]? with
        | none => m
        | some e => displaceRed c pipe n fuel (dropPunt c (m.setPunts pipe (l.eraseIdx j)) pipe e)

/-- A packet is punted: its frame, cut to 256 bytes where the reason says so, passes to the punt buffer. One without an ingress timestamp takes the TOD
at the punt (R333). -/
def puntPkt (c : Cfg) (m : Mach) (k : Pkt) (code : Nat) : Mach :=
  let total := k.cells m
  let m := traceEnd c m k.trace 2 code
  let k := { k with trace := [] }
  let m := if c.on pplReasonTrunc k.pipe code then truncFrame c m k.owner k.head else m
  let n := k.cells m
  let (green, m) := puntColour c m k.pipe code
  let m := if green then displaceRed c k.pipe n 4096 m else m
  let m := chargeIng m k.pipe (-(total : Int))
  if puntFull c m k.pipe n then
    bump c (freeFrame c m (k.pipe / 16) k.owner (cellAddr k.head)) .pplPuntDrop k.pipe code
  else
    let m := chargePunt (handOver c m k.owner k.head (ownPunt k.pipe) 0) k.pipe n
    let k := { k with owner := ownPunt k.pipe, ts := if k.host then m.todFrac else k.ts }
    m.setPunts k.pipe (m.punts k.pipe ++ [{ code := code, pkt := k, cells := n, green := green }])

/-- A cut-through frame whose tail is still to come waits for it, with what is then to be done (R49). -/
def ctWait (m : Mach) (x : CtFrame) : Mach := { m with ppl := { m.ppl with ct := Tbl.ins m.ppl.ct x.pkt.head { x with place := .wait } } }

/-- The tail of a packet's frame is still to come; what its frame was found to be, once it has come. -/
def Mach.ctOf (m : Mach) (k : Pkt) : Option CtFrame := if k.ct then Tbl.find m.ppl.ct k.head else none
def ctOpen (m : Mach) (k : Pkt) : Bool := ((m.ctOf k).map (·.bad.isNone)).getD false
def ctBad (m : Mach) (k : Pkt) : Bool := ((m.ctOf k).bind (·.bad)).getD false

/-- The packet leaves the table of cut-through frames. -/
def ctLeave (m : Mach) (k : Pkt) : Pkt × Mach :=
  if k.ct then ({ k with ct := false }, { m with ppl := { m.ppl with ct := Tbl.del m.ppl.ct k.head } }) else (k, m)

/-- A frame that finds no room is dropped under `NO_CELL`. -/
def noCell (c : Cfg) (m : Mach) (pipe : Nat) : Mach := bump c (countReason c m pipe 0x3C) .tmgCnt (pipe / 16) cTmgNoCell

/-- A packet raises a reason: it is counted, and may select the packet for a trace (R69, R450). -/
def raiseReason (c : Cfg) (m : Mach) (k : Pkt) (code : Nat) : Pkt × Mach :=
  let m' := countReason c m k.pipe code
  (traceReasons c m m' k, m')

/-- A packet is dropped under a reason. -/
def reasonDrop (c : Cfg) (m : Mach) (k : Pkt) (code : Nat) : Mach :=
  let (k, m) := raiseReason c m k code
  dropPkt c m k code

/-- A frame that fails its FCS or ends in error is dropped (R48, R49); so is a cut-through frame that found no later cell (R193). -/
def fcsDrop (c : Cfg) (m : Mach) (k : Pkt) : Mach :=
  if ((m.ctOf k).map (·.noRoom)).getD false then
    let m' := noCell c m k.pipe
    dropPkt c m' (traceReasons c m m' k) 0x3C
  else reasonDrop c m k 0x3B

/-- A packet raises a reason that ends it (R69): punted or dropped. A packet that a policy core injected is dropped under
`PUNT_LOOP` instead of being punted again. DESIGN CHOICE: a cut-through frame that is punted or recirculated before its tail is in waits for its tail
and its FCS check, as one does at enqueue, and a bad one is dropped under `FCS_ERROR` (notes/assumptions/123.md). -/
def endWith (c : Cfg) (m : Mach) (k : Pkt) (code : Nat) (d : Disp) : Mach :=
  let (k, m) := raiseReason c m k code
  match d with
  | .punt =>
    if k.core then reasonDrop c m k 0x3E
    else if ctOpen m k then ctWait m { (m.ctOf k).getD { head := k.head } with pkt := k, punt := some code }
    else if ctBad m k then fcsDrop c m k
    else
      let (k, m) := ctLeave m k
      puntPkt c m k code
  | _ => dropPkt c m k code

/-- A copy of a frame to the host: stored anew and punted; where it finds no cell, or its account no room, it is dropped under `NO_CELL` (R153, R199).
Its length stays that of the frame. -/
def puntCopy (c : Cfg) (m : Mach) (k : Pkt) (bytes : List Byte) (code : Nat) (trunc : Bool) : Mach :=
  let b := bytes ++ [0, 0, 0, 0]
  let b := if trunc then b.take 256 else b
  let m := countReason c m k.pipe code
  match storeIngress c m k.pipe k.owner b with
  | some (p, m) => puntPkt c m { k with head := p, len := bytes.length, ct := false, trace := [] } code
  | none => noCell c (ingressFail c m k.pipe k.owner b) k.pipe

/-! ### Enqueue (R195-R197, R200, R30) -/

/-- A frame's descriptor as enqueue receives it (R196). -/
def Pkt.desc (k : Pkt) (color level : Nat) : FrameD :=
  { head := k.head, len := k.len + 4, color := color, ct := k.ct, turn := k.turn, inLport := k.lport,
    hdrs := k.hdrs, hash := k.fh % 65536, level := level, trace := k.trace }

/-- Enqueues a frame on each target of one die: how many admitted it. A refusal is counted. The frame's one trace record goes with the first copy that
is admitted (R450). -/
def enqueueAll (c : Cfg) (fd : FrameD) : List (Nat × EditRes) → Mach → Nat × Mach
  | [], m => (0, m)
  | (q, r) :: ts, m =>
    match enqueue c m q { fd with res := r, trace := tracePut fd.trace 12 3 q } with
    | some m => let (n, m) := enqueueAll c { fd with trace := [] } ts m; (n + 1, m)
    | none => enqueueAll c fd ts (countRefuse c m q { fd with res := r, trace := [] })

/-- A frame crosses to die `die`, read through checked pointers (R189): its copy is stored there and enqueued, and the cells it left are freed or released. Where the
die has too few cells no copy is made, and its targets there are counted (R30, R193). -/
def crossDie (c : Cfg) (m : Mach) (die : Nat) : Mach :=
  match m.tmg.xfer.find? fun x => dieOf x.head != die with
  | none => m
  | some x =>
    match chainBad (1 - die) maxChain m x.head with
    | some p =>
      let m := bufError c { m with tmg := { m.tmg with xfer := m.tmg.xfer.erase x } } (1 - die) .pointer (ownXfer (1 - die)) (cellAddr p)
      x.targets.foldl (fun m t => countLost c m t.1 { x.fd with res := t.2, trace := [] }) (traceEnd c m x.fd.trace 1 0)
    | none =>
    match storeFrame c m die (ownXfer die) (frameBytes m x.head) with
    | none =>
      let m := allocFail c (traceEnd c m x.fd.trace 1 0) die (ownXfer die) (cellsFor (frameBytes m x.head).length)
      let m := x.targets.foldl (fun m t => tsDropped c m t.1 { x.fd with res := t.2 }) m
      let m := bump c { m with tmg := { m.tmg with xfer := m.tmg.xfer.erase x } } .tmgCnt die cTmgNoBuffer (x := x.targets.length)
      if x.mcast then sendRelease m (ownXfer (1 - die)) x.head else freeFrame c m (1 - die) (ownXfer (1 - die)) (cellAddr x.head)
    | some (p, m) =>
      let m := { m with tmg := { m.tmg with xfer := m.tmg.xfer.erase x } }
      let src := 1 - die
      let fd := { x.fd with head := p, mcast := x.mcast }
      let m := match x.targets with
        | [(q, r)] =>
          if x.mcast then
            let (n, m) := enqueueAll c fd [(q, r)] m
            if n = 0 then freeFrame c (traceEnd c m fd.trace 1 0) die (ownXfer die) (cellAddr p) else handOver c m (ownXfer die) p (ownMcast die) n
          else match enqueue c m q { fd with res := r } with
            | some m => handOver c m (ownXfer die) p (ownDequeue (queuePort c q)) 0
            | none => freeFrame c (countRefuse c m q { fd with res := r }) die (ownXfer die) (cellAddr p)
        | ts =>
          let (n, m) := enqueueAll c { fd with mcast := true } ts m
          if n = 0 then freeFrame c (traceEnd c m fd.trace 1 0) die (ownXfer die) (cellAddr p) else handOver c m (ownXfer die) p (ownMcast die) n
      let m := if x.mcast then sendRelease m (ownXfer src) x.head else freeFrame c m src (ownXfer src) (cellAddr x.head)
      match Tbl.find m.ppl.ct x.head with
      | some e => { m with ppl := { m.ppl with ct := Tbl.ins (Tbl.del m.ppl.ct x.head) p { e with head := p } } }
      | none => m

/-- The frames that wait to cross to queue `q` are enqueued there before a frame that is handed to it now (R34). -/
def crossFirst (c : Cfg) (q : Nat) : Nat → Mach → Mach
  | 0, m => m
  | n + 1, m =>
    if m.tmg.xfer.any fun x => dieOf x.head != q / 65536 && x.targets.any (·.1 == q) then crossFirst c q n (crossDie c m (q / 65536)) else m

/-- Hands a packet's frame to its targets: a queue, the release agent or the transfer unit (R195, R197). -/
def handToQueues (c : Cfg) (m : Mach) (k : Pkt) (fd : FrameD) (targets : List (Nat × EditRes)) : Mach :=
  let die := k.pipe / 16
  let m := (targets.filter fun t => t.1 / 65536 == die).foldl (fun m t => crossFirst c t.1 m.tmg.xfer.length m) m
  let n := k.cells m
  let relieve (m : Mach) : Mach := chargeIng m k.pipe (-(n : Int))
  match targets with
  | [] => dropPkt c m k
  | [(q, r)] =>
    if q / 65536 = die then
      match enqueue c m q { fd with res := r } with
      | some m => handOver c (relieve m) k.owner k.head (ownDequeue (queuePort c q)) 0
      | none => dropPkt c (countRefuse c m q { fd with res := r }) { k with trace := [] }
    else
      let m := handOver c (relieve m) k.owner k.head (ownXfer die) 0
      { m with tmg := { m.tmg with xfer := m.tmg.xfer ++ [⟨k.head, fd, false, targets⟩] } }
  | _ =>
    let here := targets.filter fun t => t.1 / 65536 == die
    let there := targets.filter fun t => t.1 / 65536 != die
    let (admitted, m) := enqueueAll c { fd with mcast := true } here m
    let refs := admitted + b2n (there != [])
    if refs = 0 then dropPkt c m { k with trace := fd.trace }
    else
      let m := handOver c (relieve m) k.owner k.head (ownMcast die) refs
      if there = [] then m
      else { m with tmg := { m.tmg with xfer := m.tmg.xfer ++ [⟨k.head, { fd with trace := if admitted = 0 then fd.trace else [] }, true, there⟩] } }

/-- A release is taken by its die's agent (R198). -/
def takeRelease (c : Cfg) (m : Mach) (die : Nat) : Mach :=
  match m.tmg.releases.find? fun r => r.1 / 2048 == die with
  | some r => releaseCopy c { m with tmg := { m.tmg with releases := m.tmg.releases.erase r } } die r.1 r.2
  | none => m

/-! ### Mirror copies (R153) -/

/-- Copies to mirror queues of a frame that does not go to enqueue itself, or cut to 256 bytes: stored on their own. -/
def copyAlone (c : Cfg) (m : Mach) (k : Pkt) (bytes : List Byte) (q : Nat) : Mach :=
  match storeIngress c m k.pipe k.owner (bytes ++ [0, 0, 0, 0]) with
  | some (p, m) =>
    let k := { k with head := p, len := bytes.length, ct := false, trace := [] }
    handToQueues c m k { k.desc 0 0 with ct := false, trace := [] } [(q, { raw := true })]
  | none => noCell c (ingressFail c m k.pipe k.owner (bytes ++ [0, 0, 0, 0])) k.pipe

end Sys2Proof.Machine
end

