-- ==== Sys2Proof/Machine/HostIn.lean ====
section
/-! DEFINITION. Frames that enter a pipeline at its host port, local port 6: from `TXP` rings, policy cores and the exporter (R31,
R193, R199, R332). -/
namespace Sys2Proof.Machine

/-- A frame's FCS, as it follows the frame on the wire: least significant byte first (notes/assumptions/1.md). -/
def fcsOf (b : List Byte) : List Byte := leBytes 4 (crc32 b)

/-- A frame padded to 60 bytes, with its FCS. -/
def withFcs (b : List Byte) : List Byte :=
  let b := b ++ List.replicate (60 - b.length) 0
  b ++ fcsOf b

/-- The ingress account of a pipeline has no room for `n` more cells (R199). -/
def ingFull (c : Cfg) (m : Mach) (pipe n : Nat) : Bool :=
  decide (c.get tmgIngLimitIngLimit (pipe / 16) (pipe % 16) < Tbl.look 0 m.tmg.ing pipe + n)

/-- A packet stands ready at its logical port (R47). -/
def makeReady (m : Mach) (k : Pkt) : Mach := { m with ppl := { m.ppl with ready := Tbl.upd [] m.ppl.ready k.lport (· ++ [k]) } }

/-- The unit that holds the cells of a host frame: host DMA for a ring, the ingress port block for a core or the exporter. -/
def HostFrame.owner (f : HostFrame) : Nat :=
  if f.core || f.slots = [] then ownIngress f.pipe else ownHost (f.pipe / 16) f.port

/-- Host DMA writes the frame: it waits where it finds no cell, which the ingress port block does not (R193). -/
def HostFrame.dma (f : HostFrame) : Bool := f.owner != ownIngress f.pipe

/-- A host frame stored in cells, or dropped under `NO_CELL`; false where it found too few cells and waits. What it took of them is free again, its
bank pointer moved on (R193). Its descriptors complete once its bytes are in cells. -/
def hostStore (c : Cfg) (m : Mach) (f : HostFrame) : Bool × Mach :=
  let b := withFcs f.data
  if ingFull c m f.pipe (cellsFor b.length) then
    (true, f.slots.foldl (fun m s => complete c m f.ring s ⟨0, 0, []⟩) (noCell c m f.pipe))
  else
    match storeFrame c m (f.pipe / 16) f.owner b with
    | none =>
      let m := allocFail c m (f.pipe / 16) f.owner (cellsFor b.length)
      if f.dma then (false, m) else (true, noCell c m f.pipe)
    | some (p, m) =>
      let m := chargeIng m f.pipe (cellsFor b.length)
      let m := f.slots.foldl (fun m s => complete c m f.ring s ⟨0, 0, []⟩) m
      (true, makeReady m { pipe := f.pipe, lport := 8 * f.pipe + 6, metaw := f.metaw, len := b.length - 4, head := p, owner := f.owner,
                           ts := m.todFrac, host := true, core := f.core, ptp := f.ptp, ptpTag := f.ptpTag })

/-- A frame for the host port of its pipeline: stored, or waiting for cells behind those that wait already (R193). -/
def hostFrameIn (c : Cfg) (m : Mach) (f : HostFrame) : Mach :=
  let wait (m : Mach) : Mach := { m with ppl := { m.ppl with hostWait := m.ppl.hostWait ++ [f] } }
  if f.dma && m.ppl.hostWait.any (·.pipe == f.pipe) then wait m
  else match hostStore c m f with
    | (true, m) => m
    | (false, m) => wait m

/-- A retry for a pipeline's host port: the frame that waits longest (R193). -/
def hostRetry (c : Cfg) (m : Mach) (pipe : Nat) : Mach :=
  match m.ppl.hostWait.find? (·.pipe == pipe) with
  | none => m
  | some f =>
    match hostStore c { m with ppl := { m.ppl with hostWait := m.ppl.hostWait.erase f } } f with
    | (true, m) => m
    | (false, m') => { m' with ppl := { m'.ppl with hostWait := m.ppl.hostWait } }

end Sys2Proof.Machine
end

