-- ==== Sys2Proof/Machine/Cores.lean ====
section
/-! DEFINITION. Policy cores and the task scheduler (chapter 8): admission, dispatch, the work port, the release unit. -/
namespace Sys2Proof.Machine

/-! ### State access -/

def Mach.core (m : Mach) (n : Nat) : Core := Tbl.look {} m.tsk.cores n
def Mach.setCore (m : Mach) (n : Nat) (x : Core) : Mach := { m with tsk := { m.tsk with cores := Tbl.put {} m.tsk.cores n x } }
def Mach.wq (m : Mach) (q : Nat) : WQueue := Tbl.look {} m.tsk.queues q
def Mach.setWq (m : Mach) (q : Nat) (x : WQueue) : Mach := { m with tsk := { m.tsk with queues := Tbl.put {} m.tsk.queues q x } }

/-- Every item in service, with its core. -/
def Mach.inService (m : Mach) : List (Nat × InService) := m.tsk.cores.flatMap fun (n, x) => x.slots.map fun e => (n, e.2)

/-- The items of a queue in service (R268). -/
def Mach.inflight (m : Mach) (q : Nat) : Nat := (m.inService.filter fun e => e.2.item.wq == q).length

/-- Item entries in use: items queued, in service, or kept by their result (R262). -/
def Mach.itemsUsed (m : Mach) : Nat :=
  (m.tsk.queues.map fun e => e.2.items.length).sum + m.inService.length + (m.tsk.outs.filter fun b => b.last && b.out != .drop).length

/-- Free work buffers, lowest first (which one is taken is the model's choice, notes/assumptions/12.md). -/
@[irreducible] def Mach.freeBufs (m : Mach) (n : Nat) : List Nat := ((List.range 8192).filter fun b => (Tbl.find m.tsk.link b).isNone).take n

/-- The count of free work buffers. -/
def Mach.bufsFree (m : Mach) : Nat := 8192 - m.tsk.link.length

/-- Links a chain of buffers (R262). -/
def linkChain : List Nat → Tbl (Option Nat) → Tbl (Option Nat)
  | [], t => t
  | [b], t => Tbl.ins t b none
  | b :: b' :: bs, t => Tbl.ins (linkChain (b' :: bs) t) b (some b')

/-- Frees buffers. -/
def Mach.freeWork (m : Mach) (bs : List Nat) : Mach := { m with tsk := { m.tsk with link := bs.foldl Tbl.del m.tsk.link } }

/-! ### Admission (R265) -/

/-- The buffers an item needs: ⌈L ÷ 2,048⌉, and one for an age notice (R262). -/
def WItem.need (w : WItem) : Nat := if w.src = 2 then 1 else ceilDiv w.data.length 2048

/-- A queue takes items: enabled, and below its depth (R265). -/
def queueOpen (c : Cfg) (m : Mach) (q : Nat) : Bool :=
  c.on tskCtrlEnable && c.on tskWqCfgEn q && decide ((m.wq q).items.length < c.get tskWqLimitDepthMax q)

/-- Whether an item can be admitted (R265). -/
def canAdmit (c : Cfg) (m : Mach) (w : WItem) : Bool :=
  queueOpen c m w.wq && decide (m.itemsUsed < 65536) && decide (w.need ≤ m.bufsFree)

/-- Whether an item of a queue may be dispatched now (R268). -/
def dispatchable (c : Cfg) (m : Mach) (q : Nat) (w : WItem) : Bool :=
  c.get tskWqCfgMode q != 0 ||
    !((m.inService.any fun e => e.2.item.wq == q && e.2.item.tag == w.tag) ||
      (m.tsk.outs.any fun e => e.last && e.item.wq == q && e.item.tag == w.tag))

/-- The first item of a queue that may be dispatched: in `ATOMIC` mode those with a tag in service are passed over, and an
earlier item of the same tag goes first (R268). -/
def nextItem (c : Cfg) (m : Mach) (q : Nat) : Option WItem := (m.wq q).items.find? (dispatchable c m q)

/-- A queue that a core of a group may be served from (R270). -/
def servable (c : Cfg) (m : Mach) (group q : Nat) : Bool :=
  c.on tskWqCfgEn q && bit (c.get tskWqCfgGroups q) group && (nextItem c m q).isSome &&
    decide (m.inflight q < c.get tskWqLimitInflightMax q)

/-- The queue chosen for a core: highest priority, round robin among equals (R270). -/
def chooseQueue (c : Cfg) (m : Mach) (group : Nat) : Option Nat :=
  let qs := (Tbl.keys m.tsk.queues).filter (servable c m group)
  let prio := (qs.map (c.get tskWqCfgPrio ·)).foldl max 0
  let best := qs.filter fun q => c.get tskWqCfgPrio q == prio
  let after := best.filter fun q => match Tbl.find m.tsk.rr prio with | some l => l < q | none => true
  after.head?.or best.head?

/-- Armed cores for which an item is ready take their interrupt and disarm (R266). -/
def notifyReady (c : Cfg) (m : Mach) : Mach :=
  (Tbl.keys m.tsk.cores).foldl (fun m n =>
    let x := m.core n
    if x.armed && x.state = .running && (chooseQueue c m (c.get tskCoreCtrlGroup n)).isSome then
      (m.setCore n { x with armed := false, irq := true }).emit (.coreIrq n)
    else m) m

/-- An item that comes with its buffers, by a post or a forward, can be admitted: the tests of R265, its own entry and buffers being taken already. -/
def canForward (c : Cfg) (m : Mach) (w : WItem) (own : Nat := 0) : Bool :=
  queueOpen c m w.wq && decide (m.itemsUsed - own < 65536) && decide (w.need ≤ m.bufsFree + w.bufs.length)

/-- Puts an item, its buffers held, at the end of its queue. -/
def enqueueItem (c : Cfg) (m : Mach) (w : WItem) : Mach :=
  let q := m.wq w.wq
  let m := m.setWq w.wq { q with items := q.items ++ [{ w with seq := q.next, admitted := m.up }], next := q.next + 1 }
  notifyReady c (bump c m .tskCnt cTskAdmit)

/-- Admits an item: buffers and entry are taken, and it joins its queue (R262, R265). -/
def admitItem (c : Cfg) (m : Mach) (w : WItem) : Mach :=
  let bs := m.freeBufs w.need
  let m := { m with tsk := { m.tsk with link := linkChain bs m.tsk.link } }
  enqueueItem c m { w with bufs := bs }

/-! ### The release unit (R269) -/

/-- The entries of one item. -/
def sameItem (a b : WItem) : Bool := a.wq == b.wq && a.seq == b.seq

/-- An output may be released: it is the first of its item, its item's turn has come (`ORDERED`) or its `DONE` is given, an
injection's commands have completed, and a forward's queue can take it. -/
def releasable (c : Cfg) (m : Mach) (before : List OutEntry) (e : OutEntry) : Bool :=
  let first := !(before.any fun b => sameItem b.item e.item)
  let ordered := c.get tskWqCfgMode e.item.wq == 1
  let turn :=
    if ordered then ((m.wq e.item.wq).places.all fun p => decide (e.item.seq ≤ p))
    else m.tsk.outs.any fun b => b.last && sameItem b.item e.item
  let ready := match e.out with
    | .inject _ _ _ _ => e.cmds.all fun k => !(m.tsk.cmds.any fun d => d.n == k)
    | .forward q => canForward c m { e.item with wq := q } 1
    | _ => true
  first && turn && ready

/-- The first output that may be released. -/
def firstReleasable (c : Cfg) (m : Mach) : List OutEntry → List OutEntry → Option OutEntry
  | _, [] => none
  | before, e :: es => if releasable c m before e then some e else firstReleasable c m (before ++ [e]) es

/-- An item whose last output is released leaves its place; its buffers are freed unless the result kept them (R267, R268). -/
def finishItem (m : Mach) (w : WItem) (keepBufs : Bool) : Mach :=
  let q := m.wq w.wq
  let m := m.setWq w.wq { q with places := q.places.filter (· != w.seq) }
  if keepBufs then m else m.freeWork w.bufs

/-- Carries out one output. -/
def releaseOne (c : Cfg) (m : Mach) (e : OutEntry) : Mach :=
  let m := { m with tsk := { m.tsk with outs := m.tsk.outs.erase e } }
  match e.out with
  | .drop => if e.last then finishItem m e.item true else m
  | .inject pipe frame metaw chain =>
    let m := bump c (hostFrameIn c m { pipe := pipe, data := frame, metaw := metaw, core := true }) .tskCnt cTskInject
    let m := m.freeWork chain
    if e.last then finishItem m e.item false else m
  | .deliver ring frame =>
    let w := e.item
    let f : Fill := { flags := w.reason * 256, payload := frame,
                      body := rxpBody w.ts w.inLport w.pass w.pipe w.origLen w.fh w.turn (be w.user 0 2) w.tag w.user }
    let m := bump c (queueFill c m ring .rxp f) .tskCnt cTskToRing
    if e.last then finishItem m e.item false else m
  | .forward q =>
    let m := finishItem m e.item true
    enqueueItem c m { e.item with wq := q }
  | .post core w =>
    let m := { m with tsk := { m.tsk with postIn := Tbl.upd [] m.tsk.postIn core (· ++ [w]) } }
    if e.last then finishItem m e.item false else m

/-- Releases every output that may be released. -/
def releaseAll (c : Cfg) : Nat → Mach → Mach
  | 0, m => m
  | fuel + 1, m =>
    match firstReleasable c m [] m.tsk.outs with
    | some e => releaseAll c fuel (releaseOne c m e)
    | none => m

/-- The release unit can hold no further output: the store that brings one stalls (R269). A drop is no output. -/
def Mach.outsFull (m : Mach) : Bool := decide (8192 ≤ (m.tsk.outs.filter (·.out != .drop)).length)

/-- A `DONE` store with an output takes effect: the slot empties and the output, with the chain it keeps, enters the release unit. A dropped item's buffers
are freed, and its place waits for its turn (R262). -/
def doneStore (c : Cfg) (m : Mach) (core slot : Nat) (out : TOutput) (e : InService) : Mach :=
  let x := m.core core
  let chain := match out with
    | .inject _ _ _ l => l
    | _ => []
  let m := m.setCore core { x with slots := Tbl.del x.slots slot, bufs := x.bufs.filter (!chain.contains ·) }
  let m := if out = .drop then m.freeWork e.item.bufs else m
  let m := { m with tsk := { m.tsk with outs := m.tsk.outs ++ [{ out := out, core := core, item := e.item, cmds := e.cmds, last := true }] } }
  bump c m .tskCnt cTskDone

/-- The item a core has held longest. -/
def Core.oldest (x : Core) : Option InService :=
  (x.slots.map (·.2)).foldl (fun (a : Option InService) e => match a with | some b => if e.since < b.since then some e else a | none => some e) none

/-- A staged item (R261, R266): its fields, and whether every reserved field is 0. -/
def stagedItem (b : List Byte) : WItem × Bool :=
  let w0 := be b 0 4
  let w20 := be b 20 2
  ({ src := 3, reason := bits w0 17 12, wq := bits w0 11 0, tag := be b 4 4, fh := be b 8 8, origLen := be b 18 2,
     inLport := byteAt b 22, pass := bit (byteAt b 23) 7, pipe := bits (byteAt b 23) 4 0, turn := BitVec.ofNat 16 (be b 24 2),
     ts := be b 32 6 * 1_000_000_000 + be b 38 4, user := slice b 48 16 },
   bits w0 29 18 == 0 && bits (byteAt b 23) 6 5 == 0 && be b 28 4 == 0 && be b 42 6 == 0 && bits w20 15 13 ≤ 5)

/-- The chain of `n` buffers that begins at a buffer the core allocated: itself and those the core allocated after it and still holds, in that order
(DESIGN CHOICE: the spec does not say how a core's buffers come to be linked, notes/assumptions/114.md). -/
def Core.chain (x : Core) (buf n : Nat) : List Nat := (x.bufs.dropWhile (· != buf)).take n

/-- The buffers a staged item names: `NBUF` of them from `BUF` on. -/
def stagedBufs (x : Core) (staged : List Byte) : List Nat := x.chain (bits (be staged 20 2) 12 0) (bits (be staged 20 2) 15 13)

/-- A `POST_GO` takes effect: the named buffers pass to the item, linked. A post is an output of the item the core has held longest, and is released
with it (R269); a core that holds none posts at once. -/
def postStore (m : Mach) (core : Nat) (staged held : List Byte) : Mach :=
  let x := m.core core
  let bs := stagedBufs x staged
  let w := { (stagedItem staged).1 with data := held.take (be staged 16 2), bufs := bs }
  let m := m.setCore core { x with post := 3, bufs := x.bufs.filter (!bs.contains ·) }
  let m := { m with tsk := { m.tsk with link := linkChain bs m.tsk.link } }
  match x.oldest with
  | some e => { m with tsk := { m.tsk with outs := m.tsk.outs ++ [{ out := .post core w, core := core, item := e.item, last := false }] } }
  | none => { m with tsk := { m.tsk with postIn := Tbl.upd [] m.tsk.postIn core (· ++ [w]) } }

/-- A stalled core's store takes effect. -/
def resumeStore (c : Cfg) (m : Mach) (core : Nat) : Mach :=
  let x := m.core core
  let m := m.setCore core { x with stall := none }
  match x.stall with
  | some (.done slot out) =>
    match Tbl.find x.slots slot with
    | some e => doneStore c m core slot out e
    | none => m
  | some (.post staged held) => postStore m core staged held
  | none => m

/-- The stalled cores, lower first: the order in which they go on is the model's (notes/assumptions/114.md). -/
def Mach.stalled (m : Mach) : List Nat := (m.tsk.cores.filter fun e => e.2.stall.isSome).map (·.1)

/-- Releases every output that may be released; with room in the unit a stalled core goes on, and what it brings is released in turn. -/
def releaseLoop (c : Cfg) : Nat → Mach → Mach
  | 0, m => releaseAll c m.tsk.outs.length m
  | fuel + 1, m =>
    let m := releaseAll c m.tsk.outs.length m
    match m.stalled with
    | n :: _ => if m.outsFull then m else releaseLoop c fuel (resumeStore c m n)
    | [] => m

/-- Releases what `ordering` and commands allow, then looks for armed cores again: a tag may have left service. -/
def release (c : Cfg) (m : Mach) : Mach := notifyReady c (releaseLoop c m.stalled.length m)

/-! ### The core's physical map and its work port (R258, R259, R266, R267) -/

/-- What a core address names (R259). -/
inductive CoreArea
  | image (slotB : Bool) | data | bufs | links | subs | port | cmds
deriving DecidableEq, Repr

/-- A core's access. -/
inductive CoreAcc | load | store | fetch
deriving DecidableEq, Repr

/-- The physical map of R259. -/
def coreArea (a : Nat) : Option CoreArea :=
  if a < 0x400_0000 then some (.image false)
  else if a < 0x800_0000 then some (.image true)
  else if a < 0x4000_0000 then some .data
  else if a / 2 ^ 24 = 0x100 then some .bufs
  else if 0x1_1000_0000 ≤ a && a < 0x1_1000_8000 then some .links
  else if 0x2_0000_0000 ≤ a && a < 0x2_8000_0000 then some .subs
  else if a / 4096 = 0x30_0000 then some .port
  else if a / 4096 = 0x30_0010 then some .cmds
  else none

/-- The rights of an area: the slot of the core's group is read-execute, the other read-only (R259). -/
def Core.areaOk (x : Core) : CoreArea → CoreAcc → Bool
  | .image b, acc => acc = .load || (acc = .fetch && b == x.slotB)
  | .data, acc | .bufs, acc | .port, acc | .cmds, acc => acc != .fetch
  | .links, acc | .subs, acc => acc = .load

/-- The addresses an entry covers: top of range from the entry before, four bytes, or a naturally aligned power of two (RISC-V, PRESUMED). -/
def PmpEntry.covers (e : PmpEntry) (below a : Nat) : Bool :=
  let n := e.addr.toNat
  match bits e.cfg.toNat 4 3 with
  | 0 => false
  | 1 => decide (4 * below ≤ a) && decide (a < 4 * n)
  | 2 => a / 4 == n
  | _ => a / 4 / (Nat.xor n (n + 1) + 1) == n / (Nat.xor n (n + 1) + 1)

/-- Physical memory protection: the first entry that covers the address decides; in machine mode only a locked one binds, and where none covers it
machine mode is free and user mode is not, once there is an entry (RISC-V, PRESUMED). -/
def Core.pmpOk (x : Core) (acc : CoreAcc) (a : Nat) : List PmpEntry → Nat → Bool
  | [], _ => !x.user || x.pmp.isEmpty
  | e :: es, below =>
    let k := match acc with | .load => 0 | .store => 1 | .fetch => 2
    if e.covers below a then (!x.user && !e.cfg.getLsbD 7) || e.cfg.getLsbD k else x.pmpOk acc a es e.addr.toNat

/-- An access of a core is carried out; otherwise it raises a RISC-V access fault in the core (R259): outside the map, against the area's rights or the
core's protection, or a load of a discarded L2 line (R275). -/
def coreAccess (m : Mach) (core : Nat) (acc : CoreAcc) (a : Nat) : Bool :=
  let x := m.core core
  match coreArea a with
  | none => false
  | some r => x.areaOk r acc && x.pmpOk acc a x.pmp 0 &&
      !(acc != .store && r != .port && r != .cmds && m.tsk.l2Lost.contains (a / 64 % 2 ^ 19))

/-- A core carries out instructions: it runs, or is stopping (R271), and no store stalls it (R269). -/
def coreRuns (m : Mach) (n : Nat) : Bool :=
  ((m.core n).state == .running || (m.core n).state == .stopping) && (m.core n).stall.isNone

/-- A core makes an access at an offset of its work port. -/
def portOpen (m : Mach) (core : Nat) (acc : CoreAcc) (off : Nat) : Bool := coreRuns m core && coreAccess m core acc (0x3_0000_0000 + off)

/-- A core makes an access to its cluster's command queue. -/
def queueOpenTo (m : Mach) (core : Nat) : Bool := coreRuns m core && coreAccess m core .store 0x3_0001_0000

/-- A work item as its 64 bytes (R261). -/
def WItem.image (w : WItem) : List Byte :=
  beBytes 4 (w.src * 2 ^ 30 + w.reason * 2 ^ 12 + w.wq) ++ beBytes 4 w.tag ++ beBytes 8 w.fh ++ beBytes 2 w.data.length ++ beBytes 2 w.origLen ++
    beBytes 2 (w.bufs.length * 2 ^ 13 + w.bufs.headD 0) ++ beBytes 1 w.inLport ++ beBytes 1 (b2n w.pass * 2 ^ 7 + w.pipe) ++ beBytes 2 w.turn.toNat ++
    beBytes 2 (w.seq % 2 ^ 16) ++ [0, 0, 0, 0] ++ beBytes 6 (secOf w.ts) ++ beBytes 4 (nsOf w.ts) ++ List.replicate 6 0 ++
    (w.user ++ List.replicate 16 0).take 16

/-- What a core's load from its work port reads beside `GET` and `BUF_ALLOC` (R266): the item of a slot, or `POST_STATUS`. -/
def portLoad (m : Mach) (core off : Nat) : Option (List Byte) :=
  let x := m.core core
  if off = 0x448 then some (beBytes 8 x.post)
  else if 0x100 ≤ off && off < 0x200 && off % 64 = 0 then (Tbl.find x.slots (off / 64 - 4)).map (·.item.image)
  else none

/-- A store the work port ignores: `TSK_PORT_MISUSE` (R266, R275). -/
def portMisuse (c : Cfg) (m : Mach) (core : Nat) : Mach :=
  raise c (bump c m .tskCnt cTskPortMisuse) 26 1 NOTE core

/-! ### Instruction samples (R451) -/

/-- The cluster of a core (R258). -/
def clusterOf (core : Nat) : Nat := core / 8

/-- The instructions until the next sample: `N` ± `N` ÷ 16, drawn. -/
def sampleGap (c : Cfg) (m : Mach) (core : Nat) : Nat :=
  let n := c.get pmuTraceCoreN core
  n - n / 16 + (Config.random m.free).toNat % (2 * (n / 16) + 1)

/-- The 32-byte record of a sample. The cycles from issue to retire and the address are free values: the model runs no program of a core. -/
def sampleBytes (m : Mach) (core stall : Nat) : List Byte :=
  let wq := match (m.core core).oldest with
    | some e => e.item.wq
    | none => 0xFFFF
  let ns := m.todNs
  beBytes 1 core ++ beBytes 1 stall ++ beBytes 2 (Config.freeValue m.free).toNat ++ beBytes 2 wq ++ [0, 0] ++
    beBytes 8 (Config.freeValue (m.free + 1)).toNat ++ beBytes 6 (secOf ns) ++ beBytes 4 (nsOf ns) ++ List.replicate 6 0

/-- A core retires an instruction, for the reason it stalled last (R451). -/
def retire (c : Cfg) (m : Mach) (core stall : Nat) : Mach :=
  if !c.on pmuTraceCoreEn core then m
  else
    let set (m : Mach) (k : Nat) : Mach := { m with pwr := { m.pwr with sampleLeft := Tbl.ins m.pwr.sampleLeft core k } }
    let (k, m) := match Tbl.find m.pwr.sampleLeft core with
      | some k => (k, m)
      | none => (sampleGap c m core, m.draw)
    if 1 < k then set m (k - 1)
    else
      let m := traceAdd c m (32 + clusterOf core) (sampleBytes m core stall)
      let m := m.draw.draw
      (set m (sampleGap c m core)).draw

/-- A core retires `n` instructions that touch no port, each with a free stall cause. -/
def retireMany (c : Cfg) (core : Nat) : Nat → Mach → Mach
  | 0, m => m
  | n + 1, m => retireMany c core n (retire c m.draw core ((Config.freeValue m.free).toNat % 9))

/-! ### Stores and loads of the work port -/

/-- The bin of a waiting time in ns (R273). -/
def waitBin (ns : Nat) : Nat := if ns < 128 then 0 else if 2_097_152 ≤ ns then 15 else Nat.log2 (ns / 64)

/-- A core takes an item of a queue into a free slot. -/
def dispatchTo (c : Cfg) (m : Mach) (core slot q : Nat) (w : WItem) : Mach :=
  let x := m.core core
  let m := m.setCore core { x with slots := Tbl.ins x.slots slot { item := w, since := m.up } }
  let k := m.wq q
  let bin := waitBin (m.up - w.admitted)
  let m := m.setWq q { k with items := k.items.filter (fun v => v.seq != w.seq), places := k.places ++ [w.seq],
                              hist := Tbl.put 0 k.hist bin (min (Tbl.look 0 k.hist bin + 1) (2 ^ 32 - 1)) }
  let m := { m with tsk := { m.tsk with rr := Tbl.ins m.tsk.rr (c.get tskWqCfgPrio q) q } }
  bump c m .tskCnt cTskDispatch

/-- `GET` (R266, R270): 0 when no item is ready for the core or all its slots are held. -/
def workGet (c : Cfg) (m : Mach) (core : Nat) : Mach :=
  let x := m.core core
  match lowest? 4 fun s => (Tbl.find x.slots s).isNone with
  | some slot =>
    if x.state = .running then
      match chooseQueue c m (c.get tskCoreCtrlGroup core) with
      | some q =>
        match nextItem c m q with
        | some w => (dispatchTo c m core slot q w).emit (.coreLoad core (2 ^ 63 + slot))
        | none => m.emit (.coreLoad core 0)
      | none => m.emit (.coreLoad core 0)
    else m.emit (.coreLoad core 0)
  | none => m.emit (.coreLoad core 0)

/-- A `DONE` store with an output: it takes effect, or stalls the core (R269). -/
def doneWith (c : Cfg) (m : Mach) (core slot : Nat) (out : TOutput) : Mach :=
  let x := m.core core
  match Tbl.find x.slots slot with
  | none => portMisuse c m core
  | some e =>
    if m.outsFull && out != .drop then m.setCore core { x with stall := some (.done slot out) }
    else release c (doneStore c m core slot out e)

/-- `DONE`, disposition 0 drop; 4-15 are reserved (R267). -/
def workDrop (c : Cfg) (m : Mach) (core slot : Nat) (reserved : Bool) : Mach :=
  if reserved then portMisuse c m core else doneWith c m core slot .drop

/-- `DONE`, disposition 1 inject (R267). `held` is what the item's buffers, or with `NEWBUF` those of the named chain, hold as the core left them. -/
def workInject (c : Cfg) (m : Mach) (core slot : Nat) (v : Nat) (held : List Byte) : Mach :=
  let len := bits v 31 16
  let chain := if bit v 47 then (m.core core).chain (bits v 46 34) (max 1 (ceilDiv len 2048)) else []
  if bit v 47 && chain.isEmpty then portMisuse c m core
  else doneWith c m core slot (.inject (bits v 52 48) (held.take len) (bits v 15 0) chain)

/-- `DONE`, disposition 2 deliver to an `RXP` ring (R267). -/
def workDeliver (c : Cfg) (m : Mach) (core slot : Nat) (v : Nat) (held : List Byte) : Mach :=
  doneWith c m core slot (.deliver (bits v 45 32) (held.take (bits v 31 16)))

/-- `DONE`, disposition 3 forward (R267). -/
def workForward (c : Cfg) (m : Mach) (core slot : Nat) (v : Nat) : Mach := doneWith c m core slot (.forward (bits v 43 32))

/-- `ARM` (R266): an item already ready raises the interrupt at once. -/
def workArm (c : Cfg) (m : Mach) (core : Nat) (v : Nat) : Mach :=
  notifyReady c (m.setCore core { m.core core with armed := bit v 0 })

/-- `BUF_ALLOC` (R266). -/
def bufAlloc (m : Mach) (core : Nat) : Mach :=
  match m.freeBufs 1 with
  | b :: _ =>
    let x := m.core core
    let m := { m with tsk := { m.tsk with link := Tbl.ins m.tsk.link b none } }
    (m.setCore core { x with bufs := x.bufs ++ [b] }).emit (.coreLoad core b)
  | [] => m.emit (.coreLoad core 0xFFFF)

/-- `BUF_FREE` (R266): a buffer out of range or already free is misuse. -/
def bufFree (c : Cfg) (m : Mach) (core : Nat) (v : Nat) : Mach :=
  let b := bits v 12 0
  if 8192 ≤ b || (Tbl.find m.tsk.link b).isNone then portMisuse c m core
  else
    let x := m.core core
    (m.setCore core { x with bufs := x.bufs.filter (· != b) }).freeWork [b]

/-- `POST_GO` (R266): `BAD_ITEM` for a disabled queue, a reserved field that is not 0, or a buffer the core does not hold; a full release unit stalls
the core (R269). -/
def postGo (c : Cfg) (m : Mach) (core : Nat) (staged held : List Byte) : Mach :=
  let x := m.core core
  let (w, ok) := stagedItem staged
  if !ok || !c.on tskWqCfgEn w.wq || (stagedBufs x staged).length != bits (be staged 20 2) 15 13 then m.setCore core { x with post := 2 }
  else if m.outsFull then m.setCore core { x with stall := some (.post staged held) }
  else release c (postStore m core staged held)

/-! ### Core states (R271) -/

/-- The items of a core are abandoned. -/
def abandonAll (c : Cfg) (m : Mach) (core : Nat) : Mach :=
  let x := m.core core
  let m := m.setCore core { x with slots := [], armed := false, irq := false, stall := none }
  x.slots.foldl (fun m (e : Nat × InService) =>
    let w := e.2.item
    let m := m.freeWork (m.tsk.outs.flatMap fun o => match o.out with | .post _ p => if sameItem o.item w then p.bufs else [] | _ => [])
    let m := { m with tsk := { m.tsk with outs := m.tsk.outs.filter fun o => !sameItem o.item w } }
    bump c (finishItem m w false) .tskCnt cTskAbandon) m

/-- `RUN` written 1: the core leaves reset at its group's entry. -/
def coreRunStart (c : Cfg) (m : Mach) (core : Nat) : Mach :=
  let x := m.core core
  let g := c.get tskCoreCtrlGroup core
  match x.state with
  | .reset => m.setCore core { x with state := .running, slotB := c.on tskGroupCfgSlot g, entry := c.get tskGroupCfgEntry g }
  | .stopping => m.setCore core { x with state := .running }
  | _ => m

/-- `RUN` written 0: the stopping state. -/
def coreRunStop (m : Mach) (core : Nat) : Mach :=
  let x := m.core core
  if x.state = .running then m.setCore core { x with state := .stopping } else m

/-- A stopping core that holds no item is reset. -/
def coreStopped (m : Mach) (core : Nat) : Mach :=
  let x := m.core core
  if x.state = .stopping && x.slots = [] && x.stall = none then m.setCore core { x with state := .reset, armed := false, irq := false } else m

/-- `RESET` written 1: the core is reset at once; an isolated core stays so until it is restored (R400, R406). A core whose
`RUN` still reads 1 leaves reset again. -/
def coreReset (c : Cfg) (m : Mach) (core : Nat) : Mach :=
  let m := abandonAll c m core
  let x := m.core core
  let m := if x.state = .isolated then m else m.setCore core { x with state := .reset, post := 0 }
  release c (if c.on tskCoreCtrlRun core then coreRunStart c m core else m)

/-- An isolated core (R275, R400): its items are abandoned. -/
def coreIsolate (c : Cfg) (m : Mach) (core : Nat) : Mach :=
  let m := abandonAll c m core
  release c (m.setCore core { m.core core with state := .isolated })

/-- `TSK_SVC_TIMEOUT` (R275): the item has been in service longer than the limit. -/
def svcTimeout (c : Cfg) (m : Mach) (core slot : Nat) : Mach :=
  match Tbl.find (m.core core).slots slot with
  | some e =>
    let lim := c.get tskCtrlSvcTimeout
    if lim ≠ 0 && lim * 1000 < m.up - e.since then
      let m := { m with tsk := { m.tsk with svcLatch := some (core, e.item.wq) } }
      raise c (bump c m .tskCnt cTskSvcTimeout) 26 0 DEGRADED core
    else m
  | none => m

end Sys2Proof.Machine
end

