-- ==== Sys2Proof/Machine/Host.lean ====
section
/-! DEFINITION. Host ports and their rings: roles, creation and destruction, doorbells, fetches, `TXP` frames, interrupts, links and
power states (R318-R349). -/
namespace Sys2Proof.Machine

/-! ### Roles and ring kinds (R319, R323) -/

def RingKind.code : RingKind → Nat
  | .cmd => 0 | .txp => 1 | .rxp => 2 | .evt => 3 | .dmp => 4 | .trc => 5

def kindOf : Nat → Option RingKind
  | 0 => some .cmd | 1 => some .txp | 2 => some .rxp | 3 => some .evt | 4 => some .dmp | 5 => some .trc | _ => none

def RingState.code : RingState → Nat
  | .absent => 0 | .active => 1 | .draining => 2 | .error => 3

/-- A role may own rings of a kind (R319). -/
def roleOwns (role : Nat) (k : RingKind) : Bool :=
  role == 1 || role == 2 || role == 3 && (k == .evt || k == .dmp || k == .trc)

/-- The rings a port owns. -/
def ringsOf (m : Mach) (p : Nat) : List Nat := (m.hif.rings.filter fun e => e.2.state != .absent && e.2.owner == p).map (·.1)

/-! ### The prefetch cache and consumption (R338) -/

/-- Descriptors a ring may still prefetch: posted, not read yet, at most 32 in the cache. Those that a fill has reserved are no longer in it (R333). -/
def fetchRoom (m : Mach) (rid : Nat) : Nat :=
  let r := m.ring rid
  min (32 - r.cache.length) (r.posted - r.cache.length - r.reserved.length - r.consumed.length)

/-- Entries of the prefetch cache in use. -/
def prefetched (m : Mach) : Nat := m.hif.rings.foldl (fun n e => n + e.2.cache.length) 0

/-- The full cache gives up the entries of the ring idle the longest. -/
def reclaim (keep : Nat) : Nat → Mach → Mach
  | 0, m => m
  | fuel + 1, m =>
    if prefetched m ≤ 65536 then m
    else
      let idle := m.hif.rings.filter fun e => e.1 != keep && e.2.cache != []
      match idle.foldl (fun (a : Option (Nat × Nat)) e => match a with
          | some x => if e.2.usedAt < x.2 then some (e.1, e.2.usedAt) else a
          | none => some (e.1, e.2.usedAt)) none with
      | some x => reclaim keep fuel (m.setRing x.1 { m.ring x.1 with cache := [] })
      | none => m

/-- A `TXP` ring's frame waits for cells, or its item for a work queue: the ring stops (R193, R265). -/
def txpWaits (m : Mach) (rid : Nat) : Bool :=
  !(Tbl.look [] m.tsk.hostIn rid).isEmpty || m.ppl.hostWait.any fun f => f.ring == rid && f.slots != []

/-- A ring fetches: active, its port may make DMA, and nothing of it waits. -/
def mayFetch (m : Mach) (rid : Nat) : Bool :=
  let r := m.ring rid
  r.state == .active && m.dmaOk r.owner && r.kind != .evt && !txpWaits m rid

/-- Takes a descriptor out of a ring, as the next consumed one: its slot. -/
def consume (m : Mach) (rid : Nat) (e : Consumed) : Nat × Mach :=
  let r := m.ring rid
  (r.nextSlot, m.setRing rid { r with
    consumed := r.consumed ++ [{ e with slot := r.nextSlot }], nextSlot := r.nextSlot + 1, usedAt := m.up })

/-- A command as a ring's version carries it: version 1 has neither `OUT_ADDR` nor `ARG2` and `ARG3`. -/
def atVersion (q : Cmd) (ver : Nat) : Cmd := if ver = 1 then { q with outAddr := 0, arg2 := 0, arg3 := 0 } else q

/-- The command of a descriptor, without its input, which `DATA_LEN` counts; and its opcode (R328). -/
def cmdIn (d : List Byte) (ver : Nat) : Nat × Cmd × Nat :=
  let q : Cmd := { flags := BitVec.ofNat 16 (bits (be d 0 8) 47 32), ctx := BitVec.ofNat 32 (be d 4 4), dataAddr := BitVec.ofNat 64 (be d 8 8)
                   arg0 := BitVec.ofNat 32 (be d 20 4), arg1 := BitVec.ofNat 32 (be d 24 4), outLen := BitVec.ofNat 32 (be d 28 4)
                   outAddr := BitVec.ofNat 64 (be d 32 8), arg2 := BitVec.ofNat 32 (be d 40 4), arg3 := BitVec.ofNat 32 (be d 44 4) }
  (bits (be d 0 8) 62 56, atVersion q ver, be d 16 4)

/-- A consumed command: its output goes to `OUT_ADDR`, or over its input where that is 0 (R328). -/
def cmdConsumed (opc : Nat) (q : Cmd) (body : List Byte) : Consumed :=
  { slot := 0, opc := opc, ctx := q.ctx, outAddr := if q.outAddr = 0 then q.dataAddr else q.outAddr, body := body }

/-- A consumed `TXP` descriptor: it completes in place, with its own bytes and flags. -/
def txpConsumed (d : List Byte) : Consumed :=
  { slot := 0, flags := bits (be d 0 8) 47 32, opc := 0, ctx := BitVec.ofNat 32 (be d 4 4), body := d.drop 8 }

/-- The prefetched descriptors whose data the device reads now: of a `TXP` ring each one, of a `CMD` ring those up to the first without input,
which is consumed as it is carried out (DEDUCED, notes/assumptions/141.md). -/
def Ring.reads (r : Ring) : List (List Byte) :=
  match r.kind with
  | .txp => r.cache
  | .cmd => r.cache.takeWhile fun d => be d 16 4 != 0
  | _ => []

/-- Takes descriptors out of a ring in ring order: their slots. -/
def consumeAll (m : Mach) (rid : Nat) : List Consumed → List Nat × Mach
  | [] => ([], m)
  | e :: es =>
    let (s, m) := consume m rid e
    let (ss, m) := consumeAll m rid es
    (s :: ss, m)

/-- The device begins to carry out what it has read: those descriptors are consumed and their data reads go out (R338). -/
def beginReads (m : Mach) (rid : Nat) : Mach :=
  let r := m.ring rid
  let ds := r.reads
  let (ss, m) := consumeAll (m.setRing rid { r with cache := r.cache.drop ds.length }) rid
    (ds.map fun d => if r.kind = .txp then txpConsumed d else cmdConsumed (cmdIn d r.ver).1 (cmdIn d r.ver).2.1 (d.drop 8))
  m.setRing rid { m.ring rid with begun := r.begun ++ ss.zip ds }

/-! ### Frames sent by software (R332) -/

/-- The descriptors of the frame at the front: up to the first with `MORE` at 0. -/
def frameDescs : List (List Byte) → Option (List (List Byte))
  | [] => none
  | d :: ds => if bit (be d 0 8) 47 then (frameDescs ds).map (d :: ·) else some [d]

/-- How many descriptors at the front make up whole frames. -/
def wholeLen (ds : List (List Byte)) : Nat := ds.length - (ds.reverse.takeWhile fun d => bit (be d 0 8) 47).length

def completeAll (c : Cfg) (m : Mach) (rid status : Nat) (slots : List Nat) : Mach :=
  slots.foldl (fun m s => complete c m rid s ⟨status, 0, []⟩) m

/-- The bytes that the descriptors of a frame name. -/
def descsLen (ds : List (List Byte)) : Nat := (ds.map fun d => be d 12 2).sum

/-- A frame of these descriptors has no length that may be sent, so that its data is not needed (R332; a `LEN` of 0, notes/assumptions/36.md). -/
def badExtent (ds : List (List Byte)) : Bool := decide (9212 < descsLen ds) || ds.any fun d => be d 12 2 == 0

/-- The first frame that a `TXP` ring has consumed, once its data is read, enters its pipeline or becomes a work item. A `PTP` of 3 is reserved:
such a frame is not sent (notes/assumptions/36.md). -/
def txpTake (c : Cfg) (m : Mach) (rid : Nat) : Mach :=
  let r := m.ring rid
  match frameDescs (r.begun.map (·.2)) with
  | none => m
  | some ds =>
    let n := ds.length
    let first := ds.headD []
    let w := be first 0 8
    let slots := (r.begun.take n).map (·.1)
    let m' := m.setRing rid { r with begun := r.begun.drop n, got := r.got.drop n }
    if badExtent ds then completeAll c m' rid 0x0E slots
    else if bits w 46 45 = 3 then completeAll c m' rid 0x07 slots
    else if r.got.length < n then m
    else
      let data := (r.got.take n).flatten
      let pipe := bits w 44 40
      if r.toWq then
        let item : WItem := { src := 1, wq := r.wq, tag := be first 8 4, origLen := data.length + 4, user := slice first 48 16
                              data := data, ring := rid, slots := slots, ts := m.todNs }
        { m' with tsk := { m'.tsk with hostIn := Tbl.put [] m'.tsk.hostIn rid (Tbl.look [] m'.tsk.hostIn rid ++ [item]) } }
      else if !r.pipes.getLsbD pipe then completeAll c (countReason c m' pipe 0x37) rid 0x0B slots
      else hostFrameIn c m' { pipe := pipe, data := data, metaw := be first 14 2, ptp := bits w 46 45, ptpTag := be first 24 2
                              port := r.owner, ring := rid, slots := slots }

/-- A frame of a `TXP` ring is admitted, unless an earlier one waits. -/
def txpAdmit (c : Cfg) (m : Mach) (rid : Nat) : Mach := if (m.ring rid).kind ≠ .txp || txpWaits m rid then m else txpTake c m rid

/-! ### The end of a ring (R324, R326, R348) -/

/-- What waited to be written into a ring finds no posted buffer; held events find no ring. -/
def dropWaiting (c : Cfg) (m : Mach) (rid : Nat) : Mach :=
  let r := m.ring rid
  let m := r.fills.foldl (fun m f => dropFill c m rid f) m
  let m := r.heldEvts.foldl (fun (m : Mach) _ => bump c m .hifCnt m.primary cHifEvtNoroute) m
  m.setRing rid { m.ring rid with fills := [], reserved := [], cache := [], stale := 0, heldEvts := [], summary := none }

/-- The descriptors consumed of a frame whose end was never read complete as `ABORTED` when fetching stops (DESIGN CHOICE, notes/assumptions/115.md). -/
def abortPart (c : Cfg) (m : Mach) (rid : Nat) : Mach :=
  let r := m.ring rid
  if r.kind ≠ .txp then m
  else
    let n := wholeLen (r.begun.map (·.2))
    completeAll c (m.setRing rid { r with begun := r.begun.take n, got := r.got.take n }) rid 0x10 ((r.begun.drop n).map (·.1))

/-- An admin ring that ends clears its `EN`. -/
def clearAdmin (m : Mach) (rid : Nat) : Mach := if rid < 4 then m.setSt hifAdminCfgEn 0 rid else m

/-- Destroys a ring as R326 lays down: fetching stops, consumed descriptors complete, and the ring is then absent. `by'` is the
ring and slot of the command that waits for that. -/
def ringDestroy (c : Cfg) (m : Mach) (rid : Nat) (by' : Option (Nat × Nat)) : Mach :=
  if (m.ring rid).state = .absent then m
  else
    let m := abortPart c (dropWaiting c (clearAdmin m rid) rid) rid
    let r := m.ring rid
    flushRing c (m.setRing rid { r with state := .draining, destroyBy := by'.or r.destroyBy }) rid

/-- The consumed frames of a `TXP` ring whose data is read are carried out although the ring ends. -/
def lastFrames (c : Cfg) (rid : Nat) : Nat → Mach → Mach
  | 0, m => m
  | n + 1, m => lastFrames c rid n (if (m.ring rid).kind = .txp then txpTake c m rid else m)

/-- A ring lost with its port: what is consumed is carried out as far as its data has been read, completions discarded (R348,
notes/assumptions/141.md). -/
def ringLost (c : Cfg) (m : Mach) (rid : Nat) : Mach :=
  let m := dropWaiting c (clearAdmin m rid) rid
  let m := m.setRing rid { m.ring rid with state := .absent }
  let m := lastFrames c rid (m.ring rid).begun.length m
  let r := m.ring rid
  let m := m.setRing rid r.gone
  match r.destroyBy with
  | some (rid', slot') => complete c m rid' slot' ⟨0, 0, []⟩
  | none => m

/-- A `RING_ERROR` event (R334). -/
def ringError (c : Cfg) (m : Mach) (rid cause addr : Nat) : Mach :=
  postEvent c m { type := 0x0C, bodies := [beBytes 2 rid ++ beBytes 1 cause ++ [0] ++ beBytes 8 addr] }

/-- A port's rings end with it. The address of the event is left open (notes/assumptions/35.md): a free value. -/
def portLoss (c : Cfg) (m : Mach) (p : Nat) : Mach :=
  let rs := ringsOf m p
  let m := rs.foldl (ringLost c) m
  rs.foldl (fun (m : Mach) rid => ringError c m.draw rid 2 (Config.freeValue m.free).toNat) m

/-! ### Rings created (R324, R325) -/

/-- A version of a ring's descriptors that its kind and `GLB_CAPS` support (R323, R347). -/
def verOk (k : RingKind) (v : Nat) : Bool := v == 2 || v == 1 && (k == .cmd || k == .txp || k == .rxp)

/-- The admin ring of a port, as the registers in `c` give it (R324): `ERR` 1 for the version, 2 for size or base. -/
def adminEnable (c : Cfg) (m : Mach) (p : Nat) : Mach :=
  let ver := c.get hifAdminCfgVer p
  let log2 := c.get hifAdminCfgLog2 p
  let err (n : Nat) : Mach := (m.setPort p { m.port p with adminErr := n }).setSt hifAdminCfgEn 0 p
  if !verOk .cmd ver then err 1
  else if log2 < 6 || 16 < log2 then err 2
  else
    let m := (m.setPort p { m.port p with adminErr := 0 }).setSt hifAdminCfgEn 1 p
    if (m.ring p).state ≠ .absent then m
    else m.setRing p { state := .active, kind := .cmd, ver := ver, log2 := log2, owner := p, admin := true
                       base := BitVec.ofNat 64 (c.get hifAdminBaseHiBase p * 2 ^ 32 + c.get hifAdminBaseLoBase p * 4096)
                       irqEn := c.on hifAdminCfgIrqEn p, vector := c.get hifAdminCfgVector p, armed := c.on hifAdminCfgIrqEn p
                       nextSlot := (m.ring p).nextSlot }

/-- The ring a context of 64 bytes describes, if it is in order (R325). -/
def ringContext (b : List Byte) (k : RingKind) : Option Ring :=
  let log2 := byteAt b 10
  let fl := byteAt b 11
  let wq := be b 18 2
  let pipes := be b 20 4
  let reserved := (slice b 32 32).all (· == 0) && bits fl 5 0 == 0 && be b 0 8 % 4096 == 0 && be b 24 8 % 8 == 0 &&
    (if k = .txp then bits wq 14 12 == 0 else wq == 0 && pipes == 0)
  if !reserved || log2 < 6 || 16 < log2 || 2047 < be b 12 2 || be b 16 2 < 1 || 1000 < be b 16 2 then none
  else if k = .txp && !bit wq 15 && pipes = 0 then none
  else some { state := .active, kind := k, ver := byteAt b 9, log2 := log2, base := BitVec.ofNat 64 (be b 0 8)
              polled := bit fl 7, irqEn := bit fl 6, armed := bit fl 6, vector := be b 12 2, modCount := be b 14 2
              modTime := be b 16 2, toWq := bit wq 15, wq := bits wq 11 0, pipes := BitVec.ofNat 32 pipes
              tailAddr := BitVec.ofNat 64 (be b 24 8) }

/-- `RING_CREATE` for port `p`: the status, in the rule's order. -/
def ringCreate (m : Mach) (p rid : Nat) (b : List Byte) : Nat × Mach :=
  if (m.ring rid).state ≠ .absent then (0x01, m)
  else match kindOf (byteAt b 8) with
    | none => (0x07, m)
    | some k =>
      if !verOk k (byteAt b 9) then (0x0C, m)
      else if !roleOwns (m.role p) k || rid < 4 then (0x0B, m)
      else match ringContext b k with
        | none => (0x07, m)
        | some r => (0x00, m.setRing rid { r with owner := p, nextSlot := (m.ring rid).nextSlot, polledAt := m.up })

/-- The 16 bytes of `RING_QUERY` (R326). An absent ring shows zeros. -/
def ringQuery (m : Mach) (rid : Nat) : List Byte :=
  let r := m.ring rid
  if r.state = .absent then List.replicate 16 0
  else
    let drops := match r.kind with | .rxp | .dmp | .trc => r.drops | _ => 0
    beBytes 1 r.state.code ++ beBytes 1 r.kind.code ++ beBytes 1 r.ver ++ beBytes 1 r.log2 ++ beBytes 2 r.head ++ beBytes 2 r.tail ++
      beBytes 1 (b2n r.phase * 128 + b2n r.armed * 64 + r.owner) ++ [0, 0, 0] ++ beBytes 4 drops

/-! ### Doorbells (R335-R338, R343) -/

/-- `INVAL`: every unconsumed prefetched descriptor of the ring is discarded, and so is what a fetch in flight returns (R338). A fetch is in flight
while the ring may fetch and has room (DEDUCED, notes/assumptions/141.md). -/
def discardPrefetched (m : Mach) (rid : Nat) (inFlight : Bool) : Mach :=
  m.setRing rid { m.ring rid with cache := [], reserved := [], stale := (m.ring rid).stale + b2n inFlight }

/-- What a doorbell's `TAIL` and bits do to a ring that takes it. -/
def doorbellTake (c : Cfg) (m : Mach) (rid v : Nat) : Mach :=
  let inFlight := mayFetch m rid && decide (0 < fetchRoom m rid)
  let m := m.setRing rid { m.ring rid with tail := bits v 15 0 }
  let m := if bit v 16 then discardPrefetched m rid inFlight else m
  let m := if bit v 17 && (m.ring rid).irqEn then checkCount c (m.setRing rid { m.ring rid with armed := true }) rid else m
  match (m.ring rid).kind with
  | .evt => drainEvents c (m.flt.held.length + (m.ring rid).heldEvts.length + 1) m rid
  | _ => serveFills c ((m.ring rid).fills.length) m rid

/-- A doorbell or tail record for a ring, counted for port `p` where it is discarded (R335). A ring in error takes none (R349). -/
def doorbellFor (c : Cfg) (m : Mach) (p rid v : Nat) : Mach :=
  let r := m.ring rid
  let bad : Mach := bump c m .hifCnt p cHifDbBad
  match r.state with
  | .absent | .draining => bad
  | .error => m
  | .active =>
    if r.size ≤ bits v 15 0 then bad
    else if (bits v 15 0 + r.size - r.head) % r.size < r.posted then bad
    else doorbellTake c m rid v

/-- A write of `len` bytes to byte `off` of BAR2 of port `p` (R335). -/
def doorbellWrite (c : Cfg) (m : Mach) (p off len v : Nat) : Mach :=
  let rid := off / 4096 % 16384
  let r := m.ring rid
  if off % 4096 ≠ 0 || !(len = 8 || len = 4) then bump c m .hifCnt p cHifDbBad
  else if r.state ≠ .absent && r.owner ≠ p then bump c m .hifCnt p cHifDbForeign
  else doorbellFor c m p rid (if len = 4 then v % 2 ^ 32 else v)

/-- The tail record of a polled ring is read, `HIF_POLL_PERIOD` after the last read at the earliest (R337). -/
def pollTail (c : Cfg) (m : Mach) (rid v : Nat) : Mach :=
  let r := m.ring rid
  if r.state = .active && r.polled && m.dmaOk r.owner && decide (r.polledAt + 100 * c.get hifPollPeriodPeriod ≤ m.up) then
    doorbellFor c (m.setRing rid { r with polledAt := m.up }) r.owner rid v
  else m

/-! ### Fetches (R338, R349) -/

/-- A read on a ring fails: the ring is in error, unless it is draining already (R349). -/
def dmaError (c : Cfg) (m : Mach) (rid addr : Nat) : Mach :=
  let r := m.ring rid
  let m := m.setRing rid { r with state := if r.state = .draining then .draining else .error, cache := [], stale := 0, reserved := [] }
  let m := if rid < 4 then m.setPort rid { m.port rid with adminErr := 3 } else m
  let m := serveFills c r.fills.length m rid
  let m := ringError c (bump c m .hifCnt r.owner cHifDmaError) rid 1 addr
  raise c m 27 r.owner DEGRADED rid

/-- A fetch returns, oldest descriptor first: they enter the cache, the device begins on them, and what waited for buffers goes on. One that was
in flight at an `INVAL` is discarded. -/
def fetchDone (c : Cfg) (m : Mach) (rid : Nat) (ds : Option (List (List Byte))) : Mach :=
  let r := m.ring rid
  if 0 < r.stale && ds.isSome then m.setRing rid { r with stale := r.stale - 1 }
  else if !mayFetch m rid || fetchRoom m rid = 0 then m
  else match ds with
    | none =>
      let at' := (r.head + r.consumed.length + r.reserved.length + r.cache.length) % r.size
      dmaError c m rid (r.base.toNat + at' * r.descBytes)
    | some ds =>
      let new := (ds.take (fetchRoom m rid)).map fun d => padTo' r.descBytes d
      let m := m.setRing rid { r with cache := r.cache ++ new, usedAt := m.up }
      let m := beginReads (reclaim rid m.hif.rings.length m) rid
      serveFills c ((m.ring rid).fills.length) m rid
where
  /-- a descriptor of its version's size -/
  padTo' (n : Nat) (d : List Byte) : List Byte := (d ++ List.replicate (n - d.length) 0).take n

/-- The data of a frame cannot be read: the frame's descriptors complete with `DMA_ERROR` (R349). -/
def txpFail (c : Cfg) (m : Mach) (rid addr : Nat) : Mach :=
  let r := m.ring rid
  let ds := r.begun.map (·.2)
  let n := wholeLen (ds.take r.got.length)
  let k := ((frameDescs (ds.drop n)).getD (ds.drop n)).length
  completeAll c (dmaError c (m.setRing rid { r with begun := r.begun.take n ++ r.begun.drop (n + k), got := r.got.take n }) rid addr) rid 0x0F
    (((r.begun.drop n).take k).map (·.1))

/-- Frame data read for the next descriptor of a `TXP` ring (R349). -/
def txpData (c : Cfg) (m : Mach) (rid : Nat) (b : Option (List Byte)) : Mach :=
  let r := m.ring rid
  match (r.begun.drop r.got.length).head? with
  | none => m
  | some (_, d) =>
    match b with
    | some b => if b.length = be d 12 2 then m.setRing rid { r with got := r.got ++ [b] } else m
    | none => txpFail c m rid (be d 16 8)

/-! ### Interrupts, links, power (R320, R343-R348) -/

/-- `MOD_TIME` has passed since the first unsignalled write. -/
def modExpiry (c : Cfg) (m : Mach) (rid : Nat) : Mach :=
  let r := m.ring rid
  match r.firstAt with
  | some t => if r.irqEn && r.armed && 0 < r.unsig && !r.irqDue && t + 1000 * r.modTime ≤ m.up then dueIrq c m rid else m
  | none => m

/-- The interrupts of a port that wait are sent, once it may make DMA; one that fell due in D3hot has sent its PME then (R345). -/
def sendDue (c : Cfg) (m : Mach) (p : Nat) : Mach :=
  if !m.dmaOk p then m
  else (ringsOf m p).foldl (fun (m : Mach) rid =>
    if (m.ring rid).irqDue then dueIrq c (m.setRing rid { m.ring rid with irqDue := false }) rid else m) m

/-- A `MOD_TIME` timer of an armed ring of a port expires within 20 µs. -/
def timerNear (m : Mach) (p : Nat) : Bool :=
  (ringsOf m p).any fun rid =>
    let r := m.ring rid
    r.irqEn && r.armed && decide (0 < r.unsig) && (match r.firstAt with | some t => decide (t + 1000 * r.modTime ≤ m.up + 20_000) | none => false)

/-- The link enters an L1 state (R318, R344, R346). -/
def linkL1 (c : Cfg) (m : Mach) (p : Nat) (l : LinkL) : Mach :=
  let x := m.port p
  if !x.linkUp || l = .l0 then m
  else m.setPort p { x with link := l, leaving := l = .l12 && c.fuse.rev = .b0 && timerNear m p }

/-- The device begins to leave L1.2, 20 µs ahead of a timer (R344). -/
def l1Exit (c : Cfg) (m : Mach) (p : Nat) : Mach :=
  let x := m.port p
  if x.link = .l12 && c.fuse.rev = .b0 && timerNear m p then m.setPort p { x with leaving := true } else m

/-- The link is in L0 again. -/
def linkL0 (c : Cfg) (m : Mach) (p : Nat) : Mach :=
  if (m.port p).link = .l0 then m else sendDue c (m.setPort p { m.port p with link := .l0, leaving := false }) p

/-- The work of a port goes on: completions, events, fills and interrupts (R345). -/
def portResume (c : Cfg) (m : Mach) (p : Nat) : Mach :=
  if !m.dmaOk p then m
  else
    let m := (ringsOf m p).foldl (fun (m : Mach) rid =>
      let m := flushRing c m rid
      match (m.ring rid).kind with
      | .evt => drainEvents c (m.flt.held.length + (m.ring rid).heldEvts.length + 1) m rid
      | _ => serveFills c ((m.ring rid).fills.length) m rid) m
    sendAllPending c (sendDue c m p) p

/-- The function's power state, Bus Master Enable, and MSI-X Enable and Function Mask change (R318, R345). -/
def powerState (c : Cfg) (m : Mach) (p : Nat) (d3 bme : Bool) (pme : PmeWrite) (msix : MsixWrite) : Mach :=
  let x := m.port p
  portResume c (m.setPort p { x with
    d3 := d3, bme := bme, pmeEn := pme.en, pmeStatus := x.pmeStatus && !pme.clear, msixEn := msix.enable, msixMask := msix.mask }) p

/-- A port's link is up, and its configuration space answers (R320). -/
def linkUp (c : Cfg) (m : Mach) (p : Nat) : Mach :=
  let m := m.setPort p { m.port p with linkUp := true, link := .l0, leaving := false, lostAt := none }
  portResume c m p

/-- A port's link goes down (R348). -/
def linkDown (c : Cfg) (m : Mach) (p : Nat) : Mach :=
  let x := m.port p
  let m := m.setPort p { x with linkUp := false, link := .l0, leaving := false, lostAt := x.lostAt.or (some m.up) }
  portLoss c m p

/-- A function is reset (R348): its configuration space returns to reset. A hot reset takes the link down as well. -/
def functionReset (c : Cfg) (m : Mach) (p : Nat) (hot : Bool) : Mach :=
  let m := if hot then linkDown c m p else portLoss c m p
  let x := m.port p
  m.setPort p { x with bme := false, d3 := false, pmeEn := false, pmeStatus := false, msixEn := false, msixMask := false }

/-- The rings that a port's role no longer permits are destroyed (R320). The admin ring stays while the role permits commands. -/
def roleChanged (c : Cfg) (m : Mach) : Mach :=
  (List.range 4).foldl (fun m p =>
    (ringsOf m p).foldl (fun m rid =>
      let r := m.ring rid
      if roleOwns (m.role p) r.kind || r.admin && m.role p ≠ 0 then m else ringDestroy c m rid none) m) m

/-- The primary has been lost for 100 ms (R320). -/
def primaryMove (c : Cfg) (m : Mach) : Mach :=
  match (m.port m.primary).lostAt with
  | none => m
  | some t =>
    if m.up < t + 100_000_000 then m
    else match lowest? 4 fun p => p != m.primary && m.role p == 1 && (m.port p).linkUp with
      | none => m
      | some p =>
        -- the port that was primary has the role its field gives it
        let m := roleChanged c (m.setSt hifPortRolePrimary p)
        raise c m 27 p NOTE

/-- A frame waiting for the buffers of a ring is written, or dropped for want of them (R333). -/
def bufferDeliver (c : Cfg) (m : Mach) (rid : Nat) : Mach := serveFills c ((m.ring rid).fills.length) m rid

end Sys2Proof.Machine
end

