-- ==== Sys2Proof/Machine/Admit.lean ====
section
/-! DEFINITION. Punts leave their buffers for rings and work queues, and items are admitted from their sources (R263-R265). -/
namespace Sys2Proof.Machine

/-! ### The items of punts (R261, R263) -/

/-- The IPv6 fragment header of a level: the extension header that its predecessor names by 44. -/
def fragHdr (f : List Byte) : Hdr → List Hdr → Option Hdr
  | _, [] => none
  | p, h :: hs =>
    if h.cls = 6 && byteAt f (if p.cls = 5 then p.off + 6 else p.off) = 44 then some h else fragHdr f h hs

/-- The tag of a fragment: CRC-32C over addresses, protocol and identification. The protocol of an IPv6 fragment is the one its fragment header names,
which every fragment of a datagram carries alike. -/
def fragTag (h : HdrMap) (f : List Byte) (l : Nat) : Nat :=
  match h.l3 l with
  | some x =>
    let v6 := x.cls == 5
    let n := if v6 then 16 else 4
    let y := fragHdr f x ((h.at l).filter (·.cls = 6))
    let ident := if v6 then (y.map fun y => be f (y.off + 4) 4).getD 0 else be f (x.off + 4) 2
    let proto := if v6 then (y.map fun y => byteAt f y.off).getD (h.proto f l) else h.proto f l
    crc32c (beBytes n (srcOf3 f x) ++ beBytes n (dstOf3 f x) ++ beBytes 1 proto ++ beBytes 4 ident)
  | none => 0

/-- The flow tag of a punt. -/
def puntTag (f : List Byte) (e : Punt) : Nat :=
  if e.code = 4 || e.code = 5 then fragTag e.pkt.hdrs f (e.pkt.hdrs.levelOf e.pkt.cls.keyLevel)
  else if e.pkt.key.isSome then e.pkt.fh % 2 ^ 32
  else e.pkt.lport

/-- A punted frame's kept bytes: cut to 256 where its reason says so (R70). -/
def puntBytes (m : Mach) (e : Punt) : List Byte := (frameBytes m e.pkt.head).take e.pkt.len

/-- The work item of a punt for a queue: its time that of its arrival, or of its admission where it has none (R261). -/
def puntItem (m : Mach) (wq : Nat) (e : Punt) : WItem :=
  let f := puntBytes m e
  { src := 0, reason := e.code, wq := wq, tag := puntTag f e, fh := if e.pkt.key.isSome then e.pkt.fh else 0, origLen := e.pkt.len + 4
    inLport := e.pkt.lport, pass := e.pkt.pass, pipe := e.pkt.pipe, turn := e.pkt.turn, ts := if e.pkt.host then m.todNs else e.pkt.ts / 65536
    user := beBytes 2 e.pkt.metaw ++ List.replicate 14 0, data := f }

/-- Where a reason's punts go: a ring or a queue (R264). -/
inductive PuntTo
  | ring (n : Nat)
  | queue (n : Nat)
deriving DecidableEq, Repr

def puntTo (c : Cfg) (pipe code : Nat) : PuntTo :=
  let t := c.get tskPuntRouteTarget code + (if c.on tskPuntRouteSpread code then pipe else 0)
  if c.on tskPuntRouteToRing code then .ring t else .queue t

/-- A work queue that a punt finds disabled or absent. -/
def noQueue (c : Cfg) (q : Nat) : Bool := decide (4096 ≤ q) || !c.on tskWqCfgEn q

/-- A punt's cells are freed as it leaves its buffer. -/
def puntLeave (c : Cfg) (m : Mach) (pipe : Nat) (e : Punt) : Mach :=
  let m := m.setPunts pipe ((m.punts pipe).erase e)
  chargePunt (freeFrame c m (pipe / 16) (ownPunt pipe) (cellAddr e.pkt.head)) pipe (-(e.cells : Int))

/-- A punt can leave now. -/
def puntMoves (c : Cfg) (m : Mach) (pipe : Nat) (e : Punt) : Bool :=
  match puntTo c pipe e.code with
  | .ring _ => true
  | .queue q => noQueue c q || canAdmit c m (puntItem m q e)

/-- The first punt of a buffer that may leave: an entry waits behind an earlier one of its target (R265). -/
def nextPunt (c : Cfg) (m : Mach) (pipe : Nat) (ok : PuntTo → Bool) : List PuntTo → List Punt → Option Punt
  | _, [] => none
  | held, e :: es =>
    let t := puntTo c pipe e.code
    if held.contains t then nextPunt c m pipe ok held es
    else if !puntMoves c m pipe e then nextPunt c m pipe ok (t :: held) es
    else if ok t then some e
    else nextPunt c m pipe ok (t :: held) es

/-- A punt leaves for its target. -/
def sendPunt (c : Cfg) (m : Mach) (pipe : Nat) (e : Punt) : Mach :=
  match puntTo c pipe e.code with
  | .ring rid =>
    let w := puntItem m 0 e
    let trunc := decide (w.data.length < e.pkt.len)
    let f : Fill := { flags := b2n trunc * 2 ^ 14 + e.code * 256, payload := w.data, punt := some (pipe, e.code)
                      body := rxpBody (e.pkt.ts / 65536) w.inLport w.pass w.pipe w.origLen w.fh w.turn e.pkt.metaw w.tag [] }
    let m := queueFill c (puntLeave c m pipe e) rid .rxp f
    serveFills c ((m.ring rid).fills.length) m rid
  | .queue q =>
    if noQueue c q then bump c (puntLeave c m pipe e) .tskCnt cTskNoQueue
    else
      let w := puntItem m q e
      admitItem c (puntLeave c m pipe e) w

/-- A punt is taken from a buffer and routed (R264). -/
def puntTransfer (c : Cfg) (m : Mach) (pipe : Nat) : Mach :=
  match nextPunt c m pipe (fun _ => true) [] (m.punts pipe) with
  | some e => sendPunt c m pipe e
  | none => m

/-! ### Admission from the sources (R265) -/

/-- An item of a source is admitted, or stays there. -/
def admitFrom (c : Cfg) (m : Mach) : WorkSrc → Mach
  | .punt pipe =>
    match nextPunt c m pipe (fun t => match t with | .queue _ => true | .ring _ => false) [] (m.punts pipe) with
    | some e => sendPunt c m pipe e
    | none => m
  | .host ring =>
    match Tbl.look [] m.tsk.hostIn ring with
    | w :: ws =>
      if canAdmit c m w then
        let m := admitItem c { m with tsk := { m.tsk with hostIn := Tbl.put [] m.tsk.hostIn ring ws } } { w with ts := m.todNs }
        completeAll c m w.ring 0x00 w.slots
      else m
    | [] => m
  | .age =>
    match m.tsk.ageIn with
    | w :: ws => if canAdmit c m w then admitItem c { m with tsk := { m.tsk with ageIn := ws } } { w with ts := m.todNs } else m
    | [] => m
  | .post core =>
    match Tbl.look [] m.tsk.postIn core with
    | w :: ws =>
      let m := { m with tsk := { m.tsk with postIn := Tbl.put [] m.tsk.postIn core ws } }
      if canForward c m w then
        let m := enqueueItem c m w
        m.setCore core { m.core core with post := 0 }
      else
        let x := m.core core
        bump c (m.setCore core { x with post := 1, bufs := x.bufs ++ w.bufs }) .tskCnt cTskPostFull
    | [] => m

/-- A source is held by a queue that cannot admit: its clocks are counted (R265). -/
def sourcesHeld (c : Cfg) (m : Mach) : Nat :=
  (m.tsk.hostIn.filter fun e => match e.2 with | w :: _ => !canAdmit c m w | [] => false).length +
    (match m.tsk.ageIn with | w :: _ => b2n (!canAdmit c m w) | [] => 0) +
    (m.ppl.punts.filter fun e => e.2.any fun p => !puntMoves c m e.1 p).length

end Sys2Proof.Machine
end

