-- ==== Sys2Proof/Machine/Action.lean ====
section
/-! DEFINITION. The action engine (R122-R153) and the policers it shares with the ingress policer stage (R231-R233). -/
namespace Sys2Proof.Machine

/-- A table entry whose error has not been repaired (R395), or whose next check an injection makes fail (R403): source, which table of the
source, entry. -/
def Mach.bad (m : Mach) (src which entry : Nat) : Bool :=
  m.flt.badEntries.contains (src + 1024 * which, entry) || m.flt.badOnce.contains (src + 1024 * which, entry)

/-- Entries of a source's table have been read: what an injection made of that check is over (R403). -/
def Mach.met (m : Mach) (src which : Nat) (entries : List Nat) : Mach :=
  { m with flt := { m.flt with badOnce := m.flt.badOnce.filter fun e => !(e.1 == src + 1024 * which && entries.contains e.2) } }

/-! ### Policers -/

/-- Fields of a policer entry (R231). -/
def polValid (e : Nat) : Bool := bit e 127
def polRedDrop (e : Nat) : Bool := bit e 126
def polCir (e : Nat) : Nat := bits e 125 96
def polPir (e : Nat) : Nat := bits e 93 64
def polCbs (e : Nat) : Nat := bits e 55 32
def polPbs (e : Nat) : Nat := bits e 23 0

/-- A policer entry that `POLICER_SET` takes. -/
def polOk (e : Nat) : Bool :=
  bits e 95 94 = 0 && bits e 63 56 = 0 && bits e 31 24 = 0 && decide (polCir e ≤ polPir e) && decide (64 ≤ polCbs e) && decide (64 ≤ polPbs e)

def Mach.policer (m : Mach) (die n : Nat) : Policer := Tbl.look {} m.fwd.policer (65536 * die + n)

/-- A policer's entry as the meter sees it: invalid while its error stands. -/
def Mach.polEntry (m : Mach) (die n : Nat) : Nat := if m.bad (srcOf 10 (4 * die + 3)) 0 n then 0 else (m.policer die n).entry

/-- Meters a frame of `b` bytes by RFC 2698 (R232): the colour, and the policer moved on. Colours: 0 none, 1 green, 2 yellow, 3 red. -/
def meter (m : Mach) (die n b colour : Nat) (aware : Bool) : Nat × Mach :=
  let x := m.policer die n
  let e := m.polEntry die n
  let m := m.met (srcOf 10 (4 * die + 3)) 0 [n]
  if !polValid e then (colour, m)
  else
    let c := x.c.refill (polCir e) (polCbs e) m.todFrac
    let p := x.p.refill (polPir e) (polPbs e) m.todFrac
    let need : Int := (b : Int) * 2 ^ 24
    let incoming := if aware then colour else 0
    let out := if incoming = 3 || decide (p.tok < need) then 3 else if incoming = 2 || decide (c.tok < need) then 2 else 1
    let p := if out = 3 then p else { p with tok := p.tok - need }
    let c := if out = 1 then { c with tok := c.tok - need } else c
    let cnt := x.cnt.mapIdx fun i v => if i + 1 = out then (v.1 + 1, v.2 + b) else v
    (out, { m with fwd := { m.fwd with policer := Tbl.put {} m.fwd.policer (65536 * die + n) { x with c := c, p := p, cnt := cnt } } })

/-! ### Working state (R127) -/

/-- How a program ended a packet (R130). -/
inductive ActEnd
  | drop
  | reason (code : Nat) (d : Disp)
  | recirc
deriving DecidableEq, Repr

/-- An `ENCAP` carried out: template, and what replaces its fields. -/
structure Encap where
  tmpl : Nat
  vni : Option Nat
  odst : Option Nat
deriving DecidableEq, Repr

/-- A packet's working state. `fld` holds the packet fields written, by selector. -/
structure Work where
  flags : Nat := 0
  scr0 : Nat := 0
  scr1 : Nat := 0
  fld : Tbl Nat := []
  tstate : Nat := 0
  param : List Byte := []
  track : Track := {}
  colour : Nat := 0
  /-- the first stage whose micro-operations are enabled again -/
  skip : Nat := 0
  decap : Nat := 0
  nat64 : Nat := 0
  xaddr : Nat := 0
  encap : Option Encap := none
  queue : Option (Nat × Nat) := none
  copies : List (Nat × Bool) := []
  wbT : Bool := false
  wbP : Nat := 0
  wbTrack : Bool := false
  expSet : Bool := false
  expNow : Bool := false
  ended : Option ActEnd := none
deriving DecidableEq, Repr

/-- What a program runs on: the packet, its frame without FCS, the level of its flow key, its record and how it came (R129). -/
structure ActIn where
  k : Pkt
  f : List Byte
  level : Nat
  snap : Option Rec
  outcome : Nat

namespace ActIn

/-- The level's L3 and L4 headers; the frame's first VLAN tag. -/
def l3 (e : ActIn) : Option Hdr := e.k.hdrs.l3 e.level
def l4 (e : ActIn) : Option Hdr := e.k.hdrs.l4 e.level
def tag (e : ActIn) : Option Hdr := (e.k.hdrs.tags 0).head?
def v4 (e : ActIn) : Bool := e.l3.map (·.cls) = some 4
def v6 (e : ActIn) : Bool := e.l3.map (·.cls) = some 5
def wide (e : ActIn) : Bool := (e.snap.map (·.wide)).getD false

/-- The packet has a port, or an ICMP echo identifier, that `L4_SRC` names. -/
def hasSrc (e : ActIn) : Bool := (e.k.hdrs.ports e.f e.level).isSome

/-- The packet has the field a selector names (R134). -/
def has (e : ActIn) (sel : Nat) : Bool :=
  match sel with
  | 0x03 | 0x04 | 0x05 => e.l3.isSome
  | 0x06 | 0x07 => e.tag.isSome
  | 0x08 => e.hasSrc
  | 0x09 => (e.l4.map fun x => decide (x.cls ≠ 10)).getD false
  | 0x0A | 0x0B => e.v4
  | 0x11 => e.snap.isSome
  | _ => if 0x20 ≤ sel && sel ≤ 0x29 then e.snap.isSome && (e.wide || decide (sel < 0x24)) else true

end ActIn

/-- Widths of fields (R134); none for a reserved selector. -/
def selWidth (sel : Nat) : Option Nat :=
  match sel with
  | 0x01 | 0x08 | 0x09 | 0x0E | 0x14 => some 16
  | 0x02 | 0x07 | 0x10 => some 3
  | 0x03 => some 6
  | 0x04 | 0x17 => some 2
  | 0x05 | 0x0C | 0x0D | 0x15 => some 8
  | 0x06 => some 12
  | 0x0A | 0x0B | 0x30 | 0x31 => some 32
  | 0x0F | 0x18 => some 1
  | 0x11 => some 4
  | 0x12 => some 14
  | 0x13 => some 23
  | 0x16 => some 24
  | _ => if 0x20 ≤ sel && sel ≤ 0x29 then some 32 else none

/-- Fields a program may write. -/
def selWrites (sel : Nat) : Bool :=
  (1 ≤ sel && sel ≤ 0x0B) || (0x11 ≤ sel && sel ≤ 0x14) || (0x20 ≤ sel && sel ≤ 0x29) || sel == 0x30 || sel == 0x31

/-- A field as the frame and the packet have it, before any write. DESIGN CHOICE: `SUB_ID` reads 0 (notes/assumptions/128.md), and `ECMP_HASH`
of a packet with a flow key starts as `FH[15:0]` also where its request was not sent (notes/assumptions/129.md). -/
def rawField (e : ActIn) (sel : Nat) : Nat :=
  let tos := (e.l3.map (tosOf e.f)).getD 0
  let tci := (e.tag.map fun x => be e.f (x.off + x.len - 4) 2).getD 0
  let ports := (e.k.hdrs.ports e.f e.level).getD (0, 0)
  match sel with
  | 0x01 => e.k.metaw
  | 0x02 => e.k.cls.tc
  | 0x03 => tos / 4
  | 0x04 => tos % 4
  | 0x05 => (e.l3.map (ttlOf e.f)).getD 0
  | 0x06 => tci % 4096
  | 0x07 => tci / 2 ^ 13
  | 0x08 => ports.1
  | 0x09 => ports.2
  | 0x0A => if e.v4 then (e.l3.map (srcOf3 e.f)).getD 0 else 0
  | 0x0B => if e.v4 then (e.l3.map (dstOf3 e.f)).getD 0 else 0
  | 0x0C => e.k.hdrs.proto e.f e.level
  | 0x0D => ((e.l4.filter (·.cls = 7)).map fun x => byteAt e.f (x.off + 13)).getD 0
  | 0x0E => e.k.len
  | 0x0F => b2n e.k.dir
  | 0x10 => e.outcome
  | 0x12 => e.k.bd.getD 0
  | 0x14 => if e.k.key.isSome then e.k.fh % 65536 else 0
  | 0x15 => e.k.lport
  | 0x16 => e.k.cls.zone
  | 0x18 => b2n e.k.pass
  | _ => 0

/-- `n` bytes of `PARAM`. DESIGN CHOICE: what lies beyond it reads 0 (notes/assumptions/130.md). -/
def Work.paramAt (w : Work) (off n : Nat) : Nat := be (w.param ++ List.replicate 64 0) off n

/-- A field's value. -/
def Work.read (e : ActIn) (w : Work) (sel : Nat) : Nat :=
  if sel = 0x11 then w.tstate
  else if sel = 0x17 then w.colour
  else if sel = 0x30 then w.scr0
  else if sel = 0x31 then w.scr1
  else if 0x20 ≤ sel && sel ≤ 0x29 then w.paramAt (4 * (sel - 0x20)) 4
  else match Tbl.find w.fld sel with
    | some v => v
    | none => rawField e sel

/-- A write of a field, truncated to its width; ignored where the packet lacks it. -/
def Work.write (e : ActIn) (w : Work) (sel v : Nat) : Work :=
  let v := v % 2 ^ (selWidth sel).getD 32
  if !e.has sel then w
  else if sel = 0x11 then { w with tstate := v }
  else if sel = 0x30 then { w with scr0 := v }
  else if sel = 0x31 then { w with scr1 := v }
  else if 0x20 ≤ sel && sel ≤ 0x29 then { w with param := splice w.param (4 * (sel - 0x20)) (beBytes 4 v) }
  else { w with fld := Tbl.ins w.fld sel v }

/-! ### Reasons inside a program -/

/-- A program raises a reason: counted, and the program ends unless it is `CONTINUE` (R130). A reason that ends it is counted
when the packet ends. -/
def raiseIn (c : Cfg) (m : Mach) (w : Work) (k : Pkt) (code : Nat) : Work × Mach :=
  match reasonDisp c k.pipe code with
  | .cont => (w, countReason c m k.pipe code)
  | d => ({ w with ended := some (.reason code d) }, m)

/-! ### TCP tracking (R148-R152) -/

/-- The segment's flags and numbers. -/
structure Seg where
  syn : Bool
  ack : Bool
  fin : Bool
  rst : Bool
  seq : Nat
  pay : Nat

/-- The TCP segment of the level. -/
def segOf (e : ActIn) : Option Seg :=
  match e.l3, e.l4.filter (·.cls = 7) with
  | some x, some t =>
    let fl := byteAt e.f (t.off + 13)
    let stop := if x.cls = 4 then x.off + be e.f (x.off + 2) 2 else x.off + 40 + be e.f (x.off + 4) 2
    some { syn := bit fl 1, ack := bit fl 4, fin := bit fl 0, rst := bit fl 2, seq := be e.f (t.off + 4) 4, pay := stop - (t.off + t.len) }
  | _, _ => none

/-- Later modulo 2^32. -/
def later (a b : Nat) : Bool := let d := (a + 2 ^ 32 - b) % 2 ^ 32; d ≠ 0 && decide (d < 2 ^ 31)

/-- The record starts a connection: `NEXT_SEQ`, `WIN` and `WCHK` (R149). -/
def startTrack (t : Track) (s : Seg) (win : Nat) (wchk : Bool) : Track :=
  { t with next := (s.seq + 1) % 2 ^ 32, win := win, wchk := wchk }

/-- The transition of R149: state, `ORIG`, `TRACK`; none raises `TCP_STATE`. -/
def trackFull (st : Nat) (orig dir : Bool) (t : Track) (s : Seg) (mid : Bool) (win : Nat) (wchk : Bool) : Option (Nat × Bool × Track) :=
  let o := dir == orig
  let syn := s.syn && !s.ack
  let synack := s.syn && s.ack
  if st ≠ 0 && s.rst then some (7, orig, { t with rst := true })
  else match st with
    | 0 =>
      if syn then some (1, dir, startTrack t s win wchk)
      else if mid then some (3, dir, { t with next := (s.seq + s.pay) % 2 ^ 32 })
      else none
    | 1 => if !o && synack then some (2, orig, { t with reply := true }) else if o && syn then some (st, orig, t) else none
    | 2 =>
      if o && s.ack && !s.syn && !s.fin then some (3, orig, t)
      else if o && syn || !o && synack then some (st, orig, t) else none
    | 3 => if s.fin then some (if o then 4 else 5, orig, t) else if !s.syn then some (st, orig, t) else none
    | 4 => if !o && s.fin then some (6, orig, t) else if !s.syn then some (st, orig, t) else none
    | 5 => if o && s.fin then some (6, orig, t) else if !s.syn then some (st, orig, t) else none
    | 6 => if s.ack && !s.fin then some (7, orig, t) else if !s.syn then some (st, orig, t) else none
    | _ =>
      if syn then some (1, dir, startTrack t s win wchk)
      else if s.ack && !s.syn then some (st, orig, t) else none

/-- The transitions of R150: one direction is seen and `ORIG` stays 0. DESIGN CHOICE (log 101): `NEXT_SEQ`, `WIN` and `WCHK` are set
as R149 sets them, on SYN and on SYN+ACK as on its SYN and mid-stream as there, and an RST sets `RST_SEEN`. -/
def trackHalf (st : Nat) (t : Track) (s : Seg) (mid : Bool) (win : Nat) (wchk : Bool) : Option (Nat × Track) :=
  let syn := s.syn && !s.ack
  if s.rst then some (7, { t with rst := true })
  else match st with
    | 0 =>
      if syn then some (1, startTrack t s win wchk)
      else if s.syn && s.ack then some (2, startTrack t s win wchk)
      else if mid then some (3, { t with next := (s.seq + s.pay) % 2 ^ 32 })
      else none
    | 1 | 2 => some (if s.ack && !s.syn then 3 else st, t)
    | 3 => some (if s.fin then 4 else st, t)
    | 7 => if syn then some (1, startTrack t s win wchk) else some (st, t)
    | _ => some (st, t)

/-- The window check of R151: whether the segment fails. -/
def windowFails (t : Track) (seq : Nat) : Bool :=
  decide ((t.win * 256 : Nat) ≤ (toSigned 32 (seq + 2 ^ 32 - t.next)).natAbs)

/-- `TRACK_TCP`. A segment that passes the window check sets `NEXT_SEQ`, also where its state stays and `TCP_STATE` is raised
(R149, R151). -/
def trackTcp (c : Cfg) (m : Mach) (e : ActIn) (w0 w : Work) (op : Nat) : Work × Mach :=
  match segOf e, e.snap with
  | some s, some snap =>
    let half := bit op 52
    let st := w0.tstate % 8
    let orig := bit w0.tstate 3
    let tracked := half || e.k.dir == orig
    let checks := w0.track.wchk && decide (3 ≤ st) && tracked
    if checks && windowFails w0.track s.seq then raiseIn c m w e.k 0x30
    else
      let r := if half then (trackHalf st w0.track s (bit op 51) (bits op 49 37) (bit op 50)).map fun (a, b) => (a, b)
        else (trackFull st orig e.k.dir w0.track s (bit op 51) (bits op 49 37) (bit op 50)).map fun (a, o, b) => (a + 8 * b2n o, b)
      let (ts, t) := r.getD (w0.tstate, w0.track)
      let ahead := (s.seq + s.pay + b2n s.fin) % 2 ^ 32
      let t := if checks && later ahead t.next then { t with next := ahead } else t
      let moved := decide (t.win * 128 ≤ (t.next + 2 ^ 32 - snap.track.next) % 2 ^ 32) && later t.next snap.track.next
      let w := { w with tstate := ts, track := t, wbTrack := ts != snap.tstate || moved }
      if r.isNone then raiseIn c m w e.k 0x31 else (w, m)
  | _, _ => (w, m)

/-! ### Translation (R144, R145) -/

/-- The NAT64 prefix of the frame's turn. -/
def nat64Prefix (c : Cfg) (m : Mach) (turn : BitVec 16) (die : Nat) : Nat :=
  c.of m turn tmgNat64Pfx0Pfx die * 2 ^ 64 + c.of m turn tmgNat64Pfx12Pfx die 0 * 2 ^ 32 + c.of m turn tmgNat64Pfx12Pfx die 1

/-- A message or extension header that NAT64 does not translate. -/
def nat64Bad (e : ActIn) : Bool :=
  ((e.l4.filter (·.cls = 10)).map fun x => !isEcho e.k.hdrs e.f e.level x).getD false ||
    (e.k.hdrs.at e.level).any fun x => x.cls == 6

/-- `NAT_SRC` and `NAT_DST`. DESIGN CHOICE (log 102): mode 0 on a packet without an IPv4 header rewrites neither address nor port. -/
def natOp (c : Cfg) (m : Mach) (e : ActIn) (w0 w : Work) (op : Nat) (src : Bool) : Work × Mach :=
  let word := bits op 50 47
  let poff := bits op 46 41
  let mode := bits op 52 51
  let die := e.k.pipe / 16
  if e.snap.isNone then (w, m)
  else if mode = 0 then
    if !e.v4 then (w, m)
    else
      let w := w.write e (if src then 0x0A else 0x0B) (w0.paramAt (4 * word) 4)
      (if bit op 40 then w.write e (if src || (e.l4.map (·.cls)) = some 10 then 0x08 else 0x09) (w0.paramAt poff 2) else w, m)
  else if !e.wide then (w, m)
  else if mode = 1 then
    match e.l3 with
    | some x =>
      if x.cls ≠ 5 then (w, m)
      else if dstOf3 e.f x / 2 ^ 32 ≠ nat64Prefix c m e.k.turn die || nat64Bad e then raiseIn c m w e.k 0x3D
      else
        let w := { w with nat64 := 1, fld := Tbl.ins w.fld 0x0A (w0.paramAt (4 * word) 4) }
        (w.write e 0x08 (w0.paramAt poff 2), m)
    | none => (w, m)
  else
    if !e.v4 then (w, m)
    else if nat64Bad e then raiseIn c m w e.k 0x3D
    else
      let w := { w with nat64 := 2, xaddr := w0.paramAt (4 * word) 16 }
      (w.write e (if (e.l4.map (·.cls)) = some 10 then 0x08 else 0x09) (w0.paramAt poff 2), m)

/-! ### Encapsulation (R154-R156) -/

/-- A template of the packet's turn: empty where it is invalid or in error. -/
def tmplOf (m : Mach) (turn : BitVec 16) (die n : Nat) : List Byte :=
  if m.bad (srcOf 10 (4 * die)) 1 n then [] else Tbl.look [] (m.tabs turn).tmpls n

def tmplType (t : List Byte) : Nat := byteAt t 0
def tmplLen (t : List Byte) : Nat := byteAt t 1
def tmplV6 (t : List Byte) : Bool := bit (byteAt t 5) 7
def tmplZone (t : List Byte) : Nat := be t 6 3

/-- The tunnel headers of `DECAP`. DESIGN CHOICE (log 104): MPLS, VXLAN, Geneve and GRE (classes 3, 11, 12, 15); an IP header that
ends a level with another IP header behind it is none. -/
def isTunnel (cls : Nat) : Bool := cls = 3 || cls = 11 || cls = 12 || cls = 15

/-- `DECAP` of `n` levels finds level `n`, and a tunnel header that ends level `n` − 1. -/
def canDecap (h : HdrMap) (n : Nat) : Bool :=
  h.at n != [] && (((h.at (n - 1)).getLast?).map fun x => isTunnel x.cls).getD false

/-! ### One micro-operation (R133-R135) -/

/-- A `CMP` test. -/
def cmpTest (mode v k : Nat) : Bool :=
  match mode with
  | 0 => v == k
  | 1 => decide (bits k 15 0 ≤ v % 65536) && decide (v % 65536 ≤ bits k 31 16)
  | 2 => Nat.land (v % 65536) (bits k 31 16) == bits k 15 0
  | _ => decide (v < k)

/-- The index of a policer or counter. -/
def unitIndex (w0 : Work) (op : Nat) : Nat := if bits op 52 51 = 1 then w0.paramAt (bits op 40 35) 2 else bits op 50 35

/-- The copies of `MIRROR` and `SAMPLE` to the host. -/
def hostCopy (c : Cfg) (m : Mach) (e : ActIn) (code : Nat) (trunc : Bool) : Mach :=
  if e.k.core then countReason c (countReason c m e.k.pipe code) e.k.pipe 0x3E else puntCopy c m e.k e.f code trunc

/-- Carries out one micro-operation: `w0` is the state at the start of its stage. DESIGN CHOICE (log 105): an `ENCAP` that names an
invalid template (`TYPE` 0) does nothing. DESIGN CHOICE: `POLICE` with `RED` 0 on a policer that is not valid ends a packet that is already red
under `POLICE_RED` (notes/assumptions/131.md). -/
def microOp (c : Cfg) (e : ActIn) (op : Nat) (w0 w : Work) (m : Mach) : Work × Mach :=
  let die := e.k.pipe / 16
  let src (w0 : Work) : Nat := if bit op 44 then w0.read e (bits op 43 36) else bits op 31 0
  match bits op 63 58 with
  | 0x01 =>
    let r := cmpTest (bits op 49 48) (w0.read e (bits op 45 38)) (bits op 31 0)
    let d := bits op 52 50
    let was := bit w.flags d
    let v := match bits op 47 46 with | 0 => r | 1 => was && r | _ => was || r
    ({ w with flags := putBits w.flags d d (b2n v) }, m)
  | 0x02 => let t := bits op 52 50; ({ w with skip := max w.skip (if t = 0 then 8 else t) }, m)
  | 0x03 => (w.write e (bits op 52 45) (src w0), m)
  | 0x04 => (w.write e (bits op 52 45) (w0.read e (bits op 52 45) + src w0), m)
  | 0x08 => natOp c m e w0 w op true
  | 0x09 => natOp c m e w0 w op false
  | 0x0A => if e.snap.isNone || !bit (w0.paramAt 6 2) 15 then raiseIn c m w e.k 0x2E else (w, m)
  | 0x0B => if e.snap.isNone || w0.paramAt 8 (if e.wide then 16 else 4) = 0 then raiseIn c m w e.k 0x2F else (w, m)
  | 0x10 =>
    let (col, m) := meter m die (unitIndex w0 op) (e.k.len + 4) w0.colour (bit op 33)
    let w := { w with colour := col }
    if col = 3 && !bit op 34 then raiseIn c m w e.k 0x33 else (w, m)
  | 0x11 =>
    let i := 65536 * die + unitIndex w0 op
    let (p, b) := Tbl.look (0, 0) m.act.ctrs i
    (w, { m with act := { m.act with ctrs := Tbl.put (0, 0) m.act.ctrs i ((p + 1) % 2 ^ 64, (b + e.k.len + 4) % 2 ^ 64) } })
  | 0x12 =>
    let s := bits op 52 47
    if !c.on tmgMirrorEn die s then (w, m)
    else if c.on tmgMirrorHost die s then (w, hostCopy c m e 0x35 (c.on tmgMirrorTrunc die s))
    else ({ w with copies := w.copies ++ [(c.get tmgMirrorQid die s, c.on tmgMirrorTrunc die s)] }, m)
  | 0x13 =>
    let n := bits op 52 45
    if !c.on tmgSamplerEn die n then (w, m)
    else
      let r := (Config.random m.free).toNat % 2 ^ 24
      let m := m.draw
      if r * c.get tmgSamplerN die n < 2 ^ 24 then (w, hostCopy c m e 0x34 false) else (w, m)
  | 0x14 =>
    if e.snap.isNone then (w, m)
    else ({ w with expNow := w.expNow || bit op 52, expSet := w.expSet || bit op 51 }, m)
  | 0x18 => raiseIn c m w e.k (bits op 52 47)
  | 0x19 => ({ w with ended := some .drop }, bump c m .tmgActDrop die)
  | 0x1A => if e.k.pass then raiseIn c m w e.k 0x0E else ({ w with ended := some .recirc }, m)
  | 0x1B =>
    let q := bits op 50 34
    match bits op 52 51 with
    | 2 =>
      let word := q / 2 ^ 13
      if e.snap.isNone || (!e.wide && decide (4 ≤ word)) then (w, m)
      else ({ w with queue := some (2, w0.paramAt (4 * word) 4 % 2 ^ 17) }, m)
    | mode => ({ w with queue := some (mode, q) }, m)
  | 0x20 =>
    let t := tmplOf m e.k.turn die (bits op 52 41)
    let m := m.met (srcOf 10 (4 * die)) 1 [bits op 52 41]
    if tmplType t = 0 then (w, m)
    else if 9216 < e.k.len + 4 + tmplLen t then raiseIn c m w e.k 0x39
    else
      ({ w with encap := some {
          tmpl := bits op 52 41
          vni := if bit op 40 then some (w0.paramAt (bits op 39 34) 3) else none
          odst := if bit op 33 then some (w0.paramAt (4 * bits op 32 29) (if tmplV6 t then 16 else 4)) else none } }, m)
  | 0x21 => if canDecap e.k.hdrs (bits op 52 51) then ({ w with decap := bits op 52 51 }, m) else raiseIn c m w e.k 0x38
  | 0x28 => trackTcp c m e w0 w op
  | 0x29 =>
    if e.snap.isNone then (w, m)
    else ({ w with wbT := w.wbT || bit op 52, wbP := Nat.lor w.wbP (bits op 51 42) }, m)
  | _ => (w, m)

/-- A micro-operation's predicate, on the flags at the start of its stage. -/
def predicate (w0 : Work) (op : Nat) : Bool := !bit op 57 || (bit w0.flags (bits op 55 53) != bit op 56)

/-- The slots of a stage, in order; what ends the program stops the higher slots (R130). -/
def runSlots (c : Cfg) (e : ActIn) (w0 : Work) : List Nat → Work → Mach → Work × Mach
  | [], w, m => (w, m)
  | op :: ops, w, m =>
    if w.ended.isSome then (w, m)
    else if predicate w0 op then
      let (w, m) := microOp c e op w0 w m
      runSlots c e w0 ops w m
    else runSlots c e w0 ops w m

/-- The stages of a program. -/
def runStages (c : Cfg) (e : ActIn) (prog : List Byte) : List Nat → Work → Mach → Work × Mach
  | [], w, m => (w, m)
  | st :: sts, w, m =>
    if w.ended.isSome then (w, m)
    else if st < w.skip then runStages c e prog sts w m
    else
      let ops := (List.range 4).map fun k => be prog (16 + 8 * (4 * st + k)) 8
      let (w, m) := runSlots c e w ops w m
      runStages c e prog sts w m

/-! ### Results -/

/-- What the engine hands on (R132). -/
structure ActOut where
  work : Work := {}
  res : EditRes := {}
  wb : Option WriteBack := none
  conflict : Bool := false
  ended : Option ActEnd := none
deriving DecidableEq, Repr

/-- The fields of `V` (R251): position of the field's low bit. -/
def setV (v : BitVec 160) (hi lo x : Nat) : BitVec 160 := BitVec.ofNat 160 (putBits v.toNat hi lo x)

/-- The result block of a program (R251), and whether the combination it needs is one the edit cannot make (R252). -/
def resultOf (m : Mach) (e : ActIn) (w : Work) : EditRes × Bool :=
  let die := e.k.pipe / 16
  let wrote (sel : Nat) : Bool := (Tbl.find w.fld sel).isSome
  let v (sel : Nat) : Nat := w.read e sel
  let t := (w.encap.map fun x => tmplOf m e.k.turn die x.tmpl).getD []
  let outer6 := (w.encap.map fun x => x.odst.isSome && tmplV6 t).getD false
  let mode1 := w.nat64 = 2 || outer6
  let tosW := wrote 0x03 || wrote 0x04
  let ip4s := wrote 0x0A
  let ip4d := wrote 0x0B
  let l4s := wrote 0x08
  let l4d := wrote 0x09
  let vid := wrote 0x06
  let pcp := wrote 0x07
  let conflict := (w.nat64 = 2 && outer6) || (mode1 && (vid || pcp || ip4s || ip4d)) || (mode1 && l4s && l4d)
  let rw := b2n tosW * 128 + b2n (wrote 0x05) * 64 + b2n vid * 32 + b2n pcp * 16 + b2n l4s * 8 + b2n l4d * 4 + b2n ip4s * 2 + b2n ip4d
  let val := setV (setV 0 159 152 (v 0x03 * 4 + v 0x04)) 151 144 (v 0x05)
  let od := (w.encap.bind (·.odst)).getD 0
  let val := if mode1 then setV (setV val 143 128 (if l4s then v 0x08 else v 0x09)) 127 0 (if w.nat64 = 2 then w.xaddr else od)
    else setV (setV (setV (setV (setV (setV (setV val 143 132 (v 0x06)) 131 129 (v 0x07)) 127 112 (v 0x08)) 111 96 (v 0x09)) 95 64 (v 0x0A))
      63 32 (v 0x0B)) 31 0 od
  ({ decap := w.decap, encap := w.encap.isSome, vniP := (w.encap.map (·.vni.isSome)).getD false,
     odstP := (w.encap.map (·.odst.isSome)).getD false, nat64 := w.nat64, vmode := mode1, ptp := e.k.ptp, rw := BitVec.ofNat 8 rw,
     odst4 := if mode1 && !outer6 then od else 0
     tmpl := (w.encap.map (·.tmpl)).getD 0, vni := (w.encap.bind (·.vni)).getD 0, ptpTag := e.k.ptpTag, v := val }, conflict)

/-- The write-back of a program (R136, R152); `stamp` is the response's. -/
def writeBackOf (m : Mach) (e : ActIn) (w : Work) (stamp : Nat) : Option WriteBack :=
  match e.snap with
  | some s =>
    if !w.wbT && w.wbP = 0 && !w.wbTrack && !w.expSet && !w.expNow then none
    else some {
      key := e.k.key.getD [], fh := e.k.fh, created := s.created, stamp := stamp
      tstate := if w.wbT || w.wbTrack then some w.tstate else none
      words := (pick 10 fun i => bit w.wbP i && (s.wide || decide (i < 4))).map fun i => (i, w.paramAt (4 * i) 4)
      track := if w.wbTrack then some w.track else none
      setExport := w.expSet, now := w.expNow, issued := m.up }
  | none => none

/-- Issue slots a write-back takes (R137). -/
def wbSlots (wide : Bool) (b : WriteBack) : Nat := if wide && decide (1 < b.words.length) then 2 else 1

/-- The program a packet runs: empty where it holds none or its entry is in error (R128, R395). -/
def progOf (m : Mach) (turn : BitVec 16) (die n : Nat) : List Byte :=
  if m.bad (srcOf 10 (4 * die)) 0 n then [] else Tbl.look [] (m.tabs turn).progs n

/-- Runs a packet's program (R126-R132). -/
def runProgram (c : Cfg) (m : Mach) (e : ActIn) (stamp : Nat) : ActOut × Mach :=
  let n := (e.snap.map (·.prog)).getD e.k.cls.prog
  let p := progOf m e.k.turn (e.k.pipe / 16) n
  let m := m.met (srcOf 10 (4 * (e.k.pipe / 16))) 0 [n]
  let w : Work := { tstate := (e.snap.map (·.tstate)).getD 0, param := (e.snap.map (·.param)).getD [], track := (e.snap.map (·.track)).getD {} }
  if !bit (byteAt p 0) 7 then
    let (w, m) := raiseIn c m w e.k 0x32
    let (res, _) := resultOf m e w
    ({ work := w, res := res, ended := w.ended }, m)
  else
    let (w, m) := runStages c e p (List.range 8) w m
    let (res, conflict) := resultOf m e w
    ({ work := w, res := res, wb := writeBackOf m e w stamp, conflict := conflict && w.ended != some .drop, ended := w.ended }, m)

end Sys2Proof.Machine
end

