-- ==== Sys2Proof/Machine/Fwd.lean ====
section
/-! DEFINITION. The forwarding lookup, the ingress policer stage, learning and aging (R163-R187, R233). -/
namespace Sys2Proof.Machine

/-! ### The FDB (R170-R176) -/

/-- Fields of an FDB entry. -/
def fdbValid (e : Nat) : Bool := bit e 127
def fdbStatic (e : Nat) : Bool := bit e 126
def fdbDiscard (e : Nat) : Bool := bit e 125
def fdbBd (e : Nat) : Nat := bits e 124 111
def fdbMac (e : Nat) : Nat := bits e 110 63
def fdbLport (e : Nat) : Nat := bits e 62 55
def fdbStamp (e : Nat) : Nat := bits e 54 39

/-- An FDB entry of its fields. -/
def fdbEntry (static discard : Bool) (bd mac lport stamp : Nat) : Nat :=
  2 ^ 127 + b2n static * 2 ^ 126 + b2n discard * 2 ^ 125 + bd % 2 ^ 14 * 2 ^ 111 + mac % 2 ^ 48 * 2 ^ 63 + lport % 256 * 2 ^ 55 +
    stamp % 65536 * 2 ^ 39

/-- A key's two buckets (R171). -/
def fdbBuckets (bd mac : Nat) : Nat × Nat :=
  let h := crc32c (beBytes 2 bd ++ beBytes 6 mac)
  (h % 2 ^ 17, 131_072 + h / 2 ^ 15 % 2 ^ 17)

/-- The places of a bucket on a die. -/
def fdbPlaces (die b : Nat) : List Nat := (List.range 4).map fun i => die * 2 ^ 20 + 4 * b + i

/-- An entry as a lookup sees it: absent while its error stands (R395). -/
def Mach.fdbAt (m : Mach) (p : Nat) : Nat :=
  if m.bad (srcOf 10 (4 * (p / 2 ^ 20) + 1)) 0 (p % 2 ^ 20) then 0 else Tbl.look 0 m.fwd.fdb p

/-- Writes an entry; a rewritten entry is no longer in error. -/
def Mach.setFdb (m : Mach) (p e : Nat) : Mach :=
  { m with fwd := { m.fwd with fdb := Tbl.put 0 m.fwd.fdb p e }
           flt := { m.flt with badEntries := m.flt.badEntries.filter (· != (srcOf 10 (4 * (p / 2 ^ 20) + 1), p % 2 ^ 20)) } }

/-- The place of a key's entry. -/
def fdbFind (m : Mach) (die bd mac : Nat) : Option Nat :=
  let (a, b) := fdbBuckets bd mac
  (fdbPlaces die a ++ fdbPlaces die b).find? fun p =>
    let e := m.fdbAt p
    fdbValid e && fdbBd e == bd && fdbMac e == mac

/-- Free places of a bucket. -/
def fdbFree (m : Mach) (die b : Nat) : List Nat := (fdbPlaces die b).filter fun p => !fdbValid (m.fdbAt p)

/-- The place a new entry takes: the bucket with more free entries, half 0 on a tie, its lowest free entry (R174). -/
def fdbRoom (m : Mach) (die bd mac : Nat) : Option Nat :=
  let (a, b) := fdbBuckets bd mac
  let fa := fdbFree m die a
  let fb := fdbFree m die b
  if fa.length < fb.length then fb.head? else fa.head?

/-- Valid entries of a die. -/
def fdbOcc (m : Mach) (die : Nat) : Nat := (m.fwd.fdb.filter fun e => e.1 / 2 ^ 20 == die && fdbValid e.2).length

/-- The body of a `LEARN`, `MOVE` or `FDB_AGE` event (R334). -/
def fdbEvt (type die bd mac lport former : Nat) : Evt :=
  { type := type, bodies := [beBytes 1 die ++ beBytes 2 bd ++ beBytes 6 mac ++ beBytes 1 lport ++ beBytes 1 former], mark := bd }

/-- The places a key's entry may take have been read. -/
def fdbMet (m : Mach) (die bd mac : Nat) : Mach :=
  let (a, b) := fdbBuckets bd mac
  m.met (srcOf 10 (4 * die + 1)) 0 ((fdbPlaces die a ++ fdbPlaces die b).map (· % 2 ^ 20))

/-- The learn unit carries out the first request of its queue (R174). -/
def learnOne (c : Cfg) (m : Mach) (die : Nat) : Mach :=
  match Tbl.look [] m.fwd.learn die with
  | [] => m
  | r :: rs =>
    let m := { m with fwd := { m.fwd with learn := Tbl.put [] m.fwd.learn die rs } }
    let now := m.st fwdFdbNowNow die
    match fdbFind m die r.bd r.mac, fdbMet m die r.bd r.mac with
    | some p, m =>
      let e := m.fdbAt p
      if fdbLport e = r.lport then m.setFdb p (putBits e 54 39 now)
      else if fdbStatic e || !r.move then m
      else
        let m := bump c (m.setFdb p (putBits (putBits e 62 55 r.lport) 54 39 now)) .fwdCnt die cFwdLearnOk
        if c.on fwdLearnCfgNotifyMove die then postEvent c m (fdbEvt 2 die r.bd r.mac r.lport (fdbLport e)) else m
    | none, m =>
      match fdbRoom m die r.bd r.mac with
      | some p =>
        let m := bump c (m.setFdb p (fdbEntry false false r.bd r.mac r.lport now)) .fwdCnt die cFwdLearnOk
        if c.on fwdLearnCfgNotifyLearn die then postEvent c m (fdbEvt 1 die r.bd r.mac r.lport 0) else m
      | none => bump c m .fwdCnt die cFwdLearnFail

/-- The uptime of a die's next FDB age tick. -/
def Mach.fdbDue (m : Mach) (die : Nat) : Nat := Tbl.look 1_000_000_000 m.fwd.fdbDue die

/-- A tick of the FDB's age, every `TICK` × 10 ms, and the ager's visit to every entry (R176). -/
def fdbTick (c : Cfg) (m : Mach) (die : Nat) : Mach :=
  let now := (m.st fwdFdbNowNow die + 1) % 65536
  let out := c.get fwdFdbAgeTimeout die
  if m.up < m.fdbDue die then m
  else
  let m := m.setSt fwdFdbNowNow now die
  let m := { m with fwd := { m.fwd with
    fdbDue := Tbl.put 1_000_000_000 m.fwd.fdbDue die (m.fdbDue die + 10_000_000 * c.get fwdFdbAgeTick die) } }
  if !c.on fwdFdbAgeEn die || out = 0 then m
  else
    let old := m.fwd.fdb.filter fun e => e.1 / 2 ^ 20 == die && fdbValid e.2 && !fdbStatic e.2 &&
      decide (out ≤ (now + 65536 - fdbStamp e.2) % 65536)
    old.foldl (fun (m : Mach) e =>
      let m := bump c (m.setFdb e.1 0) .fwdCnt die cFwdAgeOut
      if c.on fwdLearnCfgNotifyAge die then postEvent c m (fdbEvt 3 die (fdbBd e.2) (fdbMac e.2) (fdbLport e.2) 0) else m) m

/-! ### The other tables -/

/-- A bridge-domain entry (R167): byte `n` of 48 and up. -/
def Mach.bdAt (m : Mach) (n : Nat) : Nat := Tbl.look 0 m.fwd.bd n
def bdFlood (e : Nat) : Nat := e / 2 ^ 128
def bdBit (e i : Nat) : Bool := bit e (120 + i)
def bdRmac (e : Nat) : Nat := bits e 117 112
def bdVid (e : Nat) : Nat := bits e 107 96

/-- The address a router MAC register holds in a turn. -/
def rmacOf (c : Cfg) (m : Mach) (turn : BitVec 16) (die i : Nat) : Nat :=
  c.of m turn fwdRmacHiMacHi die i * 2 ^ 32 + c.of m turn fwdRmacLoMacLo die i

/-- The router MAC of a BD in a turn, if valid. -/
def routerMac (c : Cfg) (m : Mach) (turn : BitVec 16) (die bdEntry : Nat) : Option Nat :=
  let i := bdRmac bdEntry
  if c.of m turn fwdRmacHiValid die i = 1 then some (rmacOf c m turn die i) else none

/-- The longest valid prefix of a zone (R177). -/
def lpmLookup (m : Mach) (zone : Nat) (v6 : Bool) (addr : Nat) : Option Lpm :=
  let w := if v6 then 128 else 32
  let hits := m.fwd.lpm.filter fun x => x.v6 == v6 && x.zone == zone && x.addr / 2 ^ (w - x.len) == addr / 2 ^ (w - x.len)
  hits.foldl (fun (a : Option Lpm) x => match a with | some b => if b.len < x.len then some x else a | none => some x) none

/-- Fields of a next hop (R179). -/
def nhValid (e : Nat) : Bool := bit e 127
def nhType (e : Nat) : Nat := bits e 126 125
def nhLport (e : Nat) : Nat := bits e 124 117
def nhDmac (e : Nat) : Nat := bits e 116 69
def nhBdOf (e : Nat) : Nat := bits e 68 55
def nhMtu (e : Nat) : Nat := bits e 54 52

def Mach.nhAt (m : Mach) (die n : Nat) : Nat := if m.bad (srcOf 10 (4 * die + 2)) 1 n then 0 else Tbl.look 0 m.fwd.nh n

/-- Fields of an ECMP group (R180), packed in the order the rule names them (notes/assumptions/20.md). -/
def grpEnable (e : Nat) : Bool := bit e 63
def grpBase (e : Nat) : Nat := bits e 62 45
def grpSize (e : Nat) : Nat := bits e 44 36
def grpLive (e : Nat) : Nat := bits e 35 27

/-- An ECMP member of a die: none while its error stands. -/
def Mach.memberAt (m : Mach) (die n : Nat) : Option Nat :=
  if m.bad (srcOf 10 (4 * die + 2)) 3 n then none else some (Tbl.look 0 m.fwd.member n)

def Mach.grpAt (m : Mach) (die n : Nat) : Nat := if m.bad (srcOf 10 (4 * die + 2)) 2 n then 0 else Tbl.look 0 m.fwd.group n

/-- The map word of a subscriber (R182). -/
def Mach.mapAt (m : Mach) (die n : Nat) : Nat := if m.bad (srcOf 10 (4 * die + 3)) 1 n then 0 else Tbl.look 0 m.fwd.map n

/-! ### The length of the edited frame (R251) -/

/-- Bytes removed by `DECAP`: up to the first header of the level that remains, less the Ethernet header kept where that level
has none. -/
def decapBytes (h : HdrMap) (n : Nat) : Nat :=
  if n = 0 then 0
  else match (h.at n).head? with
    | some x => if x.cls = 1 then x.off else x.off - 14
    | none => 0

/-- The frame keeps an outer tag of level `n` when `VID` or `PCP` is rewritten; otherwise it is removed (R253 step 3). -/
def tagRemoved (h : HdrMap) (r : EditRes) : Bool :=
  !r.raw && (h.tags r.decap).head?.isSome && !(bit r.rw.toNat 5 || bit r.rw.toNat 4)

/-- The change of length that NAT64 makes in the L3 header of level `lev` (R145). -/
def nat64Grow (f : List Byte) (h : HdrMap) (lev mode : Nat) : Int :=
  match h.l3 lev with
  | some x =>
    if mode = 1 && x.cls = 5 then -20
    else if mode = 2 && x.cls = 4 then 40 - ((byteAt f x.off % 16 * 4 : Nat) : Int)
    else 0
  | none => 0

/-- The level whose headers an edit changes: those that `DECAP` leaves, or without it those of `lev`. -/
def editLevel (lev decap : Nat) : Nat := if decap = 0 then lev else decap

/-- `GROW` of a result: decapsulated bytes, template, NAT64 header, tags removed and added. -/
def growOf (f : List Byte) (h : HdrMap) (lev : Nat) (r : EditRes) (tmplBytes : Nat) (tagged : Bool) : Int :=
  if r.raw then 0
  else (tmplBytes : Int) - decapBytes h r.decap + nat64Grow f h (editLevel lev r.decap) r.nat64 -
    (if tagRemoved h r then 4 else 0) + (if tagged then 4 else 0)

/-! ### Where a packet goes (R165-R183) -/

/-- What the lookup decides. -/
inductive FwdTo
  | port (l : Nat) (egressBd : Nat)
  | routed (l : Nat) (nh : Nat)
  | flood (bd : Nat)
  | drop
  | reason (code : Nat) (d : Disp)
deriving DecidableEq, Repr

/-- A step of the lookup: a reason with `CONTINUE` is counted, and the lookup goes on. -/
def softReason (c : Cfg) (m : Mach) (pipe code : Nat) : Option FwdTo × Mach :=
  match reasonDisp c pipe code with
  | .cont => (none, countReason c m pipe code)
  | d => (some (.reason code d), m)

/-- The ingress BD (R166). -/
def ingressBd (c : Cfg) (m : Mach) (e : ActIn) (w : Work) : Nat :=
  match Tbl.find w.fld 0x12, e.k.bd with
  | some b, _ => b
  | none, some b => b
  | none, none =>
    let d := e.k.pipe / 16
    let n := e.k.lport % 128
    let base := c.of m e.k.turn fwdLportBd d n
    if c.of m e.k.turn fwdLportBdMode d n = 1 then
      let vid := match e.tag with
        | some x => be e.f (x.off + x.len - 4) 2 % 4096
        | none => c.of m e.k.turn fwdLportPvid d n
      (base + vid) % 16384
    else base

/-- Destination and source MAC of the frame as the program leaves it: those of level `DECAP`, of a frame that has one. -/
def frameMacs (e : ActIn) (w : Work) : Nat × Nat :=
  match (e.k.hdrs.at w.decap).find? fun x => x.cls == 1 with
  | some x => (be e.f x.off 6, be e.f (x.off + 6) 6)
  | none => (be e.f 0 6, be e.f 6 6)

/-- Where a route leads (R177-R180): an entry in error on the way is absent (R395). -/
def routeTo (c : Cfg) (m : Mach) (e : ActIn) (ecmp : Nat) (len3 : Nat) (route : Option Lpm) : FwdTo × Mach :=
  let die := e.k.pipe / 16
  let pipe := e.k.pipe
  let src := srcOf 10 (4 * die + 2)
  let via (m : Mach) (n : Nat) : FwdTo × Mach :=
    let x := m.nhAt die n
    let m := m.met src 1 [n]
    if !nhValid x || nhType x = 3 then (.reason 0x27 (reasonDisp c pipe 0x27), m)
    else match nhType x with
      | 1 => (.drop, bump c m .fwdCnt die cFwdRouteDrop)
      | 2 => (.reason 0x1F (reasonDisp c pipe 0x1F), m)
      | _ =>
        if c.of m e.k.turn fwdMtuMtu die (nhMtu x) < len3 then (.reason 0x29 (reasonDisp c pipe 0x29), m)
        else (.routed (nhLport x) n, m)
  match route with
  | none => (.reason 0x27 (reasonDisp c pipe 0x27), m)
  | some x =>
    let r := x.result
    let lost := m.bad src 0 x.place
    let m := m.met src 0 [x.place]
    if lost then (.reason 0x27 (reasonDisp c pipe 0x27), m)
    else match bits r 31 30 with
    | 0 => via m (r % 65536)
    | 1 =>
      let g := m.grpAt die (r % 16384)
      -- a group in error is an absent entry; one that was never written is not enabled
      let lost := m.bad src 2 (r % 16384)
      let m := m.met src 2 [r % 16384]
      if lost then (.reason 0x27 (reasonDisp c pipe 0x27), m)
      else if !grpEnable g || grpLive g = 0 then (.reason 0x28 (reasonDisp c pipe 0x28), m)
      else
        let i := grpBase g + ecmp * grpLive g / 2 ^ 16
        match m.memberAt die i, m.met src 3 [i] with
        | some n, m => via m n
        | none, m => (.reason 0x27 (reasonDisp c pipe 0x27), m)
    | _ => (.drop, bump c m .fwdCnt die cFwdRouteDrop)

/-- Learning of the source address (R173, R175): whether the frame must flood for want of room. -/
def learnStage (c : Cfg) (m : Mach) (e : ActIn) (bd smac : Nat) (bdE : Nat) : Option FwdTo × Bool × Mach :=
  let die := e.k.pipe / 16
  let k := e.k
  if k.pass || 6 ≤ k.lport % 8 || c.of m k.turn fwdLportLearn die (k.lport % 128) ≠ 1 || !bdBit bdE 6 then (none, false, m)
  else
    let request (move : Bool) (m : Mach) : Mach :=
      let q := Tbl.look [] m.fwd.learn die
      if 1024 ≤ q.length then bump c m .fwdCnt die cFwdLearnDrop
      else { m with fwd := { m.fwd with learn := Tbl.put [] m.fwd.learn die (q ++ [⟨bd, smac, k.lport, move⟩]) } }
    match fdbFind m die bd smac, fdbMet m die bd smac with
    | some p, m =>
      let x := m.fdbAt p
      if fdbLport x = k.lport then (none, false, m.setFdb p (putBits x 54 39 (m.st fwdFdbNowNow die)))
      else
        let m := if !fdbStatic x && bdBit bdE 5 then request true m else m
        let (r, m) := softReason c m k.pipe 0x25
        (r, false, m)
    | none, m =>
      if (fdbRoom m die bd smac).isNone then
        let m := request false m
        let (r, m) := softReason c m k.pipe 0x24
        (r, true, m)
      else (none, false, request false m)

/-- The bridged destination (R172). -/
def bridgeTo (c : Cfg) (m : Mach) (k : Pkt) (bd dmac bdE : Nat) : FwdTo × Mach :=
  let die := k.pipe / 16
  if bit dmac 40 then (.flood bd, m)
  else match fdbFind m die bd dmac, fdbMet m die bd dmac with
    | some p, m =>
      let x := m.fdbAt p
      if fdbDiscard x then (.drop, bump c m .fwdCnt die cFwdDiscard) else (.port (fdbLport x) bd, m)
    | none, m =>
      if bdBit bdE 3 then
        let (r, m) := softReason c m k.pipe 0x26
        (r.getD (.flood bd), m)
      else (.flood bd, m)

/-- The level a packet is classified at (R58). -/
def clsLevel (c : Cfg) (m : Mach) (k : Pkt) : Nat := k.hdrs.levelOf (c.of m k.turn pplPortCfgClsLevel k.pipe (k.lport % 8))

/-- The level a packet is forwarded and edited at without `DECAP`: its flow key's, or where that holds no L3 header the classification level.
DESIGN CHOICE (log 106). -/
def fwdLevel (c : Cfg) (m : Mach) (e : ActIn) : Nat := if e.l3.isSome then e.level else clsLevel c m e.k

/-- The lookup (R164): where the packet goes. A routed packet is checked and looked up by the L3 header that its edit leaves (R177). -/
def forward (c : Cfg) (m : Mach) (e : ActIn) (w : Work) : FwdTo × Mach :=
  let die := e.k.pipe / 16
  let pipe := e.k.pipe
  let bd := ingressBd c m e w
  let bdE := m.bdAt bd
  if !bdBit bdE 7 then (.reason 0x3A (reasonDisp c pipe 0x3A), m)
  else
    let (dmac, smac) := frameMacs e w
    let (r, full, m) := learnStage c m e bd smac bdE
    match r with
    | some x => (x, m)
    | none =>
      if full then (.flood bd, m)
      else
        let t := (w.encap.map fun x => tmplOf m e.k.turn die x.tmpl).getD []
        let outer := tmplType t = 1 || tmplType t = 2 || tmplType t = 6
        let ecmp := w.read e 0x14
        if outer then
          -- routed on the outer destination, with no TTL check (R169)
          let off := 16 + byteAt t 2
          let dst := match w.encap.bind (·.odst) with
            | some a => a
            | none => if tmplV6 t then be t (off + 24) 16 else be t (off + 16) 4
          -- the outer packet's length is that of the edited frame, without an egress tag, from its L3 header on
          let len3 := ((e.k.len : Int) + growOf e.f e.k.hdrs (fwdLevel c m e) (resultOf m e w).1 (tmplLen t) false).toNat - byteAt t 2
          routeTo c m e ecmp len3 (lpmLookup m (tmplZone t) (tmplV6 t) dst)
        else if bdBit bdE 4 && routerMac c m e.k.turn die bdE = some dmac then
          match (e.k.hdrs.l3 (clsLevel c m e.k)).bind fun _ => e.k.hdrs.l3 (editLevel (fwdLevel c m e) w.decap) with
          | none => (.drop, bump c m .fwdCnt die cFwdRmacNonip)
          | some x =>
            if (Tbl.find w.fld 0x05).getD (ttlOf e.f x) ≤ 1 then (.reason 0x07 (reasonDisp c pipe 0x07), m)
            else
              let zone := if w.encap.isSome then tmplZone t else e.k.cls.zone
              -- the destination as the program leaves it, translated where it translates
              let v6 := if w.nat64 = 1 then false else if w.nat64 = 2 then true else decide (x.cls = 5)
              let dst := if w.nat64 = 1 then dstOf3 e.f x % 2 ^ 32 else if w.nat64 = 2 then w.xaddr
                else if x.cls = 4 then (Tbl.find w.fld 0x0B).getD (dstOf3 e.f x) else dstOf3 e.f x
              let total := if x.cls = 4 then be e.f (x.off + 2) 2 else 40 + be e.f (x.off + 4) 2
              let total := ((total : Int) + nat64Grow e.f e.k.hdrs (editLevel (fwdLevel c m e) w.decap) w.nat64).toNat
              routeTo c m e ecmp total (lpmLookup m zone v6 dst)
        else bridgeTo c m e.k bd dmac bdE

/-! ### Queues (R183) -/

/-- Q(k) of R183 for an egress port. -/
def nodeQueue (c : Cfg) (m : Mach) (turn : BitVec 16) (die l node tc : Nat) : Nat :=
  4 * node + bits (c.of m turn fwdEgrTcMap die l) (2 * tc + 1) (2 * tc)

/-- The port a subscriber node lies under in a packet's turn. -/
def nodePort (c : Cfg) (m : Mach) (turn : BitVec 16) (s : Nat) : Nat :=
  let v := c.of m turn schSubCfgParent (s / 16384) (s % 16384)
  c.of m turn schSvcCfgParent (v / 2048) (v % 2048) % 256

/-- The queue of a frame for an egress port. -/
def chooseQueueFor (c : Cfg) (m : Mach) (k : Pkt) (w : Work) (tc : Nat) (map : Option Nat) (l : Nat) : Nat :=
  let die := k.pipe / 16
  let dflt := nodeQueue c m k.turn die l (c.of m k.turn fwdEgrDefNode die l) tc
  let used := match map with
    | some x => if nodePort c m k.turn (bits x 30 16) = l then some (bits x 30 16) else none
    | none => none
  match w.queue with
  | some (0, q) => q
  | some (2, q) => q
  | some (_, q) => (match used with | some n => 4 * n + q % 4 | none => dflt)
  | none => (match used with | some n => nodeQueue c m k.turn die l n tc | none => dflt)

/-- The ports of a flood (R168). -/
def floodPorts (m : Mach) (bd lport : Nat) : List Nat :=
  pick 256 fun n => bit (bdFlood (m.bdAt bd)) n && n != lport && n % 8 < 6

/-- The result block of a target (R165, R251): the forwarding part filled in, with what it read of the next hop and the egress BD. -/
def targetRes (c : Cfg) (m : Mach) (e : ActIn) (r : EditRes) (l : Nat) (routed : Option Nat) (bd : Nat) : EditRes :=
  let die := e.k.pipe / 16
  let t := if r.encap then tmplOf m e.k.turn die r.tmpl else []
  let nh := (routed.map (m.nhAt die)).getD 0
  let bdE := m.bdAt (if routed.isSome then nhBdOf nh else bd)
  let r := { r with routed := routed.isSome, nhBd := routed.getD bd, dmac := nhDmac nh, rmac := bdRmac bdE, vid := bdVid bdE }
  { r with grow := growOf e.f e.k.hdrs (fwdLevel c m e) r (tmplLen t) (c.of m e.k.turn fwdEgrTagged (l / 128) l = 1) }

end Sys2Proof.Machine
end

