-- ==== Sys2Proof/Machine/Edit.lean ====
section
/-! DEFINITION. The egress edit (R251-R253): what leaves for a stored frame and its result block. Frames are without FCS. -/
namespace Sys2Proof.Machine

/-! ### Checksums -/

/-- RFC 1624: a checksum after 16-bit words `old` became `new`. -/
def sumUpdate (ck : Nat) (old new : List Byte) : Nat :=
  65535 - fold16 ((65535 - ck) + sum16 (old.map fun b => ~~~b) + sum16 new)

/-- Where an L4 header keeps its checksum. -/
def l4SumOff (cls : Nat) : Option Nat := match cls with
  | 7 => some 16 | 8 => some 6 | 10 => some 2 | _ => none

/-- The 16-bit words around a field of even length. -/
def patch (f : List Byte) (off : Nat) (x : List Byte) : List Byte := splice f off x

/-- Updates a checksum at `at` for a field changed from `old` to `new`, both padded to even length at even offsets. -/
def fixSum (f : List Byte) (pos : Nat) (old new : List Byte) : List Byte := splice f pos (beBytes 2 (sumUpdate (be f pos 2) old new))

/-- As `fixSum` for an L4 checksum: a UDP checksum of 0 stays 0, and one computed as 0 is sent as all ones (RFC 768). -/
def fixL4 (f : List Byte) (x : Hdr) (old new : List Byte) : List Byte :=
  match l4SumOff x.cls with
  | none => f
  | some o =>
    let ck := be f (x.off + o) 2
    if x.cls = 8 && ck = 0 then f
    else
      let v := sumUpdate ck old new
      splice f (x.off + o) (beBytes 2 (if x.cls = 8 && v = 0 then 0xFFFF else v))

/-- The one's complement checksum of a transport segment under its pseudo-header. -/
def l4Sum (v6 : Bool) (src dst : List Byte) (proto : Nat) (seg : List Byte) : Nat :=
  let pseudo := src ++ dst ++ (if v6 then beBytes 4 seg.length ++ [0, 0, 0] ++ beBytes 1 proto else [0] ++ beBytes 1 proto ++ beBytes 2 seg.length)
  inetSum (pseudo ++ seg)

/-! ### A frame on its way through the edit -/

/-- The frame and the headers that remain, with their offsets. -/
structure Ed where
  f : List Byte
  h : HdrMap
deriving DecidableEq, Repr

/-- Moves the headers at or behind `off` by `n` bytes. -/
def HdrMap.shift (h : HdrMap) (off : Nat) (n : Int) : HdrMap :=
  { h with stack := h.stack.map fun x => if off ≤ x.off then { x with off := ((x.off : Int) + n).toNat } else x }

/-- Step 1: `DECAP` of `n` levels. A level without an Ethernet header keeps the outermost one, with the EtherType of what
follows. -/
def edDecap (e : Ed) (n : Nat) : Ed :=
  if n = 0 then e
  else
    let rest := e.h.stack.filter fun x => n ≤ x.level
    match rest.head? with
    | none => e
    | some x =>
      if x.cls = 1 then { f := e.f.drop x.off, h := ({ e.h with stack := rest }).shift 0 (-(x.off : Int)) }
      else
        let t := match x.cls with | 4 => 0x0800 | 5 => 0x86DD | 3 => 0x8847 | 13 => 0x0806 | _ => be e.f 12 2
        let eth : Hdr := { cls := 1, off := 0, len := 14, level := n }
        let moved := ({ e.h with stack := rest }).shift 0 (14 - (x.off : Int))
        { f := e.f.take 12 ++ beBytes 2 t ++ e.f.drop x.off, h := { moved with stack := eth :: moved.stack } }

/-- Sets the type field that precedes the L3 header of a level to `t`. -/
def setType (e : Ed) (l t : Nat) : Ed :=
  match ((e.h.at l).filter fun x => x.cls = 1 || x.cls = 2).getLast? with
  | some x => { e with f := splice e.f (x.off + x.len - 2) (beBytes 2 t) }
  | none => e

/-- The transport segment behind an L3 header, with its checksum for new addresses; ICMP messages change their type. -/
def xlatSeg (toV6 : Bool) (src dst : List Byte) (proto : Nat) (cls : Nat) (seg : List Byte) : List Byte :=
  let seg := if cls = 10 then
      (match (seg.headD 0).toNat with
        | 128 => [8] | 129 => [0] | 8 => [128] | 0 => [129] | t => [BitVec.ofNat 8 t]) ++ seg.drop 1
    else seg
  match l4SumOff cls with
  | none => seg
  | some o =>
    let z := splice seg o [0, 0]
    -- ICMP over IPv4 has no pseudo-header
    let v := if cls = 10 && !toV6 then inetSum z else l4Sum toV6 src dst proto z
    splice seg o (beBytes 2 (if cls = 8 && v = 0 then 0xFFFF else v))

/-- Step 2: NAT64 by RFC 7915 (R145), with the ports that `RW` names. Mode 1 makes an IPv4 header, mode 2 an IPv6 one. -/
def edNat64 (e : Ed) (r : EditRes) (pfx : Nat) : Ed :=
  match e.h.l3 r.decap, e.h.l4 r.decap with
  | some x, l4 =>
    let cls := (l4.map (·.cls)).getD 0
    if r.nat64 = 1 && x.cls = 5 then
      let src := beBytes 4 (bits r.v.toNat 95 64)
      let dst := slice e.f (x.off + 36) 4
      let p := byteAt e.f (x.off + 6)
      let p := if p = 58 then 1 else p
      let pay := be e.f (x.off + 4) 2
      let seg := (e.f.drop (x.off + 40)).take pay
      let tail := e.f.drop (x.off + 40 + pay)
      let seg := if r.rw.toNat / 8 % 2 = 1 then
          splice seg (if cls = 10 then 4 else 0) (beBytes 2 (bits r.v.toNat 127 112)) else seg
      let seg := if bit r.rw.toNat 2 && cls ≠ 0 && cls ≠ 10 then splice seg 2 (beBytes 2 (bits r.v.toNat 111 96)) else seg
      let hdr := [0x45] ++ beBytes 1 (tosOf e.f x) ++ beBytes 2 (20 + pay) ++ [0, 0, 0x40, 0] ++ [BitVec.ofNat 8 (byteAt e.f (x.off + 7))] ++
        beBytes 1 p ++ [0, 0] ++ src ++ dst
      let hdr := splice hdr 10 (beBytes 2 (inetSum hdr))
      let f := e.f.take x.off ++ hdr ++ xlatSeg false src dst p cls seg ++ tail
      let h := (e.h.shift (x.off + 1) (-20))
      let h := { h with stack := h.stack.map fun y => if y.off = x.off && y.cls = 5 then { y with cls := 4, len := 20 } else y }
      setType ⟨f, h⟩ r.decap 0x0800
    else if r.nat64 = 2 && x.cls = 4 then
      let hl := byteAt e.f x.off % 16 * 4
      let dst := beBytes 16 (bits r.v.toNat 127 0)
      let src := beBytes 12 pfx ++ slice e.f (x.off + 12) 4
      let p := byteAt e.f (x.off + 9)
      let p := if p = 1 then 58 else p
      let total := be e.f (x.off + 2) 2
      let seg := (e.f.drop (x.off + hl)).take (total - hl)
      let tail := e.f.drop (x.off + total)
      let seg := if bit r.rw.toNat 3 || bit r.rw.toNat 2 then
          splice seg (if cls = 10 then 4 else if bit r.rw.toNat 3 then 0 else 2) (beBytes 2 (bits r.v.toNat 143 128)) else seg
      let hdr := beBytes 4 (6 * 2 ^ 28 + tosOf e.f x * 2 ^ 20) ++ beBytes 2 (total - hl) ++ beBytes 1 p ++
        [BitVec.ofNat 8 (byteAt e.f (x.off + 8))] ++ src ++ dst
      let f := e.f.take x.off ++ hdr ++ xlatSeg true src dst p cls seg ++ tail
      let h := e.h.shift (x.off + 1) (40 - (hl : Int))
      let h := { h with stack := h.stack.map fun y => if y.off = x.off && y.cls = 4 then { y with cls := 5, len := 40 } else y }
      setType ⟨f, h⟩ r.decap 0x86DD
    else e
  | none, _ => e

/-- Rewrites TOS and TTL, ports and IPv4 addresses (R253 step 3). Ports and addresses of a translated frame were written by
`edNat64`. -/
def edRewrite (e : Ed) (r : EditRes) : Ed :=
  let v := r.v.toNat
  let w (i : Nat) : Bool := bit r.rw.toNat i
  match e.h.l3 r.decap with
  | none => e
  | some x =>
    let f := e.f
    let f := if w 7 then
        (if x.cls = 4 then
          let g := splice f (x.off + 1) (beBytes 1 (bits v 159 152))
          fixSum g (x.off + 10) (slice f x.off 2) (slice g x.off 2)
        else splice f x.off (beBytes 2 (putBits (be f x.off 2) 11 4 (bits v 159 152))))
      else f
    let f := if w 6 then
        (if x.cls = 4 then
          let g := splice f (x.off + 8) (beBytes 1 (bits v 151 144))
          fixSum g (x.off + 10) (slice f (x.off + 8) 2) (slice g (x.off + 8) 2)
        else splice f (x.off + 7) (beBytes 1 (bits v 151 144)))
      else f
    let l4 := e.h.l4 r.decap
    let addr (f : List Byte) (off n : Nat) : List Byte :=
      let g := splice f (x.off + off) (beBytes 4 n)
      let g := fixSum g (x.off + 10) (slice f (x.off + off) 4) (beBytes 4 n)
      match l4 with
      | some y => if y.cls = 10 then g else fixL4 g y (slice f (x.off + off) 4) (beBytes 4 n)
      | none => g
    let f := if w 1 && x.cls = 4 && r.nat64 = 0 then addr f 12 (bits v 95 64) else f
    let f := if w 0 && x.cls = 4 && r.nat64 = 0 then addr f 16 (bits v 63 32) else f
    let port (f : List Byte) (src : Bool) (n : Nat) : List Byte :=
      match l4 with
      | some y =>
        let o := y.off + (if y.cls = 10 then 4 else if src then 0 else 2)
        if y.cls = 10 && !src then f
        else fixL4 (splice f o (beBytes 2 n)) y (slice f o 2) (beBytes 2 n)
      | none => f
    let f := if w 3 && r.nat64 = 0 then port f true (if r.vmode then bits v 143 128 else bits v 127 112) else f
    let f := if w 2 && r.nat64 = 0 then port f false (if r.vmode then bits v 143 128 else bits v 111 96) else f
    { e with f := f }

/-- The ingress outer tag: rewritten where `VID` or `PCP` was, otherwise removed (R253 step 3). -/
def edTag (e : Ed) (r : EditRes) : Ed :=
  match (e.h.tags r.decap).head? with
  | none => e
  | some x =>
    if bit r.rw.toNat 5 || bit r.rw.toNat 4 then
      -- a VLAN header's class-2 entry begins at its TCI
      let o := x.off + x.len - 4
      let tci := be e.f o 2
      let tci := if bit r.rw.toNat 5 then putBits tci 11 0 (bits r.v.toNat 143 132) else tci
      let tci := if bit r.rw.toNat 4 then putBits tci 15 13 (bits r.v.toNat 131 129) else tci
      { e with f := splice e.f o (beBytes 2 tci) }
    else
      let o := x.off + x.len - 6
      { f := e.f.take o ++ e.f.drop (o + 4), h := { (e.h.shift (x.off + 1) (-4)) with
          stack := ((e.h.shift (x.off + 1) (-4)).stack).filter fun y => !(y.off = x.off && y.cls = 2) } }

/-- Step 4: the TTL or hop limit of a routed frame falls by 1. -/
def edTtl (e : Ed) (l : Nat) : Ed :=
  match e.h.l3 l with
  | some x =>
    if x.cls = 4 then
      let g := splice e.f (x.off + 8) (beBytes 1 (byteAt e.f (x.off + 8) - 1))
      { e with f := fixSum g (x.off + 10) (slice e.f (x.off + 8) 2) (slice g (x.off + 8) 2) }
    else { e with f := splice e.f (x.off + 7) (beBytes 1 (byteAt e.f (x.off + 7) - 1)) }
  | none => e

/-- The header of a template of type 1, 2 or 6 before a payload of `n` bytes, its fields filled (R155): VNI, outer destination,
copied TTL and DSCP, source port. Lengths and checksums are filled by `fillOuter`. -/
def tmplHdr (t : List Byte) (vni odst : Option Nat) (inner : Option (Nat × Nat)) (hash : Nat) : List Byte :=
  let hdr := slice t 16 (tmplLen t)
  let l3 := byteAt t 2
  let l4 := byteAt t 3
  let tun := byteAt t 4
  let v6 := tmplV6 t
  let hdr := match vni with | some v => splice hdr (tun + 4) (beBytes 3 v) | none => hdr
  let hdr := match odst with
    | some a => if v6 then splice hdr (l3 + 24) (beBytes 16 a) else splice hdr (l3 + 16) (beBytes 4 a)
    | none => hdr
  let hdr := match inner with
    | some (tos, ttl) =>
      let hdr := if bit (byteAt t 5) 5 then splice hdr (if v6 then l3 + 7 else l3 + 8) (beBytes 1 ttl) else hdr
      if bit (byteAt t 5) 4 then
        (if v6 then splice hdr l3 (beBytes 2 (putBits (be hdr l3 2) 11 6 (tos / 4)))
         else splice hdr (l3 + 1) (beBytes 1 (putBits (byteAt hdr (l3 + 1)) 7 2 (tos / 4))))
      else hdr
    | none => hdr
  if bit (byteAt t 5) 6 then splice hdr l4 (beBytes 2 (49_152 + hash % 16384)) else hdr

/-- Fills the outer lengths and checksums of a frame that begins with a template's header (R155). -/
def fillOuter (t : List Byte) (f : List Byte) : List Byte :=
  let l3 := byteAt t 2
  let l4 := byteAt t 3
  let udp := f.length - l4
  let f := splice f (l4 + 4) (beBytes 2 udp)
  if tmplV6 t then
    let f := splice f (l3 + 4) (beBytes 2 (f.length - l3 - 40))
    let f := splice f (l4 + 6) [0, 0]
    let v := l4Sum true (slice f (l3 + 8) 16) (slice f (l3 + 24) 16) 17 (f.drop l4)
    splice f (l4 + 6) (beBytes 2 (if v = 0 then 0xFFFF else v))
  else
    let f := splice f (l4 + 6) [0, 0]
    let f := splice (splice f (l3 + 2) (beBytes 2 (f.length - l3))) (l3 + 10) [0, 0]
    splice f (l3 + 10) (beBytes 2 (inetSum (slice f l3 (l4 - l3))))

/-- Step 5: `ENCAP`. Types 1, 2 and 6 prepend their header; types 3, 4 and 5 insert behind the source MAC address.
DESIGN CHOICE (log 103): `DSCP_COPY` puts the top three bits of the DSCP into a label's three-bit traffic class. DESIGN CHOICE: a bottom label takes
the low 20 of the 24 bits of `PARAM` (notes/assumptions/133.md). -/
def edEncap (e : Ed) (r : EditRes) (t : List Byte) (hash : Nat) : List Byte :=
  let inner := (e.h.l3 r.decap).map fun x => (tosOf e.f x, ttlOf e.f x)
  if !r.encap then e.f
  else match tmplType t with
    | 1 | 2 | 6 =>
      let odst := if r.odstP then some (if tmplV6 t then bits r.v.toNat 127 0 else if r.vmode then r.odst4 else bits r.v.toNat 31 0) else none
      tmplHdr t (if r.vniP then some r.vni else none) odst inner hash ++ e.f
    | 3 =>
      let labels := slice t 16 (tmplLen t)
      let labels := if r.vniP then
          let o := byteAt t 4
          splice labels o (beBytes 4 (putBits (be labels o 4) 31 12 r.vni)) else labels
      -- TTL_COPY and DSCP_COPY fill every label's TTL and traffic class
      let n := labels.length / 4
      let labels := (List.range n).flatMap fun i =>
        let w := be labels (4 * i) 4
        let w := match inner with
          | some (tos, ttl) =>
            let w := if bit (byteAt t 5) 5 then putBits w 7 0 ttl else w
            if bit (byteAt t 5) 4 then putBits w 11 9 (tos / 32) else w
          | none => w
        beBytes 4 w
      e.f.take 12 ++ beBytes 2 0x8847 ++ labels ++ e.f.drop 14
    | 4 | 5 => e.f.take 12 ++ slice t 16 (tmplLen t) ++ e.f.drop 12
    | _ => e.f

/-- Steps 6 and 7: the MAC addresses of a routed frame and the egress tag. -/
def edMacs (f : List Byte) (routed : Option (Nat × Nat)) (tag : Option Nat) : List Byte :=
  let f := match routed with
    | some (dmac, smac) => splice (splice f 0 (beBytes 6 dmac)) 6 (beBytes 6 smac)
    | none => f
  match tag with
  | some vid => f.take 12 ++ beBytes 4 (0x8100 * 65536 + vid % 4096) ++ f.drop 12
  | none => f

/-- The Ethernet header and the steer header of a steered frame (R283). -/
def steerHdr (c : Cfg) (tgt fh : Nat) : List Byte :=
  let p := tgt / 2 % 8
  beBytes 6 (c.get duoPartnerMacHiMacHi p * 2 ^ 32 + c.get duoPartnerMacLoMacLo p) ++
    beBytes 6 (c.get duoMacHiMacHi * 2 ^ 32 + c.get duoMacLoMacLo) ++ [0x88, 0xB6, 0x10, 0x00] ++
    beBytes 3 (c.get glbDeviceIdId) ++ beBytes 3 (c.get duoPartnerCfgDevice p) ++ beBytes 8 fh

/-- The frame that leaves a port for a queued frame (R253), without FCS; `final` is false for a frame that recirculates, whose program's
edits alone are applied (R71, R135). What the forwarding lookup read stands in the result block (R165); the template, the NAT64 prefix, the
router MAC and `TAGGED` are read in the frame's turn (R123). -/
def editFrame (c : Cfg) (m : Mach) (l : Nat) (fd : FrameD) (f : List Byte) (final : Bool := true) : List Byte :=
  let r := fd.res
  if r.raw then (match r.steer with
    | some (tgt, fh) => steerHdr c tgt fh ++ f
    | none => f)
  else
    let die := l / 128
    let t := if r.encap then tmplOf m fd.turn die r.tmpl else []
    let outer := r.encap && (tmplType t = 1 || tmplType t = 2 || tmplType t = 6)
    let e := edDecap ⟨f, fd.hdrs⟩ r.decap
    -- the edited level's headers stand at level `DECAP` or, without it, at the level the program ran on
    let lev := editLevel fd.level r.decap
    let onLev (r : EditRes) : EditRes := { r with decap := lev }
    let e := if r.nat64 = 0 then e else edNat64 e (onLev r) (nat64Prefix c m fd.turn die)
    let e := edRewrite e (onLev r)
    let e := if final || bit r.rw.toNat 5 || bit r.rw.toNat 4 then edTag e r else e
    let e := if r.routed && !outer then edTtl e lev else e
    let g := edEncap e (onLev r) t fd.hash
    let routed := if r.routed then some (r.dmac, rmacOf c m fd.turn die r.rmac) else none
    let tag := if final && c.of m fd.turn fwdEgrTagged die l = 1 then some r.vid else none
    let g := edMacs g routed tag
    -- lengths are filled last, with the outer header moved by the tag
    if outer then
      let shift := if tag.isSome then 4 else 0
      let t := splice t 2 (beBytes 1 (byteAt t 2 + shift) ++ beBytes 1 (byteAt t 3 + shift))
      fillOuter t g
    else g

/-! ### PTP (R242) -/

/-- The type field behind any tags, from offset `o` on. -/
def pastTags (f : List Byte) : Nat → Nat → Nat
  | 0, o => o
  | fuel + 1, o => if be f o 2 = 0x8100 || be f o 2 = 0x88A8 then pastTags f fuel (o + 4) else o

/-- The protocol and offset behind any IPv6 extension headers, from one of protocol `p` at offset `o` on. -/
def pastExts (f : List Byte) : Nat → Nat → Nat → Nat × Nat
  | 0, p, o => (p, o)
  | fuel + 1, p, o =>
    if p = 0 || p = 43 || p = 60 then pastExts f fuel (byteAt f o) (o + 8 * (byteAt f (o + 1) + 1))
    else if p = 51 then pastExts f fuel (byteAt f o) (o + 4 * (byteAt f (o + 1) + 2))
    else if p = 44 && be f (o + 2) 2 / 8 = 0 then pastExts f fuel (byteAt f o) (o + 8)
    else (p, o)

/-- The PTP header of a finished frame (R242): its offset and that of the UDP checksum, with the IP version (0: no UDP). -/
def findPtp (f : List Byte) : Option (Nat × Nat × Nat) :=
  let o := pastTags f 64 12
  let r := match be f o 2 with
    | 0x88F7 => some (o + 2, 0, 0)
    | 0x0800 =>
      let l4 := o + 2 + byteAt f (o + 2) % 16 * 4
      if byteAt f (o + 11) = 17 && be f (l4 + 2) 2 = 319 then some (l4 + 8, l4 + 6, 4) else none
    | 0x86DD =>
      let (p, l4) := pastExts f 32 (byteAt f (o + 8)) (o + 42)
      if p = 17 && be f (l4 + 2) 2 = 319 then some (l4 + 8, l4 + 6, 6) else none
    | _ => none
  r.filter fun x => decide (x.1 < 256) && decide (x.1 + 44 ≤ f.length)

/-- One-step insertion of the egress time `ts`, in 2^-16 ns: `none` where the frame is no such Sync message. -/
def oneStep (f : List Byte) (ts : Nat) : Option (List Byte) :=
  match findPtp f with
  | none => none
  | some (o, ck, v) =>
    if byteAt f o % 16 ≠ 0 || bit (byteAt f (o + 6)) 1 then none
    else
      let ns := ts / 65536
      let new := splice (splice f (o + 34) (beBytes 6 (secOf ns) ++ beBytes 4 (nsOf ns))) (o + 8)
        (beBytes 8 ((be f (o + 8) 8 + ts % 65536) % 2 ^ 64))
      some (match v with
        | 4 => splice new ck [0, 0]
        | 6 => splice new ck (beBytes 2 (sumUpdate (be f ck 2) (slice f (o + 8) 8 ++ slice f (o + 34) 10) (slice new (o + 8) 8 ++ slice new (o + 34) 10)))
        | _ => new)

end Sys2Proof.Machine
end

