-- ==== Sys2Proof/Machine/Flow.lean ====
section
/-! DEFINITION. Flow records and where they lie: keys and hashes, formats, the cache, HBM, the stash, overflow counts (R76-R92,
R100, R103). -/
namespace Sys2Proof.Machine

/-! ### Keys and hashes (R63, R77, R78) -/

/-- The flow-hash seed: software's, or the one drawn at the seal. -/
def flowSeed (c : Cfg) (m : Mach) : List Byte :=
  if c.on fstCtrlSwSeed then (List.range 4).flatMap fun n => beBytes 4 (c.get fstSeedSeed n)
  else m.fsl.seed ++ List.replicate (16 - m.fsl.seed.length) 0

/-- `FH` of a key. -/
def fhOf (c : Cfg) (m : Mach) (key : List Byte) : Nat := (sipHash24 (flowSeed c m) key).toNat

/-- The fields of `FH`. -/
def fhSlot (fh : Nat) : Nat := bits fh 63 60
def fhSteer (fh : Nat) : Nat := bits fh 59 44
def fhTag (fh : Nat) : Nat := bits fh 39 24
def fhBucket (fh : Nat) : Nat := bits fh 23 0

/-- The alternate-bucket function of a tag (R78). -/
def altOf (t : Nat) : Nat := Nat.lor (t * 0x9E_3779 % 2 ^ 24) 1

/-- The other bucket of a key's record. -/
def otherBucket (fh b : Nat) : Nat := Nat.xor b (altOf (fhTag fh))

/-! ### Record formats (R82-R86) -/

/-- `CTRL` (R84). -/
def Rec.ctrl (r : Rec) : Nat :=
  2 ^ 31 + b2n r.wide * 2 ^ 30 + r.role % 4 * 2 ^ 28 + r.tstate % 16 * 2 ^ 24 + r.tprof % 16 * 2 ^ 20 + b2n r.noage * 2 ^ 19 +
    b2n r.exp * 2 ^ 18 + b2n r.pinned * 2 ^ 17 + b2n r.unmirrored * 2 ^ 16 + r.version % 65536

/-- `TRACK` as bytes (R85). -/
def Track.bytes (t : Track) (wide : Bool) : List Byte :=
  let v := t.next % 2 ^ 32 * 2 ^ 16 + t.win % 2 ^ 13 * 8 + b2n t.wchk * 4 + b2n t.reply * 2 + b2n t.rst
  beBytes 6 v ++ (if wide then [0, 0] else [])

/-- `TRACK` of bytes. -/
def trackOf (b : List Byte) : Track :=
  let v := be b 0 6
  { next := bits v 47 16, win := bits v 15 3, wchk := bit v 2, reply := bit v 1, rst := bit v 0 }

/-- Bytes of `PARAM`. -/
def paramLen (wide : Bool) : Nat := if wide then 40 else 16

/-- `n` bytes of a string, zeros behind what it lacks. -/
def padTo (n : Nat) (b : List Byte) : List Byte := (b ++ List.replicate n 0).take n

/-- A record's bytes before `CHECK` (R82, R83). -/
def Rec.front (r : Rec) : List Byte :=
  r.key ++ beBytes 4 r.ctrl ++ beBytes 2 r.lastHit ++ beBytes 2 r.created ++ beBytes 4 r.pkts ++
    (if r.wide then beBytes 6 r.bytes else beBytes 5 r.bytes ++ [0]) ++ beBytes 2 (r.prog % 4096) ++ padTo (paramLen r.wide) r.param ++
    beBytes 3 (r.peer % 2 ^ 18) ++ [0] ++ r.track.bytes r.wide ++ (if r.wide then List.replicate 14 0 else [])

/-- A record as it lies in HBM. -/
def Rec.image (r : Rec) : List Byte := r.front ++ beBytes 2 (crc16 r.front)

/-- The record of 64 or 128 bytes. -/
def recOf (b : List Byte) : Rec :=
  let w := decide (b.length = 128)
  let k := if w then 40 else 16
  let ctrl := be b k 4
  let p := if w then 60 else 36
  { wide := w, key := b.take k, role := bits ctrl 29 28, tstate := bits ctrl 27 24, tprof := bits ctrl 23 20, noage := bit ctrl 19,
    exp := bit ctrl 18, pinned := bit ctrl 17, unmirrored := bit ctrl 16, version := bits ctrl 15 0, lastHit := be b (k + 4) 2,
    created := be b (k + 6) 2, pkts := be b (k + 8) 4, bytes := if w then be b (k + 12) 6 else be b (k + 12) 5,
    prog := be b (if w then 58 else 34) 2 % 4096, param := slice b p (paramLen w), peer := be b (if w then 100 else 52) 3 % 2 ^ 18,
    track := trackOf (slice b (if w then 104 else 56) 8) }

/-- A supplied record that R113 takes: `VALID`, `ROLE` 0, reserved parts 0, `WIDE` as its size. -/
def recordOk (b : List Byte) : Bool :=
  let w := decide (b.length = 128)
  let ctrl := be b (if w then 40 else 16) 4
  bit ctrl 31 && bit ctrl 30 == w && bits ctrl 29 28 == 0 &&
    (if w then bits (be b 58 2) 15 12 == 0 && bits (be b 100 3) 23 18 == 0 && byteAt b 103 == 0 && be b 110 2 == 0 && be b 112 14 == 0
     else byteAt b 33 == 0 && bits (be b 34 2) 15 12 == 0 && bits (be b 52 3) 23 18 == 0 && byteAt b 55 == 0)

/-- A wide companion (R139, R142): `NOAGE`, and in bytes 18-19 of `PARAM` a word with `CSIDE` 1, `BOUND` and `COMP` 0
(notes/assumptions/97.md). -/
def Rec.wideComp (r : Rec) : Bool := r.wide && r.noage && be r.param 18 2 / 1024 == 8

/-- The binding word (R139): bytes 6-7 of `PARAM`, in a wide companion bytes 18-19. -/
def Rec.bindWord (r : Rec) : Nat := be r.param (if r.wideComp then 18 else 6) 2
def Rec.bound (r : Rec) : Bool := bit r.bindWord 15
def Rec.bindComp (r : Rec) : Bool := bit r.bindWord 14
def Rec.bindPool (r : Rec) : Nat := r.bindWord % 1024
def Rec.bindAddr (r : Rec) : Nat := be r.param 0 4
def Rec.bindPort (r : Rec) : Nat := be r.param 4 2
def Rec.zone (r : Rec) : Nat := if r.wide then be r.key 37 3 else be r.key 13 3

/-! ### Places -/

/-- The physical slice that serves a slot (R81). -/
def Mach.phys (m : Mach) (region : Nat) : Nat := Tbl.look region m.fsl.mapPhys region

/-- A table key for something kept for each bucket. -/
def bkey (region b : Nat) : Nat := region * 2 ^ 24 + b

/-- A place of a region in HBM. -/
def hkey (region pos : Nat) : Nat := region * 2 ^ 26 + pos

/-- The cache set of a bucket in a slice. -/
def setKey (phys b : Nat) : Nat := phys * 8192 + b % 8192

def Mach.set (m : Mach) (k : Nat) : List Line := Tbl.look [] m.fsl.cache k
def Mach.putSet (m : Mach) (k : Nat) (l : List Line) : Mach := { m with fsl := { m.fsl with cache := Tbl.put [] m.fsl.cache k l } }
def Mach.hbmAt (m : Mach) (region pos : Nat) : Option Rec := Tbl.find m.fsl.hbm (hkey region pos)
/-- Writes a place of HBM as it stands, with a `CHECK` that may fail. -/
def Mach.storeHbm (m : Mach) (region pos : Nat) (r : Option Rec) : Mach :=
  { m with fsl := { m.fsl with hbm := match r with
      | some x => Tbl.ins m.fsl.hbm (hkey region pos) x
      | none => Tbl.del m.fsl.hbm (hkey region pos) } }

/-- Writes a record with its `CHECK` computed (R86), or clears the place. -/
def Mach.putHbm (m : Mach) (region pos : Nat) (r : Option Rec) : Mach := m.storeHbm region pos (r.map fun x => { x with bad := false })

/-- A cached line of a slice. -/
def Mach.lineAt (m : Mach) (phys pos : Nat) : Option Line := (m.set (setKey phys (pos / 4))).find? (·.pos == pos)

/-- The failed slice of a takeover of this region, whose dirty lines still count (R117). -/
def Mach.failing (m : Mach) (region : Nat) : Option Nat :=
  match m.fsl.takeover with
  | some t => if t.slot = region then some t.failed else none
  | none => none

/-- The record at a place as an operation sees it: the cached line, a failed slice's dirty line, or HBM (R91, R117). -/
def recAt (m : Mach) (region pos : Nat) : Option Rec :=
  match m.lineAt (m.phys region) pos with
  | some l => some l.rcd
  | none =>
    match (m.failing region).bind fun f => (m.lineAt f pos).filter (·.dirty) with
    | some l => some l.rcd
    | none => m.hbmAt region pos

/-- The records of a bucket with their places. -/
def bucketRecs (m : Mach) (region b : Nat) : List (Nat × Rec) :=
  (List.range 4).filterMap fun s => (recAt m region (4 * b + s)).map fun r => (4 * b + s, r)

/-- A place that a move has reserved at its step 1 (R99). -/
def Mach.reserved (m : Mach) (region pos : Nat) : Bool :=
  m.fsl.ledger.any fun e => e.region == region && (e.pos == pos || (e.rcd.wide && e.pos + 1 == pos))

/-- A slot of a bucket is taken (R80): by a record that starts there, by the upper half of a wide one, or by a move's reservation. -/
def slotTaken (m : Mach) (region b s : Nat) : Bool :=
  (recAt m region (4 * b + s)).isSome || m.reserved region (4 * b + s) ||
    (s % 2 == 1 && ((recAt m region (4 * b + s - 1)).map (·.wide)).getD false)

/-- The place a record takes in a bucket: its lowest free slot or pair (R97). -/
def roomAt (m : Mach) (region b : Nat) (wide : Bool) : Option Nat :=
  if wide then ([0, 2].find? fun s => !slotTaken m region b s && !slotTaken m region b (s + 1)).map (4 * b + ·)
  else (lowest? 4 fun s => !slotTaken m region b s).map (4 * b + ·)

/-- Slots a record takes. -/
def Rec.size (r : Rec) : Nat := if r.wide then 2 else 1

/-! ### The cache (R91) -/

/-- The lines of a record that are in the cache. -/
def Line.lines (x : Line) : Nat := if x.half then 1 else x.rcd.size

/-- Ways in use in a set. -/
def waysOf (l : List Line) : Nat := (l.map Line.lines).sum

/-- Lines of a record that may be evicted, and those that its pin keeps. -/
def Line.loose (x : Line) : Nat := if x.rcd.pinned then x.extra else x.lines
def Line.firm (x : Line) : Nat := x.lines - x.loose

/-- One line of a record leaves the cache: of a wide record's two, equally recent, the lower slot's first (notes/assumptions/91.md).
A dirty one reaches HBM; while the other is not written, the record's `CHECK` in HBM fails. -/
def evictLine (m : Mach) (region k : Nat) (x : Line) : Mach :=
  let two := x.rcd.wide && !x.half
  let m := if x.dirty then m.storeHbm region x.pos (some { x.rcd with bad := two }) else m
  m.putSet k (if two then (m.set k).map fun y => if y.pos = x.pos then { y with half := true, extra := y.extra - 1 } else y
              else (m.set k).filter (·.pos != x.pos))

/-- Evicts least recently used lines until `n` ways are free. -/
def evict (region n : Nat) : Nat → Mach → Nat → Mach
  | 0, m, _ => m
  | fuel + 1, m, k =>
    let l := m.set k
    if waysOf l + n ≤ 16 then m
    else match l.find? fun x => x.loose != 0 with
      | some x => evict region n fuel (evictLine m region k x) k
      | none => m

/-- Pinned lines beyond the limit take the place of pinned lines that have left, the least recently used first (notes/assumptions/91.md). -/
def repin (l : List Line) : List Line :=
  (l.foldl (fun (a : List Line × Nat) x =>
    let n := if x.rcd.pinned then min x.extra a.2 else 0
    (a.1 ++ [{ x with extra := x.extra - n }], a.2 - n)) ([], 8 - (l.map Line.firm).sum)).1

/-- A line leaves a slice's cache. -/
def dropLine (m : Mach) (phys pos : Nat) : Mach :=
  let k := setKey phys (pos / 4)
  m.putSet k (repin ((m.set k).filter (·.pos != pos)))

/-- Installs or updates a record's lines as the most recently used of their set; of a `half` one only the upper slot's. A line taken from
a failed slice is the spare's from then on (R117). -/
def putLine (c : Cfg) (m : Mach) (region pos : Nat) (r : Rec) (dirty : Bool) (half : Bool := false) : Mach :=
  let phys := m.phys region
  let k := setKey phys (pos / 4)
  let old := (m.set k).find? (·.pos == pos)
  let m := m.putSet k ((m.set k).filter (·.pos != pos))
  let n := if half then 1 else r.size
  let m := evict region n 16 m k
  let theirs := (m.failing region).bind fun f => m.lineAt f pos
  let m := match m.failing region with
    | some f => dropLine m f pos
    | none => m
  let extra := if r.pinned then n - min n (8 - ((m.set k).map Line.firm).sum) else 0
  let was := (old.map fun x => if x.rcd.pinned then x.extra else 0).getD 0
  let m := if was < extra then bump c m .fslCnt phys cFslPinOver (x := extra - was) else m
  let dirty := dirty || (old.map (·.dirty)).getD false || (theirs.map (·.dirty)).getD false
  m.putSet k (repin (m.set k ++ [{ pos := pos, rcd := r, dirty := dirty, extra := extra, half := half }]))

/-- A record is removed from its place: HBM and every cached copy. -/
def clearPlace (m : Mach) (region pos : Nat) : Mach :=
  let m := dropLine (m.putHbm region pos none) (m.phys region) pos
  match m.failing region with
  | some f => dropLine m f pos
  | none => m

/-- A record is written from one place to another (R91, R99 steps 3 and 4): its cached lines in the cache, the rest directly to HBM. -/
def moveRec (c : Cfg) (m : Mach) (region src dst : Nat) (r : Rec) : Mach :=
  let line := m.lineAt (m.phys region) src
  let m := clearPlace m region src
  match line with
  | some l => putLine c (if l.half then m.storeHbm region dst (some { r with bad := true }) else m) region dst r true l.half
  | none => m.putHbm region dst (some r)

/-! ### The stash (R103) -/

/-- A region's stash entries; none can be seen before a spare has loaded their image (R117). DESIGN CHOICE: the rule has each placement
written through to the image and says nothing of later updates and removals; here the image always equals the stash
(notes/assumptions/92.md). -/
def Mach.stash (m : Mach) (region : Nat) : List Rec := if m.fsl.imagesDue.contains region then [] else Tbl.look [] m.fsl.stash region
def Mach.putStash (m : Mach) (region : Nat) (l : List Rec) : Mach := { m with fsl := { m.fsl with stash := Tbl.put [] m.fsl.stash region l } }

/-- The spare that serves a region has not yet loaded its stash image. -/
def Mach.imageDue (m : Mach) (region : Nat) : Bool := m.fsl.imagesDue.contains region

/-- An entry leaves the stash; the retry's rotation and a sweep that has passed it stay at the same next entry (R103, R108). -/
def unstash (m : Mach) (region : Nat) (key : List Byte) : Mach :=
  let l := Tbl.look [] m.fsl.stash region
  let i := l.findIdx (·.key == key)
  let x := Tbl.look {} m.fsl.sweep region
  let m := m.putStash region (l.filter fun r => r.key != key)
  { m with fsl := { m.fsl with
    retry := if i < Tbl.look 0 m.fsl.retry region then Tbl.upd 0 m.fsl.retry region (· - 1) else m.fsl.retry
    sweep := if x.running.isSome && decide (i < l.length) && decide (2 ^ 24 + i < x.cursor) then Tbl.put {} m.fsl.sweep region { x with cursor := x.cursor - 1 }
      else m.fsl.sweep } }

/-! ### Where a key's record is -/

/-- Where a record is held. -/
inductive Spot
  | stash
  | at (pos : Nat)
deriving DecidableEq, Repr

/-- The place of a key's record. A count above 0 never hides one (R100, R101), so both buckets are looked at. -/
def findKey (m : Mach) (region : Nat) (fh : Nat) (key : List Byte) : Option (Spot × Rec) :=
  match (m.stash region).find? (·.key == key) with
  | some r => some (.stash, r)
  | none =>
    let p := fhBucket fh
    match (bucketRecs m region p ++ bucketRecs m region (otherBucket fh p)).find? (·.2.key == key) with
    | some (pos, r) => some (.at pos, r)
    | none => none

/-- A held record changed in place. -/
def putRec (c : Cfg) (m : Mach) (region : Nat) (pl : Spot) (r : Rec) : Mach :=
  match pl with
  | .stash => m.putStash region ((Tbl.look [] m.fsl.stash region).map fun x => if x.key = r.key then r else x)
  | .at pos => putLine c m region pos r true

/-! ### Overflow counts (R100, R109) -/

/-- A rebuild pass runs in a region. -/
def Mach.rebuilding (m : Mach) (region : Nat) : Bool := ((Tbl.look {} m.fsl.sweep region).running == some SweepKind.rebuild)

/-- A bucket that the rebuild pass has read. -/
def Mach.rebuilt (m : Mach) (region b : Nat) : Bool := m.rebuilding region && decide (b < (Tbl.look {} m.fsl.sweep region).cursor)

def Mach.ovf (m : Mach) (region b : Nat) : Nat := Tbl.look 0 m.fsl.ovf (bkey region b)

/-- Adds 1 to the count of a primary bucket; `held` is the bucket that holds the record. -/
def ovfAdd (c : Cfg) (m : Mach) (region b held : Nat) : Mach :=
  let v := m.ovf region b
  let m := if v = 3 then bump c m .fslCnt (m.phys region) cFslOvfSat
    else { m with fsl := { m.fsl with ovf := Tbl.put 0 m.fsl.ovf (bkey region b) (v + 1) } }
  if m.rebuilt region held then { m with fsl := { m.fsl with fresh := Tbl.upd 0 m.fsl.fresh (bkey region b) fun v => min 3 (v + 1) } } else m

/-- Takes 1 from the count of a primary bucket; a saturated count is not decreased. -/
def ovfSub (c : Cfg) (m : Mach) (region b held : Nat) : Mach :=
  let v := m.ovf region b
  let m := if v = 3 then bump c m .fslCnt (m.phys region) cFslOvfSat
    else { m with fsl := { m.fsl with ovf := Tbl.put 0 m.fsl.ovf (bkey region b) (v - 1) } }
  if m.rebuilt region held then
    { m with fsl := { m.fsl with fresh := Tbl.upd 0 m.fsl.fresh (bkey region b) fun v => if v = 3 then 3 else v - 1 } }
  else m

/-- The overflow count moves with a record placed in bucket `b` (R97, R99). -/
def countPlaced (c : Cfg) (m : Mach) (region b fh : Nat) : Mach := if b = fhBucket fh then m else ovfAdd c m region (fhBucket fh) b

/-- And with one removed from bucket `b`. -/
def countRemoved (c : Cfg) (m : Mach) (region b fh : Nat) : Mach := if b = fhBucket fh then m else ovfSub c m region (fhBucket fh) b

/-- A new record is placed: a newly installed dirty line (R91). -/
def placeRec (c : Cfg) (m : Mach) (region pos : Nat) (r : Rec) : Mach :=
  let m := putLine c (countPlaced c m region (pos / 4) (fhOf c m r.key)) region pos r true
  bump c m .fslCnt (m.phys region) cFslInsert

/-- A record goes to the stash, and its image with it (R103). -/
def stashRec (c : Cfg) (m : Mach) (region : Nat) (r : Rec) : Mach :=
  let m := m.putStash region (Tbl.look [] m.fsl.stash region ++ [r])
  bump c (bump c m .fslCnt (m.phys region) cFslStashIn) .fslCnt (m.phys region) cFslInsert

/-! ### Reading a bucket (R86, R116) -/

/-- A bucket's records in HBM are verified; one that fails its check is cleared, counted, latched and reported. DESIGN CHOICE: clearing one
that lies outside its primary bucket takes it off the overflow count, as a delete does (notes/assumptions/93.md). -/
def readBucket (c : Cfg) (m : Mach) (region b : Nat) : Mach :=
  (List.range 4).foldl (fun m s =>
    let pos := 4 * b + s
    match m.hbmAt region pos with
    | some r =>
      if r.bad && (m.lineAt (m.phys region) pos).isNone && ((m.failing region).bind fun f => m.lineAt f pos).isNone then
        let phys := m.phys region
        let m := countRemoved c (clearPlace m region pos) region b (fhOf c m r.key)
        let m := bump c m .fslCnt phys cFslCheckError
        let m := if m.stOn fslCheckAddrValid phys then m
          else ((m.setSt fslCheckAddrValid 1 phys).setSt fslCheckAddrBucket b phys).setSt fslCheckAddrSlot s phys
        raise c { m with duo := { m.duo with lost := true } } 16 region DEGRADED (4 * b + s)
      else m
    | none => m) m

/-! ### Time -/

/-- The age of a tick (R106). -/
def ageOf (m : Mach) (t : Nat) : Nat := (m.fsl.ageNow + 65536 - t % 65536) % 65536

/-- A record's timeout in ticks: 0 never (R107). -/
def timeoutOf (c : Cfg) (r : Rec) : Nat :=
  if r.tstate % 2 = 0 then c.get fstTprofToEven r.tprof (r.tstate / 2) else c.get fstTprofToOdd r.tprof (r.tstate / 2)

/-- A record has expired (R107). -/
def expired (c : Cfg) (m : Mach) (r : Rec) : Bool :=
  !r.noage && r.role != 1 && timeoutOf c r != 0 && decide (timeoutOf c r < ageOf m r.lastHit)

/-- A response's `STAMP` (R95). -/
def Mach.stamp (m : Mach) : Nat := m.up / 10 % 65536

/-! ### The reinsert guard (R112) -/

def Mach.guardOf (m : Mach) (region : Nat) : List (List Byte × Nat) := Tbl.look [] m.fsl.guard region

/-- A key is guarded. -/
def Mach.guarded (m : Mach) (region : Nat) (key : List Byte) : Bool := (m.guardOf region).any (·.1 == key)

/-- No guard entry is free. -/
def Mach.guardFull (m : Mach) (region : Nat) : Bool := decide (256 ≤ (m.guardOf region).length)

/-- A deleted key enters the guard. -/
def guardKey (c : Cfg) (m : Mach) (region : Nat) (key : List Byte) : Mach :=
  let l := m.guardOf region ++ [(key, m.up + 100 * c.get fstGuardCfgReinsertGuard)]
  { m with fsl := { m.fsl with guard := Tbl.put [] m.fsl.guard region l } }

/-- A record is deleted: its slot is cleared in HBM and cache, its overflow count adjusted, its key guarded (R91, R99, R112). -/
def removeRec (c : Cfg) (m : Mach) (region : Nat) (pl : Spot) (r : Rec) : Mach :=
  let m := match pl with
    | .stash => unstash m region r.key
    | .at pos => countRemoved c (clearPlace m region pos) region (pos / 4) (fhOf c m r.key)
  guardKey c m region r.key

/-- Every record of a region, with its place. -/
def regionRecs (m : Mach) (region : Nat) : List (Spot × Rec) :=
  let places := (m.fsl.hbm.filterMap fun e => if e.1 / 2 ^ 26 = region then some (e.1 % 2 ^ 26) else none) ++
    (((m.fsl.cache.filter fun e => e.1 / 8192 == m.phys region || some (e.1 / 8192) == m.failing region).flatMap (·.2)).map (·.pos))
  let places := (places.mergeSort fun a b => decide (a ≤ b)).dedup
  (places.filterMap fun p => (recAt m region p).map fun r => (Spot.at p, r)) ++ (Tbl.look [] m.fsl.stash region).map fun r => (.stash, r)

end Sys2Proof.Machine
end

