-- ==== Sys2Proof/Machine/Service.lean ====
section
/-! DEFINITION. The services on `SD` beside the slices: NAT allocation, backend selection, the IPFIX exporter (R139-R147,
R157-R160). -/
namespace Sys2Proof.Machine

/-! ### NAT pools (R140, R141, R143, R298) -/

/-- Fields of a pool descriptor. -/
def plBase (d : List Byte) : Nat := be d 0 4
def plLog2 (d : List Byte) : Nat := byteAt d 4
def plEnable (d : List Byte) : Bool := bit (byteAt d 5) 7
def plCompWide (d : List Byte) : Bool := bit (byteAt d 5) 6
def plCompSym (d : List Byte) : Bool := bit (byteAt d 5) 5
def plLo (d : List Byte) : Nat := be d 6 2
def plHi (d : List Byte) : Nat := be d 8 2
def plCompProg (d : List Byte) : Nat := be d 10 2 % 4096
def plOutZone (d : List Byte) : Nat := be d 12 3
def plRow (d : List Byte) : Nat := be d 16 4

def Mach.pool (m : Mach) (n : Nat) : NatPool := Tbl.look {} m.fsl.pools n
def Mach.setPool (m : Mach) (n : Nat) (p : NatPool) : Mach := { m with fsl := { m.fsl with pools := Tbl.put {} m.fsl.pools n p } }

/-- A port outside the ports of a pool loaded on the row, whose bit that load has set (R140; notes/assumptions/98.md). -/
def natOutside (m : Mach) (row port : Nat) : Bool :=
  port = 0 || m.fsl.pools.any fun e =>
    let d := e.2.desc
    d ≠ [] && decide (plRow d ≤ row) && decide (row < plRow d + 2 ^ plLog2 d) && (decide (port < plLo d) || decide (plHi d < port))

/-- A bit of the bitmap: set for a pair in use, and for a port outside a loaded pool's ports until it is cleared (R140). -/
def natMarked (m : Mach) (row port : Nat) : Bool :=
  let k := row * 65536 + port
  Tbl.look false m.fsl.natBit k || (natOutside m row port && !m.fsl.natFreed.contains k)

/-- Writes a bit. -/
def natSet (m : Mach) (row port : Nat) (v : Bool) : Mach :=
  let k := row * 65536 + port
  { m with fsl := { m.fsl with natBit := Tbl.put false m.fsl.natBit k v
                               natFreed := if v || !natOutside m row port || m.fsl.natFreed.contains k then m.fsl.natFreed else k :: m.fsl.natFreed } }

/-- The row and port of a pair of a pool, if it lies within the pool. -/
def natCell (p : NatPool) (addr port : Nat) : Option Nat :=
  let d := p.desc
  if d = [] || addr < plBase d || 2 ^ plLog2 d ≤ addr - plBase d || port < plLo d || plHi d < port then none
  else some (plRow d + (addr - plBase d))

/-- Find-first-free from a cursor of address index and port, over the addresses of a pool in order. -/
def natFind (m : Mach) (d : List Byte) : Nat → Nat → Nat → Nat → Option (Nat × Nat)
  | 0, _, _, _ => none
  | fuel + 1, left, i, port =>
    let n := 2 ^ plLog2 d
    let port := max port (plLo d)
    if plHi d < port then (if left = 0 then none else natFind m d fuel (left - 1) ((i + 1) % n) 0)
    else if natMarked m (plRow d + i) port then natFind m d fuel left i (port + 1)
    else some (i, port)

/-- The next free pair of a pool at its cursor: every address is visited once, and the first again from its lowest port. -/
def natNext (m : Mach) (p : NatPool) : Option (Nat × Nat) :=
  let d := p.desc
  let n := 2 ^ plLog2 d
  natFind m d (m.fsl.natBit.length + 2 * n + 65536 + 4) n (p.cursor / 65536 % n) (p.cursor % 65536)

/-- Refills a pool's ready queue up to 64 pairs, which are marked (R141). -/
def natFill (n : Nat) : Nat → Mach → Mach
  | 0, m => m
  | fuel + 1, m =>
    let p := m.pool n
    if 64 ≤ p.ready.length then m
    else match natNext m p with
      | none => m
      | some (i, port) =>
        let m := natSet m (plRow p.desc + i) port true
        natFill n fuel (m.setPool n { p with ready := p.ready ++ [(plBase p.desc + i, port)], cursor := (i * 65536 + port + 1) % 2 ^ 32 })

/-- The NAT service's refill: whenever the queue has fallen to 16 pairs. -/
def natRefill (m : Mach) (n : Nat) : Mach :=
  let p := m.pool n
  if p.desc ≠ [] && plEnable p.desc && decide (p.ready.length ≤ 16) then natFill n 64 m else m

/-- How an allocation fares. -/
inductive NatAns
  | pair (addr port : Nat)
  | wait
  | none
deriving DecidableEq, Repr

/-- An allocation from a pool (R141): a ready pair, or a wait for the refill while the pool has a free pair. -/
def natTake (c : Cfg) (m : Mach) (n : Nat) : NatAns × Mach :=
  let p := m.pool n
  if p.desc = [] || !plEnable p.desc then (.none, m)
  else match p.ready with
    | (a, q) :: rest => (.pair a q, bump c (m.setPool n { p with ready := rest }) .fstCnt cFstNatAlloc)
    | [] => if (natNext m p).isSome then (.wait, m) else (.none, m)

/-- A pair returned to its pool (R143). -/
def natReturn (c : Cfg) (m : Mach) (n addr port : Nat) : Mach :=
  match natCell (m.pool n) addr port with
  | some row =>
    if natMarked m row port then bump c (natSet m row port false) .fstCnt cFstNatReturn
    else bump c m .fstCnt cFstNatBadReturn
  | none => bump c m .fstCnt cFstNatBadReturn

/-- The binding of a partner's record is claimed (R298). -/
def natClaim (c : Cfg) (m : Mach) (r : Rec) : Mach :=
  if !r.bound then m
  else match natCell (m.pool r.bindPool) r.bindAddr r.bindPort with
    | some row => if natMarked m row r.bindPort then bump c m .duoCnt cDuoClaimDup else natSet m row r.bindPort true
    | none => bump c m .duoCnt cDuoClaimDup

/-- A binding named by the 8 bytes of R139 is released (R298). -/
def natRelease (c : Cfg) (m : Mach) (b : List Byte) : Mach :=
  let w := be b 6 2
  if !bit w 15 then m
  else match natCell (m.pool (w % 1024)) (be b 0 4) (be b 4 2) with
    | some row =>
      if natMarked m row (be b 4 2) then natSet m row (be b 4 2) false else bump c m .fstCnt cFstNatBadReturn
    | none => bump c m .fstCnt cFstNatBadReturn

/-- The binding of a record that is lost to this device's bitmaps (R298). -/
def releaseBinding (c : Cfg) (m : Mach) (r : Rec) : Mach := if r.bound then natRelease c m r.param else m

/-- The companion of a forward record (R142). DESIGN CHOICE: of an ICMP or ICMPv6 record it is always the echo form, for the request does not say
whether the packet is an echo (notes/assumptions/132.md). -/
def companionOf (p : NatPool) (r : Rec) (addr port : Nat) : Rec :=
  let d := p.desc
  let w := plCompWide d
  let k := r.key
  let src := if r.wide then be k 0 16 else be k 0 4
  let dst := if r.wide then be k 16 16 else be k 4 4
  let sp := if r.wide then be k 32 2 else be k 8 2
  let dp := if r.wide then be k 34 2 else be k 10 2
  let proto := if r.wide then byteAt k 36 else byteAt k 12
  let echo := proto = 1 || proto = 58
  let cs := if w then mapped dst else dst % 2 ^ 32
  let cd := if w then mapped addr else addr
  let csp := if echo then port else dp
  let cdp := if echo then 0 else port
  let pr := if proto = 58 then 1 else proto
  let swap := plCompSym d && (decide (cd < cs) || (cs = cd && decide (cdp < csp)))
  let key := if swap then keyBytes w cd cs cdp csp pr (plOutZone d) else keyBytes w cs cd csp cdp pr (plOutZone d)
  let param := if w then beBytes 16 (if r.wide then src else mapped src) ++ beBytes 2 sp ++ beBytes 2 (0x2000 + r.bindPool)
    else beBytes 4 src ++ beBytes 2 sp ++ beBytes 2 (0x2000 + r.bindPool)
  { wide := w, key := key, prog := plCompProg d, noage := true, param := padTo (paramLen w) param }

/-! ### Backends (R146, R147) -/

/-- Fields of a group entry, packed in the order the rule names them (notes/assumptions/21.md). -/
def bgEnable (e : Nat) : Bool := bit e 63
def bgBase (e : Nat) : Nat := bits e 62 43
def bgLog2 (e : Nat) : Nat := bits e 42 38

/-- The backend of a new record: its ID; `none` where no slot serves. -/
def selectBackend (c : Cfg) (m : Mach) (g fh : Nat) (wide shadow : Bool) : Option Nat :=
  let e := Tbl.look 0 m.fsl.beGroup g
  if !bgEnable e then none
  else
    let size := 2 ^ bgLog2 e
    let i := bits fh 43 24 % size
    (List.range (c.get fstBeCfgProbe + 1)).findSome? fun k =>
      let s := Tbl.look 0 m.fsl.beSlot (bgBase e + (i + k) % size)
      let b := Tbl.look [] m.fsl.backend (s % 65536)
      if bit s 31 && (bit s 30 || !shadow) && (wide || !bit (byteAt b 18) 7) then some (s % 65536) else none

/-- Pins a backend in `PARAM`. -/
def pinBackend (m : Mach) (id : Nat) (wide : Bool) (param : List Byte) : List Byte :=
  let b := Tbl.look [] m.fsl.backend id
  let b := padTo 20 b
  if wide then splice param 8 (b.take 18 ++ beBytes 2 id) else splice param 8 (slice b 12 6 ++ beBytes 2 id)

/-! ### IPFIX (R157-R160) -/

/-- A data record's time, in ms: TOD less an age in ticks. -/
def ipfixMs (c : Cfg) (m : Mach) (t : Nat) : Nat := (m.todNs - ageOf m t * c.get fstAgeCfgAgeTick * 1000) / 1_000_000

/-- A data record (R158). -/
def ipfixRec (c : Cfg) (m : Mach) (r : Rec) (reason : Nat) : List Byte :=
  let n := if r.wide then 37 else 13
  r.key.take n ++ [0] ++ beBytes 3 r.zone ++ beBytes 8 r.pkts ++ beBytes 8 r.bytes ++ beBytes 8 (ipfixMs c m r.created) ++
    beBytes 8 (ipfixMs c m r.lastHit) ++ beBytes 1 reason ++ beBytes 4 (if r.bound then r.bindAddr else 0) ++
    beBytes 2 (if r.bound then r.bindPort else 0)

/-- A template record: its information elements and their lengths (R158). -/
def ipfixTemplate (wide : Bool) : List Byte :=
  let f : List (Nat × Nat) := (if wide then [(27, 16), (28, 16)] else [(8, 4), (12, 4)]) ++
    [(7, 2), (11, 2), (4, 1), (234, 4), (86, 8), (85, 8), (152, 8), (153, 8), (136, 1), (225, 4), (227, 2)]
  beBytes 2 (if wide then 257 else 256) ++ beBytes 2 f.length ++ f.flatMap fun x => beBytes 2 x.1 ++ beBytes 2 x.2

/-- Sets of a message: runs of records of one template. -/
def ipfixSets : List (Nat × List Byte) → List (Nat × List Byte)
  | [] => []
  | (t, b) :: rest => match ipfixSets rest with
    | (t', b') :: more => if t = t' then (t, b ++ b') :: more else (t, b) :: (t', b') :: more
    | [] => [(t, b)]

/-- The bytes of a message's sets. -/
def ipfixBody (recs : List (Nat × List Byte)) : List Byte :=
  (ipfixSets recs).flatMap fun x => beBytes 2 x.1 ++ beBytes 2 (x.2.length + 4) ++ x.2

/-- A message (RFC 7011, notes/assumptions/1.md). -/
def ipfixMsg (c : Cfg) (m : Mach) (seq : Nat) (body : List Byte) : List Byte :=
  beBytes 2 10 ++ beBytes 2 (16 + body.length) ++ beBytes 4 (secOf m.todNs % 2 ^ 32) ++ beBytes 4 (seq % 2 ^ 32) ++
    beBytes 4 (c.get fstIpfixDomainDomain) ++ body

/-- Sends a message of collector `n`: to a ring, or behind the collector's template into its pipeline's host port (R159). -/
def ipfixOut (c : Cfg) (m : Mach) (n : Nat) (msg : List Byte) : Mach :=
  if c.on fstIpfixCfgToRing then
    let rid := c.get fstIpfixCfgRing
    let m := queueFill c m rid .rxp { payload := msg, body := rxpBody m.todNs 0 false (c.get fstCollPipe n) msg.length 0 0 0 0 [] }
    serveFills c ((m.ring rid).fills.length) m rid
  else
    let pipe := c.get fstCollPipe n
    let t := tmplOf m m.glb.active (pipe / 16) (c.get fstCollTmpl n)
    if tmplType t ≠ 6 then m
    else hostFrameIn c m { pipe := pipe, data := fillOuter t (tmplHdr t none none none 0 ++ msg) }

/-- The message a collector is building is sent, unless the outputs are held (R372). -/
def ipfixFlush (c : Cfg) (m : Mach) (n : Nat) : Mach :=
  let x := Tbl.look {} m.fsl.ipfix n
  if x.recs = [] || !m.glb.outputs then m
  else
    let m := { m with fsl := { m.fsl with ipfix := Tbl.put {} m.fsl.ipfix n { x with recs := [], seq := (x.seq + x.recs.length) % 2 ^ 32 } } }
    ipfixOut c m n (ipfixMsg c m x.seq (ipfixBody x.recs))

/-- A record joins a collector's message; one it does not fit goes into the next, and is dropped while the held outputs keep the full message.
Whether it joined, and the machine. -/
def ipfixAdd (c : Cfg) (m : Mach) (n : Nat) (e : Nat × List Byte) : Bool × Mach :=
  let lim := 128 * c.get fstIpfixCfgMsgMax
  let x := Tbl.look {} m.fsl.ipfix n
  let m := if lim < 16 + (ipfixBody (x.recs ++ [e])).length then ipfixFlush c m n else m
  let x := Tbl.look {} m.fsl.ipfix n
  if lim < 16 + (ipfixBody (x.recs ++ [e])).length then (false, m) else
  let x := { x with recs := x.recs ++ [e], since := if x.recs = [] then m.up else x.since }
  (true, { m with fsl := { m.fsl with ipfix := Tbl.put {} m.fsl.ipfix n x } })

/-- The collectors of a record's zone. -/
def collectorsOf (c : Cfg) (r : Rec) : List Nat :=
  pick 16 fun n => c.on fstCollEn n && decide (c.get fstCollZloZone n ≤ r.zone) && decide (r.zone ≤ c.get fstCollZhiZone n)

/-- A record as it joins a message, under its template. -/
def ipfixEntry (c : Cfg) (m : Mach) (r : Rec) (reason : Nat) : Nat × List Byte := (if r.wide then 257 else 256, ipfixRec c m r reason)

/-- The exporter can accept these records together (R160): every collector's message takes those of its zones, or can be sent. -/
def ipfixOpen (c : Cfg) (m : Mach) (rs : List Rec) : Bool :=
  let rs := rs.filter (·.exp)
  !c.on fstIpfixCfgEn || m.glb.outputs || (List.range 16).all fun n =>
    let mine := rs.filter fun r => (collectorsOf c r).contains n
    mine == [] || decide (16 + (ipfixBody ((Tbl.look {} m.fsl.ipfix n).recs ++ mine.map fun r => ipfixEntry c m r 0)).length ≤
      128 * c.get fstIpfixCfgMsgMax)

/-- A record is exported to every collector of its zone (R157, R159); one that any of them has no room for is counted dropped, once (R160). -/
def exportRec (c : Cfg) (m : Mach) (r : Rec) (reason : Nat) : Mach :=
  if !c.on fstIpfixCfgEn || !r.exp then m
  else
    let (all, m) := (collectorsOf c r).foldl (fun (a : Bool × Mach) n =>
      let (ok, m) := ipfixAdd c a.2 n (ipfixEntry c a.2 r reason)
      (a.1 && ok, m)) (true, bump c m .fstCnt cFstIpfixRec)
    if all then m else bump c m .fstCnt cFstIpfixDrop

/-- The templates are sent to every collector (R159). -/
def ipfixTemplates (c : Cfg) (m : Mach) : Mach :=
  if !c.on fstIpfixCfgEn || !m.glb.outputs then m
  else (pick 16 fun n => c.on fstCollEn n).foldl (fun m n =>
    let x := Tbl.look {} m.fsl.ipfix n
    let body := ipfixTemplate false ++ ipfixTemplate true
    ipfixOut c m n (ipfixMsg c m x.seq (beBytes 2 2 ++ beBytes 2 (body.length + 4) ++ body))) m

end Sys2Proof.Machine
end

