-- ==== Sys2Proof/Machine/DuoBase.lean ====
section
/-! DEFINITION. What the slices need of Duilo: the steering table and the decision for a request, roles at insert, and the emitters
(R281, R282, R287-R293, R296). -/
namespace Sys2Proof.Machine

/-! ### The steering table (R281) -/

def Mach.entry (m : Mach) (e : Nat) : Nat := Tbl.look 0 m.duo.steer e
def seValid (x : Nat) : Bool := bit x 63
def seMEn (x : Nat) : Bool := bit x 62
def seHome (x : Nat) : Nat := bits x 59 42
def seMirror (x : Nat) : Nat := bits x 41 24
def seHomeP (x : Nat) : Nat := bits x 22 20
def seMirrorP (x : Nat) : Nat := bits x 18 16

/-- An entry's state: 0 normal, 1 shadow, 2 merging, 3 excluded; and whether it is `SHADOWED`. -/
def Mach.entState (m : Mach) (e : Nat) : Nat := Tbl.look 0 m.duo.est e % 4
def Mach.entShadowed (m : Mach) (e : Nat) : Bool := decide (4 ≤ Tbl.look 0 m.duo.est e)
def Mach.setEnt (m : Mach) (e state : Nat) (shadowed : Bool) : Mach :=
  { m with duo := { m.duo with est := Tbl.put 0 m.duo.est e (state + 4 * b2n shadowed) } }

def deviceId (c : Cfg) : Nat := c.get glbDeviceIdId
def duoOn (c : Cfg) : Bool := c.on duoCtrlEn

/-- The device's part in an entry. -/
inductive EntRole | home | mirror | neither
deriving DecidableEq, Repr

def entRole (c : Cfg) (x : Nat) : EntRole :=
  if seHome x = deviceId c then .home else if seMEn x && seMirror x = deviceId c then .mirror else .neither

/-- An entry in shadow on this device. -/
def inShadow (c : Cfg) (m : Mach) (fh : Nat) : Bool := duoOn c && m.entState (fhSteer fh) == 1

/-! ### Partners -/

def Mach.link (m : Mach) (p : Nat) : Link := Tbl.look {} m.duo.links p
def Mach.setLink (m : Mach) (p : Nat) (x : Link) : Mach := { m with duo := { m.duo with links := Tbl.put {} m.duo.links p x } }
def partnerEn (c : Cfg) (p : Nat) : Bool := c.on duoPartnerCfgEn p
def partnerDev (c : Cfg) (p : Nat) : Nat := c.get duoPartnerCfgDevice p

/-- The enabled partner with a device ID. -/
def partnerOf (c : Cfg) (dev : Nat) : Option Nat := lowest? 8 fun p => partnerEn c p && partnerDev c p == dev

/-- The sync paths of a partner (R278): 0 primary, 1 alternate. -/
def syncPaths (c : Cfg) (p : Nat) : List Nat := if !partnerEn c p then [] else if c.on duoPartnerCfgAltEn p then [0, 1] else [0]

/-- A path's port, sync queue and steer queue. -/
def pathPort (c : Cfg) (p path : Nat) : Nat := if path = 0 then c.get duoPartnerPortPort p else c.get duoPartnerPortAltPort p
def pathSync (c : Cfg) (p path : Nat) : Nat := if path = 0 then c.get duoPartnerSqidQid p else c.get duoPartnerAsqidQid p
def pathSteer (c : Cfg) (p path : Nat) : Nat := if path = 0 then c.get duoPartnerTqidQid p else c.get duoPartnerAtqidQid p

/-- `LEASE_TIMEOUT` in ns. -/
def leaseNs (c : Cfg) : Nat := 100 * c.get duoTimersLeaseTimeout

/-- A Duilo frame has arrived on a path within `LEASE_TIMEOUT`. -/
def pathHeard (c : Cfg) (m : Mach) (p path : Nat) : Bool :=
  match Tbl.find (m.link p).rx path with
  | some t => decide (m.up - t ≤ leaseNs c)
  | none => false

/-- The path in use (R291): the primary while it is up, otherwise the alternate. A path counts as up while frames arrive on it. -/
def pathInUse (c : Cfg) (m : Mach) (p : Nat) : Nat :=
  if c.on duoPartnerCfgAltEn p && !pathHeard c m p 0 && pathHeard c m p 1 then 1 else 0

/-- The port groups held by a fault: their own, their link's, or their pipeline's isolation (R28, R400). -/
def groupsHeld (m : Mach) : BitVec 32 := m.flt.pplIso ||| m.flt.pgIso ||| m.flt.pgLink

/-- `YIELD`, or a held port group that `DUO_YIELD_MASK` names (R305, R317). -/
def yieldAsked (c : Cfg) (m : Mach) : Bool :=
  c.on duoCtrlYield || decide ((BitVec.ofNat 32 (c.get duoYieldMaskMask)) &&& groupsHeld m ≠ 0#32)

/-- The device yields (R305). -/
def yields (c : Cfg) (m : Mach) : Bool := duoOn c && yieldAsked c m

/-- A link that mirrors: `RECONCILE` or `UP` (R303). -/
def mirrors (m : Mach) (p : Nat) : Bool := (m.link p).state = 3 || (m.link p).state = 4

/-- A partner is reachable for steering (R282). -/
def reachable (m : Mach) (p : Nat) : Bool :=
  let x := m.link p
  (x.state = 2 || x.state = 3 || x.state = 4) && !((x.hello.map (·.yielding)).getD false)

/-! ### The decision for a request (R282) -/

/-- What the slice does with a request. -/
inductive Steer
  | serve
  /-- look the key up first: a shadow record with `UNMIRRORED` 1 is served, everything else goes to the partner -/
  | merging (p : Nat)
  | to (p : Option Nat)
  | loop
deriving DecidableEq, Repr

def steerFor (c : Cfg) (m : Mach) (e : Nat) (steered : Bool) : Steer :=
  if !duoOn c then .serve
  else if m.duo.restoring.contains e then .to none
  else
    let x := m.entry e
    let st := m.entState e
    if st = 3 then .serve
    else match entRole c x with
      | .home =>
        if yields c m && seMEn x && (syncPaths c (seMirrorP x)).any (pathHeard c m (seMirrorP x)) then .to (some (seMirrorP x)) else .serve
      | .mirror => if st = 1 then .serve else if st = 2 then .merging (seHomeP x) else if steered then .loop else .to (some (seHomeP x))
      | .neither =>
        if steered then .loop
        else if reachable m (seHomeP x) then .to (some (seHomeP x))
        else if seMEn x && reachable m (seMirrorP x) then .to (some (seMirrorP x))
        else .to none

/-- The target copies of an entry are written before a `STEER` under it is answered (R283): bit 4 a target, the partner, the path. -/
def setTarget (c : Cfg) (m : Mach) (e : Nat) (p : Option Nat) : Mach :=
  { m with duo := { m.duo with target := Tbl.put 0 m.duo.target e (match p with
      | some q => 16 + 2 * q + pathInUse c m q
      | none => 0) } }

/-! ### Messages (R287-R291) -/

/-- A record as a message carries it: times as ages (R289). -/
def recBody (m : Mach) (r : Rec) : List Byte := Rec.image { r with lastHit := ageOf m r.lastHit, created := ageOf m r.created }

/-- The most copies that wait for acknowledgement. -/
def maxCopies : Nat := 65_536

/-- Copies in use: of messages not yet acknowledged (R291). -/
def Link.unacked (x : Link) : Nat := (x.copies.filter fun e => !e.covered).length

/-- A sequenced message joins a partner's stream: `none` when every copy is in use (R291). -/
def duoSend (m : Mach) (p : Nat) (g : Msg) (strict : Option Nat) : Option Mach :=
  let x := m.link p
  if maxCopies ≤ x.unacked || x.later ≠ [] then none
  else
    some (m.setLink p { x with txSeq := (x.txSeq + 1) % 2 ^ 32,
                               copies := x.copies ++ [{ msg := { g with seq := x.txSeq }, strict := strict }] })

/-- The retry list takes a key; one that finds it full or not used goes at the sweeper's next visit (R296). -/
def addRetry (c : Cfg) (m : Mach) (region : Nat) (key : List Byte) : Mach :=
  let l := Tbl.look [] m.duo.retry region
  let late := Tbl.look [] m.duo.late region
  if l.any (·.1 == key) || late.contains key then m
  else if c.get duoSyncCfgRetry = 0 || 4096 ≤ l.length then { m with duo := { m.duo with late := Tbl.put [] m.duo.late region (late ++ [key]) } }
  else { m with duo := { m.duo with retry := Tbl.put [] m.duo.retry region (l ++ [(key, m.up + 1000 * c.get duoSyncCfgRetry)]) } }

/-- The record's entry is excluded: it is not mirrored (R314). -/
def excluded (c : Cfg) (m : Mach) (r : Rec) : Bool := m.entState (fhSteer (fhOf c m r.key)) == 3

/-- The partner that mirrors a home record. -/
def recPartner (c : Cfg) (m : Mach) (r : Rec) : Option Nat :=
  if r.role = 0 && r.peer ≠ deviceId c && !excluded c m r then partnerOf c r.peer else none

/-- A record takes `UNMIRRORED` 1; while its mirror link mirrors it enters the retry list (R296). The mark by itself is sent by no
`REC_UPDATE` of its own but by the retry (notes/assumptions/22.md). -/
def markUnmirrored (c : Cfg) (m : Mach) (r : Rec) : Rec × Mach :=
  let m := if r.unmirrored then m else bump c m .duoCnt cDuoUnmirrored
  let m := match recPartner c m r with
    | some p => if mirrors m p then addRetry c m (fhSlot (fhOf c m r.key)) r.key else m
    | none => m
  ({ r with unmirrored := true }, m)

/-- The emitter's part in a change of a home record (R293): the record as it is to be written. -/
def emitChange (c : Cfg) (m : Mach) (r : Rec) (insert : Bool) (strict : Option Nat) : Rec × Mach :=
  if !duoOn c || excluded c m r then (r, m)
  else match recPartner c m r with
    | none => if r.role = 0 && r.peer ≠ deviceId c then markUnmirrored c m r else (r, m)
    | some p =>
      if !mirrors m p then markUnmirrored c m r
      else
        let fl := b2n r.wide * 128 + b2n insert * 64 + b2n strict.isSome * 32
        match duoSend m p { type := 2, flags := fl, body := recBody m r } strict with
        | some m => (r, m)
        | none => markUnmirrored c (bump c m .duoCnt cDuoWindowFull) r

/-- The emitter's part in a delete of a home record: `REC_DELETE` (R293). -/
def emitDelete (c : Cfg) (m : Mach) (r : Rec) : Mach :=
  if !duoOn c then m
  else match recPartner c m r with
    | none => m
    | some p =>
      if !mirrors m p then m
      else
        let fl := b2n r.wide * 128 + b2n r.bound * 64
        let body := r.key ++ (if r.bound then r.param.take 8 else List.replicate 8 0)
        (duoSend m p { type := 3, flags := fl, body := body } none).getD (bump c m .duoCnt cDuoWindowFull)

/-! ### Roles (R292, R307, R309) -/

/-- `SYNC` of a program entry (R124). -/
def progSync (p : List Byte) : Nat := bits (be p 0 16) 126 125

/-- The role fields of a record inserted here (R292), and whether its insert is mirrored, and strictly. -/
def insertRole (c : Cfg) (m : Mach) (fh : Nat) (sync : Nat) (r : Rec) : Rec × Bool × Bool :=
  let own := { r with role := 0, peer := deviceId c, unmirrored := false }
  if !duoOn c then (own, false, false)
  else
    let e := fhSteer fh
    let x := m.entry e
    match m.entState e with
    | 1 => ({ r with role := 2, peer := seHome x, unmirrored := true }, false, false)
    | 3 => (own, false, false)
    | _ =>
      if entRole c x = .home && seMEn x && (sync = 1 || sync = 2) then
        let up := mirrors m (seMirrorP x)
        ({ r with role := 0, peer := seMirror x, unmirrored := !up }, up, up && sync = 2)
      else (own, false, false)

/-- A record as it stands after a change of its fields that is an update of its own: `VERSION` goes on with it (R87). -/
def stepped (old new : Rec) : Rec := if new = old then old else { new with version := (old.version + 1) % 65536 }

/-- A mirror or shadow record met in an entry that `PROMOTE` gave this device is rewritten as a home record (R309). -/
def promoteRec (c : Cfg) (m : Mach) (fh : Nat) (r : Rec) : Rec × Mach :=
  if !duoOn c || r.role = 0 then (r, m)
  else
    let e := fhSteer fh
    let x := m.entry e
    if entRole c x = .home then
      let peer := if seMEn x then seMirror x else deviceId c
      markUnmirrored c m { r with role := 0, peer := peer, unmirrored := false }
    else (r, m)

/-- A mirror record met in a shadow entry becomes a shadow record with counts from 0 (R307). -/
def shadowRec (c : Cfg) (m : Mach) (fh : Nat) (r : Rec) : Rec :=
  if inShadow c m fh && r.role = 1 then { r with role := 2, pkts := 0, bytes := 0 } else r

/-- A record with the role that its entry gives it now (R307, R309). -/
def roleNow (c : Cfg) (m : Mach) (fh : Nat) (r : Rec) : Rec × Mach := promoteRec c m fh (shadowRec c m fh r)

end Sys2Proof.Machine
end

