-- ==== Sys2Proof/Machine/Store.lean ====
section
/-! DEFINITION. The flow store's operations: the order of admission, placement, path search and moves, pipeline requests, stash retries,
write-backs (R89-R105, R111, R141, R147). -/
namespace Sys2Proof.Machine

/-! ### The order of admission (R89) -/

/-- The buckets an operation on a key is admitted to (R89, R109). -/
def admitted (m : Mach) (fh : Nat) : List Nat :=
  let region := fhSlot fh
  let p := fhBucket fh
  if m.ovf region p ≠ 0 || m.rebuilding region || Tbl.look 0 m.fsl.mapState region ≠ 0 then [p, otherBucket fh p] else [p]

/-- An operation or a move admitted earlier than `ord` is still in the order of one of these buckets. -/
def blockedAt (m : Mach) (region : Nat) (bs : List Nat) (ord : Nat) : Bool :=
  (m.fsl.ops.any fun o => decide (o.ord < ord) && fhSlot o.req.fh == region && o.holds.any bs.contains) ||
    (m.fsl.jobs.any fun w => decide (w.ord < ord) && w.region == region && w.holds.any bs.contains) ||
    m.fsl.ledger.any fun e => decide (e.ord < ord) && e.region == region && [e.mv.src / 4, e.mv.dst].any bs.contains

/-- An operation that would be admitted to these buckets now waits for no other. -/
def openNow (m : Mach) (region : Nat) (bs : List Nat) : Bool := !blockedAt m region bs m.fsl.nextOrd

/-- Operations on one key take their places anew, in their order, number `no` in the order of `holds` (R89: the later of its places
counts). -/
def readmit (m : Mach) (no : Nat) (key : List Byte) (holds : List Nat) : Mach :=
  let ords := ((m.fsl.ops.filter (·.req.key == key)).map (·.ord)) ++ (m.fsl.jobs.filter (·.key == key)).map (·.ord)
  let anew (ord : Nat) : Nat := m.fsl.nextOrd + (ords.filter fun x => decide (x < ord)).length
  { m with fsl := { m.fsl with
    ops := m.fsl.ops.map fun o =>
      if o.req.key = key then { o with ord := anew o.ord, holds := if o.no = no then holds else o.holds } else o
    jobs := m.fsl.jobs.map fun w => if w.key = key then { w with ord := anew w.ord, holds := if w.no = no then holds else w.holds } else w
    nextOrd := m.fsl.nextOrd + ords.length } }

/-- The move under way of a key's record (R93, R99). -/
def ledgerOf (m : Mach) (region : Nat) (key : List Byte) : Option LedgerEnt :=
  m.fsl.ledger.find? fun e => e.region == region && e.mv.key == key

/-- The buckets in whose order an operation on a key is placed: while its record is moved, the destination's, where it is served behind the
move's step 3 (R99, R101); and the machine, which counts that. -/
def enterOrder (c : Cfg) (m : Mach) (fh : Nat) (key : List Byte) : List Nat × Mach :=
  match ledgerOf m (fhSlot fh) key with
  | some e => ([e.mv.dst], bump c m .fslCnt (m.phys (fhSlot fh)) cFslLedgerServed)
  | none => (admitted m fh, m)

/-- An operation of another source is admitted to its slice. -/
def pushJob (c : Cfg) (m : Mach) (job : Job) (key : List Byte) : Mach :=
  let fh := fhOf c m key
  let (bs, m) := enterOrder c m fh key
  let w : Waiter := { job := job, key := key, region := fhSlot fh, no := m.fsl.nextOrd, ord := m.fsl.nextOrd, holds := bs, fh := fh }
  { m with fsl := { m.fsl with jobs := m.fsl.jobs ++ [w], nextOrd := m.fsl.nextOrd + 1 } }

/-! ### Bucket reads (R94) -/

/-- Every pending entry of a region's slice is in use. -/
def tableFull (m : Mach) (region : Nat) : Bool := decide (4096 ≤ (m.fsl.pending.filter fun k => k / 2 ^ 24 == region).length)

/-- A bucket read is issued, joined, or waits for a pending entry. -/
def issueRead (m : Mach) (region b : Nat) : Mach :=
  let k := bkey region b
  if m.fsl.pending.contains k || m.fsl.readWait.contains k then m
  else if tableFull m region then { m with fsl := { m.fsl with readWait := m.fsl.readWait ++ [k] } }
  else { m with fsl := { m.fsl with pending := k :: m.fsl.pending } }

/-- A pending entry frees; the first read that waits in its slice takes it. -/
def endRead (m : Mach) (region b : Nat) : Mach :=
  let m := { m with fsl := { m.fsl with pending := m.fsl.pending.erase (bkey region b) } }
  match m.fsl.readWait.find? fun k => k / 2 ^ 24 == region with
  | some k => { m with fsl := { m.fsl with readWait := m.fsl.readWait.erase k, pending := k :: m.fsl.pending } }
  | none => m

/-! ### Placement and moves (R97-R102) -/

/-- The record whose slot this is: one that starts there, or a wide one's upper half. -/
def slotRec (m : Mach) (region b s : Nat) : Option (Nat × Rec) :=
  match recAt m region (4 * b + s) with
  | some r => some (4 * b + s, r)
  | none => if s % 2 = 1 then ((recAt m region (4 * b + s - 1)).filter (·.wide)).map fun r => (4 * b + s - 1, r) else none

/-- `victim(b, n)` (R98): the first record from the rotating index whose move frees `n` slots, and that is neither in the ledger nor on
the path. -/
def victimAt (m : Mach) (region b : Nat) (wide : Bool) (path : List Move) : Option (Nat × Rec) :=
  let start := Tbl.look 0 m.fsl.victim (m.phys region)
  (List.range 4).findSome? fun k =>
    match slotRec m region b ((start + k) % 4) with
    | some (pos, r) =>
      let s := pos % 4
      let alone := r.wide || !slotTaken m region b (if s % 2 = 0 then s + 1 else s - 1)
      let moving := m.fsl.ledger.any fun e => e.mv.key == r.key
      if (!wide || alone) && !moving && !(path.any fun v => v.key == r.key) then some (pos, r) else none
    | none => none

/-- A search's end: a bucket to read next, a path, or none. -/
inductive PathAns
  | read (d : Nat)
  | found
  | stuck
deriving DecidableEq, Repr

/-- Extends a path from bucket `b`, which must give up room for a record of `wide`'s size (R97). -/
def extendPath (c : Cfg) (region : Nat) (seen : List Nat) (all : Bool) : Nat → List Move → Nat → Bool → Mach → PathAns × List Move × Mach
  | 0, mv, _, _, m => (.stuck, mv, m)
  | fuel + 1, mv, b, wide, m =>
    if c.get fstMaxKicksKicks ≤ mv.length then (.stuck, mv, m)
    else match victimAt m region b wide mv with
      | none => (.stuck, mv, m)
      | some (pos, r) =>
        let phys := m.phys region
        let m := { m with fsl := { m.fsl with victim := Tbl.put 0 m.fsl.victim phys ((Tbl.look 0 m.fsl.victim phys + 1) % 4) } }
        let d := otherBucket (fhOf c m r.key) b
        let mv := mv ++ [{ key := r.key, src := pos, dst := d }]
        if !all && !seen.contains d then (.read d, mv, m)
        else
          let m := if all then readBucket c m region d else m
          if (roomAt m region d r.wide).isSome then (.found, mv, m) else extendPath c region seen all fuel mv d r.wide m

/-- Step 1 of a move (R99): the record is read and verified, the ledger takes it, its destination is reserved. The move is not made where
the source no longer holds the record or the destination has no room (R101). -/
def startMove (c : Cfg) (m : Mach) (region : Nat) (mv : Move) : Bool × Mach :=
  let m := readBucket c m region (mv.src / 4)
  let r := (recAt m region mv.src).filter (·.key == mv.key)
  match r, r.bind fun x => roomAt m region mv.dst x.wide with
  | some r, some pos => (true,
      { m with fsl := { m.fsl with ledger := m.fsl.ledger ++ [{ region := region, mv := mv, pos := pos, rcd := r, ord := m.fsl.nextOrd }],
                                   nextOrd := m.fsl.nextOrd + 1 } })
  | _, _ => (false, m)

/-- The primary bucket of an operation's key, and whether the key is wide. -/
def Waiter.primary (w : Waiter) : Nat := fhBucket w.fh
def Waiter.wide (w : Waiter) : Bool := w.key.length == 40

/-- The move may reach its step 1: it has not yet, its buckets are open and the slice's ledger has a free entry (R89, R102). -/
def moveOpen (m : Mach) (region : Nat) (v : Move) : Bool :=
  !(m.fsl.ledger.any fun e => e.region == region && e.mv == v) && decide ((m.fsl.ledger.filter (·.region == region)).length < 64) &&
    openNow m region [v.src / 4, v.dst]

/-- A path whose next move is `v`, without it. -/
def OpAt.past (x : OpAt) (v : Move) : OpAt := match x with
  | .moves att (u :: us) => if u = v then .moves att us else x
  | _ => x

/-- The insert whose move has ended goes on: to its next move, or to its final placement, which is admitted then (R89). -/
def movedOn (m : Mach) (e : LedgerEnt) : Mach :=
  let last (x : OpAt) : Bool := match x with
    | .moves _ [v] => v == e.mv
    | _ => false
  let op := (m.fsl.ops.find? fun o => fhSlot o.req.fh == e.region && last o.place).map fun o => (o.no, o.req.key, fhBucket o.req.fh)
  let job := (m.fsl.jobs.find? fun w => w.region == e.region && last w.place).map fun w => (w.no, w.key, w.primary)
  let m := { m with fsl := { m.fsl with
    ops := m.fsl.ops.map fun o => if fhSlot o.req.fh = e.region then { o with place := o.place.past e.mv } else o
    jobs := m.fsl.jobs.map fun w => if w.region = e.region then { w with place := w.place.past e.mv } else w } }
  match op.or job with
  | some (no, key, p) => readmit m no key [p]
  | none => m

/-- Steps 2 to 6 of a move (R99). -/
def finishMove (c : Cfg) (m : Mach) (e : LedgerEnt) : Mach :=
  let fh := fhOf c m e.mv.key
  let m := countPlaced c { m with fsl := { m.fsl with ledger := m.fsl.ledger.erase e } } e.region e.mv.dst fh
  let m := moveRec c m e.region e.mv.src e.pos e.rcd
  let m := countRemoved c m e.region (e.mv.src / 4) fh
  movedOn (bump c m .fslCnt (m.phys e.region) cFslKick) e

/-- The stash, or the cached lines of a key's buckets, hold its whole record. -/
def nearby (m : Mach) (fh : Nat) (key : List Byte) : Bool :=
  match findKey m (fhSlot fh) fh key with
  | some (.stash, _) => true
  | some (.at pos, _) => ((m.lineAt (m.phys (fhSlot fh)) pos).map fun l => !l.half).getD false
  | none => false

/-- A key's record as an operation on it finds it: its buckets read and verified. -/
def touchKey (c : Cfg) (m : Mach) (fh : Nat) (key : List Byte) : Option (Spot × Rec) × Mach :=
  let region := fhSlot fh
  let p := fhBucket fh
  let m := readBucket c (readBucket c m region p) region (otherBucket fh p)
  (findKey m region fh key, m)

/-- A lookup for a host command, a message, a write-back or a companion (R93, R121). -/
def lookupKey (c : Cfg) (m : Mach) (fh : Nat) (key : List Byte) : Option (Spot × Rec) × Mach :=
  touchKey c (bump c m .fslCnt (m.phys (fhSlot fh)) (if nearby m fh key then cFslHit else cFslMiss)) fh key

/-- An insert that finds no place is counted (R104). -/
def insertFailed (c : Cfg) (m : Mach) (region : Nat) : Mach := bump c m .fslCnt (m.phys region) cFslInsertFail

/-- The stash's place for a new record, while it has a free entry (R97). -/
def stashSpot (m : Mach) (region : Nat) : Option Spot := if (m.stash region).length < 4096 then some .stash else none

/-- A new record is written where its insert has found room, in a bucket or in the stash; an insert that finds none is counted (R97, R104). -/
def placeNew (c : Cfg) (m : Mach) (region : Nat) (spot : Option Spot) (r : Rec) : Bool × Mach :=
  match spot with
  | some (.at pos) => (true, placeRec c m region pos r)
  | some .stash => (true, stashRec c m region r)
  | none => (false, insertFailed c m region)

/-- Where an insert of another source stands. -/
def setJob (m : Mach) (w : Waiter) (place : OpAt) (holds : List Nat) : Mach :=
  { m with fsl := { m.fsl with jobs := m.fsl.jobs.map fun x => if x.no = w.no then { x with place := place, holds := holds } else x } }

/-- The path search of an insert from a source other than a pipeline: a path to make its moves by, or the stash (R97). No bucket is held
meanwhile (R89). -/
def jobSearch (c : Cfg) (m : Mach) (w : Waiter) (att : Nat) : Option (Option Spot) × Mach :=
  let (ans, mv, m) := extendPath c w.region [] true 17 [] w.primary w.wide m
  if ans = .found then (none, setJob m w (.moves att mv.reverse) []) else (some (stashSpot m w.region), m)

/-- Its path has failed: it is searched once more, then the stash takes the record (R97, R101). -/
def jobAgain (c : Cfg) (m : Mach) (w : Waiter) (att : Nat) : Option (Option Spot) × Mach :=
  let m := bump c m .fslCnt (m.phys w.region) cFslPathRestart
  if att = 1 then jobSearch c m w 2 else (some (stashSpot m w.region), m)

/-- An insert of another source goes on with its placement, by the procedure of R97: the place it has found, if any (`some none` where the
insert fails), and the machine. Its alternate bucket it is admitted to when it looks there; its moves are operations of their own, and so is
its final placement (R89). -/
def jobPlace (c : Cfg) (m : Mach) (w : Waiter) : Option (Option Spot) × Mach :=
  let room (b : Nat) : Option Spot := (roomAt m w.region b w.wide).map Spot.at
  let a := otherBucket w.fh w.primary
  match w.place, room w.primary with
  | .moves att (v :: _), _ => match startMove c m w.region v with
    | (true, m) => (none, m)
    | (false, m) => jobAgain c m w att
  | _, some s => (some (some s), m)
  | .moves att [], none => jobAgain c m w att
  | _, none =>
    if !w.holds.contains a then (none, readmit m w.no w.key [w.primary, a])
    else match room a with
      | some s => (some (some s), m)
      | none => jobSearch c m w 1

/-! ### Pipeline requests (R93-R97, R141, R147) -/

/-- An answer to a request: the response leaves, the operation ends. -/
def answer (c : Cfg) (m : Mach) (q : FlowReq) (outcome : Nat) (snap : Option Rec) (strict loop : Bool := false) : Mach :=
  let _ := c
  { m with
    fsl := { m.fsl with ops := m.fsl.ops.filter fun o => o.req != q }
    ppl := { m.ppl with resps := m.ppl.resps ++
      [{ pipe := q.pipe, idx := q.idx, gen := q.gen, outcome := outcome, stamp := m.stamp, snap := snap,
         steer := fhSteer q.fh, loop := loop, strict := strict, slot := fhSlot q.fh, req := some q, sent := m.up,
         no := ((m.fsl.ops.find? fun o => o.req == q).map (·.no)).getD m.fsl.nextOrd }] } }

/-- A response as its 64 bytes (R95). -/
def Resp.bytes (r : Resp) : List Byte :=
  beBytes 8 (r.outcome % 8 * 2 ^ 61 + r.pipe % 32 * 2 ^ 56 + r.idx % 2048 * 2 ^ 45 + r.gen % 256 * 2 ^ 37 + r.slot % 16 * 2 ^ 33 + r.stamp % 2 ^ 16) ++
    match r.snap with
    | some x => beBytes 4 x.ctrl ++ beBytes 2 (x.prog % 4096) ++
        (if x.wide then x.track.bytes true else [0, 0] ++ x.track.bytes false) ++ padTo 40 x.param ++ [0, 0]
    | none => List.replicate 56 0

/-- Sets where an operation stands. -/
def setOp (m : Mach) (o : SliceOp) : Mach :=
  { m with fsl := { m.fsl with ops := if m.fsl.ops.any (·.req == o.req) then m.fsl.ops.map fun x => if x.req = o.req then o else x
                                      else m.fsl.ops ++ [o] } }

/-- The slice answers `STEER`: the target copies are written first (R283). -/
def answerSteer (c : Cfg) (m : Mach) (q : FlowReq) (p : Option Nat) : Mach := answer c (setTarget c m (fhSteer q.fh) p) q 3 none

/-- A request that finds its record (R88, R93, R307, R309). -/
def serveHit (c : Cfg) (m : Mach) (q : FlowReq) (pl : Spot) (r : Rec) : Mach :=
  let (r', m) := roleNow c m q.fh r
  let r := stepped r r'
  let r := { r with pkts := (r.pkts + 1) % 2 ^ 32, bytes := (r.bytes + q.len) % 2 ^ (if r.wide then 48 else 40), lastHit := m.fsl.ageNow }
  answer c (putRec c m (fhSlot q.fh) pl r) q 0 (some r)

/-- A new record's fields before its allocations (R105). -/
def newRec (c : Cfg) (m : Mach) (q : FlowReq) : Rec :=
  let f (x : Fld) : Nat := c.of m q.turn x q.zprof
  let wide := decide (q.key.length = 40)
  { wide := wide, key := q.key, prog := q.prog, tprof := f fstInsTprof, noage := f fstInsNoage = 1, exp := f fstInsExport = 1,
    pinned := f fstInsPinned = 1, pkts := 1, bytes := q.len, lastHit := m.fsl.ageNow, created := m.fsl.ageNow,
    param := List.replicate (paramLen wide) 0 }

/-- What an insert does once its record's place is known. -/
inductive Alloc
  | ok (r : Rec) (comp : Option (Nat × Nat × Nat)) (m : Mach)
  | wait
  | fail (m : Mach)

/-- The allocations of a lookup-and-insert (R141, R147): a failure takes nothing. -/
def allocFor (c : Cfg) (m : Mach) (q : FlowReq) (r : Rec) : Alloc :=
  let h := be (progOf m q.turn (q.pipe / 16) q.prog) 0 16
  let shadow := inShadow c m q.fh
  let pool := bits h 123 114
  let be? := if bit h 112 then some (selectBackend c m (bits h 111 98) q.fh r.wide shadow) else none
  let (nat, m') := if bit h 124 then natTake c m pool else (NatAns.pair 0 0, m)
  match nat, be? with
  | .wait, _ => .wait
  | .none, _ => .fail (bump c m .fstCnt cFstNatExhaust)
  | .pair _ _, some none => .fail (bump c m .fstCnt cFstBeEmpty)
  | .pair addr port, b =>
    let comp := bit h 113
    let r := if bit h 124 then
        { r with param := splice r.param 0 (beBytes 4 addr ++ beBytes 2 port ++ beBytes 2 (2 ^ 15 + b2n comp * 2 ^ 14 + pool)) } else r
    let r := match b with | some (some id) => { r with param := pinBackend m id r.wide r.param } | _ => r
    .ok r (if bit h 124 && comp then some (pool, addr, port) else none) m'

/-- The record is written where it belongs, mirrored, and its companion sent for (R97, R141, R142, R292). -/
def commitInsert (c : Cfg) (m : Mach) (o : SliceOp) (spot : Spot) : Mach :=
  let q := o.req
  let region := fhSlot q.fh
  match allocFor c m q (newRec c m q) with
  | .wait => setOp m { o with place := .nat }
  | .fail m => answer c m q 2 none
  | .ok r comp m =>
    let (r, send, strict) := insertRole c m q.fh (progSync (progOf m q.turn (q.pipe / 16) q.prog)) r
    let m := if r.unmirrored then bump c m .duoCnt cDuoUnmirrored else m
    let (r, m) := if send then emitChange c m r true (if strict then some q.fh else none) else (r, m)
    let m := match spot with
      | .at pos => placeRec c m region pos r
      | .stash => stashRec c m region r
    let m := match comp with
      | some (pool, addr, port) =>
        { m with fsl := { m.fsl with comps := m.fsl.comps ++ [.ins r.key (companionOf (m.pool pool) r addr port) pool addr port] } }
      | none => m
    answer c m q 1 (some r) (strict := strict && !r.unmirrored)

/-- An insert fails (R104). -/
def failInsert (c : Cfg) (m : Mach) (q : FlowReq) : Mach := answer c (insertFailed c m (fhSlot q.fh)) q 2 none

/-- The stash, or failure. -/
def insertStash (c : Cfg) (m : Mach) (o : SliceOp) : Mach :=
  match stashSpot m (fhSlot o.req.fh) with
  | some s => commitInsert c m o s
  | none => failInsert c m o.req

/-- The path search of an insert, as far as the buckets read allow. No bucket is held meanwhile (R89). -/
def insertSearch (c : Cfg) (m : Mach) (o : SliceOp) (attempt : Nat) (mv : List Move) (b : Nat) (wide : Bool) : Mach :=
  let region := fhSlot o.req.fh
  let (ans, mv, m) := extendPath c region o.seen false 17 mv b wide m
  match ans with
  | .read d =>
    let need := (((recAt m region ((mv.getLast?).map (·.src) |>.getD 0)).map (·.wide)).getD false)
    setOp (issueRead m region d) { o with place := .search attempt mv d (b2n need), holds := [] }
  | .found => setOp m { o with place := .moves attempt mv.reverse, holds := [] }
  | .stuck => insertStash c m o

/-- The placement of an insert from its first step on: its buckets have been looked at (R97). An alternate bucket that it must read it is
admitted to now (R89). -/
def insertOp (c : Cfg) (m : Mach) (o : SliceOp) : Mach :=
  let q := o.req
  let region := fhSlot q.fh
  let wide := decide (q.key.length = 40)
  let p := fhBucket q.fh
  let a := otherBucket q.fh p
  if m.guarded region q.key then
    (if o.place = .guard then m else setOp (bump c m .fslCnt (m.phys region) cFslGuardWait) { o with place := .guard })
  else if m.imageDue region then setOp m { o with place := .image }
  else match roomAt m region p wide with
    | some pos => commitInsert c m o (.at pos)
    | none =>
      if !o.seen.contains a then readmit (setOp (issueRead m region a) { o with place := .alt a }) o.no q.key [p, a]
      else match roomAt m region a wide with
        | some pos => commitInsert c m o (.at pos)
        | none => insertSearch c m o 1 [] p wide

/-- A lookup has seen every bucket it reads, and its turn in their order has come (R93 step 6). -/
def lookedUp (c : Cfg) (m : Mach) (o : SliceOp) : Mach :=
  let q := o.req
  match findKey m (fhSlot q.fh) q.fh q.key, o.merge with
  | some (pl, r), none => serveHit c m q pl r
  | some (pl, r), some p => if r.role = 2 && r.unmirrored then serveHit c m q pl r else answerSteer c m q (some p)
  | none, some p => answerSteer c m q (some p)
  | none, none =>
    if q.insert then insertOp c m o
    else if m.imageDue (fhSlot q.fh) then setOp m { o with place := .image }
    else answer c m q 4 none

/-- An operation enters its buckets' order: it is served from ledger, stash or cache, or its reads are issued together (R93 steps 2-5). -/
def admitOp (c : Cfg) (m : Mach) (o : SliceOp) : Mach :=
  let q := o.req
  let region := fhSlot q.fh
  let (bs, m) := enterOrder c m q.fh q.key
  let near := nearby m q.fh q.key
  let m := bump c m .fslCnt (m.phys region) (if near then cFslHit else cFslMiss)
  let reads := if near then [] else bs
  setOp (reads.foldl (fun m b => issueRead m region b) m) { o with place := .look reads, holds := bs }

/-- A request's turn on its key has come (R93): `STEER` leaves the store untouched. -/
def startReq (c : Cfg) (m : Mach) (o : SliceOp) : Mach :=
  match steerFor c m (fhSteer o.req.fh) o.req.steered.isSome with
  | .to p => answerSteer c m o.req p
  | .loop => answer c m o.req 3 none (loop := true)
  | s => admitOp c m { o with merge := match s with | .merging p => some p | _ => none }

/-- A request reaches its slice (R93): it takes its place, behind earlier ones on its key, so that the slice answers requests for one key in
the order it received them (R65). -/
def admitReq (m : Mach) (q : FlowReq) : Mach :=
  let o : SliceOp := { req := q, place := .behind, no := m.fsl.nextOrd, ord := m.fsl.nextOrd }
  { m with fsl := { m.fsl with ops := m.fsl.ops ++ [o], nextOrd := m.fsl.nextOrd + 1 } }

/-- A path has failed at a move or at its final placement: it is searched once more, then the stash takes the record (R97, R101). DESIGN
CHOICE: `FSL_PATH_RESTART` counts the failure of the second path too (notes/assumptions/126.md). -/
def pathAgain (c : Cfg) (m : Mach) (o : SliceOp) (att : Nat) : Mach :=
  let m := bump c m .fslCnt (m.phys (fhSlot o.req.fh)) cFslPathRestart
  if att = 1 then insertSearch c m o 2 [] (fhBucket o.req.fh) (decide (o.req.key.length = 40)) else insertStash c m o

/-- The final placement of an insert behind its path's last move (R101). -/
def finalPlace (c : Cfg) (m : Mach) (o : SliceOp) (att : Nat) : Mach :=
  let q := o.req
  let region := fhSlot q.fh
  if (findKey m region q.fh q.key).isSome || m.guarded region q.key then lookedUp c m { o with place := .look [] }
  else match roomAt m region (fhBucket q.fh) (decide (q.key.length = 40)) with
    | some pos => commitInsert c m o (.at pos)
    | none => pathAgain c m o att

/-- The next move of a path reaches its step 1 (R101). -/
def enterMove (c : Cfg) (m : Mach) (o : SliceOp) (att : Nat) (v : Move) : Mach :=
  match startMove c m (fhSlot o.req.fh) v with
  | (true, m) => m
  | (false, m) => pathAgain c m o att

/-- An operation can go on: it is the first on its key, its turn has come, or its next move may begin. -/
def mayGo (m : Mach) (o : SliceOp) : Bool :=
  let region := fhSlot o.req.fh
  let turn := !blockedAt m region o.holds o.ord
  match o.place with
  | .behind => (m.fsl.ops.find? fun x => x.req.key == o.req.key) == some o
  | .look [] => turn
  | .moves _ [] => turn
  | .guard => turn && !m.guarded region o.req.key
  | .image => turn && !m.imageDue region
  | .moves _ (v :: _) => moveOpen m region v
  | _ => false

/-- An operation goes on. -/
def goOp (c : Cfg) (m : Mach) (o : SliceOp) : Mach :=
  match o.place with
  | .behind => startReq c m o
  | .moves att [] => finalPlace c m o att
  | .moves att (v :: _) => enterMove c m o att v
  | _ => lookedUp c m o

/-- Lets every operation go on that can. -/
def settleLoop (c : Cfg) : Nat → Mach → Mach
  | 0, m => m
  | fuel + 1, m =>
    match m.fsl.ops.find? (mayGo m) with
    | some o => settleLoop c fuel (goOp c m o)
    | none => m

def settleOps (c : Cfg) (m : Mach) : Mach := settleLoop c (8 * m.fsl.ops.length) m

/-- A slice takes the first request of a pipeline for it (R65, R90, R93). The crossbar holds it while the store does not serve or the slice's
pending table is full (R94). -/
def sliceRequest (c : Cfg) (m : Mach) (pipe region : Nat) : Mach :=
  match m.ppl.reqs.find? fun q => q.pipe == pipe && fhSlot q.fh == region with
  | none => m
  | some q =>
    if tableFull m region || m.fsl.clearing || !m.fsl.ready then m
    else settleOps c (admitReq { m with ppl := { m.ppl with reqs := m.ppl.reqs.erase q } } q)

/-- An operation goes on after bucket `b` of its region has been read. -/
def opRead (c : Cfg) (m : Mach) (o : SliceOp) (b : Nat) : Mach :=
  let q := o.req
  let o := { o with seen := b :: o.seen }
  match o.place with
  | .look bs => setOp m { o with place := .look (bs.filter (· != b)) }
  | .alt _ => setOp m { o with place := .look [] }
  | .search att mv _ need =>
    if (roomAt m (fhSlot q.fh) b (need == 1)).isSome then setOp m { o with place := .moves att mv.reverse }
    else insertSearch c m o att mv b (need == 1)
  | _ => m

/-- Whether an operation waits for a bucket. -/
def waitsFor (o : SliceOp) (region b : Nat) : Bool :=
  fhSlot o.req.fh == region && (match o.place with
    | .look bs => bs.contains b
    | .alt a => a == b
    | .search _ _ d _ => d == b
    | _ => false)

/-- A bucket read returns (R94): its records are verified, and the operations that wait for it go on in order. -/
def bucketRead (c : Cfg) (m : Mach) (region b : Nat) : Mach :=
  if !m.fsl.pending.contains (bkey region b) then m
  else
    let m := readBucket c (endRead m region b) region b
    settleOps c ((m.fsl.ops.filter (waitsFor · region b)).foldl (fun m o => opRead c m o b) m)

/-- The oldest move of a slice is made, and the placement behind a path's last (R99, R101). -/
def recordMove (c : Cfg) (m : Mach) (region : Nat) : Mach :=
  match m.fsl.ledger.find? (·.region == region) with
  | none => m
  | some e => settleOps c (finishMove c m e)

/-- Inserts that wait for a NAT pair try again (R141). -/
def retryNat (c : Cfg) (m : Mach) : Mach :=
  settleOps c { m with fsl := { m.fsl with ops := m.fsl.ops.map fun o => if o.place = .nat then { o with place := .look [] } else o } }

/-! ### The stash retry (R103) -/

/-- The stash entry at a rotation's place moves to a bucket with room. -/
def stashMove (c : Cfg) (m : Mach) (region : Nat) (r : Rec) : Mach :=
  let fh := fhOf c m r.key
  let p := fhBucket fh
  let a := otherBucket fh p
  let m := readBucket c (readBucket c m region p) region a
  match (roomAt m region p r.wide).or (roomAt m region a r.wide) with
  | none => m
  | some pos =>
    let m := countPlaced c m region (pos / 4) fh
    let m := unstash (m.putHbm region pos (some r)) region r.key
    bump c m .fslCnt (m.phys region) cFslStashOut

/-- A slice's stash retry, at its due time: the next entry in rotation (notes/assumptions/94.md for the grid). One that finds its buckets
in use, or no free ledger entry (R102), waits, and stays due. -/
def stashRetry (c : Cfg) (m : Mach) (region : Nat) : Mach :=
  let every := c.get fstGuardCfgStashRetry
  let at' := Tbl.look 0 m.fsl.retryAt region
  if every = 0 || !m.fsl.ready || m.up < at' then m
  else
    let l := m.stash region
    let next (m : Mach) : Mach := { m with fsl := { m.fsl with retryAt := Tbl.ins m.fsl.retryAt region (at' + 1000 * every) } }
    let i := Tbl.look 0 m.fsl.retry region % l.length
    match l[i]? with
    | none => next m
    | some r =>
      let p := fhBucket (fhOf c m r.key)
      if !openNow m region [p, otherBucket (fhOf c m r.key) p] || tableFull m region || decide (64 ≤ (m.fsl.ledger.filter (·.region == region)).length) then m
      else stashMove c (next { m with fsl := { m.fsl with retry := Tbl.put 0 m.fsl.retry region (i + 1) } }) region r

/-! ### Write-backs (R111) -/

/-- The record a write-back leaves. -/
def applyWb (r : Rec) (w : WriteBack) : Rec :=
  let param := w.words.foldl (fun p e => splice p (4 * e.1) (beBytes 4 e.2)) r.param
  { r with tstate := w.tstate.getD r.tstate, param := param.take (paramLen r.wide), track := w.track.getD r.track,
           exp := r.exp || w.setExport, version := (r.version + 1) % 65536 }

def wbOrphan (c : Cfg) (m : Mach) (region : Nat) : Mach := bump c m .fslCnt (m.phys region) cFslWbOrphan

/-- A write-back is admitted, or discarded where it comes too late after its response. -/
def admitWb (c : Cfg) (m : Mach) (w : WriteBack) : Mach :=
  let limit := 10 * c.get fstGuardCfgReinsertGuard - 10
  if limit ≤ (m.stamp + 65536 - w.stamp) % 65536 then wbOrphan c m (fhSlot w.fh) else pushJob c m (.wb w) w.key

/-- A slice takes the first write-back the crossbar holds for it (R111). -/
def wbApply (c : Cfg) (m : Mach) (region : Nat) : Mach :=
  match m.fsl.wbs.find? fun w => fhSlot w.fh == region with
  | none => m
  | some w => if tableFull m region then m else admitWb c { m with fsl := { m.fsl with wbs := m.fsl.wbs.erase w } } w

/-- An admitted write-back takes effect in its turn (R111, R157); `no` is its place among what its slice took. -/
def wbRun (c : Cfg) (m : Mach) (no : Nat) (w : WriteBack) : Mach :=
  let region := fhSlot w.fh
  let (hit, m) := lookupKey c m w.fh w.key
  match hit.filter fun x => x.2.created == w.created with
  | none => wbOrphan c m region
  | some (pl, r) =>
    let (r', m) := roleNow c m w.fh r
    let (r', m) := emitChange c m (applyWb r' w) false none
    let m := putRec c m region pl r'
    let m := if w.now then exportRec c m r' 3 else m
    let m := { m with fsl := { m.fsl with wbDone := (m.fsl.wbDone.filter fun e => decide (m.up < e.2.1 + 20)) ++ [(w, m.up, no)] } }
    bump c m .fslCnt (m.phys region) cFslWbApplied

/-- The crossbar discards a write-back it has held for more than 100 µs. -/
def wbExpire (c : Cfg) (m : Mach) : Mach :=
  (m.fsl.wbs.filter fun w => decide (w.issued + 100_000 < m.up)).foldl (fun (m : Mach) w =>
    wbOrphan c { m with fsl := { m.fsl with wbs := m.fsl.wbs.erase w } } (fhSlot w.fh)) m

end Sys2Proof.Machine
end

