-- ==== Sys2Proof/Machine/Sweep.lean ====
section
/-! DEFINITION. Host flow commands, deletes and their actions, companions, the reinsert guard, sweeps, takeover, the region clear
(R106-R113, R116-R121, R142, R143). -/
namespace Sys2Proof.Machine

/-! ### Actions of a delete or an age-out (R110, R143, R298) -/

/-- The binding of a deleted record goes back: a home record's by `NAT_RETURN`, its companion first; a mirror or shadow record's
is released. -/
def returnBinding (c : Cfg) (m : Mach) (r : Rec) (natReturnOn : Bool) : Mach :=
  if r.role ≠ 0 then releaseBinding c m r
  else if !natReturnOn || !r.bound then m
  else if r.bindComp then
    let k := (companionOf (m.pool r.bindPool) r r.bindAddr r.bindPort).key
    { m with fsl := { m.fsl with comps := m.fsl.comps ++ [.del k r.bindPool r.bindAddr r.bindPort] } }
  else natReturn c m r.bindPool r.bindAddr r.bindPort

/-- The `FLOW_AGE` event of a record (R334). -/
def ageEvent (r : Rec) : Evt :=
  { type := 4, mark := 0, bodies := [beBytes 4 r.ctrl ++ beBytes 4 r.pkts ++ beBytes 6 r.bytes ++ beBytes 2 r.prog ++ r.key] }

/-- The age-notice work item of a record (R261, R264): its bytes in one buffer, then its bucket and slot as
`FSL_CHECK_ADDR` lays them out (notes/assumptions/34.md). -/
def ageItem (c : Cfg) (m : Mach) (pl : Spot) (r : Rec) : WItem :=
  let fh := fhOf c m r.key
  let pos := match pl with | .at p => p | .stash => 4 * fhBucket fh
  { src := 2, wq := c.get tskAgeRouteWq r.tprof, fh := fh, tag := fh % 2 ^ 32, ts := m.todNs, data := r.image ++ beBytes 4 pos }

/-- The age-out notice of a record as it stood (R110 action 5). -/
def notifyAge (c : Cfg) (m : Mach) (pl : Spot) (r : Rec) : Mach :=
  let region := fhSlot (fhOf c m r.key)
  let m := bump c (postEvent c m { ageEvent r with mark := region }) .fslCnt (m.phys region) cFslAgeNotify
  if c.on tskAgeRouteEn r.tprof then { m with tsk := { m.tsk with ageIn := m.tsk.ageIn ++ [ageItem c m pl r] } } else m

/-- Which actions follow a delete. -/
structure DelAct where
  exp : Bool
  natReturn : Bool
  duoDelete : Bool
  notify : Bool

/-- A record is deleted with its actions, in the order of R110; `reason` is the flow-end reason. -/
def deleteWith (c : Cfg) (m : Mach) (region : Nat) (pl : Spot) (r : Rec) (a : DelAct) (reason : Nat) : Mach :=
  let m := if a.exp then exportRec c m r reason else m
  let m := removeRec c m region pl r
  let m := returnBinding c m r a.natReturn
  let m := if a.duoDelete then emitDelete c m r else m
  if a.notify then notifyAge c m pl r else m

/-! ### Host flow commands (R113, R300) -/

/-- Completion statuses (R331). -/
def sOK : Nat := 0x00
def sEXISTS : Nat := 0x01
def sNOT_FOUND : Nat := 0x02
def sNO_ROOM : Nat := 0x03
def sBAD_RECORD : Nat := 0x04
def sVERSION_MISMATCH : Nat := 0x05
def sWRONG_ROLE : Nat := 0x06
def sBAD_ENTRY : Nat := 0x07
def sBAD_PROGRAM : Nat := 0x08
def sBAD_TEMPLATE : Nat := 0x09
def sBUSY : Nat := 0x0A
def sNOT_PERMITTED : Nat := 0x0B
def sUNSUPPORTED_VERSION : Nat := 0x0C
def sBAD_OPCODE : Nat := 0x0D
def sBAD_LENGTH : Nat := 0x0E
def sDMA_ERROR : Nat := 0x0F
def sABORTED : Nat := 0x10

/-- The entry of a key is one this device homes or holds in shadow (R300). -/
def entryOurs (c : Cfg) (m : Mach) (fh : Nat) : Bool :=
  !duoOn c || (let e := fhSteer fh; m.entState e = 1 || entRole c (m.entry e) = .home)

/-- A modify or delete may act on a record of this role (R113, R309). -/
def roleOurs (c : Cfg) (m : Mach) (fh : Nat) (r : Rec) : Bool :=
  r.role = 0 || (r.role = 2 && inShadow c m fh) || entRole c (m.entry (fhSteer fh)) = .home

/-- `FLOW_INSERT` at the place its insert has found: the status, the output and the machine. What must wait has waited (R89, R112, R117). -/
def flowInsert (c : Cfg) (m : Mach) (spot : Option Spot) (q : Cmd) : Nat × List Byte × Mach :=
  if !recordOk q.data then (sBAD_RECORD, [], m)
  else
    let r := recOf q.data
    let fh := fhOf c m r.key
    let region := fhSlot fh
    if !entryOurs c m fh then (sWRONG_ROLE, [], m)
    else
      let (hit, m) := lookupKey c m fh r.key
      if hit.isSome then (sEXISTS, [], m)
      else
        let keep := q.flags.getLsbD 15
        let r := { r with version := 0, pkts := if keep then r.pkts else 0, bytes := if keep then r.bytes else 0,
                          created := if keep then r.created else m.fsl.ageNow, lastHit := if keep then r.lastHit else m.fsl.ageNow }
        let (r, send, _) := insertRole c m fh (progSync (progOf m m.glb.active 0 r.prog)) r
        match placeNew c m region spot r with
        | (false, m) => (sNO_ROOM, [], m)
        | (true, m) =>
          let m := if r.unmirrored then bump c m .duoCnt cDuoUnmirrored else m
          let (r', m) := if send then emitChange c m r true none else (r, m)
          match findKey m region fh r.key with
          | some (pl, _) => (sOK, [], putRec c m region pl r')
          | none => (sOK, [], m)

/-- `FLOW_MODIFY`: the whole record is rewritten; one in shadow keeps `ROLE` 2 and `UNMIRRORED` 1. -/
def flowModify (c : Cfg) (m : Mach) (q : Cmd) : Nat × List Byte × Mach :=
  if !recordOk q.data then (sBAD_RECORD, [], m)
  else
    let n := recOf q.data
    let fh := fhOf c m n.key
    let region := fhSlot fh
    if !entryOurs c m fh then (sWRONG_ROLE, [], m)
    else
      let (hit, m) := lookupKey c m fh n.key
      match hit with
      | none => (sNOT_FOUND, [], m)
      | some (pl, r) =>
        if !roleOurs c m fh r then (sWRONG_ROLE, [], m)
        else if q.flags.getLsbD 14 && r.version ≠ q.arg0.toNat % 65536 then (sVERSION_MISMATCH, [], m)
        else
          let keep := !q.flags.getLsbD 15
          let shadow := r.role = 2 && inShadow c m fh
          let n := { n with role := if shadow then 2 else 0, unmirrored := n.unmirrored || shadow, version := (r.version + 1) % 65536,
                            pkts := if keep then r.pkts else n.pkts, bytes := if keep then r.bytes else n.bytes,
                            lastHit := if keep then r.lastHit else n.lastHit, created := if keep then r.created else n.created }
          let (n, m) := emitChange c m n false none
          (sOK, [], putRec c m region pl n)

/-- `FLOW_DELETE` deletes the record found. -/
def deleteActs (c : Cfg) (m : Mach) (fh : Nat) (r : Rec) (q : Cmd) : Bool :=
  entryOurs c m fh && roleOurs c m fh r && !(q.flags.getLsbD 14 && r.version != q.arg0.toNat % 65536)

/-- `FLOW_DELETE`: the final record is returned. -/
def flowDelete (c : Cfg) (m : Mach) (q : Cmd) : Nat × List Byte × Mach :=
  let key := q.data
  let fh := fhOf c m key
  let region := fhSlot fh
  if !entryOurs c m fh then (sWRONG_ROLE, [], m)
  else
    let (hit, m) := lookupKey c m fh key
    match hit with
    | none => (sNOT_FOUND, [], m)
    | some (pl, r) =>
      if !roleOurs c m fh r then (sWRONG_ROLE, [], m)
      else if q.flags.getLsbD 14 && r.version ≠ q.arg0.toNat % 65536 then (sVERSION_MISMATCH, [], m)
      else
        let (r, m) := roleNow c m fh r
        let a : DelAct := ⟨q.flags.getLsbD 10, q.flags.getLsbD 9, q.flags.getLsbD 8, q.flags.getLsbD 7⟩
        (sOK, r.image, deleteWith c m region pl r a 4)

/-- `FLOW_QUERY`: the record's line is installed (R91). -/
def flowQuery (c : Cfg) (m : Mach) (q : Cmd) : Nat × List Byte × Mach :=
  let fh := fhOf c m q.data
  let (hit, m) := lookupKey c m fh q.data
  match hit with
  | none => (sNOT_FOUND, [], m)
  | some (.at pos, r) => (sOK, r.image, putLine c m (fhSlot fh) pos r false)
  | some (.stash, r) => (sOK, r.image, m)

/-! ### Companions (R142, R143) -/

/-- A companion insert has failed: the forward record that holds the pair is deleted, the pair returned. -/
def undoForward (c : Cfg) (m : Mach) (fwd : List Byte) (pool addr port : Nat) : Mach :=
  let fh := fhOf c m fwd
  let region := fhSlot fh
  let (hit, m) := lookupKey c m fh fwd
  let m := match hit.filter fun x => x.2.bound && x.2.bindPool == pool && x.2.bindAddr == addr && x.2.bindPort == port with
    | some (pl, r) => emitDelete c (removeRec c m region pl { r with param := splice r.param 6 (beBytes 2 (putBits r.bindWord 14 14 0)) }) r
    | none => m
  bump c (natReturn c m pool addr port) .fstCnt cFstCompFail

/-- A companion insert fails: its forward record's slice is told, and no companion is deleted. -/
def compFailed (c : Cfg) (m : Mach) (fwd comp : List Byte) (pool addr port : Nat) : Mach :=
  let not' (x : CompOp) : Bool := x != .del comp pool addr port
  let m := { m with fsl := { m.fsl with comps := m.fsl.comps.filter not', jobs := m.fsl.jobs.filter fun w => match w.job with
    | .comp x => not' x
    | _ => true } }
  pushJob c m (.undo fwd pool addr port) fwd

/-- A companion insert at its slice. -/
def compInsert (c : Cfg) (m : Mach) (spot : Option Spot) (fwd : List Byte) (comp : Rec) (pool addr port : Nat) : Mach :=
  let fh := fhOf c m comp.key
  let region := fhSlot fh
  let (hit, m) := lookupKey c m fh comp.key
  if hit.isSome then compFailed c m fwd comp.key pool addr port
  else
    let r := { comp with lastHit := m.fsl.ageNow, created := m.fsl.ageNow }
    let (r, send, _) := insertRole c m fh (progSync (progOf m m.glb.active 0 r.prog)) r
    match placeNew c m region spot r with
    | (false, m) => compFailed c m fwd comp.key pool addr port
    | (true, m) =>
      let m := if r.unmirrored then bump c m .duoCnt cDuoUnmirrored else m
      let (r', m) := if send then emitChange c m r true none else (r, m)
      match findKey m region fh r.key with
      | some (pl, _) => putRec c m region pl r'
      | none => m

/-- A companion delete at its slice, which confirms it: the pair's bit is cleared. -/
def compDelete (c : Cfg) (m : Mach) (key : List Byte) (pool addr port : Nat) : Mach :=
  let fh := fhOf c m key
  let (hit, m) := lookupKey c m fh key
  let m := match hit with
    | some (pl, r) => emitDelete c (removeRec c m (fhSlot fh) pl r) r
    | none => m
  natReturn c m pool addr port

/-- A companion operation takes its place in its slice. -/
def companionGo (c : Cfg) (m : Mach) (x : CompOp) : Mach :=
  pushJob c { m with fsl := { m.fsl with comps := m.fsl.comps.erase x } } (.comp x) (match x with
    | .ins _ comp .. => comp.key
    | .del key .. => key)

/-- The first companion insert on its way. -/
def companionInsert (c : Cfg) (m : Mach) : Mach :=
  match m.fsl.comps.find? fun x => (match x with | .ins .. => true | _ => false) with
  | some x => companionGo c m x
  | none => m

/-- The first companion delete on its way that is not behind an insert of the same companion. -/
def companionDelete (c : Cfg) (m : Mach) : Mach :=
  let behind (key : List Byte) : Bool := m.fsl.comps.any fun x => match x with
    | .ins _ comp .. => comp.key == key
    | _ => false
  match m.fsl.comps.find? fun x => (match x with | .del key .. => !behind key | _ => false) with
  | some x => companionGo c m x
  | none => m

/-! ### The reinsert guard (R112) -/

/-- Guard entries of a region whose time has come lapse, and what waited goes on. -/
def guardLapse (c : Cfg) (m : Mach) (region : Nat) : Mach :=
  let l := (m.guardOf region).filter fun e => decide (m.up < e.2)
  settleOps c { m with fsl := { m.fsl with guard := Tbl.put [] m.fsl.guard region l } }

/-! ### Sweeps (R107-R110) -/

def Mach.sweepOf (m : Mach) (region : Nat) : Sweep := Tbl.look {} m.fsl.sweep region
def Mach.setSweep (m : Mach) (region : Nat) (x : Sweep) : Mach := { m with fsl := { m.fsl with sweep := Tbl.put {} m.fsl.sweep region x } }

/-- A pass of a region is wanted. -/
def Sweep.wants (x : Sweep) : Bool := x.waiting ≠ [] || x.gridNow

/-- A refused pass counts as late (R433). The grid's is skipped, and the one that waited behind it asks in its turn; a rebuild, or a pass that
software or a round wants, asks again when the next grid pass falls due (DESIGN CHOICE, notes/assumptions/143.md). -/
def sweepRefused (c : Cfg) (m : Mach) (region : Nat) : Mach :=
  let x := m.sweepOf region
  bump c (if x.waiting = [] then m.setSweep region { x with gridNow := x.gridWaits, gridWaits := false } else m) .fslCnt (m.phys region) cFslSweepLate

/-- The slice of a region asks for leave when a pass is wanted and none runs. -/
def sweepAsk (c : Cfg) (m : Mach) (region : Nat) : Mach :=
  let x := m.sweepOf region
  let u := m.phys region
  if !x.wants || x.running.isSome || m.waitsLeave opSweep u || m.holdsLeave opSweep u then m
  else match askLeave c m opSweep u with
    | (.refused, m) => sweepRefused c m region
    | (_, m) => m

/-- A due time of the grid (R108): the pass begins, waits behind a pass that runs or is deferred, or is skipped where one waits already. With `EN` 0
there is none, and only what is wanted otherwise asks (notes/assumptions/143.md). -/
def sweepDue (c : Cfg) (m : Mach) : Mach :=
  if !m.fsl.ready || m.up < m.fsl.due then m
  else
    let m := { m with fsl := { m.fsl with due := m.fsl.due + c.get fstSweepCfgInterval * 1_000_000 } }
    if !c.on fstSweepCfgEn then (List.range 16).foldl (sweepAsk c) m
    else (List.range 16).foldl (fun m region =>
      let x := m.sweepOf region
      let late (m : Mach) : Mach := bump c m .fslCnt (m.phys region) cFslSweepLate
      if x.gridWaits then sweepAsk c (late m) region
      else if x.running.isSome || x.gridNow || x.waiting ≠ [] then sweepAsk c (late (m.setSweep region { x with gridWaits := true })) region
      else sweepAsk c (m.setSweep region { x with gridNow := true }) region) m

/-- A pass is wanted by software or by a round (R121, R312). -/
def sweepWant (c : Cfg) (m : Mach) (region : Nat) (k : SweepKind) : Mach :=
  let x := m.sweepOf region
  if x.waiting.contains k then m else sweepAsk c (m.setSweep region { x with waiting := x.waiting ++ [k] }) region

/-- The pass that starts first: a rebuild, then the others in their order, then the grid's (R121). -/
def Sweep.next (x : Sweep) : Option SweepKind :=
  if x.waiting.contains .rebuild then some .rebuild else x.waiting.head?.or (if x.gridNow then some .sweep else none)

/-- A pass begins. -/
def sweepBegin (c : Cfg) (m : Mach) (region : Nat) (k : SweepKind) : Mach :=
  let x := m.sweepOf region
  let n := x.passes + 1
  let every := c.get duoSyncCfgDeltaEvery
  let x' := { x with
    running := some k, cursor := 0, found := [], passes := n, prev := x.start, start := m.fsl.ageNow
    delta := decide (every ≠ 0) && decide (n % every = 0)
    waiting := x.waiting.erase k, gridNow := x.gridNow && (x.waiting.contains k || k != .sweep) }
  let m := m.setSweep region x'
  if k = .rebuild then { m with fsl := { m.fsl with fresh := m.fsl.fresh.filter fun e => e.1 / 2 ^ 24 != region } } else m

/-- A pass begins once its leave is granted (R108, R109). -/
def sweepStart (c : Cfg) (m : Mach) (region : Nat) : Mach :=
  let x := m.sweepOf region
  match x.next with
  | some k => if x.running.isNone && m.holdsLeave opSweep (m.phys region) then sweepBegin c m region k else m
  | none => m

/-- The end of a region's cursor. -/
def cursorEnd : Nat := 2 ^ 24 + 4096

/-- The next bucket with a record, or stash entry, from the cursor on. -/
def nextSpot (m : Mach) (region : Nat) : Nat :=
  let cur := (m.sweepOf region).cursor
  let occupied := (regionRecs m region).filterMap fun e => match e.1 with
    | .at p => if cur ≤ p / 4 then some (p / 4) else none
    | .stash => none
  match occupied.head? with
  | some b => if cur < 2 ^ 24 then b else cur
  | none =>
    let i := max cur (2 ^ 24)
    if i - 2 ^ 24 < (m.stash region).length then i else cursorEnd

/-- The records at a spot. -/
def spotRecs (m : Mach) (region spot : Nat) : List (Spot × Rec) :=
  if spot < 2 ^ 24 then (bucketRecs m region spot).map fun e => (.at e.1, e.2)
  else match (m.stash region)[spot - 2 ^ 24]? with
    | some r => [(.stash, r)]
    | none => []

/-- An active timeout fell since the previous pass started (R157). -/
def activeDue (c : Cfg) (m : Mach) (x : Sweep) (r : Rec) : Bool :=
  let n := c.get fstIpfixTimersActive
  let now := ageOf m r.created
  let gone := (m.fsl.ageNow + 65536 - x.prev) % 65536
  n != 0 && r.exp && decide ((now - gone) / n < now / n)

/-- A partner of a round homes or mirrors the entry of a key together with this device, and the entry is exchanged. -/
def exchangedWith (c : Cfg) (m : Mach) (p fh : Nat) (mSide : Bool) : Bool :=
  let e := fhSteer fh
  let x := m.entry e
  ((m.link p).round.bind (·.exchanged)).any (·.contains e) &&
    (if mSide then entRole c x == .mirror && seHome x == partnerDev c p else entRole c x == .home && seMEn x && seMirror x == partnerDev c p)

/-- A record that pass 3 of a round deletes. -/
def staleRec (c : Cfg) (m : Mach) (p fh : Nat) (r : Rec) : Bool := exchangedWith c m p fh true && r.role = 1 && r.unmirrored

/-- A round's work on one record (R312). -/
def roundVisit (c : Cfg) (m : Mach) (region : Nat) (p pass : Nat) (pl : Spot) (r : Rec) : Mach :=
  let fh := fhOf c m r.key
  let bulk (kind : Nat) : Mach :=
    (duoSend m p { type := 6, flags := b2n r.wide * 128 + kind * 16, body := recBody m r } none).getD m
  match pass with
  | 1 =>
    if !exchangedWith c m p fh true then m
    else if r.role = 2 then bulk (if r.unmirrored then 2 else 1)
    else if r.role = 1 then
      let restore := ((m.link p).round.map fun x => x.bootNew || x.loss).getD false  -- `LOSS` was received
      if restore then bulk 3 else putRec c m region pl { r with unmirrored := true, version := (r.version + 1) % 65536 }
    else m
  | 2 => if exchangedWith c m p fh false && r.role = 0 then bulk 0 else m
  | _ => if staleRec c m p fh r then releaseBinding c (removeRec c m region pl r) r else m

/-- A visit to one record that stays (R108): mirror records of shadow entries, promoted records, counters and updates
owed, active timeouts, rebuild counts, a round's messages. -/
def visitRec (c : Cfg) (m : Mach) (region : Nat) (x : Sweep) (pl : Spot) (r : Rec) : Mach :=
  let fh := fhOf c m r.key
  let (r', m) := roleNow c m fh r
  let r' := stepped r r'
  let m := if r' = r then m else putRec c m region pl r'
  let r := r'
  let part := (recPartner c m r).filter (mirrors m)
  let isLate := (Tbl.look [] m.duo.late region).contains r.key
  let m := if isLate then { m with duo := { m.duo with late := Tbl.upd [] m.duo.late region fun l => l.erase r.key } } else m
  let m := match part with
    | some p =>
      if r.unmirrored && isLate then
        (duoSend m p { type := 2, flags := b2n r.wide * 128, body := recBody m r } none).getD
          (addRetry c (bump c m .duoCnt cDuoWindowFull) region r.key)
      else m
    | none => m
  let m := match part with
    | some p =>
      let since := (m.fsl.ageNow + 65536 - Tbl.look 0 m.duo.delta region) % 65536
      if x.delta && decide (ageOf m r.lastHit ≤ since) then
        let body := r.key ++ beBytes 4 r.pkts ++ beBytes 6 (if r.wide then r.bytes else r.bytes % 2 ^ 32) ++ beBytes 2 (ageOf m r.lastHit)
        (duoSend m p { type := 4, flags := b2n r.wide * 128, body := body } none).getD (bump c m .duoCnt cDuoWindowFull)
      else m
    | none => m
  let m := if activeDue c m x r then exportRec c m r 2 else m
  match x.running with
  | some (.round p pass) => roundVisit c m region p pass pl r
  | _ => m

/-- Messages that a visit may need can be sent: a pass pauses while they cannot (R312). -/
def syncRoom (m : Mach) : Bool := (List.range 8).all fun p => (m.link p).later == [] && decide ((m.link p).unacked + 16 ≤ maxCopies)

/-- An age notice of the region's sweeper is held by the task scheduler (R265). -/
def noticeHeld (m : Mach) (region : Nat) : Bool := m.tsk.ageIn.any fun x => fhSlot x.fh == region

/-- A rebuild counts a record outside its primary bucket (R109). -/
def countFresh (c : Cfg) (m : Mach) (region : Nat) (pl : Spot) (r : Rec) : Mach :=
  let p := fhBucket (fhOf c m r.key)
  match pl with
  | .at pos =>
    if pos / 4 ≠ p then { m with fsl := { m.fsl with fresh := Tbl.upd 0 m.fsl.fresh (bkey region p) fun v => min 3 (v + 1) } } else m
  | .stash => m

/-- What visits to these records need is not there: a message or a record for the exporter has no room, or a delete of a round finds the
guard full (R112, R160, R312). -/
def visitsHeld (c : Cfg) (m : Mach) (region : Nat) (x : Sweep) (rs : List Rec) : Bool :=
  let stale (r : Rec) : Bool := match x.running with
    | some (.round p 3) => staleRec c m p (fhOf c m r.key) r
    | _ => false
  !syncRoom m || !ipfixOpen c m (rs.filter fun r => activeDue c m x r) ||
    (rs.any stale && decide (256 < (m.guardOf region).length + rs.length))

/-- The sweeper pauses before a spot: an operation holds its buckets, its visits lack what they need, an age notice has no room, or no
pending entry is free (R89, R94, R108, R265). -/
def visitHeld (c : Cfg) (m : Mach) (region spot : Nat) (x : Sweep) : Bool :=
  let rs := (spotRecs m region spot).map (·.2)
  noticeHeld m region || tableFull m region || visitsHeld c m region x rs ||
    !openNow m region (if spot < 2 ^ 24 then [spot] else rs.flatMap fun r => admitted m (fhOf c m r.key))

/-- The sweeper reaches the next bucket or stash entry (R108). Records that have expired are kept to be read again. -/
def sweeperVisit (c : Cfg) (m : Mach) (region : Nat) : Mach :=
  let x := m.sweepOf region
  let spot := nextSpot m region
  if x.running.isNone || x.found ≠ [] || visitHeld c m region spot x then m
  else
    let m := if spot < 2 ^ 24 then readBucket c m region spot else m
    let rs := spotRecs m region spot
    let m := if x.running = some .rebuild then rs.foldl (fun m e => countFresh c m region e.1 e.2) m else m
    let m := m.setSweep region { x with cursor := min cursorEnd (spot + 1), found := (rs.filter fun e => expired c m e.2).map fun e => e.2.key }
    (rs.filter fun e => !expired c m e.2).foldl (fun m e => visitRec c m region x e.1 e.2) m

/-- The actions of an expired record that `DELETE` 0 keeps (R110), behind the sweeper's visit to it. -/
def ageKeep (c : Cfg) (m : Mach) (region : Nat) (key : List Byte) (a : DelAct) : Mach :=
  match findKey m region (fhOf c m key) key with
  | none => m
  | some (pl, r) =>
    let m := if a.exp then exportRec c m r 1 else m
    let m := putRec c m region pl { r with lastHit := m.fsl.ageNow }
    let m := if a.duoDelete then emitDelete c m r else m
    if a.notify then notifyAge c m pl r else m

/-- A record found expired is read again in its buckets' order, and its profile's actions follow (R110). One that stays, because it was hit
before or its profile does not delete, is visited as any other (R108). It waits while an operation admitted earlier holds a bucket, and for
what its actions and its visit need (R94, R112, R160, R265). -/
def ageOut (c : Cfg) (m : Mach) (region : Nat) : Mach :=
  let x := m.sweepOf region
  match x.found with
  | [] => m
  | key :: rest =>
    let fh := fhOf c m key
    let next (m : Mach) : Mach := m.setSweep region { m.sweepOf region with found := rest }
    if !openNow m region (admitted m fh) || (tableFull m region && !nearby m fh key) then m
    else match touchKey c m fh key with
    | (none, m) => next m
    | (some (pl, r), m') =>
      let act (f : Fld) : Bool := c.on f r.tprof
      let old := expired c m' r
      let del := old && act fstTprofActDelete
      let visits := if del then [] else [r]
      let out := if old && act fstTprofActExport then [r] else []
      if (del && m.guardFull region) || (old && act fstTprofActNotify && noticeHeld m region) ||
          visitsHeld c m region x visits || !ipfixOpen c m ((visits.filter fun r => activeDue c m x r) ++ out) then m
      else
        let a : DelAct := ⟨act fstTprofActExport, act fstTprofActNatReturn, act fstTprofActDuoDelete, act fstTprofActNotify⟩
        if del then
          let (r, m) := roleNow c (next m') fh r
          bump c (deleteWith c m region pl r a 1) .fslCnt (m.phys region) cFslAgeDelete
        else
          let m := visitRec c (next m') region x pl r
          if old then ageKeep c m region key a else m

/-- A pass has reached every spot and no expired record is left to read again. -/
def passOver (m : Mach) (region : Nat) : Bool :=
  let x := m.sweepOf region
  x.running.isSome && x.found = [] && (decide (cursorEnd ≤ x.cursor) || nextSpot m region = cursorEnd)

/-- A pass ends (R109): a rebuild installs its map; the slice may begin the next. -/
def passEnd (c : Cfg) (m : Mach) (region : Nat) : Mach :=
  let x := m.sweepOf region
  let u := m.phys region
  let m := if x.running = some .rebuild then
      let old := m.fsl.ovf.filter fun e => e.1 / 2 ^ 24 != region
      let new := m.fsl.fresh.filter fun e => e.1 / 2 ^ 24 == region
      let m := { m with fsl := { m.fsl with
        ovf := new.foldl (fun t e => Tbl.put 0 t e.1 e.2) old
        fresh := m.fsl.fresh.filter fun e => e.1 / 2 ^ 24 != region
        mapState := if (m.failing region).isSome then m.fsl.mapState else Tbl.put 0 m.fsl.mapState region 0 } }
      releaseLeave c m opWarmUp region
    else m
  let m := if x.delta then { m with duo := { m.duo with delta := Tbl.put 0 m.duo.delta region x.start } } else m
  let m := m.setSweep region { x with running := none, cursor := 0, gridNow := x.gridNow || x.gridWaits, gridWaits := x.gridNow && x.gridWaits }
  sweepAsk c (releaseLeave c m opSweep u) region

/-! ### Takeover (R117) -/

/-- What the crossbar sends again: a request, or an operation of another source. -/
inductive Resend
  | req (q : FlowReq)
  | job (j : Job) (key : List Byte)

/-- Puts an entry into a list by its number. -/
def putByNo (e : Nat × Resend) : List (Nat × Resend) → List (Nat × Resend)
  | [] => [e]
  | x :: xs => if e.1 < x.1 then e :: x :: xs else x :: putByNo e xs

/-- What a slot's slice was sent and did not answer, in its original order: what waits in the slice, and what it carried out within the
20 ns that a response takes to the crossbar (R96, R117, R118; notes/assumptions/95.md). -/
def unanswered (m : Mach) (slot : Nat) : List (Nat × Resend) :=
  let ops : List (Nat × Resend) := (m.fsl.ops.filter fun o => fhSlot o.req.fh == slot).map fun o => (o.no, .req o.req)
  let lost : List (Nat × Resend) :=
    (m.ppl.resps.filter fun r => r.slot == slot && decide (m.up < r.sent + 20)).filterMap fun r => r.req.map fun q => (r.no, .req q)
  let jobs : List (Nat × Resend) := (m.fsl.jobs.filter (·.region == slot)).map fun w => (w.no, .job w.job w.key)
  let wbs : List (Nat × Resend) :=
    (m.fsl.wbDone.filter fun e => fhSlot e.1.fh == slot && decide (m.up < e.2.1 + 20)).map fun e => (e.2.2, .job (.wb e.1) e.1.key)
  (ops ++ lost ++ jobs ++ wbs).foldl (fun l e => putByNo e l) []

/-- It reaches the spare. -/
def resend (c : Cfg) (m : Mach) : Resend → Mach
  | .req q => admitReq m q
  | .job (.wb w) _ => admitWb c m w
  | .job j key => pushJob c m j key

/-- A ledger entry is settled by the spare (R117 step 2): the source is cleared where the destination holds the key. -/
def adoptMove (m : Mach) (e : LedgerEnt) : Mach :=
  let m := { m with fsl := { m.fsl with ledger := m.fsl.ledger.erase e } }
  if (recAt m e.region e.pos).any fun r => r.key == e.mv.key then clearPlace m e.region e.mv.src else m

/-- The spare takes a slot (R117 steps 1-3). What the failed slice was sent and had not answered is sent again, in order, before what the
crossbar holds. DESIGN CHOICE: a sweep or a round's pass that ran in the failed slice ends there, and the rebuild runs in its place
(notes/assumptions/125.md). -/
def takeover (c : Cfg) (m : Mach) (slot : Nat) (loses : Bool) : Mach :=
  let failed := m.phys slot
  let (_, m) := askLeave c m opWarmUp slot
  let again := unanswered m slot
  let m := { m with
    ppl := { m.ppl with resps := m.ppl.resps.filter fun r => !(r.slot == slot && decide (m.up < r.sent + 20) && r.req.isSome) }
    fsl := { m.fsl with
      ops := m.fsl.ops.filter fun o => fhSlot o.req.fh != slot
      jobs := m.fsl.jobs.filter fun w => w.region != slot
      wbDone := m.fsl.wbDone.filter fun e => fhSlot e.1.fh != slot
      pending := m.fsl.pending.filter fun k => k / 2 ^ 24 != slot
      readWait := m.fsl.readWait.filter fun k => k / 2 ^ 24 != slot
      takeover := some { slot := slot, failed := failed, loses := loses }
      imagesDue := m.fsl.imagesDue.erase slot ++ [slot]
      mapPhys := Tbl.ins m.fsl.mapPhys slot m.fsl.spare
      mapState := Tbl.ins m.fsl.mapState slot 1
      spareTaken := true, lastSlot := slot } }
  let m := (m.fsl.ledger.filter (·.region == slot)).foldl adoptMove m
  let m := sweepBegin c (releaseLeave c (dropLeave m opSweep failed) opSweep failed) slot .rebuild
  again.foldl (fun m e => resend c m e.2) m

/-- A write of 1 to `FST_TAKEOVER.GO`. -/
def takeoverGo (c : Cfg) (m : Mach) : Mach :=
  if !m.fsl.spareAvail || m.fsl.takeover.isSome then m else settleOps c (takeover c m (c.get fstTakeoverSlot) false)

/-- The spare has loaded the stash image of the slot that waits longest for it. -/
def imageLoaded (c : Cfg) (m : Mach) : Mach :=
  match m.fsl.imagesDue with
  | [] => m
  | _ :: rest => settleOps c { m with fsl := { m.fsl with imagesDue := rest } }

/-- The failed slice's dirty lines are written back, or lost where the fault took them (R117 step 6). DESIGN CHOICE: this is when
`FSL_SLICE_MAP_n.STATE` goes from 1 to 2 (notes/assumptions/96.md). -/
def takeoverEnd (c : Cfg) (m : Mach) : Mach :=
  match m.fsl.takeover with
  | none => m
  | some t =>
    let sets := m.fsl.cache.filter fun e => e.1 / 8192 == t.failed
    let dirty := (sets.flatMap (·.2)).filter (·.dirty)
    let m := if t.loses then
        let m := if dirty = [] then m else raise c { m with duo := { m.duo with lost := true } } 16 t.slot DEGRADED
        bump c m .fslCnt t.failed cFslLostLine (x := dirty.length)
      else dirty.foldl (fun m l => m.putHbm t.slot l.pos (some l.rcd)) m
    let m := { m with fsl := { m.fsl with
      cache := m.fsl.cache.filter fun e => e.1 / 8192 != t.failed
      takeover := none, spareAvail := false
      offline := t.failed :: m.fsl.offline
      mapState := Tbl.put 0 m.fsl.mapState t.slot (if m.rebuilding t.slot then 2 else 0) } }
    raise c (settleOps c m) 19 0 DEGRADED

/-! ### The region clear, ages (R106, R120) -/

/-- The store leaves service: a clear in progress stops, ages return to 0. -/
def storeOff (m : Mach) : Mach :=
  { m with fsl := { m.fsl with ready := false, clearing := false, ageNow := 0, ageAt := 0 } }

/-- `ENABLE` written 1. -/
def storeOn (m : Mach) : Mach := { m with fsl := { m.fsl with clearing := true, ready := false } }

/-- The clear ends: every region is empty, and the age count starts. -/
def storeReady (c : Cfg) (m : Mach) : Mach :=
  if !m.fsl.clearing then m
  else { m with fsl := { m.fsl with
    hbm := [], cache := [], ovf := [], fresh := [], stash := [], retry := [], guard := [], victim := [], ledger := []
    retryAt := (List.range 16).map fun r => (r, m.up + 1000 * c.get fstGuardCfgStashRetry)
    clearing := false, ready := true, ageNow := 0, ageAt := m.up + 1000 * c.get fstAgeCfgAgeTick
    due := m.up + 1_000_000 * c.get fstSweepCfgInterval } }

/-- An age tick (R106). -/
def ageTick (c : Cfg) (m : Mach) : Mach :=
  if m.fsl.ready && decide (m.fsl.ageAt ≤ m.up) then
    { m with fsl := { m.fsl with ageNow := (m.fsl.ageNow + 1) % 65536, ageAt := m.fsl.ageAt + 1000 * c.get fstAgeCfgAgeTick } }
  else m

end Sys2Proof.Machine
end

