-- ==== Sys2Proof/Machine/Duo.lean ====
section
/-! DEFINITION. The Duilo engine: sync frames and their messages, acknowledgement, leases and link states, records that arrive from
a partner, reconcile rounds, parks and `PROMOTE` (R279, R287-R316). -/
namespace Sys2Proof.Machine

/-! ### Reading frames (R279, R287-R289) -/

/-- The bytes of a message's body (R288), from its type, its flags and the bytes that follow its header. -/
def bodyLen (type flags : Nat) (rest : List Byte) : Option Nat :=
  let wide := bit flags 7
  match type with
  | 1 => some 20
  | 2 | 6 => some (if wide then 128 else 64)
  | 3 => some (if wide then 48 else 24)
  | 4 => some (if wide then 52 else 28)
  | 5 | 8 => some 16
  | 7 => some (8 + 16 * byteAt rest 2)
  | _ => none

/-- Up to `n` messages of a frame, and whether a reserved type or a body cut short ended the reading. -/
def readMsgs : Nat → List Byte → List Msg × Bool
  | 0, _ => ([], false)
  | n + 1, b =>
    let type := byteAt b 0
    let flags := byteAt b 1
    match bodyLen type flags (b.drop 6) with
    | none => ([], true)
    | some k =>
      if b.length < 6 + k then ([], true)
      else
        let (ms, bad) := readMsgs n (b.drop (6 + k))
        ({ type := type, flags := flags, seq := be b 2 4, body := slice b 6 k } :: ms, bad)

def Msg.bytes (g : Msg) : List Byte := beBytes 1 g.type ++ beBytes 1 g.flags ++ beBytes 4 g.seq ++ g.body

/-- A message about a record names its key. -/
def Msg.ofRecord (g : Msg) : Bool := g.type = 2 || g.type = 3 || g.type = 4 || g.type = 6
def Msg.wide (g : Msg) : Bool := bit g.flags 7
def Msg.key (g : Msg) : List Byte := g.body.take (if g.wide then 40 else 16)

/-- The path a port serves (R278): partner and path, among enabled partners' paths. -/
def pathOf (c : Cfg) (l : Nat) : Option (Nat × Nat) :=
  (List.range 16).findSome? fun i => if (syncPaths c (i / 2)).contains (i % 2) && pathPort c (i / 2) (i % 2) = l then some (i / 2, i % 2) else none

/-- The port is a path of a partner that is not enabled. -/
def pathDisabled (c : Cfg) (l : Nat) : Bool :=
  (List.range 8).any fun p => !partnerEn c p && (pathPort c p 0 = l || (c.on duoPartnerCfgAltEn p && pathPort c p 1 = l))

def rxBad (c : Cfg) (m : Mach) : Mach := bump c m .duoCnt cDuoRxBad

/-- Sequence numbers from `a` on: how far `b` lies ahead. -/
def seqAhead (a b : Nat) : Nat := (b + 2 ^ 32 - a % 2 ^ 32) % 2 ^ 32

/-- Messages held ahead of a gap that has closed are dispatched (R291). -/
def drainAhead (path : Nat) : Nat → Link → Link
  | 0, x => x
  | n + 1, x =>
    match Tbl.find x.ahead x.rxSeq with
    | none => x
    | some g => drainAhead path n { x with ahead := Tbl.del x.ahead x.rxSeq, inbox := x.inbox ++ [(g, path)], rxSeq := (x.rxSeq + 1) % 2 ^ 32 }

/-- A received message joins the partner's inbox: one without a sequence number at once, others strictly in sequence (R291). One that
was received before is owed an `ACK` again. -/
def takeMsg (path now : Nat) (x : Link) (g : Msg) : Link :=
  if g.type = 1 || g.type = 5 then { x with inbox := x.inbox ++ [(g, path)] }
  else
    let d := seqAhead x.rxSeq g.seq
    if d = 0 then drainAhead path 32 { x with inbox := x.inbox ++ [(g, path)], rxSeq := (x.rxSeq + 1) % 2 ^ 32 }
    else if d ≤ 32 then { x with ahead := Tbl.ins x.ahead g.seq g }
    else if 2 ^ 31 ≤ d then { x with ackDue := some (x.ackDue.getD now) }
    else x

/-- The flow-request slots of 64 bytes a sync frame takes on its pipeline (R280). -/
def syncSlots (len : Nat) : Nat := ceilDiv len 64

/-- A `0x88B5` frame without its FCS on a port (R279): on a path it takes its pipeline's slots on its way to the engine (R280). -/
def syncFrameRx (c : Cfg) (m : Mach) (l : Nat) (f : List Byte) : Mach :=
  match pathOf c l with
  | none => if pathDisabled c l then rxBad c m else m
  | some (p, path) =>
    let m := oweSlots m (l / 8) (syncSlots (f.length + 4))
    let h := f.drop 14
    let x := m.link p
    if bits (be h 2 3) 17 0 ≠ partnerDev c p || bits (be h 5 3) 17 0 ≠ deviceId c || x.state = 0 then rxBad c m
    else
      let (ms, bad) := readMsgs (min 64 (byteAt h 1)) (h.drop 8)
      let stop := ms.findIdx? fun g => g.type = 8 && x.ver ≠ 2
      let bad := bad || stop.isSome
      let ms := ms.take (stop.getD ms.length)
      let x := { x with rx := Tbl.ins x.rx path m.up }
      let m := bump c (m.setLink p (ms.foldl (takeMsg path m.up) x)) .duoCnt cDuoRxMsg (x := ms.length)
      if bad then rxBad c m else m

/-! ### Carrying out (R291) -/

/-- Messages carried out beyond `CUM_SEQ` move it on. -/
def moveCum : Nat → Link → Link
  | 0, x => x
  | n + 1, x =>
    let s := (x.cum + 1) % 2 ^ 32
    if x.done.contains s then moveCum n { x with cum := s, done := x.done.filter (· != s) } else x

/-- A message of partner `p` has been carried out: applied, or refused. -/
def carriedOut (m : Mach) (p : Nat) (g : Msg) (refused : Bool) : Mach :=
  let x := m.link p
  let x := { x with inbox := x.inbox.eraseIdx ((x.inbox.findIdx? fun e => e.1 == g).getD x.inbox.length) }
  if g.type = 1 || g.type = 5 then m.setLink p x
  else
    let x := moveCum (x.done.length + 1) { x with done := g.seq :: x.done, ackDue := some (x.ackDue.getD m.up) }
    let old := if refused then g.seq :: x.refused else x.refused
    m.setLink p { x with refused := old.filter fun s => seqAhead s x.cum < 32 || 2 ^ 31 ≤ seqAhead s x.cum }

/-- Where a message acts: the slice of its key, or the engine. -/
def msgPlace (c : Cfg) (m : Mach) (g : Msg) : Nat := if g.ofRecord then fhSlot (fhOf c m g.key) else 16

/-- Whether message `i` of an inbox may act: none before it acts in the same place, and a `RECONCILE` waits for all before it. -/
def mayAct (c : Cfg) (m : Mach) (box : List (Msg × Nat)) (i : Nat) (g : Msg) : Bool :=
  (box.take i).all fun e => e.1.type = 1 || e.1.type = 5 || (g.type ≠ 7 && msgPlace c m e.1 != msgPlace c m g)

/-- The first message of a type that may act now. -/
def nextMsg (c : Cfg) (m : Mach) (p type : Nat) : Option (Msg × Nat) :=
  let box := (m.link p).inbox
  if type = 1 || type = 5 then box.find? (·.1.type == type)
  else
    let taken (g : Msg) : Bool := m.fsl.jobs.any fun w => w.job == .msg p g
    (box.zipIdx.find? fun e => e.1.1.type == type && mayAct c m box e.2 e.1.1 && !taken e.1.1).map (·.1)

/-! ### Links (R302-R306) -/

/-- An entry whose home is partner `p` and whose mirror is this device. -/
def mirroredFor (c : Cfg) (p x : Nat) : Bool := entRole c x = .mirror && seHome x == partnerDev c p

/-- Every entry that this device mirrors for a partner takes a state, but excluded ones. -/
def setEntries (c : Cfg) (m : Mach) (p state : Nat) (shadowed : Bool → Bool) : Mach :=
  m.duo.steer.foldl (fun (m : Mach) e =>
    if mirroredFor c p e.2 && m.entState e.1 != 3 then m.setEnt e.1 state (shadowed (m.entShadowed e.1)) else m) m

/-- The state of an entry, by the link to the partner that homes it, on the device that mirrors it (R303). -/
def entryFor (c : Cfg) (m : Mach) (x : Nat) : Nat :=
  match entRole c x, partnerOf c (seHome x) with
  | .mirror, some p => match (m.link p).state with
    | 0 | 4 => 0
    | 3 => 2
    | _ => 1
  | _, _ => 0

/-- The link event of R334. -/
def linkEvent (c : Cfg) (p old new reason : Nat) : Evt :=
  { type := 9, bodies := [beBytes 1 p ++ beBytes 1 old ++ beBytes 1 new ++ beBytes 1 reason ++ beBytes 3 (partnerDev c p)] }

/-- A link's stream ends with the lease: numbers start again at 0, nothing of it is sent again (notes/assumptions/31.md). A strict
insert keeps its wait (R295). -/
def Link.endStream (x : Link) (now : Nat) : Link :=
  let keep := x.copies.filter fun e => e.strict.isSome
  { x with txSeq := 0, later := [], rxSeq := 0, cum := 2 ^ 32 - 1, ahead := [], inbox := [], done := [], refused := [], ackDue := none, round := none,
           ver := 0, wait := [],
           copies := keep.map fun e => { e with msg := { e.msg with seq := e.msg.seq % 2 ^ 32 + 2 ^ 32 }, toSend := false, first := some (e.first.getD now) } }

/-- A round is abandoned (R312): none of its passes waits any longer, and one that runs goes on as a plain sweep. DESIGN CHOICE
(notes/assumptions/140.md). -/
def dropRound (c : Cfg) (m : Mach) (p : Nat) : Mach :=
  let ofRound (k : SweepKind) : Bool := match k with
    | .round q _ => q == p
    | _ => false
  (List.range 16).foldl (fun (m : Mach) region =>
    let x := m.sweepOf region
    let u := m.phys region
    let y := { x with waiting := x.waiting.filter (!ofRound ·), running := x.running.map fun k => if ofRound k then .sweep else k }
    let m := m.setSweep region y
    if y.running.isNone && x.wants && !y.wants then releaseLeave c (dropLeave m opSweep u) opSweep u else m) m

/-- A link enters a state: entries follow (R303, R306), an event is posted, `DUO_LEASE_LOST` or `DUO_INCOMPATIBLE` is raised. -/
def enterLink (c : Cfg) (m : Mach) (p new reason : Nat) : Mach :=
  let x := m.link p
  let old := x.state
  let m := m.setLink p { x with state := new, reason := reason }
  let m := if x.round.isSome && (new = 1 || new = 5 || new = 6) then dropRound c m p else m
  let m := if new = 1 || new = 5 || new = 6 then setEntries c (m.setLink p ((m.link p).endStream m.up)) p 1 fun _ => true
    else if new = 3 then setEntries c m p 2 id
    else if new = 4 then setEntries c m p 0 fun _ => false
    else m
  let m := if new = 5 && (old = 3 || old = 4) then raise c m 21 p DEGRADED else m
  let m := if new = 6 then raise c m 21 p DEGRADED else m
  postEvent c m (linkEvent c p old new reason)

/-- The lease of a partner (R302). -/
def leaseHeld (c : Cfg) (m : Mach) (p : Nat) : Bool :=
  let x := m.link p
  let lim := match x.hello with
    | some h => min (leaseNs c) (100 * h.lease)
    | none => leaseNs c
  ((syncPaths c p).any fun path => match Tbl.find x.rx path with
    | some t => decide (m.up - t ≤ lim)
    | none => false) &&
  (!(x.state = 3 || x.state = 4) || (x.hello.map (·.hearing)).getD false) &&
  x.copies.all fun e => match e.first with
    | some t => e.covered || e.msg.seq ≥ 2 ^ 32 || decide (m.up - t ≤ leaseNs c)
    | none => true

/-- The low 32 bits of the hash of 16 zero bytes under the seed (R289). -/
def seedCheck (c : Cfg) (m : Mach) : Nat := (sipHash24 (flowSeed c m) (List.replicate 16 0)).toNat % 2 ^ 32

/-- This device's `HELLO` to a partner (R289). -/
def helloOf (c : Cfg) (m : Mach) (p : Nat) : Msg :=
  { type := 1, body :=
      beBytes 2 (c.get duoTimersLeaseTimeout) ++ beBytes 2 (c.get duoSyncCfgVersions) ++ beBytes 1 (m.link p).ver ++
      beBytes 1 (b2n (yields c m) * 128 + b2n (leaseHeld c m p) * 64) ++ beBytes 4 m.glb.bootId.toNat ++
      beBytes 3 (c.get fstAgeCfgAgeTick) ++ [0] ++ beBytes 4 (seedCheck c m) ++ [0, 0] }

def helloIn (b : List Byte) : Hello :=
  { lease := be b 0 2, versions := be b 2 2, chosen := byteAt b 4, yielding := bit (byteAt b 5) 7, hearing := bit (byteAt b 5) 6,
    boot := be b 6 4, ageTick := be b 10 3, seedCheck := be b 14 4 }

/-- Every `LEASE_PERIOD` a `HELLO` waits on every sync path of a partner (R302). -/
def helloSend (c : Cfg) (m : Mach) (p : Nat) : Mach :=
  let x := m.link p
  if x.state = 0 || !m.glb.outputs || m.up < x.helloAt + 100 * c.get duoTimersLeasePeriod then m
  else
    let g := helloOf c m p
    m.setLink p { x with helloAt := m.up,
                         wait := (syncPaths c p).foldl (fun (t : Tbl (List Msg)) path => Tbl.upd [] t path (· ++ [g])) x.wait }

/-- The highest version in common (R304). -/
def commonVersion (a b : Nat) : Nat := if bit a 1 && bit b 1 then 2 else if bit a 0 && bit b 0 then 1 else 0

/-- The lease, and what ends it (R302, R303, R305), of one partner. -/
def leaseOne (c : Cfg) (m : Mach) (p : Nat) : Mach :=
  let x := m.link p
  if (x.state = 2 || x.state = 3 || x.state = 4) && (yields c m || !leaseHeld c m p) then enterLink c m p 5 0 else m

def leaseCheck (c : Cfg) (m : Mach) : Mach := (List.range 8).foldl (leaseOne c) m

/-! ### Rounds (R310-R314) -/

/-- An entry that this device shares with a partner as home or mirror: an excluded one too, so that the two sides see when they agree again. -/
def sharedWith (c : Cfg) (m : Mach) (p e : Nat) : Bool :=
  let x := m.entry e
  mirroredFor c p x || (entRole c x = .home && seMEn x && seMirror x == partnerDev c p)

/-- The stable bytes of a record (R310). -/
def stableBytes (r : Rec) : List Byte :=
  r.key ++ beBytes 4 (bits r.ctrl 27 17 * 2 ^ 17) ++ beBytes 2 (r.prog % 4096) ++ padTo (paramLen r.wide) r.param ++ r.track.bytes r.wide

/-- The digests of all entries that hold a record (R310). -/
def digests (c : Cfg) (m : Mach) : Tbl Nat :=
  (List.range 16).foldl (fun (t : Tbl Nat) region =>
    (regionRecs m region).foldl (fun (t : Tbl Nat) e =>
      Tbl.upd 0 t (fhSteer (fhOf c m e.2.key)) fun d => Nat.xor d (sipHash24 (flowSeed c m) (stableBytes e.2)).toNat) t) []

/-- What this device reports of an entry. -/
def itemOf (m : Mach) (ds : Tbl Nat) (e : Nat) : DigestItem :=
  let x := m.entry e
  { home := seHome x, mirror := seMirror x, mEn := seMEn x, shadowed := m.entShadowed e || m.entState e == 3, digest := Tbl.look 0 ds e }

def DigestItem.bytes (i : DigestItem) : List Byte :=
  beBytes 3 i.home ++ beBytes 3 i.mirror ++ beBytes 1 (b2n i.mEn * 128 + b2n i.shadowed * 64) ++ [0] ++ beBytes 8 i.digest

def itemIn (b : List Byte) : DigestItem :=
  { home := bits (be b 0 3) 17 0, mirror := bits (be b 3 3) 17 0, mEn := bit (byteAt b 6) 7, shadowed := bit (byteAt b 6) 6, digest := be b 8 8 }

/-- Runs of consecutive entries, at most 64 long. -/
def runsOf (es : List Nat) : List (List Nat) :=
  es.foldl (fun (rs : List (List Nat)) e => match rs.getLast? with
    | some r => if r.length < 64 && r.getLast? = some (e - 1) && e ≠ 0 then rs.dropLast ++ [r ++ [e]] else rs ++ [[e]]
    | none => [[e]]) []

def reconcileMsg (flags first : Nat) (items : List DigestItem) : Msg :=
  { type := 7, flags := flags, body := beBytes 2 first ++ beBytes 1 items.length ++ List.replicate 5 0 ++ items.flatMap DigestItem.bytes }

/-- The engine sends a message on a partner's stream; one that finds no free copy waits for one. -/
def sendOr (m : Mach) (p : Nat) (g : Msg) : Mach :=
  (duoSend m p g none).getD (m.setLink p { m.link p with later := (m.link p).later ++ [g] })

/-- Messages that waited for a copy join the stream, in order. -/
def sendLater (m : Mach) (p : Nat) : Mach :=
  let x := m.link p
  x.later.foldl (fun (m : Mach) g => sendOr m p g) (m.setLink p { x with later := [] })

def sendItems (m : Mach) (p : Nat) (loss : Bool) (items : List (Nat × DigestItem)) : Mach :=
  (runsOf (items.map (·.1))).foldl (fun (m : Mach) r =>
    sendOr m p (reconcileMsg (128 + 64 * b2n loss) (r.headD 0) (r.filterMap fun e => (items.find? (·.1 == e)).map (·.2)))) m

/-- The two sides agree on who holds an entry. -/
def DigestItem.agrees (a b : DigestItem) : Bool := a.home == b.home && a.mEn == b.mEn && (!a.mEn || a.mirror == b.mirror)

/-- The two sides disagree on an entry: it is excluded, and stays so (R314). -/
def excludeEntry (c : Cfg) (m : Mach) (e : Nat) (a b : DigestItem) : Mach :=
  if m.entState e = 3 then m else
  let m := m.setEnt e 3 (m.entShadowed e)
  let side (i : DigestItem) : List Byte := beBytes 3 i.home ++ beBytes 3 i.mirror ++ beBytes 1 (b2n i.mEn)
  let m := postEvent c m { type := 0x0B, bodies := [beBytes 2 e ++ List.replicate 6 0 ++ side a ++ [0] ++ side b] }
  raise c m 22 0 NOTE e

/-- This device has entries it mirrors, or homes, among the exchanged. -/
def Round.sides (r : Round) (c : Cfg) (m : Mach) (p : Nat) : Bool × Bool :=
  let es := r.exchanged.getD []
  (es.any fun e => mirroredFor c p (m.entry e), es.any fun e => entRole c (m.entry e) == .home)

def setRound (m : Mach) (p : Nat) (r : Round) : Mach := m.setLink p { m.link p with round := some r }

/-- A pass of a round begins: every region's sweeper makes one (R312). -/
def startPass (c : Cfg) (m : Mach) (p pass : Nat) (r : Round) : Mach :=
  (List.range 16).foldl (fun m region => sweepWant c m region (.round p pass)) (setRound m p { r with pass := pass, ended := [] })

/-- A `DONE` flag is sent: 1, 2 or 3, as bits 5, 4 and 3 of `FLAGS`. -/
def sendDone (m : Mach) (p k : Nat) (r : Round) : Mach :=
  setRound (sendOr m p (reconcileMsg (2 ^ (6 - k)) 0 [])) p { r with doneTx := Nat.lor r.doneTx (2 ^ k) }

/-- The next pass starts, `DONE_3` is sent in answer, or the link is `UP`, as the flags stand (R312). -/
def advanceRound (c : Cfg) (m : Mach) (p : Nat) : Mach :=
  match (m.link p).round with
  | none => m
  | some r =>
    let (mSide, hSide) := r.sides c m p
    let whole := decide (16 ≤ r.ended.length)
    if r.pass = 1 && whole && (!hSide || bit r.doneRx 1) then startPass c m p 2 r
    else if r.pass = 2 && whole && (!mSide || bit r.doneRx 2) then startPass c m p 3 r
    else
      let m := if r.pass = 3 && whole && !bit r.doneTx 3 && bit r.doneRx 3 then sendDone m p 3 r else m
      let r := ((m.link p).round).getD r
      if bit r.doneTx 3 && bit r.doneRx 3 then
        let m := (r.exchanged.getD []).foldl (fun (m : Mach) e => if m.entState e = 3 then m else m.setEnt e 0 false) m
        let x := m.link p
        enterLink c (m.setLink p { x with round := none, roundAt := m.up, upBoot := (x.hello.map (·.boot)).getD 0 }) p 4 0
      else m

/-- The exchange of digests: once both sides' entries are known, the exchanged set stands (R311). -/
def exchange (c : Cfg) (m : Mach) (p : Nat) : Mach :=
  match (m.link p).round with
  | none => m
  | some r =>
    if r.exchanged.isSome || r.mine.any fun e => (Tbl.find r.theirs e.1).isNone then m
    else
      let both := r.mine.filterMap fun e => (Tbl.find r.theirs e.1).map fun t => (e.1, e.2, t)
      let m := (both.filter fun e => !e.2.1.agrees e.2.2).foldl (fun (m : Mach) e => excludeEntry c m e.1 e.2.1 e.2.2) m
      -- an excluded entry on which they agree is excluded no longer (R314)
      let m := (both.filter fun e => e.2.1.agrees e.2.2 && m.entState e.1 == 3).foldl (fun (m : Mach) e =>
        m.setEnt e.1 (entryFor c m (m.entry e.1)) true) m
      let ex := (both.filter fun e => e.2.1.agrees e.2.2 &&
        (e.2.1.shadowed || e.2.2.shadowed || e.2.1.digest != e.2.2.digest || r.bootNew)).map (·.1)
      if (m.link p).state = 4 && ex = [] then m.setLink p { m.link p with round := none }
      else
        let m := setRound m p { r with exchanged := some ex }
        let m := if (m.link p).state = 4 then enterLink c m p 3 0 else m
        startPass c m p 1 (((m.link p).round).getD r)

/-- A round begins (R311): digests of every shared entry are sent, with `LOSS` where a record has been lost. -/
def beginRound (c : Cfg) (m : Mach) (p : Nat) : Mach :=
  let ds := digests c m
  let mine := ((Tbl.keys m.duo.steer).filter (sharedWith c m p)).map fun e => (e, itemOf m ds e)
  let x := m.link p
  let bootNew := ((x.hello.map (·.boot)).getD 0) != x.upBoot
  let m := m.setLink p { x with round := some { mine := mine, bootNew := bootNew }, roundAt := m.up, lossDue := false }
  let m := if mine = [] && x.lossDue then sendOr m p (reconcileMsg 64 0 []) else sendItems m p x.lossDue mine
  exchange c m p

/-- A pass of a round has ended in a region; when it has in all, its `DONE` is sent. -/
def roundPassEnded (c : Cfg) (m : Mach) (p pass region : Nat) : Mach :=
  match (m.link p).round with
  | none => m
  | some r =>
    if r.pass ≠ pass then m
    else
      let r := { r with ended := region :: r.ended.filter (· != region) }
      let m := setRound m p r
      if r.ended.length < 16 then m
      else
        let (mSide, hSide) := r.sides c m p
        let m := if (pass = 1 && mSide) || (pass = 2 && hSide) || (pass = 3 && (mSide || !hSide)) then sendDone m p pass r else m
        advanceRound c m p

/-- The end of a sweep pass, with a round's bookkeeping (R109, R312). -/
def sweepPassEnd (c : Cfg) (m : Mach) (region : Nat) : Mach :=
  if !passOver m region then m
  else
    let k := (m.sweepOf region).running
    let m := passEnd c m region
    match k with
    | some (.round p pass) => roundPassEnded c m p pass region
    | _ => m

/-- Links at `UP` begin a round. -/
def roundsFrom (c : Cfg) (m : Mach) (p : Nat → Bool) : Mach :=
  (List.range 8).foldl (fun (m : Mach) n => if (m.link n).state = 4 && (m.link n).round.isNone && p n then beginRound c m n else m) m

/-- A slice has lost a record (R311): a round with `LOSS` begins on every link at `UP`, on one with a round under way when that has ended. -/
def roundsForLoss (c : Cfg) (m : Mach) : Mach :=
  let m := if m.duo.lost then (List.range 8).foldl (fun (m : Mach) p =>
      if (m.link p).state = 0 then m else m.setLink p { m.link p with lossDue := true }) { m with duo := { m.duo with lost := false } } else m
  if (List.range 8).any fun p => (m.link p).lossDue then roundsFrom c m fun p => (m.link p).lossDue else m

/-- `DIGEST_PERIOD` seconds have passed at `UP` on a link (R311). -/
def digestPeriod (c : Cfg) (m : Mach) (p : Nat) : Mach :=
  let s := c.get duoCtrlDigestPeriod
  if s = 0 || m.up < (m.link p).roundAt + s * 1_000_000_000 then m else roundsFrom c m (· == p)

/-- `RECONCILE` (R311, R312). An item about an entry that this device does not share is answered with this device's own values. -/
def reconcileMsgIn (c : Cfg) (m : Mach) (p : Nat) (g : Msg) : Mach :=
  if !mirrors m p then m
  else
    let first := be g.body 0 2
    let items := (List.range (byteAt g.body 2)).map fun i => ((first + i) % 65536, itemIn (slice g.body (8 + 16 * i) 16))
    let digest := bit g.flags 7
    let m := if digest && (m.link p).round.isNone then beginRound c m p else m
    match (m.link p).round with
    | none => m
    | some r =>
      let r := { r with
        theirs := if digest then items.foldl (fun (t : Tbl DigestItem) e => Tbl.ins t e.1 e.2) r.theirs else r.theirs
        loss := r.loss || bit g.flags 6
        doneRx := [(5, 1), (4, 2), (3, 3)].foldl (fun d e => if bit g.flags e.1 then Nat.lor d (2 ^ e.2) else d) r.doneRx }
      let m := setRound m p r
      let strange := if digest then items.filter fun e => !sharedWith c m p e.1 && (Tbl.find r.mine e.1).isNone else []
      let ds := if strange = [] then [] else digests c m
      let reply := strange.map fun e => (e.1, itemOf m ds e.1)
      let m := sendItems m p false reply
      let m := strange.foldl (fun (m : Mach) e =>
        let a := itemOf m ds e.1
        if a.agrees e.2 then m else excludeEntry c m e.1 a e.2) m
      advanceRound c (exchange c m p) p

/-! ### Received `HELLO` (R303, R304) -/

/-- In `NEGOTIATE`, or on entering it: what the partner's `HELLO` decides. -/
def negotiate (c : Cfg) (m : Mach) (p : Nat) (h : Hello) : Mach :=
  let v := commonVersion (c.get duoSyncCfgVersions) h.versions
  if v = 0 then enterLink c m p 6 0
  else if h.ageTick ≠ c.get fstAgeCfgAgeTick then enterLink c m p 6 1
  else if h.seedCheck ≠ seedCheck c m then enterLink c m p 6 2
  else
    let m := m.setLink p { m.link p with ver := v }
    if h.chosen = v && h.hearing then beginRound c (enterLink c m p 3 0) p else m

/-- A `HELLO` renews the lease and moves the link (R302-R304). -/
def helloRx (c : Cfg) (m : Mach) (p : Nat) (h : Hello) : Mach :=
  let x := m.link p
  let old := x.hello
  let m := m.setLink p { x with hello := some h }
  let quiet := !h.yielding && !yields c m
  let rebooted := match old with
    | some o => o.boot != h.boot
    | none => false
  match x.state with
  | 1 | 5 => if quiet then negotiate c (enterLink c m p 2 0) p h else m
  | 2 => if !quiet || rebooted then enterLink c m p 5 0 else negotiate c m p h
  | 3 | 4 => if !quiet || rebooted then enterLink c m p 5 0 else m
  | 6 =>
    match old with
    | some o =>
      if o.versions ≠ h.versions || o.ageTick ≠ h.ageTick || o.seedCheck ≠ h.seedCheck || o.boot ≠ h.boot then
        negotiate c (enterLink c m p 2 0) p h
      else m
    | none => m
  | _ => m

/-! ### Records from a partner (R294, R297, R298, R313) -/

/-- A message's record with its times rebased to this device's age (R294). -/
def rebased (m : Mach) (g : Msg) : Rec :=
  let r := recOf g.body
  let at' (a : Nat) : Nat := (m.fsl.ageNow + 65536 - a % 65536) % 65536
  { r with lastHit := at' r.lastHit, created := at' r.created }

/-- A record is inserted for a message, its binding claimed (R294, R298); one that cannot be placed is refused. Whether it was refused, and
the machine. -/
def insertFor (c : Cfg) (m : Mach) (region : Nat) (spot : Option Spot) (r : Rec) : Bool × Mach :=
  match placeNew c m region spot r with
  | (true, m) => (false, natClaim c m r)
  | (false, m) => (true, bump c m .duoCnt cDuoRefused)

/-- `REC_UPDATE`, and `BULK` home copies (R294, R312). -/
def recUpdate (c : Cfg) (m : Mach) (spot : Option Spot) (p : Nat) (g : Msg) : Bool × Mach :=
  let r := { rebased m g with role := 1, peer := partnerDev c p, unmirrored := false }
  let fh := fhOf c m r.key
  let region := fhSlot fh
  let (hit, m) := lookupKey c m fh r.key
  match hit with
  | some (pl, _) => (false, natClaim c (putRec c m region pl r) r)
  | none => insertFor c m region spot r

/-- `REC_DELETE` (R294). -/
def recDelete (c : Cfg) (m : Mach) (g : Msg) : Bool × Mach :=
  let fh := fhOf c m g.key
  let (hit, m) := lookupKey c m fh g.key
  let free (m : Mach) : Mach := if bit g.flags 6 then natRelease c m (slice g.body (if g.wide then 40 else 16) 8) else m
  match hit with
  | some (pl, r) => (false, free (removeRec c m (fhSlot fh) pl r))
  | none => (false, free m)

/-- `CTR_DELTA` (R297). -/
def ctrDelta (c : Cfg) (m : Mach) (g : Msg) : Bool × Mach :=
  let fh := fhOf c m g.key
  let (hit, m) := lookupKey c m fh g.key
  match hit with
  | none => (false, m)
  | some (pl, r) =>
    let o := if g.wide then 40 else 16
    let pk := be g.body o 4
    let by' := be g.body (o + 4) 6
    let add := bit g.flags 6
    let r := { r with pkts := ((if add then r.pkts else 0) + pk) % 2 ^ 32,
                      bytes := ((if add then r.bytes else 0) + by') % 2 ^ (if r.wide then 48 else 40),
                      lastHit := (m.fsl.ageNow + 65536 - be g.body (o + 10) 2 % 65536) % 65536 }
    (false, putRec c m (fhSlot fh) pl r)

/-- `BULK` on the H side (R313). -/
def bulkHome (c : Cfg) (m : Mach) (spot : Option Spot) (p kind : Nat) (g : Msg) : Bool × Mach :=
  let n := { rebased m g with role := 0, peer := partnerDev c p, unmirrored := false }
  let fh := fhOf c m n.key
  let region := fhSlot fh
  let (hit, m) := lookupKey c m fh n.key
  match hit with
  | none => insertFor c m region spot n
  | some (pl, r) =>
    match kind with
    | 1 =>
      let r := { r with pkts := (r.pkts + n.pkts) % 2 ^ 32, bytes := (r.bytes + n.bytes) % 2 ^ (if r.wide then 48 else 40) }
      (false, putRec c m region pl r)
    | 2 =>
      let bind (x : Rec) : List Byte := if x.bound then x.param.take 8 else List.replicate 8 0
      let b := beBytes 2 (fhSteer fh) ++ beBytes 2 r.version ++ beBytes 2 n.version ++ [0, 0] ++ bind r ++ bind n
      (true, postEvent c (bump c m .duoCnt cDuoConflict) { type := 0x0A, bodies := [b, n.key] })
    | _ => (false, m)

/-- A record message of partner `p` is admitted to its slice (R90, R291). -/
def recordMsg (c : Cfg) (m : Mach) (p type : Nat) : Mach :=
  match nextMsg c m p type with
  | none => m
  | some (g, _) => pushJob c m (.msg p g) g.key

/-- An admitted record message takes effect in its turn, an insert at the place it has found; one whose stream has ended has none. -/
def recordMsgRun (c : Cfg) (m : Mach) (spot : Option Spot) (p : Nat) (g : Msg) : Mach :=
  if !(m.link p).inbox.any (·.1 == g) then m
  else
    let kind := bits g.flags 5 4
    let (refused, m) := match g.type with
      | 2 => recUpdate c m spot p g
      | 3 => recDelete c m g
      | 4 => ctrDelta c m g
      | _ => if kind = 0 then recUpdate c m spot p g else bulkHome c m spot p kind g
    carriedOut m p g refused

/-- `RECONCILE` of partner `p` acts; in `NEGOTIATE` it waits until the link reaches `RECONCILE`. -/
def reconcileRx (c : Cfg) (m : Mach) (p : Nat) : Mach :=
  match nextMsg c m p 7 with
  | none => m
  | some (g, _) => if (m.link p).state = 2 then m else carriedOut (reconcileMsgIn c m p g) p g false

/-- `STEER` from a partner (R309). -/
def steerMsgRx (c : Cfg) (m : Mach) (p : Nat) : Mach :=
  match nextMsg c m p 8 with
  | none => m
  | some (g, _) =>
    let e := be g.body 0 2
    let x := m.entry e
    let home := bits (be g.body 2 3) 17 0
    let mirror := bits (be g.body 5 3) 17 0
    let men := bit (byteAt g.body 8) 7
    let y := putBits (putBits (putBits (putBits x 62 62 (b2n men)) 59 42 home) 41 24 mirror) 22 20 p
    let m := if entRole c x = .neither && entRole c y = .neither then
        { m with duo := { m.duo with steer := Tbl.put 0 m.duo.steer e y } } else rxBad c m
    carriedOut m p g false

def helloMsgRx (c : Cfg) (m : Mach) (p : Nat) : Mach :=
  match nextMsg c m p 1 with
  | none => m
  | some (g, _) => helloRx c (carriedOut m p g false) p (helloIn g.body)

/-! ### Acknowledgement (R291, R295, R296) -/

/-- A park's release is sent to both dies (R295). -/
def sendUnpark (m : Mach) (fh : Nat) : Mach := { m with duo := { m.duo with release := m.duo.release ++ [fh] } }

/-- A record of a key is rewritten, if the store holds it. -/
def withRecord (c : Cfg) (m : Mach) (key : List Byte) (f : Mach → Nat → Spot → Rec → Mach) : Mach :=
  let fh := fhOf c m key
  let (hit, m) := lookupKey c m fh key
  match hit with
  | some (pl, r) => f m (fhSlot fh) pl r
  | none => m

/-- `UNMIRRORED` is set on the home record of a key. -/
def markRun (c : Cfg) (m : Mach) (key : List Byte) : Mach :=
  withRecord c m key fun m region pl r =>
    let (r', m) := markUnmirrored c m r
    if r' = r then m else putRec c m region pl (stepped r r')

/-- The slice of a key is told to set `UNMIRRORED`. -/
def markKey (c : Cfg) (m : Mach) (key : List Byte) : Mach := pushJob c m (.mark key) key

/-- What an acknowledged message does to its record: carried out, or refused (R294, R296, R313). -/
def ackEffect (c : Cfg) (m : Mach) (g : Msg) (refused : Bool) : Mach :=
  let kind := bits g.flags 5 4
  if g.type = 2 || (g.type = 6 && kind = 0) then
    if refused then markRun c m g.key
    else withRecord c m g.key fun m region pl r =>
      if r.role = 0 && r.unmirrored then
        let m := { m with duo := { m.duo with
          retry := Tbl.upd [] m.duo.retry region fun l => l.filter (·.1 != g.key)
          late := Tbl.upd [] m.duo.late region fun l => l.filter (· != g.key) } }
        putRec c m region pl (stepped r { r with unmirrored := false })
      else m
  else
    withRecord c m g.key fun m region pl r =>
      if r.role = 0 then m
      else if refused then releaseBinding c (removeRec c m region pl r) r
      else putRec c m region pl (stepped r { r with role := 1, unmirrored := false })

/-- An acknowledged message about a record reaches the record's slice. -/
def ackJob (c : Cfg) (m : Mach) (g : Msg) (refused : Bool) : Mach :=
  if g.type = 2 || g.type = 6 then pushJob c m (.ack g refused) g.key else m

/-- A parked first packet's flow may leave. -/
def strictCovered (m : Mach) (e : Copy) : Mach := match e.strict with
  | some fh => sendUnpark m fh
  | none => m

/-- `ACK` (R291): copies up to `CUM_SEQ` are freed, those of `RX_MAP` are covered. -/
def ackRx (c : Cfg) (m : Mach) (p : Nat) : Mach :=
  match nextMsg c m p 5 with
  | none => m
  | some (g, _) =>
    let m := carriedOut m p g false
    let cum := be g.body 0 4
    let map := be g.body 4 4
    let ref := be g.body 8 4
    let x := m.link p
    let live (e : Copy) : Bool := decide (e.msg.seq < 2 ^ 32)
    let upTo (e : Copy) : Bool := live e && decide (seqAhead e.msg.seq cum < 2 ^ 31)
    let inMap (e : Copy) : Bool := live e && !upTo e &&
      (let k := seqAhead (cum + 1) e.msg.seq
       decide (k < 32) && bit map k)
    let isRef (e : Copy) : Bool := let k := seqAhead e.msg.seq cum; decide (k < 32) && bit ref k
    let gone := x.copies.filter upTo
    let newly := x.copies.filter inMap
    let cover (e : Copy) : Copy := if inMap e then { e with covered := true, toSend := false, strict := none } else e
    let m := m.setLink p { x with copies := (x.copies.filter fun e => !upTo e).map cover }
    let m := (gone ++ newly).foldl strictCovered m
    gone.foldl (fun (m : Mach) e => ackJob c m e.msg (isRef e)) (sendLater m p)

/-- A link whose frames may carry sequenced messages: a version is chosen (R287, R291, R309). -/
def streams (m : Mach) (p : Nat) : Bool := mirrors m p || ((m.link p).state = 2 && (m.link p).ver ≠ 0)

/-- An `ACK` waits on the path in use: one is owed, or messages remain to be carried out, and the last is 0.1 µs old (R291). -/
def ackSend (c : Cfg) (m : Mach) (p : Nat) : Mach :=
  let x := m.link p
  if !streams m p || (x.ackDue.isNone && x.inbox = []) || m.up < x.ackAt + 100 then m
  else
    let mapBits := (List.range 32).foldl (fun v k => v + b2n (x.done.contains ((x.cum + 1 + k) % 2 ^ 32)) * 2 ^ k) 0
    let refBits := (List.range 32).foldl (fun v k => v + b2n (x.refused.contains ((x.cum + 2 ^ 32 - k) % 2 ^ 32)) * 2 ^ k) 0
    let g : Msg := { type := 5, body := beBytes 4 x.cum ++ beBytes 4 mapBits ++ beBytes 4 refBits ++ List.replicate 4 0 }
    m.setLink p { x with ackDue := none, ackAt := m.up, wait := Tbl.upd [] x.wait (pathInUse c m p) (· ++ [g]) }

/-- Copies sent `RETX` ago and not covered are sent again (R291). -/
def retxTimeout (c : Cfg) (m : Mach) (p : Nat) : Mach :=
  let x := m.link p
  let due (e : Copy) : Bool := !e.toSend && !e.covered && decide (e.msg.seq < 2 ^ 32) && (match e.sent with
    | some t => decide (t + 100 * c.get duoSyncCfgRetx ≤ m.up)
    | none => false)
  let n := (x.copies.filter due).length
  bump c (m.setLink p { x with copies := x.copies.map fun e => if due e then { e with toSend := true } else e }) .duoCnt cDuoRetx (x := n)

/-- `STRICT_WAIT` has passed without an `ACK` (R295). -/
def strictExpiry (c : Cfg) (m : Mach) (p : Nat) : Mach :=
  let x := m.link p
  let due (e : Copy) : Bool := e.strict.isSome && (match e.first with
    | some t => decide (t + 1000 * c.get duoSyncCfgStrictWait ≤ m.up)
    | none => false)
  let late := x.copies.filter due
  let m := m.setLink p { x with copies := (x.copies.map fun e => if due e then { e with strict := none } else e).filter fun e =>
    !(e.strict.isNone && decide (2 ^ 32 ≤ e.msg.seq)) }
  late.foldl (fun (m : Mach) e => markKey c (bump c (strictCovered m e) .duoCnt cDuoStrictTimeout) e.msg.key) m

/-- A record of a region's retry list whose time has come is sent again (R296), in its buckets' order. -/
def mirrorRetry (c : Cfg) (m : Mach) (region : Nat) : Mach :=
  match (Tbl.look [] m.duo.retry region).find? fun e => decide (e.2 ≤ m.up) && openNow m region (admitted m (fhOf c m e.1)) with
  | none => m
  | some (key, t) =>
    let m := { m with duo := { m.duo with retry := Tbl.upd [] m.duo.retry region fun l => l.erase (key, t) } }
    withRecord c m key fun m _ _ r =>
      match (recPartner c m r).filter (mirrors m) with
      | some p =>
        if r.unmirrored then
          (duoSend m p { type := 2, flags := b2n r.wide * 128, body := recBody m r } none).getD
            (addRetry c (bump c m .duoCnt cDuoWindowFull) region key)
        else m
      | none => m

/-! ### Sending frames (R287, R290) -/

/-- As many messages as a frame holds: 64, and 1,518 bytes with header and FCS. -/
def fitMsgs : List Msg → Nat → Nat → List Msg
  | [], _, _ => []
  | g :: gs, n, room => if n = 0 || room < g.bytes.length then [] else g :: fitMsgs gs (n - 1) (room - g.bytes.length)

/-- The messages that wait for a path: unsequenced ones, then, once a version is chosen and the link mirrors, copies. -/
def waitingFor (c : Cfg) (m : Mach) (p path : Nat) : List Msg :=
  let x := m.link p
  Tbl.look [] x.wait path ++ (if streams m p && path = pathInUse c m p then (x.copies.filter (·.toSend)).map (·.msg) else [])

def duoMac (c : Cfg) : Nat := c.get duoMacHiMacHi * 2 ^ 32 + c.get duoMacLoMacLo
def partnerMac (c : Cfg) (p : Nat) : Nat := c.get duoPartnerMacHiMacHi p * 2 ^ 32 + c.get duoPartnerMacLoMacLo p

def syncFrame (c : Cfg) (p ver : Nat) (ms : List Msg) : List Byte :=
  beBytes 6 (partnerMac c p) ++ beBytes 6 (duoMac c) ++ [0x88, 0xB5] ++ beBytes 1 (ver * 16) ++ beBytes 1 ms.length ++
    beBytes 3 (deviceId c) ++ beBytes 3 (partnerDev c p) ++ ms.flatMap Msg.bytes

/-- The messages of a sent frame no longer wait. -/
def Link.sentMsgs (x : Link) (path now : Nat) (ms : List Msg) : Link :=
  { x with
    wait := Tbl.upd [] x.wait path fun l => l.drop (ms.filter fun g => g.type = 1 || g.type = 5).length
    copies := x.copies.map fun e =>
      if e.toSend && ms.contains e.msg then { e with toSend := false, sent := some now, first := some (e.first.getD now) } else e }

/-- A sync frame is stored by the ingress port block of its port's pipeline and admitted to the sync queue (R280, R290). Where no cell
is free or the queue refuses, the messages go on waiting. -/
def syncFrameTx (c : Cfg) (m : Mach) (p path : Nat) : Mach :=
  let x := m.link p
  let ms := fitMsgs (waitingFor c m p path) 64 (1518 - 26)
  if x.state = 0 || ms = [] || !m.glb.outputs || !(syncPaths c p).contains path then m
  else
    let f := withFcs (syncFrame c p (max 1 x.ver) ms)
    let pipe := pathPort c p path / 8
    let q := pathSync c p path
    match storeIngress c m pipe (ownIngress pipe) f with
    | none => m
    | some (h, m') =>
      let fd : FrameD := { head := h, len := f.length, enq := m.todNs % 2 ^ 32, inLport := pathPort c p path, turn := m.glb.active, res := { raw := true } }
      match enqueue c m' q fd with
      | none => m
      | some m' =>
        let m' := oweSlots m' pipe (syncSlots f.length)
        let m' := chargeIng (handOver c m' (ownIngress pipe) h (ownDequeue (queuePort c q)) 0) pipe (-(cellsFor f.length : Int))
        bump c (m'.setLink p (x.sentMsgs path m.up ms)) .duoCnt cDuoTxMsg (x := ms.length)

/-! ### Parks (R295) -/

def Mach.parkOf (m : Mach) (die : Nat) : List Parked := Tbl.look [] m.duo.park die

/-- A flow has parked packets on either die. -/
def Mach.parkedFh (m : Mach) (fh : Nat) : Bool := (m.parkOf 0 ++ m.parkOf 1).any (·.fh == fh)

/-- The strict update of a flow is still unacknowledged. -/
def strictOpen (m : Mach) (fh : Nat) : Bool := (List.range 8).any fun p => (m.link p).copies.any fun e => e.strict == some fh

def parkAdd (m : Mach) (die : Nat) (e : Parked) : Mach := { m with duo := { m.duo with park := Tbl.upd [] m.duo.park die (· ++ [e]) } }

/-- A die admits its parked packets of a flow, in park order. -/
def parkOut (c : Cfg) (m : Mach) (die fh : Nat) : Mach :=
  let out := (m.parkOf die).filter (·.fh == fh)
  let m := { m with duo := { m.duo with park := Tbl.upd [] m.duo.park die fun l => l.filter (·.fh != fh) } }
  out.foldl (fun (m : Mach) e => handToQueues c m e.pkt e.fd e.targets) m

/-- A release is carried out on both dies in one clock, `PD_0` before `PD_1` (R295). -/
def parkRelease (c : Cfg) (m : Mach) : Mach :=
  match m.duo.release with
  | [] => m
  | fh :: rest => parkOut c (parkOut c { m with duo := { m.duo with release := rest } } 0 fh) 1 fh

/-! ### `PROMOTE` and the seal (R303, R309) -/

/-- One entry passes to this device, with a new mirror and its partner index, or with none. DESIGN CHOICE: a mirror that is no enabled partner leaves
`MIRROR_P` as it is (notes/assumptions/138.md). -/
def promoteEntry (c : Cfg) (m : Mach) (mirror : Option (Nat × Option Nat)) (e : Nat) : Mach :=
  let x := putBits (m.entry e) 59 42 (deviceId c)
  let x := match mirror with
    | some (dev, p) => putBits (putBits (putBits x 62 62 1) 41 24 dev) 18 16 (p.getD (seMirrorP x))
    | none => putBits x 62 62 0
  let m := { m with duo := { m.duo with steer := Tbl.put 0 m.duo.steer e x } }
  let m := m.setEnt e 0 false
  let body := beBytes 2 e ++ beBytes 3 (deviceId c) ++ beBytes 3 (seMirror x) ++ beBytes 1 (b2n (seMEn x) * 128) ++ List.replicate 7 0
  (List.range 8).foldl (fun (m : Mach) p => if (m.link p).ver = 2 && reachable m p then sendOr m p { type := 8, body := body } else m) m

/-- At the seal every partner link leaves `DISABLED` or stays there (R303). -/
def sealLinks (c : Cfg) (m : Mach) : Mach :=
  if !duoOn c then m else (List.range 8).foldl (fun (m : Mach) p => if partnerEn c p then enterLink c m p 1 0 else m) m

end Sys2Proof.Machine
end

