-- ==== Sys2Proof/Machine/Macsec.lean ====
section
/-! DEFINITION. MACsec on the I/O dies (R352-R367): protection, verification, keys and packet numbers, the bulk rekey. What the spec
takes from IEEE 802.1AE-2018 by name (the SecTAG, the initialisation vectors, clause 10.6) is PRESUMED (notes/assumptions/32.md). -/
namespace Sys2Proof.Machine

/-- A die SA's device-wide index (R356). -/
def saIdx (die e : Nat) : Nat := 4096 * die + e

/-- An SA is usable (R357). -/
def saUsable (c : Cfg) (m : Mach) (die e : Nat) : Bool := c.on mscSaCtrlInUse die e && m.msc.ready.contains (saIdx die e)

def setReady (m : Mach) (die e : Nat) (v : Bool) : Mach :=
  let l := m.msc.ready.filter (· != saIdx die e)
  { m with msc := { m.msc with ready := if v then saIdx die e :: l else l } }

/-- `IN_USE` turns to 1 (R361): an SA that failed is installed again (R367), and one installed while a bulk rekey runs is prepared on its own
(R365). -/
def saInstalled (m : Mach) (die e : Nat) : Mach :=
  { m with msc := { m.msc with
      failed := m.msc.failed.filter (· != saIdx die e)
      late := if m.holdsLeave opRekey die then saIdx die e :: m.msc.late else m.msc.late } }

/-- The key memory of an SA fails: it is not usable until software installs it again (R367). -/
def saFail (m : Mach) (die e : Nat) : Mach :=
  let m := setReady m die e false
  { m with msc := { m.msc with failed := saIdx die e :: m.msc.failed } }

/-- An SA whose key the die may prepare. -/
def saWaits (c : Cfg) (m : Mach) (die e : Nat) : Bool := c.on mscSaCtrlInUse die e && !m.msc.failed.contains (saIdx die e)

def isXpn (cipher : Nat) : Bool := 2 ≤ cipher

/-- The next PN of an SA; `_HI` is 0 for non-XPN suites (R366). -/
def saPn (m : Mach) (die e cipher : Nat) : Nat := (if isXpn cipher then m.st mscSaPnHiPn die e * 2 ^ 32 else 0) + m.st mscSaPnLoPn die e
def setPn (m : Mach) (die e cipher pn : Nat) : Mach :=
  (m.setSt mscSaPnLoPn (pn % 2 ^ 32) die e).setSt mscSaPnHiPn (if isXpn cipher then pn / 2 ^ 32 % 2 ^ 32 else 0) die e

/-- The cipher suite of an SA: that of the SecY whose SC names its group. -/
def saCipher (c : Cfg) (die e : Nat) : Option Nat :=
  ((lowest? 64 fun n => c.on mscSecyCfgEn die n && c.get mscSecyTxSaGroup die n == e / 4).or
    ((lowest? 1024 fun x => c.on mscRxscCfgEn die x && c.get mscRxscCfgSaGroup die x == e / 4).map fun x => c.get mscRxscCfgSecy die x)).map
    fun n => c.get mscSecyCfgCipher die n

def pnLimit (cipher : Nat) : Nat := if isXpn cipher then 2 ^ 64 - 1 else 2 ^ 32 - 1

/-- Key and salt bytes of an SA (R362). -/
def saKey (c : Cfg) (die e cipher : Nat) : List Byte :=
  (List.range (if cipher % 2 = 0 then 4 else 8)).flatMap fun j => beBytes 4 (c.get mscSaKeyKey die e j)
def saSalt (c : Cfg) (die e : Nat) : List Byte := (List.range 3).flatMap fun j => beBytes 4 (c.get mscSaSaltSalt die e j)

/-- The initialisation vector of a frame. -/
def gcmIv (c : Cfg) (die e cipher sci pn : Nat) : List Byte :=
  if isXpn cipher then xorBytes (beBytes 4 (c.get mscSaSsciSsci die e) ++ beBytes 8 pn) (saSalt c die e)
  else beBytes 8 sci ++ beBytes 4 pn

def confOffset (n : Nat) : Nat := [0, 30, 50].getD n 0

/-- Where a counter of an object stands in the statistics: object 0 SecY, 1 transmit SC, 2 receive SC, 3 SA. -/
def mscKey (die obj idx n : Nat) : Nat := ((die * 4 + obj) * 4096 + idx) * 16 + n

/-- Counts in the statistics. -/
def mscStat (m : Mach) (die obj idx n x : Nat) : Mach :=
  { m with msc := { m.msc with stats := Tbl.upd 0 m.msc.stats (mscKey die obj idx n) fun v => (v + x) % 2 ^ 64 } }

/-- Counts a frame at its SC and at its SA, which has the SC's counters (notes/assumptions/32.md). -/
def scStat (m : Mach) (die obj sc e n : Nat) : Mach := mscStat (mscStat m die obj sc n 1) die 3 e n 1

/-- How many counters clause 10.7 gives an object. -/
def mscStatLen (obj : Nat) : Nat := [12, 2, 6].getD obj 0

/-- The EtherType at an offset, or behind the tags that stand there. -/
def typeAt (f : List Byte) : Nat → Nat → Nat
  | 0, off => be f off 2
  | n + 1, off => if be f off 2 = 0x8100 || be f off 2 = 0x88A8 then typeAt f n (off + 4) else be f off 2

/-- The EtherType after the source MAC and any tags. -/
def innerType (f : List Byte) : Nat := typeAt f f.length 12

def txSci (c : Cfg) (die n : Nat) : Nat := c.get mscSecySciHiSci die n * 2 ^ 32 + c.get mscSecySciLoSci die n

/-- The warning point of a transmit SA's packet numbers (R363). -/
def pnNear (c : Cfg) (m : Mach) (die e cipher next : Nat) : Mach :=
  let w := m.st mscPnNearNear die (e / 32)
  if (next = 0 || ceilDiv (pnLimit cipher * c.get mscCtrlPnThresh die) 16 ≤ next) && !bit w (e % 32) then
    raise c (m.setSt mscPnNearNear (w + 2 ^ (e % 32)) die (e / 32)) 30 die NOTE e
  else m

/-- A frame without FCS as it leaves on a port (R360): `none` where it is discarded. A next PN of 0 says that the numbers are used
up (R363). -/
def mscTx (c : Cfg) (m : Mach) (l : Nat) (f : List Byte) : Option (List Byte) × Mach :=
  if !secyOn c l then (some f, m)
  else
    let die := ioDie l
    let n := secyOf l
    if innerType f = 0x888E then (some f, m)
    else if !c.on mscSecyCfgProtect die n then (some f, mscStat m die 0 n 8 1)
    else
      let an := m.st mscSecyTxTxAn die n
      let e := 4 * c.get mscSecyTxSaGroup die n + an
      let cipher := c.get mscSecyCfgCipher die n
      if !saUsable c m die e then (none, bump c m .mscCnt die cMscTxNoSa)
      else
        let pn := saPn m die e cipher
        if pn = 0 || pnLimit cipher < pn then (none, bump c m .mscCnt die cMscTxPnExhausted)
        else
          let next := if pn = pnLimit cipher then 0 else pn + 1
          let m := pnNear c (setPn m die e cipher next) die e cipher next
          let conf := c.on mscSecyCfgConf die n
          let sc := c.on mscSecyCfgIncludeSci die n
          let data := f.drop 12
          let off := if conf then min data.length (confOffset (c.get mscSecyCfgConfOffset die n)) else data.length
          let tci := b2n (c.on mscSecyCfgEs die n) * 64 + b2n sc * 32 + b2n (c.on mscSecyCfgScb die n) * 16 + b2n conf * 12 + an
          let tag := [0x88, 0xE5] ++ beBytes 1 tci ++ beBytes 1 (if data.length < 48 then data.length else 0) ++ beBytes 4 (pn % 2 ^ 32) ++
            (if sc then beBytes 8 (txSci c die n) else [])
          let aad := f.take 12 ++ tag ++ data.take off
          let (ct, icv) := Config.gcmSeal (saKey c die e cipher) (gcmIv c die e cipher (txSci c die n) pn) aad (data.drop off)
          let m := mscStat (scStat m die 1 n e (if conf then 1 else 0)) die 0 n (if conf then 11 else 10) data.length
          (some (f.take 12 ++ tag ++ data.take off ++ padTo (data.length - off) ct ++ padTo 16 icv), m)
where
  padTo (n : Nat) (b : List Byte) : List Byte := (b ++ List.replicate n 0).take n

/-- How a received frame is delivered (R359). -/
inductive RxAns
  | controlled (f : List Byte)
  | uncontrolled (f : List Byte)
  | discard
deriving DecidableEq, Repr

/-- The receive SC of a SecY with an SCI. -/
def rxScOf (c : Cfg) (die n sci : Nat) : Option Nat :=
  lowest? 1024 fun x => c.on mscRxscCfgEn die x && c.get mscRxscCfgSecy die x == n &&
    c.get mscRxscSciHiSci die x * 2 ^ 32 + c.get mscRxscSciLoSci die x == sci

/-- The full packet number of an XPN frame, from its low half and the next one expected. -/
def xpnRecover (next low : Nat) : Nat :=
  let hi := next / 2 ^ 32
  if bit next 31 && !bit low 31 then (hi + 1) * 2 ^ 32 + low else hi * 2 ^ 32 + low

/-- Verification of a received frame without FCS (R357, R359). -/
def mscRx (c : Cfg) (m : Mach) (l : Nat) (f : List Byte) : RxAns × Mach :=
  if !secyOn c l then (.controlled f, m)
  else
    let die := ioDie l
    let n := secyOf l
    let strict := c.get mscSecyCfgValidate die n = 2
    if be f 12 2 ≠ 0x88E5 then
      if be f 12 2 = 0x888E then (.uncontrolled f, m)
      else if strict then (.uncontrolled f, mscStat m die 0 n 1 1)
      else (.controlled f, mscStat m die 0 n 0 1)
    else
      let tci := byteAt f 14
      let sc := bit tci 5
      let enc := bit tci 3
      let conf := bit tci 2
      let an := tci % 4
      let hdr := if sc then 28 else 20
      let sl := byteAt f 15
      let cipher := c.get mscSecyCfgCipher die n
      let low := be f 16 4
      let badTag := bit tci 7 || (sc && (bit tci 6 || bit tci 4)) || (enc && !conf) || f.length < hdr + 16 || 48 ≤ sl ||
        (sl = 0 && f.length < hdr + 48 + 16) || (0 < sl && f.length < hdr + sl + 16) || (low = 0 && !isXpn cipher)
      if badTag then (.discard, mscStat m die 0 n 2 1)
      else
        -- what follows the ICV of a short frame is padding
        let f := if 0 < sl then f.take (hdr + sl + 16) else f
        let body := slice f hdr (f.length - hdr - 16)
        let bare := f.take 12 ++ body
        let sci := if sc then be f 20 8 else be f 6 6 * 65536 + 1
        match rxScOf c die n sci with
        | none => if strict || conf then (.discard, mscStat m die 0 n 4 1) else (.controlled bare, mscStat m die 0 n 3 1)
        | some x =>
          let e := 4 * c.get mscRxscCfgSaGroup die x + an
          if !saUsable c m die e then
            if strict || conf then (.discard, mscStat m die 0 n 4 1) else (.controlled bare, mscStat m die 0 n 3 1)
          else
            let next := if saPn m die e cipher = 0 then pnLimit cipher + 1 else saPn m die e cipher
            let pn := if isXpn cipher then xpnRecover next low else low
            let replay := c.on mscSecyCfgReplayProtect die n
            let floor := next - c.get mscSecyWinReplayWindow die n
            if replay && pn < floor then (.discard, scStat m die 2 x e 2)
            else
              let off := if conf then min body.length (confOffset (c.get mscSecyCfgConfOffset die n)) else body.length
              let aad := f.take hdr ++ body.take off
              let open' := Config.gcmOpen (saKey c die e cipher) (gcmIv c die e cipher sci pn) aad (body.drop off) (f.drop (f.length - 16))
              let seen (m : Mach) : Mach := if next ≤ pn then setPn m die e cipher (pn + 1) else m
              if c.get mscSecyCfgValidate die n = 0 then
                match open' with
                | some p => (.controlled (f.take 12 ++ body.take off ++ p), seen (scStat m die 2 x e 0))
                | none => if conf then (.discard, scStat m die 2 x e 4) else (.controlled bare, seen (scStat m die 2 x e 0))
              else match open' with
                | some p =>
                  let m := mscStat m die 0 n (if conf then 7 else 6) body.length
                  let m := scStat m die 2 x e (if pn < floor then 1 else 5)
                  (.controlled (f.take 12 ++ body.take off ++ p), seen m)
                | none => if strict || conf then (.discard, scStat m die 2 x e 4) else (.controlled bare, seen (scStat m die 2 x e 3))

/-- An SA's key schedule is ready (R361): within 1 µs of `IN_USE`; not that of a failed one (R367). -/
def saReady (c : Cfg) (m : Mach) (die e : Nat) : Mach := if saWaits c m die e then setReady m die e true else m

/-- A bulk rekey asks for leave (R365); a `GO` while one waits or runs is ignored. -/
def bulkGo (c : Cfg) (m : Mach) (die : Nat) : Mach :=
  if m.holdsLeave opRekey die || m.waitsLeave opRekey die then m else (askLeave c m opRekey die).2

/-- The die has prepared the SAs in use when the run began, and armed SecYs switch (R365). -/
def bulkDone (c : Cfg) (m : Mach) (die : Nat) : Mach :=
  if !m.holdsLeave opRekey die then m
  else
    let m := (List.range 4096).foldl (fun (m : Mach) e =>
      if saWaits c m die e && !m.msc.late.contains (saIdx die e) then setReady m die e true else m) m
    let m := { m with msc := { m.msc with late := m.msc.late.filter (· / 4096 != die) } }
    let m := (List.range 64).foldl (fun (m : Mach) n =>
      let an := c.get mscSecyTxNextAn die n
      if m.stOn mscSecyTxArmed die n && saUsable c m die (4 * c.get mscSecyTxSaGroup die n + an) then
        (m.setSt mscSecyTxTxAn an die n).setSt mscSecyTxArmed 0 die n
      else m) m
    releaseLeave c m opRekey die

end Sys2Proof.Machine
end

