-- ==== Sys2Proof/Machine/Ingress.lean ====
section
/-! DEFINITION. A packet's way through its pipeline: arrival, the slot arbiter, parse to key, the hold queue, the action engine and
what follows it, up to enqueue (R46-R71, R153, R213, R233, R279-R285, R295). -/
namespace Sys2Proof.Machine

/-! ### Ports -/

/-- A port group is held by a fault (R28, R400). -/
def pgHeld (m : Mach) (g : Nat) : Bool := (groupsHeld m).getLsbD g

/-- The PCS and MAC of an Ethernet port run (R372, R380, R468). -/
def macOn (c : Cfg) (m : Mach) (l : Nat) : Bool :=
  decide (l % 8 < 6) && c.on prtPortCfgEn (l / 8) (l % 8) && m.glb.outputs && !pgHeld m (l / 8)

/-- The pipeline runs (R75, R372, R401): with `DRAIN` set, or isolated (R400), it still finishes the packets in flight. -/
def pplRuns (c : Cfg) (m : Mach) (pipe : Nat) : Bool := c.on pplCtrlEnable pipe && m.glb.outputs

/-- Header admission is open (R372, R400, R401, R75). -/
def pplOpen (c : Cfg) (m : Mach) (pipe : Nat) : Bool := pplRuns c m pipe && !m.stOn pplCtrlDrain pipe && !m.flt.pplIso.getLsbD pipe

/-- A time adjusted by a signed number of sixteenths of a ns. -/
def adjusted (t adj : Nat) : Nat := ((t : Int) + toSigned 16 adj * 4096).toNat

/-! ### Arrival (R48, R49, R279, R285, R359) -/

/-- A frame's bytes without FCS are stored and its header made ready. On a cut-through port `ct` says whether its FCS is good, and whether its
tail is in: before that only the head has a cell. The timestamp is the end of the start delimiter, `wire` bytes before now on the line (R241,
notes/assumptions/112.md). -/
def storeArrival (c : Cfg) (m : Mach) (l : Nat) (b : List Byte) (uncontrolled : Bool) (steered : Option Nat) (ct : Option (Bool × Bool)) (wire : Nat) : Mach :=
  let pipe := l / 8
  let whole := b ++ fcsOf b
  let now := if ct.all (·.2) then whole else whole.take 256
  match storeIngress c m pipe (ownIngress pipe) now with
  | none => noCell c (ingressFail c m pipe (ownIngress pipe) now) pipe
  | some (p, m) =>
    let k : Pkt := { pipe := pipe, lport := l, len := b.length, head := p, owner := ownIngress pipe,
                     ts := adjusted (m.dieFrac (Blk.prt.die (l / 8)) - wire * 8 * 65536 / portSpeed c l) (c.get prtPtpAdjIngAdj pipe (l % 8)), uncontrolled := uncontrolled, steered := steered, ct := ct.isSome }
    let m := match ct with
      | some x => { m with ppl := { m.ppl with ct := Tbl.ins m.ppl.ct p { head := p, rest := whole.drop now.length, fcsOk := x.1, bad := if x.2 then some !x.1 else none, pkt := k } } }
      | none => m
    makeReady m k

/-- A `0x88B6` frame on a sync port (R285): its two outer headers go. -/
def steeredFrameRx (c : Cfg) (m : Mach) (l : Nat) (b : List Byte) (uncontrolled : Bool) (ct : Option (Bool × Bool)) (wire : Nat) : Mach :=
  let h := b.drop 14
  if byteAt h 0 / 16 ≠ 1 || bits (be h 5 3) 17 0 ≠ deviceId c then rxBad c m
  else storeArrival c (bump c m .duoCnt cDuoSteerIn) l (b.drop 30) uncontrolled (some (be h 8 8)) ct wire

/-- The port is a path of a partner while Duilo runs. -/
def syncPort (c : Cfg) (l : Nat) : Bool := duoOn c && (pathOf c l).isSome

/-- A frame that the ingress port block hands to the Duilo engine (R279). -/
def toEngine (c : Cfg) (l : Nat) (b : List Byte) : Bool := duoOn c && be b 12 2 = 0x88B5 && ((pathOf c l).isSome || pathDisabled c l)

/-- A frame after MACsec, without its FCS. One that is marked uncontrolled goes into its pipeline as such (R359). -/
def frameTake (c : Cfg) (m : Mach) (l : Nat) (b : List Byte) (uncontrolled : Bool) (ct : Option (Bool × Bool)) (wire : Nat) : Mach :=
  if !uncontrolled && toEngine c l b then syncFrameRx c m l b
  else if syncPort c l && be b 12 2 = 0x88B6 then steeredFrameRx c m l b uncontrolled ct wire
  else storeArrival c m l b uncontrolled none ct wire

/-- A frame that failed its FCS or ended in an error: written into cells like any other, where it finds room, and then freed, counted under `FCS_ERROR`
(R48). -/
def badArrival (c : Cfg) (m : Mach) (l : Nat) (b : List Byte) : Mach :=
  let pipe := l / 8
  let b := b ++ [0, 0, 0, 0]
  match storeIngress c m pipe (ownIngress pipe) b with
  | none => noCell c (ingressFail c m pipe (ownIngress pipe) b) pipe
  | some (p, m) =>
    countReason c (chargeIng (freeFrame c m (pipe / 16) (ownIngress pipe) (cellAddr p)) pipe (-(cellsFor b.length : Int))) pipe 0x3B

/-- A frame without FCS after MACsec verification comes to the MAC and the ingress port block (R29 steps 3 and 4): a SecY's frame that is longer
than 9,216 bytes after verification is counted apart (R353); any other frame of a wrong length, that ended in an error, or whose FCS fails is
dropped under `FCS_ERROR` (R48). -/
def verifiedTake (c : Cfg) (m : Mach) (l : Nat) (b : List Byte) (uncontrolled bad : Bool) (wire : Nat) : Mach :=
  let long := decide (9216 < b.length + 4)
  if secyOn c l && long then bump c m .mscCnt (ioDie l) cMscRxTooLong
  else if long || bad && !uncontrolled && toEngine c l b then countReason c m (l / 8) 0x3B
  else if bad then badArrival c m l b
  else frameTake c m l b uncontrolled none wire

/-- A frame reaches a port with its FCS: MACsec verification, then the MAC, then the FCS check (R29). `err` says that its reception ended in a PCS
error, `more` that a cut-through port presents its head before its tail is in. A cut-through port presents every head before the FCS check (R49,
notes/assumptions/33.md). -/
def frameArrival (c : Cfg) (m : Mach) (l : Nat) (f : List Byte) (err more : Bool) : Mach :=
  if !macOn c m l then m
  else
    let pipe := l / 8
    let b := f.take (f.length - 4)
    let bad := err || decide (f.length < 4) || f.drop (f.length - 4) != fcsOf b
    let ctOn := c.on pplPortCfgCtEn pipe (l % 8) && !secyOn c l && decide (4 ≤ f.length) && !toEngine c l b
    let open' := more && decide (256 < f.length)
    if ctOn then frameTake c m l b false (some (!(bad || decide (9216 < f.length)), !open')) (if open' then 256 else f.length)
    else match mscRx c m l b with
      | (.discard, m) => m
      | (.controlled b, m) => verifiedTake c m l b false bad f.length
      | (.uncontrolled b, m) => verifiedTake c m l b true bad f.length

/-! ### Forwarding a packet to its queues -/

/-- Its flow's parked packets, or its own strict update, hold a packet back (R295). -/
def mustPark (c : Cfg) (m : Mach) (k : Pkt) (strict : Bool) : Bool :=
  duoOn c && k.key.isSome && (m.parkedFh k.fh || (strict && strictOpen m k.fh))

/-- A packet comes to enqueue: parked, or handed to its queues. -/
def parkOrQueue (c : Cfg) (m : Mach) (k : Pkt) (fd : FrameD) (targets : List (Nat × EditRes)) (strict : Bool) : Mach :=
  let die := k.pipe / 16
  if !mustPark c m k strict then handToQueues c m k fd targets
  else if (m.parkOf die).length < 4096 then
    parkAdd (if m.parkedFh k.fh then m else bump c m .duoCnt cDuoStrictParked) die ⟨k.fh, k, fd, targets⟩
  else
    let m := bump c m .duoCnt cDuoParkFull
    if m.parkedFh k.fh then dropPkt c (targets.foldl (fun m t => tsDropped c m t.1 { fd with res := t.2 }) m) k else handToQueues c (markKey c m (k.key.getD [])) k fd targets

/-- A cut-through frame may leave before its tail (R213). -/
def ctEligible (c : Cfg) (m : Mach) (k : Pkt) (targets : List (Nat × EditRes)) : Bool :=
  match targets with
  | [(q, _)] =>
    let l := queuePort c q
    c.on tmgQcfgAExpress (q / 65536) (q % 65536) && (m.queue q).head = [] && (m.queue q).staging = [] && (m.queue q).entries = [] &&
      decide (portSpeed c l ≤ portSpeed c k.lport) && !secyOn c l && !secyOn c k.lport
  | _ => false

/-- The enqueue stage (R49, R213, R295). -/
def toEnqueue (c : Cfg) (m : Mach) (k : Pkt) (fd : FrameD) (targets : List (Nat × EditRes)) (strict : Bool) : Mach :=
  let fd := { fd with trace := traceTime k.trace 3 m.up }
  if !k.ct then parkOrQueue c m k fd targets strict
  else if ctOpen m k then
    let x := (m.ctOf k).getD { head := k.head }
    if ctEligible c m k targets && !mustPark c m k strict then
      let m := bump c m .tmgCnt (k.pipe / 16) cTmgCtFrames
      handToQueues c { m with ppl := { m.ppl with ct := Tbl.ins m.ppl.ct k.head { x with place := .out, pkt := k } } } k { fd with ct := true } targets
    else ctWait m { x with pkt := k, targets := targets, fd := { fd with ct := false }, strict := strict }
  else if ctBad m k then fcsDrop c m k
  else
    let (k, m) := ctLeave m k
    parkOrQueue c m k { fd with ct := false } targets strict

/-- A packet recirculates: its frame, with the program's edits, waits in the recirculation queue (R71). -/
def enterRecirc (c : Cfg) (m : Mach) (k : Pkt) : Mach :=
  let q := Tbl.look [] m.ppl.recirc k.pipe
  if 256 ≤ q.length then endWith c m k 0x3F (reasonDisp c k.pipe 0x3F)
  else if ctOpen m k then ctWait m { (m.ctOf k).getD { head := k.head } with pkt := k, recirc := true }
  else if ctBad m k then fcsDrop c m k
  else
    let (k, m) := ctLeave m k
    let m := handOver c (traceEnd c m k.trace 3 0) k.owner k.head (ownRecirc k.pipe) 0
    let k := { k with lport := 8 * k.pipe + 7, pass := true, owner := ownRecirc k.pipe, hdrs := {}, cls := {}, key := none, dir := false,
                      uncontrolled := false, traced := byteAt k.trace 64 = 1, trace := [] }
    { m with ppl := { m.ppl with recirc := Tbl.upd [] m.ppl.recirc k.pipe (· ++ [k]) } }

/-- The frame of a packet is replaced by its edited bytes, in cells of its own owner under its ingress account (R199). Where they find no room the
frame is gone: counted under `NO_CELL` (R193). -/
def rewriteFrame (c : Cfg) (m : Mach) (k : Pkt) (b : List Byte) : Option Pkt × Mach :=
  let die := k.pipe / 16
  let n := k.cells m
  let m₁ := chargeIng (freeFrame c m die k.owner (cellAddr k.head)) k.pipe (-(n : Int))
  match storeIngress c m₁ k.pipe k.owner (b ++ fcsOf b) with
  | none =>
    let m₀ := ingressFail c m₁ k.pipe k.owner (b ++ fcsOf b)
    let m₁ := noCell c m₀ k.pipe
    let m₁ := traceEnd c m₁ (traceReasons c m₀ m₁ k).trace 1 0x3C
    (none, match m.ctOf k with
      | some x => { m₁ with ppl := { m₁.ppl with ct := ctMissing m₁.ppl.ct k x } }
      | none => m₁)
  | some (p, m₁) =>
    (some { k with head := p, len := b.length }, match m.ctOf k with
      | some x => { m₁ with ppl := { m₁.ppl with ct := Tbl.ins (Tbl.del m₁.ppl.ct k.head) p { x with head := p, rest := [] } } }
      | none => m₁)

/-- The frame that a cut-through entry stands for is still held where it left the pipeline. -/
def ctHeld (m : Mach) (key : Nat) : Bool :=
  let is (fd : FrameD) : Bool := fd.head == key && fd.ct
  m.tmg.queues.any (fun e => (e.2.head ++ e.2.staging).any is) || m.tmg.tx.any (fun e => is e.2.fd) || m.tmg.xfer.any fun x => is { x.fd with head := x.head }

/-- The rest of a cut-through frame comes into cells (R193, R213, R214): under its ingress account until it is handed over, and by the transfer unit of the
other die where it crosses cell by cell. Where it finds no cell, it stands as such. -/
def ctTail (c : Cfg) (m : Mach) (key : Nat) (x : CtFrame) : CtFrame × Mach :=
  let pipe := x.pkt.pipe
  let n := cellsFor x.rest.length
  let out := x.place = .out
  if x.rest = [] || x.place = .gone || (out && !ctHeld m key) then ({ x with rest := [] }, m)
  else if !out && decide (c.get tmgIngLimitIngLimit (pipe / 16) (pipe % 16) < Tbl.look 0 m.tmg.ing pipe + n) then ({ x with rest := [], noRoom := true }, m)
  else
    let req := if dieOf key = pipe / 16 then ownIngress pipe else ownXfer (dieOf key)
    match appendCells c m req key x.rest with
    | some m => ({ x with rest := [] }, if out then m else chargeIng m pipe n)
    | none => ({ x with rest := [], noRoom := true }, allocFail c m (dieOf key) req n)

/-- A cut-through frame's tail arrives on a port (R49, R213, R214). -/
def tailArrival (c : Cfg) (m : Mach) (l : Nat) (err : Bool) : Mach :=
  match m.ppl.ct.find? fun e => e.2.pkt.pipe == l / 8 && e.2.bad.isNone && (e.1 == ctGone l || e.2.pkt.lport == l) with
  | none => m
  | some (key, x) =>
    let (x, m) := ctTail c m key x
    let bad := err || !x.fcsOk || x.noRoom
    match x.place with
    | .gone => { m with ppl := { m.ppl with ct := Tbl.del m.ppl.ct key } }
    | .pipe => { m with ppl := { m.ppl with ct := Tbl.ins m.ppl.ct key { x with bad := some bad } } }
    | .wait =>
      let m := { m with ppl := { m.ppl with ct := Tbl.ins m.ppl.ct key { x with bad := some bad } } }
      if bad then fcsDrop c m x.pkt
      else match x.punt with
        | some code => let (k, m) := ctLeave m x.pkt; puntPkt c m k code
        | none => if x.recirc then enterRecirc c m x.pkt else toEnqueue c m x.pkt x.fd x.targets x.strict
    | .out =>
      let m := if bad then countReason c m (l / 8) 0x3B else m
      let m := { m with ppl := { m.ppl with ct := Tbl.del m.ppl.ct key } }
      let mark (fd : FrameD) : FrameD := if fd.head = key && fd.ct then { fd with ct := false, stomp := bad } else fd
      { m with tmg := { m.tmg with
          queues := m.tmg.queues.map fun e => (e.1, { e.2 with head := e.2.head.map mark, staging := e.2.staging.map mark })
          tx := m.tmg.tx.map fun e => (e.1, { e.2 with fd := mark e.2.fd })
          xfer := m.tmg.xfer.map fun x => if x.head = key then { x with fd := mark x.fd } else x } }

/-! ### The action engine and the stages behind it -/

/-- The level whose flow key the packet has. -/
def Pkt.level (k : Pkt) : Nat := k.hdrs.levelOf k.cls.keyLevel

/-- Forwarding has decided: the map, the policer, the queue (R182, R183, R233). A flooded frame is counted once (R168). -/
def finishForward (c : Cfg) (m : Mach) (e : ActIn) (w : Work) (res : EditRes) (fwd : FwdTo) (strict : Bool) : Mach :=
  let k := e.k
  let die := k.pipe / 16
  let sub := (Tbl.find w.fld 0x13).map (m.mapAt die)
  let m := m.met (srcOf 10 (4 * die + 3)) 1 (Tbl.find w.fld 0x13).toList
  let raw := w.copies.filter fun x => !x.2
  let copies (m : Mach) : Mach := raw.foldl (fun m x => copyAlone c m k e.f x.1) m
  if (sub.map fun x => !bit x 31).getD false then endWith c (copies m) k 0x2A (reasonDisp c k.pipe 0x2A)
  else
    let pol := (sub.map fun x => x % 65536).getD 0xFFFF
    let tc := w.read e 0x02
    let one (l : Nat) (routed : Option Nat) (bd : Nat) : Nat × EditRes :=
      (chooseQueueFor c m k w tc sub l, targetRes c m e res l routed bd)
    let targets := match fwd with
      | .port l bd => [one l none bd]
      | .routed l nh => [one l (some nh) 0]
      | .flood bd => (floodPorts m bd k.lport).map fun l => (chooseQueueFor c m k { w with queue := none } tc none l, targetRes c m e res l none bd)
      | _ => []
    let pe := m.polEntry die pol
    let (col, m) := if pol = 0xFFFF then (w.colour, m) else meter m die pol (k.len + 4) w.colour true
    if pol ≠ 0xFFFF && col = 3 && polValid pe && polRedDrop pe then
      endWith c (targets.foldl (fun m t => tsDropped c m t.1 { res := t.2 }) (copies m)) k 0x33 (reasonDisp c k.pipe 0x33)
    else
      let extra := raw.map fun x => (x.1, ({ raw := true } : EditRes))
      let m := match fwd with
        | .flood _ => if targets = [] then m else bump c m .fwdCnt die cFwdFlood
        | _ => m
      let fd := { k.desc col (fwdLevel c m e) with trace := tracePut k.trace 12 3 ((targets.head?.map (·.1)).getD 0) }
      toEnqueue c m { k with trace := fd.trace } fd (targets ++ extra) strict

/-- A packet whose frame cannot be read is gone: its ingress account is relieved, its trace record ends, and its cells are left for the tally (R189,
notes/assumptions/109.md). -/
def lostPkt (c : Cfg) (m : Mach) (k : Pkt) : Mach := traceEnd c (chargeIng m k.pipe (-(k.cells m : Int))) k.trace 1 0

/-- A packet runs its program, or ends there (R65, R128, R132, R137, R153, R252). -/
def actionStage (c : Cfg) (m : Mach) (k : Pkt) (snap : Option Rec) (outcome stamp : Nat) (strict : Bool) : Mach :=
  match readPkt c m k with
  | (none, m) => lostPkt c m k
  | (some f, m) =>
  let e₀ : ActIn := { k := k, f := f, level := k.level, snap := snap, outcome := outcome }
  let k := { k with bd := some (ingressBd c m e₀ {}) }
  let e : ActIn := { e₀ with k := k }
  let prog := (snap.map (·.prog)).getD k.cls.prog
  let m₀ := m
  let (o, m) := runProgram c m e stamp
  let m := match o.wb with
    | some w =>
      oweSlots { m with fsl := { m.fsl with wbs := m.fsl.wbs ++ [w] } } k.pipe (wbSlots ((snap.map (·.wide)).getD false) w)
    | none => m
  let t := tracePut (tracePut (traceTime k.trace 2 m.up) 10 2 prog) 53 1 outcome
  let k := traceReasons c m₀ m { k with trace := traceSelect t (c.get pmuTracePplMode k.pipe = 2 && prog == c.get pmuTracePplN k.pipe % 4096) }
  let w := o.work
  let cut := w.copies.filter (·.2)
  let m := cut.foldl (fun m x => copyAlone c m k (f.take 256) x.1) m
  let alone (m : Mach) : Mach := (w.copies.filter fun x => !x.2).foldl (fun m x => copyAlone c m k f x.1) m
  match o.ended with
  | some .drop => dropPkt c (alone m) k
  | some (.reason code d) => endWith c (alone m) k code d
  | some .recirc =>
    if o.conflict then dropPkt c (bump c (alone m) .tmgEditConflict (k.pipe / 16)) k
    else
      let fd := { k.desc w.colour e.level with res := o.res }
      let b := editFrame c m k.lport fd f (final := false)
      match rewriteFrame c (alone m) k b with
      | (some k, m) => enterRecirc c m { k with bd := some (ingressBd c m e w), metaw := w.read e 0x01 }
      | (none, m) => m
  | none =>
    if o.conflict then dropPkt c (bump c (alone m) .tmgEditConflict (k.pipe / 16)) k
    else
      let m₁ := m
      let (fwd, m) := forward c m { e with k := k } w
      let k := traceReasons c m₁ m k
      match fwd with
      | .drop => dropPkt c (alone m) k
      | .reason code d => endWith c (alone m) k code d
      | _ => finishForward c m { e with k := k } w o.res fwd strict

/-- A packet whose request the slice answers `STEER` (R283). -/
def steerStage (c : Cfg) (m : Mach) (k : Pkt) (entry : Nat) (loop : Bool) : Mach :=
  if loop then endWith c m k 0x0B (reasonDisp c k.pipe 0x0B)
  else
    let t := Tbl.look 0 m.duo.target entry
    if !bit t 4 then dropPkt c (bump c m .duoCnt cDuoSteerNowhere) k
    else if 9216 < k.len + 4 + 30 then dropPkt c (bump c m .duoCnt cDuoSteerOversize) k
    else
      let q := pathSteer c (t / 2 % 8) (t % 2)
      let m := bump c m .duoCnt cDuoSteerOut
      let res : EditRes := { raw := true, grow := 30, steer := some (t % 16, k.fh) }
      let m := traceEnd c m k.trace 4 0
      let k := { k with trace := [] }
      toEnqueue c m k (k.desc 0 0) [(q, res)] false

/-- A packet whose flow is not resolved (R66, R67). -/
def unresolved (c : Cfg) (m : Mach) (k : Pkt) (code : Nat) : Mach :=
  let m₀ := m
  let m := countReason c m k.pipe code
  let k := traceReasons c m₀ m k
  if c.of m k.turn pplZprofOverloadPolicy k.pipe k.cls.zprof = 0 then dropPkt c (m.inc32 pplUnresDropCount k.pipe) k code
  else actionStage c (m.inc32 pplUnresDefaultCount k.pipe) k none 5 0 false

/-! ### The hold queue (R64-R68) -/

/-- Hold entries stand by 2,048 × pipeline + index. -/
def holdKey (pipe idx : Nat) : Nat := 2048 * pipe + idx

def holdsOf (m : Mach) (pipe : Nat) : List (Nat × Hold) := m.ppl.hold.filter fun e => e.1 / 2048 == pipe

/-- A flow request is issued, or the packet is unresolved for want of an entry. R66 does not say which free entry of the hold queue a request takes;
the model takes the lowest free one (DESIGN CHOICE, notes/assumptions/87.md). -/
def flowRequest (c : Cfg) (m : Mach) (k : Pkt) : Mach :=
  let used := holdsOf m k.pipe
  match lowest? 2048 fun i => (Tbl.find m.ppl.hold (holdKey k.pipe i)).isNone with
  | some i =>
    let n := used.length + 1
    let m := if m.st pplHoldStatHighWater k.pipe < n then m.setSt pplHoldStatHighWater n k.pipe else m
    let k := { k with trace := traceTime (tracePut k.trace 0 8 k.fh) 0 m.up }
    let q : FlowReq := { pipe := k.pipe, idx := i, gen := Tbl.look 0 m.ppl.gen (holdKey k.pipe i), insert := k.cls.insert, key := k.key.getD [],
                         fh := k.fh, prog := k.cls.prog, zprof := k.cls.zprof, turn := k.turn, len := k.len + 4, steered := k.steered }
    { m with ppl := { m.ppl with
        hold := Tbl.ins m.ppl.hold (holdKey k.pipe i) ⟨k, m.up, m.ppl.holdNo⟩, holdNo := m.ppl.holdNo + 1, reqs := m.ppl.reqs ++ [q] } }
  | none =>
    if used.any fun e => e.2.pkt.fh % 8192 == k.fh % 8192 then reasonDrop c m k 0x0A
    else unresolved c m k 0x0A

/-- The packet a response releases: none for an entry that is free, or that has a new generation (R67). -/
def respHold (m : Mach) (r : Resp) : Option Hold :=
  if r.gen = Tbl.look 0 m.ppl.gen (holdKey r.pipe r.idx) then Tbl.find m.ppl.hold (holdKey r.pipe r.idx) else none

/-- A held packet is the earliest of its flow in any pipeline's hold queue (R34). -/
def heldFirst (m : Mach) (h : Hold) : Bool :=
  !m.ppl.hold.any fun e => e.2.pkt.key == h.pkt.key && e.2.pkt.fh == h.pkt.fh && decide (e.2.no < h.no)

/-- A response can release its entry: none is held for an earlier packet of its flow (R34, R65). -/
def respFirst (m : Mach) (r : Resp) : Bool := (respHold m r).all (heldFirst m)

/-- A response releases its entry (R65, R68, R283), packets of one flow in the order of their arrival (R34). -/
def flowResponse (c : Cfg) (m : Mach) (pipe idx : Nat) : Mach :=
  match m.ppl.resps.find? fun r => r.pipe == pipe && r.idx == idx && respFirst m r with
  | none => m
  | some r =>
    let m := { m with ppl := { m.ppl with resps := m.ppl.resps.erase r } }
    let key := holdKey pipe idx
    match Tbl.find m.ppl.hold key with
    | none => m
    | some h =>
      if r.gen ≠ Tbl.look 0 m.ppl.gen key then m
      else
        let m := { m with ppl := { m.ppl with hold := Tbl.del m.ppl.hold key } }
        let k := { h.pkt with trace := tracePut (traceTime h.pkt.trace 1 m.up) 53 1 r.outcome }
        match r.outcome with
        | 3 => steerStage c m k r.steer r.loop
        | 2 =>
          match c.of m k.turn pplZprofInsertFailPolicy pipe k.cls.zprof with
          | 1 => endWith c m k 0x09 .punt
          | 2 => endWith c m k 0x09 .drop
          | _ => actionStage c m k none 2 0 false
        | o => actionStage c m k r.snap o r.stamp r.strict

/-- An entry's response is late (R67). Behind an earlier packet of its flow it waits for that one (R34, notes/assumptions/135.md). -/
def holdTimeout (c : Cfg) (m : Mach) (pipe idx : Nat) : Mach :=
  let key := holdKey pipe idx
  match Tbl.find m.ppl.hold key with
  | none => m
  | some h =>
    if m.up < h.since + 10 * c.get pplHoldCfgHoldTimeout pipe || !heldFirst m h then m
    else
      let m := { m with ppl := { m.ppl with hold := Tbl.del m.ppl.hold key, gen := Tbl.upd 0 m.ppl.gen key fun g => (g + 1) % 256 } }
      unresolved c m h.pkt 0x0D

/-! ### Parser to key builder (R53-R63) -/

/-- Reads that meet an entry in error (R395): parse states 0, transitions 1, comparators 2, rules 3, zone profiles 4. -/
def badRead (m : Mach) (pipe : Nat) (reads : List (Nat × Nat)) : Option (Nat × Nat) :=
  let src := srcOf (6 + pipe / 16) (pipe % 16)
  reads.find? fun e => m.bad src e.1 e.2

/-- A steered packet on its first pass that makes no flow request: counted, with its `STEER_LOOP` (R285). Where another reason ends it, that reason's
disposition holds (DESIGN CHOICE, log 108). -/
def steerLost (c : Cfg) (m : Mach) (k : Pkt) : Pkt × Mach :=
  if k.steered.isSome && !k.pass then raiseReason c (bump c m .duoCnt cDuoSteerBadfh) k 0x0B else (k, m)

/-- A packet ends under a reason before it could make a flow request. -/
def endEarly (c : Cfg) (m : Mach) (k : Pkt) (code : Nat) (d : Disp) : Mach :=
  let (k, m) := steerLost c m k
  endWith c m k code d

/-- A packet that read an entry in error is dropped and reports again (R395). An injected error is one read's, and has reported (R403). -/
def badDrop (c : Cfg) (m : Mach) (k : Pkt) (e : Nat × Nat) : Mach :=
  let src := srcOf (6 + k.pipe / 16) (k.pipe % 16)
  let (k, m) := steerLost c m k
  let again := m.flt.badEntries.contains (src + 1024 * e.1, e.2)
  let m := m.met src e.1 [e.2]
  dropPkt c (if again then raise c m (src / 16) (src % 16) DEGRADED e.2 else m) k

/-- The parse graph, settings and banks a packet's parse reads. -/
def parseEnv (c : Cfg) (m : Mach) (k : Pkt) : ParseEnv :=
  let t := m.tabs k.turn
  { states := fun st => Tbl.look 0 t.states st, trans := t.trans
    disp := reasonDisp c k.pipe, sync := syncPort c k.lport }

/-- A comparator in a packet's turn. -/
def rangeCfg (c : Cfg) (m : Mach) (k : Pkt) (n : Nat) : RangeCfg :=
  let g (x : Fld) : Nat := c.of m k.turn x k.pipe n
  { en := g pplRangeCfgEn = 1, inv := g pplRangeCfgInv = 1, level := g pplRangeCfgLevel, src := g pplRangeCfgSrc, lo := g pplRangeBoundsLo, hi := g pplRangeBoundsHi }

/-- The port default result in a packet's turn (R75). -/
def portDefault (c : Cfg) (m : Mach) (k : Pkt) : ClsResult :=
  let g (x : Fld) : Nat := c.of m k.turn x k.pipe (k.lport % 8)
  { zone := g pplPortDefHiZone, keyMode := g pplPortDefHiKeyMode, keyLevel := g pplPortDefHiKeyLevel,
    prog := g pplPortDefHiProg * 256 + g pplPortDefLoProg, zprof := g pplPortDefLoZprof, exc := g pplPortDefLoExc = 1,
    reason := g pplPortDefLoReason, tc := g pplPortDefLoTc, insert := g pplPortDefLoInsert = 1 }

/-- The flow key and what follows: a request, the action engine without one, or a reason (R61-R63, R285). -/
def keyStage (c : Cfg) (m : Mach) (k : Pkt) (f : List Byte) : Mach :=
  let lev := k.level
  let keyed := k.cls.keyMode ≠ 0 && (k.hdrs.l3 lev).isSome
  let lost (m : Mach) : Mach := endWith c (bump c m .duoCnt cDuoSteerBadfh) k 0x0B (reasonDisp c k.pipe 0x0B)
  if keyed && k.hdrs.frag = 1 then endEarly c m k 0x04 (reasonDisp c k.pipe 0x04)
  else if keyed && k.hdrs.frag = 2 then endEarly c m k 0x05 (reasonDisp c k.pipe 0x05)
  else match buildKey k.hdrs f k.cls (c.of m k.turn pplZprofSymmetric k.pipe k.cls.zprof = 1) with
    | none => if k.steered.isSome && !k.pass then lost m else actionStage c m k none 4 0 false
    | some (key, dir) =>
      let fh := fhOf c m key
      let k := { k with key := some key, dir := dir, fh := fh }
      if !k.pass && k.steered.isSome && k.steered ≠ some fh then lost m else flowRequest c m k

/-- A header enters the parser (R53-R60, R72). -/
def admitHeader (c : Cfg) (m : Mach) (k : Pkt) : Mach :=
  let pipe := k.pipe
  let p := k.lport % 8
  let k := { k with turn := if k.pass then k.turn else m.glb.active }
  let k := { k with metaw := if k.pass || p = 6 then k.metaw else c.of m k.turn pplPortCfgPortMeta pipe p }
  let (t, m) := traceBegin c m k
  let k := { k with trace := t }
  match readPkt c m k with
  | (none, m) => lostPkt c m k
  | (some f, m) =>
  if k.uncontrolled then endEarly c m k 0x0C (reasonDisp c pipe 0x0C)
  else
    let o := parseFrame (parseEnv c m k) (c.of m k.turn pplPortCfgStartState pipe p) f
    match badRead m pipe (o.read.map fun i => if i < 64 then (0, i) else (1, i - 64)) with
    | some e => badDrop c m k e
    | none =>
      let m₀ := m
      let m := o.counted.foldl (fun m r => countReason c m pipe r) m
      let k := traceReasons c m₀ m { k with hdrs := o.hdrs }
      match o.ended with
      | some (code, d) => endEarly c m k code d
      | none =>
        let lev := clsLevel c m k
        let info : PktInfo := { lport := k.lport, pass := k.pass, metaw := k.metaw, frameLen := k.len }
        let range := (List.range 64).foldl (fun v n => v + b2n (rangeBit k.hdrs f info lev (rangeCfg c m k n)) * 2 ^ n) 0
        let key := classKey k.hdrs f info lev range
        let rule := (m.tabs k.turn).rules.find? fun e => e.1 / 2048 == pipe && ruleMatches key e.2
        let res := match rule with
          | some e => clsResult (be e.2 88 8)
          | none => portDefault c m k
        let reads := ((List.range 64).filter fun n => (rangeCfg c m k n).en).map (fun n => (2, n)) ++
          (match rule with | some e => [(3, e.1 % 2048)] | none => []) ++ [(4, res.zprof)]
        match badRead m pipe reads with
        | some e => badDrop c m k e
        | none =>
          let k := { k with cls := res }
          if res.exc then endEarly c m k res.reason (reasonDisp c pipe res.reason) else keyStage c m k f

/-! ### The slot arbiter (R47) -/

/-- The local port the arbiter admits in a cycle: none where the slot is owed to a write-back or a sync frame, or nothing is ready. While no new
header is admitted, recirculated packets are still finished (R75). -/
def arbiterPick (c : Cfg) (m : Mach) (pipe : Nat) : Option Nat :=
  let has (p : Nat) : Bool := Tbl.look [] m.ppl.ready (8 * pipe + p) != []
  let rec' := Tbl.look [] m.ppl.recirc pipe != []
  let eth := if pgHeld m pipe then [] else (List.range 6).filter has
  let last := Tbl.look 5 m.ppl.rr pipe
  if Tbl.look 0 m.ppl.owed pipe ≠ 0 || !pplRuns c m pipe then none
  else if !pplOpen c m pipe then (if rec' then some 7 else none)
  else if has 6 && 63 ≤ Tbl.look 63 m.ppl.hostAge pipe then some 6
  else if rec' && 255 ≤ Tbl.look 255 m.ppl.recAge pipe then some 7
  else match (eth.find? (last < ·)).or eth.head? with
    | some p => some p
    | none => if rec' then some 7 else if has 6 then some 6 else none

/-- One cycle passes for the host and recirculation ports' waits. -/
def arbiterAge (m : Mach) (pipe : Nat) (p : Option Nat) : Mach :=
  { m with ppl := { m.ppl with
      hostAge := Tbl.put 63 m.ppl.hostAge pipe (if p = some 6 then 0 else min 63 (Tbl.look 63 m.ppl.hostAge pipe + 1))
      recAge := Tbl.put 255 m.ppl.recAge pipe (if p = some 7 then 0 else min 255 (Tbl.look 255 m.ppl.recAge pipe + 1)) } }

/-- A recirculated packet enters its second pass (R71). -/
def recircAdmit (c : Cfg) (m : Mach) (pipe : Nat) : Mach :=
  match Tbl.look [] m.ppl.recirc pipe with
  | k :: ks => admitHeader c { m with ppl := { m.ppl with recirc := Tbl.put [] m.ppl.recirc pipe ks } } k
  | [] => m

/-- One cycle of a pipeline's slot arbiter: a write-back or sync frame takes the slot, or one header is admitted (R47, R137, R280). -/
def arbiterCycle (c : Cfg) (m : Mach) (pipe : Nat) : Mach :=
  let owed := Tbl.look 0 m.ppl.owed pipe
  if owed ≠ 0 then arbiterAge { m with ppl := { m.ppl with owed := Tbl.put 0 m.ppl.owed pipe (owed - 1) } } pipe none
  else
    let pick := arbiterPick c m pipe
    let m := arbiterAge m pipe pick
    match pick with
    | none => m
    | some 7 => recircAdmit c m pipe
    | some p =>
      let m := if p < 6 then { m with ppl := { m.ppl with rr := Tbl.put 5 m.ppl.rr pipe p } } else m
      match Tbl.look [] m.ppl.ready (8 * pipe + p) with
      | k :: ks => admitHeader c { m with ppl := { m.ppl with ready := Tbl.put [] m.ppl.ready (8 * pipe + p) ks } } k
      | [] => m

/-- `RECIRC_REENTER`: a cycle in which the arbiter admits the recirculation port (R47, R71); where it admits another, nothing. -/
def recircReenter (c : Cfg) (m : Mach) (pipe : Nat) : Mach :=
  if arbiterPick c m pipe = some 7 then arbiterCycle c m pipe else m

end Sys2Proof.Machine
end

