-- ==== Sys2Proof/Machine/Egress.lean ====
section
/-! DEFINITION. Dequeue, the egress edit, the I/O die's completion of a frame, and the end of its transmission (R195, R212, R224, R242,
R243, R250, R253, R254, R468). -/
namespace Sys2Proof.Machine

/-- The head frame of a queue leaves it: freed or released by the dequeue unit when it is discarded there. -/
def takeHead (m : Mach) (q : Nat) : Mach :=
  let x := m.queue q
  m.setQueue q { x with head := x.head.drop 1 }

/-- A frame past its age limit is discarded (R212). -/
def ageDrop (c : Cfg) (m : Mach) (q : Nat) (fd : FrameD) : Mach :=
  let m := traceEnd c (tsDropped c (takeHead m q) q fd) fd.trace 1 0
  let x := m.queue q
  let m := m.setQueue q { x with aged := x.aged + 1, drops := min (x.drops + 1) 65535 }
  bump c (dropQueued c m q fd) .tmgCnt (q / 65536) cTmgAgeDrop

/-- A frame selected for a port that is not enabled is discarded (R468). -/
def idleDrop (c : Cfg) (m : Mach) (q : Nat) (fd : FrameD) : Mach :=
  dropQueued c (countLost c (takeHead m q) q fd) q fd

/-- The egress timestamp of a frame whose first bit leaves now (R241, R254): the end of the start delimiter, 8 bytes on. -/
def egressTs (c : Cfg) (m : Mach) (l : Nat) : Nat :=
  adjusted (m.dieFrac (Blk.prt.die (l / 8)) + txLat c l * 4096 + 64 * 65536 / portSpeed c l) (c.get prtPtpAdjEgrAdj (l / 8) (l % 8))

/-- The frame as the I/O die sends it, without FCS: one-step time, MACsec; `none` where MACsec discards it (R242, R254, R360). -/
def finishFrame (c : Cfg) (m : Mach) (l : Nat) (fd : FrameD) (f : List Byte) (ts : Nat) : Option (List Byte) × Mach :=
  let f := f ++ List.replicate (60 - f.length) 0
  let (f, m) := if fd.res.ptp = 1 then (match oneStep f ts with
      | some g => (g, m)
      | none => (f, bump c m .tmgPtpMiss (l / 128))) else (f, m)
  mscTx c m l f

/-- A frame begins its transmission: charged, edited, finished. -/
def transmit (c : Cfg) (m : Mach) (l q : Nat) (fd : FrameD) : Mach :=
  let m := chargePath c (takeHead m q) l q fd
  let x := m.queue q
  let m := m.setQueue q { x with maxDelay := max x.maxDelay (frameAge m fd) }
  let f := editFrame c m l fd (fd.stored m |>.dropLast.dropLast.dropLast.dropLast)
  let ts := egressTs c m l
  let t := traceTime (traceTime fd.trace 4 m.up) 5 (m.up + txLat c l / 16)
  match finishFrame c m l fd f ts with
  | (some f, m) => { m with tmg := { m.tmg with tx := Tbl.ins m.tmg.tx l { qid := q, fd := { fd with trace := t }, bytes := f, ts := ts } } }
  | (none, m) => dropFrame c (traceEnd c (tsDropped c m q fd) t 1 0) (ownDequeue l) fd

/-- A selection at an Ethernet port that sends nothing (R189, R212, R224, R468). -/
def dequeueSelect (c : Cfg) (m : Mach) (l : Nat) : Mach :=
  if !m.glb.outputs || (Tbl.find m.tmg.tx l).isSome then m
  else
    let (q?, m') := selectQueue c m l
    match q? with
    | none => m'
    | some q =>
      match (m'.queue q).head with
      | [] => m'
      | fd :: _ =>
        if tooOld c m' q fd then restDeficits c (ageDrop c m' q fd) l
        else if pgHeld m (l / 8) then m
        else match chainBad (q / 65536) maxChain m fd.head with
        | some p => restDeficits c (skipFrame c (takeHead m' q) (ownDequeue l) q p fd) l
        | none => restDeficits c (if !macOn c m l then idleDrop c m' q fd else transmit c m' l q fd) l

/-- The `TS_EGRESS` event of a sent frame (R243). -/
def tsEvent (tag l ts : Nat) : Evt :=
  { type := 7, bodies := [beBytes 2 tag ++ beBytes 1 l ++ [0] ++ beBytes 6 (secOf (ts / 65536)) ++ beBytes 4 (nsOf (ts / 65536)) ++ beBytes 2 ts] }

/-- A frame's last byte has been read: its cells go, and it is on the wire with its FCS, inverted where it is stomped (R195, R214). A
cut-through frame ends only after its tail. -/
def txDone (c : Cfg) (m : Mach) (l : Nat) : Mach :=
  match Tbl.find m.tmg.tx l with
  | none => m
  | some x =>
    if x.fd.ct then m
    else
      let m := { m with tmg := { m.tmg with tx := Tbl.del m.tmg.tx l } }
      let q := m.queue x.qid
      let m := m.setQueue x.qid { q with sent := q.sent + 1, sentBytes := q.sentBytes + x.bytes.length + 4 }
      let fcs := fcsOf x.bytes
      let fcs := if x.fd.stomp then fcs.map (· ^^^ 0xFF) else fcs
      let m := if macOn c m l then m.emit (.frame l (x.bytes ++ fcs) x.ts) else m
      let m := if x.fd.stomp then bump c m .tmgCnt (l / 128) cTmgCtStomp else m
      let m := traceEnd c m x.fd.trace 0 0
      let m := if x.fd.res.ptp = 2 then postEvent c m (tsEvent x.fd.res.ptpTag l x.ts) else m
      dropFrame c m (ownDequeue l) x.fd

end Sys2Proof.Machine
end

