-- ==== Sys2Proof/Machine/Trust.lean ====
section
/-! DEFINITION. The trust unit: bundles, measurements, key trees, quotes, the identity tag and the owner key (R410-R426). -/
namespace Sys2Proof.Machine

/-! ### What OTP and NV hold (R414, R417, R421) -/

/-- The number of ones among the low `n` bits. -/
def popCount (n v : Nat) : Nat := (pick n (bit v)).length

/-- The minimum SVN: the count of blown bits. -/
def NvSt.minSvn (x : NvSt) : Nat := popCount 64 x.svn.toNat

/-- Blows SVN bits, lowest first, until the count is `n`. -/
def blowSvn (n : Nat) : Nat → BitVec 64 → BitVec 64
  | 0, v => v
  | fuel + 1, v =>
    if n ≤ popCount 64 v.toNat then v
    else match lowest? 64 fun i => !v.getLsbD i with
      | some i => blowSvn n fuel (v ||| BitVec.ofNat 64 (2 ^ i))
      | none => v

/-- A reservation record of a sequence number and `RESERVED_NEXT`. -/
def reserveRec (seq next : Nat) : List Byte :=
  let b := beBytes 4 seq ++ beBytes 5 next ++ List.replicate 5 0
  b ++ beBytes 2 (crc16 b)

/-- A record whose CRC holds. -/
def reserveOk (b : List Byte) : Bool := b.length == 16 && crc16 (b.take 14) == be b 14 2

/-- `RESERVED_NEXT` of a record. Its five bytes hold 2^40, which reserves the last block, as 0; a record that reserves names no leaf 0 otherwise
(DEDUCED, notes/assumptions/145.md). -/
def reserveNext (b : List Byte) : Nat := if be b 4 5 = 0 && be b 0 4 != 0 then 2 ^ 40 else be b 4 5

/-- The record in force: position, sequence number and `RESERVED_NEXT`. A ring without one starts at 0. -/
def NvSt.reserved (x : NvSt) : Nat × Nat × Nat :=
  ((x.ring.filter fun e => reserveOk e.2).foldl (fun (a : Option (Nat × Nat × Nat)) e => match a with
    | some v => if v.2.1 < be e.2 0 4 then some (e.1, be e.2 0 4, reserveNext e.2) else a
    | none => some (e.1, be e.2 0 4, reserveNext e.2)) none).getD (4095, 0, 0)

/-- The identity tag. -/
def NvSt.tagBytes (x : NvSt) (off n : Nat) : List Byte := (List.range n).map fun i => Tbl.look 0 x.tag (off + i)

/-! ### Bundles (R410, R411) -/

/-- A bundle in its three parts, with the fields of its header. -/
structure Bundle where
  kind : Nat
  sigKind : Nat
  slot : Nat
  svn : Nat
  first : Nat
  count : Nat
  key : List Byte
  msg : List Byte
  payload : List Byte
  sig : List Byte

def bundleOf (b : List Byte) : Bundle :=
  let n := be b 8 4
  { kind := byteAt b 4, sigKind := byteAt b 5, slot := byteAt b 6, svn := byteAt b 7, first := be b 12 2, count := be b 14 2
    key := slice b 20 68, msg := b.take (128 + n), payload := slice b 128 n, sig := b.drop (128 + n) }

/-- A vendor kind. -/
def vendorKind (k : Nat) : Bool := (1 ≤ k && k ≤ 5) || k == 8

/-- Step 1: magic, reserved values, lengths, and a kind that is allowed here. A core image has its slot's 64 MiB at most (R274). -/
def bundleFormat (allowed : List Nat) (b : List Byte) : Bool :=
  let x := bundleOf b
  decide (128 ≤ b.length) && be b 0 4 == 0x4C53_4231 && allowed.contains x.kind && decide (x.sigKind ≤ 2) &&
    (if x.sigKind = 1 then decide (x.slot ≤ 2) else x.slot == 0) && (if vendorKind x.kind then decide (x.svn ≤ 63) else x.svn == 0) &&
    (if x.kind = 6 then be b 8 4 == 272 * x.count else x.first == 0 && x.count == 0) && (x.kind != 7 || decide (be b 8 4 ≤ 2 ^ 26)) && be b 18 2 == 0 &&
    (x.sigKind != 0 || x.key.all (· == 0)) && (slice b 88 40).all (· == 0) &&
    b.length == 128 + be b 8 4 + (if x.sigKind = 0 then 0 else 2820)

/-- Step 3: who must have signed. -/
def signerOk (m : Mach) (x : Bundle) : Bool :=
  if vendorKind x.kind then x.sigKind == 1
  else if m.sec.nv.owner.isSome then x.sigKind == 2
  else x.sigKind != 2

/-- The hash of the key in a vendor slot, fused (R414). -/
def vendorHash (c : Cfg) (slot : Nat) : List Byte := c.fuse.slotHash.getD slot (List.replicate 32 0)

/-- The checks of a bundle in their order: the status of the first that fails (R411). -/
@[irreducible] def bundleCheck (c : Cfg) (m : Mach) (allowed : List Nat) (b : List Byte) : Option Nat :=
  let x := bundleOf b
  let signed := x.sigKind != 0
  let hash := shake256 32 x.key
  if !bundleFormat allowed b then some 0x20
  else if be b 16 2 ≠ 0xA005 then some 0x21
  else if !signerOk m x then some 0x26
  else if signed && (if x.sigKind = 1 then hash != vendorHash c x.slot else some hash != m.sec.nv.owner) then some 0x22
  else if x.sigKind = 1 && m.sec.nv.revoked.getLsbD x.slot then some 0x23
  else if vendorKind x.kind && decide (x.svn < m.sec.nv.minSvn) then some 0x25
  else if signed && !Config.xmssVerify x.key x.msg x.sig then some 0x24
  else none

/-- The signer as a quote names it (R423). -/
def Bundle.signer (x : Bundle) : Nat := if x.sigKind = 1 then x.slot + 1 else if x.sigKind = 2 then 4 else 0

/-- A bundle's measurement (R412). -/
def Bundle.meas (x : Bundle) : Meas := { kind := x.kind, signer := x.signer, digest := shake256 32 x.msg }

def setMeas (m : Mach) (i : Nat) (x : Meas) : Mach := { m with sec := { m.sec with meas := Tbl.put {} m.sec.meas i x } }

/-- A policy bundle that is applied: its payload is in order, it revokes neither its own slot nor every slot, and it does not lower
the minimum (R417). -/
def policyOk (m : Mach) (x : Bundle) : Bool :=
  let mask := byteAt x.payload 0
  let after := m.sec.nv.revoked ||| BitVec.ofNat 3 mask
  x.payload.length == 8 && decide (mask < 8) && decide (byteAt x.payload 1 ≤ 63) && (slice x.payload 2 6).all (· == 0) &&
    !bit mask x.slot && after != 7 && decide (m.sec.nv.minSvn ≤ byteAt x.payload 1)

/-- The loader applies a policy: revoke bits, then SVN bits. -/
def applyPolicy (m : Mach) (x : Bundle) : Mach :=
  let nv := m.sec.nv
  { m with sec := { m.sec with nv := { nv with
    revoked := nv.revoked ||| BitVec.ofNat 3 (byteAt x.payload 0)
    svn := blowSvn (byteAt x.payload 1) 64 nv.svn } } }

/-! ### Key trees (R420) -/

/-- The index of the current tree of a layer. -/
def treeIndex (next k : Nat) : Nat := next / 1024 ^ (k + 1)

/-- The trees wanted, of those that exist: the current one of each layer, then the next of a layer that has used half of its leaves. -/
def treesWanted (next : Nat) : List (Nat × Nat) :=
  (((List.range 4).map fun k => (3 - k, treeIndex next (3 - k))) ++
    ((List.range 4).filter fun k => decide (512 ≤ next / 1024 ^ k % 1024)).map fun k => (k, treeIndex next k + 1)).filter fun t =>
      decide (t.2 < 1024 ^ (3 - t.1))

/-- `KEY_READY`: the trees for `NEXT` are generated. -/
def keyReady (m : Mach) : Bool := (List.range 4).all fun k => m.sec.trees.contains (k, treeIndex m.sec.next k)

/-- The next tree to generate. -/
def treeDue (m : Mach) : Option (Nat × Nat) := (treesWanted m.sec.next).find? fun t => !m.sec.trees.contains t

/-- The tree that is due asks for leave, or begins; `false` says that leave is refused. The unit is the tree's layer. -/
def treeAsk (c : Cfg) (m : Mach) : Bool × Mach :=
  match m.sec.gen, treeDue m with
  | none, some t =>
    if m.holdsLeave opTree t.1 then (true, { m with sec := { m.sec with gen := some t } })
    else if m.waitsLeave opTree t.1 then (true, m)
    else match askLeave c m opTree t.1 with
      | (.granted, m) => (true, { m with sec := { m.sec with gen := some t } })
      | (.deferred, m) => (true, m)
      | (.refused, m) => (false, m)
  | _, _ => (true, m)

/-- A tree's generation completes. -/
def treeDone (c : Cfg) (m : Mach) : Mach :=
  match m.sec.gen with
  | none => m
  | some t =>
    let keep := (treesWanted m.sec.next)
    let m := { m with sec := { m.sec with gen := none, trees := (m.sec.trees.filter keep.contains) ++ [t] } }
    (treeAsk c (releaseLeave c m opTree t.1)).2

/-! ### Quotes (R422-R424) -/

/-- The 432 signed bytes of a quote as they stand at the command's place; the leaf and what remains are filled at the signature. -/
def quoteBody (c : Cfg) (m : Mach) (nonce : List Byte) : List Byte :=
  let digest := (List.range 8).flatMap fun n => beBytes 4 (m.st glbSealDigestDigest n)
  let entry (i : Nat) : List Byte :=
    let x := Tbl.look {} m.sec.meas i
    beBytes 1 i ++ beBytes 1 x.kind ++ beBytes 1 x.signer ++ [0] ++ x.digest
  beBytes 4 0x4C53_5131 ++ beBytes 2 1 ++ beBytes 2 8 ++ nonce.take 32 ++ digest ++ beBytes 2 m.glb.active.toNat ++ [0, 0] ++
    shake256 32 (m.sec.nv.tagBytes 0 4096) ++ List.replicate 10 0 ++ beBytes 6 (secOf m.todNs) ++ beBytes 4 (nsOf m.todNs) ++
    beBytes 16 c.fuse.serial.toNat ++ (List.range 8).flatMap entry

/-- The factory identity certificate (R426). -/
def certificate (c : Cfg) : List Byte :=
  let pad (n : Nat) (b : List Byte) : List Byte := (b ++ List.replicate (n - b.length) 0).take n
  pad 224 (beBytes 16 c.fuse.serial.toNat ++ beBytes 4 c.fuse.idcode ++ beBytes 8 c.fuse.lot.toNat ++ beBytes 1 c.fuse.certSlot ++
    [0, 0, 0] ++ pad 68 (Config.attestKey 0) ++ pad 68 c.fuse.certKey) ++ pad 2820 c.fuse.certSig

/-- Leaves of the identity key. -/
def leafCount : Nat := 2 ^ 40

/-- A new block of leaves is reserved before the first of them signs: its record is written, read back and checked; false where it does not stand in
the store as the one in force (R421). -/
def reserveLeaf (m : Mach) : Bool × Mach :=
  let (pos, seq, res) := m.sec.nv.reserved
  if m.sec.next ≠ res then (true, m)
  else
    let new := ((pos + 1) % 4096, seq + 1, res + 1024)
    let nv := { m.sec.nv with ring := Tbl.ins m.sec.nv.ring new.1 (reserveRec new.2.1 (new.2.2 % leafCount)) }
    (nv.reserved == new, { m with sec := { m.sec with nv := nv } })

/-- 32 bytes of randomness (R427). -/
def signRandom (n : Nat) : List Byte := (List.range 4).flatMap fun i => beBytes 8 (Config.random (n + i)).toNat

/-- A quote's body is signed with the next leaf, which is reserved. -/
def signQuote (c : Cfg) (m : Mach) (body : List Byte) : List Byte × Mach :=
  let leaf := m.sec.next
  let left := leafCount - leaf - 1
  let body := splice body 108 (beBytes 5 leaf ++ beBytes 5 left)
  let sig := Config.xmssSign 0 leaf (signRandom m.free) body
  let m := m.draw.draw.draw.draw
  let m := { m with sec := { m.sec with next := leaf + 1, signedAt := some m.up } }
  let m := if left < 2 ^ 30 && !m.sec.fewLeft then raise c { m with sec := { m.sec with fewLeft := true } } 28 3 NOTE else m
  (body ++ (sig ++ List.replicate (9893 - sig.length) 0).take 9893, (treeAsk c m).2)

/-- How a quote fares: done with a status and output, or it waits in ring order. -/
inductive QuoteAns
  | done (st : Nat) (out : List Byte) (m : Mach)
  | wait (body : List Byte) (m : Mach)

/-- `ATTEST` for a quote; `n` is the command's number, the unit of its leave. -/
def quote (c : Cfg) (m : Mach) (n : Nat) (body : List Byte) : QuoteAns :=
  if leafCount ≤ m.sec.next then .done 0x28 [] m
  else if !keyReady m then
    match treeAsk c m with
    | (true, m) => .wait body m
    | (false, m) => .done 0x0A [] m
  else if (m.sec.signedAt.map fun t => decide (m.up < t + 1_000_000)).getD false then .wait body m
  else
    let sign (m : Mach) : QuoteAns :=
      match reserveLeaf m with
      | (false, m) => .wait body m
      | (true, m) =>
        let (out, m) := signQuote c m body
        .done 0x00 out (releaseLeave c m opQuote n)
    if m.holdsLeave opQuote n then sign m
    else if m.waitsLeave opQuote n then .wait body m
    else match askLeave c m opQuote n with
      | (.granted, m) => sign m
      | (.deferred, m) => .wait body m
      | (.refused, m) => .done 0x0A [] m

/-! ### Tag, owner, core images (R425, R418, R274) -/

/-- `TAG_WRITE`. -/
def tagWrite (m : Mach) (off : Nat) (b : List Byte) : Nat × Mach :=
  if off % 64 ≠ 0 || b.length % 64 ≠ 0 || 4096 < off + b.length then (0x07, m)
  else if 1_000_000 ≤ m.sec.nv.tagWrites then (0x29, m)
  else
    let tag := (b.zipIdx).foldl (fun t e => Tbl.put 0 t (off + e.2) e.1) m.sec.nv.tag
    (0x00, { m with sec := { m.sec with nv := { m.sec.nv with tag := tag, tagWrites := m.sec.nv.tagWrites + 1 } } })

def setOwner (m : Mach) (h : List Byte) : Mach := { m with sec := { m.sec with nv := { m.sec.nv with owner := some h } } }

/-- `OWNER_ENROL`. The current owner key is known by its hash (notes/assumptions/37.md). -/
def ownerEnrol (m : Mach) (b : List Byte) : Nat × Mach :=
  if b.length = 68 then
    if m.sec.nv.owner.isSome then (0x27, m)
    else if m.glb.sealSt = .sealed || m.glb.sealSt = .checking then (0x0B, m)
    else (0x00, setOwner m (shake256 32 b))
  else if b.length = 2888 then
    match m.sec.nv.owner with
    | none => (0x0B, m)
    | some h =>
      let new := shake256 32 (b.take 68)
      let text : List Byte := [0x4F, 0x57, 0x4E, 0x45, 0x52, 0x2D, 0x52, 0x4F, 0x54, 0x41, 0x54, 0x45]
      if Config.xmssVerify h (text ++ new) (b.drop 68) then (0x00, setOwner m new) else (0x24, m)
  else (0x0E, m)

/-- A core whose group runs the slot is out of reset. -/
def slotBusy (c : Cfg) (m : Mach) (slot : Nat) : Bool :=
  m.tsk.cores.any fun e => e.2.state != .reset && c.get tskGroupCfgSlot (c.get tskCoreCtrlGroup e.1) == slot

/-- `CORE_LOAD`: status and `DETAIL`. -/
def coreLoadImage (c : Cfg) (m : Mach) (slot : Nat) (b : List Byte) : Nat × Nat × Mach :=
  if 1 < slot then (0x07, 0, m)
  else if slotBusy c m slot then (0x0A, 0, m)
  else match bundleCheck c m [7] b with
    | some st => (st, 0xFFFF, m)
    | none =>
      let x := bundleOf b
      match m.sec.writeErrs.find? fun e => e.1 = 2 + slot && decide (e.2 < x.payload.length) with
      | some (_, n) =>
        let image := x.payload.take n ++ (Tbl.look [] m.tsk.image slot).drop n
        (0x0F, 0xFFFF, loadStops { m with tsk := { m.tsk with image := Tbl.ins m.tsk.image slot image } } (2 + slot) n [2 + slot])
      | none =>
        (0x00, 0, loadDone { setMeas m (6 + slot) x.meas with tsk := { m.tsk with image := Tbl.ins m.tsk.image slot x.payload } } [2 + slot])

end Sys2Proof.Machine
end

