-- ==== Sys2Proof/Machine/Tables.lean ====
section
/-! DEFINITION. The commands that load and read the device's tables (R329): the checks of their entries and what they write. -/
namespace Sys2Proof.Machine

/-- What a command answers: status, `DETAIL`, output, and the machine. -/
abbrev CmdRes := Nat × Nat × List Byte × Mach

def okRes (m : Mach) (out : List Byte := []) : CmdRes := (sOK, 0, out, m)

def failRes (m : Mach) (status : Nat) (detail : Nat := 0) : CmdRes := (status, detail, [], m)

/-- The `n`-byte entries of a command's data. -/
def entriesOf (n count : Nat) (b : List Byte) : List (List Byte) := (List.range count).map fun i => slice b (n * i) n

/-- A multi-entry command applies its entries in order and stops at the first failure, whose position is its `DETAIL` (R329). -/
def applyEach (f : Mach → Nat → List Byte → Except Nat Mach) : List (List Byte) → Nat → Mach → CmdRes
  | [], _, m => okRes m
  | b :: bs, i, m =>
    match f m i b with
    | .error st => failRes m st i
    | .ok m' => applyEach f bs (i + 1) m'

/-- A query of a run of entries. -/
def queryEach (f : Nat → Except Nat (List Byte)) (m : Mach) : List Nat → Nat → List Byte → CmdRes
  | [], _, out => okRes m out
  | x :: xs, i, out =>
    match f x with
    | .error st => failRes m st i
    | .ok b => queryEach f m xs (i + 1) (out ++ b)

end Sys2Proof.Machine

namespace Sys2Proof

/-- `ARG0` and `ARG1` as numbers. -/
def Cmd.a0 (q : Cmd) : Nat := q.arg0.toNat
def Cmd.a1 (q : Cmd) : Nat := q.arg1.toNat

/-- The ring a ring command names (R325). -/
def Cmd.ringNo (q : Cmd) : Nat := q.a0 % 16384

/-- The dies a command's die bits name (R328): with neither bit, both. -/
def Cmd.dies (q : Cmd) : List Nat :=
  let d := Machine.pick 2 fun i => q.flags.getLsbD (12 + i)
  if d = [] then [0, 1] else d

end Sys2Proof

namespace Sys2Proof.Machine

/-- Software has rewritten an entry: its error is repaired (R395). -/
def repaired (m : Mach) (src which entry : Nat) : Mach :=
  { m with flt := { m.flt with badEntries := m.flt.badEntries.filter (· != (src + 1024 * which, entry)) } }

def repairedOn (m : Mach) (dies : List Nat) (part which entry : Nat) : Mach :=
  dies.foldl (fun (m : Mach) d => repaired m (srcOf 10 (4 * d + part)) which entry) m

/-! ### Turn-banked tables (R51, R57, R73, R122, R373) -/

/-- A write of a banked table: the shadow bank, and until the seal the active one too. -/
def onBanks (m : Mach) (f : TurnTabs → TurnTabs) : Mach :=
  let a := { m.act with shadow := f m.act.shadow }
  { m with act := if m.glb.sealSt = .sealed then a else { a with act := f a.act } }

/-- The 32 pipelines' copies of a parse-graph entry are rewritten. -/
def repairedParse (m : Mach) (which entry : Nat) : Mach :=
  (List.range 32).foldl (fun (m : Mach) p => repaired m (srcOf (6 + p / 16) (p % 16)) which entry) m

/-- A state or transition entry that R329 takes: reserved bits 0. -/
def parseEntryOk (trans : Bool) (e : Nat) : Bool := if trans then bits e 10 0 == 0 else bits e 19 0 == 0

/-- The answer to a range that runs past its bank: nothing is written, and the first entry beyond the bank is named. -/
def pastBank (m : Mach) (first count size : Nat) (k : CmdRes) : CmdRes :=
  if size < first + count ∧ count ≠ 0 then failRes m sBAD_ENTRY (size - first) else k

/-- `PARSE_SET`. -/
def parseSet (m : Mach) (q : Cmd) : CmdRes :=
  let trans := bit q.a0 31
  let first := bits q.a0 7 0
  pastBank m first q.a1 (if trans then 256 else 64) <|
    applyEach (fun m i b =>
      let e := beNat b
      if !parseEntryOk trans e then .error sBAD_ENTRY
      else .ok (repairedParse (onBanks m fun t =>
        if trans then { t with trans := Tbl.put 0 t.trans (first + i) e } else { t with states := Tbl.put 0 t.states (first + i) e })
        (b2n trans) (first + i))) (entriesOf 8 q.a1 q.data) 0 m

/-- A classifier entry whose result R329 takes. -/
def ruleOk (b : List Byte) : Bool :=
  let r := be b 88 8
  clsResultOk r && !bit r 16 && bits r 5 0 == 0

/-- An entry never loaded: it never matches (R57). -/
def emptyRule : List Byte := splice (splice (List.replicate 96 0) 9 [1]) 53 [1]

/-- `CLS_SET`. -/
def clsSet (m : Mach) (q : Cmd) : CmdRes :=
  let pipe := bits q.a0 31 24
  let first := bits q.a0 10 0
  if 31 < pipe then failRes m sBAD_ENTRY
  else pastBank m first q.a1 2048 <|
    applyEach (fun m i b =>
      if !ruleOk b then .error sBAD_ENTRY
      else .ok (repaired (onBanks m fun t => { t with rules := Tbl.put emptyRule t.rules (2048 * pipe + first + i) b })
        (srcOf (6 + pipe / 16) (pipe % 16)) 3 (first + i))) (entriesOf 96 q.a1 q.data) 0 m

/-- A template that `TMPL_SET` takes (R154): at type 3 at most four labels; at type 2 the Geneve option length, bits 5:0 of the header's
first byte in units of 4 bytes, at most 64 bytes. DESIGN CHOICE (log 107): a descriptor of `TYPE` 0 is taken whatever its other bytes hold. -/
def tmplOk (t : List Byte) : Bool :=
  let ty := byteAt t 0
  let len := byteAt t 1
  if ty = 0 then true
  else decide (ty ≤ 6) && decide (4 ≤ len) && decide (len ≤ 144) && bits (byteAt t 5) 3 0 == 0 && (slice t 9 7).all (· == 0) &&
    (ty != 3 || decide (len ≤ 16)) && (ty != 2 || decide (4 * bits (byteAt t (16 + byteAt t 4)) 5 0 ≤ 64)) &&
    (ty != 4 || len == 4) && (ty != 5 || len == 8)

/-- `TMPL_SET`. A load that meets an error of the template memory stops there (R480). -/
def tmplSet (m : Mach) (q : Cmd) : CmdRes :=
  let r := applyEach (fun m i b =>
    let n := q.a0 + i
    if 4096 ≤ n then .error sBAD_ENTRY
    else if !tmplOk b then .error sBAD_TEMPLATE
    else if m.writeMeets 1 n then .error sDMA_ERROR
    else .ok (repairedOn (onBanks m fun t => { t with tmpls := Tbl.put [] t.tmpls n b }) [0, 1] 0 1 n)) (entriesOf 160 q.a1 q.data) 0 m
  if r.1 = sOK then okRes (loadDone r.2.2.2 [4, 5])
  else if r.1 = sDMA_ERROR then failRes (loadStops r.2.2.2 1 (q.a0 + r.2.1) [4, 5]) sDMA_ERROR r.2.1
  else r

/-! ### Programs (R124, R125) -/

/-- The operand bits of a micro-operation that are reserved: those R135 does not list, of bits 52:0. -/
def opReserved (op : Nat) : Nat :=
  let opc := bits op 63 58
  let low (n : Nat) : Nat := bits op n 0
  if opc = 0x00 then low 52
  else if opc = 0x01 then bits op 37 32
  else if opc = 0x02 then low 49
  else if opc = 0x03 || opc = 0x04 then bits op 35 32
  else if opc = 0x08 || opc = 0x09 then low 39
  else if opc = 0x0A then low 41
  else if opc = 0x0B then low 38
  else if opc = 0x10 then low 32
  else if opc = 0x11 then low 34
  else if opc = 0x12 then low 46
  else if opc = 0x13 then low 44
  else if opc = 0x14 then low 50
  else if opc = 0x18 then low 46
  else if opc = 0x19 || opc = 0x1A then low 52
  else if opc = 0x1B then low 33
  else if opc = 0x20 then low 28
  else if opc = 0x21 then low 50
  else if opc = 0x28 then low 36
  else low 41

def opcodes : List Nat :=
  [0x00, 0x01, 0x02, 0x03, 0x04, 0x08, 0x09, 0x0A, 0x0B, 0x10, 0x11, 0x12, 0x13, 0x14, 0x18, 0x19, 0x1A, 0x1B, 0x20, 0x21, 0x28, 0x29]

/-- A `PARAM` byte offset that must be even is even and at most 38. -/
def evenOff (n : Nat) : Bool := n % 2 == 0 && decide (n ≤ 38)

/-- A micro-operation at a place that R125 takes on its own. -/
def opOk (place op : Nat) : Bool :=
  let opc := bits op 63 58
  let sel (s : Nat) : Bool := (selWidth s).isSome
  let pen := bit op 57
  opcodes.contains opc && opReserved op == 0 &&
  (if opc = 0x01 then bits op 47 46 != 3 && sel (bits op 45 38)
   else if opc = 0x02 then bits op 52 50 == 0 || decide (place / 4 + 1 < bits op 52 50)
   else if opc = 0x03 || opc = 0x04 then sel (bits op 52 45) && selWrites (bits op 52 45) && (!bit op 44 || sel (bits op 43 36))
   else if opc = 0x08 || opc = 0x09 then
     let mode := bits op 52 51
     mode != 3 && (if opc = 0x08 then mode != 2 else mode != 1) && ((mode == 0 && !bit op 40) || evenOff (bits op 46 41))
   else if opc = 0x0A || opc = 0x0B then !pen
   else if opc = 0x10 || opc = 0x11 then decide (bits op 52 51 ≤ 1) && (bits op 52 51 == 0 || evenOff (bits op 40 35))
   else if opc = 0x18 then decide (0x10 ≤ bits op 52 47) && decide (bits op 52 47 ≤ 0x1F)
   else if opc = 0x1B then bits op 52 51 != 3 && (bits op 52 51 != 2 || decide (bits op 50 47 ≤ 9))
   else if opc = 0x21 then bits op 52 51 != 0
   else true)

/-- The micro-operations of a program. -/
def opsOf (p : List Byte) : List Nat := (List.range 32).map fun i => be p (16 + 8 * i) 8

/-- The first micro-operation that fails: on its own, or as a second allocation of a kind. -/
def firstBadOp : List Nat → Nat → Bool → Bool → Option Nat
  | [], _, _, _ => none
  | op :: ops, i, nat, be' =>
    let opc := bits op 63 58
    if !opOk i op || (opc = 0x0A && nat) || (opc = 0x0B && be') then some i
    else firstBadOp ops (i + 1) (nat || opc = 0x0A) (be' || opc = 0x0B)

/-- A program's header as the device stores it: bits 124:98 are computed from its micro-operations. -/
def headerOf (p : List Byte) : Nat :=
  let h := be p 0 16
  let find (opc : Nat) : Option Nat := (opsOf p).find? fun op => bits op 63 58 == opc
  let nat : Nat := match find 0x0A with
    | some op => 2 ^ 26 + bits op 52 43 * 2 ^ 16 + bits op 42 42 * 2 ^ 15
    | none => 0
  let bek : Nat := match find 0x0B with
    | some op => 2 ^ 14 + bits op 52 39
    | none => 0
  putBits h 124 98 (nat + bek)

/-- A header that is no reserved value. -/
def headerOk (p : List Byte) : Bool := bits (be p 0 16) 126 125 != 3 && bits (be p 0 16) 97 0 == 0

/-- The programs of a verified bundle enter the shadow bank; the first that fails, or that meets an error of the program memory (R480), stops them. -/
@[irreducible] def loadProgs (m : Mach) (first : Nat) : List (List Byte) → Nat → CmdRes
  | [], _ => okRes m
  | p :: ps, i =>
    if !headerOk p then failRes m sBAD_PROGRAM 0xFFFF
    else match firstBadOp (opsOf p) 0 false false with
      | some k => failRes m sBAD_PROGRAM k
      | none =>
        if m.writeMeets 0 (first + i) then failRes (loadStops m 0 (first + i) [0, 1]) sDMA_ERROR i else
        let e := beBytes 16 (headerOf p) ++ p.drop 16
        loadProgs (repairedOn (onBanks m fun t => { t with progs := Tbl.put [] t.progs (first + i) e }) [0, 1] 0 0 (first + i)) first ps (i + 1)

/-- The bank's measurement when a bundle's programs stand in it, and its repair of a load that did not complete (R413, R480). -/
def progEnd (m : Mach) (x : Bundle) : CmdRes :=
  let was := m.sec.shadowProg
  let now : Meas := { kind := 6, signer := x.signer, digest := shake256 32 (was.digest ++ x.meas.digest) }
  let m := loadDone { m with sec := { m.sec with shadowProg := now } } [0, 1]
  okRes (if m.glb.sealSt = .sealed then m else setMeas m 5 now)

/-- `PROG_LOAD` (R122, R125, R410, R413). The measurement of a bank is SHAKE256 of the bank's former one and the bundle's digest. -/
def progLoad (c : Cfg) (m : Mach) (q : Cmd) : CmdRes :=
  let x := bundleOf q.data
  -- a `FIRST` or `COUNT` other than the command's is a matter of step 1 (R411)
  if x.first ≠ q.a0 || x.count ≠ q.a1 then failRes m 0x20 0xFFFF
  else match bundleCheck c m [6] q.data with
  | some st => failRes m st 0xFFFF
  | none =>
    if 4096 < q.a0 + q.a1 then failRes m sBAD_PROGRAM 0xFFFF
    else
      let r := loadProgs m q.a0 (entriesOf 272 x.count x.payload) 0
      if r.1 ≠ sOK then r else progEnd r.2.2.2 x

/-! ### Forwarding tables (chapter 5) -/

/-- An FDB entry that R184 takes: one that is not valid is written as it stands. -/
def fdbOk (e : Nat) : Bool := bits e 38 0 == 0

/-- Writes an entry on a die: in place of the entry of its key, or in a free place. -/
def fdbWrite (m : Mach) (die e : Nat) : Option Mach :=
  match fdbFind m die (fdbBd e) (fdbMac e) with
  | some p => some (m.setFdb p e)
  | none => (fdbRoom m die (fdbBd e) (fdbMac e)).map fun p => m.setFdb p e

def fdbSet (m : Mach) (q : Cmd) : CmdRes :=
  applyEach (fun m _ b =>
    let e := beNat b
    if !fdbOk e then .error sBAD_ENTRY
    else
      match q.dies.foldl (fun (r : Option Mach) d => r.bind fun m => fdbWrite m d e) (some m) with
      | some m' => .ok m'
      | none => .error sNO_ROOM) (entriesOf 16 q.a1 q.data) 0 m

def fdbDelete (m : Mach) (q : Cmd) : CmdRes :=
  applyEach (fun m _ b =>
    let e := beNat b
    let at' := q.dies.filterMap fun d => fdbFind m d (fdbBd e) (fdbMac e)
    if at' = [] then .error sNOT_FOUND else .ok (at'.foldl (fun (m : Mach) p => m.setFdb p 0) m)) (entriesOf 16 q.a1 q.data) 0 m

def fdbQuery (m : Mach) (q : Cmd) : CmdRes :=
  let one (b : List Byte) : Except Nat (List Byte) :=
    let e := beNat b
    match (q.dies.filterMap fun d => fdbFind m d (fdbBd e) (fdbMac e)).head? with
    | some p => .ok (beBytes 16 (m.fdbAt p))
    | none => .error sNOT_FOUND
  queryEach (fun i => one (slice q.data (16 * i) 16)) m (List.range q.a1) 0 []

/-- `FDB_FLUSH`: with neither criterion nothing matches (notes/assumptions/40.md). -/
def fdbFlush (m : Mach) (q : Cmd) : CmdRes :=
  let byBd := bit q.a0 31
  let byPort := bit q.a1 31
  let gone (p e : Nat) : Bool :=
    fdbValid e && !fdbStatic e && q.dies.contains (p / 2 ^ 20) && (byBd || byPort) &&
      (!byBd || fdbBd e == bits q.a0 13 0) && (!byPort || fdbLport e == bits q.a1 7 0)
  okRes (((m.fwd.fdb.filter fun x => gone x.1 x.2).map (·.1)).foldl (fun (m : Mach) p => m.setFdb p 0) m)

/-- Writes a table held once for both dies, at index `q.a0 + i` below `size`, of entries that `good` takes. -/
def setTable (m : Mach) (q : Cmd) (n size : Nat) (good : Nat → Bool) (write : Mach → Nat → Nat → Mach) : CmdRes :=
  applyEach (fun m i b =>
    if size ≤ q.a0 + i || !good (beNat b) then .error sBAD_ENTRY else .ok (write m (q.a0 + i) (beNat b))) (entriesOf n q.a1 q.data) 0 m

/-- A bridge-domain entry with its reserved bits 0. -/
def bdOk (e : Nat) : Bool := bits e 122 120 == 0 && bits e 119 118 == 0 && bits e 111 108 == 0 && bits e 95 0 == 0

def bdSet (m : Mach) (q : Cmd) : CmdRes :=
  setTable m q 48 16384 bdOk fun m n e => { m with fwd := { m.fwd with bd := Tbl.put 0 m.fwd.bd n e } }

def nhSet (m : Mach) (q : Cmd) : CmdRes :=
  setTable m q 16 65536 (fun e => nhType e != 3 && bits e 51 0 == 0) fun m n e =>
    repairedOn { m with fwd := { m.fwd with nh := Tbl.put 0 m.fwd.nh n e } } [0, 1] 2 1 n

def grpOk (e : Nat) : Bool :=
  decide (1 ≤ grpSize e) && decide (grpSize e ≤ 256) && decide (grpLive e ≤ grpSize e) && bits e 26 0 == 0 && decide (grpBase e + grpSize e ≤ 262_144)

def setGroup (m : Mach) (n e : Nat) : Mach := repairedOn { m with fwd := { m.fwd with group := Tbl.put 0 m.fwd.group n e } } [0, 1] 2 2 n

def ecmpGroupSet (m : Mach) (q : Cmd) : CmdRes := setTable m q 8 16384 grpOk setGroup

def setMember (m : Mach) (n e : Nat) : Mach := repairedOn { m with fwd := { m.fwd with member := Tbl.put 0 m.fwd.member n e } } [0, 1] 2 3 n

def ecmpMemberSet (m : Mach) (q : Cmd) : CmdRes := setTable m q 2 262144 (fun _ => true) setMember

/-- `ECMP_MEMBER_DOWN` and `_UP` (R180): the named member, by its position in the group, changes places with the last live
one, or with the first that is not. -/
def ecmpMove (m : Mach) (q : Cmd) (up : Bool) : CmdRes :=
  let e := Tbl.look 0 m.fwd.group q.a0
  let live := grpLive e
  let k := q.a1
  let ok : Bool := decide (q.a0 < 16384) && (if up then decide (live ≤ k) && decide (k < grpSize e) else decide (k < live))
  if !ok then failRes m sNOT_FOUND
  else
    let other := if up then live else live - 1
    let mem (i : Nat) : Nat := Tbl.look 0 m.fwd.member (grpBase e + i)
    let m' := setMember (setMember m (grpBase e + k) (mem other)) (grpBase e + other) (mem k)
    okRes (setGroup m' q.a0 (putBits e 35 27 (if up then live + 1 else live - 1)))

/-! #### Prefixes (R177, R178, R330) -/

def lpmOf (b : List Byte) : Lpm :=
  let v6 := bit (byteAt b 24) 7
  let len := byteAt b 3
  let w := if v6 then 128 else 32
  let a := if v6 then be b 8 16 else be b 20 4
  { v6 := v6, zone := be b 0 3, len := len, addr := a / 2 ^ (w - len) * 2 ^ (w - len), result := be b 4 4 }

/-- A prefix entry that R184 takes: its length within the address, and reserved parts 0. -/
def lpmOk (b : List Byte) : Bool :=
  let v6 := bit (byteAt b 24) 7
  decide (byteAt b 3 ≤ if v6 then 128 else 32) && bits (byteAt b 24) 6 0 == 0 && (slice b 25 7).all (· == 0) &&
    (v6 || (slice b 8 12).all (· == 0)) && bits (be b 4 4) 31 30 != 3 && bits (be b 4 4) 29 16 == 0 &&
    (bits (be b 4 4) 31 30 != 1 || bits (be b 4 4) 15 14 == 0)

def Lpm.same (a b : Lpm) : Bool := a.v6 == b.v6 && a.zone == b.zone && a.len == b.len && a.addr == b.addr

/-- A prefix's place in the dies' tables: its own where it stands already, else the lowest free one of its kind. DESIGN CHOICE: the rules number no
prefixes (notes/assumptions/137.md). -/
def lpmPlace (l : List Lpm) (x : Lpm) : Nat :=
  let kind := l.filter fun y => y.v6 == x.v6
  match kind.find? (·.same x) with
  | some y => y.place
  | none => ((List.range (kind.length + 1)).map (· + b2n x.v6 * 2 ^ 20) |>.find? fun p => !(kind.map (·.place)).contains p).getD 0

def lpmAdd (m : Mach) (q : Cmd) : CmdRes :=
  applyEach (fun m _ b =>
    let x := lpmOf b
    if !lpmOk b then .error sBAD_ENTRY
    else
      let rest := m.fwd.lpm.filter fun y => !y.same x
      if (if x.v6 then 262144 else 1048576) ≤ (rest.filter fun y => y.v6 == x.v6).length then .error sNO_ROOM
      else
        let x := { x with place := lpmPlace m.fwd.lpm x }
        .ok (repairedOn { m with fwd := { m.fwd with lpm := rest ++ [x] } } [0, 1] 2 0 x.place)) (entriesOf 32 q.a1 q.data) 0 m

def lpmDelete (m : Mach) (q : Cmd) : CmdRes :=
  applyEach (fun m _ b =>
    let x := lpmOf b
    if !lpmOk (splice b 4 [0, 0, 0, 0]) then .error sBAD_ENTRY
    else if !m.fwd.lpm.any (·.same x) then .error sNOT_FOUND
    else .ok { m with fwd := { m.fwd with lpm := m.fwd.lpm.filter fun y => !y.same x } }) (entriesOf 32 q.a1 q.data) 0 m

/-! #### Subscribers (R181, R182), policers (R231), gate lists (R244) -/

def subOk (b : List Byte) : Bool := decide (byteAt b 24 ≤ 128) && (slice b 28 4).all (· == 0)

def subSet (m : Mach) (q : Cmd) : CmdRes :=
  applyEach (fun m i b =>
    let n := q.a0 + i
    if 8388608 ≤ n || !subOk b then .error sBAD_ENTRY
    else .ok (repairedOn { m with fwd := { m.fwd with sub := Tbl.put (List.replicate 256 0) m.fwd.sub n b, map := Tbl.put 0 m.fwd.map n (be b 0 4) } }
      [0, 1] 3 1 n)) (entriesOf 256 q.a1 q.data) 0 m

def subQuery (m : Mach) (q : Cmd) : CmdRes :=
  queryEach (fun n => if 8388608 ≤ n then .error sBAD_ENTRY else .ok (Tbl.look (List.replicate 256 0) m.fwd.sub n)) m
    ((List.range q.a1).map (q.a0 + ·)) 0 []

/-- A policer as written: both buckets full. -/
def newPolicer (m : Mach) (e : Nat) : Policer :=
  let full (b : Nat) : Bucket := { tok := (b * 2 ^ 24 : Nat), last := m.todFrac }
  { entry := e, c := full (polCbs e), p := full (polPbs e) }

def policerSet (m : Mach) (q : Cmd) : CmdRes :=
  applyEach (fun m i b =>
    let n := q.a0 + i
    let e := beNat b
    if 65536 ≤ n || !polOk e then .error sBAD_ENTRY
    else .ok (q.dies.foldl (fun (m : Mach) d =>
      repaired { m with fwd := { m.fwd with policer := Tbl.ins m.fwd.policer (65536 * d + n) (newPolicer m e) } } (srcOf 10 (4 * d + 3)) 0 n) m))
    (entriesOf 16 q.a1 q.data) 0 m

/-- `POLICER_QUERY` returns the entries of the first die named (notes/assumptions/40.md). -/
def policerQuery (m : Mach) (q : Cmd) : CmdRes :=
  let d := q.dies.headD 0
  queryEach (fun n => if 65536 ≤ n then .error sBAD_ENTRY else .ok (beBytes 16 (m.policer d n).entry)) m ((List.range q.a1).map (q.a0 + ·)) 0 []

def gclSet (m : Mach) (q : Cmd) : CmdRes :=
  let l := q.a0
  let first := bits q.a1 10 0
  let count := bits q.a1 26 16
  if 256 ≤ l || 6 ≤ l % 8 then failRes m sBAD_ENTRY
  else if (m.gate l).change.isSome then failRes m sBUSY
  else applyEach (fun m i b =>
    let e := beNat b
    if 1024 ≤ first + i || bits e 63 40 ≠ 0 || gInterval e < 8 then .error sBAD_ENTRY
    else .ok (m.setGate l { m.gate l with admin := Tbl.put 0 (m.gate l).admin (first + i) e })) (entriesOf 8 count q.data) 0 m

/-! ### The allocation service (R140, R146) -/

/-- A pool descriptor that `NAT_POOL_SET` takes. -/
def poolOk (d : List Byte) : Bool :=
  let n := byteAt d 4
  decide (n ≤ 16) && be d 0 4 % 2 ^ n == 0 && bits (byteAt d 5) 4 0 == 0 && decide (1 ≤ be d 6 2) && decide (be d 6 2 ≤ be d 8 2) &&
    decide (be d 10 2 < 4096) && byteAt d 15 == 0 && decide (be d 16 4 + 2 ^ n ≤ 131072) && (slice d 20 12).all (· == 0)

/-- A new descriptor only clears `ENABLE`. -/
def onlyDisables (old new : List Byte) : Bool := splice old 5 [(byteAt old 5 % 128 : Nat)] == new

/-- The pairs of a pool's ready queue are unmarked: they are given up. -/
def dropReady (m : Mach) (n : Nat) : Mach :=
  let p := m.pool n
  let m := p.ready.foldl (fun (m : Mach) e => match natCell p e.1 e.2 with
    | some row => natSet m row e.2 false
    | none => m) m
  m.setPool n { m.pool n with ready := [] }

/-- The rows of a loaded pool keep every port outside its window marked. -/
def setWindows (m : Mach) (d : List Byte) : Mach :=
  { m with fsl := { m.fsl with natFreed := m.fsl.natFreed.filter fun k => k / 65536 < plRow d || plRow d + 2 ^ plLog2 d ≤ k / 65536 } }

def natPoolSet (m : Mach) (q : Cmd) : CmdRes :=
  let n := q.a0
  let old := m.pool n
  if 1024 ≤ n || !poolOk q.data then failRes m sBAD_ENTRY
  else if old.desc ≠ [] && plEnable old.desc && !onlyDisables old.desc q.data then failRes m sBUSY
  else if splice old.desc 5 [0] = splice q.data 5 [0] then okRes (m.setPool n { old with desc := q.data })
  else
    let m := dropReady m n
    let m := setWindows (m.setPool n { desc := q.data }) q.data
    okRes (if plEnable q.data then natFill n 64 m else m)

/-- `NAT_PORT_FREE` (R143): a pair outside the pool, or whose bit is clear, is not found. -/
def natPortFree (m : Mach) (q : Cmd) : CmdRes :=
  let addr := be q.data 0 4
  let port := be q.data 4 2
  if 1024 ≤ q.a0 then failRes m sBAD_ENTRY
  else match natCell (m.pool q.a0) addr port with
    | none => failRes m sNOT_FOUND
    | some row => if natMarked m row port && !(m.pool q.a0).ready.contains (addr, port) then okRes (natSet m row port false) else failRes m sNOT_FOUND

def beGroupSet (m : Mach) (q : Cmd) : CmdRes :=
  setTable m q 8 16384 (fun e => decide (bgLog2 e ≤ 20) && bgBase e % 2 ^ bgLog2 e == 0 && bits e 37 0 == 0) fun m n e =>
    { m with fsl := { m.fsl with beGroup := Tbl.put 0 m.fsl.beGroup n e } }

def beSlotSet (m : Mach) (q : Cmd) : CmdRes :=
  setTable m q 4 1048576 (fun e => bits e 29 16 == 0) fun m n e => { m with fsl := { m.fsl with beSlot := Tbl.put 0 m.fsl.beSlot n e } }

def backendSet (m : Mach) (q : Cmd) : CmdRes :=
  applyEach (fun m i b =>
    let n := q.a0 + i
    if 65536 ≤ n || be b 0 16 = 0 || bits (byteAt b 18) 6 0 ≠ 0 || byteAt b 19 ≠ 0 then .error sBAD_ENTRY
    else .ok { m with fsl := { m.fsl with backend := Tbl.put [] m.fsl.backend n b } }) (entriesOf 20 q.a1 q.data) 0 m

/-! ### Steering (R281, R286, R309, R315) -/

/-- An entry's reserved bits are 0 and the partner indexes it uses name enabled partners. `STATE` and `SHADOWED` are read-only. -/
def steerOk (c : Cfg) (x : Nat) : Bool :=
  bits x 61 60 == 0 && bits x 23 23 == 0 && bits x 19 19 == 0 && bits x 12 0 == 0 &&
    (!seValid x ||
      ((entRole c x == .home || partnerEn c (seHomeP x)) && (!seMEn x || entRole c x == .mirror || partnerEn c (seMirrorP x))))

/-- A change after the seal that would give this device a part in the entry, or take one from it. -/
def changesPart (c : Cfg) (old new : Nat) : Bool :=
  (seHome old != seHome new || seMirror old != seMirror new || seMEn old != seMEn new) &&
    (entRole c old != entRole c new) && !(entRole c old == .neither && entRole c new == .neither)

def steerSet (c : Cfg) (m : Mach) (q : Cmd) : CmdRes :=
  if q.a1 = 0 || 1024 < q.a1 then failRes m sBAD_ENTRY
  else applyEach (fun m i b =>
    let e := q.a0 + i
    let x := putBits (beNat b) 15 13 0
    let excluded := m.entState e = 3
    let old := m.entry e
    if 65536 ≤ e || !steerOk c (beNat b |> fun y => putBits y 15 13 0) then .error sBAD_ENTRY
    else if m.glb.sealSt = .sealed && !excluded && changesPart c (m.entry e) x then .error sNOT_PERMITTED
    else
      let m := { m with duo := { m.duo with steer := Tbl.put 0 m.duo.steer e x } }
      let st := entryFor c m x
      .ok (if excluded then m.setEnt e st true
           else if seHome x ≠ seHome old then m.setEnt e st (st == 1 || m.entShadowed e) else m)) (entriesOf 8 q.a1 q.data) 0 m

/-- `STEER_QUERY`. DESIGN CHOICE: a count outside 1-1,024, or an entry past the last, is `BAD_ENTRY`, as for `STEER_SET` (notes/assumptions/139.md). -/
def steerQuery (m : Mach) (q : Cmd) : CmdRes :=
  if q.a1 = 0 || 1024 < q.a1 then failRes m sBAD_ENTRY
  else queryEach (fun e => if 65536 ≤ e then .error sBAD_ENTRY
    else .ok (beBytes 8 (putBits (putBits (m.entry e) 15 14 (m.entState e)) 13 13 (b2n (m.entShadowed e))))) m ((List.range q.a1).map (q.a0 + ·)) 0 []

/-- `PROMOTE` (R309): each entry is promoted at once, so none is ever in progress (notes/assumptions/40.md). -/
def promote (c : Cfg) (m : Mach) (q : Cmd) : CmdRes :=
  let es := (List.range q.a1).map (q.a0 + ·)
  let mEn := bit q.arg2.toNat 31
  let dev := bits q.arg2.toNat 17 0
  let mirror : Option (Nat × Option Nat) := if mEn then some (dev, partnerOf c dev) else none
  if 65536 < q.a0 + q.a1 || !es.all fun e => entRole c (m.entry e) == .mirror && m.entState e == 1 then failRes m sNOT_PERMITTED
  else okRes (es.foldl (fun (m : Mach) e => promoteEntry c m mirror e) m)

end Sys2Proof.Machine
end

