-- ==== Sys2Proof/Machine/Command.lean ====
section
/-! DEFINITION. How commands are taken from rings and from the cores' queues and carried out (R44, R319, R328-R331, R272): the checks before a
command's effect, the effect of each, and the commands that wait: for leave, for a guard entry, for the seal checks or a turn. -/
namespace Sys2Proof.Machine

/-! ### Opcodes, lengths, permissions (R328, R329) -/

/-- The opcode of a command; a reserved one is carried by its row. -/
def opcode : CmdOp → Nat
  | .nop => 0x00 | .ringCreate => 0x01 | .ringDestroy => 0x02 | .ringQuery => 0x03
  | .flowInsert => 0x10 | .flowModify => 0x11 | .flowDelete => 0x12 | .flowQuery => 0x13
  | .natPoolSet => 0x14 | .natPortFree => 0x15 | .beGroupSet => 0x16 | .beSlotSet => 0x17 | .backendSet => 0x18
  | .progLoad => 0x20 | .tmplSet => 0x21 | .parseSet => 0x22 | .clsSet => 0x23
  | .fdbSet => 0x28 | .fdbDelete => 0x29 | .fdbQuery => 0x2A | .fdbFlush => 0x2B | .bdSet => 0x2C
  | .lpmAdd => 0x2D | .lpmDelete => 0x2E | .nhSet => 0x2F | .ecmpGroupSet => 0x30 | .ecmpMemberSet => 0x31
  | .ecmpMemberDown => 0x32 | .ecmpMemberUp => 0x33 | .subSet => 0x34 | .subQuery => 0x35
  | .policerSet => 0x38 | .policerQuery => 0x39 | .gclSet => 0x3A
  | .steerSet => 0x40 | .steerQuery => 0x41 | .promote => 0x42 | .coreLoad => 0x48
  | .attest => 0x50 | .tagWrite => 0x51 | .ownerEnrol => 0x52
  | .reserved => 0x7F

/-- Every command with an opcode of its own. -/
def cmdOps : List CmdOp :=
  [.nop, .ringCreate, .ringDestroy, .ringQuery, .flowInsert, .flowModify, .flowDelete, .flowQuery, .natPoolSet, .natPortFree, .beGroupSet,
   .beSlotSet, .backendSet, .progLoad, .tmplSet, .parseSet, .clsSet, .fdbSet, .fdbDelete, .fdbQuery, .fdbFlush, .bdSet, .lpmAdd, .lpmDelete,
   .nhSet, .ecmpGroupSet, .ecmpMemberSet, .ecmpMemberDown, .ecmpMemberUp, .subSet, .subQuery, .policerSet, .policerQuery, .gclSet, .steerSet,
   .steerQuery, .promote, .coreLoad, .attest, .tagWrite, .ownerEnrol]

/-- The command an opcode names. -/
def opOf (opc : Nat) : CmdOp := (cmdOps.find? fun o => opcode o == opc).getD .reserved

/-- The privileged set (R319). -/
def privileged : CmdOp → Bool
  | .progLoad | .tmplSet | .parseSet | .clsSet | .coreLoad | .steerSet | .promote | .ownerEnrol | .tagWrite => true
  | _ => false

/-- Commands that read and change nothing. -/
def isQuery : CmdOp → Bool
  | .flowQuery | .fdbQuery | .subQuery | .policerQuery | .steerQuery => true
  | _ => false

def isRingOp : CmdOp → Bool
  | .ringCreate | .ringDestroy | .ringQuery => true
  | _ => false

/-- Commands that write a shadow bank: held while a turn is not idle (R73, R387). -/
def writesBank : CmdOp → Bool
  | .progLoad | .tmplSet | .parseSet | .clsSet => true
  | _ => false

def isFlowOp : CmdOp → Bool
  | .flowInsert | .flowModify | .flowDelete | .flowQuery => true
  | _ => false

/-- The input a command needs is as long as it must be; commands without input take any (notes/assumptions/41.md). -/
def inputOk (op : CmdOp) (q : Cmd) : Bool :=
  let n := q.data.length
  let key := if q.flags.getLsbD 11 then 40 else 16
  let each (k : Nat) : Bool := n == k * q.a1
  match op with
  | .ringCreate => n == 64
  | .flowInsert | .flowModify => n == 64 || n == 128
  | .flowDelete | .flowQuery => n == key
  | .natPoolSet => n == 32
  | .natPortFree => n == 6
  | .beGroupSet | .parseSet | .ecmpGroupSet | .steerSet => each 8
  | .beSlotSet => each 4
  | .backendSet => each 20
  | .tmplSet => each 160
  | .clsSet => each 96
  | .fdbSet | .fdbDelete | .fdbQuery | .nhSet | .policerSet => each 16
  | .bdSet => each 48
  | .lpmAdd | .lpmDelete => each 32
  | .ecmpMemberSet => each 2
  | .subSet => each 256
  | .gclSet => n == 8 * bits q.a1 26 16
  | .attest => q.arg0.getLsbD 0 || n == 32
  | .ownerEnrol => n == 68 || n == 2888
  | _ => true

/-- The largest output of a command, in bytes. -/
def outputMax (op : CmdOp) (q : Cmd) : Nat :=
  match op with
  | .ringQuery => 16
  | .flowDelete | .flowQuery => if q.flags.getLsbD 11 then 128 else 64
  | .fdbQuery | .policerQuery => 16 * q.a1
  | .subQuery => 256 * q.a1
  | .steerQuery => 8 * q.a1
  | .attest => if q.arg0.getLsbD 0 then 3044 else 10325
  | _ => 0

/-- The role of a ring's port permits a command (R319). -/
def permitted (m : Mach) (p : Nat) (op : CmdOp) (q : Cmd) : Bool :=
  let r := m.ring q.ringNo
  let own := r.state == .absent || r.owner == p
  let role := m.role p
  if role = 1 then true
  else if role = 2 then !privileged op && (op != .ringDestroy || own)
  else if role = 3 then isQuery op || op == .attest || (isRingOp op && own)
  else false

/-- The commands a cluster's queue accepts (R272). -/
def coreOp : CmdOp → Bool
  | .flowInsert | .flowModify | .flowDelete | .flowQuery | .natPortFree | .subQuery => true
  | _ => false

/-! ### The effects -/

/-- How a command ends: done, or it waits for leave, or for a ring to drain. -/
inductive CmdAns
  | done (status detail : Nat) (out : List Byte) (m : Mach)
  | leave (q : Cmd) (m : Mach)
  | later (m : Mach)

def CmdAns.of (r : CmdRes) : CmdAns := .done r.1 r.2.1 r.2.2.1 r.2.2.2

def CmdAns.ofFlow (r : Nat × List Byte × Mach) : CmdAns := .done r.1 0 r.2.1 r.2.2

def CmdAns.ofPair (r : Nat × Mach) : CmdAns := .done r.1 0 [] r.2

/-- `ATTEST` (R423). The quote's body is taken when the command is first carried out (R424), and stands in the data of one that waits. -/
def attest (c : Cfg) (m : Mach) (n : Nat) (q : Cmd) : CmdAns :=
  if q.arg0.getLsbD 0 then .done sOK 0 (certificate c) m
  else
    let body := if q.data.length = 432 then q.data else quoteBody c m q.data
    match quote c m n body with
    | .done st out m => .done st 0 out m
    | .wait body m => .leave { q with data := body } m

/-- The effect of a command of ring `rid`, consumed at `slot`; `n` numbers it for the leave it may need. A core's command has no ring. `spot` is
the place a flow insert has found. -/
def cmdEffect (c : Cfg) (m : Mach) (n : Nat) (rid : Option Nat) (slot : Nat) (op : CmdOp) (q : Cmd) (spot : Option Spot := none) : CmdAns :=
  match op with
  | .nop => .done sOK 0 [] m
  | .ringCreate => .ofPair (ringCreate m ((rid.map fun r => (m.ring r).owner).getD 0) q.ringNo q.data)
  | .ringDestroy =>
    match (m.ring q.ringNo).state with
    | .absent => .done sNOT_FOUND 0 [] m
    | .draining => .done sBUSY 0 [] m
    | _ => if rid = some q.ringNo then .done sOK 0 [] (ringDestroy c m q.ringNo none) else .later (ringDestroy c m q.ringNo (rid.map (·, slot)))
  | .ringQuery => .done sOK 0 (ringQuery m q.ringNo) m
  | .flowInsert => .ofFlow (flowInsert c m spot q)
  | .flowModify => .ofFlow (flowModify c m q)
  | .flowDelete => .ofFlow (flowDelete c m q)
  | .flowQuery => .ofFlow (flowQuery c m q)
  | .natPoolSet => .of (natPoolSet m q)
  | .natPortFree => .of (natPortFree m q)
  | .beGroupSet => .of (beGroupSet m q)
  | .beSlotSet => .of (beSlotSet m q)
  | .backendSet => .of (backendSet m q)
  | .progLoad => .of (progLoad c m q)
  | .tmplSet => .of (tmplSet m q)
  | .parseSet => .of (parseSet m q)
  | .clsSet => .of (clsSet m q)
  | .fdbSet => .of (fdbSet m q)
  | .fdbDelete => .of (fdbDelete m q)
  | .fdbQuery => .of (fdbQuery m q)
  | .fdbFlush => .of (fdbFlush m q)
  | .bdSet => .of (bdSet m q)
  | .lpmAdd => .of (lpmAdd m q)
  | .lpmDelete => .of (lpmDelete m q)
  | .nhSet => .of (nhSet m q)
  | .ecmpGroupSet => .of (ecmpGroupSet m q)
  | .ecmpMemberSet => .of (ecmpMemberSet m q)
  | .ecmpMemberDown => .of (ecmpMove m q false)
  | .ecmpMemberUp => .of (ecmpMove m q true)
  | .subSet => .of (subSet m q)
  | .subQuery => .of (subQuery m q)
  | .policerSet => .of (policerSet m q)
  | .policerQuery => .of (policerQuery m q)
  | .gclSet => .of (gclSet m q)
  | .steerSet => .of (steerSet c m q)
  | .steerQuery => .of (steerQuery m q)
  | .promote => .of (promote c m q)
  | .coreLoad => let (st, d, m) := coreLoadImage c m q.a0 q.data; .done st d [] m
  | .attest => attest c m n q
  | .tagWrite => .ofPair (tagWrite m q.a0 q.data)
  | .ownerEnrol => .ofPair (ownerEnrol m q.data)
  | .reserved => .done sBAD_OPCODE 0 [] m

/-- The banks of the block instances that hold the table a command writes (R445, notes/assumptions/81.md). -/
def tableBanks (op : CmdOp) (q : Cmd) : List Nat :=
  let fwd (ds : List Nat) : List Nat := ds.map ((pmcRow .fwd).first + ·)
  match op with
  | .fdbSet | .fdbDelete | .fdbFlush | .policerSet => fwd q.dies
  | .bdSet | .lpmAdd | .lpmDelete | .nhSet | .ecmpGroupSet | .ecmpMemberSet | .ecmpMemberDown | .ecmpMemberUp | .subSet | .progLoad | .tmplSet => fwd [0, 1]
  | .parseSet => (List.range 32).map ((pmcRow .ppl).first + ·)
  | .clsSet => [(pmcRow .ppl).first + bits q.a0 31 24 % 32]
  | .gclSet => [(pmcRow .sch).first + q.a0 / 128 % 2]
  | .natPoolSet | .natPortFree | .beGroupSet | .beSlotSet | .backendSet => [(pmcRow .fst).first]
  | .steerSet | .promote => [(pmcRow .duo).first]
  | _ => []

/-- The entries a table command wrote: all it names, or those before the one that failed (R329). -/
def entriesWritten (op : CmdOp) (q : Cmd) (status detail : Nat) : Nat :=
  let n := match op with
    | .gclSet => bits q.a1 26 16
    | .fdbFlush | .ecmpMemberDown | .ecmpMemberUp | .natPoolSet | .natPortFree => 1
    | _ => q.a1
  if status = sOK then n else if op != .progLoad && decide (detail < n) then detail else 0

/-- A command's writes to the tables of blocks, shown to their banks as event 0x04 (R445). -/
def tableWrites (c : Cfg) (op : CmdOp) (q : Cmd) (st d : Nat) (m : Mach) : Mach :=
  let n := entriesWritten op q st d
  if n = 0 then m else (tableBanks op q).foldl (fun m b => pmcEvent c m b 0x04 n) m

/-- An answer with the writes behind it counted. -/
def countTable (c : Cfg) (op : CmdOp) (q : Cmd) : CmdAns → CmdAns
  | .done st d out m => .done st d out (tableWrites c op q st d m)
  | a => a

/-- A bulk command: more than 64 KiB of input, or `FDB_FLUSH` (R431). -/
def isBulk (op : CmdOp) (q : Cmd) : Bool := op == .fdbFlush || decide (65536 < q.data.length)

/-- The effect of a command, with the leave a bulk command needs before it and releases behind it (R433). -/
def cmdRun (c : Cfg) (m : Mach) (n : Nat) (rid : Option Nat) (slot : Nat) (op : CmdOp) (q : Cmd) (spot : Option Spot := none) : CmdAns :=
  let go (m : Mach) : CmdAns :=
    match countTable c op q (cmdEffect c m n rid slot op q spot) with
    | .done st d out m => .done st d out (releaseLeave c m opBulk n)
    | a => a
  if !isBulk op q then countTable c op q (cmdEffect c m n rid slot op q spot)
  else if m.holdsLeave opBulk n then go m
  else if m.waitsLeave opBulk n then .leave q m
  else match askLeave c m opBulk n with
    | (.granted, m) => go m
    | (.deferred, m) => .leave q m
    | (.refused, m) => .done sBUSY 0 [] m

/-! ### From a command to its completion -/

/-- The ring a command comes from. -/
def originRing : Origin → Option Nat
  | .ring r => some r.val
  | .core _ => none

/-- Completions of a cluster's queue are written in its order, in place and by the phase rule (R272, R339). -/
def flushCluster (k : Nat) : Nat → Mach → Mach
  | 0, m => m
  | fuel + 1, m =>
    match m.tsk.cmds.find? fun e => clusterOf e.core == k with
    | none => m
    | some e => match e.done with
      | none => m
      | some q =>
        let x := Tbl.look {} m.tsk.clusters k
        let desc := word0 x.phase e.opc q.status q.detail e.ctx ++ splice e.body 20 (beBytes 4 q.out.length)
        let x' : Cluster := { head := (x.head + 1) % 64, phase := if x.head = 63 then !x.phase else x.phase }
        flushCluster k fuel ({ m with tsk := { m.tsk with cmds := m.tsk.cmds.filter fun d => d.n != e.n,
                                                          clusters := Tbl.put {} m.tsk.clusters k x' } }.emit (.coreDone k x.head desc q.out))

/-- A command's result reaches where it came from: the ring's completion, or the cluster's queue, whose core's outputs may then go. -/
def cmdDone (c : Cfg) (m : Mach) (o : Origin) (slot status detail : Nat) (out : List Byte) : Mach :=
  match o with
  | .ring r => complete c m r.val slot ⟨status, detail, out⟩
  | .core n =>
    release c (flushCluster (clusterOf n.val) m.tsk.cmds.length { m with tsk := { m.tsk with cmds := m.tsk.cmds.map fun e =>
      if e.n = slot then { e with done := some ⟨status, detail, out⟩ } else e } })

/-- Carries out a command in its place: it completes, or joins what waits. `n` is `none` for one that has not waited for leave. -/
def cmdPlace (c : Cfg) (m : Mach) (n : Option Nat) (o : Origin) (slot : Nat) (op : CmdOp) (q : Cmd) (spot : Option Spot := none) : Mach :=
  let k := n.getD m.pwr.nextWait
  match cmdRun c m k (originRing o) slot op q spot with
  | .done st d out m => cmdDone c { m with pwr := { m.pwr with waitCmds := Tbl.del m.pwr.waitCmds k } } o slot st d out
  | .leave q m => { m with pwr := { m.pwr with waitCmds := Tbl.ins m.pwr.waitCmds k (op, o, slot, q), nextWait := max m.pwr.nextWait (k + 1) } }
  | .later m => m

/-- Commands that wait until the seal checks end, or until no turn is under way (R375, R387). -/
def mustHold (m : Mach) (op : CmdOp) : Bool :=
  m.glb.sealSt == .checking || (writesBank op && m.glb.turn != .idle)

/-- The key a flow command names. -/
def flowKey (op : CmdOp) (q : Cmd) : List Byte :=
  match op with
  | .flowInsert | .flowModify => (recOf q.data).key
  | _ => q.data

/-- A command with nothing in its way: a flow command is admitted to its slice (R113), any other is carried out. -/
def cmdGo (c : Cfg) (m : Mach) (o : Origin) (slot : Nat) (op : CmdOp) (q : Cmd) : Mach :=
  if isFlowOp op then pushJob c m (.host op o slot q) (flowKey op q) else cmdPlace c m none o slot op q

/-- A consumed command is checked (R319, R328, R373) and carried out, or held. -/
def cmdStart (c : Cfg) (m : Mach) (o : Origin) (slot : Nat) (op : CmdOp) (q : Cmd) : Mach :=
  let fail (st : Nat) : Mach := cmdDone c m o slot st 0 []
  let may : Bool := match o with
    | .ring r => permitted m (m.ring r.val).owner op q
    | .core _ => coreOp op
  if op = .reserved && (originRing o).isSome then fail sBAD_OPCODE
  else if !may then fail sNOT_PERMITTED
  else if !inputOk op q || q.outLen.toNat < outputMax op q then fail sBAD_LENGTH
  else if mustHold m op then { m with glb := { m.glb with held := m.glb.held ++ [.cmd op o slot q] } }
  else if isFlowOp op && !m.fsl.ready then fail sBUSY
  else cmdGo c m o slot op q

/-- A held command is carried out once nothing holds it. -/
def cmdResume (c : Cfg) (m : Mach) (op : CmdOp) (o : Origin) (slot : Nat) (q : Cmd) : Mach :=
  if isFlowOp op && !m.fsl.ready then cmdDone c m o slot sBUSY 0 [] else cmdGo c m o slot op q

/-! ### Commands of rings -/

/-- A command descriptor's bytes from byte 8 on (R328). -/
def cmdBody (q : Cmd) (ver : Nat) : List Byte :=
  beBytes 8 q.dataAddr.toNat ++ beBytes 4 q.data.length ++ beBytes 4 q.a0 ++ beBytes 4 q.a1 ++ beBytes 4 q.outLen.toNat ++
    (if ver = 1 then [] else beBytes 8 q.outAddr.toNat ++ beBytes 4 q.arg2.toNat ++ beBytes 4 q.arg3.toNat ++ List.replicate 16 0)

/-- An earlier command of the ring has not been carried out: those behind it wait (R331). -/
def ringWaits (m : Mach) (rid : Nat) : Bool :=
  (m.pwr.waitCmds.any fun e => originRing e.2.2.1 == some rid) ||
    m.glb.held.any fun h => match h with
      | .cmd _ o _ _ => originRing o == some rid
      | .write .. => false

/-- A command is taken from a ring, as its ring's version carries it, with its slot: the first of those whose input the device reads; or else the
first of an active ring whose port makes DMA, prefetched or fetched now, which is consumed with this. -/
def cmdGet (m : Mach) (rid opc : Nat) (q : Cmd) : Option (Cmd × Nat × Mach) :=
  let r := m.ring rid
  let q := atVersion q r.ver
  let same (d : List Byte) : Bool := let x := cmdIn d r.ver; x.1 == opc && x.2.1 == { q with data := [] } && x.2.2 == q.data.length
  let start (m : Mach) : Cmd × Nat × Mach := let (slot, m) := consume m rid (cmdConsumed opc q (cmdBody q r.ver)); (q, slot, m)
  if r.kind ≠ .cmd || ringWaits m rid then none
  else match r.begun with
    | (slot, d) :: rest => if same d then some (q, slot, m.setRing rid { r with begun := rest }) else none
    | [] =>
      if r.state ≠ .active || !m.dmaOk r.owner || r.posted ≤ r.consumed.length then none
      else match r.cache with
        | [] => some (start m)
        | d :: ds => if same d then some (start (m.setRing rid { r with cache := ds })) else none

/-- A command on a ring, with the input its read returned; the device then begins on those behind it. -/
def ringCmd (c : Cfg) (m : Mach) (r : Fin 16384) (opc : Nat) (q : Cmd) : Mach :=
  match cmdGet m r.val opc q with
  | none => m
  | some (q, slot, m) => beginReads (cmdStart c m (.ring r) slot (opOf opc) q) r.val

/-- A data read for a ring returns, or fails (R349): the input of the first command that awaits it, or frame data of a `TXP` ring. -/
def dataReadDone (c : Cfg) (m : Mach) (r : Fin 16384) (x : HostRead) : Mach :=
  let g := m.ring r.val
  if g.kind = .txp then txpData c m r.val (match x with
    | .data b => some b
    | .failed => none)
  else match g.kind, g.begun with
    | .cmd, (slot, d) :: rest =>
      let (opc, q, n) := cmdIn d g.ver
      match x with
      | .data b => if b.length = n then ringCmd c m r opc { q with data := b } else m
      | .failed =>
        if ringWaits m r.val then m
        else complete c (dmaError c (m.setRing r.val { g with begun := rest }) r.val q.dataAddr.toNat) r.val slot ⟨sDMA_ERROR, 0, []⟩
    | _, _ => m

/-! ### Commands of cores (R272) -/

/-- A core's command enters its cluster's queue of 64 entries, under the opcode as it stands there. -/
def coreCmd (c : Cfg) (m : Mach) (core opc : Fin 128) (q : Cmd) : Mach :=
  if (m.tsk.cmds.filter fun e => clusterOf e.core == clusterOf core.val).length ≥ 64 then m
  else if !queueOpenTo m core then m
  else
    let n := m.tsk.nextCmd
    let x := m.core core.val
    let m := m.setCore core.val { x with slots := x.slots.map fun e => (e.1, { e.2 with cmds := e.2.cmds ++ [n] }) }
    let m := { m with tsk := { m.tsk with cmds := m.tsk.cmds ++ [{ n := n, core := core.val, opc := opc, ctx := q.ctx, body := cmdBody q 2 }], nextCmd := n + 1 } }
    cmdStart c (retire c m core 4) (.core core) n (opOf opc) q

/-! ### What waits goes on -/

/-- Waiting commands are tried again, in the order they began to wait (after a grant, a tree, or time). One that writes a shadow bank stays while a turn
is under way (R387). -/
def retryCmds (c : Cfg) (m : Mach) : Mach :=
  m.pwr.waitCmds.foldl (fun (m : Mach) e =>
    match Tbl.find m.pwr.waitCmds e.1 with
    | some (op, o, slot, q) => if writesBank op && m.glb.turn != .idle then m else cmdPlace c m (some e.1) o slot op q
    | none => m) m

/-- A waiting command whose request was refused answers `BUSY` (R433). -/
def refuseCmd (c : Cfg) (m : Mach) (n : Nat) : Mach :=
  match Tbl.find m.pwr.waitCmds n with
  | some (_, o, slot, _) => cmdDone c { m with pwr := { m.pwr with waitCmds := Tbl.del m.pwr.waitCmds n } } o slot sBUSY 0 []
  | none => m

/-- What an operation does to the store, as far as it may have to wait for it. -/
inductive JobKind | insert | delete | other
deriving DecidableEq, Repr

/-- The kind of an operation that finds `hit`. -/
def jobKind (c : Cfg) (m : Mach) (w : Waiter) (hit : Option Rec) : JobKind :=
  let fh := fhOf c m w.key
  match w.job, hit with
  | .host .flowInsert _ _ q, none => if recordOk q.data && entryOurs c m fh then .insert else .other
  | .host .flowDelete _ _ q, some r => if deleteActs c m fh r q then .delete else .other
  | .comp (.ins ..), none => .insert
  | .comp (.del ..), some _ => .delete
  | .undo .., some _ => .delete
  | .msg _ g, none => if g.type = 2 || g.type = 6 then .insert else .other
  | .msg _ g, some _ => if g.type = 3 then .delete else .other
  | .ack g refused, some r => if g.type = 6 && bits g.flags 5 4 ≠ 0 && refused && r.role ≠ 0 then .delete else .other
  | _, _ => .other

/-- Where an admitted operation stands: it waits, because its turn or its path's next move has not come, or it needs a pending entry, the
stash image or a free guard entry (R89, R94, R112, R117), or because its key is guarded (R112); its insert goes on with its placement (R97);
or it takes effect. -/
inductive JobWait | turn | guard | place | run
deriving DecidableEq, Repr

def jobWait (c : Cfg) (m : Mach) (w : Waiter) : JobWait :=
  match w.place with
  | .moves _ (v :: _) => if moveOpen m w.region v then .place else .turn
  | _ =>
    let fh := fhOf c m w.key
    if blockedAt m w.region w.holds w.ord || (tableFull m w.region && !nearby m fh w.key) then .turn
    else
      let hit := (touchKey c m fh w.key).1.map (·.2)
      if hit.isNone && m.imageDue w.region then .turn
      else match jobKind c m w hit with
        | .insert => if m.guarded w.region w.key then .guard else .place
        | .delete => if m.guardFull w.region then .turn else .run
        | .other => .run

/-- An operation whose turn has come is carried out, an insert at the place it has found. -/
def jobRun (c : Cfg) (m : Mach) (w : Waiter) (spot : Option Spot) : Mach :=
  let m := { m with fsl := { m.fsl with jobs := m.fsl.jobs.filter (·.no != w.no) } }
  match w.job with
  | .host op o slot q => cmdPlace c (bump c m .fslCnt (m.phys w.region) cFslHostCmd) none o slot op q spot
  | .comp (.ins fwd comp pool addr port) => compInsert c m spot fwd comp pool addr port
  | .comp (.del key pool addr port) => compDelete c m key pool addr port
  | .undo fwd pool addr port => undoForward c m fwd pool addr port
  | .wb x => wbRun c m w.no x
  | .msg p g => recordMsgRun c m spot p g
  | .mark key => markRun c m key
  | .ack g refused => ackEffect c m g refused

/-- An admitted operation goes on, or waits; a wait for the guard is counted once (R112). -/
def jobTry (c : Cfg) (m : Mach) (w : Waiter) : Mach :=
  if !m.fsl.jobs.contains w then m
  else match jobWait c m w with
    | .run => jobRun c m w none
    | .place => match jobPlace c m w with
      | (some spot, m) => jobRun c m w spot
      | (none, m) => m
    | .guard =>
      if w.counted then m
      else bump c { m with fsl := { m.fsl with jobs := m.fsl.jobs.map fun x => if x = w then { x with counted := true } else x } }
        .fslCnt (m.phys w.region) cFslGuardWait
    | .turn => m

/-- The slices carry out what they can, pipeline requests and the others. -/
def storeGo (c : Cfg) : Nat → Mach → Mach
  | 0, m => settleOps c m
  | n + 1, m => storeGo c n (m.fsl.jobs.foldl (jobTry c) (settleOps c m))

/-- What follows a command's effect elsewhere: the slices go on, rounds begin for a lost record (R311), and so do commands whose leave was
granted. -/
def settle (c : Cfg) (m : Mach) : Mach := retryCmds c (roundsForLoss c (storeGo c (4 * m.fsl.jobs.length + 1) m))

end Sys2Proof.Machine
end

