-- ==== Sys2Proof/Machine/Run.lean ====
section
/-! DEFINITION. How a command's meaning is a step of the device: while `RESET_N` or `PWRGOOD` is low nothing but the pins that end the
reset has an effect (R461). -/
namespace Sys2Proof.Machine

/-- What a step answers. -/
abbrev Outcome := Host.Outcome State Fault Refusal

/-- The state with another machine. -/
def State.withM (s : State) (m : Mach) : State := { s with dev := { s.dev with m := m } }

/-- A command that acts on the machine alone. -/
def State.on (s : State) (f : Cfg → Mach → Mach) : Outcome :=
  .next (if s.dev.m.glb.inReset then s else s.withM (f s.dev.cfg s.dev.m))

/-- A command behind which waiting commands and reconcile rounds may go on. -/
def State.onSettle (s : State) (f : Cfg → Mach → Mach) : Outcome := s.on fun c m => settle c (f c m)

/-- A command that acts on configuration and machine. -/
def State.onDev (s : State) (f : Dev → Dev) : Outcome :=
  .next (if s.dev.m.glb.inReset then s else { s with dev := f s.dev })

end Sys2Proof.Machine
end

