-- ==== Sys2Proof/Machine/CoreRows.lean ====
section
/-! DEFINITION. The rows of the policy cores: their work ports, their command queues, the task scheduler's admissions and outputs (chapter 8).
A core's loads and stores happen while it runs. -/
namespace Sys2Proof.Machine

/-- A core's access to its work port: carried out where the core may make it, after which the instruction retires, unless its store stalls (R259, R266,
R269, R451). -/
def State.onPort (s : State) (core : Nat) (acc : CoreAcc) (off : Nat) (f : Cfg → Mach → Mach) : Outcome := s.on fun c m =>
  if portOpen m core acc off then
    let m := f c m
    if (m.core core).stall.isSome then m else retire c m core 4
  else m

/-- `WORK_GET` (R266). -/
def execWorkGet (core : Fin 128) (s : State) : Outcome := s.onPort core .load 0x000 fun c m => workGet c m core

/-- `WORK_ARM` (R266). -/
def execWorkArm (core : Fin 128) (v : BitVec 64) (s : State) : Outcome := s.onPort core .store 0x008 fun c m => workArm c m core v.toNat

/-- `WORK_DONE_DROP` (R267): `reserved` for the dispositions 4-15. -/
def execWorkDoneDrop (core : Fin 128) (slot : Fin 4) (reserved : Bool) (s : State) : Outcome := s.onPort core .store (0x200 + 8 * slot) fun c m => workDrop c m core slot reserved

/-- `WORK_DONE_INJECT` (R267): `held` is what the buffers hold as the core left them. -/
def execWorkDoneInject (core : Fin 128) (slot : Fin 4) (v : BitVec 60) (held : List Byte) (s : State) : Outcome := s.onPort core .store (0x200 + 8 * slot) fun c m => workInject c m core slot v.toNat held

/-- `WORK_DONE_DELIVER` (R267). -/
def execWorkDoneDeliver (core : Fin 128) (slot : Fin 4) (v : BitVec 60) (held : List Byte) (s : State) : Outcome := s.onPort core .store (0x200 + 8 * slot) fun c m => workDeliver c m core slot v.toNat held

/-- `WORK_DONE_FORWARD` (R267). -/
def execWorkDoneForward (core : Fin 128) (slot : Fin 4) (v : BitVec 60) (s : State) : Outcome := s.onPort core .store (0x200 + 8 * slot) fun c m => workForward c m core slot v.toNat

/-- `WORK_BUF_ALLOC` (R266). -/
def execWorkBufAlloc (core : Fin 128) (s : State) : Outcome := s.onPort core .load 0x300 fun _ m => bufAlloc m core

/-- `WORK_BUF_FREE` (R266). -/
def execWorkBufFree (core : Fin 128) (v : BitVec 64) (s : State) : Outcome := s.onPort core .store 0x308 fun c m => bufFree c m core v.toNat

/-- `WORK_POST_GO` (R266). -/
def execWorkPostGo (core : Fin 128) (staged : List Byte) (held : List Byte) (s : State) : Outcome := s.onPort core .store 0x440 fun c m => postGo c m core staged held

/-- `CLUSTER_CMD_SUBMIT` (R272). -/
def execClusterCmdSubmit (core : Fin 128) (opc : Fin 128) (q : Cmd) (s : State) : Outcome := s.onSettle fun c m => coreCmd c m core opc q

/-- `CORE_STOPPED` (R271). -/
def execCoreStopped (core : Fin 128) (s : State) : Outcome := s.on fun _ m => coreStopped m core

/-- `WORK_ITEM_ADMIT` (R265). -/
def execWorkItemAdmit (src : WorkSrc) (s : State) : Outcome := s.on fun c m => admitFrom c m src

/-- `OUTPUT_RELEASE` (R269). -/
def execOutputRelease (s : State) : Outcome := s.on release

/-- `SVC_TIMEOUT` (R275). -/
def execSvcTimeout (core : Fin 128) (slot : Fin 4) (s : State) : Outcome := s.on fun c m => svcTimeout c m core slot

end Sys2Proof.Machine
end

