-- ==== Sys2Proof/Machine/DuoRows.lean ====
section
/-! DEFINITION. The rows of Duilo (chapter 9): frames, messages, timers and reconcile rounds. A row of a message carries out the first message of
its type that partner `p` sent and that may act now. -/
namespace Sys2Proof.Machine

/-- `SYNC_FRAME_RX` (R279): a `0x88B5` frame, without FCS, on a port whose MAC runs (R372). -/
def execSyncFrameRx (l : Fin 256) (f : List Byte) (s : State) : Outcome := s.on fun c m => if macOn c m l then syncFrameRx c m l f else m

/-- `STEERED_FRAME_RX` (R285): a `0x88B6` frame, without FCS, on a port whose MAC runs (R372). -/
def execSteeredFrameRx (l : Fin 256) (f : List Byte) (uncontrolled : Bool) (s : State) : Outcome :=
  s.on fun c m => if macOn c m l then steeredFrameRx c m l f uncontrolled none (f.length + 4) else m

/-- `HELLO_RX` (R303). -/
def execHelloRx (p : Fin 8) (s : State) : Outcome := s.onSettle fun c m => helloMsgRx c m p

/-- `REC_UPDATE_RX` (R294). -/
def execRecUpdateRx (p : Fin 8) (s : State) : Outcome := s.onSettle fun c m => recordMsg c m p 2

/-- `REC_DELETE_RX` (R294). -/
def execRecDeleteRx (p : Fin 8) (s : State) : Outcome := s.onSettle fun c m => recordMsg c m p 3

/-- `CTR_DELTA_RX` (R297). -/
def execCtrDeltaRx (p : Fin 8) (s : State) : Outcome := s.onSettle fun c m => recordMsg c m p 4

/-- `BULK_RX` (R313). -/
def execBulkRx (p : Fin 8) (s : State) : Outcome := s.onSettle fun c m => recordMsg c m p 6

/-- `ACK_RX` (R291). -/
def execAckRx (p : Fin 8) (s : State) : Outcome := s.onSettle fun c m => ackRx c m p

/-- `RECONCILE_RX` (R311). -/
def execReconcileRx (p : Fin 8) (s : State) : Outcome := s.onSettle fun c m => reconcileRx c m p

/-- `STEER_MSG_RX` (R309). -/
def execSteerMsgRx (p : Fin 8) (s : State) : Outcome := s.on fun c m => steerMsgRx c m p

/-- `HELLO_SEND` (R302). -/
def execHelloSend (p : Fin 8) (s : State) : Outcome := s.on fun c m => helloSend c m p

/-- `SYNC_FRAME_TX` (R290): path 0 the primary, 1 the alternate. -/
def execSyncFrameTx (p : Fin 8) (path : Fin 2) (s : State) : Outcome := s.on fun c m => syncFrameTx c m p path

/-- `ACK_SEND` (R291). -/
def execAckSend (p : Fin 8) (s : State) : Outcome := s.on fun c m => ackSend c m p

/-- `RETX_TIMEOUT` (R291). -/
def execRetxTimeout (p : Fin 8) (s : State) : Outcome := s.on fun c m => retxTimeout c m p

/-- `LEASE_CHECK` (R302). -/
def execLeaseCheck (s : State) : Outcome := s.onSettle leaseCheck

/-- `STRICT_WAIT_EXPIRY` (R295). -/
def execStrictWaitExpiry (p : Fin 8) (s : State) : Outcome := s.on fun c m => strictExpiry c m p

/-- `MIRROR_RETRY` (R296). -/
def execMirrorRetry (region : Fin 16) (s : State) : Outcome := s.on fun c m => mirrorRetry c m region

/-- `DIGEST_PERIOD_EXPIRY` (R311). -/
def execDigestPeriodExpiry (p : Fin 8) (s : State) : Outcome := s.onSettle fun c m => digestPeriod c m p

/-- `STEERING_ENTRY_RESTORE` (R395): requests for the entry are steered by it again. -/
def execSteeringEntryRestore (e : Fin 65536) (s : State) : Outcome :=
  s.on fun _ m => { m with duo := { m.duo with restoring := m.duo.restoring.filter (· != e.val) } }

end Sys2Proof.Machine
end

