-- ==== Sys2Proof/Machine/HostRows.lean ====
section
/-! DEFINITION. The rows of the host ports: doorbells, fetches, frames, interrupts, links and power states (chapter 10). -/
namespace Sys2Proof.Machine

/-- A memory write reaches a port's function: its link is up and it is in D0 (R345). -/
def portTakes (m : Mach) (p : Nat) : Bool := (m.port p).linkUp && !(m.port p).d3

/-- `DOORBELL` (R335): a write of `len` bytes to byte `off` of BAR2. -/
def execDoorbell (p : Fin 4) (off : BitVec 26) (len : Nat) (v : BitVec 64) (s : State) : Outcome := s.on fun c m => if portTakes m p then doorbellWrite c m p off.toNat len v.toNat else m

/-- `DOORBELL_INVAL` (R338): a doorbell with `INVAL` at 1. -/
def execDoorbellInval (p : Fin 4) (r : Fin 16384) (tail : BitVec 16) (s : State) : Outcome := s.on fun c m =>
  if portTakes m p then doorbellWrite c m p (4096 * r.val) 8 (2 ^ 16 + tail.toNat) else m

/-- `DOORBELL_ARM` (R343): a doorbell with `ARM` at 1. -/
def execDoorbellArm (p : Fin 4) (r : Fin 16384) (tail : BitVec 16) (s : State) : Outcome := s.on fun c m =>
  if portTakes m p then doorbellWrite c m p (4096 * r.val) 8 (2 ^ 17 + tail.toNat) else m

/-- `POLL_TAIL_READ` (R337): the tail record read. -/
def execPollTailRead (r : Fin 16384) (v : BitVec 64) (s : State) : Outcome := s.on fun c m => pollTail c m r v.toNat

/-- `DESC_FETCH_DONE` (R338): the descriptors read, or a failed read (R349). -/
def execDescFetchDone (r : Fin 16384) (ds : Option (List (List Byte))) (s : State) : Outcome := s.on fun c m => fetchDone c m r ds

/-- `DATA_READ_DONE` (R349). -/
def execDataReadDone (r : Fin 16384) (x : HostRead) (s : State) : Outcome := s.onSettle fun c m => dataReadDone c m r x

/-- `TXP_FRAME_ADMIT` (R332). -/
def execTxpFrameAdmit (r : Fin 16384) (s : State) : Outcome := s.on fun c m => txpAdmit c m r

/-- `RXP_DELIVER` (R333). -/
def execRxpDeliver (r : Fin 16384) (s : State) : Outcome := s.on fun c m => bufferDeliver c m r

/-- `MOD_TIME_EXPIRY` (R343). -/
def execModTimeExpiry (r : Fin 16384) (s : State) : Outcome := s.on fun c m => modExpiry c m r

/-- `L1_EXIT_START` (R344). -/
def execL1ExitStart (p : Fin 4) (s : State) : Outcome := s.on fun c m => l1Exit c m p

/-- `LINK_L1_ENTRY` (R344): plain L1 (L1.0), L1.1 or L1.2. -/
def execLinkL1Entry (p : Fin 4) (sub : Fin 3) (s : State) : Outcome := s.on fun c m =>
  linkL1 c m p (match sub with | 0 => .l10 | 1 => .l11 | 2 => .l12)

/-- `LINK_L0_RETURN` (R344). -/
def execLinkL0Return (p : Fin 4) (s : State) : Outcome := s.on fun c m => linkL0 c m p

/-- `HOST_LINK_UP` (R320). -/
def execHostLinkUp (p : Fin 4) (s : State) : Outcome := s.on fun c m => linkUp c m p

/-- `HOST_LINK_DOWN` (R348). -/
def execHostLinkDown (p : Fin 4) (s : State) : Outcome := s.onSettle fun c m => linkDown c m p

/-- `HOST_FUNCTION_RESET` (R348): an FLR, or a hot reset where `hot`. -/
def execHostFunctionReset (p : Fin 4) (hot : Bool) (s : State) : Outcome := s.onSettle fun c m => functionReset c m p hot

/-- `PCIE_PERST_ASSERT` (R471): as a hot reset does. -/
def execPciePerstAssert (p : Fin 4) (s : State) : Outcome := s.onSettle fun c m => functionReset c m p true

/-- `HOST_POWER_STATE_CHANGE` (R345): the new power state, Bus Master Enable and `PME_En`, MSI-X Enable and Function Mask; `clear` clears `PME_Status`. -/
def execHostPowerStateChange (p : Fin 4) (d3 bme : Bool) (pme : PmeWrite) (msix : MsixWrite) (s : State) : Outcome :=
  s.onSettle fun c m => powerState c m p d3 bme pme msix

/-- `PRIMARY_MOVE` (R320). -/
def execPrimaryMove (s : State) : Outcome := s.on primaryMove

end Sys2Proof.Machine
end

