-- ==== Sys2Proof/Machine/Faults.lean ====
section
/-! DEFINITION. The fault controller (chapter 13): what a checker's find does to its own block, the processing of a tick's reports, the
reactions to SEVERE and FATAL, injection, acknowledgement, restores, and the `HEALTH` pin; and what a refusal of leave does (R433). -/
namespace Sys2Proof.Machine

/-! ### The `HEALTH` pin (R407, R408) -/

def Mach.class (m : Mach) (k : Nat) : ClassSt := Tbl.look {} m.flt.cls k

def Mach.setClass (m : Mach) (k : Nat) (x : ClassSt) : Mach := { m with flt := { m.flt with cls := Tbl.put {} m.flt.cls k x } }

def anyActive (m : Mach) : Bool := m.flt.cls.any fun e => e.2.active

/-- The pin's mode: 0 start-up, 1 service, 2 test, 3 recovery. -/
def healthMode (c : Cfg) (m : Mach) : Nat :=
  if m.flt.fatal then 3 else if c.on fltHealthCfgTest || m.flt.tapActive then 2 else if m.glb.stage = .sealed then 1 else 0

/-- A class at or above the threshold is active. -/
def healthHeld (c : Cfg) (m : Mach) : Bool := m.flt.cls.any fun e => e.2.active && decide (c.get fltHealthCfgHealthThreshold ≤ e.2.sev)

def setHealth (m : Mach) (v : Bool) : Mach :=
  if m.flt.health = v then m else { m with flt := { m.flt with health := v, edgeAt := m.up } }

/-- Drives the pin: static modes follow the classes, and service mode takes it low for a class at the threshold. -/
def healthDrive (c : Cfg) (m : Mach) : Mach :=
  if healthMode c m = 1 then
    if healthHeld c m && m.flt.lowSince.isNone then
      let m := setHealth m false
      { m with flt := { m.flt with lowSince := some m.up } }
    else m
  else
    let m := setHealth m (!anyActive m)
    { m with flt := { m.flt with lowSince := none } }

/-- A rising edge takes the `HEALTH_PERIOD` in force. -/
def healthRise (c : Cfg) (m : Mach) : Mach :=
  { m with flt := { m.flt with health := true, edgeAt := m.up, period := c.get fltHealthCfgHealthPeriod, lowSince := none } }

/-- Half a period has passed since the last edge. -/
def healthToggle (c : Cfg) (m : Mach) : Mach :=
  if healthMode c m ≠ 1 || m.flt.lowSince.isSome || m.up < m.flt.edgeAt + 5_000 * m.flt.period then m
  else if m.flt.health then setHealth m false else healthRise c m

/-- The minimum low time has passed, and nothing holds the pin low any more. -/
def healthRelease (c : Cfg) (m : Mach) : Mach :=
  match m.flt.lowSince with
  | some t =>
    if healthMode c m = 1 && !healthHeld c m && decide (t + 20_000 * m.flt.period ≤ m.up) then healthRise c m else m
  | none => m

/-! ### Units out of service (R28, R400) -/

/-- A frame in transmission on a port whose MAC stops ends there. -/
def cutTx (c : Cfg) (m : Mach) (l : Nat) : Mach :=
  match Tbl.find m.tmg.tx l with
  | some x => dropQueued c (tsDropped c { m with tmg := { m.tmg with tx := Tbl.del m.tmg.tx l } } x.qid x.fd) x.qid x.fd
  | none => m

/-- The PCS and MAC of a port group stop: frames on the wire end. -/
def stopGroup (c : Cfg) (m : Mach) (g : Nat) : Mach :=
  (List.range 6).foldl (fun (m : Mach) i => cutTx c (tailArrival c m (8 * g + i) true) (8 * g + i)) m

/-- A packet inside a pipeline that is isolated: dropped and counted. -/
def dropInside (c : Cfg) (m : Mach) (k : Pkt) : Mach := dropPkt c (bump c m .tmgCnt (k.pipe / 16) cTmgEnqDrop) k

/-- A pipeline stops: the packets inside it are dropped (R400). -/
def emptyPipe (c : Cfg) (m : Mach) (pipe : Nat) : Mach :=
  let m := (holdsOf m pipe).foldl (fun (m : Mach) e =>
    dropInside c { m with ppl := { m.ppl with hold := Tbl.del m.ppl.hold e.1, gen := Tbl.upd 0 m.ppl.gen e.1 fun g => (g + 1) % 256 } } e.2.pkt) m
  let m := (Tbl.look [] m.ppl.recirc pipe).foldl (dropInside c) { m with ppl := { m.ppl with recirc := Tbl.put [] m.ppl.recirc pipe [] } }
  let waits := (m.ppl.ct.filter fun e => e.2.pkt.pipe == pipe && e.2.place == .wait).map (·.2.pkt)
  waits.foldl (dropInside c) m

def isolatePipe (c : Cfg) (m : Mach) (pipe : Nat) : Mach :=
  if m.flt.pplIso.getLsbD pipe then m
  else stopGroup c (emptyPipe c { m with flt := { m.flt with pplIso := m.flt.pplIso ||| (1 <<< pipe) } } pipe) pipe

def isolateGroup (c : Cfg) (m : Mach) (g : Nat) : Mach :=
  if m.flt.pgIso.getLsbD g then m else stopGroup c { m with flt := { m.flt with pgIso := m.flt.pgIso ||| (1 <<< g) } } g

/-- Port groups held by a link fault (R28). -/
def holdGroups (c : Cfg) (m : Mach) (gs : List Nat) : Mach :=
  gs.foldl (fun (m : Mach) g => stopGroup c { m with flt := { m.flt with pgLink := m.flt.pgLink ||| (1 <<< g) } } g) m

def groupsOfDie (d : Nat) : List Nat := (List.range 16).map (16 * d + ·)

/-- The four port groups on the link of `IO_k` and `PD_d` (R22). -/
def groupsOfLink (k d : Nat) : List Nat := (List.range 4).map (16 * d + 4 * k + ·)

/-! ### Slices, pseudo-channels (R116, R117, R400) -/

/-- The slot a physical slice serves. -/
def slotOf (m : Mach) (i : Nat) : Option Nat := lowest? 16 fun r => m.phys r == i

/-- A slice out of service already. -/
def sliceGone (m : Mach) (i : Nat) : Bool := m.fsl.offline.contains i || (m.fsl.takeover.map (·.failed)) == some i

/-- The slice a SEVERE report isolates. -/
def sliceIn (m : Mach) (cls inst : Nat) : Nat := if cls = 16 then m.phys inst else if cls = 17 then inst else 16

/-- A SEVERE fault of a slice: its slot goes to the spare. DESIGN CHOICE: an unused spare goes out of service, with no takeover
(notes/assumptions/127.md). -/
def isolateSlice (c : Cfg) (m : Mach) (i : Nat) (loses : Bool) : Mach :=
  if sliceGone m i then m
  else match slotOf m i with
    | some slot => settleOps c (takeover c m slot loses)
    | none => { m with fsl := { m.fsl with offline := i :: m.fsl.offline, spareTaken := true, spareAvail := false } }

/-- The repair area of a stack takes a pseudo-channel (R400). -/
def isolateChannel (c : Cfg) (m : Mach) (stack pc : Nat) : Mach :=
  match Tbl.find m.flt.repair stack with
  | some _ => m
  | none =>
    let (_, m) := askLeave c m opCopy stack
    { m with flt := { m.flt with repair := Tbl.ins m.flt.repair stack (pc, false) } }

/-- Lines that the copy could not read are poisoned: records and page descriptors that lie there fail their check from now on (R116, R210). Which lines
lie in a pseudo-channel and which of them fail is open: a free value (notes/assumptions/144.md). -/
def poisonLines (m : Mach) : Mach :=
  let n := m.free
  let m := m.draw
  let m : Mach := { m with fsl := { m.fsl with hbm := m.fsl.hbm.map fun e => (e.1, if Config.lineLost n 0 e.1 then { e.2 with bad := true } else e.2) } }
  { m with tmg := { m.tmg with pages := m.tmg.pages.map fun e =>
      (e.1, if !e.2.l0 && Config.lineLost n 1 e.1 then { e.2 with check := Nat.xor (crc16 e.2.image) 1 } else e.2) } }

/-- The copy of a pseudo-channel completes. -/
def copyDone (c : Cfg) (m : Mach) (stack : Nat) : Mach :=
  match Tbl.find m.flt.repair stack with
  | some (pc, false) =>
    releaseLeave c (poisonLines { m with flt := { m.flt with repair := Tbl.ins m.flt.repair stack (pc, true) } }) opCopy stack
  | _ => m

/-! ### FATAL (R401, R402) -/

/-- Every output is held: frames on the wire end, `PPS_OUT` is low (R372). -/
def holdOutputs (c : Cfg) (m : Mach) : Mach :=
  let m := (List.range 32).foldl (stopGroup c) m
  { m with glb := { m.glb with outputs := false }, tod := { m.tod with ppsOut := false } }

/-- A scheduled commit is abandoned (R389). -/
def abortCommit (m : Mach) : Mach :=
  if m.glb.turn = .scheduled then { m with glb := { m.glb with turn := .idle, turnResult := 5 } } else m

/-- A start-up that stops: the cause stands from its first FATAL report on (R370). -/
def failStart (m : Mach) (cause : Nat) : Mach :=
  match m.glb.stage with
  | .sealed | .failed => m
  | .reset => if m.glb.restarting then { m with glb := { m.glb with stage := .failed, cause := cause, restarting := false } } else m
  | _ => { m with glb := { m.glb with stage := .failed, cause := cause } }

def reactFatal (c : Cfg) (m : Mach) (cls : Nat) : Mach :=
  let m := abortCommit (holdOutputs c m)
  let m := failStart m (if m.glb.cause = 0 then 6 else m.glb.cause)
  { m with flt := { m.flt with fatal := true, resetReq := m.flt.resetReq || cls ≤ 2 || cls == 20 } }

/-! ### Processing (R396-R400) -/

/-- A SEVERE report that is raised to FATAL: a slice with no spare left (R116), a second pseudo-channel of a stack (R400). -/
def noRoomLeft (m : Mach) (cls inst detail : Nat) : Bool :=
  if cls = 16 || cls = 17 || cls = 18 then m.fsl.spareTaken
  else if cls = 20 then ((Tbl.find m.flt.repair inst).map fun e => e.1 != detail).getD false
  else false

/-- Isolates the unit that R394 names for a class. -/
def isolate (c : Cfg) (m : Mach) (cls inst detail arg : Nat) : Mach :=
  if cls = 2 then
    if inst = 0 then m
    else if inst ≤ 2 then (groupsOfDie (inst - 1)).foldl (isolateGroup c) m
    else (groupsOfLink ((inst - 3) / 2) ((inst - 3) % 2)).foldl (isolateGroup c) m
  else if cls = 3 || cls = 4 then isolateGroup c m (16 * (cls - 3) + inst)
  else if cls = 6 || cls = 7 then isolatePipe c m (16 * (cls - 6) + inst)
  else if cls = 8 || cls = 9 then isolatePipe c m (16 * (cls - 8) + inst)
  else if cls = 10 then (groupsOfDie (inst / 4 % 2)).foldl (isolateGroup c) m
  else if cls = 11 then (groupsOfDie (inst % 2)).foldl (isolateGroup c) m
  else if cls = 16 || cls = 17 || cls = 18 then isolateSlice c m (sliceIn m cls inst) (cls != 16 && arg == 1)
  else if cls = 20 then isolateChannel c m inst detail
  else if cls = 24 then
    let core := 8 * inst + detail % 8
    if (m.core core).state = .isolated then m else coreIsolate c m core
  else m

/-- The first-error capture (R398). -/
def latchFirst (m : Mach) (r : Report) (sev : Nat) (esc : Bool) : Mach :=
  let take (m : Mach) : Mach :=
    let m := (((m.setSt fltFirstSrcValid 1).setSt fltFirstSrcSrc r.src).setSt fltFirstSevSev sev).setSt fltFirstSevEscalated (b2n esc)
    (((m.setSt fltFirstTimeLoNs (nsOf r.time)).setSt fltFirstTimeHiSec (secOf r.time % 2 ^ 32)).setSt fltFirstInjInj (b2n r.inj)).setSt
      fltFirstInfoInfo (r.detail % 2 ^ 32)
  if !m.stOn fltFirstSrcValid then take m
  else
    let m := m.setSt fltOverflowOverflow 1
    if m.stOn fltFirstInjInj && !r.inj then take m else m

/-- One report. -/
def processReport (c : Cfg) (m : Mach) (r : Report) : Mach :=
  let cls := r.src / 16
  let inst := r.src % 16
  let m := m.inc32 fltClassCntCount cls
  let acts := !r.inj || r.react
  let k := m.class cls
  let esc := acts && k.unacked && decide (r.sev < 4)
  let sev := if esc then r.sev + 1 else r.sev
  let sev := if acts && sev = 3 && noRoomLeft m cls inst r.detail then 4 else sev
  let m := if acts then
      m.setClass cls { active := true, unacked := true, sev := max k.sev sev, expire := m.up + 1_000_000 * c.get fltQuietTimeQuiet }
    else m
  let m := latchFirst m r sev esc
  let m := if sev = CORRECTED && k.active then m
    else postFault c m { src := r.src, sev := sev, time := r.time, inj := r.inj, esc := esc }
  let m := if !acts then m
    else if sev = SEVERE then isolate c m cls inst r.detail r.arg
    else if sev = FATAL then reactFatal c m cls
    else m
  healthDrive c m

/-- The order of reports: by tick; real before injected; higher severity first; lower source first (R396). -/
def Report.before (a b : Report) : Bool :=
  if a.tick ≠ b.tick then decide (a.tick < b.tick)
  else if a.inj ≠ b.inj then b.inj
  else if a.sev ≠ b.sev then decide (b.sev < a.sev)
  else decide (a.src < b.src)

def Report.place (r : Report) : List Report → List Report
  | [] => [r]
  | x :: xs => if r.before x then r :: x :: xs else x :: Report.place r xs

/-- Takes up every report that has arrived, and drives the pin. -/
def processAll (c : Cfg) (m : Mach) : Mach :=
  let rs := m.flt.waiting.foldl (fun l r => r.place l) []
  healthDrive c (rs.foldl (processReport c) { m with flt := { m.flt with waiting := [] } })

/-! ### What checkers find (R395, R116, R217, R275, R367, R482) -/

/-- The severities a class's checkers report on their own account, by what R28, R116, R217, R275, R367 and R395 lay down. A class whose
reports the model raises itself is not listed. -/
def hazardSevs (cls inst : Nat) : List Nat :=
  match cls with
  | 1 => if inst < 7 then [1] else []
  | 2 => if inst < 11 then [1] else []
  | 3 | 4 => [1, 2]
  | 5 => if inst < 4 then [2] else []
  | 6 | 7 => [2]
  | 8 | 9 => [3]
  | 10 => if inst < 8 then [1, 2] else []
  | 11 => if inst < 2 then [2] else []
  | 13 => if inst < 2 then [1, 2] else []
  | 15 => if inst = 0 then [2] else []
  | 16 => [1, 2]
  | 17 => [1, 3]
  | 18 => if inst = 0 then [1, 3] else []
  | 19 => if inst = 1 then [4] else if inst = 2 || inst = 3 then [2] else []
  | 20 => if inst < 6 then [1, 2] else []
  | 22 => if inst = 0 then [2] else []
  | 24 => [1, 3]
  | 25 => if inst = 0 then [1, 2] else []
  | 26 => if inst = 2 then [2] else []
  | 28 => if inst = 1 then [3] else if inst = 4 then [4] else []
  | 31 => if inst = 0 then [4] else []
  | _ => []

/-- The item whose entry failed in the task scheduler is abandoned, as R271 lays down: the one in a core's slot. -/
def abandonOne (c : Cfg) (m : Mach) (core slot : Nat) : Mach :=
  let x := m.core core
  match Tbl.find x.slots slot with
  | none => m
  | some e =>
    let rest := Tbl.del x.slots slot
    let m := abandonAll c (m.setCore core { x with slots := [(slot, e)] }) core
    let stall := match x.stall with
      | some (.done n _) => if n = slot then none else x.stall
      | st => st
    release c (m.setCore core { m.core core with slots := rest, armed := x.armed, irq := x.irq, stall := stall })

/-- A record's line or slot is lost: a cached line falls back to what HBM holds. -/
def loseLine (c : Cfg) (m : Mach) (region pos : Nat) : Mach :=
  let u := m.phys region
  match m.lineAt u pos with
  | none => m
  | some x =>
    let m := bump c (dropLine m u pos) .fslCnt u cFslLostLine
    if x.dirty then { m with duo := { m.duo with lost := true } } else m

/-- The entry of an allocation pool that fails: the first allocation that waits for it ends, and the ready queue is built anew. The pairs
it held stay marked (notes/assumptions/42.md). -/
def natFault (c : Cfg) (m : Mach) (n : Nat) : Mach :=
  let m := m.setPool n { m.pool n with ready := [] }
  let waits := m.fsl.ops.find? fun o => o.place == .nat && bits (be (progOf m o.req.turn 0 o.req.prog) 0 16) 123 114 == n
  let m := match waits with
    | some o => settleOps c (answer c (bump c { m with fsl := { m.fsl with ops := m.fsl.ops.erase o } } .fstCnt cFstNatExhaust) o.req 2 none)
    | none => m
  natRefill m n

/-- A scheduler node in error: its buckets are empty and its deficits 0. -/
def nodeFault (m : Mach) (k : Nat) : Mach :=
  let empty : Bucket := { last := m.todFrac }
  { m with sch := { m.sch with
      cir := Tbl.ins m.sch.cir k empty, pir := Tbl.ins m.sch.pir k empty
      defN := Tbl.del m.sch.defN k
      defQ := if k < 2 ^ 15 then m.sch.defQ.filter fun e => e.1 / 4 != k else m.sch.defQ } }

/-- A gate-list entry in error: all its gates read open. -/
def gateFault (m : Mach) (l i : Nat) : Mach :=
  let g := m.gate l
  m.setGate l { g with oper := g.oper.zipIdx.map fun e => if e.2 = i then putBits e.1 39 32 0xFF else e.1 }

/-- A record in HBM fails its check from now on. -/
def spoilRec (m : Mach) (region pos : Nat) : Mach :=
  match m.hbmAt region pos with
  | some r => m.storeHbm region pos (some { r with bad := true })
  | none => m

/-- The next load to write entry or byte `n` of memory `k` will meet an error there (R480, notes/assumptions/119.md). -/
def meetWrite (m : Mach) (k n : Nat) : Mach := { m with sec := { m.sec with writeErrs := m.sec.writeErrs ++ [(k, n)] } }

/-- A block's own reaction to what its checker finds (R395). `inst` is the instance; `detail` the detail word of R394; `arg` says what the
detail word does not: of class 3 and 4 the local port, of 6, 7 and 10 which table of the source (of LPM, next hops and ECMP: 0 prefixes, by their places, 1 next hops, 2 groups, 3 members), of 11 the gate-list entry after 1, of 16 whether a
cache line is lost, of 17 and 18 whether the fault affects the write-back path or the tag array, of 19 the pool or collector, of 26 the slot. Nodes are numbered as in the scheduler's tables.
Bit 31 of `arg`, of program and template memory and of HBM, says that the next load to write there meets the error (R480): of HBM bit 26 is the core
slot and bits 25:0 the byte of its image. -/
def ownReaction (c : Cfg) (m : Mach) (cls inst sev detail arg : Nat) : Mach :=
  if sev = CORRECTED then m
  else if cls = 3 || cls = 4 then { m with flt := { m.flt with badFrame := m.flt.badFrame ++ [8 * (16 * (cls - 3) + inst) + arg % 8] } }
  else if cls = 5 then saFail m inst (detail % 4096)
  else if cls = 6 || cls = 7 || cls = 10 then
    let m := if cls = 10 && inst % 4 = 0 && bit arg 31 then meetWrite m (arg % 2) detail else m
    { m with flt := { m.flt with badEntries := m.flt.badEntries ++ [(srcOf cls inst + 1024 * (arg % 2 ^ 31), detail)] } }
  else if cls = 20 && bit arg 31 then meetWrite m (2 + arg / 2 ^ 26 % 2) (arg % 2 ^ 26)
  else if cls = 8 || cls = 9 then isolatePipe c m (16 * (cls - 8) + inst)
  else if cls = 11 then if arg = 0 then nodeFault m detail else gateFault m (128 * inst + detail % 128) (arg - 1)
  else if cls = 13 then loseHeader m detail
  else if cls = 15 then m.putPage detail { m.page detail with check := Nat.xor (crc16 (m.page detail).image) 1 }
  else if cls = 16 then if arg = 1 then loseLine c m inst detail else spoilRec m inst detail
  else if cls = 19 then
    if inst = 2 then natFault c m (arg % 1024)
    else if inst = 3 then
      let x := Tbl.look {} m.fsl.ipfix arg
      bump c { m with fsl := { m.fsl with ipfix := Tbl.put {} m.fsl.ipfix arg { x with recs := [] } } } .fstCnt cFstIpfixDrop (x := x.recs.length)
    else m
  else if cls = 22 then { m with duo := { m.duo with restoring := m.duo.restoring ++ [detail] } }
  else if cls = 24 then coreIsolate c m (8 * inst + detail % 8)
  else if cls = 25 then { m with tsk := { m.tsk with l2Latch := some detail, l2Lost := if m.tsk.l2Lost.contains detail then m.tsk.l2Lost else detail :: m.tsk.l2Lost } }
  else if cls = 26 then abandonOne c m detail arg
  else m

/-- Data found bad in a store whose reader reports it when it meets it: the report follows then (notes/assumptions/43.md). -/
def reportsLater (cls sev arg : Nat) : Bool :=
  sev != CORRECTED && (cls == 6 || cls == 7 || cls == 15 || (cls == 16 && arg != 1))

/-- A report with the word beside it that an isolation may need. -/
def raiseWith (c : Cfg) (m : Mach) (src sev detail arg : Nat) (inj react : Bool) : Mach :=
  sendReport c m { reportOf m src sev detail with inj := inj, react := react, arg := arg }

/-- A checker finds an error. What R394 and R395 do not let it find is nothing. -/
def hazard (c : Cfg) (m : Mach) (h : Hazard) : Mach :=
  let src := h.src.toNat
  let (cls, inst, sev, d, a) := (src / 16, src % 16, h.sev.val, h.detail.toNat, h.arg.toNat)
  if !(hazardSevs cls inst).contains sev then m
  else
    let m := ownReaction c m cls inst sev d a
    if reportsLater cls sev a then m else raiseWith c m src sev d a false false

/-! ### Injection (R403, R482) -/

/-- The kinds of injection a source accepts. -/
def injKinds (cls inst : Nat) : List Nat :=
  match cls with
  | 1 | 2 | 5 | 6 | 7 | 8 | 9 | 11 | 15 | 17 | 18 => [2]
  | 3 | 4 => [0, 1, 2]
  | 10 | 13 | 20 | 24 | 25 => [0, 1]
  | 16 => [1, 2]
  | 19 => if 1 ≤ inst && inst ≤ 3 then [2] else []
  | 22 => if inst = 0 then [2] else []
  | 26 => if inst = 2 then [2] else []
  | _ => []

/-- The severity that the error a kind stands for would have. -/
def injSev (cls inst kind : Nat) : Nat :=
  if kind = 0 then CORRECTED
  else if cls = 1 || cls = 2 then CORRECTED
  else if cls = 8 || cls = 9 || cls = 17 || cls = 18 || cls = 24 then SEVERE
  else if cls = 19 && inst = 1 then FATAL
  else DEGRADED

/-- An injected page-descriptor error that acts: the chain of the page ends before it (R210). -/
def injectPage (c : Cfg) (m : Mach) (p : Nat) : Mach :=
  match m.tmg.queues.find? fun e => e.2.pages.contains p with
  | some e => endChain c m (ownReturn (e.1 / 65536)) e.1 p
  | none => m

/-- The reaction to an injected check that acts, with its one report (R403). What is stored is as it was: an error of a table entry, page or record is met
by that one check, the entry's next read (notes/assumptions/118.md). -/
def injectActs (c : Cfg) (m : Mach) (src sev detail arg : Nat) : Mach :=
  let (cls, inst) := (src / 16, src % 16)
  let own : Mach := raiseWith c (ownReaction c m cls inst sev detail arg) src sev detail arg true true
  let asReported (m' : Mach) : Mach :=
    if m'.flt.waiting.length = m.flt.waiting.length then raiseWith c m src sev detail arg true true
    else { m' with flt := { m'.flt with waiting := m'.flt.waiting.take m.flt.waiting.length ++
      (m'.flt.waiting.drop m.flt.waiting.length).map fun r =>
        if r.src = src && r.detail = (reportOf m src sev detail).detail then { r with inj := true, react := true } else r } }
  if cls = 16 && arg = 0 then asReported (readBucket c (spoilRec m inst detail) inst (detail / 4))
  else if cls = 15 then asReported (injectPage c m detail)
  else if (cls = 6 || cls = 7 || cls = 10) && sev ≠ CORRECTED then
    raiseWith c { m with flt := { m.flt with badOnce := m.flt.badOnce ++ [(src + 1024 * arg, detail)] } } src sev detail arg true true
  else own

/-- One check of the armed source, with what its detail would be. -/
def injectOne (c : Cfg) (m : Mach) (x : BitVec 32 × BitVec 32) : Mach :=
  if !m.stOn fltInjectArmed then m
  else
    let src := m.st fltInjectSrc
    let kind := m.st fltInjectKind
    let react := m.stOn fltInjectReact
    let (cls, inst) := (src / 16, src % 16)
    let sev := injSev cls inst kind
    let arg := if cls = 16 then (if kind = 1 then 1 else 0) else x.2.toNat
    let left := m.flt.injLeft - 1
    let m := { (if left = 0 then m.setSt fltInjectArmed 0 else m) with flt := { m.flt with injLeft := left } }
    if react then injectActs c m src sev x.1.toNat arg else raiseWith c m src sev x.1.toNat arg true false

/-! ### Links (R28) -/

/-- Die-to-die links: 0-6 from `CD` to `PD_0`, `PD_1`, `SD`, `IO_0`-`IO_3`; 7 `PD_0`-`PD_1`; 8, 9 `PD_0` and `PD_1` to `SD`; 10 + 2k + d `IO_k` to
`PD_d`. A retry or retrain that succeeds is CORRECTED. -/
def linkEventRx (c : Cfg) (m : Mach) (link : Fin 18) (module : Nat) (ok : Bool) : Mach :=
  let n := link.val
  if n < 7 then
    if ok then raise c m 1 n CORRECTED
    else raise c { m with flt := { m.flt with cdDown := m.flt.cdDown ||| (1 <<< n) } } 1 n FATAL
  else
    let inst := n - 7
    if ok then raise c m 2 inst CORRECTED module
    else if inst = 0 then raise c { m with flt := { m.flt with pdpdDown := true } } 2 0 SEVERE module
    else if inst ≤ 2 then
      raise c (holdGroups c { m with flt := { m.flt with sdDown := m.flt.sdDown ||| (1 <<< (inst - 1)) } } (groupsOfDie (inst - 1))) 2 inst SEVERE module
    else
      let i := inst - 3
      let was := Tbl.look 0 m.flt.ioModules i
      let now := Nat.lor was (2 ^ (module % 2))
      let m := { m with flt := { m.flt with ioModules := Tbl.put 0 m.flt.ioModules i now } }
      if now = 3 then raise c (holdGroups c m (groupsOfLink (i / 2) (i % 2))) 2 inst SEVERE module
      else raise c m 2 inst DEGRADED module

/-- A frame for the other pipeline die while the link is down: dropped and counted (R28). -/
def crossDrop (c : Cfg) (m : Mach) (die : Nat) : Mach :=
  match m.tmg.xfer.find? fun x => dieOf x.head != die with
  | none => m
  | some x =>
    let m := bump c { m with tmg := { m.tmg with xfer := m.tmg.xfer.erase x } } .tmgCnt (1 - die) cTmgEnqDrop (x := x.targets.length)
    let m := x.targets.foldl (fun m t => tsDropped c m t.1 { x.fd with res := t.2 }) (traceEnd c m x.fd.trace 1 0)
    if x.mcast then sendRelease m (ownXfer (1 - die)) x.head else freeFrame c m (1 - die) (ownXfer (1 - die)) (cellAddr x.head)

/-! ### Acknowledgement, quiet time, restores (R405, R406) -/

/-- A class clears. -/
def clearClass (c : Cfg) (m : Mach) (k : Nat) : Mach :=
  let x := m.class k
  if !x.active || x.sev = 4 then m
  else healthDrive c ((m.setClass k {}).inc32 fltRecoveryCountCount)

def fltAck (c : Cfg) (m : Mach) (k : Nat) (clear : Bool) : Mach :=
  let m := m.setClass k { m.class k with unacked := false }
  if clear then clearClass c m k else m

def quietExpiry (c : Cfg) (m : Mach) (k : Nat) : Mach :=
  if (m.class k).active && decide ((m.class k).expire ≤ m.up) then clearClass c m k else m

/-- The classes that must be clear before a unit is restored. -/
def restoreClasses (kind inst : Nat) : List Nat :=
  match kind with
  | 2 => [16, if inst < 16 then 17 else 18]
  | 3 => [24]
  | k => let d := if k = 4 then inst else inst / 16; [3 + d, 6 + d, 8 + d, 10, 11]

/-- The named unit is isolated, and nothing else holds it. -/
def restorable (m : Mach) (kind inst : Nat) : Bool :=
  match kind with
  | 0 => decide (inst ≤ 31) && m.flt.pplIso.getLsbD inst && !m.flt.pgLink.getLsbD inst
  | 1 => decide (inst ≤ 31) && m.flt.pgIso.getLsbD inst && !m.flt.pgLink.getLsbD inst
  | 2 => decide (inst ≤ 16) && m.fsl.offline.contains inst && !m.fsl.spareAvail && m.fsl.takeover.isNone
  | 3 => decide (inst ≤ 127) && (m.core inst).state == .isolated
  | 4 => decide (inst ≤ 1) && (groupsOfDie inst).all fun g => m.flt.pgIso.getLsbD g && !m.flt.pgLink.getLsbD g
  | _ => false

/-- A write of 1 to `FLT_RESTORE.GO`. -/
def restoreGo (c : Cfg) (m : Mach) (kind inst : Nat) : Mach :=
  if m.st fltRestoreResult = 1 then m
  else if m.flt.fatal || (restoreClasses kind inst).any (fun k => (m.class k).active) || !restorable m kind inst then m.setSt fltRestoreResult 4
  else match askLeave c m opSelfTest 0 with
    | (.refused, m) => m.setSt fltRestoreResult 4
    | (_, m) => { m.setSt fltRestoreResult 1 with flt := { (m.setSt fltRestoreResult 1).flt with restore := some (kind, inst) } }

/-- The class that a unit whose self-test fails reports in (notes/assumptions/44.md). -/
def restoreSrc (kind inst : Nat) : Nat × Nat × Nat :=
  match kind with
  | 0 => (8 + inst / 16, inst % 16, 0)
  | 1 => (3 + inst / 16, inst % 16, 0)
  | 2 => if inst < 16 then (17, inst, 0) else (18, 0, 0)
  | 3 => (24, inst / 8, inst % 8)
  | _ => (10, 4 * inst, 0)

/-- A mask with one bit cleared. -/
def dropBit (v : BitVec 32) (i : Nat) : BitVec 32 := v &&& ~~~(BitVec.ofNat 32 (2 ^ i))

/-- A unit returns to service. -/
def restoreUnit (c : Cfg) (m : Mach) (kind inst : Nat) : Mach :=
  match kind with
  | 0 => { m with flt := { m.flt with pplIso := dropBit m.flt.pplIso inst, pgIso := dropBit m.flt.pgIso inst } }
  | 1 => { m with flt := { m.flt with pgIso := dropBit m.flt.pgIso inst } }
  | 2 => { m with fsl := { m.fsl with offline := m.fsl.offline.filter (· != inst), spare := inst, spareTaken := false, spareAvail := true } }
  | 3 =>
    let m := m.setCore inst { m.core inst with state := .reset, post := 0 }
    if c.on tskCoreCtrlRun inst then coreRunStart c m inst else m
  | _ => (groupsOfDie inst).foldl (fun (m : Mach) g => { m with flt := { m.flt with pgIso := dropBit m.flt.pgIso g } }) m

/-- The self-test of the unit that is being restored ends. -/
def restoreDone (c : Cfg) (m : Mach) (pass : Bool) : Mach :=
  match m.flt.restore with
  | none => m
  | some (kind, inst) =>
    if !m.holdsLeave opSelfTest 0 then m
    else
      let m := releaseLeave c { m with flt := { m.flt with restore := none } } opSelfTest 0
      if pass then restoreUnit c (m.setSt fltRestoreResult 2) kind inst
      else
        let (k, i, d) := restoreSrc kind inst
        raise c (m.setSt fltRestoreResult 3) k i DEGRADED d

/-! ### Leave refused (R433) -/

/-- The number of every `ATTEST` that waits. -/
def attestsWaiting (m : Mach) : List Nat := (m.pwr.waitCmds.filter fun e => e.2.1 = .attest).map (·.1)

/-- What an operation does when its request is refused. -/
def leaveRefused (c : Cfg) (m : Mach) (op unit : Nat) : Mach :=
  if op = opSweep then
    match slotOf m unit with
    | some r => sweepRefused c m r
    | none => m
  else if op = opCellTally then tallyRefused m unit
  else if op = opPageTally then tallyRefused m 2
  else if op = opBulk || op = opQuote then refuseCmd c m unit
  else if op = opTree then (attestsWaiting m).foldl (refuseCmd c) m
  else if op = opDump then { m with pwr := { m.pwr with dumpSlow := m.pwr.dumpSlow ||| BitVec.ofNat 16 (2 ^ unit) } }
  else if op = opSelfTest then { m.setSt fltRestoreResult 4 with flt := { (m.setSt fltRestoreResult 4).flt with restore := none } }
  else m

/-- The trees, and every waiting command, go on with the leave they have. -/
def leaveGoesOn (c : Cfg) (m : Mach) : Mach := settle c (treeAsk c m).2

/-- Requests that no report of their dies goes before any more reach the governor, and then the batches behind them their rings (R40). -/
def upwardGo (c : Cfg) (m : Mach) : Mach :=
  let go (m : Mach) (e : Nat × Nat) : Mach :=
    if reportsWait m (leaveDie e.1 e.2) then { m with pwr := { m.pwr with asks := m.pwr.asks ++ [e] } }
    else match leaveArrive c m e.1 e.2 with
      | (.refused, m) => leaveRefused c m e.1 e.2
      | (_, m) => m
  let l := m.pwr.asks
  let m := l.foldl go { m with pwr := { m.pwr with asks := [] } }
  behindGo c (if l = [] then m else leaveGoesOn c m)

/-- A tick of the fault controller: what the checkers found, the injected checks, and the processing of every report; what waited behind the reports
goes on. -/
def faultTick (c : Cfg) (m : Mach) (hs : List Hazard) (inj : List (BitVec 32 × BitVec 32)) : Mach :=
  upwardGo c (processAll c (inj.foldl (injectOne c) (hs.foldl (hazard c) m)))

/-- An operation asks for leave (R432); one that has asked already does not ask again. -/
def heavyRequest (c : Cfg) (m : Mach) (op unit : Nat) : Mach :=
  if m.holdsLeave op unit || m.waitsLeave op unit then m
  else match askLeave c m op unit with
    | (.refused, m) => leaveRefused c m op unit
    | (_, m) => leaveGoesOn c m

/-- Requests that are no longer considered, or deferred for longer than `DEFER_MAX`, leave the queue (notes/assumptions/120.md). -/
def deferTimeout (c : Cfg) (m : Mach) : Mach :=
  leaveGoesOn c ((leaveLapsed c m).foldl (fun (m : Mach) e =>
    leaveRefused c (pwrReport c (dropLeave m e.1.op e.1.unit) e.1 2 e.2) e.1.op e.1.unit) m)

end Sys2Proof.Machine
end

