-- ==== Sys2Proof/Machine/Views.lean ====
section
/-! DEFINITION. What registers show that the state holds in another form: status fields computed when they are read. Every other field
reads from the table of its part. -/
namespace Sys2Proof.Machine

/-- `GLB_BOOT_STAT.STAGE` (R368). -/
def Stage.num : Stage → Nat
  | .reset => 0 | .rom => 1 | .verify => 2 | .hbmTrain => 3 | .serdesCal => 4 | .waitHost => 5 | .sealed => 6 | .failed => 7

/-- `GLB_SEAL_STATUS.STATE` (R391). -/
def SealSt.num : SealSt → Nat
  | .unsealed => 0 | .checking => 1 | .refused => 2 | .sealed => 3

/-- `GLB_TURN_STAT.STATE` (R391). -/
def TurnSt.num : TurnSt → Nat
  | .idle => 0 | .scheduled => 1 | .draining => 2

def LinkL.num : LinkL → Nat
  | .l0 => 0 | .l10 => 1 | .l11 => 2 | .l12 => 3

def CoreRun.num : CoreRun → Nat
  | .reset => 0 | .running => 1 | .stopping => 2 | .isolated => 3

/-- Big-endian word `n` of a byte string. -/
def wordOf (b : List Byte) (n : Nat) : Nat := be b (4 * n) 4

/-- Four fields of a time: nanoseconds, and seconds in two halves. -/
def secLo (ns : Nat) : Nat := secOf ns % 2 ^ 32
def secHi (ns : Nat) : Nat := secOf ns / 2 ^ 32

/-- `FLT_CLASS_STAT_k.QUIET_LEFT`: ms until the timer expires, rounded up, the largest value where it is more; 0 while the class is clear
(R409, notes/assumptions/45.md). -/
def quietLeft (m : Mach) (k : Nat) : Nat :=
  let x := m.class k
  if x.active then min 65535 (ceilDiv (x.expire - m.up) 1_000_000) else 0

/-- Packets in a pipeline (R73, R75). DESIGN CHOICE: a cut-through frame that waits at enqueue for its tail is neither queued nor parked yet, and counts
here (notes/assumptions/122.md). -/
def inPipe (m : Mach) (p : Nat) : List Pkt :=
  (holdsOf m p).map (·.2.pkt) ++ Tbl.look [] m.ppl.recirc p ++ (m.ppl.ct.filter fun e => e.2.pkt.pipe == p && e.2.place == .wait).map (·.2.pkt)

/-- A pipeline has drained: nothing is in it, and nothing more is admitted. -/
def pipeEmpty (m : Mach) (p : Nat) : Bool := (inPipe m p).isEmpty

/-- A packet in a pipeline, or a frame past the hand-off to enqueue, carries a turn other than the active one (R73). -/
def oldUsers (m : Mach) : Bool :=
  let old (t : BitVec 16) : Bool := t != m.glb.active
  let fd (x : FrameD) : Bool := old x.turn
  (List.range 32).any (fun p => (inPipe m p).any fun k => old k.turn) ||
  m.tmg.queues.any (fun e => e.2.head.any fd || e.2.staging.any fd || e.2.entries.any fun x => fd x.fd) ||
  m.tmg.xfer.any (fun x => fd x.fd) || m.tmg.tx.any (fun e => fd e.2.fd) || m.duo.park.any (fun e => e.2.any fun x => old x.pkt.turn)

/-- The physical slices' sweeps by the region each serves. -/
def sliceSweep (m : Mach) (i : Nat) : Sweep :=
  match slotOf m i with
  | some r => m.sweepOf r
  | none => {}

/-- `FSL_STAT_i.STATE` (R121). -/
def sliceState (m : Mach) (i : Nat) : Nat :=
  if m.fsl.offline.contains i then 3
  else if (m.fsl.takeover.map (·.failed)) == some i then 2
  else if (slotOf m i).isSome then 1 else 0

/-- Computed fields of the blocks on the control die. -/
def viewCd (c : Cfg) (m : Mach) (q : Nat) (r : Reg) (i j : Nat) : List (Fld × Nat) :=
  match r with
  | .glbPartId => [(glbPartIdVariant, if c.fuse.variant = .m then 1 else 2), (glbPartIdMajor, if c.fuse.rev = .a0 then 0 else 1)]
  | .glbCaps => [(glbCapsMacsec, b2n (c.fuse.variant = .m)), (glbCapsL1Wake, b2n (c.fuse.rev = .b0))]
  | .glbBootStat => [(glbBootStatStage, m.glb.stage.num), (glbBootStatCause, m.glb.cause)]
  | .glbSealStatus => [(glbSealStatusState, m.glb.sealSt.num), (glbSealStatusCode, m.glb.sealCode), (glbSealStatusWhere, m.glb.sealWhere)]
  | .glbReadBank => [(glbReadBankActive, b2n (m.reg.readBank.getLsbD q))]
  | .glbTurnStat =>
    [(glbTurnStatState, m.glb.turn.num), (glbTurnStatResult, m.glb.turnResult), (glbTurnStatCode, m.glb.turnCode), (glbTurnStatActive, m.glb.active.toNat)]
  | .glbTurnWhere => [(glbTurnWhereWhere, m.glb.turnWhere)]
  | .fltStat =>
    [(fltStatFatal, b2n m.flt.fatal), (fltStatResetReq, b2n m.flt.resetReq), (fltStatMode, healthMode c m), (fltStatHealth, b2n m.flt.health),
     (fltStatEvtHeld, m.flt.held.length)]
  | .fltClassStat =>
    let x := m.class i
    [(fltClassStatActive, b2n x.active), (fltClassStatUnacked, b2n x.unacked), (fltClassStatSev, x.sev), (fltClassStatQuietLeft, quietLeft m i)]
  | .pwrStat => [(pwrStatBase, pwrBase c m), (pwrStatHeld, m.pipsHeld), (pwrStatQueued, min 63 m.pwr.queue.length)]
  | .pwrThermCfg => [(pwrThermCfgAlertN, b2n !m.pwr.alert), (pwrThermCfgTripN, b2n !m.pwr.trip)]
  | .pwrClkStat => [(pwrClkStatRootLock, b2n !m.glb.rootLost), (pwrClkStatLock, 63 - m.pwr.pllLost.toNat)]
  | .todStat => [(todStatStepPending, b2n m.tod.stepAt.isSome)]
  | .todNowNs => [(todNowNsNs, nsOf (Tbl.look 0 m.reg.todLatch q / 65536))]
  | .todNowFrac => [(todNowFracFrac, Tbl.look 0 m.reg.todLatch q % 65536)]
  | .todNowSecLo => [(todNowSecLoSec, secLo (Tbl.look 0 m.reg.todLatch q / 65536))]
  | .todNowSecHi => [(todNowSecHiSec, secHi (Tbl.look 0 m.reg.todLatch q / 65536))]
  | .hifPrefetchStat => [(hifPrefetchStatUsed, prefetched m)]
  | .hifAdminStat =>
    [(hifAdminStatState, (m.ring i).state.code), (hifAdminStatErr, (m.port i).adminErr), (hifAdminStatHead, (m.ring i).head)]
  | .hifPortStat =>
    let p := m.port i
    [(hifPortStatLinkUp, b2n p.linkUp), (hifPortStatBme, b2n p.bme), (hifPortStatDState, if p.d3 then 3 else 0), (hifPortStatL1, p.link.num),
     (hifPortStatRings, (ringsOf m i).length)]
  | .secStat =>
    [(secStatOwner, b2n m.sec.nv.owner.isSome), (secStatRngOk, b2n m.sec.rngOk), (secStatKeyReady, b2n (keyReady m)), (secStatBootSet, b2n m.glb.loaderB),
     (secStatRevoked, m.sec.nv.revoked.toNat), (secStatMinSvn, m.sec.nv.minSvn)]
  | .secLeafLo => [(secLeafLoNext, m.sec.next)]
  | .secLeafHi => [(secLeafHiNext, m.sec.next / 2 ^ 32)]
  | .secTagWrites => [(secTagWritesCount, m.sec.nv.tagWrites)]
  | .secSerial => [(secSerialId, wordOf (beBytes 16 c.fuse.serial.toNat) i)]
  | .secIdcode => [(secIdcodeId, c.fuse.idcode)]
  | .secLotLo => [(secLotLoId, wordOf (beBytes 8 c.fuse.lot.toNat) 0)]
  | .secLotHi => [(secLotHiId, wordOf (beBytes 8 c.fuse.lot.toNat) 1)]
  | .secMeas => [(secMeasDigest, wordOf (Tbl.look {} m.sec.meas i).digest j)]
  | .secTag => [(secTagTag, wordOf (m.sec.nv.tagBytes (4 * i) 4) 0)]
  | .duoStat =>
    [(duoStatReconciling, b2n ((List.range 8).any fun p => (m.link p).round.isSome)), (duoStatYielding, b2n (yieldAsked c m)),
     (duoStatShadow, ((List.range 8).map fun p => if m.duo.est.any (fun e =>
        (e.2 % 4 == 1 || e.2 % 4 == 2) && partnerEn c p && seHome (m.entry e.1) == partnerDev c p) then 2 ^ p else 0).sum)]
  | .duoPartnerStat =>
    let x := m.link i
    [(duoPartnerStatState, x.state), (duoPartnerStatVer, x.ver), (duoPartnerStatPeerYield, b2n ((x.hello.map (·.yielding)).getD false)),
     (duoPartnerStatReason, x.reason), (duoPartnerStatPass, (x.round.map (·.pass)).getD 0), (duoPartnerStatUnacked, x.unacked)]
  | .duoPartnerBoot => [(duoPartnerBootPeerBoot, (m.link i).upBoot)]
  | .tskStat => [(tskStatItemsFree, 65536 - m.itemsUsed), (tskStatBufFree, m.bufsFree)]
  | .tskHistBin => [(tskHistBinCount, Tbl.look 0 (m.wq (c.get tskHistSelWq)).hist i)]
  | .tskCoreStat => [(tskCoreStatState, (m.core i).state.num), (tskCoreStatItems, (m.core i).slots.length)]
  | .tskWqStat => [(tskWqStatDepth, (m.wq i).items.length), (tskWqStatInflight, m.inflight i)]
  | .pmcCycLo => [(pmcCycLoCyc, m.cycles (bankDomain i))]
  | .pmcCycHi => [(pmcCycHiCyc, m.cycles (bankDomain i) / 2 ^ 32)]
  | _ => []

/-- Computed fields of the other dies' blocks. DESIGN CHOICE: `FSL_STAT.SWEEPING` reads 0 in a rebuild pass (notes/assumptions/99.md). -/
def viewDies (c : Cfg) (m : Mach) (r : Reg) (i j : Nat) : List (Fld × Nat) :=
  match r with
  | .mscBulkCtrl => [(mscBulkCtrlBusy, b2n (m.holdsLeave opRekey i || m.waitsLeave opRekey i))]
  | .mscSaPnHi => if ((saCipher c i j).map isXpn).getD true then [] else [(mscSaPnHiPn, 0)]
  | .mscSaCtrl => [(mscSaCtrlReady, b2n (m.msc.ready.contains (saIdx i j)))]
  | .pplCtrl => [(pplCtrlDrained, b2n (pipeEmpty m i))]
  | .pplTurnStat =>
    [(pplTurnStatActiveTurn, m.glb.active.toNat), (pplTurnStatDraining, b2n (m.glb.turn = .draining)),
     (pplTurnStatOldInflight, ((inPipe m i).filter fun k => k.turn != m.glb.active).length)]
  | .pplHoldStat => [(pplHoldStatOccupancy, (holdsOf m i).length)]
  | .tmgQstat => [(tmgQstatState, b2n (m.queue (i * 65536 + j)).spill), (tmgQstatCells, (m.queue (i * 65536 + j)).cells)]
  | .tmgCellFree => [(tmgCellFreeCount, cellsFree m i)]
  | .tmgCellQueued => [(tmgCellQueuedCount, cellsQueued m i)]
  | .tmgCellInflight => [(tmgCellInflightCount, cellsInflight m i)]
  | .tmgPoolUsed => [(tmgPoolUsedUsed, poolUsed c m i j)]
  | .tmgTallyStat => [(tmgTallyStatRunning, b2n (Tbl.look false m.tmg.tally i))]
  | .schPortCfg => [(schPortCfgTxLat, txLat c (128 * i + j))]
  | .schGateCtrl => [(schGateCtrlPending, b2n (m.gate (128 * i + j)).change.isSome), (schGateCtrlErr, (m.gate (128 * i + j)).err)]
  | .schGateChgNs => [(schGateChgNsChg, nsOf (m.gate (128 * i + j)).shown)]
  | .schGateChgSecLo => [(schGateChgSecLoChg, secLo (m.gate (128 * i + j)).shown)]
  | .schGateChgSecHi => [(schGateChgSecHiChg, secHi (m.gate (128 * i + j)).shown)]
  | .schGateOper =>
    let g := m.gate (128 * i + j)
    [(schGateOperStates, if gatesOn c (128 * i + j) then g.states else 0xFF), (schGateOperIndex, g.index), (schGateOperOperLen, g.oper.length)]
  | .fslCtrl =>
    let x := sliceSweep m i
    [(fslCtrlRebuild, b2n (x.waiting.contains .rebuild)), (fslCtrlSweepNow, b2n (x.waiting.contains .sweep))]
  | .fslStat =>
    let x := sliceSweep m i
    [(fslStatState, sliceState m i), (fslStatSlot, (slotOf m i).getD 0), (fslStatRebuilding, b2n (x.running == some .rebuild)),
     (fslStatSweeping, b2n (x.running.isSome && x.running != some .rebuild))]
  | .fslOcc => [(fslOccStashOcc, ((slotOf m i).map fun r => (Tbl.look [] m.fsl.stash r).length).getD 0), (fslOccLedgerOcc, ((slotOf m i).map fun r => (m.fsl.ledger.filter (·.region == r)).length).getD 0)]
  | .fslCompactCnt => [(fslCompactCntCount, ((slotOf m i).map fun r => ((regionRecs m r).filter fun e => !e.2.wide).length).getD 0)]
  | .fslWideCnt => [(fslWideCntCount, ((slotOf m i).map fun r => ((regionRecs m r).filter fun e => e.2.wide).length).getD 0)]
  | .fstStat =>
    [(fstStatRebuildActive, b2n ((List.range 16).any m.rebuilding)), (fstStatTakeoverSlot, m.fsl.lastSlot), (fstStatTakeoverActive, b2n m.fsl.takeover.isSome),
     (fstStatSpareAvail, b2n m.fsl.spareAvail), (fstStatClearing, b2n m.fsl.clearing), (fstStatReady, b2n m.fsl.ready)]
  | .fstAgeNow => [(fstAgeNowNow, m.fsl.ageNow)]
  | .fslSliceMap => [(fslSliceMapState, Tbl.look 0 m.fsl.mapState i), (fslSliceMapPhys, m.phys i)]
  | .fwdStat => [(fwdStatFdbOcc, fdbOcc m i)]
  | .fwdSubValid => [(fwdSubValidCount, (m.fwd.sub.filter fun e => bit (byteAt e.2 0) 7).length)]
  | .hbmPageFree => [(hbmPageFreeCount, pagesFree m)]
  | _ => []

/-- Every computed field of a register. -/
def viewOf (c : Cfg) (m : Mach) (q : Nat) (r : Reg) (i j : Nat) : List (Fld × Nat) := viewCd c m q r i j ++ viewDies c m r i j

/-- A field as a requester reads it; a T-class field as its bank selection says (R382). WO and W1S fields without a view read 0 (R15). -/
def readFld (c : Cfg) (m : Mach) (q : Nat) (x : Fld) (i j k : Nat) : Nat :=
  match x.part with
  | .turn => if m.reg.readBank.getLsbD q then fldIn c.act x i j k else fldIn c.shadow x i j k
  | .live => if x.acc = .wo then 0 else fldIn c.live x i j k
  | .stat => m.st x i j k
  | .nowhere => 0

/-- A register as a requester reads it. -/
def readReg (c : Cfg) (m : Mach) (q : Nat) (r : Reg) (i j k : Nat) : Word :=
  let view := viewOf c m q r i j
  BitVec.ofNat 32 ((regFields r).foldl (fun a x =>
    let v := match view.find? fun e => decide (e.1 = x) with
      | some e => e.2
      | none => readFld c m q x i j k
    a + v % 2 ^ (x.hi + 1 - x.lo) * 2 ^ x.lo) 0)

end Sys2Proof.Machine
end

