-- ==== Sys2Proof/Machine/SealChecks.lean ====
section
/-! DEFINITION. The checks of a seal and of a turn commit (R376), and those of a port's enable (R468, R469). A T-class field is checked as the
shadow has it, which before the seal is also what is active. -/
namespace Sys2Proof.Machine

/-- The configuration as its shadow would make it. -/
def Cfg.proposed (c : Cfg) : Cfg := { c with act := c.shadow }

/-! ### Ports and lanes (R22, R467, R468) -/

/-- Lanes of a port by its `SPEED` (R467). -/
def lanesOf (s : Nat) : Nat := [1, 1, 1, 1, 2, 4, 8].getD s 8

/-- `FEC` is allowed for `SPEED` (R467). -/
def fecOk (speed fec : Nat) : Bool :=
  match speed with
  | 0 => decide (fec ≤ 1)
  | 1 => decide (fec ≤ 2)
  | _ => fec == 3

def firstLane (c : Cfg) (g p : Nat) : Nat := c.get prtPortCfgFirstLane g p
def laneCount (c : Cfg) (g p : Nat) : Nat := lanesOf (c.get prtPortCfgSpeed g p)

/-- The lanes of its group that a port uses, those past the group left out. -/
def portLanes (c : Cfg) (g p : Nat) : List Nat := (List.range (laneCount c g p)).map (firstLane c g p + ·) |>.filter (· < 8)

def portOn (c : Cfg) (g p : Nat) : Bool := c.on prtPortCfgEn g p

/-- A lane has failed calibration (R371). -/
def laneFailed (m : Mach) (n : Nat) : Bool := bit (m.st glbLaneFailFail (n / 32)) (n % 32)

/-- Every enabled Ethernet port. -/
def portsOn (c : Cfg) : List (Nat × Nat) := (List.range 32).flatMap fun g => (pick 6 (portOn c g)).map fun p => (g, p)

/-- The lowest of some numbers. -/
def least (l : List Nat) : Option Nat := l.foldl (fun a x => match a with | some y => some (min x y) | none => some x) none

/-- `FEC` and `FIRST_LANE` of a port disagree with its `SPEED`. -/
def portFieldsBad (c : Cfg) (g p : Nat) : Bool :=
  firstLane c g p % laneCount c g p != 0 || !fecOk (c.get prtPortCfgSpeed g p) (c.get prtPortCfgFec g p)

/-- Enabled ports of an I/O die (R469). -/
def diePorts (c : Cfg) (k : Nat) : Nat := ((portsOn c).filter fun e => e.1 % 16 / 4 == k).length

/-- The checks of an enable after the seal, in the rules' order (R468, R469): the code of the first that fails. `c` has the port enabled. -/
def portEnableCheck (c : Cfg) (m : Mach) (g p : Nat) : Option Nat :=
  let mine := portLanes c g p
  if firstLane c g p % laneCount c g p ≠ 0 then some 0x06
  else if 8 < firstLane c g p + laneCount c g p then some 0x01
  else if !fecOk (c.get prtPortCfgSpeed g p) (c.get prtPortCfgFec g p) then some 0x06
  else if (List.range 6).any fun o => o != p && portOn c g o && (portLanes c g o).any mine.contains then some 0x01
  else if mine.any fun j => laneFailed m (8 * g + j) then some 0x02
  else if 32 < diePorts c (g % 16 / 4) then some 0x07
  else none

/-- `LANE_OVERLAP`: lanes that two ports claim, and the first lanes of ports that reach past their groups. -/
def laneOverlap (c : Cfg) : Option Nat :=
  least ((List.range 32).flatMap fun g =>
    let on := pick 6 (portOn c g)
    ((pick 8 fun j => 1 < (on.filter fun p => (portLanes c g p).contains j).length) ++
      (on.filter fun p => decide (8 < firstLane c g p + laneCount c g p)).map (firstLane c g)).map (8 * g + ·))

def laneFailure (c : Cfg) (m : Mach) : Option Nat :=
  least ((portsOn c).flatMap fun e => ((portLanes c e.1 e.2).map (8 * e.1 + ·)).filter (laneFailed m))

/-! ### Memory areas (R120, R162, R187, R204, R259, R392) -/

/-- Two areas, as offset and size, overlap. -/
def overlap (a b : Nat × Nat) : Bool := decide (a.1 < b.1 + b.2) && decide (b.1 < a.1 + a.2)

def gib : Nat := 2 ^ 30

/-- The partitions of `HBM_PART_CFG`, in GiB (R392). -/
def partitions (c : Cfg) : List (Nat × Nat) :=
  [(c.get hbmPartCfgFlowBase, 64), (c.get hbmPartCfgDeepBase, 48), (c.get hbmPartCfgCtrBase, 16), (c.get hbmPartCfgTblBase, 16)]

def partitionBad (c : Cfg) : Option Nat :=
  lowest? 4 fun n =>
    let p := (partitions c).getD n (0, 0)
    decide (144 < p.1 + p.2) || (partitions c).zipIdx.any fun e => e.2 != n && overlap p e.1

/-- The size of the table region. -/
def tableRegion : Nat := 16 * gib
def areaSub (c : Cfg) : Nat × Nat := (c.get fwdSubBaseBase * 2 * gib, 2 * gib)
def areaNat (c : Cfg) : Nat × Nat := (c.get fstNatBaseBase * 16, gib)
def areaSave (c : Cfg) : Nat × Nat := (c.get fstSaveBaseHiBase * 2 ^ 32 + c.get fstSaveBaseLoBase * 4096, 2 ^ 23)
def areaPd (c : Cfg) : Nat × Nat := (c.get hbmPageCtrlPdBase * 2 ^ 28, 2 ^ 28)
def areaTsk (c : Cfg) : Nat × Nat := (c.get tskMemBaseBase * gib, gib)

/-! ### Clock domains (R440-R442) -/

/-- The family of a domain, as `PWR_CLK_STAT` numbers them. -/
def domFamily (d : Nat) : Nat :=
  if d < 26 then 0 else if d < 44 then 1 else if d < 50 then 2 else if d < 56 then 3 else if d < 59 then 4 else 5

/-- The domains that can be gated (R441). -/
def gatable (d : Nat) : Bool := decide (d ≤ 15) || (18 ≤ d && d ≤ 42)

/-- A domain holds an enabled block. Blocks without an enable are always enabled. -/
def domainBusy (c : Cfg) (d : Nat) : Bool :=
  if d ≤ 15 then c.on pplCtrlEnable (2 * d) || c.on pplCtrlEnable (2 * d + 1)
  else if 18 ≤ d && d ≤ 21 then (portsOn c).any fun e => e.1 % 16 / 4 == d - 18
  else if 22 ≤ d && d ≤ 25 then (List.range 64).any fun n => c.on mscSecyCfgEn (d - 22) n
  else if 26 ≤ d && d ≤ 42 then c.on fstCtrlEnable
  else true

def clockBad (c : Cfg) (m : Mach) : Option Nat :=
  lowest? 60 fun d => domainBusy c d && (c.gatedDom d || m.pwr.pllLost.getLsbD (domFamily d))

/-! ### Queues and nodes (R186, R201, R211, R221) -/

/-- `WHERE` of a node: its level in bits 19:18. -/
def nodeWhere (level n : Nat) : Nat := level * 2 ^ 18 + n

def defNodeBad (c : Cfg) : Option Nat :=
  lowest? 256 fun l =>
    let s := c.get fwdEgrDefNode 0 l
    let v := subParent c s
    decide (l % 8 < 6) && portOn c (l / 8) (l % 8) && (svcParent c v != l || v / 2048 != s / 16384 || l / 128 != v / 2048)

def cellBudgetBad (c : Cfg) : Option Nat :=
  lowest? 2 fun d =>
    let mins := ((List.range 65536).map fun q => c.get tmgQcfgAMin d q).sum
    let pools := ((List.range 8).map fun n => c.get tmgPoolSize d n).sum
    let lims := ((List.range 16).map fun n => c.get tmgIngLimitIngLimit d n + c.get tmgIngLimitPuntLimit d n).sum
    decide (cellsPerDie < mins + pools + lims)

def expressDeepBad (c : Cfg) : Option Nat :=
  lowest? 131072 fun q => c.on tmgQcfgAExpress (q / 65536) (q % 65536) && c.on tmgQcfgADeep (q / 65536) (q % 65536)

/-- The first enabled subscriber node, then service node, that fails a test. -/
def firstNode (c : Cfg) (sub svc : Nat → Bool) : Option Nat :=
  match lowest? 32768 fun s => subEn c s && sub s with
  | some s => some (nodeWhere 1 s)
  | none => (lowest? 4096 fun v => svcEn c v && svc v).map (nodeWhere 2)

def crossDieBad (c : Cfg) : Option Nat :=
  firstNode c (fun s => subParent c s / 2048 != s / 16384) fun v => svcParent c v / 128 != v / 2048

def parentBad (c : Cfg) : Option Nat :=
  firstNode c (fun s => !svcEn c (subParent c s)) fun v => decide (svcParent c v % 8 < 6) && !portEn c (svcParent c v)

def portLocalBad (c : Cfg) : Option Nat := firstNode c (fun _ => false) fun v => decide (6 ≤ svcParent c v % 8)

/-! ### Duilo (R278, R281) -/

/-- The sync ports of all enabled partners, with the partner of each. -/
def allPaths (c : Cfg) : List (Nat × Nat) := (List.range 8).flatMap fun p => (syncPaths c p).map fun h => (p, h)

def duoPortsBad (c : Cfg) : Option Nat :=
  lowest? 8 fun p => (syncPaths c p).any fun h =>
    let l := pathPort c p h
    decide (6 ≤ l % 8) || !portOn c (l / 8) (l % 8) || ((allPaths c).filter fun e => pathPort c e.1 e.2 == l).length != 1 ||
    queuePort c (pathSync c p h) != l || queuePort c (pathSteer c p h) != l

def partnerIdBad (c : Cfg) : Option Nat :=
  lowest? 8 fun p => partnerEn c p &&
    (partnerDev c p == deviceId c || (List.range 8).any fun o => o != p && partnerEn c o && partnerDev c o == partnerDev c p)

def duoTimersBad (c : Cfg) : Bool :=
  let t := c.get duoTimersLeaseTimeout
  let p := c.get duoTimersLeasePeriod
  decide (t < 3 * p) || !(30 ≤ t && t ≤ 10000) || !(10 ≤ p && p ≤ 1000)

/-- An entry breaks a rule of R281. -/
def steerEntryBad (c : Cfg) (x : Nat) : Bool :=
  let through (p dev : Nat) : Bool := partnerEn c p && partnerDev c p == dev
  !seValid x || (seMEn x && seHome x == seMirror x) ||
  match entRole c x with
  | .home => seMEn x && !through (seMirrorP x) (seMirror x)
  | .mirror => !through (seHomeP x) (seHome x)
  | .neither => !through (seHomeP x) (seHome x) || (seMEn x && !through (seMirrorP x) (seMirror x))

/-! ### MACsec (R50, R358) -/

/-- The logical port a SecY serves (R355). -/
def secyPort (k n : Nat) : Nat := let j := n / 8; 8 * (if j < 4 then 4 * k + j else 16 + 4 * k + (j - 4)) + n % 8

/-- The first SecY or receive SC of a die, in order of dies, that fails a test. -/
def firstSecy (count : Nat) (bad : Nat → Nat → Bool) : Option Nat :=
  (lowest? (4 * count) fun x => bad (x / count) (x % count)).map fun x => nodeWhere (x / count) (x % count)

/-- The enabled receive SCs of a SecY. -/
def rxScs (c : Cfg) (k n : Nat) : List Nat := pick 1024 fun e => c.on mscRxscCfgEn k e && c.get mscRxscCfgSecy k e == n

/-- The enabled SCs of a die that name an SA group. -/
def groupUsers (c : Cfg) (k g : Nat) : Nat :=
  (pick 64 fun n => c.on mscSecyCfgEn k n && c.get mscSecyTxSaGroup k n == g).length +
  (pick 1024 fun e => c.on mscRxscCfgEn k e && c.get mscRxscCfgSaGroup k e == g).length

def saGroupBad (c : Cfg) : Option Nat :=
  match firstSecy 64 fun k n => c.on mscSecyCfgEn k n && decide (1 < groupUsers c k (c.get mscSecyTxSaGroup k n)) with
  | some w => some w
  | none => firstSecy 1024 fun k e => c.on mscRxscCfgEn k e &&
      (decide (1 < groupUsers c k (c.get mscRxscCfgSaGroup k e)) || !c.on mscSecyCfgEn k (c.get mscRxscCfgSecy k e))

/-- The SCI of a receive SC. -/
def rxSci (c : Cfg) (k e : Nat) : Nat := c.get mscRxscSciHiSci k e * 2 ^ 32 + c.get mscRxscSciLoSci k e

def rxScBad (c : Cfg) : Option Nat :=
  firstSecy 64 fun k n =>
    let scs := rxScs c k n
    decide (32 < scs.length) || !(decide ((scs.map (rxSci c k)).Nodup))

/-! ### All the checks -/

/-- One check of R376 on the configuration as proposed: `WHERE` of the instance that fails it. -/
def sealCheck (c : Cfg) (m : Mach) (code : Nat) : Option Nat :=
  let only (b : Bool) : Option Nat := if b then some 0 else none
  let duo (r : Option Nat) : Option Nat := if duoOn c then r else none
  match code with
  | 0x01 => laneOverlap c
  | 0x02 => laneFailure c m
  | 0x03 => partitionBad c
  | 0x04 => clockBad c m
  | 0x05 => least (m.sec.incomplete.map (· % 4))
  | 0x06 => only ((portsOn c).any fun e => portFieldsBad c e.1 e.2)
  | 0x07 => lowest? 4 fun k => decide (32 < diePorts c k)
  | 0x10 => only !m.fsl.ready
  | 0x11 => only (overlap (areaSub c) (areaNat c) || overlap (areaSub c) (areaSave c))
  | 0x12 => only ([areaSub c, areaNat c, areaSave c].any (overlap (areaPd c)))
  | 0x13 => only ([areaSub c, areaNat c, areaSave c, areaPd c].any (overlap (areaTsk c)))
  | 0x14 => defNodeBad c
  | 0x15 => only (decide ((areaNat c).1 % gib ≠ 0) || decide (tableRegion < (areaNat c).1 + gib) || overlap (areaNat c) (areaSave c) ||
      decide (tableRegion < (areaSave c).1 + (areaSave c).2))
  | 0x20 => cellBudgetBad c
  | 0x21 => expressDeepBad c
  | 0x22 => crossDieBad c
  | 0x23 => parentBad c
  | 0x24 => portLocalBad c
  | 0x30 => duo (duoPortsBad c)
  | 0x31 => duo (partnerIdBad c)
  | 0x32 => duo (only !(c.on fstCtrlSwSeed))
  | 0x33 => duo (only (duoTimersBad c))
  | 0x34 => duo (only (c.get duoSyncCfgVersions = 0 || 4 ≤ c.get duoSyncCfgVersions))
  | 0x35 => duo (lowest? 65536 fun e => steerEntryBad c (m.entry e))
  | 0x40 => if c.fuse.variant = .p then firstSecy 64 fun k n => c.on mscSecyCfgEn k n else none
  | 0x41 => firstSecy 64 fun k n =>
      let l := secyPort k n
      c.on mscSecyCfgEn k n && (decide (6 ≤ l % 8) || !portOn c (l / 8) (l % 8))
  | 0x42 => saGroupBad c
  | 0x43 => rxScBad c
  | 0x44 => firstSecy 64 fun k n => isXpn (c.get mscSecyCfgCipher k n) && decide (2 ^ 30 < c.get mscSecyWinReplayWindow k n)
  | 0x45 => lowest? 256 fun l => c.on pplPortCfgCtEn (l / 8) (l % 8) && secyOn c l
  | _ => none

/-- The codes in their order, and those that a commit runs too. -/
def sealCodes : List Nat :=
  [0x01, 0x02, 0x03, 0x04, 0x05, 0x06, 0x07, 0x10, 0x11, 0x12, 0x13, 0x14, 0x15, 0x20, 0x21, 0x22, 0x23, 0x24, 0x30, 0x31, 0x32, 0x33, 0x34, 0x35,
   0x40, 0x41, 0x42, 0x43, 0x44, 0x45]
def commitCodes : List Nat := [0x14, 0x20, 0x21, 0x22, 0x23, 0x24, 0x40, 0x41, 0x42, 0x43, 0x44, 0x45]

/-- The first check that fails: its code and `WHERE`. -/
def firstFailure (c : Cfg) (m : Mach) (codes : List Nat) : Option (Nat × Nat) :=
  codes.findSome? fun k => (sealCheck c.proposed m k).map fun w => (k, w)

end Sys2Proof.Machine
end

