-- ==== Sys2Proof/Machine/Time.lean ====
section
/-! DEFINITION. The time-of-day unit: steps, the PPS input and output, and the tick (R234-R240). -/
namespace Sys2Proof.Machine

/-- One AUX tick of 4 ns: TOD gains 4 × (1 + `TOD_ADJ` × 10^-9) ns (R234). -/
def todTick (c : Cfg) (t : TodSt) : TodSt :=
  let add := ((4_000_000_000 + 4 * toSigned 32 (c.get todAdjAdj)) * 2 ^ 48).toNat + t.rem
  { t with now := t.now + add / 1_000_000_000, rem := add % 1_000_000_000 }

/-- The first microsecond boundary at least 2 µs from now, in TOD ns (R236). -/
def stepTime (m : Mach) : Nat := ceilDiv (m.tod.now + 2000 * 2 ^ 48) (1000 * 2 ^ 48) * 1000

/-- Schedules a step unless one is pending (R236). `tgt` is the new time, otherwise `add` is added; both in 2^-16 ns. -/
def scheduleStep (m : Mach) (tgt : Option Nat) (add : Int) : Mach :=
  if m.tod.stepAt.isSome then m else { m with tod := { m.tod with stepAt := some (stepTime m), stepTo := tgt, stepBy := add } }

/-- `TOD_CTRL.STEP`: the time of the `TOD_SET_*` registers. -/
def todStep (c : Cfg) (m : Mach) : Mach :=
  scheduleStep m (some (((c.get todSetSecHiSec * 2 ^ 32 + c.get todSetSecLoSec) * 1_000_000_000 + c.get todSetNsNs) * 65536 +
    c.get todSetFracFrac)) 0

/-- `TOD_CTRL.OFFSET`. -/
def todOffset (c : Cfg) (m : Mach) : Mach := scheduleStep m none (toSigned 32 (c.get todOffsetOffset) * 65536)

/-- The seconds value whose `PPS_OUT` boundary TOD has last passed (R240). -/
def ppsSecond (c : Cfg) (m : Mach) : Int := ((m.tod.now : Int) - toSigned 16 (c.get todPpsOutCfgOffset) * 2 ^ 48) / (1_000_000_000 * 2 ^ 48)

/-- A scheduled step whose boundary has come. A second it jumps over makes no pulse (R236, R240). -/
def todApply (c : Cfg) (m : Mach) : Mach :=
  match m.tod.stepAt with
  | some t =>
    if t ≤ m.todNs then
      let before := ppsSecond c m
      let now := match m.tod.stepTo with
        | some v => v * 2 ^ 32
        | none => ((m.tod.now : Int) + m.tod.stepBy * 2 ^ 32).toNat
      let m := { m with tod := { m.tod with now := now, stepAt := none, stepTo := none, stepBy := 0 } }
      let after := ppsSecond c m
      if before < after then { m with tod := { m.tod with ppsDone := after.toNat :: m.tod.ppsDone } } else m
    else m
  | none => m

/-- What a correction leaves a replica off by: a free value within 0.4 ns, in 2^-16 ns (R235, notes/assumptions/111.md). -/
def replicaRest (m : Mach) : Int := ((Config.freeValue m.free).toNat % (2 * 26214 + 1) : Nat) - 26214

/-- A die's replica is corrected from the master, from what it was found off by, `skew` in 2^-16 ns: to within 0.4 ns of it; one found more than 2 ns
off is reloaded from it, and reported (R235). The master, on `CD`, is no replica. -/
def replicaCorrect (c : Cfg) (m : Mach) (die : Nat) (skew : Int) : Mach :=
  let at' (m : Mach) (d : Int) : Mach := { m with tod := { m.tod with replica := Tbl.put 0 m.tod.replica die d } }
  if 2 * 65536 < skew.natAbs then at' (raise c m 23 0 DEGRADED die) 0
  else if die = 7 then m
  else at' m.draw (replicaRest m)

/-- The offset of a captured edge in units of 2^-16 ns, reduced around the second (R239). -/
def ppsOffset (c : Cfg) (cap : Nat) : Int :=
  let e : Int := (cap % (1_000_000_000 * 65536) : Nat) - (c.get todPpsCfgPpsDelay * 65536 : Nat)
  if 500_000_000 * 65536 ≤ e then e - 1_000_000_000 * 65536 else e

/-- Align mode's response to an accepted edge. -/
def ppsAlign (c : Cfg) (m : Mach) (cap : Nat) : Mach :=
  let e := ppsOffset c cap
  if e.natAbs ≤ c.get todPpsWindowWindow * 65536 || !m.tod.aligned then
    scheduleStep { m with tod := { m.tod with aligned := true } } none (-e)
  else (m.inc32 todPpsRejectCount).setSt todStatPpsOutside 1

/-- The capture of an accepted edge: registers, count, `PPS_SEEN` and the `PPS` event (R238). -/
def ppsCapture (c : Cfg) (m : Mach) (cap phase : Nat) : Mach :=
  let ns := cap / 65536
  let m := ((m.setSt todPpsCapNsNs (nsOf ns)).setSt todPpsCapFracFrac (cap % 65536)).setSt todPpsCapSecLoSec (secOf ns % 2 ^ 32)
  let m := ((m.setSt todPpsCapSecHiSec (secOf ns / 2 ^ 32)).inc32 todPpsEdgesCount).setSt todStatPpsSeen 1
  let m := { m.setSt todStatPpsMissing 0 with tod := { m.tod with lastEdge := some (4 * m.up + phase), lossRaised := false } }
  if c.on todPpsCfgEvt then
    postEvent c m { type := 8, bodies := [beBytes 6 (secOf ns) ++ beBytes 4 (nsOf ns) ++ beBytes 2 (cap % 65536)] }
  else m

/-- A rising edge on `PPS_IN`, `phase` quarter-nanoseconds after the last tick (R238, R239). In mode 0 it is ignored. -/
def ppsEdge (c : Cfg) (m : Mach) (phase : Nat) : Mach :=
  let mode := c.get todCtrlPpsMode
  if mode = 0 then m
  else
    let glitch := match m.tod.lastEdge with
      | some t => decide (4 * m.up + phase - t < 2_000_000_000)
      | none => false
    if glitch then m.inc32 todPpsGlitchCount
    else
      let cap := m.todFrac + phase * 16384
      let m := ppsCapture c m cap phase
      if mode = 2 then ppsAlign c m cap else m

/-- No edge for 1.5 s: counted from the last accepted edge, or from `RESET_N` (R238). -/
def ppsMissing (c : Cfg) (m : Mach) : Mach :=
  if 6_000_000_000 ≤ 4 * m.up - m.tod.lastEdge.getD 0 then
    let m := m.setSt todStatPpsMissing 1
    if m.tod.lossRaised then m else raise c { m with tod := { m.tod with lossRaised := true } } 23 1 NOTE
  else m

/-- `PPS_OUT` may be driven (R240). -/
def ppsMay (c : Cfg) (m : Mach) : Bool := c.on todCtrlPpsOutEn && m.glb.outputs && !m.flt.fatal

/-- TOD passes a second boundary plus the offset. -/
def ppsRise (c : Cfg) (m : Mach) : Mach :=
  let s := (ppsSecond c m).toNat
  if ppsMay c m && !m.tod.ppsDone.contains s then
    { m with tod := { m.tod with ppsOut := true, ppsEnd := m.up + c.get todPpsOutCfgWidth * 10_000, ppsDone := s :: m.tod.ppsDone } }
  else m

/-- The pulse width has passed. -/
def ppsFall (m : Mach) : Mach := if m.tod.ppsEnd ≤ m.up then { m with tod := { m.tod with ppsOut := false } } else m

/-- The level of `PPS_OUT`. -/
def ppsLevel (c : Cfg) (m : Mach) : Bool := m.tod.ppsOut && ppsMay c m

/-- A TOD latch is taken for a requester (R236). -/
def todLatch (m : Mach) (q : Nat) : Mach := { m with reg := { m.reg with todLatch := Tbl.put 0 m.reg.todLatch q m.todFrac } }

end Sys2Proof.Machine
end

