-- ==== Sys2Proof/Machine/Glb.lean ====
section
/-! DEFINITION. Reset, start-up, seal, turn commits and restart (R368-R390, R416, R461). -/
namespace Sys2Proof.Machine

/-! ### Reset and the board's pins (R461) -/

/-- The configuration at reset; on the variant without MACsec the clocks of its domains are gated (R441). -/
def Cfg.base (f : Fuse) : Cfg :=
  let c : Cfg := { fuse := f }
  if f.variant = .p then c.setLive pwrClkGate0Gate 0x03C0_0000 else c

/-- The device in reset. What is fused, the secure NV store, the TAP, and `THERMTRIP_N` (R466) are not reset; the model's draw counter and
its log of outputs go on. -/
def resetDev (d : Dev) : Dev :=
  let m := d.m
  { cfg := Cfg.base d.cfg.fuse
    m := { glb := { stage := .reset, inReset := true, pwrgood := m.glb.pwrgood, resetN := m.glb.resetN }
           flt := { tapActive := m.flt.tapActive }
           pwr := { trip := m.pwr.trip }
           sec := { nv := m.sec.nv, next := m.sec.nv.reserved.2.2 }
           free := m.free
           out := m.out } }

/-- A `BOOT_ID` is drawn (R289). -/
def drawBootId (m : Mach) : Mach := { m.draw with glb := { m.glb with bootId := (Config.random m.free).setWidth 32 } }

/-- The device leaves reset once both pins are high. -/
def leaveReset (d : Dev) : Dev :=
  let g := d.m.glb
  if g.inReset && g.pwrgood && g.resetN then
    { d with m := drawBootId { d.m with glb := { g with stage := .rom, inReset := false } } }
  else d

/-- `PWRGOOD` changes. A low ends a `THERMTRIP_N` assertion. -/
def pwrgoodIs (d : Dev) (v : Bool) : Dev :=
  let d : Dev := { d with m := { d.m with glb := { d.m.glb with pwrgood := v } } }
  if v then leaveReset d else resetDev { d with m := { d.m with pwr := { d.m.pwr with trip := false } } }

/-- `RESET_N` changes, the filter passed. -/
def resetNIs (d : Dev) (v : Bool) : Dev :=
  let d : Dev := { d with m := { d.m with glb := { d.m.glb with resetN := v } } }
  if v then leaveReset d else resetDev d

/-- The root PLL loses lock: every output is held until `RESET_N` (R442). -/
def rootUnlock (c : Cfg) (m : Mach) : Mach := holdOutputs c { m with glb := { m.glb with rootLost := true } }

/-- A family PLL loses lock (R442). -/
def familyUnlock (c : Cfg) (m : Mach) (k : Nat) : Mach :=
  if m.pwr.pllLost.getLsbD k then m
  else raise c { m with pwr := { m.pwr with pllLost := m.pwr.pllLost ||| BitVec.ofNat 6 (2 ^ k) } } 29 5 FATAL

/-! ### Start-up (R368, R370, R415, R416) -/

def setStage (m : Mach) (s : Stage) : Mach := { m with glb := { m.glb with stage := s } }

/-- A cause stops the start-up: its fault is raised at FATAL (R370). -/
def stopStart (c : Cfg) (m : Mach) (cause cls inst : Nat) : Mach := raise c (failStart m cause) cls inst FATAL

/-- The bundle of a kind that a set's directory names first (R415, R416). `set` is what the flash holds from the set's start on. -/
def inSet (set : List Byte) (kind : Nat) : Option (List Byte) :=
  ((List.range 16).map fun n => slice set (16 * n) 16).findSome? fun e =>
    if byteAt e 0 = kind then some (slice set (be e 4 4) (be e 8 4)) else none

/-- A bundle that verifies as a kind; of a policy bundle, one that is also applied (R417). -/
def verifies (c : Cfg) (m : Mach) (kind : Nat) (b : List Byte) : Bool :=
  bundleCheck c m [kind] b == none && (kind != 8 || policyOk m (bundleOf b))

/-- The copy of a kind that is taken, from the first set or the other, and the machine with the fallback it may take to find it. -/
def takeImage (c : Cfg) (m : Mach) (kind : Nat) (first other : List Byte) : Option (Bundle × Bool) × Mach :=
  let good (s : List Byte) : Option Bundle :=
    match inSet s kind with
    | some b => if verifies c m kind b then some (bundleOf b) else none
    | none => none
  match good first with
  | some x => (some (x, false), m)
  | none =>
    let m' := if (inSet other kind).isSome then raise c m 28 0 DEGRADED else m
    ((good other).map fun x => (x, true), m')

/-- The measurement a boot image of a kind is kept under (R412). -/
def measIndex : Nat → Nat
  | 2 => 1 | 3 => 2 | 4 => 3 | 5 => 4 | _ => 0

/-- The ROM has verified the first-stage loader, or found none (R416). -/
def loaderVerified (c : Cfg) (m : Mach) (setA setB : List Byte) : Mach :=
  if m.glb.stage ≠ .rom then m
  else match takeImage c m 1 setA setB with
    | (some (x, other), m) => setStage (setMeas { m with glb := { m.glb with loaderB := other } } 0 x.meas) .verify
    | (none, m) => stopStart c m 1 0 0

/-- `VERIFY` ends when every image runs and the die links are trained. -/
def verifyEnd (m : Mach) : Mach :=
  if m.glb.stage = .verify && m.glb.images.length == 5 && m.glb.d2dTrained then setStage m .hbmTrain else m

/-- The loader has verified the next kind. `started` says whether a PHY firmware that verified has started (R370). -/
def imageVerified (c : Cfg) (m : Mach) (setA setB : List Byte) (started : Bool) : Mach :=
  if m.glb.stage ≠ .verify then m
  else match [8, 2, 3, 4, 5].find? fun k => !m.glb.images.contains k with
    | none => m
    | some k =>
      let first := if m.glb.loaderB then setB else setA
      let other := if m.glb.loaderB then setA else setB
      let did (m : Mach) : Mach := verifyEnd { m with glb := { m.glb with images := m.glb.images ++ [k] } }
      match takeImage c m k first other with
      | (some (x, _), m) =>
        if k = 8 then did (applyPolicy m x)
        else
          let m := setMeas m (measIndex k) x.meas
          if 4 ≤ k && !started then stopStart c m 4 0 3 else did m
      | (none, m) => if k = 8 then did m else stopStart c m 1 0 0

/-- Training of the die-to-die links ends. -/
def d2dTrained (c : Cfg) (m : Mach) (ok : Bool) : Mach :=
  if m.glb.stage ≠ .verify then m
  else if ok then verifyEnd { m with glb := { m.glb with d2dTrained := true } } else stopStart c m 3 0 2

/-- Training of the six HBM stacks ends. -/
def hbmTrained (c : Cfg) (m : Mach) (ok : Bool) : Mach :=
  if m.glb.stage ≠ .hbmTrain then m else if ok then setStage m .serdesCal else stopStart c m 2 0 1

/-- Calibration ends: each failed lane is marked and reported (R371). -/
def serdesCalibrated (c : Cfg) (m : Mach) (failed : BitVec 256) : Mach :=
  if m.glb.stage ≠ .serdesCal then m
  else
    let m := (List.range 8).foldl (fun (m : Mach) w => m.setSt glbLaneFailFail (failed.toNat / 2 ^ (32 * w) % 2 ^ 32) w) m
    let m := (pick 256 failed.getLsbD).foldl (fun (m : Mach) n => raise c m 0 4 DEGRADED n) m
    setStage m .waitHost

/-- The random source has its first seeding: the key trees are begun (R420, R427). -/
def rngSeeded (c : Cfg) (m : Mach) : Mach :=
  if m.sec.rngSeeded then m else (treeAsk c { m with sec := { m.sec with rngSeeded := true, rngOk := true } }).2

/-- 100 ms without a first seeding (R427). -/
def rngTimeout (c : Cfg) (m : Mach) : Mach :=
  if m.sec.rngSeeded || m.up < 100_000_000 then m else stopStart c m 5 28 2

/-- A reseeding: the health tests passed, or did not (R427). -/
def drbgReseed (c : Cfg) (m : Mach) (ok : Bool) : Mach :=
  if !m.sec.rngSeeded then m
  else
    let m : Mach := { m with sec := { m.sec with rngOk := ok } }
    if ok then m else raise c m 28 2 DEGRADED

/-! ### The refused-write latch (R384) -/

/-- A refused write is latched, or counted. -/
def refuse (m : Mach) (q : Nat) (off cause code : Nat) : Mach :=
  let m := m.setSt glbCfgRefusedCntCount (min (2 ^ 32 - 1) (m.st glbCfgRefusedCntCount + 1))
  if m.stOn glbCfgRefusedCfgWriteRefused then m
  else
    let m := (m.setSt glbCfgRefusedCfgWriteRefused 1).setSt glbCfgRefusedOffset off
    (((m.setSt glbCfgRefusedInfoCause cause).setSt glbCfgRefusedInfoPort (if q < 4 then q else 0)).setSt glbCfgRefusedInfoAgent
      (b2n (q == 4))).setSt glbCfgRefusedInfoCode code

/-! ### The seal (R375-R380) -/

/-- The key written to `GLB_SEAL` (R375, R389). -/
def sealWrite (m : Mach) (q key : Nat) : Mach :=
  if key = 0x5EA1 && m.glb.stage = .waitHost && m.glb.sealSt != .checking && m.glb.sealSt != .sealed then
    { m with glb := { m.glb with sealSt := .checking, sealBy := q } }
  else m

/-- A command placed before the seal has not completed (R375). -/
def earlierWaits (m : Mach) : Bool :=
  !m.pwr.waitCmds.isEmpty || m.hif.rings.any (fun e => e.2.destroyBy.isSome) ||
  m.fsl.jobs.any fun w => match w.job with
    | .host .. => true
    | _ => false

/-- A field the digest covers (R379): S class, T class or RWL. -/
def inDigest (x : Fld) : Bool := x.cls = .s || x.cls = .t || x.acc = .rwl

/-- A register's word in the digest. -/
def digestWord (c : Cfg) (m : Mach) (r : Reg) (i j k : Nat) : Nat :=
  ((regFields r).filter fun x => inDigest x && x.acc != .wo).foldl (fun a x =>
    a + (if x.part = .stat then m.st x i j k else c.get x i j k) % 2 ^ (x.hi + 1 - x.lo) * 2 ^ x.lo) 0

/-- The index triples of a register's instances. -/
def instances (r : Reg) : List (Nat × Nat × Nat) :=
  let n (d : Nat) : List Nat := List.range (((regPlace r).dims.getD d (1, 0)).1)
  (n 0).flatMap fun i => (n 1).flatMap fun j => (n 2).map fun k => (i, j, k)

/-- The registers the digest covers, by offset. -/
def digestRegs (c : Cfg) (m : Mach) : Tbl Nat :=
  (allBlks.flatMap blkRegs).foldl (fun t r =>
    if (regFields r).any inDigest then
      (instances r).foldl (fun t (i, j, k) => Tbl.ins t (regAddr r i j k) (digestWord c m r i j k)) t
    else t) []

/-- The banked tables as the digest takes them (notes/assumptions/46.md). -/
def digestTables (t : TurnTabs) : List Byte :=
  let parse := (List.range 64).flatMap (fun n => beBytes 8 (Tbl.look 0 t.states n)) ++ (List.range 256).flatMap fun n => beBytes 8 (Tbl.look 0 t.trans n)
  let progs := (List.range 4096).flatMap fun n => Tbl.look (List.replicate 272 0) t.progs n
  let tmpls := (List.range 4096).flatMap fun n => Tbl.look (List.replicate 160 0) t.tmpls n
  (List.range 32).flatMap (fun p => parse ++ (List.range 2048).flatMap fun n => Tbl.look emptyRule t.rules (2048 * p + n)) ++
    progs ++ progs ++ tmpls ++ tmpls

/-- The seal digest (R379). -/
def sealDigest (c : Cfg) (m : Mach) : List Byte :=
  shake256 32 ((digestRegs c m).flatMap (fun e => beBytes 4 e.2) ++ digestTables m.act.act)

/-- The seed of `FH` is drawn unless software gives it. -/
def drawSeed (c : Cfg) (m : Mach) : Mach :=
  if c.on fstCtrlSwSeed then m
  else
    let seed := beBytes 8 (Config.random m.free).toNat ++ beBytes 8 (Config.random (m.free + 1)).toNat
    { m.draw.draw with fsl := { m.fsl with seed := seed } }

/-- The outputs start (R380), unless a FATAL report or the root PLL holds them. -/
def startOutputs (c : Cfg) (m : Mach) : Mach :=
  let m : Mach := { m with glb := { m.glb with outputs := !m.flt.fatal && !m.glb.rootLost } }
  let m : Mach := { m with flt := { m.flt with edgeAt := m.up, period := c.get fltHealthCfgHealthPeriod } }
  let m := sealLinks c (healthDrive c m)
  if c.on fstIpfixCfgEn then ipfixTemplates c { m with fsl := { m.fsl with tmplAt := m.up } } else m

/-- Every check has passed (R378). -/
def sealPass (c : Cfg) (m : Mach) : Mach :=
  let m := drawSeed c m
  let digest := sealDigest c m
  let m := (List.range 8).foldl (fun (m : Mach) n => m.setSt glbSealDigestDigest (be digest (4 * n) 4) n) m
  startOutputs c { m with glb := { m.glb with sealSt := .sealed, sealCode := 0, sealWhere := 0, active := 0, stage := .sealed } }

/-- The offset of the first enabled port whose fields disagree (R381). -/
def badPortOff (c : Cfg) : Nat :=
  match (portsOn c).find? fun e => portFieldsBad c e.1 e.2 with
  | some e => regAddr .prtPortCfg e.1 e.2 0
  | none => 0

/-- A check has failed (R377). -/
def sealFail (c : Cfg) (m : Mach) (code at' : Nat) : Mach :=
  let m := if code = 6 then refuse m m.glb.sealBy (badPortOff c) 3 6 else m
  { m with glb := { m.glb with sealSt := .refused, sealCode := code, sealWhere := at' } }

/-- The seal checks end; they have not begun while an earlier command waits. `GLB_SEAL_STATUS` returns to unsealed when a FATAL report has
stopped the start-up meanwhile. -/
def sealChecked (c : Cfg) (m : Mach) : Mach :=
  if m.glb.sealSt ≠ .checking then m
  else if m.glb.stage ≠ .waitHost then { m with glb := { m.glb with sealSt := .unsealed } }
  else if earlierWaits m then m
  else match firstFailure c m sealCodes with
    | some (k, w) => sealFail c m k w
    | none => sealPass c m

/-! ### Turn commits (R73, R385-R388) -/

/-- `GLB_TURN_TIME_*`, in TOD ns. -/
def turnTime (c : Cfg) : Nat := (c.get glbTurnTimeSecHiSec * 2 ^ 32 + c.get glbTurnTimeSecLoSec) * 1_000_000_000 + c.get glbTurnTimeNsNs

def setResult (m : Mach) (n : Nat) : Mach := { m with glb := { m.glb with turnResult := n } }

/-- A write of `GO` (R385). -/
def commitGo (c : Cfg) (m : Mach) : Mach :=
  if m.glb.sealSt ≠ .sealed then setResult m 4
  else if m.glb.turn ≠ .idle then setResult m 1
  else if turnTime c * 2 ^ 48 < m.tod.now + 2000 * 2 ^ 48 then setResult m 2
  else match firstFailure c m commitCodes with
    | some (k, w) => { m with glb := { m.glb with turnResult := 3, turnCode := k, turnWhere := w } }
    | none => { m with glb := { m.glb with turnResult := 0, turn := .scheduled, boundary := turnTime c } }

/-- The active banks and T-class fields are copied into the shadow. -/
def copyBanks (d : Dev) : Dev :=
  { cfg := { d.cfg with shadow := d.cfg.act }
    m := { d.m with act := { d.m.act with shadow := d.m.act.act }, sec := { d.m.sec with shadowProg := Tbl.look {} d.m.sec.meas 5 } } }

/-- A write of `DISCARD` (R388). `RESULT` is the outcome of the last `GO` or `DISCARD`: 0 where it is carried out (DEDUCED, notes/assumptions/117.md). -/
def commitDiscard (d : Dev) : Dev :=
  if d.m.glb.turn = .idle then
    let d := copyBanks d
    { d with m := setResult d.m 0 }
  else { d with m := setResult d.m 1 }

/-- A queue that comes under another port node: its frames pass from the one port's dequeue unit to the other's (R195, notes/assumptions/136.md). -/
def passQueue (c c' : Cfg) (m : Mach) (q : Nat) : Mach :=
  ((m.queue q).head ++ (m.queue q).staging).foldl (fun m fd =>
    if fd.mcast then m else handOver c m (ownDequeue (queuePort c q)) fd.head (ownDequeue (queuePort c' q)) 0) m

/-- The scheduler takes the new tree (R222): frames beneath a disabled node are flushed by the unit that owns them, a node under a new parent loses its
deficit, and so does what has no work left (R225). -/
def newTree (c c' : Cfg) (m : Mach) : Mach :=
  let qs := m.tmg.queues.map (·.1)
  let m := qs.foldl (fun (m : Mach) q =>
    if (chainUp c' q).isNone then flushQueue c m q
    else if queuePort c q = queuePort c' q then m else passQueue c c' m q) m
  let m := (dedup (qs.map (queuePort c'))).foldl (restDeficits c') m
  let stays (n : Nat) : Bool :=
    if n < 2 ^ 15 then subParent c n == subParent c' n else svcParent c (n - 2 ^ 15) == svcParent c' (n - 2 ^ 15)
  { m with sch := { m.sch with defN := Tbl.keep m.sch.defN fun n _ => stays n } }

/-- The boundary (R386, R413). -/
def turnBoundary (d : Dev) : Dev :=
  let m := d.m
  if m.glb.turn = .scheduled && decide (m.glb.boundary ≤ m.todNs) then
    let cfg : Cfg := { d.cfg with old := d.cfg.act, act := d.cfg.shadow }
    let m : Mach := { m with
      glb := { m.glb with turn := .draining, active := m.glb.active + 1 }
      act := { m.act with old := m.act.act, act := m.act.shadow } }
    { cfg := cfg, m := newTree d.cfg cfg (setMeas m 5 m.sec.shadowProg) }
  else d

/-- A step of TOD whose boundary has come, and what it passes: a pending turn switches, pending changes of gate lists take effect, and every list
takes its position (R237). -/
def todStepped (d : Dev) : Dev :=
  let m := todApply d.cfg d.m
  if d.m.tod.stepAt.isSome && m.tod.stepAt.isNone then
    turnBoundary { d with m := m.sch.gates.foldl (fun m e => gateShow (gateChange m e.1) e.1) m }
  else { d with m := m }

/-- The old turn's counts are all zero: the bank copy begins (R73). -/
def turnDrained (m : Mach) : Mach :=
  if m.glb.turn = .draining && !oldUsers m then { m with glb := { m.glb with copying := true } } else m

/-- The bank copy ends (R73, R386). -/
def bankCopied (d : Dev) : Dev :=
  if d.m.glb.copying then
    let d := copyBanks d
    { d with m := { d.m with glb := { d.m.glb with turn := .idle, copying := false } } }
  else d

/-! ### Restart (R390) -/

/-- Held commands are carried out as their rings are destroyed, and complete nowhere (R348); only what the secure NV store keeps outlives them. -/
def finishHeld (c : Cfg) (m : Mach) : Mach :=
  let m : Mach := { m with
    hif := { m.hif with rings := m.hif.rings.map fun e => (e.1, { e.2 with state := .absent, consumed := [], destroyBy := none }) }
    tsk := { m.tsk with cmds := [] } }
  m.glb.held.foldl (fun (m : Mach) x => match x with
    | .cmd op o slot q => cmdResume c m op o slot q
    | .write .. => m) { m with glb := { m.glb with sealSt := .unsealed, turn := .idle, held := [], noCredit := [] } }

/-- What a restart leaves (R390). What lies outside the blocks is kept: see notes/assumptions/47.md. -/
def restarted (d : Dev) : Dev :=
  let m := finishHeld d.cfg (holdOutputs d.cfg d.m)
  let g := m.glb
  let kept : Mach := {
    glb := { stage := .reset, restarting := true, rootLost := g.rootLost, bootId := g.bootId, loaderB := g.loaderB, images := g.images
             d2dTrained := g.d2dTrained }
    reg := { stat := Tbl.keep m.reg.stat fun a _ => decide (regAddr .glbLaneFail 0 0 0 ≤ a) && decide (a ≤ regAddr .glbLaneFail 7 0 0) }
    flt := { tapActive := m.flt.tapActive, pgLink := m.flt.pgLink, ioModules := m.flt.ioModules, pdpdDown := m.flt.pdpdDown
             sdDown := m.flt.sdDown, cdDown := m.flt.cdDown, repair := m.flt.repair, edgeAt := m.up }
    hif := { ports := m.hif.ports.map fun e => (e.1, { e.2 with adminErr := 0 }) }
    tmg := { tallyAt := (List.range 3).map fun u => (u, m.up + tallyPeriod (Cfg.base d.cfg.fuse) u) }
    tod := { now := m.tod.now, rem := m.tod.rem, lastEdge := m.tod.lastEdge }
    pwr := { trip := m.pwr.trip, gated := m.pwr.gated, scrubAt := (List.range 6).map fun u => (u, m.up + scrubInterval) }
    sec := { nv := m.sec.nv, next := m.sec.nv.reserved.2.2, rngOk := m.sec.rngOk, rngSeeded := m.sec.rngSeeded }
    fwd := { fdbDue := (List.range 2).map fun d => (d, m.up + 1_000_000_000) }
    up := m.up
    free := m.free
    out := m.out }
  { cfg := (Cfg.base d.cfg.fuse).setLive todAdjAdj (d.cfg.get todAdjAdj), m := drawBootId kept }

/-- The key written to `GLB_RESTART` by the primary (R390, R402). -/
def restartWrite (d : Dev) (key : Nat) : Dev :=
  if key ≠ 0xC01D then d
  else if d.m.flt.resetReq || d.m.glb.stage.num < 5 || d.m.glb.stage = .failed then { d with m := d.m.setSt fltStatRestartRefused 1 }
  else restarted d

/-- The restart ends: the key trees for the next leaf are begun again (R390, R420). -/
def restartDone (c : Cfg) (m : Mach) : Mach :=
  if m.glb.restarting then
    let m := setStage { m with glb := { m.glb with restarting := false } } .waitHost
    if m.sec.rngSeeded then (treeAsk c m).2 else m
  else m

end Sys2Proof.Machine
end

