-- ==== Sys2Proof/Machine/PipelineRows.lean ====
section
/-! DEFINITION. The rows of the pipelines, the buffers and the schedulers: arrival, parsing, flow responses, recirculation, queues, pages,
learning and gates. -/
namespace Sys2Proof.Machine

/-- `FRAME_ARRIVAL` (R48): a frame with its FCS ends at the MAC of port `l`; `err` a reception error, `more` that only its head is here. -/
def execFrameArrival (l : Fin 256) (f : List Byte) (err more : Bool) (s : State) : Outcome :=
  s.on fun c m =>
    if m.flt.badFrame.contains l.val then
      frameArrival c { m with flt := { m.flt with badFrame := m.flt.badFrame.erase l.val } } l f true more
    else frameArrival c m l f err more

/-- `CT_TAIL_ARRIVAL` (R49). -/
def execCtTailArrival (l : Fin 256) (err : Bool) (s : State) : Outcome := s.on fun c m => tailArrival c m l err

/-- A cycle in which a header may enter a parser: a header that enters at or after the boundary is stamped with the new turn (R72). -/
def atParser (d : Dev) (f : Cfg → Mach → Mach) : Dev :=
  let d := turnBoundary d
  { d with m := f d.cfg d.m }

/-- `PACKET_PARSE` (R47): one cycle of a pipeline's slot arbiter. -/
def execPacketParse (pipe : Fin 32) (s : State) : Outcome := s.onDev fun d => atParser d fun c m => arbiterCycle c m pipe

/-- `FLOW_RESPONSE` (R65). -/
def execFlowResponse (pipe : Fin 32) (idx : Fin 2048) (s : State) : Outcome := s.on fun c m => flowResponse c m pipe idx

/-- `HOLD_TIMEOUT` (R67). -/
def execHoldTimeout (pipe : Fin 32) (idx : Fin 2048) (s : State) : Outcome := s.on fun c m => holdTimeout c m pipe idx

/-- `RECIRC_REENTER` (R71). -/
def execRecircReenter (pipe : Fin 32) (s : State) : Outcome := s.onDev fun d => atParser d fun c m => recircReenter c m pipe

/-- `PUNT_TRANSFER` (R264). -/
def execPuntTransfer (pipe : Fin 32) (s : State) : Outcome := s.on fun c m => puntTransfer c m pipe

/-- `HOST_DMA_RETRY` (R193). -/
def execHostDmaRetry (pipe : Fin 32) (s : State) : Outcome := s.on fun c m => hostRetry c m pipe

/-- `CROSS_DIE_ARRIVAL` (R30): a frame crosses to die `die`, unless the link is down (R28). -/
def execCrossDieArrival (die : Fin 2) (s : State) : Outcome := s.on fun c m => if m.flt.pdpdDown then crossDrop c m die else crossDie c m die

/-- `PARK_RELEASE` (R295). -/
def execParkRelease (s : State) : Outcome := s.on parkRelease

/-- `DEQUEUE_SELECT` (R224). -/
def execDequeueSelect (l : Fin 256) (s : State) : Outcome := s.on fun c m => dequeueSelect c m l

/-- `FRAME_TX_DONE` (R195). -/
def execFrameTxDone (l : Fin 256) (s : State) : Outcome := s.on fun c m => txDone c m l

/-- `MCAST_RELEASE` (R198). -/
def execMcastRelease (die : Fin 2) (s : State) : Outcome := s.on fun c m => takeRelease c m die

/-- `SPILL_WRITE` (R207). -/
def execSpillWrite (die : Fin 2) (s : State) : Outcome := s.on fun c m => spillWrite c m die

/-- `PAGE_RETURN` (R208). -/
def execPageReturn (q : Fin 131072) (s : State) : Outcome := s.on fun c m => pageReturn c m q

/-- `PAGE_QUEUE_REFILL` (R202). -/
def execPageQueueRefill (k : Fin 8) (s : State) : Outcome := s.on fun _ m => refillPages m k

/-- `LEARN_PROCESS` (R174). -/
def execLearnProcess (die : Fin 2) (s : State) : Outcome := s.on fun c m => learnOne c m die

/-- `FDB_AGE_TICK` (R176). -/
def execFdbAgeTick (die : Fin 2) (s : State) : Outcome := s.on fun c m => fdbTick c m die

/-- `LATENCY_SAMPLE_WALK` (R249). -/
def execLatencySampleWalk (die : Fin 2) (s : State) : Outcome := s.on fun c m => sampleWalk c m die

/-- `GATE_CHANGE_TIME` (R246). -/
def execGateChangeTime (l : Fin 256) (s : State) : Outcome := s.on fun _ m => gateChange m l

/-- `GATE_INTERVAL_EXPIRY` (R245): the states in force are shown. -/
def execGateIntervalExpiry (l : Fin 256) (s : State) : Outcome := s.on fun _ m => gateShow m l

/-- `GATE_CYCLE_START` (R245). -/
def execGateCycleStart (l : Fin 256) (s : State) : Outcome := s.on fun _ m => gateShow m l

/-- `TRACE_BATCH_FLUSH` (R452): the 10 µs of a source's batch have passed; 0-31 the pipelines, 32-47 the core clusters. -/
def execTraceBatchFlush (src : Fin 48) (s : State) : Outcome := s.on fun c m => traceExpiry c m src

end Sys2Proof.Machine
end

