-- ==== Sys2Proof/Machine/RegWrite.lean ====
section
/-! DEFINITION. The BAR0 path: who may access, what a read returns, when a write is refused, and what a write sets off (R9-R17, R39, R319-R321,
R382, R384, R479). -/
namespace Sys2Proof.Machine

/-! ### Who may access (R42, R319-R321, R369, R370, R401) -/

/-- The blocks that answer in every stage, and those that answer a failed start-up. -/
def Blk.early : Blk → Bool
  | .glb | .flt | .hif | .sec => true
  | _ => false

def Blk.failedToo (b : Blk) : Bool := b.early && b != .hif

/-- A test of the block an offset lies in; an offset in no window passes. -/
def inBlk (off : Nat) (f : Blk → Bool) : Bool :=
  match blkOf off with
  | some b => f b
  | none => true

/-- A port's own block, its MSI-X table within it (R317). -/
def ownBlock (p off : Nat) : Bool := decide (0x41_0000 + p * 0x1_0000 ≤ off) && decide (off < 0x42_0000 + p * 0x1_0000)

/-- The registers that only the primary writes (R320, R390). -/
def primaryOnly (off : Nat) : Bool := off == regAddr .hifPortRole 0 0 0 || off == regAddr .glbRestart 0 0 0

/-- The device refuses an access of requester `q` (R321). The device agent has no role, and the stages bind host ports alone
(notes/assumptions/48.md). -/
def denied (m : Mach) (q off : Nat) (write : Bool) : Bool :=
  if q = 4 then write && primaryOnly off
  else
    let role := m.role q
    (if write then role == 0 || (role != 1 && !ownBlock q off) || (primaryOnly off && q != m.primary)
     else role == 0 && !(off == regAddr .glbPartId 0 0 0 || off == regAddr .glbCaps 0 0 0 || off == regAddr .hifPortRole 0 0 0)) ||
    (decide (m.glb.stage.num < 5) && !inBlk off Blk.early) || (m.glb.stage = .failed && !inBlk off Blk.failedToo) ||
    (write && m.flt.fatal && !inBlk off Blk.early)

/-- A refused access of a host port is counted, and the first is latched. -/
def countDenied (c : Cfg) (m : Mach) (q off : Nat) (write : Bool) : Mach :=
  if q = 4 then m
  else
    let m := bump c m .hifCnt q cHifDeny
    if m.stOn hifDeniedValid q then m
    else ((m.setSt hifDeniedValid 1 q).setSt hifDeniedWrite (b2n write) q).setSt hifDeniedOffset off q

/-- The die whose link an access to an offset takes from `CD`, as its bit of the links that are down: `PD_0`, `PD_1`, `SD`, `IO_0`-`IO_3`
(R42). The forwarding window's third part is the state die's. -/
def dieAt (off : Nat) : Option Nat :=
  match blkOf off with
  | some b =>
    let n := (off - (blkWindow b).1) / (pmcRow b).stride
    if b.die n = 7 then none else some (b.die n)
  | none => none

/-- A die that an access cannot reach (R28). -/
def unreachable (m : Mach) (off : Nat) : Bool := ((dieAt off).map m.flt.cdDown.getLsbD).getD false

/-! ### Reads (R10, R13, R382) -/

/-- A read of an `_LO` half sets the requester's latch, which the next read of an `_HI` half by that requester returns (R10). -/
def setLatch (m : Mach) (q : Nat) (v : Word) : Mach := { m with reg := { m.reg with hiLatch := Tbl.put 0 m.reg.hiLatch q v } }

/-- `MSC` is absent on the variant without MACsec: its window reads 0 and ignores writes (R2). -/
def absentBlock (c : Cfg) (off : Nat) : Bool := c.fuse.variant = .p && blkOf off == some .msc

/-- What reading a register's own RC fields clears. -/
def clearOnRead (c : Cfg) (m : Mach) (x : Loc) : Mach :=
  match x.reg with
  | .tskHistBin =>
    let w := m.wq (c.get tskHistSelWq)
    m.setWq (c.get tskHistSelWq) { w with hist := Tbl.put 0 w.hist x.i 0 }
  | .pplHoldStat => m.setSt pplHoldStatHighWater 0 x.i
  | _ => m

/-- What a read of a register's instance returns to a requester, and what it does. -/
def readLoc (c : Cfg) (m : Mach) (q : Nat) (x : Loc) : Word × Mach :=
  if isCounter x.reg then
    if x.hi then (Tbl.look 0 m.reg.hiLatch q, m)
    else
      let v := m.ctr x.reg x.i x.j x.k
      (BitVec.ofNat 32 v, setLatch m q (BitVec.ofNat 32 (v / 2 ^ 32)))
  else if (loOf x.reg).isSome then (Tbl.look 0 m.reg.hiLatch q, m)
  else
    let m := if x.reg = .todNowNs then todLatch m q else m
    let v := readReg c m q x.reg x.i x.j x.k
    match hiOf x.reg with
    | some h => (v, setLatch m q (readReg c m q h x.i x.j x.k))
    | none => (v, clearOnRead c m x)

/-- A BAR0 read that is no aligned 32-bit access (R9). -/
def refusedRead (m : Mach) (q : Requester) (off : Nat) : Mach := m.emit (.regRead q off 0xFFFF_FFFF)

/-- A BAR0 read of 32 bits (R9, R10, R321). -/
def regRead (c : Cfg) (m : Mach) (q : Requester) (off : Nat) : Mach :=
  let n := reqNum q
  let answer (r : Word × Mach) : Mach := r.2.emit (.regRead q off r.1)
  if off % 4 ≠ 0 then refusedRead m q off
  else if denied m n off false then answer (0xFFFF_FFFF, countDenied c m n off false)
  else if unreachable m off then answer (0xFFFF_FFFF, m)
  else if absentBlock c off then answer (0, m)
  else match locate off with
    | some x => answer (readLoc c m n x)
    | none => answer (0, m)

/-! ### What a write writes (R10, R12, R13) -/

/-- A register's instance and the word written to it. -/
structure Half where
  reg : Reg
  i : Nat
  j : Nat
  k : Nat
  w : Nat
  deriving DecidableEq, Repr

def Half.off (h : Half) : Nat := regAddr h.reg h.i h.j h.k

/-- A field as software last wrote it: the shadow's value of a T-class field. -/
def softVal (c : Cfg) (m : Mach) (x : Fld) (i j k : Nat) : Nat :=
  match x.part with
  | .turn => fldIn c.shadow x i j k
  | .live => fldIn c.live x i j k
  | .stat => m.st x i j k
  | .nowhere => 0

/-- A field of a written word. -/
def Half.val (h : Half) (x : Fld) : Nat := bits h.w x.hi x.lo

/-- A field of the register as it stands. -/
def Half.was (c : Cfg) (m : Mach) (h : Half) (x : Fld) : Nat := softVal c m x h.i h.j h.k

/-- A write turns a one-bit field on, or off. -/
def Half.sets (c : Cfg) (m : Mach) (h : Half) (x : Fld) : Bool := h.val x == 1 && h.was c m x == 0
def Half.clears (c : Cfg) (m : Mach) (h : Half) (x : Fld) : Bool := h.val x == 0 && h.was c m x == 1

/-- Bits that a write cannot change, without refusal: the primary's own role (R320), the disposition of codes that have none (R69), the
clock gates of the absent MACsec (R441). -/
def Half.eff (c : Cfg) (m : Mach) (h : Half) : Half :=
  match h.reg with
  | .hifPortRole =>
    let p := m.primary
    { h with w := putBits h.w (2 * p + 1) (2 * p) (bits (m.st hifPortRoleRoles) (2 * p + 1) (2 * p)) }
  | .pplReason => if (reasonRow h.j).2.isNone then { h with w := putBits h.w 31 30 (h.was c m pplReasonDisp) } else h
  | .pwrClkGate0 => if c.fuse.variant = .p then { h with w := putBits h.w 25 22 0xF } else h
  | _ => h

/-- The halves of a write at a register's instance: with an `_HI` half goes the `_LO` half that is held. -/
def halves (c : Cfg) (m : Mach) (x : Loc) (v : Word) : List Half :=
  let hi : Half := Half.eff c m ⟨x.reg, x.i, x.j, x.k, v.toNat⟩
  match loOf x.reg with
  | some lo =>
    match Tbl.find m.reg.loHeld (regAddr lo x.i x.j x.k) with
    | some w => [Half.eff c m ⟨lo, x.i, x.j, x.k, w.toNat⟩, hi]
    | none => [hi]
  | none => [hi]

/-- A field's value is none of the encodings its table reserves. -/
def chkOk (x : Fld) (v : Nat) : Bool :=
  match x.chk with
  | .any => true
  | .range lo hi => decide (lo ≤ v) && decide (v ≤ hi)
  | .nonzero => v != 0
  | .signed n => decide ((toSigned (x.hi + 1 - x.lo) v).natAbs ≤ n)
  | .align4 => v % 4 == 0

/-- A field that a write gives a value. -/
def Fld.settable (x : Fld) : Bool :=
  match x.acc with
  | .rw | .rwl | .wo => true
  | _ => false

/-- A write changes a field; one that holds nothing is always written. -/
def Half.changes (c : Cfg) (m : Mach) (h : Half) (x : Fld) : Bool := x.settable && (decide (x.part = .nowhere) || h.val x != h.was c m x)

/-- Writes a table's fields of one part. -/
def storePart (p : Part) (t : Tbl Word) (hs : List Half) : Tbl Word :=
  hs.foldl (fun t h => ((regFields h.reg).filter fun x => x.settable && decide (x.part = p)).foldl (fun t x =>
    putFld t x h.i h.j h.k (h.val x)) t) t

/-- The forwarding's egress maps are held by both pipeline dies: a write to one reaches both (R186). -/
def mirrorHalves (hs : List Half) : List Half :=
  hs.flatMap fun h => if h.reg = .fwdEgr then [{ h with i := 0 }, { h with i := 1 }] else [h]

/-- The configuration a write leaves: T-class fields in the shadow, and until the seal in the active bank too (R373). -/
def storeCfg (c : Cfg) (sealed : Bool) (hs : List Half) : Cfg :=
  let hs := mirrorHalves hs
  { c with
    live := storePart .live c.live hs
    shadow := storePart .turn c.shadow hs
    act := if sealed then c.act else storePart .turn c.act hs }

/-! ### Refusals (R12, R16, R387, R479) -/

/-- Counters a bank's block numbers for `EVENT` (R445). -/
def eventCounters : Blk → Nat
  | .pwr => 4 | .hif => 11 | .pmu => 2 | .msc => 3 | .tmg => 13 | .sch => 4 | .fsl => 20 | .fst => 8 | .fwd => 8 | .duo => 17 | .tsk => 11
  | .hbm => 7 | _ => 0

def eventOk (bank ev : Nat) : Bool :=
  (1 ≤ ev && ev ≤ 6) ||
  match pmcBlk bank with
  | some b => (0x10 ≤ ev && decide (ev < 0x10 + eventCounters b)) || (b == .ppl && 0x40 ≤ ev && ev ≤ 0x7F)
  | none => false

/-- A non-zero PIR below the CIR (R229). -/
def pirBelow (cir pir : Nat) : Bool := pir != 0 && decide (pir < cir)

/-- A write breaks a bound that a rule sets beyond a field's own table (R12). `c'` is the configuration it would leave. -/
def boundBroken (c c' : Cfg) (m : Mach) (h : Half) : Bool :=
  let now (x : Fld) : Nat := c'.shadowOf x h.i h.j h.k
  match h.reg with
  | .pplPortCfg => 6 ≤ h.j && now pplPortCfgCtEn == 1
  | .fwdLport => 6 ≤ h.j % 8 && now fwdLportLearn == 1
  | .schPortCfg => 6 ≤ h.j % 8 && now schPortCfgEn == 1
  | .pplPortDefHi => now pplPortDefHiKeyMode == 3 || now pplPortDefHiKeyLevel == 3
  | .pplPortDefLo => !clsResultOk (now pplPortDefLoExc * 2 ^ 17 + now pplPortDefLoReason * 2 ^ 10)
  | .pplReason => (reasonRow h.j).2.isSome && !((reasonRow h.j).1.map Disp.num).contains (h.val pplReasonDisp)
  | .tmgQcfgA | .tmgQcfgB => c'.shadowOf tmgQcfgADeep h.i h.j == 1 && c'.shadowOf tmgQcfgBSpillThresh h.i h.j == 0
  | .schSubCir | .schSubPir => pirBelow (c'.get schSubCirRate h.i h.j) (c'.get schSubPirRate h.i h.j)
  | .schSvcCir | .schSvcPir => pirBelow (c'.get schSvcCirRate h.i h.j) (c'.get schSvcPirRate h.i h.j)
  | .pwrClkGate0 => (List.range 32).any fun d => bit h.w d && !gatable d && !bit (h.was c m pwrClkGate0Gate) d
  | .pwrClkGate1 => (List.range 28).any fun d => bit h.w d && !gatable (32 + d) && !bit (h.was c m pwrClkGate1Gate) d
  | .tskPuntRoute => now tskPuntRouteToRing == 0 && 4096 ≤ now tskPuntRouteTarget
  | .pmuTracePpl => now pmuTracePplMode == 0 && now pmuTracePplN == 0
  | .pmcCntCfg => (h.j == 0 && now pmcCntCfgChain == 1) || !eventOk h.i (now pmcCntCfgEvent)
  | .fltInject =>
    h.val fltInjectArmed == 1 && !(injKinds (h.val fltInjectSrc / 16) (h.val fltInjectSrc % 16)).contains (h.val fltInjectKind)
  | .glbTurnCommit => h.val glbTurnCommitGo == 1 && h.val glbTurnCommitDiscard == 1
  | .hifPortRole =>
    let p := h.val hifPortRolePrimary
    p != m.primary && bits (h.val hifPortRoleRoles) (2 * p + 1) (2 * p) != 1
  | _ => false

/-- The owning block of an S-class field is enabled, the write's own clearing of its enable taken first (R16). -/
def ownerOn (c : Cfg) (m : Mach) (h : Half) : Bool :=
  match h.reg with
  | .pwrClkGate0 => (List.range 32).any fun d => bit h.w d && !bit (h.was c m pwrClkGate0Gate) d && domainBusy c d
  | .pwrClkGate1 => (List.range 28).any fun d => bit h.w d && !bit (h.was c m pwrClkGate1Gate) d && domainBusy c (32 + d)
  | .hifAdminBaseLo | .hifAdminBaseHi => m.stOn hifAdminCfgEn h.i
  | .hifAdminCfg => m.stOn hifAdminCfgEn h.i && h.val hifAdminCfgEn == 1
  | .prtPortCfg => portOn c h.i h.j && h.val prtPortCfgEn == 1
  | .mscSaSsci | .mscSaPnLo | .mscSaPnHi | .mscSaKey | .mscSaSalt => c.on mscSaCtrlInUse h.i h.j
  | .fstAgeCfg | .fstSeed | .fstSaveBaseLo | .fstSaveBaseHi => c.on fstCtrlEnable
  | .tskGroupCfg => (List.range 128).any fun n => c.get tskCoreCtrlGroup n == h.i && (m.core n).state != .reset
  | .tskCoreCtrl => (m.core h.i).state != .reset
  | .tskWqCfg =>
    (c.on tskWqCfgEn h.i && h.val tskWqCfgEn == 1) || !(m.wq h.i).items.isEmpty || decide (0 < m.inflight h.i)
  | _ => false

/-- The causes of one half, in their order: 1, 2, 0, 4 (R479). A reserved encoding is refused even where the field holds it (R12); only the
S-class and RWL causes spare a value that does not change (R16). -/
def causeIn (c c' : Cfg) (m : Mach) (cause : Nat) (h : Half) : Bool :=
  let fs := (regFields h.reg).filter (h.changes c m)
  let sealed := m.glb.sealSt == .sealed
  match cause with
  | 1 => (regFields h.reg).any (fun x => x.settable && !chkOk x (h.val x)) || boundBroken c c' m h
  | 2 => sealed && fs.any fun x => x.acc = .rwl
  | 0 => sealed && fs.any (fun x => x.cls = .s && x.acc != .rwl) && ownerOn c m h
  | _ => m.glb.turn != .idle && (regFields h.reg).any fun x => x.cls = .t

/-- Why a write is refused: the cause and the half. -/
def refusal (c c' : Cfg) (m : Mach) (hs : List Half) : Option (Nat × Half) :=
  [1, 2, 0, 4].findSome? fun k => (hs.find? (causeIn c c' m k)).map fun h => (k, h)

/-! ### What a write sets off -/

/-- The W1C bits of a write are cleared; what the device sets in the same clock is set behind it and stands (R13, R15). -/
def clearStat (m : Mach) (h : Half) : Mach :=
  (regFields h.reg).foldl (fun (m : Mach) x =>
    if x.part = .stat && x.acc = .w1c then
      m.setSt x (Nat.xor (m.st x h.i h.j h.k) (Nat.land (m.st x h.i h.j h.k) (h.val x))) h.i h.j h.k
    else m) m

/-- A write of a bank counter: what it held before stays for a dump of the same clock (R446). -/
def noteWrote (m : Mach) (h : Half) : Mach :=
  if h.reg = .pmcCntHi && !(Tbl.find m.reg.pmcWrote (h.i * 8 + h.j)).any (·.1 = m.up) then
    { m with reg := { m.reg with pmcWrote := Tbl.ins m.reg.pmcWrote (h.i * 8 + h.j) (m.up, m.pmcValue h.i h.j) } }
  else m

/-- The RW fields that the device holds with its status are written (R13). -/
def storeStat (m : Mach) (q : Nat) (h : Half) : Mach :=
  (regFields h.reg).foldl (fun (m : Mach) x =>
    if x = glbReadBankActive then
      { m with reg := { m.reg with readBank := (m.reg.readBank &&& ~~~(BitVec.ofNat 5 (2 ^ q))) ||| BitVec.ofNat 5 (h.val x * 2 ^ q) } }
    else if x.part ≠ .stat then m
    else match x.acc with
      | .rw | .rwl => m.setSt x (h.val x) h.i h.j h.k
      | _ => m) m

/-- The first-error capture is cleared and armed again (R398). -/
def firstClear (m : Mach) : Mach :=
  ([fltFirstSrcValid, fltFirstSrcSrc, fltFirstSevEscalated, fltFirstSevSev, fltFirstTimeLoNs, fltFirstTimeHiSec, fltFirstInjInj, fltFirstInfoInfo]).foldl
    (fun (m : Mach) x => m.setSt x 0) m

/-- A dump set's `EN` is written: its first latch is due, or it stops and its leave ends (R433, R447). -/
def dumpEnable (c : Cfg) (m : Mach) (s : Nat) (en : Bool) : Mach :=
  let m := if en then m else releaseLeave c (dropLeave m opDump s) opDump s
  let at' := Tbl.del m.pwr.dumpAt s
  { m with pwr := { m.pwr with
      dumpSlow := m.pwr.dumpSlow &&& ~~~(BitVec.ofNat 16 (2 ^ s))
      dumpAt := if en then Tbl.ins at' s (m.up + (stepTime m - m.todNs)) else at' } }

/-- A port's enable after the seal: its checks, then its MAC and PCS (R381, R468). -/
def portEnable (d : Dev) (q g p : Nat) : Dev :=
  if d.m.glb.sealSt ≠ .sealed then d
  else match portEnableCheck d.cfg d.m g p with
    | some code => { cfg := d.cfg.setLive prtPortCfgEn 0 g p, m := refuse d.m q (regAddr .prtPortCfg g p 0) 3 code }
    | none => d

/-- A slice is asked for a pass; one that serves no slot drops the request (R121). -/
def sliceWant (c : Cfg) (m : Mach) (i : Nat) (k : SweepKind) : Mach :=
  match slotOf m i with
  | some r => sweepWant c m r k
  | none => m

/-- The effect of a write beyond the values it leaves. `c` and `m₀` are configuration and machine before it. -/
def writeHook (c : Cfg) (m₀ : Mach) (q : Nat) (h : Half) (d : Dev) : Dev :=
  let m := d.m
  let c' := d.cfg
  let on (x : Fld) : Bool := h.val x == 1
  let sets (x : Fld) : Bool := h.sets c m₀ x
  let clears (x : Fld) : Bool := h.clears c m₀ x
  let mk (m : Mach) : Dev := { d with m := m }
  let rate (n : Node) (a b : Option Nat) : Dev := mk (rateWrite c c' m n a b)
  match h.reg with
  | .glbSeal => mk (sealWrite m q (h.val glbSealKey))
  | .glbRestart => restartWrite d (h.val glbRestartKey)
  | .glbTurnCommit => if on glbTurnCommitGo then mk (commitGo c' m) else if on glbTurnCommitDiscard then commitDiscard d else d
  | .fltFirstSrc => if on fltFirstSrcValid then mk (firstClear m) else d
  | .fltAck => mk (fltAck c' m (h.val fltAckClass) (on fltAckClear))
  | .fltInject => mk { m with flt := { m.flt with injLeft := if on fltInjectArmed then h.val fltInjectCount else 0 } }
  | .fltRestore => if on fltRestoreGo then mk (restoreGo c' m (h.val fltRestoreKind) (h.val fltRestoreInstance)) else d
  | .fltHealthCfg => mk (healthDrive c' m)
  | .pwrOp => mk (if clears pwrOpEn then deferTimeout c' m else m)
  | .tmgTallyCfg => mk (if sets tmgTallyCfgEn then tallyOn c' m h.i else m)
  | .hbmPageCtrl => mk (if sets hbmPageCtrlTallyEn then tallyOn c' m 2 else m)
  | .todCtrl =>
    let m := if on todCtrlStep then todStep c' m else m
    let m := if on todCtrlOffset then todOffset c' m else m
    mk (if h.val todCtrlPpsMode = h.was c m₀ todCtrlPpsMode then m else { m with tod := { m.tod with aligned := false } })
  | .hifPortRole => mk (roleChanged c' m)
  | .hifAdminCfg =>
    mk (if sets hifAdminCfgEn then adminEnable c' m h.i else if clears hifAdminCfgEn then ringDestroy c' m h.i none else m)
  | .hifEvtRoute => mk (drainEvents c' (m.flt.held.length + (m.ring (h.val hifEvtRouteRing)).heldEvts.length + 1) m (h.val hifEvtRouteRing))
  | .hifMsixCtrl => mk (sendPending c' m h.i h.j)
  | .pmuDumpCfg => mk (dumpEnable c' m h.i (on pmuDumpCfgEn))
  | .prtPortCfg =>
    if sets prtPortCfgEn then portEnable d q h.i h.j
    else if clears prtPortCfgEn then mk (cutTx c' m (8 * h.i + h.j)) else d
  | .mscSaCtrl => mk (if clears mscSaCtrlInUse then setReady m h.i h.j false else if sets mscSaCtrlInUse then saInstalled m h.i h.j else m)
  | .mscBulkCtrl => mk (if on mscBulkCtrlGo then bulkGo c' m h.i else m)
  | .pplReason => mk (puntAccrue c c' m h.i h.j)
  | .pplCtrl =>
    let m := if on pplCtrlDrain then m.setSt pplCtrlDrain 1 h.i else m
    mk (if sets pplCtrlEnable then m.setSt pplCtrlDrain 0 h.i else m)
  | .schSubCir => rate (.sub (16384 * h.i + h.j)) (some (h.val schSubCirRst)) none
  | .schSubPir => rate (.sub (16384 * h.i + h.j)) none (some (h.val schSubPirRst))
  | .schSubBurst => rate (.sub (16384 * h.i + h.j)) (some (h.val schSubBurstRst)) (some (h.val schSubBurstRst))
  | .schSvcCir => rate (.svc (2048 * h.i + h.j)) (some (h.val schSvcCirRst)) none
  | .schSvcPir => rate (.svc (2048 * h.i + h.j)) none (some (h.val schSvcPirRst))
  | .schSvcBurst => rate (.svc (2048 * h.i + h.j)) (some (h.val schSvcBurstRst)) (some (h.val schSvcBurstRst))
  | .schPortPir => rate (.port (128 * h.i + h.j)) none (some (h.val schPortPirRst))
  | .schPortBurst => rate (.port (128 * h.i + h.j)) (some (h.val schPortBurstRst)) (some (h.val schPortBurstRst))
  | .schGateCtrl =>
    let l := 128 * h.i + h.j
    let m := if h.val schGateCtrlGateEn = 0 then gateCancel m l else m
    mk (if on schGateCtrlConfigChange then gateConfigChange c' m l else m)
  | .schSampleCfg => mk (if sets schSampleCfgEn then sampleOn c' m h.i else m)
  | .fslCtrl =>
    let m := if on fslCtrlRebuild then sliceWant c' m h.i .rebuild else m
    mk (if on fslCtrlSweepNow then sliceWant c' m h.i .sweep else m)
  | .fstCtrl => mk (if sets fstCtrlEnable then storeOn m else if clears fstCtrlEnable then storeOff m else m)
  | .fstGuardCfg =>
    mk (if h.was c m₀ fstGuardCfgStashRetry = 0 then { m with fsl := { m.fsl with
        retryAt := (List.range 16).map fun r => (r, m.up + 1000 * h.val fstGuardCfgStashRetry) } } else m)
  | .fstTakeover => mk (if on fstTakeoverGo then takeoverGo c' m else m)
  | .fstIpfixCfg => mk (if sets fstIpfixCfgEn then ipfixTemplates c' { m with fsl := { m.fsl with tmplAt := m.up } } else m)
  | .duoCtrl =>
    let m := if sets duoCtrlYield then leaseCheck c' m else m
    mk (if on duoCtrlDigestNow then roundsFrom c' m (fun _ => true) else m)
  | .duoYieldMask => mk (leaseCheck c' m)
  | .tskCoreCtrl =>
    mk (if on tskCoreCtrlReset then coreReset c' m h.i
      else if sets tskCoreCtrlRun then notifyReady c' (coreRunStart c' m h.i)
      else if clears tskCoreCtrlRun then coreStopped (coreRunStop m h.i) h.i else m)
  | .tskCtrl | .tskWqCfg | .tskWqLimit => mk (notifyReady c' m)
  | _ => d

/-- The banks of the instances a write reaches show it (R445). -/
def countWrite (c : Cfg) (m : Mach) (hs : List Half) : Mach :=
  hs.foldl (fun (m : Mach) h => match bankOf h.off with | some b => pmcEvent c m b 0x04 1 | none => m) m

/-- A write takes effect, or is refused whole (R479). An `_LO` half waits for its `_HI` half, which uses it up. -/
def applyWrite (d : Dev) (q off : Nat) (v : Word) : Dev :=
  if absentBlock d.cfg off || unreachable d.m off then d
  else match locate off with
    | none => d
    | some x =>
      if isCounter x.reg then d
      else if (hiOf x.reg).isSome && (regFields x.reg).any (·.settable) then
        { d with m := { d.m with reg := { d.m.reg with loHeld := Tbl.ins d.m.reg.loHeld off v } } }
      else
        let c := d.cfg
        let hs := halves c d.m x v
        let m : Mach := match loOf x.reg with
          | some lo => { d.m with reg := { d.m.reg with loHeld := Tbl.del d.m.reg.loHeld (regAddr lo x.i x.j x.k) } }
          | none => d.m
        let c' := storeCfg c (m.glb.sealSt == .sealed) hs
        match refusal c c' m hs with
        | some (cause, h) => { d with m := refuse m q h.off cause 0 }
        | none =>
          let m' := hs.foldl (fun (m : Mach) h => storeStat (noteWrote m h) q h) (countWrite c (hs.foldl clearStat m) hs)
          hs.foldl (fun (d : Dev) h => writeHook c m q h d) { cfg := c', m := m' }

/-- While the seal checks run, a write waits in order (R375); a restart does not (R389). -/
def waitsForSeal (m : Mach) (off : Nat) : Bool :=
  m.glb.sealSt == .checking && off != regAddr .glbRestart 0 0 0 && off != regAddr .glbSeal 0 0 0

/-- What the device does when a command has changed more than itself. -/
def settleDev (d : Dev) : Dev := { d with m := settle d.cfg d.m }

/-- How many writes are held. -/
def heldWrites (m : Mach) : Nat := (m.glb.held.filter fun x => match x with
  | .write .. => true
  | .cmd .. => false).length

/-- A write is held, or where 1,024 are, waits at its port for posted-write credit (R375). -/
def holdWrite (m : Mach) (x : HeldOp) : Mach :=
  { m with glb := if heldWrites m < 1024 then { m.glb with held := m.glb.held ++ [x] } else { m.glb with noCredit := m.glb.noCredit ++ [x] } }

/-- A BAR0 write of 32 bits (R9, R321, R375). -/
def regWrite (d : Dev) (q : Requester) (off : Nat) (v : Word) : Dev :=
  let n := reqNum q
  if off % 4 ≠ 0 then d
  else if denied d.m n off true then { d with m := countDenied d.cfg d.m n off true }
  else if waitsForSeal d.m off then { d with m := holdWrite d.m (.write q off v) }
  else settleDev (applyWrite d n off v)

/-- What waited for the seal checks or for the end of a turn goes on, in order (R375, R387), and then the writes that had no credit. -/
def resumeHeld (d : Dev) : Dev :=
  let wait := d.m.glb.held ++ d.m.glb.noCredit
  let keep (d : Dev) (x : HeldOp) : Dev := { d with m := { d.m with glb := { d.m.glb with held := d.m.glb.held ++ [x] } } }
  settleDev <| wait.foldl (fun (d : Dev) x => match x with
    | .write q off v => if waitsForSeal d.m off then { d with m := holdWrite d.m x } else applyWrite d (reqNum q) off v
    | .cmd op o slot q => if mustHold d.m op then keep d x else { d with m := cmdResume d.cfg d.m op o slot q })
    { d with m := { d.m with glb := { d.m.glb with held := [], noCredit := [] } } }

/-- A field of a register, written as a requester's write of the whole register as it stands with that field changed. W1C, W1S and WO fields
of the register are written as 0. -/
def fieldWord (c : Cfg) (m : Mach) (xs : List (Fld × Nat)) (i j k : Nat) : Word :=
  match xs with
  | [] => 0
  | (x, _) :: _ =>
    let old := ((regFields x.reg).filter fun y => y.acc = .rw || y.acc = .rwl).foldl (fun a y => putBits a y.hi y.lo (softVal c m y i j k)) 0
    BitVec.ofNat 32 (xs.foldl (fun a e => putBits a e.1.hi e.1.lo e.2) old)

/-- A write of some fields of one register. -/
def fieldWrite (d : Dev) (q : Requester) (xs : List (Fld × Nat)) (i j k : Nat) : Dev :=
  match xs with
  | [] => d
  | (x, _) :: _ => regWrite d q (regAddr x.reg i j k) (fieldWord d.cfg d.m xs i j k)

end Sys2Proof.Machine
end

