-- ==== Sys2Proof/Machine/RegRows.lean ====
section
/-! DEFINITION. The rows that are accesses to registers: reads, writes, and writes of one field that the table names apart. -/
namespace Sys2Proof.Machine

/-- An access of a requester reaches the device: a host's while its link is up and its function in D0. -/
def reaches (m : Mach) : Requester → Bool
  | .host p => portTakes m p.val
  | .agent => true

/-- A write of a requester. -/
def State.onWrite (s : State) (q : Requester) (f : Dev → Dev) : Outcome := s.onDev fun d => if reaches d.m q then f d else d

/-- A read of a requester. -/
def State.onRead (s : State) (q : Requester) (off : Nat) : Outcome := s.on fun c m => if reaches m q then regRead c m q off else m

/-- `REG_WRITE` (R9, R13): a write of another size than 32 bits is discarded. -/
def execRegWrite (q : Requester) (a : Access) (v : Word) (s : State) : Outcome :=
  s.onWrite q fun d => if a.size = .b32 then regWrite d q a.off.toNat v else d

/-- `REG_WRITE_HI_APPLY` (R10): a write of an `_HI` half. -/
def execRegWriteHiApply (q : Requester) (off : BitVec 27) (v : Word) (s : State) : Outcome := s.onWrite q fun d => regWrite d q off.toNat v

/-- `REG_READ_LO_LATCH` (R9, R10): a read of an `_LO` half, or of any register; of another size than 32 bits, all ones. -/
def execRegReadLoLatch (q : Requester) (a : Access) (s : State) : Outcome :=
  if a.size = .b32 then s.onRead q a.off.toNat else s.on fun _ m => if reaches m q then refusedRead m q a.off.toNat else m

/-- `REG_READ_CLEAR` (R13): a read of a register with an RC field. -/
def execRegReadClear (q : Requester) (off : BitVec 27) (s : State) : Outcome := s.onRead q off.toNat

/-- `TOD_NOW_READ` (R236). -/
def execTodNowRead (q : Requester) (s : State) : Outcome := s.onRead q (regAddr .todNowNs 0 0 0)

/-- `SEAL_WRITE` (R375). -/
def execSealWrite (q : Requester) (s : State) : Outcome := s.onWrite q fun d => fieldWrite d q [(glbSealKey, 0x5EA1)] 0 0 0

/-- `RESTART_WRITE` (R390). -/
def execRestartWrite (q : Requester) (s : State) : Outcome := s.onWrite q fun d => fieldWrite d q [(glbRestartKey, 0xC01D)] 0 0 0

/-- `TURN_COMMIT_GO` (R385). -/
def execTurnCommitGo (q : Requester) (s : State) : Outcome := s.onWrite q fun d => fieldWrite d q [(glbTurnCommitGo, 1)] 0 0 0

/-- `TURN_DISCARD` (R388). -/
def execTurnDiscard (q : Requester) (s : State) : Outcome := s.onWrite q fun d => fieldWrite d q [(glbTurnCommitDiscard, 1)] 0 0 0

/-- `PORT_ROLE_WRITE` (R320). -/
def execPortRoleWrite (q : Requester) (primary : Fin 4) (roles : BitVec 8) (s : State) : Outcome := s.onWrite q fun d =>
  fieldWrite d q [(hifPortRolePrimary, primary.val), (hifPortRoleRoles, roles.toNat)] 0 0 0

/-- `ADMIN_RING_ENABLE` (R324). -/
def execAdminRingEnable (q : Requester) (p : Fin 4) (s : State) : Outcome := s.onWrite q fun d => fieldWrite d q [(hifAdminCfgEn, 1)] p 0 0

/-- `ADMIN_RING_DISABLE` (R324). -/
def execAdminRingDisable (q : Requester) (p : Fin 4) (s : State) : Outcome := s.onWrite q fun d => fieldWrite d q [(hifAdminCfgEn, 0)] p 0 0

/-- `FST_ENABLE` (R120). -/
def execFstEnable (q : Requester) (s : State) : Outcome := s.onWrite q fun d => fieldWrite d q [(fstCtrlEnable, 1)] 0 0 0

/-- `FST_DISABLE` (R120). -/
def execFstDisable (q : Requester) (s : State) : Outcome := s.onWrite q fun d => fieldWrite d q [(fstCtrlEnable, 0)] 0 0 0

/-- `FST_TAKEOVER_GO` (R117). -/
def execFstTakeoverGo (q : Requester) (slot : Fin 16) (s : State) : Outcome := s.onWrite q fun d =>
  fieldWrite d q [(fstTakeoverGo, 1), (fstTakeoverSlot, slot.val)] 0 0 0

/-- `FSL_REBUILD` (R109), of physical slice `i`. -/
def execFslRebuild (q : Requester) (i : Fin 17) (s : State) : Outcome := s.onWrite q fun d => fieldWrite d q [(fslCtrlRebuild, 1)] i 0 0

/-- `FSL_SWEEP_NOW` (R121). -/
def execFslSweepNow (q : Requester) (i : Fin 17) (s : State) : Outcome := s.onWrite q fun d => fieldWrite d q [(fslCtrlSweepNow, 1)] i 0 0

/-- `PPL_DRAIN` (R75). -/
def execPplDrain (q : Requester) (n : Fin 32) (s : State) : Outcome := s.onWrite q fun d => fieldWrite d q [(pplCtrlDrain, 1)] n 0 0

/-- `PORT_ENABLE` (R468), with the port's fields in the same write. -/
def execPortEnable (q : Requester) (g : Fin 32) (p : Fin 6) (speed : Fin 8) (fec : Fin 4) (lane : Fin 8) (s : State) : Outcome := s.onWrite q fun d =>
  fieldWrite d q [(prtPortCfgEn, 1), (prtPortCfgSpeed, speed.val), (prtPortCfgFec, fec.val), (prtPortCfgFirstLane, lane.val)] g p 0

/-- `GATE_CONFIG_CHANGE` (R246). -/
def execGateConfigChange (q : Requester) (l : Fin 256) (s : State) : Outcome := s.onWrite q fun d =>
  fieldWrite d q [(schGateCtrlConfigChange, 1)] (l / 128) (l % 128) 0

/-- `GATE_CHANGE_CANCEL` (R246): `GATE_EN` is cleared. -/
def execGateChangeCancel (q : Requester) (l : Fin 256) (s : State) : Outcome := s.onWrite q fun d =>
  fieldWrite d q [(schGateCtrlGateEn, 0)] (l / 128) (l % 128) 0

/-- `SHAPER_RATE_WRITE` (R230): a write of a `CIR` or `PIR` register. -/
def execShaperRateWrite (q : Requester) (off : BitVec 27) (v : Word) (s : State) : Outcome := s.onWrite q fun d => regWrite d q off.toNat v

/-- `SHAPER_BURST_WRITE` (R230): a write of a `BURST` register. -/
def execShaperBurstWrite (q : Requester) (off : BitVec 27) (v : Word) (s : State) : Outcome := s.onWrite q fun d => regWrite d q off.toNat v

/-- `TOD_STEP` (R236). -/
def execTodStep (q : Requester) (s : State) : Outcome := s.onWrite q fun d => fieldWrite d q [(todCtrlStep, 1)] 0 0 0

/-- `TOD_OFFSET` (R236). -/
def execTodOffset (q : Requester) (s : State) : Outcome := s.onWrite q fun d => fieldWrite d q [(todCtrlOffset, 1)] 0 0 0

/-- `MSC_SA_IN_USE_SET` (R361). -/
def execMscSaInUseSet (q : Requester) (die : Fin 4) (e : Fin 4096) (s : State) : Outcome := s.onWrite q fun d =>
  fieldWrite d q [(mscSaCtrlInUse, 1)] die e 0

/-- `MSC_SA_IN_USE_CLEAR` (R361). -/
def execMscSaInUseClear (q : Requester) (die : Fin 4) (e : Fin 4096) (s : State) : Outcome := s.onWrite q fun d =>
  fieldWrite d q [(mscSaCtrlInUse, 0)] die e 0

/-- `MSC_TX_AN_WRITE` (R364). -/
def execMscTxAnWrite (q : Requester) (die : Fin 4) (n : Fin 64) (an : Fin 4) (s : State) : Outcome := s.onWrite q fun d =>
  fieldWrite d q [(mscSecyTxTxAn, an.val)] die n 0

/-- `MSC_BULK_GO` (R365). -/
def execMscBulkGo (q : Requester) (die : Fin 4) (s : State) : Outcome := s.onWrite q fun d => fieldWrite d q [(mscBulkCtrlGo, 1)] die 0 0

/-- `FLT_ACK_WRITE` (R405). -/
def execFltAckWrite (q : Requester) (cls : Fin 64) (clear : Bool) (s : State) : Outcome := s.onWrite q fun d =>
  fieldWrite d q [(fltAckClass, cls.val), (fltAckClear, b2n clear)] 0 0 0

/-- `FLT_INJECT_WRITE` (R403). -/
def execFltInjectWrite (q : Requester) (v : Word) (s : State) : Outcome := s.onWrite q fun d => regWrite d q (regAddr .fltInject 0 0 0) v

/-- `FIRST_ERROR_CLEAR` (R398). -/
def execFirstErrorClear (q : Requester) (s : State) : Outcome := s.onWrite q fun d => fieldWrite d q [(fltFirstSrcValid, 1)] 0 0 0

/-- `FLT_RESTORE_GO` (R406). -/
def execFltRestoreGo (q : Requester) (kind : Fin 8) (inst : Fin 256) (s : State) : Outcome := s.onWrite q fun d =>
  fieldWrite d q [(fltRestoreGo, 1), (fltRestoreKind, kind.val), (fltRestoreInstance, inst.val)] 0 0 0

/-- `DIGEST_NOW` (R311). -/
def execDigestNow (q : Requester) (s : State) : Outcome := s.onWrite q fun d => fieldWrite d q [(duoCtrlDigestNow, 1)] 0 0 0

/-- `DUO_YIELD_WRITE` (R305). -/
def execDuoYieldWrite (q : Requester) (yield : Bool) (s : State) : Outcome := s.onWrite q fun d =>
  fieldWrite d q [(duoCtrlYield, b2n yield)] 0 0 0

/-- `CORE_RUN_START` (R271). -/
def execCoreRunStart (q : Requester) (core : Fin 128) (s : State) : Outcome := s.onWrite q fun d => fieldWrite d q [(tskCoreCtrlRun, 1)] core 0 0

/-- `CORE_RUN_STOP` (R271). -/
def execCoreRunStop (q : Requester) (core : Fin 128) (s : State) : Outcome := s.onWrite q fun d => fieldWrite d q [(tskCoreCtrlRun, 0)] core 0 0

/-- `CORE_RESET` (R271). -/
def execCoreReset (q : Requester) (core : Fin 128) (s : State) : Outcome := s.onWrite q fun d => fieldWrite d q [(tskCoreCtrlReset, 1)] core 0 0

end Sys2Proof.Machine
end

