-- ==== Sys2Proof/Machine/RingRows.lean ====
section
/-! DEFINITION. The commands of `CMD` rings, one row for each opcode (R329): a command is taken from ring `r` with the input its read
returned, checked, carried out and completed. -/
namespace Sys2Proof.Machine

/-- `CMD_NOP` (R329). -/
def execCmdNop (r : Fin 16384) (q : Cmd) (s : State) : Outcome := s.onSettle fun c m => ringCmd c m r (opcode .nop) q

/-- `RING_CREATE` (R325). -/
def execRingCreate (r : Fin 16384) (q : Cmd) (s : State) : Outcome := s.onSettle fun c m => ringCmd c m r (opcode .ringCreate) q

/-- `RING_DESTROY` (R326). -/
def execRingDestroy (r : Fin 16384) (q : Cmd) (s : State) : Outcome := s.onSettle fun c m => ringCmd c m r (opcode .ringDestroy) q

/-- `RING_QUERY` (R326). -/
def execRingQuery (r : Fin 16384) (q : Cmd) (s : State) : Outcome := s.onSettle fun c m => ringCmd c m r (opcode .ringQuery) q

/-- `FLOW_INSERT` (R113). -/
def execFlowInsert (r : Fin 16384) (q : Cmd) (s : State) : Outcome := s.onSettle fun c m => ringCmd c m r (opcode .flowInsert) q

/-- `FLOW_MODIFY` (R113). -/
def execFlowModify (r : Fin 16384) (q : Cmd) (s : State) : Outcome := s.onSettle fun c m => ringCmd c m r (opcode .flowModify) q

/-- `FLOW_DELETE` (R113). -/
def execFlowDelete (r : Fin 16384) (q : Cmd) (s : State) : Outcome := s.onSettle fun c m => ringCmd c m r (opcode .flowDelete) q

/-- `FLOW_QUERY` (R113). -/
def execFlowQuery (r : Fin 16384) (q : Cmd) (s : State) : Outcome := s.onSettle fun c m => ringCmd c m r (opcode .flowQuery) q

/-- `NAT_POOL_SET` (R140). -/
def execNatPoolSet (r : Fin 16384) (q : Cmd) (s : State) : Outcome := s.onSettle fun c m => ringCmd c m r (opcode .natPoolSet) q

/-- `NAT_PORT_FREE` (R143). -/
def execNatPortFree (r : Fin 16384) (q : Cmd) (s : State) : Outcome := s.onSettle fun c m => ringCmd c m r (opcode .natPortFree) q

/-- `BE_GROUP_SET` (R146). -/
def execBeGroupSet (r : Fin 16384) (q : Cmd) (s : State) : Outcome := s.onSettle fun c m => ringCmd c m r (opcode .beGroupSet) q

/-- `BE_SLOT_SET` (R146). -/
def execBeSlotSet (r : Fin 16384) (q : Cmd) (s : State) : Outcome := s.onSettle fun c m => ringCmd c m r (opcode .beSlotSet) q

/-- `BACKEND_SET` (R146). -/
def execBackendSet (r : Fin 16384) (q : Cmd) (s : State) : Outcome := s.onSettle fun c m => ringCmd c m r (opcode .backendSet) q

/-- `PROG_LOAD` (R122). -/
def execProgLoad (r : Fin 16384) (q : Cmd) (s : State) : Outcome := s.onSettle fun c m => ringCmd c m r (opcode .progLoad) q

/-- `TMPL_SET` (R154). -/
def execTmplSet (r : Fin 16384) (q : Cmd) (s : State) : Outcome := s.onSettle fun c m => ringCmd c m r (opcode .tmplSet) q

/-- `PARSE_SET` (R329). -/
def execParseSet (r : Fin 16384) (q : Cmd) (s : State) : Outcome := s.onSettle fun c m => ringCmd c m r (opcode .parseSet) q

/-- `CLS_SET` (R329). -/
def execClsSet (r : Fin 16384) (q : Cmd) (s : State) : Outcome := s.onSettle fun c m => ringCmd c m r (opcode .clsSet) q

/-- `FDB_SET` (R184). -/
def execFdbSet (r : Fin 16384) (q : Cmd) (s : State) : Outcome := s.onSettle fun c m => ringCmd c m r (opcode .fdbSet) q

/-- `FDB_DELETE` (R184). -/
def execFdbDelete (r : Fin 16384) (q : Cmd) (s : State) : Outcome := s.onSettle fun c m => ringCmd c m r (opcode .fdbDelete) q

/-- `FDB_QUERY` (R184). -/
def execFdbQuery (r : Fin 16384) (q : Cmd) (s : State) : Outcome := s.onSettle fun c m => ringCmd c m r (opcode .fdbQuery) q

/-- `FDB_FLUSH` (R184). -/
def execFdbFlush (r : Fin 16384) (q : Cmd) (s : State) : Outcome := s.onSettle fun c m => ringCmd c m r (opcode .fdbFlush) q

/-- `BD_SET` (R184). -/
def execBdSet (r : Fin 16384) (q : Cmd) (s : State) : Outcome := s.onSettle fun c m => ringCmd c m r (opcode .bdSet) q

/-- `LPM_ADD` (R178). -/
def execLpmAdd (r : Fin 16384) (q : Cmd) (s : State) : Outcome := s.onSettle fun c m => ringCmd c m r (opcode .lpmAdd) q

/-- `LPM_DELETE` (R178). -/
def execLpmDelete (r : Fin 16384) (q : Cmd) (s : State) : Outcome := s.onSettle fun c m => ringCmd c m r (opcode .lpmDelete) q

/-- `NH_SET` (R184). -/
def execNhSet (r : Fin 16384) (q : Cmd) (s : State) : Outcome := s.onSettle fun c m => ringCmd c m r (opcode .nhSet) q

/-- `ECMP_GROUP_SET` (R184). -/
def execEcmpGroupSet (r : Fin 16384) (q : Cmd) (s : State) : Outcome := s.onSettle fun c m => ringCmd c m r (opcode .ecmpGroupSet) q

/-- `ECMP_MEMBER_SET` (R184). -/
def execEcmpMemberSet (r : Fin 16384) (q : Cmd) (s : State) : Outcome := s.onSettle fun c m => ringCmd c m r (opcode .ecmpMemberSet) q

/-- `ECMP_MEMBER_DOWN` (R180). -/
def execEcmpMemberDown (r : Fin 16384) (q : Cmd) (s : State) : Outcome := s.onSettle fun c m => ringCmd c m r (opcode .ecmpMemberDown) q

/-- `ECMP_MEMBER_UP` (R180). -/
def execEcmpMemberUp (r : Fin 16384) (q : Cmd) (s : State) : Outcome := s.onSettle fun c m => ringCmd c m r (opcode .ecmpMemberUp) q

/-- `SUB_SET` (R181). -/
def execSubSet (r : Fin 16384) (q : Cmd) (s : State) : Outcome := s.onSettle fun c m => ringCmd c m r (opcode .subSet) q

/-- `SUB_QUERY` (R181). -/
def execSubQuery (r : Fin 16384) (q : Cmd) (s : State) : Outcome := s.onSettle fun c m => ringCmd c m r (opcode .subQuery) q

/-- `POLICER_SET` (R231). -/
def execPolicerSet (r : Fin 16384) (q : Cmd) (s : State) : Outcome := s.onSettle fun c m => ringCmd c m r (opcode .policerSet) q

/-- `POLICER_QUERY` (R231). -/
def execPolicerQuery (r : Fin 16384) (q : Cmd) (s : State) : Outcome := s.onSettle fun c m => ringCmd c m r (opcode .policerQuery) q

/-- `GCL_SET` (R244). -/
def execGclSet (r : Fin 16384) (q : Cmd) (s : State) : Outcome := s.onSettle fun c m => ringCmd c m r (opcode .gclSet) q

/-- `STEER_SET` (R286). -/
def execSteerSet (r : Fin 16384) (q : Cmd) (s : State) : Outcome := s.onSettle fun c m => ringCmd c m r (opcode .steerSet) q

/-- `STEER_QUERY` (R315). -/
def execSteerQuery (r : Fin 16384) (q : Cmd) (s : State) : Outcome := s.onSettle fun c m => ringCmd c m r (opcode .steerQuery) q

/-- `PROMOTE` (R309). -/
def execPromote (r : Fin 16384) (q : Cmd) (s : State) : Outcome := s.onSettle fun c m => ringCmd c m r (opcode .promote) q

/-- `CORE_LOAD` (R274). -/
def execCoreLoad (r : Fin 16384) (q : Cmd) (s : State) : Outcome := s.onSettle fun c m => ringCmd c m r (opcode .coreLoad) q

/-- `ATTEST` (R423). -/
def execAttest (r : Fin 16384) (q : Cmd) (s : State) : Outcome := s.onSettle fun c m => ringCmd c m r (opcode .attest) q

/-- `TAG_WRITE` (R425). -/
def execTagWrite (r : Fin 16384) (q : Cmd) (s : State) : Outcome := s.onSettle fun c m => ringCmd c m r (opcode .tagWrite) q

/-- `OWNER_ENROL` (R418). -/
def execOwnerEnrol (r : Fin 16384) (q : Cmd) (s : State) : Outcome := s.onSettle fun c m => ringCmd c m r (opcode .ownerEnrol) q

/-- `CMD_RESERVED_OPCODE` (R329): a descriptor whose opcode is reserved. -/
def execCmdReservedOpcode (r : Fin 16384) (opc : Fin 128) (q : Cmd) (s : State) : Outcome :=
  s.onSettle fun c m => if opOf opc = .reserved then ringCmd c m r opc q else m

end Sys2Proof.Machine
end

