-- ==== Sys2Proof/Machine/StoreRows.lean ====
section
/-! DEFINITION. The rows of the flow store and its services: lookups, bucket reads, moves, write-backs, ages, sweeps, takeovers, NAT and IPFIX. -/
namespace Sys2Proof.Machine

/-- `SLICE_REQUEST` (R93): the slice of a region admits the next request of a pipeline. -/
def execSliceRequest (pipe : Fin 32) (region : Fin 16) (s : State) : Outcome := s.onSettle fun c m => sliceRequest c m pipe region

/-- `HBM_BUCKET_READ_DONE` (R94). -/
def execHbmBucketReadDone (region : Fin 16) (b : BitVec 24) (s : State) : Outcome := s.onSettle fun c m => bucketRead c m region b.toNat

/-- `RECORD_MOVE` (R99). -/
def execRecordMove (region : Fin 16) (s : State) : Outcome := s.onSettle fun c m => recordMove c m region

/-- `STASH_RETRY` (R103). -/
def execStashRetry (region : Fin 16) (s : State) : Outcome := s.onSettle fun c m => stashRetry c m region

/-- `WRITEBACK_APPLY` (R111). -/
def execWritebackApply (region : Fin 16) (s : State) : Outcome := s.onSettle fun c m => wbApply c m region

/-- `WRITEBACK_HOLD_EXPIRY` (R111). -/
def execWritebackHoldExpiry (s : State) : Outcome := s.on wbExpire

/-- `GUARD_LAPSE` (R112). -/
def execGuardLapse (region : Fin 16) (s : State) : Outcome := s.onSettle fun c m => guardLapse c m region

/-- `COMPANION_INSERT` (R142). -/
def execCompanionInsert (s : State) : Outcome := s.onSettle companionInsert

/-- `COMPANION_DELETE_CONFIRM` (R143). -/
def execCompanionDeleteConfirm (s : State) : Outcome := s.onSettle companionDelete

/-- `NAT_QUEUE_REFILL` (R141): inserts that wait for a pair go on. -/
def execNatQueueRefill (pool : Fin 1024) (s : State) : Outcome :=
  s.onSettle fun c m => retryNat c (natRefill m pool)

/-- `AGE_TICK` (R106). -/
def execAgeTick (s : State) : Outcome := s.on ageTick

/-- `SWEEP_DUE` (R108). -/
def execSweepDue (s : State) : Outcome := s.onSettle sweepDue

/-- `SWEEP_PASS_START` (R108). -/
def execSweepPassStart (region : Fin 16) (s : State) : Outcome := s.onSettle fun c m => sweepStart c m region

/-- `SWEEPER_VISIT` (R108). -/
def execSweeperVisit (region : Fin 16) (s : State) : Outcome := s.onSettle fun c m => sweeperVisit c m region

/-- `AGE_OUT` (R110). -/
def execAgeOut (region : Fin 16) (s : State) : Outcome := s.onSettle fun c m => ageOut c m region

/-- `SWEEP_PASS_END` (R109). -/
def execSweepPassEnd (region : Fin 16) (s : State) : Outcome := s.onSettle fun c m => sweepPassEnd c m region

/-- `FST_CLEAR_DONE` (R120). -/
def execFstClearDone (s : State) : Outcome := s.on storeReady

/-- `STASH_IMAGE_LOADED` (R117): what waited for the image goes on, host inserts too. -/
def execStashImageLoaded (s : State) : Outcome := s.onSettle imageLoaded

/-- `TAKEOVER_WRITEBACK_DONE` (R117). -/
def execTakeoverWritebackDone (s : State) : Outcome := s.onSettle takeoverEnd

/-- `IPFIX_FLUSH` (R159): `FLUSH` µs after the first record of collector `n`'s message. -/
def execIpfixFlush (n : Fin 16) (s : State) : Outcome :=
  s.on fun c m => if (Tbl.look {} m.fsl.ipfix n.val).since + 1000 * c.get fstIpfixCfgFlush ≤ m.up then ipfixFlush c m n else m

/-- `IPFIX_TEMPLATE_REFRESH` (R159): every `TMPL_REFRESH` seconds from the enable on. -/
def execIpfixTemplateRefresh (s : State) : Outcome :=
  s.on fun c m => if m.fsl.tmplAt + 1_000_000_000 * c.get fstIpfixTimersTmplRefresh ≤ m.up then
    ipfixTemplates c { m with fsl := { m.fsl with tmplAt := m.up } } else m

end Sys2Proof.Machine
end

