-- ==== Sys2Proof/Machine/Power.lean ====
section
/-! DEFINITION. Sensors and rails, tally passes, counter dumps (R215, R216, R433, R437-R439, R447-R449, R463, R473). -/
namespace Sys2Proof.Machine

/-! ### Sensors and rails (R437, R438, R463) -/

/-- The temperature that a sensor counts as, in °C. -/
def sensorCounts : SensorRead → Int
  | .degc t => t.toInt
  | _ => 105

def sensorBad : SensorRead → Bool
  | .degc _ => false
  | _ => true

/-- `PWR_TEMP_n` after a reading. A sensor that does not answer leaves the last temperature. -/
def showTemp (m : Mach) (n : Nat) : SensorRead → Mach
  | .degc t | .outOfRange t => (m.setSt pwrTempValid 1 n).setSt pwrTempDegc t.toNat n
  | .silent => m.setSt pwrTempValid 0 n

/-- `THERM_ALERT_N` goes low. -/
def thermAlert (c : Cfg) (m : Mach) : Mach :=
  if m.pwr.alert then m else raise c { m with pwr := { m.pwr with alert := true } } 29 0 NOTE

/-- `THERMTRIP_N` goes low, until `PWRGOOD` falls. Its report is made anew behind a reset or a restart, which it outlives. -/
def thermTrip (c : Cfg) (m : Mach) : Mach :=
  let m : Mach := { m with pwr := { m.pwr with trip := true } }
  if m.pwr.tripTold then m else raise c { m with pwr := { m.pwr with tripTold := true } } 29 1 FATAL

/-- The reading of the junction sensors, 0 to 13; one that is missing in `temps` did not answer. -/
def sensorsRead (c : Cfg) (m : Mach) (temps : List SensorRead) : Mach :=
  let rs := (List.range 14).map fun n => (n, temps.getD n .silent)
  let limit : Int := c.get pwrThermCfgAlert
  let m := rs.foldl (fun (m : Mach) e => showTemp m e.1 e.2) m
  let m := rs.foldl (fun (m : Mach) e => if sensorBad e.2 then raise c m 29 3 DEGRADED e.1 else m) m
  let m := if rs.any fun e => decide (limit ≤ sensorCounts e.2) then thermAlert c m
    else if rs.all fun e => decide (sensorCounts e.2 < limit - 3) then { m with pwr := { m.pwr with alert := false } } else m
  if rs.any fun e => decide (115 ≤ sensorCounts e.2) then thermTrip c m else m

/-- The rail telemetry, in mW by rail: the base, or a failure where a regulator did not answer. -/
def railsRead (c : Cfg) (m : Mach) (rails : List (Option Nat)) : Mach :=
  let rs := (List.range 8).map fun n => rails.getD n none
  if rs.any (·.isNone) then raise c { m with pwr := { m.pwr with railFail := true } } 29 4 DEGRADED
  else
    let pips := ceilDiv ((rs.map fun x => x.getD 0).sum) 500
    { m with pwr := { m.pwr with railFail := false, base := pips - pipsOf m.pwr.grants } }

/-! ### The I2C target (R473) -/

/-- The registers a target read reaches. -/
def i2cShows : Reg → Bool
  | .glbPartId | .glbBootStat | .fltStat | .pwrTemp => true
  | _ => false

/-- A read of the I2C target: other offsets return nothing. -/
def i2cRead (c : Cfg) (m : Mach) (off : Nat) : Mach :=
  match locate off with
  | some x => if i2cShows x.reg then m.emit (.i2c (readReg c m 4 x.reg x.i x.j x.k).toNat) else m
  | none => m

/-! ### Tally passes (R215, R216) -/

/-- The cells of a frame of die `u` that a walk reaches: it ends at a header that cannot be read (R217), and before a pointer that fails its check
(R189). -/
def walkCells (m : Mach) (u p : Nat) : List Nat := (chainOf maxChain m p).takeWhile fun q => cellAddrOk u (cellAddr q) && !(m.cell q).lost

/-- The tally agent of die `u` walks a frame from its first cell on, and writes the epoch into the headers it reaches (R215). -/
def tallyWalk (c : Cfg) (u : Nat) (e : Bool) (m : Mach) (p : Nat) : Mach :=
  let m' := (walkCells m u p).foldl (fun m q => m.setCell q { m.cell q with mark := e }) m
  match chainBad u maxChain m p with
  | some b => bufError c m' u .pointer (ownTally u) (cellAddr b)
  | none => m'

/-- The first cells of every frame that some unit holds. -/
def heldHeads (m : Mach) : List Nat :=
  let fds (l : List FrameD) : List Nat := l.map (·.head)
  let pks (l : List Pkt) : List Nat := l.map (·.head)
  m.tmg.queues.flatMap (fun e => fds e.2.head ++ fds e.2.staging) ++ m.tmg.xfer.map (·.head) ++ m.tmg.tx.map (·.2.fd.head) ++
    m.tmg.releases.map (·.2 / 256) ++ m.ppl.ready.flatMap (fun e => pks e.2) ++ m.ppl.hold.map (·.2.pkt.head) ++
    m.ppl.punts.flatMap (fun e => pks (e.2.map (·.pkt))) ++ m.ppl.recirc.flatMap (fun e => pks e.2) ++ m.ppl.ct.map (·.2.head) ++
    m.duo.park.flatMap fun e => pks (e.2.map (·.pkt))

/-- A tally unit: a pipeline die's cells, or, 2, the pages. Its operation code and unit. -/
def tallyOp (u : Nat) : Nat × Nat := if u < 2 then (opCellTally, u) else (opPageTally, 0)

/-- The queue's chain is walked: a page that fails its check ends it (R189, R210), and the pages before it take the epoch. -/
def tallyChain (c : Cfg) (e : Bool) (m : Mach) (q : Nat) : Mach :=
  let m := match (m.queue q).pages.find? fun p => !m.pageOk p with
    | some p => endChain c m (ownTally 0) q p
    | none => m
  (m.queue q).pages.foldl (fun m p => m.setPage p { m.page p with mark := e }) m

/-- The pass begins: the epoch flips, and what is held is marked with it. -/
def tallyBegin (c : Cfg) (m : Mach) (u : Nat) : Mach :=
  let e := !m.epochOf u
  let m : Mach := { m with tmg := { m.tmg with epoch := Tbl.put false m.tmg.epoch u e, tally := Tbl.put false m.tmg.tally u true } }
  if u < 2 then ((heldHeads m).filter fun p => dieOf p == u).foldl (tallyWalk c u e) m
  else (m.tmg.queues.map (·.1)).foldl (tallyChain c e) m

/-- A pass that is due asks for its leave, and begins with it (R215). One that waits or runs delays the next; one refused is skipped (R433,
notes/assumptions/120.md). -/
def tallyStart (c : Cfg) (m : Mach) (u : Nat) : Mach :=
  let (op, unit) := tallyOp u
  let at' := tallyDue c m u
  if !tallyEn c u || Tbl.look false m.tmg.tally u then m
  else if m.holdsLeave op unit then tallyBegin c m u
  else if m.waitsLeave op unit || decide (m.up < at') then m
  else match askLeave c { m with tmg := { m.tmg with tallyAt := Tbl.ins m.tmg.tallyAt u (at' + tallyPeriod c u) } } op unit with
    | (.granted, m) => tallyBegin c m u
    | (.refused, m) => tallyRefused m u
    | (.deferred, m) => m

/-- The header read of one cell. A suspect cell takes the epoch's mark as this visit (R191, notes/assumptions/49.md). -/
def tallyCell (c : Cfg) (m : Mach) (die : Nat) (e : Nat × Cell) : Mach :=
  let (p, x) := e
  if x.mark == m.epochOf die && !x.lost then m.setCell p { x with suspect := false }
  else if !x.suspect then m.setCell p { x with suspect := true, mark := m.epochOf die }
  else
    let reclaim := c.on tmgTallyCfgAuditReclaim die
    let m := bump c m .tmgCnt die cTmgTallyLeak
    let m := if m.stOn tmgTallyStatLeakValid die then m
      else ((m.setSt tmgTallyStatLeakValid 1 die).setSt tmgTallyLeakPtrPtr p die).setSt tmgTallyLeakPtrOwner x.seen die
    let m := raise c m 14 die (if reclaim then CORRECTED else DEGRADED)
    if reclaim then pushCell (bump c m .tmgCnt die cTmgTallyReclaim) p else m.setCell p { x with mark := m.epochOf die }

/-- The queue whose chain holds a page. -/
def pageQueue (m : Mach) (p : Nat) : Option Nat := (m.tmg.queues.find? fun e => e.2.pages.contains p).map (·.1)

/-- The tally writes a page's marks. A descriptor that failed its `CHECK` goes on failing it (notes/assumptions/55.md). -/
def tallyMark (m : Mach) (p : Nat) (x y : Page) : Mach :=
  if x.ok then m.setPage p y else m.putPage p { y with check := Nat.xor (crc16 y.image) 1 }

/-- The descriptor read of one page; those that an allocator has ready are no queue's. One that fails its `CHECK` ends its queue's chain (R210), and
what it says of the page counts for nothing. The first leak is latched (R216, notes/assumptions/55.md). -/
def tallyPage (c : Cfg) (m : Mach) (e : Nat × Page) : Mach :=
  let (p, x) := e
  let m := if x.ok then m else match pageQueue m p with
    | some q => endChain c m (ownTally 0) q p
    | none => pageError c m 4 (ownTally 0) p
  if x.ok && x.mark == m.epochOf 2 then m.setPage p { x with suspect := false }
  else if !x.suspect then tallyMark m p x { x with suspect := true, mark := m.epochOf 2 }
  else
    let reclaim := c.on hbmPageCtrlAuditReclaim
    let m : Mach := { m with tmg := { m.tmg with pageLeak := m.tmg.pageLeak.or (some (p, x.owner)) } }
    let m := raise c (bump c m .hbmCnt cHbmTallyLeak) 14 2 (if reclaim then CORRECTED else DEGRADED)
    if reclaim then bump c (m.setPage p {}) .hbmCnt cHbmTallyReclaim else tallyMark m p x { x with mark := m.epochOf 2 }

/-- The free pages as the allocators count them: free in L0, or ready. -/
def allocPages (m : Mach) : Nat :=
  pageCount - (m.tmg.pages.filter fun e => !e.2.l0).length + (m.tmg.ready.map fun e => e.2.length).sum

/-- The pass ends with its comparison of counts (R215 step 6). -/
def tallyDone (c : Cfg) (m : Mach) (u : Nat) : Mach :=
  let (op, unit) := tallyOp u
  if !Tbl.look false m.tmg.tally u then m
  else
    let stop (m : Mach) : Mach := releaseLeave c { m with tmg := { m.tmg with tally := Tbl.put false m.tmg.tally u false } } op unit
    if u < 2 then
      let cells := dieCells m u
      let m := cells.foldl (fun (m : Mach) e => tallyCell c m u e) m
      let suspects := (cells.filter fun e => !e.2.suspect && (m.cell e.1).suspect).length
      let m := m.setSt tmgTallyStatSuspects suspects u
      stop (if cellsFree m u = m.bankFree u then m else raise c (m.setSt tmgTallyStatMismatch 1 u) 14 u DEGRADED)
    else
      let m := (m.tmg.pages.filter fun e => !e.2.l0 && e.2.owner != 0xFFF).foldl (tallyPage c) m
      stop (if pagesFree m = allocPages m then m else raise c m 14 2 DEGRADED)

/-! ### Scrub (R439) -/

/-- A stack's scrub pass falls due, at first one interval after the reset; where one waits or runs, or leave is refused, it is skipped. -/
def scrubDue (c : Cfg) (m : Mach) (stack : Nat) : Mach :=
  let at' := (Tbl.find m.pwr.scrubAt stack).getD scrubInterval
  if m.up < at' then m
  else
    let m : Mach := { m with pwr := { m.pwr with scrubAt := Tbl.ins m.pwr.scrubAt stack (at' + scrubInterval) } }
    if !Config.scrubEn || m.holdsLeave opScrub stack || m.waitsLeave opScrub stack then m else (askLeave c m opScrub stack).2

/-! ### Counter dumps (R447-R449) -/

/-- The code of a block in a record. -/
def Blk.code : Blk → Nat
  | .glb => 0 | .flt => 1 | .pwr => 2 | .tod => 3 | .hif => 4 | .sec => 5 | .pmu => 6 | .prt => 7 | .msc => 8 | .ppl => 9 | .tmg => 10 | .sch => 11
  | .fst => 12 | .fwd => 13 | .fsl => 14 | .duo => 15 | .tsk => 16 | .hbm => 17

/-- The banks of a family that a set dumps, with their blocks. -/
def dumpBanks (c : Cfg) (s : Nat) : List (Nat × Blk) :=
  (pick pmcBanks fun n => bit (c.get pmcCtrlDumpMask n) s && domFamily (bankDomain n) == c.get pmuDumpCfgFamily s).filterMap fun n =>
    (pmcBlk n).map fun b => (n, b)

/-- Block code and instance of a bank. -/
def bankId (n : Nat) (b : Blk) : List Byte := beBytes 2 b.code ++ beBytes 2 (n - (pmcRow b).first)

/-- The statistical counters of a bank's instance, by offset. -/
def bankCounters (m : Mach) (n : Nat) (b : Blk) : List Nat :=
  let base := (blkWindow b).1 + (n - (pmcRow b).first) * (pmcRow b).stride
  let addrs : Tbl Nat := ((blkRegs b).filter isCounter).foldl (fun t r =>
    (instances r).foldl (fun t (i, j, k) =>
      let a := ctrAddr r i j k
      if base ≤ a && a < base + (pmcRow b).stride then Tbl.ins t a (m.ctr r i j k) else t) t) []
  addrs.map (·.2)

/-- The entries of a table of `n` that a set names. -/
def dumpSpan (c : Cfg) (s n : Nat) : List Nat :=
  let first := c.get pmuDumpSelFirst s
  let count := c.get pmuDumpSelCount s
  (List.range (if count = 0 then n - first else min count (n - first))).map (first + ·)

def dumpQueue (m : Mach) (q : Nat) : List Byte :=
  let x := m.queue q
  beBytes 3 q ++ [0] ++ beBytes 4 (x.refused % 2 ^ 32) ++ beBytes 8 x.sent ++ beBytes 8 x.sentBytes ++ beBytes 4 (x.aged % 2 ^ 32) ++ beBytes 4 0

def dumpPolicer (m : Mach) (die n : Nat) : List Byte :=
  let x := m.policer die n
  beBytes 4 n ++ beBytes 4 0 ++ x.cnt.flatMap (fun e => beBytes 8 e.1) ++ x.cnt.flatMap fun e => beBytes 8 e.2

def dumpFlow (m : Mach) (die n : Nat) : List Byte :=
  let x := Tbl.look (0, 0) m.act.ctrs (65536 * die + n)
  beBytes 4 n ++ beBytes 4 0 ++ beBytes 8 x.1 ++ beBytes 8 x.2

def dumpMsc (m : Mach) (die obj idx : Nat) : List Byte :=
  let k := mscStatLen obj
  beBytes 1 obj ++ [0] ++ beBytes 2 idx ++ beBytes 2 (8 + 8 * k) ++ beBytes 2 0 ++
    (List.range k).flatMap fun i => beBytes 8 (Tbl.look 0 m.msc.stats (mscKey die obj idx i))

def dumpHist (m : Mach) (q : Nat) : List Byte :=
  beBytes 2 q ++ beBytes 6 0 ++ (List.range 16).flatMap fun b => beBytes 4 (Tbl.look 0 (m.wq q).hist b % 2 ^ 32)

/-- The records of a latch. -/
def dumpRecords (c : Cfg) (m : Mach) (s : Nat) : List (List Byte) :=
  let die := c.get pmuDumpCfgDie s
  match c.get pmuDumpCfgKind s with
  | 0 => (dumpBanks c s).map fun (n, b) =>
      bankId n b ++ beBytes 4 0 ++ beBytes 8 (m.cycles (bankDomain n)) ++ (List.range 8).flatMap fun i => beBytes 6 (m.pmcLatch n i)
  | 1 => (dumpBanks c s).map fun (n, b) =>
      let cs := bankCounters m n b
      bankId n b ++ beBytes 4 0 ++ beBytes 2 (16 + 8 * cs.length) ++ beBytes 6 0 ++ cs.flatMap (beBytes 8)
  | 2 => if die < 2 then (dumpSpan c s 65536).map fun n => dumpQueue m (65536 * die + n) else []
  | 3 => if die < 2 then (dumpSpan c s 65536).map (dumpPolicer m die) else []
  | 4 => if die < 2 then (dumpSpan c s 65536).map (dumpFlow m die) else []
  | 5 => if die < 4 && c.fuse.variant = .m then
      (List.range 64).map (dumpMsc m die 0) ++ (List.range 64).map (dumpMsc m die 1) ++ (List.range 1024).map (dumpMsc m die 2) else []
  | 6 => (List.range 4096).map (dumpHist m)
  | _ => []

/-- The family a batch names. -/
def dumpFamily (c : Cfg) (s : Nat) : Nat :=
  match c.get pmuDumpCfgKind s with
  | 0 | 1 => c.get pmuDumpCfgFamily s
  | 6 => 4
  | _ => 0

/-- The batch of a latch (R448). -/
def dumpBatch (c : Cfg) (m : Mach) (s : Nat) : List Byte :=
  let rs := dumpRecords c m s
  beBytes 1 s ++ beBytes 1 (c.get pmuDumpCfgKind s * 32 + dumpFamily c s) ++ beBytes 2 0 ++ beBytes 4 (m.st pmuDumpSeqSeq s) ++
    beBytes 6 (secOf m.todNs) ++ beBytes 4 (nsOf m.todNs) ++ beBytes 4 rs.length ++ beBytes 10 0 ++ rs.flatten

/-- The leave of a set faster than 10 kHz: asked for until granted or refused, and given back when the set is no longer so (R433). -/
def dumpLeave (c : Cfg) (m : Mach) (s : Nat) : Mach :=
  if 100 ≤ c.get pmuDumpPeriodPeriod s then releaseLeave c (dropLeave m opDump s) opDump s
  else if m.holdsLeave opDump s || m.waitsLeave opDump s || m.pwr.dumpSlow.getLsbD s then m
  else match askLeave c m opDump s with
    | (.refused, m) => leaveRefused c m opDump s
    | (_, m) => m

/-- A set's period in µs: 100 while it has no leave for less. -/
def dumpPeriod (c : Cfg) (m : Mach) (s : Nat) : Nat :=
  let p := c.get pmuDumpPeriodPeriod s
  if p < 100 && !m.holdsLeave opDump s then 100 else p

/-- The dies whose agents a latch's counters come from. -/
def dumpDies (c : Cfg) (s : Nat) : List Nat :=
  match c.get pmuDumpCfgKind s with
  | 0 | 1 => (dumpBanks c s).map fun e => bankDie e.1
  | 5 => [3 + c.get pmuDumpCfgDie s]
  | 6 => [7]
  | _ => [c.get pmuDumpCfgDie s]

/-- A latch of a dump set, whose number advances whether or not its batch can go (R40). Batches are written one behind another at 32 bytes a ns (R449). -/
def dumpLatch (c : Cfg) (m : Mach) (s : Nat) : Mach :=
  match Tbl.find m.pwr.dumpAt s with
  | none => m
  | some t =>
    if m.up < t then m
    else
      let m := m.inc32 pmuDumpSeqSeq s
      let m : Mach := dumpLeave c m s
      let m : Mach := { m with pwr := { m.pwr with dumpAt := Tbl.ins m.pwr.dumpAt s (t + 1000 * dumpPeriod c m s) } }
      if m.up < Tbl.look 0 m.pwr.dumpBusy s then bump c m .pmuCnt cPmuDumpLate
      else if (dumpDies c s).any (upwardFull m) then m
      else
        let b := dumpBatch c m s
        let start := (m.pwr.dumpBusy.map (·.2)).foldl max m.up
        let m : Mach := { m with pwr := { m.pwr with dumpBusy := Tbl.ins m.pwr.dumpBusy s (start + ceilDiv b.length 32) } }
        sendBatch c m ⟨dumpDies c s, c.get pmuDumpCfgRing s, .dmp, b⟩

end Sys2Proof.Machine
end

