-- ==== Sys2Proof/Machine/SystemRows.lean ====
section
/-! DEFINITION. The rows of pins, sensors, start-up, seal, turns, faults, leave, passes and dumps. -/
namespace Sys2Proof.Machine

/-! ### Pins: these act in reset too (R461, R466, R474) -/

/-- `PWRGOOD_RISE` (R461). -/
def execPwrgoodRise (s : State) : Outcome := .next { s with dev := pwrgoodIs s.dev true }

/-- `PWRGOOD_FALL` (R461). -/
def execPwrgoodFall (s : State) : Outcome := .next { s with dev := pwrgoodIs s.dev false }

/-- `RESET_N_ASSERT` (R461). -/
def execResetNAssert (s : State) : Outcome := .next { s with dev := resetNIs s.dev false }

/-- `RESET_N_RELEASE` (R461). -/
def execResetNRelease (s : State) : Outcome := .next { s with dev := resetNIs s.dev true }

/-- The state of the TAP, which `HEALTH` shows (R407, R474). -/
def tapIs (c : Cfg) (m : Mach) (v : Bool) : Mach :=
  let m : Mach := { m with flt := { m.flt with tapActive := v } }
  if m.glb.inReset then m else healthDrive c m

/-- `JTAG_TAP_ACTIVE` (R474). -/
def execJtagTapActive (s : State) : Outcome := .next (s.withM (tapIs s.dev.cfg s.dev.m true))

/-- `JTAG_TAP_RESET` (R474). -/
def execJtagTapReset (s : State) : Outcome := .next (s.withM (tapIs s.dev.cfg s.dev.m false))

/-- The trip of a junction sensor's own comparator: in reset only the pin moves (R437, R466). -/
def thermtripPin (c : Cfg) (m : Mach) : Mach :=
  if m.glb.inReset then { m with pwr := { m.pwr with trip := true } } else thermTrip c (thermAlert c m)

/-- `THERMTRIP_ASSERT` (R466). -/
def execThermtripAssert (s : State) : Outcome := .next (s.withM (thermtripPin s.dev.cfg s.dev.m))

/-! ### Clocks, rails and sensors -/

/-- `ROOT_PLL_UNLOCK` (R442). -/
def execRootPllUnlock (s : State) : Outcome := s.on rootUnlock

/-- `FAMILY_PLL_UNLOCK` (R442). -/
def execFamilyPllUnlock (family : Fin 6) (s : State) : Outcome := s.on fun c m => familyUnlock c m family

/-- `I2C_1_ALERT` (R463): the rails are read at once. -/
def execI2c1Alert (s : State) : Outcome := s.on fun _ m => m.emit .pmbus

/-- `I2C_0_READ` (R473). -/
def execI2c0Read (off : BitVec 27) (s : State) : Outcome := s.on fun c m => i2cRead c m off.toNat

/-- `THERMAL_SENSOR_READ` (R437). -/
def execThermalSensorRead (temps : List SensorRead) (s : State) : Outcome := s.on fun c m => leaveGoesOn c (sensorsRead c m temps)

/-- `RAIL_TELEMETRY_READ` (R438, R463). -/
def execRailTelemetryRead (watts : List (Option Nat)) (s : State) : Outcome := s.on fun c m => leaveGoesOn c (railsRead c m watts)

/-! ### Start-up -/

/-- `LOADER_VERIFIED` (R416). -/
def execLoaderVerified (setA setB : List Byte) (s : State) : Outcome := s.on fun c m => loaderVerified c m setA setB

/-- `IMAGE_VERIFIED` (R416). -/
def execImageVerified (setA setB : List Byte) (started : Bool) (s : State) : Outcome := s.on fun c m => imageVerified c m setA setB started

/-- `D2D_LINK_TRAINING_DONE` (R370). -/
def execD2dLinkTrainingDone (ok : Bool) (s : State) : Outcome := s.on fun c m => d2dTrained c m ok

/-- `HBM_TRAINING_DONE` (R370). -/
def execHbmTrainingDone (ok : Bool) (s : State) : Outcome := s.on fun c m => hbmTrained c m ok

/-- `SERDES_CALIBRATION_DONE` (R371). -/
def execSerdesCalibrationDone (failed : BitVec 256) (s : State) : Outcome := s.on fun c m => serdesCalibrated c m failed

/-- `RNG_FIRST_SEED` (R427). -/
def execRngFirstSeed (s : State) : Outcome := s.onSettle rngSeeded

/-- `RNG_SEED_TIMEOUT` (R427). -/
def execRngSeedTimeout (s : State) : Outcome := s.on rngTimeout

/-- `DRBG_RESEED` (R427). -/
def execDrbgReseed (ok : Bool) (s : State) : Outcome := s.on fun c m => drbgReseed c m ok

/-! ### Seal, turns and restart -/

/-- The seal checks end, and what waited for them goes on. -/
def sealDone (d : Dev) : Dev :=
  let d' : Dev := { d with m := sealChecked d.cfg d.m }
  if d.m.glb.sealSt = .checking ∧ (d.m.glb.stage ≠ .waitHost ∨ earlierWaits d.m = false) then resumeHeld d' else d'

/-- `SEAL_CHECKS_DONE` (R375-R378). -/
def execSealChecksDone (s : State) : Outcome := s.onDev sealDone

/-- `RESTART_COMPLETE` (R390). -/
def execRestartComplete (s : State) : Outcome := s.onSettle restartDone

/-- `TURN_BOUNDARY` (R386). -/
def execTurnBoundary (s : State) : Outcome := s.onDev turnBoundary

/-- `TOD_STEP_APPLY` (R236, R237). -/
def execTodStepApply (s : State) : Outcome := s.onDev todStepped

/-- `TURN_DRAIN_DONE` (R73). -/
def execTurnDrainDone (s : State) : Outcome := s.on fun _ m => turnDrained m

/-- The bank copy ends, and what waited for it goes on. -/
def copyEnds (d : Dev) : Dev := if d.m.glb.copying then resumeHeld (bankCopied d) else d

/-- `BANK_COPY_DONE` (R73, R387). -/
def execBankCopyDone (s : State) : Outcome := s.onDev copyEnds

/-! ### Faults and health -/

/-- A tick of the fault controller; commands held for a commit that it abandons go on (R389). -/
def tickProcess (d : Dev) (hs : List Hazard) (inj : List (BitVec 32 × BitVec 32)) : Dev :=
  let d' : Dev := { d with m := faultTick d.cfg d.m hs inj }
  if d.m.glb.turn ≠ .idle ∧ d'.m.glb.turn = .idle then resumeHeld d' else settleDev d'

/-- `FAULT_TICK_PROCESS` (R396). -/
def execFaultTickProcess (hs : List Hazard) (inj : List (BitVec 32 × BitVec 32)) (s : State) : Outcome := s.onDev fun d => tickProcess d hs inj

/-- `RESTORE_SELFTEST_DONE` (R406). -/
def execRestoreSelftestDone (pass : Bool) (s : State) : Outcome := s.onSettle fun c m => restoreDone c m pass

/-- `LINK_RETRAIN_FAIL` (R28). -/
def execLinkRetrainFail (link : Fin 18) (module : Fin 2) (ok : Bool) (s : State) : Outcome := s.onSettle fun c m => linkEventRx c m link module ok

/-- `QUIET_TIMER_EXPIRY` (R404). -/
def execQuietTimerExpiry (cls : Fin 64) (s : State) : Outcome := s.on fun c m => quietExpiry c m cls

/-- `HEALTH_TOGGLE` (R408). -/
def execHealthToggle (s : State) : Outcome := s.on healthToggle

/-- `HEALTH_LOW_HOLD_EXPIRY` (R408). -/
def execHealthLowHoldExpiry (s : State) : Outcome := s.on healthRelease

/-- `PC_COPY_DONE` (R314). -/
def execPcCopyDone (stack : Fin 6) (s : State) : Outcome := s.onSettle fun c m => copyDone c m stack

/-! ### Key trees, tally passes, scrubs, leave and dumps -/

/-- `KEY_TREE_GEN_DONE` (R420). -/
def execKeyTreeGenDone (s : State) : Outcome := s.onSettle treeDone

/-- `TALLY_PASS_START` (R215). -/
def execTallyPassStart (die : Fin 2) (s : State) : Outcome := s.on fun c m => tallyStart c m die

/-- `TALLY_PASS_DONE` (R215). -/
def execTallyPassDone (die : Fin 2) (s : State) : Outcome := s.on fun c m => leaveGoesOn c (tallyDone c m die)

/-- `PAGE_TALLY_START` (R216). -/
def execPageTallyStart (s : State) : Outcome := s.on fun c m => tallyStart c m 2

/-- `PAGE_TALLY_DONE` (R216). -/
def execPageTallyDone (s : State) : Outcome := s.on fun c m => leaveGoesOn c (tallyDone c m 2)

/-- `HEAVY_OP_REQUEST` (R432). -/
def execHeavyOpRequest (op : Fin 12) (unit : Nat) (s : State) : Outcome := s.on fun c m => heavyRequest c m op unit

/-- `HEAVY_OP_RELEASE` (R430). -/
def execHeavyOpRelease (op : Fin 12) (unit : Nat) (s : State) : Outcome := s.on fun c m => leaveGoesOn c (releaseLeave c m op unit)

/-- `GOVERNOR_EVAL` (R430, R432). -/
def execGovernorEval (s : State) : Outcome := s.on fun c m => leaveGoesOn c (leaveEval c m)

/-- `DEFER_TIMEOUT` (R433). -/
def execDeferTimeout (s : State) : Outcome := s.on deferTimeout

/-- `SCRUB_PASS_DUE` (R439). -/
def execScrubPassDue (stack : Fin 6) (s : State) : Outcome := s.on fun c m => scrubDue c m stack

/-- `SCRUB_PASS_END` (R439). -/
def execScrubPassEnd (stack : Fin 6) (s : State) : Outcome := s.on fun c m => leaveGoesOn c (releaseLeave c m opScrub stack)

/-- `DUMP_LATCH` (R446, R447). -/
def execDumpLatch (set : Fin 16) (s : State) : Outcome := s.onSettle fun c m => dumpLatch c m set

end Sys2Proof.Machine
end

