-- ==== Sys2Proof/Machine/TimeRows.lean ====
section
/-! DEFINITION. The rows of the time of day and of MACsec that no register write starts. -/
namespace Sys2Proof.Machine

/-- `PPS_IN_EDGE` (R238): `phase` quarters of a ns after the last AUX tick. -/
def execPpsInEdge (phase : Fin 16) (s : State) : Outcome := s.on fun c m => ppsEdge c m phase

/-- `PPS_MISSING_TIMEOUT` (R238). -/
def execPpsMissingTimeout (s : State) : Outcome := s.on ppsMissing

/-- `PPS_OUT_RISE` (R240). -/
def execPpsOutRise (s : State) : Outcome := s.on ppsRise

/-- `PPS_OUT_FALL` (R240). -/
def execPpsOutFall (s : State) : Outcome := s.on fun _ m => ppsFall m

/-- `TOD_REPLICA_CORRECT` (R235): `skew` is what the replica is off by. -/
def execTodReplicaCorrect (die : Fin 8) (skew : Int) (s : State) : Outcome := s.on fun c m => replicaCorrect c m die skew

/-- `MSC_SA_READY` (R361). -/
def execMscSaReady (die : Fin 4) (e : Fin 4096) (s : State) : Outcome := s.on fun c m => saReady c m die e

/-- `MSC_BULK_PREPARE_DONE` (R365). -/
def execMscBulkPrepareDone (die : Fin 4) (s : State) : Outcome := s.onSettle fun c m => bulkDone c m die

end Sys2Proof.Machine
end

