-- ==== Sys2Proof/Machine/Dispatch.lean ====
section
/-! DEFINITION. One arm per command: each calls its meaning, or is rejected by name. -/
namespace Sys2Proof.Machine

def exec (i : Instr) (s : State) : Host.Outcome State Fault Refusal :=
  match i with
  | .pwrgoodRise => Sys2Proof.Machine.execPwrgoodRise s
  | .pwrgoodFall => Sys2Proof.Machine.execPwrgoodFall s
  | .resetNAssert => Sys2Proof.Machine.execResetNAssert s
  | .resetNRelease => Sys2Proof.Machine.execResetNRelease s
  | .rootPllUnlock => Sys2Proof.Machine.execRootPllUnlock s
  | .familyPllUnlock family => Sys2Proof.Machine.execFamilyPllUnlock family s
  | .pciePerstAssert p => Sys2Proof.Machine.execPciePerstAssert p s
  | .ppsInEdge phase => Sys2Proof.Machine.execPpsInEdge phase s
  | .ppsMissingTimeout => Sys2Proof.Machine.execPpsMissingTimeout s
  | .ppsOutRise => Sys2Proof.Machine.execPpsOutRise s
  | .ppsOutFall => Sys2Proof.Machine.execPpsOutFall s
  | .i2c1Alert => Sys2Proof.Machine.execI2c1Alert s
  | .i2c0Read off => Sys2Proof.Machine.execI2c0Read off s
  | .jtagTapActive => Sys2Proof.Machine.execJtagTapActive s
  | .thermalSensorRead temps => Sys2Proof.Machine.execThermalSensorRead temps s
  | .thermtripAssert => Sys2Proof.Machine.execThermtripAssert s
  | .railTelemetryRead watts => Sys2Proof.Machine.execRailTelemetryRead watts s
  | .loaderVerified setA setB => Sys2Proof.Machine.execLoaderVerified setA setB s
  | .imageVerified setA setB started => Sys2Proof.Machine.execImageVerified setA setB started s
  | .hbmTrainingDone ok => Sys2Proof.Machine.execHbmTrainingDone ok s
  | .serdesCalibrationDone failed => Sys2Proof.Machine.execSerdesCalibrationDone failed s
  | .rngFirstSeed => Sys2Proof.Machine.execRngFirstSeed s
  | .rngSeedTimeout => Sys2Proof.Machine.execRngSeedTimeout s
  | .drbgReseed ok => Sys2Proof.Machine.execDrbgReseed ok s
  | .regWrite q a v => Sys2Proof.Machine.execRegWrite q a v s
  | .regReadLoLatch q a => Sys2Proof.Machine.execRegReadLoLatch q a s
  | .regWriteHiApply q off v => Sys2Proof.Machine.execRegWriteHiApply q off v s
  | .regReadClear q off => Sys2Proof.Machine.execRegReadClear q off s
  | .todNowRead q => Sys2Proof.Machine.execTodNowRead q s
  | .sealWrite q => Sys2Proof.Machine.execSealWrite q s
  | .sealChecksDone => Sys2Proof.Machine.execSealChecksDone s
  | .restartWrite q => Sys2Proof.Machine.execRestartWrite q s
  | .restartComplete => Sys2Proof.Machine.execRestartComplete s
  | .turnCommitGo q => Sys2Proof.Machine.execTurnCommitGo q s
  | .turnDiscard q => Sys2Proof.Machine.execTurnDiscard q s
  | .turnBoundary => Sys2Proof.Machine.execTurnBoundary s
  | .turnDrainDone => Sys2Proof.Machine.execTurnDrainDone s
  | .bankCopyDone => Sys2Proof.Machine.execBankCopyDone s
  | .portRoleWrite q primary roles => Sys2Proof.Machine.execPortRoleWrite q primary roles s
  | .primaryMove => Sys2Proof.Machine.execPrimaryMove s
  | .adminRingEnable q p => Sys2Proof.Machine.execAdminRingEnable q p s
  | .adminRingDisable q p => Sys2Proof.Machine.execAdminRingDisable q p s
  | .fstEnable q => Sys2Proof.Machine.execFstEnable q s
  | .fstDisable q => Sys2Proof.Machine.execFstDisable q s
  | .fstClearDone => Sys2Proof.Machine.execFstClearDone s
  | .fstTakeoverGo q slot => Sys2Proof.Machine.execFstTakeoverGo q slot s
  | .stashImageLoaded => Sys2Proof.Machine.execStashImageLoaded s
  | .takeoverWritebackDone => Sys2Proof.Machine.execTakeoverWritebackDone s
  | .fslRebuild q slice => Sys2Proof.Machine.execFslRebuild q slice s
  | .fslSweepNow q slice => Sys2Proof.Machine.execFslSweepNow q slice s
  | .pplDrain q n => Sys2Proof.Machine.execPplDrain q n s
  | .portEnable q g p speed fec lane => Sys2Proof.Machine.execPortEnable q g p speed fec lane s
  | .gateConfigChange q l => Sys2Proof.Machine.execGateConfigChange q l s
  | .gateChangeCancel q l => Sys2Proof.Machine.execGateChangeCancel q l s
  | .gateChangeTime l => Sys2Proof.Machine.execGateChangeTime l s
  | .gateIntervalExpiry l => Sys2Proof.Machine.execGateIntervalExpiry l s
  | .gateCycleStart l => Sys2Proof.Machine.execGateCycleStart l s
  | .shaperRateWrite q off v => Sys2Proof.Machine.execShaperRateWrite q off v s
  | .shaperBurstWrite q off v => Sys2Proof.Machine.execShaperBurstWrite q off v s
  | .todStep q => Sys2Proof.Machine.execTodStep q s
  | .todOffset q => Sys2Proof.Machine.execTodOffset q s
  | .todStepApply => Sys2Proof.Machine.execTodStepApply s
  | .todReplicaCorrect die skew => Sys2Proof.Machine.execTodReplicaCorrect die skew s
  | .mscSaInUseSet q die e => Sys2Proof.Machine.execMscSaInUseSet q die e s
  | .mscSaReady die e => Sys2Proof.Machine.execMscSaReady die e s
  | .mscSaInUseClear q die e => Sys2Proof.Machine.execMscSaInUseClear q die e s
  | .mscTxAnWrite q die n an => Sys2Proof.Machine.execMscTxAnWrite q die n an s
  | .mscBulkGo q die => Sys2Proof.Machine.execMscBulkGo q die s
  | .mscBulkPrepareDone die => Sys2Proof.Machine.execMscBulkPrepareDone die s
  | .fltAckWrite q cls clear => Sys2Proof.Machine.execFltAckWrite q cls clear s
  | .fltInjectWrite q v => Sys2Proof.Machine.execFltInjectWrite q v s
  | .firstErrorClear q => Sys2Proof.Machine.execFirstErrorClear q s
  | .fltRestoreGo q kind inst => Sys2Proof.Machine.execFltRestoreGo q kind inst s
  | .restoreSelftestDone pass => Sys2Proof.Machine.execRestoreSelftestDone pass s
  | .digestNow q => Sys2Proof.Machine.execDigestNow q s
  | .duoYieldWrite q yield => Sys2Proof.Machine.execDuoYieldWrite q yield s
  | .coreRunStart q core => Sys2Proof.Machine.execCoreRunStart q core s
  | .coreRunStop q core => Sys2Proof.Machine.execCoreRunStop q core s
  | .coreStopped core => Sys2Proof.Machine.execCoreStopped core s
  | .coreReset q core => Sys2Proof.Machine.execCoreReset q core s
  | .doorbell p off len v => Sys2Proof.Machine.execDoorbell p off len v s
  | .doorbellInval p r tail => Sys2Proof.Machine.execDoorbellInval p r tail s
  | .doorbellArm p r tail => Sys2Proof.Machine.execDoorbellArm p r tail s
  | .pollTailRead r v => Sys2Proof.Machine.execPollTailRead r v s
  | .descFetchDone r ds => Sys2Proof.Machine.execDescFetchDone r ds s
  | .dataReadDone r x => Sys2Proof.Machine.execDataReadDone r x s
  | .modTimeExpiry r => Sys2Proof.Machine.execModTimeExpiry r s
  | .l1ExitStart p => Sys2Proof.Machine.execL1ExitStart p s
  | .hostLinkDown p => Sys2Proof.Machine.execHostLinkDown p s
  | .hostFunctionReset p hot => Sys2Proof.Machine.execHostFunctionReset p hot s
  | .hostPowerStateChange p d3 bme pme msix => Sys2Proof.Machine.execHostPowerStateChange p d3 bme pme msix s
  | .txpFrameAdmit r => Sys2Proof.Machine.execTxpFrameAdmit r s
  | .rxpDeliver r => Sys2Proof.Machine.execRxpDeliver r s
  | .hostDmaRetry pipe => Sys2Proof.Machine.execHostDmaRetry pipe s
  | .cmdNop r q => Sys2Proof.Machine.execCmdNop r q s
  | .cmdReservedOpcode r opc q => Sys2Proof.Machine.execCmdReservedOpcode r opc q s
  | .ringCreate r q => Sys2Proof.Machine.execRingCreate r q s
  | .ringDestroy r q => Sys2Proof.Machine.execRingDestroy r q s
  | .ringQuery r q => Sys2Proof.Machine.execRingQuery r q s
  | .flowInsert r q => Sys2Proof.Machine.execFlowInsert r q s
  | .flowModify r q => Sys2Proof.Machine.execFlowModify r q s
  | .flowDelete r q => Sys2Proof.Machine.execFlowDelete r q s
  | .flowQuery r q => Sys2Proof.Machine.execFlowQuery r q s
  | .natPoolSet r q => Sys2Proof.Machine.execNatPoolSet r q s
  | .natPortFree r q => Sys2Proof.Machine.execNatPortFree r q s
  | .beGroupSet r q => Sys2Proof.Machine.execBeGroupSet r q s
  | .beSlotSet r q => Sys2Proof.Machine.execBeSlotSet r q s
  | .backendSet r q => Sys2Proof.Machine.execBackendSet r q s
  | .progLoad r q => Sys2Proof.Machine.execProgLoad r q s
  | .tmplSet r q => Sys2Proof.Machine.execTmplSet r q s
  | .parseSet r q => Sys2Proof.Machine.execParseSet r q s
  | .clsSet r q => Sys2Proof.Machine.execClsSet r q s
  | .fdbSet r q => Sys2Proof.Machine.execFdbSet r q s
  | .fdbDelete r q => Sys2Proof.Machine.execFdbDelete r q s
  | .fdbQuery r q => Sys2Proof.Machine.execFdbQuery r q s
  | .fdbFlush r q => Sys2Proof.Machine.execFdbFlush r q s
  | .bdSet r q => Sys2Proof.Machine.execBdSet r q s
  | .lpmAdd r q => Sys2Proof.Machine.execLpmAdd r q s
  | .lpmDelete r q => Sys2Proof.Machine.execLpmDelete r q s
  | .nhSet r q => Sys2Proof.Machine.execNhSet r q s
  | .ecmpGroupSet r q => Sys2Proof.Machine.execEcmpGroupSet r q s
  | .ecmpMemberSet r q => Sys2Proof.Machine.execEcmpMemberSet r q s
  | .ecmpMemberDown r q => Sys2Proof.Machine.execEcmpMemberDown r q s
  | .ecmpMemberUp r q => Sys2Proof.Machine.execEcmpMemberUp r q s
  | .subSet r q => Sys2Proof.Machine.execSubSet r q s
  | .subQuery r q => Sys2Proof.Machine.execSubQuery r q s
  | .policerSet r q => Sys2Proof.Machine.execPolicerSet r q s
  | .policerQuery r q => Sys2Proof.Machine.execPolicerQuery r q s
  | .gclSet r q => Sys2Proof.Machine.execGclSet r q s
  | .steerSet r q => Sys2Proof.Machine.execSteerSet r q s
  | .steerQuery r q => Sys2Proof.Machine.execSteerQuery r q s
  | .promote r q => Sys2Proof.Machine.execPromote r q s
  | .coreLoad r q => Sys2Proof.Machine.execCoreLoad r q s
  | .attest r q => Sys2Proof.Machine.execAttest r q s
  | .tagWrite r q => Sys2Proof.Machine.execTagWrite r q s
  | .ownerEnrol r q => Sys2Proof.Machine.execOwnerEnrol r q s
  | .keyTreeGenDone => Sys2Proof.Machine.execKeyTreeGenDone s
  | .workGet core => Sys2Proof.Machine.execWorkGet core s
  | .workArm core v => Sys2Proof.Machine.execWorkArm core v s
  | .workDoneDrop core slot reserved => Sys2Proof.Machine.execWorkDoneDrop core slot reserved s
  | .workDoneInject core slot v held => Sys2Proof.Machine.execWorkDoneInject core slot v held s
  | .workDoneDeliver core slot v held => Sys2Proof.Machine.execWorkDoneDeliver core slot v held s
  | .workDoneForward core slot v => Sys2Proof.Machine.execWorkDoneForward core slot v s
  | .workBufAlloc core => Sys2Proof.Machine.execWorkBufAlloc core s
  | .workBufFree core v => Sys2Proof.Machine.execWorkBufFree core v s
  | .workPostGo core staged held => Sys2Proof.Machine.execWorkPostGo core staged held s
  | .clusterCmdSubmit core opc q => Sys2Proof.Machine.execClusterCmdSubmit core opc q s
  | .workItemAdmit src => Sys2Proof.Machine.execWorkItemAdmit src s
  | .outputRelease => Sys2Proof.Machine.execOutputRelease s
  | .svcTimeout core slot => Sys2Proof.Machine.execSvcTimeout core slot s
  | .frameArrival l f err more => Sys2Proof.Machine.execFrameArrival l f err more s
  | .ctTailArrival l err => Sys2Proof.Machine.execCtTailArrival l err s
  | .packetParse pipe => Sys2Proof.Machine.execPacketParse pipe s
  | .flowResponse pipe idx => Sys2Proof.Machine.execFlowResponse pipe idx s
  | .holdTimeout pipe idx => Sys2Proof.Machine.execHoldTimeout pipe idx s
  | .recircReenter pipe => Sys2Proof.Machine.execRecircReenter pipe s
  | .puntTransfer pipe => Sys2Proof.Machine.execPuntTransfer pipe s
  | .crossDieArrival die => Sys2Proof.Machine.execCrossDieArrival die s
  | .parkRelease => Sys2Proof.Machine.execParkRelease s
  | .dequeueSelect l => Sys2Proof.Machine.execDequeueSelect l s
  | .frameTxDone l => Sys2Proof.Machine.execFrameTxDone l s
  | .mcastRelease die => Sys2Proof.Machine.execMcastRelease die s
  | .spillWrite die => Sys2Proof.Machine.execSpillWrite die s
  | .pageReturn q => Sys2Proof.Machine.execPageReturn q s
  | .pageQueueRefill k => Sys2Proof.Machine.execPageQueueRefill k s
  | .tallyPassStart die => Sys2Proof.Machine.execTallyPassStart die s
  | .tallyPassDone die => Sys2Proof.Machine.execTallyPassDone die s
  | .pageTallyStart => Sys2Proof.Machine.execPageTallyStart s
  | .pageTallyDone => Sys2Proof.Machine.execPageTallyDone s
  | .learnProcess die => Sys2Proof.Machine.execLearnProcess die s
  | .fdbAgeTick die => Sys2Proof.Machine.execFdbAgeTick die s
  | .sliceRequest pipe region => Sys2Proof.Machine.execSliceRequest pipe region s
  | .hbmBucketReadDone region b => Sys2Proof.Machine.execHbmBucketReadDone region b s
  | .recordMove region => Sys2Proof.Machine.execRecordMove region s
  | .stashRetry region => Sys2Proof.Machine.execStashRetry region s
  | .writebackApply region => Sys2Proof.Machine.execWritebackApply region s
  | .writebackHoldExpiry => Sys2Proof.Machine.execWritebackHoldExpiry s
  | .guardLapse region => Sys2Proof.Machine.execGuardLapse region s
  | .companionInsert => Sys2Proof.Machine.execCompanionInsert s
  | .companionDeleteConfirm => Sys2Proof.Machine.execCompanionDeleteConfirm s
  | .natQueueRefill pool => Sys2Proof.Machine.execNatQueueRefill pool s
  | .ageTick => Sys2Proof.Machine.execAgeTick s
  | .sweepDue => Sys2Proof.Machine.execSweepDue s
  | .sweepPassStart region => Sys2Proof.Machine.execSweepPassStart region s
  | .ageOut region => Sys2Proof.Machine.execAgeOut region s
  | .sweepPassEnd region => Sys2Proof.Machine.execSweepPassEnd region s
  | .ipfixFlush n => Sys2Proof.Machine.execIpfixFlush n s
  | .ipfixTemplateRefresh => Sys2Proof.Machine.execIpfixTemplateRefresh s
  | .helloSend p => Sys2Proof.Machine.execHelloSend p s
  | .syncFrameRx l f => Sys2Proof.Machine.execSyncFrameRx l f s
  | .helloRx p => Sys2Proof.Machine.execHelloRx p s
  | .recUpdateRx p => Sys2Proof.Machine.execRecUpdateRx p s
  | .recDeleteRx p => Sys2Proof.Machine.execRecDeleteRx p s
  | .ctrDeltaRx p => Sys2Proof.Machine.execCtrDeltaRx p s
  | .ackRx p => Sys2Proof.Machine.execAckRx p s
  | .bulkRx p => Sys2Proof.Machine.execBulkRx p s
  | .reconcileRx p => Sys2Proof.Machine.execReconcileRx p s
  | .steerMsgRx p => Sys2Proof.Machine.execSteerMsgRx p s
  | .steeredFrameRx l f uncontrolled => Sys2Proof.Machine.execSteeredFrameRx l f uncontrolled s
  | .syncFrameTx p path => Sys2Proof.Machine.execSyncFrameTx p path s
  | .ackSend p => Sys2Proof.Machine.execAckSend p s
  | .retxTimeout p => Sys2Proof.Machine.execRetxTimeout p s
  | .leaseCheck => Sys2Proof.Machine.execLeaseCheck s
  | .strictWaitExpiry p => Sys2Proof.Machine.execStrictWaitExpiry p s
  | .mirrorRetry region => Sys2Proof.Machine.execMirrorRetry region s
  | .digestPeriodExpiry p => Sys2Proof.Machine.execDigestPeriodExpiry p s
  | .linkRetrainFail link module ok => Sys2Proof.Machine.execLinkRetrainFail link module ok s
  | .faultTickProcess hs inj => Sys2Proof.Machine.execFaultTickProcess hs inj s
  | .quietTimerExpiry cls => Sys2Proof.Machine.execQuietTimerExpiry cls s
  | .healthToggle => Sys2Proof.Machine.execHealthToggle s
  | .pcCopyDone stack => Sys2Proof.Machine.execPcCopyDone stack s
  | .heavyOpRequest op unit => Sys2Proof.Machine.execHeavyOpRequest op unit s
  | .heavyOpRelease op unit => Sys2Proof.Machine.execHeavyOpRelease op unit s
  | .governorEval => Sys2Proof.Machine.execGovernorEval s
  | .deferTimeout => Sys2Proof.Machine.execDeferTimeout s
  | .scrubPassDue stack => Sys2Proof.Machine.execScrubPassDue stack s
  | .scrubPassEnd stack => Sys2Proof.Machine.execScrubPassEnd stack s
  | .dumpLatch set => Sys2Proof.Machine.execDumpLatch set s
  | .latencySampleWalk die => Sys2Proof.Machine.execLatencySampleWalk die s
  | .traceBatchFlush src => Sys2Proof.Machine.execTraceBatchFlush src s
  | .sweeperVisit region => Sys2Proof.Machine.execSweeperVisit region s
  | .d2dLinkTrainingDone ok => Sys2Proof.Machine.execD2dLinkTrainingDone ok s
  | .hostLinkUp p => Sys2Proof.Machine.execHostLinkUp p s
  | .linkL1Entry p sub => Sys2Proof.Machine.execLinkL1Entry p sub s
  | .linkL0Return p => Sys2Proof.Machine.execLinkL0Return p s
  | .jtagTapReset => Sys2Proof.Machine.execJtagTapReset s
  | .healthLowHoldExpiry => Sys2Proof.Machine.execHealthLowHoldExpiry s
  | .steeringEntryRestore e => Sys2Proof.Machine.execSteeringEntryRestore e s

end Sys2Proof.Machine
end

