-- ==== Sys2Proof/Machine/Tick.lean ====
section
/-! DEFINITION. One tick of the AUX clock, 4 ns (R234, R444): what moves with time and with no command (notes/assumptions/5.md). -/
namespace Sys2Proof.Machine

/-- Clocks of the core and host families in one AUX tick (R440). -/
def fastClocks : Nat := 8

/-- The clocks of every counter bank's domain, met by the counters that count them (`EVENT` 0x01, R445). -/
def bankClocks (c : Cfg) (m : Mach) : Mach :=
  (List.range pmcBanks).foldl (fun (m : Mach) b => pmcEvent c m b 1 (domMHz (bankDomain b) * m.up / 1000 - domMHz (bankDomain b) * (m.up - 4) / 1000)) m

/-- The domains that are gated count no clock of this tick (R441, R444). -/
def countGated (c : Cfg) (m : Mach) : Mach :=
  let g := (List.range 60).foldl (fun (g : Tbl Nat) d => if c.gatedDom d then Tbl.put 0 g d (Tbl.look 0 g d + 1) else g) m.pwr.gated
  { m with pwr := { m.pwr with gated := g } }

/-- Cores that hold an item count the clocks (`TSK_CORE_BUSY`, R273). -/
def coreClocks (c : Cfg) (m : Mach) : Mach :=
  (m.tsk.cores.filter fun e => !e.2.slots.isEmpty).foldl (fun (m : Mach) e => bump c m .tskCoreBusy e.1 0 0 fastClocks) m

/-- Each held source counts the clocks (`TSK_BP_CLOCKS`, R265). -/
def heldClocks (c : Cfg) (m : Mach) : Mach :=
  let n := sourcesHeld c m
  if n = 0 then m else bump c m .tskCnt cTskBpClocks 0 0 (n * fastClocks)

/-- Each sampled core that runs retires some instructions of its program, a free number in each tick (R451, notes/assumptions/77.md). -/
def coresRetire (c : Cfg) (m : Mach) : Mach :=
  (Tbl.keys m.tsk.cores).foldl (fun m n =>
    if c.on pmuTraceCoreEn n && coreRuns m n then retireMany c n (Config.freeValue m.free).toNat m.draw else m) m

/-- One AUX tick; the fault controller drives `HEALTH` at each, and releases it once its low time is over and no class holds it (R407, R408). -/
def auxTick (c : Cfg) (m : Mach) : Mach :=
  let m : Mach := { m with up := m.up + 4, tod := todTick c m.tod }
  healthRelease c <| healthDrive c (heldClocks c (coresRetire c (coreClocks c (bankClocks c (countGated c m)))))

end Sys2Proof.Machine
end

