-- ==== Sys2Proof/Machine/Step.lean ====
section
/-! DEFINITION. A step of the device: the command at the front of the queue, or, when none waits, a tick of the AUX clock. -/
namespace Sys2Proof.Machine

/-- With no command waiting, 4 ns pass (DESIGN CHOICE, notes/assumptions/5.md); in reset nothing moves. -/
def idle (s : State) : State :=
  if s.dev.m.glb.inReset then s else { s with dev := { s.dev with m := auxTick s.dev.cfg s.dev.m } }

/-- One step. -/
def step (s : State) : Host.Outcome State Fault Refusal :=
  match s.pending with
  | [] => .next (idle s)
  | i :: rest => exec i { s with pending := rest }

/-- `s` with the command that a word spells in front of its queue: no row of the table gives bits, so `s` itself. -/
def State.withFetchWord (s : State) (nbits w : Nat) : State :=
  match Sys2Proof.decodeTableWord nbits w with
  | some i => { s with pending := i :: s.pending }
  | none => s

end Sys2Proof.Machine
end

