-- ==== Sys2Proof/Safety.lean ====
section
/-! DEFINITION. The terms that claims use. -/
namespace Sys2Proof.Machine

/-- The device is out of reset: commands other than the pins' have effects (R461). -/
abbrev State.live (s : State) : Prop := s.dev.m.glb.inReset = false

/-- The machine without its configuration, and the configuration. -/
abbrev State.mach (s : State) : Mach := s.dev.m
abbrev State.conf (s : State) : Cfg := s.dev.cfg

/-- The commands that a pin's level carries, which act in reset too (R461, R466, R474). -/
def isPin : Instr → Bool
  | .pwrgoodRise | .pwrgoodFall | .resetNAssert | .resetNRelease | .jtagTapActive | .jtagTapReset | .thermtripAssert => true
  | _ => false

/-- The commands that may write configuration: register writes, and what starts or ends a reset, a seal check, a turn or a restart. -/
def writesConfig : Instr → Bool
  | .pwrgoodRise | .pwrgoodFall | .resetNAssert | .resetNRelease | .sealChecksDone | .turnBoundary | .bankCopyDone | .faultTickProcess ..
  | .regWrite .. | .regWriteHiApply .. | .sealWrite .. | .restartWrite .. | .turnCommitGo .. | .turnDiscard .. | .portRoleWrite ..
  | .adminRingEnable .. | .adminRingDisable .. | .fstEnable .. | .fstDisable .. | .fstTakeoverGo .. | .fslRebuild .. | .fslSweepNow ..
  | .pplDrain .. | .portEnable .. | .gateConfigChange .. | .gateChangeCancel .. | .shaperRateWrite .. | .shaperBurstWrite .. | .todStep ..
  | .todOffset .. | .mscSaInUseSet .. | .mscSaInUseClear .. | .mscTxAnWrite .. | .mscBulkGo .. | .fltAckWrite .. | .fltInjectWrite ..
  | .firstErrorClear .. | .fltRestoreGo .. | .digestNow .. | .duoYieldWrite .. | .coreRunStart .. | .coreRunStop .. | .coreReset .. => true
  | _ => false

/-- What every step keeps of the configuration: its tables in canonical order, and on the variant without MACsec the clocks of the
MACsec domains gated (R441). -/
structure Cfg.Inv (c : Cfg) : Prop where
  live : Tbl.rising c.live = true
  shadow : Tbl.rising c.shadow = true
  act : Tbl.rising c.act = true
  old : Tbl.rising c.old = true
  gates : c.fuse.variant = .p → ∀ d, 22 ≤ d → d ≤ 25 → c.gatedDom d = true

/-- A write of `v` to an instance of a register by `q` takes effect: it is aligned and reaches the device, the requester may make it, nothing
holds it, it names that register, which is written whole, and no rule of R479 refuses it. -/
structure Takes (d : Dev) (q : Requester) (r : Reg) (i j k : Nat) (v : Word) : Prop where
  reach : reaches d.m q = true
  aligned : regAddr r i j k % 4 = 0
  may : denied d.m (reqNum q) (regAddr r i j k) true = false
  free : waitsForSeal d.m (regAddr r i j k) = false
  present : absentBlock d.cfg (regAddr r i j k) = false
  linked : unreachable d.m (regAddr r i j k) = false
  here : locate (regAddr r i j k) = some ⟨r, i, j, k, false⟩
  whole : isCounter r = false ∧ loOf r = none ∧ hiOf r = none
  accepted : refusal d.cfg (storeCfg d.cfg (d.m.glb.sealSt == .sealed) (halves d.cfg d.m ⟨r, i, j, k, false⟩ v)) d.m
    (halves d.cfg d.m ⟨r, i, j, k, false⟩ v) = none

/-- The configuration that an accepted write leaves. -/
def State.stored (s : State) (r : Reg) (i j k : Nat) (v : Word) : Cfg :=
  storeCfg s.dev.cfg (s.dev.m.glb.sealSt == .sealed) (halves s.dev.cfg s.dev.m ⟨r, i, j, k, false⟩ v)

/-- The machine that an accepted write leaves before what it sets off: its W1C bits cleared, its bank's `EVENT` `0x04` counted (R15, R445), and
the fields stored that the device holds with its status. -/
def State.wrote (s : State) (q : Requester) (r : Reg) (i j k : Nat) (v : Word) : Mach :=
  let hs := halves s.dev.cfg s.dev.m ⟨r, i, j, k, false⟩ v
  hs.foldl (fun m h => storeStat (noteWrote m h) (reqNum q) h) (countWrite s.dev.cfg (hs.foldl clearStat s.dev.m) hs)

/-- Where a command is an accepted write of the word `v` by `q` to an instance of `r`, it ends with what `f` makes of the configuration and
machine that the write leaves, behind which what waits goes on. -/
def DoesWord (c : Instr) (s : State) (q : Requester) (r : Reg) (i j k : Nat) (v : Word) (f : Cfg → Mach → Dev) : Prop :=
  s.live → Takes s.dev q r i j k v → exec c s = .next { s with dev := settleDev (f (s.stored r i j k v) (s.wrote q r i j k v)) }

/-- The same of a command that writes the register as it stands with the fields `x :: xs` changed. -/
def Does (c : Instr) (s : State) (q : Requester) (x : Fld × Nat) (xs : List (Fld × Nat)) (i j k : Nat) (f : Cfg → Mach → Dev) : Prop :=
  DoesWord c s q x.1.reg i j k (fieldWord s.dev.cfg s.dev.m (x :: xs) i j k) f

/-- A next state with another configuration and machine, behind which what waits goes on. -/
def State.after (s : State) (c : Cfg) (m : Mach) : Outcome := .next { s with dev := settleDev ⟨c, m⟩ }

/-- A command of ring `r` is consumed at `slot`, passes the checks of R319 and R328, and nothing holds it; `q'` is the command as the ring's
version carries it, `m` the machine behind its consumption. -/
structure Starts (s : State) (r : Fin 16384) (op : CmdOp) (q q' : Cmd) (slot : Nat) (m : Mach) : Prop where
  live : s.live
  got : cmdGet s.dev.m r (opcode op) q = some (q', slot, m)
  may : permitted m (m.ring r).owner op q' = true
  input : inputOk op q' = true
  room : outputMax op q' ≤ q'.outLen.toNat
  free : mustHold m op = false
  ready : isFlowOp op = true → m.fsl.ready = true

/-- A command of ring `r` has been carried out or waits: the device begins on those prefetched behind it (R338), and what waits goes on. -/
def State.ringGoesOn (s : State) (r : Fin 16384) (m : Mach) : Outcome := .next (s.withM (settle s.dev.cfg (beginReads m r)))

/-- A command of a ring ends with an answer: its completion enters ring order, and what waits goes on. -/
def State.completes (s : State) (r : Fin 16384) (slot : Nat) (x : CmdRes) : Outcome :=
  s.ringGoesOn r (complete s.dev.cfg
    { x.2.2.2 with pwr := { x.2.2.2.pwr with waitCmds := Tbl.del x.2.2.2.pwr.waitCmds s.dev.m.pwr.nextWait } } r slot ⟨x.1, x.2.1, x.2.2.1⟩)

/-- An answer behind which the entries that the command wrote are shown to their banks (R445). -/
def counted (c : Cfg) (op : CmdOp) (q : Cmd) (x : CmdRes) : CmdRes := (x.1, x.2.1, x.2.2.1, tableWrites c op q x.1 x.2.1 x.2.2.2)

/-- Row `i` of a ring's commands, where it starts and needs no leave for its bulk, ends at once with the answer `f` gives. -/
def Answers (i : Instr) (s : State) (r : Fin 16384) (op : CmdOp) (q : Cmd) (f : Mach → Cmd → CmdRes) : Prop :=
  ∀ (q' : Cmd) (slot : Nat) (m : Mach), Starts s r op q q' slot m → isBulk op q' = false →
    exec i s = s.completes r slot (counted s.dev.cfg op q' (f m q'))

/-- The slice of a key carries out at once what comes to it now: nothing waits in the store or moves, no stash image is still to come, a pending entry
and a guard entry are free, and the key is not guarded (R89, R94, R99, R112, R117). -/
structure SliceFree (c : Cfg) (m : Mach) (key : List Byte) : Prop where
  noOps : m.fsl.ops = []
  noJobs : m.fsl.jobs = []
  noMoves : m.fsl.ledger = []
  noImage : m.imageDue (fhSlot (fhOf c m key)) = false
  room : tableFull m (fhSlot (fhOf c m key)) = false
  unguarded : m.guarded (fhSlot (fhOf c m key)) key = false
  guardRoom : m.guardFull (fhSlot (fhOf c m key)) = false

/-- An operation takes the next place in the slices' order (R89). -/
def Mach.takesPlace (m : Mach) : Mach := { m with fsl := { m.fsl with nextOrd := m.fsl.nextOrd + 1 } }

/-- Where the insert of a key from a host command, a message or a companion finds its place at once, and the machine then (R97): the room of its primary
bucket, or of its alternate one, to which it is admitted then, or, where no path may be made, the stash. `m` is the machine at its turn, `s` that before. -/
def FindsRoom (c : Cfg) (s m : Mach) (key : List Byte) (spot : Option Spot) (m' : Mach) : Prop :=
  let fh := fhOf c s key
  let region := fhSlot fh
  let wide : Bool := decide (key.length = 40)
  let first := roomAt s region (fhBucket fh) wide
  let other := roomAt s region (otherBucket fh (fhBucket fh)) wide
  (∃ pos, first = some pos ∧ spot = some (.at pos) ∧ m' = m) ∨
    (first = none ∧ m' = m.takesPlace ∧ ((∃ pos, other = some pos ∧ spot = some (.at pos)) ∨
      (other = none ∧ c.get fstMaxKicksKicks = 0 ∧ spot = stashSpot s region)))

/-- A slice has carried out an operation: what waits goes on. -/
def State.goesOn (s : State) (m : Mach) : Outcome := .next (s.withM (retryCmds s.dev.cfg (roundsForLoss s.dev.cfg (storeGo s.dev.cfg 1 m))))

/-- A flow command of ring `r` that its slice carries out at once. `m'` is the machine at that moment, the command counted (R121) and those behind it
begun (R338). -/
structure Serves (s : State) (r : Fin 16384) (op : CmdOp) (q q' : Cmd) (slot : Nat) (m m' : Mach) : Prop where
  starts : Starts s r op q q' slot m
  free : SliceFree s.conf m (flowKey op q')
  here : m' = bump s.conf (beginReads m.takesPlace r) .fslCnt
    (m.phys (fhSlot (fhOf s.conf m (flowKey op q')))) cFslHostCmd

/-- It ends with an answer: its completion enters ring order, and what waits goes on. -/
def State.served (s : State) (r : Fin 16384) (slot : Nat) (x : Nat × List Byte × Mach) : Outcome :=
  s.goesOn (complete s.dev.cfg
    { x.2.2 with pwr := { x.2.2.pwr with waitCmds := Tbl.del x.2.2.pwr.waitCmds s.dev.m.pwr.nextWait } } r slot ⟨x.1, 0, x.2.1⟩)

/-- The banked tables in canonical order. -/
structure TurnTabs.Ordered (t : TurnTabs) : Prop where
  states : Tbl.rising t.states = true
  trans : Tbl.rising t.trans = true
  rules : Tbl.rising t.rules = true
  progs : Tbl.rising t.progs = true
  tmpls : Tbl.rising t.tmpls = true

/-- The machine's own tables in canonical order, keys strictly rising, as statements about single tables take them. -/
structure Mach.Ordered (m : Mach) : Prop where
  stat : Tbl.rising m.reg.stat = true
  loHeld : Tbl.rising m.reg.loHeld = true
  todLatch : Tbl.rising m.reg.todLatch = true
  ports : Tbl.rising m.hif.ports = true
  rings : Tbl.rising m.hif.rings = true
  active : m.act.act.Ordered
  shadow : m.act.shadow.Ordered
  sweep : Tbl.rising m.fsl.sweep = true
  natBit : Tbl.rising m.fsl.natBit = true
  beGroup : Tbl.rising m.fsl.beGroup = true
  beSlot : Tbl.rising m.fsl.beSlot = true
  backend : Tbl.rising m.fsl.backend = true
  fdb : Tbl.rising m.fwd.fdb = true
  bd : Tbl.rising m.fwd.bd = true
  nh : Tbl.rising m.fwd.nh = true
  group : Tbl.rising m.fwd.group = true
  member : Tbl.rising m.fwd.member = true
  map : Tbl.rising m.fwd.map = true
  sub : Tbl.rising m.fwd.sub = true
  cir : Tbl.rising m.sch.cir = true
  pir : Tbl.rising m.sch.pir = true
  gates : Tbl.rising m.sch.gates = true
  admin : ∀ l, Tbl.rising (m.gate l).admin = true
  steer : Tbl.rising m.duo.steer = true
  est : Tbl.rising m.duo.est = true
  cores : Tbl.rising m.tsk.cores = true
  tag : Tbl.rising m.sec.nv.tag = true

/-- A table holds `count` entries of `e` from `first` on, and beyond them what it held. -/
structure Filled {α : Type} (t t' : Nat → α) (first count : Nat) (e : Nat → α) : Prop where
  inside : ∀ i < count, t' (first + i) = e i
  outside : ∀ n, n < first ∨ first + count ≤ n → t' n = t n

/-- The row of a command on a ring. -/
def ringRow (op : CmdOp) (r : Fin 16384) (q : Cmd) : Instr :=
  match op with
  | .nop => .cmdNop r q
  | .ringCreate => .ringCreate r q
  | .ringDestroy => .ringDestroy r q
  | .ringQuery => .ringQuery r q
  | .flowInsert => .flowInsert r q
  | .flowModify => .flowModify r q
  | .flowDelete => .flowDelete r q
  | .flowQuery => .flowQuery r q
  | .natPoolSet => .natPoolSet r q
  | .natPortFree => .natPortFree r q
  | .beGroupSet => .beGroupSet r q
  | .beSlotSet => .beSlotSet r q
  | .backendSet => .backendSet r q
  | .progLoad => .progLoad r q
  | .tmplSet => .tmplSet r q
  | .parseSet => .parseSet r q
  | .clsSet => .clsSet r q
  | .fdbSet => .fdbSet r q
  | .fdbDelete => .fdbDelete r q
  | .fdbQuery => .fdbQuery r q
  | .fdbFlush => .fdbFlush r q
  | .bdSet => .bdSet r q
  | .lpmAdd => .lpmAdd r q
  | .lpmDelete => .lpmDelete r q
  | .nhSet => .nhSet r q
  | .ecmpGroupSet => .ecmpGroupSet r q
  | .ecmpMemberSet => .ecmpMemberSet r q
  | .ecmpMemberDown => .ecmpMemberDown r q
  | .ecmpMemberUp => .ecmpMemberUp r q
  | .subSet => .subSet r q
  | .subQuery => .subQuery r q
  | .policerSet => .policerSet r q
  | .policerQuery => .policerQuery r q
  | .gclSet => .gclSet r q
  | .steerSet => .steerSet r q
  | .steerQuery => .steerQuery r q
  | .promote => .promote r q
  | .coreLoad => .coreLoad r q
  | .attest => .attest r q
  | .tagWrite => .tagWrite r q
  | .ownerEnrol => .ownerEnrol r q
  | .reserved => .cmdReservedOpcode r 0x7F q

end Sys2Proof.Machine
end

