-- ==== Sys2Proof/Certificates/Slice0/Obligations.lean ====
section
/-! DEFINITION. What the provers are asked to prove of the model. -/
open Sys2Proof Sys2Proof.Machine

/-! ### The machine as a whole -/

/-- A step takes the command at the front of the queue and carries it out with the rest behind it. -/
def Obligations.StepRunsTheFrontCommand : Prop :=
  ∀ (s : State) (i : Instr) (rest : List Instr), s.pending = i :: rest → step s = exec i { s with pending := rest }

/-- Every command answers a next state, and none changes the queue of those behind it. Commands outside `writesConfig` leave every configuration field
of every bank as it is. While `RESET_N` or `PWRGOOD` is low, no command but a pin's changes anything (R461). -/
def Obligations.EveryCommandAnswersInItsFrame : Prop :=
  (∀ (i : Instr) (s : State), ∃ t, exec i s = .next t ∧ t.pending = s.pending) ∧
  (∀ (i : Instr) (s t : State), writesConfig i = false → exec i s = .next t → t.conf = s.conf) ∧
  (∀ (i : Instr) (s : State), s.mach.glb.inReset = true → isPin i = false → exec i s = .next s)

/-- Every step keeps the machine's own tables in canonical order, keys strictly rising: what other statements take as a premise. -/
def Obligations.StepKeepsTablesOrdered : Prop :=
  ∀ (s t : State), s.mach.Ordered → step s = .next t → t.mach.Ordered

/-- Every step keeps the configuration tables in canonical order, and the MACsec clocks of the variant without MACsec gated (R441). What is set at
manufacture never changes (R14). -/
def Obligations.StepKeepsConfigurationInvariant : Prop :=
  (∀ (s t : State), s.conf.Inv → step s = .next t → t.conf.Inv) ∧
  (∀ (s t : State), step s = .next t → t.conf.fuse = s.conf.fuse)

/-- At `RESET_N`'s release (R14, R234, R368): stage `ROM`, unsealed, no turn, every field of every part at its table's reset value, the TOD at 0,
every ring, flow, queue and command list empty (notes/assumptions/83.md), every cell as the free lists begin with it (10). The moment of reset, the
fused values and the resets that the tables do not print are the model's choice (notes/assumptions/7.md, 8.md and 11.md). The configuration at reset,
of either variant, meets the invariant, and the machine's tables are in order. -/
def Obligations.ResetLeavesResetValues : Prop :=
  (State.reset.pending = [] ∧ State.reset.mach.glb.stage = .rom ∧ State.reset.mach.glb.inReset = false ∧
  State.reset.mach.glb.sealSt = .unsealed ∧ State.reset.mach.glb.turn = .idle ∧ State.reset.mach.tod.now = 0 ∧ State.reset.mach.up = 0 ∧
  (∀ (x : Fld) (i j k : Nat), x.part = .live ∨ x.part = .turn → State.reset.conf.get x i j k = fldReset x i j k) ∧
  (∀ (x : Fld) (i j k : Nat), State.reset.mach.st x i j k = fldReset x i j k) ∧
  (∀ r : Nat, State.reset.mach.ring r = {}) ∧ (∀ p : Nat, State.reset.mach.cell p = freshCell p) ∧ (∀ q : Nat, State.reset.mach.queue q = {}) ∧
  State.reset.mach.fsl = {} ∧ State.reset.mach.fwd = {} ∧ State.reset.mach.sec = {}) ∧
  (State.reset.conf.Inv ∧ State.reset.mach.Ordered ∧ ∀ f : Fuse, (Cfg.base f).Inv)

/-- With no command waiting and out of reset, 4 ns pass: TOD gains 4 × (1 + `TOD_ADJ` × 10^-9) ns, exactly, in units of 2^-48 ns with a remainder
carried (R234). Configuration and queue stay; of the machine only the uptime, the time of day, register counts, the power unit's gated clocks and
trace, the rings and what leaves them, the draws and the `HEALTH` pin may move, and where no core is sampled neither rings, draws nor traces. That a
step on an empty queue is a tick is the model's choice (notes/assumptions/5.md). -/
def Obligations.TickAdvancesTime : Prop :=
  (∀ s : State, s.pending = [] → s.mach.glb.inReset = true → step s = .next s) ∧
  ∀ s : State, s.pending = [] → s.live → s.mach.tod.rem < 1_000_000_000 →
    -1_000_000 ≤ toSigned 32 (s.conf.get todAdjAdj) → toSigned 32 (s.conf.get todAdjAdj) ≤ 1_000_000 →
    ∃ t, step s = .next t ∧ t.pending = [] ∧ t.conf = s.conf ∧ t.mach.up = s.mach.up + 4 ∧
      t.mach.tod.rem < 1_000_000_000 ∧
      ((t.mach.tod.now * 1_000_000_000 + t.mach.tod.rem : Nat) : Int) =
        (s.mach.tod.now * 1_000_000_000 + s.mach.tod.rem : Nat) + (4_000_000_000 + 4 * toSigned 32 (s.conf.get todAdjAdj)) * 2 ^ 48 ∧
      (let tod := { s.mach.tod with now := t.mach.tod.now, rem := t.mach.tod.rem }
       let flt := { s.mach.flt with health := t.mach.flt.health, edgeAt := t.mach.flt.edgeAt, lowSince := t.mach.flt.lowSince }
       t.mach = { s.mach with up := t.mach.up, tod := tod, flt := flt, reg := t.mach.reg, pwr := t.mach.pwr, hif := t.mach.hif
                              out := t.mach.out, free := t.mach.free } ∧
       ((∀ n, s.conf.on pmuTraceCoreEn n = false) →
        t.mach = { s.mach with up := t.mach.up, tod := tod, flt := flt, reg := t.mach.reg
                               pwr := { s.mach.pwr with gated := t.mach.pwr.gated } }))

/-- Every register instance that a block's window holds is found at its own offset, and at no other's: no two share an offset (R43). -/
def Obligations.EveryRegisterIsFoundAtItsOffset : Prop :=
  ∀ (b : Blk) (r : Reg) (x : Nat × Nat × Nat), r ∈ blkRegs b → x ∈ instances r →
    locate (regAddr r x.1 x.2.1 x.2.2) = some ⟨r, x.1, x.2.1, x.2.2, false⟩

/-! ### Pins, sensors and start-up -/

/-- The device leaves reset when `PWRGOOD` and `RESET_N` are both high, at stage `ROM` and with a `BOOT_ID` drawn; with the other pin low, only the
level moves (R289, R368, R461). A low on either pin puts the device in reset: every register, ring, table, frame and counter is at its reset value,
and only what is fused, the secure NV store, the TAP and, for `RESET_N`, `THERMTRIP_N` outlive it (R461, R466); the draw counter and the log of
outputs are the model's own. On the variant without MACsec the MACsec clocks are gated from reset on (R441). -/
def Obligations.PinsResetAndReleaseTheDevice : Prop :=
  ((∀ s : State, s.mach.glb.inReset = true → s.mach.glb.resetN = true →
    exec .pwrgoodRise s = .next (s.withM { s.mach with
      free := s.mach.free + 1
      glb := { s.mach.glb with pwrgood := true, stage := .rom, inReset := false, bootId := (Config.random s.mach.free).setWidth 32 } })) ∧
  (∀ s : State, s.mach.glb.inReset = true → s.mach.glb.pwrgood = true →
    exec .resetNRelease s = .next (s.withM { s.mach with
      free := s.mach.free + 1
      glb := { s.mach.glb with resetN := true, stage := .rom, inReset := false, bootId := (Config.random s.mach.free).setWidth 32 } })) ∧
  (∀ s : State, s.mach.glb.resetN = false →
    exec .pwrgoodRise s = .next (s.withM { s.mach with glb := { s.mach.glb with pwrgood := true } })) ∧
  (∀ s : State, s.mach.glb.pwrgood = false →
    exec .resetNRelease s = .next (s.withM { s.mach with glb := { s.mach.glb with resetN := true } }))) ∧
  ((∀ s : State, exec .pwrgoodFall s = .next { s with dev := {
    cfg := Cfg.base s.conf.fuse
    m := { glb := { stage := .reset, inReset := true, pwrgood := false, resetN := s.mach.glb.resetN }
           flt := { tapActive := s.mach.flt.tapActive }
           sec := { nv := s.mach.sec.nv, next := s.mach.sec.nv.reserved.2.2 }
           free := s.mach.free, out := s.mach.out } } }) ∧
  ∀ s : State, exec .resetNAssert s = .next { s with dev := {
    cfg := Cfg.base s.conf.fuse
    m := { glb := { stage := .reset, inReset := true, pwrgood := s.mach.glb.pwrgood, resetN := false }
           flt := { tapActive := s.mach.flt.tapActive }
           pwr := { trip := s.mach.pwr.trip }
           sec := { nv := s.mach.sec.nv, next := s.mach.sec.nv.reserved.2.2 }
           free := s.mach.free, out := s.mach.out } } })

/-- `JTAG_TAP_ACTIVE` and `JTAG_TAP_RESET` complete in every state: the TAP's state is followed, in reset with nothing else moved, and out of reset
`HEALTH` is driven by it (R407, R474). `THERMTRIP_ASSERT` completes in every state: in reset it takes `THERMTRIP_N` low alone; out of reset it takes
both thermal pins low, `THERM_ALERT_N` with a NOTE of `PWR` instance 0 and `THERMTRIP_N` with a FATAL report of instance 1, the first unless that pin
is low already, the second unless that report was made since the last reset or restart (R437, R438, R466). `FAMILY_PLL_UNLOCK` completes in every
state out of reset: the first loss of a family is noted and reported as `PWR` instance 5 at FATAL, a second changes nothing (R442). `ROOT_PLL_UNLOCK`
completes: the root PLL is noted as lost and every output is held as `holdOutputs` holds it, outputs and `PPS_OUT` low behind it (R372, R442).
`I2C_1_ALERT` completes: the device asks the regulators for their readings, and nothing else moves (R463). `THERMAL_SENSOR_READ` completes in every
state out of reset as `sensorsRead` says, with what waits for leave evaluated behind it: of 14 answers, one out of range or missing counting as 105
°C, one of `ALERT` or more takes `THERM_ALERT_N` low, answers all below `ALERT` - 3 °C and 115 °C let it rise, one of 115 °C or more takes
`THERMTRIP_N` low and none leaves that pin as it is (R437). `RAIL_TELEMETRY_READ` completes: with eight answers the base is the rails' power in pips
of 500 mW, rounded up (notes/assumptions/51.md), less the pips of the grants held; with one missing the telemetry has failed, a report of `PWR`
instance 4 at DEGRADED (R438, R463); what waits for leave is evaluated behind either. -/
def Obligations.PinsSensorsAndPllsAreFollowed : Prop :=
  ((∀ s : State, s.mach.glb.inReset = true →
    exec .jtagTapActive s = .next (s.withM { s.mach with flt := { s.mach.flt with tapActive := true } }) ∧
    exec .jtagTapReset s = .next (s.withM { s.mach with flt := { s.mach.flt with tapActive := false } }) ∧
    exec .thermtripAssert s = .next (s.withM { s.mach with pwr := { s.mach.pwr with trip := true } })) ∧
  (∀ s : State, s.live →
    exec .jtagTapActive s = .next (s.withM (healthDrive s.conf { s.mach with flt := { s.mach.flt with tapActive := true } })) ∧
    exec .jtagTapReset s = .next (s.withM (healthDrive s.conf { s.mach with flt := { s.mach.flt with tapActive := false } }))) ∧
  (∀ s : State, s.live → s.mach.pwr.tripTold = false → s.mach.pwr.alert = false →
    ∃ t, exec .thermtripAssert s = .next t ∧ t.conf = s.conf ∧ t.pending = s.pending ∧
      t.mach = { s.mach with
        reg := t.mach.reg
        pwr := { s.mach.pwr with trip := true, tripTold := true, alert := true }
        flt := { s.mach.flt with waiting := s.mach.flt.waiting ++
          [reportOf s.mach (srcOf 29 0) NOTE 0, reportOf s.mach (srcOf 29 1) FATAL 0] } }) ∧
  (∀ s : State, s.live → s.mach.pwr.tripTold = false → s.mach.pwr.alert = true →
    ∃ t, exec .thermtripAssert s = .next t ∧ t.conf = s.conf ∧ t.pending = s.pending ∧
      t.mach = { s.mach with
        reg := t.mach.reg
        pwr := { s.mach.pwr with trip := true, tripTold := true }
        flt := { s.mach.flt with waiting := s.mach.flt.waiting ++ [reportOf s.mach (srcOf 29 1) FATAL 0] } }) ∧
  (∀ s : State, s.live → s.mach.pwr.trip = true → s.mach.pwr.tripTold = true → s.mach.pwr.alert = false →
    ∃ t, exec .thermtripAssert s = .next t ∧ t.conf = s.conf ∧ t.pending = s.pending ∧
      t.mach = { s.mach with
        reg := t.mach.reg
        pwr := { s.mach.pwr with alert := true }
        flt := { s.mach.flt with waiting := s.mach.flt.waiting ++ [reportOf s.mach (srcOf 29 0) NOTE 0] } }) ∧
  ∀ s : State, s.live → s.mach.pwr.trip = true → s.mach.pwr.tripTold = true → s.mach.pwr.alert = true → exec .thermtripAssert s = .next s) ∧
  ((∀ (s : State) (k : Fin 6), s.live → s.mach.pwr.pllLost.getLsbD k = false →
    ∃ t, exec (.familyPllUnlock k) s = .next t ∧ t.conf = s.conf ∧ t.pending = s.pending ∧
      t.mach = { s.mach with
        reg := t.mach.reg
        pwr := { s.mach.pwr with pllLost := s.mach.pwr.pllLost ||| BitVec.ofNat 6 (2 ^ k.val) }
        flt := { s.mach.flt with waiting := s.mach.flt.waiting ++ [reportOf s.mach (srcOf 29 5) FATAL 0] } }) ∧
  (∀ (s : State) (k : Fin 6), s.live → s.mach.pwr.pllLost.getLsbD k = true → exec (.familyPllUnlock k) s = .next s) ∧
  (∀ s : State, s.live → ∃ t, exec .rootPllUnlock s = .next t ∧ t.conf = s.conf ∧ t.pending = s.pending ∧
      t.mach = holdOutputs s.conf { s.mach with glb := { s.mach.glb with rootLost := true } } ∧
      t.mach.glb.rootLost = true ∧ t.mach.glb.outputs = false ∧ t.mach.tod.ppsOut = false) ∧
  ∀ s : State, s.live → exec .i2c1Alert s = .next (s.withM { s.mach with out := s.mach.out ++ [.pmbus] })) ∧
  ((∀ (s : State) (temps : List SensorRead), s.live →
    exec (.thermalSensorRead temps) s = .next (s.withM (leaveGoesOn s.conf (sensorsRead s.conf s.mach temps)))) ∧
  (∀ (c : Cfg) (m : Mach) (temps : List SensorRead), temps.length = 14 →
    ((∃ e ∈ temps, (c.get pwrThermCfgAlert : Int) ≤ sensorCounts e) → (sensorsRead c m temps).pwr.alert = true) ∧
    ((∀ e ∈ temps, sensorCounts e < (c.get pwrThermCfgAlert : Int) - 3 ∧ sensorCounts e < 115) → (sensorsRead c m temps).pwr.alert = false) ∧
    ((∃ e ∈ temps, 115 ≤ sensorCounts e) → (sensorsRead c m temps).pwr.trip = true) ∧
    ((∀ e ∈ temps, sensorCounts e < 115) → (sensorsRead c m temps).pwr.trip = m.pwr.trip)) ∧
  (∀ (s : State) (rails : List Nat), s.live → rails.length = 8 →
    exec (.railTelemetryRead (rails.map some)) s = .next (s.withM (leaveGoesOn s.conf { s.mach with
      pwr := { s.mach.pwr with railFail := false, base := (rails.sum + 499) / 500 - pipsOf s.mach.pwr.grants } }))) ∧
  ∀ (s : State) (rails : List (Option Nat)), s.live → (∃ r < 8, rails.getD r none = none) →
    exec (.railTelemetryRead rails) s =
      .next (s.withM (leaveGoesOn s.conf (raise s.conf { s.mach with pwr := { s.mach.pwr with railFail := true } } 29 4 DEGRADED))))

/-- Start-up passes from stage to stage (R368, R416): a loader that verifies takes stage `ROM` to `VERIFY` with its measurement at index 0, from set B
with `SEC` instance 0 at DEGRADED where set A holds none (notes/assumptions/39.md and 50.md), and without one that verifies start-up stops with cause
1; HBM training ends at `SERDES_CAL`; calibration marks each failed lane, raises `START` instance 4 at DEGRADED for each (R371), and ends at
`WAIT_HOST`; training of the die links is noted, and ends `VERIFY` once five kinds of image run. Outside its stage such a command changes nothing. A
failed training stops the start-up at `FAILED` with its cause and a FATAL report (R370): 3 and `START` instance 2 for the die links, 2 and instance 1
for HBM. An image of the next kind, in the order 8, 2, 3, 4, 5, that verifies is measured and runs, kind 5 the last of `VERIFY`; it is taken from the
other set, reported, where the loader's own holds none (R412, R416; notes/assumptions/39.md). One that only one set holds and that does not verify
stops start-up with cause 1, and a PHY firmware (4, 5) that does not start with cause 4 and `START` instance 3 at FATAL (R370). A policy bundle (8)
that neither set holds is passed over (notes/assumptions/50.md). -/
def Obligations.StartupAdvancesStageByStage : Prop :=
  ((∀ (s : State) (setA setB b : List Byte), s.live → s.mach.glb.stage = .rom →
    (inSet setA 1 = some b → inSet setB 1 = none → exec (.loaderVerified setA setB) s = .next (s.withM (
      if bundleCheck s.conf s.mach [1] b = none then { s.mach with
        glb := { s.mach.glb with stage := .verify, loaderB := false }
        sec := { s.mach.sec with meas := Tbl.put {} s.mach.sec.meas 0 (bundleOf b).meas } }
      else raise s.conf { s.mach with glb := { s.mach.glb with stage := .failed, cause := 1 } } 0 0 FATAL))) ∧
    (inSet setA 1 = none → inSet setB 1 = some b →
      let m := raise s.conf s.mach 28 0 DEGRADED
      exec (.loaderVerified setA setB) s = .next (s.withM (
        if bundleCheck s.conf m [1] b = none then { m with
          glb := { m.glb with stage := .verify, loaderB := true }
          sec := { m.sec with meas := Tbl.put {} m.sec.meas 0 (bundleOf b).meas } }
        else raise s.conf { m with glb := { m.glb with stage := .failed, cause := 1 } } 0 0 FATAL))) ∧
    (inSet setA 1 = none → inSet setB 1 = none → exec (.loaderVerified setA setB) s =
      .next (s.withM (raise s.conf { s.mach with glb := { s.mach.glb with stage := .failed, cause := 1 } } 0 0 FATAL)))) ∧
  (∀ (s : State) (ok : Bool), s.live → s.mach.glb.stage = .hbmTrain → ok = true →
    exec (.hbmTrainingDone ok) s = .next (s.withM { s.mach with glb := { s.mach.glb with stage := .serdesCal } })) ∧
  (∀ s : State, s.live → s.mach.glb.stage = .serdesCal →
    ∃ t, exec (.serdesCalibrationDone 0) s = .next t ∧ t.conf = s.conf ∧ t.pending = s.pending ∧
      t.mach = { s.mach with reg := t.mach.reg, glb := { s.mach.glb with stage := .waitHost } }) ∧
  (∀ (s : State) (failed : BitVec 256), s.live → s.mach.glb.stage = .serdesCal →
    ∃ t, exec (.serdesCalibrationDone failed) s = .next t ∧ t.conf = s.conf ∧ t.pending = s.pending ∧ t.mach.glb.stage = .waitHost ∧
      t.mach.flt.waiting = s.mach.flt.waiting ++ (pick 256 failed.getLsbD).map fun n => reportOf s.mach (srcOf 0 4) DEGRADED n) ∧
  (∀ s : State, s.live → s.mach.glb.stage = .verify → s.mach.glb.images.length = 5 →
    exec (.d2dLinkTrainingDone true) s = .next (s.withM { s.mach with glb := { s.mach.glb with d2dTrained := true, stage := .hbmTrain } })) ∧
  (∀ s : State, s.live → s.mach.glb.stage = .verify → s.mach.glb.images.length < 5 →
    exec (.d2dLinkTrainingDone true) s = .next (s.withM { s.mach with glb := { s.mach.glb with d2dTrained := true } })) ∧
  ∀ (s : State) (setA setB : List Byte) (ok : Bool) (failed : BitVec 256), s.live → s.mach.glb.stage = .sealed →
    exec (.loaderVerified setA setB) s = .next s ∧ exec (.hbmTrainingDone ok) s = .next s ∧ exec (.serdesCalibrationDone failed) s = .next s ∧
    exec (.d2dLinkTrainingDone ok) s = .next s) ∧
  ((∀ s : State, s.live → s.mach.glb.stage = .verify →
    exec (.d2dLinkTrainingDone false) s =
      .next (s.withM (raise s.conf { s.mach with glb := { s.mach.glb with stage := .failed, cause := 3 } } 0 2 FATAL))) ∧
  ∀ s : State, s.live → s.mach.glb.stage = .hbmTrain →
    exec (.hbmTrainingDone false) s =
      .next (s.withM (raise s.conf { s.mach with glb := { s.mach.glb with stage := .failed, cause := 2 } } 0 1 FATAL))) ∧
  ((∀ (s : State) (setA setB b : List Byte) (started : Bool) (k : Nat), s.live → s.mach.glb.stage = .verify → 2 ≤ k → k ≤ 5 →
    s.mach.glb.images = 8 :: List.range' 2 (k - 2) → s.mach.glb.loaderB = false →
    let runs (m : Mach) : Mach :=
      let sec := { m.sec with meas := Tbl.put {} m.sec.meas (k - 1) (bundleOf b).meas }
      if 4 ≤ k ∧ started = false then raise s.conf { m with sec := sec, glb := { m.glb with stage := .failed, cause := 4 } } 0 3 FATAL
      else { m with sec := sec, glb := { m.glb with
        images := s.mach.glb.images ++ [k], stage := if k = 5 ∧ s.mach.glb.d2dTrained = true then .hbmTrain else .verify } }
    let stops (m : Mach) : Mach := raise s.conf { m with glb := { m.glb with stage := .failed, cause := 1 } } 0 0 FATAL
    (inSet setA k = some b → inSet setB k = none → exec (.imageVerified setA setB started) s =
      .next (s.withM (if bundleCheck s.conf s.mach [k] b = none then runs s.mach else stops s.mach))) ∧
    (inSet setA k = none → inSet setB k = some b →
      let m := raise s.conf s.mach 28 0 DEGRADED
      exec (.imageVerified setA setB started) s = .next (s.withM (if bundleCheck s.conf m [k] b = none then runs m else stops m)))) ∧
  ∀ (s : State) (setA setB : List Byte) (started : Bool), s.live → s.mach.glb.stage = .verify → s.mach.glb.images = [] →
    inSet setA 8 = none → inSet setB 8 = none →
    exec (.imageVerified setA setB started) s = .next (s.withM { s.mach with glb := { s.mach.glb with images := [8] } }))

/-- The random source (R420, R427): its first seeding is noted and the first key tree is asked for (notes/assumptions/58.md); a timeout counts from
100 ms on and only before it, and stops the start-up with cause 5 and `SEC` instance 2 at FATAL; a reseeding whose health tests fail raises `SEC`
instance 2 at DEGRADED. -/
def Obligations.RandomSourceSeedingAndItsTimeout : Prop :=
  (∀ s : State, s.live → s.mach.sec.rngSeeded = false →
    exec .rngFirstSeed s = .next (s.withM (settle s.conf
      (treeAsk s.conf { s.mach with sec := { s.mach.sec with rngSeeded := true, rngOk := true } }).2))) ∧
  (∀ s : State, s.live → s.mach.sec.rngSeeded = false → 100_000_000 ≤ s.mach.up →
    exec .rngSeedTimeout s = .next (s.withM (raise s.conf (failStart s.mach 5) 28 2 FATAL))) ∧
  (∀ s : State, s.live → s.mach.sec.rngSeeded = true ∨ s.mach.up < 100_000_000 → exec .rngSeedTimeout s = .next s) ∧
  (∀ s : State, s.live → s.mach.sec.rngSeeded = true →
    exec (.drbgReseed true) s = .next (s.withM { s.mach with sec := { s.mach.sec with rngOk := true } })) ∧
  (∀ s : State, s.live → s.mach.sec.rngSeeded = true →
    exec (.drbgReseed false) s = .next (s.withM (raise s.conf { s.mach with sec := { s.mach.sec with rngOk := false } } 28 2 DEGRADED))) ∧
  ∀ (s : State) (cause : Nat), s.mach.glb.stage = .waitHost →
    failStart s.mach cause = { s.mach with glb := { s.mach.glb with stage := .failed, cause := cause } }

/-! ### Register accesses and register rows -/

/-- An aligned access that a port's role refuses (R319-R321) is counted in `HIF_DENY` and latched where the latch is free: a refused write changes
nothing else, and a refused read answers all ones. A write of a port that takes no access, without link or out of D0, has no effect at all
(notes/assumptions/15.md). An access that is not aligned to 4 bytes, or of 8, 16 or 64 bits (R9): a write is discarded, a read answers all ones;
neither changes a register. -/
def Obligations.DeniedOrUnalignedAccessHasNoEffect : Prop :=
  ((∀ (s : State) (p : Fin 4) (off : BitVec 27) (v : Word), s.live → reaches s.mach (.host p) = true → off.toNat % 4 = 0 →
    denied s.mach p off.toNat true = true →
    ∃ t, exec (.regWrite (.host p) ⟨off, .b32⟩ v) s = .next t ∧ t.conf = s.conf ∧ t.pending = s.pending ∧ t.mach = { s.mach with reg := t.mach.reg }) ∧
  (∀ (s : State) (p : Fin 4) (off : BitVec 27), s.live → reaches s.mach (.host p) = true → off.toNat % 4 = 0 →
    denied s.mach p off.toNat false = true →
    ∃ t, exec (.regReadClear (.host p) off) s = .next t ∧ t.conf = s.conf ∧ t.pending = s.pending ∧
      t.mach = { s.mach with reg := t.mach.reg, out := s.mach.out ++ [.regRead (.host p) off.toNat 0xFFFF_FFFF] }) ∧
  (∀ (m : Mach) (c : Cfg) (q : Nat) (off : Nat) (w : Bool), q < 4 → m.stOn hifDeniedValid q = true → countDenied c m q off w = bump c m .hifCnt q cHifDeny) ∧
  ∀ (s : State) (p : Fin 4) (off : BitVec 27) (v : Word), s.live → portTakes s.mach p = false → exec (.regWrite (.host p) ⟨off, .b32⟩ v) s = .next s) ∧
  ((∀ (s : State) (q : Requester) (off : BitVec 27) (v : Word), s.live → reaches s.mach q = true → off.toNat % 4 ≠ 0 →
    exec (.regWrite q ⟨off, .b32⟩ v) s = .next s ∧ exec (.regWriteHiApply q off v) s = .next s ∧
    exec (.regReadLoLatch q ⟨off, .b32⟩) s = .next (s.withM { s.mach with out := s.mach.out ++ [.regRead q off.toNat 0xFFFF_FFFF] }) ∧
    exec (.regReadClear q off) s = .next (s.withM { s.mach with out := s.mach.out ++ [.regRead q off.toNat 0xFFFF_FFFF] })) ∧
  ∀ (s : State) (q : Requester) (size : AccSize) (off : BitVec 27) (v : Word), s.live → reaches s.mach q = true → size ≠ .b32 →
    exec (.regWrite q ⟨off, size⟩ v) s = .next s ∧
    exec (.regReadLoLatch q ⟨off, size⟩) s = .next (s.withM { s.mach with out := s.mach.out ++ [.regRead q off.toNat 0xFFFF_FFFF] }))

/-- A refused write is refused whole (R479, R384): configuration, status and held halves stay; the latch takes the field's register, the cause and the
requester where it is free, and the count goes up by 1, up to its end. -/
def Obligations.RefusedWriteIsRefusedWhole : Prop :=
  ∀ (s : State) (q : Requester) (off : BitVec 27) (v : Word) (x : Loc) (cause : Nat) (h : Half), s.live → reaches s.mach q = true →
    off.toNat % 4 = 0 → denied s.mach (reqNum q) off.toNat true = false → waitsForSeal s.mach off.toNat = false →
    absentBlock s.conf off.toNat = false → unreachable s.mach off.toNat = false → locate off.toNat = some x → isCounter x.reg = false →
    hiOf x.reg = none → loOf x.reg = none →
    refusal s.conf (storeCfg s.conf (s.mach.glb.sealSt == .sealed) (halves s.conf s.mach x v)) s.mach (halves s.conf s.mach x v) = some (cause, h) →
    exec (.regWrite q ⟨off, .b32⟩ v) s = s.after s.conf (refuse s.mach (reqNum q) h.off cause 0) ∧
    (refuse s.mach (reqNum q) h.off cause 0) = { s.mach with reg := (refuse s.mach (reqNum q) h.off cause 0).reg } ∧
    (s.mach.stOn glbCfgRefusedCfgWriteRefused = true →
      refuse s.mach (reqNum q) h.off cause 0 =
        s.mach.setSt glbCfgRefusedCntCount (min (2 ^ 32 - 1) (s.mach.st glbCfgRefusedCntCount + 1)))

/-- An accepted write (R9, R10, R13, R16, R373): the write of an `_LO` half that software may write is only held; any other takes effect with its
status fields stored and its hook run on the configuration it leaves; before the seal a T-class field is written in both banks, after it in the shadow
alone. A register whose write sets nothing else off (here `FWD_LPORT`) leaves exactly that. -/
def Obligations.AcceptedWriteStoresItsFields : Prop :=
  (∀ (s : State) (q : Requester) (r : Reg) (i j k : Nat) (v : Word) (off : BitVec 27), s.live → Takes s.dev q r i j k v → off.toNat = regAddr r i j k →
    exec (.regWrite q ⟨off, .b32⟩ v) s = .next { s with dev := settleDev ((halves s.conf s.mach ⟨r, i, j, k, false⟩ v).foldl
      (fun d h => writeHook s.conf s.mach (reqNum q) h d) ⟨s.stored r i j k v, s.wrote q r i j k v⟩) }) ∧
  (∀ (s : State) (q : Requester) (i j : Nat) (v : Word) (off : BitVec 27), s.live → Takes s.dev q .fwdLport i j 0 v →
    off.toNat = regAddr .fwdLport i j 0 → ∃ r, exec (.regWrite q ⟨off, .b32⟩ v) s = s.after (s.stored .fwdLport i j 0 v) { s.mach with reg := r }) ∧
  (∀ (c : Cfg) (hs : List Half), (storeCfg c true hs).act = c.act ∧ (storeCfg c true hs).old = c.old ∧
    (storeCfg c false hs).act = storePart .turn c.act (mirrorHalves hs) ∧ (storeCfg c true hs).shadow = (storeCfg c false hs).shadow) ∧
  ∀ (s : State) (q : Requester) (off : BitVec 27) (v : Word) (x : Loc), s.live → reaches s.mach q = true → off.toNat % 4 = 0 →
    denied s.mach (reqNum q) off.toNat true = false → waitsForSeal s.mach off.toNat = false → absentBlock s.conf off.toNat = false →
    unreachable s.mach off.toNat = false → locate off.toNat = some x → isCounter x.reg = false → (hiOf x.reg).isSome = true →
    (regFields x.reg).any (·.settable) = true →
    exec (.regWrite q ⟨off, .b32⟩ v) s =
      s.after s.conf { s.mach with reg := { s.mach.reg with loHeld := Tbl.ins s.mach.reg.loHeld off.toNat v } }

/-- A write of an `_HI` half that takes effect applies the held `_LO` half with it and uses it up (R10): here `FST_SAVE_BASE`. A read of a counter's
low half answers its low 32 bits and latches its high half in the requester's one latch (R10); a read of `TOD_NOW_NS` latches the whole time for its
requester and answers the nanoseconds (R236). A read of a histogram bin answers its count and clears it (R13, R273). -/
def Obligations.HalvesAreHeldLatchedAndCleared : Prop :=
  (∀ (s : State) (q : Requester) (v w : Word) (off : BitVec 27), s.live → reaches s.mach q = true → off.toNat = regAddr .fstSaveBaseHi 0 0 0 →
    denied s.mach (reqNum q) off.toNat true = false → waitsForSeal s.mach off.toNat = false → unreachable s.mach off.toNat = false →
    Tbl.rising s.conf.live = true → Tbl.find s.mach.reg.loHeld (regAddr .fstSaveBaseLo 0 0 0) = some w → s.mach.glb.sealSt = .unsealed →
    (let hs := halves s.conf s.mach ⟨.fstSaveBaseHi, 0, 0, 0, false⟩ v
     refusal s.conf (storeCfg s.conf false hs) { s.mach with reg := { s.mach.reg with
       loHeld := Tbl.del s.mach.reg.loHeld (regAddr .fstSaveBaseLo 0 0 0) } } hs = none) →
    ∃ c r, exec (.regWriteHiApply q off v) s = s.after c { s.mach with reg := r } ∧
      r.loHeld = Tbl.del s.mach.reg.loHeld (regAddr .fstSaveBaseLo 0 0 0) ∧
      ∀ x ∈ regFields .fstSaveBaseLo, x.settable = true → c.get x = bits w.toNat x.hi x.lo) ∧
  ((∀ (s : State) (q : Requester) (off : BitVec 27) (x : Loc), s.live → reaches s.mach q = true → off.toNat % 4 = 0 →
    denied s.mach (reqNum q) off.toNat false = false → absentBlock s.conf off.toNat = false → unreachable s.mach off.toNat = false →
    locate off.toNat = some x → isCounter x.reg = true → x.hi = false →
    let v := s.mach.ctr x.reg x.i x.j x.k
    exec (.regReadLoLatch q ⟨off, .b32⟩) s = .next (s.withM { s.mach with
      reg := { s.mach.reg with hiLatch := Tbl.put 0 s.mach.reg.hiLatch (reqNum q) (BitVec.ofNat 32 (v / 2 ^ 32)) }
      out := s.mach.out ++ [.regRead q off.toNat (BitVec.ofNat 32 v)] })) ∧
  ∀ (s : State) (q : Requester), s.live → reaches s.mach q = true → denied s.mach (reqNum q) (regAddr .todNowNs 0 0 0) false = false →
    ∃ v, exec (.todNowRead q) s = .next (s.withM { s.mach with
      reg := { s.mach.reg with todLatch := Tbl.put 0 s.mach.reg.todLatch (reqNum q) s.mach.todFrac }
      out := s.mach.out ++ [.regRead q (regAddr .todNowNs 0 0 0) v] }) ∧
      (Tbl.rising s.mach.reg.todLatch = true → v = BitVec.ofNat 32 (s.mach.todNs % 1_000_000_000))) ∧
  (∀ (s : State) (q : Requester) (k : Fin 16) (off : BitVec 27), s.live → reaches s.mach q = true → off.toNat = regAddr .tskHistBin k 0 0 →
    denied s.mach (reqNum q) off.toNat false = false → unreachable s.mach off.toNat = false → locate off.toNat = some ⟨.tskHistBin, k, 0, 0, false⟩ →
    let w := s.conf.get tskHistSelWq
    let x := s.mach.wq w
    exec (.regReadClear q off) s = .next (s.withM { s.mach with
      tsk := { s.mach.tsk with queues := Tbl.put {} s.mach.tsk.queues w { x with hist := Tbl.put 0 x.hist k 0 } }
      out := s.mach.out ++ [.regRead q off.toNat (BitVec.ofNat 32 (Tbl.look 0 x.hist k % 2 ^ 32))] }))

/-- What an accepted write stores with the status (R13): beyond the register's own word, its held `_LO` half's and its counter bank, no status word,
no counter and nothing outside the registers changes. -/
def Obligations.AcceptedWriteTouchesItsOwnStatus : Prop :=
  ∀ (s : State) (q : Requester) (r : Reg) (i j k : Nat) (v : Word), Tbl.rising s.mach.reg.stat = true → r ≠ .glbReadBank →
    s.wrote q r i j k v = { s.mach with reg := (s.wrote q r i j k v).reg } ∧
    (s.wrote q r i j k v).reg = { s.mach.reg with
      stat := (s.wrote q r i j k v).reg.stat, pmcLast := (s.wrote q r i j k v).reg.pmcLast, pmcWrote := (s.wrote q r i j k v).reg.pmcWrote } ∧
    ∀ a : Nat, a ≠ regAddr r i j k → (∀ lo, loOf r = some lo → a ≠ regAddr lo i j k) →
      (∀ b, bankOf (regAddr r i j k) = some b ∨ (∃ lo, loOf r = some lo ∧ bankOf (regAddr lo i j k) = some b) → a < pmcBankBase b ∨ pmcBankBase b + 0x100 ≤ a) →
      Tbl.find (s.wrote q r i j k v).reg.stat a = Tbl.find s.mach.reg.stat a

/-- The keys of the seal and of a restart. `GLB_SEAL` starts the checks at `WAIT_HOST` unless they run or have passed, else does nothing (R375, R389).
`GLB_RESTART` before `WAIT_HOST`, after a failed start-up or while a reset is asked for is refused and marked (R390, R402); else the configuration
returns to its reset values but for `TOD_ADJ`, and every unit is as it was at reset, restarting; what start-up found, link states, time of day and
uptime stay (notes/assumptions/47.md, 59.md and 76.md), and tallies, scrubs and the FDB's age begin their periods anew (notes/assumptions/56.md,
120.md and 121.md). -/
def Obligations.SealAndRestartKeysAct : Prop :=
  (∀ (s : State) (q : Requester), s.mach.glb.stage = .waitHost → s.mach.glb.sealSt = .unsealed ∨ s.mach.glb.sealSt = .refused →
    Does (.sealWrite q) s q (glbSealKey, 0x5EA1) [] 0 0 0 fun c m => ⟨c, { m with glb := { m.glb with sealSt := .checking, sealBy := reqNum q } }⟩) ∧
  (∀ (s : State) (q : Requester), s.mach.glb.stage ≠ .waitHost ∨ s.mach.glb.sealSt = .checking ∨ s.mach.glb.sealSt = .sealed →
    Does (.sealWrite q) s q (glbSealKey, 0x5EA1) [] 0 0 0 fun c m => ⟨c, m⟩) ∧
  (∀ (s : State) (q : Requester), s.mach.flt.resetReq = true ∨ s.mach.glb.stage.num < 5 ∨ s.mach.glb.stage = .failed →
    Does (.restartWrite q) s q (glbRestartKey, 0xC01D) [] 0 0 0 fun c m => ⟨c, m.setSt fltStatRestartRefused 1⟩) ∧
  ∀ (s : State) (q : Requester), s.live → s.mach.flt.resetReq = false → 5 ≤ s.mach.glb.stage.num → s.mach.glb.stage ≠ .failed →
    Takes s.dev q .glbRestart 0 0 0 (fieldWord s.conf s.mach [(glbRestartKey, 0xC01D)] 0 0 0) →
    ∃ t, exec (.restartWrite q) s = .next t ∧ t.pending = s.pending ∧
      t.conf = (Cfg.base s.conf.fuse).setLive todAdjAdj (s.conf.get todAdjAdj) ∧
      t.mach.glb.stage = .reset ∧ t.mach.glb.restarting = true ∧ t.mach.glb.sealSt = .unsealed ∧ t.mach.glb.turn = .idle ∧
      t.mach.glb.outputs = false ∧ t.mach.hif.rings = [] ∧ t.mach.act = {} ∧ t.mach.ppl = {} ∧ t.mach.fsl = {} ∧
      t.mach.fwd = { fdbDue := (List.range 2).map fun d => (d, s.mach.up + 1_000_000_000) } ∧
      t.mach.tmg = { tallyAt := (List.range 3).map fun u => (u, s.mach.up + tallyPeriod (Cfg.base s.conf.fuse) u) } ∧ t.mach.sch = {} ∧ t.mach.tsk = {} ∧ t.mach.duo = {} ∧ t.mach.msc = {} ∧ t.mach.reg.cnt = [] ∧
      (s.mach.glb.held = [] → t.mach.tod.now = s.mach.tod.now ∧ t.mach.sec.nv = s.mach.sec.nv ∧ t.mach.up = s.mach.up)

/-- `GLB_TURN_COMMIT` (R385). `GO` shows 4 before the seal, 1 while a commit is under way, 2 where its time is less than 2 µs ahead, 3 with the first
failed check; else the commit is scheduled. -/
def Obligations.TurnCommitIsScheduledOrAnswered : Prop :=
  (∀ (s : State) (q : Requester), s.mach.glb.sealSt ≠ .sealed →
    Does (.turnCommitGo q) s q (glbTurnCommitGo, 1) [] 0 0 0 fun c m => ⟨c, { m with glb := { m.glb with turnResult := 4 } }⟩) ∧
  (∀ (s : State) (q : Requester), s.mach.glb.sealSt = .sealed → s.mach.glb.turn ≠ .idle →
    Does (.turnCommitGo q) s q (glbTurnCommitGo, 1) [] 0 0 0 fun c m => ⟨c, { m with glb := { m.glb with turnResult := 1 } }⟩) ∧
  ∀ (s : State) (q : Requester), s.mach.glb.sealSt = .sealed → s.mach.glb.turn = .idle →
    Does (.turnCommitGo q) s q (glbTurnCommitGo, 1) [] 0 0 0 fun c m =>
      if turnTime c * 2 ^ 48 < m.tod.now + 2000 * 2 ^ 48 then ⟨c, { m with glb := { m.glb with turnResult := 2 } }⟩
      else match firstFailure c m commitCodes with
        | some (code, place) => ⟨c, { m with glb := { m.glb with turnResult := 3, turnCode := code, turnWhere := place } }⟩
        | none => ⟨c, { m with glb := { m.glb with turnResult := 0, turn := .scheduled, boundary := turnTime c } }⟩

/-- `TURN_DISCARD` with no commit under way copies every active field of T class and every active bank into the shadow, and `RESULT` shows 0; while
one is, it changes nothing but `RESULT`, which shows 1 (R388). That `RESULT` shows 0 where the discard is carried out is the model's reading
(notes/assumptions/117.md), and that `CODE` and `WHERE` stay as they were is its choice (27). -/
def Obligations.TurnDiscardRestoresTheShadow : Prop :=
  (∀ (s : State) (q : Requester), s.mach.glb.turn = .idle →
    Does (.turnDiscard q) s q (glbTurnCommitDiscard, 1) [] 0 0 0 fun c m =>
      ⟨{ c with shadow := c.act }, { m with glb := { m.glb with turnResult := 0 }, act := { m.act with shadow := m.act.act }, sec := { m.sec with shadowProg := Tbl.look {} m.sec.meas 5 } }⟩) ∧
  ∀ (s : State) (q : Requester), s.mach.glb.turn ≠ .idle →
    Does (.turnDiscard q) s q (glbTurnCommitDiscard, 1) [] 0 0 0 fun c m => ⟨c, { m with glb := { m.glb with turnResult := 1 } }⟩

/-- Roles and admin rings (R319, R320, R324). A write of `HIF_PORT_ROLE` names the primary and the roles of all ports but the one that is the primary,
and destroys the rings a role no longer permits. `EN` written 1 makes the admin ring of its registers, where none stands and size and version are in
order, and shows 1 or 2 in `ERR` where they are not; written 0 it destroys the ring. -/
def Obligations.RolesAndAdminRingsFollowTheirRegisters : Prop :=
  (∀ (s : State) (q : Requester) (p : Fin 4) (roles : BitVec 8),
    Does (.portRoleWrite q p roles) s q (hifPortRolePrimary, p) [(hifPortRoleRoles, roles.toNat)] 0 0 0 fun c m => ⟨c, roleChanged c m⟩) ∧
  (∀ (s : State) (q : Requester) (p : Fin 4) (roles : BitVec 8), Tbl.rising s.mach.reg.stat = true → s.mach.primary < 4 →
    let m := s.wrote q .hifPortRole 0 0 0 (fieldWord s.conf s.mach [(hifPortRolePrimary, p), (hifPortRoleRoles, roles.toNat)] 0 0 0)
    m.primary = p ∧ m.role p = 1 ∧
      ∀ n : Fin 4, n ≠ p → n.val ≠ s.mach.primary → m.role n = roles.toNat / 4 ^ n.val % 4) ∧
  (∀ (c : Cfg) (m : Mach), m.hif.rings = [] → roleChanged c m = m) ∧
  (∀ (s : State) (q : Requester) (p : Fin 4), s.mach.st hifAdminCfgEn p = 0 →
    Does (.adminRingEnable q p) s q (hifAdminCfgEn, 1) [] p 0 0 fun c m => ⟨c, adminEnable c m p⟩) ∧
  (∀ (c : Cfg) (m : Mach) (p : Nat), c.get hifAdminCfgVer p = 1 ∨ c.get hifAdminCfgVer p = 2 → 6 ≤ c.get hifAdminCfgLog2 p → c.get hifAdminCfgLog2 p ≤ 16 → (m.ring p).state = .absent →
    adminEnable c m p = ((m.setPort p { m.port p with adminErr := 0 }).setSt hifAdminCfgEn 1 p).setRing p
      { state := .active, kind := .cmd, ver := c.get hifAdminCfgVer p, log2 := c.get hifAdminCfgLog2 p, owner := p, admin := true
        base := BitVec.ofNat 64 (c.get hifAdminBaseHiBase p * 2 ^ 32 + c.get hifAdminBaseLoBase p * 4096)
        irqEn := c.on hifAdminCfgIrqEn p, vector := c.get hifAdminCfgVector p, armed := c.on hifAdminCfgIrqEn p, nextSlot := (m.ring p).nextSlot }) ∧
  (∀ (c : Cfg) (m : Mach) (p : Nat), c.get hifAdminCfgVer p ≠ 1 → c.get hifAdminCfgVer p ≠ 2 →
    adminEnable c m p = (m.setPort p { m.port p with adminErr := 1 }).setSt hifAdminCfgEn 0 p) ∧
  (∀ (c : Cfg) (m : Mach) (p : Nat), c.get hifAdminCfgVer p = 1 ∨ c.get hifAdminCfgVer p = 2 → c.get hifAdminCfgLog2 p < 6 ∨ 16 < c.get hifAdminCfgLog2 p →
    adminEnable c m p = (m.setPort p { m.port p with adminErr := 2 }).setSt hifAdminCfgEn 0 p) ∧
  (∀ (s : State) (q : Requester) (p : Fin 4), s.mach.st hifAdminCfgEn p = 1 →
    Does (.adminRingDisable q p) s q (hifAdminCfgEn, 0) [] p 0 0 fun c m => ⟨c, ringDestroy c m p none⟩) ∧
  ∀ (c : Cfg) (m : Mach) (n : Nat), (m.ring n).state = .absent → ringDestroy c m n none = m

/-- The flow store's controls. `ENABLE` written 1 starts the clear, written 0 makes the store not ready and its age 0 (R120); a pass is wanted of a
slice that serves a slot and asks for leave, once (R109, R121); `FST_TAKEOVER.GO` gives the slot to the spare, where one is free (R117). -/
def Obligations.FlowStoreControlsAct : Prop :=
  (∀ (s : State) (q : Requester), s.conf.get fstCtrlEnable = 0 →
    Does (.fstEnable q) s q (fstCtrlEnable, 1) [] 0 0 0 fun c m => ⟨c, { m with fsl := { m.fsl with clearing := true, ready := false } }⟩) ∧
  (∀ (s : State) (q : Requester), s.conf.get fstCtrlEnable = 1 →
    Does (.fstDisable q) s q (fstCtrlEnable, 0) [] 0 0 0 fun c m =>
      ⟨c, { m with fsl := { m.fsl with ready := false, clearing := false, ageNow := 0, ageAt := 0 } }⟩) ∧
  (∀ (s : State) (q : Requester) (i : Fin 17), (∀ r < 16, s.mach.phys r ≠ i) →
    Does (.fslRebuild q i) s q (fslCtrlRebuild, 1) [] i 0 0 (fun c m => ⟨c, m⟩) ∧ Does (.fslSweepNow q i) s q (fslCtrlSweepNow, 1) [] i 0 0 fun c m => ⟨c, m⟩) ∧
  (∀ (s : State) (q : Requester) (i : Fin 17) (r : Nat), r < 16 → s.mach.phys r = i → (∀ n < r, s.mach.phys n ≠ i) →
    Does (.fslRebuild q i) s q (fslCtrlRebuild, 1) [] i 0 0 (fun c m => ⟨c, sweepWant c m r .rebuild⟩) ∧
    Does (.fslSweepNow q i) s q (fslCtrlSweepNow, 1) [] i 0 0 fun c m => ⟨c, sweepWant c m r .sweep⟩) ∧
  (∀ (c : Cfg) (m : Mach) (r : Nat) (k : SweepKind), (m.sweepOf r).waiting.contains k = true → sweepWant c m r k = m) ∧
  (∀ (c : Cfg) (m : Mach) (r : Nat) (k : SweepKind), Tbl.rising m.fsl.sweep = true → (m.sweepOf r).waiting.contains k = false → (m.sweepOf r).running.isSome = true →
    sweepWant c m r k = m.setSweep r { m.sweepOf r with waiting := (m.sweepOf r).waiting ++ [k] }) ∧
  (∀ (s : State) (q : Requester) (slot : Fin 16), s.mach.fsl.spareAvail = false ∨ s.mach.fsl.takeover.isSome = true →
    Does (.fstTakeoverGo q slot) s q (fstTakeoverGo, 1) [(fstTakeoverSlot, slot)] 0 0 0 fun c m => ⟨c, m⟩) ∧
  ∀ (s : State) (q : Requester) (slot : Fin 16), s.mach.fsl.spareAvail = true → s.mach.fsl.takeover = none →
    Does (.fstTakeoverGo q slot) s q (fstTakeoverGo, 1) [(fstTakeoverSlot, slot)] 0 0 0 fun c m => ⟨c, settleOps c (takeover c m slot false)⟩

/-- Pipelines, ports and gates. A drain is asked for (R75). A port enabled after the seal is checked: one that fails reads 0 again, and the write is
latched as refused with cause 3 and the check's code (R381, R468). A gate change is taken for the first cycle start of the new cycle 2 µs or more
ahead, or refused with `ERR` 1 or 2; a write of `GATE_EN` 0 cancels one that is pending (R246). -/
def Obligations.PipelinesPortsAndGatesAreControlled : Prop :=
  (∀ (s : State) (q : Requester) (n : Fin 32), Does (.pplDrain q n) s q (pplCtrlDrain, 1) [] n 0 0 fun c m => ⟨c, m.setSt pplCtrlDrain 1 n⟩) ∧
  (∀ (s : State) (q : Requester) (g : Fin 32) (p : Fin 6) (speed : Fin 8) (fec : Fin 4) (lane : Fin 8), s.conf.get prtPortCfgEn g p = 0 →
    Does (.portEnable q g p speed fec lane) s q (prtPortCfgEn, 1)
      [(prtPortCfgSpeed, speed.val), (prtPortCfgFec, fec.val), (prtPortCfgFirstLane, lane.val)] g p 0 fun c m =>
      if m.glb.sealSt ≠ .sealed then ⟨c, m⟩
      else match portEnableCheck c m g p with
        | some code => ⟨c.setLive prtPortCfgEn 0 g p, refuse m (reqNum q) (regAddr .prtPortCfg g p 0) 3 code⟩
        | none => ⟨c, m⟩) ∧
  (∀ (s : State) (q : Requester) (l : Fin 256), s.conf.get schGateCtrlGateEn (l / 128) (l % 128) = 1 →
    Does (.gateConfigChange q l) s q (schGateCtrlConfigChange, 1) [] (l / 128) (l % 128) 0 fun c m => ⟨c, gateConfigChange c m l⟩) ∧
  (∀ (s : State) (q : Requester) (l : Fin 256), s.conf.get schGateCtrlGateEn (l / 128) (l % 128) = 0 →
    Does (.gateConfigChange q l) s q (schGateCtrlConfigChange, 1) [] (l / 128) (l % 128) 0 fun c m =>
      ⟨c, gateConfigChange c (m.setGate l { m.gate l with change := none }) l⟩) ∧
  (∀ (c : Cfg) (m : Mach) (l : Nat), (m.gate l).change.isSome = true → gateConfigChange c m l = m.setGate l { m.gate l with err := 1 }) ∧
  (∀ (c : Cfg) (m : Mach) (l : Nat), (m.gate l).change = none →
    c.get schGateCycleCycle (l / 128) (l % 128) < 1000 ∨ 1_000_000_000 < c.get schGateCycleCycle (l / 128) (l % 128) ∨
      c.get schGateCtrlAdminLen (l / 128) (l % 128) = 0 ∨ 1024 < c.get schGateCtrlAdminLen (l / 128) (l % 128) ∨
      c.get schGateCycleCycle (l / 128) (l % 128) < c.get schGateExtExt (l / 128) (l % 128) →
    gateConfigChange c m l = m.setGate l { m.gate l with err := 2 }) ∧
  (∀ (c : Cfg) (m : Mach) (l : Nat), (m.gate l).change = none →
    1000 ≤ c.get schGateCycleCycle (l / 128) (l % 128) → c.get schGateCycleCycle (l / 128) (l % 128) ≤ 1_000_000_000 →
    0 < c.get schGateCtrlAdminLen (l / 128) (l % 128) → c.get schGateCtrlAdminLen (l / 128) (l % 128) ≤ 1024 →
    c.get schGateExtExt (l / 128) (l % 128) ≤ c.get schGateCycleCycle (l / 128) (l % 128) →
    let base := (c.get schGateBaseSecHiSec (l / 128) (l % 128) * 2 ^ 32 + c.get schGateBaseSecLoSec (l / 128) (l % 128)) * 1_000_000_000 +
      c.get schGateBaseNsNs (l / 128) (l % 128)
    let cycle := c.get schGateCycleCycle (l / 128) (l % 128)
    ∃ n, m.tod.now + 2000 * 2 ^ 48 ≤ (base + n * cycle) * 2 ^ 48 ∧ (0 < n → (base + (n - 1) * cycle) * 2 ^ 48 < m.tod.now + 2000 * 2 ^ 48) ∧
      gateConfigChange c m l = m.setGate l { m.gate l with
        err := 0, shown := base + n * cycle
        change := some ⟨base + n * cycle, cycle, c.get schGateExtExt (l / 128) (l % 128), c.get schGateCtrlAdminLen (l / 128) (l % 128)⟩ }) ∧
  ∀ (s : State) (q : Requester) (l : Fin 256),
    Does (.gateChangeCancel q l) s q (schGateCtrlGateEn, 0) [] (l / 128) (l % 128) 0 fun c m => ⟨c, m.setGate l { m.gate l with change := none }⟩

/-- A write of a rate or a burst takes effect with both buckets accrued at the old values, and its `RST` fills, empties or caps the bucket (R230); no
other node's bucket moves. Accruing never takes a bucket above its burst or below -16,384 bytes, nor, while time goes on, makes it smaller (R228). -/
def Obligations.ShaperWritesAccrueThenReset : Prop :=
  (∀ (s : State) (q : Requester) (off : BitVec 27) (v : Word) (d n : Nat),
    (off.toNat = regAddr .schSubCir d n 0 → DoesWord (.shaperRateWrite q off v) s q .schSubCir d n 0 v fun c m =>
      ⟨c, rateWrite s.conf c m (.sub (16384 * d + n)) (some (bits v.toNat schSubCirRst.hi schSubCirRst.lo)) none⟩) ∧
    (off.toNat = regAddr .schSubPir d n 0 → DoesWord (.shaperRateWrite q off v) s q .schSubPir d n 0 v fun c m =>
      ⟨c, rateWrite s.conf c m (.sub (16384 * d + n)) none (some (bits v.toNat schSubPirRst.hi schSubPirRst.lo))⟩) ∧
    (off.toNat = regAddr .schSvcCir d n 0 → DoesWord (.shaperRateWrite q off v) s q .schSvcCir d n 0 v fun c m =>
      ⟨c, rateWrite s.conf c m (.svc (2048 * d + n)) (some (bits v.toNat schSvcCirRst.hi schSvcCirRst.lo)) none⟩) ∧
    (off.toNat = regAddr .schSvcPir d n 0 → DoesWord (.shaperRateWrite q off v) s q .schSvcPir d n 0 v fun c m =>
      ⟨c, rateWrite s.conf c m (.svc (2048 * d + n)) none (some (bits v.toNat schSvcPirRst.hi schSvcPirRst.lo))⟩) ∧
    (off.toNat = regAddr .schPortPir d n 0 → DoesWord (.shaperRateWrite q off v) s q .schPortPir d n 0 v fun c m =>
      ⟨c, rateWrite s.conf c m (.port (128 * d + n)) none (some (bits v.toNat schPortPirRst.hi schPortPirRst.lo))⟩) ∧
    (off.toNat = regAddr .schSubBurst d n 0 → DoesWord (.shaperBurstWrite q off v) s q .schSubBurst d n 0 v fun c m =>
      let r := bits v.toNat schSubBurstRst.hi schSubBurstRst.lo
      ⟨c, rateWrite s.conf c m (.sub (16384 * d + n)) (some r) (some r)⟩) ∧
    (off.toNat = regAddr .schSvcBurst d n 0 → DoesWord (.shaperBurstWrite q off v) s q .schSvcBurst d n 0 v fun c m =>
      let r := bits v.toNat schSvcBurstRst.hi schSvcBurstRst.lo
      ⟨c, rateWrite s.conf c m (.svc (2048 * d + n)) (some r) (some r)⟩) ∧
    (off.toNat = regAddr .schPortBurst d n 0 → DoesWord (.shaperBurstWrite q off v) s q .schPortBurst d n 0 v fun c m =>
      let r := bits v.toNat schPortBurstRst.hi schPortBurstRst.lo
      ⟨c, rateWrite s.conf c m (.port (128 * d + n)) (some r) (some r)⟩)) ∧
  (∀ (c c' : Cfg) (m : Mach) (n : Node) (a b : Option Nat), Tbl.rising m.sch.cir = true → Tbl.rising m.sch.pir = true →
    let t := rateWrite c c' m n a b
    t = { m with sch := { m.sch with cir := t.sch.cir, pir := t.sch.pir } } ∧
    (∀ k, k ≠ n.key → Tbl.look {} t.sch.cir k = Tbl.look {} m.sch.cir k ∧ Tbl.look {} t.sch.pir k = Tbl.look {} m.sch.pir k) ∧
    (a = none → Tbl.look {} t.sch.cir n.key = cirNow c m n) ∧ (b = none → Tbl.look {} t.sch.pir n.key = pirNow c m n) ∧
    (a = some 1 → Tbl.look {} t.sch.cir n.key = { cirNow c m n with tok := (n.cbs c' : Int) * 2 ^ 24, frac := 0 }) ∧
    (a = some 2 → Tbl.look {} t.sch.cir n.key = { cirNow c m n with tok := 0, frac := 0 }) ∧
    (a = some 0 → Tbl.look {} t.sch.cir n.key = { cirNow c m n with tok := min (cirNow c m n).tok ((n.cbs c' : Int) * 2 ^ 24) }) ∧
    (b = some 1 → Tbl.look {} t.sch.pir n.key = { pirNow c m n with tok := (n.pbs c' : Int) * 2 ^ 24, frac := 0 }) ∧
    (b = some 2 → Tbl.look {} t.sch.pir n.key = { pirNow c m n with tok := 0, frac := 0 }) ∧
    (b = some 0 → Tbl.look {} t.sch.pir n.key = { pirNow c m n with tok := min (pirNow c m n).tok ((n.pbs c' : Int) * 2 ^ 24) })) ∧
  (∀ (b : Bucket) (rate burst t : Nat), -16384 * 2 ^ 24 ≤ (b.refill rate burst t).tok ∧ (b.refill rate burst t).tok ≤ (burst : Int) * 2 ^ 24 ∧
    (b.refill rate burst t).last = t) ∧
  ∀ (b : Bucket) (rate burst t : Nat), b.last ≤ t → b.tok ≤ (burst : Int) * 2 ^ 24 → b.frac < 8_000_000 →
    b.tok ≤ (b.refill rate burst t).tok

/-- A step or an offset of TOD is scheduled for the first whole microsecond 2 µs or more ahead, unless one is pending (R236). -/
def Obligations.TodStepsAreScheduledOnce : Prop :=
  (∀ (s : State) (q : Requester), s.mach.tod.stepAt = none →
    Does (.todStep q) s q (todCtrlStep, 1) [] 0 0 0 (fun c m => ⟨c, { m with tod := { m.tod with
      stepAt := some (stepTime m), stepBy := 0
      stepTo := some (((c.get todSetSecHiSec * 2 ^ 32 + c.get todSetSecLoSec) * 1_000_000_000 + c.get todSetNsNs) * 65536 + c.get todSetFracFrac) } }⟩) ∧
    Does (.todOffset q) s q (todCtrlOffset, 1) [] 0 0 0 (fun c m => ⟨c, { m with tod := { m.tod with
      stepAt := some (stepTime m), stepTo := none, stepBy := toSigned 32 (c.get todOffsetOffset) * 65536 } }⟩)) ∧
  (∀ (s : State) (q : Requester), s.mach.tod.stepAt.isSome = true →
    Does (.todStep q) s q (todCtrlStep, 1) [] 0 0 0 (fun c m => ⟨c, m⟩) ∧ Does (.todOffset q) s q (todCtrlOffset, 1) [] 0 0 0 fun c m => ⟨c, m⟩) ∧
  ∀ m : Mach, 1000 ∣ stepTime m ∧ m.tod.now + 2000 * 2 ^ 48 ≤ stepTime m * 2 ^ 48 ∧ stepTime m * 2 ^ 48 < m.tod.now + 3000 * 2 ^ 48

/-- MACsec associations (R361, R364, R365, R367): `IN_USE` set installs an association, one that failed too, apart from a bulk rekey that runs;
cleared it takes the association's `READY` with it; `TX_AN` is as written; a bulk rekey of a die asks for leave unless one is under way. Keys made
ready (R361, R365, R367). An SA in use that has not failed becomes ready, and ready alone; a bulk rekey that holds leave makes ready every such SA of
its die that was in use when it began, switches the SecYs that are armed and whose next SA is usable, and releases its leave. -/
def Obligations.MacsecAssociationsFollowTheirRegisters : Prop :=
  ((∀ (s : State) (q : Requester) (die : Fin 4) (e : Fin 4096), s.conf.get mscSaCtrlInUse die e = 1 →
    Does (.mscSaInUseSet q die e) s q (mscSaCtrlInUse, 1) [] die e 0 fun c m => ⟨c, m⟩) ∧
  (∀ (s : State) (q : Requester) (die : Fin 4) (e : Fin 4096), s.conf.get mscSaCtrlInUse die e = 0 →
    Does (.mscSaInUseSet q die e) s q (mscSaCtrlInUse, 1) [] die e 0 fun c m => ⟨c, { m with msc := { m.msc with
      failed := m.msc.failed.filter (· != saIdx die e)
      late := if m.holdsLeave opRekey die then saIdx die e :: m.msc.late else m.msc.late } }⟩) ∧
  (∀ (s : State) (q : Requester) (die : Fin 4) (e : Fin 4096), Tbl.rising s.conf.live = true →
    (s.stored .mscSaCtrl die e 0 (fieldWord s.conf s.mach [(mscSaCtrlInUse, 1)] die e 0)).on mscSaCtrlInUse die e = true) ∧
  (∀ (s : State) (q : Requester) (die : Fin 4) (e : Fin 4096), s.conf.get mscSaCtrlInUse die e = 1 →
    Does (.mscSaInUseClear q die e) s q (mscSaCtrlInUse, 0) [] die e 0 fun c m =>
      ⟨c, { m with msc := { m.msc with ready := m.msc.ready.filter (· != saIdx die e) } }⟩) ∧
  (∀ (s : State) (q : Requester) (die : Fin 4) (e : Fin 4096), s.conf.get mscSaCtrlInUse die e = 0 →
    Does (.mscSaInUseClear q die e) s q (mscSaCtrlInUse, 0) [] die e 0 fun c m => ⟨c, m⟩) ∧
  (∀ (s : State) (q : Requester) (die : Fin 4) (n : Fin 64) (an : Fin 4),
    Does (.mscTxAnWrite q die n an) s q (mscSecyTxTxAn, an.val) [] die n 0 fun c m => ⟨c, m⟩) ∧
  (∀ (s : State) (q : Requester) (die : Fin 4) (n : Fin 64) (an : Fin 4), Tbl.rising s.mach.reg.stat = true →
    (s.wrote q .mscSecyTx die n 0 (fieldWord s.conf s.mach [(mscSecyTxTxAn, an.val)] die n 0)).st mscSecyTxTxAn die n = an) ∧
  (∀ (s : State) (q : Requester) (die : Fin 4), s.mach.holdsLeave opRekey die = true ∨ s.mach.waitsLeave opRekey die = true →
    Does (.mscBulkGo q die) s q (mscBulkCtrlGo, 1) [] die 0 0 fun c m => ⟨c, m⟩) ∧
  ∀ (s : State) (q : Requester) (die : Fin 4), s.mach.holdsLeave opRekey die = false → s.mach.waitsLeave opRekey die = false →
    Does (.mscBulkGo q die) s q (mscBulkCtrlGo, 1) [] die 0 0 fun c m => ⟨c, (askLeave c m opRekey die).2⟩) ∧
  ((∀ (s : State) (die : Fin 4) (e : Fin 4096), s.live →
    (s.conf.on mscSaCtrlInUse die e = false ∨ saIdx die e ∈ s.mach.msc.failed → exec (.mscSaReady die e) s = .next s) ∧
    (s.conf.on mscSaCtrlInUse die e = true → saIdx die e ∉ s.mach.msc.failed → exec (.mscSaReady die e) s = .next (s.withM { s.mach with msc := { s.mach.msc with
      ready := saIdx die e :: s.mach.msc.ready.filter (· != saIdx die e) } }))) ∧
  (∀ (s : State) (die : Fin 4), s.live → s.mach.holdsLeave opRekey die = false →
    exec (.mscBulkPrepareDone die) s = .next (s.withM (settle s.conf s.mach))) ∧
  ∀ (s : State) (die : Fin 4), s.live → s.mach.holdsLeave opRekey die = true →
    let prep (m : Mach) (e : Nat) : Mach :=
      if s.conf.on mscSaCtrlInUse die e = true ∧ saIdx die e ∉ m.msc.failed ∧ saIdx die e ∉ m.msc.late then { m with msc := { m.msc with
        ready := saIdx die e :: m.msc.ready.filter (· != saIdx die e) } } else m
    let able := { (List.range 4096).foldl prep s.mach with msc := { ((List.range 4096).foldl prep s.mach).msc with
      late := s.mach.msc.late.filter (· / 4096 != die) } }
    let an (n : Nat) : Nat := s.conf.get mscSecyTxNextAn die n
    let sw := (List.range 64).foldl (fun m n =>
      if m.stOn mscSecyTxArmed die n = true ∧ saUsable s.conf m die (4 * s.conf.get mscSecyTxSaGroup die n + an n) = true then
        (m.setSt mscSecyTxTxAn (an n) die n).setSt mscSecyTxArmed 0 die n
      else m) able
    exec (.mscBulkPrepareDone die) s = .next (s.withM (settle s.conf (releaseLeave s.conf sw opRekey die))) ∧
    ((∀ e < 4096, s.conf.on mscSaCtrlInUse die e = false) → able.msc.ready = s.mach.msc.ready) ∧
    ((∀ n < 64, able.stOn mscSecyTxArmed die n = false) → sw = able))

/-- The fault controller's registers. An acknowledgement clears `UNACKED`, and with `CLEAR` an active class that is not FATAL, which counts a recovery
(R405); an armed injection takes its count (R403); a restore is turned away with result 4 while FATAL stands, a class of the unit is active or the
unit is not isolated, and does nothing while one runs (R406). -/
def Obligations.FaultRegistersAct : Prop :=
  (∀ (s : State) (q : Requester) (k : Fin 64),
    Does (.fltAckWrite q k false) s q (fltAckClass, k.val) [(fltAckClear, 0)] 0 0 0 fun c m => ⟨c, m.setClass k { m.class k with unacked := false }⟩) ∧
  (∀ (s : State) (q : Requester) (k : Fin 64),
    Does (.fltAckWrite q k true) s q (fltAckClass, k.val) [(fltAckClear, 1)] 0 0 0 fun c m =>
      ⟨c, clearClass c (m.setClass k { m.class k with unacked := false }) k⟩) ∧
  (∀ (c : Cfg) (m : Mach) (k : Nat), (m.class k).active = false ∨ (m.class k).sev = 4 → clearClass c m k = m) ∧
  (∀ (c : Cfg) (m : Mach) (k : Nat), (m.class k).active = true → (m.class k).sev ≠ 4 →
    clearClass c m k = healthDrive c ((m.setClass k {}).inc32 fltRecoveryCountCount)) ∧
  (∀ (s : State) (q : Requester) (v : Word), DoesWord (.fltInjectWrite q v) s q .fltInject 0 0 0 v fun c m =>
      ⟨c, { m with flt := { m.flt with injLeft := if v.getLsbD 31 then bits v.toNat 17 10 else 0 } }⟩) ∧
  (∀ (s : State) (q : Requester) (kind : Fin 8) (inst : Fin 256), s.mach.st fltRestoreResult = 1 →
    Does (.fltRestoreGo q kind inst) s q (fltRestoreGo, 1) [(fltRestoreKind, kind.val), (fltRestoreInstance, inst.val)] 0 0 0 fun c m => ⟨c, m⟩) ∧
  (∀ (s : State) (q : Requester) (kind : Fin 8) (inst : Fin 256), s.mach.st fltRestoreResult ≠ 1 →
    s.mach.flt.fatal = true ∨ (restoreClasses kind inst).any (fun k => (s.mach.class k).active) = true ∨ restorable s.mach kind inst = false →
    Does (.fltRestoreGo q kind inst) s q (fltRestoreGo, 1) [(fltRestoreKind, kind.val), (fltRestoreInstance, inst.val)] 0 0 0 fun c m =>
      ⟨c, m.setSt fltRestoreResult 4⟩) ∧
  ∀ (s : State) (q : Requester) (kind : Fin 8) (inst : Fin 256), s.mach.st fltRestoreResult ≠ 1 →
    s.mach.flt.fatal = false → (restoreClasses kind inst).any (fun k => (s.mach.class k).active) = false → restorable s.mach kind inst = true →
    Does (.fltRestoreGo q kind inst) s q (fltRestoreGo, 1) [(fltRestoreKind, kind.val), (fltRestoreInstance, inst.val)] 0 0 0 fun c m =>
      match askLeave c m opSelfTest 0 with
      | (.refused, m) => ⟨c, m.setSt fltRestoreResult 4⟩
      | (_, m) => ⟨c, { m.setSt fltRestoreResult 1 with flt := { m.flt with restore := some (kind.val, inst.val) } }⟩

/-- The first-error capture (R398): with `VALID` 0 a report is latched and `OVERFLOW` stays; with `VALID` 1 it sets `OVERFLOW`, and is latched only
where it is real and the latched one was injected. Nothing else changes. A write of 1 to `VALID` clears the whole capture and leaves `OVERFLOW`. -/
def Obligations.FirstErrorCaptureKeepsTheFirstRealReport : Prop :=
  (∀ (m : Mach) (r : Report) (sev : Nat) (esc : Bool), Tbl.rising m.reg.stat = true → r.src < 1024 → sev < 8 →
    let t := latchFirst m r sev esc
    let shows := t.st fltFirstSrcValid = 1 ∧ t.st fltFirstSrcSrc = r.src ∧ t.st fltFirstSevSev = sev ∧ (t.st fltFirstSevEscalated = 1 ↔ esc = true) ∧
      t.st fltFirstTimeLoNs = nsOf r.time ∧ t.st fltFirstTimeHiSec = secOf r.time % 2 ^ 32 ∧ (t.st fltFirstInjInj = 1 ↔ r.inj = true) ∧
      t.st fltFirstInfoInfo = r.detail % 2 ^ 32
    (m.st fltFirstSrcValid = 0 → shows ∧ t.st fltOverflowOverflow = m.st fltOverflowOverflow) ∧
    (m.st fltFirstSrcValid = 1 → m.st fltFirstInjInj = 1 → r.inj = false → shows ∧ t.st fltOverflowOverflow = 1) ∧
    (m.st fltFirstSrcValid = 1 → m.st fltFirstInjInj = 0 ∨ r.inj = true → t = m.setSt fltOverflowOverflow 1) ∧
    t = { m with reg := { m.reg with stat := t.reg.stat } } ∧
    ∀ (x : Fld) (i j k : Nat), (∀ y ∈ [Reg.fltFirstSrc, .fltFirstSev, .fltFirstTimeLo, .fltFirstTimeHi, .fltFirstInj, .fltFirstInfo, .fltOverflow],
      regAddr x.reg i j k ≠ regAddr y 0 0 0) → t.st x i j k = m.st x i j k) ∧
  (∀ (s : State) (r : Report), s.live → s.mach.flt.waiting = [r] → r.inj = false → (s.mach.class (r.src / 16)).unacked = false → r.sev ≤ DEGRADED →
    let m := { s.mach with flt := { s.mach.flt with waiting := [] } }.inc32 fltClassCntCount (r.src / 16)
    let k := s.mach.class (r.src / 16)
    let taken := m.setClass (r.src / 16) { active := true, unacked := true, sev := max k.sev r.sev
                                           expire := s.mach.up + 1_000_000 * s.conf.get fltQuietTimeQuiet }
    let latched := latchFirst taken r r.sev false
    ∃ m' : Mach, exec (.faultTickProcess [] []) s = .next (s.withM (settle s.conf (healthDrive s.conf m'))) ∧
      (m' = latched ∨ m' = postFault s.conf latched { src := r.src, sev := r.sev, time := r.time, inj := false, esc := false })) ∧
  (∀ (s : State) (q : Requester), Does (.firstErrorClear q) s q (fltFirstSrcValid, 1) [] 0 0 0 fun c m => ⟨c, firstClear m⟩) ∧
  ∀ m : Mach, Tbl.rising m.reg.stat = true → let t := firstClear m
    (∀ x ∈ [fltFirstSrcValid, fltFirstSrcSrc, fltFirstSevEscalated, fltFirstSevSev, fltFirstTimeLoNs, fltFirstTimeHiSec, fltFirstInjInj,
      fltFirstInfoInfo], t.st x = 0) ∧ t.st fltOverflowOverflow = m.st fltOverflowOverflow ∧ t = { m with reg := { m.reg with stat := t.reg.stat } }

/-- Duilo's controls (R305, R311): `DIGEST_NOW` begins a round on every link that is `UP` and has none, and `YIELD` set lets the leases be reviewed. A
core (R271): `RUN` written 1 starts it at its group's image and entry, written 0 stops it once it holds nothing and no store of it stalls, and `RESET`
resets it as `coreReset` says, an isolated one excepted. -/
def Obligations.DuiloAndCoreControlsAct : Prop :=
  (∀ (s : State) (q : Requester), Does (.digestNow q) s q (duoCtrlDigestNow, 1) [] 0 0 0 fun c m => ⟨c, roundsFrom c m fun _ => true⟩) ∧
  (∀ (c : Cfg) (m : Mach) (p : Nat → Bool), (∀ n < 8, (m.link n).state ≠ 4 ∨ (m.link n).round.isSome = true ∨ p n = false) → roundsFrom c m p = m) ∧
  (∀ (s : State) (q : Requester), s.conf.get duoCtrlYield = 0 → Does (.duoYieldWrite q true) s q (duoCtrlYield, 1) [] 0 0 0 fun c m => ⟨c, leaseCheck c m⟩) ∧
  (∀ (s : State) (q : Requester), Does (.duoYieldWrite q false) s q (duoCtrlYield, 0) [] 0 0 0 fun c m => ⟨c, m⟩) ∧
  (∀ (s : State) (q : Requester) (n : Fin 128), s.conf.get tskCoreCtrlRun n = 0 →
    Does (.coreRunStart q n) s q (tskCoreCtrlRun, 1) [] n 0 0 fun c m => ⟨c, notifyReady c (coreRunStart c m n)⟩) ∧
  (∀ (c : Cfg) (m : Mach) (n : Nat), (m.core n).state = .reset → coreRunStart c m n = m.setCore n { m.core n with
      state := .running, slotB := c.on tskGroupCfgSlot (c.get tskCoreCtrlGroup n), entry := c.get tskGroupCfgEntry (c.get tskCoreCtrlGroup n) }) ∧
  (∀ (c : Cfg) (m : Mach) (n : Nat), (m.core n).state = .stopping → coreRunStart c m n = m.setCore n { m.core n with state := .running }) ∧
  (∀ (c : Cfg) (m : Mach) (n : Nat), (m.core n).state = .isolated → coreRunStart c m n = m) ∧
  (∀ (s : State) (q : Requester) (n : Fin 128), s.conf.get tskCoreCtrlRun n = 1 →
    Does (.coreRunStop q n) s q (tskCoreCtrlRun, 0) [] n 0 0 fun c m => ⟨c, coreStopped (coreRunStop m n) n⟩) ∧
  (∀ (m : Mach) (n : Nat), Tbl.rising m.tsk.cores = true → (m.core n).state = .running → (m.core n).slots = [] → (m.core n).stall = none →
    (coreStopped (coreRunStop m n) n).core n = { m.core n with state := .reset, armed := false, irq := false }) ∧
  (∀ (m : Mach) (n : Nat), Tbl.rising m.tsk.cores = true → (m.core n).state = .running → (m.core n).slots ≠ [] ∨ (m.core n).stall ≠ none →
    (coreStopped (coreRunStop m n) n).core n = { m.core n with state := .stopping }) ∧
  ∀ (s : State) (q : Requester) (n : Fin 128), Does (.coreReset q n) s q (tskCoreCtrlReset, 1) [] n 0 0 fun c m => ⟨c, coreReset c m n⟩

/-! ### Commands of rings -/

/-- The checks before a command's effect, in their order (R319, R328, R329, R375, R387): a reserved opcode, a command that the role of the ring's port
does not permit, a wrong input length or too little room for the output, one that the seal checks or a turn hold, a flow command while the store is
not ready. Behind it the device begins on what the ring has prefetched (notes/assumptions/141.md). A ring that can give no command leaves all but what
waits as it is. -/
def Obligations.CommandsAreCheckedBeforeTheyAct : Prop :=
  (∀ (s : State) (r : Fin 16384) (op : CmdOp) (q : Cmd), s.live → cmdGet s.mach r (opcode op) q = none →
    exec (ringRow op r q) s = .next (s.withM (settle s.conf s.mach))) ∧
  (∀ (s : State) (r : Fin 16384) (opc : Fin 128) (q q' : Cmd) (slot : Nat) (m : Mach), s.live → opOf opc = .reserved →
    cmdGet s.mach r opc q = some (q', slot, m) →
    exec (.cmdReservedOpcode r opc q) s = s.ringGoesOn r (complete s.conf m r slot ⟨sBAD_OPCODE, 0, []⟩)) ∧
  ∀ (s : State) (r : Fin 16384) (op : CmdOp) (q q' : Cmd) (slot : Nat) (m : Mach), s.live → op ≠ .reserved →
    cmdGet s.mach r (opcode op) q = some (q', slot, m) →
    (permitted m (m.ring r).owner op q' = false →
      exec (ringRow op r q) s = s.ringGoesOn r (complete s.conf m r slot ⟨sNOT_PERMITTED, 0, []⟩)) ∧
    (permitted m (m.ring r).owner op q' = true → inputOk op q' = false ∨ q'.outLen.toNat < outputMax op q' →
      exec (ringRow op r q) s = s.ringGoesOn r (complete s.conf m r slot ⟨sBAD_LENGTH, 0, []⟩)) ∧
    (permitted m (m.ring r).owner op q' = true → inputOk op q' = true → outputMax op q' ≤ q'.outLen.toNat → mustHold m op = true →
      exec (ringRow op r q) s = s.ringGoesOn r { m with glb := { m.glb with held := m.glb.held ++ [.cmd op (.ring r) slot q'] } }) ∧
    (permitted m (m.ring r).owner op q' = true → inputOk op q' = true → outputMax op q' ≤ q'.outLen.toNat → mustHold m op = false →
      isFlowOp op = true → m.fsl.ready = false →
      exec (ringRow op r q) s = s.ringGoesOn r (complete s.conf m r slot ⟨sBUSY, 0, []⟩))

/-- Bulk commands (R431, R433): `FDB_FLUSH`, or one with more than 64 KiB of input, takes effect once its leave is granted, and releases it then;
refused, it answers `BUSY`; deferred, it waits in its ring's order. -/
def Obligations.BulkCommandsTakeLeave : Prop :=
  ∀ (s : State) (r : Fin 16384) (op : CmdOp) (q q' : Cmd) (slot : Nat) (m m' : Mach), Starts s r op q q' slot m → isBulk op q' = true →
    m.holdsLeave opBulk m.pwr.nextWait = false → m.waitsLeave opBulk m.pwr.nextWait = false →
    (∀ (st d : Nat) (out : List Byte) (m'' : Mach), askLeave s.conf m opBulk m.pwr.nextWait = (.granted, m') →
      cmdEffect s.conf m' m.pwr.nextWait (some r) slot op q' = .done st d out m'' →
      exec (ringRow op r q) s = s.completes r slot (st, d, out, releaseLeave s.conf (tableWrites s.conf op q' st d m'') opBulk m.pwr.nextWait)) ∧
    (askLeave s.conf m opBulk m.pwr.nextWait = (.refused, m') → exec (ringRow op r q) s = s.completes r slot (sBUSY, 0, [], m')) ∧
    (askLeave s.conf m opBulk m.pwr.nextWait = (.deferred, m') →
      exec (ringRow op r q) s = s.ringGoesOn r { m' with pwr := { m'.pwr with
        waitCmds := Tbl.ins m'.pwr.waitCmds m.pwr.nextWait (op, .ring r, slot, q'), nextWait := max m'.pwr.nextWait (m.pwr.nextWait + 1) } })

/-- Rings by command (R324-R326, R329). `NOP` answers OK; `RING_QUERY` returns 16 bytes; `RING_CREATE` checks absence, kind, version, ownership and
context in that order, and makes the ring; `RING_DESTROY` answers for an absent or a draining ring at once, destroys the ring it is on behind its own
completion, and otherwise ends once the ring has drained. -/
def Obligations.RingCommandsMakeAndEndRings : Prop :=
  (∀ (s : State) (r : Fin 16384) (q : Cmd), Answers (.cmdNop r q) s r .nop q fun m _ => (sOK, 0, [], m)) ∧
  (∀ (s : State) (r : Fin 16384) (q : Cmd), Answers (.ringQuery r q) s r .ringQuery q fun m q => (sOK, 0, ringQuery m q.ringNo, m)) ∧
  (∀ (m : Mach) (n : Nat), (m.ring n).state = .absent → ringQuery m n = List.replicate 16 0) ∧
  (∀ (m : Mach) (n : Nat), (m.ring n).state ≠ .absent → (ringQuery m n).length = 16 ∧
    be (ringQuery m n) 4 2 = (m.ring n).head % 65536 ∧ be (ringQuery m n) 6 2 = (m.ring n).tail % 65536) ∧
  (∀ (s : State) (r : Fin 16384) (q : Cmd), Answers (.ringCreate r q) s r .ringCreate q fun m q =>
    let n := q.ringNo
    if (m.ring n).state ≠ .absent then (sEXISTS, 0, [], m)
    else match kindOf (byteAt q.data 8) with
      | none => (sBAD_ENTRY, 0, [], m)
      | some k =>
        if verOk k (byteAt q.data 9) = false then (0x0C, 0, [], m)
        else if roleOwns (m.role (m.ring r).owner) k = false ∨ n < 4 then (sNOT_PERMITTED, 0, [], m)
        else match ringContext q.data k with
          | none => (sBAD_ENTRY, 0, [], m)
          | some x => (sOK, 0, [], m.setRing n { x with owner := (m.ring r).owner, nextSlot := (m.ring n).nextSlot, polledAt := m.up })) ∧
  (∀ (b : List Byte) (k : RingKind) (x : Ring), ringContext b k = some x →
    x.state = .active ∧ x.kind = k ∧ x.head = 0 ∧ x.tail = 0 ∧ x.consumed = [] ∧ x.phase = true ∧ 6 ≤ x.log2 ∧ x.log2 ≤ 16) ∧
  (∀ (s : State) (r : Fin 16384) (q q' : Cmd) (slot : Nat) (m : Mach), Starts s r .ringDestroy q q' slot m → isBulk .ringDestroy q' = false →
    ((m.ring q'.ringNo).state = .absent → exec (.ringDestroy r q) s = s.completes r slot (sNOT_FOUND, 0, [], m)) ∧
    ((m.ring q'.ringNo).state = .draining → exec (.ringDestroy r q) s = s.completes r slot (sBUSY, 0, [], m)) ∧
    ((m.ring q'.ringNo).state = .active ∨ (m.ring q'.ringNo).state = .error → r.val = q'.ringNo →
      exec (.ringDestroy r q) s = s.completes r slot (sOK, 0, [], ringDestroy s.conf m q'.ringNo none)) ∧
    ((m.ring q'.ringNo).state = .active ∨ (m.ring q'.ringNo).state = .error → r.val ≠ q'.ringNo →
      exec (.ringDestroy r q) s = s.ringGoesOn r (ringDestroy s.conf m q'.ringNo (some (r, slot)))))

/-- Flow commands (R113). One whose slice has nothing waiting, a pending entry and guard entries free and no takeover under way is carried out at
once, counted in `FSL_HOST_CMD`, and completes with its answer; an insert at the room of its primary bucket, then of its alternate one, then, where no
path may be made, in the stash (R97). On a device without Duilo's roles: `FLOW_INSERT` refuses a bad record, a key that is held, and one that finds no
room, and else places the record with version 0 and, without `SET_CTRS`, counts 0 and both times now. `FLOW_MODIFY` refuses a bad record, an absent
key and, with `EXPECT_VER`, another version, and rewrites the whole record with its version one higher, counts and times as they were without
`SET_CTRS`. `FLOW_DELETE` refuses an absent key and another version, and else returns the record and carries out the selected actions; `FLOW_QUERY`
refuses an absent key, and else returns the record. -/
def Obligations.FlowCommandsActOnTheirRecord : Prop :=
  (∀ (s : State) (r : Fin 16384) (q q' : Cmd) (slot : Nat) (m m' : Mach),
    (Serves s r .flowInsert q q' slot m m' →
      let key := flowKey .flowInsert q'
      let fh := fhOf s.conf m key
      let new := recordOk q'.data = true ∧ entryOurs s.conf m fh = true ∧ (touchKey s.conf m fh key).1 = none
      (¬new → exec (.flowInsert r q) s = s.served r slot (flowInsert s.conf m' none q')) ∧
      (new → ∀ (spot : Option Spot) (m'' : Mach), FindsRoom s.conf m m' key spot m'' →
        exec (.flowInsert r q) s = s.served r slot (flowInsert s.conf m'' spot q'))) ∧
    (Serves s r .flowModify q q' slot m m' → exec (.flowModify r q) s = s.served r slot (flowModify s.conf m' q')) ∧
    (Serves s r .flowDelete q q' slot m m' → exec (.flowDelete r q) s = s.served r slot (flowDelete s.conf m' q')) ∧
    (Serves s r .flowQuery q q' slot m m' → exec (.flowQuery r q) s = s.served r slot (flowQuery s.conf m' q'))) ∧
  (∀ (c : Cfg) (m : Mach) (q : Cmd), recordOk q.data = false →
    flowInsert c m none q = (sBAD_RECORD, [], m) ∧ flowModify c m q = (sBAD_RECORD, [], m)) ∧
  (∀ (c : Cfg) (m : Mach) (q : Cmd) (spot : Option Spot), duoOn c = false → recordOk q.data = true →
    let x := recOf q.data
    let fh := fhOf c m x.key
    let found := lookupKey c m fh x.key
    let ctrs := q.flags.getLsbD 15
    let x' := { x with role := 0, peer := deviceId c, unmirrored := false, version := 0, pkts := if ctrs then x.pkts else 0
                       bytes := if ctrs then x.bytes else 0, created := if ctrs then x.created else found.2.fsl.ageNow
                       lastHit := if ctrs then x.lastHit else found.2.fsl.ageNow }
    (found.1.isSome = true → flowInsert c m spot q = (sEXISTS, [], found.2)) ∧
    (found.1 = none → ∀ m', placeNew c found.2 (fhSlot fh) spot x' = (false, m') → flowInsert c m spot q = (sNO_ROOM, [], m')) ∧
    (found.1 = none → ∀ m' pl y, placeNew c found.2 (fhSlot fh) spot x' = (true, m') → findKey m' (fhSlot fh) fh x.key = some (pl, y) →
      flowInsert c m spot q = (sOK, [], putRec c m' (fhSlot fh) pl x')) ∧
    (found.1 = none → flowModify c m q = (sNOT_FOUND, [], found.2)) ∧
    ∀ (pl : Spot) (y : Rec), found.1 = some (pl, y) → y.role = 0 →
      (q.flags.getLsbD 14 = true → y.version ≠ q.arg0.toNat % 65536 → flowModify c m q = (sVERSION_MISMATCH, [], found.2)) ∧
      (q.flags.getLsbD 14 = false ∨ y.version = q.arg0.toNat % 65536 →
        flowModify c m q = (sOK, [], putRec c found.2 (fhSlot fh) pl { x with
          role := 0, version := (y.version + 1) % 65536, pkts := if ctrs then x.pkts else y.pkts, bytes := if ctrs then x.bytes else y.bytes
          lastHit := if ctrs then x.lastHit else y.lastHit, created := if ctrs then x.created else y.created }))) ∧
  (∀ (c : Cfg) (m : Mach) (q : Cmd), duoOn c = false →
    let fh := fhOf c m q.data
    let found := lookupKey c m fh q.data
    (found.1 = none → flowDelete c m q = (sNOT_FOUND, [], found.2)) ∧
    ∀ (pl : Spot) (y : Rec), found.1 = some (pl, y) → y.role = 0 →
      (q.flags.getLsbD 14 = true → y.version ≠ q.arg0.toNat % 65536 → flowDelete c m q = (sVERSION_MISMATCH, [], found.2)) ∧
      (q.flags.getLsbD 14 = false ∨ y.version = q.arg0.toNat % 65536 →
        flowDelete c m q = (sOK, y.image, deleteWith c found.2 (fhSlot fh) pl y
          ⟨q.flags.getLsbD 10, q.flags.getLsbD 9, q.flags.getLsbD 8, q.flags.getLsbD 7⟩ 4))) ∧
  ∀ (c : Cfg) (m : Mach) (q : Cmd),
    let fh := fhOf c m q.data
    let found := lookupKey c m fh q.data
    (found.1 = none → flowQuery c m q = (sNOT_FOUND, [], found.2)) ∧
    ∀ (pl : Spot) (y : Rec), found.1 = some (pl, y) → (flowQuery c m q).1 = sOK ∧ (flowQuery c m q).2.1 = y.image

/-- The allocation service by command. `NAT_POOL_SET` refuses a bad descriptor, and any change but a disabling of an enabled pool; a new pool, if it
is enabled, is filled with ready pairs (R140, R141); where the clear bitmap is searched and what marks a later load replaces, notes/assumptions/64.md
and 98.md say. `NAT_PORT_FREE` clears the bit of a pair in use, and finds no other (R143). A bit that is cleared reads as not in use (R140).
`BE_GROUP_SET`, `BE_SLOT_SET` and `BACKEND_SET` write their entries in order and stop at the first that is bad, whose position is their `DETAIL`
(R146, R329; a group's bits are packed as notes/assumptions/21.md says). -/
def Obligations.AllocationCommandsWriteTheirTables : Prop :=
  (∀ (s : State) (r : Fin 16384) (q : Cmd), Answers (.natPoolSet r q) s r .natPoolSet q fun m q =>
    let n := q.arg0.toNat
    let old := m.pool n
    if 1024 ≤ n ∨ poolOk q.data = false then (sBAD_ENTRY, 0, [], m)
    else if old.desc ≠ [] ∧ plEnable old.desc = true ∧ onlyDisables old.desc q.data = false then (sBUSY, 0, [], m)
    else if splice old.desc 5 [0] = splice q.data 5 [0] then (sOK, 0, [], m.setPool n { old with desc := q.data })
    else
      let m := setWindows ((dropReady m n).setPool n { desc := q.data }) q.data
      (sOK, 0, [], if plEnable q.data then natFill n 64 m else m)) ∧
  (∀ (s : State) (r : Fin 16384) (q : Cmd), Answers (.natPortFree r q) s r .natPortFree q fun m q =>
    let n := q.arg0.toNat
    if 1024 ≤ n then (sBAD_ENTRY, 0, [], m)
    else match natCell (m.pool n) (be q.data 0 4) (be q.data 4 2) with
      | none => (sNOT_FOUND, 0, [], m)
      | some row =>
        if natMarked m row (be q.data 4 2) = true ∧ (be q.data 0 4, be q.data 4 2) ∉ (m.pool n).ready then
          (sOK, 0, [], natSet m row (be q.data 4 2) false)
        else (sNOT_FOUND, 0, [], m)) ∧
  (∀ (m : Mach) (row port : Nat), Tbl.rising m.fsl.natBit = true → natMarked (natSet m row port false) row port = false ∧
    natMarked (natSet m row port true) row port = true) ∧
  (∀ (s : State) (r : Fin 16384) (q : Cmd), Answers (.beGroupSet r q) s r .beGroupSet q beGroupSet ∧
    Answers (.beSlotSet r q) s r .beSlotSet q beSlotSet ∧ Answers (.backendSet r q) s r .backendSet q backendSet) ∧
  (∀ (m : Mach) (q : Cmd), Tbl.rising m.fsl.beGroup = true →
    (∀ i < q.a1, q.a0 + i < 16384 ∧ bgLog2 (be q.data (8 * i) 8) ≤ 20 ∧ 2 ^ bgLog2 (be q.data (8 * i) 8) ∣ bgBase (be q.data (8 * i) 8) ∧
      bits (be q.data (8 * i) 8) 37 0 = 0) → ∃ t, beGroupSet m q = (sOK, 0, [], { m with fsl := { m.fsl with beGroup := t } }) ∧
    Filled (Tbl.look 0 m.fsl.beGroup) (Tbl.look 0 t) q.a0 q.a1 fun i => be q.data (8 * i) 8) ∧
  (∀ (m : Mach) (q : Cmd), Tbl.rising m.fsl.beSlot = true →
    (∀ i < q.a1, q.a0 + i < 1048576 ∧ bits (be q.data (4 * i) 4) 29 16 = 0) →
    ∃ t, beSlotSet m q = (sOK, 0, [], { m with fsl := { m.fsl with beSlot := t } }) ∧
      Filled (Tbl.look 0 m.fsl.beSlot) (Tbl.look 0 t) q.a0 q.a1 fun i => be q.data (4 * i) 4) ∧
  (∀ (m : Mach) (q : Cmd), Tbl.rising m.fsl.backend = true →
    (∀ i < q.a1, q.a0 + i < 65536 ∧ be (slice q.data (20 * i) 20) 0 16 ≠ 0 ∧ bits (byteAt (slice q.data (20 * i) 20) 18) 6 0 = 0 ∧
      byteAt (slice q.data (20 * i) 20) 19 = 0) →
    ∃ t, backendSet m q = (sOK, 0, [], { m with fsl := { m.fsl with backend := t } }) ∧
      Filled (Tbl.look [] m.fsl.backend) (Tbl.look [] t) q.a0 q.a1 fun i => slice q.data (20 * i) 20) ∧
  ∀ (m : Mach) (q : Cmd) (k : Nat), k < q.a1 → (∀ i < k, q.a0 + i < 1048576 ∧ bits (be q.data (4 * i) 4) 29 16 = 0) →
    1048576 ≤ q.a0 + k ∨ bits (be q.data (4 * k) 4) 29 16 ≠ 0 → (beSlotSet m q).1 = sBAD_ENTRY ∧ (beSlotSet m q).2.1 = k

/-- The banked tables by command (R51, R57, R73, R122, R154, R373). An entry is written in the shadow bank, and before the seal in the active bank
too; a run past the bank writes nothing and names its first entry beyond. `PROG_LOAD` refuses first a bundle that does not agree with its arguments
(R411), then one that does not verify, and else stores the programs. A load of templates or programs stops with `DMA_ERROR` at an entry whose memory
meets an uncorrectable error, named by its position (R480; the position is the model's choice, notes/assumptions/119.md). -/
def Obligations.BankedTableCommandsWriteTheShadow : Prop :=
  (∀ (s : State) (r : Fin 16384) (q : Cmd), Answers (.parseSet r q) s r .parseSet q parseSet ∧ Answers (.clsSet r q) s r .clsSet q clsSet ∧
    Answers (.tmplSet r q) s r .tmplSet q tmplSet ∧ Answers (.progLoad r q) s r .progLoad q (progLoad s.conf)) ∧
  (∀ (m : Mach) (q : Cmd), Tbl.rising m.act.shadow.states = true → Tbl.rising m.act.act.states = true → bit q.a0 31 = false →
    (∀ i < q.a1, bits q.a0 7 0 + i < 64 ∧ bits (be q.data (8 * i) 8) 19 0 = 0) →
    ∃ t, parseSet m q = (sOK, 0, [], t) ∧
      Filled (Tbl.look 0 m.act.shadow.states) (Tbl.look 0 t.act.shadow.states) (bits q.a0 7 0) q.a1 (fun i => be q.data (8 * i) 8) ∧
      (m.glb.sealSt = .sealed → t.act.act = m.act.act) ∧
      (m.glb.sealSt ≠ .sealed →
        Filled (Tbl.look 0 m.act.act.states) (Tbl.look 0 t.act.act.states) (bits q.a0 7 0) q.a1 fun i => be q.data (8 * i) 8) ∧
      t = { m with act := { m.act with shadow := { m.act.shadow with states := t.act.shadow.states }, act := { m.act.act with states := t.act.act.states } }
                   flt := { m.flt with badEntries := t.flt.badEntries } }) ∧
  (∀ (m : Mach) (q : Cmd), bit q.a0 31 = true → 256 < bits q.a0 7 0 + q.a1 → q.a1 ≠ 0 → parseSet m q = (sBAD_ENTRY, 256 - bits q.a0 7 0, [], m)) ∧
  (∀ (m : Mach) (q : Cmd), Tbl.rising m.act.shadow.rules = true → bits q.a0 31 24 ≤ 31 →
    (∀ i < q.a1, bits q.a0 10 0 + i < 2048 ∧ ruleOk (slice q.data (96 * i) 96) = true) →
    ∃ t, clsSet m q = (sOK, 0, [], t) ∧ Filled (Tbl.look emptyRule m.act.shadow.rules) (Tbl.look emptyRule t.act.shadow.rules)
      (2048 * bits q.a0 31 24 + bits q.a0 10 0) q.a1 fun i => slice q.data (96 * i) 96) ∧
  (∀ (m : Mach) (q : Cmd), Tbl.rising m.act.shadow.tmpls = true →
    (∀ i < q.a1, q.a0 + i < 4096 ∧ tmplOk (slice q.data (160 * i) 160) = true ∧ m.writeMeets 1 (q.a0 + i) = false) →
    ∃ t, tmplSet m q = (sOK, 0, [], t) ∧
      Filled (Tbl.look [] m.act.shadow.tmpls) (Tbl.look [] t.act.shadow.tmpls) q.a0 q.a1 fun i => slice q.data (160 * i) 160) ∧
  (∀ (m : Mach) (q : Cmd) (k : Nat), k < q.a1 →
    (∀ i < k, q.a0 + i < 4096 ∧ tmplOk (slice q.data (160 * i) 160) = true ∧ m.writeMeets 1 (q.a0 + i) = false) → q.a0 + k < 4096 →
    (tmplOk (slice q.data (160 * k) 160) = false → (tmplSet m q).1 = sBAD_TEMPLATE ∧ (tmplSet m q).2.1 = k) ∧
    (tmplOk (slice q.data (160 * k) 160) = true → m.writeMeets 1 (q.a0 + k) = true → (tmplSet m q).1 = sDMA_ERROR ∧ (tmplSet m q).2.1 = k)) ∧
  (∀ (c : Cfg) (m : Mach) (q : Cmd), (bundleOf q.data).first ≠ q.a0 ∨ (bundleOf q.data).count ≠ q.a1 → progLoad c m q = (0x20, 0xFFFF, [], m)) ∧
  (∀ (c : Cfg) (m : Mach) (q : Cmd) (st : Nat), (bundleOf q.data).first = q.a0 → (bundleOf q.data).count = q.a1 →
    bundleCheck c m [6] q.data = some st → progLoad c m q = (st, 0xFFFF, [], m)) ∧
  ∀ (c : Cfg) (m : Mach) (q : Cmd), Tbl.rising m.act.shadow.progs = true → bundleCheck c m [6] q.data = none → (bundleOf q.data).first = q.a0 →
    (bundleOf q.data).count = q.a1 → q.a0 + q.a1 ≤ 4096 →
    (∀ i < q.a1, headerOk (slice (bundleOf q.data).payload (272 * i) 272) = true ∧
      firstBadOp (opsOf (slice (bundleOf q.data).payload (272 * i) 272)) 0 false false = none ∧ m.writeMeets 0 (q.a0 + i) = false) →
    ∃ t, progLoad c m q = (sOK, 0, [], t) ∧ Filled (Tbl.look [] m.act.shadow.progs) (Tbl.look [] t.act.shadow.progs) q.a0 q.a1 (fun i =>
        let p := slice (bundleOf q.data).payload (272 * i) 272
        beBytes 16 (headerOf p) ++ p.drop 16) ∧
      t.sec.shadowProg.digest = shake256 32 (m.sec.shadowProg.digest ++ (bundleOf q.data).meas.digest)

/-- Forwarding entries by command (R171, R184). `FDB_SET` refuses a bad entry and answers `NO_ROOM` where both buckets of a die are full; else the
entry is written as it is supplied, in place of the one of its key or in a free place, on each die named. `FDB_DELETE` and `FDB_QUERY` find entries by
key on the dies named; `FDB_FLUSH`, a bulk command, removes the dynamic entries that meet its criteria, and nothing without a criterion (the last is
the model's choice, notes/assumptions/40.md). -/
def Obligations.FdbCommandsSetFindAndRemove : Prop :=
  (∀ (s : State) (r : Fin 16384) (q : Cmd), Answers (.fdbSet r q) s r .fdbSet q fdbSet ∧ Answers (.fdbDelete r q) s r .fdbDelete q fdbDelete ∧
    Answers (.fdbQuery r q) s r .fdbQuery q fdbQuery) ∧
  (∀ (s : State) (r : Fin 16384) (q q' : Cmd) (slot : Nat) (m m' : Mach), Starts s r .fdbFlush q q' slot m →
    m.holdsLeave opBulk m.pwr.nextWait = false → m.waitsLeave opBulk m.pwr.nextWait = false →
    askLeave s.conf m opBulk m.pwr.nextWait = (.granted, m') →
    exec (.fdbFlush r q) s = s.completes r slot (sOK, 0, [], releaseLeave s.conf (tableWrites s.conf .fdbFlush q' sOK 0 (fdbFlush m' q').2.2.2) opBulk
      m.pwr.nextWait)) ∧
  (∀ (m : Mach) (q : Cmd) (d : Fin 2) (e p : Nat), q.a1 = 1 → q.dies = [d.val] → be q.data 0 16 = e → fdbOk e = true →
    fdbFind m d (fdbBd e) (fdbMac e) = some p ∨ (fdbFind m d (fdbBd e) (fdbMac e) = none ∧ fdbRoom m d (fdbBd e) (fdbMac e) = some p) →
    fdbSet m q = (sOK, 0, [], m.setFdb p e)) ∧
  (∀ (m : Mach) (q : Cmd) (e p p' : Nat), Tbl.rising m.fwd.fdb = true → q.a1 = 1 → q.dies = [0, 1] → be q.data 0 16 = e → fdbOk e = true →
    fdbFind m 0 (fdbBd e) (fdbMac e) = some p → fdbFind m 1 (fdbBd e) (fdbMac e) = some p' → fdbSet m q = (sOK, 0, [], (m.setFdb p e).setFdb p' e)) ∧
  (∀ (m : Mach) (q : Cmd) (d : Fin 2) (e : Nat), q.a1 = 1 → q.dies = [d.val] → be q.data 0 16 = e → fdbOk e = true →
    fdbFind m d (fdbBd e) (fdbMac e) = none → fdbRoom m d (fdbBd e) (fdbMac e) = none → fdbSet m q = (sNO_ROOM, 0, [], m)) ∧
  (∀ (m : Mach) (q : Cmd), q.a1 = 1 → fdbOk (be q.data 0 16) = false → fdbSet m q = (sBAD_ENTRY, 0, [], m)) ∧
  (∀ (m : Mach) (q : Cmd) (d : Fin 2) (e p : Nat), q.a1 = 1 → q.dies = [d.val] → be q.data 0 16 = e → fdbFind m d (fdbBd e) (fdbMac e) = some p →
    fdbDelete m q = (sOK, 0, [], m.setFdb p 0) ∧ fdbQuery m q = (sOK, 0, beBytes 16 (m.fdbAt p), m)) ∧
  (∀ (m : Mach) (q : Cmd), q.a1 = 1 → (∀ d ∈ q.dies, fdbFind m d (fdbBd (be q.data 0 16)) (fdbMac (be q.data 0 16)) = none) →
    fdbDelete m q = (sNOT_FOUND, 0, [], m) ∧ fdbQuery m q = (sNOT_FOUND, 0, [], m)) ∧
  (∀ (m : Mach) (q : Cmd), bit q.a0 31 = false → bit q.a1 31 = false → fdbFlush m q = (sOK, 0, [], m)) ∧
  ∀ (m : Mach) (q : Cmd) (p : Nat), Tbl.rising m.fwd.fdb = true → bit q.a0 31 = true → bit q.a1 31 = false →
    Tbl.look 0 (fdbFlush m q).2.2.2.fwd.fdb p =
      if fdbValid (Tbl.look 0 m.fwd.fdb p) && !fdbStatic (Tbl.look 0 m.fwd.fdb p) && q.dies.contains (p / 2 ^ 20) &&
        fdbBd (Tbl.look 0 m.fwd.fdb p) == bits q.a0 13 0 then 0 else Tbl.look 0 m.fwd.fdb p

/-- Bridge domains, next hops, ECMP groups and members by command (R180, R184): entries are written in order; `ECMP_MEMBER_DOWN` exchanges a live
member with the last live one and shortens the live part, `_UP` exchanges one that is not with the first that is not and lengthens it (a group's bits
are packed as notes/assumptions/20.md says). -/
def Obligations.RoutingCommandsWriteTheirTables : Prop :=
  (∀ (s : State) (r : Fin 16384) (q : Cmd), Answers (.bdSet r q) s r .bdSet q bdSet ∧ Answers (.nhSet r q) s r .nhSet q nhSet ∧
    Answers (.ecmpGroupSet r q) s r .ecmpGroupSet q ecmpGroupSet ∧ Answers (.ecmpMemberSet r q) s r .ecmpMemberSet q ecmpMemberSet) ∧
  (∀ (m : Mach) (q : Cmd), Tbl.rising m.fwd.bd = true →
    (∀ i < q.a1, q.a0 + i < 16384 ∧ bdOk (beNat (slice q.data (48 * i) 48)) = true) →
    ∃ t, bdSet m q = (sOK, 0, [], { m with fwd := { m.fwd with bd := t } }) ∧
      Filled (Tbl.look 0 m.fwd.bd) (Tbl.look 0 t) q.a0 q.a1 fun i => beNat (slice q.data (48 * i) 48)) ∧
  (∀ (m : Mach) (q : Cmd), Tbl.rising m.fwd.nh = true →
    (∀ i < q.a1, q.a0 + i < 65536 ∧ nhType (beNat (slice q.data (16 * i) 16)) ≠ 3 ∧ bits (beNat (slice q.data (16 * i) 16)) 51 0 = 0) →
    ∃ t e, nhSet m q = (sOK, 0, [], { m with fwd := { m.fwd with nh := t }, flt := { m.flt with badEntries := e } }) ∧
      Filled (Tbl.look 0 m.fwd.nh) (Tbl.look 0 t) q.a0 q.a1 fun i => beNat (slice q.data (16 * i) 16)) ∧
  (∀ (m : Mach) (q : Cmd), Tbl.rising m.fwd.group = true →
    (∀ i < q.a1, q.a0 + i < 16384 ∧ grpOk (beNat (slice q.data (8 * i) 8)) = true) →
    ∃ t e, ecmpGroupSet m q = (sOK, 0, [], { m with fwd := { m.fwd with group := t }, flt := { m.flt with badEntries := e } }) ∧
      Filled (Tbl.look 0 m.fwd.group) (Tbl.look 0 t) q.a0 q.a1 fun i => beNat (slice q.data (8 * i) 8)) ∧
  (∀ (m : Mach) (q : Cmd), Tbl.rising m.fwd.member = true → q.a0 + q.a1 ≤ 262144 →
    ∃ t, ecmpMemberSet m q = (sOK, 0, [], { m with fwd := { m.fwd with member := t } }) ∧
      Filled (Tbl.look 0 m.fwd.member) (Tbl.look 0 t) q.a0 q.a1 fun i => beNat (slice q.data (2 * i) 2)) ∧
  (∀ (s : State) (r : Fin 16384) (q : Cmd), Answers (.ecmpMemberDown r q) s r .ecmpMemberDown q fun m q =>
    let e := Tbl.look 0 m.fwd.group q.arg0.toNat
    let mem (i : Nat) : Nat := Tbl.look 0 m.fwd.member (grpBase e + i)
    let k := q.arg1.toNat
    if q.arg0.toNat < 16384 ∧ k < grpLive e then
      (sOK, 0, [], setGroup (setMember (setMember m (grpBase e + k) (mem (grpLive e - 1))) (grpBase e + (grpLive e - 1)) (mem k)) q.arg0.toNat
        (putBits e 35 27 (grpLive e - 1)))
    else (sNOT_FOUND, 0, [], m)) ∧
  ∀ (s : State) (r : Fin 16384) (q : Cmd), Answers (.ecmpMemberUp r q) s r .ecmpMemberUp q fun m q =>
    let e := Tbl.look 0 m.fwd.group q.arg0.toNat
    let mem (i : Nat) : Nat := Tbl.look 0 m.fwd.member (grpBase e + i)
    let k := q.arg1.toNat
    if q.arg0.toNat < 16384 ∧ grpLive e ≤ k ∧ k < grpSize e then
      (sOK, 0, [], setGroup (setMember (setMember m (grpBase e + k) (mem (grpLive e))) (grpBase e + grpLive e) (mem k)) q.arg0.toNat
        (putBits e 35 27 (grpLive e + 1)))
    else (sNOT_FOUND, 0, [], m)

/-- Prefixes, subscribers, policers and gate lists by command (R178, R181, R182, R231, R244). A prefix added takes the place of one of its zone,
length and address; a subscriber's entry goes to HBM and its first word to the map; a policer is written with both buckets full; a gate list that a
pending change uses is busy, and an interval below 8 ns is refused. -/
def Obligations.ForwardingListCommandsWriteTheirTables : Prop :=
  (∀ (s : State) (r : Fin 16384) (q : Cmd), Answers (.lpmAdd r q) s r .lpmAdd q lpmAdd ∧ Answers (.lpmDelete r q) s r .lpmDelete q lpmDelete ∧
    Answers (.subSet r q) s r .subSet q subSet ∧ Answers (.subQuery r q) s r .subQuery q subQuery ∧
    Answers (.policerSet r q) s r .policerSet q policerSet ∧ Answers (.policerQuery r q) s r .policerQuery q policerQuery ∧
    Answers (.gclSet r q) s r .gclSet q gclSet) ∧
  (∀ (m : Mach) (q : Cmd), q.a1 = 1 → lpmOk (slice q.data 0 32) = true →
    let x := lpmOf (slice q.data 0 32)
    let rest := m.fwd.lpm.filter fun y => !y.same x
    (rest.filter fun y => y.v6 == x.v6).length < (if x.v6 then 262144 else 1048576) →
    ∃ e, lpmAdd m q = (sOK, 0, [], { m with fwd := { m.fwd with lpm := rest ++ [{ x with place := lpmPlace m.fwd.lpm x }] }, flt := { m.flt with badEntries := e } })) ∧
  (∀ (m : Mach) (q : Cmd), q.a1 = 1 → lpmOk (slice q.data 0 32) = false → lpmAdd m q = (sBAD_ENTRY, 0, [], m)) ∧
  (∀ (m : Mach) (q : Cmd), q.a1 = 1 → lpmOk (splice (slice q.data 0 32) 4 [0, 0, 0, 0]) = true →
    let x := lpmOf (slice q.data 0 32)
    lpmDelete m q = if m.fwd.lpm.any (·.same x) then (sOK, 0, [], { m with fwd := { m.fwd with lpm := m.fwd.lpm.filter fun y => !y.same x } })
      else (sNOT_FOUND, 0, [], m)) ∧
  (∀ (m : Mach) (q : Cmd), Tbl.rising m.fwd.sub = true → Tbl.rising m.fwd.map = true →
    (∀ i < q.a1, q.a0 + i < 8388608 ∧ subOk (slice q.data (256 * i) 256) = true) →
    ∃ t u e, subSet m q = (sOK, 0, [], { m with fwd := { m.fwd with sub := t, map := u }, flt := { m.flt with badEntries := e } }) ∧
      Filled (Tbl.look (List.replicate 256 0) m.fwd.sub) (Tbl.look (List.replicate 256 0) t) q.a0 q.a1 (fun i => slice q.data (256 * i) 256) ∧
      Filled (Tbl.look 0 m.fwd.map) (Tbl.look 0 u) q.a0 q.a1 fun i => be (slice q.data (256 * i) 256) 0 4) ∧
  (∀ (m : Mach) (q : Cmd), q.a0 + q.a1 ≤ 8388608 → subQuery m q =
    (sOK, 0, (List.range q.a1).flatMap fun i => Tbl.look (List.replicate 256 0) m.fwd.sub (q.a0 + i), m)) ∧
  (∀ (m : Mach) (q : Cmd) (d : Fin 2), q.a1 = 1 → q.dies = [d.val] → q.a0 < 65536 → polOk (beNat (slice q.data 0 16)) = true →
    let e := beNat (slice q.data 0 16)
    let p : Policer := { entry := e, c := { tok := (polCbs e * 2 ^ 24 : Nat), last := m.todFrac }, p := { tok := (polPbs e * 2 ^ 24 : Nat), last := m.todFrac } }
    ∃ bad, policerSet m q = (sOK, 0, [], { m with
      fwd := { m.fwd with policer := Tbl.ins m.fwd.policer (65536 * d + q.a0) p }
      flt := { m.flt with badEntries := bad } })) ∧
  (∀ (m : Mach) (q : Cmd) (d : Fin 2), q.dies = [d.val] → q.a0 + q.a1 ≤ 65536 → policerQuery m q =
    (sOK, 0, (List.range q.a1).flatMap fun i => beBytes 16 (m.policer d (q.a0 + i)).entry, m)) ∧
  (∀ (m : Mach) (q : Cmd), q.a0 < 256 → q.a0 % 8 < 6 → (m.gate q.a0).change.isSome = true → gclSet m q = (sBUSY, 0, [], m)) ∧
  ∀ (m : Mach) (q : Cmd), Tbl.rising m.sch.gates = true → Tbl.rising (m.gate q.a0).admin = true → q.a0 < 256 → q.a0 % 8 < 6 → (m.gate q.a0).change = none →
    0 < bits q.a1 26 16 →
    (∀ i < bits q.a1 26 16, bits q.a1 10 0 + i < 1024 ∧ bits (beNat (slice q.data (8 * i) 8)) 63 40 = 0 ∧ 8 ≤ gInterval (beNat (slice q.data (8 * i) 8))) →
    ∃ t, (gclSet m q).1 = sOK ∧ (gclSet m q).2.2.2.gate q.a0 = { m.gate q.a0 with admin := t } ∧
      Filled (Tbl.look 0 (m.gate q.a0).admin) (Tbl.look 0 t) (bits q.a1 10 0) (bits q.a1 26 16) fun i => beNat (slice q.data (8 * i) 8)

/-- Steering and promotion by command (R281, R286, R309, R315). `STEER_SET` writes entries without their read-only `STATE` and `SHADOWED`, an excluded
one to the state of its link and `SHADOWED`, one with another home to the state of its link (R303); after the seal one that would change this device's
part is not permitted. `STEER_QUERY` returns entries with those fields as they stand; both refuse a count of 0 or above 1,024
(notes/assumptions/139.md). `PROMOTE` needs this device to be the mirror of entries in shadow, and makes it their home, with the mirror it names or
none, at once (notes/assumptions/40.md and 138.md). -/
def Obligations.SteeringCommandsActOnTheirEntries : Prop :=
  (∀ (s : State) (r : Fin 16384) (q : Cmd), Answers (.steerSet r q) s r .steerSet q (steerSet s.conf) ∧
    Answers (.steerQuery r q) s r .steerQuery q steerQuery ∧ Answers (.promote r q) s r .promote q (promote s.conf)) ∧
  (∀ (c : Cfg) (m : Mach) (q : Cmd), q.a1 = 0 ∨ 1024 < q.a1 → steerSet c m q = (sBAD_ENTRY, 0, [], m) ∧ steerQuery m q = (sBAD_ENTRY, 0, [], m)) ∧
  (∀ (c : Cfg) (m : Mach) (q : Cmd), q.a1 = 1 → q.a0 < 65536 →
    let x := putBits (beNat (slice q.data 0 8)) 15 13 0
    (steerOk c x = false → steerSet c m q = (sBAD_ENTRY, 0, [], m)) ∧
    (steerOk c x = true → m.glb.sealSt = .sealed → m.entState q.a0 ≠ 3 → changesPart c (m.entry q.a0) x = true →
      steerSet c m q = (sNOT_PERMITTED, 0, [], m)) ∧
    (steerOk c x = true → m.entState q.a0 ≠ 3 → m.glb.sealSt ≠ .sealed ∨ changesPart c (m.entry q.a0) x = false → seHome x = seHome (m.entry q.a0) →
      steerSet c m q = (sOK, 0, [], { m with duo := { m.duo with steer := Tbl.put 0 m.duo.steer q.a0 x } })) ∧
    (steerOk c x = true → m.entState q.a0 ≠ 3 → m.glb.sealSt ≠ .sealed ∨ changesPart c (m.entry q.a0) x = false → seHome x ≠ seHome (m.entry q.a0) →
      steerSet c m q = (sOK, 0, [], { m with duo := { m.duo with
        steer := Tbl.put 0 m.duo.steer q.a0 x
        est := Tbl.put 0 m.duo.est q.a0 (entryFor c m x + 4 * b2n (entryFor c m x == 1 || m.entShadowed q.a0)) } })) ∧
    (steerOk c x = true → m.entState q.a0 = 3 →
      steerSet c m q = (sOK, 0, [], { m with duo := { m.duo with steer := Tbl.put 0 m.duo.steer q.a0 x, est := Tbl.put 0 m.duo.est q.a0 (entryFor c m x + 4) } }))) ∧
  (∀ (m : Mach) (q : Cmd), 0 < q.a1 → q.a1 ≤ 1024 → q.a0 + q.a1 ≤ 65536 → steerQuery m q = (sOK, 0, (List.range q.a1).flatMap fun i =>
    beBytes 8 (putBits (putBits (m.entry (q.a0 + i)) 15 14 (m.entState (q.a0 + i))) 13 13 (b2n (m.entShadowed (q.a0 + i)))), m)) ∧
  (∀ (c : Cfg) (m : Mach) (q : Cmd), 65536 < q.a0 + q.a1 ∨ (∃ i < q.a1, entRole c (m.entry (q.a0 + i)) ≠ .mirror ∨ m.entState (q.a0 + i) ≠ 1) →
    promote c m q = (sNOT_PERMITTED, 0, [], m)) ∧
  (∀ (c : Cfg) (m : Mach) (q : Cmd), q.a0 + q.a1 ≤ 65536 →
    (∀ i < q.a1, entRole c (m.entry (q.a0 + i)) = .mirror ∧ m.entState (q.a0 + i) = 1) →
    let dev := bits q.arg2.toNat 17 0
    let mirror := if bit q.arg2.toNat 31 = true then some (dev, partnerOf c dev) else none
    promote c m q = (sOK, 0, [], (List.range q.a1).foldl (fun m i => promoteEntry c m mirror (q.a0 + i)) m)) ∧
  ∀ (c : Cfg) (m : Mach) (e : Nat) (mirror : Option (Nat × Option Nat)), Tbl.rising m.duo.steer = true → Tbl.rising m.duo.est = true →
    deviceId c < 2 ^ 18 → m.entry e < 2 ^ 64 → (∀ x, mirror = some x → x.1 < 2 ^ 18 ∧ ∀ p, x.2 = some p → p < 8) →
    let t := promoteEntry c m mirror e
    (seValid (m.entry e) = true → entRole c (t.entry e) = .home) ∧ seMEn (t.entry e) = mirror.isSome ∧ t.entState e = 0 ∧ t.entShadowed e = false ∧
      (∀ x, mirror = some x → seMirror (t.entry e) = x.1 ∧ ∀ p, x.2 = some p → seMirrorP (t.entry e) = p) ∧
      ∀ n, n ≠ e → t.entry n = m.entry n ∧ t.entState n = m.entState n

/-- Core images, quotes, the tag and the owner by command (R274, R418, R423-R426). A core image is refused while a core of its slot is out of reset,
and its load stops at an error of the memory it writes (R480); a slot above 1 is no entry (notes/assumptions/119.md for both). A quote of the
certificate needs no key; one with no leaf left fails; a block of 1,024 leaves is reserved before its first signs (R421); the tag's writes are in
64-byte pieces, up to its count; an owner is enrolled once before the seal, and after that only by a signature of the present one, known by its hash
(notes/assumptions/37.md); a rotation without an owner is not permitted (the same entry). -/
def Obligations.TrustCommandsActAsTheirRulesSay : Prop :=
  (∀ (s : State) (r : Fin 16384) (q : Cmd), Answers (.coreLoad r q) s r .coreLoad q fun m q =>
    let slot := q.arg0.toNat
    if 1 < slot then (sBAD_ENTRY, 0, [], m)
    else if slotBusy s.conf m slot then (sBUSY, 0, [], m)
    else match bundleCheck s.conf m [7] q.data with
      | some st => (st, 0xFFFF, [], m)
      | none =>
        let image := (bundleOf q.data).payload
        match m.sec.writeErrs.find? fun e => e.1 = 2 + slot && decide (e.2 < image.length) with
        | some (_, n) => (0x0F, 0xFFFF, [], loadStops { m with tsk := { m.tsk with
            image := Tbl.ins m.tsk.image slot (image.take n ++ (Tbl.look [] m.tsk.image slot).drop n) } } (2 + slot) n [2 + slot])
        | none => (sOK, 0, [], { m with
          tsk := { m.tsk with image := Tbl.ins m.tsk.image slot image }
          sec := { m.sec with meas := Tbl.put {} m.sec.meas (6 + slot) (bundleOf q.data).meas
                              incomplete := m.sec.incomplete.filter fun i => decide (i ≠ 2 + slot) } })) ∧
  (∀ (s : State) (r : Fin 16384) (q q' : Cmd) (slot : Nat) (m : Mach), Starts s r .attest q q' slot m → isBulk .attest q' = false →
    (q'.arg0.getLsbD 0 = true → exec (.attest r q) s = s.completes r slot (sOK, 0, certificate s.conf, m)) ∧
    (q'.arg0.getLsbD 0 = false → 2 ^ 40 ≤ m.sec.next → exec (.attest r q) s = s.completes r slot (0x28, 0, [], m)) ∧
    (q'.arg0.getLsbD 0 = false → m.sec.next < 2 ^ 40 → keyReady m = true → m.sec.signedAt = none →
      m.holdsLeave opQuote m.pwr.nextWait = false → m.waitsLeave opQuote m.pwr.nextWait = false →
      ∀ m' m'', askLeave s.conf m opQuote m.pwr.nextWait = (.granted, m') → reserveLeaf m' = (true, m'') →
        exec (.attest r q) s = s.completes r slot (sOK, 0, (signQuote s.conf m'' (quoteBody s.conf m q'.data)).1,
          releaseLeave s.conf (signQuote s.conf m'' (quoteBody s.conf m q'.data)).2 opQuote m.pwr.nextWait))) ∧
  (∀ m : Mach, m.sec.nv.reserved.2.2 ≠ m.sec.next → reserveLeaf m = (true, m)) ∧
  (∀ m m' : Mach, reserveLeaf m = (true, m') → m.sec.nv.reserved.2.2 = m.sec.next → m'.sec.nv.reserved.2.2 = m.sec.next + 1024) ∧
  (∀ (c : Cfg) (m : Mach) (body : List Byte), m.sec.next < 2 ^ 40 → 2 ^ 30 ≤ 2 ^ 40 - m.sec.next - 1 → treeDue { m with sec := { m.sec with next := m.sec.next + 1 } } = none →
    ∃ out, signQuote c m body = (out, { m with sec := { m.sec with next := m.sec.next + 1, signedAt := some m.up }, free := m.free + 4 })) ∧
  (∀ (s : State) (r : Fin 16384) (q : Cmd), Answers (.tagWrite r q) s r .tagWrite q fun m q =>
    if q.arg0.toNat % 64 ≠ 0 ∨ q.data.length % 64 ≠ 0 ∨ 4096 < q.arg0.toNat + q.data.length then (sBAD_ENTRY, 0, [], m)
    else if 1_000_000 ≤ m.sec.nv.tagWrites then (0x29, 0, [], m)
    else (sOK, 0, [], { m with sec := { m.sec with nv := { m.sec.nv with
      tag := q.data.zipIdx.foldl (fun t e => Tbl.put 0 t (q.arg0.toNat + e.2) e.1) m.sec.nv.tag, tagWrites := m.sec.nv.tagWrites + 1 } } })) ∧
  (∀ (t : Tbl Byte) (off : Nat) (b : List Byte), Tbl.rising t = true →
    Filled (Tbl.look 0 t) (Tbl.look 0 (b.zipIdx.foldl (fun t e => Tbl.put 0 t (off + e.2) e.1) t)) off b.length fun i => b.getD i 0) ∧
  ∀ (s : State) (r : Fin 16384) (q : Cmd), Answers (.ownerEnrol r q) s r .ownerEnrol q fun m q =>
    let enrol (h : List Byte) : CmdRes := (sOK, 0, [], { m with sec := { m.sec with nv := { m.sec.nv with owner := some h } } })
    if q.data.length = 68 then
      if m.sec.nv.owner.isSome then (0x27, 0, [], m)
      else if m.glb.sealSt = .sealed ∨ m.glb.sealSt = .checking then (sNOT_PERMITTED, 0, [], m)
      else enrol (shake256 32 q.data)
    else match m.sec.nv.owner with
      | none => (sNOT_PERMITTED, 0, [], m)
      | some h =>
        if Config.xmssVerify h ([0x4F, 0x57, 0x4E, 0x45, 0x52, 0x2D, 0x52, 0x4F, 0x54, 0x41, 0x54, 0x45] ++ shake256 32 (q.data.take 68)) (q.data.drop 68)
        then enrol (shake256 32 (q.data.take 68)) else (0x24, 0, [], m)

/-! ### Host ports -/

/-- Doorbells and tail records (R335, R337, R338, R343). A doorbell that passes the checks sets its ring's tail; `INVAL` also discards what is
prefetched and not consumed and what a fetch in flight returns (notes/assumptions/141.md); `ARM` also arms an `IRQ_EN` ring, here without unsignalled
writes. One that fails a check, or of a ring that another port owns, changes nothing but its count; one to a port out of D0 or without link changes
nothing at all (notes/assumptions/15.md). A tail record is taken so too, of a polled ring whose `HIF_POLL_PERIOD` has passed since the last (R337),
and of no other. Fetches and reads of host memory (R338, R349). Descriptors read enter the ring's part of the cache, oldest first, up to 32, and the
device begins on them: of a `TXP` ring on all, of a `CMD` ring on those up to the first without input, which are consumed then
(notes/assumptions/141.md). What was in flight at an `INVAL` is discarded. Input that returns starts the first command that awaits it; frame data
joins the frame. A failed read puts the ring in error and reports it, an admin ring (below 4) in `HIF_ADMIN_CFG.ERR` too; a command whose input
failed, and a frame whose data failed (of one descriptor here), complete with `DMA_ERROR`. A ring that does not fetch takes nothing. -/
def Obligations.DoorbellsAndReadsReachTheirRing : Prop :=
  ((∀ (s : State) (p : Fin 4) (r : Fin 16384) (t : BitVec 16) (len : Nat) (v : BitVec 64), s.live →
    let q := s.mach.ring r
    q.state = .active → q.kind ≠ .evt → q.fills = [] → t.toNat < q.size → q.posted ≤ (t.toNat + q.size - q.head) % q.size →
    (portTakes s.mach p = true → q.owner = p →
      (len = 8 ∨ len = 4 → v.toNat % 2 ^ 18 = t.toNat →
        exec (.doorbell p (BitVec.ofNat 26 (4096 * r.val)) len v) s = .next (s.withM (s.mach.setRing r { q with tail := t.toNat }))) ∧
      exec (.doorbellInval p r t) s =
        .next (s.withM (s.mach.setRing r { q with
          tail := t.toNat, cache := [], reserved := [], stale := q.stale + b2n (mayFetch s.mach r && decide (0 < fetchRoom s.mach r)) })) ∧
      (q.irqEn = true → q.unsig = 0 →
        exec (.doorbellArm p r t) s = .next (s.withM (s.mach.setRing r { q with tail := t.toNat, armed := true }))) ∧
      (q.irqEn = false → exec (.doorbellArm p r t) s = .next (s.withM (s.mach.setRing r { q with tail := t.toNat })))) ∧
    (let due := q.polledAt + 100 * s.conf.get hifPollPeriodPeriod ≤ s.mach.up
     (q.polled = true → s.mach.dmaOk q.owner = true → due → v.toNat % 2 ^ 18 = t.toNat →
       exec (.pollTailRead r v) s = .next (s.withM (s.mach.setRing r { q with tail := t.toNat, polledAt := s.mach.up }))) ∧
     (q.polled = false ∨ s.mach.dmaOk q.owner = false ∨ ¬due → exec (.pollTailRead r v) s = .next s))) ∧
  ∀ (s : State) (p : Fin 4) (off : BitVec 26) (len : Nat) (v : BitVec 64), s.live →
    let q := s.mach.ring (off.toNat / 4096)
    let bad : Outcome := .next (s.withM (bump s.conf s.mach .hifCnt p cHifDbBad))
    (portTakes s.mach p = false → exec (.doorbell p off len v) s = .next s) ∧
    (portTakes s.mach p = true →
      (off.toNat % 4096 ≠ 0 ∨ (len ≠ 8 ∧ len ≠ 4) → exec (.doorbell p off len v) s = bad) ∧
      (off.toNat % 4096 = 0 → len = 8 ∨ len = 4 →
        (q.state ≠ .absent → q.owner ≠ p →
          exec (.doorbell p off len v) s = .next (s.withM (bump s.conf s.mach .hifCnt p cHifDbForeign))) ∧
        (q.state = .absent ∨ q.state = .draining ∧ q.owner = p → exec (.doorbell p off len v) s = bad) ∧
        (q.state = .active → q.owner = p →
          q.size ≤ bits v.toNat 15 0 ∨ (bits v.toNat 15 0 + q.size - q.head) % q.size < q.posted → exec (.doorbell p off len v) s = bad)))) ∧
  ((∀ (s : State) (r : Fin 16384) (ds : List (List Byte)), s.live →
    let q := s.mach.ring r
    (0 < q.stale → exec (.descFetchDone r (some ds)) s = .next (s.withM (s.mach.setRing r { q with stale := q.stale - 1 }))) ∧
    (q.stale = 0 → mayFetch s.mach r = true → 0 < fetchRoom s.mach r →
      let m' := s.mach.setRing r { q with cache := q.cache ++ (ds.take (fetchRoom s.mach r)).map fun d =>
        (d ++ List.replicate (q.descBytes - d.length) 0).take q.descBytes, usedAt := s.mach.up }
      q.fills = [] → prefetched m' ≤ 65536 → exec (.descFetchDone r (some ds)) s = .next (s.withM (beginReads m' r)))) ∧
  (∀ (m : Mach) (r : Nat), Tbl.rising m.hif.rings = true →
    let q := m.ring r
    let n := q.reads.length
    let t := beginReads m r
    t = { m with hif := { m.hif with rings := t.hif.rings } } ∧ (∀ k, k ≠ r → t.ring k = m.ring k) ∧
      (t.ring r).cache = q.cache.drop n ∧ (t.ring r).begun = q.begun ++ ((List.range n).map (q.nextSlot + ·)).zip (q.cache.take n) ∧
      (t.ring r).nextSlot = q.nextSlot + n ∧ (t.ring r).consumed.length = q.consumed.length + n ∧ (t.ring r).head = q.head ∧
      (t.ring r).tail = q.tail ∧ (q.kind = .txp → (t.ring r).cache = []) ∧
      (q.kind = .cmd → ∀ d ∈ (t.ring r).cache.head?, be d 16 4 = 0)) ∧
  (∀ (s : State) (r : Fin 16384), s.live → mayFetch s.mach r = true → 0 < fetchRoom s.mach r →
    let q := s.mach.ring r
    let e := s.mach.setRing r { q with state := .error, cache := [], stale := 0, reserved := [] }
    let e := if r.val < 4 then e.setPort r { e.port r with adminErr := 3 } else e
    let m' := bump s.conf (serveFills s.conf q.fills.length e r) .hifCnt q.owner cHifDmaError
    let a := q.base.toNat + (q.head + q.consumed.length + q.reserved.length + q.cache.length) % q.size * q.descBytes
    exec (.descFetchDone r none) s = .next (s.withM (raise s.conf (postEvent s.conf m'
      { type := 0x0C, bodies := [beBytes 2 r.val ++ beBytes 1 1 ++ [0] ++ beBytes 8 a] }) 27 q.owner DEGRADED r))) ∧
  (∀ (s : State) (r : Fin 16384) (ds : Option (List (List Byte))), s.live → mayFetch s.mach r = false ∨ fetchRoom s.mach r = 0 →
    ds = none ∨ (s.mach.ring r).stale = 0 → exec (.descFetchDone r ds) s = .next s) ∧
  (∀ (s : State) (r : Fin 16384) (d b : List Byte) (rest : List (Nat × List Byte)) (slot opc n : Nat) (x : Cmd), s.live →
    let q := s.mach.ring r
    q.kind = .cmd → q.begun = (slot, d) :: rest → cmdIn d q.ver = (opc, x, n) →
    (b.length = n → exec (.dataReadDone r (.data b)) s = .next (s.withM (settle s.conf (ringCmd s.conf s.mach r opc { x with data := b })))) ∧
    (ringWaits s.mach r = false → exec (.dataReadDone r .failed) s = .next (s.withM (settle s.conf (complete s.conf
      (dmaError s.conf (s.mach.setRing r { q with begun := rest }) r x.dataAddr.toNat) r slot ⟨sDMA_ERROR, 0, []⟩))))) ∧
  ∀ (s : State) (r : Fin 16384) (d b : List Byte) (slot : Nat) (rest : List (Nat × List Byte)), s.live →
    let q := s.mach.ring r
    q.kind = .txp →
    (q.begun.drop q.got.length = (slot, d) :: rest → b.length = be d 12 2 →
      exec (.dataReadDone r (.data b)) s = .next (s.withM (settle s.conf (s.mach.setRing r { q with got := q.got ++ [b] })))) ∧
    (q.begun = [(slot, d)] → q.got = [] → exec (.dataReadDone r .failed) s = .next (s.withM (settle s.conf (complete s.conf
      (dmaError s.conf (s.mach.setRing r { q with begun := [] }) r (be d 16 8)) r slot ⟨0x0F, 0, []⟩)))))

/-- Frames on rings (R332, R333, R338-R340). A frame of `TXP` descriptors whose data is read goes to its pipeline's host port, or to the ring's work
queue; one too long or with an empty part completes with `BAD_LENGTH`, one with a reserved `PTP` with `BAD_ENTRY` (notes/assumptions/36.md), one for a
pipeline its ring does not list with `NOT_PERMITTED`; one not yet whole, or behind one that waits, stays. A frame that fits the first posted buffer is
written there behind its payload. A descriptor's write, its word 0 last, moves the head on and turns the phase over at the ring's end. -/
def Obligations.FramesCrossTheRings : Prop :=
  (∀ (s : State) (r : Fin 16384) (ds : List (List Byte)), s.live → txpWaits s.mach r = false →
    let q := s.mach.ring r
    let n := ds.length
    let d := ds.headD []
    let w := be d 0 8
    let data := (q.got.take n).flatten
    let slots := (q.begun.take n).map (·.1)
    let taken := s.mach.setRing r { q with begun := q.begun.drop n, got := q.got.drop n }
    let ends (status : Nat) (m : Mach) : Outcome := .next (s.withM (slots.foldl (fun m k => complete s.conf m r k ⟨status, 0, []⟩) m))
    q.kind = .txp → frameDescs (q.begun.map (·.2)) = some ds →
    (badExtent ds = true → exec (.txpFrameAdmit r) s = ends 0x0E taken) ∧
    (badExtent ds = false → bits w 46 45 = 3 → exec (.txpFrameAdmit r) s = ends 0x07 taken) ∧
    (badExtent ds = false → bits w 46 45 ≠ 3 →
      (q.got.length < n → exec (.txpFrameAdmit r) s = .next s) ∧
      (n ≤ q.got.length → q.toWq = false → q.pipes.getLsbD (bits w 44 40) = true →
        exec (.txpFrameAdmit r) s = .next (s.withM (hostFrameIn s.conf taken
          { pipe := bits w 44 40, data := data, metaw := be d 14 2, ptp := bits w 46 45, ptpTag := be d 24 2, port := q.owner
            ring := r, slots := slots }))) ∧
      (n ≤ q.got.length → q.toWq = false → q.pipes.getLsbD (bits w 44 40) = false →
        exec (.txpFrameAdmit r) s = ends 0x0B (countReason s.conf taken (bits w 44 40) 0x37)) ∧
      (n ≤ q.got.length → q.toWq = true → ∃ t, exec (.txpFrameAdmit r) s = .next (s.withM t) ∧
        t = { taken with tsk := { taken.tsk with hostIn := t.tsk.hostIn } } ∧
        (Tbl.rising s.mach.tsk.hostIn = true → ∃ x : WItem, Tbl.look [] t.tsk.hostIn r = Tbl.look [] s.mach.tsk.hostIn r ++ [x] ∧
          x.src = 1 ∧ x.wq = q.wq ∧ x.tag = be d 8 4 ∧ x.data = data ∧ x.ring = r ∧ x.slots = slots ∧ x.user = slice d 48 16)))) ∧
  (∀ (s : State) (r : Fin 16384), s.live →
    (s.mach.ring r).kind ≠ .txp ∨ txpWaits s.mach r = true ∨ frameDescs ((s.mach.ring r).begun.map (·.2)) = none →
    exec (.txpFrameAdmit r) s = .next s) ∧
  (∀ (s : State) (r : Fin 16384) (f : Fill) (d : List Byte) (rest : List (List Byte)), s.live →
    let q := s.mach.ring r
    q.state = .active → s.mach.dmaOk q.owner = true → q.fills = [f] → q.reserved = [] → q.cache = d :: rest → 0 < f.payload.length →
    f.payload.length ≤ bufLen d →
    exec (.rxpDeliver r) s = .next (s.withM (writeDesc s.conf
      ((s.mach.setRing r { q with fills := [], cache := rest, usedAt := s.mach.up }).emit (.data q.owner (be d 16 8) f.payload)) r 0 0
      (f.flags % 2 ^ 15) (BitVec.ofNat 32 (be d 4 4)) (splice (splice (pad56 f.body) 4 (beBytes 2 f.payload.length)) 8 (slice d 16 8))))) ∧
  (∀ (s : State) (r : Fin 16384), s.live → (s.mach.ring r).fills = [] → exec (.rxpDeliver r) s = .next s) ∧
  ∀ (c : Cfg) (m : Mach) (r opc st fl : Nat) (ctx : BitVec 32) (body : List Byte),
    let q := m.ring r
    q.state ≠ .absent → q.irqEn = false →
    writeDesc c m r opc st fl ctx body =
      ((m.emit (.desc q.owner r q.head (body.take (q.descBytes - 8)))).emit (.word0 q.owner r q.head (word0 q.phase opc st fl ctx))).setRing r { q with
        head := if q.head + 1 = q.size then 0 else q.head + 1, phase := if q.head + 1 = q.size then !q.phase else q.phase }

/-- Interrupts and L1 (R318, R343, R344, R346). From `MOD_TIME` after the first unsignalled write on, an armed ring's vector is sent on a port in L0
and D0 with MSI-X on, and the ring disarms; a masked vector shows its pending bit instead. The link takes the state it enters, and leaves it: on B0
the device begins to leave L1.2 where a timer is within 20 µs. That MSI-X Enable and Function Mask mask as PCIe has them is the model's reading
(notes/assumptions/115.md). -/
def Obligations.TimersSendInterruptsAndLeaveL1 : Prop :=
  (∀ (s : State) (r : Fin 16384) (t : Nat), s.live →
    let q := s.mach.ring r
    q.state ≠ .absent → q.irqEn = true → q.armed = true → 0 < q.unsig → q.irqDue = false → q.firstAt = some t →
    (t + 1000 * q.modTime ≤ s.mach.up → (s.mach.port q.owner).d3 = false → (s.mach.port q.owner).bme = true →
      (s.mach.port q.owner).link = .l0 →
      let m := bump s.conf (s.mach.setRing r { q with armed := false, unsig := 0, firstAt := none }) .hifCnt q.owner cHifIntr
      ((s.mach.port q.owner).msixEn = true → (s.mach.port q.owner).msixMask = false → s.conf.on hifMsixCtrlMask q.owner q.vector = false →
        exec (.modTimeExpiry r) s = .next (s.withM (m.emit (.msix q.owner q.vector)))) ∧
      ((s.mach.port q.owner).msixEn = false ∨ (s.mach.port q.owner).msixMask = true ∨ s.conf.on hifMsixCtrlMask q.owner q.vector = true →
        exec (.modTimeExpiry r) s = .next (s.withM (m.setSt hifMsixPbaPend
          (putBits (m.st hifMsixPbaPend q.owner (q.vector / 32)) (q.vector % 32) (q.vector % 32) 1) q.owner (q.vector / 32))))) ∧
    (s.mach.up < t + 1000 * q.modTime → exec (.modTimeExpiry r) s = .next s)) ∧
  (∀ (s : State) (p : Fin 4), s.live → (s.mach.port p).link = .l12 → s.conf.fuse.rev = .b0 → timerNear s.mach p = true →
    exec (.l1ExitStart p) s = .next (s.withM (s.mach.setPort p { s.mach.port p with leaving := true }))) ∧
  (∀ (s : State) (p : Fin 4), s.live → (s.mach.port p).link ≠ .l12 ∨ s.conf.fuse.rev = .a0 ∨ timerNear s.mach p = false →
    exec (.l1ExitStart p) s = .next s) ∧
  (∀ (s : State) (p : Fin 4), s.live → (s.mach.port p).linkUp = true →
    exec (.linkL1Entry p 0) s = .next (s.withM (s.mach.setPort p { s.mach.port p with link := .l10, leaving := false })) ∧
    exec (.linkL1Entry p 1) s = .next (s.withM (s.mach.setPort p { s.mach.port p with link := .l11, leaving := false })) ∧
    exec (.linkL1Entry p 2) s = .next (s.withM (s.mach.setPort p { s.mach.port p with
      link := .l12, leaving := decide (s.conf.fuse.rev = .b0) && timerNear s.mach p }))) ∧
  (∀ (s : State) (p : Fin 4), s.live → (s.mach.port p).link ≠ .l0 → (∀ r ∈ ringsOf s.mach p, (s.mach.ring r).irqDue = false) →
    exec (.linkL0Return p) s = .next (s.withM (s.mach.setPort p { s.mach.port p with link := .l0, leaving := false }))) ∧
  ∀ (s : State) (p : Fin 4), s.live → (s.mach.port p).link = .l0 → exec (.linkL0Return p) s = .next s

/-- Links and functions (R320, R345, R348, R471, R473). `HOST_LINK_UP` on a port with Bus Master Enable 0, `HOST_LINK_DOWN`, `HOST_FUNCTION_RESET` and
`PCIE_PERST_ASSERT` on one without rings, and `HOST_POWER_STATE_CHANGE` on one that then makes no DMA or has neither rings nor messages pending change
that port alone (what a function reset does to MSI-X is notes/assumptions/115.md); a ring of the port that nothing waits on is destroyed with it and a
`RING_ERROR` with cause 2, whose address the model leaves free (notes/assumptions/35.md), is posted. `PRIMARY_MOVE` completes from 100 ms of loss on
where another primary-capable port is up, reported as a NOTE, and before it changes nothing. `I2C_0_READ` answers the registers it shows, and no other
offset (notes/assumptions/16.md). -/
def Obligations.PortsFollowTheirLinksAndResets : Prop :=
  (∀ (s : State) (p : Fin 4), s.live → (s.mach.port p).bme = false →
    exec (.hostLinkUp p) s = .next (s.withM (s.mach.setPort p { s.mach.port p with linkUp := true, link := .l0, leaving := false, lostAt := none }))) ∧
  (∀ (s : State) (p : Fin 4), s.live → ringsOf s.mach p = [] →
    let x := s.mach.port p
    let down : HostPort := { x with linkUp := false, link := .l0, leaving := false, lostAt := x.lostAt.or (some s.mach.up) }
    exec (.hostLinkDown p) s = .next (s.withM (settle s.conf (s.mach.setPort p down))) ∧
    exec (.hostFunctionReset p false) s =
      .next (s.withM (settle s.conf (s.mach.setPort p
        { x with bme := false, d3 := false, pmeEn := false, pmeStatus := false, msixEn := false, msixMask := false }))) ∧
    (Tbl.rising s.mach.hif.ports = true → ∃ t : Tbl HostPort,
      (∀ n, Tbl.look {} t n = if n = p.val then { down with bme := false, d3 := false, pmeEn := false, pmeStatus := false, msixEn := false, msixMask := false }
        else s.mach.port n) ∧
      exec (.hostFunctionReset p true) s = .next (s.withM (settle s.conf { s.mach with hif := { s.mach.hif with ports := t } })) ∧
      exec (.pciePerstAssert p) s = .next (s.withM (settle s.conf { s.mach with hif := { s.mach.hif with ports := t } })))) ∧
  (∀ (s : State) (p : Fin 4) (n : Nat), s.live → ringsOf s.mach p = [n] → 4 ≤ n →
    let x := s.mach.port p
    let q := s.mach.ring n
    let down : HostPort := { x with linkUp := false, link := .l0, leaving := false, lostAt := x.lostAt.or (some s.mach.up) }
    q.fills = [] → q.heldEvts = [] → q.destroyBy = none → 0 < q.nextSlot →
    exec (.hostLinkDown p) s = .next (s.withM (settle s.conf (postEvent s.conf ((s.mach.setPort p down).setRing n { nextSlot := q.nextSlot }).draw
      { type := 0x0C, bodies := [beBytes 2 n ++ beBytes 1 2 ++ [0] ++ beBytes 8 (Config.freeValue s.mach.free).toNat] })))) ∧
  (∀ (s : State) (p : Fin 4) (d3 bme : Bool) (pme : PmeWrite) (msix : MsixWrite), s.live → (s.mach.port p).linkUp = false ∨ bme = false ∨ d3 = true ∨
      (ringsOf s.mach p = [] ∧ ∀ k < 64, s.mach.st hifMsixPbaPend p k = 0) →
    exec (.hostPowerStateChange p d3 bme pme msix) s = .next (s.withM (settle s.conf (s.mach.setPort p { s.mach.port p with
      d3 := d3, bme := bme, pmeEn := pme.en, pmeStatus := (s.mach.port p).pmeStatus && !pme.clear, msixEn := msix.enable, msixMask := msix.mask })))) ∧
  (∀ (s : State) (t p : Nat), s.live → (s.mach.port s.mach.primary).lostAt = some t → t + 100_000_000 ≤ s.mach.up →
    (lowest? 4 fun p => p != s.mach.primary && s.mach.role p == 1 && (s.mach.port p).linkUp) = some p →
    (∀ n : Fin 4, ringsOf s.mach n = []) →
    exec .primaryMove s = .next (s.withM (raise s.conf (s.mach.setSt hifPortRolePrimary p) 27 p NOTE))) ∧
  (∀ s : State, s.live → (s.mach.port s.mach.primary).lostAt = none → exec .primaryMove s = .next s) ∧
  (∀ (s : State) (t : Nat), s.live → (s.mach.port s.mach.primary).lostAt = some t → s.mach.up < t + 100_000_000 → exec .primaryMove s = .next s) ∧
  ∀ (s : State) (off : BitVec 27), s.live →
    (∀ x, locate off.toNat = some x → i2cShows x.reg = true →
      exec (.i2c0Read off) s = .next (s.withM (s.mach.emit (.i2c (readReg s.conf s.mach 4 x.reg x.i x.j x.k).toNat)))) ∧
    (∀ x, locate off.toNat = some x → i2cShows x.reg = false → exec (.i2c0Read off) s = .next s) ∧
    (locate off.toNat = none → exec (.i2c0Read off) s = .next s)

/-! ### Pipelines, buffers and schedulers -/

/-- Frames reach their pipeline (R29, R48, R49, R193, R199, R279, R285): a port that is off takes nothing. A frame whose FCS is wrong, or that ended
in error, is written to cells where it finds room, freed and counted under `FCS_ERROR` alone; one of more than 9,216 bytes is counted there; a good
one is stored and stands ready with its timestamp less the time it took on the line (notes/assumptions/112.md), or is counted under `NO_CELL`. On a
path of a partner a sync frame goes to the engine and a steered one is unwrapped. On a port with a SecY (R353, R357, R359) the frame is first
verified: EAPOL and, under strict validation, untagged frames are uncontrolled, a bad tag is discarded, a valid frame is delivered bare with its
association's next packet number moved on. On a cut-through port a head stands ready before its check (`more` says whether its tail is to come,
notes/assumptions/33.md), and the tail of a frame still in its pipeline settles whether it was good. A waiting frame of the host port is stored on its
retry and completes its descriptors, or is counted under `NO_CELL` where its account is full (notes/assumptions/70.md). -/
def Obligations.ArrivingFramesStandReady : Prop :=
  (∀ (s : State) (l : Fin 256) (f : List Byte) (err more : Bool), s.live → s.mach.flt.badFrame.contains l.val = false →
    let b := f.take (f.length - 4)
    let wrong := err = true ∨ f.length < 4 ∨ f.drop (f.length - 4) ≠ fcsOf b
    let long := 9216 < b.length + 4
    let own := ownIngress (l / 8)
    let sfd (m : Mach) (wire : Nat) : Nat :=
      adjusted (m.dieFrac (Blk.prt.die (l / 8)) - wire * 8 * 65536 / portSpeed s.conf l) (s.conf.get prtPtpAdjIngAdj (l / 8) (l % 8))
    (macOn s.conf s.mach l = false → exec (.frameArrival l f err more) s = .next s) ∧
    (macOn s.conf s.mach l = true → secyOn s.conf l = false →
      s.conf.on pplPortCfgCtEn (l / 8) (l % 8) = false ∨ f.length < 4 ∨ toEngine s.conf l b = true →
      (long ∨ wrong ∧ toEngine s.conf l b = true → exec (.frameArrival l f err more) s = .next (s.withM (countReason s.conf s.mach (l / 8) 0x3B))) ∧
      (wrong → ¬long → toEngine s.conf l b = false →
        (storeIngress s.conf s.mach (l / 8) own (b ++ [0, 0, 0, 0]) = none → exec (.frameArrival l f err more) s =
          .next (s.withM (noCell s.conf (ingressFail s.conf s.mach (l / 8) own (b ++ [0, 0, 0, 0])) (l / 8)))) ∧
        ∀ (p : Nat) (m : Mach), storeIngress s.conf s.mach (l / 8) own (b ++ [0, 0, 0, 0]) = some (p, m) →
          exec (.frameArrival l f err more) s = .next (s.withM (countReason s.conf (chargeIng (freeFrame s.conf m (l / 8 / 16) own (cellAddr p)) (l / 8)
            (-(cellsFor (b.length + 4) : Int))) (l / 8) 0x3B))) ∧
      (¬wrong → ¬long → toEngine s.conf l b = true → exec (.frameArrival l f err more) s = .next (s.withM (syncFrameRx s.conf s.mach l b))) ∧
      (¬wrong → ¬long → toEngine s.conf l b = false → syncPort s.conf l = true → be b 12 2 = 0x88B6 →
        exec (.frameArrival l f err more) s = .next (s.withM (steeredFrameRx s.conf s.mach l b false none f.length))) ∧
      (¬wrong → ¬long → toEngine s.conf l b = false → syncPort s.conf l = false ∨ be b 12 2 ≠ 0x88B6 →
        (storeIngress s.conf s.mach (l / 8) own (b ++ fcsOf b) = none → exec (.frameArrival l f err more) s =
          .next (s.withM (noCell s.conf (ingressFail s.conf s.mach (l / 8) own (b ++ fcsOf b)) (l / 8)))) ∧
        ∀ (p : Nat) (m : Mach), storeIngress s.conf s.mach (l / 8) own (b ++ fcsOf b) = some (p, m) →
          exec (.frameArrival l f err more) s = .next (s.withM (makeReady m
            { pipe := l / 8, lport := l, len := b.length, head := p, owner := own, ts := sfd m f.length })))) ∧
    (macOn s.conf s.mach l = true → secyOn s.conf l = true →
      (∀ m, mscRx s.conf s.mach l b = (.discard, m) → exec (.frameArrival l f err more) s = .next (s.withM m)) ∧
      ∀ (u : Bool) (b' : List Byte) (m : Mach), mscRx s.conf s.mach l b = (if u then .uncontrolled b' else .controlled b', m) →
        (9216 < b'.length + 4 → exec (.frameArrival l f err more) s = .next (s.withM (bump s.conf m .mscCnt (ioDie l) cMscRxTooLong))) ∧
        (b'.length + 4 ≤ 9216 → ¬wrong → exec (.frameArrival l f err more) s = .next (s.withM (frameTake s.conf m l b' u none f.length)))) ∧
    (macOn s.conf s.mach l = true → secyOn s.conf l = false → s.conf.on pplPortCfgCtEn (l / 8) (l % 8) = true →
      4 ≤ f.length → toEngine s.conf l b = false → syncPort s.conf l = false ∨ be b 12 2 ≠ 0x88B6 →
      let part := more && decide (256 < f.length)
      let whole := b ++ fcsOf b
      let now := if part = true then whole.take 256 else whole
      ∀ (p : Nat) (m : Mach), storeIngress s.conf s.mach (l / 8) own now = some (p, m) →
        let k : Pkt := { pipe := l / 8, lport := l, len := f.length - 4, head := p, owner := own,
                         ts := sfd m (if part = true then 256 else f.length), ct := true }
        exec (.frameArrival l f err more) s = .next (s.withM (makeReady { m with ppl := { m.ppl with
          ct := Tbl.ins m.ppl.ct p ({ head := p, rest := whole.drop now.length, fcsOk := !decide (wrong ∨ 9216 < f.length),
                                      bad := if part = true then none else some (decide (wrong ∨ 9216 < f.length)), pkt := k } : CtFrame) } } k)))) ∧
  (∀ (c : Cfg) (m : Mach) (l : Nat) (f : List Byte), secyOn c l = true →
    let die := ioDie l
    let n := secyOf l
    let strict := c.get mscSecyCfgValidate die n = 2
    (be f 12 2 = 0x888E → mscRx c m l f = (.uncontrolled f, m)) ∧
    (be f 12 2 ≠ 0x88E5 → be f 12 2 ≠ 0x888E → strict → mscRx c m l f = (.uncontrolled f, mscStat m die 0 n 1 1)) ∧
    (be f 12 2 ≠ 0x88E5 → be f 12 2 ≠ 0x888E → ¬strict → mscRx c m l f = (.controlled f, mscStat m die 0 n 0 1)) ∧
    (be f 12 2 = 0x88E5 → bit (byteAt f 14) 7 = true ∨ 48 ≤ byteAt f 15 ∨ f.length < (if bit (byteAt f 14) 5 then 44 else 36) →
      mscRx c m l f = (.discard, mscStat m die 0 n 2 1)) ∧
    ∀ x : Nat,
      let tci := byteAt f 14
      let cipher := c.get mscSecyCfgCipher die n
      let e := 4 * c.get mscRxscCfgSaGroup die x + tci % 4
      let pn := be f 16 4
      let next := saPn m die e cipher
      be f 12 2 = 0x88E5 → bit tci 7 = false → bit tci 6 = false → bit tci 5 = true → bit tci 4 = false → bit tci 3 = true → bit tci 2 = true →
      byteAt f 15 = 0 → 92 ≤ f.length → isXpn cipher = false → 0 < pn → rxScOf c die n (be f 20 8) = some x → saUsable c m die e = true →
      0 < next → next ≤ pn → c.get mscSecyCfgValidate die n ≠ 0 → confOffset (c.get mscSecyCfgConfOffset die n) = 0 →
      mscRx c m l f = match Config.gcmOpen (saKey c die e cipher) (gcmIv c die e cipher (be f 20 8) pn) (f.take 28) ((f.drop 28).take (f.length - 44))
          (f.drop (f.length - 16)) with
        | some p => (.controlled (f.take 12 ++ p), setPn (scStat (mscStat m die 0 n 7 (f.length - 44)) die 2 x e 5) die e cipher (pn + 1))
        | none => (.discard, scStat m die 2 x e 4)) ∧
  (∀ (s : State) (l : Fin 256) (f : List Byte) (err more : Bool), s.live → s.mach.flt.badFrame.contains l.val = true →
    exec (.frameArrival l f err more) s = .next (s.withM (frameArrival s.conf
      { s.mach with flt := { s.mach.flt with badFrame := s.mach.flt.badFrame.erase l.val } } l f true more))) ∧
  (∀ (s : State) (l : Fin 256) (err : Bool), s.live →
    let found := s.mach.ppl.ct.find? fun e => e.2.pkt.pipe == l.val / 8 && e.2.bad.isNone && (e.1 == ctGone l || e.2.pkt.lport == l.val)
    (found = none → exec (.ctTailArrival l err) s = .next s) ∧
    ∀ (n : Nat) (x : CtFrame), found = some (n, x) → x.place = .pipe →
      let pipe := x.pkt.pipe
      let cells := cellsFor x.rest.length
      let req := if dieOf n = pipe / 16 then ownIngress pipe else ownXfer (dieOf n)
      let settled (m : Mach) (bad : Bool) (none' : Bool) : Mach :=
        { m with ppl := { m.ppl with ct := Tbl.ins m.ppl.ct n { x with rest := [], noRoom := none', bad := some bad } } }
      (x.rest = [] → exec (.ctTailArrival l err) s = .next (s.withM (settled s.mach (err || !x.fcsOk || x.noRoom) x.noRoom))) ∧
      (x.rest ≠ [] → s.conf.get tmgIngLimitIngLimit (pipe / 16) (pipe % 16) < Tbl.look 0 s.mach.tmg.ing pipe + cells →
        exec (.ctTailArrival l err) s = .next (s.withM (settled s.mach true true))) ∧
      (x.rest ≠ [] → Tbl.look 0 s.mach.tmg.ing pipe + cells ≤ s.conf.get tmgIngLimitIngLimit (pipe / 16) (pipe % 16) →
        (appendCells s.conf s.mach req n x.rest = none →
          exec (.ctTailArrival l err) s = .next (s.withM (settled (allocFail s.conf s.mach (dieOf n) req cells) true true))) ∧
        ∀ m : Mach, appendCells s.conf s.mach req n x.rest = some m →
          exec (.ctTailArrival l err) s = .next (s.withM (settled (chargeIng m pipe cells) (err || !x.fcsOk || x.noRoom) x.noRoom)))) ∧
  ∀ (s : State) (pipe : Fin 32), s.live →
    (s.mach.ppl.hostWait.find? (·.pipe == pipe.val) = none → exec (.hostDmaRetry pipe) s = .next s) ∧
    ∀ f : HostFrame, s.mach.ppl.hostWait.find? (·.pipe == pipe.val) = some f →
      let b := withFcs f.data
      let n := cellsFor b.length
      let m := { s.mach with ppl := { s.mach.ppl with hostWait := s.mach.ppl.hostWait.erase f } }
      let sent (m : Mach) : Mach := f.slots.foldl (fun m k => complete s.conf m f.ring k ⟨0, 0, []⟩) m
      (ingFull s.conf m f.pipe n = true → exec (.hostDmaRetry pipe) s = .next (s.withM (sent (noCell s.conf m f.pipe)))) ∧
      (ingFull s.conf m f.pipe n = false →
        (storeFrame s.conf m (f.pipe / 16) f.owner b = none → f.dma = true → exec (.hostDmaRetry pipe) s =
          .next (s.withM { allocFail s.conf m (f.pipe / 16) f.owner n with ppl := { (allocFail s.conf m (f.pipe / 16) f.owner n).ppl with
            hostWait := s.mach.ppl.hostWait } })) ∧
        (storeFrame s.conf m (f.pipe / 16) f.owner b = none → f.dma = false → exec (.hostDmaRetry pipe) s =
          .next (s.withM (noCell s.conf (allocFail s.conf m (f.pipe / 16) f.owner n) f.pipe))) ∧
        ∀ (p : Nat) (m' : Mach), storeFrame s.conf m (f.pipe / 16) f.owner b = some (p, m') →
          let m'' := sent (chargeIng m' f.pipe n)
          exec (.hostDmaRetry pipe) s = .next (s.withM (makeReady m''
            { pipe := f.pipe, lport := 8 * f.pipe + 6, metaw := f.metaw, len := b.length - 4, head := p, owner := f.owner, ts := m''.todFrac, host := true,
              core := f.core, ptp := f.ptp, ptpTag := f.ptpTag })))

/-- A packet's way through its pipeline (R47, R65, R67, R70, R71, R72, R137, R264). A slot goes to what is owed (a write-back or a sync frame), to the
port the arbiter picks, or to none; slots are owed to sync frames by their length (notes/assumptions/88.md); a due turn boundary comes first. A
response of the entry's generation, its packet the first of its flow (notes/assumptions/89.md), releases it and hands the packet on; a late one leaves
it unresolved, behind earlier ones of its flow (notes/assumptions/135.md). A punt leaves its buffer for its queue, or is counted where that is
disabled. -/
def Obligations.PacketsMoveThroughTheirPipeline : Prop :=
  (∀ (s : State) (pipe : Fin 32), s.live →
    (∀ t, exec .turnBoundary s = .next t → exec (.packetParse pipe) s = exec (.packetParse pipe) t ∧
      exec (.recircReenter pipe) s = exec (.recircReenter pipe) t) ∧
    (s.mach.glb.turn ≠ .scheduled ∨ s.mach.todNs < s.mach.glb.boundary →
      let owed := Tbl.look 0 s.mach.ppl.owed pipe
      let pick := arbiterPick s.conf s.mach pipe
      let aged := arbiterAge s.mach pipe pick
      (owed ≠ 0 → exec (.packetParse pipe) s = .next (s.withM (arbiterAge
        { s.mach with ppl := { s.mach.ppl with owed := Tbl.put 0 s.mach.ppl.owed pipe (owed - 1) } } pipe none))) ∧
      (owed = 0 → pick = none → exec (.packetParse pipe) s = .next (s.withM aged)) ∧
      (∀ (p : Nat) (k : Pkt) (ks : List Pkt), pick = some p → p < 6 → Tbl.look [] s.mach.ppl.ready (8 * pipe + p) = k :: ks →
        exec (.packetParse pipe) s = .next (s.withM (admitHeader s.conf { aged with ppl := { aged.ppl with
          rr := Tbl.put 5 s.mach.ppl.rr pipe p, ready := Tbl.put [] s.mach.ppl.ready (8 * pipe + p) ks } } k))) ∧
      (∀ (k : Pkt) (ks : List Pkt), pick = some 6 → Tbl.look [] s.mach.ppl.ready (8 * pipe + 6) = k :: ks →
        exec (.packetParse pipe) s = .next (s.withM (admitHeader s.conf { aged with ppl := { aged.ppl with
          ready := Tbl.put [] s.mach.ppl.ready (8 * pipe + 6) ks } } k))) ∧
      (∀ (k : Pkt) (ks : List Pkt), pick = some 7 → Tbl.look [] s.mach.ppl.recirc pipe = k :: ks →
        let t : Outcome := .next (s.withM (admitHeader s.conf { aged with ppl := { aged.ppl with recirc := Tbl.put [] s.mach.ppl.recirc pipe ks } } k))
        exec (.packetParse pipe) s = t ∧ exec (.recircReenter pipe) s = t) ∧
      (pick ≠ some 7 → exec (.recircReenter pipe) s = .next s))) ∧
  (∀ (s : State) (pipe : Fin 32) (idx : Fin 2048), s.live →
    let found := s.mach.ppl.resps.find? fun r => r.pipe == pipe.val && r.idx == idx.val && respFirst s.mach r
    let key := 2048 * pipe.val + idx.val
    (found = none → exec (.flowResponse pipe idx) s = .next s) ∧
    ∀ (r : Resp) (h : Hold), found = some r → Tbl.find s.mach.ppl.hold key = some h →
      let m := { s.mach with ppl := { s.mach.ppl with resps := s.mach.ppl.resps.erase r, hold := Tbl.del s.mach.ppl.hold key } }
      let k := { h.pkt with trace := tracePut (traceTime h.pkt.trace 1 s.mach.up) 53 1 r.outcome }
      (r.gen ≠ Tbl.look 0 s.mach.ppl.gen key →
        exec (.flowResponse pipe idx) s = .next (s.withM { s.mach with ppl := { s.mach.ppl with resps := s.mach.ppl.resps.erase r } })) ∧
      (r.gen = Tbl.look 0 s.mach.ppl.gen key → r.outcome ≠ 2 → r.outcome ≠ 3 →
        exec (.flowResponse pipe idx) s = .next (s.withM (actionStage s.conf m k r.snap r.outcome r.stamp r.strict))) ∧
      (r.gen = Tbl.look 0 s.mach.ppl.gen key → r.outcome = 2 →
        let policy := s.conf.of m k.turn pplZprofInsertFailPolicy pipe k.cls.zprof
        (policy = 0 → exec (.flowResponse pipe idx) s = .next (s.withM (actionStage s.conf m k none 2 0 false))) ∧
        (policy = 1 → exec (.flowResponse pipe idx) s = .next (s.withM (endWith s.conf m k 0x09 .punt))) ∧
        (policy = 2 → exec (.flowResponse pipe idx) s = .next (s.withM (endWith s.conf m k 0x09 .drop)))) ∧
      (r.gen = Tbl.look 0 s.mach.ppl.gen key → r.outcome = 3 → r.loop = true →
        exec (.flowResponse pipe idx) s = .next (s.withM (endWith s.conf m k 0x0B (reasonDisp s.conf k.pipe 0x0B))))) ∧
  (∀ (s : State) (pipe : Fin 32) (idx : Fin 2048), s.live →
    let key := 2048 * pipe.val + idx.val
    (Tbl.find s.mach.ppl.hold key = none → exec (.holdTimeout pipe idx) s = .next s) ∧
    ∀ h : Hold, Tbl.find s.mach.ppl.hold key = some h →
      (s.mach.up < h.since + 10 * s.conf.get pplHoldCfgHoldTimeout pipe ∨ heldFirst s.mach h = false → exec (.holdTimeout pipe idx) s = .next s) ∧
      (h.since + 10 * s.conf.get pplHoldCfgHoldTimeout pipe ≤ s.mach.up → heldFirst s.mach h = true → h.pkt.trace = [] →
        let m := countReason s.conf { s.mach with
          ppl := { s.mach.ppl with hold := Tbl.del s.mach.ppl.hold key, gen := Tbl.upd 0 s.mach.ppl.gen key fun g => (g + 1) % 256 } } h.pkt.pipe 0x0D
        let policy := s.conf.of m h.pkt.turn pplZprofOverloadPolicy h.pkt.pipe h.pkt.cls.zprof
        (policy = 0 → exec (.holdTimeout pipe idx) s = .next (s.withM (dropPkt s.conf (m.inc32 pplUnresDropCount h.pkt.pipe) h.pkt 0x0D))) ∧
        (policy ≠ 0 → exec (.holdTimeout pipe idx) s =
          .next (s.withM (actionStage s.conf (m.inc32 pplUnresDefaultCount h.pkt.pipe) h.pkt none 5 0 false))))) ∧
  ∀ (s : State) (pipe : Fin 32), s.live →
    let found := nextPunt s.conf s.mach pipe (fun _ => true) [] (s.mach.punts pipe)
    (found = none → exec (.puntTransfer pipe) s = .next s) ∧
    ∀ (e : Punt) (q : Nat), found = some e → puntTo s.conf pipe e.code = .queue q →
      let m := s.mach.setPunts pipe ((s.mach.punts pipe).erase e)
      let m := chargePunt (freeFrame s.conf m (pipe / 16) (ownPunt pipe) (cellAddr e.pkt.head)) pipe (-(e.cells : Int))
      (noQueue s.conf q = true → exec (.puntTransfer pipe) s = .next (s.withM (bump s.conf m .tskCnt cTskNoQueue))) ∧
      (noQueue s.conf q = false → exec (.puntTransfer pipe) s = .next (s.withM (admitItem s.conf m (puntItem s.mach q e))))

/-- Queues and cells (R26, R30, R189, R193, R195, R198, R202, R207, R208, R209, R212, R224, R295, R468). A selection ages, skips, discards or sends
the head of the queue it chooses, one past its age on a held port group too (notes/assumptions/63.md), and sets the deficits of what has no work to 0;
the end of a transmission puts the frame on the wire with its FCS and frees its cells. Frames cross dies, multicast copies are released, a staged
frame moves to the lowest free pages or is held, by a back-pressure that is free (notes/assumptions/10.md and 110.md), a queue without pages holds
cells again, an allocator's ready queue is refilled (notes/assumptions/109.md), and a flow's parked packets leave on both dies at once. -/
def Obligations.QueuesCellsAndPagesFollowTheirRules : Prop :=
  (∀ (s : State) (l : Fin 256), s.live →
    (s.mach.glb.outputs = false ∨ (Tbl.find s.mach.tmg.tx l).isSome = true → exec (.dequeueSelect l) s = .next s) ∧
    (s.mach.glb.outputs = true → Tbl.find s.mach.tmg.tx l = none →
      (∀ m : Mach, selectQueue s.conf s.mach l = (none, m) → exec (.dequeueSelect l) s = .next (s.withM m)) ∧
      ∀ (q : Nat) (m : Mach) (fd : FrameD) (rest : List FrameD), selectQueue s.conf s.mach l = (some q, m) → (m.queue q).head = fd :: rest →
        (tooOld s.conf m q fd = true → exec (.dequeueSelect l) s = .next (s.withM (restDeficits s.conf (ageDrop s.conf m q fd) l))) ∧
        (tooOld s.conf m q fd = false → pgHeld s.mach (l / 8) = true → exec (.dequeueSelect l) s = .next s) ∧
        (tooOld s.conf m q fd = false → pgHeld s.mach (l / 8) = false →
          let bad := chainBad (q / 65536) maxChain s.mach fd.head
          (∀ p, bad = some p → exec (.dequeueSelect l) s =
            .next (s.withM (restDeficits s.conf (skipFrame s.conf (takeHead m q) (ownDequeue l) q p fd) l))) ∧
          (bad = none → macOn s.conf s.mach l = false → exec (.dequeueSelect l) s = .next (s.withM (restDeficits s.conf (idleDrop s.conf m q fd) l))) ∧
          (bad = none → macOn s.conf s.mach l = true → exec (.dequeueSelect l) s = .next (s.withM (restDeficits s.conf (transmit s.conf m l q fd) l)))))) ∧
  (∀ (s : State) (l : Fin 256), s.live →
    (Tbl.find s.mach.tmg.tx l = none → exec (.frameTxDone l) s = .next s) ∧
    ∀ x : TxFrame, Tbl.find s.mach.tmg.tx l = some x →
      (x.fd.ct = true → exec (.frameTxDone l) s = .next s) ∧
      (x.fd.ct = false → x.fd.stomp = false → x.fd.trace = [] → x.fd.res.ptp ≠ 2 → macOn s.conf s.mach l = true →
        let q := s.mach.queue x.qid
        let m := { s.mach with tmg := { s.mach.tmg with tx := Tbl.del s.mach.tmg.tx l } }
        exec (.frameTxDone l) s = .next (s.withM (dropFrame s.conf ((m.setQueue x.qid
          { q with sent := q.sent + 1, sentBytes := q.sentBytes + x.bytes.length + 4 }).emit (.frame l (x.bytes ++ fcsOf x.bytes) x.ts)) (ownDequeue l) x.fd)))) ∧
  (∀ (s : State) (die : Fin 2), s.live →
    (s.mach.tmg.xfer.find? (fun x => dieOf x.head != die.val) = none → exec (.crossDieArrival die) s = .next s) ∧
    ∀ x : Xfer, s.mach.tmg.xfer.find? (fun x => dieOf x.head != die.val) = some x → x.mcast = false →
      let taken (m : Mach) : Mach := { m with tmg := { m.tmg with xfer := m.tmg.xfer.erase x } }
      let lost (m : Mach) : Mach := x.targets.foldl (fun m t => tsDropped s.conf m t.1 { x.fd with res := t.2 }) (traceEnd s.conf m x.fd.trace 1 0)
      let freed (m : Mach) : Mach := freeFrame s.conf m (1 - die) (ownXfer (1 - die)) (cellAddr x.head)
      let bytes := frameBytes s.mach x.head
      (s.mach.flt.pdpdDown = true → exec (.crossDieArrival die) s =
        .next (s.withM (freed (lost (bump s.conf (taken s.mach) .tmgCnt (1 - die) cTmgEnqDrop (x := x.targets.length)))))) ∧
      (s.mach.flt.pdpdDown = false → chainBad (1 - die) maxChain s.mach x.head = none →
        (storeFrame s.conf s.mach die (ownXfer die) bytes = none → exec (.crossDieArrival die) s = .next (s.withM (freed (bump s.conf (taken
          (x.targets.foldl (fun m t => tsDropped s.conf m t.1 { x.fd with res := t.2 })
            (allocFail s.conf (traceEnd s.conf s.mach x.fd.trace 1 0) die (ownXfer die) (cellsFor bytes.length))))
          .tmgCnt die cTmgNoBuffer (x := x.targets.length))))) ∧
        ∀ (p q : Nat) (r : EditRes) (m m' : Mach), storeFrame s.conf s.mach die (ownXfer die) bytes = some (p, m) → x.targets = [(q, r)] →
          enqueue s.conf (taken m) q { x.fd with head := p, mcast := false, res := r } = some m' →
          let t := freed (handOver s.conf m' (ownXfer die) p (ownDequeue (queuePort s.conf q)) 0)
          Tbl.find t.ppl.ct x.head = none → exec (.crossDieArrival die) s = .next (s.withM t))) ∧
  (∀ (s : State) (die : Fin 2), s.live →
    let found := s.mach.tmg.releases.find? fun r => r.1 / 2048 == die.val
    (found = none → exec (.mcastRelease die) s = .next s) ∧
    ∀ req addr : Nat, found = some (req, addr) →
      let x := s.mach.cell (addr / 256)
      let m := { s.mach with tmg := { s.mach.tmg with releases := s.mach.tmg.releases.erase (req, addr) } }
      let m' := m.setCell (addr / 256) { x with refcnt := x.refcnt - 1 }
      (cellAddrOk die addr = false → exec (.mcastRelease die) s = .next (s.withM (bufError s.conf m die .pointer req addr))) ∧
      (cellAddrOk die addr = true → x.lost = false → x.owner = ownMcast die → 0 < x.refcnt →
        (1 < x.refcnt → exec (.mcastRelease die) s = .next (s.withM m')) ∧
        (x.refcnt = 1 → exec (.mcastRelease die) s = .next (s.withM (freeFrame s.conf m' die (ownMcast die) addr))))) ∧
  (∀ (s : State) (die : Fin 2), s.live →
    (Tbl.look [] s.mach.tmg.stage die = [] → exec (.spillWrite die) s = .next s) ∧
    ∀ (q : Nat) (rest : List Nat) (fd : FrameD) (fs : List FrameD),
      Tbl.look [] s.mach.tmg.stage die = q :: rest → (s.mach.queue q).staging = fd :: fs →
      (Config.spillPressed s.mach.free = true → exec (.spillWrite die) s = .next (s.withM (pmcEvent s.conf (pmcEvent s.conf
        (bump s.conf s.mach.draw .hbmCnt cHbmSpillBp) ((pmcRow .tmg).first + die) 0x02 1) (pmcRow .hbm).first 0x03 1))) ∧
      (Config.spillPressed s.mach.free = false → chainBad die maxChain s.mach fd.head = none →
        let m₁ := checkReady s.conf (tailCheck s.conf (ownSpill die) q (s.mach.queue q).pages.length s.mach.draw) (ownSpill die)
        let x := m₁.queue q
        let taken := takePages s.conf die q (ownDequeue (queuePort s.conf q)) 8 (entryBytes fd.len) x.pages m₁
        let room := tailRoom m₁ x
        (taken = none → exec (.spillWrite die) s = .next (s.withM (bump s.conf m₁ .hbmCnt cHbmNoPage))) ∧
        ∀ (ps : List Nat) (m : Mach), taken = some (ps, m) →
          let first := ps.getD (if 0 < room then x.pages.length - 1 else x.pages.length) 0
          let entry : PEntry := { fd := { fd with head := 0, mcast := false }, bytes := fd.stored m₁, first := first, last := ps.getLast?.getD first }
          ∃ t : State, exec (.spillWrite die) s = .next t ∧ t.conf = s.conf ∧
            t.mach.queue q = { m.queue q with staging := fs, pages := ps, entries := x.entries ++ [entry] } ∧
            t.mach.tmg.stage = Tbl.put [] m.tmg.stage die rest)) ∧
  (∀ (s : State) (q : Fin 131072), s.live →
    let x := s.mach.queue q
    (x.spill = false ∨ spillThresh s.conf q * 8 ≤ x.headCells → exec (.pageReturn q) s = .next s) ∧
    (x.spill = true → x.headCells < spillThresh s.conf q * 8 → x.entries = [] →
      let m := s.mach.setQueue q { x with spill := false, head := x.head ++ x.staging, staging := [], pages := [] }
      exec (.pageReturn q) s = .next (s.withM { m with tmg := { m.tmg with
        stage := Tbl.upd [] s.mach.tmg.stage (q / 65536) (·.filter (· != q.val)) } }))) ∧
  (∀ (s : State) (k : Fin 8), s.live →
    let q := Tbl.look [] s.mach.tmg.ready k
    (16 < q.length → exec (.pageQueueRefill k) s = .next s) ∧
    ∀ (ps : List Nat) (p : Nat), q.length ≤ 16 →
      findPages s.mach k (Tbl.look 0 s.mach.tmg.cursor k) (min (s.mach.tmg.pages.length + 64) pagesPerAlloc) (64 - q.length) = ps ++ [p] →
      let m := (ps ++ [p]).foldl (fun m p => m.setPage p { m.page p with l0 := false }) s.mach
      exec (.pageQueueRefill k) s = .next (s.withM { m with
        tmg := { m.tmg with ready := Tbl.put [] m.tmg.ready k (q ++ ps ++ [p]), cursor := Tbl.put 0 m.tmg.cursor k ((p - k * pagesPerAlloc + 1) % pagesPerAlloc) } })) ∧
  ∀ (s : State), s.live → (s.mach.duo.release = [] → exec .parkRelease s = .next s) ∧
    ∀ (v : Nat) (rest : List Nat), s.mach.duo.release = v :: rest →
      let leave (m : Mach) (die : Nat) : Mach := ((m.parkOf die).filter (·.fh == v)).foldl (fun m e => handToQueues s.conf m e.pkt e.fd e.targets)
        { m with duo := { m.duo with park := Tbl.upd [] m.duo.park die fun l => l.filter (·.fh != v) } }
      exec .parkRelease s = .next (s.withM (leave (leave { s.mach with duo := { s.mach.duo with release := rest } } 0) 1))

/-- Learning, ageing, gates, samples and traces (R174, R176, R245, R246, R249, R452). The first learn request refreshes or enters its address, moves
it to another port, or leaves a static or unmoving entry as it stands, or fails; a due tick of the FDB's age, on its grid (notes/assumptions/121.md),
removes what has timed out; a due change of gate list takes force and the states in force are shown; a due walk of a sampler with no ring counts its
batch as dropped; a batch of traces goes to its ring after 10 µs, behind what goes before it (R40), unless the die agent's upward queue is full
(notes/assumptions/116.md). -/
def Obligations.TablesAgeAndTimersRun : Prop :=
  (∀ (s : State) (die : Fin 2), s.live →
    (Tbl.look [] s.mach.fwd.learn die = [] → exec (.learnProcess die) s = .next s) ∧
    ∀ (r : LearnReq) (rs : List LearnReq), Tbl.look [] s.mach.fwd.learn die = r :: rs →
      let m := { s.mach with fwd := { s.mach.fwd with learn := Tbl.put [] s.mach.fwd.learn die rs } }
      let now := s.mach.st fwdFdbNowNow die
      let found := fdbFind m die r.bd r.mac
      let m := fdbMet m die r.bd r.mac
      (∀ p, found = some p → fdbLport (m.fdbAt p) = r.lport →
        exec (.learnProcess die) s = .next (s.withM (m.setFdb p (putBits (m.fdbAt p) 54 39 now)))) ∧
      (∀ p, found = some p → fdbLport (m.fdbAt p) ≠ r.lport → fdbStatic (m.fdbAt p) = true ∨ r.move = false →
        exec (.learnProcess die) s = .next (s.withM m)) ∧
      (∀ p, found = some p → fdbLport (m.fdbAt p) ≠ r.lport → fdbStatic (m.fdbAt p) = false → r.move = true →
        let m' := bump s.conf (m.setFdb p (putBits (putBits (m.fdbAt p) 62 55 r.lport) 54 39 now)) .fwdCnt die cFwdLearnOk
        exec (.learnProcess die) s = .next (s.withM (if s.conf.on fwdLearnCfgNotifyMove die = true then
          postEvent s.conf m' (fdbEvt 2 die r.bd r.mac r.lport (fdbLport (m.fdbAt p))) else m'))) ∧
      (∀ p, found = none → fdbRoom m die r.bd r.mac = some p →
        let m' := bump s.conf (m.setFdb p (fdbEntry false false r.bd r.mac r.lport now)) .fwdCnt die cFwdLearnOk
        exec (.learnProcess die) s = .next (s.withM (if s.conf.on fwdLearnCfgNotifyLearn die = true then
          postEvent s.conf m' (fdbEvt 1 die r.bd r.mac r.lport 0) else m'))) ∧
      (found = none → fdbRoom m die r.bd r.mac = none →
        exec (.learnProcess die) s = .next (s.withM (bump s.conf m .fwdCnt die cFwdLearnFail)))) ∧
  (∀ (s : State) (die : Fin 2), s.live →
    let now := (s.mach.st fwdFdbNowNow die + 1) % 65536
    let out := s.conf.get fwdFdbAgeTimeout die
    let m := s.mach.setSt fwdFdbNowNow now die
    let m := { m with fwd := { m.fwd with fdbDue := Tbl.put 1_000_000_000 m.fwd.fdbDue die (s.mach.fdbDue die + 10_000_000 * s.conf.get fwdFdbAgeTick die) } }
    (s.mach.up < s.mach.fdbDue die → exec (.fdbAgeTick die) s = .next s) ∧
    (s.mach.fdbDue die ≤ s.mach.up →
     (s.conf.on fwdFdbAgeEn die = false ∨ out = 0 → exec (.fdbAgeTick die) s = .next (s.withM m)) ∧
     (s.conf.on fwdFdbAgeEn die = true → 0 < out → s.conf.on fwdLearnCfgNotifyAge die = false →
      exec (.fdbAgeTick die) s = .next (s.withM ((s.mach.fwd.fdb.filter fun e => e.1 / 2 ^ 20 == die.val && fdbValid e.2 && !fdbStatic e.2 &&
        decide (out ≤ (now + 65536 - fdbStamp e.2) % 65536)).foldl (fun m e => bump s.conf (m.setFdb e.1 0) .fwdCnt die cFwdAgeOut) m))))) ∧
  (∀ (s : State) (l : Fin 256), s.live →
    let g := s.mach.gate l
    let t : Int := (s.mach.tod.now * 100 : Nat)
    ((∀ k, g.change = some k → s.mach.todNs < k.time) → exec (.gateChangeTime l) s = .next s) ∧
    (∀ k, g.change = some k → k.time ≤ s.mach.todNs →
      let list := (List.range k.len).map fun i => Tbl.look 0 g.admin i
      let x := listAt list k.time k.cycle t
      let g' : GateUnit := { g with oper := list, base := k.time, cycle := k.cycle, ext := k.ext, change := none }
      exec (.gateChangeTime l) s = .next (s.withM ((s.mach.setGate l g').setGate l { g' with index := x.1, states := x.2.1 }))) ∧
    ((∀ k, g.change = some k → s.mach.todNs < k.time) →
      let x := gateAt g t
      let shown : Outcome := .next (s.withM (s.mach.setGate l { g with index := x.1, states := x.2.1 }))
      exec (.gateIntervalExpiry l) s = shown ∧ exec (.gateCycleStart l) s = shown)) ∧
  (∀ (s : State) (d : Fin 2), s.live →
    let qs := sampled s.conf d
    let seq := Tbl.look 0 s.mach.sch.seq d
    let ring := s.conf.get schSampleCfgRing d
    let due := Tbl.look 0 s.mach.sch.walkDue d
    let busy := s.mach.up < Tbl.look 0 s.mach.sch.walkEnd d
    let late := Tbl.look false s.mach.sch.walkLate d
    let m := { s.mach with sch := { s.mach.sch with
      walkDue := Tbl.put 0 s.mach.sch.walkDue d (due + 10_000 * s.conf.get schSampleCfgPeriod d), walkLate := Tbl.put false s.mach.sch.walkLate d false } }
    let batch := beBytes 16 (qs.length * 2 ^ 111 + d * 2 ^ 110 + secOf s.mach.todNs * 2 ^ 48 + nsOf s.mach.todNs * 2 ^ 16 + seq) ++
      qs.flatMap (sampleRecord s.conf m)
    let m := qs.foldl (fun m q => m.setQueue q { m.queue q with maxDelay := 0, drops := 0 }) { m with
      sch := { m.sch with seq := Tbl.put 0 m.sch.seq d ((seq + 1) % 65536), walkEnd := Tbl.put 0 m.sch.walkEnd d (s.mach.up + ceilDiv (qs.length * 32) 10) } }
    (s.conf.on schSampleCfgEn d = false ∨ s.mach.up < due → exec (.latencySampleWalk d) s = .next s) ∧
    (s.conf.on schSampleCfgEn d = true → due ≤ s.mach.up →
      (busy → late = true → exec (.latencySampleWalk d) s = .next s) ∧
      (busy → late = false → exec (.latencySampleWalk d) s = .next (s.withM (bump s.conf
        { s.mach with sch := { s.mach.sch with walkLate := Tbl.put false s.mach.sch.walkLate d true } } .schCnt d cSchSampleLate))) ∧
      (¬busy → (m.ring ring).state ≠ .active ∨ (m.ring ring).kind ≠ .dmp →
        exec (.latencySampleWalk d) s = .next (s.withM (writeBatch s.conf (bump s.conf m .schCnt d cSchSampleDrop) ring .dmp batch))))) ∧
  ∀ (s : State) (src : Fin 48), s.live →
    let l := Tbl.look [] s.mach.pwr.trace src
    let seq := Tbl.look 0 s.mach.pwr.traceSeq src
    ((∀ t, Tbl.find s.mach.pwr.traceAt src = some t → s.mach.up < t + 10_000) → exec (.traceBatchFlush src) s = .next s) ∧
    (upwardFull s.mach (traceDie src) = true → exec (.traceBatchFlush src) s = .next s) ∧
    (∀ t, Tbl.find s.mach.pwr.traceAt src = some t → t + 10_000 ≤ s.mach.up → l ≠ [] → upwardFull s.mach (traceDie src) = false →
      exec (.traceBatchFlush src) s = .next (s.withM (sendBatch s.conf { s.mach with pwr := { s.mach.pwr with
        trace := Tbl.put [] s.mach.pwr.trace src [], traceAt := Tbl.del s.mach.pwr.traceAt src, traceSeq := Tbl.put 0 s.mach.pwr.traceSeq src ((seq + 1) % 2 ^ 32) } }
        ⟨[traceDie src], if src.val < 32 then s.conf.get pmuTraceRingsPkt else s.conf.get pmuTraceRingsInsn, .trc,
          beBytes 1 src ++ beBytes 1 l.length ++ [0, 0] ++ beBytes 4 seq ++ l.flatten⟩))) ∧
    ∀ (c : Cfg) (m : Mach) (b : UpBatch),
      ((∃ d ∈ b.dies, upwardBusy m d = true) → sendBatch c m b = { m with pwr := { m.pwr with behind := m.pwr.behind ++ [b] } }) ∧
      ((∀ d ∈ b.dies, upwardBusy m d = false) → sendBatch c m b = writeBatch c m b.ring b.kind b.payload)

/-! ### The flow store and its services -/

/-- Lookups, inserts, moves and companions of the flow store (R93-R95, R97, R99, R101, R103-R105, R112, R121, R141-R143), stated without Duilo. A
slice takes the first request of a pipeline for it. One that finds its record near (cached whole, or in the stash) is counted a hit and answered at
once; one whose record is being moved is counted so and waits for the move's step 3; one that finds nothing near asks for its buckets. Once they are
read it is answered with its record, counted, or with a miss. An inserting request is then placed: in the room of its primary bucket, else of its
alternate one, which it reads first, else by a path whose first move starts, else in the stash; it is answered `INSERTED`, its allocations made and
its companion sent for, or `INSERT_FAILED` and counted. The oldest move of a slice is made; the stash gives back, on its grid and while the ledger has
room, what its buckets can hold (notes/assumptions/94.md); guard entries lapse (92); a companion is placed or removed by its slice in their order
(66); a NAT queue is refilled. Without work each of them only lets what waits go on. -/
def Obligations.FlowStoreServesRequests : Prop :=
  ∀ s : State, s.live → duoOn s.conf = false →
  let now (m : Mach) : Outcome := .next (s.withM (settle s.conf m))
  let answered (m : Mach) (o : SliceOp) (outcome : Nat) (snap : Option Rec) : Mach := { m with
    fsl := { m.fsl with ops := [] }
    ppl := { m.ppl with resps := m.ppl.resps ++ [{ pipe := o.req.pipe, idx := o.req.idx, gen := o.req.gen, outcome := outcome, stamp := m.stamp, snap := snap
                                                   steer := fhSteer o.req.fh, slot := fhSlot o.req.fh, req := some o.req, sent := m.up, no := o.no }] } }
  let hit (m : Mach) (q : FlowReq) (r : Rec) : Rec :=
    { r with pkts := (r.pkts + 1) % 2 ^ 32, bytes := (r.bytes + q.len) % 2 ^ (if r.wide then 48 else 40), lastHit := m.fsl.ageNow }
  (∀ (pipe : Fin 32) (region : Fin 16),
    let found := s.mach.ppl.reqs.find? fun q => q.pipe == pipe.val && fhSlot q.fh == region.val
    (found = none → exec (.sliceRequest pipe region) s = now s.mach) ∧
    ∀ q, found = some q →
      let open' := tableFull s.mach region = false ∧ s.mach.fsl.clearing = false ∧ s.mach.fsl.ready = true
      let m := { s.mach with ppl := { s.mach.ppl with reqs := s.mach.ppl.reqs.erase q } }
      let o : SliceOp := { req := q, place := .look [], no := m.fsl.nextOrd, ord := m.fsl.nextOrd }
      (¬open' → exec (.sliceRequest pipe region) s = now s.mach) ∧
      (open' → exec (.sliceRequest pipe region) s = now (settleOps s.conf (admitReq m q))) ∧
      (open' → m.fsl.ops = [] → m.fsl.ledger = [] → m.fsl.pending = [] → m.fsl.readWait = [] → nearby m q.fh q.key = false →
        admitted m q.fh = [fhBucket q.fh] →
        let m := bump s.conf m .fslCnt (m.phys region) cFslMiss
        exec (.sliceRequest pipe region) s = now { m with fsl := { m.fsl with
          ops := [{ o with place := .look [fhBucket q.fh], holds := [fhBucket q.fh] }], nextOrd := m.fsl.nextOrd + 1
          pending := [bkey region (fhBucket q.fh)] } }) ∧
      (∀ (pl : Spot) (r : Rec), open' → m.fsl.ops = [] → m.fsl.ledger = [] → m.fsl.jobs = [] → nearby m q.fh q.key = true →
        findKey m region q.fh q.key = some (pl, r) → r.role = 0 →
        let m := bump s.conf m.takesPlace .fslCnt (m.phys region) cFslHit
        exec (.sliceRequest pipe region) s = now (answered (putRec s.conf m region pl (hit m q r)) o 0 (some (hit m q r)))) ∧
      ∀ e : LedgerEnt, open' → m.fsl.ops = [] → m.fsl.ledger = [e] → e.region = region → e.mv.key = q.key → e.ord < m.fsl.nextOrd →
        nearby m q.fh q.key = true →
        let m := bump s.conf (bump s.conf m .fslCnt (m.phys region) cFslLedgerServed) .fslCnt (m.phys region) cFslHit
        exec (.sliceRequest pipe region) s = now { m with fsl := { m.fsl with ops := [{ o with holds := [e.mv.dst] }], nextOrd := m.fsl.nextOrd + 1 } }) ∧
  (∀ (region : Fin 16) (b : BitVec 24),
    (s.mach.fsl.pending.contains (bkey region b.toNat) = false → exec (.hbmBucketReadDone region b) s = now s.mach) ∧
    ∀ o : SliceOp, s.mach.fsl.pending.contains (bkey region b.toNat) = true → s.mach.fsl.readWait = [] → s.mach.fsl.ops = [o] → s.mach.fsl.jobs = [] →
      s.mach.fsl.ledger = [] → fhSlot o.req.fh = region → o.place = .look [b.toNat] ∨ o.place = .alt b.toNat → o.merge = none →
      let m := readBucket s.conf { s.mach with fsl := { s.mach.fsl with pending := s.mach.fsl.pending.erase (bkey region b.toNat) } } region b.toNat
      let found := findKey m region o.req.fh o.req.key
      (found = none → o.req.insert = false → m.imageDue region = false → exec (.hbmBucketReadDone region b) s = now (answered m o 4 none)) ∧
      (∀ (pl : Spot) (r : Rec), found = some (pl, r) → r.role = 0 →
        exec (.hbmBucketReadDone region b) s = now (answered (putRec s.conf m region pl (hit m o.req r)) o 0 (some (hit m o.req r)))) ∧
      (found = none → o.req.insert = true → m.guarded region o.req.key = false → m.imageDue region = false →
        let p := fhBucket o.req.fh
        let a := otherBucket o.req.fh p
        let wide : Bool := decide (o.req.key.length = 40)
        let seen := b.toNat :: o.seen
        let m := { m with fsl := { m.fsl with ops := [{ o with place := .look [], seen := seen }] } }
        let placed (m : Mach) (spot : Spot) : Mach :=
          match allocFor s.conf m o.req (newRec s.conf m o.req) with
          | .fail m' => answered m' o 2 none
          | .wait => { m with fsl := { m.fsl with ops := [{ o with place := .nat, seen := seen }] } }
          | .ok r comp m' =>
            let r := { r with role := 0, peer := deviceId s.conf, unmirrored := false }
            let m'' := match spot with
              | .at pos => placeRec s.conf m' region pos r
              | .stash => stashRec s.conf m' region r
            answered (match comp with
              | some (pool, addr, port) => { m'' with fsl := { m''.fsl with
                  comps := m''.fsl.comps ++ [.ins r.key (companionOf (m''.pool pool) r addr port) pool addr port] } }
              | none => m'') o 1 (some r)
        (∀ pos, roomAt m region p wide = some pos → exec (.hbmBucketReadDone region b) s = now (placed m (.at pos))) ∧
        (roomAt m region p wide = none → a ∉ seen → m.fsl.pending = [] → exec (.hbmBucketReadDone region b) s = now { m with fsl := { m.fsl with
          ops := [{ o with place := .alt a, seen := seen, ord := m.fsl.nextOrd, holds := [p, a] }], nextOrd := m.fsl.nextOrd + 1
          pending := [bkey region a] } }) ∧
        (∀ pos, roomAt m region p wide = none → a ∈ seen → roomAt m region a wide = some pos →
          exec (.hbmBucketReadDone region b) s = now (placed m (.at pos))) ∧
        (roomAt m region p wide = none → a ∈ seen → roomAt m region a wide = none →
          let path := extendPath s.conf region seen false 17 [] p wide m
          (path.1 = .stuck → (m.stash region).length < 4096 → exec (.hbmBucketReadDone region b) s = now (placed path.2.2 .stash)) ∧
          (path.1 = .stuck → 4096 ≤ (path.2.2.stash region).length → exec (.hbmBucketReadDone region b) s =
            now (answered (bump s.conf path.2.2 .fslCnt (path.2.2.phys region) cFslInsertFail) o 2 none)) ∧
          ∀ (v : Move) (vs : List Move) (m' : Mach), path.1 = .found → path.2.1.reverse = v :: vs →
            startMove s.conf { path.2.2 with fsl := { path.2.2.fsl with ops := [{ o with place := .moves 1 (v :: vs), seen := seen, holds := [] }] } } region v =
              (true, m') → exec (.hbmBucketReadDone region b) s = now m'))) ∧
  (∀ region : Fin 16,
    let found := s.mach.fsl.ledger.find? (·.region == region.val)
    (found = none → exec (.recordMove region) s = now s.mach) ∧
    ∀ e : LedgerEnt, found = some e →
      let fh := fhOf s.conf s.mach e.mv.key
      let m := countPlaced s.conf { s.mach with fsl := { s.mach.fsl with ledger := s.mach.fsl.ledger.erase e } } region e.mv.dst fh
      let m := countRemoved s.conf (moveRec s.conf m region e.mv.src e.pos e.rcd) region (e.mv.src / 4) fh
      let m := bump s.conf m .fslCnt (m.phys region) cFslKick
      exec (.recordMove region) s = now (settleOps s.conf (movedOn m e)) ∧
      (s.mach.fsl.ops = [] → s.mach.fsl.jobs = [] → exec (.recordMove region) s = now m) ∧
      ∀ (o : SliceOp) (pl : Spot) (r : Rec), s.mach.fsl.ops = [o] → s.mach.fsl.jobs = [] → s.mach.fsl.ledger = [e] → o.place = .look [] → o.merge = none →
        fhSlot o.req.fh = region → findKey m region o.req.fh o.req.key = some (pl, r) → r.role = 0 →
        exec (.recordMove region) s = now (answered (putRec s.conf m region pl (hit m o.req r)) o 0 (some (hit m o.req r)))) ∧
  (∀ region : Fin 16,
    let every := s.conf.get fstGuardCfgStashRetry
    let due := Tbl.look 0 s.mach.fsl.retryAt region
    let l := s.mach.stash region
    let i := Tbl.look 0 s.mach.fsl.retry region % l.length
    let later (m : Mach) : Mach := { m with fsl := { m.fsl with retryAt := Tbl.ins m.fsl.retryAt region (due + 1000 * every) } }
    (every = 0 ∨ s.mach.fsl.ready = false ∨ s.mach.up < due → exec (.stashRetry region) s = now s.mach) ∧
    (every ≠ 0 → s.mach.fsl.ready = true → due ≤ s.mach.up →
      (l = [] → exec (.stashRetry region) s = now (later s.mach)) ∧
      ∀ r : Rec, l[i]? = some r →
        let fh := fhOf s.conf s.mach r.key
        let p := fhBucket fh
        let free := openNow s.mach region [p, otherBucket fh p] && !tableFull s.mach region &&
          decide ((s.mach.fsl.ledger.filter (·.region == region.val)).length < 64)
        let m := readBucket s.conf (readBucket s.conf (later { s.mach with fsl := { s.mach.fsl with retry := Tbl.put 0 s.mach.fsl.retry region (i + 1) } })
          region p) region (otherBucket fh p)
        let room := (roomAt m region p r.wide).or (roomAt m region (otherBucket fh p) r.wide)
        (free = false → exec (.stashRetry region) s = now s.mach) ∧
        (free = true → room = none → exec (.stashRetry region) s = now m) ∧
        ∀ pos, free = true → room = some pos →
          let m' := unstash ((countPlaced s.conf m region (pos / 4) fh).putHbm region pos (some r)) region r.key
          exec (.stashRetry region) s = now (bump s.conf m' .fslCnt (m'.phys region) cFslStashOut))) ∧
  (∀ (m : Mach) (region : Nat) (key : List Byte), let t := unstash m region key
    t = { m with fsl := { m.fsl with stash := t.fsl.stash, retry := t.fsl.retry, sweep := t.fsl.sweep } } ∧
    t.fsl.stash = Tbl.put [] m.fsl.stash region ((m.stash region).filter fun r => r.key != key)) ∧
  (∀ region : Fin 16,
    let m := { s.mach with fsl := { s.mach.fsl with
      guard := Tbl.put [] s.mach.fsl.guard region ((s.mach.guardOf region).filter fun e => decide (s.mach.up < e.2)) } }
    exec (.guardLapse region) s = now (settleOps s.conf m) ∧ (s.mach.fsl.ops = [] → exec (.guardLapse region) s = now m)) ∧
  (let found := s.mach.fsl.comps.find? fun x => (match x with | .ins .. => true | _ => false);
    (found = none → exec .companionInsert s = now s.mach) ∧
    ∀ (fwd : List Byte) (comp : Rec) (pool addr port : Nat), found = some (.ins fwd comp pool addr port) →
      let m := { s.mach with fsl := { s.mach.fsl with comps := s.mach.fsl.comps.erase (.ins fwd comp pool addr port) } }
      exec .companionInsert s = now (pushJob s.conf m (.comp (.ins fwd comp pool addr port)) comp.key) ∧
      (SliceFree s.conf s.mach comp.key →
        let fh := fhOf s.conf s.mach comp.key
        let x := lookupKey s.conf m.takesPlace fh comp.key
        (x.1.isSome = true → exec .companionInsert s = s.goesOn (compFailed s.conf x.2 fwd comp.key pool addr port)) ∧
        ∀ (spot : Option Spot) (m₁ m' : Mach), FindsRoom s.conf s.mach m.takesPlace comp.key spot m₁ →
          let x := lookupKey s.conf m₁ fh comp.key
          let r := { comp with role := 0, peer := deviceId s.conf, unmirrored := false, lastHit := x.2.fsl.ageNow, created := x.2.fsl.ageNow }
          x.1 = none →
          (placeNew s.conf x.2 (fhSlot fh) spot r = (false, m') → exec .companionInsert s = s.goesOn (compFailed s.conf m' fwd comp.key pool addr port)) ∧
          ∀ (pl : Spot) (y : Rec), placeNew s.conf x.2 (fhSlot fh) spot r = (true, m') → findKey m' (fhSlot fh) fh comp.key = some (pl, y) →
            exec .companionInsert s = s.goesOn (putRec s.conf m' (fhSlot fh) pl r))) ∧
  (let behind (key : List Byte) : Bool := s.mach.fsl.comps.any fun x => (match x with | .ins _ comp .. => comp.key == key | _ => false);
    let found := s.mach.fsl.comps.find? fun x => (match x with | .del key .. => !behind key | _ => false);
    (found = none → exec .companionDeleteConfirm s = now s.mach) ∧
    ∀ (key : List Byte) (pool addr port : Nat), found = some (.del key pool addr port) →
      let m := { s.mach with fsl := { s.mach.fsl with comps := s.mach.fsl.comps.erase (.del key pool addr port) } }
      exec .companionDeleteConfirm s = now (pushJob s.conf m (.comp (.del key pool addr port)) key) ∧
      (SliceFree s.conf s.mach key →
        let fh := fhOf s.conf s.mach key
        let x := lookupKey s.conf m.takesPlace fh key
        (x.1 = none → exec .companionDeleteConfirm s = s.goesOn (natReturn s.conf x.2 pool addr port)) ∧
        ∀ (pl : Spot) (r : Rec), x.1 = some (pl, r) →
          exec .companionDeleteConfirm s = s.goesOn (natReturn s.conf (removeRec s.conf x.2 (fhSlot fh) pl r) pool addr port))) ∧
  ∀ n : Fin 1024,
    let p := s.mach.pool n
    let m := if p.desc ≠ [] ∧ plEnable p.desc = true ∧ p.ready.length ≤ 16 then natFill n 64 s.mach else s.mach
    exec (.natQueueRefill n) s = now (retryNat s.conf m) ∧ (m.fsl.ops = [] → exec (.natQueueRefill n) s = now m)

/-- Write-backs (R111) without Duilo: the first for a slice with a free pending entry is taken; one whose response is older than the guard time less
10 is an orphan at once. Taken by a slice that carries it out at once, it is applied to its record, with the version one higher, or is an orphan where
its record is gone or was created at another time. One held for more than 100 µs is discarded as an orphan. A takeover goes on (R117): what waited for
the stash image that the spare has loaded goes on (the image always equals the live stash, notes/assumptions/92.md); the failed slice's dirty lines
are written to the region, or lost and counted where the fault took them; its cache is empty, its slice offline, and the loss of redundancy is
reported. Which state the slot shows then, what was sent again and what the failed slice's own pass becomes are the model's choice
(notes/assumptions/95.md, 96.md and 125.md). -/
def Obligations.WriteBacksAndTakeoversReachTheirRecords : Prop :=
  (∀ s : State, s.live → duoOn s.conf = false →
  (∀ region : Fin 16,
    let found := s.mach.fsl.wbs.find? fun w => fhSlot w.fh == region.val
    let now (m : Mach) : Outcome := .next (s.withM (settle s.conf m))
    let orphan (m : Mach) : Mach := bump s.conf m .fslCnt (m.phys region) cFslWbOrphan
    (found = none ∨ tableFull s.mach region = true → exec (.writebackApply region) s = now s.mach) ∧
    ∀ w : WriteBack, found = some w → tableFull s.mach region = false →
      let m := { s.mach with fsl := { s.mach.fsl with wbs := s.mach.fsl.wbs.erase w } }
      let late := 10 * s.conf.get fstGuardCfgReinsertGuard - 10 ≤ (s.mach.stamp + 65536 - w.stamp) % 65536
      (late → exec (.writebackApply region) s = now (orphan m)) ∧
      (¬late → exec (.writebackApply region) s = now (pushJob s.conf m (.wb w) w.key)) ∧
      (¬late → SliceFree s.conf s.mach w.key → w.fh = fhOf s.conf s.mach w.key →
        let x := lookupKey s.conf { m with fsl := { m.fsl with nextOrd := m.fsl.nextOrd + 1 } } w.fh w.key
        (x.1 = none → exec (.writebackApply region) s = s.goesOn (orphan x.2)) ∧
        ∀ (pl : Spot) (r : Rec), x.1 = some (pl, r) →
          (r.created ≠ w.created → exec (.writebackApply region) s = s.goesOn (orphan x.2)) ∧
          (r.created = w.created → w.now = false →
            let m := putRec s.conf x.2 region pl { r with
              tstate := w.tstate.getD r.tstate, track := w.track.getD r.track, exp := r.exp || w.setExport, version := (r.version + 1) % 65536
              param := (w.words.foldl (fun p e => splice p (4 * e.1) (beBytes 4 e.2)) r.param).take (paramLen r.wide) }
            let m := { m with fsl := { m.fsl with
              wbDone := (m.fsl.wbDone.filter fun e => decide (m.up < e.2.1 + 20)) ++ [(w, m.up, s.mach.fsl.nextOrd)] } }
            exec (.writebackApply region) s = s.goesOn (bump s.conf m .fslCnt (m.phys region) cFslWbApplied)))) ∧
  ((∀ w ∈ s.mach.fsl.wbs, s.mach.up ≤ w.issued + 100_000) → exec .writebackHoldExpiry s = .next s) ∧
  ∀ w : WriteBack, s.mach.fsl.wbs = [w] → w.issued + 100_000 < s.mach.up → exec .writebackHoldExpiry s =
    .next (s.withM (bump s.conf { s.mach with fsl := { s.mach.fsl with wbs := [] } } .fslCnt (s.mach.phys (fhSlot w.fh)) cFslWbOrphan))) ∧
  (∀ s : State, s.live →
  let now (m : Mach) : Outcome := .next (s.withM (settle s.conf m))
  (s.mach.fsl.imagesDue = [] → exec .stashImageLoaded s = now s.mach) ∧
  (∀ (slot : Nat) (rest : List Nat), s.mach.fsl.imagesDue = slot :: rest →
    let m := { s.mach with fsl := { s.mach.fsl with imagesDue := rest } }
    exec .stashImageLoaded s = now (settleOps s.conf m) ∧ (s.mach.fsl.ops = [] → exec .stashImageLoaded s = now m)) ∧
  (s.mach.fsl.takeover = none → exec .takeoverWritebackDone s = now s.mach) ∧
  ∀ t : Takeover, s.mach.fsl.takeover = some t → s.mach.fsl.ops = [] →
    (let dirty := ((s.mach.fsl.cache.filter fun e => e.1 / 8192 == t.failed).flatMap (·.2)).filter (·.dirty)
     let ended (m : Mach) : Mach := raise s.conf { m with fsl := { m.fsl with
        cache := m.fsl.cache.filter fun e => e.1 / 8192 != t.failed, takeover := none, spareAvail := false
        offline := t.failed :: m.fsl.offline
        mapState := Tbl.put 0 m.fsl.mapState t.slot (if m.rebuilding t.slot then 2 else 0) } } 19 0 DEGRADED
     (t.loses = false → exec .takeoverWritebackDone s = now (ended (dirty.foldl (fun m l => m.putHbm t.slot l.pos (some l.rcd)) s.mach))) ∧
     (t.loses = true → dirty ≠ [] → exec .takeoverWritebackDone s = now (ended (bump s.conf
        (raise s.conf { s.mach with duo := { s.mach.duo with lost := true } } 16 t.slot DEGRADED) .fslCnt t.failed cFslLostLine (x := dirty.length))))))

/-- Time in the flow store (R106, R108-R110, R120, R159). The age counts while the store is ready; a due time of the grid asks for each region's pass;
a pass begins with its leave, visits the next bucket when nothing there is in use (notes/assumptions/67.md), keeps what has expired, reads it again
and (without Duilo) deletes or refreshes it by its profile, and ends. The clear makes the store ready and empty. A collector's message and the
templates go when their time has passed (notes/assumptions/61.md). What a rebuild pass shows is notes/assumptions/99.md, and the grid of stash retries
begins with the clear's end (94). -/
def Obligations.FlowStoreAgesSweepsAndExports : Prop :=
  ∀ s : State, s.live →
  let now (m : Mach) : Outcome := .next (s.withM (settle s.conf m))
  ((s.mach.fsl.ready = false ∨ s.mach.up < s.mach.fsl.ageAt → exec .ageTick s = .next s) ∧
    (s.mach.fsl.ready = true → s.mach.fsl.ageAt ≤ s.mach.up → exec .ageTick s = .next (s.withM { s.mach with fsl := { s.mach.fsl with
      ageNow := (s.mach.fsl.ageNow + 1) % 65536, ageAt := s.mach.fsl.ageAt + 1000 * s.conf.get fstAgeCfgAgeTick } }))) ∧
  (let m := { s.mach with fsl := { s.mach.fsl with due := s.mach.fsl.due + s.conf.get fstSweepCfgInterval * 1_000_000 } };
    (s.mach.fsl.ready = false ∨ s.mach.up < s.mach.fsl.due → exec .sweepDue s = now s.mach) ∧
    (s.mach.fsl.ready = true → s.mach.fsl.due ≤ s.mach.up →
      (s.conf.on fstSweepCfgEn = false → exec .sweepDue s = now ((List.range 16).foldl (sweepAsk s.conf) m)) ∧
      (s.conf.on fstSweepCfgEn = true → exec .sweepDue s = now ((List.range 16).foldl (fun m r =>
        let x := m.sweepOf r
        let late (m : Mach) : Mach := bump s.conf m .fslCnt (m.phys r) cFslSweepLate
        if x.gridWaits then sweepAsk s.conf (late m) r
        else if x.running.isSome ∨ x.gridNow = true ∨ x.waiting ≠ [] then sweepAsk s.conf (late (m.setSweep r { x with gridWaits := true })) r
        else sweepAsk s.conf (m.setSweep r { x with gridNow := true }) r) m)))) ∧
  (∀ region : Fin 16,
    let x := s.mach.sweepOf region
    let every := s.conf.get duoSyncCfgDeltaEvery
    (x.next = none ∨ x.running.isSome = true ∨ s.mach.holdsLeave opSweep (s.mach.phys region) = false → exec (.sweepPassStart region) s = now s.mach) ∧
    (x.waiting = [] → x.gridNow = true → x.running = none → s.mach.holdsLeave opSweep (s.mach.phys region) = true →
      exec (.sweepPassStart region) s = now (s.mach.setSweep region { x with
        running := some .sweep, cursor := 0, found := [], passes := x.passes + 1, prev := x.start, start := s.mach.fsl.ageNow, gridNow := false
        delta := decide (every ≠ 0) && decide ((x.passes + 1) % every = 0) }))) ∧
  (∀ region : Fin 16,
    let x := s.mach.sweepOf region
    let spot := nextSpot s.mach region
    let held := visitHeld s.conf s.mach region spot x
    (x.running = none ∨ x.found ≠ [] ∨ held = true → exec (.sweeperVisit region) s = now s.mach) ∧
    (x.running.isSome = true → x.found = [] → held = false →
      (spot = cursorEnd → (s.mach.stash region).length ≤ 4096 →
        exec (.sweeperVisit region) s = now (s.mach.setSweep region { x with cursor := cursorEnd })) ∧
      ∀ (pl : Spot) (r : Rec), spot < 2 ^ 24 →
        let m := readBucket s.conf s.mach region spot
        let m' := if x.running = some .rebuild then countFresh s.conf m region pl r else m
        spotRecs m region spot = [(pl, r)] →
        (expired s.conf m r = true → exec (.sweeperVisit region) s = now (m'.setSweep region { x with cursor := spot + 1, found := [r.key] })) ∧
        (expired s.conf m r = false → exec (.sweeperVisit region) s =
          now (visitRec s.conf (m'.setSweep region { x with cursor := spot + 1, found := [] }) region x pl r)))) ∧
  (∀ region : Fin 16,
    let x := s.mach.sweepOf region
    (x.found = [] → exec (.ageOut region) s = now s.mach) ∧
    ∀ (key : List Byte) (rest : List (List Byte)), x.found = key :: rest →
      let fh := fhOf s.conf s.mach key
      let may := openNow s.mach region (admitted s.mach fh) && (!tableFull s.mach region || nearby s.mach fh key)
      let got := touchKey s.conf s.mach fh key
      let m := got.2.setSweep region { got.2.sweepOf region with found := rest }
      (may = false → exec (.ageOut region) s = now s.mach) ∧
      (may = true → got.1 = none → exec (.ageOut region) s = now m) ∧
      ∀ (pl : Spot) (r : Rec), may = true → got.1 = some (pl, r) →
        let act (f : Fld) : Bool := s.conf.on f r.tprof
        let old := expired s.conf got.2 r
        let out := if old && act fstTprofActExport then [r] else []
        (old = false → visitsHeld s.conf s.mach region x [r] = false →
          ipfixOpen s.conf s.mach (([r].filter fun r => activeDue s.conf s.mach x r) ++ out) = true →
          exec (.ageOut region) s = now (visitRec s.conf m region x pl r)) ∧
        (old = true → act fstTprofActDelete = true → s.mach.guardFull region = true → exec (.ageOut region) s = now s.mach) ∧
        (old = true → duoOn s.conf = false → act fstTprofActNotify = false →
          (act fstTprofActDelete = true → s.mach.guardFull region = false → visitsHeld s.conf s.mach region x [] = false → ipfixOpen s.conf s.mach out = true →
            exec (.ageOut region) s = now (bump s.conf (deleteWith s.conf m region pl r
              ⟨act fstTprofActExport, act fstTprofActNatReturn, act fstTprofActDuoDelete, false⟩ 1) .fslCnt (m.phys region) cFslAgeDelete)) ∧
          (act fstTprofActDelete = false → visitsHeld s.conf s.mach region x [r] = false →
            ipfixOpen s.conf s.mach (([r].filter fun r => activeDue s.conf s.mach x r) ++ out) = true →
            exec (.ageOut region) s = now (ageKeep s.conf (visitRec s.conf m region x pl r) region key
              ⟨act fstTprofActExport, act fstTprofActNatReturn, act fstTprofActDuoDelete, act fstTprofActNotify⟩)))) ∧
  (∀ region : Fin 16,
    let x := s.mach.sweepOf region
    (passOver s.mach region = false → exec (.sweepPassEnd region) s = now s.mach) ∧
    (passOver s.mach region = true → x.running = some .sweep → x.delta = false → x.waiting = [] → x.gridNow = false → x.gridWaits = false → 0 < x.passes →
      exec (.sweepPassEnd region) s =
        now (releaseLeave s.conf (s.mach.setSweep region { x with running := none, cursor := 0 }) opSweep (s.mach.phys region)))) ∧
  ((s.mach.fsl.clearing = false → exec .fstClearDone s = .next s) ∧
    (s.mach.fsl.clearing = true → exec .fstClearDone s = .next (s.withM { s.mach with fsl := { s.mach.fsl with
      hbm := [], cache := [], ovf := [], fresh := [], stash := [], retry := [], guard := [], victim := [], ledger := []
      retryAt := (List.range 16).map fun r => (r, s.mach.up + 1000 * s.conf.get fstGuardCfgStashRetry)
      clearing := false, ready := true, ageNow := 0, ageAt := s.mach.up + 1000 * s.conf.get fstAgeCfgAgeTick
      due := s.mach.up + 1_000_000 * s.conf.get fstSweepCfgInterval } }))) ∧
  (∀ n : Fin 16,
    let x := Tbl.look {} s.mach.fsl.ipfix n
    (s.mach.up < x.since + 1000 * s.conf.get fstIpfixCfgFlush ∨ x.recs = [] ∨ s.mach.glb.outputs = false → exec (.ipfixFlush n) s = .next s) ∧
    (x.since + 1000 * s.conf.get fstIpfixCfgFlush ≤ s.mach.up → x.recs ≠ [] → s.mach.glb.outputs = true →
      let m := { s.mach with fsl := { s.mach.fsl with
        ipfix := Tbl.put {} s.mach.fsl.ipfix n { x with recs := [], seq := (x.seq + x.recs.length) % 2 ^ 32 } } }
      exec (.ipfixFlush n) s = .next (s.withM (ipfixOut s.conf m n (ipfixMsg s.conf m x.seq (ipfixBody x.recs)))))) ∧
  (let due := s.mach.fsl.tmplAt + 1_000_000_000 * s.conf.get fstIpfixTimersTmplRefresh;
    let m := { s.mach with fsl := { s.mach.fsl with tmplAt := s.mach.up } };
    (s.mach.up < due → exec .ipfixTemplateRefresh s = .next s) ∧
    (due ≤ s.mach.up → s.conf.on fstIpfixCfgEn = false ∨ s.mach.glb.outputs = false → exec .ipfixTemplateRefresh s = .next (s.withM m)) ∧
    ∀ n : Nat, due ≤ s.mach.up → s.conf.on fstIpfixCfgEn = true → s.mach.glb.outputs = true → (pick 16 fun n => s.conf.on fstCollEn n) = [n] →
      let body := ipfixTemplate false ++ ipfixTemplate true
      exec .ipfixTemplateRefresh s = .next (s.withM (ipfixOut s.conf m n
        (ipfixMsg s.conf m (Tbl.look {} s.mach.fsl.ipfix n).seq (beBytes 2 2 ++ beBytes 2 (body.length + 4) ++ body)))))

/-! ### Duilo -/

/-- Frames between partners (R279, R280, R285, R287, R290, R291, R302, R372), on a port whose MAC runs. A sync frame of the partner takes slots of its
pipeline (notes/assumptions/88.md), renews its path (68) and its messages join the inbox, a sequenced one in its turn; a frame with wrong device IDs
is counted. A steered frame enters the pipeline without its two outer headers. What waits for a path goes out in one frame, a `HELLO` waits every
lease period, an `ACK` when one is owed, and copies that are not covered are sent again, none of a stream that ended with its lease (31). -/
def Obligations.PartnersExchangeFrames : Prop :=
  (∀ (s : State) (l : Fin 256) (f : List Byte), s.live →
    (macOn s.conf s.mach l = false → exec (.syncFrameRx l f) s = .next s) ∧
    (pathOf s.conf l = none → pathDisabled s.conf l = false → exec (.syncFrameRx l f) s = .next s) ∧
    (macOn s.conf s.mach l = true → pathOf s.conf l = none → pathDisabled s.conf l = true → exec (.syncFrameRx l f) s = .next (s.withM (bump s.conf s.mach .duoCnt cDuoRxBad))) ∧
    ∀ p path : Nat, macOn s.conf s.mach l = true → pathOf s.conf l = some (p, path) →
      let x := s.mach.link p
      let m := oweSlots s.mach (l / 8) (syncSlots (f.length + 4))
      let ours := bits (be f 16 3) 17 0 = partnerDev s.conf p ∧ bits (be f 19 3) 17 0 = deviceId s.conf ∧ x.state ≠ 0
      (¬ours → exec (.syncFrameRx l f) s = .next (s.withM (bump s.conf m .duoCnt cDuoRxBad))) ∧
      ∀ ms : List Msg, ours → readMsgs (min 64 (byteAt f 15)) (f.drop 22) = (ms, false) → (∀ g ∈ ms, g.type ≠ 8) →
        exec (.syncFrameRx l f) s = .next (s.withM (bump s.conf (m.setLink p (ms.foldl (takeMsg path s.mach.up)
          { x with rx := Tbl.ins x.rx path s.mach.up })) .duoCnt cDuoRxMsg (x := ms.length)))) ∧
  (∀ (path now : Nat) (x : Link) (g : Msg),
    (g.type = 1 ∨ g.type = 5 → takeMsg path now x g = { x with inbox := x.inbox ++ [(g, path)] }) ∧
    (g.type ≠ 1 → g.type ≠ 5 → seqAhead x.rxSeq g.seq = 0 → x.ahead = [] →
      takeMsg path now x g = { x with inbox := x.inbox ++ [(g, path)], rxSeq := (x.rxSeq + 1) % 2 ^ 32 })) ∧
  (∀ (s : State) (l : Fin 256) (b : List Byte) (u : Bool), s.live →
    let ours := byteAt b 14 / 16 = 1 ∧ bits (be b 19 3) 17 0 = deviceId s.conf
    (macOn s.conf s.mach l = false → exec (.steeredFrameRx l b u) s = .next s) ∧
    (macOn s.conf s.mach l = true → ¬ours → exec (.steeredFrameRx l b u) s = .next (s.withM (bump s.conf s.mach .duoCnt cDuoRxBad))) ∧
    ∀ (p : Nat) (m : Mach), macOn s.conf s.mach l = true → ours → storeIngress s.conf (bump s.conf s.mach .duoCnt cDuoSteerIn) (l / 8) (ownIngress (l / 8))
        (b.drop 30 ++ fcsOf (b.drop 30)) = some (p, m) →
      exec (.steeredFrameRx l b u) s = .next (s.withM (makeReady m
        { pipe := l / 8, lport := l, len := (b.drop 30).length, head := p, owner := ownIngress (l / 8), uncontrolled := u
          steered := some (be b 22 8), ts := adjusted (m.dieFrac (Blk.prt.die (l / 8)) - (b.length + 4) * 8 * 65536 / portSpeed s.conf l) (s.conf.get prtPtpAdjIngAdj (l / 8) (l % 8)) }))) ∧
  (∀ (s : State) (p : Fin 8), s.live →
    let x := s.mach.link p
    let early := s.mach.up < x.helloAt + 100 * s.conf.get duoTimersLeasePeriod
    (x.state = 0 ∨ s.mach.glb.outputs = false ∨ early → exec (.helloSend p) s = .next s) ∧
    (x.state ≠ 0 → s.mach.glb.outputs = true → ¬early → exec (.helloSend p) s = .next (s.withM (s.mach.setLink p { x with
      helloAt := s.mach.up
      wait := (syncPaths s.conf p).foldl (fun t path => Tbl.upd [] t path (· ++ [helloOf s.conf s.mach p])) x.wait }))) ∧
    (let due := x.ackDue ≠ none ∨ x.inbox ≠ [];
    let sum (f : Nat → Bool) : Nat := (List.range 32).foldl (fun v k => v + b2n (f k) * 2 ^ k) 0;
    let ack : Msg :=
      { type := 5
        body := beBytes 4 x.cum ++ beBytes 4 (sum fun k => x.done.contains ((x.cum + 1 + k) % 2 ^ 32)) ++
          beBytes 4 (sum fun k => x.refused.contains ((x.cum + 2 ^ 32 - k) % 2 ^ 32)) ++ List.replicate 4 0 };
    (streams s.mach p = false ∨ ¬due ∨ s.mach.up < x.ackAt + 100 → exec (.ackSend p) s = .next s) ∧
    (streams s.mach p = true → due → x.ackAt + 100 ≤ s.mach.up → exec (.ackSend p) s = .next (s.withM (s.mach.setLink p { x with
      ackDue := none, ackAt := s.mach.up
      wait := Tbl.upd [] x.wait (pathInUse s.conf s.mach p) (· ++ [ack]) })))) ∧
    ∀ (e : Copy) (t : Nat), x.copies = [e] → e.toSend = false → e.covered = false → e.msg.seq < 2 ^ 32 → e.sent = some t →
      t + 100 * s.conf.get duoSyncCfgRetx ≤ s.mach.up →
      exec (.retxTimeout p) s =
        .next (s.withM (bump s.conf (s.mach.setLink p { x with copies := [{ e with toSend := true }] }) .duoCnt cDuoRetx))) ∧
  ∀ (s : State) (p : Fin 8) (path : Fin 2), s.live →
    let x := s.mach.link p
    let ms := fitMsgs (waitingFor s.conf s.mach p path) 64 1492
    let f := withFcs (syncFrame s.conf p (max 1 x.ver) ms)
    let pipe := pathPort s.conf p path / 8
    let q := pathSync s.conf p path
    (x.state = 0 ∨ ms = [] ∨ s.mach.glb.outputs = false ∨ (syncPaths s.conf p).contains path.val = false → exec (.syncFrameTx p path) s = .next s) ∧
    ∀ (h : Nat) (m m' : Mach), x.state ≠ 0 → ms ≠ [] → s.mach.glb.outputs = true → (syncPaths s.conf p).contains path.val = true →
      storeIngress s.conf s.mach pipe (ownIngress pipe) f = some (h, m) →
      enqueue s.conf m q { head := h, len := f.length, enq := s.mach.todNs % 2 ^ 32, inLport := pathPort s.conf p path, res := { raw := true }, turn := s.mach.glb.active } = some m' →
      exec (.syncFrameTx p path) s = .next (s.withM (bump s.conf
        ((chargeIng (handOver s.conf (oweSlots m' pipe (syncSlots f.length)) (ownIngress pipe) h (ownDequeue (queuePort s.conf q)) 0) pipe (-(cellsFor f.length : Int))).setLink p
          (x.sentMsgs path s.mach.up ms)) .duoCnt cDuoTxMsg (x := ms.length)))

/-- Links, leases and rounds (R291, R302-R304, R311, R312). A `HELLO` renews what is known of the partner; from `DOWN` or `LOST` it takes the link to
`NEGOTIATE`, there to `RECONCILE` once the partner hears and has chosen the same version, or to `INCOMPATIBLE` with its reason, from which only a
changed one returns; one that yields, or a new boot, loses the link, and its stream ends (notes/assumptions/31.md); the link is `UP` when both sides
have sent `DONE_3`. A lease that is not held is ended; an `ACK` frees the copies up to its number, and an update's slice is told; digests are compared
when their period has passed, and when the partner's arrive outside `NEGOTIATE`. -/
def Obligations.LinksFollowLeasesAndRounds : Prop :=
  ∀ s : State, s.live →
  let now (m : Mach) : Outcome := .next (s.withM (settle s.conf m))
  (∀ p : Fin 8,
    let x := s.mach.link p
    let rest (g : Msg) : List (Msg × Nat) := x.inbox.eraseIdx ((x.inbox.findIdx? fun e => e.1 == g).getD x.inbox.length)
    (nextMsg s.conf s.mach p 1 = none → exec (.helloRx p) s = now s.mach) ∧
    (∀ (g : Msg) (n : Nat), nextMsg s.conf s.mach p 1 = some (g, n) →
      let h := helloIn g.body
      let m := s.mach.setLink p { x with inbox := rest g, hello := some h }
      let quiet := h.yielding = false ∧ yields s.conf m = false
      let rebooted := ∃ o, x.hello = some o ∧ o.boot ≠ h.boot
      let other := ∃ o, x.hello = some o ∧ (o.versions ≠ h.versions ∨ o.ageTick ≠ h.ageTick ∨ o.seedCheck ≠ h.seedCheck ∨ o.boot ≠ h.boot)
      let lost := exec (.helloRx p) s = now (enterLink s.conf m p 5 0)
      let negotiates (m : Mach) : Prop :=
        let v := commonVersion (s.conf.get duoSyncCfgVersions) h.versions
        let m' := m.setLink p { m.link p with ver := v }
        (v = 0 → exec (.helloRx p) s = now (enterLink s.conf m p 6 0)) ∧
        (v ≠ 0 → h.ageTick ≠ s.conf.get fstAgeCfgAgeTick → exec (.helloRx p) s = now (enterLink s.conf m p 6 1)) ∧
        (v ≠ 0 → h.ageTick = s.conf.get fstAgeCfgAgeTick →
          (h.seedCheck ≠ seedCheck s.conf m → exec (.helloRx p) s = now (enterLink s.conf m p 6 2)) ∧
          (h.seedCheck = seedCheck s.conf m →
            (h.chosen = v ∧ h.hearing = true → exec (.helloRx p) s = now (beginRound s.conf (enterLink s.conf m' p 3 0) p)) ∧
            (¬(h.chosen = v ∧ h.hearing = true) → exec (.helloRx p) s = now m')))
      (x.state = 1 ∨ x.state = 5 → (quiet → negotiates (enterLink s.conf m p 2 0)) ∧ (¬quiet → exec (.helloRx p) s = now m)) ∧
      (x.state = 2 → (quiet → ¬rebooted → negotiates m) ∧ (¬quiet ∨ rebooted → lost)) ∧
      (x.state = 3 ∨ x.state = 4 → (quiet → ¬rebooted → exec (.helloRx p) s = now m) ∧ (¬quiet ∨ rebooted → lost)) ∧
      (x.state = 6 → (other → negotiates (enterLink s.conf m p 2 0)) ∧ (¬other → exec (.helloRx p) s = now m))) ∧
    (∀ r : Round, x.round = some r → r.pass = 3 → bit r.doneTx 3 = true → bit r.doneRx 3 = true →
      let m := (r.exchanged.getD []).foldl (fun (m : Mach) e => if m.entState e = 3 then m else m.setEnt e 0 false) s.mach
      let y := m.link p
      advanceRound s.conf s.mach p = enterLink s.conf
        (m.setLink p { y with round := none, roundAt := m.up, upBoot := (y.hello.map (·.boot)).getD 0 }) p 4 0) ∧
    (nextMsg s.conf s.mach p 5 = none → exec (.ackRx p) s = now s.mach) ∧
    (∀ (g : Msg) (n : Nat) (e : Copy), nextMsg s.conf s.mach p 5 = some (g, n) → x.state ≠ 0 → x.copies = [e] → e.msg.seq < 2 ^ 32 →
      seqAhead e.msg.seq (be g.body 0 4) < 2 ^ 31 → e.strict = none → x.later = [] →
      let m := s.mach.setLink p { x with inbox := rest g, copies := [] }
      let back := seqAhead e.msg.seq (be g.body 0 4)
      (e.msg.type ≠ 2 → e.msg.type ≠ 6 → exec (.ackRx p) s = now m) ∧
      (e.msg.type = 2 ∨ e.msg.type = 6 →
        exec (.ackRx p) s = now (pushJob s.conf m (.ack e.msg (decide (back < 32) && bit (be g.body 8 4) back)) e.msg.key))) ∧
    (nextMsg s.conf s.mach p 7 = none → exec (.reconcileRx p) s = now s.mach) ∧
    (∀ (g : Msg) (n : Nat), nextMsg s.conf s.mach p 7 = some (g, n) →
      (x.state = 2 → exec (.reconcileRx p) s = now s.mach) ∧
      (x.state ≠ 2 → mirrors s.mach p = false → exec (.reconcileRx p) s = now (carriedOut s.mach p g false)) ∧
      (mirrors s.mach p = true → exec (.reconcileRx p) s = now (carriedOut (reconcileMsgIn s.conf s.mach p g) p g false))) ∧
    (let t := s.conf.get duoCtrlDigestPeriod;
    (t = 0 ∨ s.mach.up < x.roundAt + t * 1_000_000_000 → exec (.digestPeriodExpiry p) s = now s.mach) ∧
    (t ≠ 0 → x.roundAt + t * 1_000_000_000 ≤ s.mach.up →
      (x.state = 4 → x.round = none → exec (.digestPeriodExpiry p) s = now (beginRound s.conf s.mach p)) ∧
      (x.state ≠ 4 ∨ x.round.isSome = true → exec (.digestPeriodExpiry p) s = now s.mach)))) ∧
  exec .leaseCheck s = now ((List.range 8).foldl (fun m p =>
    if ((m.link p).state = 2 ∨ (m.link p).state = 3 ∨ (m.link p).state = 4) ∧ (yields s.conf m = true ∨ leaseHeld s.conf m p = false) then
      enterLink s.conf m p 5 0 else m) s.mach) ∧
  ((∀ p < 8, (s.mach.link p).state ≠ 2 ∧ (s.mach.link p).state ≠ 3 ∧ (s.mach.link p).state ≠ 4) → exec .leaseCheck s = now s.mach)

/-- Records and steering from a partner (R294-R297, R309, R312, R313, R395). A record message is admitted to its key's slice; one that the slice
carries out at once rewrites the record it finds as the partner's, else places it, or is refused; a delete removes; counters are taken; on the home
side of a round counts are added, or a conflict is reported and refused. A `STEER` moves an entry that this device neither homes nor mirrors. A strict
wait that ends lets its packet go and has the record marked (notes/assumptions/22.md). -/
def Obligations.PartnersRecordsAreCarriedOut : Prop :=
  ∀ s : State, s.live →
  let now (m : Mach) : Outcome := .next (s.withM (settle s.conf m))
  let m₀ := { s.mach with fsl := { s.mach.fsl with nextOrd := s.mach.fsl.nextOrd + 1 } }
  let done (m : Mach) (p : Nat) (g : Msg) (refused : Bool) : Outcome := s.goesOn (carriedOut m p g refused)
  (∀ p : Fin 8,
    let rows : List (Nat × Instr) := [(2, .recUpdateRx p), (3, .recDeleteRx p), (4, .ctrDeltaRx p), (6, .bulkRx p)]
    (∀ x ∈ rows, nextMsg s.conf s.mach p x.1 = none → exec x.2 s = now s.mach) ∧
    (∀ x ∈ rows, ∀ (g : Msg) (n : Nat), nextMsg s.conf s.mach p x.1 = some (g, n) → exec x.2 s = now (pushJob s.conf s.mach (.msg p g) g.key)) ∧
    (nextMsg s.conf s.mach p 8 = none → exec (.steerMsgRx p) s = .next s)) ∧
  (∀ (p : Fin 8) (g : Msg) (n : Nat), nextMsg s.conf s.mach p 2 = some (g, n) → SliceFree s.conf s.mach g.key →
    let r := { rebased s.mach g with role := 1, peer := partnerDev s.conf p, unmirrored := false }
    let fh := fhOf s.conf s.mach r.key
    let x := lookupKey s.conf m₀ fh r.key
    (∀ (pl : Spot) (y : Rec), x.1 = some (pl, y) →
      exec (.recUpdateRx p) s = done (natClaim s.conf (putRec s.conf x.2 (fhSlot fh) pl r) r) p g false) ∧
    ∀ (spot : Option Spot) (m' m : Mach), x.1 = none → FindsRoom s.conf s.mach m₀ r.key spot m' →
      let y := placeNew s.conf (lookupKey s.conf m' fh r.key).2 (fhSlot fh) spot r
      (y = (true, m) → exec (.recUpdateRx p) s = done (natClaim s.conf m r) p g false) ∧
      (y = (false, m) → exec (.recUpdateRx p) s = done (bump s.conf m .duoCnt cDuoRefused) p g true)) ∧
  (∀ (p : Fin 8) (g : Msg) (n : Nat), nextMsg s.conf s.mach p 3 = some (g, n) → SliceFree s.conf s.mach g.key → bit g.flags 6 = false →
    let fh := fhOf s.conf s.mach g.key
    let x := lookupKey s.conf m₀ fh g.key
    (x.1 = none → exec (.recDeleteRx p) s = done x.2 p g false) ∧
    ∀ (pl : Spot) (r : Rec), x.1 = some (pl, r) → exec (.recDeleteRx p) s = done (removeRec s.conf x.2 (fhSlot fh) pl r) p g false) ∧
  (∀ (p : Fin 8) (g : Msg) (n : Nat), nextMsg s.conf s.mach p 4 = some (g, n) → SliceFree s.conf s.mach g.key →
    let fh := fhOf s.conf s.mach g.key
    let x := lookupKey s.conf m₀ fh g.key
    let o := if g.wide then 40 else 16
    (x.1 = none → exec (.ctrDeltaRx p) s = done x.2 p g false) ∧
    ∀ (pl : Spot) (r : Rec), x.1 = some (pl, r) → bit g.flags 6 = false →
      exec (.ctrDeltaRx p) s = done (putRec s.conf x.2 (fhSlot fh) pl { r with
        pkts := be g.body o 4 % 2 ^ 32, bytes := be g.body (o + 4) 6 % 2 ^ (if r.wide then 48 else 40)
        lastHit := (x.2.fsl.ageNow + 65536 - be g.body (o + 10) 2 % 65536) % 65536 }) p g false) ∧
  (∀ (p : Fin 8) (g : Msg) (n : Nat) (pl : Spot) (r : Rec), nextMsg s.conf s.mach p 6 = some (g, n) → SliceFree s.conf s.mach g.key →
    let y := { rebased s.mach g with role := 0, peer := partnerDev s.conf p, unmirrored := false }
    let fh := fhOf s.conf s.mach y.key
    let x := lookupKey s.conf m₀ fh y.key
    x.1 = some (pl, r) →
    (bits g.flags 5 4 = 1 → exec (.bulkRx p) s = done (putRec s.conf x.2 (fhSlot fh) pl { r with
      pkts := (r.pkts + y.pkts) % 2 ^ 32, bytes := (r.bytes + y.bytes) % 2 ^ (if r.wide then 48 else 40) }) p g false) ∧
    (bits g.flags 5 4 = 3 → exec (.bulkRx p) s = done x.2 p g false) ∧
    (bits g.flags 5 4 = 2 →
      let bind (z : Rec) : List Byte := if z.bound then z.param.take 8 else List.replicate 8 0
      exec (.bulkRx p) s = done (postEvent s.conf (bump s.conf x.2 .duoCnt cDuoConflict) { type := 0x0A, bodies :=
        [beBytes 2 (fhSteer fh) ++ beBytes 2 r.version ++ beBytes 2 y.version ++ [0, 0] ++ bind r ++ bind y, y.key] }) p g true)) ∧
  (∀ (p : Fin 8) (g : Msg) (n : Nat), nextMsg s.conf s.mach p 8 = some (g, n) →
    let e := be g.body 0 2
    let y := putBits (putBits (putBits (putBits (s.mach.entry e) 62 62 (b2n (bit (byteAt g.body 8) 7))) 59 42 (bits (be g.body 2 3) 17 0)) 41 24
      (bits (be g.body 5 3) 17 0)) 22 20 p
    (entRole s.conf (s.mach.entry e) = .neither → entRole s.conf y = .neither → exec (.steerMsgRx p) s =
      .next (s.withM (carriedOut { s.mach with duo := { s.mach.duo with steer := Tbl.put 0 s.mach.duo.steer e y } } p g false))) ∧
    (entRole s.conf (s.mach.entry e) ≠ .neither ∨ entRole s.conf y ≠ .neither →
      exec (.steerMsgRx p) s = .next (s.withM (carriedOut (bump s.conf s.mach .duoCnt cDuoRxBad) p g false)))) ∧
  (∀ (p : Fin 8) (e : Copy) (fh t : Nat),
    let x := s.mach.link p
    x.copies = [e] → e.strict = some fh → e.first = some t → t + 1000 * s.conf.get duoSyncCfgStrictWait ≤ s.mach.up → e.msg.seq < 2 ^ 32 →
    let m := s.mach.setLink p { x with copies := [{ e with strict := none }] }
    exec (.strictWaitExpiry p) s = .next (s.withM (markKey s.conf (bump s.conf { m with duo := { m.duo with
      release := m.duo.release ++ [fh] } } .duoCnt cDuoStrictTimeout) e.msg.key))) ∧
  (∀ region : Fin 16,
    let l := Tbl.look [] s.mach.duo.retry region
    let due := l.find? fun e => decide (e.2 ≤ s.mach.up) && openNow s.mach region (admitted s.mach (fhOf s.conf s.mach e.1))
    (due = none → exec (.mirrorRetry region) s = .next s) ∧
    ∀ (key : List Byte) (t : Nat), due = some (key, t) →
      let m := { s.mach with duo := { s.mach.duo with retry := Tbl.upd [] s.mach.duo.retry region fun l => l.erase (key, t) } }
      let x := lookupKey s.conf m (fhOf s.conf m key) key
      (x.1 = none → exec (.mirrorRetry region) s = .next (s.withM x.2)) ∧
      ∀ (pl : Spot) (r : Rec) (p : Nat), x.1 = some (pl, r) → recPartner s.conf x.2 r = some p → mirrors x.2 p = true → r.unmirrored = true →
        (x.2.link p).unacked < 65536 → (x.2.link p).later = [] →
        exec (.mirrorRetry region) s = .next (s.withM (x.2.setLink p { x.2.link p with
          txSeq := ((x.2.link p).txSeq + 1) % 2 ^ 32, copies := (x.2.link p).copies ++
            [{ msg := { type := 2, flags := b2n r.wide * 128, body := recBody x.2 r, seq := (x.2.link p).txSeq }, strict := none }] }))) ∧
  ∀ e : Fin 65536, exec (.steeringEntryRestore e) s =
    .next (s.withM { s.mach with duo := { s.mach.duo with restoring := s.mach.duo.restoring.filter (· != e.val) } })

/-! ### Policy cores -/

/-- The work port (R259, R266, R267, R269, R270, R451). `GET` gives a running core the first item of the queue it is served from, or 0; a `DONE` store
moves the item of its slot to the release unit, or stalls the core while that is full of outputs, of which a drop, which frees its buffers at once, is
none (R262); buffers are allocated, the lowest free first (notes/assumptions/12.md), and freed, a chain as notes/assumptions/114.md has it; a staged
item of which anything is wrong is refused. A store that names nothing the core holds is misuse. An access the core cannot make has no effect; any
other retires an instruction (what only a program decides is free, notes/assumptions/77.md; modes are RISC-V's, 113). -/
def Obligations.CoresWorkThroughTheirPort : Prop :=
  ∀ (s : State) (core : Fin 128), s.live →
  let x := s.mach.core core
  let now (m : Mach) : Outcome := .next (s.withM m)
  let ran (m : Mach) : Outcome := now (retire s.conf m core 4)
  let misuse := ran (raise s.conf (bump s.conf s.mach .tskCnt cTskPortMisuse) 26 1 NOTE core)
  let may (acc : CoreAcc) (off : Nat) : Prop := portOpen s.mach core acc off = true
  (∀ (v : BitVec 64) (slot : Fin 4) (u : BitVec 60) (b held : List Byte) (reserved : Bool),
    let done := 0x200 + 8 * slot.val
    let rows : List (Instr × CoreAcc × Nat) := [(.workGet core, .load, 0x000), (.workArm core v, .store, 0x008), (.workDoneDrop core slot reserved, .store, done),
      (.workDoneInject core slot u held, .store, done), (.workDoneDeliver core slot u held, .store, done), (.workDoneForward core slot u, .store, done),
      (.workBufAlloc core, .load, 0x300), (.workBufFree core v, .store, 0x308), (.workPostGo core b held, .store, 0x440)]
    ∀ r ∈ rows, portOpen s.mach core r.2.1 r.2.2 = false → exec r.1 s = now s.mach) ∧
  (coreRuns s.mach core = false → ∀ acc off, ¬may acc off) ∧
  (may .load 0x000 →
    let chosen := chooseQueue s.conf s.mach (s.conf.get tskCoreCtrlGroup core)
    (x.state ≠ .running ∨ chosen = none ∨ (lowest? 4 fun i => (Tbl.find x.slots i).isNone) = none →
      exec (.workGet core) s = ran (s.mach.emit (.coreLoad core 0))) ∧
    ∀ (slot q : Nat) (w : WItem), x.state = .running → chosen = some q → (lowest? 4 fun i => (Tbl.find x.slots i).isNone) = some slot →
      nextItem s.conf s.mach q = some w →
      let k := s.mach.wq q
      let bin := waitBin (s.mach.up - w.admitted)
      let m := (s.mach.setCore core { x with slots := Tbl.ins x.slots slot { item := w, since := s.mach.up } }).setWq q { k with
        items := k.items.filter fun v => v.seq != w.seq, places := k.places ++ [w.seq]
        hist := Tbl.put 0 k.hist bin (min (Tbl.look 0 k.hist bin + 1) (2 ^ 32 - 1)) }
      exec (.workGet core) s = ran ((bump s.conf { m with tsk := { m.tsk with rr := Tbl.ins m.tsk.rr (s.conf.get tskWqCfgPrio q) q } }
        .tskCnt cTskDispatch).emit (.coreLoad core (2 ^ 63 + slot)))) ∧
  (∀ v : BitVec 64, may .store 0x008 → exec (.workArm core v) s = ran (notifyReady s.conf (s.mach.setCore core { x with armed := v.getLsbD 0 }))) ∧
  (∀ (slot : Fin 4) (u : BitVec 60) (held : List Byte), may .store (0x200 + 8 * slot.val) →
    let v := u.toNat
    let chain := x.chain (bits v 46 34) (max 1 (ceilDiv (bits v 31 16) 2048))
    let rows : List (Instr × TOutput) := [(.workDoneDrop core slot false, .drop),
      (.workDoneDeliver core slot u held, .deliver (bits v 45 32) (held.take (bits v 31 16))), (.workDoneForward core slot u, .forward (bits v 43 32))] ++
      (if bit v 47 = true then [] else [(.workDoneInject core slot u held, .inject (bits v 52 48) (held.take (bits v 31 16)) (bits v 15 0) [])])
    exec (.workDoneDrop core slot true) s = misuse ∧
    (bit v 47 = true → chain = [] → exec (.workDoneInject core slot u held) s = misuse) ∧
    (Tbl.find x.slots slot = none → (∀ r ∈ rows, exec r.1 s = misuse) ∧ exec (.workDoneInject core slot u held) s = misuse) ∧
    ∀ e : InService, Tbl.find x.slots slot = some e →
      let done (out : TOutput) (bufs : List Nat) : Outcome :=
        let m := s.mach.setCore core { x with slots := Tbl.del x.slots slot, bufs := bufs }
        let m := if out = .drop then m.freeWork e.item.bufs else m
        ran (release s.conf (bump s.conf { m with tsk := { m.tsk with
          outs := m.tsk.outs ++ [{ out := out, core := core, item := e.item, cmds := e.cmds, last := true }] } } .tskCnt cTskDone))
      (s.mach.outsFull = true → ∀ r ∈ rows, r.2 ≠ .drop → exec r.1 s = now (s.mach.setCore core { x with stall := some (.done slot r.2) })) ∧
      (∀ r ∈ rows, s.mach.outsFull = false ∨ r.2 = .drop → exec r.1 s = done r.2 x.bufs) ∧
      (s.mach.outsFull = false → bit v 47 = true → chain ≠ [] → exec (.workDoneInject core slot u held) s =
        done (.inject (bits v 52 48) (held.take (bits v 31 16)) (bits v 15 0) chain) (x.bufs.filter fun b => !chain.contains b))) ∧
  (may .load 0x300 →
    (s.mach.freeBufs 1 = [] → exec (.workBufAlloc core) s = ran (s.mach.emit (.coreLoad core 0xFFFF))) ∧
    ∀ (b : Nat) (bs : List Nat), s.mach.freeBufs 1 = b :: bs →
      let m := { s.mach with tsk := { s.mach.tsk with link := Tbl.ins s.mach.tsk.link b none } }
      exec (.workBufAlloc core) s = ran ((m.setCore core { x with bufs := x.bufs ++ [b] }).emit (.coreLoad core b))) ∧
  (∀ v : BitVec 64, may .store 0x308 →
    let b := v.toNat % 8192
    (Tbl.find s.mach.tsk.link b = none → exec (.workBufFree core v) s = misuse) ∧
    ((Tbl.find s.mach.tsk.link b).isSome = true →
      let m := s.mach.setCore core { x with bufs := x.bufs.filter (· != b) }
      exec (.workBufFree core v) s = ran { m with tsk := { m.tsk with link := Tbl.del m.tsk.link b } })) ∧
  ∀ b held : List Byte, may .store 0x440 →
    let w := (stagedItem b).1
    let bs := stagedBufs x b
    let bad := (stagedItem b).2 = false ∨ s.conf.on tskWqCfgEn w.wq = false ∨ bs.length ≠ bits (be b 20 2) 15 13
    let m := s.mach.setCore core { x with post := 3, bufs := x.bufs.filter fun b => !bs.contains b }
    let m := { m with tsk := { m.tsk with link := linkChain bs m.tsk.link } }
    let w := { w with data := held.take (be b 16 2), bufs := bs }
    (bad → exec (.workPostGo core b held) s = ran (s.mach.setCore core { x with post := 2 })) ∧
    (¬bad → s.mach.outsFull = true → exec (.workPostGo core b held) s = now (s.mach.setCore core { x with stall := some (.post b held) })) ∧
    (¬bad → s.mach.outsFull = false →
      (x.oldest = none → exec (.workPostGo core b held) s =
        ran (release s.conf { m with tsk := { m.tsk with postIn := Tbl.upd [] m.tsk.postIn core (· ++ [w]) } })) ∧
      ∀ e : InService, x.oldest = some e → exec (.workPostGo core b held) s = ran (release s.conf { m with tsk := { m.tsk with
        outs := m.tsk.outs ++ [{ out := .post core w, core := core, item := e.item, last := false }] } }))

/-- The scheduler and the cores' commands (R265, R269, R271, R272, R275). A command enters its cluster's queue while that has room; a stopping core
that holds no item is reset; an age notice that its queue can take is admitted, into buffers of its own, laid out as the model chose
(notes/assumptions/12.md and 34.md); an output whose turn has come is released, and a stalled core's store goes on with room, of several the lowest
first (notes/assumptions/114.md); an item in service beyond the limit is latched, counted and reported. -/
def Obligations.ItemsEnterServiceAndLeaveIt : Prop :=
  ∀ s : State, s.live →
  let now (m : Mach) : Outcome := .next (s.withM m)
  (∀ (core opc : Fin 128) (q : Cmd),
    let x := s.mach.core core
    let n := s.mach.tsk.nextCmd
    let full := 64 ≤ (s.mach.tsk.cmds.filter fun e => clusterOf e.core == clusterOf core.val).length
    (full ∨ queueOpenTo s.mach core = false → exec (.clusterCmdSubmit core opc q) s = now (settle s.conf s.mach)) ∧
    (¬full → queueOpenTo s.mach core = true →
      let m := s.mach.setCore core { x with slots := x.slots.map fun e => (e.1, { e.2 with cmds := e.2.cmds ++ [n] }) }
      let m := { m with tsk := { m.tsk with cmds := m.tsk.cmds ++ [{ n := n, core := core, opc := opc, ctx := q.ctx, body := cmdBody q 2 }], nextCmd := n + 1 } }
      exec (.clusterCmdSubmit core opc q) s = now (settle s.conf (cmdStart s.conf (retire s.conf m core 4) (.core core) n (opOf opc) q)))) ∧
  (∀ core : Fin 128,
    let x := s.mach.core core
    (x.state = .stopping → x.slots = [] → x.stall = none → exec (.coreStopped core) s = now (s.mach.setCore core { x with state := .reset, armed := false, irq := false })) ∧
    (x.state ≠ .stopping ∨ x.slots ≠ [] ∨ x.stall ≠ none → exec (.coreStopped core) s = .next s)) ∧
  (s.mach.tsk.ageIn = [] → exec (.workItemAdmit .age) s = .next s) ∧
  (∀ (w : WItem) (ws : List WItem), s.mach.tsk.ageIn = w :: ws →
    (canAdmit s.conf s.mach w = false → exec (.workItemAdmit .age) s = .next s) ∧
    (canAdmit s.conf s.mach w = true →
      let m := { s.mach with tsk := { s.mach.tsk with ageIn := ws } }
      let bs := m.freeBufs w.need
      let q := s.mach.wq w.wq
      let m' := { m with tsk := { m.tsk with link := linkChain bs m.tsk.link } }
      exec (.workItemAdmit .age) s = now (notifyReady s.conf (bump s.conf (m'.setWq w.wq { q with
        items := q.items ++ [{ w with ts := s.mach.todNs, bufs := bs, seq := q.next, admitted := s.mach.up }], next := q.next + 1 }) .tskCnt cTskAdmit)))) ∧
  (∀ r : Fin 16384, Tbl.look [] s.mach.tsk.hostIn r = [] → exec (.workItemAdmit (.host r)) s = .next s) ∧
  (∀ n : Fin 128, Tbl.look [] s.mach.tsk.postIn n = [] → exec (.workItemAdmit (.post n)) s = .next s) ∧
  (s.mach.tsk.outs = [] → s.mach.stalled = [] → exec .outputRelease s = now (notifyReady s.conf s.mach)) ∧
  (∀ (n : Nat) (ns : List Nat), s.mach.tsk.outs = [] → s.mach.stalled = n :: ns →
    exec .outputRelease s = now (notifyReady s.conf (releaseLoop s.conf ns.length (resumeStore s.conf s.mach n)))) ∧
  (∀ e : OutEntry, s.mach.tsk.outs = [e] → s.mach.stalled = [] → releasable s.conf s.mach [] e = true →
    let q := s.mach.wq e.item.wq
    let m := { s.mach with tsk := { s.mach.tsk with outs := [] } }
    (e.out = .drop → e.last = true → exec .outputRelease s = now (notifyReady s.conf
      ((m.setWq e.item.wq { q with places := q.places.filter (· != e.item.seq) }).freeWork e.item.bufs))) ∧
    ∀ (core : Nat) (w : WItem), e.out = .post core w → e.last = false → exec .outputRelease s = now (notifyReady s.conf
      { m with tsk := { m.tsk with postIn := Tbl.upd [] m.tsk.postIn core (· ++ [w]) } })) ∧
  ∀ (core : Fin 128) (slot : Fin 4),
    let lim := s.conf.get tskCtrlSvcTimeout
    (Tbl.find (s.mach.core core).slots slot = none → exec (.svcTimeout core slot) s = .next s) ∧
    ∀ e : InService, Tbl.find (s.mach.core core).slots slot = some e →
      (lim = 0 ∨ s.mach.up - e.since ≤ lim * 1000 → exec (.svcTimeout core slot) s = .next s) ∧
      (lim ≠ 0 → lim * 1000 < s.mach.up - e.since → exec (.svcTimeout core slot) s = now (raise s.conf (bump s.conf
        { s.mach with tsk := { s.mach.tsk with svcLatch := some (core.val, e.item.wq) } } .tskCnt cTskSvcTimeout) 26 0 DEGRADED core))

/-! ### Time of day -/

/-- The time of day (R235-R240). An edge of `PPS_IN` is ignored in mode 0, counted as a glitch within half a second of the last, and else captured to
a quarter of a ns; in align mode it schedules a step, or is rejected. An input that stays away for 1.5 s is reported once. `PPS_OUT` rises at its
second, at most once, and falls after its width. A step takes effect at its time, and with it the gate changes and the turn boundary that it passes; a
second it jumps over makes no pulse. A replica is within 0.4 ns of the master after its correction (by how much is free, notes/assumptions/111.md);
one that is off by more than 2 ns is reloaded and reported. -/
def Obligations.TimeOfDayFollowsItsEdgesAndSteps : Prop :=
  ∀ s : State, s.live →
  let t := s.mach.tod
  let mode := s.conf.get todCtrlPpsMode
  (∀ phase : Fin 16,
    let glitch := ∃ e, t.lastEdge = some e ∧ 4 * s.mach.up + phase - e < 2_000_000_000
    let cap := s.mach.todFrac + phase * 16384
    let m := ppsCapture s.conf s.mach cap phase
    (mode = 0 → exec (.ppsInEdge phase) s = .next s) ∧
    (mode ≠ 0 → glitch → exec (.ppsInEdge phase) s = .next (s.withM (s.mach.inc32 todPpsGlitchCount))) ∧
    (mode ≠ 0 → ¬glitch → mode ≠ 2 → exec (.ppsInEdge phase) s = .next (s.withM m)) ∧
    (mode = 2 → ¬glitch →
      let e := ppsOffset s.conf cap
      (e.natAbs ≤ s.conf.get todPpsWindowWindow * 65536 ∨ m.tod.aligned = false → m.tod.stepAt = none →
        exec (.ppsInEdge phase) s = .next (s.withM { m with tod := { m.tod with
          aligned := true, stepAt := some (stepTime m), stepTo := none, stepBy := -e } })) ∧
      (s.conf.get todPpsWindowWindow * 65536 < e.natAbs → m.tod.aligned = true →
        exec (.ppsInEdge phase) s = .next (s.withM ((m.inc32 todPpsRejectCount).setSt todStatPpsOutside 1))))) ∧
  (∀ cap phase : Nat, s.conf.on todPpsCfgEvt = false → ∃ r, ppsCapture s.conf s.mach cap phase =
    { s.mach with reg := r, tod := { s.mach.tod with lastEdge := some (4 * s.mach.up + phase), lossRaised := false } }) ∧
  (let late := 6_000_000_000 ≤ 4 * s.mach.up - t.lastEdge.getD 0;
    let m := s.mach.setSt todStatPpsMissing 1;
    (¬late → exec .ppsMissingTimeout s = .next s) ∧
    (late → t.lossRaised = true → exec .ppsMissingTimeout s = .next (s.withM m)) ∧
    (late → t.lossRaised = false → exec .ppsMissingTimeout s =
      .next (s.withM (raise s.conf { m with tod := { m.tod with lossRaised := true } } 23 1 NOTE)))) ∧
  (let n := (ppsSecond s.conf s.mach).toNat;
    let may := s.conf.on todCtrlPpsOutEn = true ∧ s.mach.glb.outputs = true ∧ s.mach.flt.fatal = false ∧ n ∉ t.ppsDone;
    (may → exec .ppsOutRise s = .next (s.withM { s.mach with tod := { t with
      ppsOut := true, ppsEnd := s.mach.up + s.conf.get todPpsOutCfgWidth * 10_000, ppsDone := n :: t.ppsDone } })) ∧
    (¬may → exec .ppsOutRise s = .next s)) ∧
  ((t.ppsEnd ≤ s.mach.up → exec .ppsOutFall s = .next (s.withM { s.mach with tod := { t with ppsOut := false } })) ∧
    (s.mach.up < t.ppsEnd → exec .ppsOutFall s = .next s)) ∧
  ((∀ e, t.stepAt = some e → s.mach.todNs < e) → exec .todStepApply s = .next s) ∧
  (∀ e : Nat, t.stepAt = some e → e ≤ s.mach.todNs →
    let v := match t.stepTo with
      | some w => w * 2 ^ 32
      | none => ((t.now : Int) + t.stepBy * 2 ^ 32).toNat
    let m := { s.mach with tod := { t with now := v, stepAt := none, stepTo := none, stepBy := 0 } }
    let m := if ppsSecond s.conf s.mach < ppsSecond s.conf m then { m with tod := { m.tod with ppsDone := (ppsSecond s.conf m).toNat :: t.ppsDone } } else m
    let m := s.mach.sch.gates.foldl (fun m g => gateShow (gateChange m g.1) g.1) m
    exec .todStepApply s = exec .turnBoundary (s.withM m) ∧
    (m.glb.turn ≠ .scheduled ∨ m.todNs < m.glb.boundary → exec .todStepApply s = .next (s.withM m))) ∧
  ∀ (die : Fin 8) (skew : Int),
    let m := raise s.conf s.mach 23 0 DEGRADED die
    (2 * 65536 < skew.natAbs → exec (.todReplicaCorrect die skew) s =
      .next (s.withM { m with tod := { t with replica := Tbl.put 0 t.replica die 0 } })) ∧
    (skew.natAbs ≤ 2 * 65536 → die = 7 → exec (.todReplicaCorrect die skew) s = .next s) ∧
    (skew.natAbs ≤ 2 * 65536 → die ≠ 7 → ∃ d : Int, d.natAbs ≤ 26214 ∧ exec (.todReplicaCorrect die skew) s =
      .next (s.withM { s.mach with tod := { t with replica := Tbl.put 0 t.replica die d }, free := s.mach.free + 1 }))

/-! ### Seal, turns, faults and leave -/

/-- What ends a seal, a turn and a restart (R73, R375, R377, R378, R386, R387, R390). The seal checks wait for what was placed before them, end in a
code and an instance, in the order of notes/assumptions/17.md, for code 6 with the port's enable latched as refused (R381), or seal the device: the
start of the outputs then finds it sealed, with turn 0 active and a flow seed drawn unless software gave one (notes/assumptions/3.md and 30.md); the
digest's order is notes/assumptions/46.md. A turn's boundary makes the shadow active and keeps the old turn; when nothing of that is left its banks
are copied, and what was held goes on (notes/assumptions/25.md). A restart ends in `WAIT_HOST`, and where the random source is seeded a key tree is
asked for (R420, notes/assumptions/58.md). -/
def Obligations.SealTurnAndRestartEnd : Prop :=
  ∀ s : State, s.live →
  let g := s.mach.glb
  let c := s.conf
  (g.sealSt ≠ .checking → exec .sealChecksDone s = .next s) ∧
  (g.sealSt = .checking → g.stage ≠ .waitHost → exec .sealChecksDone s =
    .next { s with dev := resumeHeld ⟨c, { s.mach with glb := { g with sealSt := .unsealed } }⟩ }) ∧
  (g.sealSt = .checking → g.stage = .waitHost →
    (earlierWaits s.mach = true → exec .sealChecksDone s = .next s) ∧
    (earlierWaits s.mach = false →
      (∀ k w : Nat, firstFailure c s.mach sealCodes = some (k, w) → k ≠ 6 → exec .sealChecksDone s =
        .next { s with dev := resumeHeld ⟨c, { s.mach with glb := { g with sealSt := .refused, sealCode := k, sealWhere := w } }⟩ }) ∧
      (∀ w : Nat, firstFailure c s.mach sealCodes = some (6, w) →
        let m := refuse s.mach g.sealBy (badPortOff c) 3 6
        exec .sealChecksDone s = .next { s with dev := resumeHeld ⟨c, { m with glb := { m.glb with sealSt := .refused, sealCode := 6, sealWhere := w } }⟩ }) ∧
      (firstFailure c s.mach sealCodes = none →
        let seed := if c.on fstCtrlSwSeed = true then s.mach else { s.mach with
          free := s.mach.free + 2
          fsl := { s.mach.fsl with seed := beBytes 8 (Config.random s.mach.free).toNat ++ beBytes 8 (Config.random (s.mach.free + 1)).toNat } }
        let shown := (List.range 8).foldl (fun m n => m.setSt glbSealDigestDigest (be (sealDigest c s.mach) (4 * n) 4) n) seed
        let m := startOutputs c { shown with glb := { g with sealSt := .sealed, sealCode := 0, sealWhere := 0, active := 0, stage := .sealed } }
        exec .sealChecksDone s = .next { s with dev := resumeHeld ⟨c, m⟩ }))) ∧
  (g.turn ≠ .scheduled ∨ s.mach.todNs < g.boundary → exec .turnBoundary s = .next s) ∧
  (g.turn = .scheduled → g.boundary ≤ s.mach.todNs →
    let c' : Cfg := { c with old := c.act, act := c.shadow }
    exec .turnBoundary s = .next { s with dev := ⟨c', newTree c c' (setMeas { s.mach with
      glb := { g with turn := .draining, active := g.active + 1 }
      act := { s.mach.act with old := s.mach.act.act, act := s.mach.act.shadow } } 5 s.mach.sec.shadowProg)⟩ }) ∧
  (g.turn = .draining → oldUsers s.mach = false →
    exec .turnDrainDone s = .next (s.withM { s.mach with glb := { g with copying := true } })) ∧
  (g.turn ≠ .draining ∨ oldUsers s.mach = true → exec .turnDrainDone s = .next s) ∧
  (g.copying = false → exec .bankCopyDone s = .next s) ∧
  (g.copying = true → exec .bankCopyDone s = .next { s with dev := resumeHeld ⟨{ c with shadow := c.act },
    { s.mach with
      act := { s.mach.act with shadow := s.mach.act.act }, sec := { s.mach.sec with shadowProg := Tbl.look {} s.mach.sec.meas 5 }
      glb := { g with turn := .idle, copying := false } }⟩ }) ∧
  (g.restarting = false → exec .restartComplete s = .next (s.withM (settle c s.mach))) ∧
  (g.restarting = true →
    let m := { s.mach with glb := { g with restarting := false, stage := .waitHost } }
    (s.mach.sec.rngSeeded = false → exec .restartComplete s = .next (s.withM (settle c m))) ∧
    (s.mach.sec.rngSeeded = true → exec .restartComplete s = .next (s.withM (settle c (treeAsk c m).2)) ∧
      ∀ (t : Nat × Nat) (a : LeaveAns) (m' : Mach), m.sec.gen = none → treeDue m = some t → m.holdsLeave opTree t.1 = false →
        m.waitsLeave opTree t.1 = false → askLeave c m opTree t.1 = (a, m') →
        exec .restartComplete s = .next (s.withM (settle c (if a = .granted then { m' with sec := { m'.sec with gen := some t } } else m')))))

/-- Reports and what follows them (R28, R314, R396, R398, R401, R404, R406, R408). A tick with nothing found and nothing waiting drives the pin alone,
and in service mode changes nothing there unless a class newly holds it low; a report is latched, or marks an overflow, and a FATAL one stops the
outputs. A link that retrains is a CORRECTED report and one that fails its own severity. A class's quiet time ends it unless it is FATAL, and lets the
pin rise where it was the last (R408). A restored unit's self-test ends in service or in a report (notes/assumptions/44.md and 74.md). A copied
pseudo-channel goes into use, its unreadable lines poisoned (R400, notes/assumptions/144.md). `HEALTH` toggles and leaves its low hold at its times
(notes/assumptions/38.md). A CORRECTED report of an active class posts no event (73); who reports what is an operand (75). -/
def Obligations.FaultsAndHealthFollowReports : Prop :=
  ∀ s : State, s.live →
  let c := s.conf
  let m := s.mach
  let f := m.flt
  let now (m : Mach) : Outcome := .next (s.withM m)
  (f.waiting = [] → m.stOn fltInjectArmed = false → ∀ inj : List (BitVec 32 × BitVec 32),
    exec (.faultTickProcess [] inj) s = now (settle c (upwardGo c (healthDrive c m))) ∧
    (healthMode c m = 1 → healthHeld c m = false ∨ f.lowSince.isSome = true → exec (.faultTickProcess [] inj) s = now (settle c (upwardGo c m)))) ∧
  (∀ r : Report, f.waiting = [r] → r.inj = false →
    let cls := r.src / 16
    let k := m.class cls
    let esc := k.unacked && decide (r.sev < 4)
    let sev := if esc = true then r.sev + 1 else r.sev
    let taken := ({ m with flt := { f with waiting := [] } }.inc32 fltClassCntCount cls).setClass cls
      { active := true, unacked := true, sev := max k.sev sev, expire := m.up + 1_000_000 * c.get fltQuietTimeQuiet }
    let latched := latchFirst taken r sev esc
    (taken.stOn fltFirstSrcValid = true → taken.stOn fltFirstInjInj = false → latched = taken.setSt fltOverflowOverflow 1) ∧
    (sev ≤ DEGRADED → ¬(sev = CORRECTED ∧ k.active = true) → exec (.faultTickProcess [] []) s = now (settle c (upwardGo c (healthDrive c (postFault c latched
      { src := r.src, sev := sev, time := r.time, inj := false, esc := esc }))))) ∧
    (sev = CORRECTED → k.active = true → exec (.faultTickProcess [] []) s = now (settle c (upwardGo c (healthDrive c latched)))) ∧
    (sev = FATAL → m.glb.turn ≠ .scheduled → ∃ m' : Mach, exec (.faultTickProcess [] []) s = now (settle c m') ∧
      m'.flt.fatal = true ∧ m'.glb.outputs = false ∧ m'.tod.ppsOut = false)) ∧
  (∀ (link : Fin 18) (mod : Fin 2),
    (link.val < 7 → exec (.linkRetrainFail link mod true) s = now (settle c (raise c m 1 link CORRECTED))) ∧
    (link.val < 7 → exec (.linkRetrainFail link mod false) s =
      now (settle c (raise c { m with flt := { f with cdDown := f.cdDown ||| (1 <<< link.val) } } 1 link FATAL))) ∧
    (7 ≤ link.val → exec (.linkRetrainFail link mod true) s = now (settle c (raise c m 2 (link.val - 7) CORRECTED mod))) ∧
    (link.val = 7 → exec (.linkRetrainFail link mod false) s =
      now (settle c (raise c { m with flt := { f with pdpdDown := true } } 2 0 SEVERE mod))) ∧
    (link.val = 8 ∨ link.val = 9 → exec (.linkRetrainFail link mod false) s = now (settle c (raise c
      (holdGroups c { m with flt := { f with sdDown := f.sdDown ||| (1 <<< (link.val - 8)) } } (groupsOfDie (link.val - 8))) 2 (link.val - 7) SEVERE mod))) ∧
    (10 ≤ link.val → Tbl.look 0 f.ioModules (link.val - 10) = 0 → exec (.linkRetrainFail link mod false) s =
      now (settle c (raise c { m with flt := { f with ioModules := Tbl.put 0 f.ioModules (link.val - 10) (2 ^ mod.val) } } 2 (link.val - 7) DEGRADED mod))) ∧
    (10 ≤ link.val → Tbl.look 0 f.ioModules (link.val - 10) = 2 - mod.val → exec (.linkRetrainFail link mod false) s = now (settle c (raise c
      (holdGroups c { m with flt := { f with ioModules := Tbl.put 0 f.ioModules (link.val - 10) 3 } } (groupsOfLink ((link.val - 10) / 2) ((link.val - 10) % 2)))
      2 (link.val - 7) SEVERE mod)))) ∧
  (∀ k : Fin 64,
    let x := m.class k
    (x.active = false ∨ m.up < x.expire ∨ x.sev = 4 → exec (.quietTimerExpiry k) s = .next s) ∧
    (x.active = true → x.expire ≤ m.up → x.sev ≠ 4 →
      exec (.quietTimerExpiry k) s = now (healthDrive c ((m.setClass k {}).inc32 fltRecoveryCountCount)))) ∧
  (∀ pass : Bool, f.restore = none ∨ m.holdsLeave opSelfTest 0 = false → exec (.restoreSelftestDone pass) s = now (settle c m)) ∧
  (∀ kind inst : Nat, f.restore = some (kind, inst) → m.holdsLeave opSelfTest 0 = true →
    let ended := releaseLeave c { m with flt := { f with restore := none } } opSelfTest 0
    exec (.restoreSelftestDone true) s = now (settle c (restoreUnit c (ended.setSt fltRestoreResult 2) kind inst)) ∧
    exec (.restoreSelftestDone false) s = now (settle c (raise c (ended.setSt fltRestoreResult 3) (restoreSrc kind inst).1 (restoreSrc kind inst).2.1
      DEGRADED (restoreSrc kind inst).2.2))) ∧
  (let due := healthMode c m = 1 ∧ f.lowSince = none ∧ f.edgeAt + 5_000 * f.period ≤ m.up;
    (¬due → exec .healthToggle s = .next s) ∧
    (due → f.health = true → exec .healthToggle s = now { m with flt := { f with health := false, edgeAt := m.up } }) ∧
    (due → f.health = false → exec .healthToggle s =
      now { m with flt := { f with health := true, edgeAt := m.up, period := c.get fltHealthCfgHealthPeriod } })) ∧
  (f.lowSince = none → exec .healthLowHoldExpiry s = .next s) ∧
  (∀ t : Nat, f.lowSince = some t →
    let may := healthMode c m = 1 ∧ healthHeld c m = false ∧ t + 20_000 * f.period ≤ m.up
    (¬may → exec .healthLowHoldExpiry s = .next s) ∧
    (may → exec .healthLowHoldExpiry s =
      now { m with flt := { f with health := true, edgeAt := m.up, period := c.get fltHealthCfgHealthPeriod, lowSince := none } })) ∧
  ∀ stack : Fin 6,
    (∀ pc : Nat, Tbl.find f.repair stack = some (pc, false) → exec (.pcCopyDone stack) s =
      now (settle c (releaseLeave c (poisonLines { m with flt := { f with repair := Tbl.ins f.repair stack (pc, true) } }) opCopy stack))) ∧
    ((Tbl.find f.repair stack).map (·.2) ≠ some false → exec (.pcCopyDone stack) s = now (settle c m))

/-- The power governor and what asks it for leave (R40, R215, R216, R420, R430-R433, R439, R446, R447). A request stands behind the reports and
requests of its die that wait for the upward queue (R40, notes/assumptions/116.md); then one that fits is granted, one that an operation class's `EN`
or the budget forbids is refused, with what waits evaluated anew (R430), and no operation asks twice; requests of one clock enter by class and unit
(R432, notes/assumptions/142.md); an end gives the pips back, and an evaluation grants the head that fits, whose operation goes on. A due tally pass
asks for leave, and with it flips its epoch; it ends once (notes/assumptions/55.md and 120.md; a refused one counts as late, 143). A key tree is kept
and its leave released (58). A deferral that is too old, or that `EN` no longer allows, leaves the queue. A scrub, on its interval and where the
module has scrubbing on, asks too (R439, notes/assumptions/56.md). A dump set that is due latches one batch, counts a late one, or holds it back while
an upward queue is full (53, 116). The generic rows take any operation and unit (60). -/
def Obligations.LeaveIsAskedForHeldAndReleased : Prop :=
  ∀ s : State, s.live →
  let c := s.conf
  let m := s.mach
  let now (m : Mach) : Outcome := .next (s.withM m)
  (m.sec.gen = none → exec .keyTreeGenDone s = now (settle c m)) ∧
  (∀ t, m.sec.gen = some t →
    let kept := { m with sec := { m.sec with gen := none, trees := (m.sec.trees.filter (treesWanted m.sec.next).contains) ++ [t] } }
    exec .keyTreeGenDone s = now (settle c (treeAsk c (releaseLeave c kept opTree t.1)).2)) ∧
  (∀ die : Fin 2, c.on tmgTallyCfgEn die = false ∨ Tbl.look false m.tmg.tally die = true → exec (.tallyPassStart die) s = .next s) ∧
  (∀ die : Fin 2, c.on tmgTallyCfgEn die = true → Tbl.look false m.tmg.tally die = false → m.holdsLeave opCellTally die = true → heldHeads m = [] →
    exec (.tallyPassStart die) s = now { m with tmg := { m.tmg with
      epoch := Tbl.put false m.tmg.epoch die (!m.epochOf die), tally := Tbl.put false m.tmg.tally die true } }) ∧
  (∀ u : Fin 3,
    let row : Instr := if h : u.val < 2 then .tallyPassStart ⟨u, h⟩ else .pageTallyStart
    let op := tallyOp u
    let due := tallyDue c m u
    tallyEn c u = true → Tbl.look false m.tmg.tally u = false → m.holdsLeave op.1 op.2 = false →
      (m.waitsLeave op.1 op.2 = true ∨ m.up < due → exec row s = .next s) ∧
      (m.waitsLeave op.1 op.2 = false → due ≤ m.up → ∀ (a : LeaveAns) (m' : Mach),
        askLeave c { m with tmg := { m.tmg with tallyAt := Tbl.ins m.tmg.tallyAt u (due + tallyPeriod c u) } } op.1 op.2 = (a, m') →
        exec row s = now (if a = .granted then tallyBegin c m' u else if a = .refused then tallyRefused m' u else m'))) ∧
  (∀ die : Fin 2, Tbl.look false m.tmg.tally die = false → exec (.tallyPassDone die) s = now (leaveGoesOn c m)) ∧
  (∀ die : Fin 2, Tbl.look false m.tmg.tally die = true → dieCells m die = [] →
    let e := { m.setSt tmgTallyStatSuspects 0 die with tmg := { (m.setSt tmgTallyStatSuspects 0 die).tmg with tally := Tbl.put false m.tmg.tally die false } }
    cellsFree (m.setSt tmgTallyStatSuspects 0 die) die = (m.setSt tmgTallyStatSuspects 0 die).bankFree die →
    exec (.tallyPassDone die) s = now (leaveGoesOn c (releaseLeave c e opCellTally die))) ∧
  (c.on hbmPageCtrlTallyEn = false ∨ Tbl.look false m.tmg.tally 2 = true → exec .pageTallyStart s = .next s) ∧
  (c.on hbmPageCtrlTallyEn = true → Tbl.look false m.tmg.tally 2 = false → m.holdsLeave opPageTally 0 = true → m.tmg.queues = [] →
    exec .pageTallyStart s = now { m with tmg := { m.tmg with
      epoch := Tbl.put false m.tmg.epoch 2 (!m.epochOf 2), tally := Tbl.put false m.tmg.tally 2 true } }) ∧
  (Tbl.look false m.tmg.tally 2 = false → exec .pageTallyDone s = now (leaveGoesOn c m)) ∧
  (Tbl.look false m.tmg.tally 2 = true → m.tmg.pages = [] → pagesFree m = allocPages m →
    exec .pageTallyDone s = now (leaveGoesOn c (releaseLeave c { m with tmg := { m.tmg with tally := Tbl.put false m.tmg.tally 2 false } } opPageTally 0))) ∧
  (∀ (op : Fin 12) (unit : Nat),
    let q : LeaveReq := { op := op, unit := unit, cls := c.get pwrOpClass op, pips := c.get pwrOpPips op, since := m.up }
    (m.holdsLeave op unit = true ∨ m.waitsLeave op unit = true → exec (.heavyOpRequest op unit) s = .next s) ∧
    (m.holdsLeave op unit = false → m.waitsLeave op unit = false → recoveryOp op = false →
      let behind := reportsWait m (leaveDie op unit) = true ∨ asksWait m (leaveDie op unit) = true
      let refused (reason : Nat) : Outcome := now (leaveRefused c (leaveEval c (pwrReport c m q 2 reason)) op unit)
      (behind → exec (.heavyOpRequest op unit) s = now (leaveGoesOn c { m with pwr := { m.pwr with asks := m.pwr.asks ++ [(op.val, unit)] } })) ∧
      (¬behind →
        (c.on pwrOpEn op = false → exec (.heavyOpRequest op unit) s = refused 2) ∧
        (c.on pwrOpEn op = true → pwrRoom c m 0 < q.pips → exec (.heavyOpRequest op unit) s = refused 1) ∧
        (c.on pwrOpEn op = true → q.pips ≤ pwrRoom c m 0 →
          (64 ≤ m.pwr.queue.length → exec (.heavyOpRequest op unit) s = refused 3) ∧
          (m.pwr.queue.length < 64 → exec (.heavyOpRequest op unit) s =
            now (leaveGoesOn c (leaveEval c { m with pwr := { m.pwr with queue := q.enter m.pwr.queue } }))) ∧
          (m.pwr.queue = [] →
            let fits := m.pwr.alert = false ∧ (q.pips : Int) ≤ pwrRoom c m m.pipsHeld
            (fits → exec (.heavyOpRequest op unit) s =
              now (leaveGoesOn c (pwrReport c { m with pwr := { m.pwr with queue := [], grants := m.pwr.grants ++ [q] } } q 0 0))) ∧
            (¬fits → exec (.heavyOpRequest op unit) s = now (leaveGoesOn c
              (pwrReport c { m with pwr := { m.pwr with queue := [{ q with posted := true }] } } q 1 (if m.pwr.alert then 3 else 1)))))))) ∧
    ((∀ g ∈ m.pwr.grants, ¬(g.op = op.val ∧ g.unit = unit)) → exec (.heavyOpRelease op unit) s = now (leaveGoesOn c m)) ∧
    ∀ g, m.pwr.grants = [g] → g.op = op.val → g.unit = unit → m.pwr.queue = [] →
      exec (.heavyOpRelease op unit) s = now (leaveGoesOn c (pwrReport c { m with pwr := { m.pwr with grants := [] } } g 3 0))) ∧
  (∀ q p : LeaveReq, q.enter [] = [q] ∧ q.enter [p] = if p.since = q.since ∧ q.before p = true then [q, p] else [p, q]) ∧
  (m.pwr.queue = [] → exec .governorEval s = now (leaveGoesOn c m)) ∧
  (∀ q, m.pwr.queue = [q] →
    let fits := m.pwr.alert = false ∧ (q.pips : Int) ≤ pwrRoom c m m.pipsHeld
    let granted := pwrReport c { m with pwr := { m.pwr with queue := [], grants := m.pwr.grants ++ [q] } } q 0 0
    (¬fits → q.posted = true → exec .governorEval s = now (leaveGoesOn c m)) ∧
    (fits → exec .governorEval s = now (leaveGoesOn c granted) ∧
      (∀ t : Nat × Nat, m.sec.gen = none → treeDue m = some t → q.op = opTree → q.unit = t.1 →
        exec .governorEval s = now (settle c { granted with sec := { granted.sec with gen := some t } })))) ∧
  (∀ (op : CmdOp) (o : Origin) (slot n : Nat) (q : Cmd), (writesBank op = true → m.glb.turn = .idle) →
    m.pwr.waitCmds = [(n, (op, o, slot, q))] → retryCmds c m = cmdPlace c m (some n) o slot op q) ∧
  (m.pwr.asks = [] → upwardGo c m = behindGo c m) ∧
  (∀ e : Nat × Nat, m.pwr.asks = [e] →
    (reportsWait m (leaveDie e.1 e.2) = true → upwardGo c m = behindGo c (leaveGoesOn c m)) ∧
    ∀ (a : LeaveAns) (m' : Mach), reportsWait m (leaveDie e.1 e.2) = false → leaveArrive c { m with pwr := { m.pwr with asks := [] } } e.1 e.2 = (a, m') →
      upwardGo c m = behindGo c (leaveGoesOn c (if a = .refused then leaveRefused c m' e.1 e.2 else m'))) ∧
  (leaveLapsed c m = [] → exec .deferTimeout s = now (leaveGoesOn c m)) ∧
  (∀ q, m.pwr.queue = [q] →
    let ended (reason : Nat) : Outcome := now (leaveGoesOn c (leaveRefused c (pwrReport c (dropLeave m q.op q.unit) q 2 reason) q.op q.unit))
    (c.on pwrOpEn q.op = false → exec .deferTimeout s = ended 2) ∧
    (c.on pwrOpEn q.op = true → c.get pwrCtrlDeferMax * 1_000_000 < m.up - q.since → exec .deferTimeout s = ended 4)) ∧
  (∀ stack : Fin 6,
    let due := (Tbl.find m.pwr.scrubAt stack).getD scrubInterval
    let m' := { m with pwr := { m.pwr with scrubAt := Tbl.ins m.pwr.scrubAt stack (due + scrubInterval) } }
    let busy := m.holdsLeave opScrub stack = true ∨ m.waitsLeave opScrub stack = true
    (m.up < due → exec (.scrubPassDue stack) s = .next s) ∧
    (due ≤ m.up → busy → exec (.scrubPassDue stack) s = now m') ∧
    (due ≤ m.up → ¬busy → exec (.scrubPassDue stack) s = now (if Config.scrubEn = true then (askLeave c m' opScrub stack).2 else m')) ∧
    exec (.scrubPassEnd stack) s = now (leaveGoesOn c (releaseLeave c m opScrub stack))) ∧
  ∀ set : Fin 16,
    (m.up < (Tbl.find m.pwr.dumpAt set).getD (m.up + 1) → exec (.dumpLatch set) s = now (settle c m)) ∧
    ∀ t : Nat, Tbl.find m.pwr.dumpAt set = some t → t ≤ m.up → 100 ≤ c.get pmuDumpPeriodPeriod set →
      let m1 := releaseLeave c (dropLeave (m.inc32 pmuDumpSeqSeq set) opDump set) opDump set
      let m2 := { m1 with pwr := { m1.pwr with dumpAt := Tbl.ins m1.pwr.dumpAt set (t + 1000 * c.get pmuDumpPeriodPeriod set) } }
      let b := dumpBatch c m2 set
      let start := (m2.pwr.dumpBusy.map (·.2)).foldl max m2.up
      (m2.up < Tbl.look 0 m2.pwr.dumpBusy set → exec (.dumpLatch set) s = now (settle c (bump c m2 .pmuCnt cPmuDumpLate))) ∧
      (Tbl.look 0 m2.pwr.dumpBusy set ≤ m2.up → (dumpDies c set).any (upwardFull m2) = true → exec (.dumpLatch set) s = now (settle c m2)) ∧
      (Tbl.look 0 m2.pwr.dumpBusy set ≤ m2.up → (dumpDies c set).any (upwardFull m2) = false → exec (.dumpLatch set) s = now (settle c (sendBatch c
        { m2 with pwr := { m2.pwr with dumpBusy := Tbl.ins m2.pwr.dumpBusy set (start + ceilDiv b.length 32) } }
        ⟨dumpDies c set, c.get pmuDumpCfgRing set, .dmp, b⟩)))

/-- A recovery operation (a warm-up or a copy) that its unit does not hold yet is granted at once, whatever the queue, the class's `EN` and the budget
are (R434); what it asks beyond the rest of `RESERVE` counts in `PWR_OVERDRAW` and raises `PWR` instance 2 at NOTE. -/
def Obligations.RecoveryRequestsNeverWait : Prop :=
  ∀ (s : State) (op : Fin 12) (unit : Nat), s.live → recoveryOp op = true → s.mach.holdsLeave op unit = false → s.mach.waitsLeave op unit = false →
    let q : LeaveReq := { op := op, unit := unit, cls := s.conf.get pwrOpClass op, pips := s.conf.get pwrOpPips op, since := s.mach.up }
    let rest := s.conf.get pwrBudgetReserve - pipsOf (s.mach.pwr.grants.filter fun g => recoveryOp g.op)
    let granted := pwrReport s.conf { s.mach with pwr := { s.mach.pwr with grants := s.mach.pwr.grants ++ [q] } } q 0 0
    (q.pips ≤ rest → exec (.heavyOpRequest op unit) s = .next (s.withM (leaveGoesOn s.conf (leaveEval s.conf granted)))) ∧
    (rest < q.pips → exec (.heavyOpRequest op unit) s = .next (s.withM (leaveGoesOn s.conf (leaveEval s.conf
      (raise s.conf (bump s.conf granted .pwrCnt cPwrOverdraw (x := q.pips - rest)) 29 2 NOTE))))) ∧
    granted.pwr.grants = s.mach.pwr.grants ++ [q] ∧ granted.pwr.queue = s.mach.pwr.queue
end

