-- ==== Sys2Proof/Laws/Checks.lean ====
section
/-! SUPPORT. The checks of a seal on a configuration whose turn-banked fields stand at their reset values: those that go over all queues,
nodes and SecYs pass, so that only the others need evaluation. -/
namespace Sys2Proof.Machine

/-- Nothing is found where nothing holds. -/
theorem lowest_none {n : Nat} {p : Nat → Bool} (h : ∀ i, p i = false) : lowest? n p = none := by
  unfold lowest?
  simp [h]
/-- With no turn-banked field set, each reads its reset value. -/
theorem get_turn {c : Cfg} {x : Fld} {v : Nat} (hx : x.part = .turn) (hv : ∀ i j k, fldReset x i j k = v) (h : c.act = []) (i j k : Nat) :
    c.get x i j k = v := by
  simp [Cfg.get, hx, h, fldIn, Tbl.find, hv]

/-- The same of one-bit fields that reset to 0. -/
theorem on_turn {c : Cfg} {x : Fld} (hx : x.part = .turn) (hv : ∀ i j k, fldReset x i j k = 0) (h : c.act = []) (i j k : Nat) :
    c.on x i j k = false := by
  simp [Cfg.on, get_turn hx hv h]

/-- With no turn-banked field set, the checks of R376 that go over all queues, nodes and SecYs pass. -/
theorem banked_checks_pass {c : Cfg} (m : Mach) (h : c.act = []) (k : Nat) (hk : k ∈ [0x20, 0x21, 0x22, 0x23, 0x24, 0x40, 0x41, 0x42, 0x43, 0x44, 0x45]) :
    sealCheck c m k = none := by
  have en : ∀ i j k, c.on mscSecyCfgEn i j k = false := on_turn rfl (fun _ _ _ => rfl) h
  have rx : ∀ i j k, c.on mscRxscCfgEn i j k = false := on_turn rfl (fun _ _ _ => rfl) h
  have ct : ∀ i j k, c.on pplPortCfgCtEn i j k = false := on_turn rfl (fun _ _ _ => rfl) h
  have ex : ∀ i j k, c.on tmgQcfgAExpress i j k = false := on_turn rfl (fun _ _ _ => rfl) h
  have su : ∀ s, subEn c s = false := fun s => on_turn rfl (fun _ _ _ => rfl) h _ _ _
  have sv : ∀ s, svcEn c s = false := fun s => on_turn rfl (fun _ _ _ => rfl) h _ _ _
  have mn : ∀ i j k, c.get tmgQcfgAMin i j k = 0 := get_turn rfl (fun _ _ _ => rfl) h
  have node : ∀ f g, firstNode c f g = none := fun f g => by simp [firstNode, su, sv, lowest_none]
  simp only [List.mem_cons, List.not_mem_nil, or_false] at hk
  rcases hk with rfl | rfl | rfl | rfl | rfl | rfl | rfl | rfl | rfl | rfl | rfl
  · have ps : ∀ i j k, c.get tmgPoolSize i j k = 0 := get_turn rfl (fun _ _ _ => rfl) h
    have il : ∀ i j k, c.get tmgIngLimitIngLimit i j k = 3072 := get_turn rfl (fun _ _ _ => rfl) h
    have pl : ∀ i j k, c.get tmgIngLimitPuntLimit i j k = 4096 := get_turn rfl (fun _ _ _ => rfl) h
    have z : ∀ n, ((List.range n).map fun _ => 0).sum = 0 := fun n => by induction n with
      | zero => rfl
      | succ n ih => rw [List.range_succ, List.map_append, List.sum_append, ih]; rfl
    show cellBudgetBad c = none
    unfold cellBudgetBad
    simp only [mn, ps, il, pl, z]
    decide +kernel
  · show expressDeepBad c = none
    exact lowest_none fun q => by rw [ex]; rfl
  · exact node _ _
  · exact node _ _
  · exact node _ _
  · show (if c.fuse.variant = .p then firstSecy 64 fun k n => c.on mscSecyCfgEn k n else none) = none
    rw [firstSecy, lowest_none fun x => en _ _ _]
    split <;> rfl
  · show (firstSecy 64 fun k n => c.on mscSecyCfgEn k n && (decide (6 ≤ secyPort k n % 8) || !portOn c (secyPort k n / 8) (secyPort k n % 8))) = none
    rw [firstSecy, lowest_none fun x => by rw [en]; rfl]
    rfl
  · show saGroupBad c = none
    unfold saGroupBad
    rw [firstSecy, lowest_none fun x => by rw [en]; rfl]
    rw [firstSecy, lowest_none fun x => by rw [rx]; rfl]
    rfl
  · show rxScBad c = none
    rw [rxScBad, firstSecy, lowest_none fun x => by simp [rxScs, pick, rx]]
    rfl
  · have ci : ∀ i j k, c.get mscSecyCfgCipher i j k = 0 := get_turn rfl (fun _ _ _ => rfl) h
    show (firstSecy 64 fun k n => isXpn (c.get mscSecyCfgCipher k n) && decide (2 ^ 30 < c.get mscSecyWinReplayWindow k n)) = none
    rw [firstSecy, lowest_none fun x => by rw [ci]; rfl]
    rfl
  · exact lowest_none fun l => by rw [ct]; rfl

/-- The checks of R376 pass where each passes. -/
theorem no_failure {c : Cfg} {m : Mach} (h : c.proposed.act = [])
    (hs : ([0x01, 0x02, 0x03, 0x04, 0x05, 0x06, 0x07, 0x10, 0x11, 0x12, 0x13, 0x14, 0x15, 0x30, 0x31, 0x32, 0x33, 0x34, 0x35].all
      fun k => (sealCheck c.proposed m k).isNone) = true) : firstFailure c m sealCodes = none := by
  have all : ∀ k ∈ sealCodes, sealCheck c.proposed m k = none := by
    intro k hk
    have part : ∀ k ∈ sealCodes, k ∈ [0x01, 0x02, 0x03, 0x04, 0x05, 0x06, 0x07, 0x10, 0x11, 0x12, 0x13, 0x14, 0x15, 0x30, 0x31, 0x32, 0x33, 0x34,
        0x35] ∨ k ∈ [0x20, 0x21, 0x22, 0x23, 0x24, 0x40, 0x41, 0x42, 0x43, 0x44, 0x45] := by decide
    rcases part k hk with hk | hk
    · have := List.all_eq_true.mp hs k hk
      simpa using this
    · exact banked_checks_pass m h k hk
  unfold firstFailure
  simp only [List.findSome?_eq_none_iff, Option.map_eq_none_iff]
  exact all

end Sys2Proof.Machine
end

