-- ==== Sys2Proof/Laws/Tbl.lean ====
section
/-! SUPPORT. The laws of the sparse tables: what a read finds after a write, and that every operation keeps the canonical form. -/
namespace Sys2Proof.Machine.Tbl
variable {α : Type}

@[simp] theorem find_nil (i : Nat) : find ([] : Tbl α) i = none := rfl

@[simp] theorem look_nil (d : α) (i : Nat) : look d [] i = d := rfl

/-- Every key of the table lies above `n`. -/
def above (n : Nat) (t : Tbl α) : Prop := ∀ e ∈ t, n < e.1

theorem rising_cons (k : Nat) (v : α) (t : Tbl α) : rising ((k, v) :: t) = true ↔ above k t ∧ rising t = true := by
  induction t generalizing k v with
  | nil => simp [rising, above]
  | cons e t ih =>
    obtain ⟨k', v'⟩ := e
    simp only [rising, Bool.and_eq_true, decide_eq_true_eq]
    constructor
    · rintro ⟨h, hr⟩
      refine ⟨?_, hr⟩
      intro x hx
      rcases List.mem_cons.mp hx with rfl | hx
      · exact h
      · exact Nat.lt_trans h (((ih k' v').mp hr).1 x hx)
    · rintro ⟨h, hr⟩
      exact ⟨h (k', v') List.mem_cons_self, hr⟩

theorem find_above {n : Nat} {t : Tbl α} (h : above n t) : find t n = none := by
  induction t with
  | nil => rfl
  | cons e t ih =>
    obtain ⟨k, v⟩ := e
    have hk : n < k := h (k, v) List.mem_cons_self
    simp [find, Nat.ne_of_lt hk, hk]

@[simp] theorem find_ins_self (t : Tbl α) (i : Nat) (x : α) : find (ins t i x) i = some x := by
  induction t with
  | nil => simp [ins, find]
  | cons e t ih =>
    obtain ⟨k, v⟩ := e
    simp only [ins]
    split
    · simp [find]
    · split
      · simp [find]
      · next h1 h2 => simp [find, h1, h2, ih]

theorem find_ins_other (t : Tbl α) {i j : Nat} (x : α) (h : j ≠ i) : find (ins t i x) j = find t j := by
  induction t with
  | nil => simp [ins, find, h]
  | cons e t ih =>
    obtain ⟨k, v⟩ := e
    simp only [ins]
    split
    · next h1 =>
      simp only [find, h, if_false]
      split
      · next h2 =>
        have : j < k := Nat.lt_trans h2 h1
        simp [this, Nat.ne_of_lt this]
      · rfl
    · split
      · next h1 h2 => subst h2; simp [find, h]
      · simp only [find, ih]

theorem above_ins {n i : Nat} {t : Tbl α} (x : α) (h : above n t) (hi : n < i) : above n (ins t i x) := by
  induction t with
  | nil => intro e he; simp [ins] at he; subst he; exact hi
  | cons e t ih =>
    obtain ⟨k, v⟩ := e
    have ht : above n t := fun y hy => h y (List.mem_cons_of_mem _ hy)
    have hk : n < k := h (k, v) List.mem_cons_self
    intro y hy
    simp only [ins] at hy
    split at hy
    · rcases List.mem_cons.mp hy with rfl | hy
      · exact hi
      · exact h y hy
    · split at hy
      · rcases List.mem_cons.mp hy with rfl | hy
        · exact hi
        · exact ht y hy
      · rcases List.mem_cons.mp hy with rfl | hy
        · exact hk
        · exact ih ht y hy

theorem rising_ins (t : Tbl α) (i : Nat) (x : α) (h : rising t = true) : rising (ins t i x) = true := by
  induction t with
  | nil => rfl
  | cons e t ih =>
    obtain ⟨k, v⟩ := e
    obtain ⟨ha, hr⟩ := (rising_cons k v t).mp h
    simp only [ins]
    split
    · next h1 =>
      refine (rising_cons i x _).mpr ⟨?_, h⟩
      intro y hy
      rcases List.mem_cons.mp hy with rfl | hy
      · exact h1
      · exact Nat.lt_trans h1 (ha y hy)
    · split
      · next h1 h2 => subst h2; exact (rising_cons i x t).mpr ⟨ha, hr⟩
      · next h1 h2 => exact (rising_cons k v _).mpr ⟨above_ins x ha (by omega), ih hr⟩

theorem del_sub (t : Tbl α) (i : Nat) : ∀ e ∈ del t i, e ∈ t := by
  induction t with
  | nil => simp [del]
  | cons e t ih =>
    obtain ⟨k, v⟩ := e
    intro y hy
    simp only [del] at hy
    split at hy
    · exact hy
    · split at hy
      · exact List.mem_cons_of_mem _ hy
      · rcases List.mem_cons.mp hy with rfl | hy
        · exact List.mem_cons_self
        · exact List.mem_cons_of_mem _ (ih y hy)

theorem rising_del (t : Tbl α) (i : Nat) (h : rising t = true) : rising (del t i) = true := by
  induction t with
  | nil => rfl
  | cons e t ih =>
    obtain ⟨k, v⟩ := e
    obtain ⟨ha, hr⟩ := (rising_cons k v t).mp h
    simp only [del]
    split
    · exact h
    · split
      · exact hr
      · exact (rising_cons k v _).mpr ⟨fun y hy => ha y (del_sub t i y hy), ih hr⟩

theorem find_del_self (t : Tbl α) (i : Nat) (h : rising t = true) : find (del t i) i = none := by
  induction t with
  | nil => rfl
  | cons e t ih =>
    obtain ⟨k, v⟩ := e
    obtain ⟨ha, hr⟩ := (rising_cons k v t).mp h
    simp only [del]
    split
    · next h1 => simp [find, h1, Nat.ne_of_lt h1]
    · split
      · next h1 h2 => subst h2; exact find_above ha
      · next h1 h2 => simp [find, h1, h2, ih hr]

theorem find_del_other (t : Tbl α) {i j : Nat} (h : j ≠ i) (hr : rising t = true) : find (del t i) j = find t j := by
  induction t with
  | nil => rfl
  | cons e t ih =>
    obtain ⟨k, v⟩ := e
    obtain ⟨ha, hr'⟩ := (rising_cons k v t).mp hr
    simp only [del]
    split
    · rfl
    · split
      · next h1 h2 =>
        subst h2
        simp only [find, h, if_false]
        split
        · next h3 => exact find_above fun y hy => Nat.lt_trans h3 (ha y hy)
        · rfl
      · simp only [find, ih hr']

theorem ins_mem (t : Tbl α) (i : Nat) (x : α) : ∀ e ∈ ins t i x, e = (i, x) ∨ e ∈ t := by
  induction t with
  | nil => simp [ins]
  | cons e t ih =>
    obtain ⟨k, v⟩ := e
    intro y hy
    simp only [ins] at hy
    split at hy
    · exact List.mem_cons.mp hy
    · split at hy
      · rcases List.mem_cons.mp hy with rfl | hy
        · exact .inl rfl
        · exact .inr (List.mem_cons_of_mem _ hy)
      · rcases List.mem_cons.mp hy with rfl | hy
        · exact .inr List.mem_cons_self
        · rcases ih y hy with h | h
          · exact .inl h
          · exact .inr (List.mem_cons_of_mem _ h)

variable [DecidableEq α]

/-- A read of what was written gives it back. -/
theorem look_put_self (d : α) (t : Tbl α) (i : Nat) (x : α) (h : rising t = true) : look d (put d t i x) i = x := by
  unfold put look
  split
  · next hx => rw [find_del_self t i h, hx]; rfl
  · rw [find_ins_self]; rfl

/-- A write leaves every other key alone. -/
theorem look_put_other (d d' : α) (t : Tbl α) {i j : Nat} (x : α) (h : j ≠ i) (hr : rising t = true) :
    look d' (put d t i x) j = look d' t j := by
  unfold put look
  split
  · rw [find_del_other t h hr]
  · rw [find_ins_other t x h]

theorem rising_put (d : α) (t : Tbl α) (i : Nat) (x : α) (h : rising t = true) : rising (put d t i x) = true := by
  unfold put
  split
  · exact rising_del t i h
  · exact rising_ins t i x h

/-- A write keeps the canonical form: keys rising, and no entry that equals its default. -/
theorem canon_put (d : Nat → α) (t : Tbl α) (i : Nat) (x : α) (h : canon d t = true) : canon d (put (d i) t i x) = true := by
  simp only [canon, Bool.and_eq_true, List.all_eq_true, decide_eq_true_eq] at h ⊢
  refine ⟨rising_put (d i) t i x h.1, ?_⟩
  intro e he
  unfold put at he
  split at he
  · exact h.2 e (del_sub t i e he)
  · next hx =>
    rcases ins_mem t i x e he with rfl | hm
    · exact hx
    · exact h.2 e hm

end Sys2Proof.Machine.Tbl
end

