-- ==== Sys2Proof/Laws/Ops.lean ====
section
/-! SUPPORT. What the shared operations can change: counters touch the registers alone, a report joins the fault controller's list, settling
changes nothing where nothing waits. -/
namespace Sys2Proof.Machine

/-- A fold whose every step changes the registers alone does so too. -/
theorem foldl_reg {α : Type} (f : Mach → α → Mach) (hf : ∀ m a, ∃ r, f m a = { m with reg := r }) (l : List α) (m : Mach) :
    ∃ r, l.foldl f m = { m with reg := r } := by
  induction l generalizing m with
  | nil => exact ⟨m.reg, rfl⟩
  | cons a l ih =>
    obtain ⟨r, hr⟩ := hf m a
    obtain ⟨r', hr'⟩ := ih (f m a)
    exact ⟨r', by rw [List.foldl_cons, hr', hr]⟩

/-- A status field's write changes the registers alone. -/
theorem setSt_frame (m : Mach) (x : Fld) (v i j k : Nat) : ∃ r, m.setSt x v i j k = { m with reg := r } := ⟨_, rfl⟩

/-- Changes of the registers alone compose. -/
theorem reg_trans {m m₁ m₂ : Mach} (h₁ : ∃ r, m₁ = { m with reg := r }) (h₂ : ∃ r, m₂ = { m₁ with reg := r }) :
    ∃ r, m₂ = { m with reg := r } := by
  obtain ⟨r, rfl⟩ := h₁
  obtain ⟨r', rfl⟩ := h₂
  exact ⟨r', rfl⟩

theorem pmcAdd_frame (m : Mach) (b n x : Nat) : ∃ r, pmcAdd m b n x = { m with reg := r } := by
  unfold pmcAdd
  split
  · exact ⟨_, rfl⟩
  · extract_lets w m'
    have h : ∃ r, m' = { m with reg := r } := reg_trans (setSt_frame _ _ _ _ _ _) (setSt_frame _ _ _ _ _ _)
    split
    · exact reg_trans h (setSt_frame _ _ _ _ _ _)
    · exact h

theorem pmcChain_frame (c : Cfg) (fuel : Nat) (m : Mach) (b n : Nat) : ∃ r, pmcChain c fuel m b n = { m with reg := r } := by
  induction fuel generalizing m n with
  | zero => exact ⟨m.reg, rfl⟩
  | succ k ih =>
    unfold pmcChain
    split
    · split
      · exact reg_trans (pmcAdd_frame m b (n + 1) 1) (ih _ _)
      · exact pmcAdd_frame m b (n + 1) 1
    · exact ⟨m.reg, rfl⟩

/-- An event at a counter bank changes registers alone. -/
theorem pmcEvent_frame (c : Cfg) (m : Mach) (b ev x : Nat) : ∃ r, pmcEvent c m b ev x = { m with reg := r } := by
  unfold pmcEvent
  split
  · exact ⟨m.reg, rfl⟩
  · apply foldl_reg
    intro m n
    split
    · extract_lets key now last src m' add
      have h : ∃ r, m' = { m with reg := r } := ⟨_, rfl⟩
      split
      · exact reg_trans h (reg_trans (pmcAdd_frame m' b n add) (pmcChain_frame c 7 _ b n))
      · exact reg_trans h (pmcAdd_frame m' b n add)
    · exact ⟨m.reg, rfl⟩

/-- A counter's increment changes registers alone. -/
theorem bump_frame (c : Cfg) (m : Mach) (r : Reg) (i j k x : Nat) : ∃ g, bump c m r i j k x = { m with reg := g } := by
  unfold bump
  extract_lets a src m'
  have h : ∃ r, m' = { m with reg := r } := ⟨_, rfl⟩
  split
  · exact ⟨m.reg, rfl⟩
  · split
    · exact reg_trans h (pmcEvent_frame _ _ _ _ _)
    · exact h

/-- A raised reason changes registers alone. -/
theorem countReason_frame (c : Cfg) (m : Mach) (pipe code : Nat) : ∃ g, countReason c m pipe code = { m with reg := g } :=
  reg_trans (bump_frame _ _ _ _ _ _ _) (pmcEvent_frame _ _ _ _ _)

/-- A report on its way changes registers and the list of reports alone. -/
theorem sendReport_frame (c : Cfg) (m : Mach) (r : Report) :
    ∃ g, sendReport c m r = { m with reg := g, flt := { m.flt with waiting := m.flt.waiting ++ [r] } } := by
  unfold sendReport
  extract_lets src m'
  split
  · extract_lets m''
    have h : ∃ g, m'' = { m' with reg := g } := pmcEvent_frame _ _ _ _ _
    split
    · exact reg_trans h (pmcEvent_frame _ _ _ _ _)
    · exact h
  · exact ⟨m'.reg, rfl⟩

/-- A report changes registers and the list of reports alone. -/
theorem raise_frame (c : Cfg) (m : Mach) (cls inst sev detail : Nat) :
    ∃ g, raise c m cls inst sev detail = { m with
      reg := g
      flt := { m.flt with waiting := m.flt.waiting ++ [reportOf m (srcOf cls inst) sev detail] } } := sendReport_frame _ _ _

end Sys2Proof.Machine
end

