-- ==== Sys2Proof/Laws/State.lean ====
section
/-! SUPPORT. What the named updates of the machine leave as it was, field by field, and what is read back behind one: proofs cite these and
unfold no update. -/
namespace Sys2Proof.Machine

variable (m : Mach) (s : State)

/-! ### `Mach.putPage` -/
@[simp] theorem Mach.putPage_reg (p : Nat) (x : Page) : (m.putPage p x).reg = m.reg := rfl
@[simp] theorem Mach.putPage_glb (p : Nat) (x : Page) : (m.putPage p x).glb = m.glb := rfl
@[simp] theorem Mach.putPage_flt (p : Nat) (x : Page) : (m.putPage p x).flt = m.flt := rfl
@[simp] theorem Mach.putPage_hif (p : Nat) (x : Page) : (m.putPage p x).hif = m.hif := rfl
@[simp] theorem Mach.putPage_tod (p : Nat) (x : Page) : (m.putPage p x).tod = m.tod := rfl
@[simp] theorem Mach.putPage_pwr (p : Nat) (x : Page) : (m.putPage p x).pwr = m.pwr := rfl
@[simp] theorem Mach.putPage_fwd (p : Nat) (x : Page) : (m.putPage p x).fwd = m.fwd := rfl
@[simp] theorem Mach.putPage_sch (p : Nat) (x : Page) : (m.putPage p x).sch = m.sch := rfl
@[simp] theorem Mach.putPage_fsl (p : Nat) (x : Page) : (m.putPage p x).fsl = m.fsl := rfl
@[simp] theorem Mach.putPage_act (p : Nat) (x : Page) : (m.putPage p x).act = m.act := rfl
@[simp] theorem Mach.putPage_tsk (p : Nat) (x : Page) : (m.putPage p x).tsk = m.tsk := rfl
@[simp] theorem Mach.putPage_duo (p : Nat) (x : Page) : (m.putPage p x).duo = m.duo := rfl
@[simp] theorem Mach.putPage_ppl (p : Nat) (x : Page) : (m.putPage p x).ppl = m.ppl := rfl
@[simp] theorem Mach.putPage_msc (p : Nat) (x : Page) : (m.putPage p x).msc = m.msc := rfl
@[simp] theorem Mach.putPage_sec (p : Nat) (x : Page) : (m.putPage p x).sec = m.sec := rfl
@[simp] theorem Mach.putPage_up (p : Nat) (x : Page) : (m.putPage p x).up = m.up := rfl
@[simp] theorem Mach.putPage_free (p : Nat) (x : Page) : (m.putPage p x).free = m.free := rfl
@[simp] theorem Mach.putPage_out (p : Nat) (x : Page) : (m.putPage p x).out = m.out := rfl

/-! ### `Mach.setFdb` -/
@[simp] theorem Mach.setFdb_reg (p e : Nat) : (m.setFdb p e).reg = m.reg := rfl
@[simp] theorem Mach.setFdb_glb (p e : Nat) : (m.setFdb p e).glb = m.glb := rfl
@[simp] theorem Mach.setFdb_hif (p e : Nat) : (m.setFdb p e).hif = m.hif := rfl
@[simp] theorem Mach.setFdb_tod (p e : Nat) : (m.setFdb p e).tod = m.tod := rfl
@[simp] theorem Mach.setFdb_pwr (p e : Nat) : (m.setFdb p e).pwr = m.pwr := rfl
@[simp] theorem Mach.setFdb_tmg (p e : Nat) : (m.setFdb p e).tmg = m.tmg := rfl
@[simp] theorem Mach.setFdb_sch (p e : Nat) : (m.setFdb p e).sch = m.sch := rfl
@[simp] theorem Mach.setFdb_fsl (p e : Nat) : (m.setFdb p e).fsl = m.fsl := rfl
@[simp] theorem Mach.setFdb_act (p e : Nat) : (m.setFdb p e).act = m.act := rfl
@[simp] theorem Mach.setFdb_tsk (p e : Nat) : (m.setFdb p e).tsk = m.tsk := rfl
@[simp] theorem Mach.setFdb_duo (p e : Nat) : (m.setFdb p e).duo = m.duo := rfl
@[simp] theorem Mach.setFdb_ppl (p e : Nat) : (m.setFdb p e).ppl = m.ppl := rfl
@[simp] theorem Mach.setFdb_msc (p e : Nat) : (m.setFdb p e).msc = m.msc := rfl
@[simp] theorem Mach.setFdb_sec (p e : Nat) : (m.setFdb p e).sec = m.sec := rfl
@[simp] theorem Mach.setFdb_up (p e : Nat) : (m.setFdb p e).up = m.up := rfl
@[simp] theorem Mach.setFdb_free (p e : Nat) : (m.setFdb p e).free = m.free := rfl
@[simp] theorem Mach.setFdb_out (p e : Nat) : (m.setFdb p e).out = m.out := rfl

/-! ### `Mach.putHbm` -/
@[simp] theorem Mach.putHbm_reg (region pos : Nat) (r : Option Rec) : (m.putHbm region pos r).reg = m.reg := rfl
@[simp] theorem Mach.putHbm_glb (region pos : Nat) (r : Option Rec) : (m.putHbm region pos r).glb = m.glb := rfl
@[simp] theorem Mach.putHbm_flt (region pos : Nat) (r : Option Rec) : (m.putHbm region pos r).flt = m.flt := rfl
@[simp] theorem Mach.putHbm_hif (region pos : Nat) (r : Option Rec) : (m.putHbm region pos r).hif = m.hif := rfl
@[simp] theorem Mach.putHbm_tod (region pos : Nat) (r : Option Rec) : (m.putHbm region pos r).tod = m.tod := rfl
@[simp] theorem Mach.putHbm_pwr (region pos : Nat) (r : Option Rec) : (m.putHbm region pos r).pwr = m.pwr := rfl
@[simp] theorem Mach.putHbm_fwd (region pos : Nat) (r : Option Rec) : (m.putHbm region pos r).fwd = m.fwd := rfl
@[simp] theorem Mach.putHbm_tmg (region pos : Nat) (r : Option Rec) : (m.putHbm region pos r).tmg = m.tmg := rfl
@[simp] theorem Mach.putHbm_sch (region pos : Nat) (r : Option Rec) : (m.putHbm region pos r).sch = m.sch := rfl
@[simp] theorem Mach.putHbm_act (region pos : Nat) (r : Option Rec) : (m.putHbm region pos r).act = m.act := rfl
@[simp] theorem Mach.putHbm_tsk (region pos : Nat) (r : Option Rec) : (m.putHbm region pos r).tsk = m.tsk := rfl
@[simp] theorem Mach.putHbm_duo (region pos : Nat) (r : Option Rec) : (m.putHbm region pos r).duo = m.duo := rfl
@[simp] theorem Mach.putHbm_ppl (region pos : Nat) (r : Option Rec) : (m.putHbm region pos r).ppl = m.ppl := rfl
@[simp] theorem Mach.putHbm_msc (region pos : Nat) (r : Option Rec) : (m.putHbm region pos r).msc = m.msc := rfl
@[simp] theorem Mach.putHbm_sec (region pos : Nat) (r : Option Rec) : (m.putHbm region pos r).sec = m.sec := rfl
@[simp] theorem Mach.putHbm_up (region pos : Nat) (r : Option Rec) : (m.putHbm region pos r).up = m.up := rfl
@[simp] theorem Mach.putHbm_free (region pos : Nat) (r : Option Rec) : (m.putHbm region pos r).free = m.free := rfl
@[simp] theorem Mach.putHbm_out (region pos : Nat) (r : Option Rec) : (m.putHbm region pos r).out = m.out := rfl

/-! ### `Mach.putStash` -/
@[simp] theorem Mach.putStash_reg (region : Nat) (l : List Rec) : (m.putStash region l).reg = m.reg := rfl
@[simp] theorem Mach.putStash_glb (region : Nat) (l : List Rec) : (m.putStash region l).glb = m.glb := rfl
@[simp] theorem Mach.putStash_flt (region : Nat) (l : List Rec) : (m.putStash region l).flt = m.flt := rfl
@[simp] theorem Mach.putStash_hif (region : Nat) (l : List Rec) : (m.putStash region l).hif = m.hif := rfl
@[simp] theorem Mach.putStash_tod (region : Nat) (l : List Rec) : (m.putStash region l).tod = m.tod := rfl
@[simp] theorem Mach.putStash_pwr (region : Nat) (l : List Rec) : (m.putStash region l).pwr = m.pwr := rfl
@[simp] theorem Mach.putStash_fwd (region : Nat) (l : List Rec) : (m.putStash region l).fwd = m.fwd := rfl
@[simp] theorem Mach.putStash_tmg (region : Nat) (l : List Rec) : (m.putStash region l).tmg = m.tmg := rfl
@[simp] theorem Mach.putStash_sch (region : Nat) (l : List Rec) : (m.putStash region l).sch = m.sch := rfl
@[simp] theorem Mach.putStash_act (region : Nat) (l : List Rec) : (m.putStash region l).act = m.act := rfl
@[simp] theorem Mach.putStash_tsk (region : Nat) (l : List Rec) : (m.putStash region l).tsk = m.tsk := rfl
@[simp] theorem Mach.putStash_duo (region : Nat) (l : List Rec) : (m.putStash region l).duo = m.duo := rfl
@[simp] theorem Mach.putStash_ppl (region : Nat) (l : List Rec) : (m.putStash region l).ppl = m.ppl := rfl
@[simp] theorem Mach.putStash_msc (region : Nat) (l : List Rec) : (m.putStash region l).msc = m.msc := rfl
@[simp] theorem Mach.putStash_sec (region : Nat) (l : List Rec) : (m.putStash region l).sec = m.sec := rfl
@[simp] theorem Mach.putStash_up (region : Nat) (l : List Rec) : (m.putStash region l).up = m.up := rfl
@[simp] theorem Mach.putStash_free (region : Nat) (l : List Rec) : (m.putStash region l).free = m.free := rfl
@[simp] theorem Mach.putStash_out (region : Nat) (l : List Rec) : (m.putStash region l).out = m.out := rfl

/-! ### `Mach.inc32` -/
@[simp] theorem Mach.inc32_glb (x : Fld) (i j k : Nat) : (m.inc32 x i j k).glb = m.glb := rfl
@[simp] theorem Mach.inc32_flt (x : Fld) (i j k : Nat) : (m.inc32 x i j k).flt = m.flt := rfl
@[simp] theorem Mach.inc32_hif (x : Fld) (i j k : Nat) : (m.inc32 x i j k).hif = m.hif := rfl
@[simp] theorem Mach.inc32_tod (x : Fld) (i j k : Nat) : (m.inc32 x i j k).tod = m.tod := rfl
@[simp] theorem Mach.inc32_pwr (x : Fld) (i j k : Nat) : (m.inc32 x i j k).pwr = m.pwr := rfl
@[simp] theorem Mach.inc32_fwd (x : Fld) (i j k : Nat) : (m.inc32 x i j k).fwd = m.fwd := rfl
@[simp] theorem Mach.inc32_tmg (x : Fld) (i j k : Nat) : (m.inc32 x i j k).tmg = m.tmg := rfl
@[simp] theorem Mach.inc32_sch (x : Fld) (i j k : Nat) : (m.inc32 x i j k).sch = m.sch := rfl
@[simp] theorem Mach.inc32_fsl (x : Fld) (i j k : Nat) : (m.inc32 x i j k).fsl = m.fsl := rfl
@[simp] theorem Mach.inc32_act (x : Fld) (i j k : Nat) : (m.inc32 x i j k).act = m.act := rfl
@[simp] theorem Mach.inc32_tsk (x : Fld) (i j k : Nat) : (m.inc32 x i j k).tsk = m.tsk := rfl
@[simp] theorem Mach.inc32_duo (x : Fld) (i j k : Nat) : (m.inc32 x i j k).duo = m.duo := rfl
@[simp] theorem Mach.inc32_ppl (x : Fld) (i j k : Nat) : (m.inc32 x i j k).ppl = m.ppl := rfl
@[simp] theorem Mach.inc32_msc (x : Fld) (i j k : Nat) : (m.inc32 x i j k).msc = m.msc := rfl
@[simp] theorem Mach.inc32_sec (x : Fld) (i j k : Nat) : (m.inc32 x i j k).sec = m.sec := rfl
@[simp] theorem Mach.inc32_up (x : Fld) (i j k : Nat) : (m.inc32 x i j k).up = m.up := rfl
@[simp] theorem Mach.inc32_free (x : Fld) (i j k : Nat) : (m.inc32 x i j k).free = m.free := rfl
@[simp] theorem Mach.inc32_out (x : Fld) (i j k : Nat) : (m.inc32 x i j k).out = m.out := rfl

/-! ### `Mach.setRing` -/
@[simp] theorem Mach.setRing_reg (r : Nat) (x : Ring) : (m.setRing r x).reg = m.reg := rfl
@[simp] theorem Mach.setRing_glb (r : Nat) (x : Ring) : (m.setRing r x).glb = m.glb := rfl
@[simp] theorem Mach.setRing_flt (r : Nat) (x : Ring) : (m.setRing r x).flt = m.flt := rfl
@[simp] theorem Mach.setRing_tod (r : Nat) (x : Ring) : (m.setRing r x).tod = m.tod := rfl
@[simp] theorem Mach.setRing_pwr (r : Nat) (x : Ring) : (m.setRing r x).pwr = m.pwr := rfl
@[simp] theorem Mach.setRing_fwd (r : Nat) (x : Ring) : (m.setRing r x).fwd = m.fwd := rfl
@[simp] theorem Mach.setRing_tmg (r : Nat) (x : Ring) : (m.setRing r x).tmg = m.tmg := rfl
@[simp] theorem Mach.setRing_sch (r : Nat) (x : Ring) : (m.setRing r x).sch = m.sch := rfl
@[simp] theorem Mach.setRing_fsl (r : Nat) (x : Ring) : (m.setRing r x).fsl = m.fsl := rfl
@[simp] theorem Mach.setRing_act (r : Nat) (x : Ring) : (m.setRing r x).act = m.act := rfl
@[simp] theorem Mach.setRing_tsk (r : Nat) (x : Ring) : (m.setRing r x).tsk = m.tsk := rfl
@[simp] theorem Mach.setRing_duo (r : Nat) (x : Ring) : (m.setRing r x).duo = m.duo := rfl
@[simp] theorem Mach.setRing_ppl (r : Nat) (x : Ring) : (m.setRing r x).ppl = m.ppl := rfl
@[simp] theorem Mach.setRing_msc (r : Nat) (x : Ring) : (m.setRing r x).msc = m.msc := rfl
@[simp] theorem Mach.setRing_sec (r : Nat) (x : Ring) : (m.setRing r x).sec = m.sec := rfl
@[simp] theorem Mach.setRing_up (r : Nat) (x : Ring) : (m.setRing r x).up = m.up := rfl
@[simp] theorem Mach.setRing_free (r : Nat) (x : Ring) : (m.setRing r x).free = m.free := rfl
@[simp] theorem Mach.setRing_out (r : Nat) (x : Ring) : (m.setRing r x).out = m.out := rfl

/-! ### `Mach.setPort` -/
@[simp] theorem Mach.setPort_reg (p : Nat) (x : HostPort) : (m.setPort p x).reg = m.reg := rfl
@[simp] theorem Mach.setPort_glb (p : Nat) (x : HostPort) : (m.setPort p x).glb = m.glb := rfl
@[simp] theorem Mach.setPort_flt (p : Nat) (x : HostPort) : (m.setPort p x).flt = m.flt := rfl
@[simp] theorem Mach.setPort_tod (p : Nat) (x : HostPort) : (m.setPort p x).tod = m.tod := rfl
@[simp] theorem Mach.setPort_pwr (p : Nat) (x : HostPort) : (m.setPort p x).pwr = m.pwr := rfl
@[simp] theorem Mach.setPort_fwd (p : Nat) (x : HostPort) : (m.setPort p x).fwd = m.fwd := rfl
@[simp] theorem Mach.setPort_tmg (p : Nat) (x : HostPort) : (m.setPort p x).tmg = m.tmg := rfl
@[simp] theorem Mach.setPort_sch (p : Nat) (x : HostPort) : (m.setPort p x).sch = m.sch := rfl
@[simp] theorem Mach.setPort_fsl (p : Nat) (x : HostPort) : (m.setPort p x).fsl = m.fsl := rfl
@[simp] theorem Mach.setPort_act (p : Nat) (x : HostPort) : (m.setPort p x).act = m.act := rfl
@[simp] theorem Mach.setPort_tsk (p : Nat) (x : HostPort) : (m.setPort p x).tsk = m.tsk := rfl
@[simp] theorem Mach.setPort_duo (p : Nat) (x : HostPort) : (m.setPort p x).duo = m.duo := rfl
@[simp] theorem Mach.setPort_ppl (p : Nat) (x : HostPort) : (m.setPort p x).ppl = m.ppl := rfl
@[simp] theorem Mach.setPort_msc (p : Nat) (x : HostPort) : (m.setPort p x).msc = m.msc := rfl
@[simp] theorem Mach.setPort_sec (p : Nat) (x : HostPort) : (m.setPort p x).sec = m.sec := rfl
@[simp] theorem Mach.setPort_up (p : Nat) (x : HostPort) : (m.setPort p x).up = m.up := rfl
@[simp] theorem Mach.setPort_free (p : Nat) (x : HostPort) : (m.setPort p x).free = m.free := rfl
@[simp] theorem Mach.setPort_out (p : Nat) (x : HostPort) : (m.setPort p x).out = m.out := rfl

/-! ### `Mach.setCore` -/
@[simp] theorem Mach.setCore_reg (n : Nat) (x : Core) : (m.setCore n x).reg = m.reg := rfl
@[simp] theorem Mach.setCore_glb (n : Nat) (x : Core) : (m.setCore n x).glb = m.glb := rfl
@[simp] theorem Mach.setCore_flt (n : Nat) (x : Core) : (m.setCore n x).flt = m.flt := rfl
@[simp] theorem Mach.setCore_hif (n : Nat) (x : Core) : (m.setCore n x).hif = m.hif := rfl
@[simp] theorem Mach.setCore_tod (n : Nat) (x : Core) : (m.setCore n x).tod = m.tod := rfl
@[simp] theorem Mach.setCore_pwr (n : Nat) (x : Core) : (m.setCore n x).pwr = m.pwr := rfl
@[simp] theorem Mach.setCore_fwd (n : Nat) (x : Core) : (m.setCore n x).fwd = m.fwd := rfl
@[simp] theorem Mach.setCore_tmg (n : Nat) (x : Core) : (m.setCore n x).tmg = m.tmg := rfl
@[simp] theorem Mach.setCore_sch (n : Nat) (x : Core) : (m.setCore n x).sch = m.sch := rfl
@[simp] theorem Mach.setCore_fsl (n : Nat) (x : Core) : (m.setCore n x).fsl = m.fsl := rfl
@[simp] theorem Mach.setCore_act (n : Nat) (x : Core) : (m.setCore n x).act = m.act := rfl
@[simp] theorem Mach.setCore_duo (n : Nat) (x : Core) : (m.setCore n x).duo = m.duo := rfl
@[simp] theorem Mach.setCore_ppl (n : Nat) (x : Core) : (m.setCore n x).ppl = m.ppl := rfl
@[simp] theorem Mach.setCore_msc (n : Nat) (x : Core) : (m.setCore n x).msc = m.msc := rfl
@[simp] theorem Mach.setCore_sec (n : Nat) (x : Core) : (m.setCore n x).sec = m.sec := rfl
@[simp] theorem Mach.setCore_up (n : Nat) (x : Core) : (m.setCore n x).up = m.up := rfl
@[simp] theorem Mach.setCore_free (n : Nat) (x : Core) : (m.setCore n x).free = m.free := rfl
@[simp] theorem Mach.setCore_out (n : Nat) (x : Core) : (m.setCore n x).out = m.out := rfl

/-! ### `Mach.setWq` -/
@[simp] theorem Mach.setWq_reg (q : Nat) (x : WQueue) : (m.setWq q x).reg = m.reg := rfl
@[simp] theorem Mach.setWq_glb (q : Nat) (x : WQueue) : (m.setWq q x).glb = m.glb := rfl
@[simp] theorem Mach.setWq_flt (q : Nat) (x : WQueue) : (m.setWq q x).flt = m.flt := rfl
@[simp] theorem Mach.setWq_hif (q : Nat) (x : WQueue) : (m.setWq q x).hif = m.hif := rfl
@[simp] theorem Mach.setWq_tod (q : Nat) (x : WQueue) : (m.setWq q x).tod = m.tod := rfl
@[simp] theorem Mach.setWq_pwr (q : Nat) (x : WQueue) : (m.setWq q x).pwr = m.pwr := rfl
@[simp] theorem Mach.setWq_fwd (q : Nat) (x : WQueue) : (m.setWq q x).fwd = m.fwd := rfl
@[simp] theorem Mach.setWq_tmg (q : Nat) (x : WQueue) : (m.setWq q x).tmg = m.tmg := rfl
@[simp] theorem Mach.setWq_sch (q : Nat) (x : WQueue) : (m.setWq q x).sch = m.sch := rfl
@[simp] theorem Mach.setWq_fsl (q : Nat) (x : WQueue) : (m.setWq q x).fsl = m.fsl := rfl
@[simp] theorem Mach.setWq_act (q : Nat) (x : WQueue) : (m.setWq q x).act = m.act := rfl
@[simp] theorem Mach.setWq_duo (q : Nat) (x : WQueue) : (m.setWq q x).duo = m.duo := rfl
@[simp] theorem Mach.setWq_ppl (q : Nat) (x : WQueue) : (m.setWq q x).ppl = m.ppl := rfl
@[simp] theorem Mach.setWq_msc (q : Nat) (x : WQueue) : (m.setWq q x).msc = m.msc := rfl
@[simp] theorem Mach.setWq_sec (q : Nat) (x : WQueue) : (m.setWq q x).sec = m.sec := rfl
@[simp] theorem Mach.setWq_up (q : Nat) (x : WQueue) : (m.setWq q x).up = m.up := rfl
@[simp] theorem Mach.setWq_free (q : Nat) (x : WQueue) : (m.setWq q x).free = m.free := rfl
@[simp] theorem Mach.setWq_out (q : Nat) (x : WQueue) : (m.setWq q x).out = m.out := rfl

/-! ### `Mach.setEnt` -/
@[simp] theorem Mach.setEnt_reg (e n : Nat) (b : Bool) : (m.setEnt e n b).reg = m.reg := rfl
@[simp] theorem Mach.setEnt_glb (e n : Nat) (b : Bool) : (m.setEnt e n b).glb = m.glb := rfl
@[simp] theorem Mach.setEnt_flt (e n : Nat) (b : Bool) : (m.setEnt e n b).flt = m.flt := rfl
@[simp] theorem Mach.setEnt_hif (e n : Nat) (b : Bool) : (m.setEnt e n b).hif = m.hif := rfl
@[simp] theorem Mach.setEnt_tod (e n : Nat) (b : Bool) : (m.setEnt e n b).tod = m.tod := rfl
@[simp] theorem Mach.setEnt_pwr (e n : Nat) (b : Bool) : (m.setEnt e n b).pwr = m.pwr := rfl
@[simp] theorem Mach.setEnt_fwd (e n : Nat) (b : Bool) : (m.setEnt e n b).fwd = m.fwd := rfl
@[simp] theorem Mach.setEnt_tmg (e n : Nat) (b : Bool) : (m.setEnt e n b).tmg = m.tmg := rfl
@[simp] theorem Mach.setEnt_sch (e n : Nat) (b : Bool) : (m.setEnt e n b).sch = m.sch := rfl
@[simp] theorem Mach.setEnt_fsl (e n : Nat) (b : Bool) : (m.setEnt e n b).fsl = m.fsl := rfl
@[simp] theorem Mach.setEnt_act (e n : Nat) (b : Bool) : (m.setEnt e n b).act = m.act := rfl
@[simp] theorem Mach.setEnt_tsk (e n : Nat) (b : Bool) : (m.setEnt e n b).tsk = m.tsk := rfl
@[simp] theorem Mach.setEnt_ppl (e n : Nat) (b : Bool) : (m.setEnt e n b).ppl = m.ppl := rfl
@[simp] theorem Mach.setEnt_msc (e n : Nat) (b : Bool) : (m.setEnt e n b).msc = m.msc := rfl
@[simp] theorem Mach.setEnt_sec (e n : Nat) (b : Bool) : (m.setEnt e n b).sec = m.sec := rfl
@[simp] theorem Mach.setEnt_up (e n : Nat) (b : Bool) : (m.setEnt e n b).up = m.up := rfl
@[simp] theorem Mach.setEnt_free (e n : Nat) (b : Bool) : (m.setEnt e n b).free = m.free := rfl
@[simp] theorem Mach.setEnt_out (e n : Nat) (b : Bool) : (m.setEnt e n b).out = m.out := rfl

/-! ### `Mach.setLink` -/
@[simp] theorem Mach.setLink_reg (p : Nat) (x : Link) : (m.setLink p x).reg = m.reg := rfl
@[simp] theorem Mach.setLink_glb (p : Nat) (x : Link) : (m.setLink p x).glb = m.glb := rfl
@[simp] theorem Mach.setLink_flt (p : Nat) (x : Link) : (m.setLink p x).flt = m.flt := rfl
@[simp] theorem Mach.setLink_hif (p : Nat) (x : Link) : (m.setLink p x).hif = m.hif := rfl
@[simp] theorem Mach.setLink_tod (p : Nat) (x : Link) : (m.setLink p x).tod = m.tod := rfl
@[simp] theorem Mach.setLink_pwr (p : Nat) (x : Link) : (m.setLink p x).pwr = m.pwr := rfl
@[simp] theorem Mach.setLink_fwd (p : Nat) (x : Link) : (m.setLink p x).fwd = m.fwd := rfl
@[simp] theorem Mach.setLink_tmg (p : Nat) (x : Link) : (m.setLink p x).tmg = m.tmg := rfl
@[simp] theorem Mach.setLink_sch (p : Nat) (x : Link) : (m.setLink p x).sch = m.sch := rfl
@[simp] theorem Mach.setLink_fsl (p : Nat) (x : Link) : (m.setLink p x).fsl = m.fsl := rfl
@[simp] theorem Mach.setLink_act (p : Nat) (x : Link) : (m.setLink p x).act = m.act := rfl
@[simp] theorem Mach.setLink_tsk (p : Nat) (x : Link) : (m.setLink p x).tsk = m.tsk := rfl
@[simp] theorem Mach.setLink_ppl (p : Nat) (x : Link) : (m.setLink p x).ppl = m.ppl := rfl
@[simp] theorem Mach.setLink_msc (p : Nat) (x : Link) : (m.setLink p x).msc = m.msc := rfl
@[simp] theorem Mach.setLink_sec (p : Nat) (x : Link) : (m.setLink p x).sec = m.sec := rfl
@[simp] theorem Mach.setLink_up (p : Nat) (x : Link) : (m.setLink p x).up = m.up := rfl
@[simp] theorem Mach.setLink_free (p : Nat) (x : Link) : (m.setLink p x).free = m.free := rfl
@[simp] theorem Mach.setLink_out (p : Nat) (x : Link) : (m.setLink p x).out = m.out := rfl

/-! ### `Mach.setClass` -/
@[simp] theorem Mach.setClass_reg (k : Nat) (x : ClassSt) : (m.setClass k x).reg = m.reg := rfl
@[simp] theorem Mach.setClass_glb (k : Nat) (x : ClassSt) : (m.setClass k x).glb = m.glb := rfl
@[simp] theorem Mach.setClass_hif (k : Nat) (x : ClassSt) : (m.setClass k x).hif = m.hif := rfl
@[simp] theorem Mach.setClass_tod (k : Nat) (x : ClassSt) : (m.setClass k x).tod = m.tod := rfl
@[simp] theorem Mach.setClass_pwr (k : Nat) (x : ClassSt) : (m.setClass k x).pwr = m.pwr := rfl
@[simp] theorem Mach.setClass_fwd (k : Nat) (x : ClassSt) : (m.setClass k x).fwd = m.fwd := rfl
@[simp] theorem Mach.setClass_tmg (k : Nat) (x : ClassSt) : (m.setClass k x).tmg = m.tmg := rfl
@[simp] theorem Mach.setClass_sch (k : Nat) (x : ClassSt) : (m.setClass k x).sch = m.sch := rfl
@[simp] theorem Mach.setClass_fsl (k : Nat) (x : ClassSt) : (m.setClass k x).fsl = m.fsl := rfl
@[simp] theorem Mach.setClass_act (k : Nat) (x : ClassSt) : (m.setClass k x).act = m.act := rfl
@[simp] theorem Mach.setClass_tsk (k : Nat) (x : ClassSt) : (m.setClass k x).tsk = m.tsk := rfl
@[simp] theorem Mach.setClass_duo (k : Nat) (x : ClassSt) : (m.setClass k x).duo = m.duo := rfl
@[simp] theorem Mach.setClass_ppl (k : Nat) (x : ClassSt) : (m.setClass k x).ppl = m.ppl := rfl
@[simp] theorem Mach.setClass_msc (k : Nat) (x : ClassSt) : (m.setClass k x).msc = m.msc := rfl
@[simp] theorem Mach.setClass_sec (k : Nat) (x : ClassSt) : (m.setClass k x).sec = m.sec := rfl
@[simp] theorem Mach.setClass_up (k : Nat) (x : ClassSt) : (m.setClass k x).up = m.up := rfl
@[simp] theorem Mach.setClass_free (k : Nat) (x : ClassSt) : (m.setClass k x).free = m.free := rfl
@[simp] theorem Mach.setClass_out (k : Nat) (x : ClassSt) : (m.setClass k x).out = m.out := rfl

/-! ### `Mach.setCell` -/
@[simp] theorem Mach.setCell_reg (p : Nat) (x : Machine.Cell) : (m.setCell p x).reg = m.reg := rfl
@[simp] theorem Mach.setCell_glb (p : Nat) (x : Machine.Cell) : (m.setCell p x).glb = m.glb := rfl
@[simp] theorem Mach.setCell_flt (p : Nat) (x : Machine.Cell) : (m.setCell p x).flt = m.flt := rfl
@[simp] theorem Mach.setCell_hif (p : Nat) (x : Machine.Cell) : (m.setCell p x).hif = m.hif := rfl
@[simp] theorem Mach.setCell_tod (p : Nat) (x : Machine.Cell) : (m.setCell p x).tod = m.tod := rfl
@[simp] theorem Mach.setCell_pwr (p : Nat) (x : Machine.Cell) : (m.setCell p x).pwr = m.pwr := rfl
@[simp] theorem Mach.setCell_fwd (p : Nat) (x : Machine.Cell) : (m.setCell p x).fwd = m.fwd := rfl
@[simp] theorem Mach.setCell_sch (p : Nat) (x : Machine.Cell) : (m.setCell p x).sch = m.sch := rfl
@[simp] theorem Mach.setCell_fsl (p : Nat) (x : Machine.Cell) : (m.setCell p x).fsl = m.fsl := rfl
@[simp] theorem Mach.setCell_act (p : Nat) (x : Machine.Cell) : (m.setCell p x).act = m.act := rfl
@[simp] theorem Mach.setCell_tsk (p : Nat) (x : Machine.Cell) : (m.setCell p x).tsk = m.tsk := rfl
@[simp] theorem Mach.setCell_duo (p : Nat) (x : Machine.Cell) : (m.setCell p x).duo = m.duo := rfl
@[simp] theorem Mach.setCell_ppl (p : Nat) (x : Machine.Cell) : (m.setCell p x).ppl = m.ppl := rfl
@[simp] theorem Mach.setCell_msc (p : Nat) (x : Machine.Cell) : (m.setCell p x).msc = m.msc := rfl
@[simp] theorem Mach.setCell_sec (p : Nat) (x : Machine.Cell) : (m.setCell p x).sec = m.sec := rfl
@[simp] theorem Mach.setCell_up (p : Nat) (x : Machine.Cell) : (m.setCell p x).up = m.up := rfl
@[simp] theorem Mach.setCell_free (p : Nat) (x : Machine.Cell) : (m.setCell p x).free = m.free := rfl
@[simp] theorem Mach.setCell_out (p : Nat) (x : Machine.Cell) : (m.setCell p x).out = m.out := rfl

/-! ### `Mach.setBank` -/
@[simp] theorem Mach.setBank_reg (b : Nat) (x : Bank) : (m.setBank b x).reg = m.reg := rfl
@[simp] theorem Mach.setBank_glb (b : Nat) (x : Bank) : (m.setBank b x).glb = m.glb := rfl
@[simp] theorem Mach.setBank_flt (b : Nat) (x : Bank) : (m.setBank b x).flt = m.flt := rfl
@[simp] theorem Mach.setBank_hif (b : Nat) (x : Bank) : (m.setBank b x).hif = m.hif := rfl
@[simp] theorem Mach.setBank_tod (b : Nat) (x : Bank) : (m.setBank b x).tod = m.tod := rfl
@[simp] theorem Mach.setBank_pwr (b : Nat) (x : Bank) : (m.setBank b x).pwr = m.pwr := rfl
@[simp] theorem Mach.setBank_fwd (b : Nat) (x : Bank) : (m.setBank b x).fwd = m.fwd := rfl
@[simp] theorem Mach.setBank_sch (b : Nat) (x : Bank) : (m.setBank b x).sch = m.sch := rfl
@[simp] theorem Mach.setBank_fsl (b : Nat) (x : Bank) : (m.setBank b x).fsl = m.fsl := rfl
@[simp] theorem Mach.setBank_act (b : Nat) (x : Bank) : (m.setBank b x).act = m.act := rfl
@[simp] theorem Mach.setBank_tsk (b : Nat) (x : Bank) : (m.setBank b x).tsk = m.tsk := rfl
@[simp] theorem Mach.setBank_duo (b : Nat) (x : Bank) : (m.setBank b x).duo = m.duo := rfl
@[simp] theorem Mach.setBank_ppl (b : Nat) (x : Bank) : (m.setBank b x).ppl = m.ppl := rfl
@[simp] theorem Mach.setBank_msc (b : Nat) (x : Bank) : (m.setBank b x).msc = m.msc := rfl
@[simp] theorem Mach.setBank_sec (b : Nat) (x : Bank) : (m.setBank b x).sec = m.sec := rfl
@[simp] theorem Mach.setBank_up (b : Nat) (x : Bank) : (m.setBank b x).up = m.up := rfl
@[simp] theorem Mach.setBank_free (b : Nat) (x : Bank) : (m.setBank b x).free = m.free := rfl
@[simp] theorem Mach.setBank_out (b : Nat) (x : Bank) : (m.setBank b x).out = m.out := rfl

/-! ### `Mach.setPage` -/
@[simp] theorem Mach.setPage_reg (p : Nat) (x : Page) : (m.setPage p x).reg = m.reg := rfl
@[simp] theorem Mach.setPage_glb (p : Nat) (x : Page) : (m.setPage p x).glb = m.glb := rfl
@[simp] theorem Mach.setPage_flt (p : Nat) (x : Page) : (m.setPage p x).flt = m.flt := rfl
@[simp] theorem Mach.setPage_hif (p : Nat) (x : Page) : (m.setPage p x).hif = m.hif := rfl
@[simp] theorem Mach.setPage_tod (p : Nat) (x : Page) : (m.setPage p x).tod = m.tod := rfl
@[simp] theorem Mach.setPage_pwr (p : Nat) (x : Page) : (m.setPage p x).pwr = m.pwr := rfl
@[simp] theorem Mach.setPage_fwd (p : Nat) (x : Page) : (m.setPage p x).fwd = m.fwd := rfl
@[simp] theorem Mach.setPage_sch (p : Nat) (x : Page) : (m.setPage p x).sch = m.sch := rfl
@[simp] theorem Mach.setPage_fsl (p : Nat) (x : Page) : (m.setPage p x).fsl = m.fsl := rfl
@[simp] theorem Mach.setPage_act (p : Nat) (x : Page) : (m.setPage p x).act = m.act := rfl
@[simp] theorem Mach.setPage_tsk (p : Nat) (x : Page) : (m.setPage p x).tsk = m.tsk := rfl
@[simp] theorem Mach.setPage_duo (p : Nat) (x : Page) : (m.setPage p x).duo = m.duo := rfl
@[simp] theorem Mach.setPage_ppl (p : Nat) (x : Page) : (m.setPage p x).ppl = m.ppl := rfl
@[simp] theorem Mach.setPage_msc (p : Nat) (x : Page) : (m.setPage p x).msc = m.msc := rfl
@[simp] theorem Mach.setPage_sec (p : Nat) (x : Page) : (m.setPage p x).sec = m.sec := rfl
@[simp] theorem Mach.setPage_up (p : Nat) (x : Page) : (m.setPage p x).up = m.up := rfl
@[simp] theorem Mach.setPage_free (p : Nat) (x : Page) : (m.setPage p x).free = m.free := rfl
@[simp] theorem Mach.setPage_out (p : Nat) (x : Page) : (m.setPage p x).out = m.out := rfl

/-! ### `Mach.setQueue` -/
@[simp] theorem Mach.setQueue_reg (q : Nat) (x : Queue) : (m.setQueue q x).reg = m.reg := rfl
@[simp] theorem Mach.setQueue_glb (q : Nat) (x : Queue) : (m.setQueue q x).glb = m.glb := rfl
@[simp] theorem Mach.setQueue_flt (q : Nat) (x : Queue) : (m.setQueue q x).flt = m.flt := rfl
@[simp] theorem Mach.setQueue_hif (q : Nat) (x : Queue) : (m.setQueue q x).hif = m.hif := rfl
@[simp] theorem Mach.setQueue_tod (q : Nat) (x : Queue) : (m.setQueue q x).tod = m.tod := rfl
@[simp] theorem Mach.setQueue_pwr (q : Nat) (x : Queue) : (m.setQueue q x).pwr = m.pwr := rfl
@[simp] theorem Mach.setQueue_fwd (q : Nat) (x : Queue) : (m.setQueue q x).fwd = m.fwd := rfl
@[simp] theorem Mach.setQueue_sch (q : Nat) (x : Queue) : (m.setQueue q x).sch = m.sch := rfl
@[simp] theorem Mach.setQueue_fsl (q : Nat) (x : Queue) : (m.setQueue q x).fsl = m.fsl := rfl
@[simp] theorem Mach.setQueue_act (q : Nat) (x : Queue) : (m.setQueue q x).act = m.act := rfl
@[simp] theorem Mach.setQueue_tsk (q : Nat) (x : Queue) : (m.setQueue q x).tsk = m.tsk := rfl
@[simp] theorem Mach.setQueue_duo (q : Nat) (x : Queue) : (m.setQueue q x).duo = m.duo := rfl
@[simp] theorem Mach.setQueue_ppl (q : Nat) (x : Queue) : (m.setQueue q x).ppl = m.ppl := rfl
@[simp] theorem Mach.setQueue_msc (q : Nat) (x : Queue) : (m.setQueue q x).msc = m.msc := rfl
@[simp] theorem Mach.setQueue_sec (q : Nat) (x : Queue) : (m.setQueue q x).sec = m.sec := rfl
@[simp] theorem Mach.setQueue_up (q : Nat) (x : Queue) : (m.setQueue q x).up = m.up := rfl
@[simp] theorem Mach.setQueue_free (q : Nat) (x : Queue) : (m.setQueue q x).free = m.free := rfl
@[simp] theorem Mach.setQueue_out (q : Nat) (x : Queue) : (m.setQueue q x).out = m.out := rfl

/-! ### `Mach.setGate` -/
@[simp] theorem Mach.setGate_reg (l : Nat) (g : GateUnit) : (m.setGate l g).reg = m.reg := rfl
@[simp] theorem Mach.setGate_glb (l : Nat) (g : GateUnit) : (m.setGate l g).glb = m.glb := rfl
@[simp] theorem Mach.setGate_flt (l : Nat) (g : GateUnit) : (m.setGate l g).flt = m.flt := rfl
@[simp] theorem Mach.setGate_hif (l : Nat) (g : GateUnit) : (m.setGate l g).hif = m.hif := rfl
@[simp] theorem Mach.setGate_tod (l : Nat) (g : GateUnit) : (m.setGate l g).tod = m.tod := rfl
@[simp] theorem Mach.setGate_pwr (l : Nat) (g : GateUnit) : (m.setGate l g).pwr = m.pwr := rfl
@[simp] theorem Mach.setGate_fwd (l : Nat) (g : GateUnit) : (m.setGate l g).fwd = m.fwd := rfl
@[simp] theorem Mach.setGate_tmg (l : Nat) (g : GateUnit) : (m.setGate l g).tmg = m.tmg := rfl
@[simp] theorem Mach.setGate_fsl (l : Nat) (g : GateUnit) : (m.setGate l g).fsl = m.fsl := rfl
@[simp] theorem Mach.setGate_act (l : Nat) (g : GateUnit) : (m.setGate l g).act = m.act := rfl
@[simp] theorem Mach.setGate_tsk (l : Nat) (g : GateUnit) : (m.setGate l g).tsk = m.tsk := rfl
@[simp] theorem Mach.setGate_duo (l : Nat) (g : GateUnit) : (m.setGate l g).duo = m.duo := rfl
@[simp] theorem Mach.setGate_ppl (l : Nat) (g : GateUnit) : (m.setGate l g).ppl = m.ppl := rfl
@[simp] theorem Mach.setGate_msc (l : Nat) (g : GateUnit) : (m.setGate l g).msc = m.msc := rfl
@[simp] theorem Mach.setGate_sec (l : Nat) (g : GateUnit) : (m.setGate l g).sec = m.sec := rfl
@[simp] theorem Mach.setGate_up (l : Nat) (g : GateUnit) : (m.setGate l g).up = m.up := rfl
@[simp] theorem Mach.setGate_free (l : Nat) (g : GateUnit) : (m.setGate l g).free = m.free := rfl
@[simp] theorem Mach.setGate_out (l : Nat) (g : GateUnit) : (m.setGate l g).out = m.out := rfl

/-! ### `Mach.setPool` -/
@[simp] theorem Mach.setPool_reg (n : Nat) (p : NatPool) : (m.setPool n p).reg = m.reg := rfl
@[simp] theorem Mach.setPool_glb (n : Nat) (p : NatPool) : (m.setPool n p).glb = m.glb := rfl
@[simp] theorem Mach.setPool_flt (n : Nat) (p : NatPool) : (m.setPool n p).flt = m.flt := rfl
@[simp] theorem Mach.setPool_hif (n : Nat) (p : NatPool) : (m.setPool n p).hif = m.hif := rfl
@[simp] theorem Mach.setPool_tod (n : Nat) (p : NatPool) : (m.setPool n p).tod = m.tod := rfl
@[simp] theorem Mach.setPool_pwr (n : Nat) (p : NatPool) : (m.setPool n p).pwr = m.pwr := rfl
@[simp] theorem Mach.setPool_fwd (n : Nat) (p : NatPool) : (m.setPool n p).fwd = m.fwd := rfl
@[simp] theorem Mach.setPool_tmg (n : Nat) (p : NatPool) : (m.setPool n p).tmg = m.tmg := rfl
@[simp] theorem Mach.setPool_sch (n : Nat) (p : NatPool) : (m.setPool n p).sch = m.sch := rfl
@[simp] theorem Mach.setPool_act (n : Nat) (p : NatPool) : (m.setPool n p).act = m.act := rfl
@[simp] theorem Mach.setPool_tsk (n : Nat) (p : NatPool) : (m.setPool n p).tsk = m.tsk := rfl
@[simp] theorem Mach.setPool_duo (n : Nat) (p : NatPool) : (m.setPool n p).duo = m.duo := rfl
@[simp] theorem Mach.setPool_ppl (n : Nat) (p : NatPool) : (m.setPool n p).ppl = m.ppl := rfl
@[simp] theorem Mach.setPool_msc (n : Nat) (p : NatPool) : (m.setPool n p).msc = m.msc := rfl
@[simp] theorem Mach.setPool_sec (n : Nat) (p : NatPool) : (m.setPool n p).sec = m.sec := rfl
@[simp] theorem Mach.setPool_up (n : Nat) (p : NatPool) : (m.setPool n p).up = m.up := rfl
@[simp] theorem Mach.setPool_free (n : Nat) (p : NatPool) : (m.setPool n p).free = m.free := rfl
@[simp] theorem Mach.setPool_out (n : Nat) (p : NatPool) : (m.setPool n p).out = m.out := rfl

/-! ### `Mach.setSweep` -/
@[simp] theorem Mach.setSweep_reg (n : Nat) (x : Sweep) : (m.setSweep n x).reg = m.reg := rfl
@[simp] theorem Mach.setSweep_glb (n : Nat) (x : Sweep) : (m.setSweep n x).glb = m.glb := rfl
@[simp] theorem Mach.setSweep_flt (n : Nat) (x : Sweep) : (m.setSweep n x).flt = m.flt := rfl
@[simp] theorem Mach.setSweep_hif (n : Nat) (x : Sweep) : (m.setSweep n x).hif = m.hif := rfl
@[simp] theorem Mach.setSweep_tod (n : Nat) (x : Sweep) : (m.setSweep n x).tod = m.tod := rfl
@[simp] theorem Mach.setSweep_pwr (n : Nat) (x : Sweep) : (m.setSweep n x).pwr = m.pwr := rfl
@[simp] theorem Mach.setSweep_fwd (n : Nat) (x : Sweep) : (m.setSweep n x).fwd = m.fwd := rfl
@[simp] theorem Mach.setSweep_tmg (n : Nat) (x : Sweep) : (m.setSweep n x).tmg = m.tmg := rfl
@[simp] theorem Mach.setSweep_sch (n : Nat) (x : Sweep) : (m.setSweep n x).sch = m.sch := rfl
@[simp] theorem Mach.setSweep_act (n : Nat) (x : Sweep) : (m.setSweep n x).act = m.act := rfl
@[simp] theorem Mach.setSweep_tsk (n : Nat) (x : Sweep) : (m.setSweep n x).tsk = m.tsk := rfl
@[simp] theorem Mach.setSweep_duo (n : Nat) (x : Sweep) : (m.setSweep n x).duo = m.duo := rfl
@[simp] theorem Mach.setSweep_ppl (n : Nat) (x : Sweep) : (m.setSweep n x).ppl = m.ppl := rfl
@[simp] theorem Mach.setSweep_msc (n : Nat) (x : Sweep) : (m.setSweep n x).msc = m.msc := rfl
@[simp] theorem Mach.setSweep_sec (n : Nat) (x : Sweep) : (m.setSweep n x).sec = m.sec := rfl
@[simp] theorem Mach.setSweep_up (n : Nat) (x : Sweep) : (m.setSweep n x).up = m.up := rfl
@[simp] theorem Mach.setSweep_free (n : Nat) (x : Sweep) : (m.setSweep n x).free = m.free := rfl
@[simp] theorem Mach.setSweep_out (n : Nat) (x : Sweep) : (m.setSweep n x).out = m.out := rfl

/-! ### `Mach.setPunts` -/
@[simp] theorem Mach.setPunts_reg (n : Nat) (l : List Punt) : (m.setPunts n l).reg = m.reg := rfl
@[simp] theorem Mach.setPunts_glb (n : Nat) (l : List Punt) : (m.setPunts n l).glb = m.glb := rfl
@[simp] theorem Mach.setPunts_flt (n : Nat) (l : List Punt) : (m.setPunts n l).flt = m.flt := rfl
@[simp] theorem Mach.setPunts_hif (n : Nat) (l : List Punt) : (m.setPunts n l).hif = m.hif := rfl
@[simp] theorem Mach.setPunts_tod (n : Nat) (l : List Punt) : (m.setPunts n l).tod = m.tod := rfl
@[simp] theorem Mach.setPunts_pwr (n : Nat) (l : List Punt) : (m.setPunts n l).pwr = m.pwr := rfl
@[simp] theorem Mach.setPunts_fwd (n : Nat) (l : List Punt) : (m.setPunts n l).fwd = m.fwd := rfl
@[simp] theorem Mach.setPunts_tmg (n : Nat) (l : List Punt) : (m.setPunts n l).tmg = m.tmg := rfl
@[simp] theorem Mach.setPunts_sch (n : Nat) (l : List Punt) : (m.setPunts n l).sch = m.sch := rfl
@[simp] theorem Mach.setPunts_fsl (n : Nat) (l : List Punt) : (m.setPunts n l).fsl = m.fsl := rfl
@[simp] theorem Mach.setPunts_act (n : Nat) (l : List Punt) : (m.setPunts n l).act = m.act := rfl
@[simp] theorem Mach.setPunts_tsk (n : Nat) (l : List Punt) : (m.setPunts n l).tsk = m.tsk := rfl
@[simp] theorem Mach.setPunts_duo (n : Nat) (l : List Punt) : (m.setPunts n l).duo = m.duo := rfl
@[simp] theorem Mach.setPunts_msc (n : Nat) (l : List Punt) : (m.setPunts n l).msc = m.msc := rfl
@[simp] theorem Mach.setPunts_sec (n : Nat) (l : List Punt) : (m.setPunts n l).sec = m.sec := rfl
@[simp] theorem Mach.setPunts_up (n : Nat) (l : List Punt) : (m.setPunts n l).up = m.up := rfl
@[simp] theorem Mach.setPunts_free (n : Nat) (l : List Punt) : (m.setPunts n l).free = m.free := rfl
@[simp] theorem Mach.setPunts_out (n : Nat) (l : List Punt) : (m.setPunts n l).out = m.out := rfl

/-! ### `Mach.setSt` -/
@[simp] theorem Mach.setSt_glb (x : Fld) (v i j k : Nat) : (m.setSt x v i j k).glb = m.glb := rfl
@[simp] theorem Mach.setSt_flt (x : Fld) (v i j k : Nat) : (m.setSt x v i j k).flt = m.flt := rfl
@[simp] theorem Mach.setSt_hif (x : Fld) (v i j k : Nat) : (m.setSt x v i j k).hif = m.hif := rfl
@[simp] theorem Mach.setSt_tod (x : Fld) (v i j k : Nat) : (m.setSt x v i j k).tod = m.tod := rfl
@[simp] theorem Mach.setSt_pwr (x : Fld) (v i j k : Nat) : (m.setSt x v i j k).pwr = m.pwr := rfl
@[simp] theorem Mach.setSt_fwd (x : Fld) (v i j k : Nat) : (m.setSt x v i j k).fwd = m.fwd := rfl
@[simp] theorem Mach.setSt_tmg (x : Fld) (v i j k : Nat) : (m.setSt x v i j k).tmg = m.tmg := rfl
@[simp] theorem Mach.setSt_sch (x : Fld) (v i j k : Nat) : (m.setSt x v i j k).sch = m.sch := rfl
@[simp] theorem Mach.setSt_fsl (x : Fld) (v i j k : Nat) : (m.setSt x v i j k).fsl = m.fsl := rfl
@[simp] theorem Mach.setSt_act (x : Fld) (v i j k : Nat) : (m.setSt x v i j k).act = m.act := rfl
@[simp] theorem Mach.setSt_tsk (x : Fld) (v i j k : Nat) : (m.setSt x v i j k).tsk = m.tsk := rfl
@[simp] theorem Mach.setSt_duo (x : Fld) (v i j k : Nat) : (m.setSt x v i j k).duo = m.duo := rfl
@[simp] theorem Mach.setSt_ppl (x : Fld) (v i j k : Nat) : (m.setSt x v i j k).ppl = m.ppl := rfl
@[simp] theorem Mach.setSt_msc (x : Fld) (v i j k : Nat) : (m.setSt x v i j k).msc = m.msc := rfl
@[simp] theorem Mach.setSt_sec (x : Fld) (v i j k : Nat) : (m.setSt x v i j k).sec = m.sec := rfl
@[simp] theorem Mach.setSt_up (x : Fld) (v i j k : Nat) : (m.setSt x v i j k).up = m.up := rfl
@[simp] theorem Mach.setSt_free (x : Fld) (v i j k : Nat) : (m.setSt x v i j k).free = m.free := rfl
@[simp] theorem Mach.setSt_out (x : Fld) (v i j k : Nat) : (m.setSt x v i j k).out = m.out := rfl

/-! ### `Mach.emit` -/
@[simp] theorem Mach.emit_reg (o : Output) : (m.emit o).reg = m.reg := rfl
@[simp] theorem Mach.emit_glb (o : Output) : (m.emit o).glb = m.glb := rfl
@[simp] theorem Mach.emit_flt (o : Output) : (m.emit o).flt = m.flt := rfl
@[simp] theorem Mach.emit_hif (o : Output) : (m.emit o).hif = m.hif := rfl
@[simp] theorem Mach.emit_tod (o : Output) : (m.emit o).tod = m.tod := rfl
@[simp] theorem Mach.emit_pwr (o : Output) : (m.emit o).pwr = m.pwr := rfl
@[simp] theorem Mach.emit_fwd (o : Output) : (m.emit o).fwd = m.fwd := rfl
@[simp] theorem Mach.emit_tmg (o : Output) : (m.emit o).tmg = m.tmg := rfl
@[simp] theorem Mach.emit_sch (o : Output) : (m.emit o).sch = m.sch := rfl
@[simp] theorem Mach.emit_fsl (o : Output) : (m.emit o).fsl = m.fsl := rfl
@[simp] theorem Mach.emit_act (o : Output) : (m.emit o).act = m.act := rfl
@[simp] theorem Mach.emit_tsk (o : Output) : (m.emit o).tsk = m.tsk := rfl
@[simp] theorem Mach.emit_duo (o : Output) : (m.emit o).duo = m.duo := rfl
@[simp] theorem Mach.emit_ppl (o : Output) : (m.emit o).ppl = m.ppl := rfl
@[simp] theorem Mach.emit_msc (o : Output) : (m.emit o).msc = m.msc := rfl
@[simp] theorem Mach.emit_sec (o : Output) : (m.emit o).sec = m.sec := rfl
@[simp] theorem Mach.emit_up (o : Output) : (m.emit o).up = m.up := rfl
@[simp] theorem Mach.emit_free (o : Output) : (m.emit o).free = m.free := rfl

/-! ### `Mach.draw` -/
@[simp] theorem Mach.draw_reg : (m.draw).reg = m.reg := rfl
@[simp] theorem Mach.draw_glb : (m.draw).glb = m.glb := rfl
@[simp] theorem Mach.draw_flt : (m.draw).flt = m.flt := rfl
@[simp] theorem Mach.draw_hif : (m.draw).hif = m.hif := rfl
@[simp] theorem Mach.draw_tod : (m.draw).tod = m.tod := rfl
@[simp] theorem Mach.draw_pwr : (m.draw).pwr = m.pwr := rfl
@[simp] theorem Mach.draw_fwd : (m.draw).fwd = m.fwd := rfl
@[simp] theorem Mach.draw_tmg : (m.draw).tmg = m.tmg := rfl
@[simp] theorem Mach.draw_sch : (m.draw).sch = m.sch := rfl
@[simp] theorem Mach.draw_fsl : (m.draw).fsl = m.fsl := rfl
@[simp] theorem Mach.draw_act : (m.draw).act = m.act := rfl
@[simp] theorem Mach.draw_tsk : (m.draw).tsk = m.tsk := rfl
@[simp] theorem Mach.draw_duo : (m.draw).duo = m.duo := rfl
@[simp] theorem Mach.draw_ppl : (m.draw).ppl = m.ppl := rfl
@[simp] theorem Mach.draw_msc : (m.draw).msc = m.msc := rfl
@[simp] theorem Mach.draw_sec : (m.draw).sec = m.sec := rfl
@[simp] theorem Mach.draw_up : (m.draw).up = m.up := rfl
@[simp] theorem Mach.draw_out : (m.draw).out = m.out := rfl

theorem Mach.setRing_read_self (a : Nat) (x : Ring) (h : Tbl.rising m.hif.rings = true) : (m.setRing a x).ring a = x :=
  Tbl.look_put_self _ _ a x h
theorem Mach.setRing_read_other (a b : Nat) (x : Ring) (h : Tbl.rising m.hif.rings = true) (hb : b ≠ a) : (m.setRing a x).ring b = m.ring b :=
  Tbl.look_put_other _ _ _ x hb h
theorem Mach.setRing_rising (a : Nat) (x : Ring) (h : Tbl.rising m.hif.rings = true) : Tbl.rising (m.setRing a x).hif.rings = true :=
  Tbl.rising_put _ _ a x h
theorem Mach.setPort_read_self (a : Nat) (x : HostPort) (h : Tbl.rising m.hif.ports = true) : (m.setPort a x).port a = x :=
  Tbl.look_put_self _ _ a x h
theorem Mach.setPort_read_other (a b : Nat) (x : HostPort) (h : Tbl.rising m.hif.ports = true) (hb : b ≠ a) : (m.setPort a x).port b = m.port b :=
  Tbl.look_put_other _ _ _ x hb h
theorem Mach.setPort_rising (a : Nat) (x : HostPort) (h : Tbl.rising m.hif.ports = true) : Tbl.rising (m.setPort a x).hif.ports = true :=
  Tbl.rising_put _ _ a x h
theorem Mach.setCore_read_self (a : Nat) (x : Core) (h : Tbl.rising m.tsk.cores = true) : (m.setCore a x).core a = x :=
  Tbl.look_put_self _ _ a x h
theorem Mach.setCore_read_other (a b : Nat) (x : Core) (h : Tbl.rising m.tsk.cores = true) (hb : b ≠ a) : (m.setCore a x).core b = m.core b :=
  Tbl.look_put_other _ _ _ x hb h
theorem Mach.setCore_rising (a : Nat) (x : Core) (h : Tbl.rising m.tsk.cores = true) : Tbl.rising (m.setCore a x).tsk.cores = true :=
  Tbl.rising_put _ _ a x h
theorem Mach.setWq_read_self (a : Nat) (x : WQueue) (h : Tbl.rising m.tsk.queues = true) : (m.setWq a x).wq a = x :=
  Tbl.look_put_self _ _ a x h
theorem Mach.setWq_read_other (a b : Nat) (x : WQueue) (h : Tbl.rising m.tsk.queues = true) (hb : b ≠ a) : (m.setWq a x).wq b = m.wq b :=
  Tbl.look_put_other _ _ _ x hb h
theorem Mach.setWq_rising (a : Nat) (x : WQueue) (h : Tbl.rising m.tsk.queues = true) : Tbl.rising (m.setWq a x).tsk.queues = true :=
  Tbl.rising_put _ _ a x h
theorem Mach.setLink_read_self (a : Nat) (x : Link) (h : Tbl.rising m.duo.links = true) : (m.setLink a x).link a = x :=
  Tbl.look_put_self _ _ a x h
theorem Mach.setLink_read_other (a b : Nat) (x : Link) (h : Tbl.rising m.duo.links = true) (hb : b ≠ a) : (m.setLink a x).link b = m.link b :=
  Tbl.look_put_other _ _ _ x hb h
theorem Mach.setLink_rising (a : Nat) (x : Link) (h : Tbl.rising m.duo.links = true) : Tbl.rising (m.setLink a x).duo.links = true :=
  Tbl.rising_put _ _ a x h
theorem Mach.setCell_read_self (a : Nat) (x : Machine.Cell) (h : Tbl.rising m.tmg.cells = true) : (m.setCell a x).cell a = x :=
  Tbl.look_put_self (freshCell a) m.tmg.cells a x h
theorem Mach.setCell_read_other (a b : Nat) (x : Machine.Cell) (h : Tbl.rising m.tmg.cells = true) (hb : b ≠ a) : (m.setCell a x).cell b = m.cell b :=
  Tbl.look_put_other (freshCell a) (freshCell b) m.tmg.cells x hb h
theorem Mach.setCell_rising (a : Nat) (x : Machine.Cell) (h : Tbl.rising m.tmg.cells = true) : Tbl.rising (m.setCell a x).tmg.cells = true :=
  Tbl.rising_put (freshCell a) m.tmg.cells a x h
theorem Mach.setCell_canon (a : Nat) (x : Machine.Cell) (h : Tbl.canon freshCell m.tmg.cells = true) : Tbl.canon freshCell (m.setCell a x).tmg.cells = true :=
  Tbl.canon_put freshCell m.tmg.cells a x h
theorem Mach.setBank_read_self (a : Nat) (x : Bank) (h : Tbl.rising m.tmg.banks = true) : (m.setBank a x).bank a = x :=
  Tbl.look_put_self (freshBank a) m.tmg.banks a x h
theorem Mach.setBank_read_other (a b : Nat) (x : Bank) (h : Tbl.rising m.tmg.banks = true) (hb : b ≠ a) : (m.setBank a x).bank b = m.bank b :=
  Tbl.look_put_other (freshBank a) (freshBank b) m.tmg.banks x hb h
theorem Mach.setBank_rising (a : Nat) (x : Bank) (h : Tbl.rising m.tmg.banks = true) : Tbl.rising (m.setBank a x).tmg.banks = true :=
  Tbl.rising_put (freshBank a) m.tmg.banks a x h
theorem Mach.setBank_canon (a : Nat) (x : Bank) (h : Tbl.canon freshBank m.tmg.banks = true) : Tbl.canon freshBank (m.setBank a x).tmg.banks = true :=
  Tbl.canon_put freshBank m.tmg.banks a x h
theorem Mach.setPage_read_self (a : Nat) (x : Page) (h : Tbl.rising m.tmg.pages = true) : (m.setPage a x).page a = { x with check := if x.l0 then 0 else crc16 x.image } :=
  Tbl.look_put_self _ _ a _ h
theorem Mach.setPage_read_other (a b : Nat) (x : Page) (h : Tbl.rising m.tmg.pages = true) (hb : b ≠ a) : (m.setPage a x).page b = m.page b :=
  Tbl.look_put_other _ _ _ _ hb h
theorem Mach.setPage_rising (a : Nat) (x : Page) (h : Tbl.rising m.tmg.pages = true) : Tbl.rising (m.setPage a x).tmg.pages = true :=
  Tbl.rising_put _ _ a _ h
theorem Mach.setPage_canon (a : Nat) (x : Page) (h : Tbl.canon (fun _ => {}) m.tmg.pages = true) : Tbl.canon (fun _ => {}) (m.setPage a x).tmg.pages = true :=
  Tbl.canon_put (fun _ => {}) m.tmg.pages a _ h
theorem Mach.setQueue_read_self (a : Nat) (x : Queue) (h : Tbl.rising m.tmg.queues = true) : (m.setQueue a x).queue a = x :=
  Tbl.look_put_self _ _ a x h
theorem Mach.setQueue_read_other (a b : Nat) (x : Queue) (h : Tbl.rising m.tmg.queues = true) (hb : b ≠ a) : (m.setQueue a x).queue b = m.queue b :=
  Tbl.look_put_other _ _ _ x hb h
theorem Mach.setQueue_rising (a : Nat) (x : Queue) (h : Tbl.rising m.tmg.queues = true) : Tbl.rising (m.setQueue a x).tmg.queues = true :=
  Tbl.rising_put _ _ a x h
theorem Mach.setGate_read_self (a : Nat) (x : GateUnit) (h : Tbl.rising m.sch.gates = true) : (m.setGate a x).gate a = x :=
  Tbl.look_put_self _ _ a x h
theorem Mach.setGate_read_other (a b : Nat) (x : GateUnit) (h : Tbl.rising m.sch.gates = true) (hb : b ≠ a) : (m.setGate a x).gate b = m.gate b :=
  Tbl.look_put_other _ _ _ x hb h
theorem Mach.setGate_rising (a : Nat) (x : GateUnit) (h : Tbl.rising m.sch.gates = true) : Tbl.rising (m.setGate a x).sch.gates = true :=
  Tbl.rising_put _ _ a x h
theorem Mach.setPool_read_self (a : Nat) (x : NatPool) (h : Tbl.rising m.fsl.pools = true) : (m.setPool a x).pool a = x :=
  Tbl.look_put_self _ _ a x h
theorem Mach.setPool_read_other (a b : Nat) (x : NatPool) (h : Tbl.rising m.fsl.pools = true) (hb : b ≠ a) : (m.setPool a x).pool b = m.pool b :=
  Tbl.look_put_other _ _ _ x hb h
theorem Mach.setPool_rising (a : Nat) (x : NatPool) (h : Tbl.rising m.fsl.pools = true) : Tbl.rising (m.setPool a x).fsl.pools = true :=
  Tbl.rising_put _ _ a x h
theorem Mach.setSweep_read_self (a : Nat) (x : Sweep) (h : Tbl.rising m.fsl.sweep = true) : (m.setSweep a x).sweepOf a = x :=
  Tbl.look_put_self _ _ a x h
theorem Mach.setSweep_read_other (a b : Nat) (x : Sweep) (h : Tbl.rising m.fsl.sweep = true) (hb : b ≠ a) : (m.setSweep a x).sweepOf b = m.sweepOf b :=
  Tbl.look_put_other _ _ _ x hb h
theorem Mach.setSweep_rising (a : Nat) (x : Sweep) (h : Tbl.rising m.fsl.sweep = true) : Tbl.rising (m.setSweep a x).fsl.sweep = true :=
  Tbl.rising_put _ _ a x h
theorem Mach.setPunts_read_self (a : Nat) (x : List Punt) (h : Tbl.rising m.ppl.punts = true) : (m.setPunts a x).punts a = x :=
  Tbl.look_put_self _ _ a x h
theorem Mach.setPunts_read_other (a b : Nat) (x : List Punt) (h : Tbl.rising m.ppl.punts = true) (hb : b ≠ a) : (m.setPunts a x).punts b = m.punts b :=
  Tbl.look_put_other _ _ _ x hb h
theorem Mach.setPunts_rising (a : Nat) (x : List Punt) (h : Tbl.rising m.ppl.punts = true) : Tbl.rising (m.setPunts a x).ppl.punts = true :=
  Tbl.rising_put _ _ a x h

/-! ### The state -/
@[simp] theorem State.withM_m (x : Mach) : (s.withM x).dev.m = x := rfl
@[simp] theorem State.withM_cfg (x : Mach) : (s.withM x).dev.cfg = s.dev.cfg := rfl
@[simp] theorem State.withM_pending (x : Mach) : (s.withM x).pending = s.pending := rfl
@[simp] theorem Mach.emit_out (o : Output) : (m.emit o).out = m.out ++ [o] := rfl
@[simp] theorem Mach.draw_free : m.draw.free = m.free + 1 := rfl

/-- A command on the machine alone keeps configuration and queue. -/
theorem State.on_next (f : Cfg → Mach → Mach) : ∃ x, s.on f = .next (s.withM x) := by
  unfold State.on
  split
  · exact ⟨s.dev.m, rfl⟩
  · exact ⟨_, rfl⟩

/-- A command on the device keeps the queue. -/
theorem State.onDev_next (f : Dev → Dev) : ∃ x, s.onDev f = .next { s with dev := x } := by
  unfold State.onDev
  split
  · exact ⟨s.dev, rfl⟩
  · exact ⟨_, rfl⟩

end Sys2Proof.Machine
end

