-- ==== Sys2Proof/WellFormed.lean ====
section
/-! DEFINITION. Which commands the table's rows can be: a row that is one kind of register access names a register of that kind, and what
arrives with a command has the form its rule gives it. `exec` answers every command, well formed or not. -/
namespace Sys2Proof

/-- An offset names a register for which `p` holds. -/
def names (off : Nat) (p : Machine.Reg → Bool) : Bool :=
  match Machine.locate off with
  | some x => p x.reg
  | none => false

/-- A shaper's rate registers (R229). -/
def isRate : Machine.Reg → Bool
  | .schSubCir | .schSubPir | .schSvcCir | .schSvcPir | .schPortPir => true
  | _ => false

/-- A shaper's burst registers (R229). -/
def isBurst : Machine.Reg → Bool
  | .schSubBurst | .schSvcBurst | .schPortBurst => true
  | _ => false

/-- Fourteen junction sensors (R437) and eight rails (R463); an `_HI` half where a row writes one (R10); an RC field for a read that
clears; the shapers' registers; a write of up to 64 bytes to a doorbell page (R335); descriptors of 32 or 64 bytes (R323); a reserved
opcode (R329); units of 16 bits (R436); frames that are not empty. -/
def Instr.wf : Instr → Bool
  | .cmdReservedOpcode _ opc _ => Machine.opOf opc == .reserved
  | .doorbell _ _ len _ => decide (1 ≤ len) && decide (len ≤ 64)
  | .descFetchDone _ ds => (ds.getD []).all fun d => d.length == 32 || d.length == 64
  | .frameArrival _ f _ _ => f != []
  | .syncFrameRx _ f => f != []
  | .steeredFrameRx _ f _ => f != []
  | .regWriteHiApply _ off _ => names off.toNat fun r => (Machine.loOf r).isSome
  | .regReadClear _ off => names off.toNat fun r => (Machine.regFields r).any fun x => x.acc = .rc
  | .shaperRateWrite _ off _ => names off.toNat isRate
  | .shaperBurstWrite _ off _ => names off.toNat isBurst
  | .thermalSensorRead temps => temps.length == 14
  | .railTelemetryRead watts => watts.length == 8
  | .heavyOpRequest _ unit => decide (unit < 65536)
  | .heavyOpRelease _ unit => decide (unit < 65536)
  | .cmdNop .. | .ringCreate .. | .ringDestroy .. | .ringQuery .. | .flowInsert .. | .flowModify .. | .flowDelete .. | .flowQuery ..
  | .natPoolSet .. | .natPortFree .. | .beGroupSet .. | .beSlotSet .. | .backendSet .. | .progLoad .. | .tmplSet .. | .parseSet ..
  | .clsSet .. | .fdbSet .. | .fdbDelete .. | .fdbQuery .. | .fdbFlush .. | .bdSet .. | .lpmAdd .. | .lpmDelete .. | .nhSet ..
  | .ecmpGroupSet .. | .ecmpMemberSet .. | .ecmpMemberDown .. | .ecmpMemberUp .. | .subSet .. | .subQuery .. | .policerSet ..
  | .policerQuery .. | .gclSet .. | .steerSet .. | .steerQuery .. | .promote .. | .coreLoad .. | .attest .. | .tagWrite ..
  | .ownerEnrol .. | .doorbellInval .. | .doorbellArm .. | .pollTailRead .. | .dataReadDone .. | .txpFrameAdmit .. | .rxpDeliver ..
  | .modTimeExpiry .. | .l1ExitStart .. | .linkL1Entry .. | .linkL0Return .. | .hostLinkUp .. | .hostLinkDown .. | .hostFunctionReset ..
  | .pciePerstAssert .. | .hostPowerStateChange .. | .primaryMove | .workGet .. | .workArm .. | .workDoneDrop .. | .workDoneInject ..
  | .workDoneDeliver .. | .workDoneForward .. | .workBufAlloc .. | .workBufFree .. | .workPostGo .. | .clusterCmdSubmit ..
  | .coreStopped .. | .workItemAdmit .. | .outputRelease | .svcTimeout .. | .ppsInEdge .. | .ppsMissingTimeout | .ppsOutRise
  | .ppsOutFall | .todStepApply | .todReplicaCorrect .. | .mscSaReady .. | .mscBulkPrepareDone .. | .ctTailArrival .. | .packetParse ..
  | .flowResponse .. | .holdTimeout .. | .recircReenter .. | .puntTransfer .. | .hostDmaRetry .. | .crossDieArrival .. | .parkRelease
  | .dequeueSelect .. | .frameTxDone .. | .mcastRelease .. | .spillWrite .. | .pageReturn .. | .pageQueueRefill .. | .learnProcess ..
  | .fdbAgeTick .. | .latencySampleWalk .. | .gateChangeTime .. | .gateIntervalExpiry .. | .gateCycleStart .. | .traceBatchFlush ..
  | .sliceRequest .. | .hbmBucketReadDone .. | .recordMove .. | .stashRetry .. | .writebackApply .. | .writebackHoldExpiry
  | .guardLapse .. | .companionInsert | .companionDeleteConfirm | .natQueueRefill .. | .ageTick | .sweepDue | .sweepPassStart ..
  | .sweeperVisit .. | .ageOut .. | .sweepPassEnd .. | .fstClearDone | .stashImageLoaded | .takeoverWritebackDone | .ipfixFlush ..
  | .ipfixTemplateRefresh | .helloRx .. | .recUpdateRx .. | .recDeleteRx .. | .ctrDeltaRx .. | .bulkRx .. | .ackRx .. | .reconcileRx ..
  | .steerMsgRx .. | .helloSend .. | .syncFrameTx .. | .ackSend .. | .retxTimeout .. | .leaseCheck | .strictWaitExpiry ..
  | .mirrorRetry .. | .digestPeriodExpiry .. | .steeringEntryRestore .. | .regWrite .. | .regReadLoLatch .. | .todNowRead .. | .sealWrite ..
  | .restartWrite .. | .turnCommitGo .. | .turnDiscard .. | .portRoleWrite .. | .adminRingEnable .. | .adminRingDisable ..
  | .fstEnable .. | .fstDisable .. | .fstTakeoverGo .. | .fslRebuild .. | .fslSweepNow .. | .pplDrain .. | .portEnable ..
  | .gateConfigChange .. | .gateChangeCancel .. | .todStep .. | .todOffset .. | .mscSaInUseSet .. | .mscSaInUseClear ..
  | .mscTxAnWrite .. | .mscBulkGo .. | .fltAckWrite .. | .fltInjectWrite .. | .firstErrorClear .. | .fltRestoreGo .. | .digestNow ..
  | .duoYieldWrite .. | .coreRunStart .. | .coreRunStop .. | .coreReset .. | .pwrgoodRise | .pwrgoodFall | .resetNAssert | .resetNRelease
  | .rootPllUnlock | .familyPllUnlock .. | .i2c1Alert | .i2c0Read .. | .jtagTapActive | .jtagTapReset | .thermtripAssert
  | .loaderVerified .. | .imageVerified .. | .d2dLinkTrainingDone .. | .hbmTrainingDone .. | .serdesCalibrationDone .. | .rngFirstSeed
  | .rngSeedTimeout | .drbgReseed .. | .sealChecksDone | .restartComplete | .turnBoundary | .turnDrainDone | .bankCopyDone
  | .restoreSelftestDone .. | .keyTreeGenDone | .tallyPassStart .. | .tallyPassDone .. | .pageTallyStart | .pageTallyDone
  | .linkRetrainFail .. | .faultTickProcess .. | .quietTimerExpiry .. | .healthToggle | .healthLowHoldExpiry | .pcCopyDone ..
  | .governorEval | .deferTimeout | .scrubPassDue .. | .scrubPassEnd .. | .dumpLatch .. => true

end Sys2Proof
end

