-- ==== Sys2Proof/Tests/Slice0.lean ====
section
/-! SUPPORT. Tests. Each check of `Instr.wf` refuses a term; values that the spec works out come out as it says; and for every statement
of Certificates/Slice0/Obligations.lean one theorem shows states and operands that meet the hypotheses of each of its clauses. -/
open Sys2Proof Sys2Proof.Machine

namespace Sys2Proof.Tests
set_option linter.unusedVariables false
set_option Elab.async false

/-! ### Terms that `Instr.wf` refuses -/

theorem test_wf_refuses_an_opcode_that_is_not_reserved : Instr.wf (.cmdReservedOpcode 0 1 {}) = false := by decide +kernel
theorem test_wf_refuses_an_empty_doorbell_write : Instr.wf (.doorbell 0 0 0 0) = false := by decide +kernel
theorem test_wf_refuses_a_long_doorbell_write : Instr.wf (.doorbell 0 0 65 0) = false := by decide +kernel
theorem test_wf_refuses_a_descriptor_of_33_bytes : Instr.wf (.descFetchDone 0 (some [List.replicate 33 0])) = false := by decide +kernel
theorem test_wf_refuses_an_empty_frame : Instr.wf (.frameArrival 0 [] false false) = false := by decide +kernel
theorem test_wf_refuses_an_empty_sync_frame : Instr.wf (.syncFrameRx 0 []) = false := by decide +kernel
theorem test_wf_refuses_an_empty_steered_frame : Instr.wf (.steeredFrameRx 0 [] false) = false := by decide +kernel
theorem test_wf_refuses_an_apply_without_a_lower_half :
    Instr.wf (.regWriteHiApply .agent (BitVec.ofNat 27 (regAddr .fltAck 0 0 0)) 0) = false := by decide +kernel
theorem test_wf_refuses_a_clear_of_nothing :
    Instr.wf (.regReadClear .agent (BitVec.ofNat 27 (regAddr .fltAck 0 0 0))) = false := by decide +kernel
theorem test_wf_refuses_a_rate_that_is_none :
    Instr.wf (.shaperRateWrite .agent (BitVec.ofNat 27 (regAddr .schSubBurst 0 0 0)) 0) = false := by decide +kernel
theorem test_wf_refuses_a_burst_that_is_none :
    Instr.wf (.shaperBurstWrite .agent (BitVec.ofNat 27 (regAddr .schSubCir 0 0 0)) 0) = false := by decide +kernel
theorem test_wf_refuses_thirteen_sensors : Instr.wf (.thermalSensorRead (List.replicate 13 .silent)) = false := by decide +kernel
theorem test_wf_refuses_nine_rails : Instr.wf (.railTelemetryRead (List.replicate 9 none)) = false := by decide +kernel
theorem test_wf_refuses_a_unit_of_17_bits :
    Instr.wf (.heavyOpRequest 0 65536) = false ∧ Instr.wf (.heavyOpRelease 0 65536) = false := by decide +kernel

/-! ### Values that the spec works out -/

/-- R43 and R443's worked addresses: `PPL_21` begins at `0x254_0000` and its counter bank is at `0x257_FF00`, that of `GLB` at
`0x00F_FF00`. -/
theorem test_counter_banks_of_R443 :
    (bankOf 0x254_0000).map pmcBankBase = some 0x257_FF00 ∧ (bankOf 0x000_0000).map pmcBankBase = some 0x00F_FF00 := by decide +kernel

/-- R78's worked `alt(0x0300)`. -/
theorem test_alt_of_0x0300 : altOf 0x0300 = 0xA6_6B01 := by decide +kernel

/-- R355's worked port: logical port 40 is served by SecY 8 of `IO_1`. -/
theorem test_secy_of_port_40 : secyOf 40 = 8 ∧ ioDie 40 = 1 := by decide +kernel

/-- The worked NAT program of section 4: its encodings have the fields of R133 and R135. -/
theorem test_micro_operations_of_the_nat_program :
    bits 0x2800_2C00_0000_0000 63 58 = 0x0A ∧ bits 0x2800_2C00_0000_0000 57 57 = 0 ∧
    bits 0xA218_0000_0000_0000 63 58 = 0x28 ∧ predicate { flags := 0 } 0xA218_0000_0000_0000 = false ∧
    predicate { flags := 1 } 0xA218_0000_0000_0000 = true ∧ unitIndex {} 0x4400_0200_0000_0000 = 64 ∧
    unitIndex {} 0x4400_0208_0000_0000 = 65 := by decide +kernel

/-! ### States and lemmas for the witnesses -/

theorem takes_of {d : Dev} {q : Requester} {r : Reg} {i j k : Nat} {v : Word}
    (h : (reaches d.m q = true ∧ regAddr r i j k % 4 = 0 ∧ denied d.m (reqNum q) (regAddr r i j k) true = false ∧
      waitsForSeal d.m (regAddr r i j k) = false) ∧
      (absentBlock d.cfg (regAddr r i j k) = false ∧ unreachable d.m (regAddr r i j k) = false ∧
      locate (regAddr r i j k) = some ⟨r, i, j, k, false⟩ ∧ isCounter r = false ∧ loOf r = none ∧ hiOf r = none) ∧
      refusal d.cfg (storeCfg d.cfg (d.m.glb.sealSt == .sealed) (halves d.cfg d.m ⟨r, i, j, k, false⟩ v)) d.m
        (halves d.cfg d.m ⟨r, i, j, k, false⟩ v) = none) : Takes d q r i j k v :=
  let ⟨⟨a, b, c, e⟩, ⟨f, g, l, x⟩, y⟩ := h
  ⟨a, b, c, e, f, g, l, x, y⟩
def base : State := { State.reset with dev := { State.reset.dev with m := { State.reset.dev.m with glb := { State.reset.dev.m.glb with stage := .waitHost } } } }
def withCfg (s : State) (x : Fld) (v i j k : Nat) : State := { s with dev := { s.dev with cfg := s.dev.cfg.setLive x v i j k } }
def withStat (s : State) (x : Fld) (v i j k : Nat) : State := { s with dev := { s.dev with m := s.dev.m.setSt x v i j k } }
def A : Requester := .agent
def upd (s : State) (f : Mach → Mach) : State := { s with dev := { s.dev with m := f s.dev.m } }
def H0 : State := upd base fun m => m.setPort 0 { m.port 0 with linkUp := true }
def P0 : State := upd base fun m => m.setPort 0 { linkUp := true, bme := true, lostAt := none }
def z (n : Nat) : List Byte := List.replicate n 0
def gl (s : State) (f : GlbSt → GlbSt) : State := upd s fun m => { m with glb := f m.glb }
def fl (s : State) (f : FltSt → FltSt) : State := upd s fun m => { m with flt := f m.flt }
def pw (s : State) (f : PwrSt → PwrSt) : State := upd s fun m => { m with pwr := f m.pwr }
def tm (s : State) (f : TmgSt → TmgSt) : State := upd s fun m => { m with tmg := f m.tmg }
def pp (s : State) (f : PplSt → PplSt) : State := upd s fun m => { m with ppl := f m.ppl }
def fs (s : State) (f : FslSt → FslSt) : State := upd s fun m => { m with fsl := f m.fsl }
def du (s : State) (f : DuoSt → DuoSt) : State := upd s fun m => { m with duo := f m.duo }
def tk (s : State) (f : TskSt → TskSt) : State := upd s fun m => { m with tsk := f m.tsk }
def td (s : State) (f : TodSt → TodSt) : State := upd s fun m => { m with tod := f m.tod }
def withT (s : State) (x : Fld) (v i j k : Nat) : State := { s with dev := { s.dev with cfg := { s.dev.cfg with act := putFld s.dev.cfg.act x i j k v } } }
def gr (op : Nat) (u : Nat := 0) : LeaveReq := { op := op, unit := u, cls := 0, pips := 3, since := 0 }
/-- a running device -/
def R : State := gl base fun g => { g with stage := .sealed, sealSt := .sealed, outputs := true }
def getNext (o : Outcome) : State := match o with | .next t => t | _ => base
def cg (s : State) (r : Fin 16384) (op : CmdOp) (q : Cmd) : Cmd × Nat × Mach := (cmdGet s.mach r (opcode op) q).getD (q, 0, s.mach)
theorem starts_cg {s : State} {r : Fin 16384} {op : CmdOp} {q : Cmd}
    (h : (s.live ∧ (cmdGet s.dev.m r (opcode op) q).isSome = true) ∧ permitted (cg s r op q).2.2 ((cg s r op q).2.2.ring r).owner op (cg s r op q).1 = true ∧
      inputOk op (cg s r op q).1 = true ∧ outputMax op (cg s r op q).1 ≤ (cg s r op q).1.outLen.toNat ∧ mustHold (cg s r op q).2.2 op = false ∧
      (isFlowOp op = true → (cg s r op q).2.2.fsl.ready = true)) : Starts s r op q (cg s r op q).1 (cg s r op q).2.1 (cg s r op q).2.2 := by
  obtain ⟨⟨a, b⟩, c, e, f, g, l⟩ := h
  refine ⟨a, ?_, c, e, f, g, l⟩
  obtain ⟨x, hx⟩ := Option.isSome_iff_exists.mp b
  simp [cg, hx]
theorem slice_of {c : Cfg} {m : Mach} {key : List Byte}
    (h : (m.fsl.ops = [] ∧ m.fsl.jobs = [] ∧ m.fsl.ledger = [] ∧ m.fsl.imagesDue = []) ∧ tableFull m (fhSlot (fhOf c m key)) = false ∧
      m.guarded (fhSlot (fhOf c m key)) key = false ∧ m.guardFull (fhSlot (fhOf c m key)) = false) : SliceFree c m key :=
  let ⟨⟨a, b, d, e⟩, f, g, k⟩ := h
  ⟨a, b, d, by simp [Mach.imageDue, e], f, g, k⟩
theorem finds_of {c : Cfg} {s m : Mach} {key : List Byte} {spot : Option Spot} {m' : Mach}
    (h : let first := roomAt s (fhSlot (fhOf c s key)) (fhBucket (fhOf c s key)) (decide (key.length = 40))
      let other := roomAt s (fhSlot (fhOf c s key)) (otherBucket (fhOf c s key) (fhBucket (fhOf c s key))) (decide (key.length = 40))
      ((first.isSome = true ∧ spot = first.map .at) ∧ m' = m) ∨ ((first = none ∧ other.isSome = true ∧ spot = other.map .at) ∧ m' = m.takesPlace) ∨
        ((first = none ∧ other = none ∧ c.get fstMaxKicksKicks = 0 ∧ spot = stashSpot s (fhSlot (fhOf c s key))) ∧ m' = m.takesPlace)) :
    FindsRoom c s m key spot m' := by
  obtain ⟨⟨a, b⟩, e⟩ | ⟨⟨a, b, d⟩, e⟩ | ⟨⟨a, b, d, f⟩, e⟩ := h
  · obtain ⟨p, hp⟩ := Option.isSome_iff_exists.mp a
    exact .inl ⟨p, hp, by rw [b, hp]; rfl, e⟩
  · obtain ⟨p, hp⟩ := Option.isSome_iff_exists.mp b
    exact .inr ⟨a, e, .inl ⟨p, hp, by rw [d, hp]; rfl⟩⟩
  · exact .inr ⟨a, e, .inr ⟨b, d, f⟩⟩
theorem upward_full {m : Mach} {die : Nat} {r : Report} (h : m.flt.waiting = List.replicate (Config.upwardRoom + 1) r)
    (hd : sourceDie r.src = die) : upwardFull m die = true := by
  simp [upwardFull, h, hd]
  omega
theorem some_getD {α : Type} {x : Option α} (d : α) (h : x.isSome = true) : x = some (x.getD d) := by
  cases x with
  | none => simp at h
  | some v => rfl
theorem some_pair {α β : Type} {x : Option (α × β)} (d : α × β) (h : x.isSome = true) :
    x = some ((x.getD d).1, (x.getD d).2) := some_getD d h
theorem some_triple {α β γ : Type} {x : Option (α × β × γ)} (d : α × β × γ) (h : x.isSome = true) :
    x = some ((x.getD d).1, (x.getD d).2.1, (x.getD d).2.2) := some_getD d h
theorem pair_of {α β : Type} {x : α × β} {a : α} (h : x.1 = a) : x = (a, x.2) := by rw [← h]
theorem next_of {o : Outcome} (h : (match o with | .next _ => true | _ => false) = true) : o = .next (getNext o) := by
  cases o <;> first | rfl | simp at h
theorem cg_got {s : State} {r : Fin 16384} {op : CmdOp} {q : Cmd} (h : (cmdGet s.dev.m r (opcode op) q).isSome = true) :
    cmdGet s.mach r (opcode op) q = some ((cg s r op q).1, (cg s r op q).2.1, (cg s r op q).2.2) := by
  obtain ⟨x, hx⟩ := Option.isSome_iff_exists.mp h
  simp [cg, State.mach, hx]
theorem find_range' (n a b : Nat) (x : Option Nat) (h : a ≤ b) (hb : b < a + n) :
    (Tbl.find ((List.range' a n).map fun i => (i, x)) b).isSome = true := by
  induction n generalizing a with
  | zero => omega
  | succ n ih =>
    rw [List.range'_succ, List.map_cons]
    by_cases e : b = a
    · simp [Tbl.find, e]
    · have := ih (a + 1) (by omega) (by omega)
      have hn : ¬ b < a := by omega
      simpa [Tbl.find, e, hn] using this
theorem find_range (n b : Nat) (x : Option Nat) (h : b < n) : (Tbl.find ((List.range n).map fun i => (i, x)) b).isSome = true := by
  rw [List.range_eq_range']
  exact find_range' n 0 b x (Nat.zero_le _) (by omega)
theorem no_bufs {m : Mach} {n : Nat} (h : m.tsk.link = (List.range 8192).map fun i => (i, none)) : m.freeBufs n = [] := by
  have e : (List.range 8192).filter (fun b => (Tbl.find m.tsk.link b).isNone) = [] := by
    rw [List.filter_eq_nil_iff, h]
    intro b hb
    have := find_range 8192 b none (List.mem_range.mp hb)
    cases hf : Tbl.find ((List.range 8192).map fun i => (i, none)) b <;> simp_all
  unfold Mach.freeBufs
  rw [e]; exact List.take_nil

/-! ### The whole machine, reset, startup -/
namespace Whole
def st (x : Stage) : State := gl base fun g => {g with stage := x}
def setX (k : Nat) : List Byte := [BitVec.ofNat 8 k, 0,0,0, 0,0,1,0, 0,0,0,4, 0,0,0,0] ++ z 240 ++ z 4

set_option maxRecDepth 100000 in
theorem test_witness_StepRunsTheFrontCommand :
    ∃ (s : State) (i : Instr) (rest : List Instr),
    s.pending = i :: rest :=
  ⟨{ base with pending := [.cmdNop 0 {}, .pwrgoodFall] }, ⟨.cmdNop 0 {}, ⟨[.pwrgoodFall], by decide +kernel⟩⟩⟩

set_option maxRecDepth 100000 in
theorem test_witness_EveryCommandAnswersInItsFrame :
    (∃ (i : Instr) (s : State) (t : State),
    writesConfig i = false ∧ exec i s = .next t) ∧
    (∃ (i : Instr) (s : State),
    s.mach.glb.inReset = true ∧ isPin i = false) :=
  ⟨⟨.thermtripAssert, ⟨base, ⟨getNext (exec (.thermtripAssert : Instr) (base : State)), ⟨by decide +kernel, next_of (by decide +kernel)⟩⟩⟩⟩,
   ⟨.hostLinkUp 0, ⟨gl base fun g => {g with inReset := true}, ⟨by decide +kernel, by decide +kernel⟩⟩⟩⟩

set_option maxRecDepth 100000 in
theorem test_witness_StepKeepsConfigurationInvariant :
    (∃ (s : State) (t : State),
    s.conf.Inv ∧ step s = .next t) ∧
    (∃ (s : State) (t : State),
    step s = .next t) :=
  ⟨⟨{ base with pending := [.regWrite .agent ⟨0x1400004, .b32⟩ 5] }, ⟨getNext (step ({ base with pending := [.regWrite .agent ⟨0x1400004, .b32⟩ 5] } : State)), ⟨⟨by decide +kernel, by decide +kernel, by decide +kernel, by decide +kernel, fun h => absurd h (by decide)⟩, next_of (by decide +kernel)⟩⟩⟩, ⟨{ base with pending := [.regWrite .agent ⟨0x1400004, .b32⟩ 5] }, ⟨getNext (step ({ base with pending := [.regWrite .agent ⟨0x1400004, .b32⟩ 5] } : State)), next_of (by decide +kernel)⟩⟩⟩

set_option maxRecDepth 100000 in
theorem test_witness_StepKeepsTablesOrdered :
    ∃ (s : State) (t : State),
    s.mach.Ordered ∧ step s = .next t :=
  ⟨{ base with pending := [.regWrite .agent ⟨0x1400004, .b32⟩ 5] }, ⟨getNext (step ({ base with pending := [.regWrite .agent ⟨0x1400004, .b32⟩ 5] } : State)), ⟨⟨by decide +kernel, by decide +kernel, by decide +kernel, by decide +kernel, by decide +kernel, ⟨by decide +kernel, by decide +kernel, by decide +kernel, by decide +kernel, by decide +kernel⟩, ⟨by decide +kernel, by decide +kernel, by decide +kernel, by decide +kernel, by decide +kernel⟩, by decide +kernel, by decide +kernel, by decide +kernel, by decide +kernel, by decide +kernel, by decide +kernel, by decide +kernel, by decide +kernel, by decide +kernel, by decide +kernel, by decide +kernel, by decide +kernel, by decide +kernel, by decide +kernel, by decide +kernel, fun _ => rfl, by decide +kernel, by decide +kernel, by decide +kernel, by decide +kernel⟩, next_of (by decide +kernel)⟩⟩⟩

set_option maxRecDepth 100000 in
theorem test_witness_TickAdvancesTime :
    (∃ (s : State),
    s.pending = [] ∧ s.live ∧ s.mach.tod.rem < 1_000_000_000 ∧ -1_000_000 ≤ toSigned 32 (s.conf.get todAdjAdj) ∧ toSigned 32 (s.conf.get todAdjAdj) ≤ 1_000_000) ∧
    (∃ (s : State),
    s.pending = [] ∧ s.mach.glb.inReset = true) :=
  ⟨⟨base, ⟨by decide +kernel, ⟨by decide +kernel, ⟨by decide +kernel, ⟨by decide +kernel, by decide +kernel⟩⟩⟩⟩⟩,
   ⟨gl base fun g => {g with inReset := true}, ⟨by decide +kernel, by decide +kernel⟩⟩⟩

set_option maxRecDepth 100000 in
theorem test_witness_ResetLeavesResetValues :
    ∃ (x : Fld) (i : Nat) (j : Nat) (k : Nat),
    (x.part = .live ∨ x.part = .turn) :=
  ⟨fstCtrlEnable, ⟨0, ⟨0, ⟨0, by decide +kernel⟩⟩⟩⟩

set_option maxRecDepth 100000 in
theorem test_witness_EveryRegisterIsFoundAtItsOffset :
    ∃ (b : Blk) (r : Reg) (x : Nat × Nat × Nat),
    r ∈ blkRegs b ∧ x ∈ instances r :=
  ⟨.flt, ⟨.fltInject, ⟨(0, 0, 0), ⟨by decide +kernel, by decide +kernel⟩⟩⟩⟩

set_option maxRecDepth 100000 in
theorem test_witness_PinsResetAndReleaseTheDevice :
    ((∃ (s : State),
    s.mach.glb.inReset = true ∧ s.mach.glb.resetN = true) ∧
    (∃ (s : State),
    s.mach.glb.pwrgood = false)) ∧
    ((∃ (s : State),
    s.mach.glb.inReset = true ∧ s.mach.glb.pwrgood = true) ∧
    (∃ (s : State),
    s.mach.glb.resetN = false)) :=
  ⟨⟨⟨gl base fun g => {g with inReset := true, pwrgood := false}, ⟨by decide +kernel, by decide +kernel⟩⟩, ⟨gl base fun g => {g with inReset := true, pwrgood := false}, by decide +kernel⟩⟩,
   ⟨⟨gl base fun g => {g with inReset := true, resetN := false}, ⟨by decide +kernel, by decide +kernel⟩⟩, ⟨gl base fun g => {g with inReset := true, resetN := false}, by decide +kernel⟩⟩⟩

set_option maxRecDepth 100000 in
theorem test_witness_PinsSensorsAndPllsAreFollowed_1 :
    ((∃ (s : State),
    s.mach.glb.inReset = true) ∧
    (∃ (c : Cfg) (m : Mach) (temps : List SensorRead),
    temps.length = 14 ∧ ((∀ e ∈ temps, sensorCounts e < (c.get pwrThermCfgAlert : Int) - 3 ∧ sensorCounts e < 115)) ∧
    ((∀ e ∈ temps, sensorCounts e < 115)))) ∧
    (((∃ (s : State),
    s.live) ∧
    (∃ (s : State),
    s.live ∧ s.mach.pwr.tripTold = false ∧ s.mach.pwr.alert = false)) ∧
    (((∃ (s : State) (k : Fin 6),
    s.live ∧ s.mach.pwr.pllLost.getLsbD k = false) ∧
    ((∃ (s : State),
    s.live) ∧
    (∃ (s : State),
    s.live))) ∧
    ((∃ (s : State) (temps : List SensorRead),
    s.live) ∧
    ((∃ (s : State) (rails : List Nat),
    s.live ∧ rails.length = 8) ∧
    (∃ (s : State) (rails : List (Option Nat)),
    s.live ∧ (∃ r < 8, rails.getD r none = none)))))) ∧
    ((∃ (s : State),
    s.live ∧ s.mach.pwr.tripTold = false ∧ s.mach.pwr.alert = true) ∧
    (∃ (s : State) (k : Fin 6),
    s.live ∧ s.mach.pwr.pllLost.getLsbD k = true)) ∧
    (∃ (c : Cfg) (m : Mach) (temps : List SensorRead),
    temps.length = 14 ∧ (∃ e ∈ temps, (c.get pwrThermCfgAlert : Int) ≤ sensorCounts e)) ∧
    (∃ (c : Cfg) (m : Mach) (temps : List SensorRead),
    temps.length = 14 ∧ (∃ e ∈ temps, 115 ≤ sensorCounts e)) ∧
    (∃ (s : State),
    s.live ∧ s.mach.pwr.trip = true ∧ s.mach.pwr.tripTold = true ∧ s.mach.pwr.alert = true) :=
  ⟨⟨⟨gl base fun g => {g with inReset := true}, by decide +kernel⟩, ⟨(gl base fun g => {g with inReset := true}).conf, ⟨(gl base fun g => {g with inReset := true}).mach, ⟨List.replicate 14 (.degc 20), ⟨by decide +kernel, ⟨by decide +kernel, by decide +kernel⟩⟩⟩⟩⟩⟩,
   ⟨⟨⟨base, by decide +kernel⟩, ⟨base, ⟨by decide +kernel, ⟨by decide +kernel, by decide +kernel⟩⟩⟩⟩, ⟨⟨⟨base, ⟨5, ⟨by decide +kernel, by decide +kernel⟩⟩⟩, ⟨⟨base, by decide +kernel⟩, ⟨base, by decide +kernel⟩⟩⟩, ⟨⟨base, ⟨List.replicate 14 (.degc 20), by decide +kernel⟩⟩, ⟨⟨base, ⟨List.replicate 8 100000, ⟨by decide +kernel, by decide +kernel⟩⟩⟩, ⟨base, ⟨some 7 :: List.replicate 7 none, ⟨by decide +kernel, by decide +kernel⟩⟩⟩⟩⟩⟩⟩,
   ⟨⟨pw base (fun p => {p with alert := true, pllLost := 32}), ⟨by decide +kernel, ⟨by decide +kernel, by decide +kernel⟩⟩⟩, ⟨pw base (fun p => {p with alert := true, pllLost := 32}), ⟨5, ⟨by decide +kernel, by decide +kernel⟩⟩⟩⟩,
   ⟨(pw base (fun p => {p with alert := true, trip := true})).conf, ⟨(pw base (fun p => {p with alert := true, trip := true})).mach, ⟨List.replicate 13 (.degc 20) ++ [.degc 96], ⟨by decide +kernel, by decide +kernel⟩⟩⟩⟩,
   ⟨(base).conf, ⟨(base).mach, ⟨List.replicate 13 (.degc 20) ++ [.degc 115], ⟨by decide +kernel, by decide +kernel⟩⟩⟩⟩,
   ⟨pw base (fun p => {p with alert := true, trip := true, tripTold := true}), ⟨by decide +kernel, ⟨by decide +kernel, ⟨by decide +kernel, by decide +kernel⟩⟩⟩⟩⟩

set_option maxRecDepth 100000 in
theorem test_witness_PinsSensorsAndPllsAreFollowed_2 :
    ∃ (s : State),
    s.live ∧ s.mach.pwr.trip = true ∧ s.mach.pwr.tripTold = true ∧ s.mach.pwr.alert = false :=
  ⟨pw base (fun p => {p with trip := true, tripTold := true}), ⟨by decide +kernel, ⟨by decide +kernel, ⟨by decide +kernel, by decide +kernel⟩⟩⟩⟩

set_option maxRecDepth 100000 in
theorem test_witness_StartupAdvancesStageByStage_1 :
    (∃ (s : State) (setA : List Byte) (setB : List Byte) (b : List Byte),
    s.live ∧ s.mach.glb.stage = .rom ∧ inSet setA 1 = none ∧ inSet setB 1 = none) ∧
    (∃ (s : State) (setA : List Byte) (setB : List Byte) (b : List Byte),
    s.live ∧ s.mach.glb.stage = .rom ∧ inSet setA 1 = some b ∧ inSet setB 1 = none) ∧
    (∃ (s : State) (setA : List Byte) (setB : List Byte) (b : List Byte),
    s.live ∧ s.mach.glb.stage = .rom ∧ inSet setA 1 = none ∧ inSet setB 1 = some b) ∧
    ((∃ (s : State),
    s.live ∧ s.mach.glb.stage = .verify ∧ s.mach.glb.images.length < 5) ∧
    ((∃ (s : State),
    s.live ∧ s.mach.glb.stage = .verify) ∧
    (∃ (s : State) (setA : List Byte) (setB : List Byte) (b : List Byte) (started : Bool) (k : Nat),
    s.live ∧ s.mach.glb.stage = .verify ∧ 2 ≤ k ∧ k ≤ 5 ∧ s.mach.glb.images = 8 :: List.range' 2 (k - 2) ∧ s.mach.glb.loaderB = false ∧ inSet setA k = some b ∧ inSet setB k = none))) ∧
    (∃ (s : State) (setA : List Byte) (setB : List Byte) (b : List Byte) (started : Bool) (k : Nat),
    s.live ∧ s.mach.glb.stage = .verify ∧ 2 ≤ k ∧ k ≤ 5 ∧ s.mach.glb.images = 8 :: List.range' 2 (k - 2) ∧ s.mach.glb.loaderB = false ∧ inSet setA k = none ∧ inSet setB k = some b) ∧
    ((∃ (s : State) (ok : Bool),
    s.live ∧ s.mach.glb.stage = .hbmTrain ∧ ok = true) ∧
    (∃ (s : State),
    s.live ∧ s.mach.glb.stage = .hbmTrain)) :=
  ⟨⟨st .rom, ⟨z 4, ⟨z 4, ⟨z 4, ⟨by decide +kernel, ⟨by decide +kernel, ⟨by decide +kernel, by decide +kernel⟩⟩⟩⟩⟩⟩⟩,
   ⟨st .rom, ⟨setX 1, ⟨z 4, ⟨z 4, ⟨by decide +kernel, ⟨by decide +kernel, ⟨by decide +kernel, by decide +kernel⟩⟩⟩⟩⟩⟩⟩,
   ⟨st .rom, ⟨z 4, ⟨setX 1, ⟨z 4, ⟨by decide +kernel, ⟨by decide +kernel, ⟨by decide +kernel, by decide +kernel⟩⟩⟩⟩⟩⟩⟩,
   ⟨⟨gl (st .verify) (fun g => {g with images := [8]}), ⟨by decide +kernel, ⟨by decide +kernel, by decide +kernel⟩⟩⟩, ⟨⟨gl (st .verify) (fun g => {g with images := [8]}), ⟨by decide +kernel, by decide +kernel⟩⟩, ⟨gl (st .verify) (fun g => {g with images := [8]}), ⟨setX 2, ⟨z 4, ⟨z 4, ⟨true, ⟨2, ⟨by decide +kernel, ⟨by decide +kernel, ⟨by decide +kernel, ⟨by decide +kernel, ⟨by decide +kernel, ⟨by decide +kernel, ⟨by decide +kernel, by decide +kernel⟩⟩⟩⟩⟩⟩⟩⟩⟩⟩⟩⟩⟩⟩⟩,
   ⟨gl (st .verify) (fun g => {g with images := [8]}), ⟨z 4, ⟨setX 2, ⟨z 4, ⟨true, ⟨2, ⟨by decide +kernel, ⟨by decide +kernel, ⟨by decide +kernel, ⟨by decide +kernel, ⟨by decide +kernel, ⟨by decide +kernel, ⟨by decide +kernel, by decide +kernel⟩⟩⟩⟩⟩⟩⟩⟩⟩⟩⟩⟩⟩,
   ⟨⟨st .hbmTrain, ⟨true, ⟨by decide +kernel, ⟨by decide +kernel, by decide +kernel⟩⟩⟩⟩, ⟨st .hbmTrain, ⟨by decide +kernel, by decide +kernel⟩⟩⟩⟩

set_option maxRecDepth 100000 in
theorem test_witness_StartupAdvancesStageByStage_2 :
    ((∃ (s : State),
    s.live ∧ s.mach.glb.stage = .serdesCal) ∧
    (∃ (s : State) (failed : BitVec 256),
    s.live ∧ s.mach.glb.stage = .serdesCal)) ∧
    (∃ (s : State),
    s.live ∧ s.mach.glb.stage = .verify ∧ s.mach.glb.images.length = 5) ∧
    (∃ (s : State) (setA : List Byte) (setB : List Byte) (started : Bool),
    s.live ∧ s.mach.glb.stage = .verify ∧ s.mach.glb.images = [] ∧ inSet setA 8 = none ∧ inSet setB 8 = none) ∧
    (∃ (s : State) (setA : List Byte) (setB : List Byte) (ok : Bool) (failed : BitVec 256),
    s.live ∧ s.mach.glb.stage = .sealed) :=
  ⟨⟨⟨st .serdesCal, ⟨by decide +kernel, by decide +kernel⟩⟩, ⟨st .serdesCal, ⟨5#256, ⟨by decide +kernel, by decide +kernel⟩⟩⟩⟩,
   ⟨gl (st .verify) fun g => {g with images := [8,2,3,4,5]}, ⟨by decide +kernel, ⟨by decide +kernel, by decide +kernel⟩⟩⟩,
   ⟨st .verify, ⟨z 4, ⟨z 4, ⟨true, ⟨by decide +kernel, ⟨by decide +kernel, ⟨by decide +kernel, ⟨by decide +kernel, by decide +kernel⟩⟩⟩⟩⟩⟩⟩⟩,
   ⟨st .sealed, ⟨z 4, ⟨z 4, ⟨true, ⟨5#256, ⟨by decide +kernel, by decide +kernel⟩⟩⟩⟩⟩⟩⟩

set_option maxRecDepth 100000 in
theorem test_witness_RandomSourceSeedingAndItsTimeout :
    ((∃ (s : State),
    s.live ∧ s.mach.sec.rngSeeded = false) ∧
    ((∃ (s : State),
    s.live ∧ (s.mach.sec.rngSeeded = true ∨ s.mach.up < 100_000_000)) ∧
    (∃ (s : State) (cause : Nat),
    s.mach.glb.stage = .waitHost))) ∧
    (∃ (s : State),
    s.live ∧ s.mach.sec.rngSeeded = false ∧ 100_000_000 ≤ s.mach.up) ∧
    ((∃ (s : State),
    s.live ∧ s.mach.sec.rngSeeded = true) ∧
    (∃ (s : State),
    s.live ∧ s.mach.sec.rngSeeded = true)) :=
  ⟨⟨⟨base, ⟨by decide +kernel, by decide +kernel⟩⟩, ⟨⟨base, ⟨by decide +kernel, by decide +kernel⟩⟩, ⟨base, ⟨5, by decide +kernel⟩⟩⟩⟩,
   ⟨upd base fun m => {m with up := 100000000}, ⟨by decide +kernel, ⟨by decide +kernel, by decide +kernel⟩⟩⟩,
   ⟨⟨upd base fun m => {m with sec := {m.sec with rngSeeded := true}}, ⟨by decide +kernel, by decide +kernel⟩⟩, ⟨upd base fun m => {m with sec := {m.sec with rngSeeded := true}}, ⟨by decide +kernel, by decide +kernel⟩⟩⟩⟩
end Whole

/-! ### Registers that act -/
namespace Controls
def HQ : Requester := .host 0
def SL := gl base fun g => { g with sealSt := .sealed, stage := .sealed }
def GX (cy len ext : Nat) := withCfg (withCfg (withCfg base schGateCycleCycle cy 1 127 0) schGateCtrlAdminLen len 1 127 0) schGateExtExt ext 1 127 0
def rr (r : Reg) (d n : Nat) : BitVec 27 := BitVec.ofNat 27 (regAddr r d n 0)
def W3r := fl base fun f => {f with waiting := [{src := 1023, sev := 2, time := 3000000000, detail := 2^32-1}]}
def w1 : WItem := {wq := 0, src := 1}

set_option maxRecDepth 100000 in
theorem test_witness_AcceptedWriteTouchesItsOwnStatus :
    ∃ (s : State) (q : Requester) (r : Reg) (i : Nat) (j : Nat) (k : Nat) (v : Word),
    Tbl.rising s.mach.reg.stat = true ∧ r ≠ .glbReadBank ∧ ∃ (a : Nat),
    a ≠ regAddr r i j k ∧ (∀ lo, loOf r = some lo → a ≠ regAddr lo i j k) ∧ (∀ b, bankOf (regAddr r i j k) = some b ∨ (∃ lo, loOf r = some lo ∧ bankOf (regAddr lo i j k) = some b) → a < pmcBankBase b ∨ pmcBankBase b + 0x100 ≤ a) :=
  ⟨base, ⟨A, ⟨.fltAck, ⟨0, ⟨0, ⟨0, ⟨5, ⟨by decide +kernel, ⟨by decide +kernel, ⟨0x100, ⟨by decide +kernel, ⟨by decide +kernel, by intro b h; rcases h with h | ⟨lo, h, -⟩ <;> first | (rw [show bankOf (regAddr Reg.fltAck 0 0 0) = some 1 by decide +kernel] at h; cases h; decide +kernel) | simp [loOf] at h⟩⟩⟩⟩⟩⟩⟩⟩⟩⟩⟩⟩

set_option maxRecDepth 100000 in
theorem test_witness_SealAndRestartKeysAct :
    (∃ (s : State) (q : Requester),
    s.mach.glb.stage = .waitHost ∧ (s.mach.glb.sealSt = .unsealed ∨ s.mach.glb.sealSt = .refused) ∧ s.live ∧ Takes s.dev q glbSealKey.reg 0 0 0 (fieldWord s.dev.cfg s.dev.m ((glbSealKey, 0x5EA1) :: []) 0 0 0)) ∧
    (∃ (s : State) (q : Requester),
    (s.mach.glb.stage ≠ .waitHost ∨ s.mach.glb.sealSt = .checking ∨ s.mach.glb.sealSt = .sealed) ∧ s.live ∧ Takes s.dev q glbSealKey.reg 0 0 0 (fieldWord s.dev.cfg s.dev.m ((glbSealKey, 0x5EA1) :: []) 0 0 0)) ∧
    (∃ (s : State) (q : Requester),
    (s.mach.flt.resetReq = true ∨ s.mach.glb.stage.num < 5 ∨ s.mach.glb.stage = .failed) ∧ s.live ∧ Takes s.dev q glbRestartKey.reg 0 0 0 (fieldWord s.dev.cfg s.dev.m ((glbRestartKey, 0xC01D) :: []) 0 0 0)) ∧
    (∃ (s : State) (q : Requester),
    s.live ∧ s.mach.flt.resetReq = false ∧ 5 ≤ s.mach.glb.stage.num ∧ s.mach.glb.stage ≠ .failed ∧ Takes s.dev q .glbRestart 0 0 0 (fieldWord s.conf s.mach [(glbRestartKey, 0xC01D)] 0 0 0)) :=
  ⟨⟨base, ⟨A, ⟨by decide +kernel, ⟨by decide +kernel, ⟨by decide +kernel, takes_of (by decide +kernel)⟩⟩⟩⟩⟩,
   ⟨SL, ⟨A, ⟨by decide +kernel, ⟨by decide +kernel, takes_of (by decide +kernel)⟩⟩⟩⟩,
   ⟨fl H0 (fun f => {f with resetReq := true}), ⟨HQ, ⟨by decide +kernel, ⟨by decide +kernel, takes_of (by decide +kernel)⟩⟩⟩⟩,
   ⟨H0, ⟨HQ, ⟨by decide +kernel, ⟨by decide +kernel, ⟨by decide +kernel, ⟨by decide +kernel, takes_of (by decide +kernel)⟩⟩⟩⟩⟩⟩⟩

set_option maxRecDepth 100000 in
theorem test_witness_TurnCommitIsScheduledOrAnswered :
    (∃ (s : State) (q : Requester),
    s.mach.glb.sealSt ≠ .sealed ∧ s.live ∧ Takes s.dev q glbTurnCommitGo.reg 0 0 0 (fieldWord s.dev.cfg s.dev.m ((glbTurnCommitGo, 1) :: []) 0 0 0)) ∧
    (∃ (s : State) (q : Requester),
    s.mach.glb.sealSt = .sealed ∧ s.mach.glb.turn = .idle ∧ s.live ∧ Takes s.dev q glbTurnCommitGo.reg 0 0 0 (fieldWord s.dev.cfg s.dev.m ((glbTurnCommitGo, 1) :: []) 0 0 0)) ∧
    (∃ (s : State) (q : Requester),
    s.mach.glb.sealSt = .sealed ∧ s.mach.glb.turn ≠ .idle ∧ s.live ∧ Takes s.dev q glbTurnCommitGo.reg 0 0 0 (fieldWord s.dev.cfg s.dev.m ((glbTurnCommitGo, 1) :: []) 0 0 0)) :=
  ⟨⟨base, ⟨A, ⟨by decide +kernel, ⟨by decide +kernel, takes_of (by decide +kernel)⟩⟩⟩⟩,
   ⟨SL, ⟨A, ⟨by decide +kernel, ⟨by decide +kernel, ⟨by decide +kernel, takes_of (by decide +kernel)⟩⟩⟩⟩⟩,
   ⟨gl SL fun g => {g with turn := .draining}, ⟨A, ⟨by decide +kernel, ⟨by decide +kernel, ⟨by decide +kernel, takes_of (by decide +kernel)⟩⟩⟩⟩⟩⟩

set_option maxRecDepth 100000 in
theorem test_witness_TurnDiscardRestoresTheShadow :
    (∃ (s : State) (q : Requester),
    s.mach.glb.turn = .idle ∧ s.live ∧ Takes s.dev q glbTurnCommitDiscard.reg 0 0 0 (fieldWord s.dev.cfg s.dev.m ((glbTurnCommitDiscard, 1) :: []) 0 0 0)) ∧
    (∃ (s : State) (q : Requester),
    s.mach.glb.turn ≠ .idle ∧ s.live ∧ Takes s.dev q glbTurnCommitDiscard.reg 0 0 0 (fieldWord s.dev.cfg s.dev.m ((glbTurnCommitDiscard, 1) :: []) 0 0 0)) :=
  ⟨⟨base, ⟨A, ⟨by decide +kernel, ⟨by decide +kernel, takes_of (by decide +kernel)⟩⟩⟩⟩,
   ⟨gl SL fun g => {g with turn := .draining}, ⟨A, ⟨by decide +kernel, ⟨by decide +kernel, takes_of (by decide +kernel)⟩⟩⟩⟩⟩

set_option maxRecDepth 100000 in
theorem test_witness_RolesAndAdminRingsFollowTheirRegisters :
    ((∃ (s : State) (q : Requester) (p : Fin 4) (roles : BitVec 8),
    s.live ∧ Takes s.dev q hifPortRolePrimary.reg 0 0 0 (fieldWord s.dev.cfg s.dev.m ((hifPortRolePrimary, p) :: [(hifPortRoleRoles, roles.toNat)]) 0 0 0)) ∧
    ((∃ (s : State) (q : Requester) (p : Fin 4) (roles : BitVec 8),
    Tbl.rising s.mach.reg.stat = true ∧ s.mach.primary < 4 ∧ ∃ (n : Fin 4),
    n ≠ p ∧ n.val ≠ s.mach.primary) ∧
    ((∃ (c : Cfg) (m : Mach),
    m.hif.rings = []) ∧
    ((∃ (s : State) (q : Requester) (p : Fin 4),
    s.mach.st hifAdminCfgEn p = 0 ∧ s.live ∧ Takes s.dev q hifAdminCfgEn.reg p 0 0 (fieldWord s.dev.cfg s.dev.m ((hifAdminCfgEn, 1) :: []) p 0 0)) ∧
    ((∃ (c : Cfg) (m : Mach) (p : Nat),
    (c.get hifAdminCfgVer p = 1 ∨ c.get hifAdminCfgVer p = 2) ∧ 6 ≤ c.get hifAdminCfgLog2 p ∧ c.get hifAdminCfgLog2 p ≤ 16 ∧ (m.ring p).state = .absent) ∧
    (∃ (c : Cfg) (m : Mach) (n : Nat),
    (m.ring n).state = .absent)))))) ∧
    (∃ (c : Cfg) (m : Mach) (p : Nat),
    c.get hifAdminCfgVer p ≠ 1 ∧ c.get hifAdminCfgVer p ≠ 2) ∧
    (∃ (c : Cfg) (m : Mach) (p : Nat),
    (c.get hifAdminCfgVer p = 1 ∨ c.get hifAdminCfgVer p = 2) ∧ (c.get hifAdminCfgLog2 p < 6 ∨ 16 < c.get hifAdminCfgLog2 p)) ∧
    (∃ (s : State) (q : Requester) (p : Fin 4),
    s.mach.st hifAdminCfgEn p = 1 ∧ s.live ∧ Takes s.dev q hifAdminCfgEn.reg p 0 0 (fieldWord s.dev.cfg s.dev.m ((hifAdminCfgEn, 0) :: []) p 0 0)) :=
  ⟨⟨⟨H0, ⟨HQ, ⟨1, ⟨4, ⟨by decide +kernel, takes_of (by decide +kernel)⟩⟩⟩⟩⟩, ⟨⟨H0, ⟨HQ, ⟨1, ⟨4, ⟨by decide +kernel, ⟨by decide +kernel, ⟨3, ⟨by decide +kernel, by decide +kernel⟩⟩⟩⟩⟩⟩⟩⟩, ⟨⟨(H0).conf, ⟨(H0).mach, by decide +kernel⟩⟩, ⟨⟨H0, ⟨HQ, ⟨1, ⟨by decide +kernel, ⟨by decide +kernel, takes_of (by decide +kernel)⟩⟩⟩⟩⟩, ⟨⟨(H0).conf, ⟨(H0).mach, ⟨1, ⟨by decide +kernel, ⟨by decide +kernel, ⟨by decide +kernel, by decide +kernel⟩⟩⟩⟩⟩⟩, ⟨(H0).conf, ⟨(H0).mach, ⟨0, by decide +kernel⟩⟩⟩⟩⟩⟩⟩⟩,
   ⟨(withCfg H0 hifAdminCfgVer 3 1 0 0).conf, ⟨(withCfg H0 hifAdminCfgVer 3 1 0 0).mach, ⟨1, ⟨by decide +kernel, by decide +kernel⟩⟩⟩⟩,
   ⟨(withCfg (withCfg H0 hifAdminCfgVer 1 1 0 0) hifAdminCfgLog2 5 1 0 0).conf, ⟨(withCfg (withCfg H0 hifAdminCfgVer 1 1 0 0) hifAdminCfgLog2 5 1 0 0).mach, ⟨1, ⟨by decide +kernel, by decide +kernel⟩⟩⟩⟩,
   ⟨withStat H0 hifAdminCfgEn 1 1 0 0, ⟨HQ, ⟨1, ⟨by decide +kernel, ⟨by decide +kernel, takes_of (by decide +kernel)⟩⟩⟩⟩⟩⟩

set_option maxRecDepth 100000 in
theorem test_witness_FlowStoreControlsAct :
    ((∃ (s : State) (q : Requester),
    s.conf.get fstCtrlEnable = 0 ∧ s.live ∧ Takes s.dev q fstCtrlEnable.reg 0 0 0 (fieldWord s.dev.cfg s.dev.m ((fstCtrlEnable, 1) :: []) 0 0 0)) ∧
    ((∃ (s : State) (q : Requester) (i : Fin 17) (r : Nat),
    r < 16 ∧ s.mach.phys r = i ∧ (∀ n < r, s.mach.phys n ≠ i) ∧ (s.live ∧ Takes s.dev q fslCtrlRebuild.reg i 0 0 (fieldWord s.dev.cfg s.dev.m ((fslCtrlRebuild, 1) :: []) i 0 0)) ∧
    (s.live ∧ Takes s.dev q fslCtrlSweepNow.reg i 0 0 (fieldWord s.dev.cfg s.dev.m ((fslCtrlSweepNow, 1) :: []) i 0 0))) ∧
    (∃ (s : State) (q : Requester) (slot : Fin 16),
    s.mach.fsl.spareAvail = true ∧ s.mach.fsl.takeover = none ∧ s.live ∧ Takes s.dev q fstTakeoverGo.reg 0 0 0 (fieldWord s.dev.cfg s.dev.m ((fstTakeoverGo, 1) :: [(fstTakeoverSlot, slot)]) 0 0 0)))) ∧
    (∃ (s : State) (q : Requester),
    s.conf.get fstCtrlEnable = 1 ∧ s.live ∧ Takes s.dev q fstCtrlEnable.reg 0 0 0 (fieldWord s.dev.cfg s.dev.m ((fstCtrlEnable, 0) :: []) 0 0 0)) ∧
    (∃ (s : State) (q : Requester) (i : Fin 17),
    (∀ r < 16, s.mach.phys r ≠ i) ∧ (s.live ∧ Takes s.dev q fslCtrlRebuild.reg i 0 0 (fieldWord s.dev.cfg s.dev.m ((fslCtrlRebuild, 1) :: []) i 0 0)) ∧
    (s.live ∧ Takes s.dev q fslCtrlSweepNow.reg i 0 0 (fieldWord s.dev.cfg s.dev.m ((fslCtrlSweepNow, 1) :: []) i 0 0))) ∧
    (∃ (c : Cfg) (m : Mach) (r : Nat) (k : SweepKind),
    (m.sweepOf r).waiting.contains k = true) ∧
    (∃ (c : Cfg) (m : Mach) (r : Nat) (k : SweepKind),
    Tbl.rising m.fsl.sweep = true ∧ (m.sweepOf r).waiting.contains k = false ∧ (m.sweepOf r).running.isSome = true) ∧
    (∃ (s : State) (q : Requester) (slot : Fin 16),
    (s.mach.fsl.spareAvail = false ∨ s.mach.fsl.takeover.isSome = true) ∧ s.live ∧ Takes s.dev q fstTakeoverGo.reg 0 0 0 (fieldWord s.dev.cfg s.dev.m ((fstTakeoverGo, 1) :: [(fstTakeoverSlot, slot)]) 0 0 0)) :=
  ⟨⟨⟨base, ⟨A, ⟨by decide +kernel, ⟨by decide +kernel, takes_of (by decide +kernel)⟩⟩⟩⟩, ⟨⟨base, ⟨A, ⟨3, ⟨3, ⟨by decide +kernel, ⟨by decide +kernel, ⟨by decide +kernel, ⟨⟨by decide +kernel, takes_of (by decide +kernel)⟩, ⟨by decide +kernel, takes_of (by decide +kernel)⟩⟩⟩⟩⟩⟩⟩⟩⟩, ⟨base, ⟨A, ⟨3, ⟨by decide +kernel, ⟨by decide +kernel, ⟨by decide +kernel, takes_of (by decide +kernel)⟩⟩⟩⟩⟩⟩⟩⟩,
   ⟨withCfg base fstCtrlEnable 1 0 0 0, ⟨A, ⟨by decide +kernel, ⟨by decide +kernel, takes_of (by decide +kernel)⟩⟩⟩⟩,
   ⟨base, ⟨A, ⟨16, ⟨by decide +kernel, ⟨⟨by decide +kernel, takes_of (by decide +kernel)⟩, ⟨by decide +kernel, takes_of (by decide +kernel)⟩⟩⟩⟩⟩⟩,
   ⟨(upd base fun m => m.setSweep 3 {waiting := [.sweep]}).conf, ⟨(upd base fun m => m.setSweep 3 {waiting := [.sweep]}).mach, ⟨3, ⟨.sweep, by decide +kernel⟩⟩⟩⟩,
   ⟨(upd base (fun m => m.setSweep 3 {waiting := [.rebuild], running := some (.sweep)})).conf, ⟨(upd base (fun m => m.setSweep 3 {waiting := [.rebuild], running := some (.sweep)})).mach, ⟨3, ⟨.sweep, ⟨by decide +kernel, ⟨by decide +kernel, by decide +kernel⟩⟩⟩⟩⟩⟩,
   ⟨fs base fun f => {f with spareAvail := false}, ⟨A, ⟨3, ⟨by decide +kernel, ⟨by decide +kernel, takes_of (by decide +kernel)⟩⟩⟩⟩⟩⟩

set_option maxRecDepth 100000 in
theorem test_witness_PipelinesPortsAndGatesAreControlled :
    ((∃ (s : State) (q : Requester) (n : Fin 32),
    s.live ∧ Takes s.dev q pplCtrlDrain.reg n 0 0 (fieldWord s.dev.cfg s.dev.m ((pplCtrlDrain, 1) :: []) n 0 0)) ∧
    ((∃ (s : State) (q : Requester) (g : Fin 32) (p : Fin 6) (speed : Fin 8) (fec : Fin 4) (lane : Fin 8),
    s.conf.get prtPortCfgEn g p = 0 ∧ s.live ∧ Takes s.dev q prtPortCfgEn.reg g p 0 (fieldWord s.dev.cfg s.dev.m ((prtPortCfgEn, 1) :: [(prtPortCfgSpeed, speed.val), (prtPortCfgFec, fec.val), (prtPortCfgFirstLane, lane.val)]) g p 0)) ∧
    ((∃ (s : State) (q : Requester) (l : Fin 256),
    s.conf.get schGateCtrlGateEn (l / 128) (l % 128) = 0 ∧ s.live ∧ Takes s.dev q schGateCtrlConfigChange.reg (l / 128) (l % 128) 0 (fieldWord s.dev.cfg s.dev.m ((schGateCtrlConfigChange, 1) :: []) (l / 128) (l % 128) 0)) ∧
    ((∃ (c : Cfg) (m : Mach) (l : Nat),
    (m.gate l).change = none ∧ (c.get schGateCycleCycle (l / 128) (l % 128) < 1000 ∨ 1_000_000_000 < c.get schGateCycleCycle (l / 128) (l % 128) ∨
      c.get schGateCtrlAdminLen (l / 128) (l % 128) = 0 ∨ 1024 < c.get schGateCtrlAdminLen (l / 128) (l % 128) ∨
      c.get schGateCycleCycle (l / 128) (l % 128) < c.get schGateExtExt (l / 128) (l % 128))) ∧
    (∃ (s : State) (q : Requester) (l : Fin 256),
    s.live ∧ Takes s.dev q schGateCtrlGateEn.reg (l / 128) (l % 128) 0 (fieldWord s.dev.cfg s.dev.m ((schGateCtrlGateEn, 0) :: []) (l / 128) (l % 128) 0)))))) ∧
    (∃ (c : Cfg) (m : Mach) (l : Nat),
    (m.gate l).change = none ∧ 1000 ≤ c.get schGateCycleCycle (l / 128) (l % 128) ∧ c.get schGateCycleCycle (l / 128) (l % 128) ≤ 1_000_000_000 ∧ 0 < c.get schGateCtrlAdminLen (l / 128) (l % 128) ∧ c.get schGateCtrlAdminLen (l / 128) (l % 128) ≤ 1024 ∧ c.get schGateExtExt (l / 128) (l % 128) ≤ c.get schGateCycleCycle (l / 128) (l % 128)) ∧
    (∃ (c : Cfg) (m : Mach) (l : Nat),
    (m.gate l).change.isSome = true) ∧
    (∃ (s : State) (q : Requester) (l : Fin 256),
    s.conf.get schGateCtrlGateEn (l / 128) (l % 128) = 1 ∧ s.live ∧ Takes s.dev q schGateCtrlConfigChange.reg (l / 128) (l % 128) 0 (fieldWord s.dev.cfg s.dev.m ((schGateCtrlConfigChange, 1) :: []) (l / 128) (l % 128) 0)) :=
  ⟨⟨⟨base, ⟨A, ⟨31, ⟨by decide +kernel, takes_of (by decide +kernel)⟩⟩⟩⟩, ⟨⟨base, ⟨A, ⟨31, ⟨5, ⟨2, ⟨1, ⟨0, ⟨by decide +kernel, ⟨by decide +kernel, takes_of (by decide +kernel)⟩⟩⟩⟩⟩⟩⟩⟩⟩, ⟨⟨base, ⟨A, ⟨255, ⟨by decide +kernel, ⟨by decide +kernel, takes_of (by decide +kernel)⟩⟩⟩⟩⟩, ⟨⟨(base).conf, ⟨(base).mach, ⟨255, ⟨by decide +kernel, by decide +kernel⟩⟩⟩⟩, ⟨base, ⟨A, ⟨255, ⟨by decide +kernel, takes_of (by decide +kernel)⟩⟩⟩⟩⟩⟩⟩⟩,
   ⟨(GX 1000 1 1000).conf, ⟨(GX 1000 1 1000).mach, ⟨255, ⟨by decide +kernel, ⟨by decide +kernel, ⟨by decide +kernel, ⟨by decide +kernel, ⟨by decide +kernel, by decide +kernel⟩⟩⟩⟩⟩⟩⟩⟩,
   ⟨(upd (GX 1000 1 0) fun m => m.setGate 255 {m.gate 255 with change := some ⟨0, 1000, 0, 1⟩ }).conf, ⟨(upd (GX 1000 1 0) fun m => m.setGate 255 {m.gate 255 with change := some ⟨0, 1000, 0, 1⟩ }).mach, ⟨255, by decide +kernel⟩⟩⟩,
   ⟨withCfg base schGateCtrlGateEn 1 1 127 0, ⟨A, ⟨255, ⟨by decide +kernel, ⟨by decide +kernel, takes_of (by decide +kernel)⟩⟩⟩⟩⟩⟩

set_option maxRecDepth 100000 in
theorem test_witness_ShaperWritesAccrueThenReset_1 :
    ((∃ (s : State) (q : Requester) (off : BitVec 27) (v : Word) (d : Nat) (n : Nat),
    off.toNat = regAddr .schSubCir d n 0 ∧ s.live ∧ Takes s.dev q .schSubCir d n 0 v) ∧
    ((∃ (c : Cfg) (c' : Cfg) (m : Mach) (n : Node) (a : Option Nat) (b : Option Nat),
    Tbl.rising m.sch.cir = true ∧ Tbl.rising m.sch.pir = true ∧ (∃ k,
    k ≠ n.key) ∧
    ((a = some 1) ∧
    (b = some 2))) ∧
    (∃ (b : Bucket) (rate : Nat) (burst : Nat) (t : Nat),
    b.last ≤ t ∧ b.tok ≤ (burst : Int) * 2 ^ 24 ∧ b.frac < 8_000_000))) ∧
    ((∃ (s : State) (q : Requester) (off : BitVec 27) (v : Word) (d : Nat) (n : Nat),
    off.toNat = regAddr .schSubPir d n 0 ∧ s.live ∧ Takes s.dev q .schSubPir d n 0 v) ∧
    (∃ (c : Cfg) (c' : Cfg) (m : Mach) (n : Node) (a : Option Nat) (b : Option Nat),
    Tbl.rising m.sch.cir = true ∧ Tbl.rising m.sch.pir = true ∧ (a = none) ∧
    (b = none))) ∧
    ((∃ (s : State) (q : Requester) (off : BitVec 27) (v : Word) (d : Nat) (n : Nat),
    off.toNat = regAddr .schSvcCir d n 0 ∧ s.live ∧ Takes s.dev q .schSvcCir d n 0 v) ∧
    (∃ (c : Cfg) (c' : Cfg) (m : Mach) (n : Node) (a : Option Nat) (b : Option Nat),
    Tbl.rising m.sch.cir = true ∧ Tbl.rising m.sch.pir = true ∧ b = some 0)) ∧
    (∃ (s : State) (q : Requester) (off : BitVec 27) (v : Word) (d : Nat) (n : Nat),
    off.toNat = regAddr .schSvcPir d n 0 ∧ s.live ∧ Takes s.dev q .schSvcPir d n 0 v) ∧
    (∃ (s : State) (q : Requester) (off : BitVec 27) (v : Word) (d : Nat) (n : Nat),
    off.toNat = regAddr .schPortPir d n 0 ∧ s.live ∧ Takes s.dev q .schPortPir d n 0 v) ∧
    (∃ (s : State) (q : Requester) (off : BitVec 27) (v : Word) (d : Nat) (n : Nat),
    off.toNat = regAddr .schSubBurst d n 0 ∧ s.live ∧ Takes s.dev q .schSubBurst d n 0 v) :=
  ⟨⟨⟨base, ⟨A, ⟨rr .schSubCir 1 3, ⟨0x40000010, ⟨1, ⟨3, ⟨by decide +kernel, ⟨by decide +kernel, takes_of (by decide +kernel)⟩⟩⟩⟩⟩⟩⟩⟩, ⟨⟨(base).conf, ⟨(base).conf, ⟨(base).mach, ⟨.sub 5, ⟨some 1, ⟨some 2, ⟨by decide +kernel, ⟨by decide +kernel, ⟨⟨7, by decide +kernel⟩, ⟨by decide +kernel, by decide +kernel⟩⟩⟩⟩⟩⟩⟩⟩⟩⟩, ⟨{last := 3, tok := 5}, ⟨1000, ⟨1500, ⟨9, ⟨by decide +kernel, ⟨by decide +kernel, by decide +kernel⟩⟩⟩⟩⟩⟩⟩⟩,
   ⟨⟨base, ⟨A, ⟨rr .schSubPir 1 3, ⟨0x40000010, ⟨1, ⟨3, ⟨by decide +kernel, ⟨by decide +kernel, takes_of (by decide +kernel)⟩⟩⟩⟩⟩⟩⟩⟩, ⟨(base).conf, ⟨(base).conf, ⟨(base).mach, ⟨.sub 5, ⟨none, ⟨none, ⟨by decide +kernel, ⟨by decide +kernel, ⟨by decide +kernel, by decide +kernel⟩⟩⟩⟩⟩⟩⟩⟩⟩⟩,
   ⟨⟨base, ⟨A, ⟨rr .schSvcCir 1 3, ⟨0x40000010, ⟨1, ⟨3, ⟨by decide +kernel, ⟨by decide +kernel, takes_of (by decide +kernel)⟩⟩⟩⟩⟩⟩⟩⟩, ⟨(base).conf, ⟨(base).conf, ⟨(base).mach, ⟨.sub 5, ⟨some 1, ⟨some 0, ⟨by decide +kernel, ⟨by decide +kernel, by decide +kernel⟩⟩⟩⟩⟩⟩⟩⟩⟩,
   ⟨base, ⟨A, ⟨rr .schSvcPir 1 3, ⟨0x40000010, ⟨1, ⟨3, ⟨by decide +kernel, ⟨by decide +kernel, takes_of (by decide +kernel)⟩⟩⟩⟩⟩⟩⟩⟩,
   ⟨base, ⟨A, ⟨rr .schPortPir 1 3, ⟨0x40000010, ⟨1, ⟨3, ⟨by decide +kernel, ⟨by decide +kernel, takes_of (by decide +kernel)⟩⟩⟩⟩⟩⟩⟩⟩,
   ⟨base, ⟨A, ⟨rr .schSubBurst 1 3, ⟨0x40008001, ⟨1, ⟨3, ⟨by decide +kernel, ⟨by decide +kernel, takes_of (by decide +kernel)⟩⟩⟩⟩⟩⟩⟩⟩⟩

set_option maxRecDepth 100000 in
theorem test_witness_ShaperWritesAccrueThenReset_2 :
    (∃ (s : State) (q : Requester) (off : BitVec 27) (v : Word) (d : Nat) (n : Nat),
    off.toNat = regAddr .schSvcBurst d n 0 ∧ s.live ∧ Takes s.dev q .schSvcBurst d n 0 v) ∧
    (∃ (s : State) (q : Requester) (off : BitVec 27) (v : Word) (d : Nat) (n : Nat),
    off.toNat = regAddr .schPortBurst d n 0 ∧ s.live ∧ Takes s.dev q .schPortBurst d n 0 v) ∧
    (∃ (c : Cfg) (c' : Cfg) (m : Mach) (n : Node) (a : Option Nat) (b : Option Nat),
    Tbl.rising m.sch.cir = true ∧ Tbl.rising m.sch.pir = true ∧ (a = some 2) ∧
    (b = some 1)) ∧
    (∃ (c : Cfg) (c' : Cfg) (m : Mach) (n : Node) (a : Option Nat) (b : Option Nat),
    Tbl.rising m.sch.cir = true ∧ Tbl.rising m.sch.pir = true ∧ a = some 0) :=
  ⟨⟨base, ⟨A, ⟨rr .schSvcBurst 1 3, ⟨0x40008001, ⟨1, ⟨3, ⟨by decide +kernel, ⟨by decide +kernel, takes_of (by decide +kernel)⟩⟩⟩⟩⟩⟩⟩⟩,
   ⟨base, ⟨A, ⟨rr .schPortBurst 1 3, ⟨0x40008001, ⟨1, ⟨3, ⟨by decide +kernel, ⟨by decide +kernel, takes_of (by decide +kernel)⟩⟩⟩⟩⟩⟩⟩⟩,
   ⟨(base).conf, ⟨(base).conf, ⟨(base).mach, ⟨.sub 5, ⟨some 2, ⟨some 1, ⟨by decide +kernel, ⟨by decide +kernel, ⟨by decide +kernel, by decide +kernel⟩⟩⟩⟩⟩⟩⟩⟩⟩,
   ⟨(base).conf, ⟨(base).conf, ⟨(base).mach, ⟨.sub 5, ⟨some 0, ⟨some 0, ⟨by decide +kernel, ⟨by decide +kernel, by decide +kernel⟩⟩⟩⟩⟩⟩⟩⟩⟩

set_option maxRecDepth 100000 in
theorem test_witness_TodStepsAreScheduledOnce :
    (∃ (s : State) (q : Requester),
    s.mach.tod.stepAt = none ∧ (s.live ∧ Takes s.dev q todCtrlStep.reg 0 0 0 (fieldWord s.dev.cfg s.dev.m ((todCtrlStep, 1) :: []) 0 0 0)) ∧
    (s.live ∧ Takes s.dev q todCtrlOffset.reg 0 0 0 (fieldWord s.dev.cfg s.dev.m ((todCtrlOffset, 1) :: []) 0 0 0))) ∧
    (∃ (s : State) (q : Requester),
    s.mach.tod.stepAt.isSome = true ∧ (s.live ∧ Takes s.dev q todCtrlStep.reg 0 0 0 (fieldWord s.dev.cfg s.dev.m ((todCtrlStep, 1) :: []) 0 0 0)) ∧
    (s.live ∧ Takes s.dev q todCtrlOffset.reg 0 0 0 (fieldWord s.dev.cfg s.dev.m ((todCtrlOffset, 1) :: []) 0 0 0))) :=
  ⟨⟨base, ⟨A, ⟨by decide +kernel, ⟨⟨by decide +kernel, takes_of (by decide +kernel)⟩, ⟨by decide +kernel, takes_of (by decide +kernel)⟩⟩⟩⟩⟩,
   ⟨td base fun t => {t with stepAt := some 4000}, ⟨A, ⟨by decide +kernel, ⟨⟨by decide +kernel, takes_of (by decide +kernel)⟩, ⟨by decide +kernel, takes_of (by decide +kernel)⟩⟩⟩⟩⟩⟩

set_option maxRecDepth 100000 in
theorem test_witness_MacsecAssociationsFollowTheirRegisters :
    (((∃ (s : State) (q : Requester) (die : Fin 4) (e : Fin 4096),
    s.conf.get mscSaCtrlInUse die e = 0 ∧ s.live ∧ Takes s.dev q mscSaCtrlInUse.reg die e 0 (fieldWord s.dev.cfg s.dev.m ((mscSaCtrlInUse, 1) :: []) die e 0)) ∧
    ((∃ (s : State) (q : Requester) (die : Fin 4) (e : Fin 4096),
    Tbl.rising s.conf.live = true) ∧
    ((∃ (s : State) (q : Requester) (die : Fin 4) (e : Fin 4096),
    s.conf.get mscSaCtrlInUse die e = 0 ∧ s.live ∧ Takes s.dev q mscSaCtrlInUse.reg die e 0 (fieldWord s.dev.cfg s.dev.m ((mscSaCtrlInUse, 0) :: []) die e 0)) ∧
    ((∃ (s : State) (q : Requester) (die : Fin 4) (n : Fin 64) (an : Fin 4),
    s.live ∧ Takes s.dev q mscSecyTxTxAn.reg die n 0 (fieldWord s.dev.cfg s.dev.m ((mscSecyTxTxAn, an.val) :: []) die n 0)) ∧
    ((∃ (s : State) (q : Requester) (die : Fin 4) (n : Fin 64) (an : Fin 4),
    Tbl.rising s.mach.reg.stat = true) ∧
    (∃ (s : State) (q : Requester) (die : Fin 4),
    s.mach.holdsLeave opRekey die = false ∧ s.mach.waitsLeave opRekey die = false ∧ s.live ∧ Takes s.dev q mscBulkCtrlGo.reg die 0 0 (fieldWord s.dev.cfg s.dev.m ((mscBulkCtrlGo, 1) :: []) die 0 0))))))) ∧
    ((∃ (s : State) (die : Fin 4) (e : Fin 4096),
    s.live ∧ (s.conf.on mscSaCtrlInUse die e = false ∨ saIdx die e ∈ s.mach.msc.failed)) ∧
    (∃ (s : State) (die : Fin 4),
    s.live ∧ s.mach.holdsLeave opRekey die = false))) ∧
    (((∃ (s : State) (q : Requester) (die : Fin 4) (e : Fin 4096),
    s.conf.get mscSaCtrlInUse die e = 1 ∧ s.live ∧ Takes s.dev q mscSaCtrlInUse.reg die e 0 (fieldWord s.dev.cfg s.dev.m ((mscSaCtrlInUse, 1) :: []) die e 0)) ∧
    (∃ (s : State) (q : Requester) (die : Fin 4) (e : Fin 4096),
    s.conf.get mscSaCtrlInUse die e = 1 ∧ s.live ∧ Takes s.dev q mscSaCtrlInUse.reg die e 0 (fieldWord s.dev.cfg s.dev.m ((mscSaCtrlInUse, 0) :: []) die e 0))) ∧
    (∃ (s : State) (die : Fin 4) (e : Fin 4096),
    s.live ∧ s.conf.on mscSaCtrlInUse die e = true ∧ saIdx die e ∉ s.mach.msc.failed)) ∧
    ((∃ (s : State) (q : Requester) (die : Fin 4),
    (s.mach.holdsLeave opRekey die = true ∨ s.mach.waitsLeave opRekey die = true) ∧ s.live ∧ Takes s.dev q mscBulkCtrlGo.reg die 0 0 (fieldWord s.dev.cfg s.dev.m ((mscBulkCtrlGo, 1) :: []) die 0 0)) ∧
    (∃ (s : State) (die : Fin 4),
    s.live ∧ s.mach.holdsLeave opRekey die = true ∧
    let prep (m : Mach) (e : Nat) : Mach :=
      if s.conf.on mscSaCtrlInUse die e = true ∧ saIdx die e ∉ m.msc.failed ∧ saIdx die e ∉ m.msc.late then { m with msc := { m.msc with
        ready := saIdx die e :: m.msc.ready.filter (· != saIdx die e) } } else m
    let able := { (List.range 4096).foldl prep s.mach with msc := { ((List.range 4096).foldl prep s.mach).msc with
      late := s.mach.msc.late.filter (· / 4096 != die) } }
    ((∀ e < 4096, s.conf.on mscSaCtrlInUse die e = false)) ∧
    ((∀ n < 64, able.stOn mscSecyTxArmed die n = false)))) :=
  ⟨⟨⟨⟨base, ⟨A, ⟨3, ⟨4095, ⟨by decide +kernel, ⟨by decide +kernel, takes_of (by decide +kernel)⟩⟩⟩⟩⟩⟩, ⟨⟨base, ⟨A, ⟨3, ⟨4095, by decide +kernel⟩⟩⟩⟩, ⟨⟨base, ⟨A, ⟨3, ⟨4095, ⟨by decide +kernel, ⟨by decide +kernel, takes_of (by decide +kernel)⟩⟩⟩⟩⟩⟩, ⟨⟨base, ⟨A, ⟨3, ⟨63, ⟨2, ⟨by decide +kernel, takes_of (by decide +kernel)⟩⟩⟩⟩⟩⟩, ⟨⟨base, ⟨A, ⟨3, ⟨63, ⟨2, by decide +kernel⟩⟩⟩⟩⟩, ⟨base, ⟨A, ⟨3, ⟨by decide +kernel, ⟨by decide +kernel, ⟨by decide +kernel, takes_of (by decide +kernel)⟩⟩⟩⟩⟩⟩⟩⟩⟩⟩⟩, ⟨⟨base, ⟨3, ⟨4095, ⟨by decide +kernel, by decide +kernel⟩⟩⟩⟩, ⟨base, ⟨3, ⟨by decide +kernel, by decide +kernel⟩⟩⟩⟩⟩,
   ⟨⟨⟨withCfg base mscSaCtrlInUse 1 3 4095 0, ⟨A, ⟨3, ⟨4095, ⟨by decide +kernel, ⟨by decide +kernel, takes_of (by decide +kernel)⟩⟩⟩⟩⟩⟩, ⟨withCfg base mscSaCtrlInUse 1 3 4095 0, ⟨A, ⟨3, ⟨4095, ⟨by decide +kernel, ⟨by decide +kernel, takes_of (by decide +kernel)⟩⟩⟩⟩⟩⟩⟩, ⟨withCfg base mscSaCtrlInUse 1 3 4095 0, ⟨3, ⟨4095, ⟨by decide +kernel, ⟨by decide +kernel, by decide +kernel⟩⟩⟩⟩⟩⟩,
   ⟨⟨pw base fun p => {p with grants := [gr opRekey 3]}, ⟨A, ⟨3, ⟨by decide +kernel, ⟨by decide +kernel, takes_of (by decide +kernel)⟩⟩⟩⟩⟩, ⟨pw base fun p => {p with grants := [gr opRekey 3]}, ⟨3, ⟨by decide +kernel, ⟨by decide +kernel, ⟨by decide +kernel, by decide +kernel⟩⟩⟩⟩⟩⟩⟩

set_option maxRecDepth 100000 in
theorem test_witness_FaultRegistersAct :
    ((∃ (s : State) (q : Requester) (k : Fin 64),
    s.live ∧ Takes s.dev q fltAckClass.reg 0 0 0 (fieldWord s.dev.cfg s.dev.m ((fltAckClass, k.val) :: [(fltAckClear, 0)]) 0 0 0)) ∧
    ((∃ (s : State) (q : Requester) (k : Fin 64),
    s.live ∧ Takes s.dev q fltAckClass.reg 0 0 0 (fieldWord s.dev.cfg s.dev.m ((fltAckClass, k.val) :: [(fltAckClear, 1)]) 0 0 0)) ∧
    ((∃ (c : Cfg) (m : Mach) (k : Nat),
    ((m.class k).active = false ∨ (m.class k).sev = 4)) ∧
    ((∃ (s : State) (q : Requester) (v : Word),
    s.live ∧ Takes s.dev q .fltInject 0 0 0 v) ∧
    (∃ (s : State) (q : Requester) (kind : Fin 8) (inst : Fin 256),
    s.mach.st fltRestoreResult ≠ 1 ∧ (s.mach.flt.fatal = true ∨ (restoreClasses kind inst).any (fun k => (s.mach.class k).active) = true ∨ restorable s.mach kind inst = false) ∧ s.live ∧ Takes s.dev q fltRestoreGo.reg 0 0 0 (fieldWord s.dev.cfg s.dev.m ((fltRestoreGo, 1) :: [(fltRestoreKind, kind.val), (fltRestoreInstance, inst.val)]) 0 0 0)))))) ∧
    (∃ (c : Cfg) (m : Mach) (k : Nat),
    (m.class k).active = true ∧ (m.class k).sev ≠ 4) ∧
    (∃ (s : State) (q : Requester) (kind : Fin 8) (inst : Fin 256),
    s.mach.st fltRestoreResult = 1 ∧ s.live ∧ Takes s.dev q fltRestoreGo.reg 0 0 0 (fieldWord s.dev.cfg s.dev.m ((fltRestoreGo, 1) :: [(fltRestoreKind, kind.val), (fltRestoreInstance, inst.val)]) 0 0 0)) ∧
    (∃ (s : State) (q : Requester) (kind : Fin 8) (inst : Fin 256),
    s.mach.st fltRestoreResult ≠ 1 ∧ s.mach.flt.fatal = false ∧ (restoreClasses kind inst).any (fun k => (s.mach.class k).active) = false ∧ restorable s.mach kind inst = true ∧ s.live ∧ Takes s.dev q fltRestoreGo.reg 0 0 0 (fieldWord s.dev.cfg s.dev.m ((fltRestoreGo, 1) :: [(fltRestoreKind, kind.val), (fltRestoreInstance, inst.val)]) 0 0 0)) :=
  ⟨⟨⟨base, ⟨A, ⟨63, ⟨by decide +kernel, takes_of (by decide +kernel)⟩⟩⟩⟩, ⟨⟨base, ⟨A, ⟨63, ⟨by decide +kernel, takes_of (by decide +kernel)⟩⟩⟩⟩, ⟨⟨(base).conf, ⟨(base).mach, ⟨63, by decide +kernel⟩⟩⟩, ⟨⟨base, ⟨A, ⟨0xA0000503, ⟨by decide +kernel, takes_of (by decide +kernel)⟩⟩⟩⟩, ⟨base, ⟨A, ⟨4, ⟨255, ⟨by decide +kernel, ⟨by decide +kernel, ⟨by decide +kernel, takes_of (by decide +kernel)⟩⟩⟩⟩⟩⟩⟩⟩⟩⟩⟩,
   ⟨(upd base fun m => m.setClass 63 {active := true, sev := 2}).conf, ⟨(upd base fun m => m.setClass 63 {active := true, sev := 2}).mach, ⟨63, ⟨by decide +kernel, by decide +kernel⟩⟩⟩⟩,
   ⟨withStat base fltRestoreResult 1 0 0 0, ⟨A, ⟨4, ⟨255, ⟨by decide +kernel, ⟨by decide +kernel, takes_of (by decide +kernel)⟩⟩⟩⟩⟩⟩,
   ⟨fl base (fun f => {f with sdDown := 1, pgIso := 0xFFFF}), ⟨A, ⟨4, ⟨0, ⟨by decide +kernel, ⟨by decide +kernel, ⟨by decide +kernel, ⟨by decide +kernel, ⟨by decide +kernel, takes_of (by decide +kernel)⟩⟩⟩⟩⟩⟩⟩⟩⟩⟩

set_option maxRecDepth 100000 in
theorem test_witness_FirstErrorCaptureKeepsTheFirstRealReport :
    ((∃ (m : Mach) (r : Report) (sev : Nat) (esc : Bool),
    Tbl.rising m.reg.stat = true ∧ r.src < 1024 ∧ sev < 8 ∧ (m.st fltFirstSrcValid = 0) ∧
    (∃ (x : Fld) (i : Nat) (j : Nat) (k : Nat),
    (∀ y ∈ [Reg.fltFirstSrc, .fltFirstSev, .fltFirstTimeLo, .fltFirstTimeHi, .fltFirstInj, .fltFirstInfo, .fltOverflow],
      regAddr x.reg i j k ≠ regAddr y 0 0 0))) ∧
    ((∃ (s : State) (r : Report),
    s.live ∧ s.mach.flt.waiting = [r] ∧ r.inj = false ∧ (s.mach.class (r.src / 16)).unacked = false ∧ r.sev ≤ DEGRADED) ∧
    ((∃ (s : State) (q : Requester),
    s.live ∧ Takes s.dev q fltFirstSrcValid.reg 0 0 0 (fieldWord s.dev.cfg s.dev.m ((fltFirstSrcValid, 1) :: []) 0 0 0)) ∧
    (∃ (m : Mach),
    Tbl.rising m.reg.stat = true)))) ∧
    (∃ (m : Mach) (r : Report) (sev : Nat) (esc : Bool),
    Tbl.rising m.reg.stat = true ∧ r.src < 1024 ∧ sev < 8 ∧ m.st fltFirstSrcValid = 1 ∧ m.st fltFirstInjInj = 1 ∧ r.inj = false) ∧
    (∃ (m : Mach) (r : Report) (sev : Nat) (esc : Bool),
    Tbl.rising m.reg.stat = true ∧ r.src < 1024 ∧ sev < 8 ∧ m.st fltFirstSrcValid = 1 ∧ (m.st fltFirstInjInj = 0 ∨ r.inj = true)) :=
  ⟨⟨⟨(W3r).mach, ⟨{src := 1023, sev := 2, time := 3000000000, detail := 2^32-1}, ⟨2, ⟨true, ⟨by decide +kernel, ⟨by decide +kernel, ⟨by decide +kernel, ⟨by decide +kernel, ⟨fltHealthCfgHealthPeriod, ⟨0, ⟨0, ⟨0, by decide +kernel⟩⟩⟩⟩⟩⟩⟩⟩⟩⟩⟩⟩, ⟨⟨W3r, ⟨{src := 1023, sev := 2, time := 3000000000, detail := 2^32-1}, ⟨by decide +kernel, ⟨by decide +kernel, ⟨by decide +kernel, ⟨by decide +kernel, by decide +kernel⟩⟩⟩⟩⟩⟩, ⟨⟨W3r, ⟨A, ⟨by decide +kernel, takes_of (by decide +kernel)⟩⟩⟩, ⟨(W3r).mach, by decide +kernel⟩⟩⟩⟩,
   ⟨(upd (withStat base fltFirstSrcValid 1 0 0 0) fun m => m.setSt fltFirstInjInj 1).mach, ⟨{src := 1023, sev := 2, time := 3000000000, detail := 2^32-1}, ⟨2, ⟨true, ⟨by decide +kernel, ⟨by decide +kernel, ⟨by decide +kernel, ⟨by decide +kernel, ⟨by decide +kernel, by decide +kernel⟩⟩⟩⟩⟩⟩⟩⟩⟩,
   ⟨(withStat (withStat base fltFirstSrcValid 1 0 0 0) fltFirstSrcSrc 17 0 0 0).mach, ⟨{src := 1023, sev := 2, time := 3000000000, detail := 2^32-1}, ⟨2, ⟨true, ⟨by decide +kernel, ⟨by decide +kernel, ⟨by decide +kernel, ⟨by decide +kernel, by decide +kernel⟩⟩⟩⟩⟩⟩⟩⟩⟩

set_option maxRecDepth 100000 in
theorem test_witness_RecoveryRequestsNeverWait :
    (∃ (s : State) (op : Fin 12) (unit : Nat),
    s.live ∧ recoveryOp op = true ∧ s.mach.holdsLeave op unit = false ∧ s.mach.waitsLeave op unit = false ∧
    let q : LeaveReq := { op := op, unit := unit, cls := s.conf.get pwrOpClass op, pips := s.conf.get pwrOpPips op, since := s.mach.up }
    let rest := s.conf.get pwrBudgetReserve - pipsOf (s.mach.pwr.grants.filter fun g => recoveryOp g.op)
    q.pips ≤ rest) ∧
    (∃ (s : State) (op : Fin 12) (unit : Nat),
    s.live ∧ recoveryOp op = true ∧ s.mach.holdsLeave op unit = false ∧ s.mach.waitsLeave op unit = false ∧
    let q : LeaveReq := { op := op, unit := unit, cls := s.conf.get pwrOpClass op, pips := s.conf.get pwrOpPips op, since := s.mach.up }
    let rest := s.conf.get pwrBudgetReserve - pipsOf (s.mach.pwr.grants.filter fun g => recoveryOp g.op)
    rest < q.pips) :=
  ⟨⟨base, ⟨11, ⟨2, ⟨by decide +kernel, ⟨by decide +kernel, ⟨by decide +kernel, ⟨by decide +kernel, by decide +kernel⟩⟩⟩⟩⟩⟩⟩,
   ⟨pw (withCfg base pwrOpPips 4000 11 0 0) fun p => {p with grants := [gr 11]}, ⟨11, ⟨2, ⟨by decide +kernel, ⟨by decide +kernel, ⟨by decide +kernel, ⟨by decide +kernel, by decide +kernel⟩⟩⟩⟩⟩⟩⟩⟩

set_option maxRecDepth 100000 in
theorem test_witness_DuiloAndCoreControlsAct :
    ((∃ (s : State) (q : Requester),
    s.live ∧ Takes s.dev q duoCtrlDigestNow.reg 0 0 0 (fieldWord s.dev.cfg s.dev.m ((duoCtrlDigestNow, 1) :: []) 0 0 0)) ∧
    ((∃ (c : Cfg) (m : Mach) (p : Nat → Bool),
    (∀ n < 8, (m.link n).state ≠ 4 ∨ (m.link n).round.isSome = true ∨ p n = false)) ∧
    ((∃ (s : State) (q : Requester),
    s.conf.get duoCtrlYield = 0 ∧ s.live ∧ Takes s.dev q duoCtrlYield.reg 0 0 0 (fieldWord s.dev.cfg s.dev.m ((duoCtrlYield, 1) :: []) 0 0 0)) ∧
    ((∃ (s : State) (q : Requester),
    s.live ∧ Takes s.dev q duoCtrlYield.reg 0 0 0 (fieldWord s.dev.cfg s.dev.m ((duoCtrlYield, 0) :: []) 0 0 0)) ∧
    ((∃ (s : State) (q : Requester) (n : Fin 128),
    s.conf.get tskCoreCtrlRun n = 0 ∧ s.live ∧ Takes s.dev q tskCoreCtrlRun.reg n 0 0 (fieldWord s.dev.cfg s.dev.m ((tskCoreCtrlRun, 1) :: []) n 0 0)) ∧
    ((∃ (c : Cfg) (m : Mach) (n : Nat),
    (m.core n).state = .reset) ∧
    (∃ (s : State) (q : Requester) (n : Fin 128),
    s.live ∧ Takes s.dev q tskCoreCtrlReset.reg n 0 0 (fieldWord s.dev.cfg s.dev.m ((tskCoreCtrlReset, 1) :: []) n 0 0)))))))) ∧
    (∃ (c : Cfg) (m : Mach) (n : Nat),
    (m.core n).state = .stopping) ∧
    (∃ (c : Cfg) (m : Mach) (n : Nat),
    (m.core n).state = .isolated) ∧
    ((∃ (s : State) (q : Requester) (n : Fin 128),
    s.conf.get tskCoreCtrlRun n = 1 ∧ s.live ∧ Takes s.dev q tskCoreCtrlRun.reg n 0 0 (fieldWord s.dev.cfg s.dev.m ((tskCoreCtrlRun, 0) :: []) n 0 0)) ∧
    (∃ (m : Mach) (n : Nat),
    Tbl.rising m.tsk.cores = true ∧ (m.core n).state = .running ∧ (m.core n).slots = [] ∧ (m.core n).stall = none)) ∧
    (∃ (m : Mach) (n : Nat),
    Tbl.rising m.tsk.cores = true ∧ (m.core n).state = .running ∧ ((m.core n).slots ≠ [] ∨ (m.core n).stall ≠ none)) :=
  ⟨⟨⟨base, ⟨A, ⟨by decide +kernel, takes_of (by decide +kernel)⟩⟩⟩, ⟨⟨(base).conf, ⟨(base).mach, ⟨fun _ => true, by decide +kernel⟩⟩⟩, ⟨⟨base, ⟨A, ⟨by decide +kernel, ⟨by decide +kernel, takes_of (by decide +kernel)⟩⟩⟩⟩, ⟨⟨base, ⟨A, ⟨by decide +kernel, takes_of (by decide +kernel)⟩⟩⟩, ⟨⟨base, ⟨A, ⟨127, ⟨by decide +kernel, ⟨by decide +kernel, takes_of (by decide +kernel)⟩⟩⟩⟩⟩, ⟨⟨(base).conf, ⟨(base).mach, ⟨127, by decide +kernel⟩⟩⟩, ⟨base, ⟨A, ⟨127, ⟨by decide +kernel, takes_of (by decide +kernel)⟩⟩⟩⟩⟩⟩⟩⟩⟩⟩,
   ⟨(upd base fun m => m.setCore 127 {state := .stopping}).conf, ⟨(upd base fun m => m.setCore 127 {state := .stopping}).mach, ⟨127, by decide +kernel⟩⟩⟩,
   ⟨(upd base fun m => m.setCore 127 {state := .isolated}).conf, ⟨(upd base fun m => m.setCore 127 {state := .isolated}).mach, ⟨127, by decide +kernel⟩⟩⟩,
   ⟨⟨upd (withCfg base tskCoreCtrlRun 1 127 0 0) fun m => m.setCore 127 {state := .running}, ⟨A, ⟨127, ⟨by decide +kernel, ⟨by decide +kernel, takes_of (by decide +kernel)⟩⟩⟩⟩⟩, ⟨(upd (withCfg base tskCoreCtrlRun 1 127 0 0) fun m => m.setCore 127 {state := .running}).mach, ⟨127, ⟨by decide +kernel, ⟨by decide +kernel, ⟨by decide +kernel, by decide +kernel⟩⟩⟩⟩⟩⟩,
   ⟨(upd (withCfg base tskCoreCtrlRun 1 127 0 0) fun m => m.setCore 127 {state := .running, slots := [(0, {item := w1, since := 0})]}).mach, ⟨127, ⟨by decide +kernel, ⟨by decide +kernel, by decide +kernel⟩⟩⟩⟩⟩
end Controls

/-! ### Register accesses -/
namespace Registers
def ofs (r : Reg) (i j : Nat := 0) : BitVec 27 := BitVec.ofNat 27 (regAddr r i j 0)
def lh (s : State) (r : Reg) (v : Word) : State := upd s fun m => {m with reg := {m.reg with loHeld := [(regAddr r 0 0 0, v)]}}
def PF (n : Nat) (s : State) : State := upd s fun m => (m.setPort n { m.port n with linkUp := true })
def HF : State := PF 2 (PF 1 H0)

set_option maxRecDepth 100000 in
theorem test_witness_DeniedOrUnalignedAccessHasNoEffect :
    (((∃ (s : State) (p : Fin 4) (off : BitVec 27) (v : Word),
    s.live ∧ reaches s.mach (.host p) = true ∧ off.toNat % 4 = 0 ∧ denied s.mach p off.toNat true = true) ∧
    (∃ (s : State) (p : Fin 4) (off : BitVec 27),
    s.live ∧ reaches s.mach (.host p) = true ∧ off.toNat % 4 = 0 ∧ denied s.mach p off.toNat false = true)) ∧
    ((∃ (s : State) (q : Requester) (off : BitVec 27) (v : Word),
    s.live ∧ reaches s.mach q = true ∧ off.toNat % 4 ≠ 0) ∧
    (∃ (s : State) (q : Requester) (size : AccSize) (off : BitVec 27) (v : Word),
    s.live ∧ reaches s.mach q = true ∧ size ≠ .b32))) ∧
    (∃ (m : Mach) (c : Cfg) (q : Nat) (off : Nat) (w : Bool),
    q < 4 ∧ m.stOn hifDeniedValid q = true) ∧
    (∃ (s : State) (p : Fin 4) (off : BitVec 27) (v : Word),
    s.live ∧ portTakes s.mach p = false) :=
  ⟨⟨⟨⟨HF, ⟨2, ⟨ofs .glbSeal, ⟨5, ⟨by decide +kernel, ⟨by decide +kernel, ⟨by decide +kernel, by decide +kernel⟩⟩⟩⟩⟩⟩⟩, ⟨HF, ⟨2, ⟨ofs .glbSeal, ⟨by decide +kernel, ⟨by decide +kernel, ⟨by decide +kernel, by decide +kernel⟩⟩⟩⟩⟩⟩⟩, ⟨⟨HF, ⟨A, ⟨3, ⟨5, ⟨by decide +kernel, ⟨by decide +kernel, by decide +kernel⟩⟩⟩⟩⟩⟩, ⟨HF, ⟨A, ⟨.b64, ⟨ofs .glbSeal, ⟨5, ⟨by decide +kernel, ⟨by decide +kernel, by decide +kernel⟩⟩⟩⟩⟩⟩⟩⟩⟩,
   ⟨(HF.mach.setSt hifDeniedValid 1 2), ⟨(HF).conf, ⟨2, ⟨8, ⟨true, ⟨by decide +kernel, by decide +kernel⟩⟩⟩⟩⟩⟩,
   ⟨H0, ⟨2, ⟨ofs .glbSeal, ⟨5, ⟨by decide +kernel, by decide +kernel⟩⟩⟩⟩⟩⟩

set_option maxRecDepth 100000 in
theorem test_witness_RefusedWriteIsRefusedWhole :
    ∃ (s : State) (q : Requester) (off : BitVec 27) (v : Word) (x : Loc) (cause : Nat) (h : Half),
    s.live ∧ reaches s.mach q = true ∧ off.toNat % 4 = 0 ∧ denied s.mach (reqNum q) off.toNat true = false ∧ waitsForSeal s.mach off.toNat = false ∧ absentBlock s.conf off.toNat = false ∧ unreachable s.mach off.toNat = false ∧ locate off.toNat = some x ∧ isCounter x.reg = false ∧ hiOf x.reg = none ∧ loOf x.reg = none ∧ refusal s.conf (storeCfg s.conf (s.mach.glb.sealSt == .sealed) (halves s.conf s.mach x v)) s.mach (halves s.conf s.mach x v) = some (cause, h) ∧ s.mach.stOn glbCfgRefusedCfgWriteRefused = true :=
  ⟨withStat base glbCfgRefusedCfgWriteRefused 1 0 0 0, ⟨.agent, ⟨ofs .fltInject, ⟨0x80000400, ⟨⟨.fltInject, 0, 0, 0, false⟩, ⟨_, ⟨_, ⟨by decide +kernel, ⟨by decide +kernel, ⟨by decide +kernel, ⟨by decide +kernel, ⟨by decide +kernel, ⟨by decide +kernel, ⟨by decide +kernel, ⟨by decide +kernel, ⟨by decide +kernel, ⟨by decide +kernel, ⟨by decide +kernel, ⟨some_pair (0, ⟨.fltInject, 0, 0, 0, 0⟩) (by decide +kernel), by decide +kernel⟩⟩⟩⟩⟩⟩⟩⟩⟩⟩⟩⟩⟩⟩⟩⟩⟩⟩⟩

set_option maxRecDepth 100000 in
theorem test_witness_AcceptedWriteStoresItsFields :
    (∃ (s : State) (q : Requester) (r : Reg) (i : Nat) (j : Nat) (k : Nat) (v : Word) (off : BitVec 27),
    s.live ∧ Takes s.dev q r i j k v ∧ off.toNat = regAddr r i j k) ∧
    ((∃ (s : State) (q : Requester) (i : Nat) (j : Nat) (v : Word) (off : BitVec 27),
    s.live ∧ Takes s.dev q .fwdLport i j 0 v ∧ off.toNat = regAddr .fwdLport i j 0) ∧
    (∃ (s : State) (q : Requester) (off : BitVec 27) (v : Word) (x : Loc),
    s.live ∧ reaches s.mach q = true ∧ off.toNat % 4 = 0 ∧ denied s.mach (reqNum q) off.toNat true = false ∧ waitsForSeal s.mach off.toNat = false ∧ absentBlock s.conf off.toNat = false ∧ unreachable s.mach off.toNat = false ∧ locate off.toNat = some x ∧ isCounter x.reg = false ∧ (hiOf x.reg).isSome = true ∧ (regFields x.reg).any (·.settable) = true)) :=
  ⟨⟨base, ⟨A, ⟨.fltInject, ⟨0, ⟨0, ⟨0, ⟨0xA0000503, ⟨ofs (.fltInject : Reg) (0 : Nat) (0 : Nat), ⟨by decide +kernel, ⟨takes_of (by decide +kernel), by decide +kernel⟩⟩⟩⟩⟩⟩⟩⟩⟩⟩, ⟨⟨base, ⟨A, ⟨1, ⟨127, ⟨0, ⟨ofs .fwdLport (1 : Nat) (127 : Nat), ⟨by decide +kernel, ⟨takes_of (by decide +kernel), by decide +kernel⟩⟩⟩⟩⟩⟩⟩⟩, ⟨base, ⟨A, ⟨ofs .fstSaveBaseLo, ⟨0xA0000503, ⟨⟨.fstSaveBaseLo, 0, 0, 0, false⟩, ⟨by decide +kernel, ⟨by decide +kernel, ⟨by decide +kernel, ⟨by decide +kernel, ⟨by decide +kernel, ⟨by decide +kernel, ⟨by decide +kernel, ⟨by decide +kernel, ⟨by decide +kernel, ⟨by decide +kernel, by decide +kernel⟩⟩⟩⟩⟩⟩⟩⟩⟩⟩⟩⟩⟩⟩⟩⟩⟩

set_option maxRecDepth 100000 in
theorem test_witness_HalvesAreHeldLatchedAndCleared :
    ((∃ (s : State) (q : Requester) (v : Word) (w : Word) (off : BitVec 27),
    s.live ∧ reaches s.mach q = true ∧ off.toNat = regAddr .fstSaveBaseHi 0 0 0 ∧ denied s.mach (reqNum q) off.toNat true = false ∧ waitsForSeal s.mach off.toNat = false ∧ unreachable s.mach off.toNat = false ∧ Tbl.rising s.conf.live = true ∧ Tbl.find s.mach.reg.loHeld (regAddr .fstSaveBaseLo 0 0 0) = some w ∧ s.mach.glb.sealSt = .unsealed ∧ (let hs := halves s.conf s.mach ⟨.fstSaveBaseHi, 0, 0, 0, false⟩ v
     refusal s.conf (storeCfg s.conf false hs) { s.mach with reg := { s.mach.reg with
       loHeld := Tbl.del s.mach.reg.loHeld (regAddr .fstSaveBaseLo 0 0 0) } } hs = none)) ∧
    (∃ (s : State) (q : Requester),
    s.live ∧ reaches s.mach q = true ∧ denied s.mach (reqNum q) (regAddr .todNowNs 0 0 0) false = false)) ∧
    (∃ (s : State) (q : Requester) (off : BitVec 27) (x : Loc),
    s.live ∧ reaches s.mach q = true ∧ off.toNat % 4 = 0 ∧ denied s.mach (reqNum q) off.toNat false = false ∧ absentBlock s.conf off.toNat = false ∧ unreachable s.mach off.toNat = false ∧ locate off.toNat = some x ∧ isCounter x.reg = true ∧ x.hi = false) ∧
    (∃ (s : State) (q : Requester) (k : Fin 16) (off : BitVec 27),
    s.live ∧ reaches s.mach q = true ∧ off.toNat = regAddr .tskHistBin k 0 0 ∧ denied s.mach (reqNum q) off.toNat false = false ∧ unreachable s.mach off.toNat = false ∧ locate off.toNat = some ⟨.tskHistBin, k, 0, 0, false⟩) :=
  ⟨⟨⟨lh base .fstSaveBaseLo 0x1000, ⟨A, ⟨2, ⟨0x1000, ⟨ofs .fstSaveBaseHi, ⟨by decide +kernel, ⟨by decide +kernel, ⟨by decide +kernel, ⟨by decide +kernel, ⟨by decide +kernel, ⟨by decide +kernel, ⟨by decide +kernel, ⟨by decide +kernel, ⟨by decide +kernel, by decide +kernel⟩⟩⟩⟩⟩⟩⟩⟩⟩⟩⟩⟩⟩⟩, ⟨lh base .fstSaveBaseLo 0x1000, ⟨A, ⟨by decide +kernel, ⟨by decide +kernel, by decide +kernel⟩⟩⟩⟩⟩,
   ⟨base, ⟨A, ⟨ofs .pwrCnt, ⟨⟨.pwrCnt, 0, 0, 0, false⟩, ⟨by decide +kernel, ⟨by decide +kernel, ⟨by decide +kernel, ⟨by decide +kernel, ⟨by decide +kernel, ⟨by decide +kernel, ⟨by decide +kernel, ⟨by decide +kernel, by decide +kernel⟩⟩⟩⟩⟩⟩⟩⟩⟩⟩⟩⟩,
   ⟨base, ⟨A, ⟨15, ⟨ofs .tskHistBin 15, ⟨by decide +kernel, ⟨by decide +kernel, ⟨by decide +kernel, ⟨by decide +kernel, ⟨by decide +kernel, by decide +kernel⟩⟩⟩⟩⟩⟩⟩⟩⟩⟩
end Registers

/-! ### Commands of rings -/
namespace RingCommands
def S0 : State := upd base fun m => (m.setPort 0 { linkUp := true, bme := true }).setRing 0 { state := .active, kind := .cmd, ver := 2, log2 := 6, admin := true, owner := 0, tail := 1 }
def S0s : State := upd S0 fun m => { m with glb := { m.glb with sealSt := .sealed, stage := .sealed }, fsl := { m.fsl with ready := true } }
def rctx : List Byte := splice (splice (splice (z 64) 8 [3, 2, 6, 0x40]) 16 [0, 1]) 12 [0, 5]
def rec64 : List Byte := splice (z 64) 16 [0x80, 0, 0, 0]
def cmd (s : State) (op : CmdOp) (q : Cmd) : State := upd (getNext (exec (ringRow op 0 q) s)) fun m => m.setRing 0 { m.ring 0 with tail := (m.ring 0).head + 1 }
def S1 : State := cmd S0s .flowInsert { data := rec64 }
def hc (s : State) (op : CmdOp) (q : Cmd) : Mach := let x := cg s 0 op q; bump s.conf (beginReads x.2.2.takesPlace 0) .fslCnt (x.2.2.phys (fhSlot (fhOf s.conf x.2.2 (flowKey op x.1)))) cFslHostCmd
def fh0 : Nat := fhOf S0s.conf S0s.mach (z 16)
def bkt (b : Nat) : Tbl Rec := (List.range 4).map fun i => (2^26 * fhSlot fh0 + 4 * b + i, { key := [BitVec.ofNat 8 (i + 1)] })
def S0n : State := fs (withCfg S0s fstMaxKicksKicks 0 0 0 0) fun f => { f with
  hbm := bkt (min (fhBucket fh0) (otherBucket fh0 (fhBucket fh0))) ++ bkt (max (fhBucket fh0) (otherBucket fh0 (fhBucket fh0)))
  stash := [(fhSlot fh0, List.replicate 4096 { key := z 1 })] }
def pb : List Byte := [0x4C, 0x53, 0x42, 0x31, 6, 0, 0, 0, 0, 0, 1, 0x10, 0x0F, 0xFF, 0, 1, 0xA0, 5] ++ z 382
def pool : List Byte := splice (z 32) 0 [10,0,0,0, 2, 0x80, 4, 0, 0x10, 0]
def feb : List Byte := beBytes 16 (fdbEntry true false 5 7 9 0)
def feS : State := upd S0 fun m => m.setFdb 327136 (be feb 0 16)
def feF : State := upd S0 fun m => (fdbPlaces 0 (fdbBuckets 5 7).1 ++ fdbPlaces 0 (fdbBuckets 5 7).2).foldl (fun m p => m.setFdb p (fdbEntry true false 5 8 9 0)) m
def tmB : State := upd S0 fun m => {m with sec := {m.sec with writeErrs := [(1, 4095)]}}
def S2 : State := upd S0 fun m => setGroup m 3 (4 * 2^36 + 3 * 2^27)
def DC := withCfg (withCfg (withCfg (withCfg (withCfg S0 duoCtrlEn 1 0 0 0) duoPartnerCfgEn 1 0 0 0) duoPartnerCfgDevice 7 0 0 0) duoPartnerPortPort 3 0 0 0) glbDeviceIdId 9 0 0 0
def DCs : State := gl DC fun g => {g with sealSt := .sealed}
def KR : State := upd S0 fun m => {m with sec := {m.sec with next := 5, rngSeeded := true, rngOk := true, trees := treesWanted 5, nv := m.sec.nv}}

set_option maxRecDepth 100000 in
theorem test_witness_CommandsAreCheckedBeforeTheyAct :
    (∃ (s : State) (r : Fin 16384) (op : CmdOp) (q : Cmd),
    s.live ∧ cmdGet s.mach r (opcode op) q = none) ∧
    (∃ (s : State) (r : Fin 16384) (opc : Fin 128) (q : Cmd) (q' : Cmd) (slot : Nat) (m : Mach),
    s.live ∧ opOf opc = .reserved ∧ cmdGet s.mach r opc q = some (q', slot, m)) ∧
    (∃ (s : State) (r : Fin 16384) (op : CmdOp) (q : Cmd) (q' : Cmd) (slot : Nat) (m : Mach),
    s.live ∧ op ≠ .reserved ∧ cmdGet s.mach r (opcode op) q = some (q', slot, m) ∧ permitted m (m.ring r).owner op q' = false) ∧
    (∃ (s : State) (r : Fin 16384) (op : CmdOp) (q : Cmd) (q' : Cmd) (slot : Nat) (m : Mach),
    s.live ∧ op ≠ .reserved ∧ cmdGet s.mach r (opcode op) q = some (q', slot, m) ∧ permitted m (m.ring r).owner op q' = true ∧ (inputOk op q' = false ∨ q'.outLen.toNat < outputMax op q')) ∧
    (∃ (s : State) (r : Fin 16384) (op : CmdOp) (q : Cmd) (q' : Cmd) (slot : Nat) (m : Mach),
    s.live ∧ op ≠ .reserved ∧ cmdGet s.mach r (opcode op) q = some (q', slot, m) ∧ permitted m (m.ring r).owner op q' = true ∧ inputOk op q' = true ∧ outputMax op q' ≤ q'.outLen.toNat ∧ mustHold m op = true) ∧
    (∃ (s : State) (r : Fin 16384) (op : CmdOp) (q : Cmd) (q' : Cmd) (slot : Nat) (m : Mach),
    s.live ∧ op ≠ .reserved ∧ cmdGet s.mach r (opcode op) q = some (q', slot, m) ∧ permitted m (m.ring r).owner op q' = true ∧ inputOk op q' = true ∧ outputMax op q' ≤ q'.outLen.toNat ∧ mustHold m op = false ∧ isFlowOp op = true ∧ m.fsl.ready = false) :=
  ⟨⟨base, ⟨0, ⟨.nop, ⟨{}, ⟨by decide +kernel, by decide +kernel⟩⟩⟩⟩⟩,
   ⟨S0, ⟨0, ⟨127, ⟨{}, ⟨_, ⟨_, ⟨_, ⟨by decide +kernel, ⟨by decide +kernel, some_triple (({} : Cmd), 0, (S0 : State).mach) (by decide +kernel)⟩⟩⟩⟩⟩⟩⟩⟩⟩,
   ⟨upd S0 (fun m => (m.setSt hifPortRolePrimary 1).setSt hifPortRoleRoles 0), ⟨0, ⟨.coreLoad, ⟨{}, ⟨_, ⟨_, ⟨_, ⟨by decide +kernel, ⟨by decide +kernel, ⟨cg_got (by decide +kernel), by decide +kernel⟩⟩⟩⟩⟩⟩⟩⟩⟩⟩,
   ⟨S0, ⟨0, ⟨.flowQuery, ⟨{data := z 15}, ⟨_, ⟨_, ⟨_, ⟨by decide +kernel, ⟨by decide +kernel, ⟨cg_got (by decide +kernel), ⟨by decide +kernel, by decide +kernel⟩⟩⟩⟩⟩⟩⟩⟩⟩⟩⟩,
   ⟨gl S0 (fun g => {g with sealSt := .checking}), ⟨0, ⟨.coreLoad, ⟨{data := z 80}, ⟨_, ⟨_, ⟨_, ⟨by decide +kernel, ⟨by decide +kernel, ⟨cg_got (by decide +kernel), ⟨by decide +kernel, ⟨by decide +kernel, ⟨by decide +kernel, by decide +kernel⟩⟩⟩⟩⟩⟩⟩⟩⟩⟩⟩⟩⟩,
   ⟨S0, ⟨0, ⟨.flowQuery, ⟨{ data := z 16, outLen := 64 }, ⟨_, ⟨_, ⟨_, ⟨by decide +kernel, ⟨by decide +kernel, ⟨cg_got (by decide +kernel), ⟨by decide +kernel, ⟨by decide +kernel, ⟨by decide +kernel, ⟨by decide +kernel, ⟨by decide +kernel, by decide +kernel⟩⟩⟩⟩⟩⟩⟩⟩⟩⟩⟩⟩⟩⟩⟩⟩

set_option maxRecDepth 100000 in
theorem test_witness_BulkCommandsTakeLeave :
    (∃ (s : State) (r : Fin 16384) (op : CmdOp) (q : Cmd) (q' : Cmd) (slot : Nat) (m : Mach) (m' : Mach),
    Starts s r op q q' slot m ∧ isBulk op q' = true ∧ m.holdsLeave opBulk m.pwr.nextWait = false ∧ m.waitsLeave opBulk m.pwr.nextWait = false ∧ ∃ (st : Nat) (d : Nat) (out : List Byte) (m'' : Mach),
    askLeave s.conf m opBulk m.pwr.nextWait = (.granted, m') ∧ cmdEffect s.conf m' m.pwr.nextWait (some r) slot op q' = .done st d out m'') ∧
    (∃ (s : State) (r : Fin 16384) (op : CmdOp) (q : Cmd) (q' : Cmd) (slot : Nat) (m : Mach) (m' : Mach),
    Starts s r op q q' slot m ∧ isBulk op q' = true ∧ m.holdsLeave opBulk m.pwr.nextWait = false ∧ m.waitsLeave opBulk m.pwr.nextWait = false ∧ askLeave s.conf m opBulk m.pwr.nextWait = (.refused, m')) ∧
    (∃ (s : State) (r : Fin 16384) (op : CmdOp) (q : Cmd) (q' : Cmd) (slot : Nat) (m : Mach) (m' : Mach),
    Starts s r op q q' slot m ∧ isBulk op q' = true ∧ m.holdsLeave opBulk m.pwr.nextWait = false ∧ m.waitsLeave opBulk m.pwr.nextWait = false ∧ askLeave s.conf m opBulk m.pwr.nextWait = (.deferred, m')) :=
  ⟨⟨S0, ⟨0, ⟨.fdbFlush, ⟨{}, ⟨_, ⟨_, ⟨_, ⟨_, ⟨starts_cg (by decide +kernel), ⟨by decide +kernel, ⟨by decide +kernel, ⟨by decide +kernel, ⟨0, ⟨0, ⟨[], ⟨(fdbFlush ((askLeave (S0 : State).conf ((cg (S0 : State) (0 : Fin 16384) (.fdbFlush : CmdOp) ({} : Cmd)).2.2 : Mach) opBulk ((cg (S0 : State) (0 : Fin 16384) (.fdbFlush : CmdOp) ({} : Cmd)).2.2 : Mach).pwr.nextWait).2 : Mach) ((cg (S0 : State) (0 : Fin 16384) (.fdbFlush : CmdOp) ({} : Cmd)).1 : Cmd)).2.2.2, ⟨pair_of (by decide +kernel), rfl⟩⟩⟩⟩⟩⟩⟩⟩⟩⟩⟩⟩⟩⟩⟩⟩⟩,
   ⟨withCfg S0 pwrOpEn 0 opBulk 0 0, ⟨0, ⟨.fdbFlush, ⟨{}, ⟨_, ⟨_, ⟨_, ⟨_, ⟨starts_cg (by decide +kernel), ⟨by decide +kernel, ⟨by decide +kernel, ⟨by decide +kernel, pair_of (by decide +kernel)⟩⟩⟩⟩⟩⟩⟩⟩⟩⟩⟩⟩,
   ⟨pw S0 fun p => {p with alert := true}, ⟨0, ⟨.fdbFlush, ⟨{}, ⟨_, ⟨_, ⟨_, ⟨_, ⟨starts_cg (by decide +kernel), ⟨by decide +kernel, ⟨by decide +kernel, ⟨by decide +kernel, pair_of (by decide +kernel)⟩⟩⟩⟩⟩⟩⟩⟩⟩⟩⟩⟩⟩

set_option maxRecDepth 100000 in
theorem test_witness_RingCommandsMakeAndEndRings :
    ((∃ (s : State) (r : Fin 16384) (q : Cmd),
    ∃ (q' : Cmd) (slot : Nat) (m : Mach), Starts s r .nop q q' slot m ∧ isBulk .nop q' = false) ∧
    ((∃ (m : Mach) (n : Nat),
    (m.ring n).state ≠ .absent) ∧
    ((∃ (b : List Byte) (k : RingKind) (x : Ring),
    ringContext b k = some x) ∧
    (∃ (s : State) (r : Fin 16384) (q : Cmd) (q' : Cmd) (slot : Nat) (m : Mach),
    Starts s r .ringDestroy q q' slot m ∧ isBulk .ringDestroy q' = false ∧ ((m.ring q'.ringNo).state = .active ∨ (m.ring q'.ringNo).state = .error) ∧ r.val = q'.ringNo)))) ∧
    ((∃ (s : State) (r : Fin 16384) (q : Cmd),
    ∃ (q' : Cmd) (slot : Nat) (m : Mach), Starts s r .ringQuery q q' slot m ∧ isBulk .ringQuery q' = false) ∧
    (∃ (m : Mach) (n : Nat),
    (m.ring n).state = .absent)) ∧
    ((∃ (s : State) (r : Fin 16384) (q : Cmd),
    ∃ (q' : Cmd) (slot : Nat) (m : Mach), Starts s r .ringCreate q q' slot m ∧ isBulk .ringCreate q' = false) ∧
    (∃ (s : State) (r : Fin 16384) (q : Cmd) (q' : Cmd) (slot : Nat) (m : Mach),
    Starts s r .ringDestroy q q' slot m ∧ isBulk .ringDestroy q' = false ∧ (m.ring q'.ringNo).state = .absent)) ∧
    (∃ (s : State) (r : Fin 16384) (q : Cmd) (q' : Cmd) (slot : Nat) (m : Mach),
    Starts s r .ringDestroy q q' slot m ∧ isBulk .ringDestroy q' = false ∧ (m.ring q'.ringNo).state = .draining) ∧
    (∃ (s : State) (r : Fin 16384) (q : Cmd) (q' : Cmd) (slot : Nat) (m : Mach),
    Starts s r .ringDestroy q q' slot m ∧ isBulk .ringDestroy q' = false ∧ ((m.ring q'.ringNo).state = .active ∨ (m.ring q'.ringNo).state = .error) ∧ r.val ≠ q'.ringNo) :=
  ⟨⟨⟨S0, ⟨0, ⟨{}, ⟨_, _, _, starts_cg (by decide +kernel), by decide +kernel⟩⟩⟩⟩, ⟨⟨(S0).mach, ⟨0, by decide +kernel⟩⟩, ⟨⟨rctx, ⟨.evt, ⟨_, some_getD {} (by decide +kernel)⟩⟩⟩, ⟨S0, ⟨0, ⟨{}, ⟨_, ⟨_, ⟨_, ⟨starts_cg (by decide +kernel), ⟨by decide +kernel, ⟨by decide +kernel, by decide +kernel⟩⟩⟩⟩⟩⟩⟩⟩⟩⟩⟩⟩,
   ⟨⟨S0, ⟨0, ⟨{outLen := 16}, ⟨_, _, _, starts_cg (by decide +kernel), by decide +kernel⟩⟩⟩⟩, ⟨(S0).mach, ⟨5, by decide +kernel⟩⟩⟩,
   ⟨⟨S0, ⟨0, ⟨{ arg0 := 4, data := rctx }, ⟨_, _, _, starts_cg (by decide +kernel), by decide +kernel⟩⟩⟩⟩, ⟨S0, ⟨0, ⟨{ arg0 := 4, data := rctx }, ⟨_, ⟨_, ⟨_, ⟨starts_cg (by decide +kernel), ⟨by decide +kernel, by decide +kernel⟩⟩⟩⟩⟩⟩⟩⟩⟩,
   ⟨upd S0 (fun m => m.setRing 7 {state := .draining}), ⟨0, ⟨{ arg0 := 7}, ⟨_, ⟨_, ⟨_, ⟨starts_cg (by decide +kernel), ⟨by decide +kernel, by decide +kernel⟩⟩⟩⟩⟩⟩⟩⟩,
   ⟨upd S0 (fun m => m.setRing 7 {state := .error}), ⟨0, ⟨{ arg0 := 7}, ⟨_, ⟨_, ⟨_, ⟨starts_cg (by decide +kernel), ⟨by decide +kernel, ⟨by decide +kernel, by decide +kernel⟩⟩⟩⟩⟩⟩⟩⟩⟩⟩

set_option maxRecDepth 100000 in
theorem test_witness_FlowCommandsActOnTheirRecord_1 :
    ((∃ (s : State) (r : Fin 16384) (q : Cmd) (q' : Cmd) (slot : Nat) (m : Mach) (m' : Mach),
    Serves s r .flowInsert q q' slot m m' ∧
    let key := flowKey .flowInsert q'
    let fh := fhOf s.conf m key
    let new := recordOk q'.data = true ∧ entryOurs s.conf m fh = true ∧ (touchKey s.conf m fh key).1 = none
    new ∧ ∃ (spot : Option Spot) (m'' : Mach),
    FindsRoom s.conf m m' key spot m'') ∧
    ((∃ (c : Cfg) (m : Mach) (q : Cmd) (spot : Option Spot),
    duoOn c = false ∧ recordOk q.data = true ∧
    let x := recOf q.data
    let fh := fhOf c m x.key
    let found := lookupKey c m fh x.key
    let ctrs := q.flags.getLsbD 15
    let x' := { x with role := 0, peer := deviceId c, unmirrored := false, version := 0, pkts := if ctrs then x.pkts else 0
                       bytes := if ctrs then x.bytes else 0, created := if ctrs then x.created else found.2.fsl.ageNow
                       lastHit := if ctrs then x.lastHit else found.2.fsl.ageNow }
    (found.1 = none ∧ ∃ m' pl y,
    placeNew c found.2 (fhSlot fh) spot x' = (true, m') ∧ findKey m' (fhSlot fh) fh x.key = some (pl, y)) ∧
    (found.1 = none)) ∧
    ((∃ (c : Cfg) (m : Mach) (q : Cmd),
    duoOn c = false ∧
    let fh := fhOf c m q.data
    let found := lookupKey c m fh q.data
    found.1 = none) ∧
    (∃ (c : Cfg) (m : Mach) (q : Cmd),
    let fh := fhOf c m q.data
    let found := lookupKey c m fh q.data
    found.1 = none)))) ∧
    (∃ (s : State) (r : Fin 16384) (q : Cmd) (q' : Cmd) (slot : Nat) (m : Mach) (m' : Mach),
    Serves s r .flowModify q q' slot m m') ∧
    (∃ (s : State) (r : Fin 16384) (q : Cmd) (q' : Cmd) (slot : Nat) (m : Mach) (m' : Mach),
    Serves s r .flowDelete q q' slot m m') ∧
    (∃ (s : State) (r : Fin 16384) (q : Cmd) (q' : Cmd) (slot : Nat) (m : Mach) (m' : Mach),
    Serves s r .flowQuery q q' slot m m') ∧
    (∃ (s : State) (r : Fin 16384) (q : Cmd) (q' : Cmd) (slot : Nat) (m : Mach) (m' : Mach),
    Serves s r .flowInsert q q' slot m m' ∧
    let key := flowKey .flowInsert q'
    let fh := fhOf s.conf m key
    let new := recordOk q'.data = true ∧ entryOurs s.conf m fh = true ∧ (touchKey s.conf m fh key).1 = none
    (¬new)) ∧
    ((∃ (c : Cfg) (m : Mach) (q : Cmd) (spot : Option Spot),
    duoOn c = false ∧ recordOk q.data = true ∧
    let x := recOf q.data
    let fh := fhOf c m x.key
    let found := lookupKey c m fh x.key
    (found.1.isSome = true) ∧
    (∃ (pl : Spot) (y : Rec),
    found.1 = some (pl, y) ∧ y.role = 0 ∧ (q.flags.getLsbD 14 = false ∨ y.version = q.arg0.toNat % 65536))) ∧
    ((∃ (c : Cfg) (m : Mach) (q : Cmd),
    duoOn c = false ∧
    let fh := fhOf c m q.data
    let found := lookupKey c m fh q.data
    ∃ (pl : Spot) (y : Rec),
    found.1 = some (pl, y) ∧ y.role = 0 ∧ (q.flags.getLsbD 14 = false ∨ y.version = q.arg0.toNat % 65536)) ∧
    (∃ (c : Cfg) (m : Mach) (q : Cmd),
    let fh := fhOf c m q.data
    let found := lookupKey c m fh q.data
    ∃ (pl : Spot) (y : Rec),
    found.1 = some (pl, y)))) :=
  ⟨⟨⟨S0s, ⟨0, ⟨{data := rec64}, ⟨_, ⟨_, ⟨_, ⟨_, ⟨⟨starts_cg (by decide +kernel), slice_of (by decide +kernel), rfl⟩, ⟨by decide +kernel, ⟨(roomAt ((cg (S0s : State) (0 : Fin 16384) .flowInsert ({data := rec64} : Cmd)).2.2 : Mach) (fhSlot (fhOf (S0s : State).conf ((cg (S0s : State) (0 : Fin 16384) .flowInsert ({data := rec64} : Cmd)).2.2 : Mach) (flowKey .flowInsert ((cg (S0s : State) (0 : Fin 16384) .flowInsert ({data := rec64} : Cmd)).1 : Cmd)))) (fhBucket (fhOf (S0s : State).conf ((cg (S0s : State) (0 : Fin 16384) .flowInsert ({data := rec64} : Cmd)).2.2 : Mach) (flowKey .flowInsert ((cg (S0s : State) (0 : Fin 16384) .flowInsert ({data := rec64} : Cmd)).1 : Cmd)))) false).map .at, ⟨(hc (S0s : State) .flowInsert ({data := rec64} : Cmd) : Mach), finds_of (.inl ⟨by decide +kernel, rfl⟩)⟩⟩⟩⟩⟩⟩⟩⟩⟩⟩⟩, ⟨⟨(S0s).conf, ⟨(S0s).mach, ⟨{data := rec64}, ⟨(roomAt ((S0s).mach : Mach) (fhSlot (fhOf ((S0s).conf : Cfg) ((S0s).mach : Mach) (recOf ({data := rec64} : Cmd).data).key)) (fhBucket (fhOf ((S0s).conf : Cfg) ((S0s).mach : Mach) (recOf ({data := rec64} : Cmd).data).key)) false).map .at, ⟨by decide +kernel, ⟨by decide +kernel, ⟨⟨by decide +kernel, ⟨_, ⟨_, ⟨_, ⟨pair_of (by decide +kernel), some_pair (.stash, (recOf ({data := rec64} : Cmd).data)) (by decide +kernel)⟩⟩⟩⟩⟩, by decide +kernel⟩⟩⟩⟩⟩⟩⟩, ⟨⟨(S0s).conf, ⟨(S0s).mach, ⟨{data := z 16, outLen := 64}, ⟨by decide +kernel, by decide +kernel⟩⟩⟩⟩, ⟨(S0s).conf, ⟨(S0s).mach, ⟨{data := z 16, outLen := 64}, by decide +kernel⟩⟩⟩⟩⟩⟩,
   ⟨S0s, ⟨0, ⟨{data := rec64}, ⟨_, ⟨_, ⟨_, ⟨_, ⟨starts_cg (by decide +kernel), slice_of (by decide +kernel), rfl⟩⟩⟩⟩⟩⟩⟩⟩,
   ⟨S0s, ⟨0, ⟨{data := z 16, outLen := 64}, ⟨_, ⟨_, ⟨_, ⟨_, ⟨starts_cg (by decide +kernel), slice_of (by decide +kernel), rfl⟩⟩⟩⟩⟩⟩⟩⟩,
   ⟨S0s, ⟨0, ⟨{data := z 16, outLen := 64}, ⟨_, ⟨_, ⟨_, ⟨_, ⟨starts_cg (by decide +kernel), slice_of (by decide +kernel), rfl⟩⟩⟩⟩⟩⟩⟩⟩,
   ⟨S0s, ⟨0, ⟨{data := z 64}, ⟨_, ⟨_, ⟨_, ⟨_, ⟨⟨starts_cg (by decide +kernel), slice_of (by decide +kernel), rfl⟩, by decide +kernel⟩⟩⟩⟩⟩⟩⟩⟩,
   ⟨⟨(S1).conf, ⟨(S1).mach, ⟨{data := rec64}, ⟨(roomAt ((S1).mach : Mach) (fhSlot (fhOf ((S1).conf : Cfg) ((S1).mach : Mach) (recOf ({data := rec64} : Cmd).data).key)) (fhBucket (fhOf ((S1).conf : Cfg) ((S1).mach : Mach) (recOf ({data := rec64} : Cmd).data).key)) false).map .at, ⟨by decide +kernel, ⟨by decide +kernel, ⟨by decide +kernel, ⟨_, ⟨_, ⟨some_pair (Spot.stash, {}) (by decide +kernel), ⟨by decide +kernel, by decide +kernel⟩⟩⟩⟩⟩⟩⟩⟩⟩⟩⟩, ⟨⟨(S1).conf, ⟨(S1).mach, ⟨{data := z 16, outLen := 64}, ⟨by decide +kernel, ⟨_, ⟨_, ⟨some_pair (Spot.stash, {}) (by decide +kernel), ⟨by decide +kernel, by decide +kernel⟩⟩⟩⟩⟩⟩⟩⟩, ⟨(S1).conf, ⟨(S1).mach, ⟨{data := z 16, outLen := 64}, ⟨_, ⟨_, some_pair (Spot.stash, {}) (by decide +kernel)⟩⟩⟩⟩⟩⟩⟩⟩

set_option maxRecDepth 100000 in
theorem test_witness_FlowCommandsActOnTheirRecord_2 :
    (∃ (c : Cfg) (m : Mach) (q : Cmd) (spot : Option Spot),
    duoOn c = false ∧ recordOk q.data = true ∧
    let x := recOf q.data
    let fh := fhOf c m x.key
    let found := lookupKey c m fh x.key
    ∃ (pl : Spot) (y : Rec),
    found.1 = some (pl, y) ∧ y.role = 0 ∧ q.flags.getLsbD 14 = true ∧ y.version ≠ q.arg0.toNat % 65536) ∧
    (∃ (c : Cfg) (m : Mach) (q : Cmd) (spot : Option Spot),
    duoOn c = false ∧ recordOk q.data = true ∧
    let x := recOf q.data
    let fh := fhOf c m x.key
    let found := lookupKey c m fh x.key
    let ctrs := q.flags.getLsbD 15
    let x' := { x with role := 0, peer := deviceId c, unmirrored := false, version := 0, pkts := if ctrs then x.pkts else 0
                       bytes := if ctrs then x.bytes else 0, created := if ctrs then x.created else found.2.fsl.ageNow
                       lastHit := if ctrs then x.lastHit else found.2.fsl.ageNow }
    found.1 = none ∧ ∃ m',
    placeNew c found.2 (fhSlot fh) spot x' = (false, m')) ∧
    ((∃ (c : Cfg) (m : Mach) (q : Cmd),
    recordOk q.data = false) ∧
    (∃ (c : Cfg) (m : Mach) (q : Cmd),
    duoOn c = false ∧
    let fh := fhOf c m q.data
    let found := lookupKey c m fh q.data
    ∃ (pl : Spot) (y : Rec),
    found.1 = some (pl, y) ∧ y.role = 0 ∧ q.flags.getLsbD 14 = true ∧ y.version ≠ q.arg0.toNat % 65536)) :=
  ⟨⟨(S1).conf, ⟨(S1).mach, ⟨{ data := rec64, flags := 0x4000, arg0 := 5 }, ⟨(roomAt ((S1).mach : Mach) (fhSlot (fhOf ((S1).conf : Cfg) ((S1).mach : Mach) (recOf ({ data := rec64, flags := 0x4000, arg0 := 5 } : Cmd).data).key)) (fhBucket (fhOf ((S1).conf : Cfg) ((S1).mach : Mach) (recOf ({ data := rec64, flags := 0x4000, arg0 := 5 } : Cmd).data).key)) false).map .at, ⟨by decide +kernel, ⟨by decide +kernel, ⟨_, ⟨_, ⟨some_pair (Spot.stash, {}) (by decide +kernel), ⟨by decide +kernel, ⟨by decide +kernel, by decide +kernel⟩⟩⟩⟩⟩⟩⟩⟩⟩⟩⟩,
   ⟨(S0n).conf, ⟨(S0n).mach, ⟨{data := rec64}, ⟨none, ⟨by decide +kernel, ⟨by decide +kernel, ⟨by decide +kernel, ⟨_, pair_of (by decide +kernel)⟩⟩⟩⟩⟩⟩⟩⟩,
   ⟨⟨(S1).conf, ⟨(S1).mach, ⟨{data := z 64}, by decide +kernel⟩⟩⟩, ⟨(S1).conf, ⟨(S1).mach, ⟨{data := z 16, arg0 := 5, flags := 0x4000}, ⟨by decide +kernel, ⟨_, ⟨_, ⟨some_pair (Spot.stash, {}) (by decide +kernel), ⟨by decide +kernel, ⟨by decide +kernel, by decide +kernel⟩⟩⟩⟩⟩⟩⟩⟩⟩⟩⟩

set_option maxRecDepth 100000 in
theorem test_witness_AllocationCommandsWriteTheirTables :
    ((∃ (s : State) (r : Fin 16384) (q : Cmd),
    ∃ (q' : Cmd) (slot : Nat) (m : Mach), Starts s r .natPoolSet q q' slot m ∧ isBulk .natPoolSet q' = false) ∧
    ((∃ (s : State) (r : Fin 16384) (q : Cmd),
    ∃ (q' : Cmd) (slot : Nat) (m : Mach), Starts s r .natPortFree q q' slot m ∧ isBulk .natPortFree q' = false) ∧
    ((∃ (m : Mach) (row : Nat) (port : Nat),
    Tbl.rising m.fsl.natBit = true) ∧
    ((∃ (s : State) (r : Fin 16384) (q : Cmd),
    ∃ (q' : Cmd) (slot : Nat) (m : Mach), Starts s r .beGroupSet q q' slot m ∧ isBulk .beGroupSet q' = false) ∧
    ((∃ (m : Mach) (q : Cmd),
    Tbl.rising m.fsl.beGroup = true ∧ (∀ i < q.a1, q.a0 + i < 16384 ∧ bgLog2 (be q.data (8 * i) 8) ≤ 20 ∧ 2 ^ bgLog2 (be q.data (8 * i) 8) ∣ bgBase (be q.data (8 * i) 8) ∧
      bits (be q.data (8 * i) 8) 37 0 = 0)) ∧
    ((∃ (m : Mach) (q : Cmd),
    Tbl.rising m.fsl.beSlot = true ∧ (∀ i < q.a1, q.a0 + i < 1048576 ∧ bits (be q.data (4 * i) 4) 29 16 = 0)) ∧
    ((∃ (m : Mach) (q : Cmd),
    Tbl.rising m.fsl.backend = true ∧ (∀ i < q.a1, q.a0 + i < 65536 ∧ be (slice q.data (20 * i) 20) 0 16 ≠ 0 ∧ bits (byteAt (slice q.data (20 * i) 20) 18) 6 0 = 0 ∧
      byteAt (slice q.data (20 * i) 20) 19 = 0)) ∧
    (∃ (m : Mach) (q : Cmd) (k : Nat),
    k < q.a1 ∧ (∀ i < k, q.a0 + i < 1048576 ∧ bits (be q.data (4 * i) 4) 29 16 = 0) ∧ (1048576 ≤ q.a0 + k ∨ bits (be q.data (4 * k) 4) 29 16 ≠ 0))))))))) ∧
    (∃ (s : State) (r : Fin 16384) (q : Cmd),
    ∃ (q' : Cmd) (slot : Nat) (m : Mach), Starts s r .beSlotSet q q' slot m ∧ isBulk .beSlotSet q' = false) ∧
    (∃ (s : State) (r : Fin 16384) (q : Cmd),
    ∃ (q' : Cmd) (slot : Nat) (m : Mach), Starts s r .backendSet q q' slot m ∧ isBulk .backendSet q' = false) :=
  ⟨⟨⟨S0, ⟨0, ⟨{arg0 := 1023, data := pool}, ⟨_, _, _, starts_cg (by decide +kernel), by decide +kernel⟩⟩⟩⟩, ⟨⟨S0, ⟨0, ⟨{arg0 := 1023, data := z 6}, ⟨_, _, _, starts_cg (by decide +kernel), by decide +kernel⟩⟩⟩⟩, ⟨⟨(S0).mach, ⟨5, ⟨700, by decide +kernel⟩⟩⟩, ⟨⟨S0, ⟨0, ⟨{ arg0 := 16383, arg1 := 1, data := z 8 }, ⟨_, _, _, starts_cg (by decide +kernel), by decide +kernel⟩⟩⟩⟩, ⟨⟨(S0).mach, ⟨{ arg0 := 16383, arg1 := 1, data := z 8 }, ⟨by decide +kernel, by decide +kernel⟩⟩⟩, ⟨⟨(S0).mach, ⟨{ arg0 := 1048574, arg1 := 2, data := z 8 }, ⟨by decide +kernel, by decide +kernel⟩⟩⟩, ⟨⟨(S0).mach, ⟨{ arg0 := 65535, arg1 := 1, data := splice (z 20) 0 [1] }, ⟨by decide +kernel, by decide +kernel⟩⟩⟩, ⟨(S0).mach, ⟨{ arg0 := 1048574, arg1 := 3, data := z 12 }, ⟨2, ⟨by decide +kernel, ⟨by decide +kernel, by decide +kernel⟩⟩⟩⟩⟩⟩⟩⟩⟩⟩⟩⟩,
   ⟨S0, ⟨0, ⟨{ arg0 := 16382, arg1 := 2, data := z 8 }, ⟨_, _, _, starts_cg (by decide +kernel), by decide +kernel⟩⟩⟩⟩,
   ⟨S0, ⟨0, ⟨{ arg0 := 65535, arg1 := 1, data := splice (z 20) 0 [1] }, ⟨_, _, _, starts_cg (by decide +kernel), by decide +kernel⟩⟩⟩⟩⟩

set_option maxRecDepth 100000 in
theorem test_witness_BankedTableCommandsWriteTheShadow :
    ((∃ (s : State) (r : Fin 16384) (q : Cmd),
    (∃ (q' : Cmd) (slot : Nat) (m : Mach), Starts s r .parseSet q q' slot m ∧ isBulk .parseSet q' = false) ∧
    (∃ (q' : Cmd) (slot : Nat) (m : Mach), Starts s r .progLoad q q' slot m ∧ isBulk .progLoad q' = false)) ∧
    ((∃ (m : Mach) (q : Cmd),
    Tbl.rising m.act.shadow.states = true ∧ Tbl.rising m.act.act.states = true ∧ bit q.a0 31 = false ∧ (∀ i < q.a1, bits q.a0 7 0 + i < 64 ∧ bits (be q.data (8 * i) 8) 19 0 = 0)) ∧
    ((∃ (m : Mach) (q : Cmd),
    bit q.a0 31 = true ∧ 256 < bits q.a0 7 0 + q.a1 ∧ q.a1 ≠ 0) ∧
    ((∃ (m : Mach) (q : Cmd),
    Tbl.rising m.act.shadow.rules = true ∧ bits q.a0 31 24 ≤ 31 ∧ (∀ i < q.a1, bits q.a0 10 0 + i < 2048 ∧ ruleOk (slice q.data (96 * i) 96) = true)) ∧
    ((∃ (m : Mach) (q : Cmd),
    Tbl.rising m.act.shadow.tmpls = true ∧ (∀ i < q.a1, q.a0 + i < 4096 ∧ tmplOk (slice q.data (160 * i) 160) = true ∧ m.writeMeets 1 (q.a0 + i) = false)) ∧
    (∃ (m : Mach) (q : Cmd) (k : Nat),
    k < q.a1 ∧ (∀ i < k, q.a0 + i < 4096 ∧ tmplOk (slice q.data (160 * i) 160) = true ∧ m.writeMeets 1 (q.a0 + i) = false) ∧ q.a0 + k < 4096 ∧ tmplOk (slice q.data (160 * k) 160) = false)))))) ∧
    ((∃ (c : Cfg) (m : Mach) (q : Cmd),
    ((bundleOf q.data).first ≠ q.a0 ∨ (bundleOf q.data).count ≠ q.a1)) ∧
    (∃ (c : Cfg) (m : Mach) (q : Cmd) (st : Nat),
    (bundleOf q.data).first = q.a0 ∧ (bundleOf q.data).count = q.a1 ∧ bundleCheck c m [6] q.data = some st)) ∧
    (∃ (s : State) (r : Fin 16384) (q : Cmd),
    ∃ (q' : Cmd) (slot : Nat) (m : Mach), Starts s r .tmplSet q q' slot m ∧ isBulk .tmplSet q' = false) ∧
    (∃ (s : State) (r : Fin 16384) (q : Cmd),
    ∃ (q' : Cmd) (slot : Nat) (m : Mach), Starts s r .clsSet q q' slot m ∧ isBulk .clsSet q' = false) ∧
    (∃ (c : Cfg) (m : Mach) (q : Cmd),
    Tbl.rising m.act.shadow.progs = true ∧ bundleCheck c m [6] q.data = none ∧ (bundleOf q.data).first = q.a0 ∧ (bundleOf q.data).count = q.a1 ∧ q.a0 + q.a1 ≤ 4096 ∧ (∀ i < q.a1, headerOk (slice (bundleOf q.data).payload (272 * i) 272) = true ∧
      firstBadOp (opsOf (slice (bundleOf q.data).payload (272 * i) 272)) 0 false false = none ∧ m.writeMeets 0 (q.a0 + i) = false)) ∧
    (∃ (m : Mach) (q : Cmd) (k : Nat),
    k < q.a1 ∧ (∀ i < k, q.a0 + i < 4096 ∧ tmplOk (slice q.data (160 * i) 160) = true ∧ m.writeMeets 1 (q.a0 + i) = false) ∧ q.a0 + k < 4096 ∧ tmplOk (slice q.data (160 * k) 160) = true ∧ m.writeMeets 1 (q.a0 + k) = true) :=
  ⟨⟨⟨S0, ⟨0, ⟨{ arg0 := 63, arg1 := 1, data := z 8 }, ⟨⟨_, _, _, starts_cg (by decide +kernel), by decide +kernel⟩, ⟨_, _, _, starts_cg (by decide +kernel), by decide +kernel⟩⟩⟩⟩⟩, ⟨⟨(S0).mach, ⟨{ arg0 := 63, arg1 := 1, data := z 8 }, ⟨by decide +kernel, ⟨by decide +kernel, ⟨by decide +kernel, by decide +kernel⟩⟩⟩⟩⟩, ⟨⟨(S0).mach, ⟨{ arg0 := 0x8000_00FF, arg1 := 2, data := z 16 }, ⟨by decide +kernel, ⟨by decide +kernel, by decide +kernel⟩⟩⟩⟩, ⟨⟨(S0).mach, ⟨{ arg0 := 0x1F00_07FF, arg1 := 1, data := z 96 }, ⟨by decide +kernel, ⟨by decide +kernel, by decide +kernel⟩⟩⟩⟩, ⟨⟨(S0).mach, ⟨{ arg0 := 4095, arg1 := 1, data := z 160 }, ⟨by decide +kernel, by decide +kernel⟩⟩⟩, ⟨(S0).mach, ⟨{ arg0 := 0, arg1 := 2, data := z 160 ++ List.replicate 160 255#8 }, ⟨1, ⟨by decide +kernel, ⟨by decide +kernel, ⟨by decide +kernel, by decide +kernel⟩⟩⟩⟩⟩⟩⟩⟩⟩⟩⟩,
   ⟨⟨(S0).conf, ⟨(S0).mach, ⟨{data := z 80, arg0 := 5}, by decide +kernel⟩⟩⟩, ⟨(S0).conf, ⟨(S0).mach, ⟨{data := splice pb 40 [1], arg0 := 4095, arg1 := 1}, ⟨_, ⟨by decide +kernel, ⟨by decide +kernel, some_getD 99 (by decide +kernel)⟩⟩⟩⟩⟩⟩⟩,
   ⟨S0s, ⟨0, ⟨{ arg0 := 4095, arg1 := 1, data := z 160 }, ⟨_, _, _, starts_cg (by decide +kernel), by decide +kernel⟩⟩⟩⟩,
   ⟨S0s, ⟨0, ⟨{ arg0 := 0x1F00_07FF, arg1 := 1, data := z 96 }, ⟨_, _, _, starts_cg (by decide +kernel), by decide +kernel⟩⟩⟩⟩,
   ⟨(S0s).conf, ⟨(S0s).mach, ⟨{ arg0 := 4095, arg1 := 1, data := pb }, ⟨by decide +kernel, ⟨by decide +kernel, ⟨by decide +kernel, ⟨by decide +kernel, ⟨by decide +kernel, by decide +kernel⟩⟩⟩⟩⟩⟩⟩⟩,
   ⟨(tmB).mach, ⟨{ arg0 := 4095, arg1 := 1, data := z 160 }, ⟨0, ⟨by decide +kernel, ⟨by decide +kernel, ⟨by decide +kernel, ⟨by decide +kernel, by decide +kernel⟩⟩⟩⟩⟩⟩⟩⟩

set_option maxRecDepth 100000 in
theorem test_witness_FdbCommandsSetFindAndRemove :
    ((∃ (s : State) (r : Fin 16384) (q : Cmd),
    (∃ (q' : Cmd) (slot : Nat) (m : Mach), Starts s r .fdbSet q q' slot m ∧ isBulk .fdbSet q' = false) ∧
    (∃ (q' : Cmd) (slot : Nat) (m : Mach), Starts s r .fdbDelete q q' slot m ∧ isBulk .fdbDelete q' = false)) ∧
    ((∃ (s : State) (r : Fin 16384) (q : Cmd) (q' : Cmd) (slot : Nat) (m : Mach) (m' : Mach),
    Starts s r .fdbFlush q q' slot m ∧ m.holdsLeave opBulk m.pwr.nextWait = false ∧ m.waitsLeave opBulk m.pwr.nextWait = false ∧ askLeave s.conf m opBulk m.pwr.nextWait = (.granted, m')) ∧
    ((∃ (m : Mach) (q : Cmd) (d : Fin 2) (e : Nat) (p : Nat),
    q.a1 = 1 ∧ q.dies = [d.val] ∧ be q.data 0 16 = e ∧ fdbOk e = true ∧ (fdbFind m d (fdbBd e) (fdbMac e) = some p ∨ (fdbFind m d (fdbBd e) (fdbMac e) = none ∧ fdbRoom m d (fdbBd e) (fdbMac e) = some p))) ∧
    ((∃ (m : Mach) (q : Cmd),
    q.a1 = 1 ∧ fdbOk (be q.data 0 16) = false) ∧
    ((∃ (m : Mach) (q : Cmd),
    q.a1 = 1 ∧ (∀ d ∈ q.dies, fdbFind m d (fdbBd (be q.data 0 16)) (fdbMac (be q.data 0 16)) = none)) ∧
    (∃ (m : Mach) (q : Cmd),
    bit q.a0 31 = false ∧ bit q.a1 31 = false)))))) ∧
    (∃ (m : Mach) (q : Cmd) (d : Fin 2) (e : Nat) (p : Nat),
    q.a1 = 1 ∧ q.dies = [d.val] ∧ be q.data 0 16 = e ∧ fdbFind m d (fdbBd e) (fdbMac e) = some p) ∧
    (∃ (m : Mach) (q : Cmd) (d : Fin 2) (e : Nat),
    q.a1 = 1 ∧ q.dies = [d.val] ∧ be q.data 0 16 = e ∧ fdbOk e = true ∧ fdbFind m d (fdbBd e) (fdbMac e) = none ∧ fdbRoom m d (fdbBd e) (fdbMac e) = none) ∧
    ((∃ (s : State) (r : Fin 16384) (q : Cmd),
    ∃ (q' : Cmd) (slot : Nat) (m : Mach), Starts s r .fdbQuery q q' slot m ∧ isBulk .fdbQuery q' = false) ∧
    (∃ (m : Mach) (q : Cmd) (p : Nat),
    Tbl.rising m.fwd.fdb = true ∧ bit q.a0 31 = true ∧ bit q.a1 31 = false)) ∧
    (∃ (m : Mach) (q : Cmd) (e : Nat) (p : Nat) (p' : Nat),
    Tbl.rising m.fwd.fdb = true ∧ q.a1 = 1 ∧ q.dies = [0, 1] ∧ be q.data 0 16 = e ∧ fdbOk e = true ∧ fdbFind m 0 (fdbBd e) (fdbMac e) = some p ∧ fdbFind m 1 (fdbBd e) (fdbMac e) = some p') :=
  ⟨⟨⟨S0, ⟨0, ⟨{ arg1 := 1, data := feb, flags := 0x1000}, ⟨⟨_, _, _, starts_cg (by decide +kernel), by decide +kernel⟩, ⟨_, _, _, starts_cg (by decide +kernel), by decide +kernel⟩⟩⟩⟩⟩, ⟨⟨S0, ⟨0, ⟨{}, ⟨_, ⟨_, ⟨_, ⟨_, ⟨starts_cg (by decide +kernel), ⟨by decide +kernel, ⟨by decide +kernel, pair_of (by decide +kernel)⟩⟩⟩⟩⟩⟩⟩⟩⟩⟩, ⟨⟨(S0).mach, ⟨{ arg1 := 1, data := feb, flags := 0x1000}, ⟨0, ⟨be feb 0 16, ⟨327136, ⟨by decide +kernel, ⟨by decide +kernel, ⟨by decide +kernel, ⟨by decide +kernel, by decide +kernel⟩⟩⟩⟩⟩⟩⟩⟩⟩, ⟨⟨(S0).mach, ⟨{ arg1 := 1, data := z 15 ++ [1]}, ⟨by decide +kernel, by decide +kernel⟩⟩⟩, ⟨⟨(S0).mach, ⟨{ arg1 := 1, data := feb, flags := 0x1000}, ⟨by decide +kernel, by decide +kernel⟩⟩⟩, ⟨(S0).mach, ⟨{ arg1 := 1, data := feb, flags := 0x1000}, ⟨by decide +kernel, by decide +kernel⟩⟩⟩⟩⟩⟩⟩⟩,
   ⟨(feS).mach, ⟨{ arg1 := 1, data := feb, flags := 0x1000}, ⟨0, ⟨be feb 0 16, ⟨327136, ⟨by decide +kernel, ⟨by decide +kernel, ⟨by decide +kernel, by decide +kernel⟩⟩⟩⟩⟩⟩⟩⟩,
   ⟨(feF).mach, ⟨{ arg1 := 1, data := feb, flags := 0x1000}, ⟨0, ⟨be feb 0 16, ⟨by decide +kernel, ⟨by decide +kernel, ⟨by decide +kernel, ⟨by decide +kernel, ⟨by decide +kernel, by decide +kernel⟩⟩⟩⟩⟩⟩⟩⟩⟩,
   ⟨⟨S0, ⟨0, ⟨{arg1 := 1, data := feb, outLen := 16}, ⟨_, _, _, starts_cg (by decide +kernel), by decide +kernel⟩⟩⟩⟩, ⟨(S0).mach, ⟨{arg0 := 0x80000000}, ⟨327136, ⟨by decide +kernel, ⟨by decide +kernel, by decide +kernel⟩⟩⟩⟩⟩⟩,
   ⟨(upd feS (fun m => m.setFdb (327136 + 2^20) (be feb 0 16))).mach, ⟨{ arg1 := 1, data := feb, flags := 0x3000}, ⟨be feb 0 16, ⟨327136, ⟨327136 + 2^20, ⟨by decide +kernel, ⟨by decide +kernel, ⟨by decide +kernel, ⟨by decide +kernel, ⟨by decide +kernel, ⟨by decide +kernel, by decide +kernel⟩⟩⟩⟩⟩⟩⟩⟩⟩⟩⟩⟩

set_option maxRecDepth 100000 in
theorem test_witness_RoutingCommandsWriteTheirTables :
    ((∃ (s : State) (r : Fin 16384) (q : Cmd),
    ∃ (q' : Cmd) (slot : Nat) (m : Mach), Starts s r .bdSet q q' slot m ∧ isBulk .bdSet q' = false) ∧
    ((∃ (m : Mach) (q : Cmd),
    Tbl.rising m.fwd.bd = true ∧ (∀ i < q.a1, q.a0 + i < 16384 ∧ bdOk (beNat (slice q.data (48 * i) 48)) = true)) ∧
    ((∃ (m : Mach) (q : Cmd),
    Tbl.rising m.fwd.nh = true ∧ (∀ i < q.a1, q.a0 + i < 65536 ∧ nhType (beNat (slice q.data (16 * i) 16)) ≠ 3 ∧ bits (beNat (slice q.data (16 * i) 16)) 51 0 = 0)) ∧
    ((∃ (m : Mach) (q : Cmd),
    Tbl.rising m.fwd.group = true ∧ (∀ i < q.a1, q.a0 + i < 16384 ∧ grpOk (beNat (slice q.data (8 * i) 8)) = true)) ∧
    ((∃ (m : Mach) (q : Cmd),
    Tbl.rising m.fwd.member = true ∧ q.a0 + q.a1 ≤ 262144) ∧
    ((∃ (s : State) (r : Fin 16384) (q : Cmd),
    ∃ (q' : Cmd) (slot : Nat) (m : Mach), Starts s r .ecmpMemberDown q q' slot m ∧ isBulk .ecmpMemberDown q' = false) ∧
    (∃ (s : State) (r : Fin 16384) (q : Cmd),
    ∃ (q' : Cmd) (slot : Nat) (m : Mach), Starts s r .ecmpMemberUp q q' slot m ∧ isBulk .ecmpMemberUp q' = false))))))) ∧
    (∃ (s : State) (r : Fin 16384) (q : Cmd),
    ∃ (q' : Cmd) (slot : Nat) (m : Mach), Starts s r .nhSet q q' slot m ∧ isBulk .nhSet q' = false) ∧
    (∃ (s : State) (r : Fin 16384) (q : Cmd),
    ∃ (q' : Cmd) (slot : Nat) (m : Mach), Starts s r .ecmpGroupSet q q' slot m ∧ isBulk .ecmpGroupSet q' = false) ∧
    (∃ (s : State) (r : Fin 16384) (q : Cmd),
    ∃ (q' : Cmd) (slot : Nat) (m : Mach), Starts s r .ecmpMemberSet q q' slot m ∧ isBulk .ecmpMemberSet q' = false) :=
  ⟨⟨⟨S2, ⟨0, ⟨{ arg0 := 16383, arg1 := 1, data := z 48 }, ⟨_, _, _, starts_cg (by decide +kernel), by decide +kernel⟩⟩⟩⟩, ⟨⟨(S2).mach, ⟨{ arg0 := 16383, arg1 := 1, data := z 48 }, ⟨by decide +kernel, by decide +kernel⟩⟩⟩, ⟨⟨(S2).mach, ⟨{ arg0 := 65535, arg1 := 1, data := z 16 }, ⟨by decide +kernel, by decide +kernel⟩⟩⟩, ⟨⟨(S2).mach, ⟨{ arg0 := 16383, arg1 := 1, data := beBytes 8 (2^36 + 2^27) }, ⟨by decide +kernel, by decide +kernel⟩⟩⟩, ⟨⟨(S2).mach, ⟨{ arg0 := 262143, arg1 := 1, data := z 2 }, ⟨by decide +kernel, by decide +kernel⟩⟩⟩, ⟨⟨S2, ⟨0, ⟨{arg0 := 3, arg1 := 0}, ⟨_, _, _, starts_cg (by decide +kernel), by decide +kernel⟩⟩⟩⟩, ⟨S2, ⟨0, ⟨{arg0 := 3, arg1 := 3}, ⟨_, _, _, starts_cg (by decide +kernel), by decide +kernel⟩⟩⟩⟩⟩⟩⟩⟩⟩⟩,
   ⟨S2, ⟨0, ⟨{ arg0 := 65535, arg1 := 1, data := z 16 }, ⟨_, _, _, starts_cg (by decide +kernel), by decide +kernel⟩⟩⟩⟩,
   ⟨S2, ⟨0, ⟨{ arg0 := 16383, arg1 := 1, data := beBytes 8 (2^36 + 2^27) }, ⟨_, _, _, starts_cg (by decide +kernel), by decide +kernel⟩⟩⟩⟩,
   ⟨S2, ⟨0, ⟨{ arg0 := 262143, arg1 := 1, data := z 2 }, ⟨_, _, _, starts_cg (by decide +kernel), by decide +kernel⟩⟩⟩⟩⟩

set_option maxRecDepth 100000 in
theorem test_witness_ForwardingListCommandsWriteTheirTables :
    ((∃ (s : State) (r : Fin 16384) (q : Cmd),
    (∃ (q' : Cmd) (slot : Nat) (m : Mach), Starts s r .lpmAdd q q' slot m ∧ isBulk .lpmAdd q' = false) ∧
    (∃ (q' : Cmd) (slot : Nat) (m : Mach), Starts s r .lpmDelete q q' slot m ∧ isBulk .lpmDelete q' = false)) ∧
    ((∃ (m : Mach) (q : Cmd),
    q.a1 = 1 ∧ lpmOk (slice q.data 0 32) = true ∧
    let x := lpmOf (slice q.data 0 32)
    let rest := m.fwd.lpm.filter fun y => !y.same x
    (rest.filter fun y => y.v6 == x.v6).length < (if x.v6 then 262144 else 1048576)) ∧
    ((∃ (m : Mach) (q : Cmd),
    q.a1 = 1 ∧ lpmOk (slice q.data 0 32) = false) ∧
    ((∃ (m : Mach) (q : Cmd),
    q.a1 = 1 ∧ lpmOk (splice (slice q.data 0 32) 4 [0, 0, 0, 0]) = true) ∧
    ((∃ (m : Mach) (q : Cmd),
    Tbl.rising m.fwd.sub = true ∧ Tbl.rising m.fwd.map = true ∧ (∀ i < q.a1, q.a0 + i < 8388608 ∧ subOk (slice q.data (256 * i) 256) = true)) ∧
    ((∃ (m : Mach) (q : Cmd),
    q.a0 + q.a1 ≤ 8388608) ∧
    ((∃ (m : Mach) (q : Cmd) (d : Fin 2),
    q.a1 = 1 ∧ q.dies = [d.val] ∧ q.a0 < 65536 ∧ polOk (beNat (slice q.data 0 16)) = true) ∧
    ((∃ (m : Mach) (q : Cmd) (d : Fin 2),
    q.dies = [d.val] ∧ q.a0 + q.a1 ≤ 65536) ∧
    (∃ (m : Mach) (q : Cmd),
    Tbl.rising m.sch.gates = true ∧ Tbl.rising (m.gate q.a0).admin = true ∧ q.a0 < 256 ∧ q.a0 % 8 < 6 ∧ (m.gate q.a0).change = none ∧ 0 < bits q.a1 26 16 ∧ (∀ i < bits q.a1 26 16, bits q.a1 10 0 + i < 1024 ∧ bits (beNat (slice q.data (8 * i) 8)) 63 40 = 0 ∧ 8 ≤ gInterval (beNat (slice q.data (8 * i) 8)))))))))))) ∧
    (∃ (s : State) (r : Fin 16384) (q : Cmd),
    ∃ (q' : Cmd) (slot : Nat) (m : Mach), Starts s r .subSet q q' slot m ∧ isBulk .subSet q' = false) ∧
    (∃ (s : State) (r : Fin 16384) (q : Cmd),
    (∃ (q' : Cmd) (slot : Nat) (m : Mach), Starts s r .subQuery q q' slot m ∧ isBulk .subQuery q' = false) ∧
    ((∃ (q' : Cmd) (slot : Nat) (m : Mach), Starts s r .policerQuery q q' slot m ∧ isBulk .policerQuery q' = false) ∧
    (∃ (q' : Cmd) (slot : Nat) (m : Mach), Starts s r .gclSet q q' slot m ∧ isBulk .gclSet q' = false))) ∧
    (∃ (s : State) (r : Fin 16384) (q : Cmd),
    ∃ (q' : Cmd) (slot : Nat) (m : Mach), Starts s r .policerSet q q' slot m ∧ isBulk .policerSet q' = false) ∧
    (∃ (m : Mach) (q : Cmd),
    q.a0 < 256 ∧ q.a0 % 8 < 6 ∧ (m.gate q.a0).change.isSome = true) :=
  ⟨⟨⟨S0, ⟨0, ⟨{ arg1 := 1, data := z 32 }, ⟨⟨_, _, _, starts_cg (by decide +kernel), by decide +kernel⟩, ⟨_, _, _, starts_cg (by decide +kernel), by decide +kernel⟩⟩⟩⟩⟩, ⟨⟨(S0).mach, ⟨{ arg1 := 1, data := z 32 }, ⟨by decide +kernel, ⟨by decide +kernel, by decide +kernel⟩⟩⟩⟩, ⟨⟨(S0).mach, ⟨{ arg1 := 1, data := List.replicate 32 255#8 }, ⟨by decide +kernel, by decide +kernel⟩⟩⟩, ⟨⟨(S0).mach, ⟨{ arg1 := 1, data := z 32 }, ⟨by decide +kernel, by decide +kernel⟩⟩⟩, ⟨⟨(S0).mach, ⟨{ arg0 := 8388607, arg1 := 1, data := z 256 }, ⟨by decide +kernel, ⟨by decide +kernel, by decide +kernel⟩⟩⟩⟩, ⟨⟨(S0).mach, ⟨{ arg0 := 8388606, arg1 := 2, outLen := 512 }, by decide +kernel⟩⟩, ⟨⟨(S0).mach, ⟨{ arg0 := 65535, arg1 := 1, flags := 0x2000, data := beBytes 16 (64 * 2^32 + 64) }, ⟨1, ⟨by decide +kernel, ⟨by decide +kernel, ⟨by decide +kernel, by decide +kernel⟩⟩⟩⟩⟩⟩, ⟨⟨(S0).mach, ⟨{ arg0 := 65534, arg1 := 2, outLen := 32, flags := 0x2000 }, ⟨1, ⟨by decide +kernel, by decide +kernel⟩⟩⟩⟩, ⟨(S0).mach, ⟨{ arg0 := 253, arg1 := 0x0001_03FF, data := beBytes 8 (0xFF * 2^32 + 8) }, ⟨by decide +kernel, ⟨by decide +kernel, ⟨by decide +kernel, ⟨by decide +kernel, ⟨by decide +kernel, ⟨by decide +kernel, by decide +kernel⟩⟩⟩⟩⟩⟩⟩⟩⟩⟩⟩⟩⟩⟩⟩⟩,
   ⟨S0, ⟨0, ⟨{ arg0 := 8388607, arg1 := 1, data := z 256 }, ⟨_, _, _, starts_cg (by decide +kernel), by decide +kernel⟩⟩⟩⟩,
   ⟨S0, ⟨0, ⟨{ arg0 := 8388606, arg1 := 2, outLen := 512 }, ⟨⟨_, _, _, starts_cg (by decide +kernel), by decide +kernel⟩, ⟨⟨_, _, _, starts_cg (by decide +kernel), by decide +kernel⟩, ⟨_, _, _, starts_cg (by decide +kernel), by decide +kernel⟩⟩⟩⟩⟩⟩,
   ⟨S0, ⟨0, ⟨{ arg0 := 65535, arg1 := 1, flags := 0x2000, data := z 16 }, ⟨_, _, _, starts_cg (by decide +kernel), by decide +kernel⟩⟩⟩⟩,
   ⟨(upd S0 (fun m => m.setGate 253 {m.gate 253 with change := some ⟨0, 1000, 0, 1⟩ })).mach, ⟨{arg0 := 253}, ⟨by decide +kernel, ⟨by decide +kernel, by decide +kernel⟩⟩⟩⟩⟩

set_option maxRecDepth 100000 in
theorem test_witness_SteeringCommandsActOnTheirEntries :
    ((∃ (s : State) (r : Fin 16384) (q : Cmd),
    (∃ (q' : Cmd) (slot : Nat) (m : Mach), Starts s r .steerSet q q' slot m ∧ isBulk .steerSet q' = false) ∧
    (∃ (q' : Cmd) (slot : Nat) (m : Mach), Starts s r .promote q q' slot m ∧ isBulk .promote q' = false)) ∧
    ((∃ (c : Cfg) (m : Mach) (q : Cmd),
    (q.a1 = 0 ∨ 1024 < q.a1)) ∧
    ((∃ (c : Cfg) (m : Mach) (q : Cmd),
    q.a1 = 1 ∧ q.a0 < 65536 ∧
    let x := putBits (beNat (slice q.data 0 8)) 15 13 0
    steerOk c x = true ∧ m.entState q.a0 ≠ 3 ∧ (m.glb.sealSt ≠ .sealed ∨ changesPart c (m.entry q.a0) x = false) ∧ seHome x ≠ seHome (m.entry q.a0)) ∧
    ((∃ (m : Mach) (q : Cmd),
    0 < q.a1 ∧ q.a1 ≤ 1024 ∧ q.a0 + q.a1 ≤ 65536) ∧
    ((∃ (c : Cfg) (m : Mach) (q : Cmd),
    q.a0 + q.a1 ≤ 65536 ∧ (∀ i < q.a1, entRole c (m.entry (q.a0 + i)) = .mirror ∧ m.entState (q.a0 + i) = 1)) ∧
    (∃ (c : Cfg) (m : Mach) (e : Nat) (mirror : Option (Nat × Option Nat)),
    Tbl.rising m.duo.steer = true ∧ Tbl.rising m.duo.est = true ∧ deviceId c < 2 ^ 18 ∧ m.entry e < 2 ^ 64 ∧ (∀ x, mirror = some x → x.1 < 2 ^ 18 ∧ ∀ p, x.2 = some p → p < 8) ∧ (seValid (m.entry e) = true) ∧
    ((∃ x,
    mirror = some x ∧ ∃ p,
    x.2 = some p) ∧
    (∃ n,
    n ≠ e)))))))) ∧
    ((∃ (c : Cfg) (m : Mach) (q : Cmd),
    q.a1 = 1 ∧ q.a0 < 65536 ∧
    let x := putBits (beNat (slice q.data 0 8)) 15 13 0
    steerOk c x = true ∧ m.entState q.a0 ≠ 3 ∧ (m.glb.sealSt ≠ .sealed ∨ changesPart c (m.entry q.a0) x = false) ∧ seHome x = seHome (m.entry q.a0)) ∧
    (∃ (c : Cfg) (m : Mach) (q : Cmd),
    (65536 < q.a0 + q.a1 ∨ (∃ i < q.a1, entRole c (m.entry (q.a0 + i)) ≠ .mirror ∨ m.entState (q.a0 + i) ≠ 1)))) ∧
    (∃ (s : State) (r : Fin 16384) (q : Cmd),
    ∃ (q' : Cmd) (slot : Nat) (m : Mach), Starts s r .steerQuery q q' slot m ∧ isBulk .steerQuery q' = false) ∧
    (∃ (c : Cfg) (m : Mach) (q : Cmd),
    q.a1 = 1 ∧ q.a0 < 65536 ∧
    let x := putBits (beNat (slice q.data 0 8)) 15 13 0
    steerOk c x = false) ∧
    (∃ (c : Cfg) (m : Mach) (q : Cmd),
    q.a1 = 1 ∧ q.a0 < 65536 ∧
    let x := putBits (beNat (slice q.data 0 8)) 15 13 0
    steerOk c x = true ∧ m.entState q.a0 = 3) ∧
    (∃ (c : Cfg) (m : Mach) (q : Cmd),
    q.a1 = 1 ∧ q.a0 < 65536 ∧
    let x := putBits (beNat (slice q.data 0 8)) 15 13 0
    steerOk c x = true ∧ m.glb.sealSt = .sealed ∧ m.entState q.a0 ≠ 3 ∧ changesPart c (m.entry q.a0) x = true) :=
  ⟨⟨⟨du DC fun d => {d with steer := [(65535, 2^63 + 2^62 + 7 * 2^42 + 9 * 2^24)], est := [(65535, 1)]}, ⟨0, ⟨{ arg0 := 65535, arg1 := 1, data := z 8 }, ⟨⟨_, _, _, starts_cg (by decide +kernel), by decide +kernel⟩, ⟨_, _, _, starts_cg (by decide +kernel), by decide +kernel⟩⟩⟩⟩⟩, ⟨⟨(du DC fun d => {d with steer := [(65535, 2^63 + 2^62 + 7 * 2^42 + 9 * 2^24)], est := [(65535, 1)]}).conf, ⟨(du DC fun d => {d with steer := [(65535, 2^63 + 2^62 + 7 * 2^42 + 9 * 2^24)], est := [(65535, 1)]}).mach, ⟨{}, by decide +kernel⟩⟩⟩, ⟨⟨(du DC fun d => {d with steer := [(65535, 2^63 + 2^62 + 7 * 2^42 + 9 * 2^24)], est := [(65535, 1)]}).conf, ⟨(du DC fun d => {d with steer := [(65535, 2^63 + 2^62 + 7 * 2^42 + 9 * 2^24)], est := [(65535, 1)]}).mach, ⟨{ arg0 := 65535, arg1 := 1, data := z 8 }, ⟨by decide +kernel, ⟨by decide +kernel, ⟨by decide +kernel, ⟨by decide +kernel, ⟨by decide +kernel, by decide +kernel⟩⟩⟩⟩⟩⟩⟩⟩, ⟨⟨(du DC fun d => {d with steer := [(65535, 2^63 + 2^62 + 7 * 2^42 + 9 * 2^24)], est := [(65535, 1)]}).mach, ⟨{ arg0 := 65535, arg1 := 1, data := z 8 }, ⟨by decide +kernel, ⟨by decide +kernel, by decide +kernel⟩⟩⟩⟩, ⟨⟨(du DC fun d => {d with steer := [(65535, 2^63 + 2^62 + 7 * 2^42 + 9 * 2^24)], est := [(65535, 1)]}).conf, ⟨(du DC fun d => {d with steer := [(65535, 2^63 + 2^62 + 7 * 2^42 + 9 * 2^24)], est := [(65535, 1)]}).mach, ⟨{ arg0 := 65535, arg1 := 1 }, ⟨by decide +kernel, by decide +kernel⟩⟩⟩⟩, ⟨(du DC fun d => {d with steer := [(65535, 2^63 + 2^62 + 7 * 2^42 + 9 * 2^24)], est := [(65535, 1)]}).conf, ⟨(du DC fun d => {d with steer := [(65535, 2^63 + 2^62 + 7 * 2^42 + 9 * 2^24)], est := [(65535, 1)]}).mach, ⟨65535, ⟨some (6, some 3), ⟨by decide +kernel, ⟨by decide +kernel, ⟨by decide +kernel, ⟨by decide +kernel, ⟨by decide +kernel, ⟨by decide +kernel, ⟨⟨(6, some 3), ⟨by decide +kernel, ⟨3, by decide +kernel⟩⟩⟩, ⟨5, by decide +kernel⟩⟩⟩⟩⟩⟩⟩⟩⟩⟩⟩⟩⟩⟩⟩⟩⟩,
   ⟨⟨(S0).conf, ⟨(S0).mach, ⟨{ arg0 := 65535, arg1 := 1, data := z 8 }, ⟨by decide +kernel, ⟨by decide +kernel, ⟨by decide +kernel, ⟨by decide +kernel, ⟨by decide +kernel, by decide +kernel⟩⟩⟩⟩⟩⟩⟩⟩, ⟨(S0).conf, ⟨(S0).mach, ⟨{ arg0 := 65535, arg1 := 1 }, by decide +kernel⟩⟩⟩⟩,
   ⟨S0, ⟨0, ⟨{arg0 := 65535, arg1 := 1, outLen := 8}, ⟨_, _, _, starts_cg (by decide +kernel), by decide +kernel⟩⟩⟩⟩,
   ⟨(S0).conf, ⟨(S0).mach, ⟨{ arg0 := 65535, arg1 := 1, data := List.replicate 8 255#8 }, ⟨by decide +kernel, ⟨by decide +kernel, by decide +kernel⟩⟩⟩⟩⟩,
   ⟨(du S0 fun d => {d with est := [(65535, 3)]}).conf, ⟨(du S0 fun d => {d with est := [(65535, 3)]}).mach, ⟨{ arg0 := 65535, arg1 := 1, data := z 8 }, ⟨by decide +kernel, ⟨by decide +kernel, ⟨by decide +kernel, by decide +kernel⟩⟩⟩⟩⟩⟩,
   ⟨(DCs).conf, ⟨(DCs).mach, ⟨{ arg0 := 65535, arg1 := 1, data := beBytes 8 (2^63 + 9 * 2^42) }, ⟨by decide +kernel, ⟨by decide +kernel, ⟨by decide +kernel, ⟨by decide +kernel, ⟨by decide +kernel, by decide +kernel⟩⟩⟩⟩⟩⟩⟩⟩⟩

set_option maxRecDepth 100000 in
theorem test_witness_TrustCommandsActAsTheirRulesSay :
    ((∃ (s : State) (r : Fin 16384) (q : Cmd),
    ∃ (q' : Cmd) (slot : Nat) (m : Mach), Starts s r .coreLoad q q' slot m ∧ isBulk .coreLoad q' = false) ∧
    ((∃ (s : State) (r : Fin 16384) (q : Cmd) (q' : Cmd) (slot : Nat) (m : Mach),
    Starts s r .attest q q' slot m ∧ isBulk .attest q' = false ∧ q'.arg0.getLsbD 0 = true) ∧
    ((∃ (m : Mach) (m' : Mach),
    reserveLeaf m = (true, m') ∧ m.sec.nv.reserved.2.2 = m.sec.next) ∧
    ((∃ (s : State) (r : Fin 16384) (q : Cmd),
    ∃ (q' : Cmd) (slot : Nat) (m : Mach), Starts s r .tagWrite q q' slot m ∧ isBulk .tagWrite q' = false) ∧
    ((∃ (t : Tbl Byte) (off : Nat) (b : List Byte),
    Tbl.rising t = true) ∧
    (∃ (s : State) (r : Fin 16384) (q : Cmd),
    ∃ (q' : Cmd) (slot : Nat) (m : Mach), Starts s r .ownerEnrol q q' slot m ∧ isBulk .ownerEnrol q' = false)))))) ∧
    ((∃ (s : State) (r : Fin 16384) (q : Cmd) (q' : Cmd) (slot : Nat) (m : Mach),
    Starts s r .attest q q' slot m ∧ isBulk .attest q' = false ∧ q'.arg0.getLsbD 0 = false ∧ m.sec.next < 2 ^ 40 ∧ keyReady m = true ∧ m.sec.signedAt = none ∧ m.holdsLeave opQuote m.pwr.nextWait = false ∧ m.waitsLeave opQuote m.pwr.nextWait = false ∧ ∃ m' m'',
    askLeave s.conf m opQuote m.pwr.nextWait = (.granted, m') ∧ reserveLeaf m' = (true, m'')) ∧
    ((∃ (m : Mach),
    m.sec.nv.reserved.2.2 ≠ m.sec.next) ∧
    (∃ (c : Cfg) (m : Mach) (body : List Byte),
    m.sec.next < 2 ^ 40 ∧ 2 ^ 30 ≤ 2 ^ 40 - m.sec.next - 1 ∧ treeDue { m with sec := { m.sec with next := m.sec.next + 1 } } = none))) ∧
    (∃ (s : State) (r : Fin 16384) (q : Cmd) (q' : Cmd) (slot : Nat) (m : Mach),
    Starts s r .attest q q' slot m ∧ isBulk .attest q' = false ∧ q'.arg0.getLsbD 0 = false ∧ 2 ^ 40 ≤ m.sec.next) :=
  ⟨⟨⟨S0, ⟨0, ⟨{ arg0 := 1, data := z 10 }, ⟨_, _, _, starts_cg (by decide +kernel), by decide +kernel⟩⟩⟩⟩, ⟨⟨S0, ⟨0, ⟨{ arg0 := 1, outLen := 3044 }, ⟨_, ⟨_, ⟨_, ⟨starts_cg (by decide +kernel), ⟨by decide +kernel, by decide +kernel⟩⟩⟩⟩⟩⟩⟩⟩, ⟨⟨(S0).mach, ⟨_, ⟨pair_of (by decide +kernel), by decide +kernel⟩⟩⟩, ⟨⟨S0, ⟨0, ⟨{ arg0 := 4032, data := List.replicate 64 7 }, ⟨_, _, _, starts_cg (by decide +kernel), by decide +kernel⟩⟩⟩⟩, ⟨⟨[], ⟨4032, ⟨[1,2], by decide +kernel⟩⟩⟩, ⟨S0, ⟨0, ⟨{ data := z 68 }, ⟨_, _, _, starts_cg (by decide +kernel), by decide +kernel⟩⟩⟩⟩⟩⟩⟩⟩⟩,
   ⟨⟨KR, ⟨0, ⟨{ data := z 32, outLen := 10325 }, ⟨_, ⟨_, ⟨_, ⟨starts_cg (by decide +kernel), ⟨by decide +kernel, ⟨by decide +kernel, ⟨by decide +kernel, ⟨by decide +kernel, ⟨by decide +kernel, ⟨by decide +kernel, ⟨by decide +kernel, ⟨_, ⟨_, ⟨pair_of (by decide +kernel), pair_of (by decide +kernel)⟩⟩⟩⟩⟩⟩⟩⟩⟩⟩⟩⟩⟩⟩⟩⟩⟩, ⟨⟨(KR).mach, by decide +kernel⟩, ⟨(KR).conf, ⟨(KR).mach, ⟨z 10, ⟨by decide +kernel, ⟨by decide +kernel, by decide +kernel⟩⟩⟩⟩⟩⟩⟩,
   ⟨upd S0 (fun m => {m with sec := {m.sec with next := 2^40}}), ⟨0, ⟨{ data := z 32, outLen := 10325 }, ⟨_, ⟨_, ⟨_, ⟨starts_cg (by decide +kernel), ⟨by decide +kernel, ⟨by decide +kernel, by decide +kernel⟩⟩⟩⟩⟩⟩⟩⟩⟩⟩
end RingCommands

/-! ### Doorbells, rings and host links -/
namespace HostInterface
def qc : Ring := { state := .active, kind := .cmd, ver := 2, log2 := 6, owner := 0, tail := 3, head := 1, cache := [z 64], irqEn := true }
def D0 : State := upd P0 fun m => m.setRing 5 qc
def dcmd : List Byte := splice (splice (z 64) 16 [0,0,0,6]) 0 [0x15]
def dtx : List Byte := splice (z 64) 12 [0, 60]
def qt : Ring := { qc with kind := .txp, begun := [(9, dtx)], cache := [], irqEn := false, pipes := 1 }
def dbuf : List Byte := splice (z 64) 12 [1, 0]
def dmore : List Byte := splice (splice (z 64) 12 [0, 60]) 2 [0x80]
def dzero : List Byte := splice dtx 12 [0, 0]
def dptp : List Byte := beBytes 8 (3 * 2^45) ++ dtx.drop 8
def D7 : State := withCfg (upd P0 fun m => (m.setPort 0 {m.port 0 with msixEn := true}).setRing 5 { qc with armed := true, unsig := 2, modTime := 0, modCount := 9, firstAt := some 0, vector := 3 }) hifMsixCtrlMask 0 0 3 0

set_option maxRecDepth 100000 in
theorem test_witness_DoorbellsAndReadsReachTheirRing_1 :
    ((∃ (s : State) (p : Fin 4) (r : Fin 16384) (t : BitVec 16) (len : Nat) (v : BitVec 64),
    s.live ∧
    let q := s.mach.ring r
    q.state = .active ∧ q.kind ≠ .evt ∧ q.fills = [] ∧ t.toNat < q.size ∧ q.posted ≤ (t.toNat + q.size - q.head) % q.size ∧ (portTakes s.mach p = true ∧ q.owner = p ∧ ((len = 8 ∨ len = 4) ∧ v.toNat % 2 ^ 18 = t.toNat) ∧
    (q.irqEn = true ∧ q.unsig = 0)) ∧
    (let due := q.polledAt + 100 * s.conf.get hifPollPeriodPeriod ≤ s.mach.up
    (q.polled = false ∨ s.mach.dmaOk q.owner = false ∨ ¬due))) ∧
    ((∃ (s : State) (r : Fin 16384) (ds : List (List Byte)),
    s.live ∧
    let q := s.mach.ring r
    q.stale = 0 ∧ mayFetch s.mach r = true ∧ 0 < fetchRoom s.mach r ∧
    let m' := s.mach.setRing r { q with cache := q.cache ++ (ds.take (fetchRoom s.mach r)).map fun d =>
        (d ++ List.replicate (q.descBytes - d.length) 0).take q.descBytes, usedAt := s.mach.up }
    q.fills = [] ∧ prefetched m' ≤ 65536) ∧
    ((∃ (m : Mach) (r : Nat),
    Tbl.rising m.hif.rings = true ∧ ∃ k,
    k ≠ r) ∧
    (∃ (s : State) (r : Fin 16384),
    s.live ∧ mayFetch s.mach r = true ∧ 0 < fetchRoom s.mach r)))) ∧
    (∃ (s : State) (p : Fin 4) (off : BitVec 26) (len : Nat) (v : BitVec 64),
    s.live ∧ portTakes s.mach p = true ∧ (off.toNat % 4096 ≠ 0 ∨ (len ≠ 8 ∧ len ≠ 4))) ∧
    (∃ (s : State) (p : Fin 4) (off : BitVec 26) (len : Nat) (v : BitVec 64),
    s.live ∧
    let q := s.mach.ring (off.toNat / 4096)
    portTakes s.mach p = true ∧ off.toNat % 4096 = 0 ∧ (len = 8 ∨ len = 4) ∧ q.state = .active ∧ q.owner = p ∧ (q.size ≤ bits v.toNat 15 0 ∨ (bits v.toNat 15 0 + q.size - q.head) % q.size < q.posted)) ∧
    (∃ (s : State) (p : Fin 4) (r : Fin 16384) (t : BitVec 16) (len : Nat) (v : BitVec 64),
    s.live ∧
    let q := s.mach.ring r
    q.state = .active ∧ q.kind ≠ .evt ∧ q.fills = [] ∧ t.toNat < q.size ∧ q.posted ≤ (t.toNat + q.size - q.head) % q.size ∧
    let due := q.polledAt + 100 * s.conf.get hifPollPeriodPeriod ≤ s.mach.up
    q.polled = true ∧ s.mach.dmaOk q.owner = true ∧ due ∧ v.toNat % 2 ^ 18 = t.toNat) ∧
    ((∃ (s : State) (p : Fin 4) (off : BitVec 26) (len : Nat) (v : BitVec 64),
    s.live ∧
    let q := s.mach.ring (off.toNat / 4096)
    portTakes s.mach p = true ∧ off.toNat % 4096 = 0 ∧ (len = 8 ∨ len = 4) ∧ (q.state = .absent ∨ q.state = .draining ∧ q.owner = p)) ∧
    (∃ (s : State) (r : Fin 16384) (ds : Option (List (List Byte))),
    s.live ∧ (mayFetch s.mach r = false ∨ fetchRoom s.mach r = 0) ∧ (ds = none ∨ (s.mach.ring r).stale = 0))) ∧
    (∃ (s : State) (p : Fin 4) (r : Fin 16384) (t : BitVec 16) (len : Nat) (v : BitVec 64),
    s.live ∧
    let q := s.mach.ring r
    q.state = .active ∧ q.kind ≠ .evt ∧ q.fills = [] ∧ t.toNat < q.size ∧ q.posted ≤ (t.toNat + q.size - q.head) % q.size ∧ portTakes s.mach p = true ∧ q.owner = p ∧ q.irqEn = false) :=
  ⟨⟨⟨D0, ⟨0, ⟨5, ⟨63, ⟨4, ⟨63, ⟨by decide +kernel, ⟨by decide +kernel, ⟨by decide +kernel, ⟨by decide +kernel, ⟨by decide +kernel, ⟨by decide +kernel, ⟨⟨by decide +kernel, ⟨by decide +kernel, ⟨⟨by decide +kernel, by decide +kernel⟩, ⟨by decide +kernel, by decide +kernel⟩⟩⟩⟩, by decide +kernel⟩⟩⟩⟩⟩⟩⟩⟩⟩⟩⟩⟩⟩, ⟨⟨D0, ⟨5, ⟨[z 64, z 3], ⟨by decide +kernel, ⟨by decide +kernel, ⟨by decide +kernel, ⟨by decide +kernel, ⟨by decide +kernel, by decide +kernel⟩⟩⟩⟩⟩⟩⟩⟩, ⟨⟨(D0).mach, ⟨5, ⟨by decide +kernel, ⟨6, by decide +kernel⟩⟩⟩⟩, ⟨D0, ⟨5, ⟨by decide +kernel, ⟨by decide +kernel, by decide +kernel⟩⟩⟩⟩⟩⟩⟩,
   ⟨D0, ⟨0, ⟨8, ⟨8, ⟨63, ⟨by decide +kernel, ⟨by decide +kernel, by decide +kernel⟩⟩⟩⟩⟩⟩⟩,
   ⟨D0, ⟨0, ⟨BitVec.ofNat 26 (4096 * 5), ⟨8, ⟨2, ⟨by decide +kernel, ⟨by decide +kernel, ⟨by decide +kernel, ⟨by decide +kernel, ⟨by decide +kernel, ⟨by decide +kernel, by decide +kernel⟩⟩⟩⟩⟩⟩⟩⟩⟩⟩⟩,
   ⟨upd P0 fun m => {m.setRing 5 {qc with polled := true} with up := 10^12}, ⟨0, ⟨5, ⟨63, ⟨4, ⟨63, ⟨by decide +kernel, ⟨by decide +kernel, ⟨by decide +kernel, ⟨by decide +kernel, ⟨by decide +kernel, ⟨by decide +kernel, ⟨by decide +kernel, ⟨by decide +kernel, ⟨by decide +kernel, by decide +kernel⟩⟩⟩⟩⟩⟩⟩⟩⟩⟩⟩⟩⟩⟩⟩,
   ⟨⟨upd P0 fun m => m.setRing 5 {qc with irqEn := false, state := .draining}, ⟨0, ⟨BitVec.ofNat 26 (4096 * 5), ⟨8, ⟨63, ⟨by decide +kernel, ⟨by decide +kernel, ⟨by decide +kernel, ⟨by decide +kernel, by decide +kernel⟩⟩⟩⟩⟩⟩⟩⟩⟩, ⟨upd P0 fun m => m.setRing 5 {qc with irqEn := false, state := .draining}, ⟨5, ⟨none, ⟨by decide +kernel, ⟨by decide +kernel, by decide +kernel⟩⟩⟩⟩⟩⟩,
   ⟨upd P0 fun m => m.setRing 5 {qc with irqEn := false}, ⟨0, ⟨5, ⟨63, ⟨4, ⟨63, ⟨by decide +kernel, ⟨by decide +kernel, ⟨by decide +kernel, ⟨by decide +kernel, ⟨by decide +kernel, ⟨by decide +kernel, ⟨by decide +kernel, ⟨by decide +kernel, by decide +kernel⟩⟩⟩⟩⟩⟩⟩⟩⟩⟩⟩⟩⟩⟩⟩

set_option maxRecDepth 100000 in
theorem test_witness_DoorbellsAndReadsReachTheirRing_2 :
    (∃ (s : State) (p : Fin 4) (off : BitVec 26) (len : Nat) (v : BitVec 64),
    s.live ∧ portTakes s.mach p = false) ∧
    (∃ (s : State) (p : Fin 4) (off : BitVec 26) (len : Nat) (v : BitVec 64),
    s.live ∧
    let q := s.mach.ring (off.toNat / 4096)
    portTakes s.mach p = true ∧ off.toNat % 4096 = 0 ∧ (len = 8 ∨ len = 4) ∧ q.state ≠ .absent ∧ q.owner ≠ p) ∧
    (∃ (s : State) (r : Fin 16384) (ds : List (List Byte)),
    s.live ∧
    let q := s.mach.ring r
    0 < q.stale) ∧
    (∃ (s : State) (r : Fin 16384) (d : List Byte) (b : List Byte) (rest : List (Nat × List Byte)) (slot : Nat) (opc : Nat) (n : Nat) (x : Cmd),
    s.live ∧
    let q := s.mach.ring r
    q.kind = .cmd ∧ q.begun = (slot, d) :: rest ∧ cmdIn d q.ver = (opc, x, n) ∧ (b.length = n) ∧
    (ringWaits s.mach r = false)) ∧
    ((∃ (m : Mach) (r : Nat),
    Tbl.rising m.hif.rings = true ∧
    let q := m.ring r
    q.kind = .txp) ∧
    (∃ (s : State) (r : Fin 16384) (d : List Byte) (b : List Byte) (slot : Nat) (rest : List (Nat × List Byte)),
    s.live ∧
    let q := s.mach.ring r
    q.kind = .txp ∧ (q.begun.drop q.got.length = (slot, d) :: rest ∧ b.length = be d 12 2) ∧
    (q.begun = [(slot, d)] ∧ q.got = []))) ∧
    (∃ (m : Mach) (r : Nat),
    Tbl.rising m.hif.rings = true ∧
    let q := m.ring r
    q.kind = .cmd) :=
  ⟨⟨upd D0 fun m => (m.setPort 0 {}).setPort 1 { linkUp := true}, ⟨0, ⟨BitVec.ofNat 26 (4096 * 5), ⟨8, ⟨63, ⟨by decide +kernel, by decide +kernel⟩⟩⟩⟩⟩⟩,
   ⟨upd D0 (fun m => m.setPort 1 { linkUp := true}), ⟨1, ⟨BitVec.ofNat 26 (4096 * 5), ⟨8, ⟨63, ⟨by decide +kernel, ⟨by decide +kernel, ⟨by decide +kernel, ⟨by decide +kernel, ⟨by decide +kernel, by decide +kernel⟩⟩⟩⟩⟩⟩⟩⟩⟩⟩,
   ⟨upd P0 fun m => m.setRing 5 {qc with cache := [dcmd], stale := 1}, ⟨5, ⟨[z 64, z 3], ⟨by decide +kernel, by decide +kernel⟩⟩⟩⟩,
   ⟨upd P0 fun m => m.setRing 5 {qc with begun := [(9, dcmd)], cache := [], state := .active}, ⟨5, ⟨dcmd, ⟨z 6, ⟨[], ⟨9, ⟨(cmdIn dcmd 2).1, ⟨(cmdIn dcmd 2).2.2, ⟨(cmdIn dcmd 2).2.1, ⟨by decide +kernel, ⟨by decide +kernel, ⟨by decide +kernel, ⟨by decide +kernel, ⟨by decide +kernel, by decide +kernel⟩⟩⟩⟩⟩⟩⟩⟩⟩⟩⟩⟩⟩⟩,
   ⟨⟨(upd P0 fun m => m.setRing 5 { qc with kind := .txp, begun := [(9, dtx)], cache := [], irqEn := false, pipes := 1 }).mach, ⟨5, ⟨by decide +kernel, by decide +kernel⟩⟩⟩, ⟨upd P0 fun m => m.setRing 5 { qc with kind := .txp, begun := [(9, dtx)], cache := [], irqEn := false, pipes := 1 }, ⟨5, ⟨dtx, ⟨z 60, ⟨9, ⟨[], ⟨by decide +kernel, ⟨by decide +kernel, ⟨⟨by decide +kernel, by decide +kernel⟩, ⟨by decide +kernel, by decide +kernel⟩⟩⟩⟩⟩⟩⟩⟩⟩⟩⟩,
   ⟨(upd P0 (fun m => m.setRing 5 { qc with cache := [z 64, dcmd] })).mach, ⟨5, ⟨by decide +kernel, by decide +kernel⟩⟩⟩⟩

set_option maxRecDepth 100000 in
theorem test_witness_FramesCrossTheRings_1 :
    ((∃ (s : State) (r : Fin 16384) (ds : List (List Byte)),
    s.live ∧ txpWaits s.mach r = false ∧
    let q := s.mach.ring r
    let n := ds.length
    let d := ds.headD []
    let w := be d 0 8
    q.kind = .txp ∧ frameDescs (q.begun.map (·.2)) = some ds ∧ badExtent ds = false ∧ bits w 46 45 ≠ 3 ∧ n ≤ q.got.length ∧ q.toWq = false ∧ q.pipes.getLsbD (bits w 44 40) = true) ∧
    ((∃ (s : State) (r : Fin 16384),
    s.live ∧ (s.mach.ring r).fills = []) ∧
    (∃ (c : Cfg) (m : Mach) (r : Nat) (opc : Nat) (st : Nat) (fl : Nat) (ctx : BitVec 32) (body : List Byte),
    let q := m.ring r
    q.state ≠ .absent ∧ q.irqEn = false))) ∧
    (∃ (s : State) (r : Fin 16384) (ds : List (List Byte)),
    s.live ∧ txpWaits s.mach r = false ∧
    let q := s.mach.ring r
    let n := ds.length
    let d := ds.headD []
    let w := be d 0 8
    q.kind = .txp ∧ frameDescs (q.begun.map (·.2)) = some ds ∧ badExtent ds = false ∧ bits w 46 45 ≠ 3 ∧ n ≤ q.got.length ∧ q.toWq = false ∧ q.pipes.getLsbD (bits w 44 40) = false) ∧
    ((∃ (s : State) (r : Fin 16384),
    s.live ∧ ((s.mach.ring r).kind ≠ .txp ∨ txpWaits s.mach r = true ∨ frameDescs ((s.mach.ring r).begun.map (·.2)) = none)) ∧
    (∃ (s : State) (r : Fin 16384) (f : Fill) (d : List Byte) (rest : List (List Byte)),
    s.live ∧
    let q := s.mach.ring r
    q.state = .active ∧ s.mach.dmaOk q.owner = true ∧ q.fills = [f] ∧ q.reserved = [] ∧ q.cache = d :: rest ∧ 0 < f.payload.length ∧ f.payload.length ≤ bufLen d)) ∧
    (∃ (s : State) (r : Fin 16384) (ds : List (List Byte)),
    s.live ∧ txpWaits s.mach r = false ∧
    let q := s.mach.ring r
    let n := ds.length
    let d := ds.headD []
    let w := be d 0 8
    q.kind = .txp ∧ frameDescs (q.begun.map (·.2)) = some ds ∧ badExtent ds = false ∧ bits w 46 45 ≠ 3 ∧ q.got.length < n) ∧
    (∃ (s : State) (r : Fin 16384) (ds : List (List Byte)),
    s.live ∧ txpWaits s.mach r = false ∧
    let q := s.mach.ring r
    q.kind = .txp ∧ frameDescs (q.begun.map (·.2)) = some ds ∧ badExtent ds = true) ∧
    (∃ (s : State) (r : Fin 16384) (ds : List (List Byte)),
    s.live ∧ txpWaits s.mach r = false ∧
    let q := s.mach.ring r
    let d := ds.headD []
    let w := be d 0 8
    q.kind = .txp ∧ frameDescs (q.begun.map (·.2)) = some ds ∧ badExtent ds = false ∧ bits w 46 45 = 3) :=
  ⟨⟨⟨upd P0 fun m => m.setRing 5 {qt with got := [z 60]}, ⟨5, ⟨[dtx], ⟨by decide +kernel, ⟨by decide +kernel, ⟨by decide +kernel, ⟨by decide +kernel, ⟨by decide +kernel, ⟨by decide +kernel, ⟨by decide +kernel, ⟨by decide +kernel, by decide +kernel⟩⟩⟩⟩⟩⟩⟩⟩⟩⟩⟩, ⟨⟨upd P0 fun m => m.setRing 5 {qt with got := [z 60]}, ⟨5, ⟨by decide +kernel, by decide +kernel⟩⟩⟩, ⟨(upd P0 fun m => m.setRing 5 {qt with got := [z 60]}).conf, ⟨(upd P0 fun m => m.setRing 5 {qt with got := [z 60]}).mach, ⟨5, ⟨0, ⟨0, ⟨3, ⟨5, ⟨z 4, ⟨by decide +kernel, by decide +kernel⟩⟩⟩⟩⟩⟩⟩⟩⟩⟩⟩,
   ⟨upd P0 fun m => m.setRing 5 {qt with got := [z 60], pipes := 2}, ⟨5, ⟨[dtx], ⟨by decide +kernel, ⟨by decide +kernel, ⟨by decide +kernel, ⟨by decide +kernel, ⟨by decide +kernel, ⟨by decide +kernel, ⟨by decide +kernel, ⟨by decide +kernel, by decide +kernel⟩⟩⟩⟩⟩⟩⟩⟩⟩⟩⟩,
   ⟨⟨upd P0 fun m => m.setRing 5 { qc with kind := .rxp, cache := [dbuf, dbuf], fills := [{payload := z 100, flags := 0x8003 }], irqEn := true, armed := true }, ⟨5, ⟨by decide +kernel, by decide +kernel⟩⟩⟩, ⟨upd P0 fun m => m.setRing 5 { qc with kind := .rxp, cache := [dbuf, dbuf], fills := [{payload := z 100, flags := 0x8003 }], irqEn := true, armed := true }, ⟨5, ⟨{payload := z 100, flags := 0x8003 }, ⟨dbuf, ⟨[dbuf], ⟨by decide +kernel, ⟨by decide +kernel, ⟨by decide +kernel, ⟨by decide +kernel, ⟨by decide +kernel, ⟨by decide +kernel, ⟨by decide +kernel, by decide +kernel⟩⟩⟩⟩⟩⟩⟩⟩⟩⟩⟩⟩⟩,
   ⟨upd P0 (fun m => m.setRing 5 {qt with begun := [(9, dmore), (10, dtx)], got := [z 60]}), ⟨5, ⟨[dmore, dtx], ⟨by decide +kernel, ⟨by decide +kernel, ⟨by decide +kernel, ⟨by decide +kernel, ⟨by decide +kernel, ⟨by decide +kernel, by decide +kernel⟩⟩⟩⟩⟩⟩⟩⟩⟩,
   ⟨upd P0 (fun m => m.setRing 5 {qt with begun := [(9, dzero)], got := []}), ⟨5, ⟨[dzero], ⟨by decide +kernel, ⟨by decide +kernel, ⟨by decide +kernel, ⟨by decide +kernel, by decide +kernel⟩⟩⟩⟩⟩⟩⟩,
   ⟨upd P0 (fun m => m.setRing 5 {qt with begun := [(9, dptp)], got := [z 60]}), ⟨5, ⟨[dptp], ⟨by decide +kernel, ⟨by decide +kernel, ⟨by decide +kernel, ⟨by decide +kernel, ⟨by decide +kernel, by decide +kernel⟩⟩⟩⟩⟩⟩⟩⟩⟩

set_option maxRecDepth 100000 in
theorem test_witness_FramesCrossTheRings_2 :
    ∃ (s : State) (r : Fin 16384) (ds : List (List Byte)),
    s.live ∧ txpWaits s.mach r = false ∧
    let q := s.mach.ring r
    let n := ds.length
    let d := ds.headD []
    let w := be d 0 8
    q.kind = .txp ∧ frameDescs (q.begun.map (·.2)) = some ds ∧ badExtent ds = false ∧ bits w 46 45 ≠ 3 ∧ n ≤ q.got.length ∧ q.toWq = true :=
  ⟨upd P0 (fun m => m.setRing 5 {qt with toWq := true, got := [z 60]}), ⟨5, ⟨[dtx], ⟨by decide +kernel, ⟨by decide +kernel, ⟨by decide +kernel, ⟨by decide +kernel, ⟨by decide +kernel, ⟨by decide +kernel, ⟨by decide +kernel, by decide +kernel⟩⟩⟩⟩⟩⟩⟩⟩⟩⟩

set_option maxRecDepth 100000 in
theorem test_witness_TimersSendInterruptsAndLeaveL1 :
    ((∃ (s : State) (r : Fin 16384) (t : Nat),
    s.live ∧
    let q := s.mach.ring r
    q.state ≠ .absent ∧ q.irqEn = true ∧ q.armed = true ∧ 0 < q.unsig ∧ q.irqDue = false ∧ q.firstAt = some t ∧ t + 1000 * q.modTime ≤ s.mach.up ∧ (s.mach.port q.owner).d3 = false ∧ (s.mach.port q.owner).bme = true ∧ (s.mach.port q.owner).link = .l0 ∧ (s.mach.port q.owner).msixEn = true ∧ (s.mach.port q.owner).msixMask = false ∧ s.conf.on hifMsixCtrlMask q.owner q.vector = false) ∧
    ((∃ (s : State) (p : Fin 4),
    s.live ∧ ((s.mach.port p).link ≠ .l12 ∨ s.conf.fuse.rev = .a0 ∨ timerNear s.mach p = false)) ∧
    ((∃ (s : State) (p : Fin 4),
    s.live ∧ (s.mach.port p).linkUp = true) ∧
    (∃ (s : State) (p : Fin 4),
    s.live ∧ (s.mach.port p).link = .l0)))) ∧
    (∃ (s : State) (r : Fin 16384) (t : Nat),
    s.live ∧
    let q := s.mach.ring r
    q.state ≠ .absent ∧ q.irqEn = true ∧ q.armed = true ∧ 0 < q.unsig ∧ q.irqDue = false ∧ q.firstAt = some t ∧ s.mach.up < t + 1000 * q.modTime) ∧
    (∃ (s : State) (r : Fin 16384) (t : Nat),
    s.live ∧
    let q := s.mach.ring r
    q.state ≠ .absent ∧ q.irqEn = true ∧ q.armed = true ∧ 0 < q.unsig ∧ q.irqDue = false ∧ q.firstAt = some t ∧ t + 1000 * q.modTime ≤ s.mach.up ∧ (s.mach.port q.owner).d3 = false ∧ (s.mach.port q.owner).bme = true ∧ (s.mach.port q.owner).link = .l0 ∧ ((s.mach.port q.owner).msixEn = false ∨ (s.mach.port q.owner).msixMask = true ∨ s.conf.on hifMsixCtrlMask q.owner q.vector = true)) ∧
    ((∃ (s : State) (p : Fin 4),
    s.live ∧ (s.mach.port p).link = .l12 ∧ s.conf.fuse.rev = .b0 ∧ timerNear s.mach p = true) ∧
    (∃ (s : State) (p : Fin 4),
    s.live ∧ (s.mach.port p).link ≠ .l0 ∧ (∀ r ∈ ringsOf s.mach p, (s.mach.ring r).irqDue = false))) :=
  ⟨⟨⟨D7, ⟨5, ⟨0, ⟨by decide +kernel, ⟨by decide +kernel, ⟨by decide +kernel, ⟨by decide +kernel, ⟨by decide +kernel, ⟨by decide +kernel, ⟨by decide +kernel, ⟨by decide +kernel, ⟨by decide +kernel, ⟨by decide +kernel, ⟨by decide +kernel, ⟨by decide +kernel, ⟨by decide +kernel, by decide +kernel⟩⟩⟩⟩⟩⟩⟩⟩⟩⟩⟩⟩⟩⟩⟩⟩, ⟨⟨D7, ⟨0, ⟨by decide +kernel, by decide +kernel⟩⟩⟩, ⟨⟨D7, ⟨0, ⟨by decide +kernel, by decide +kernel⟩⟩⟩, ⟨D7, ⟨0, ⟨by decide +kernel, by decide +kernel⟩⟩⟩⟩⟩⟩,
   ⟨upd P0 fun m => m.setRing 5 { qc with armed := true, unsig := 2, modTime := 1, modCount := 9, firstAt := some 0, vector := 3 }, ⟨5, ⟨0, ⟨by decide +kernel, ⟨by decide +kernel, ⟨by decide +kernel, ⟨by decide +kernel, ⟨by decide +kernel, ⟨by decide +kernel, ⟨by decide +kernel, by decide +kernel⟩⟩⟩⟩⟩⟩⟩⟩⟩⟩,
   ⟨withCfg D7 hifMsixCtrlMask 1 0 3 0, ⟨5, ⟨0, ⟨by decide +kernel, ⟨by decide +kernel, ⟨by decide +kernel, ⟨by decide +kernel, ⟨by decide +kernel, ⟨by decide +kernel, ⟨by decide +kernel, ⟨by decide +kernel, ⟨by decide +kernel, ⟨by decide +kernel, ⟨by decide +kernel, by decide +kernel⟩⟩⟩⟩⟩⟩⟩⟩⟩⟩⟩⟩⟩⟩,
   ⟨⟨upd D7 fun m => m.setPort 0 { linkUp := true, link := .l12 }, ⟨0, ⟨by decide +kernel, ⟨by decide +kernel, ⟨by decide +kernel, by decide +kernel⟩⟩⟩⟩⟩, ⟨upd D7 fun m => m.setPort 0 { linkUp := true, link := .l12 }, ⟨0, ⟨by decide +kernel, ⟨by decide +kernel, by decide +kernel⟩⟩⟩⟩⟩⟩

set_option maxRecDepth 100000 in
theorem test_witness_PortsFollowTheirLinksAndResets :
    ((∃ (s : State) (p : Fin 4),
    s.live ∧ (s.mach.port p).bme = false) ∧
    ((∃ (s : State) (p : Fin 4),
    s.live ∧ ringsOf s.mach p = [] ∧ Tbl.rising s.mach.hif.ports = true) ∧
    ((∃ (s : State) (p : Fin 4) (d3 : Bool) (bme : Bool) (pme : PmeWrite) (msix : MsixWrite),
    s.live ∧ ((s.mach.port p).linkUp = false ∨ bme = false ∨ d3 = true ∨
      (ringsOf s.mach p = [] ∧ ∀ k < 64, s.mach.st hifMsixPbaPend p k = 0))) ∧
    ((∃ (s : State) (t : Nat),
    s.live ∧ (s.mach.port s.mach.primary).lostAt = some t ∧ s.mach.up < t + 100_000_000) ∧
    (∃ (s : State) (off : BitVec 27),
    s.live ∧ ∃ x,
    locate off.toNat = some x ∧ i2cShows x.reg = true))))) ∧
    (∃ (s : State),
    s.live ∧ (s.mach.port s.mach.primary).lostAt = none) ∧
    (∃ (s : State) (p : Fin 4) (n : Nat),
    s.live ∧ ringsOf s.mach p = [n] ∧ 4 ≤ n ∧
    let q := s.mach.ring n
    q.fills = [] ∧ q.heldEvts = [] ∧ q.destroyBy = none ∧ 0 < q.nextSlot) ∧
    (∃ (s : State) (t : Nat) (p : Nat),
    s.live ∧ (s.mach.port s.mach.primary).lostAt = some t ∧ t + 100_000_000 ≤ s.mach.up ∧ (lowest? 4 fun p => p != s.mach.primary && s.mach.role p == 1 && (s.mach.port p).linkUp) = some p ∧ (∀ n : Fin 4, ringsOf s.mach n = [])) ∧
    (∃ (s : State) (off : BitVec 27),
    s.live ∧ locate off.toNat = none) ∧
    (∃ (s : State) (off : BitVec 27),
    s.live ∧ ∃ x,
    locate off.toNat = some x ∧ i2cShows x.reg = false) :=
  ⟨⟨⟨base, ⟨0, ⟨by decide +kernel, by decide +kernel⟩⟩⟩, ⟨⟨base, ⟨0, ⟨by decide +kernel, ⟨by decide +kernel, by decide +kernel⟩⟩⟩⟩, ⟨⟨base, ⟨0, ⟨false, ⟨true, ⟨{ en := true, clear := true }, ⟨{ enable := true, mask := false }, ⟨by decide +kernel, by decide +kernel⟩⟩⟩⟩⟩⟩⟩, ⟨⟨base, ⟨0, ⟨by decide +kernel, ⟨by decide +kernel, by decide +kernel⟩⟩⟩⟩, ⟨base, ⟨BitVec.ofNat 27 (regAddr .glbPartId 0 0 0), ⟨by decide +kernel, ⟨⟨.glbPartId, 0, 0, 0, false⟩, ⟨by decide +kernel, by decide +kernel⟩⟩⟩⟩⟩⟩⟩⟩⟩,
   ⟨P0, ⟨by decide +kernel, by decide +kernel⟩⟩,
   ⟨upd P0 fun m => m.setRing 5 { qc with nextSlot := 4, cache := [z 64] }, ⟨0, ⟨5, ⟨by decide +kernel, ⟨by decide +kernel, ⟨by decide +kernel, ⟨by decide +kernel, ⟨by decide +kernel, ⟨by decide +kernel, by decide +kernel⟩⟩⟩⟩⟩⟩⟩⟩⟩,
   ⟨upd base fun m => { ((m.setPort 0 { lostAt := some 0 }).setPort 2 { linkUp := true }).setSt hifPortRoleRoles 0x55 with up := 100000000 }, ⟨0, ⟨2, ⟨by decide +kernel, ⟨by decide +kernel, ⟨by decide +kernel, ⟨by decide +kernel, by decide +kernel⟩⟩⟩⟩⟩⟩⟩,
   ⟨upd base (fun m => { ((m.setPort 0 { lostAt := some 0 }).setPort 2 { linkUp := true }).setSt hifPortRoleRoles 0x55 with up := 99999999 }), ⟨3, ⟨by decide +kernel, by decide +kernel⟩⟩⟩,
   ⟨base, ⟨BitVec.ofNat 27 (regAddr .glbSeal 0 0 0), ⟨by decide +kernel, ⟨⟨.glbSeal, 0, 0, 0, false⟩, ⟨by decide +kernel, by decide +kernel⟩⟩⟩⟩⟩⟩
end HostInterface

/-! ### Frames and packets -/
namespace Dataplane
def E0 := withCfg R prtPortCfgEn 1 0 0 0
def fr : List Byte := z 60 ++ fcsOf (z 60)
def mo (l : Nat) (s : State) : State := gl (withT (withCfg s prtPortCfgEn 1 0 l 0) prtPortCfgEn 1 0 l 0) fun g => {g with outputs := true}
def noCells (s : State) : State := tm s fun t => { t with banks := (List.range 64).map fun b => (b, {})}
def withF (b : List Byte) : List Byte := b ++ fcsOf b
def DCa := mo 3 (withCfg (withCfg (withCfg (withCfg (withCfg R duoCtrlEn 1 0 0 0) duoPartnerCfgEn 1 0 0 0) duoPartnerCfgDevice 7 0 0 0) duoPartnerPortPort 3 0 0 0) glbDeviceIdId 9 0 0 0)
def engF : List Byte := z 12 ++ [0x88,0xB5,0x10,0] ++ beBytes 3 7 ++ beBytes 3 9 ++ z 40
def stF : List Byte := z 12 ++ [0x88,0xB6,0x10,0,0,0,0] ++ beBytes 3 9 ++ z 8 ++ z 60
def MSa : State := withT (withT E0 mscSecyCfgEn 1 0 0 0) mscSecyCfgValidate 2 0 0 0
def MS1 : State := withT (withT E0 mscSecyCfgEn 1 0 0 0) mscSecyCfgValidate 1 0 0 0
def eaF : List Byte := z 12 ++ [0x88,0x8E] ++ z 60
def tgF : List Byte := z 12 ++ [0x88,0xE5, 0x80, 0] ++ z 90
def okF : List Byte := z 12 ++ [0x88,0xE5, 0x2C, 0, 0, 0, 0, 5] ++ z 8 ++ z 64
def big : List Byte := z 1000 ++ fcsOf (z 1000)
def ECT := withT E0 pplPortCfgCtEn 1 0 0 0
def ctF (x : CtFrame) : State := pp E0 fun p => {p with ct := [(7, x)]}
def hW : State := pp E0 fun p => {p with hostWait := [{pipe := 0, data := z 60}]}
def MSk : State := upd (withT (withT (withT (withT MSa mscRxscCfgEn 1 0 0 0) mscRxscCfgSecy 0 0 0 0) mscRxscCfgSaGroup 0 0 0 0) mscSaCtrlInUse 1 0 0 0) fun m => { (m.setSt mscSaPnLoPn 5 0 0) with msc := {m.msc with ready := [saIdx 0 0]}}
def MSl : State := withCfg (withCfg MSk mscRxscCfgEn 1 0 0 0) mscSaCtrlInUse 1 0 0 0
def kp : Pkt := { head := 5, len := 60, owner := ownIngress 0, lport := 2}
def Q0 := pp (withCfg E0 pplCtrlEnable 1 0 0 0) fun p => {p with ready := [(2, [kp])]}
def rp : Resp := {pipe := 0, idx := 3, gen := 0, outcome := 4}
def pu : Punt := {code := 5, pkt := kp, cells := 1, green := true}
def PQ := withCfg (withCfg (pp base fun p => {p with punts := [(0,[pu])]}) tskWqCfgEn 1 0 0 0) tskCtrlEnable 1 0 0 0
def fdA : FrameD := {len := 60, head := 0}
def T0 := tm (withT (withT (withT E0 schSubCfgEn 1 0 0 0) schSvcCfgEn 1 0 0 0) schPortCfgEn 1 0 0 0) fun t => {t with queues := [(0, {head := [fdA]})], cells := [(0, {owner := 5, refcnt := 1, sof := true, eof := true, data := fr})]}
def xf : Xfer := {head := 2^19, fd := fdA, mcast := false, targets := []}
def fp (m : Mach) (k : Nat) : List Nat := findPages m k (Tbl.look 0 m.tmg.cursor k) (min (m.tmg.pages.length + 64) pagesPerAlloc) (64 - (Tbl.look [] m.tmg.ready k).length)
def T1 := tm base fun t => {t with xfer := [xf], tx := [(0, {qid := 0, fd := fdA, bytes := z 60, ts := 0})], releases := [(3, 0)], cells := [(0, {owner := ownMcast 0, refcnt := 2})], stage := [(0,[0])], queues := [(0,{spill := true, staging := [fdA], pages := []})] }
def T2 := tm (fl T0 fun f => {f with pdpdDown := true}) fun t => { T1.mach.tmg with queues := [(0, {head := [fdA], spill := true})], cells := [(0, {owner := ownMcast 0, refcnt := 1, eof := true, data := fr})], ready := [(0, List.range 17)]}
def T3 := tm (gl base fun g => {g with outputs := true}) fun t => {t with tx := [(1, {qid := 0, fd := {fdA with ct := true}, bytes := z 60, ts := 0})], ready := [(0, List.range 16)], pages := (List.range 16).map fun p => (p, {l0 := false})}
def T4 := upd (withCfg (withCfg T0 prtPortCfgEn 0 0 0 0) tmgQcfgCAgeLimit 1 0 0 0) fun m => {m with tod := {m.tod with now := 2^70}}
def T5 := du (withCfg T0 prtPortCfgEn 0 0 0 0) fun d => { d with release := [5 + 2^64], park := [(1, [{pkt := kp, fd := fdA, targets := [], fh := 5}, {pkt := kp, fd := fdA, targets := [], fh := 6}])]}
def lr : LearnReq := {bd := 3, mac := 0x123456, lport := 7, move := true}
def L0 := upd base fun m => {m with fwd := {m.fwd with learn := [(0,[lr])]}}
def L1 := upd L0 fun m => m.setFdb ((fdbRoom m 0 3 0x123456).getD 0) (fdbEntry false false 3 0x123456 7 0)
def L2 := upd L0 fun m => m.setFdb ((fdbRoom m 0 3 0x123456).getD 0) (fdbEntry true false 3 0x123456 8 0)
def L3 := upd L0 fun m => (List.range 8).foldl (fun m n => m.setFdb ((fdbRoom m 0 3 0x123456).getD 0) (fdbEntry true false 3 n 8 0)) m
def T6 := tm T1 fun t => {t with ready := (List.range 8).map fun k => (k, [k * pagesPerAlloc, k * pagesPerAlloc + 1]), pages := (List.range 8).flatMap fun k => [(k * pagesPerAlloc, {l0 := false}), (k * pagesPerAlloc+1, {l0 := false})]}
def PA : State := pp Q0 fun p => {p with ready := [(6, [kp])]}
def PI (pol : Nat) : State := withT (pp base fun p => {p with ready := [], recirc := [], hold := [(3, {pkt := kp, since := 0})], resps := [{rp with outcome := 2}]}) pplZprofInsertFailPolicy pol 0 0 0
def PT (pol : Nat) : State := upd (withT (pp base fun p => {p with ready := [], recirc := [], hold := [(3, {pkt := kp, since := 0})]}) pplZprofOverloadPolicy pol 0 0 0) fun m => {m with up := 10^12}
def TX : State := tm T0 fun t => {t with xfer := [xf], cells := [(2^19, {eof := true, sof := true, owner := ownXfer 1, data := z 60})]}
def xf1 : Xfer := {xf with targets := [(0, {})]}
def TX1 : State := tm (withT TX tmgPoolSize 100000 0 0 0) fun t => {t with xfer := [xf1]}
def TA : State := upd L1 fun m => {m with up := 10^12}
def L4 := upd L0 fun m => m.setFdb ((fdbRoom m 0 3 0x123456).getD 0) (fdbEntry false false 3 0x123456 8 0)

set_option maxRecDepth 100000 in
theorem test_witness_ArrivingFramesStandReady_1 :
    ((∃ (s : State) (l : Fin 256) (f : List Byte) (err : Bool) (more : Bool),
    s.live ∧ s.mach.flt.badFrame.contains l.val = false ∧
    let b := f.take (f.length - 4)
    let wrong := err = true ∨ f.length < 4 ∨ f.drop (f.length - 4) ≠ fcsOf b
    let long := 9216 < b.length + 4
    let own := ownIngress (l / 8)
    macOn s.conf s.mach l = true ∧ secyOn s.conf l = false ∧ (s.conf.on pplPortCfgCtEn (l / 8) (l % 8) = false ∨ f.length < 4 ∨ toEngine s.conf l b = true) ∧ (¬wrong) ∧ (¬long) ∧ toEngine s.conf l b = false ∧ (syncPort s.conf l = false ∨ be b 12 2 ≠ 0x88B6) ∧ ∃ (p : Nat) (m : Mach),
    storeIngress s.conf s.mach (l / 8) own (b ++ fcsOf b) = some (p, m)) ∧
    ((∃ (s : State) (l : Fin 256) (err : Bool),
    s.live ∧
    let found := s.mach.ppl.ct.find? fun e => e.2.pkt.pipe == l.val / 8 && e.2.bad.isNone && (e.1 == ctGone l || e.2.pkt.lport == l.val)
    found = none) ∧
    (∃ (s : State) (pipe : Fin 32),
    s.live ∧ s.mach.ppl.hostWait.find? (·.pipe == pipe.val) = none))) ∧
    (∃ (s : State) (l : Fin 256) (f : List Byte) (err : Bool) (more : Bool),
    s.live ∧ s.mach.flt.badFrame.contains l.val = false ∧ macOn s.conf s.mach l = false) ∧
    (∃ (s : State) (l : Fin 256) (f : List Byte) (err : Bool) (more : Bool),
    s.live ∧ s.mach.flt.badFrame.contains l.val = false ∧
    let b := f.take (f.length - 4)
    let wrong := err = true ∨ f.length < 4 ∨ f.drop (f.length - 4) ≠ fcsOf b
    let long := 9216 < b.length + 4
    let own := ownIngress (l / 8)
    macOn s.conf s.mach l = true ∧ secyOn s.conf l = false ∧ (s.conf.on pplPortCfgCtEn (l / 8) (l % 8) = false ∨ f.length < 4 ∨ toEngine s.conf l b = true) ∧ wrong ∧ (¬long) ∧ toEngine s.conf l b = false ∧ ∃ (p : Nat) (m : Mach),
    storeIngress s.conf s.mach (l / 8) own (b ++ [0, 0, 0, 0]) = some (p, m)) ∧
    (∃ (s : State) (l : Fin 256) (f : List Byte) (err : Bool) (more : Bool),
    s.live ∧ s.mach.flt.badFrame.contains l.val = false ∧
    let b := f.take (f.length - 4)
    let wrong := err = true ∨ f.length < 4 ∨ f.drop (f.length - 4) ≠ fcsOf b
    let long := 9216 < b.length + 4
    let own := ownIngress (l / 8)
    macOn s.conf s.mach l = true ∧ secyOn s.conf l = false ∧ (s.conf.on pplPortCfgCtEn (l / 8) (l % 8) = false ∨ f.length < 4 ∨ toEngine s.conf l b = true) ∧ (¬wrong) ∧ (¬long) ∧ toEngine s.conf l b = false ∧ (syncPort s.conf l = false ∨ be b 12 2 ≠ 0x88B6) ∧ storeIngress s.conf s.mach (l / 8) own (b ++ fcsOf b) = none) ∧
    (∃ (s : State) (l : Fin 256) (f : List Byte) (err : Bool) (more : Bool),
    s.live ∧ s.mach.flt.badFrame.contains l.val = false ∧
    let b := f.take (f.length - 4)
    let wrong := err = true ∨ f.length < 4 ∨ f.drop (f.length - 4) ≠ fcsOf b
    let long := 9216 < b.length + 4
    let own := ownIngress (l / 8)
    macOn s.conf s.mach l = true ∧ secyOn s.conf l = false ∧ (s.conf.on pplPortCfgCtEn (l / 8) (l % 8) = false ∨ f.length < 4 ∨ toEngine s.conf l b = true) ∧ wrong ∧ (¬long) ∧ toEngine s.conf l b = false ∧ storeIngress s.conf s.mach (l / 8) own (b ++ [0, 0, 0, 0]) = none) ∧
    (∃ (s : State) (l : Fin 256) (f : List Byte) (err : Bool) (more : Bool),
    s.live ∧ s.mach.flt.badFrame.contains l.val = false ∧
    let b := f.take (f.length - 4)
    let wrong := err = true ∨ f.length < 4 ∨ f.drop (f.length - 4) ≠ fcsOf b
    let long := 9216 < b.length + 4
    macOn s.conf s.mach l = true ∧ secyOn s.conf l = false ∧ (s.conf.on pplPortCfgCtEn (l / 8) (l % 8) = false ∨ f.length < 4 ∨ toEngine s.conf l b = true) ∧ (¬wrong) ∧ (¬long) ∧ toEngine s.conf l b = true) :=
  ⟨⟨⟨E0, ⟨0, ⟨fr, ⟨false, ⟨true, ⟨by decide +kernel, ⟨by decide +kernel, ⟨by decide +kernel, ⟨by decide +kernel, ⟨by decide +kernel, ⟨by decide +kernel, ⟨by decide +kernel, ⟨by decide +kernel, ⟨by decide +kernel, ⟨_, ⟨_, some_pair (0, (E0 : State).mach) (by decide +kernel)⟩⟩⟩⟩⟩⟩⟩⟩⟩⟩⟩⟩⟩⟩⟩⟩, ⟨⟨E0, ⟨0, ⟨false, ⟨by decide +kernel, by decide +kernel⟩⟩⟩⟩, ⟨E0, ⟨0, ⟨by decide +kernel, by decide +kernel⟩⟩⟩⟩⟩,
   ⟨R, ⟨0, ⟨fr, ⟨false, ⟨true, ⟨by decide +kernel, ⟨by decide +kernel, by decide +kernel⟩⟩⟩⟩⟩⟩⟩,
   ⟨E0, ⟨0, ⟨fr, ⟨true, ⟨true, ⟨by decide +kernel, ⟨by decide +kernel, ⟨by decide +kernel, ⟨by decide +kernel, ⟨by decide +kernel, ⟨by decide +kernel, ⟨by decide +kernel, ⟨by decide +kernel, ⟨_, ⟨_, some_pair (0, (E0 : State).mach) (by decide +kernel)⟩⟩⟩⟩⟩⟩⟩⟩⟩⟩⟩⟩⟩⟩⟩,
   ⟨noCells E0, ⟨0, ⟨fr, ⟨false, ⟨true, ⟨by decide +kernel, ⟨by decide +kernel, ⟨by decide +kernel, ⟨by decide +kernel, ⟨by decide +kernel, ⟨by decide +kernel, ⟨by decide +kernel, ⟨by decide +kernel, ⟨by decide +kernel, by decide +kernel⟩⟩⟩⟩⟩⟩⟩⟩⟩⟩⟩⟩⟩⟩,
   ⟨noCells E0, ⟨0, ⟨fr, ⟨true, ⟨true, ⟨by decide +kernel, ⟨by decide +kernel, ⟨by decide +kernel, ⟨by decide +kernel, ⟨by decide +kernel, ⟨by decide +kernel, ⟨by decide +kernel, ⟨by decide +kernel, by decide +kernel⟩⟩⟩⟩⟩⟩⟩⟩⟩⟩⟩⟩⟩,
   ⟨DCa, ⟨3, ⟨withF engF, ⟨false, ⟨true, ⟨by decide +kernel, ⟨by decide +kernel, ⟨by decide +kernel, ⟨by decide +kernel, ⟨by decide +kernel, ⟨by decide +kernel, ⟨by decide +kernel, by decide +kernel⟩⟩⟩⟩⟩⟩⟩⟩⟩⟩⟩⟩⟩

set_option maxRecDepth 100000 in
theorem test_witness_ArrivingFramesStandReady_2 :
    (∃ (s : State) (l : Fin 256) (f : List Byte) (err : Bool) (more : Bool),
    s.live ∧ s.mach.flt.badFrame.contains l.val = false ∧
    let b := f.take (f.length - 4)
    let wrong := err = true ∨ f.length < 4 ∨ f.drop (f.length - 4) ≠ fcsOf b
    let long := 9216 < b.length + 4
    macOn s.conf s.mach l = true ∧ secyOn s.conf l = false ∧ (s.conf.on pplPortCfgCtEn (l / 8) (l % 8) = false ∨ f.length < 4 ∨ toEngine s.conf l b = true) ∧ (long ∨ wrong ∧ toEngine s.conf l b = true)) ∧
    (∃ (s : State) (l : Fin 256) (f : List Byte) (err : Bool) (more : Bool),
    s.live ∧ s.mach.flt.badFrame.contains l.val = false ∧
    let b := f.take (f.length - 4)
    let wrong := err = true ∨ f.length < 4 ∨ f.drop (f.length - 4) ≠ fcsOf b
    let long := 9216 < b.length + 4
    macOn s.conf s.mach l = true ∧ secyOn s.conf l = false ∧ (s.conf.on pplPortCfgCtEn (l / 8) (l % 8) = false ∨ f.length < 4 ∨ toEngine s.conf l b = true) ∧ (¬wrong) ∧ (¬long) ∧ toEngine s.conf l b = false ∧ syncPort s.conf l = true ∧ be b 12 2 = 0x88B6) ∧
    ((∃ (s : State) (l : Fin 256) (f : List Byte) (err : Bool) (more : Bool),
    s.live ∧ s.mach.flt.badFrame.contains l.val = false ∧
    let b := f.take (f.length - 4)
    let wrong := err = true ∨ f.length < 4 ∨ f.drop (f.length - 4) ≠ fcsOf b
    macOn s.conf s.mach l = true ∧ secyOn s.conf l = true ∧ ∃ (u : Bool) (b' : List Byte) (m : Mach),
    mscRx s.conf s.mach l b = (if u then .uncontrolled b' else .controlled b', m) ∧ b'.length + 4 ≤ 9216 ∧ (¬wrong)) ∧
    (∃ (c : Cfg) (m : Mach) (l : Nat) (f : List Byte),
    secyOn c l = true ∧ be f 12 2 = 0x888E)) ∧
    (∃ (c : Cfg) (m : Mach) (l : Nat) (f : List Byte),
    secyOn c l = true ∧
    let die := ioDie l
    let n := secyOf l
    let strict := c.get mscSecyCfgValidate die n = 2
    be f 12 2 ≠ 0x88E5 ∧ be f 12 2 ≠ 0x888E ∧ strict) ∧
    (∃ (c : Cfg) (m : Mach) (l : Nat) (f : List Byte),
    secyOn c l = true ∧
    let die := ioDie l
    let n := secyOf l
    let strict := c.get mscSecyCfgValidate die n = 2
    be f 12 2 ≠ 0x88E5 ∧ be f 12 2 ≠ 0x888E ∧ (¬strict)) ∧
    ((∃ (s : State) (l : Fin 256) (f : List Byte) (err : Bool) (more : Bool),
    s.live ∧ s.mach.flt.badFrame.contains l.val = false ∧
    let b := f.take (f.length - 4)
    macOn s.conf s.mach l = true ∧ secyOn s.conf l = true ∧ ∃ m,
    mscRx s.conf s.mach l b = (.discard, m)) ∧
    (∃ (c : Cfg) (m : Mach) (l : Nat) (f : List Byte),
    secyOn c l = true ∧ be f 12 2 = 0x88E5 ∧ (bit (byteAt f 14) 7 = true ∨ 48 ≤ byteAt f 15 ∨ f.length < (if bit (byteAt f 14) 5 then 44 else 36)))) :=
  ⟨⟨DCa, ⟨3, ⟨withF engF, ⟨true, ⟨true, ⟨by decide +kernel, ⟨by decide +kernel, ⟨by decide +kernel, ⟨by decide +kernel, ⟨by decide +kernel, by decide +kernel⟩⟩⟩⟩⟩⟩⟩⟩⟩⟩,
   ⟨DCa, ⟨3, ⟨withF stF, ⟨false, ⟨true, ⟨by decide +kernel, ⟨by decide +kernel, ⟨by decide +kernel, ⟨by decide +kernel, ⟨by decide +kernel, ⟨by decide +kernel, ⟨by decide +kernel, ⟨by decide +kernel, ⟨by decide +kernel, by decide +kernel⟩⟩⟩⟩⟩⟩⟩⟩⟩⟩⟩⟩⟩⟩,
   ⟨⟨MSa, ⟨0, ⟨withF eaF, ⟨false, ⟨true, ⟨by decide +kernel, ⟨by decide +kernel, ⟨by decide +kernel, ⟨by decide +kernel, ⟨true, ⟨((withF eaF : List Byte).take ((withF eaF : List Byte).length - 4)), ⟨_, ⟨pair_of (by decide +kernel), ⟨by decide +kernel, by decide +kernel⟩⟩⟩⟩⟩⟩⟩⟩⟩⟩⟩⟩⟩⟩, ⟨(MSa).conf, ⟨(MSa).mach, ⟨0, ⟨withF eaF, ⟨by decide +kernel, by decide +kernel⟩⟩⟩⟩⟩⟩,
   ⟨(MSa).conf, ⟨(MSa).mach, ⟨0, ⟨fr, ⟨by decide +kernel, ⟨by decide +kernel, ⟨by decide +kernel, by decide +kernel⟩⟩⟩⟩⟩⟩⟩,
   ⟨(MS1).conf, ⟨(MS1).mach, ⟨0, ⟨fr, ⟨by decide +kernel, ⟨by decide +kernel, ⟨by decide +kernel, by decide +kernel⟩⟩⟩⟩⟩⟩⟩,
   ⟨⟨MSa, ⟨0, ⟨withF tgF, ⟨false, ⟨true, ⟨by decide +kernel, ⟨by decide +kernel, ⟨by decide +kernel, ⟨by decide +kernel, ⟨_, pair_of (by decide +kernel)⟩⟩⟩⟩⟩⟩⟩⟩⟩⟩, ⟨(MSa).conf, ⟨(MSa).mach, ⟨0, ⟨withF tgF, ⟨by decide +kernel, ⟨by decide +kernel, by decide +kernel⟩⟩⟩⟩⟩⟩⟩⟩

set_option maxRecDepth 100000 in
theorem test_witness_ArrivingFramesStandReady_3 :
    (∃ (c : Cfg) (m : Mach) (l : Nat) (f : List Byte),
    secyOn c l = true ∧
    let die := ioDie l
    let n := secyOf l
    ∃ (x : Nat),
    let tci := byteAt f 14
    let cipher := c.get mscSecyCfgCipher die n
    let e := 4 * c.get mscRxscCfgSaGroup die x + tci % 4
    let pn := be f 16 4
    let next := saPn m die e cipher
    be f 12 2 = 0x88E5 ∧ bit tci 7 = false ∧ bit tci 6 = false ∧ bit tci 5 = true ∧ bit tci 4 = false ∧ bit tci 3 = true ∧ bit tci 2 = true ∧ byteAt f 15 = 0 ∧ 92 ≤ f.length ∧ isXpn cipher = false ∧ 0 < pn ∧ rxScOf c die n (be f 20 8) = some x ∧ saUsable c m die e = true ∧ 0 < next ∧ next ≤ pn ∧ c.get mscSecyCfgValidate die n ≠ 0 ∧ confOffset (c.get mscSecyCfgConfOffset die n) = 0) ∧
    (∃ (s : State) (l : Fin 256) (f : List Byte) (err : Bool) (more : Bool),
    s.live ∧ s.mach.flt.badFrame.contains l.val = false ∧
    let b := f.take (f.length - 4)
    macOn s.conf s.mach l = true ∧ secyOn s.conf l = true ∧ ∃ (u : Bool) (b' : List Byte) (m : Mach),
    mscRx s.conf s.mach l b = (if u then .uncontrolled b' else .controlled b', m) ∧ 9216 < b'.length + 4) ∧
    (∃ (s : State) (l : Fin 256) (f : List Byte) (err : Bool) (more : Bool),
    s.live ∧ s.mach.flt.badFrame.contains l.val = true) ∧
    (∃ (s : State) (pipe : Fin 32),
    s.live ∧ ∃ (f : HostFrame),
    s.mach.ppl.hostWait.find? (·.pipe == pipe.val) = some f ∧
    let b := withFcs f.data
    let n := cellsFor b.length
    let m := { s.mach with ppl := { s.mach.ppl with hostWait := s.mach.ppl.hostWait.erase f } }
    ingFull s.conf m f.pipe n = false ∧ ∃ (p : Nat) (m' : Mach),
    storeFrame s.conf m (f.pipe / 16) f.owner b = some (p, m')) ∧
    (∃ (s : State) (pipe : Fin 32),
    s.live ∧ ∃ (f : HostFrame),
    s.mach.ppl.hostWait.find? (·.pipe == pipe.val) = some f ∧
    let b := withFcs f.data
    let n := cellsFor b.length
    let m := { s.mach with ppl := { s.mach.ppl with hostWait := s.mach.ppl.hostWait.erase f } }
    ingFull s.conf m f.pipe n = false ∧ storeFrame s.conf m (f.pipe / 16) f.owner b = none ∧ f.dma = true) ∧
    (∃ (s : State) (pipe : Fin 32),
    s.live ∧ ∃ (f : HostFrame),
    s.mach.ppl.hostWait.find? (·.pipe == pipe.val) = some f ∧
    let b := withFcs f.data
    let n := cellsFor b.length
    let m := { s.mach with ppl := { s.mach.ppl with hostWait := s.mach.ppl.hostWait.erase f } }
    ingFull s.conf m f.pipe n = false ∧ storeFrame s.conf m (f.pipe / 16) f.owner b = none ∧ f.dma = false) :=
  ⟨⟨(MSl).conf, ⟨(MSl).mach, ⟨0, ⟨okF, ⟨by decide +kernel, ⟨0, ⟨by decide +kernel, ⟨by decide +kernel, ⟨by decide +kernel, ⟨by decide +kernel, ⟨by decide +kernel, ⟨by decide +kernel, ⟨by decide +kernel, ⟨by decide +kernel, ⟨by decide +kernel, ⟨by decide +kernel, ⟨by decide +kernel, ⟨by decide +kernel, ⟨by decide +kernel, ⟨by decide +kernel, ⟨by decide +kernel, ⟨by decide +kernel, by decide +kernel⟩⟩⟩⟩⟩⟩⟩⟩⟩⟩⟩⟩⟩⟩⟩⟩⟩⟩⟩⟩⟩⟩,
   ⟨MS1, ⟨0, ⟨withF (z 9214), ⟨false, ⟨true, ⟨by decide +kernel, ⟨by decide +kernel, ⟨by decide +kernel, ⟨by decide +kernel, ⟨false, ⟨z 9214, ⟨_, ⟨pair_of (by decide +kernel), by decide +kernel⟩⟩⟩⟩⟩⟩⟩⟩⟩⟩⟩⟩⟩,
   ⟨fl E0 fun f => {f with badFrame := [0]}, ⟨0, ⟨fr, ⟨false, ⟨true, ⟨by decide +kernel, by decide +kernel⟩⟩⟩⟩⟩⟩,
   ⟨hW, ⟨0, ⟨by decide +kernel, ⟨{pipe := 0, data := z 60}, ⟨by decide +kernel, ⟨by decide +kernel, ⟨_, ⟨_, some_pair (0, (hW : State).mach) (by decide +kernel)⟩⟩⟩⟩⟩⟩⟩⟩,
   ⟨noCells (pp E0 fun p => {p with hostWait := [{pipe := 0, data := z 60, slots := [1]}]}), ⟨0, ⟨by decide +kernel, ⟨{pipe := 0, data := z 60, slots := [1]}, ⟨by decide +kernel, ⟨by decide +kernel, ⟨by decide +kernel, by decide +kernel⟩⟩⟩⟩⟩⟩⟩,
   ⟨noCells hW, ⟨0, ⟨by decide +kernel, ⟨{pipe := 0, data := z 60}, ⟨by decide +kernel, ⟨by decide +kernel, ⟨by decide +kernel, by decide +kernel⟩⟩⟩⟩⟩⟩⟩⟩

set_option maxRecDepth 100000 in
theorem test_witness_ArrivingFramesStandReady_4 :
    (∃ (s : State) (pipe : Fin 32),
    s.live ∧ ∃ (f : HostFrame),
    s.mach.ppl.hostWait.find? (·.pipe == pipe.val) = some f ∧
    let b := withFcs f.data
    let n := cellsFor b.length
    let m := { s.mach with ppl := { s.mach.ppl with hostWait := s.mach.ppl.hostWait.erase f } }
    ingFull s.conf m f.pipe n = true) ∧
    (∃ (s : State) (l : Fin 256) (err : Bool),
    s.live ∧
    let found := s.mach.ppl.ct.find? fun e => e.2.pkt.pipe == l.val / 8 && e.2.bad.isNone && (e.1 == ctGone l || e.2.pkt.lport == l.val)
    ∃ (n : Nat) (x : CtFrame),
    found = some (n, x) ∧ x.place = .pipe ∧
    let pipe := x.pkt.pipe
    let cells := cellsFor x.rest.length
    let req := if dieOf n = pipe / 16 then ownIngress pipe else ownXfer (dieOf n)
    x.rest ≠ [] ∧ Tbl.look 0 s.mach.tmg.ing pipe + cells ≤ s.conf.get tmgIngLimitIngLimit (pipe / 16) (pipe % 16) ∧ ∃ (m : Mach),
    appendCells s.conf s.mach req n x.rest = some m) ∧
    (∃ (s : State) (l : Fin 256) (err : Bool),
    s.live ∧
    let found := s.mach.ppl.ct.find? fun e => e.2.pkt.pipe == l.val / 8 && e.2.bad.isNone && (e.1 == ctGone l || e.2.pkt.lport == l.val)
    ∃ (n : Nat) (x : CtFrame),
    found = some (n, x) ∧ x.place = .pipe ∧ x.rest = []) ∧
    (∃ (s : State) (l : Fin 256) (err : Bool),
    s.live ∧
    let found := s.mach.ppl.ct.find? fun e => e.2.pkt.pipe == l.val / 8 && e.2.bad.isNone && (e.1 == ctGone l || e.2.pkt.lport == l.val)
    ∃ (n : Nat) (x : CtFrame),
    found = some (n, x) ∧ x.place = .pipe ∧
    let pipe := x.pkt.pipe
    let cells := cellsFor x.rest.length
    x.rest ≠ [] ∧ s.conf.get tmgIngLimitIngLimit (pipe / 16) (pipe % 16) < Tbl.look 0 s.mach.tmg.ing pipe + cells) ∧
    (∃ (s : State) (l : Fin 256) (err : Bool),
    s.live ∧
    let found := s.mach.ppl.ct.find? fun e => e.2.pkt.pipe == l.val / 8 && e.2.bad.isNone && (e.1 == ctGone l || e.2.pkt.lport == l.val)
    ∃ (n : Nat) (x : CtFrame),
    found = some (n, x) ∧ x.place = .pipe ∧
    let pipe := x.pkt.pipe
    let cells := cellsFor x.rest.length
    let req := if dieOf n = pipe / 16 then ownIngress pipe else ownXfer (dieOf n)
    x.rest ≠ [] ∧ Tbl.look 0 s.mach.tmg.ing pipe + cells ≤ s.conf.get tmgIngLimitIngLimit (pipe / 16) (pipe % 16) ∧ appendCells s.conf s.mach req n x.rest = none) ∧
    (∃ (s : State) (l : Fin 256) (f : List Byte) (err : Bool) (more : Bool),
    s.live ∧ s.mach.flt.badFrame.contains l.val = false ∧
    let b := f.take (f.length - 4)
    let own := ownIngress (l / 8)
    macOn s.conf s.mach l = true ∧ secyOn s.conf l = false ∧ s.conf.on pplPortCfgCtEn (l / 8) (l % 8) = true ∧ 4 ≤ f.length ∧ toEngine s.conf l b = false ∧ (syncPort s.conf l = false ∨ be b 12 2 ≠ 0x88B6) ∧
    let part := more && decide (256 < f.length)
    let whole := b ++ fcsOf b
    let now := if part = true then whole.take 256 else whole
    ∃ (p : Nat) (m : Mach),
    storeIngress s.conf s.mach (l / 8) own now = some (p, m)) :=
  ⟨⟨tm hW (fun t => {t with ing := [(0, 3072)]}), ⟨0, ⟨by decide +kernel, ⟨{pipe := 0, data := z 60}, ⟨by decide +kernel, by decide +kernel⟩⟩⟩⟩⟩,
   ⟨ctF {head := 7, rest := z 700}, ⟨0, ⟨false, ⟨by decide +kernel, ⟨7, ⟨{head := 7, rest := z 700}, ⟨by decide +kernel, ⟨by decide +kernel, ⟨by decide +kernel, ⟨by decide +kernel, ⟨_, some_getD ((ctF {head := 7, rest := z 700} : State).mach) (by decide +kernel)⟩⟩⟩⟩⟩⟩⟩⟩⟩⟩⟩,
   ⟨ctF {head := 7}, ⟨0, ⟨false, ⟨by decide +kernel, ⟨7, ⟨{head := 7}, ⟨by decide +kernel, ⟨by decide +kernel, by decide +kernel⟩⟩⟩⟩⟩⟩⟩⟩,
   ⟨tm (ctF {head := 7, rest := z 700}) (fun t => {t with ing := [(0, 3072)]}), ⟨0, ⟨false, ⟨by decide +kernel, ⟨7, ⟨{head := 7, rest := z 700}, ⟨by decide +kernel, ⟨by decide +kernel, ⟨by decide +kernel, by decide +kernel⟩⟩⟩⟩⟩⟩⟩⟩⟩,
   ⟨noCells (ctF {head := 7, rest := z 700}), ⟨0, ⟨false, ⟨by decide +kernel, ⟨7, ⟨{head := 7, rest := z 700}, ⟨by decide +kernel, ⟨by decide +kernel, ⟨by decide +kernel, ⟨by decide +kernel, by decide +kernel⟩⟩⟩⟩⟩⟩⟩⟩⟩⟩,
   ⟨ECT, ⟨0, ⟨big, ⟨false, ⟨true, ⟨by decide +kernel, ⟨by decide +kernel, ⟨by decide +kernel, ⟨by decide +kernel, ⟨by decide +kernel, ⟨by decide +kernel, ⟨by decide +kernel, ⟨by decide +kernel, ⟨_, ⟨_, some_pair (0, (ECT : State).mach) (by decide +kernel)⟩⟩⟩⟩⟩⟩⟩⟩⟩⟩⟩⟩⟩⟩⟩⟩

set_option maxRecDepth 100000 in
theorem test_witness_PacketsMoveThroughTheirPipeline_1 :
    ((∃ (s : State) (pipe : Fin 32),
    s.live ∧ (∃ t,
    exec .turnBoundary s = .next t) ∧
    ((s.mach.glb.turn ≠ .scheduled ∨ s.mach.todNs < s.mach.glb.boundary) ∧
    let pick := arbiterPick s.conf s.mach pipe
    (∃ (p : Nat) (k : Pkt) (ks : List Pkt),
    pick = some p ∧ p < 6 ∧ Tbl.look [] s.mach.ppl.ready (8 * pipe + p) = k :: ks) ∧
    (pick ≠ some 7))) ∧
    ((∃ (s : State) (pipe : Fin 32) (idx : Fin 2048),
    s.live ∧
    let found := s.mach.ppl.resps.find? fun r => r.pipe == pipe.val && r.idx == idx.val && respFirst s.mach r
    found = none) ∧
    ((∃ (s : State) (pipe : Fin 32) (idx : Fin 2048),
    s.live ∧
    let key := 2048 * pipe.val + idx.val
    Tbl.find s.mach.ppl.hold key = none) ∧
    (∃ (s : State) (pipe : Fin 32),
    s.live ∧
    let found := nextPunt s.conf s.mach pipe (fun _ => true) [] (s.mach.punts pipe)
    found = none)))) ∧
    ((∃ (s : State) (pipe : Fin 32),
    s.live ∧ (s.mach.glb.turn ≠ .scheduled ∨ s.mach.todNs < s.mach.glb.boundary) ∧
    let pick := arbiterPick s.conf s.mach pipe
    ∃ (k : Pkt) (ks : List Pkt),
    pick = some 7 ∧ Tbl.look [] s.mach.ppl.recirc pipe = k :: ks) ∧
    ((∃ (s : State) (pipe : Fin 32) (idx : Fin 2048),
    s.live ∧
    let found := s.mach.ppl.resps.find? fun r => r.pipe == pipe.val && r.idx == idx.val && respFirst s.mach r
    let key := 2048 * pipe.val + idx.val
    ∃ (r : Resp) (h : Hold),
    found = some r ∧ Tbl.find s.mach.ppl.hold key = some h ∧ r.gen = Tbl.look 0 s.mach.ppl.gen key ∧ r.outcome ≠ 2 ∧ r.outcome ≠ 3) ∧
    ((∃ (s : State) (pipe : Fin 32) (idx : Fin 2048),
    s.live ∧
    let key := 2048 * pipe.val + idx.val
    ∃ (h : Hold),
    Tbl.find s.mach.ppl.hold key = some h ∧ (s.mach.up < h.since + 10 * s.conf.get pplHoldCfgHoldTimeout pipe ∨ heldFirst s.mach h = false)) ∧
    (∃ (s : State) (pipe : Fin 32),
    s.live ∧
    let found := nextPunt s.conf s.mach pipe (fun _ => true) [] (s.mach.punts pipe)
    ∃ (e : Punt) (q : Nat),
    found = some e ∧ puntTo s.conf pipe e.code = .queue q ∧ noQueue s.conf q = true)))) ∧
    ((∃ (s : State) (pipe : Fin 32),
    s.live ∧ (s.mach.glb.turn ≠ .scheduled ∨ s.mach.todNs < s.mach.glb.boundary) ∧
    let owed := Tbl.look 0 s.mach.ppl.owed pipe
    owed ≠ 0) ∧
    (∃ (s : State) (pipe : Fin 32) (idx : Fin 2048),
    s.live ∧
    let found := s.mach.ppl.resps.find? fun r => r.pipe == pipe.val && r.idx == idx.val && respFirst s.mach r
    let key := 2048 * pipe.val + idx.val
    ∃ (r : Resp) (h : Hold),
    found = some r ∧ Tbl.find s.mach.ppl.hold key = some h ∧ r.gen ≠ Tbl.look 0 s.mach.ppl.gen key)) ∧
    ((∃ (s : State) (pipe : Fin 32),
    s.live ∧ (s.mach.glb.turn ≠ .scheduled ∨ s.mach.todNs < s.mach.glb.boundary) ∧
    let owed := Tbl.look 0 s.mach.ppl.owed pipe
    let pick := arbiterPick s.conf s.mach pipe
    owed = 0 ∧ pick = none) ∧
    ((∃ (s : State) (pipe : Fin 32) (idx : Fin 2048),
    s.live ∧
    let found := s.mach.ppl.resps.find? fun r => r.pipe == pipe.val && r.idx == idx.val && respFirst s.mach r
    let key := 2048 * pipe.val + idx.val
    ∃ (r : Resp) (h : Hold),
    found = some r ∧ Tbl.find s.mach.ppl.hold key = some h ∧ r.gen = Tbl.look 0 s.mach.ppl.gen key ∧ r.outcome = 3 ∧ r.loop = true) ∧
    (∃ (s : State) (pipe : Fin 32) (idx : Fin 2048),
    s.live ∧
    let key := 2048 * pipe.val + idx.val
    ∃ (h : Hold),
    Tbl.find s.mach.ppl.hold key = some h ∧ h.since + 10 * s.conf.get pplHoldCfgHoldTimeout pipe ≤ s.mach.up ∧ heldFirst s.mach h = true ∧ h.pkt.trace = [] ∧
    let m := countReason s.conf { s.mach with
          ppl := { s.mach.ppl with hold := Tbl.del s.mach.ppl.hold key, gen := Tbl.upd 0 s.mach.ppl.gen key fun g => (g + 1) % 256 } } h.pkt.pipe 0x0D
    let policy := s.conf.of m h.pkt.turn pplZprofOverloadPolicy h.pkt.pipe h.pkt.cls.zprof
    policy = 0))) ∧
    (∃ (s : State) (pipe : Fin 32),
    s.live ∧
    let found := nextPunt s.conf s.mach pipe (fun _ => true) [] (s.mach.punts pipe)
    ∃ (e : Punt) (q : Nat),
    found = some e ∧ puntTo s.conf pipe e.code = .queue q ∧ noQueue s.conf q = false) ∧
    (∃ (s : State) (pipe : Fin 32),
    s.live ∧ (s.mach.glb.turn ≠ .scheduled ∨ s.mach.todNs < s.mach.glb.boundary) ∧
    let pick := arbiterPick s.conf s.mach pipe
    ∃ (k : Pkt) (ks : List Pkt),
    pick = some 6 ∧ Tbl.look [] s.mach.ppl.ready (8 * pipe + 6) = k :: ks) :=
  ⟨⟨⟨Q0, ⟨0, ⟨by decide +kernel, ⟨⟨getNext (exec .turnBoundary (Q0 : State)), next_of (by decide +kernel)⟩, ⟨by decide +kernel, ⟨⟨2, ⟨kp, ⟨[], ⟨by decide +kernel, ⟨by decide +kernel, by decide +kernel⟩⟩⟩⟩⟩, by decide +kernel⟩⟩⟩⟩⟩⟩, ⟨⟨Q0, ⟨0, ⟨3, ⟨by decide +kernel, by decide +kernel⟩⟩⟩⟩, ⟨⟨Q0, ⟨0, ⟨3, ⟨by decide +kernel, by decide +kernel⟩⟩⟩⟩, ⟨Q0, ⟨0, ⟨by decide +kernel, by decide +kernel⟩⟩⟩⟩⟩⟩,
   ⟨⟨pp Q0 fun p => {p with ready := [], recirc := [(0,[kp])], hold := [(3, {pkt := kp, since := 0})], resps := [rp], punts := [(0,[pu])]}, ⟨0, ⟨by decide +kernel, ⟨by decide +kernel, ⟨kp, ⟨[], ⟨by decide +kernel, by decide +kernel⟩⟩⟩⟩⟩⟩⟩, ⟨⟨pp Q0 fun p => {p with ready := [], recirc := [(0,[kp])], hold := [(3, {pkt := kp, since := 0})], resps := [rp], punts := [(0,[pu])]}, ⟨0, ⟨3, ⟨by decide +kernel, ⟨rp, ⟨{pkt := kp, since := 0}, ⟨by decide +kernel, ⟨by decide +kernel, ⟨by decide +kernel, ⟨by decide +kernel, by decide +kernel⟩⟩⟩⟩⟩⟩⟩⟩⟩⟩, ⟨⟨pp Q0 fun p => {p with ready := [], recirc := [(0,[kp])], hold := [(3, {pkt := kp, since := 0})], resps := [rp], punts := [(0,[pu])]}, ⟨0, ⟨3, ⟨by decide +kernel, ⟨{pkt := kp, since := 0}, ⟨by decide +kernel, by decide +kernel⟩⟩⟩⟩⟩⟩, ⟨pp Q0 fun p => {p with ready := [], recirc := [(0,[kp])], hold := [(3, {pkt := kp, since := 0})], resps := [rp], punts := [(0,[pu])]}, ⟨0, ⟨by decide +kernel, ⟨pu, ⟨(match puntTo (pp Q0 fun p => {p with ready := [], recirc := [(0,[kp])], hold := [(3, {pkt := kp, since := 0})], resps := [rp], punts := [(0,[pu])]} : State).conf (0 : Fin 32) (pu : Punt).code with | .queue q => q | _ => 0), ⟨by decide +kernel, ⟨by decide +kernel, by decide +kernel⟩⟩⟩⟩⟩⟩⟩⟩⟩⟩,
   ⟨⟨pp Q0 fun p => {p with ready := [], recirc := [], owed := [(0,2)], hold := [(3, {pkt := kp, since := 0})], resps := [{rp with gen := 2}], punts := [(0,[pu])]}, ⟨0, ⟨by decide +kernel, ⟨by decide +kernel, by decide +kernel⟩⟩⟩⟩, ⟨pp Q0 fun p => {p with ready := [], recirc := [], owed := [(0,2)], hold := [(3, {pkt := kp, since := 0})], resps := [{rp with gen := 2}], punts := [(0,[pu])]}, ⟨0, ⟨3, ⟨by decide +kernel, ⟨{rp with gen := 2}, ⟨{pkt := kp, since := 0}, ⟨by decide +kernel, ⟨by decide +kernel, by decide +kernel⟩⟩⟩⟩⟩⟩⟩⟩⟩,
   ⟨⟨withCfg (upd (pp base fun p => {p with ready := [], recirc := [], hold := [(3, {pkt := kp, since := 0})], resps := [{rp with outcome := 3, loop := true}], punts := [(0,[pu])]}) fun m => {m with up := 1000000000}) tskWqCfgEn 1 0 0 0, ⟨0, ⟨by decide +kernel, ⟨by decide +kernel, ⟨by decide +kernel, by decide +kernel⟩⟩⟩⟩⟩, ⟨⟨withCfg (upd (pp base fun p => {p with ready := [], recirc := [], hold := [(3, {pkt := kp, since := 0})], resps := [{rp with outcome := 3, loop := true}], punts := [(0,[pu])]}) fun m => {m with up := 1000000000}) tskWqCfgEn 1 0 0 0, ⟨0, ⟨3, ⟨by decide +kernel, ⟨{rp with outcome := 3, loop := true}, ⟨{pkt := kp, since := 0}, ⟨by decide +kernel, ⟨by decide +kernel, ⟨by decide +kernel, ⟨by decide +kernel, by decide +kernel⟩⟩⟩⟩⟩⟩⟩⟩⟩⟩, ⟨withCfg (upd (pp base fun p => {p with ready := [], recirc := [], hold := [(3, {pkt := kp, since := 0})], resps := [{rp with outcome := 3, loop := true}], punts := [(0,[pu])]}) fun m => {m with up := 1000000000}) tskWqCfgEn 1 0 0 0, ⟨0, ⟨3, ⟨by decide +kernel, ⟨{pkt := kp, since := 0}, ⟨by decide +kernel, ⟨by decide +kernel, ⟨by decide +kernel, ⟨by decide +kernel, by decide +kernel⟩⟩⟩⟩⟩⟩⟩⟩⟩⟩⟩,
   ⟨PQ, ⟨0, ⟨by decide +kernel, ⟨pu, ⟨0, ⟨by decide +kernel, ⟨by decide +kernel, by decide +kernel⟩⟩⟩⟩⟩⟩⟩,
   ⟨PA, ⟨0, ⟨by decide +kernel, ⟨by decide +kernel, ⟨kp, ⟨[], ⟨by decide +kernel, by decide +kernel⟩⟩⟩⟩⟩⟩⟩⟩

set_option maxRecDepth 100000 in
theorem test_witness_PacketsMoveThroughTheirPipeline_2 :
    (∃ (s : State) (pipe : Fin 32) (idx : Fin 2048),
    s.live ∧
    let found := s.mach.ppl.resps.find? fun r => r.pipe == pipe.val && r.idx == idx.val && respFirst s.mach r
    let key := 2048 * pipe.val + idx.val
    ∃ (r : Resp) (h : Hold),
    found = some r ∧ Tbl.find s.mach.ppl.hold key = some h ∧
    let m := { s.mach with ppl := { s.mach.ppl with resps := s.mach.ppl.resps.erase r, hold := Tbl.del s.mach.ppl.hold key } }
    let k := { h.pkt with trace := tracePut (traceTime h.pkt.trace 1 s.mach.up) 53 1 r.outcome }
    r.gen = Tbl.look 0 s.mach.ppl.gen key ∧ r.outcome = 2 ∧
    let policy := s.conf.of m k.turn pplZprofInsertFailPolicy pipe k.cls.zprof
    policy = 0) ∧
    (∃ (s : State) (pipe : Fin 32) (idx : Fin 2048),
    s.live ∧
    let found := s.mach.ppl.resps.find? fun r => r.pipe == pipe.val && r.idx == idx.val && respFirst s.mach r
    let key := 2048 * pipe.val + idx.val
    ∃ (r : Resp) (h : Hold),
    found = some r ∧ Tbl.find s.mach.ppl.hold key = some h ∧
    let m := { s.mach with ppl := { s.mach.ppl with resps := s.mach.ppl.resps.erase r, hold := Tbl.del s.mach.ppl.hold key } }
    let k := { h.pkt with trace := tracePut (traceTime h.pkt.trace 1 s.mach.up) 53 1 r.outcome }
    r.gen = Tbl.look 0 s.mach.ppl.gen key ∧ r.outcome = 2 ∧
    let policy := s.conf.of m k.turn pplZprofInsertFailPolicy pipe k.cls.zprof
    policy = 1) ∧
    (∃ (s : State) (pipe : Fin 32) (idx : Fin 2048),
    s.live ∧
    let found := s.mach.ppl.resps.find? fun r => r.pipe == pipe.val && r.idx == idx.val && respFirst s.mach r
    let key := 2048 * pipe.val + idx.val
    ∃ (r : Resp) (h : Hold),
    found = some r ∧ Tbl.find s.mach.ppl.hold key = some h ∧
    let m := { s.mach with ppl := { s.mach.ppl with resps := s.mach.ppl.resps.erase r, hold := Tbl.del s.mach.ppl.hold key } }
    let k := { h.pkt with trace := tracePut (traceTime h.pkt.trace 1 s.mach.up) 53 1 r.outcome }
    r.gen = Tbl.look 0 s.mach.ppl.gen key ∧ r.outcome = 2 ∧
    let policy := s.conf.of m k.turn pplZprofInsertFailPolicy pipe k.cls.zprof
    policy = 2) ∧
    (∃ (s : State) (pipe : Fin 32) (idx : Fin 2048),
    s.live ∧
    let key := 2048 * pipe.val + idx.val
    ∃ (h : Hold),
    Tbl.find s.mach.ppl.hold key = some h ∧ h.since + 10 * s.conf.get pplHoldCfgHoldTimeout pipe ≤ s.mach.up ∧ heldFirst s.mach h = true ∧ h.pkt.trace = [] ∧
    let m := countReason s.conf { s.mach with
          ppl := { s.mach.ppl with hold := Tbl.del s.mach.ppl.hold key, gen := Tbl.upd 0 s.mach.ppl.gen key fun g => (g + 1) % 256 } } h.pkt.pipe 0x0D
    let policy := s.conf.of m h.pkt.turn pplZprofOverloadPolicy h.pkt.pipe h.pkt.cls.zprof
    policy ≠ 0) :=
  ⟨⟨PI 0, ⟨0, ⟨3, ⟨by decide +kernel, ⟨{rp with outcome := 2}, ⟨{pkt := kp, since := 0}, ⟨by decide +kernel, ⟨by decide +kernel, ⟨by decide +kernel, ⟨by decide +kernel, by decide +kernel⟩⟩⟩⟩⟩⟩⟩⟩⟩⟩,
   ⟨PI 1, ⟨0, ⟨3, ⟨by decide +kernel, ⟨{rp with outcome := 2}, ⟨{pkt := kp, since := 0}, ⟨by decide +kernel, ⟨by decide +kernel, ⟨by decide +kernel, ⟨by decide +kernel, by decide +kernel⟩⟩⟩⟩⟩⟩⟩⟩⟩⟩,
   ⟨PI 2, ⟨0, ⟨3, ⟨by decide +kernel, ⟨{rp with outcome := 2}, ⟨{pkt := kp, since := 0}, ⟨by decide +kernel, ⟨by decide +kernel, ⟨by decide +kernel, ⟨by decide +kernel, by decide +kernel⟩⟩⟩⟩⟩⟩⟩⟩⟩⟩,
   ⟨PT 1, ⟨0, ⟨3, ⟨by decide +kernel, ⟨{pkt := kp, since := 0}, ⟨by decide +kernel, ⟨by decide +kernel, ⟨by decide +kernel, ⟨by decide +kernel, by decide +kernel⟩⟩⟩⟩⟩⟩⟩⟩⟩⟩

set_option maxRecDepth 100000 in
theorem test_witness_QueuesCellsAndPagesFollowTheirRules_1 :
    ((∃ (s : State) (l : Fin 256),
    s.live ∧ s.mach.glb.outputs = true ∧ Tbl.find s.mach.tmg.tx l = none ∧ ∃ (q : Nat) (m : Mach) (fd : FrameD) (rest : List FrameD),
    selectQueue s.conf s.mach l = (some q, m) ∧ (m.queue q).head = fd :: rest ∧ tooOld s.conf m q fd = false ∧ pgHeld s.mach (l / 8) = false ∧
    let bad := chainBad (q / 65536) maxChain s.mach fd.head
    bad = none ∧ macOn s.conf s.mach l = true) ∧
    ((∃ (s : State) (l : Fin 256),
    s.live ∧ Tbl.find s.mach.tmg.tx l = none) ∧
    ((∃ (s : State) (die : Fin 2),
    s.live ∧ s.mach.tmg.xfer.find? (fun x => dieOf x.head != die.val) = none) ∧
    ((∃ (s : State) (die : Fin 2),
    s.live ∧
    let found := s.mach.tmg.releases.find? fun r => r.1 / 2048 == die.val
    found = none) ∧
    ((∃ (s : State) (die : Fin 2),
    s.live ∧ Tbl.look [] s.mach.tmg.stage die = []) ∧
    ((∃ (s : State) (q : Fin 131072),
    s.live ∧
    let x := s.mach.queue q
    (x.spill = false ∨ spillThresh s.conf q * 8 ≤ x.headCells)) ∧
    ((∃ (s : State) (k : Fin 8),
    s.live ∧
    let q := Tbl.look [] s.mach.tmg.ready k
    ∃ (ps : List Nat) (p : Nat),
    q.length ≤ 16 ∧ findPages s.mach k (Tbl.look 0 s.mach.tmg.cursor k) (min (s.mach.tmg.pages.length + 64) pagesPerAlloc) (64 - q.length) = ps ++ [p]) ∧
    (∃ (s : State),
    s.live ∧ s.mach.duo.release = [])))))))) ∧
    ((∃ (s : State) (l : Fin 256),
    s.live ∧ (s.mach.glb.outputs = false ∨ (Tbl.find s.mach.tmg.tx l).isSome = true)) ∧
    ((∃ (s : State) (die : Fin 2),
    s.live ∧
    let found := s.mach.tmg.releases.find? fun r => r.1 / 2048 == die.val
    ∃ (req : Nat) (addr : Nat),
    found = some (req, addr) ∧
    let x := s.mach.cell (addr / 256)
    cellAddrOk die addr = true ∧ x.lost = false ∧ x.owner = ownMcast die ∧ 0 < x.refcnt ∧ 1 < x.refcnt) ∧
    ((∃ (s : State) (die : Fin 2),
    s.live ∧ ∃ (q : Nat) (rest : List Nat) (fd : FrameD) (fs : List FrameD),
    Tbl.look [] s.mach.tmg.stage die = q :: rest ∧ (s.mach.queue q).staging = fd :: fs ∧ chainBad die maxChain s.mach fd.head = none ∧
    let m₁ := checkReady s.conf (tailCheck s.conf (ownSpill die) q (s.mach.queue q).pages.length s.mach.draw) (ownSpill die)
    let x := m₁.queue q
    let taken := takePages s.conf die q (ownDequeue (queuePort s.conf q)) 8 (entryBytes fd.len) x.pages m₁
    taken = none) ∧
    (∃ (s : State) (q : Fin 131072),
    s.live ∧
    let x := s.mach.queue q
    x.spill = true ∧ x.headCells < spillThresh s.conf q * 8 ∧ x.entries = [])))) ∧
    ((∃ (s : State) (l : Fin 256),
    s.live ∧ ∃ (x : TxFrame),
    Tbl.find s.mach.tmg.tx l = some x ∧ x.fd.ct = false ∧ x.fd.stomp = false ∧ x.fd.trace = [] ∧ x.fd.res.ptp ≠ 2 ∧ macOn s.conf s.mach l = true) ∧
    ((∃ (s : State) (die : Fin 2),
    s.live ∧ ∃ (x : Xfer),
    s.mach.tmg.xfer.find? (fun x => dieOf x.head != die.val) = some x ∧ x.mcast = false ∧ s.mach.flt.pdpdDown = true) ∧
    ((∃ (s : State) (die : Fin 2),
    s.live ∧
    let found := s.mach.tmg.releases.find? fun r => r.1 / 2048 == die.val
    ∃ (req : Nat) (addr : Nat),
    found = some (req, addr) ∧
    let x := s.mach.cell (addr / 256)
    cellAddrOk die addr = true ∧ x.lost = false ∧ x.owner = ownMcast die ∧ 0 < x.refcnt ∧ x.refcnt = 1) ∧
    (∃ (s : State) (k : Fin 8),
    s.live ∧
    let q := Tbl.look [] s.mach.tmg.ready k
    16 < q.length)))) ∧
    ((∃ (s : State) (l : Fin 256),
    s.live ∧ s.mach.glb.outputs = true ∧ Tbl.find s.mach.tmg.tx l = none ∧ ∃ (m : Mach),
    selectQueue s.conf s.mach l = (none, m)) ∧
    (∃ (s : State) (l : Fin 256),
    s.live ∧ ∃ (x : TxFrame),
    Tbl.find s.mach.tmg.tx l = some x ∧ x.fd.ct = true)) ∧
    (∃ (s : State) (l : Fin 256),
    s.live ∧ s.mach.glb.outputs = true ∧ Tbl.find s.mach.tmg.tx l = none ∧ ∃ (q : Nat) (m : Mach) (fd : FrameD) (rest : List FrameD),
    selectQueue s.conf s.mach l = (some q, m) ∧ (m.queue q).head = fd :: rest ∧ tooOld s.conf m q fd = true) ∧
    ((∃ (s : State) (l : Fin 256),
    s.live ∧ s.mach.glb.outputs = true ∧ Tbl.find s.mach.tmg.tx l = none ∧ ∃ (q : Nat) (m : Mach) (fd : FrameD) (rest : List FrameD),
    selectQueue s.conf s.mach l = (some q, m) ∧ (m.queue q).head = fd :: rest ∧ tooOld s.conf m q fd = false ∧ pgHeld s.mach (l / 8) = false ∧
    let bad := chainBad (q / 65536) maxChain s.mach fd.head
    bad = none ∧ macOn s.conf s.mach l = false) ∧
    (∃ (s : State),
    s.live ∧ ∃ (v : Nat) (rest : List Nat),
    s.mach.duo.release = v :: rest)) :=
  ⟨⟨⟨T0, ⟨0, ⟨by decide +kernel, ⟨by decide +kernel, ⟨by decide +kernel, ⟨0, ⟨_, ⟨fdA, ⟨[], ⟨pair_of (by decide +kernel), ⟨by decide +kernel, ⟨by decide +kernel, ⟨by decide +kernel, ⟨by decide +kernel, by decide +kernel⟩⟩⟩⟩⟩⟩⟩⟩⟩⟩⟩⟩⟩⟩, ⟨⟨T0, ⟨0, ⟨by decide +kernel, by decide +kernel⟩⟩⟩, ⟨⟨T0, ⟨0, ⟨by decide +kernel, by decide +kernel⟩⟩⟩, ⟨⟨T0, ⟨0, ⟨by decide +kernel, by decide +kernel⟩⟩⟩, ⟨⟨T0, ⟨0, ⟨by decide +kernel, by decide +kernel⟩⟩⟩, ⟨⟨T0, ⟨0, ⟨by decide +kernel, by decide +kernel⟩⟩⟩, ⟨⟨T0, ⟨0, ⟨by decide +kernel, ⟨(fp (T0 : State).mach (0 : Fin 8)).dropLast, ⟨(fp (T0 : State).mach (0 : Fin 8)).getLast!, ⟨by decide +kernel, by decide +kernel⟩⟩⟩⟩⟩⟩, ⟨T0, ⟨by decide +kernel, by decide +kernel⟩⟩⟩⟩⟩⟩⟩⟩⟩,
   ⟨⟨T1, ⟨0, ⟨by decide +kernel, by decide +kernel⟩⟩⟩, ⟨⟨T1, ⟨0, ⟨by decide +kernel, ⟨3, ⟨0, ⟨by decide +kernel, ⟨by decide +kernel, ⟨by decide +kernel, ⟨by decide +kernel, ⟨by decide +kernel, by decide +kernel⟩⟩⟩⟩⟩⟩⟩⟩⟩⟩, ⟨⟨T1, ⟨0, ⟨by decide +kernel, ⟨0, ⟨[], ⟨fdA, ⟨[], ⟨by decide +kernel, ⟨by decide +kernel, ⟨by decide +kernel, by decide +kernel⟩⟩⟩⟩⟩⟩⟩⟩⟩⟩, ⟨T1, ⟨0, ⟨by decide +kernel, ⟨by decide +kernel, ⟨by decide +kernel, by decide +kernel⟩⟩⟩⟩⟩⟩⟩⟩,
   ⟨⟨T2, ⟨0, ⟨by decide +kernel, ⟨{qid := 0, fd := fdA, bytes := z 60, ts := 0}, ⟨by decide +kernel, ⟨by decide +kernel, ⟨by decide +kernel, ⟨by decide +kernel, ⟨by decide +kernel, by decide +kernel⟩⟩⟩⟩⟩⟩⟩⟩⟩, ⟨⟨T2, ⟨0, ⟨by decide +kernel, ⟨xf, ⟨by decide +kernel, ⟨by decide +kernel, by decide +kernel⟩⟩⟩⟩⟩⟩, ⟨⟨T2, ⟨0, ⟨by decide +kernel, ⟨3, ⟨0, ⟨by decide +kernel, ⟨by decide +kernel, ⟨by decide +kernel, ⟨by decide +kernel, ⟨by decide +kernel, by decide +kernel⟩⟩⟩⟩⟩⟩⟩⟩⟩⟩, ⟨T2, ⟨0, ⟨by decide +kernel, by decide +kernel⟩⟩⟩⟩⟩⟩,
   ⟨⟨T3, ⟨0, ⟨by decide +kernel, ⟨by decide +kernel, ⟨by decide +kernel, ⟨_, pair_of (by decide +kernel)⟩⟩⟩⟩⟩⟩, ⟨T3, ⟨1, ⟨by decide +kernel, ⟨{qid := 0, fd := {fdA with ct := true}, bytes := z 60, ts := 0}, ⟨by decide +kernel, by decide +kernel⟩⟩⟩⟩⟩⟩,
   ⟨T4, ⟨0, ⟨by decide +kernel, ⟨by decide +kernel, ⟨by decide +kernel, ⟨0, ⟨_, ⟨fdA, ⟨[], ⟨pair_of (by decide +kernel), ⟨by decide +kernel, by decide +kernel⟩⟩⟩⟩⟩⟩⟩⟩⟩⟩⟩,
   ⟨⟨T5, ⟨0, ⟨by decide +kernel, ⟨by decide +kernel, ⟨by decide +kernel, ⟨0, ⟨_, ⟨fdA, ⟨[], ⟨pair_of (by decide +kernel), ⟨by decide +kernel, ⟨by decide +kernel, ⟨by decide +kernel, ⟨by decide +kernel, by decide +kernel⟩⟩⟩⟩⟩⟩⟩⟩⟩⟩⟩⟩⟩⟩, ⟨T5, ⟨by decide +kernel, ⟨5+2^64, ⟨[], by decide +kernel⟩⟩⟩⟩⟩⟩

set_option maxRecDepth 100000 in
theorem test_witness_QueuesCellsAndPagesFollowTheirRules_2 :
    (∃ (s : State) (die : Fin 2),
    s.live ∧ ∃ (q : Nat) (rest : List Nat) (fd : FrameD) (fs : List FrameD),
    Tbl.look [] s.mach.tmg.stage die = q :: rest ∧ (s.mach.queue q).staging = fd :: fs ∧ chainBad die maxChain s.mach fd.head = none ∧
    let m₁ := checkReady s.conf (tailCheck s.conf (ownSpill die) q (s.mach.queue q).pages.length s.mach.draw) (ownSpill die)
    let x := m₁.queue q
    let taken := takePages s.conf die q (ownDequeue (queuePort s.conf q)) 8 (entryBytes fd.len) x.pages m₁
    ∃ (ps : List Nat) (m : Mach),
    taken = some (ps, m)) ∧
    (∃ (s : State) (l : Fin 256),
    s.live ∧ s.mach.glb.outputs = true ∧ Tbl.find s.mach.tmg.tx l = none ∧ ∃ (q : Nat) (m : Mach) (fd : FrameD) (rest : List FrameD),
    selectQueue s.conf s.mach l = (some q, m) ∧ (m.queue q).head = fd :: rest ∧ tooOld s.conf m q fd = false ∧ pgHeld s.mach (l / 8) = true) ∧
    (∃ (s : State) (l : Fin 256),
    s.live ∧ s.mach.glb.outputs = true ∧ Tbl.find s.mach.tmg.tx l = none ∧ ∃ (q : Nat) (m : Mach) (fd : FrameD) (rest : List FrameD),
    selectQueue s.conf s.mach l = (some q, m) ∧ (m.queue q).head = fd :: rest ∧ tooOld s.conf m q fd = false ∧ pgHeld s.mach (l / 8) = false ∧
    let bad := chainBad (q / 65536) maxChain s.mach fd.head
    ∃ p,
    bad = some p) ∧
    (∃ (s : State) (die : Fin 2),
    s.live ∧
    let found := s.mach.tmg.releases.find? fun r => r.1 / 2048 == die.val
    ∃ (req : Nat) (addr : Nat),
    found = some (req, addr) ∧ cellAddrOk die addr = false) ∧
    (∃ (s : State) (die : Fin 2),
    s.live ∧ ∃ (x : Xfer),
    s.mach.tmg.xfer.find? (fun x => dieOf x.head != die.val) = some x ∧ x.mcast = false ∧
    let bytes := frameBytes s.mach x.head
    s.mach.flt.pdpdDown = false ∧ chainBad (1 - die) maxChain s.mach x.head = none ∧ storeFrame s.conf s.mach die (ownXfer die) bytes = none) ∧
    (∃ (s : State) (die : Fin 2),
    s.live ∧ ∃ (x : Xfer),
    s.mach.tmg.xfer.find? (fun x => dieOf x.head != die.val) = some x ∧ x.mcast = false ∧
    let taken (m : Mach) : Mach := { m with tmg := { m.tmg with xfer := m.tmg.xfer.erase x } }
    let freed (m : Mach) : Mach := freeFrame s.conf m (1 - die) (ownXfer (1 - die)) (cellAddr x.head)
    let bytes := frameBytes s.mach x.head
    s.mach.flt.pdpdDown = false ∧ chainBad (1 - die) maxChain s.mach x.head = none ∧ ∃ (p : Nat) (q : Nat) (r : EditRes) (m : Mach) (m' : Mach),
    storeFrame s.conf s.mach die (ownXfer die) bytes = some (p, m) ∧ x.targets = [(q, r)] ∧ enqueue s.conf (taken m) q { x.fd with head := p, mcast := false, res := r } = some m' ∧
    let t := freed (handOver s.conf m' (ownXfer die) p (ownDequeue (queuePort s.conf q)) 0)
    Tbl.find t.ppl.ct x.head = none) :=
  ⟨⟨T6, ⟨0, ⟨by decide +kernel, ⟨0, ⟨[], ⟨fdA, ⟨[], ⟨by decide +kernel, ⟨by decide +kernel, ⟨by decide +kernel, ⟨_, ⟨_, some_pair ([], (T6 : State).mach) (by decide +kernel)⟩⟩⟩⟩⟩⟩⟩⟩⟩⟩⟩⟩,
   ⟨fl T0 (fun f => {f with pgIso := 1}), ⟨0, ⟨by decide +kernel, ⟨by decide +kernel, ⟨by decide +kernel, ⟨0, ⟨_, ⟨fdA, ⟨[], ⟨pair_of (by decide +kernel), ⟨by decide +kernel, ⟨by decide +kernel, by decide +kernel⟩⟩⟩⟩⟩⟩⟩⟩⟩⟩⟩⟩,
   ⟨tm T0 (fun t => {t with queues := [(0, {head := [{fdA with head := 2^19}]})]}), ⟨0, ⟨by decide +kernel, ⟨by decide +kernel, ⟨by decide +kernel, ⟨0, ⟨_, ⟨{fdA with head := 2^19}, ⟨[], ⟨pair_of (by decide +kernel), ⟨by decide +kernel, ⟨by decide +kernel, ⟨by decide +kernel, ⟨_, some_getD 0 (by decide +kernel)⟩⟩⟩⟩⟩⟩⟩⟩⟩⟩⟩⟩⟩⟩,
   ⟨tm T0 (fun t => {t with cells := [(2^19, {eof := true})], queues := [], releases := [(3, 255)]}), ⟨0, ⟨by decide +kernel, ⟨3, ⟨255, ⟨by decide +kernel, by decide +kernel⟩⟩⟩⟩⟩⟩,
   ⟨noCells TX, ⟨0, ⟨by decide +kernel, ⟨xf, ⟨by decide +kernel, ⟨by decide +kernel, ⟨by decide +kernel, ⟨by decide +kernel, by decide +kernel⟩⟩⟩⟩⟩⟩⟩⟩,
   ⟨TX1, ⟨0, ⟨by decide +kernel, ⟨xf1, ⟨by decide +kernel, ⟨by decide +kernel, ⟨by decide +kernel, ⟨by decide +kernel, ⟨_, ⟨0, ⟨{}, ⟨_, ⟨_, ⟨some_pair (0, (TX1 : State).mach) (by decide +kernel), ⟨by decide +kernel, ⟨some_getD ((TX1 : State).mach) (by decide +kernel), by decide +kernel⟩⟩⟩⟩⟩⟩⟩⟩⟩⟩⟩⟩⟩⟩⟩⟩⟩

set_option maxRecDepth 100000 in
theorem test_witness_TablesAgeAndTimersRun_1 :
    ((∃ (s : State) (die : Fin 2),
    s.live ∧ Tbl.look [] s.mach.fwd.learn die = []) ∧
    ((∃ (s : State) (die : Fin 2),
    s.live ∧ s.mach.up < s.mach.fdbDue die) ∧
    ((∃ (s : State) (l : Fin 256),
    s.live ∧
    let g := s.mach.gate l
    ((∀ k, g.change = some k → s.mach.todNs < k.time)) ∧
    ((∀ k, g.change = some k → s.mach.todNs < k.time))) ∧
    ((∃ (s : State) (d : Fin 2),
    s.live ∧
    let due := Tbl.look 0 s.mach.sch.walkDue d
    (s.conf.on schSampleCfgEn d = false ∨ s.mach.up < due)) ∧
    (∃ (s : State) (src : Fin 48),
    s.live ∧ (∀ t, Tbl.find s.mach.pwr.traceAt src = some t → s.mach.up < t + 10_000)))))) ∧
    ((∃ (s : State) (die : Fin 2),
    s.live ∧ ∃ (r : LearnReq) (rs : List LearnReq),
    Tbl.look [] s.mach.fwd.learn die = r :: rs ∧
    let m := { s.mach with fwd := { s.mach.fwd with learn := Tbl.put [] s.mach.fwd.learn die rs } }
    let found := fdbFind m die r.bd r.mac
    let m := fdbMet m die r.bd r.mac
    ∃ p,
    found = none ∧ fdbRoom m die r.bd r.mac = some p) ∧
    (∃ (s : State) (d : Fin 2),
    s.live ∧
    let qs := sampled s.conf d
    let seq := Tbl.look 0 s.mach.sch.seq d
    let ring := s.conf.get schSampleCfgRing d
    let due := Tbl.look 0 s.mach.sch.walkDue d
    let busy := s.mach.up < Tbl.look 0 s.mach.sch.walkEnd d
    let m := { s.mach with sch := { s.mach.sch with
      walkDue := Tbl.put 0 s.mach.sch.walkDue d (due + 10_000 * s.conf.get schSampleCfgPeriod d), walkLate := Tbl.put false s.mach.sch.walkLate d false } }
    let m := qs.foldl (fun m q => m.setQueue q { m.queue q with maxDelay := 0, drops := 0 }) { m with
      sch := { m.sch with seq := Tbl.put 0 m.sch.seq d ((seq + 1) % 65536), walkEnd := Tbl.put 0 m.sch.walkEnd d (s.mach.up + ceilDiv (qs.length * 32) 10) } }
    s.conf.on schSampleCfgEn d = true ∧ due ≤ s.mach.up ∧ (¬busy) ∧ ((m.ring ring).state ≠ .active ∨ (m.ring ring).kind ≠ .dmp))) ∧
    ((∃ (s : State) (die : Fin 2),
    s.live ∧ ∃ (r : LearnReq) (rs : List LearnReq),
    Tbl.look [] s.mach.fwd.learn die = r :: rs ∧
    let m := { s.mach with fwd := { s.mach.fwd with learn := Tbl.put [] s.mach.fwd.learn die rs } }
    let found := fdbFind m die r.bd r.mac
    let m := fdbMet m die r.bd r.mac
    ∃ p,
    found = some p ∧ fdbLport (m.fdbAt p) = r.lport) ∧
    (∃ (s : State) (d : Fin 2),
    s.live ∧
    let due := Tbl.look 0 s.mach.sch.walkDue d
    let busy := s.mach.up < Tbl.look 0 s.mach.sch.walkEnd d
    let late := Tbl.look false s.mach.sch.walkLate d
    s.conf.on schSampleCfgEn d = true ∧ due ≤ s.mach.up ∧ busy ∧ late = false)) ∧
    ((∃ (s : State) (die : Fin 2),
    s.live ∧ ∃ (r : LearnReq) (rs : List LearnReq),
    Tbl.look [] s.mach.fwd.learn die = r :: rs ∧
    let m := { s.mach with fwd := { s.mach.fwd with learn := Tbl.put [] s.mach.fwd.learn die rs } }
    let found := fdbFind m die r.bd r.mac
    let m := fdbMet m die r.bd r.mac
    ∃ p,
    found = some p ∧ fdbLport (m.fdbAt p) ≠ r.lport ∧ (fdbStatic (m.fdbAt p) = true ∨ r.move = false)) ∧
    ((∃ (s : State) (l : Fin 256),
    s.live ∧
    let g := s.mach.gate l
    ∃ k,
    g.change = some k ∧ k.time ≤ s.mach.todNs) ∧
    (∃ (s : State) (src : Fin 48),
    s.live ∧
    let l := Tbl.look [] s.mach.pwr.trace src
    ∃ t,
    Tbl.find s.mach.pwr.traceAt src = some t ∧ t + 10_000 ≤ s.mach.up ∧ l ≠ [] ∧ upwardFull s.mach (traceDie src) = false))) ∧
    (∃ (s : State) (die : Fin 2),
    s.live ∧ ∃ (r : LearnReq) (rs : List LearnReq),
    Tbl.look [] s.mach.fwd.learn die = r :: rs ∧
    let m := { s.mach with fwd := { s.mach.fwd with learn := Tbl.put [] s.mach.fwd.learn die rs } }
    let found := fdbFind m die r.bd r.mac
    let m := fdbMet m die r.bd r.mac
    found = none ∧ fdbRoom m die r.bd r.mac = none) ∧
    (∃ (s : State) (die : Fin 2),
    s.live ∧
    let out := s.conf.get fwdFdbAgeTimeout die
    s.mach.fdbDue die ≤ s.mach.up ∧ (s.conf.on fwdFdbAgeEn die = false ∨ out = 0)) :=
  ⟨⟨⟨base, ⟨0, ⟨by decide +kernel, by decide +kernel⟩⟩⟩, ⟨⟨base, ⟨0, ⟨by decide +kernel, by decide +kernel⟩⟩⟩, ⟨⟨base, ⟨0, ⟨by decide +kernel, ⟨by decide +kernel, by decide +kernel⟩⟩⟩⟩, ⟨⟨base, ⟨0, ⟨by decide +kernel, by decide +kernel⟩⟩⟩, ⟨base, ⟨0, ⟨by decide +kernel, by decide +kernel⟩⟩⟩⟩⟩⟩⟩,
   ⟨⟨withCfg L0 schSampleCfgEn 1 0 0 0, ⟨0, ⟨by decide +kernel, ⟨lr, ⟨[], ⟨by decide +kernel, ⟨_, ⟨by decide +kernel, some_getD 0 (by decide +kernel)⟩⟩⟩⟩⟩⟩⟩⟩, ⟨withCfg L0 schSampleCfgEn 1 0 0 0, ⟨0, ⟨by decide +kernel, ⟨by decide +kernel, ⟨by decide +kernel, ⟨by decide +kernel, by decide +kernel⟩⟩⟩⟩⟩⟩⟩,
   ⟨⟨upd (withCfg (withCfg (withCfg L1 schSampleCfgEn 1 0 0 0) fwdFdbAgeEn 1 0 0 0) fwdFdbAgeTimeout 1 0 0 0) fun m => {m with sch := {m.sch with walkEnd := [(0, 500000)]}}, ⟨0, ⟨by decide +kernel, ⟨lr, ⟨[], ⟨by decide +kernel, ⟨_, ⟨some_getD 0 (by decide +kernel), by decide +kernel⟩⟩⟩⟩⟩⟩⟩⟩, ⟨upd (withCfg (withCfg (withCfg L1 schSampleCfgEn 1 0 0 0) fwdFdbAgeEn 1 0 0 0) fwdFdbAgeTimeout 1 0 0 0) fun m => {m with sch := {m.sch with walkEnd := [(0, 500000)]}}, ⟨0, ⟨by decide +kernel, ⟨by decide +kernel, ⟨by decide +kernel, ⟨by decide +kernel, by decide +kernel⟩⟩⟩⟩⟩⟩⟩,
   ⟨⟨upd L2 fun m => {(m.setGate 0 {change := some {time := 0, cycle := 100, ext := 0, len := 1}, admin := [(0, 5)]}) with up := 50000, pwr := {m.pwr with trace := [(0,[z 64])], traceAt := [(0,7)] }}, ⟨0, ⟨by decide +kernel, ⟨lr, ⟨[], ⟨by decide +kernel, ⟨_, ⟨some_getD 0 (by decide +kernel), ⟨by decide +kernel, by decide +kernel⟩⟩⟩⟩⟩⟩⟩⟩⟩, ⟨⟨upd L2 fun m => {(m.setGate 0 {change := some {time := 0, cycle := 100, ext := 0, len := 1}, admin := [(0, 5)]}) with up := 50000, pwr := {m.pwr with trace := [(0,[z 64])], traceAt := [(0,7)] }}, ⟨0, ⟨by decide +kernel, ⟨{time := 0, cycle := 100, ext := 0, len := 1}, ⟨by decide +kernel, by decide +kernel⟩⟩⟩⟩⟩, ⟨upd L2 fun m => {(m.setGate 0 {change := some {time := 0, cycle := 100, ext := 0, len := 1}, admin := [(0, 5)]}) with up := 50000, pwr := {m.pwr with trace := [(0,[z 64])], traceAt := [(0,7)] }}, ⟨0, ⟨by decide +kernel, ⟨7, ⟨by decide +kernel, ⟨by decide +kernel, ⟨by decide +kernel, by decide +kernel⟩⟩⟩⟩⟩⟩⟩⟩⟩,
   ⟨L3, ⟨0, ⟨by decide +kernel, ⟨lr, ⟨[], ⟨by decide +kernel, ⟨by decide +kernel, by decide +kernel⟩⟩⟩⟩⟩⟩⟩,
   ⟨withCfg TA fwdFdbAgeEn 0 0 0 0, ⟨0, ⟨by decide +kernel, ⟨by decide +kernel, by decide +kernel⟩⟩⟩⟩⟩

set_option maxRecDepth 100000 in
theorem test_witness_TablesAgeAndTimersRun_2 :
    ((∃ (s : State) (die : Fin 2),
    s.live ∧ ∃ (r : LearnReq) (rs : List LearnReq),
    Tbl.look [] s.mach.fwd.learn die = r :: rs ∧
    let m := { s.mach with fwd := { s.mach.fwd with learn := Tbl.put [] s.mach.fwd.learn die rs } }
    let found := fdbFind m die r.bd r.mac
    let m := fdbMet m die r.bd r.mac
    ∃ p,
    found = some p ∧ fdbLport (m.fdbAt p) ≠ r.lport ∧ fdbStatic (m.fdbAt p) = false ∧ r.move = true) ∧
    (∃ (s : State) (src : Fin 48),
    s.live ∧ ∃ (c : Cfg) (m : Mach) (b : UpBatch),
    (∀ d ∈ b.dies, upwardBusy m d = false))) ∧
    (∃ (s : State) (src : Fin 48),
    s.live ∧ (upwardFull s.mach (traceDie src) = true) ∧
    (∃ (c : Cfg) (m : Mach) (b : UpBatch),
    (∃ d ∈ b.dies, upwardBusy m d = true))) ∧
    (∃ (s : State) (die : Fin 2),
    s.live ∧
    let out := s.conf.get fwdFdbAgeTimeout die
    s.mach.fdbDue die ≤ s.mach.up ∧ s.conf.on fwdFdbAgeEn die = true ∧ 0 < out ∧ s.conf.on fwdLearnCfgNotifyAge die = false) ∧
    (∃ (s : State) (d : Fin 2),
    s.live ∧
    let due := Tbl.look 0 s.mach.sch.walkDue d
    let busy := s.mach.up < Tbl.look 0 s.mach.sch.walkEnd d
    let late := Tbl.look false s.mach.sch.walkLate d
    s.conf.on schSampleCfgEn d = true ∧ due ≤ s.mach.up ∧ busy ∧ late = true) :=
  ⟨⟨⟨L4, ⟨0, ⟨by decide +kernel, ⟨lr, ⟨[], ⟨by decide +kernel, ⟨_, ⟨some_getD 0 (by decide +kernel), ⟨by decide +kernel, ⟨by decide +kernel, by decide +kernel⟩⟩⟩⟩⟩⟩⟩⟩⟩⟩, ⟨L4, ⟨0, ⟨by decide +kernel, ⟨L4.conf, ⟨L4.mach, ⟨⟨[0],0,.trc,[]⟩, by decide +kernel⟩⟩⟩⟩⟩⟩⟩,
   ⟨fl L4 (fun f => {f with waiting := List.replicate (Config.upwardRoom + 1) {src := 16 * 8, sev := 1, time := 0, detail := 0}}), ⟨0, ⟨by decide +kernel, ⟨upward_full rfl (by decide +kernel), ⟨L4.conf, ⟨(fl L4 (fun f => {f with waiting := List.replicate (Config.upwardRoom + 1) {src := 16 * 8, sev := 1, time := 0, detail := 0}})).mach, ⟨⟨[0,1,2,3,4,5,6,7,8],0,.trc,[]⟩, by decide +kernel⟩⟩⟩⟩⟩⟩⟩,
   ⟨withCfg (withCfg TA fwdFdbAgeEn 1 0 0 0) fwdFdbAgeTimeout 1 0 0 0, ⟨0, ⟨by decide +kernel, ⟨by decide +kernel, ⟨by decide +kernel, ⟨by decide +kernel, by decide +kernel⟩⟩⟩⟩⟩⟩,
   ⟨upd (withCfg TA schSampleCfgEn 1 0 0 0) fun m => {m with sch := {m.sch with walkEnd := [(0, 10^13)], walkLate := [(0, true)]}}, ⟨0, ⟨by decide +kernel, ⟨by decide +kernel, ⟨by decide +kernel, ⟨by decide +kernel, by decide +kernel⟩⟩⟩⟩⟩⟩⟩
end Dataplane

/-! ### The flow store -/
namespace FlowStore
def KT : Takeover := {slot := 2, failed := 2, loses := false}
def key0 : List Byte := z 37
def B0 := fs base fun f => {f with ready := true}
def fq : FlowReq := {pipe := 0, idx := 3, gen := 1, insert := false, key := key0, fh := 0, prog := 0, zprof := 0, turn := 0, len := 64}
def rc : Rec := {key := key0, param := z 48}
def fhz := fhOf B0.conf B0.mach key0
def fqz : FlowReq := { fq with fh := fhz }
def rg : Fin 16 := ⟨fhSlot fhz % 16, by omega⟩
def bk := fhBucket fhz
def B1 := pp B0 fun p => {p with reqs := [fqz]}
def op0 : SliceOp := {req := fqz, place := .look [bk]}
def mv : Move := {key := key0, src := 4*bk, dst := otherBucket fhz bk}
def hb (p : Nat) (r : Rec) (s : State) := upd s fun m => m.putHbm rg p (some r)
def le : LedgerEnt := {mv := mv, region := rg, pos := 4*bk, rcd := rc}
def B2 := hb (4*bk) rc (fs B1 fun f => {f with ops := [op0], pending := [bkey rg bk]})
def B3 := fs B1 fun f => {f with ops := [op0], pending := [bkey rg bk]}
def k2 : List Byte := z 36 ++ [1]
def op1 : SliceOp := {req := {fqz with key := k2}, place := .moves 0 [mv, {mv with src := 5}]}
def B4 := upd (hb (4*bk) rc (fs B0 fun f => {f with ops := [op1], comps := [.ins key0 {rc with key := k2} 0 0 0, .del k2 0 0 0]})) fun m => m.putStash rg [rc]
def B5 := withCfg (fs B4 fun f => { f with comps := [.del key0 0 0 0], ops := []}) fstGuardCfgStashRetry 5 0 0 0
def pd : List Byte := z 5 ++ [0x80] ++ z 58
def B6b := upd (hb (4*bk) {rc with key := k2} (fs (withCfg base fstGuardCfgStashRetry 5 0 0 0) fun f => {f with ready := true})) fun m => m.setPool 0 { desc := pd }
def B7 := (List.range 4).foldl (fun s i => hb (4*bk+i) {rc with key := k2} (hb (4 * otherBucket fhz bk + i) {rc with key := k2} s)) (fs B6b fun f => {f with comps := [.del key0 0 0 0], stash := [(rg.val,[rc])], guard := [(rg.val, (List.range 256).map fun i => (k2, i))]})
def wb : WriteBack := {key := key0, fh := fhz, created := 0, stamp := 0}
def W0 := hb (4*bk) rc (fs base fun f => {f with ready := true, wbs := [wb]})
def V0 := fs (gl base fun g => {g with outputs := true}) fun f => {f with ready := true}
def V1 := pw (fs (withCfg V0 fstSweepCfgEn 0 0 0 0) fun f => {f with clearing := true, sweep := [(rg.val, {gridWaits := true})], ipfix := [(0, {recs := [(3, z 20)]})] }) fun p => {p with grants := [gr opSweep (V0.mach.phys rg)]}
def V1u := upd V1 fun m => {m with up := 10^13}
def V2 := withCfg (hb (4*bk) rc (fs V1u fun f => {f with due := 0, ageNow := 60000, ipfix := [], sweep := [(rg.val, {running := some .sweep, passes := 1, cursor := 5})] })) fstTprofToEven 5 0 0 0
def tf (s : State) : State := fs s fun f => {f with pending := (List.range 4096).map fun i => bkey rg (i + 5)}
def CI (s : State) : State := fs s fun f => {f with comps := [.ins key0 {rc with key := k2} 0 0 0]}
def CD (s : State) : State := fs s fun f => {f with comps := [.del key0 0 0 0]}
def fhk2 := fhOf B0.conf B0.mach k2
def hk2 (s : State) := upd s fun m => m.putHbm (fhSlot fhk2) (4 * fhBucket fhk2) (some {rc with key := k2})
def fullk2 := (List.range 4).foldl (fun s i => upd s fun m => (m.putHbm (fhSlot fhk2) (4 * fhBucket fhk2 + i) (some {rc with key := z 37})).putHbm (fhSlot fhk2) (4 * otherBucket fhk2 (fhBucket fhk2) + i) (some {rc with key := z 37})) (CI (withCfg B0 fstMaxKicksKicks 0 0 0 0))
def KL : Takeover := {slot := 2, failed := 2, loses := true}
def V1n := pw (fs V0 fun f => {f with sweep := [(rg.val, {gridNow := true})]}) fun p => {p with grants := [gr opSweep (V0.mach.phys rg)]}
def fqi : FlowReq := {fqz with insert := true}
def opi : SliceOp := {req := fqi, place := .look [bk]}
def ab := otherBucket fhz bk
def opa : SliceOp := {req := fqi, place := .alt ab, seen := [bk]}
def Bi := fs B0 fun f => {f with ops := [opi], pending := [bkey rg bk]}
def kx (i : Nat) : List Byte := z 36 ++ [BitVec.ofNat 8 (i + 9)]
def fillB (b n : Nat) (s : State) : State := (List.range 4).foldl (fun s i => hb (4*b+i) {rc with key := kx (n + i)} s) s
def Bf := fillB bk 0 Bi
def Ba := fillB bk 0 (fs B0 fun f => {f with ops := [opa], pending := [bkey rg ab]})
def Bs := fillB ab 4 (withCfg Ba fstMaxKicksKicks 0 0 0 0)
def Bz := fs Bs fun f => {f with stash := [(rg.val, List.replicate 4096 {rc with key := k2})]}
def sn : List Nat := [bk] ++ ((List.range 4).map fun i => otherBucket (fhOf B0.conf B0.mach (kx i)) bk) ++ ((List.range 4).map fun i => otherBucket (fhOf B0.conf B0.mach (kx (4 + i))) ab)
def opm : SliceOp := {opa with seen := sn}
def Bm := fillB ab 4 (fillB bk 0 (fs B0 fun f => {f with ops := [opm], pending := [bkey rg ab]}))
--#eval (bk, ab, sn, (roomAt Bf.mach rg bk false), (extendPath Bm.conf rg (ab :: sn) false 17 [] bk false Bm.mach).2.1, fstMaxKicksKicks.reset)
def le2 : LedgerEnt := {le with pos := 4 * mv.dst}

set_option maxRecDepth 100000 in
theorem test_witness_FlowStoreServesRequests_1 :
    (∃ (s : State),
    s.live ∧ duoOn s.conf = false ∧ (∃ (pipe : Fin 32) (region : Fin 16),
    let found := s.mach.ppl.reqs.find? fun q => q.pipe == pipe.val && fhSlot q.fh == region.val
    found = none) ∧
    ((∃ (region : Fin 16) (b : BitVec 24),
    s.mach.fsl.pending.contains (bkey region b.toNat) = false) ∧
    ((∃ (region : Fin 16),
    let found := s.mach.fsl.ledger.find? (·.region == region.val)
    found = none) ∧
    ((∃ (region : Fin 16),
    let every := s.conf.get fstGuardCfgStashRetry
    let due := Tbl.look 0 s.mach.fsl.retryAt region
    let l := s.mach.stash region
    every ≠ 0 ∧ s.mach.fsl.ready = true ∧ due ≤ s.mach.up ∧ l = []) ∧
    ((∃ (region : Fin 16),
    s.mach.fsl.ops = []) ∧
    ((let found := s.mach.fsl.comps.find? fun x => (match x with | .ins .. => true | _ => false)
    found = none) ∧
    ((let behind (key : List Byte) : Bool := s.mach.fsl.comps.any fun x => (match x with | .ins _ comp .. => comp.key == key | _ => false)
    let found := s.mach.fsl.comps.find? fun x => (match x with | .del key .. => !behind key | _ => false)
    found = none) ∧
    (∃ (n : Fin 1024),
    let p := s.mach.pool n
    let m := if p.desc ≠ [] ∧ plEnable p.desc = true ∧ p.ready.length ≤ 16 then natFill n 64 s.mach else s.mach
    m.fsl.ops = [])))))))) ∧
    (∃ (s : State),
    s.live ∧ duoOn s.conf = false ∧ ∃ (pipe : Fin 32) (region : Fin 16),
    let found := s.mach.ppl.reqs.find? fun q => q.pipe == pipe.val && fhSlot q.fh == region.val
    ∃ q,
    found = some q ∧
    let open' := tableFull s.mach region = false ∧ s.mach.fsl.clearing = false ∧ s.mach.fsl.ready = true
    let m := { s.mach with ppl := { s.mach.ppl with reqs := s.mach.ppl.reqs.erase q } }
    (open') ∧
    (open' ∧ m.fsl.ops = [] ∧ m.fsl.ledger = [] ∧ m.fsl.pending = [] ∧ m.fsl.readWait = [] ∧ nearby m q.fh q.key = false ∧ admitted m q.fh = [fhBucket q.fh])) :=
  ⟨⟨B0, ⟨by decide +kernel, ⟨by decide +kernel, ⟨⟨0, ⟨rg, by decide +kernel⟩⟩, ⟨⟨rg, ⟨BitVec.ofNat 24 bk, by decide +kernel⟩⟩, ⟨⟨rg, by decide +kernel⟩, ⟨⟨rg, ⟨by decide +kernel, ⟨by decide +kernel, ⟨by decide +kernel, by decide +kernel⟩⟩⟩⟩, ⟨⟨rg, by decide +kernel⟩, ⟨by decide +kernel, ⟨by decide +kernel, ⟨0, by decide +kernel⟩⟩⟩⟩⟩⟩⟩⟩⟩⟩⟩,
   ⟨B1, ⟨by decide +kernel, ⟨by decide +kernel, ⟨0, ⟨rg, ⟨fqz, ⟨by decide +kernel, ⟨by decide +kernel, ⟨by decide +kernel, ⟨by decide +kernel, ⟨by decide +kernel, ⟨by decide +kernel, ⟨by decide +kernel, ⟨by decide +kernel, by decide +kernel⟩⟩⟩⟩⟩⟩⟩⟩⟩⟩⟩⟩⟩⟩⟩

set_option maxRecDepth 100000 in
theorem test_witness_FlowStoreServesRequests_2 :
    (∃ (s : State),
    s.live ∧ duoOn s.conf = false ∧ ∃ (region : Fin 16) (b : BitVec 24),
    ∃ (o : SliceOp),
    s.mach.fsl.pending.contains (bkey region b.toNat) = true ∧ s.mach.fsl.readWait = [] ∧ s.mach.fsl.ops = [o] ∧ s.mach.fsl.jobs = [] ∧ s.mach.fsl.ledger = [] ∧ fhSlot o.req.fh = region ∧ (o.place = .look [b.toNat] ∨ o.place = .alt b.toNat) ∧ o.merge = none ∧
    let m := readBucket s.conf { s.mach with fsl := { s.mach.fsl with pending := s.mach.fsl.pending.erase (bkey region b.toNat) } } region b.toNat
    let found := findKey m region o.req.fh o.req.key
    ∃ (pl : Spot) (r : Rec),
    found = some (pl, r) ∧ r.role = 0) ∧
    (∃ (s : State),
    s.live ∧ duoOn s.conf = false ∧ ∃ (region : Fin 16) (b : BitVec 24),
    ∃ (o : SliceOp),
    s.mach.fsl.pending.contains (bkey region b.toNat) = true ∧ s.mach.fsl.readWait = [] ∧ s.mach.fsl.ops = [o] ∧ s.mach.fsl.jobs = [] ∧ s.mach.fsl.ledger = [] ∧ fhSlot o.req.fh = region ∧ (o.place = .look [b.toNat] ∨ o.place = .alt b.toNat) ∧ o.merge = none ∧
    let m := readBucket s.conf { s.mach with fsl := { s.mach.fsl with pending := s.mach.fsl.pending.erase (bkey region b.toNat) } } region b.toNat
    let found := findKey m region o.req.fh o.req.key
    found = none ∧ o.req.insert = false ∧ m.imageDue region = false) :=
  ⟨⟨B2, ⟨by decide +kernel, ⟨by decide +kernel, ⟨rg, ⟨BitVec.ofNat 24 bk, ⟨op0, ⟨by decide +kernel, ⟨by decide +kernel, ⟨by decide +kernel, ⟨by decide +kernel, ⟨by decide +kernel, ⟨by decide +kernel, ⟨by decide +kernel, ⟨by decide +kernel, ⟨.at (4*bk), ⟨rc, ⟨by decide +kernel, by decide +kernel⟩⟩⟩⟩⟩⟩⟩⟩⟩⟩⟩⟩⟩⟩⟩⟩⟩,
   ⟨B3, ⟨by decide +kernel, ⟨by decide +kernel, ⟨rg, ⟨BitVec.ofNat 24 bk, ⟨op0, ⟨by decide +kernel, ⟨by decide +kernel, ⟨by decide +kernel, ⟨by decide +kernel, ⟨by decide +kernel, ⟨by decide +kernel, ⟨by decide +kernel, ⟨by decide +kernel, ⟨by decide +kernel, ⟨by decide +kernel, by decide +kernel⟩⟩⟩⟩⟩⟩⟩⟩⟩⟩⟩⟩⟩⟩⟩⟩⟩

set_option maxRecDepth 100000 in
theorem test_witness_FlowStoreServesRequests_3 :
    (∃ (s : State),
    s.live ∧ duoOn s.conf = false ∧ (∃ (region : Fin 16),
    let every := s.conf.get fstGuardCfgStashRetry
    let due := Tbl.look 0 s.mach.fsl.retryAt region
    let l := s.mach.stash region
    let i := Tbl.look 0 s.mach.fsl.retry region % l.length
    let later (m : Mach) : Mach := { m with fsl := { m.fsl with retryAt := Tbl.ins m.fsl.retryAt region (due + 1000 * every) } }
    every ≠ 0 ∧ s.mach.fsl.ready = true ∧ due ≤ s.mach.up ∧ ∃ (r : Rec),
    l[i]? = some r ∧
    let fh := fhOf s.conf s.mach r.key
    let p := fhBucket fh
    let free := openNow s.mach region [p, otherBucket fh p] && !tableFull s.mach region &&
          decide ((s.mach.fsl.ledger.filter (·.region == region.val)).length < 64)
    let m := readBucket s.conf (readBucket s.conf (later { s.mach with fsl := { s.mach.fsl with retry := Tbl.put 0 s.mach.fsl.retry region (i + 1) } })
          region p) region (otherBucket fh p)
    let room := (roomAt m region p r.wide).or (roomAt m region (otherBucket fh p) r.wide)
    ∃ pos,
    free = true ∧ room = some pos) ∧
    (let found := s.mach.fsl.comps.find? fun x => (match x with | .ins .. => true | _ => false)
    ∃ (fwd : List Byte) (comp : Rec) (pool : Nat) (addr : Nat) (port : Nat),
    found = some (.ins fwd comp pool addr port))) ∧
    (∃ (s : State),
    s.live ∧ duoOn s.conf = false ∧
    let behind (key : List Byte) : Bool := s.mach.fsl.comps.any fun x => (match x with | .ins _ comp .. => comp.key == key | _ => false)
    let found := s.mach.fsl.comps.find? fun x => (match x with | .del key .. => !behind key | _ => false)
    ∃ (key : List Byte) (pool : Nat) (addr : Nat) (port : Nat),
    found = some (.del key pool addr port) ∧
    let m := { s.mach with fsl := { s.mach.fsl with comps := s.mach.fsl.comps.erase (.del key pool addr port) } }
    SliceFree s.conf s.mach key ∧
    let fh := fhOf s.conf s.mach key
    let x := lookupKey s.conf m.takesPlace fh key
    ∃ (pl : Spot) (r : Rec),
    x.1 = some (pl, r)) :=
  ⟨⟨B4, ⟨by decide +kernel, ⟨by decide +kernel, ⟨⟨rg, ⟨by decide +kernel, ⟨by decide +kernel, ⟨by decide +kernel, ⟨rc, ⟨by decide +kernel, ⟨_, ⟨by decide +kernel, some_getD 0 (by decide +kernel)⟩⟩⟩⟩⟩⟩⟩⟩, ⟨key0, ⟨{rc with key := k2}, ⟨0, ⟨0, ⟨0, by decide +kernel⟩⟩⟩⟩⟩⟩⟩⟩⟩,
   ⟨B5, ⟨by decide +kernel, ⟨by decide +kernel, ⟨key0, ⟨0, ⟨0, ⟨0, ⟨by decide +kernel, ⟨slice_of (by decide +kernel), ⟨.stash, ⟨rc, by decide +kernel⟩⟩⟩⟩⟩⟩⟩⟩⟩⟩⟩⟩

set_option maxRecDepth 100000 in
theorem test_witness_FlowStoreServesRequests_4 :
    (∃ (s : State),
    s.live ∧ duoOn s.conf = false ∧ ∃ (region : Fin 16),
    let every := s.conf.get fstGuardCfgStashRetry
    let due := Tbl.look 0 s.mach.fsl.retryAt region
    let l := s.mach.stash region
    let i := Tbl.look 0 s.mach.fsl.retry region % l.length
    let later (m : Mach) : Mach := { m with fsl := { m.fsl with retryAt := Tbl.ins m.fsl.retryAt region (due + 1000 * every) } }
    every ≠ 0 ∧ s.mach.fsl.ready = true ∧ due ≤ s.mach.up ∧ ∃ (r : Rec),
    l[i]? = some r ∧
    let fh := fhOf s.conf s.mach r.key
    let p := fhBucket fh
    let free := openNow s.mach region [p, otherBucket fh p] && !tableFull s.mach region &&
          decide ((s.mach.fsl.ledger.filter (·.region == region.val)).length < 64)
    let m := readBucket s.conf (readBucket s.conf (later { s.mach with fsl := { s.mach.fsl with retry := Tbl.put 0 s.mach.fsl.retry region (i + 1) } })
          region p) region (otherBucket fh p)
    let room := (roomAt m region p r.wide).or (roomAt m region (otherBucket fh p) r.wide)
    free = true ∧ room = none) ∧
    (∃ (s : State),
    s.live ∧ duoOn s.conf = false ∧ (∃ (pipe : Fin 32) (region : Fin 16),
    let found := s.mach.ppl.reqs.find? fun q => q.pipe == pipe.val && fhSlot q.fh == region.val
    ∃ q,
    found = some q ∧
    let open' := tableFull s.mach region = false ∧ s.mach.fsl.clearing = false ∧ s.mach.fsl.ready = true
    (¬open')) ∧
    (∃ (region : Fin 16),
    let every := s.conf.get fstGuardCfgStashRetry
    let due := Tbl.look 0 s.mach.fsl.retryAt region
    (every = 0 ∨ s.mach.fsl.ready = false ∨ s.mach.up < due))) :=
  ⟨⟨B7, ⟨by decide +kernel, ⟨by decide +kernel, ⟨rg, ⟨by decide +kernel, ⟨by decide +kernel, ⟨by decide +kernel, ⟨rc, ⟨by decide +kernel, ⟨by decide +kernel, by decide +kernel⟩⟩⟩⟩⟩⟩⟩⟩⟩⟩,
   ⟨fs B1 (fun f => {f with ready := false}), ⟨by decide +kernel, ⟨by decide +kernel, ⟨⟨0, ⟨rg, ⟨fqz, ⟨by decide +kernel, by decide +kernel⟩⟩⟩⟩, ⟨rg, by decide +kernel⟩⟩⟩⟩⟩⟩

set_option maxRecDepth 100000 in
theorem test_witness_FlowStoreServesRequests_5 :
    (∃ (s : State),
    s.live ∧ duoOn s.conf = false ∧ ∃ (region : Fin 16),
    let found := s.mach.fsl.ledger.find? (·.region == region.val)
    ∃ (e : LedgerEnt),
    found = some e ∧ s.mach.fsl.ops = [] ∧ s.mach.fsl.jobs = []) ∧
    (∃ (s : State),
    s.live ∧ duoOn s.conf = false ∧
    let found := s.mach.fsl.comps.find? fun x => (match x with | .ins .. => true | _ => false)
    ∃ (fwd : List Byte) (comp : Rec) (pool : Nat) (addr : Nat) (port : Nat),
    found = some (.ins fwd comp pool addr port) ∧
    let m := { s.mach with fsl := { s.mach.fsl with comps := s.mach.fsl.comps.erase (.ins fwd comp pool addr port) } }
    SliceFree s.conf s.mach comp.key ∧
    let fh := fhOf s.conf s.mach comp.key
    let x := lookupKey s.conf m.takesPlace fh comp.key
    ∃ (spot : Option Spot) (m₁ : Mach) (m' : Mach),
    FindsRoom s.conf s.mach m.takesPlace comp.key spot m₁ ∧
    let x := lookupKey s.conf m₁ fh comp.key
    let r := { comp with role := 0, peer := deviceId s.conf, unmirrored := false, lastHit := x.2.fsl.ageNow, created := x.2.fsl.ageNow }
    x.1 = none ∧ ∃ (pl : Spot) (y : Rec),
    placeNew s.conf x.2 (fhSlot fh) spot r = (true, m') ∧ findKey m' (fhSlot fh) fh comp.key = some (pl, y)) :=
  ⟨⟨fs B0 fun f => {f with ledger := [le]}, ⟨by decide +kernel, ⟨by decide +kernel, ⟨rg, ⟨le, ⟨by decide +kernel, ⟨by decide +kernel, by decide +kernel⟩⟩⟩⟩⟩⟩⟩,
   ⟨CI B0, ⟨by decide +kernel, ⟨by decide +kernel, ⟨key0, ⟨{rc with key := k2}, ⟨0, ⟨0, ⟨0, ⟨by decide +kernel, ⟨slice_of (by decide +kernel), ⟨(roomAt (CI B0 : State).mach (fhSlot (fhOf (CI B0 : State).conf (CI B0 : State).mach ({rc with key := k2} : Rec).key)) (fhBucket (fhOf (CI B0 : State).conf (CI B0 : State).mach ({rc with key := k2} : Rec).key)) false).map .at, ⟨({ (CI B0 : State).mach with fsl := { (CI B0 : State).mach.fsl with comps := (CI B0 : State).mach.fsl.comps.erase (.ins (key0 : List Byte) ({rc with key := k2} : Rec) (0 : Nat) (0 : Nat) (0 : Nat)) } }).takesPlace, ⟨_, ⟨finds_of (.inl ⟨by decide +kernel, rfl⟩), ⟨by decide +kernel, ⟨_, ⟨_, ⟨pair_of (by decide +kernel), some_pair (.stash, rc) (by decide +kernel)⟩⟩⟩⟩⟩⟩⟩⟩⟩⟩⟩⟩⟩⟩⟩⟩⟩⟩⟩

set_option maxRecDepth 100000 in
theorem test_witness_FlowStoreServesRequests_6 :
    (∃ (s : State),
    s.live ∧ duoOn s.conf = false ∧
    let found := s.mach.fsl.comps.find? fun x => (match x with | .ins .. => true | _ => false)
    ∃ (fwd : List Byte) (comp : Rec) (pool : Nat) (addr : Nat) (port : Nat),
    found = some (.ins fwd comp pool addr port) ∧
    let m := { s.mach with fsl := { s.mach.fsl with comps := s.mach.fsl.comps.erase (.ins fwd comp pool addr port) } }
    SliceFree s.conf s.mach comp.key ∧
    let fh := fhOf s.conf s.mach comp.key
    let x := lookupKey s.conf m.takesPlace fh comp.key
    x.1.isSome = true) ∧
    (∃ (s : State),
    s.live ∧ duoOn s.conf = false ∧
    let behind (key : List Byte) : Bool := s.mach.fsl.comps.any fun x => (match x with | .ins _ comp .. => comp.key == key | _ => false)
    let found := s.mach.fsl.comps.find? fun x => (match x with | .del key .. => !behind key | _ => false)
    ∃ (key : List Byte) (pool : Nat) (addr : Nat) (port : Nat),
    found = some (.del key pool addr port) ∧
    let m := { s.mach with fsl := { s.mach.fsl with comps := s.mach.fsl.comps.erase (.del key pool addr port) } }
    SliceFree s.conf s.mach key ∧
    let fh := fhOf s.conf s.mach key
    let x := lookupKey s.conf m.takesPlace fh key
    x.1 = none) :=
  ⟨⟨hk2 (CI B0), ⟨by decide +kernel, ⟨by decide +kernel, ⟨key0, ⟨{rc with key := k2}, ⟨0, ⟨0, ⟨0, ⟨by decide +kernel, ⟨slice_of (by decide +kernel), by decide +kernel⟩⟩⟩⟩⟩⟩⟩⟩⟩⟩,
   ⟨CD B0, ⟨by decide +kernel, ⟨by decide +kernel, ⟨key0, ⟨0, ⟨0, ⟨0, ⟨by decide +kernel, ⟨slice_of (by decide +kernel), by decide +kernel⟩⟩⟩⟩⟩⟩⟩⟩⟩⟩

set_option maxRecDepth 100000 in
theorem test_witness_FlowStoreServesRequests_7 :
    (∃ (s : State),
    s.live ∧ duoOn s.conf = false ∧
    let found := s.mach.fsl.comps.find? fun x => (match x with | .ins .. => true | _ => false)
    ∃ (fwd : List Byte) (comp : Rec) (pool : Nat) (addr : Nat) (port : Nat),
    found = some (.ins fwd comp pool addr port) ∧
    let m := { s.mach with fsl := { s.mach.fsl with comps := s.mach.fsl.comps.erase (.ins fwd comp pool addr port) } }
    SliceFree s.conf s.mach comp.key ∧
    let fh := fhOf s.conf s.mach comp.key
    let x := lookupKey s.conf m.takesPlace fh comp.key
    ∃ (spot : Option Spot) (m₁ : Mach) (m' : Mach),
    FindsRoom s.conf s.mach m.takesPlace comp.key spot m₁ ∧
    let x := lookupKey s.conf m₁ fh comp.key
    let r := { comp with role := 0, peer := deviceId s.conf, unmirrored := false, lastHit := x.2.fsl.ageNow, created := x.2.fsl.ageNow }
    x.1 = none ∧ placeNew s.conf x.2 (fhSlot fh) spot r = (false, m')) ∧
    (∃ (s : State),
    s.live ∧ duoOn s.conf = false ∧ ∃ (region : Fin 16),
    let every := s.conf.get fstGuardCfgStashRetry
    let due := Tbl.look 0 s.mach.fsl.retryAt region
    let l := s.mach.stash region
    let i := Tbl.look 0 s.mach.fsl.retry region % l.length
    every ≠ 0 ∧ s.mach.fsl.ready = true ∧ due ≤ s.mach.up ∧ ∃ (r : Rec),
    l[i]? = some r ∧
    let fh := fhOf s.conf s.mach r.key
    let p := fhBucket fh
    let free := openNow s.mach region [p, otherBucket fh p] && !tableFull s.mach region &&
          decide ((s.mach.fsl.ledger.filter (·.region == region.val)).length < 64)
    free = false) :=
  ⟨⟨fs fullk2 (fun f => {f with stash := [(fhSlot fhk2, List.replicate 4096 rc)]}), ⟨by decide +kernel, ⟨by decide +kernel, ⟨key0, ⟨{rc with key := k2}, ⟨0, ⟨0, ⟨0, ⟨by decide +kernel, ⟨slice_of (by decide +kernel), ⟨none, ⟨({ (fs fullk2 (fun f => {f with stash := [(fhSlot fhk2, List.replicate 4096 rc)]}) : State).mach with fsl := { (fs fullk2 (fun f => {f with stash := [(fhSlot fhk2, List.replicate 4096 rc)]}) : State).mach.fsl with comps := (fs fullk2 (fun f => {f with stash := [(fhSlot fhk2, List.replicate 4096 rc)]}) : State).mach.fsl.comps.erase (.ins (key0 : List Byte) ({rc with key := k2} : Rec) (0 : Nat) (0 : Nat) (0 : Nat)) } }).takesPlace.takesPlace, ⟨_, ⟨finds_of (.inr (.inr ⟨by decide +kernel, rfl⟩)), ⟨by decide +kernel, pair_of (by decide +kernel)⟩⟩⟩⟩⟩⟩⟩⟩⟩⟩⟩⟩⟩⟩⟩,
   ⟨tf (upd (withCfg B0 fstGuardCfgStashRetry 5 0 0 0) fun m => {(m.putStash rg [rc]) with up := 10^10}), ⟨by decide +kernel, ⟨by decide +kernel, ⟨rg, ⟨by decide +kernel, ⟨by decide +kernel, ⟨by decide +kernel, ⟨rc, ⟨by decide +kernel, by decide +kernel⟩⟩⟩⟩⟩⟩⟩⟩⟩⟩

set_option maxRecDepth 100000 in
theorem test_witness_FlowStoreServesRequests_8 :
    (∃ (s : State),
    s.live ∧ duoOn s.conf = false ∧ ∃ (region : Fin 16) (b : BitVec 24),
    ∃ (o : SliceOp),
    s.mach.fsl.pending.contains (bkey region b.toNat) = true ∧ s.mach.fsl.readWait = [] ∧ s.mach.fsl.ops = [o] ∧ s.mach.fsl.jobs = [] ∧ s.mach.fsl.ledger = [] ∧ fhSlot o.req.fh = region ∧ (o.place = .look [b.toNat] ∨ o.place = .alt b.toNat) ∧ o.merge = none ∧
    let m := readBucket s.conf { s.mach with fsl := { s.mach.fsl with pending := s.mach.fsl.pending.erase (bkey region b.toNat) } } region b.toNat
    let found := findKey m region o.req.fh o.req.key
    found = none ∧ o.req.insert = true ∧ m.guarded region o.req.key = false ∧ m.imageDue region = false ∧
    let p := fhBucket o.req.fh
    let wide : Bool := decide (o.req.key.length = 40)
    let seen := b.toNat :: o.seen
    let m := { m with fsl := { m.fsl with ops := [{ o with place := .look [], seen := seen }] } }
    ∃ pos,
    roomAt m region p wide = some pos) ∧
    (∃ (s : State),
    s.live ∧ duoOn s.conf = false ∧ ∃ (region : Fin 16) (b : BitVec 24),
    ∃ (o : SliceOp),
    s.mach.fsl.pending.contains (bkey region b.toNat) = true ∧ s.mach.fsl.readWait = [] ∧ s.mach.fsl.ops = [o] ∧ s.mach.fsl.jobs = [] ∧ s.mach.fsl.ledger = [] ∧ fhSlot o.req.fh = region ∧ (o.place = .look [b.toNat] ∨ o.place = .alt b.toNat) ∧ o.merge = none ∧
    let m := readBucket s.conf { s.mach with fsl := { s.mach.fsl with pending := s.mach.fsl.pending.erase (bkey region b.toNat) } } region b.toNat
    let found := findKey m region o.req.fh o.req.key
    found = none ∧ o.req.insert = true ∧ m.guarded region o.req.key = false ∧ m.imageDue region = false ∧
    let p := fhBucket o.req.fh
    let a := otherBucket o.req.fh p
    let wide : Bool := decide (o.req.key.length = 40)
    let seen := b.toNat :: o.seen
    let m := { m with fsl := { m.fsl with ops := [{ o with place := .look [], seen := seen }] } }
    roomAt m region p wide = none ∧ a ∉ seen ∧ m.fsl.pending = []) :=
  ⟨⟨Bi, ⟨by decide +kernel, ⟨by decide +kernel, ⟨rg, ⟨BitVec.ofNat 24 bk, ⟨opi, ⟨by decide +kernel, ⟨by decide +kernel, ⟨by decide +kernel, ⟨by decide +kernel, ⟨by decide +kernel, ⟨by decide +kernel, ⟨by decide +kernel, ⟨by decide +kernel, ⟨by decide +kernel, ⟨by decide +kernel, ⟨by decide +kernel, ⟨by decide +kernel, ⟨_, some_getD 0 (by decide +kernel)⟩⟩⟩⟩⟩⟩⟩⟩⟩⟩⟩⟩⟩⟩⟩⟩⟩⟩⟩,
   ⟨Bf, ⟨by decide +kernel, ⟨by decide +kernel, ⟨rg, ⟨BitVec.ofNat 24 bk, ⟨opi, ⟨by decide +kernel, ⟨by decide +kernel, ⟨by decide +kernel, ⟨by decide +kernel, ⟨by decide +kernel, ⟨by decide +kernel, ⟨by decide +kernel, ⟨by decide +kernel, ⟨by decide +kernel, ⟨by decide +kernel, ⟨by decide +kernel, ⟨by decide +kernel, ⟨by decide +kernel, ⟨by decide +kernel, by decide +kernel⟩⟩⟩⟩⟩⟩⟩⟩⟩⟩⟩⟩⟩⟩⟩⟩⟩⟩⟩⟩⟩

set_option maxRecDepth 100000 in
theorem test_witness_FlowStoreServesRequests_9 :
    (∃ (s : State),
    s.live ∧ duoOn s.conf = false ∧ ∃ (region : Fin 16) (b : BitVec 24),
    ∃ (o : SliceOp),
    s.mach.fsl.pending.contains (bkey region b.toNat) = true ∧ s.mach.fsl.readWait = [] ∧ s.mach.fsl.ops = [o] ∧ s.mach.fsl.jobs = [] ∧ s.mach.fsl.ledger = [] ∧ fhSlot o.req.fh = region ∧ (o.place = .look [b.toNat] ∨ o.place = .alt b.toNat) ∧ o.merge = none ∧
    let m := readBucket s.conf { s.mach with fsl := { s.mach.fsl with pending := s.mach.fsl.pending.erase (bkey region b.toNat) } } region b.toNat
    let found := findKey m region o.req.fh o.req.key
    found = none ∧ o.req.insert = true ∧ m.guarded region o.req.key = false ∧ m.imageDue region = false ∧
    let p := fhBucket o.req.fh
    let a := otherBucket o.req.fh p
    let wide : Bool := decide (o.req.key.length = 40)
    let seen := b.toNat :: o.seen
    let m := { m with fsl := { m.fsl with ops := [{ o with place := .look [], seen := seen }] } }
    ∃ pos,
    roomAt m region p wide = none ∧ a ∈ seen ∧ roomAt m region a wide = some pos) ∧
    (∃ (s : State),
    s.live ∧ duoOn s.conf = false ∧ ∃ (region : Fin 16) (b : BitVec 24),
    ∃ (o : SliceOp),
    s.mach.fsl.pending.contains (bkey region b.toNat) = true ∧ s.mach.fsl.readWait = [] ∧ s.mach.fsl.ops = [o] ∧ s.mach.fsl.jobs = [] ∧ s.mach.fsl.ledger = [] ∧ fhSlot o.req.fh = region ∧ (o.place = .look [b.toNat] ∨ o.place = .alt b.toNat) ∧ o.merge = none ∧
    let m := readBucket s.conf { s.mach with fsl := { s.mach.fsl with pending := s.mach.fsl.pending.erase (bkey region b.toNat) } } region b.toNat
    let found := findKey m region o.req.fh o.req.key
    found = none ∧ o.req.insert = true ∧ m.guarded region o.req.key = false ∧ m.imageDue region = false ∧
    let p := fhBucket o.req.fh
    let a := otherBucket o.req.fh p
    let wide : Bool := decide (o.req.key.length = 40)
    let seen := b.toNat :: o.seen
    let m := { m with fsl := { m.fsl with ops := [{ o with place := .look [], seen := seen }] } }
    roomAt m region p wide = none ∧ a ∈ seen ∧ roomAt m region a wide = none ∧
    let path := extendPath s.conf region seen false 17 [] p wide m
    path.1 = .stuck ∧ (m.stash region).length < 4096) :=
  ⟨⟨Ba, ⟨by decide +kernel, ⟨by decide +kernel, ⟨rg, ⟨BitVec.ofNat 24 ab, ⟨opa, ⟨by decide +kernel, ⟨by decide +kernel, ⟨by decide +kernel, ⟨by decide +kernel, ⟨by decide +kernel, ⟨by decide +kernel, ⟨by decide +kernel, ⟨by decide +kernel, ⟨by decide +kernel, ⟨by decide +kernel, ⟨by decide +kernel, ⟨by decide +kernel, ⟨_, ⟨by decide +kernel, ⟨by decide +kernel, some_getD 0 (by decide +kernel)⟩⟩⟩⟩⟩⟩⟩⟩⟩⟩⟩⟩⟩⟩⟩⟩⟩⟩⟩⟩⟩,
   ⟨Bs, ⟨by decide +kernel, ⟨by decide +kernel, ⟨rg, ⟨BitVec.ofNat 24 ab, ⟨opa, ⟨by decide +kernel, ⟨by decide +kernel, ⟨by decide +kernel, ⟨by decide +kernel, ⟨by decide +kernel, ⟨by decide +kernel, ⟨by decide +kernel, ⟨by decide +kernel, ⟨by decide +kernel, ⟨by decide +kernel, ⟨by decide +kernel, ⟨by decide +kernel, ⟨by decide +kernel, ⟨by decide +kernel, ⟨by decide +kernel, ⟨by decide +kernel, by decide +kernel⟩⟩⟩⟩⟩⟩⟩⟩⟩⟩⟩⟩⟩⟩⟩⟩⟩⟩⟩⟩⟩⟩⟩

set_option maxRecDepth 100000 in
theorem test_witness_FlowStoreServesRequests_10 :
    (∃ (s : State),
    s.live ∧ duoOn s.conf = false ∧ ∃ (region : Fin 16) (b : BitVec 24),
    ∃ (o : SliceOp),
    s.mach.fsl.pending.contains (bkey region b.toNat) = true ∧ s.mach.fsl.readWait = [] ∧ s.mach.fsl.ops = [o] ∧ s.mach.fsl.jobs = [] ∧ s.mach.fsl.ledger = [] ∧ fhSlot o.req.fh = region ∧ (o.place = .look [b.toNat] ∨ o.place = .alt b.toNat) ∧ o.merge = none ∧
    let m := readBucket s.conf { s.mach with fsl := { s.mach.fsl with pending := s.mach.fsl.pending.erase (bkey region b.toNat) } } region b.toNat
    let found := findKey m region o.req.fh o.req.key
    found = none ∧ o.req.insert = true ∧ m.guarded region o.req.key = false ∧ m.imageDue region = false ∧
    let p := fhBucket o.req.fh
    let a := otherBucket o.req.fh p
    let wide : Bool := decide (o.req.key.length = 40)
    let seen := b.toNat :: o.seen
    let m := { m with fsl := { m.fsl with ops := [{ o with place := .look [], seen := seen }] } }
    roomAt m region p wide = none ∧ a ∈ seen ∧ roomAt m region a wide = none ∧
    let path := extendPath s.conf region seen false 17 [] p wide m
    path.1 = .stuck ∧ 4096 ≤ (path.2.2.stash region).length) ∧
    (∃ (s : State),
    s.live ∧ duoOn s.conf = false ∧ ∃ (region : Fin 16) (b : BitVec 24),
    ∃ (o : SliceOp),
    s.mach.fsl.pending.contains (bkey region b.toNat) = true ∧ s.mach.fsl.readWait = [] ∧ s.mach.fsl.ops = [o] ∧ s.mach.fsl.jobs = [] ∧ s.mach.fsl.ledger = [] ∧ fhSlot o.req.fh = region ∧ (o.place = .look [b.toNat] ∨ o.place = .alt b.toNat) ∧ o.merge = none ∧
    let m := readBucket s.conf { s.mach with fsl := { s.mach.fsl with pending := s.mach.fsl.pending.erase (bkey region b.toNat) } } region b.toNat
    let found := findKey m region o.req.fh o.req.key
    found = none ∧ o.req.insert = true ∧ m.guarded region o.req.key = false ∧ m.imageDue region = false ∧
    let p := fhBucket o.req.fh
    let a := otherBucket o.req.fh p
    let wide : Bool := decide (o.req.key.length = 40)
    let seen := b.toNat :: o.seen
    let m := { m with fsl := { m.fsl with ops := [{ o with place := .look [], seen := seen }] } }
    roomAt m region p wide = none ∧ a ∈ seen ∧ roomAt m region a wide = none ∧
    let path := extendPath s.conf region seen false 17 [] p wide m
    ∃ (v : Move) (vs : List Move) (m' : Mach),
    path.1 = .found ∧ path.2.1.reverse = v :: vs ∧ startMove s.conf { path.2.2 with fsl := { path.2.2.fsl with ops := [{ o with place := .moves 1 (v :: vs), seen := seen, holds := [] }] } } region v =
              (true, m')) :=
  ⟨⟨Bz, ⟨by decide +kernel, ⟨by decide +kernel, ⟨rg, ⟨BitVec.ofNat 24 ab, ⟨opa, ⟨by decide +kernel, ⟨by decide +kernel, ⟨by decide +kernel, ⟨by decide +kernel, ⟨by decide +kernel, ⟨by decide +kernel, ⟨by decide +kernel, ⟨by decide +kernel, ⟨by decide +kernel, ⟨by decide +kernel, ⟨by decide +kernel, ⟨by decide +kernel, ⟨by decide +kernel, ⟨by decide +kernel, ⟨by decide +kernel, ⟨by decide +kernel, by decide +kernel⟩⟩⟩⟩⟩⟩⟩⟩⟩⟩⟩⟩⟩⟩⟩⟩⟩⟩⟩⟩⟩⟩,
   ⟨Bm, ⟨by decide +kernel, ⟨by decide +kernel, ⟨rg, ⟨BitVec.ofNat 24 ab, ⟨opm, ⟨by decide +kernel, ⟨by decide +kernel, ⟨by decide +kernel, ⟨by decide +kernel, ⟨by decide +kernel, ⟨by decide +kernel, ⟨by decide +kernel, ⟨by decide +kernel, ⟨by decide +kernel, ⟨by decide +kernel, ⟨by decide +kernel, ⟨by decide +kernel, ⟨by decide +kernel, ⟨by decide +kernel, ⟨by decide +kernel, ⟨(extendPath (Bm : State).conf (rg : Fin 16) ((BitVec.ofNat 24 ab : BitVec 24).toNat :: (opm : SliceOp).seen) false 17 [] (fhBucket (opm : SliceOp).req.fh) (decide ((opm : SliceOp).req.key.length = 40) : Bool) ({ (readBucket (Bm : State).conf { (Bm : State).mach with fsl := { (Bm : State).mach.fsl with pending := (Bm : State).mach.fsl.pending.erase (bkey (rg : Fin 16) (BitVec.ofNat 24 ab : BitVec 24).toNat) } } (rg : Fin 16) (BitVec.ofNat 24 ab : BitVec 24).toNat) with fsl := { (readBucket (Bm : State).conf { (Bm : State).mach with fsl := { (Bm : State).mach.fsl with pending := (Bm : State).mach.fsl.pending.erase (bkey (rg : Fin 16) (BitVec.ofNat 24 ab : BitVec 24).toNat) } } (rg : Fin 16) (BitVec.ofNat 24 ab : BitVec 24).toNat).fsl with ops := [{ (opm : SliceOp) with place := .look [], seen := ((BitVec.ofNat 24 ab : BitVec 24).toNat :: (opm : SliceOp).seen) }] } })).2.1.reverse.headD mv, ⟨(extendPath (Bm : State).conf (rg : Fin 16) ((BitVec.ofNat 24 ab : BitVec 24).toNat :: (opm : SliceOp).seen) false 17 [] (fhBucket (opm : SliceOp).req.fh) (decide ((opm : SliceOp).req.key.length = 40) : Bool) ({ (readBucket (Bm : State).conf { (Bm : State).mach with fsl := { (Bm : State).mach.fsl with pending := (Bm : State).mach.fsl.pending.erase (bkey (rg : Fin 16) (BitVec.ofNat 24 ab : BitVec 24).toNat) } } (rg : Fin 16) (BitVec.ofNat 24 ab : BitVec 24).toNat) with fsl := { (readBucket (Bm : State).conf { (Bm : State).mach with fsl := { (Bm : State).mach.fsl with pending := (Bm : State).mach.fsl.pending.erase (bkey (rg : Fin 16) (BitVec.ofNat 24 ab : BitVec 24).toNat) } } (rg : Fin 16) (BitVec.ofNat 24 ab : BitVec 24).toNat).fsl with ops := [{ (opm : SliceOp) with place := .look [], seen := ((BitVec.ofNat 24 ab : BitVec 24).toNat :: (opm : SliceOp).seen) }] } })).2.1.reverse.tail, ⟨(startMove (Bm : State).conf { (extendPath (Bm : State).conf (rg : Fin 16) ((BitVec.ofNat 24 ab : BitVec 24).toNat :: (opm : SliceOp).seen) false 17 [] (fhBucket (opm : SliceOp).req.fh) (decide ((opm : SliceOp).req.key.length = 40) : Bool) ({ (readBucket (Bm : State).conf { (Bm : State).mach with fsl := { (Bm : State).mach.fsl with pending := (Bm : State).mach.fsl.pending.erase (bkey (rg : Fin 16) (BitVec.ofNat 24 ab : BitVec 24).toNat) } } (rg : Fin 16) (BitVec.ofNat 24 ab : BitVec 24).toNat) with fsl := { (readBucket (Bm : State).conf { (Bm : State).mach with fsl := { (Bm : State).mach.fsl with pending := (Bm : State).mach.fsl.pending.erase (bkey (rg : Fin 16) (BitVec.ofNat 24 ab : BitVec 24).toNat) } } (rg : Fin 16) (BitVec.ofNat 24 ab : BitVec 24).toNat).fsl with ops := [{ (opm : SliceOp) with place := .look [], seen := ((BitVec.ofNat 24 ab : BitVec 24).toNat :: (opm : SliceOp).seen) }] } })).2.2 with fsl := { (extendPath (Bm : State).conf (rg : Fin 16) ((BitVec.ofNat 24 ab : BitVec 24).toNat :: (opm : SliceOp).seen) false 17 [] (fhBucket (opm : SliceOp).req.fh) (decide ((opm : SliceOp).req.key.length = 40) : Bool) ({ (readBucket (Bm : State).conf { (Bm : State).mach with fsl := { (Bm : State).mach.fsl with pending := (Bm : State).mach.fsl.pending.erase (bkey (rg : Fin 16) (BitVec.ofNat 24 ab : BitVec 24).toNat) } } (rg : Fin 16) (BitVec.ofNat 24 ab : BitVec 24).toNat) with fsl := { (readBucket (Bm : State).conf { (Bm : State).mach with fsl := { (Bm : State).mach.fsl with pending := (Bm : State).mach.fsl.pending.erase (bkey (rg : Fin 16) (BitVec.ofNat 24 ab : BitVec 24).toNat) } } (rg : Fin 16) (BitVec.ofNat 24 ab : BitVec 24).toNat).fsl with ops := [{ (opm : SliceOp) with place := .look [], seen := ((BitVec.ofNat 24 ab : BitVec 24).toNat :: (opm : SliceOp).seen) }] } })).2.2.fsl with ops := [{ (opm : SliceOp) with place := .moves 1 (((extendPath (Bm : State).conf (rg : Fin 16) ((BitVec.ofNat 24 ab : BitVec 24).toNat :: (opm : SliceOp).seen) false 17 [] (fhBucket (opm : SliceOp).req.fh) (decide ((opm : SliceOp).req.key.length = 40) : Bool) ({ (readBucket (Bm : State).conf { (Bm : State).mach with fsl := { (Bm : State).mach.fsl with pending := (Bm : State).mach.fsl.pending.erase (bkey (rg : Fin 16) (BitVec.ofNat 24 ab : BitVec 24).toNat) } } (rg : Fin 16) (BitVec.ofNat 24 ab : BitVec 24).toNat) with fsl := { (readBucket (Bm : State).conf { (Bm : State).mach with fsl := { (Bm : State).mach.fsl with pending := (Bm : State).mach.fsl.pending.erase (bkey (rg : Fin 16) (BitVec.ofNat 24 ab : BitVec 24).toNat) } } (rg : Fin 16) (BitVec.ofNat 24 ab : BitVec 24).toNat).fsl with ops := [{ (opm : SliceOp) with place := .look [], seen := ((BitVec.ofNat 24 ab : BitVec 24).toNat :: (opm : SliceOp).seen) }] } })).2.1.reverse.headD mv : Move) :: ((extendPath (Bm : State).conf (rg : Fin 16) ((BitVec.ofNat 24 ab : BitVec 24).toNat :: (opm : SliceOp).seen) false 17 [] (fhBucket (opm : SliceOp).req.fh) (decide ((opm : SliceOp).req.key.length = 40) : Bool) ({ (readBucket (Bm : State).conf { (Bm : State).mach with fsl := { (Bm : State).mach.fsl with pending := (Bm : State).mach.fsl.pending.erase (bkey (rg : Fin 16) (BitVec.ofNat 24 ab : BitVec 24).toNat) } } (rg : Fin 16) (BitVec.ofNat 24 ab : BitVec 24).toNat) with fsl := { (readBucket (Bm : State).conf { (Bm : State).mach with fsl := { (Bm : State).mach.fsl with pending := (Bm : State).mach.fsl.pending.erase (bkey (rg : Fin 16) (BitVec.ofNat 24 ab : BitVec 24).toNat) } } (rg : Fin 16) (BitVec.ofNat 24 ab : BitVec 24).toNat).fsl with ops := [{ (opm : SliceOp) with place := .look [], seen := ((BitVec.ofNat 24 ab : BitVec 24).toNat :: (opm : SliceOp).seen) }] } })).2.1.reverse.tail : List Move)), seen := ((BitVec.ofNat 24 ab : BitVec 24).toNat :: (opm : SliceOp).seen), holds := [] }] } } (rg : Fin 16) ((extendPath (Bm : State).conf (rg : Fin 16) ((BitVec.ofNat 24 ab : BitVec 24).toNat :: (opm : SliceOp).seen) false 17 [] (fhBucket (opm : SliceOp).req.fh) (decide ((opm : SliceOp).req.key.length = 40) : Bool) ({ (readBucket (Bm : State).conf { (Bm : State).mach with fsl := { (Bm : State).mach.fsl with pending := (Bm : State).mach.fsl.pending.erase (bkey (rg : Fin 16) (BitVec.ofNat 24 ab : BitVec 24).toNat) } } (rg : Fin 16) (BitVec.ofNat 24 ab : BitVec 24).toNat) with fsl := { (readBucket (Bm : State).conf { (Bm : State).mach with fsl := { (Bm : State).mach.fsl with pending := (Bm : State).mach.fsl.pending.erase (bkey (rg : Fin 16) (BitVec.ofNat 24 ab : BitVec 24).toNat) } } (rg : Fin 16) (BitVec.ofNat 24 ab : BitVec 24).toNat).fsl with ops := [{ (opm : SliceOp) with place := .look [], seen := ((BitVec.ofNat 24 ab : BitVec 24).toNat :: (opm : SliceOp).seen) }] } })).2.1.reverse.headD mv : Move)).2, ⟨by decide +kernel, ⟨by decide +kernel, pair_of (by decide +kernel)⟩⟩⟩⟩⟩⟩⟩⟩⟩⟩⟩⟩⟩⟩⟩⟩⟩⟩⟩⟩⟩⟩⟩⟩⟩⟩⟩

set_option maxRecDepth 100000 in
theorem test_witness_FlowStoreServesRequests_11 :
    (∃ (s : State),
    s.live ∧ duoOn s.conf = false ∧ ∃ (pipe : Fin 32) (region : Fin 16),
    let found := s.mach.ppl.reqs.find? fun q => q.pipe == pipe.val && fhSlot q.fh == region.val
    ∃ q,
    found = some q ∧
    let open' := tableFull s.mach region = false ∧ s.mach.fsl.clearing = false ∧ s.mach.fsl.ready = true
    let m := { s.mach with ppl := { s.mach.ppl with reqs := s.mach.ppl.reqs.erase q } }
    ∃ (pl : Spot) (r : Rec),
    open' ∧ m.fsl.ops = [] ∧ m.fsl.ledger = [] ∧ m.fsl.jobs = [] ∧ nearby m q.fh q.key = true ∧ findKey m region q.fh q.key = some (pl, r) ∧ r.role = 0) ∧
    (∃ (s : State),
    s.live ∧ duoOn s.conf = false ∧ ∃ (pipe : Fin 32) (region : Fin 16),
    let found := s.mach.ppl.reqs.find? fun q => q.pipe == pipe.val && fhSlot q.fh == region.val
    ∃ q,
    found = some q ∧
    let open' := tableFull s.mach region = false ∧ s.mach.fsl.clearing = false ∧ s.mach.fsl.ready = true
    let m := { s.mach with ppl := { s.mach.ppl with reqs := s.mach.ppl.reqs.erase q } }
    ∃ (e : LedgerEnt),
    open' ∧ m.fsl.ops = [] ∧ m.fsl.ledger = [e] ∧ e.region = region ∧ e.mv.key = q.key ∧ e.ord < m.fsl.nextOrd ∧ nearby m q.fh q.key = true) :=
  ⟨⟨(upd B1 fun m => m.putStash rg [rc]), ⟨by decide +kernel, ⟨by decide +kernel, ⟨0, ⟨rg, ⟨fqz, ⟨by decide +kernel, ⟨.stash, ⟨rc, ⟨by decide +kernel, ⟨by decide +kernel, ⟨by decide +kernel, ⟨by decide +kernel, ⟨by decide +kernel, ⟨by decide +kernel, by decide +kernel⟩⟩⟩⟩⟩⟩⟩⟩⟩⟩⟩⟩⟩⟩⟩,
   ⟨(fs (upd B1 fun m => m.putStash rg [rc]) fun f => {f with ledger := [{le with ord := 0}], nextOrd := 5}), ⟨by decide +kernel, ⟨by decide +kernel, ⟨0, ⟨rg, ⟨fqz, ⟨by decide +kernel, ⟨{le with ord := 0}, ⟨by decide +kernel, ⟨by decide +kernel, ⟨by decide +kernel, ⟨by decide +kernel, ⟨by decide +kernel, ⟨by decide +kernel, by decide +kernel⟩⟩⟩⟩⟩⟩⟩⟩⟩⟩⟩⟩⟩⟩⟩

set_option maxRecDepth 100000 in
theorem test_witness_FlowStoreServesRequests_12 :
    ∃ (s : State),
    s.live ∧ duoOn s.conf = false ∧ ∃ (region : Fin 16),
    let found := s.mach.fsl.ledger.find? (·.region == region.val)
    ∃ (e : LedgerEnt),
    found = some e ∧
    let fh := fhOf s.conf s.mach e.mv.key
    let m := countPlaced s.conf { s.mach with fsl := { s.mach.fsl with ledger := s.mach.fsl.ledger.erase e } } region e.mv.dst fh
    let m := countRemoved s.conf (moveRec s.conf m region e.mv.src e.pos e.rcd) region (e.mv.src / 4) fh
    let m := bump s.conf m .fslCnt (m.phys region) cFslKick
    ∃ (o : SliceOp) (pl : Spot) (r : Rec),
    s.mach.fsl.ops = [o] ∧ s.mach.fsl.jobs = [] ∧ s.mach.fsl.ledger = [e] ∧ o.place = .look [] ∧ o.merge = none ∧ fhSlot o.req.fh = region ∧ findKey m region o.req.fh o.req.key = some (pl, r) ∧ r.role = 0 :=
  ⟨(fs (hb (4*bk) rc B0) fun f => {f with ledger := [le2], ops := [{op0 with place := .look []}]}), ⟨by decide +kernel, ⟨by decide +kernel, ⟨rg, ⟨le2, ⟨by decide +kernel, ⟨{op0 with place := .look []}, ⟨.at (4*mv.dst), ⟨rc, ⟨by decide +kernel, ⟨by decide +kernel, ⟨by decide +kernel, ⟨by decide +kernel, ⟨by decide +kernel, ⟨by decide +kernel, ⟨by decide +kernel, by decide +kernel⟩⟩⟩⟩⟩⟩⟩⟩⟩⟩⟩⟩⟩⟩⟩⟩

set_option maxRecDepth 100000 in
theorem test_witness_WriteBacksAndTakeoversReachTheirRecords_1 :
    ((∃ (s : State),
    s.live ∧ duoOn s.conf = false ∧ (∃ (region : Fin 16),
    let found := s.mach.fsl.wbs.find? fun w => fhSlot w.fh == region.val
    (found = none ∨ tableFull s.mach region = true)) ∧
    ((∀ w ∈ s.mach.fsl.wbs, s.mach.up ≤ w.issued + 100_000))) ∧
    (∃ (s : State),
    s.live ∧ (s.mach.fsl.imagesDue = []) ∧
    (s.mach.fsl.takeover = none))) ∧
    (∃ (s : State),
    s.live ∧ duoOn s.conf = false ∧ ∃ (region : Fin 16),
    let found := s.mach.fsl.wbs.find? fun w => fhSlot w.fh == region.val
    ∃ (w : WriteBack),
    found = some w ∧ tableFull s.mach region = false ∧
    let m := { s.mach with fsl := { s.mach.fsl with wbs := s.mach.fsl.wbs.erase w } }
    let late := 10 * s.conf.get fstGuardCfgReinsertGuard - 10 ≤ (s.mach.stamp + 65536 - w.stamp) % 65536
    ((¬late)) ∧
    ((¬late) ∧ SliceFree s.conf s.mach w.key ∧ w.fh = fhOf s.conf s.mach w.key ∧
    let x := lookupKey s.conf { m with fsl := { m.fsl with nextOrd := m.fsl.nextOrd + 1 } } w.fh w.key
    ∃ (pl : Spot) (r : Rec),
    x.1 = some (pl, r) ∧ r.created = w.created ∧ w.now = false)) :=
  ⟨⟨⟨base, ⟨by decide +kernel, ⟨by decide +kernel, ⟨⟨rg, by decide +kernel⟩, by decide +kernel⟩⟩⟩⟩, ⟨base, ⟨by decide +kernel, ⟨by decide +kernel, by decide +kernel⟩⟩⟩⟩,
   ⟨W0, ⟨by decide +kernel, ⟨by decide +kernel, ⟨rg, ⟨wb, ⟨by decide +kernel, ⟨by decide +kernel, ⟨by decide +kernel, ⟨by decide +kernel, ⟨slice_of (by decide +kernel), ⟨by decide +kernel, ⟨.at (4*bk), ⟨rc, ⟨by decide +kernel, ⟨by decide +kernel, by decide +kernel⟩⟩⟩⟩⟩⟩⟩⟩⟩⟩⟩⟩⟩⟩⟩⟩

set_option maxRecDepth 100000 in
theorem test_witness_WriteBacksAndTakeoversReachTheirRecords_2 :
    (∃ (s : State),
    s.live ∧ duoOn s.conf = false ∧ (∃ (region : Fin 16),
    let found := s.mach.fsl.wbs.find? fun w => fhSlot w.fh == region.val
    ∃ (w : WriteBack),
    found = some w ∧ tableFull s.mach region = false ∧
    let late := 10 * s.conf.get fstGuardCfgReinsertGuard - 10 ≤ (s.mach.stamp + 65536 - w.stamp) % 65536
    late) ∧
    (∃ (w : WriteBack),
    s.mach.fsl.wbs = [w] ∧ w.issued + 100_000 < s.mach.up)) ∧
    (∃ (s : State),
    s.live ∧ duoOn s.conf = false ∧ ∃ (region : Fin 16),
    let found := s.mach.fsl.wbs.find? fun w => fhSlot w.fh == region.val
    ∃ (w : WriteBack),
    found = some w ∧ tableFull s.mach region = false ∧
    let m := { s.mach with fsl := { s.mach.fsl with wbs := s.mach.fsl.wbs.erase w } }
    let late := 10 * s.conf.get fstGuardCfgReinsertGuard - 10 ≤ (s.mach.stamp + 65536 - w.stamp) % 65536
    (¬late) ∧ SliceFree s.conf s.mach w.key ∧ w.fh = fhOf s.conf s.mach w.key ∧
    let x := lookupKey s.conf { m with fsl := { m.fsl with nextOrd := m.fsl.nextOrd + 1 } } w.fh w.key
    ∃ (pl : Spot) (r : Rec),
    x.1 = some (pl, r) ∧ r.created ≠ w.created) :=
  ⟨⟨upd (fs W0 fun f => {f with hbm := []}) fun m => {m with up := 200000}, ⟨by decide +kernel, ⟨by decide +kernel, ⟨⟨rg, ⟨wb, ⟨by decide +kernel, ⟨by decide +kernel, by decide +kernel⟩⟩⟩⟩, ⟨wb, ⟨by decide +kernel, by decide +kernel⟩⟩⟩⟩⟩⟩,
   ⟨fs W0 fun f => {f with wbs := [{wb with created := 3}]}, ⟨by decide +kernel, ⟨by decide +kernel, ⟨rg, ⟨{wb with created := 3}, ⟨by decide +kernel, ⟨by decide +kernel, ⟨by decide +kernel, ⟨slice_of (by decide +kernel), ⟨by decide +kernel, ⟨.at (4*bk), ⟨rc, ⟨by decide +kernel, by decide +kernel⟩⟩⟩⟩⟩⟩⟩⟩⟩⟩⟩⟩⟩⟩

set_option maxRecDepth 100000 in
theorem test_witness_WriteBacksAndTakeoversReachTheirRecords_3 :
    (∃ (s : State),
    s.live ∧ ∃ (t : Takeover),
    s.mach.fsl.takeover = some t ∧ s.mach.fsl.ops = [] ∧ t.loses = false) ∧
    (∃ (s : State),
    s.live ∧ duoOn s.conf = false ∧ ∃ (region : Fin 16),
    let found := s.mach.fsl.wbs.find? fun w => fhSlot w.fh == region.val
    ∃ (w : WriteBack),
    found = some w ∧ tableFull s.mach region = false ∧
    let m := { s.mach with fsl := { s.mach.fsl with wbs := s.mach.fsl.wbs.erase w } }
    let late := 10 * s.conf.get fstGuardCfgReinsertGuard - 10 ≤ (s.mach.stamp + 65536 - w.stamp) % 65536
    (¬late) ∧ SliceFree s.conf s.mach w.key ∧ w.fh = fhOf s.conf s.mach w.key ∧
    let x := lookupKey s.conf { m with fsl := { m.fsl with nextOrd := m.fsl.nextOrd + 1 } } w.fh w.key
    x.1 = none) :=
  ⟨⟨fs base fun f => {f with takeover := some KT, cache := [(2*8192 + 1, [{pos := 4, rcd := rc, dirty := true}])]}, ⟨by decide +kernel, ⟨KT, ⟨by decide +kernel, ⟨by decide +kernel, by decide +kernel⟩⟩⟩⟩⟩,
   ⟨fs W0 (fun f => {f with hbm := []}), ⟨by decide +kernel, ⟨by decide +kernel, ⟨rg, ⟨wb, ⟨by decide +kernel, ⟨by decide +kernel, ⟨by decide +kernel, ⟨slice_of (by decide +kernel), ⟨by decide +kernel, by decide +kernel⟩⟩⟩⟩⟩⟩⟩⟩⟩⟩⟩

set_option maxRecDepth 100000 in
theorem test_witness_WriteBacksAndTakeoversReachTheirRecords_4 :
    (∃ (s : State),
    s.live ∧ ∃ (t : Takeover),
    s.mach.fsl.takeover = some t ∧ s.mach.fsl.ops = [] ∧
    let dirty := ((s.mach.fsl.cache.filter fun e => e.1 / 8192 == t.failed).flatMap (·.2)).filter (·.dirty)
    t.loses = true ∧ dirty ≠ []) ∧
    (∃ (s : State),
    s.live ∧ ∃ (slot : Nat) (rest : List Nat),
    s.mach.fsl.imagesDue = slot :: rest ∧ s.mach.fsl.ops = []) :=
  ⟨⟨fs base (fun f => {f with takeover := some KL, cache := [(2*8192 + 1, [{pos := 4, rcd := rc, dirty := true}])]}), ⟨by decide +kernel, ⟨KL, ⟨by decide +kernel, ⟨by decide +kernel, ⟨by decide +kernel, by decide +kernel⟩⟩⟩⟩⟩⟩,
   ⟨fs base (fun f => {f with imagesDue := [2]}), ⟨by decide +kernel, ⟨2, ⟨[], ⟨by decide +kernel, by decide +kernel⟩⟩⟩⟩⟩⟩

set_option maxRecDepth 100000 in
theorem test_witness_FlowStoreAgesSweepsAndExports_1 :
    (∃ (s : State),
    s.live ∧ ((s.mach.fsl.ready = false ∨ s.mach.up < s.mach.fsl.ageAt)) ∧
    (((s.mach.fsl.ready = false ∨ s.mach.up < s.mach.fsl.due)) ∧
    ((∃ (region : Fin 16),
    let x := s.mach.sweepOf region
    (x.next = none ∨ x.running.isSome = true ∨ s.mach.holdsLeave opSweep (s.mach.phys region) = false)) ∧
    ((∃ (region : Fin 16),
    let x := s.mach.sweepOf region
    let spot := nextSpot s.mach region
    let held := visitHeld s.conf s.mach region spot x
    (x.running = none ∨ x.found ≠ [] ∨ held = true)) ∧
    ((∃ (region : Fin 16),
    let x := s.mach.sweepOf region
    x.found = []) ∧
    ((∃ (region : Fin 16),
    passOver s.mach region = false) ∧
    ((s.mach.fsl.clearing = false) ∧
    ((∃ (n : Fin 16),
    let x := Tbl.look {} s.mach.fsl.ipfix n
    (s.mach.up < x.since + 1000 * s.conf.get fstIpfixCfgFlush ∨ x.recs = [] ∨ s.mach.glb.outputs = false)) ∧
    (let due := s.mach.fsl.tmplAt + 1_000_000_000 * s.conf.get fstIpfixTimersTmplRefresh
    s.mach.up < due))))))))) ∧
    (∃ (s : State),
    s.live ∧ (s.mach.fsl.ready = true ∧ s.mach.fsl.ageAt ≤ s.mach.up) ∧
    (s.mach.fsl.ready = true ∧ s.mach.fsl.due ≤ s.mach.up ∧ s.conf.on fstSweepCfgEn = true)) :=
  ⟨⟨base, ⟨by decide +kernel, ⟨by decide +kernel, ⟨by decide +kernel, ⟨⟨rg, by decide +kernel⟩, ⟨⟨rg, by decide +kernel⟩, ⟨⟨rg, by decide +kernel⟩, ⟨⟨rg, by decide +kernel⟩, ⟨by decide +kernel, ⟨⟨0, by decide +kernel⟩, by decide +kernel⟩⟩⟩⟩⟩⟩⟩⟩⟩⟩,
   ⟨V0, ⟨by decide +kernel, ⟨⟨by decide +kernel, by decide +kernel⟩, ⟨by decide +kernel, ⟨by decide +kernel, by decide +kernel⟩⟩⟩⟩⟩⟩

set_option maxRecDepth 100000 in
theorem test_witness_FlowStoreAgesSweepsAndExports_2 :
    (∃ (s : State),
    s.live ∧ (s.mach.fsl.ready = true ∧ s.mach.fsl.due ≤ s.mach.up ∧ s.conf.on fstSweepCfgEn = false) ∧
    ((s.mach.fsl.clearing = true) ∧
    ((∃ (n : Fin 16),
    let x := Tbl.look {} s.mach.fsl.ipfix n
    x.since + 1000 * s.conf.get fstIpfixCfgFlush ≤ s.mach.up ∧ x.recs ≠ [] ∧ s.mach.glb.outputs = true) ∧
    (let due := s.mach.fsl.tmplAt + 1_000_000_000 * s.conf.get fstIpfixTimersTmplRefresh
    due ≤ s.mach.up ∧ (s.conf.on fstIpfixCfgEn = false ∨ s.mach.glb.outputs = false))))) ∧
    (∃ (s : State),
    s.live ∧ (∃ (region : Fin 16),
    let x := s.mach.sweepOf region
    let spot := nextSpot s.mach region
    let held := visitHeld s.conf s.mach region spot x
    x.running.isSome = true ∧ x.found = [] ∧ held = false ∧ spot = cursorEnd ∧ (s.mach.stash region).length ≤ 4096) ∧
    ((∃ (region : Fin 16),
    let x := s.mach.sweepOf region
    passOver s.mach region = true ∧ x.running = some .sweep ∧ x.delta = false ∧ x.waiting = [] ∧ x.gridNow = false ∧ x.gridWaits = false ∧ 0 < x.passes) ∧
    (let due := s.mach.fsl.tmplAt + 1_000_000_000 * s.conf.get fstIpfixTimersTmplRefresh
    ∃ (n : Nat),
    due ≤ s.mach.up ∧ s.conf.on fstIpfixCfgEn = true ∧ s.mach.glb.outputs = true ∧ (pick 16 fun n => s.conf.on fstCollEn n) = [n]))) :=
  ⟨⟨V1u, ⟨by decide +kernel, ⟨⟨by decide +kernel, ⟨by decide +kernel, by decide +kernel⟩⟩, ⟨by decide +kernel, ⟨⟨0, ⟨by decide +kernel, ⟨by decide +kernel, by decide +kernel⟩⟩⟩, ⟨by decide +kernel, by decide +kernel⟩⟩⟩⟩⟩⟩,
   ⟨withCfg (withCfg (fs V1u fun f => {f with due := 0, sweep := [(rg.val, {running := some .sweep, passes := 1, cursor := 5})] }) fstIpfixCfgEn 1 0 0 0) fstCollEn 1 0 0 0, ⟨by decide +kernel, ⟨⟨rg, ⟨by decide +kernel, ⟨by decide +kernel, ⟨by decide +kernel, ⟨by decide +kernel, by decide +kernel⟩⟩⟩⟩⟩, ⟨⟨rg, ⟨by decide +kernel, ⟨by decide +kernel, ⟨by decide +kernel, ⟨by decide +kernel, ⟨by decide +kernel, ⟨by decide +kernel, by decide +kernel⟩⟩⟩⟩⟩⟩⟩, ⟨0, ⟨by decide +kernel, ⟨by decide +kernel, ⟨by decide +kernel, by decide +kernel⟩⟩⟩⟩⟩⟩⟩⟩⟩

set_option maxRecDepth 100000 in
theorem test_witness_FlowStoreAgesSweepsAndExports_3 :
    (∃ (s : State),
    s.live ∧ ∃ (region : Fin 16),
    let x := s.mach.sweepOf region
    let spot := nextSpot s.mach region
    let held := visitHeld s.conf s.mach region spot x
    x.running.isSome = true ∧ x.found = [] ∧ held = false ∧ ∃ (pl : Spot) (r : Rec),
    spot < 2 ^ 24 ∧
    let m := readBucket s.conf s.mach region spot
    spotRecs m region spot = [(pl, r)] ∧ expired s.conf m r = true) ∧
    (∃ (s : State),
    s.live ∧ ∃ (region : Fin 16),
    let x := s.mach.sweepOf region
    ∃ (key : List Byte) (rest : List (List Byte)),
    x.found = key :: rest ∧
    let fh := fhOf s.conf s.mach key
    let may := openNow s.mach region (admitted s.mach fh) && (!tableFull s.mach region || nearby s.mach fh key)
    let got := touchKey s.conf s.mach fh key
    ∃ (pl : Spot) (r : Rec),
    may = true ∧ got.1 = some (pl, r) ∧
    let act (f : Fld) : Bool := s.conf.on f r.tprof
    let old := expired s.conf got.2 r
    let out := if old && act fstTprofActExport then [r] else []
    old = true ∧ duoOn s.conf = false ∧ act fstTprofActNotify = false ∧ act fstTprofActDelete = true ∧ s.mach.guardFull region = false ∧ visitsHeld s.conf s.mach region x [] = false ∧ ipfixOpen s.conf s.mach out = true) :=
  ⟨⟨V2, ⟨by decide +kernel, ⟨rg, ⟨by decide +kernel, ⟨by decide +kernel, ⟨by decide +kernel, ⟨.at (4*bk), ⟨rc, ⟨by decide +kernel, ⟨by decide +kernel, by decide +kernel⟩⟩⟩⟩⟩⟩⟩⟩⟩⟩,
   ⟨fs V2 fun f => {f with sweep := [(rg.val, {found := [key0]})]}, ⟨by decide +kernel, ⟨rg, ⟨key0, ⟨[], ⟨by decide +kernel, ⟨.at (4*bk), ⟨rc, ⟨by decide +kernel, ⟨by decide +kernel, ⟨by decide +kernel, ⟨by decide +kernel, ⟨by decide +kernel, ⟨by decide +kernel, ⟨by decide +kernel, ⟨by decide +kernel, by decide +kernel⟩⟩⟩⟩⟩⟩⟩⟩⟩⟩⟩⟩⟩⟩⟩⟩⟩

set_option maxRecDepth 100000 in
theorem test_witness_FlowStoreAgesSweepsAndExports_4 :
    (∃ (s : State),
    s.live ∧ ∃ (region : Fin 16),
    let x := s.mach.sweepOf region
    ∃ (key : List Byte) (rest : List (List Byte)),
    x.found = key :: rest ∧
    let fh := fhOf s.conf s.mach key
    let may := openNow s.mach region (admitted s.mach fh) && (!tableFull s.mach region || nearby s.mach fh key)
    let got := touchKey s.conf s.mach fh key
    ∃ (pl : Spot) (r : Rec),
    may = true ∧ got.1 = some (pl, r) ∧
    let act (f : Fld) : Bool := s.conf.on f r.tprof
    let old := expired s.conf got.2 r
    let out := if old && act fstTprofActExport then [r] else []
    old = false ∧ visitsHeld s.conf s.mach region x [r] = false ∧ ipfixOpen s.conf s.mach (([r].filter fun r => activeDue s.conf s.mach x r) ++ out) = true) ∧
    (∃ (s : State),
    s.live ∧ ∃ (region : Fin 16),
    let x := s.mach.sweepOf region
    ∃ (key : List Byte) (rest : List (List Byte)),
    x.found = key :: rest ∧
    let fh := fhOf s.conf s.mach key
    let may := openNow s.mach region (admitted s.mach fh) && (!tableFull s.mach region || nearby s.mach fh key)
    let got := touchKey s.conf s.mach fh key
    may = true ∧ got.1 = none) :=
  ⟨⟨fs V2 fun f => {f with ageNow := 0, sweep := [(rg.val, {found := [key0]})]}, ⟨by decide +kernel, ⟨rg, ⟨key0, ⟨[], ⟨by decide +kernel, ⟨.at (4*bk), ⟨rc, ⟨by decide +kernel, ⟨by decide +kernel, ⟨by decide +kernel, ⟨by decide +kernel, by decide +kernel⟩⟩⟩⟩⟩⟩⟩⟩⟩⟩⟩⟩,
   ⟨fs V2 fun f => {f with ageNow := 0, hbm := [], sweep := [(rg.val, {found := [key0]})]}, ⟨by decide +kernel, ⟨rg, ⟨key0, ⟨[], ⟨by decide +kernel, ⟨by decide +kernel, by decide +kernel⟩⟩⟩⟩⟩⟩⟩⟩

set_option maxRecDepth 100000 in
theorem test_witness_FlowStoreAgesSweepsAndExports_5 :
    (∃ (s : State),
    s.live ∧ ∃ (region : Fin 16),
    let x := s.mach.sweepOf region
    x.waiting = [] ∧ x.gridNow = true ∧ x.running = none ∧ s.mach.holdsLeave opSweep (s.mach.phys region) = true) ∧
    (∃ (s : State),
    s.live ∧ ∃ (region : Fin 16),
    let x := s.mach.sweepOf region
    let spot := nextSpot s.mach region
    let held := visitHeld s.conf s.mach region spot x
    x.running.isSome = true ∧ x.found = [] ∧ held = false ∧ ∃ (pl : Spot) (r : Rec),
    spot < 2 ^ 24 ∧
    let m := readBucket s.conf s.mach region spot
    spotRecs m region spot = [(pl, r)] ∧ expired s.conf m r = false) :=
  ⟨⟨V1n, ⟨by decide +kernel, ⟨rg, ⟨by decide +kernel, ⟨by decide +kernel, ⟨by decide +kernel, by decide +kernel⟩⟩⟩⟩⟩⟩,
   ⟨hb (4*bk) rc (fs V0 fun f => {f with sweep := [(rg.val, {running := some .sweep, passes := 1, cursor := 5})]}), ⟨by decide +kernel, ⟨rg, ⟨by decide +kernel, ⟨by decide +kernel, ⟨by decide +kernel, ⟨.at (4*bk), ⟨rc, ⟨by decide +kernel, ⟨by decide +kernel, by decide +kernel⟩⟩⟩⟩⟩⟩⟩⟩⟩⟩⟩

set_option maxRecDepth 100000 in
theorem test_witness_FlowStoreAgesSweepsAndExports_6 :
    (∃ (s : State),
    s.live ∧ ∃ (region : Fin 16),
    let x := s.mach.sweepOf region
    ∃ (key : List Byte) (rest : List (List Byte)),
    x.found = key :: rest ∧
    let fh := fhOf s.conf s.mach key
    let may := openNow s.mach region (admitted s.mach fh) && (!tableFull s.mach region || nearby s.mach fh key)
    may = false) ∧
    (∃ (s : State),
    s.live ∧ ∃ (region : Fin 16),
    let x := s.mach.sweepOf region
    ∃ (key : List Byte) (rest : List (List Byte)),
    x.found = key :: rest ∧
    let fh := fhOf s.conf s.mach key
    let may := openNow s.mach region (admitted s.mach fh) && (!tableFull s.mach region || nearby s.mach fh key)
    let got := touchKey s.conf s.mach fh key
    ∃ (pl : Spot) (r : Rec),
    may = true ∧ got.1 = some (pl, r) ∧
    let act (f : Fld) : Bool := s.conf.on f r.tprof
    let old := expired s.conf got.2 r
    old = true ∧ act fstTprofActDelete = true ∧ s.mach.guardFull region = true) :=
  ⟨⟨tf (fs V2 fun f => {f with sweep := [(rg.val, {found := [key0]})]}), ⟨by decide +kernel, ⟨rg, ⟨key0, ⟨[], ⟨by decide +kernel, by decide +kernel⟩⟩⟩⟩⟩⟩,
   ⟨fs V2 fun f => {f with sweep := [(rg.val, {found := [key0]})], guard := [(rg.val, (List.range 256).map fun i => (k2, i))]}, ⟨by decide +kernel, ⟨rg, ⟨key0, ⟨[], ⟨by decide +kernel, ⟨.at (4*bk), ⟨rc, ⟨by decide +kernel, ⟨by decide +kernel, ⟨by decide +kernel, ⟨by decide +kernel, by decide +kernel⟩⟩⟩⟩⟩⟩⟩⟩⟩⟩⟩⟩⟩

set_option maxRecDepth 100000 in
theorem test_witness_FlowStoreAgesSweepsAndExports_7 :
    ∃ (s : State),
    s.live ∧ ∃ (region : Fin 16),
    let x := s.mach.sweepOf region
    ∃ (key : List Byte) (rest : List (List Byte)),
    x.found = key :: rest ∧
    let fh := fhOf s.conf s.mach key
    let may := openNow s.mach region (admitted s.mach fh) && (!tableFull s.mach region || nearby s.mach fh key)
    let got := touchKey s.conf s.mach fh key
    ∃ (pl : Spot) (r : Rec),
    may = true ∧ got.1 = some (pl, r) ∧
    let act (f : Fld) : Bool := s.conf.on f r.tprof
    let old := expired s.conf got.2 r
    let out := if old && act fstTprofActExport then [r] else []
    old = true ∧ duoOn s.conf = false ∧ act fstTprofActNotify = false ∧ act fstTprofActDelete = false ∧ visitsHeld s.conf s.mach region x [r] = false ∧ ipfixOpen s.conf s.mach (([r].filter fun r => activeDue s.conf s.mach x r) ++ out) = true :=
  ⟨withCfg (fs V2 fun f => {f with sweep := [(rg.val, {found := [key0]})]}) fstTprofActDelete 0 0 0 0, ⟨by decide +kernel, ⟨rg, ⟨key0, ⟨[], ⟨by decide +kernel, ⟨.at (4*bk), ⟨rc, ⟨by decide +kernel, ⟨by decide +kernel, ⟨by decide +kernel, ⟨by decide +kernel, ⟨by decide +kernel, ⟨by decide +kernel, ⟨by decide +kernel, by decide +kernel⟩⟩⟩⟩⟩⟩⟩⟩⟩⟩⟩⟩⟩⟩⟩
end FlowStore

/-! ### State mirroring -/
namespace Duilo
def DC := withCfg (withCfg (withCfg (withCfg (withCfg R duoCtrlEn 1 0 0 0) duoPartnerCfgEn 1 0 0 0) duoPartnerCfgDevice 7 0 0 0) duoPartnerPortPort 3 0 0 0) glbDeviceIdId 9 0 0 0
def lk (x : Link) (s : State) := upd s fun m => m.setLink 0 x
def DU := lk {state := 4} DC
def mg (t : Nat) (b : List Byte) (sq : Nat := 0) (fl : Nat := 0) : Msg := {type := t, flags := fl, seq := sq, body := b}
def sf (ms : List Msg) : List Byte := z 12 ++ [0x88,0xB5,0x10, UInt8.toBitVec (UInt8.ofNat ms.length)] ++ beBytes 3 7 ++ beBytes 3 9 ++ ms.flatMap Msg.bytes
def sd : List Byte := z 14 ++ [0x10,0,0,0,0] ++ beBytes 3 9 ++ z 8 ++ z 60
def ms0 := [mg 1 (z 20), mg 3 (z 24)]
def cp (g : Msg) : Copy := {msg := g}
def mo (l : Nat) (s : State) : State := gl (withT (withCfg s prtPortCfgEn 1 0 l 0) prtPortCfgEn 1 0 l 0) fun g => {g with outputs := true}
def DT := withT (withT (withT (lk {state := 4, wait := [(0,[mg 1 (z 20)])], copies := [{msg := mg 3 (z 24), toSend := false, sent := some 0}], ackDue := some 0} (withT DC tmgPoolSize 10000 0 0 0)) schSubCfgEn 1 0 0 0) schSvcCfgEn 1 0 0 0) schPortCfgEn 1 0 0 0
def DTu := upd DT fun m => {m with up := 10^12}
def ld (x : Link) : State := lk x DC
def hb (sc : Nat) (ver cho fl age : Nat) : List Byte := beBytes 2 100 ++ beBytes 2 ver ++ beBytes 1 cho ++ beBytes 1 fl ++ beBytes 4 5 ++ beBytes 3 age ++ z 1 ++ beBytes 4 sc ++ z 2
def ag := DC.conf.get fstAgeCfgAgeTick
def sk := seedCheck DC.conf DC.mach
def vs := DC.conf.get duoSyncCfgVersions
def lh (st : Nat) (b : List Byte) (o : Option Hello := none) : State := ld {state := st, inbox := [(mg 1 b, 0)], hello := o}
def r3 : Round := {pass := 3, doneTx := 8, doneRx := 8, exchanged := some [0], ended := [1]}
def rk : Rec := {key := z 16, param := z 8}
def img := Rec.image rk
def rr : Rec := { rebased DU.mach (mg 2 img) with role := 1, peer := 7, unmirrored := false }
def fz := fhOf DU.conf DU.mach rr.key
def ib (g : Msg) (s : State := DU) : State := upd s fun m => m.setLink 0 { m.link 0 with inbox := [(g, 0)] }
def hd (r : Rec) (s : State) := upd s fun m => m.putHbm (fhSlot fz) (4 * fhBucket fz) (some r)
def full := (List.range 4).foldl (fun s i => upd s fun m => (m.putHbm (fhSlot fz) (4 * fhBucket fz + i) (some {rk with key := z 15 ++ [1]})).putHbm (fhSlot fz) (4 * otherBucket fz (fhBucket fz) + i) (some {rk with key := z 15 ++ [1]})) DU

set_option maxRecDepth 100000 in
theorem test_witness_PartnersExchangeFrames_1 :
    ((∃ (s : State) (l : Fin 256) (f : List Byte),
    s.live ∧ (macOn s.conf s.mach l = false) ∧
    (pathOf s.conf l = none ∧ pathDisabled s.conf l = false)) ∧
    ((∃ (path : Nat) (now : Nat) (x : Link) (g : Msg),
    g.type ≠ 1 ∧ g.type ≠ 5 ∧ seqAhead x.rxSeq g.seq = 0 ∧ x.ahead = []) ∧
    ((∃ (s : State) (l : Fin 256) (b : List Byte) (u : Bool),
    s.live ∧ macOn s.conf s.mach l = false) ∧
    ((∃ (s : State) (p : Fin 8),
    s.live ∧
    let x := s.mach.link p
    let early := s.mach.up < x.helloAt + 100 * s.conf.get duoTimersLeasePeriod
    ((x.state = 0 ∨ s.mach.glb.outputs = false ∨ early)) ∧
    (let due := x.ackDue ≠ none ∨ x.inbox ≠ []
    (streams s.mach p = false ∨ ¬due ∨ s.mach.up < x.ackAt + 100))) ∧
    (∃ (s : State) (p : Fin 8) (path : Fin 2),
    s.live ∧
    let x := s.mach.link p
    let ms := fitMsgs (waitingFor s.conf s.mach p path) 64 1492
    (x.state = 0 ∨ ms = [] ∨ s.mach.glb.outputs = false ∨ (syncPaths s.conf p).contains path.val = false)))))) ∧
    ((∃ (s : State) (l : Fin 256) (f : List Byte),
    s.live ∧ ∃ (p : Nat) (path : Nat),
    macOn s.conf s.mach l = true ∧ pathOf s.conf l = some (p, path) ∧
    let x := s.mach.link p
    let ours := bits (be f 16 3) 17 0 = partnerDev s.conf p ∧ bits (be f 19 3) 17 0 = deviceId s.conf ∧ x.state ≠ 0
    (¬ours)) ∧
    (∃ (s : State) (l : Fin 256) (b : List Byte) (u : Bool),
    s.live ∧
    let ours := byteAt b 14 / 16 = 1 ∧ bits (be b 19 3) 17 0 = deviceId s.conf
    ∃ (p : Nat) (m : Mach),
    macOn s.conf s.mach l = true ∧ ours ∧ storeIngress s.conf (bump s.conf s.mach .duoCnt cDuoSteerIn) (l / 8) (ownIngress (l / 8))
        (b.drop 30 ++ fcsOf (b.drop 30)) = some (p, m))) :=
  ⟨⟨⟨base, ⟨3, ⟨sf ms0, ⟨by decide +kernel, ⟨by decide +kernel, ⟨by decide +kernel, by decide +kernel⟩⟩⟩⟩⟩⟩, ⟨⟨0, ⟨5, ⟨{}, ⟨mg 3 (z 24), ⟨by decide +kernel, ⟨by decide +kernel, ⟨by decide +kernel, by decide +kernel⟩⟩⟩⟩⟩⟩⟩, ⟨⟨base, ⟨3, ⟨sd, ⟨true, ⟨by decide +kernel, by decide +kernel⟩⟩⟩⟩⟩, ⟨⟨base, ⟨0, ⟨by decide +kernel, ⟨by decide +kernel, by decide +kernel⟩⟩⟩⟩, ⟨base, ⟨0, ⟨0, ⟨by decide +kernel, by decide +kernel⟩⟩⟩⟩⟩⟩⟩⟩,
   ⟨⟨mo 3 DC, ⟨3, ⟨sf ms0, ⟨by decide +kernel, ⟨0, ⟨0, ⟨by decide +kernel, ⟨by decide +kernel, by decide +kernel⟩⟩⟩⟩⟩⟩⟩⟩, ⟨mo 3 DC, ⟨3, ⟨sd, ⟨true, ⟨by decide +kernel, ⟨_, ⟨_, ⟨by decide +kernel, ⟨by decide +kernel, some_pair (0,(mo 3 DC : State).mach) (by decide +kernel)⟩⟩⟩⟩⟩⟩⟩⟩⟩⟩⟩

set_option maxRecDepth 100000 in
theorem test_witness_PartnersExchangeFrames_2 :
    (∃ (s : State) (l : Fin 256) (b : List Byte) (u : Bool),
    s.live ∧
    let ours := byteAt b 14 / 16 = 1 ∧ bits (be b 19 3) 17 0 = deviceId s.conf
    macOn s.conf s.mach l = true ∧ (¬ours)) ∧
    (∃ (s : State) (l : Fin 256) (f : List Byte),
    s.live ∧ ∃ (p : Nat) (path : Nat),
    macOn s.conf s.mach l = true ∧ pathOf s.conf l = some (p, path) ∧
    let x := s.mach.link p
    let ours := bits (be f 16 3) 17 0 = partnerDev s.conf p ∧ bits (be f 19 3) 17 0 = deviceId s.conf ∧ x.state ≠ 0
    ∃ (ms : List Msg),
    ours ∧ readMsgs (min 64 (byteAt f 15)) (f.drop 22) = (ms, false) ∧ (∀ g ∈ ms, g.type ≠ 8)) :=
  ⟨⟨mo 3 R, ⟨3, ⟨sd, ⟨true, ⟨by decide +kernel, ⟨by decide +kernel, by decide +kernel⟩⟩⟩⟩⟩⟩,
   ⟨mo 3 DU, ⟨3, ⟨sf ms0, ⟨by decide +kernel, ⟨0, ⟨0, ⟨by decide +kernel, ⟨by decide +kernel, ⟨ms0, ⟨by decide +kernel, ⟨by decide +kernel, by decide +kernel⟩⟩⟩⟩⟩⟩⟩⟩⟩⟩⟩⟩

set_option maxRecDepth 100000 in
theorem test_witness_PartnersExchangeFrames_3 :
    (∃ (path : Nat) (now : Nat) (x : Link) (g : Msg),
    (g.type = 1 ∨ g.type = 5)) ∧
    (∃ (s : State) (l : Fin 256) (f : List Byte),
    s.live ∧ macOn s.conf s.mach l = true ∧ pathOf s.conf l = none ∧ pathDisabled s.conf l = true) :=
  ⟨⟨0, ⟨5, ⟨{}, ⟨mg 1 (z 20), by decide +kernel⟩⟩⟩⟩,
   ⟨mo 3 (withCfg DU duoPartnerCfgEn 0 0 0 0), ⟨3, ⟨z 60, ⟨by decide +kernel, ⟨by decide +kernel, ⟨by decide +kernel, by decide +kernel⟩⟩⟩⟩⟩⟩⟩

set_option maxRecDepth 100000 in
theorem test_witness_PartnersExchangeFrames_4 :
    (∃ (s : State) (p : Fin 8),
    s.live ∧
    let x := s.mach.link p
    let early := s.mach.up < x.helloAt + 100 * s.conf.get duoTimersLeasePeriod
    (x.state ≠ 0 ∧ s.mach.glb.outputs = true ∧ (¬early)) ∧
    ((let due := x.ackDue ≠ none ∨ x.inbox ≠ []
    streams s.mach p = true ∧ due ∧ x.ackAt + 100 ≤ s.mach.up) ∧
    (∃ (e : Copy) (t : Nat),
    x.copies = [e] ∧ e.toSend = false ∧ e.covered = false ∧ e.msg.seq < 2 ^ 32 ∧ e.sent = some t ∧ t + 100 * s.conf.get duoSyncCfgRetx ≤ s.mach.up))) ∧
    (∃ (s : State) (p : Fin 8) (path : Fin 2),
    s.live ∧
    let x := s.mach.link p
    let ms := fitMsgs (waitingFor s.conf s.mach p path) 64 1492
    let f := withFcs (syncFrame s.conf p (max 1 x.ver) ms)
    let pipe := pathPort s.conf p path / 8
    let q := pathSync s.conf p path
    ∃ (h : Nat) (m : Mach) (m' : Mach),
    x.state ≠ 0 ∧ ms ≠ [] ∧ s.mach.glb.outputs = true ∧ (syncPaths s.conf p).contains path.val = true ∧ storeIngress s.conf s.mach pipe (ownIngress pipe) f = some (h, m) ∧ enqueue s.conf m q { head := h, len := f.length, enq := s.mach.todNs % 2 ^ 32, inLport := pathPort s.conf p path, res := { raw := true }, turn := s.mach.glb.active } = some m') :=
  ⟨⟨DTu, ⟨0, ⟨by decide +kernel, ⟨⟨by decide +kernel, ⟨by decide +kernel, by decide +kernel⟩⟩, ⟨⟨by decide +kernel, ⟨by decide +kernel, by decide +kernel⟩⟩, ⟨{msg := mg 3 (z 24), toSend := false, sent := some 0}, ⟨0, ⟨by decide +kernel, ⟨by decide +kernel, ⟨by decide +kernel, ⟨by decide +kernel, ⟨by decide +kernel, by decide +kernel⟩⟩⟩⟩⟩⟩⟩⟩⟩⟩⟩⟩, ⟨DTu, ⟨0, ⟨0, ⟨by decide +kernel, ⟨_, ⟨_, ⟨_, ⟨by decide +kernel, ⟨by decide +kernel, ⟨by decide +kernel, ⟨by decide +kernel, ⟨some_pair (0,(DTu : State).mach) (by decide +kernel), some_getD ((DTu : State).mach) (by decide +kernel)⟩⟩⟩⟩⟩⟩⟩⟩⟩⟩⟩⟩⟩

set_option maxRecDepth 100000 in
theorem test_witness_LinksFollowLeasesAndRounds_1 :
    (∃ (s : State),
    s.live ∧ ∃ (p : Fin 8),
    let x := s.mach.link p
    (nextMsg s.conf s.mach p 1 = none) ∧
    ((nextMsg s.conf s.mach p 5 = none) ∧
    ((nextMsg s.conf s.mach p 7 = none) ∧
    (let t := s.conf.get duoCtrlDigestPeriod
    (t = 0 ∨ s.mach.up < x.roundAt + t * 1_000_000_000))))) ∧
    (∃ (s : State),
    s.live ∧ ∃ (p : Fin 8),
    let x := s.mach.link p
    let rest (g : Msg) : List (Msg × Nat) := x.inbox.eraseIdx ((x.inbox.findIdx? fun e => e.1 == g).getD x.inbox.length)
    ∃ (g : Msg) (n : Nat),
    nextMsg s.conf s.mach p 1 = some (g, n) ∧
    let h := helloIn g.body
    let m := s.mach.setLink p { x with inbox := rest g, hello := some h }
    let quiet := h.yielding = false ∧ yields s.conf m = false
    let rebooted := ∃ o, x.hello = some o ∧ o.boot ≠ h.boot
    (x.state = 3 ∨ x.state = 4) ∧ quiet ∧ (¬rebooted)) :=
  ⟨⟨DU, ⟨by decide +kernel, ⟨0, ⟨by decide +kernel, ⟨by decide +kernel, ⟨by decide +kernel, by decide +kernel⟩⟩⟩⟩⟩⟩,
   ⟨ld {state := 4, inbox := [(mg 1 (z 20), 0)]}, ⟨by decide +kernel, ⟨0, ⟨mg 1 (z 20), ⟨0, ⟨by decide +kernel, ⟨by decide +kernel, ⟨by decide +kernel, by decide +kernel⟩⟩⟩⟩⟩⟩⟩⟩⟩

set_option maxRecDepth 100000 in
theorem test_witness_LinksFollowLeasesAndRounds_2 :
    (∃ (s : State),
    s.live ∧ ∃ (p : Fin 8),
    let x := s.mach.link p
    let rest (g : Msg) : List (Msg × Nat) := x.inbox.eraseIdx ((x.inbox.findIdx? fun e => e.1 == g).getD x.inbox.length)
    ∃ (g : Msg) (n : Nat),
    nextMsg s.conf s.mach p 1 = some (g, n) ∧
    let h := helloIn g.body
    let m := s.mach.setLink p { x with inbox := rest g, hello := some h }
    let quiet := h.yielding = false ∧ yields s.conf m = false
    let rebooted := ∃ o, x.hello = some o ∧ o.boot ≠ h.boot
    (x.state = 3 ∨ x.state = 4) ∧ (¬quiet ∨ rebooted)) ∧
    (∃ (s : State),
    s.live ∧ ∃ (p : Fin 8),
    let x := s.mach.link p
    ∃ (g : Msg) (n : Nat) (e : Copy),
    nextMsg s.conf s.mach p 5 = some (g, n) ∧ x.state ≠ 0 ∧ x.copies = [e] ∧ e.msg.seq < 2 ^ 32 ∧ seqAhead e.msg.seq (be g.body 0 4) < 2 ^ 31 ∧ e.strict = none ∧ x.later = [] ∧ e.msg.type ≠ 2 ∧ e.msg.type ≠ 6) :=
  ⟨⟨ld {state := 3, inbox := [(mg 1 (z 20), 0)], hello := some {boot := 5}}, ⟨by decide +kernel, ⟨0, ⟨mg 1 (z 20), ⟨0, ⟨by decide +kernel, ⟨by decide +kernel, by decide +kernel⟩⟩⟩⟩⟩⟩⟩,
   ⟨ld {state := 4, inbox := [(mg 5 (z 16), 0)], copies := [cp (mg 3 (z 24))]}, ⟨by decide +kernel, ⟨0, ⟨mg 5 (z 16), ⟨0, ⟨cp (mg 3 (z 24)), ⟨by decide +kernel, ⟨by decide +kernel, ⟨by decide +kernel, ⟨by decide +kernel, ⟨by decide +kernel, ⟨by decide +kernel, ⟨by decide +kernel, ⟨by decide +kernel, by decide +kernel⟩⟩⟩⟩⟩⟩⟩⟩⟩⟩⟩⟩⟩⟩⟩

set_option maxRecDepth 100000 in
theorem test_witness_LinksFollowLeasesAndRounds_3 :
    (∃ (s : State),
    s.live ∧ ∃ (p : Fin 8),
    let x := s.mach.link p
    ∃ (g : Msg) (n : Nat) (e : Copy),
    nextMsg s.conf s.mach p 5 = some (g, n) ∧ x.state ≠ 0 ∧ x.copies = [e] ∧ e.msg.seq < 2 ^ 32 ∧ seqAhead e.msg.seq (be g.body 0 4) < 2 ^ 31 ∧ e.strict = none ∧ x.later = [] ∧ (e.msg.type = 2 ∨ e.msg.type = 6)) ∧
    (∃ (s : State),
    s.live ∧ (∃ (p : Fin 8),
    let x := s.mach.link p
    let rest (g : Msg) : List (Msg × Nat) := x.inbox.eraseIdx ((x.inbox.findIdx? fun e => e.1 == g).getD x.inbox.length)
    ∃ (g : Msg) (n : Nat),
    nextMsg s.conf s.mach p 1 = some (g, n) ∧
    let h := helloIn g.body
    let m := s.mach.setLink p { x with inbox := rest g, hello := some h }
    let quiet := h.yielding = false ∧ yields s.conf m = false
    (x.state = 1 ∨ x.state = 5) ∧ quiet) ∧
    ((∀ p < 8, (s.mach.link p).state ≠ 2 ∧ (s.mach.link p).state ≠ 3 ∧ (s.mach.link p).state ≠ 4))) :=
  ⟨⟨ld {state := 4, inbox := [(mg 5 (z 16), 0)], copies := [cp (mg 2 (z 64))]}, ⟨by decide +kernel, ⟨0, ⟨mg 5 (z 16), ⟨0, ⟨cp (mg 2 (z 64)), ⟨by decide +kernel, ⟨by decide +kernel, ⟨by decide +kernel, ⟨by decide +kernel, ⟨by decide +kernel, ⟨by decide +kernel, ⟨by decide +kernel, by decide +kernel⟩⟩⟩⟩⟩⟩⟩⟩⟩⟩⟩⟩⟩,
   ⟨lh 1 (hb sk 0 0 0 ag), ⟨by decide +kernel, ⟨⟨0, ⟨mg 1 (hb sk 0 0 0 ag), ⟨0, ⟨by decide +kernel, ⟨by decide +kernel, by decide +kernel⟩⟩⟩⟩⟩, by decide +kernel⟩⟩⟩⟩

set_option maxRecDepth 100000 in
theorem test_witness_LinksFollowLeasesAndRounds_4 :
    (∃ (s : State),
    s.live ∧ ∃ (p : Fin 8),
    let x := s.mach.link p
    let rest (g : Msg) : List (Msg × Nat) := x.inbox.eraseIdx ((x.inbox.findIdx? fun e => e.1 == g).getD x.inbox.length)
    ∃ (g : Msg) (n : Nat),
    nextMsg s.conf s.mach p 1 = some (g, n) ∧
    let h := helloIn g.body
    let m := s.mach.setLink p { x with inbox := rest g, hello := some h }
    let quiet := h.yielding = false ∧ yields s.conf m = false
    let rebooted := ∃ o, x.hello = some o ∧ o.boot ≠ h.boot
    x.state = 2 ∧ quiet ∧ (¬rebooted)) ∧
    (∃ (s : State),
    s.live ∧ ∃ (p : Fin 8),
    let x := s.mach.link p
    let rest (g : Msg) : List (Msg × Nat) := x.inbox.eraseIdx ((x.inbox.findIdx? fun e => e.1 == g).getD x.inbox.length)
    ∃ (g : Msg) (n : Nat),
    nextMsg s.conf s.mach p 1 = some (g, n) ∧
    let h := helloIn g.body
    let m := s.mach.setLink p { x with inbox := rest g, hello := some h }
    let quiet := h.yielding = false ∧ yields s.conf m = false
    (x.state = 1 ∨ x.state = 5) ∧ (¬quiet)) :=
  ⟨⟨lh 2 (hb (sk+1) vs 0 0 ag), ⟨by decide +kernel, ⟨0, ⟨mg 1 (hb (sk+1) vs 0 0 ag), ⟨0, ⟨by decide +kernel, ⟨by decide +kernel, ⟨by decide +kernel, by decide +kernel⟩⟩⟩⟩⟩⟩⟩⟩,
   ⟨lh 1 (hb sk vs 0 128 ag), ⟨by decide +kernel, ⟨0, ⟨mg 1 (hb sk vs 0 128 ag), ⟨0, ⟨by decide +kernel, ⟨by decide +kernel, by decide +kernel⟩⟩⟩⟩⟩⟩⟩⟩

set_option maxRecDepth 100000 in
theorem test_witness_LinksFollowLeasesAndRounds_5 :
    (∃ (s : State),
    s.live ∧ ∃ (p : Fin 8),
    let x := s.mach.link p
    let rest (g : Msg) : List (Msg × Nat) := x.inbox.eraseIdx ((x.inbox.findIdx? fun e => e.1 == g).getD x.inbox.length)
    ∃ (g : Msg) (n : Nat),
    nextMsg s.conf s.mach p 1 = some (g, n) ∧
    let h := helloIn g.body
    let m := s.mach.setLink p { x with inbox := rest g, hello := some h }
    let quiet := h.yielding = false ∧ yields s.conf m = false
    let rebooted := ∃ o, x.hello = some o ∧ o.boot ≠ h.boot
    x.state = 2 ∧ (¬quiet ∨ rebooted)) ∧
    (∃ (s : State),
    s.live ∧ ∃ (p : Fin 8),
    let x := s.mach.link p
    ∃ (g : Msg) (n : Nat),
    nextMsg s.conf s.mach p 1 = some (g, n) ∧
    let h := helloIn g.body
    let other := ∃ o, x.hello = some o ∧ (o.versions ≠ h.versions ∨ o.ageTick ≠ h.ageTick ∨ o.seedCheck ≠ h.seedCheck ∨ o.boot ≠ h.boot)
    x.state = 6 ∧ (¬other)) :=
  ⟨⟨lh 2 (hb sk vs 0 128 ag), ⟨by decide +kernel, ⟨0, ⟨mg 1 (hb sk vs 0 128 ag), ⟨0, ⟨by decide +kernel, ⟨by decide +kernel, by decide +kernel⟩⟩⟩⟩⟩⟩⟩,
   ⟨lh 6 (hb sk vs 0 0 ag), ⟨by decide +kernel, ⟨0, ⟨mg 1 (hb sk vs 0 0 ag), ⟨0, ⟨by decide +kernel, ⟨by decide +kernel, by decide +kernel⟩⟩⟩⟩⟩⟩⟩⟩

set_option maxRecDepth 100000 in
theorem test_witness_LinksFollowLeasesAndRounds_6 :
    (∃ (s : State),
    s.live ∧ ∃ (p : Fin 8),
    let x := s.mach.link p
    ∃ (g : Msg) (n : Nat),
    nextMsg s.conf s.mach p 1 = some (g, n) ∧
    let h := helloIn g.body
    let other := ∃ o, x.hello = some o ∧ (o.versions ≠ h.versions ∨ o.ageTick ≠ h.ageTick ∨ o.seedCheck ≠ h.seedCheck ∨ o.boot ≠ h.boot)
    x.state = 6 ∧ other) ∧
    (∃ (s : State),
    s.live ∧ ∃ (p : Fin 8),
    let x := s.mach.link p
    ∃ (r : Round),
    x.round = some r ∧ r.pass = 3 ∧ bit r.doneTx 3 = true ∧ bit r.doneRx 3 = true) :=
  ⟨⟨lh 6 (hb sk vs 2 64 ag) (some {}), ⟨by decide +kernel, ⟨0, ⟨mg 1 (hb sk vs 2 64 ag), ⟨0, ⟨by decide +kernel, ⟨by decide +kernel, by decide +kernel⟩⟩⟩⟩⟩⟩⟩,
   ⟨ld {state := 3, round := some r3, hello := some {boot := 5}}, ⟨by decide +kernel, ⟨0, ⟨r3, ⟨by decide +kernel, ⟨by decide +kernel, ⟨by decide +kernel, by decide +kernel⟩⟩⟩⟩⟩⟩⟩⟩

set_option maxRecDepth 100000 in
theorem test_witness_LinksFollowLeasesAndRounds_7 :
    (∃ (s : State),
    s.live ∧ ∃ (p : Fin 8),
    let x := s.mach.link p
    ∃ (g : Msg) (n : Nat),
    nextMsg s.conf s.mach p 7 = some (g, n) ∧ x.state = 2) ∧
    (∃ (s : State),
    s.live ∧ ∃ (p : Fin 8),
    ∃ (g : Msg) (n : Nat),
    nextMsg s.conf s.mach p 7 = some (g, n) ∧ mirrors s.mach p = true) :=
  ⟨⟨ld {state := 2, inbox := [(mg 7 (z 8), 0)]}, ⟨by decide +kernel, ⟨0, ⟨mg 7 (z 8), ⟨0, ⟨by decide +kernel, by decide +kernel⟩⟩⟩⟩⟩⟩,
   ⟨ld {state := 4, inbox := [(mg 7 (z 8), 0)]}, ⟨by decide +kernel, ⟨0, ⟨mg 7 (z 8), ⟨0, ⟨by decide +kernel, by decide +kernel⟩⟩⟩⟩⟩⟩⟩

set_option maxRecDepth 100000 in
theorem test_witness_LinksFollowLeasesAndRounds_8 :
    (∃ (s : State),
    s.live ∧ ∃ (p : Fin 8),
    let x := s.mach.link p
    ∃ (g : Msg) (n : Nat),
    nextMsg s.conf s.mach p 7 = some (g, n) ∧ x.state ≠ 2 ∧ mirrors s.mach p = false) ∧
    (∃ (s : State),
    s.live ∧ ∃ (p : Fin 8),
    let x := s.mach.link p
    let t := s.conf.get duoCtrlDigestPeriod
    t ≠ 0 ∧ x.roundAt + t * 1_000_000_000 ≤ s.mach.up ∧ (x.state ≠ 4 ∨ x.round.isSome = true)) :=
  ⟨⟨ld {state := 1, inbox := [(mg 7 (z 8), 0)]}, ⟨by decide +kernel, ⟨0, ⟨mg 7 (z 8), ⟨0, ⟨by decide +kernel, ⟨by decide +kernel, by decide +kernel⟩⟩⟩⟩⟩⟩⟩,
   ⟨upd (ld {state := 1}) fun m => {m with up := 10^12}, ⟨by decide +kernel, ⟨0, ⟨by decide +kernel, ⟨by decide +kernel, by decide +kernel⟩⟩⟩⟩⟩⟩

set_option maxRecDepth 100000 in
theorem test_witness_LinksFollowLeasesAndRounds_9 :
    ∃ (s : State),
    s.live ∧ ∃ (p : Fin 8),
    let x := s.mach.link p
    let t := s.conf.get duoCtrlDigestPeriod
    t ≠ 0 ∧ x.roundAt + t * 1_000_000_000 ≤ s.mach.up ∧ x.state = 4 ∧ x.round = none :=
  ⟨upd (ld {state := 4}) fun m => {m with up := 10^12}, ⟨by decide +kernel, ⟨0, ⟨by decide +kernel, ⟨by decide +kernel, ⟨by decide +kernel, by decide +kernel⟩⟩⟩⟩⟩⟩

set_option maxRecDepth 100000 in
theorem test_witness_PartnersRecordsAreCarriedOut_1 :
    (∃ (s : State),
    s.live ∧ (∃ (p : Fin 8),
    nextMsg s.conf s.mach p 8 = none) ∧
    (∃ (region : Fin 16),
    let l := Tbl.look [] s.mach.duo.retry region
    let due := l.find? fun e => decide (e.2 ≤ s.mach.up) && openNow s.mach region (admitted s.mach (fhOf s.conf s.mach e.1))
    due = none)) ∧
    (∃ (s : State),
    s.live ∧
    let m₀ := { s.mach with fsl := { s.mach.fsl with nextOrd := s.mach.fsl.nextOrd + 1 } }
    ∃ (p : Fin 8) (g : Msg) (n : Nat),
    nextMsg s.conf s.mach p 2 = some (g, n) ∧ SliceFree s.conf s.mach g.key ∧
    let r := { rebased s.mach g with role := 1, peer := partnerDev s.conf p, unmirrored := false }
    let fh := fhOf s.conf s.mach r.key
    let x := lookupKey s.conf m₀ fh r.key
    ∃ (spot : Option Spot) (m' : Mach) (m : Mach),
    x.1 = none ∧ FindsRoom s.conf s.mach m₀ r.key spot m' ∧
    let y := placeNew s.conf (lookupKey s.conf m' fh r.key).2 (fhSlot fh) spot r
    y = (true, m)) :=
  ⟨⟨DU, ⟨by decide +kernel, ⟨⟨0, by decide +kernel⟩, ⟨0, by decide +kernel⟩⟩⟩⟩,
   ⟨ib (mg 2 img), ⟨by decide +kernel, ⟨0, ⟨mg 2 img, ⟨0, ⟨by decide +kernel, ⟨slice_of (by decide +kernel), ⟨(roomAt (ib (mg 2 img) : State).mach (fhSlot (fhOf (ib (mg 2 img) : State).conf (ib (mg 2 img) : State).mach ({ rebased (ib (mg 2 img) : State).mach (mg 2 img : Msg) with role := 1, peer := partnerDev (ib (mg 2 img) : State).conf (0 : Fin 8), unmirrored := false }).key)) (fhBucket (fhOf (ib (mg 2 img) : State).conf (ib (mg 2 img) : State).mach ({ rebased (ib (mg 2 img) : State).mach (mg 2 img : Msg) with role := 1, peer := partnerDev (ib (mg 2 img) : State).conf (0 : Fin 8), unmirrored := false }).key)) false).map .at, ⟨({ (ib (mg 2 img) : State).mach with fsl := { (ib (mg 2 img) : State).mach.fsl with nextOrd := (ib (mg 2 img) : State).mach.fsl.nextOrd + 1 } }), ⟨_, ⟨by decide +kernel, ⟨finds_of (.inl ⟨by decide +kernel, rfl⟩), pair_of (by decide +kernel)⟩⟩⟩⟩⟩⟩⟩⟩⟩⟩⟩⟩⟩

set_option maxRecDepth 100000 in
theorem test_witness_PartnersRecordsAreCarriedOut_2 :
    (∃ (s : State),
    s.live ∧
    let m₀ := { s.mach with fsl := { s.mach.fsl with nextOrd := s.mach.fsl.nextOrd + 1 } }
    ∃ (p : Fin 8) (g : Msg) (n : Nat),
    nextMsg s.conf s.mach p 2 = some (g, n) ∧ SliceFree s.conf s.mach g.key ∧
    let r := { rebased s.mach g with role := 1, peer := partnerDev s.conf p, unmirrored := false }
    let fh := fhOf s.conf s.mach r.key
    let x := lookupKey s.conf m₀ fh r.key
    ∃ (pl : Spot) (y : Rec),
    x.1 = some (pl, y)) ∧
    (∃ (s : State),
    s.live ∧
    let m₀ := { s.mach with fsl := { s.mach.fsl with nextOrd := s.mach.fsl.nextOrd + 1 } }
    ∃ (p : Fin 8) (g : Msg) (n : Nat),
    nextMsg s.conf s.mach p 3 = some (g, n) ∧ SliceFree s.conf s.mach g.key ∧ bit g.flags 6 = false ∧
    let fh := fhOf s.conf s.mach g.key
    let x := lookupKey s.conf m₀ fh g.key
    x.1 = none) :=
  ⟨⟨ib (mg 2 img) (hd rk DU), ⟨by decide +kernel, ⟨0, ⟨mg 2 img, ⟨0, ⟨by decide +kernel, ⟨slice_of (by decide +kernel), ⟨.at (4 * fhBucket fz), ⟨rk, by decide +kernel⟩⟩⟩⟩⟩⟩⟩⟩⟩,
   ⟨ib (mg 3 (z 24)), ⟨by decide +kernel, ⟨0, ⟨mg 3 (z 24), ⟨0, ⟨by decide +kernel, ⟨slice_of (by decide +kernel), ⟨by decide +kernel, by decide +kernel⟩⟩⟩⟩⟩⟩⟩⟩⟩

set_option maxRecDepth 100000 in
theorem test_witness_PartnersRecordsAreCarriedOut_3 :
    (∃ (s : State),
    s.live ∧
    let m₀ := { s.mach with fsl := { s.mach.fsl with nextOrd := s.mach.fsl.nextOrd + 1 } }
    ∃ (p : Fin 8) (g : Msg) (n : Nat),
    nextMsg s.conf s.mach p 3 = some (g, n) ∧ SliceFree s.conf s.mach g.key ∧ bit g.flags 6 = false ∧
    let fh := fhOf s.conf s.mach g.key
    let x := lookupKey s.conf m₀ fh g.key
    ∃ (pl : Spot) (r : Rec),
    x.1 = some (pl, r)) ∧
    (∃ (s : State),
    s.live ∧
    let m₀ := { s.mach with fsl := { s.mach.fsl with nextOrd := s.mach.fsl.nextOrd + 1 } }
    ∃ (p : Fin 8) (g : Msg) (n : Nat),
    nextMsg s.conf s.mach p 4 = some (g, n) ∧ SliceFree s.conf s.mach g.key ∧
    let fh := fhOf s.conf s.mach g.key
    let x := lookupKey s.conf m₀ fh g.key
    x.1 = none) :=
  ⟨⟨ib (mg 3 (z 24)) (hd rk DU), ⟨by decide +kernel, ⟨0, ⟨mg 3 (z 24), ⟨0, ⟨by decide +kernel, ⟨slice_of (by decide +kernel), ⟨by decide +kernel, ⟨.at (4 * fhBucket fz), ⟨rk, by decide +kernel⟩⟩⟩⟩⟩⟩⟩⟩⟩⟩,
   ⟨ib (mg 4 (z 28)), ⟨by decide +kernel, ⟨0, ⟨mg 4 (z 28), ⟨0, ⟨by decide +kernel, ⟨slice_of (by decide +kernel), by decide +kernel⟩⟩⟩⟩⟩⟩⟩⟩

set_option maxRecDepth 100000 in
theorem test_witness_PartnersRecordsAreCarriedOut_4 :
    (∃ (s : State),
    s.live ∧
    let m₀ := { s.mach with fsl := { s.mach.fsl with nextOrd := s.mach.fsl.nextOrd + 1 } }
    ∃ (p : Fin 8) (g : Msg) (n : Nat),
    nextMsg s.conf s.mach p 4 = some (g, n) ∧ SliceFree s.conf s.mach g.key ∧
    let fh := fhOf s.conf s.mach g.key
    let x := lookupKey s.conf m₀ fh g.key
    ∃ (pl : Spot) (r : Rec),
    x.1 = some (pl, r) ∧ bit g.flags 6 = false) ∧
    (∃ (s : State),
    s.live ∧
    let m₀ := { s.mach with fsl := { s.mach.fsl with nextOrd := s.mach.fsl.nextOrd + 1 } }
    ∃ (p : Fin 8) (g : Msg) (n : Nat) (pl : Spot) (r : Rec),
    nextMsg s.conf s.mach p 6 = some (g, n) ∧ SliceFree s.conf s.mach g.key ∧
    let y := { rebased s.mach g with role := 0, peer := partnerDev s.conf p, unmirrored := false }
    let fh := fhOf s.conf s.mach y.key
    let x := lookupKey s.conf m₀ fh y.key
    x.1 = some (pl, r) ∧ bits g.flags 5 4 = 1) :=
  ⟨⟨ib (mg 4 (z 28)) (hd rk DU), ⟨by decide +kernel, ⟨0, ⟨mg 4 (z 28), ⟨0, ⟨by decide +kernel, ⟨slice_of (by decide +kernel), ⟨.at (4 * fhBucket fz), ⟨rk, ⟨by decide +kernel, by decide +kernel⟩⟩⟩⟩⟩⟩⟩⟩⟩⟩,
   ⟨ib (mg 6 img 0 16) (hd rk DU), ⟨by decide +kernel, ⟨0, ⟨mg 6 img 0 16, ⟨0, ⟨.at (4 * fhBucket fz), ⟨rk, ⟨by decide +kernel, ⟨slice_of (by decide +kernel), ⟨by decide +kernel, by decide +kernel⟩⟩⟩⟩⟩⟩⟩⟩⟩⟩⟩

set_option maxRecDepth 100000 in
theorem test_witness_PartnersRecordsAreCarriedOut_5 :
    (∃ (s : State),
    s.live ∧
    let m₀ := { s.mach with fsl := { s.mach.fsl with nextOrd := s.mach.fsl.nextOrd + 1 } }
    ∃ (p : Fin 8) (g : Msg) (n : Nat) (pl : Spot) (r : Rec),
    nextMsg s.conf s.mach p 6 = some (g, n) ∧ SliceFree s.conf s.mach g.key ∧
    let y := { rebased s.mach g with role := 0, peer := partnerDev s.conf p, unmirrored := false }
    let fh := fhOf s.conf s.mach y.key
    let x := lookupKey s.conf m₀ fh y.key
    x.1 = some (pl, r) ∧ bits g.flags 5 4 = 2) ∧
    (∃ (s : State),
    s.live ∧
    let m₀ := { s.mach with fsl := { s.mach.fsl with nextOrd := s.mach.fsl.nextOrd + 1 } }
    ∃ (p : Fin 8) (g : Msg) (n : Nat) (pl : Spot) (r : Rec),
    nextMsg s.conf s.mach p 6 = some (g, n) ∧ SliceFree s.conf s.mach g.key ∧
    let y := { rebased s.mach g with role := 0, peer := partnerDev s.conf p, unmirrored := false }
    let fh := fhOf s.conf s.mach y.key
    let x := lookupKey s.conf m₀ fh y.key
    x.1 = some (pl, r) ∧ bits g.flags 5 4 = 3) :=
  ⟨⟨ib (mg 6 img 0 32) (hd rk DU), ⟨by decide +kernel, ⟨0, ⟨mg 6 img 0 32, ⟨0, ⟨.at (4 * fhBucket fz), ⟨rk, ⟨by decide +kernel, ⟨slice_of (by decide +kernel), ⟨by decide +kernel, by decide +kernel⟩⟩⟩⟩⟩⟩⟩⟩⟩⟩,
   ⟨ib (mg 6 img 0 48) (hd rk DU), ⟨by decide +kernel, ⟨0, ⟨mg 6 img 0 48, ⟨0, ⟨.at (4 * fhBucket fz), ⟨rk, ⟨by decide +kernel, ⟨slice_of (by decide +kernel), ⟨by decide +kernel, by decide +kernel⟩⟩⟩⟩⟩⟩⟩⟩⟩⟩⟩

set_option maxRecDepth 100000 in
theorem test_witness_PartnersRecordsAreCarriedOut_6 :
    (∃ (s : State),
    s.live ∧ ∃ (p : Fin 8) (g : Msg) (n : Nat),
    nextMsg s.conf s.mach p 8 = some (g, n) ∧
    let e := be g.body 0 2
    let y := putBits (putBits (putBits (putBits (s.mach.entry e) 62 62 (b2n (bit (byteAt g.body 8) 7))) 59 42 (bits (be g.body 2 3) 17 0)) 41 24
      (bits (be g.body 5 3) 17 0)) 22 20 p
    entRole s.conf (s.mach.entry e) = .neither ∧ entRole s.conf y = .neither) ∧
    (∃ (s : State),
    s.live ∧ ∃ (p : Fin 8) (g : Msg) (n : Nat),
    nextMsg s.conf s.mach p 8 = some (g, n) ∧
    let e := be g.body 0 2
    let y := putBits (putBits (putBits (putBits (s.mach.entry e) 62 62 (b2n (bit (byteAt g.body 8) 7))) 59 42 (bits (be g.body 2 3) 17 0)) 41 24
      (bits (be g.body 5 3) 17 0)) 22 20 p
    (entRole s.conf (s.mach.entry e) ≠ .neither ∨ entRole s.conf y ≠ .neither)) :=
  ⟨⟨ib (mg 8 (z 16)), ⟨by decide +kernel, ⟨0, ⟨mg 8 (z 16), ⟨0, ⟨by decide +kernel, ⟨by decide +kernel, by decide +kernel⟩⟩⟩⟩⟩⟩⟩,
   ⟨ib (mg 8 (splice (z 16) 2 (beBytes 3 9))), ⟨by decide +kernel, ⟨0, ⟨mg 8 (splice (z 16) 2 (beBytes 3 9)), ⟨0, ⟨by decide +kernel, by decide +kernel⟩⟩⟩⟩⟩⟩⟩

set_option maxRecDepth 100000 in
theorem test_witness_PartnersRecordsAreCarriedOut_7 :
    (∃ (s : State),
    s.live ∧ ∃ (p : Fin 8) (e : Copy) (fh : Nat) (t : Nat),
    let x := s.mach.link p
    x.copies = [e] ∧ e.strict = some fh ∧ e.first = some t ∧ t + 1000 * s.conf.get duoSyncCfgStrictWait ≤ s.mach.up ∧ e.msg.seq < 2 ^ 32) ∧
    (∃ (s : State),
    s.live ∧ ∃ (region : Fin 16),
    let l := Tbl.look [] s.mach.duo.retry region
    let due := l.find? fun e => decide (e.2 ≤ s.mach.up) && openNow s.mach region (admitted s.mach (fhOf s.conf s.mach e.1))
    ∃ (key : List Byte) (t : Nat),
    due = some (key, t) ∧
    let m := { s.mach with duo := { s.mach.duo with retry := Tbl.upd [] s.mach.duo.retry region fun l => l.erase (key, t) } }
    let x := lookupKey s.conf m (fhOf s.conf m key) key
    x.1 = none) :=
  ⟨⟨upd (lk {state := 4, copies := [{cp (mg 2 img) with strict := some 3, first := some 0}]} DC) (fun m => {m with up := 10^12}), ⟨by decide +kernel, ⟨0, ⟨{cp (mg 2 img) with strict := some 3, first := some 0}, ⟨3, ⟨0, ⟨by decide +kernel, ⟨by decide +kernel, ⟨by decide +kernel, ⟨by decide +kernel, by decide +kernel⟩⟩⟩⟩⟩⟩⟩⟩⟩⟩,
   ⟨du DU fun d => {d with retry := [(0, [(rk.key, 0)])]}, ⟨by decide +kernel, ⟨0, ⟨rk.key, ⟨0, ⟨by decide +kernel, by decide +kernel⟩⟩⟩⟩⟩⟩⟩

set_option maxRecDepth 100000 in
theorem test_witness_PartnersRecordsAreCarriedOut_8 :
    (∃ (s : State),
    s.live ∧ ∃ (region : Fin 16),
    let l := Tbl.look [] s.mach.duo.retry region
    let due := l.find? fun e => decide (e.2 ≤ s.mach.up) && openNow s.mach region (admitted s.mach (fhOf s.conf s.mach e.1))
    ∃ (key : List Byte) (t : Nat),
    due = some (key, t) ∧
    let m := { s.mach with duo := { s.mach.duo with retry := Tbl.upd [] s.mach.duo.retry region fun l => l.erase (key, t) } }
    let x := lookupKey s.conf m (fhOf s.conf m key) key
    ∃ (pl : Spot) (r : Rec) (p : Nat),
    x.1 = some (pl, r) ∧ recPartner s.conf x.2 r = some p ∧ mirrors x.2 p = true ∧ r.unmirrored = true ∧ (x.2.link p).unacked < 65536 ∧ (x.2.link p).later = []) ∧
    (∃ (s : State),
    s.live ∧
    let m₀ := { s.mach with fsl := { s.mach.fsl with nextOrd := s.mach.fsl.nextOrd + 1 } }
    ∃ (p : Fin 8) (g : Msg) (n : Nat),
    nextMsg s.conf s.mach p 2 = some (g, n) ∧ SliceFree s.conf s.mach g.key ∧
    let r := { rebased s.mach g with role := 1, peer := partnerDev s.conf p, unmirrored := false }
    let fh := fhOf s.conf s.mach r.key
    let x := lookupKey s.conf m₀ fh r.key
    ∃ (spot : Option Spot) (m' : Mach) (m : Mach),
    x.1 = none ∧ FindsRoom s.conf s.mach m₀ r.key spot m' ∧
    let y := placeNew s.conf (lookupKey s.conf m' fh r.key).2 (fhSlot fh) spot r
    y = (false, m)) :=
  ⟨⟨du (hd {rk with peer := 7, unmirrored := true} DU) fun d => {d with retry := [(0, [(rk.key, 0)])]}, ⟨by decide +kernel, ⟨0, ⟨rk.key, ⟨0, ⟨by decide +kernel, ⟨.at (4 * fhBucket fz), ⟨{rk with peer := 7, unmirrored := true}, ⟨0, ⟨by decide +kernel, ⟨by decide +kernel, ⟨by decide +kernel, ⟨by decide +kernel, ⟨by decide +kernel, by decide +kernel⟩⟩⟩⟩⟩⟩⟩⟩⟩⟩⟩⟩⟩⟩,
   ⟨withCfg (ib (mg 2 img) (fs full fun f => {f with stash := [(fhSlot fz, List.replicate 4096 {rk with key := z 15 ++ [1]})]})) fstMaxKicksKicks 0 0 0 0, ⟨by decide +kernel, ⟨0, ⟨mg 2 img, ⟨0, ⟨by decide +kernel, ⟨slice_of (by decide +kernel), ⟨stashSpot (withCfg (ib (mg 2 img) (fs full fun f => {f with stash := [(fhSlot fz, List.replicate 4096 {rk with key := z 15 ++ [1]})]})) fstMaxKicksKicks 0 0 0 0 : State).mach (fhSlot (fhOf (withCfg (ib (mg 2 img) (fs full fun f => {f with stash := [(fhSlot fz, List.replicate 4096 {rk with key := z 15 ++ [1]})]})) fstMaxKicksKicks 0 0 0 0 : State).conf (withCfg (ib (mg 2 img) (fs full fun f => {f with stash := [(fhSlot fz, List.replicate 4096 {rk with key := z 15 ++ [1]})]})) fstMaxKicksKicks 0 0 0 0 : State).mach ({ rebased (withCfg (ib (mg 2 img) (fs full fun f => {f with stash := [(fhSlot fz, List.replicate 4096 {rk with key := z 15 ++ [1]})]})) fstMaxKicksKicks 0 0 0 0 : State).mach (mg 2 img : Msg) with role := 1, peer := partnerDev (withCfg (ib (mg 2 img) (fs full fun f => {f with stash := [(fhSlot fz, List.replicate 4096 {rk with key := z 15 ++ [1]})]})) fstMaxKicksKicks 0 0 0 0 : State).conf (0 : Fin 8), unmirrored := false }).key)), ⟨({ (withCfg (ib (mg 2 img) (fs full fun f => {f with stash := [(fhSlot fz, List.replicate 4096 {rk with key := z 15 ++ [1]})]})) fstMaxKicksKicks 0 0 0 0 : State).mach with fsl := { (withCfg (ib (mg 2 img) (fs full fun f => {f with stash := [(fhSlot fz, List.replicate 4096 {rk with key := z 15 ++ [1]})]})) fstMaxKicksKicks 0 0 0 0 : State).mach.fsl with nextOrd := (withCfg (ib (mg 2 img) (fs full fun f => {f with stash := [(fhSlot fz, List.replicate 4096 {rk with key := z 15 ++ [1]})]})) fstMaxKicksKicks 0 0 0 0 : State).mach.fsl.nextOrd + 1 } }).takesPlace, ⟨_, ⟨by decide +kernel, ⟨finds_of (.inr (.inr ⟨by decide +kernel, rfl⟩)), pair_of (by decide +kernel)⟩⟩⟩⟩⟩⟩⟩⟩⟩⟩⟩⟩⟩
end Duilo

/-! ### Policy cores -/
namespace Cores
def w0 : WItem := {wq := 0, src := 1}
def rn (s : State) (x : Core) := upd s fun m => m.setCore 0 x
def C0 := base
def C1 := rn base {state := .running}
def C2 := upd (withCfg (withCfg C1 tskWqCfgEn 1 0 0 0) tskWqCfgGroups 0xFFFF 0 0 0) fun m => m.setWq 0 {items := [w0], next := 1}
def C3 := tk (rn (withCfg base tskWqCfgEn 1 0 0 0) {state := .running, slots := [(0, {item := w0, since := 0})], bufs := [5]}) fun t => {t with link := [(0, none)]}
def C4 := tk C3 fun t => {t with outs := List.replicate 4096 {out := .inject 0 [] 0 [], core := 0, item := w0, last := true}, link := (List.range 8192).map fun i => (i, none)}
def oe : OutEntry := {out := .drop, core := 0, item := w0, last := true}
def oe2 : OutEntry := {out := .post 3 w0, core := 0, item := w0, last := false}
def C5 := tk C3 fun t => {t with outs := List.replicate 8192 {out := .inject 0 [] 0 [], core := 0, item := w0, last := true}, link := (List.range 65536).map fun i => (i, none)}
def C6 := rn C3 {state := .running, slots := [(0, {item := w0, since := 0})], stall := some (.done 0 .drop)}

set_option maxRecDepth 100000 in
theorem test_witness_CoresWorkThroughTheirPort_1 :
    (∃ (s : State) (core : Fin 128),
    s.live ∧ coreRuns s.mach core = false) ∧
    (∃ (s : State) (core : Fin 128),
    s.live ∧
    let x := s.mach.core core
    let may (acc : CoreAcc) (off : Nat) : Prop := portOpen s.mach core acc off = true
    (may .load 0x000 ∧
    let chosen := chooseQueue s.conf s.mach (s.conf.get tskCoreCtrlGroup core)
    (x.state ≠ .running ∨ chosen = none ∨ (lowest? 4 fun i => (Tbl.find x.slots i).isNone) = none)) ∧
    ((∃ (v : BitVec 64),
    may .store 0x008) ∧
    ((∃ (slot : Fin 4) (u : BitVec 60) (held : List Byte),
    may .store (0x200 + 8 * slot.val) ∧ Tbl.find x.slots slot = none) ∧
    ((may .load 0x300 ∧ ∃ (b : Nat) (bs : List Nat),
    s.mach.freeBufs 1 = b :: bs) ∧
    ((∃ (v : BitVec 64),
    may .store 0x308 ∧
    let b := v.toNat % 8192
    Tbl.find s.mach.tsk.link b = none) ∧
    (∃ (b : List Byte) (held : List Byte),
    may .store 0x440 ∧
    let w := (stagedItem b).1
    let bs := stagedBufs x b
    let bad := (stagedItem b).2 = false ∨ s.conf.on tskWqCfgEn w.wq = false ∨ bs.length ≠ bits (be b 20 2) 15 13
    bad)))))) ∧
    (∃ (s : State) (core : Fin 128),
    s.live ∧
    let x := s.mach.core core
    let may (acc : CoreAcc) (off : Nat) : Prop := portOpen s.mach core acc off = true
    (may .load 0x000 ∧
    let chosen := chooseQueue s.conf s.mach (s.conf.get tskCoreCtrlGroup core)
    ∃ (slot : Nat) (q : Nat) (w : WItem),
    x.state = .running ∧ chosen = some q ∧ (lowest? 4 fun i => (Tbl.find x.slots i).isNone) = some slot ∧ nextItem s.conf s.mach q = some w) ∧
    (∃ (b : List Byte) (held : List Byte),
    may .store 0x440 ∧
    let w := (stagedItem b).1
    let bs := stagedBufs x b
    let bad := (stagedItem b).2 = false ∨ s.conf.on tskWqCfgEn w.wq = false ∨ bs.length ≠ bits (be b 20 2) 15 13
    (¬bad) ∧ s.mach.outsFull = false ∧ x.oldest = none)) ∧
    (∃ (s : State) (core : Fin 128),
    s.live ∧
    let x := s.mach.core core
    let may (acc : CoreAcc) (off : Nat) : Prop := portOpen s.mach core acc off = true
    (∃ (slot : Fin 4) (u : BitVec 60) (held : List Byte),
    may .store (0x200 + 8 * slot.val) ∧ ∃ (e : InService),
    Tbl.find x.slots slot = some e) ∧
    ((∃ (v : BitVec 64),
    may .store 0x308 ∧
    let b := v.toNat % 8192
    (Tbl.find s.mach.tsk.link b).isSome = true) ∧
    (∃ (b : List Byte) (held : List Byte),
    may .store 0x440 ∧
    let w := (stagedItem b).1
    let bs := stagedBufs x b
    let bad := (stagedItem b).2 = false ∨ s.conf.on tskWqCfgEn w.wq = false ∨ bs.length ≠ bits (be b 20 2) 15 13
    (¬bad) ∧ s.mach.outsFull = false ∧ ∃ (e : InService),
    x.oldest = some e))) ∧
    (∃ (s : State) (core : Fin 128),
    s.live ∧
    let may (acc : CoreAcc) (off : Nat) : Prop := portOpen s.mach core acc off = true
    may .load 0x300 ∧ s.mach.freeBufs 1 = []) ∧
    (∃ (s : State) (core : Fin 128),
    s.live ∧
    let x := s.mach.core core
    let may (acc : CoreAcc) (off : Nat) : Prop := portOpen s.mach core acc off = true
    ∃ (slot : Fin 4) (u : BitVec 60) (held : List Byte),
    may .store (0x200 + 8 * slot.val) ∧
    let v := u.toNat
    let chain := x.chain (bits v 46 34) (max 1 (ceilDiv (bits v 31 16) 2048))
    bit v 47 = true ∧ chain = []) :=
  ⟨⟨C0, ⟨0, ⟨by decide +kernel, by decide +kernel⟩⟩⟩,
   ⟨C1, ⟨0, ⟨by decide +kernel, ⟨⟨by decide +kernel, by decide +kernel⟩, ⟨⟨0, by decide +kernel⟩, ⟨⟨0, ⟨0, ⟨z 4, ⟨by decide +kernel, by decide +kernel⟩⟩⟩⟩, ⟨⟨by decide +kernel, ⟨(((C1 : State).mach.freeBufs 1).headD 0), ⟨[], by decide +kernel⟩⟩⟩, ⟨⟨0, ⟨by decide +kernel, by decide +kernel⟩⟩, ⟨z 64, ⟨z 4, ⟨by decide +kernel, by decide +kernel⟩⟩⟩⟩⟩⟩⟩⟩⟩⟩⟩,
   ⟨C2, ⟨0, ⟨by decide +kernel, ⟨⟨by decide +kernel, ⟨0, ⟨0, ⟨w0, ⟨by decide +kernel, ⟨by decide +kernel, ⟨by decide +kernel, by decide +kernel⟩⟩⟩⟩⟩⟩⟩, ⟨z 64, ⟨z 4, ⟨by decide +kernel, ⟨by decide +kernel, ⟨by decide +kernel, by decide +kernel⟩⟩⟩⟩⟩⟩⟩⟩⟩,
   ⟨C3, ⟨0, ⟨by decide +kernel, ⟨⟨0, ⟨0, ⟨z 4, ⟨by decide +kernel, ⟨{item := w0, since := 0}, by decide +kernel⟩⟩⟩⟩⟩, ⟨⟨0, ⟨by decide +kernel, by decide +kernel⟩⟩, ⟨z 64, ⟨z 4, ⟨by decide +kernel, ⟨by decide +kernel, ⟨by decide +kernel, ⟨{item := w0, since := 0}, by decide +kernel⟩⟩⟩⟩⟩⟩⟩⟩⟩⟩⟩,
   ⟨C4, ⟨0, ⟨by decide +kernel, ⟨by decide +kernel, no_bufs rfl⟩⟩⟩⟩,
   ⟨C3, ⟨0, ⟨by decide +kernel, ⟨0, ⟨BitVec.ofNat 60 (2^47), ⟨z 4, ⟨by decide +kernel, ⟨by decide +kernel, by decide +kernel⟩⟩⟩⟩⟩⟩⟩⟩⟩

set_option maxRecDepth 100000 in
theorem test_witness_CoresWorkThroughTheirPort_2 :
    (∃ (s : State) (core : Fin 128),
    s.live ∧
    let x := s.mach.core core
    let may (acc : CoreAcc) (off : Nat) : Prop := portOpen s.mach core acc off = true
    ∃ (b : List Byte) (held : List Byte),
    may .store 0x440 ∧
    let w := (stagedItem b).1
    let bs := stagedBufs x b
    let bad := (stagedItem b).2 = false ∨ s.conf.on tskWqCfgEn w.wq = false ∨ bs.length ≠ bits (be b 20 2) 15 13
    (¬bad) ∧ s.mach.outsFull = true) ∧
    (∃ (s : State) (core : Fin 128),
    s.live ∧
    let x := s.mach.core core
    let may (acc : CoreAcc) (off : Nat) : Prop := portOpen s.mach core acc off = true
    ∃ (slot : Fin 4) (u : BitVec 60) (held : List Byte),
    may .store (0x200 + 8 * slot.val) ∧
    let v := u.toNat
    let chain := x.chain (bits v 46 34) (max 1 (ceilDiv (bits v 31 16) 2048))
    ∃ (e : InService),
    Tbl.find x.slots slot = some e ∧ s.mach.outsFull = false ∧ bit v 47 = true ∧ chain ≠ []) ∧
    (∃ (s : State) (core : Fin 128),
    s.live ∧
    let x := s.mach.core core
    let may (acc : CoreAcc) (off : Nat) : Prop := portOpen s.mach core acc off = true
    ∃ (slot : Fin 4) (u : BitVec 60) (held : List Byte),
    may .store (0x200 + 8 * slot.val) ∧ ∃ (e : InService),
    Tbl.find x.slots slot = some e ∧ s.mach.outsFull = true) :=
  ⟨⟨C5, ⟨0, ⟨by decide +kernel, ⟨z 64, ⟨z 4, ⟨by decide +kernel, ⟨by decide +kernel, by decide +kernel⟩⟩⟩⟩⟩⟩⟩,
   ⟨C3, ⟨0, ⟨by decide +kernel, ⟨0, ⟨BitVec.ofNat 60 (2^47 + 5 * 2^34), ⟨z 4, ⟨by decide +kernel, ⟨{item := w0, since := 0}, ⟨by decide +kernel, ⟨by decide +kernel, ⟨by decide +kernel, by decide +kernel⟩⟩⟩⟩⟩⟩⟩⟩⟩⟩⟩,
   ⟨C5, ⟨0, ⟨by decide +kernel, ⟨0, ⟨0, ⟨z 4, ⟨by decide +kernel, ⟨{item := w0, since := 0}, ⟨by decide +kernel, by decide +kernel⟩⟩⟩⟩⟩⟩⟩⟩⟩⟩

set_option maxRecDepth 100000 in
theorem test_witness_ItemsEnterServiceAndLeaveIt_1 :
    (∃ (s : State),
    s.live ∧ (∃ (core : Fin 128) (opc : Fin 128) (q : Cmd),
    let full := 64 ≤ (s.mach.tsk.cmds.filter fun e => clusterOf e.core == clusterOf core.val).length
    (full ∨ queueOpenTo s.mach core = false)) ∧
    ((∃ (core : Fin 128),
    let x := s.mach.core core
    (x.state ≠ .stopping ∨ x.slots ≠ [] ∨ x.stall ≠ none)) ∧
    ((s.mach.tsk.ageIn = []) ∧
    ((∃ (r : Fin 16384),
    Tbl.look [] s.mach.tsk.hostIn r = []) ∧
    ((∃ (n : Fin 128),
    Tbl.look [] s.mach.tsk.postIn n = []) ∧
    ((s.mach.tsk.outs = [] ∧ s.mach.stalled = []) ∧
    (∃ (core : Fin 128) (slot : Fin 4),
    Tbl.find (s.mach.core core).slots slot = none))))))) ∧
    (∃ (s : State),
    s.live ∧ ∃ (core : Fin 128) (opc : Fin 128) (q : Cmd),
    let full := 64 ≤ (s.mach.tsk.cmds.filter fun e => clusterOf e.core == clusterOf core.val).length
    (¬full) ∧ queueOpenTo s.mach core = true) ∧
    (∃ (s : State),
    s.live ∧ ∃ (core : Fin 128) (slot : Fin 4),
    let lim := s.conf.get tskCtrlSvcTimeout
    ∃ (e : InService),
    Tbl.find (s.mach.core core).slots slot = some e ∧ (lim = 0 ∨ s.mach.up - e.since ≤ lim * 1000)) ∧
    (∃ (s : State),
    s.live ∧ ∃ (core : Fin 128) (slot : Fin 4),
    let lim := s.conf.get tskCtrlSvcTimeout
    ∃ (e : InService),
    Tbl.find (s.mach.core core).slots slot = some e ∧ lim ≠ 0 ∧ lim * 1000 < s.mach.up - e.since) ∧
    (∃ (s : State),
    s.live ∧ ∃ (core : Fin 128),
    let x := s.mach.core core
    x.state = .stopping ∧ x.slots = [] ∧ x.stall = none) ∧
    (∃ (s : State),
    s.live ∧ (∃ (w : WItem) (ws : List WItem),
    s.mach.tsk.ageIn = w :: ws ∧ canAdmit s.conf s.mach w = false) ∧
    (∃ (e : OutEntry),
    s.mach.tsk.outs = [e] ∧ s.mach.stalled = [] ∧ releasable s.conf s.mach [] e = true ∧ e.out = .drop ∧ e.last = true)) :=
  ⟨⟨base, ⟨by decide +kernel, ⟨⟨0, ⟨5, ⟨{}, by decide +kernel⟩⟩⟩, ⟨⟨0, by decide +kernel⟩, ⟨by decide +kernel, ⟨⟨0, by decide +kernel⟩, ⟨⟨0, by decide +kernel⟩, ⟨⟨by decide +kernel, by decide +kernel⟩, ⟨0, ⟨0, by decide +kernel⟩⟩⟩⟩⟩⟩⟩⟩⟩⟩,
   ⟨C1, ⟨by decide +kernel, ⟨0, ⟨5, ⟨{}, ⟨by decide +kernel, by decide +kernel⟩⟩⟩⟩⟩⟩,
   ⟨C3, ⟨by decide +kernel, ⟨0, ⟨0, ⟨{item := w0, since := 0}, ⟨by decide +kernel, by decide +kernel⟩⟩⟩⟩⟩⟩,
   ⟨withCfg (upd C3 fun m => {m with up := 10^12}) tskCtrlSvcTimeout 5 0 0 0, ⟨by decide +kernel, ⟨0, ⟨0, ⟨{item := w0, since := 0}, ⟨by decide +kernel, ⟨by decide +kernel, by decide +kernel⟩⟩⟩⟩⟩⟩⟩,
   ⟨rn base {state := .stopping}, ⟨by decide +kernel, ⟨0, ⟨by decide +kernel, ⟨by decide +kernel, by decide +kernel⟩⟩⟩⟩⟩,
   ⟨tk base fun t => {t with ageIn := [w0], outs := [oe]}, ⟨by decide +kernel, ⟨⟨w0, ⟨[], ⟨by decide +kernel, by decide +kernel⟩⟩⟩, ⟨oe, ⟨by decide +kernel, ⟨by decide +kernel, ⟨by decide +kernel, ⟨by decide +kernel, by decide +kernel⟩⟩⟩⟩⟩⟩⟩⟩⟩

set_option maxRecDepth 100000 in
theorem test_witness_ItemsEnterServiceAndLeaveIt_2 :
    (∃ (s : State),
    s.live ∧ ∃ (w : WItem) (ws : List WItem),
    s.mach.tsk.ageIn = w :: ws ∧ canAdmit s.conf s.mach w = true) ∧
    (∃ (s : State),
    s.live ∧ ∃ (e : OutEntry),
    s.mach.tsk.outs = [e] ∧ s.mach.stalled = [] ∧ releasable s.conf s.mach [] e = true ∧ ∃ (core : Nat) (w : WItem),
    e.out = .post core w ∧ e.last = false) ∧
    (∃ (s : State),
    s.live ∧ ∃ (n : Nat) (ns : List Nat),
    s.mach.tsk.outs = [] ∧ s.mach.stalled = n :: ns) :=
  ⟨⟨tk (withCfg C2 tskCtrlEnable 1 0 0 0) fun t => {t with ageIn := [w0], outs := [oe2]}, ⟨by decide +kernel, ⟨w0, ⟨[], ⟨by decide +kernel, by decide +kernel⟩⟩⟩⟩⟩,
   ⟨tk (withCfg (withCfg C2 tskCtrlEnable 1 0 0 0) tskWqCfgMode 1 0 0 0) fun t => {t with ageIn := [w0], outs := [oe2]}, ⟨by decide +kernel, ⟨oe2, ⟨by decide +kernel, ⟨by decide +kernel, ⟨by decide +kernel, ⟨3, ⟨w0, ⟨by decide +kernel, by decide +kernel⟩⟩⟩⟩⟩⟩⟩⟩⟩,
   ⟨C6, ⟨by decide +kernel, ⟨0, ⟨[], ⟨by decide +kernel, by decide +kernel⟩⟩⟩⟩⟩⟩
end Cores

/-! ### Time of day -/
namespace Time


set_option maxRecDepth 100000 in
theorem test_witness_TimeOfDayFollowsItsEdgesAndSteps_1 :
    (∃ (s : State),
    s.live ∧
    let t := s.mach.tod
    let mode := s.conf.get todCtrlPpsMode
    (∃ (phase : Fin 16),
    mode = 0) ∧
    ((∃ (cap : Nat) (phase : Nat),
    s.conf.on todPpsCfgEvt = false) ∧
    ((let late := 6_000_000_000 ≤ 4 * s.mach.up - t.lastEdge.getD 0
    (¬late)) ∧
    ((let n := (ppsSecond s.conf s.mach).toNat
    let may := s.conf.on todCtrlPpsOutEn = true ∧ s.mach.glb.outputs = true ∧ s.mach.flt.fatal = false ∧ n ∉ t.ppsDone
    (¬may)) ∧
    ((t.ppsEnd ≤ s.mach.up) ∧
    (((∀ e, t.stepAt = some e → s.mach.todNs < e)) ∧
    (∃ (die : Fin 8) (skew : Int),
    2 * 65536 < skew.natAbs))))))) ∧
    (∃ (s : State),
    s.live ∧
    let t := s.mach.tod
    let mode := s.conf.get todCtrlPpsMode
    ∃ (phase : Fin 16),
    let glitch := ∃ e, t.lastEdge = some e ∧ 4 * s.mach.up + phase - e < 2_000_000_000
    mode ≠ 0 ∧ (¬glitch) ∧ mode ≠ 2) ∧
    (∃ (s : State),
    s.live ∧
    let t := s.mach.tod
    let mode := s.conf.get todCtrlPpsMode
    (∃ (phase : Fin 16),
    let glitch := ∃ e, t.lastEdge = some e ∧ 4 * s.mach.up + phase - e < 2_000_000_000
    let cap := s.mach.todFrac + phase * 16384
    let m := ppsCapture s.conf s.mach cap phase
    mode = 2 ∧ (¬glitch) ∧
    let e := ppsOffset s.conf cap
    (e.natAbs ≤ s.conf.get todPpsWindowWindow * 65536 ∨ m.tod.aligned = false) ∧ m.tod.stepAt = none) ∧
    (∃ (die : Fin 8) (skew : Int),
    skew.natAbs ≤ 2 * 65536 ∧ die ≠ 7)) ∧
    (∃ (s : State),
    s.live ∧
    let t := s.mach.tod
    let mode := s.conf.get todCtrlPpsMode
    ∃ (phase : Fin 16),
    let glitch := ∃ e, t.lastEdge = some e ∧ 4 * s.mach.up + phase - e < 2_000_000_000
    let cap := s.mach.todFrac + phase * 16384
    let m := ppsCapture s.conf s.mach cap phase
    mode = 2 ∧ (¬glitch) ∧
    let e := ppsOffset s.conf cap
    s.conf.get todPpsWindowWindow * 65536 < e.natAbs ∧ m.tod.aligned = true) ∧
    (∃ (s : State),
    s.live ∧
    let t := s.mach.tod
    let mode := s.conf.get todCtrlPpsMode
    (∃ (phase : Fin 16),
    let glitch := ∃ e, t.lastEdge = some e ∧ 4 * s.mach.up + phase - e < 2_000_000_000
    mode ≠ 0 ∧ glitch) ∧
    ((let n := (ppsSecond s.conf s.mach).toNat
    let may := s.conf.on todCtrlPpsOutEn = true ∧ s.mach.glb.outputs = true ∧ s.mach.flt.fatal = false ∧ n ∉ t.ppsDone
    may) ∧
    (s.mach.up < t.ppsEnd))) ∧
    (∃ (s : State),
    s.live ∧
    let t := s.mach.tod
    (let late := 6_000_000_000 ≤ 4 * s.mach.up - t.lastEdge.getD 0
    late ∧ t.lossRaised = false) ∧
    (∃ (e : Nat),
    t.stepAt = some e ∧ e ≤ s.mach.todNs ∧
    let v := match t.stepTo with
      | some w => w * 2 ^ 32
      | none => ((t.now : Int) + t.stepBy * 2 ^ 32).toNat
    let m := { s.mach with tod := { t with now := v, stepAt := none, stepTo := none, stepBy := 0 } }
    let m := if ppsSecond s.conf s.mach < ppsSecond s.conf m then { m with tod := { m.tod with ppsDone := (ppsSecond s.conf m).toNat :: t.ppsDone } } else m
    let m := s.mach.sch.gates.foldl (fun m g => gateShow (gateChange m g.1) g.1) m
    (m.glb.turn ≠ .scheduled ∨ m.todNs < m.glb.boundary))) :=
  ⟨⟨base, ⟨by decide +kernel, ⟨⟨0, by decide +kernel⟩, ⟨⟨5, ⟨0, by decide +kernel⟩⟩, ⟨by decide +kernel, ⟨by decide +kernel, ⟨by decide +kernel, ⟨by decide +kernel, ⟨0, ⟨200000, by decide +kernel⟩⟩⟩⟩⟩⟩⟩⟩⟩⟩,
   ⟨withCfg base todCtrlPpsMode 1 0 0 0, ⟨by decide +kernel, ⟨0, ⟨by decide +kernel, ⟨by decide +kernel, by decide +kernel⟩⟩⟩⟩⟩,
   ⟨withCfg base todCtrlPpsMode 2 0 0 0, ⟨by decide +kernel, ⟨⟨0, ⟨by decide +kernel, ⟨by decide +kernel, ⟨by decide +kernel, by decide +kernel⟩⟩⟩⟩, ⟨0, ⟨3, ⟨by decide +kernel, by decide +kernel⟩⟩⟩⟩⟩⟩,
   ⟨td (withCfg base todCtrlPpsMode 2 0 0 0) fun t => {t with now := 2^48 * 300000000, aligned := true}, ⟨by decide +kernel, ⟨0, ⟨by decide +kernel, ⟨by decide +kernel, ⟨by decide +kernel, by decide +kernel⟩⟩⟩⟩⟩⟩,
   ⟨td (withCfg (withCfg R todCtrlPpsMode 1 0 0 0) todCtrlPpsOutEn 1 0 0 0) fun t => {t with lastEdge := some 0, stepAt := some 10, ppsEnd := 5}, ⟨by decide +kernel, ⟨⟨0, ⟨by decide +kernel, by decide +kernel⟩⟩, ⟨by decide +kernel, by decide +kernel⟩⟩⟩⟩,
   ⟨upd (td (withCfg (withCfg R todCtrlPpsMode 1 0 0 0) todCtrlPpsOutEn 1 0 0 0) fun t => {t with now := 2^60, lastEdge := some 0, stepAt := some 10, ppsEnd := 5}) fun m => {m with up := 10^10}, ⟨by decide +kernel, ⟨⟨by decide +kernel, by decide +kernel⟩, ⟨10, ⟨by decide +kernel, ⟨by decide +kernel, by decide +kernel⟩⟩⟩⟩⟩⟩⟩

set_option maxRecDepth 100000 in
theorem test_witness_TimeOfDayFollowsItsEdgesAndSteps_2 :
    (∃ (s : State),
    s.live ∧
    let t := s.mach.tod
    let late := 6_000_000_000 ≤ 4 * s.mach.up - t.lastEdge.getD 0
    late ∧ t.lossRaised = true) ∧
    (∃ (s : State),
    s.live ∧ ∃ (die : Fin 8) (skew : Int),
    skew.natAbs ≤ 2 * 65536 ∧ die = 7) :=
  ⟨⟨upd (td (withCfg (withCfg R todCtrlPpsMode 1 0 0 0) todCtrlPpsOutEn 1 0 0 0) fun t => {t with now := 2^60, lastEdge := some 0, lossRaised := true, stepBy := 2^16 * 10^10, stepAt := some 10, ppsEnd := 5}) fun m => {m with up := 10^10}, ⟨by decide +kernel, ⟨by decide +kernel, by decide +kernel⟩⟩⟩,
   ⟨base, ⟨by decide +kernel, ⟨7, ⟨3, ⟨by decide +kernel, by decide +kernel⟩⟩⟩⟩⟩⟩
end Time

/-! ### Turns, faults and leave -/
namespace Faults
def S1 := gl base fun g => { g with sealSt := .checking }
def F1 := fl base fun f => {f with waiting := [{ src := 17, sev := 2, time := 3}], restore := some (1, 3), repair := [(0, 5, false)], cls := [(1, { active := true, sev := 2, expire := 0})] }
def F2 := pw F1 fun p => { p with grants := [{op := 9, unit := 0, cls := 0, pips := 3, since := 0}] }
def F3 := gl (fl F2 fun f => { f with waiting := [{ src := 17, sev := 4, time := 3}], edgeAt := 0, period := 1, health := false }) fun g => {g with stage := .sealed}
def F4 := upd F3 fun m => {m with up := 1000000, flt := {m.flt with waiting := [{ src := 17, sev := 1, time := 3}]} }
def F5 := upd F4 fun m => {m with flt := {m.flt with health := true, cls := [] } }
def F6 := upd F4 fun m => {m with flt := {m.flt with lowSince := some 7, cls := [] } }
def F7 := withStat (withStat F1 fltFirstSrcValid 1 0 0 0) fltFirstSrcSrc 17 0 0 0
def SP := upd (withCfg (withCfg (withCfg (withCfg (withCfg S1 fwdSubBaseBase 1 0 0 0) fstNatBaseBase 0x10000000 0 0 0) hbmPageCtrlPdBase 48 0 0 0) fstSaveBaseHiBase 2 0 0 0) tskMemBaseBase 10 0 0 0) fun m => { m with fsl := {m.fsl with ready := true}}
def W1 := tm (pw (withCfg (withCfg base tmgTallyCfgEn 1 0 0 0) hbmPageCtrlTallyEn 1 0 0 0) fun p => { p with grants := [gr 4, gr 5] }) fun t => t
def W2 := upd (tm (pw W1 fun p => { p with grants := [gr 4], queue := [{ gr 3 with posted := true}], alert := true, dumpAt := [(0,10)], dumpBusy := [(0, 9000000000)]}) fun t => {t with tally := [(0,true),(2,true)]}) fun m => {m with up := 8000000000, sec := {m.sec with gen := some (1,3)}}
def W3 := pw W2 fun p => { p with grants := [], queue := [], dumpBusy := [(1, 9000000000)]}
def WD := pw W3 fun p => {p with dumpBusy := []}
def rp0 : Report := {src := (List.range 1024).find? (fun s => sourceDie s == leaveDie 3 0) |>.getD 0, sev := 1, time := 0}

set_option maxRecDepth 100000 in
theorem test_witness_SealTurnAndRestartEnd_1 :
    (∃ (s : State),
    s.live ∧
    let g := s.mach.glb
    (g.sealSt ≠ .checking) ∧
    (((g.turn ≠ .scheduled ∨ s.mach.todNs < g.boundary)) ∧
    (((g.turn ≠ .draining ∨ oldUsers s.mach = true)) ∧
    ((g.copying = false) ∧
    (g.restarting = false))))) ∧
    (∃ (s : State),
    s.live ∧
    let g := s.mach.glb
    let c := s.conf
    g.sealSt = .checking ∧ g.stage = .waitHost ∧ earlierWaits s.mach = false ∧ ∃ (k : Nat) (w : Nat),
    firstFailure c s.mach sealCodes = some (k, w) ∧ k ≠ 6) ∧
    (∃ (s : State),
    s.live ∧
    let g := s.mach.glb
    g.sealSt = .checking ∧ g.stage ≠ .waitHost) ∧
    (∃ (s : State),
    s.live ∧
    let g := s.mach.glb
    g.sealSt = .checking ∧ g.stage = .waitHost ∧ earlierWaits s.mach = true) ∧
    (∃ (s : State),
    s.live ∧
    let g := s.mach.glb
    (g.turn = .draining ∧ oldUsers s.mach = false) ∧
    ((g.copying = true) ∧
    (g.restarting = true ∧ s.mach.sec.rngSeeded = false))) ∧
    (∃ (s : State),
    s.live ∧
    let g := s.mach.glb
    g.turn = .scheduled ∧ g.boundary ≤ s.mach.todNs) :=
  ⟨⟨base, ⟨by decide +kernel, ⟨by decide +kernel, ⟨by decide +kernel, ⟨by decide +kernel, ⟨by decide +kernel, by decide +kernel⟩⟩⟩⟩⟩⟩,
   ⟨S1, ⟨by decide +kernel, ⟨by decide +kernel, ⟨by decide +kernel, ⟨by decide +kernel, ⟨16, ⟨0, ⟨by decide +kernel, by decide +kernel⟩⟩⟩⟩⟩⟩⟩⟩,
   ⟨gl S1 fun g => { g with stage := .failed }, ⟨by decide +kernel, ⟨by decide +kernel, by decide +kernel⟩⟩⟩,
   ⟨pw S1 fun g => { g with waitCmds := [(0, .attest, .ring 1, 0, {})] }, ⟨by decide +kernel, ⟨by decide +kernel, ⟨by decide +kernel, by decide +kernel⟩⟩⟩⟩,
   ⟨gl base fun g => { g with turn := .draining, copying := true, restarting := true }, ⟨by decide +kernel, ⟨⟨by decide +kernel, by decide +kernel⟩, ⟨by decide +kernel, ⟨by decide +kernel, by decide +kernel⟩⟩⟩⟩⟩,
   ⟨gl base fun g => { g with turn := .scheduled, boundary := 0 }, ⟨by decide +kernel, ⟨by decide +kernel, by decide +kernel⟩⟩⟩⟩

set_option maxRecDepth 100000 in
theorem test_witness_SealTurnAndRestartEnd_2 :
    (∃ (s : State),
    s.live ∧
    let g := s.mach.glb
    let c := s.conf
    g.sealSt = .checking ∧ g.stage = .waitHost ∧ earlierWaits s.mach = false ∧ firstFailure c s.mach sealCodes = none) ∧
    (∃ (s : State),
    s.live ∧
    let g := s.mach.glb
    let c := s.conf
    g.sealSt = .checking ∧ g.stage = .waitHost ∧ earlierWaits s.mach = false ∧ ∃ (w : Nat),
    firstFailure c s.mach sealCodes = some (6, w)) ∧
    (∃ (s : State),
    s.live ∧
    let g := s.mach.glb
    let c := s.conf
    g.restarting = true ∧
    let m := { s.mach with glb := { g with restarting := false, stage := .waitHost } }
    s.mach.sec.rngSeeded = true ∧ ∃ (t : Nat × Nat) (a : LeaveAns) (m' : Mach),
    m.sec.gen = none ∧ treeDue m = some t ∧ m.holdsLeave opTree t.1 = false ∧ m.waitsLeave opTree t.1 = false ∧ askLeave c m opTree t.1 = (a, m')) :=
  ⟨⟨SP, ⟨by decide +kernel, ⟨by decide +kernel, ⟨by decide +kernel, ⟨by decide +kernel, no_failure rfl (by decide +kernel)⟩⟩⟩⟩⟩,
   ⟨gl (withCfg (withCfg SP prtPortCfgEn 1 0 0 0) prtPortCfgSpeed 2 0 0 0) (fun g => {g with sealBy := 0}), ⟨by decide +kernel, ⟨by decide +kernel, ⟨by decide +kernel, ⟨by decide +kernel, ⟨0, by decide +kernel⟩⟩⟩⟩⟩⟩,
   ⟨upd (gl base fun g => {g with restarting := true}) (fun m => {m with sec := {m.sec with rngSeeded := true}}), ⟨by decide +kernel, ⟨by decide +kernel, ⟨by decide +kernel, ⟨_, ⟨(askLeave ((upd (gl base fun g => {g with restarting := true}) (fun m => {m with sec := {m.sec with rngSeeded := true}}) : State).conf) ({ (upd (gl base fun g => {g with restarting := true}) (fun m => {m with sec := {m.sec with rngSeeded := true}}) : State).mach with glb := { ((upd (gl base fun g => {g with restarting := true}) (fun m => {m with sec := {m.sec with rngSeeded := true}}) : State).mach.glb) with restarting := false, stage := .waitHost } }) opTree ((treeDue ({ (upd (gl base fun g => {g with restarting := true}) (fun m => {m with sec := {m.sec with rngSeeded := true}}) : State).mach with glb := { ((upd (gl base fun g => {g with restarting := true}) (fun m => {m with sec := {m.sec with rngSeeded := true}}) : State).mach.glb) with restarting := false, stage := .waitHost } })).getD (3, 0) : Nat × Nat).1).1, ⟨_, ⟨by decide +kernel, ⟨some_getD (3, 0) (by decide +kernel), ⟨by decide +kernel, ⟨by decide +kernel, pair_of (by decide +kernel)⟩⟩⟩⟩⟩⟩⟩⟩⟩⟩⟩⟩

set_option maxRecDepth 100000 in
theorem test_witness_FaultsAndHealthFollowReports_1 :
    (∃ (s : State),
    s.live ∧
    let c := s.conf
    let m := s.mach
    let f := m.flt
    (f.waiting = [] ∧ m.stOn fltInjectArmed = false) ∧
    ((∃ (link : Fin 18) (mod : Fin 2),
    (link.val < 7) ∧
    (link.val < 7)) ∧
    ((∃ (k : Fin 64),
    let x := m.class k
    (x.active = false ∨ m.up < x.expire ∨ x.sev = 4)) ∧
    ((∃ (pass : Bool),
    (f.restore = none ∨ m.holdsLeave opSelfTest 0 = false)) ∧
    ((let due := healthMode c m = 1 ∧ f.lowSince = none ∧ f.edgeAt + 5_000 * f.period ≤ m.up
    (¬due)) ∧
    ((f.lowSince = none) ∧
    (∃ (stack : Fin 6),
    (Tbl.find f.repair stack).map (·.2) ≠ some false))))))) ∧
    (∃ (s : State),
    s.live ∧
    let m := s.mach
    let f := m.flt
    (∃ (r : Report),
    f.waiting = [r] ∧ r.inj = false ∧
    let cls := r.src / 16
    let k := m.class cls
    let esc := k.unacked && decide (r.sev < 4)
    let sev := if esc = true then r.sev + 1 else r.sev
    sev ≤ DEGRADED ∧ (¬(sev = CORRECTED ∧ k.active = true))) ∧
    ((∃ (link : Fin 18) (mod : Fin 2),
    (7 ≤ link.val) ∧
    (link.val = 7)) ∧
    ((∃ (k : Fin 64),
    let x := m.class k
    x.active = true ∧ x.expire ≤ m.up ∧ x.sev ≠ 4) ∧
    (∃ (stack : Fin 6),
    ∃ (pc : Nat),
    Tbl.find f.repair stack = some (pc, false))))) ∧
    (∃ (s : State),
    s.live ∧
    let m := s.mach
    let f := m.flt
    (∃ (link : Fin 18) (mod : Fin 2),
    (link.val = 8 ∨ link.val = 9)) ∧
    (∃ (kind : Nat) (inst : Nat),
    f.restore = some (kind, inst) ∧ m.holdsLeave opSelfTest 0 = true)) ∧
    (∃ (s : State),
    s.live ∧
    let m := s.mach
    let f := m.flt
    ∃ (r : Report),
    f.waiting = [r] ∧ r.inj = false ∧
    let cls := r.src / 16
    let k := m.class cls
    let esc := k.unacked && decide (r.sev < 4)
    let sev := if esc = true then r.sev + 1 else r.sev
    sev = FATAL ∧ m.glb.turn ≠ .scheduled) ∧
    (∃ (s : State),
    s.live ∧
    let c := s.conf
    let m := s.mach
    let f := m.flt
    (∃ (r : Report),
    f.waiting = [r] ∧ r.inj = false ∧
    let cls := r.src / 16
    let k := m.class cls
    let esc := k.unacked && decide (r.sev < 4)
    let sev := if esc = true then r.sev + 1 else r.sev
    sev = CORRECTED ∧ k.active = true) ∧
    ((∃ (link : Fin 18) (mod : Fin 2),
    10 ≤ link.val ∧ Tbl.look 0 f.ioModules (link.val - 10) = 0) ∧
    (let due := healthMode c m = 1 ∧ f.lowSince = none ∧ f.edgeAt + 5_000 * f.period ≤ m.up
    due ∧ f.health = false))) ∧
    (∃ (s : State),
    s.live ∧
    let c := s.conf
    let m := s.mach
    let f := m.flt
    let due := healthMode c m = 1 ∧ f.lowSince = none ∧ f.edgeAt + 5_000 * f.period ≤ m.up
    due ∧ f.health = true) :=
  ⟨⟨base, ⟨by decide +kernel, ⟨⟨by decide +kernel, by decide +kernel⟩, ⟨⟨0, ⟨0, ⟨by decide +kernel, by decide +kernel⟩⟩⟩, ⟨⟨0, by decide +kernel⟩, ⟨⟨true, by decide +kernel⟩, ⟨by decide +kernel, ⟨by decide +kernel, ⟨0, by decide +kernel⟩⟩⟩⟩⟩⟩⟩⟩⟩,
   ⟨F1, ⟨by decide +kernel, ⟨⟨{ src := 17, sev := 2, time := 3}, ⟨by decide +kernel, ⟨by decide +kernel, ⟨by decide +kernel, by decide +kernel⟩⟩⟩⟩, ⟨⟨7, ⟨1, ⟨by decide +kernel, by decide +kernel⟩⟩⟩, ⟨⟨1, ⟨by decide +kernel, ⟨by decide +kernel, by decide +kernel⟩⟩⟩, ⟨0, ⟨5, by decide +kernel⟩⟩⟩⟩⟩⟩⟩,
   ⟨F2, ⟨by decide +kernel, ⟨⟨8, ⟨1, by decide +kernel⟩⟩, ⟨1, ⟨3, ⟨by decide +kernel, by decide +kernel⟩⟩⟩⟩⟩⟩,
   ⟨F3, ⟨by decide +kernel, ⟨{ src := 17, sev := 4, time := 3}, ⟨by decide +kernel, ⟨by decide +kernel, ⟨by decide +kernel, by decide +kernel⟩⟩⟩⟩⟩⟩,
   ⟨F4, ⟨by decide +kernel, ⟨⟨{ src := 17, sev := 1, time := 3}, ⟨by decide +kernel, ⟨by decide +kernel, ⟨by decide +kernel, by decide +kernel⟩⟩⟩⟩, ⟨⟨17, ⟨1, ⟨by decide +kernel, by decide +kernel⟩⟩⟩, ⟨by decide +kernel, by decide +kernel⟩⟩⟩⟩⟩,
   ⟨F5, ⟨by decide +kernel, ⟨by decide +kernel, by decide +kernel⟩⟩⟩⟩

set_option maxRecDepth 100000 in
theorem test_witness_FaultsAndHealthFollowReports_2 :
    (∃ (s : State),
    s.live ∧
    let c := s.conf
    let m := s.mach
    let f := m.flt
    (∃ (link : Fin 18) (mod : Fin 2),
    10 ≤ link.val ∧ Tbl.look 0 f.ioModules (link.val - 10) = 2 - mod.val) ∧
    (∃ (t : Nat),
    f.lowSince = some t ∧
    let may := healthMode c m = 1 ∧ healthHeld c m = false ∧ t + 20_000 * f.period ≤ m.up
    may)) ∧
    (∃ (s : State),
    s.live ∧
    let c := s.conf
    let m := s.mach
    let f := m.flt
    ∃ (r : Report),
    f.waiting = [r] ∧ r.inj = false ∧
    let cls := r.src / 16
    let k := m.class cls
    let esc := k.unacked && decide (r.sev < 4)
    let sev := if esc = true then r.sev + 1 else r.sev
    let taken := ({ m with flt := { f with waiting := [] } }.inc32 fltClassCntCount cls).setClass cls
      { active := true, unacked := true, sev := max k.sev sev, expire := m.up + 1_000_000 * c.get fltQuietTimeQuiet }
    taken.stOn fltFirstSrcValid = true ∧ taken.stOn fltFirstInjInj = false) ∧
    (∃ (s : State),
    s.live ∧
    let c := s.conf
    let m := s.mach
    let f := m.flt
    ∃ (t : Nat),
    f.lowSince = some t ∧
    let may := healthMode c m = 1 ∧ healthHeld c m = false ∧ t + 20_000 * f.period ≤ m.up
    (¬may)) ∧
    (∃ (s : State),
    s.live ∧
    let c := s.conf
    let m := s.mach
    let f := m.flt
    f.waiting = [] ∧ m.stOn fltInjectArmed = false ∧ ∃ (inj : List (BitVec 32 × BitVec 32)),
    healthMode c m = 1 ∧ (healthHeld c m = false ∨ f.lowSince.isSome = true)) :=
  ⟨⟨fl F6 fun f => {f with ioModules := [(7, 1)]}, ⟨by decide +kernel, ⟨⟨17, ⟨1, ⟨by decide +kernel, by decide +kernel⟩⟩⟩, ⟨7, ⟨by decide +kernel, by decide +kernel⟩⟩⟩⟩⟩,
   ⟨F7, ⟨by decide +kernel, ⟨{ src := 17, sev := 2, time := 3}, ⟨by decide +kernel, ⟨by decide +kernel, ⟨by decide +kernel, by decide +kernel⟩⟩⟩⟩⟩⟩,
   ⟨fl F6 fun f => {f with lowSince := some 999999}, ⟨by decide +kernel, ⟨999999, ⟨by decide +kernel, by decide +kernel⟩⟩⟩⟩,
   ⟨R, ⟨by decide +kernel, ⟨by decide +kernel, ⟨by decide +kernel, ⟨[], ⟨by decide +kernel, by decide +kernel⟩⟩⟩⟩⟩⟩⟩

set_option maxRecDepth 100000 in
theorem test_witness_LeaveIsAskedForHeldAndReleased_1 :
    (∃ (s : State),
    s.live ∧
    let c := s.conf
    let m := s.mach
    (∃ t,
    m.sec.gen = some t) ∧
    ((∃ (die : Fin 2),
    (c.on tmgTallyCfgEn die = false ∨ Tbl.look false m.tmg.tally die = true)) ∧
    ((∃ (die : Fin 2),
    Tbl.look false m.tmg.tally die = true ∧ dieCells m die = [] ∧ cellsFree (m.setSt tmgTallyStatSuspects 0 die) die = (m.setSt tmgTallyStatSuspects 0 die).bankFree die) ∧
    (((c.on hbmPageCtrlTallyEn = false ∨ Tbl.look false m.tmg.tally 2 = true)) ∧
    ((Tbl.look false m.tmg.tally 2 = true ∧ m.tmg.pages = [] ∧ pagesFree m = allocPages m) ∧
    ((∃ (op : Fin 12) (unit : Nat),
    let q : LeaveReq := { op := op, unit := unit, cls := c.get pwrOpClass op, pips := c.get pwrOpPips op, since := m.up }
    (m.holdsLeave op unit = false ∧ m.waitsLeave op unit = false ∧ recoveryOp op = false ∧
    let behind := reportsWait m (leaveDie op unit) = true ∨ asksWait m (leaveDie op unit) = true
    (¬behind) ∧ c.on pwrOpEn op = true ∧ q.pips ≤ pwrRoom c m 0 ∧ (m.pwr.queue.length < 64) ∧
    (m.pwr.queue = [] ∧
    let fits := m.pwr.alert = false ∧ (q.pips : Int) ≤ pwrRoom c m m.pipsHeld
    (¬fits))) ∧
    ((∀ g ∈ m.pwr.grants, ¬(g.op = op.val ∧ g.unit = unit)))) ∧
    ((m.pwr.queue = []) ∧
    ((m.pwr.asks = []) ∧
    ((leaveLapsed c m = []) ∧
    ((∃ (stack : Fin 6),
    let due := (Tbl.find m.pwr.scrubAt stack).getD scrubInterval
    m.up < due) ∧
    (∃ (set : Fin 16),
    ∃ (t : Nat),
    Tbl.find m.pwr.dumpAt set = some t ∧ t ≤ m.up ∧ 100 ≤ c.get pmuDumpPeriodPeriod set ∧
    let m1 := releaseLeave c (dropLeave (m.inc32 pmuDumpSeqSeq set) opDump set) opDump set
    let m2 := { m1 with pwr := { m1.pwr with dumpAt := Tbl.ins m1.pwr.dumpAt set (t + 1000 * c.get pmuDumpPeriodPeriod set) } }
    Tbl.look 0 m2.pwr.dumpBusy set ≤ m2.up ∧ (dumpDies c set).any (upwardFull m2) = false))))))))))) ∧
    (∃ (s : State),
    s.live ∧
    let m := s.mach
    ∃ (stack : Fin 6),
    let due := (Tbl.find m.pwr.scrubAt stack).getD scrubInterval
    let busy := m.holdsLeave opScrub stack = true ∨ m.waitsLeave opScrub stack = true
    due ≤ m.up ∧ busy) ∧
    (∃ (s : State),
    s.live ∧
    let m := s.mach
    ∃ (stack : Fin 6),
    let due := (Tbl.find m.pwr.scrubAt stack).getD scrubInterval
    let busy := m.holdsLeave opScrub stack = true ∨ m.waitsLeave opScrub stack = true
    due ≤ m.up ∧ (¬busy)) ∧
    (∃ (s : State),
    s.live ∧
    let c := s.conf
    let m := s.mach
    (m.sec.gen = none) ∧
    ((∃ (u : Fin 3),
    let op := tallyOp u
    let due := tallyDue c m u
    tallyEn c u = true ∧ Tbl.look false m.tmg.tally u = false ∧ m.holdsLeave op.1 op.2 = false ∧ (m.waitsLeave op.1 op.2 = true ∨ m.up < due)) ∧
    ((∃ (die : Fin 2),
    Tbl.look false m.tmg.tally die = false) ∧
    ((Tbl.look false m.tmg.tally 2 = false) ∧
    ((∃ (op : Fin 12) (unit : Nat),
    let q : LeaveReq := { op := op, unit := unit, cls := c.get pwrOpClass op, pips := c.get pwrOpPips op, since := m.up }
    m.holdsLeave op unit = false ∧ m.waitsLeave op unit = false ∧ recoveryOp op = false ∧
    let behind := reportsWait m (leaveDie op unit) = true ∨ asksWait m (leaveDie op unit) = true
    (¬behind) ∧ c.on pwrOpEn op = true ∧ q.pips ≤ pwrRoom c m 0 ∧ m.pwr.queue = [] ∧
    let fits := m.pwr.alert = false ∧ (q.pips : Int) ≤ pwrRoom c m m.pipsHeld
    fits) ∧
    (∃ (set : Fin 16),
    m.up < (Tbl.find m.pwr.dumpAt set).getD (m.up + 1))))))) ∧
    (∃ (s : State),
    s.live ∧
    let c := s.conf
    let m := s.mach
    (∃ (die : Fin 2),
    c.on tmgTallyCfgEn die = true ∧ Tbl.look false m.tmg.tally die = false ∧ m.holdsLeave opCellTally die = true ∧ heldHeads m = []) ∧
    (c.on hbmPageCtrlTallyEn = true ∧ Tbl.look false m.tmg.tally 2 = false ∧ m.holdsLeave opPageTally 0 = true ∧ m.tmg.queues = [])) ∧
    (∃ (s : State),
    s.live ∧
    let c := s.conf
    let m := s.mach
    (∃ (op : Fin 12) (unit : Nat),
    (m.holdsLeave op unit = true ∨ m.waitsLeave op unit = true)) ∧
    ((∃ q,
    m.pwr.queue = [q] ∧
    let fits := m.pwr.alert = false ∧ (q.pips : Int) ≤ pwrRoom c m m.pipsHeld
    (¬fits) ∧ q.posted = true) ∧
    (∃ (set : Fin 16),
    ∃ (t : Nat),
    Tbl.find m.pwr.dumpAt set = some t ∧ t ≤ m.up ∧ 100 ≤ c.get pmuDumpPeriodPeriod set ∧
    let m1 := releaseLeave c (dropLeave (m.inc32 pmuDumpSeqSeq set) opDump set) opDump set
    let m2 := { m1 with pwr := { m1.pwr with dumpAt := Tbl.ins m1.pwr.dumpAt set (t + 1000 * c.get pmuDumpPeriodPeriod set) } }
    m2.up < Tbl.look 0 m2.pwr.dumpBusy set))) :=
  ⟨⟨pw W3 (fun p => {p with scrubAt := [(0, 10^14)]}), ⟨by decide +kernel, ⟨⟨(1, 3), by decide +kernel⟩, ⟨⟨0, by decide +kernel⟩, ⟨⟨0, ⟨by decide +kernel, ⟨by decide +kernel, by decide +kernel⟩⟩⟩, ⟨by decide +kernel, ⟨⟨by decide +kernel, ⟨by decide +kernel, by decide +kernel⟩⟩, ⟨⟨5, ⟨0, ⟨⟨by decide +kernel, ⟨by decide +kernel, ⟨by decide +kernel, ⟨by decide +kernel, ⟨by decide +kernel, ⟨by decide +kernel, ⟨by decide +kernel, ⟨by decide +kernel, by decide +kernel⟩⟩⟩⟩⟩⟩⟩⟩, by decide +kernel⟩⟩⟩, ⟨by decide +kernel, ⟨by decide +kernel, ⟨by decide +kernel, ⟨⟨0, by decide +kernel⟩, ⟨0, ⟨10, ⟨by decide +kernel, ⟨by decide +kernel, ⟨by decide +kernel, ⟨by decide +kernel, by decide +kernel⟩⟩⟩⟩⟩⟩⟩⟩⟩⟩⟩⟩⟩⟩⟩⟩⟩⟩,
   ⟨pw W3 (fun p => {p with scrubAt := [(0, 5)], grants := [gr 3]}), ⟨by decide +kernel, ⟨0, ⟨by decide +kernel, by decide +kernel⟩⟩⟩⟩,
   ⟨pw W3 (fun p => {p with scrubAt := [(0, 5)], grants := []}), ⟨by decide +kernel, ⟨0, ⟨by decide +kernel, by decide +kernel⟩⟩⟩⟩,
   ⟨base, ⟨by decide +kernel, ⟨by decide +kernel, ⟨⟨0, ⟨by decide +kernel, ⟨by decide +kernel, ⟨by decide +kernel, by decide +kernel⟩⟩⟩⟩, ⟨⟨0, by decide +kernel⟩, ⟨by decide +kernel, ⟨⟨2, ⟨0, ⟨by decide +kernel, ⟨by decide +kernel, ⟨by decide +kernel, ⟨by decide +kernel, ⟨by decide +kernel, ⟨by decide +kernel, ⟨by decide +kernel, by decide +kernel⟩⟩⟩⟩⟩⟩⟩⟩⟩, ⟨0, by decide +kernel⟩⟩⟩⟩⟩⟩⟩⟩,
   ⟨W1, ⟨by decide +kernel, ⟨⟨0, ⟨by decide +kernel, ⟨by decide +kernel, ⟨by decide +kernel, by decide +kernel⟩⟩⟩⟩, ⟨by decide +kernel, ⟨by decide +kernel, ⟨by decide +kernel, by decide +kernel⟩⟩⟩⟩⟩⟩,
   ⟨W2, ⟨by decide +kernel, ⟨⟨4, ⟨0, by decide +kernel⟩⟩, ⟨⟨{gr 3 with posted := true}, ⟨by decide +kernel, ⟨by decide +kernel, by decide +kernel⟩⟩⟩, ⟨0, ⟨10, ⟨by decide +kernel, ⟨by decide +kernel, ⟨by decide +kernel, by decide +kernel⟩⟩⟩⟩⟩⟩⟩⟩⟩⟩

set_option maxRecDepth 100000 in
theorem test_witness_LeaveIsAskedForHeldAndReleased_2 :
    (∃ (s : State),
    s.live ∧
    let c := s.conf
    let m := s.mach
    ∃ (op : Fin 12) (unit : Nat),
    m.holdsLeave op unit = false ∧ m.waitsLeave op unit = false ∧ recoveryOp op = false ∧
    let behind := reportsWait m (leaveDie op unit) = true ∨ asksWait m (leaveDie op unit) = true
    (¬behind) ∧ c.on pwrOpEn op = false) ∧
    (∃ (s : State),
    s.live ∧
    let c := s.conf
    let m := s.mach
    ∃ (op : Fin 12) (unit : Nat),
    let q : LeaveReq := { op := op, unit := unit, cls := c.get pwrOpClass op, pips := c.get pwrOpPips op, since := m.up }
    m.holdsLeave op unit = false ∧ m.waitsLeave op unit = false ∧ recoveryOp op = false ∧
    let behind := reportsWait m (leaveDie op unit) = true ∨ asksWait m (leaveDie op unit) = true
    (¬behind) ∧ c.on pwrOpEn op = true ∧ pwrRoom c m 0 < q.pips) ∧
    (∃ (s : State),
    s.live ∧
    let m := s.mach
    ∃ (op : Fin 12) (unit : Nat),
    ∃ g,
    m.pwr.grants = [g] ∧ g.op = op.val ∧ g.unit = unit ∧ m.pwr.queue = []) ∧
    (∃ (s : State),
    s.live ∧
    let c := s.conf
    let m := s.mach
    ∃ q,
    m.pwr.queue = [q] ∧ c.on pwrOpEn q.op = true ∧ c.get pwrCtrlDeferMax * 1_000_000 < m.up - q.since) ∧
    (∃ (s : State),
    s.live ∧
    let c := s.conf
    let m := s.mach
    ∃ q,
    m.pwr.queue = [q] ∧ c.on pwrOpEn q.op = false) ∧
    (∃ (s : State),
    s.live ∧
    let m := s.mach
    ∃ (op : Fin 12) (unit : Nat),
    m.holdsLeave op unit = false ∧ m.waitsLeave op unit = false ∧ recoveryOp op = false ∧
    let behind := reportsWait m (leaveDie op unit) = true ∨ asksWait m (leaveDie op unit) = true
    behind) :=
  ⟨⟨pw (withCfg W3 pwrOpEn 0 3 0 0) fun p => {p with dumpBusy := [(0, 9000000000)]}, ⟨by decide +kernel, ⟨3, ⟨0, ⟨by decide +kernel, ⟨by decide +kernel, ⟨by decide +kernel, ⟨by decide +kernel, by decide +kernel⟩⟩⟩⟩⟩⟩⟩⟩,
   ⟨pw (withCfg W3 pwrOpPips 4000 3 0 0) fun p => {p with base := 4000, grants := [gr 3], queue := [gr 4]}, ⟨by decide +kernel, ⟨5, ⟨0, ⟨by decide +kernel, ⟨by decide +kernel, ⟨by decide +kernel, ⟨by decide +kernel, ⟨by decide +kernel, by decide +kernel⟩⟩⟩⟩⟩⟩⟩⟩⟩,
   ⟨pw (withCfg W3 pwrOpPips 4000 3 0 0) fun p => {p with base := 4000, grants := [gr 3]}, ⟨by decide +kernel, ⟨3, ⟨0, ⟨gr 3, ⟨by decide +kernel, ⟨by decide +kernel, ⟨by decide +kernel, by decide +kernel⟩⟩⟩⟩⟩⟩⟩⟩,
   ⟨pw (withCfg W3 pwrCtrlDeferMax 1 0 0 0) fun p => {p with base := 4000, grants := [], queue := [gr 4]}, ⟨by decide +kernel, ⟨gr 4, ⟨by decide +kernel, ⟨by decide +kernel, by decide +kernel⟩⟩⟩⟩⟩,
   ⟨pw (withCfg W3 pwrOpEn 0 4 0 0) fun p => {p with queue := [gr 4]}, ⟨by decide +kernel, ⟨gr 4, ⟨by decide +kernel, by decide +kernel⟩⟩⟩⟩,
   ⟨fl WD fun f => {f with waiting := (List.range 31).map fun k => {src := 16 * k, sev := 1, time := 0, detail := 0}}, ⟨by decide +kernel, ⟨5, ⟨0, ⟨by decide +kernel, ⟨by decide +kernel, ⟨by decide +kernel, by decide +kernel⟩⟩⟩⟩⟩⟩⟩⟩

set_option maxRecDepth 100000 in
theorem test_witness_LeaveIsAskedForHeldAndReleased_3 :
    (∃ (s : State),
    s.live ∧
    let c := s.conf
    let m := s.mach
    ∃ (u : Fin 3),
    let op := tallyOp u
    let due := tallyDue c m u
    tallyEn c u = true ∧ Tbl.look false m.tmg.tally u = false ∧ m.holdsLeave op.1 op.2 = false ∧ m.waitsLeave op.1 op.2 = false ∧ due ≤ m.up ∧ ∃ (a : LeaveAns) (m' : Mach),
    askLeave c { m with tmg := { m.tmg with tallyAt := Tbl.ins m.tmg.tallyAt u (due + tallyPeriod c u) } } op.1 op.2 = (a, m')) ∧
    (∃ (s : State),
    s.live ∧
    let c := s.conf
    let m := s.mach
    ∃ (set : Fin 16),
    ∃ (t : Nat),
    Tbl.find m.pwr.dumpAt set = some t ∧ t ≤ m.up ∧ 100 ≤ c.get pmuDumpPeriodPeriod set ∧
    let m1 := releaseLeave c (dropLeave (m.inc32 pmuDumpSeqSeq set) opDump set) opDump set
    let m2 := { m1 with pwr := { m1.pwr with dumpAt := Tbl.ins m1.pwr.dumpAt set (t + 1000 * c.get pmuDumpPeriodPeriod set) } }
    Tbl.look 0 m2.pwr.dumpBusy set ≤ m2.up ∧ (dumpDies c set).any (upwardFull m2) = true) ∧
    (∃ (s : State),
    s.live ∧
    let c := s.conf
    let m := s.mach
    ∃ (op : Fin 12) (unit : Nat),
    let q : LeaveReq := { op := op, unit := unit, cls := c.get pwrOpClass op, pips := c.get pwrOpPips op, since := m.up }
    m.holdsLeave op unit = false ∧ m.waitsLeave op unit = false ∧ recoveryOp op = false ∧
    let behind := reportsWait m (leaveDie op unit) = true ∨ asksWait m (leaveDie op unit) = true
    (¬behind) ∧ c.on pwrOpEn op = true ∧ q.pips ≤ pwrRoom c m 0 ∧ 64 ≤ m.pwr.queue.length) ∧
    (∃ (s : State),
    s.live ∧
    let c := s.conf
    let m := s.mach
    ∃ q,
    m.pwr.queue = [q] ∧
    let fits := m.pwr.alert = false ∧ (q.pips : Int) ≤ pwrRoom c m m.pipsHeld
    fits) ∧
    (∃ (s : State),
    s.live ∧
    let c := s.conf
    let m := s.mach
    ∃ q,
    m.pwr.queue = [q] ∧
    let fits := m.pwr.alert = false ∧ (q.pips : Int) ≤ pwrRoom c m m.pipsHeld
    fits ∧ ∃ (t : Nat × Nat),
    m.sec.gen = none ∧ treeDue m = some t ∧ q.op = opTree ∧ q.unit = t.1) ∧
    (∃ (s : State),
    s.live ∧
    let m := s.mach
    ∃ (op : CmdOp) (o : Origin) (slot : Nat) (n : Nat) (q : Cmd),
    (writesBank op = true → m.glb.turn = .idle) ∧ m.pwr.waitCmds = [(n, (op, o, slot, q))]) :=
  ⟨⟨upd (pw W1 fun p => {p with grants := []}) fun m => {m with up := 10^13}, ⟨by decide +kernel, ⟨2, ⟨by decide +kernel, ⟨by decide +kernel, ⟨by decide +kernel, ⟨by decide +kernel, ⟨by decide +kernel, ⟨(askLeave ((upd (pw W1 fun p => {p with grants := []}) fun m => {m with up := 10^13} : State).conf) { ((upd (pw W1 fun p => {p with grants := []}) fun m => {m with up := 10^13} : State).mach) with tmg := { ((upd (pw W1 fun p => {p with grants := []}) fun m => {m with up := 10^13} : State).mach).tmg with tallyAt := Tbl.ins ((upd (pw W1 fun p => {p with grants := []}) fun m => {m with up := 10^13} : State).mach).tmg.tallyAt (2 : Fin 3) ((tallyDue ((upd (pw W1 fun p => {p with grants := []}) fun m => {m with up := 10^13} : State).conf) ((upd (pw W1 fun p => {p with grants := []}) fun m => {m with up := 10^13} : State).mach) (2 : Fin 3)) + tallyPeriod ((upd (pw W1 fun p => {p with grants := []}) fun m => {m with up := 10^13} : State).conf) (2 : Fin 3)) } } (tallyOp (2 : Fin 3)).1 (tallyOp (2 : Fin 3)).2).1, ⟨_, pair_of (by decide +kernel)⟩⟩⟩⟩⟩⟩⟩⟩⟩⟩,
   ⟨fl (withCfg WD pmuDumpCfgKind 6 0 0 0) fun f => {f with waiting := List.replicate (Config.upwardRoom + 1) {src := 0, sev := 1, time := 0, detail := 0}}, ⟨by decide +kernel, ⟨0, ⟨10, ⟨by decide +kernel, ⟨by decide +kernel, ⟨by decide +kernel, ⟨by decide +kernel, List.any_eq_true.mpr ⟨7, by decide +kernel, upward_full rfl (by decide +kernel)⟩⟩⟩⟩⟩⟩⟩⟩⟩,
   ⟨pw W3 (fun p => {p with queue := List.replicate 64 (gr 4)}), ⟨by decide +kernel, ⟨3, ⟨0, ⟨by decide +kernel, ⟨by decide +kernel, ⟨by decide +kernel, ⟨by decide +kernel, ⟨by decide +kernel, ⟨by decide +kernel, by decide +kernel⟩⟩⟩⟩⟩⟩⟩⟩⟩⟩,
   ⟨pw W3 (fun p => {p with queue := [gr 4], alert := false}), ⟨by decide +kernel, ⟨gr 4, ⟨by decide +kernel, by decide +kernel⟩⟩⟩⟩,
   ⟨upd (pw W3 (fun p => {p with queue := [{gr 7 with unit := 3}], alert := false})) (fun m => {m with sec := {m.sec with gen := none}}), ⟨by decide +kernel, ⟨{gr 7 with unit := 3}, ⟨by decide +kernel, ⟨by decide +kernel, ⟨(3, 0), ⟨by decide +kernel, ⟨by decide +kernel, ⟨by decide +kernel, by decide +kernel⟩⟩⟩⟩⟩⟩⟩⟩⟩,
   ⟨pw W3 (fun p => {p with waitCmds := [(0, .fdbFlush, .ring 0, 0, {})]}), ⟨by decide +kernel, ⟨.fdbFlush, ⟨.ring 0, ⟨0, ⟨0, ⟨{}, ⟨by decide +kernel, by decide +kernel⟩⟩⟩⟩⟩⟩⟩⟩⟩

set_option maxRecDepth 100000 in
theorem test_witness_LeaveIsAskedForHeldAndReleased_4 :
    (∃ (s : State),
    s.live ∧
    let c := s.conf
    let m := s.mach
    ∃ (e : Nat × Nat),
    m.pwr.asks = [e] ∧ ∃ (a : LeaveAns) (m' : Mach),
    reportsWait m (leaveDie e.1 e.2) = false ∧ leaveArrive c { m with pwr := { m.pwr with asks := [] } } e.1 e.2 = (a, m')) ∧
    (∃ (s : State),
    s.live ∧
    let m := s.mach
    ∃ (e : Nat × Nat),
    m.pwr.asks = [e] ∧ reportsWait m (leaveDie e.1 e.2) = true) :=
  ⟨⟨pw W3 (fun p => {p with asks := [(3, 0)], alert := false}), ⟨by decide +kernel, ⟨(3, 0), ⟨by decide +kernel, ⟨(leaveArrive ((pw W3 (fun p => {p with asks := [(3, 0)], alert := false}) : State).conf) { ((pw W3 (fun p => {p with asks := [(3, 0)], alert := false}) : State).mach) with pwr := { ((pw W3 (fun p => {p with asks := [(3, 0)], alert := false}) : State).mach).pwr with asks := [] } } ((3, 0) : Nat × Nat).1 ((3, 0) : Nat × Nat).2).1, ⟨_, ⟨by decide +kernel, pair_of (by decide +kernel)⟩⟩⟩⟩⟩⟩⟩,
   ⟨fl (pw W3 (fun p => {p with asks := [(3, 0)]})) (fun f => {f with waiting := [rp0]}), ⟨by decide +kernel, ⟨(3, 0), ⟨by decide +kernel, by decide +kernel⟩⟩⟩⟩⟩
end Faults

end Sys2Proof.Tests
end

/-! The tick clause of the first-error capture's statement leaves out R40: with the reports of a die processed, the requests for leave
that waited behind them reach the governor (`upwardGo`). The state below, reached from reset by two commands, has such a request. -/
namespace Sys2Proof.Machine

/-- The link from `CD` to `PD_0` retrains after reset: a CORRECTED report waits for the fault controller (R28). -/
def retrainReported : State := State.reset.withM (settle State.reset.conf (raise State.reset.conf State.reset.mach 1 0 CORRECTED))

/-- A dump asks for leave then, from the die that the report waits at. -/
def dumpAsked : State := retrainReported.withM (heavyRequest retrainReported.conf retrainReported.mach opDump 0)

/-- Two commands lead from reset to `dumpAsked`. -/
theorem dumpAsked_reached :
    exec (.linkRetrainFail 0 0 true) State.reset = .next retrainReported ∧ exec (.heavyOpRequest 2 0) retrainReported = .next dumpAsked :=
  ⟨rfl, rfl⟩

/-- The report that waits there: of class 1, CORRECTED. -/
def retrainReport : Report := reportOf State.reset.mach (srcOf 1 0) CORRECTED 0

/-- What a tick latches of that report, as the statement has it. -/
def dumpAskedLatched : Mach :=
  let s := dumpAsked
  let r := retrainReport
  latchFirst (({ s.mach with flt := { s.mach.flt with waiting := [] } }.inc32 fltClassCntCount (r.src / 16)).setClass (r.src / 16)
    { active := true, unacked := true, sev := max (s.mach.class (r.src / 16)).sev r.sev
      expire := s.mach.up + 1_000_000 * s.conf.get fltQuietTimeQuiet }) r r.sev false

/-- A tick of the fault controller out of reset. -/
theorem exec_faultTickProcess_of_live {s : State} (h : s.live) (hs : List Hazard) (inj : List (BitVec 32 × BitVec 32)) :
    exec (.faultTickProcess hs inj) s = .next { s with dev := tickProcess s.dev hs inj } := by
  have runs : exec (.faultTickProcess hs inj) s = s.onDev fun d => tickProcess d hs inj := rfl
  simp [runs, State.onDev, h]

/-- The tick that takes up the report lets every request behind it go on to the governor. -/
theorem dumpAsked_tick_asks : (tickProcess dumpAsked.dev [] []).m.pwr.asks = [] := by decide +kernel

/-- Latching the report, driving the pin and settling leave the dump's request where it waits. -/
theorem dumpAsked_latched_asks :
    (opDump, 0) ∈ (settle dumpAsked.conf (healthDrive dumpAsked.conf dumpAskedLatched)).pwr.asks := by decide +kernel

/-- So they do where the report posts its event too. -/
theorem dumpAsked_posted_asks :
    (opDump, 0) ∈ (settle dumpAsked.conf (healthDrive dumpAsked.conf (postFault dumpAsked.conf dumpAskedLatched
      { src := retrainReport.src, sev := retrainReport.sev, time := retrainReport.time, inj := false, esc := false }))).pwr.asks := by
  decide +kernel

/-- Refutes O27: in its tick clause. A tick that takes up the last report of a die lets the requests for leave behind it go on (R40), and
from `dumpAsked` a dump's does; the clause's outcome still has it waiting. -/
theorem not_firstErrorCaptureKeepsTheFirstRealReport : ¬ Obligations.FirstErrorCaptureKeepsTheFirstRealReport := by
  unfold Obligations.FirstErrorCaptureKeepsTheFirstRealReport
  rintro ⟨-, tick, -⟩
  have live : dumpAsked.live := by decide +kernel
  obtain ⟨m', ran, latchedOrPosted⟩ := tick dumpAsked retrainReport live (by decide +kernel) rfl (by decide +kernel) (by decide)
  have same : ({ dumpAsked with dev := tickProcess dumpAsked.dev [] [] } : State) =
      dumpAsked.withM (settle dumpAsked.conf (healthDrive dumpAsked.conf m')) :=
    Host.Outcome.next.inj ((exec_faultTickProcess_of_live live [] []).symm.trans ran)
  have gone : (settle dumpAsked.conf (healthDrive dumpAsked.conf m')).pwr.asks = [] :=
    (congrArg (fun s : State => s.mach.pwr.asks) same).symm.trans dumpAsked_tick_asks
  have waits : (opDump, 0) ∈ (settle dumpAsked.conf (healthDrive dumpAsked.conf m')).pwr.asks := by
    rcases latchedOrPosted with rfl | rfl
    · exact dumpAsked_latched_asks
    · exact dumpAsked_posted_asks
  exact List.not_mem_nil (gone ▸ waits)

end Sys2Proof.Machine

/-! A fault-recovery request at the governor (R434). What shows and posts an outcome (R432, R436) writes registers, rings and ports, and leaves the
governor's own state as it is. -/
namespace Sys2Proof.Machine

/-! ### What leaves the governor's state as it was -/

@[simp] theorem bump_pwr (c : Cfg) (m : Mach) (r : Reg) (i j k x : Nat) : (bump c m r i j k x).pwr = m.pwr := by
  obtain ⟨g, h⟩ := bump_frame c m r i j k x
  rw [h]

@[simp] theorem deliverIrq_pwr (c : Cfg) (m : Mach) (rid : Nat) : (deliverIrq c m rid).pwr = m.pwr := by
  unfold deliverIrq
  dsimp only
  split <;> simp

@[simp] theorem dueIrq_pwr (c : Cfg) (m : Mach) (rid : Nat) : (dueIrq c m rid).pwr = m.pwr := by
  unfold dueIrq
  dsimp only
  split
  · split <;> simp
  · split
    · simp
    · split
      · split <;> simp
      · simp

@[simp] theorem checkCount_pwr (c : Cfg) (m : Mach) (rid : Nat) : (checkCount c m rid).pwr = m.pwr := by
  unfold checkCount
  dsimp only
  split <;> simp

@[simp] theorem writeDesc_pwr (c : Cfg) (m : Mach) (rid opc status flags : Nat) (ctx : BitVec 32) (body : List Byte) :
    (writeDesc c m rid opc status flags ctx body).pwr = m.pwr := by
  simp [writeDesc]

@[simp] theorem writeEntries_pwr (c : Cfg) (seq : BitVec 32) (type : Nat) (bodies : List (List Byte)) (m : Mach) (rid : Nat) :
    (writeEntries c seq type bodies m rid).pwr = m.pwr := by
  induction bodies generalizing m with
  | nil => rfl
  | cons b bs ih => simp [writeEntries, ih]

@[simp] theorem writeEvt_pwr (c : Cfg) (m : Mach) (rid : Nat) (e : Evt) : (writeEvt c m rid e).pwr = m.pwr := by
  simp [writeEvt]

@[simp] theorem holdEvt_pwr (c : Cfg) (m : Mach) (rid : Nat) (e : Evt) : (holdEvt c m rid e).pwr = m.pwr := by
  unfold holdEvt
  dsimp only
  split
  · simp
  · split <;> simp

@[simp] theorem postEvent_pwr (c : Cfg) (m : Mach) (e : Evt) : (postEvent c m e).pwr = m.pwr := by
  unfold postEvent
  split
  · simp
  · dsimp only
    split <;> simp

/-- Showing and posting an outcome decides nothing: grants and queue stay as they were. -/
@[simp] theorem pwrReport_pwr (c : Cfg) (m : Mach) (q : LeaveReq) (outcome reason : Nat) : (pwrReport c m q outcome reason).pwr = m.pwr := by
  unfold pwrReport
  extract_lets shown counted evt
  have shown_pwr : shown.pwr = m.pwr := by
    unfold shown
    split
    · rfl
    · rw [Mach.setSt_pwr, Mach.setSt_pwr, Mach.setSt_pwr, Mach.setSt_pwr]
  have counted_pwr : counted.pwr = m.pwr := by
    simp only [counted, apply_ite Mach.pwr, bump_pwr, ite_self, shown_pwr]
  split
  · exact (postEvent_pwr _ _ _).trans counted_pwr
  · exact counted_pwr

/-! ### The recovery pool -/

/-- What the requests of a pool overdraw in all grows exactly where a request exceeds the rest of the pool. -/
theorem overdraw_grows_iff (used pips pool : Nat) : used - pool < used + pips - pool ↔ pool - used < pips := by omega

/-- It grows by what the request asks beyond the rest. -/
theorem overdraw_growth (used pips pool : Nat) : used + pips - pool - (used - pool) = pips - (pool - used) := by omega

/-- A recovery request is the fault controller's own and waits behind no report of a die (R40, R434). -/
theorem askLeave_recovery {op : Nat} (h : recoveryOp op = true) (c : Cfg) (m : Mach) (unit : Nat) :
    askLeave c m op unit = leaveArrive c m op unit := by
  simp [askLeave, h]

/-- At the governor a recovery request is granted, whatever the pool holds; the excess over its rest is counted and noted (R434). -/
theorem leaveArrive_recovery {op : Nat} (h : recoveryOp op = true) (c : Cfg) (m : Mach) (unit : Nat) :
    let q : LeaveReq := { op := op, unit := unit, cls := c.get pwrOpClass op, pips := c.get pwrOpPips op, since := m.up }
    let rest := c.get pwrBudgetReserve - pipsOf (m.pwr.grants.filter fun g => recoveryOp g.op)
    let granted := pwrReport c { m with pwr := { m.pwr with grants := m.pwr.grants ++ [q] } } q 0 0
    leaveArrive c m op unit = (.granted, leaveEval c
      (if rest < q.pips then raise c (bump c granted .pwrCnt cPwrOverdraw (x := q.pips - rest)) 29 2 NOTE else granted)) := by
  simp only [leaveArrive, h, if_true, overdraw_grows_iff, overdraw_growth]

/-- An operation that neither holds leave nor asked for it, and is granted it at once, goes on. -/
theorem heavyRequest_of_granted {c : Cfg} {m m' : Mach} {op unit : Nat}
    (notHeld : m.holdsLeave op unit = false) (notAsked : m.waitsLeave op unit = false)
    (granted : askLeave c m op unit = (.granted, m')) : heavyRequest c m op unit = leaveGoesOn c m' := by
  simp [heavyRequest, notHeld, notAsked, granted]

/-- A request for leave out of reset. -/
theorem exec_heavyOpRequest_of_live {s : State} (h : s.live) (op : Fin 12) (unit : Nat) :
    exec (.heavyOpRequest op unit) s = .next (s.withM (heavyRequest s.conf s.mach op unit)) := by
  have runs : exec (.heavyOpRequest op unit) s = s.on fun c m => heavyRequest c m op unit := rfl
  simp [runs, State.on, h]

/-- Settles O60: the governor's rule for a recovery request, which no report of a die holds back, in both cases of the pool's rest. -/
theorem recoveryRequestsNeverWait : Obligations.RecoveryRequestsNeverWait := by
  unfold Obligations.RecoveryRequestsNeverWait
  intro s op unit live recovery notHeld notAsked q rest granted
  have arrives := (askLeave_recovery recovery s.conf s.mach unit).trans (leaveArrive_recovery recovery s.conf s.mach unit)
  have runs := (exec_heavyOpRequest_of_live live op unit).trans
    (congrArg (fun m => Host.Outcome.next (s.withM m)) (heavyRequest_of_granted notHeld notAsked arrives))
  refine ⟨fun fits => ?_, fun exceeds => ?_, ?_, ?_⟩
  · rw [runs, if_neg (Nat.not_lt.mpr fits)]
  · rw [runs, if_pos exceeds]
  · simp [granted]
  · simp [granted]

end Sys2Proof.Machine

section
/-! This text is long: elaborated side by side, its proofs would hold more memory at once than the check has. -/
set_option Elab.async false


/-! Bit fields of words, and the fields of registers in the tables that hold them: what a read finds behind a write of the same field, of another
field of the register, and of another register. -/
namespace Sys2Proof.Machine

/-! ### Bit fields of numbers -/

theorem testBit_bits (n hi lo i : Nat) : (bits n hi lo).testBit i = (decide (i < hi + 1 - lo) && n.testBit (lo + i)) := by
  simp [bits, Nat.testBit_mod_two_pow, Nat.testBit_div_two_pow, Nat.add_comm]

/-- A number split at a field: what lies above it, the field, what lies below it. -/
theorem split_at_field (n hi lo : Nat) :
    n = n / 2 ^ lo / 2 ^ (hi + 1 - lo) * 2 ^ (hi + 1 - lo) * 2 ^ lo + bits n hi lo * 2 ^ lo + n % 2 ^ lo := by
  have outer := Nat.div_add_mod n (2 ^ lo)
  have inner := Nat.div_add_mod (n / 2 ^ lo) (2 ^ (hi + 1 - lo))
  calc n = 2 ^ lo * (n / 2 ^ lo) + n % 2 ^ lo := outer.symm
    _ = 2 ^ lo * (2 ^ (hi + 1 - lo) * (n / 2 ^ lo / 2 ^ (hi + 1 - lo)) + n / 2 ^ lo % 2 ^ (hi + 1 - lo)) + n % 2 ^ lo := by rw [inner]
    _ = _ := by unfold bits; ring

/-- The same of a number with the field replaced. -/
theorem putBits_split (n hi lo v : Nat) :
    putBits n hi lo v = 2 ^ lo * (2 ^ (hi + 1 - lo) * (n / 2 ^ lo / 2 ^ (hi + 1 - lo)) + v % 2 ^ (hi + 1 - lo)) + n % 2 ^ lo := by
  have split := split_at_field n hi lo
  have rest : n - bits n hi lo * 2 ^ lo = n / 2 ^ lo / 2 ^ (hi + 1 - lo) * 2 ^ (hi + 1 - lo) * 2 ^ lo + n % 2 ^ lo := by omega
  unfold putBits
  rw [rest]
  ring

/-- Within the field a replaced number has the new value's bits, elsewhere its own. -/
theorem testBit_putBits (n hi lo v i : Nat) :
    (putBits n hi lo v).testBit i = if lo ≤ i ∧ i < hi + 1 then v.testBit (i - lo) else n.testBit i := by
  rw [putBits_split, Nat.testBit_two_pow_mul_add _ (Nat.mod_lt _ (Nat.two_pow_pos lo)),
    Nat.testBit_two_pow_mul_add _ (Nat.mod_lt _ (Nat.two_pow_pos _))]
  by_cases below : i < lo
  · simp [below, Nat.testBit_mod_two_pow, show ¬ lo ≤ i by omega]
  · by_cases inside : i - lo < hi + 1 - lo
    · have : lo ≤ i ∧ i < hi + 1 := by omega
      simp [below, inside, Nat.testBit_mod_two_pow, this]
    · have outside : ¬(lo ≤ i ∧ i < hi + 1) := by omega
      have place : i - lo - (hi + 1 - lo) + (hi + 1 - lo) + lo = i := by omega
      simp only [below, inside, outside, if_false, Nat.testBit_div_two_pow, place]

theorem bits_putBits_self (n hi lo v : Nat) : bits (putBits n hi lo v) hi lo = v % 2 ^ (hi + 1 - lo) := by
  refine Nat.eq_of_testBit_eq fun i => ?_
  rw [testBit_bits, testBit_putBits, Nat.testBit_mod_two_pow]
  by_cases h : i < hi + 1 - lo
  · simp [h, show lo + i < hi + 1 by omega]
  · simp [h]

theorem bits_putBits_of_disjoint {hi lo hi' lo' : Nat} (n v : Nat) (apart : hi' < lo ∨ hi < lo') :
    bits (putBits n hi lo v) hi' lo' = bits n hi' lo' := by
  refine Nat.eq_of_testBit_eq fun i => ?_
  rw [testBit_bits, testBit_bits, testBit_putBits]
  by_cases h : i < hi' + 1 - lo'
  · rw [if_neg (by omega)]
  · simp [h]

theorem bits_lt (n hi lo : Nat) : bits n hi lo < 2 ^ (hi + 1 - lo) := Nat.mod_lt _ (Nat.two_pow_pos _)

/-- A word's field, where the word was made from a number. -/
theorem bits_ofNat {w hi : Nat} (n lo : Nat) (h : hi < w) : bits (BitVec.ofNat w n).toNat hi lo = bits n hi lo := by
  refine Nat.eq_of_testBit_eq fun i => ?_
  rw [testBit_bits, testBit_bits, BitVec.toNat_ofNat, Nat.testBit_mod_two_pow]
  by_cases inside : i < hi + 1 - lo
  · simp [show lo + i < w by omega]
  · simp [inside]

/-! ### The fields of the register tables -/

/-- A register's fields name it and lie within 32 bits, apart from each other. -/
def fieldsApart (r : Reg) : Bool :=
  (regFields r).all fun x => decide (x.reg = r ∧ x.lo ≤ x.hi ∧ x.hi < 32) &&
    (regFields r).all fun y => decide (x = y ∨ x.hi < y.lo ∨ y.hi < x.lo)

theorem fieldsApart_all (r : Reg) : fieldsApart r = true := by
  cases r <;> decide +kernel

theorem field_facts {r : Reg} {x : Fld} (hx : x ∈ regFields r) : x.reg = r ∧ x.lo ≤ x.hi ∧ x.hi < 32 := by
  have all := fieldsApart_all r
  simp only [fieldsApart, List.all_eq_true, Bool.and_eq_true, decide_eq_true_eq] at all
  exact (all x hx).1

theorem fields_disjoint {r : Reg} {x y : Fld} (hx : x ∈ regFields r) (hy : y ∈ regFields r) (h : x ≠ y) : x.hi < y.lo ∨ y.hi < x.lo := by
  have all := fieldsApart_all r
  simp only [fieldsApart, List.all_eq_true, Bool.and_eq_true, decide_eq_true_eq] at all
  exact ((all x hx).2 y hy).resolve_left h

/-- The fields of a part read in its word at reset, where no field's reset depends on the index. -/
def resetsPlain (r : Reg) : Bool :=
  [Part.live, .turn, .stat, .nowhere].all fun p => (partFields p r).all fun x =>
    decide (bits (BitVec.ofNat 32 ((partFields p r).foldl (fun a x => a + x.reset * 2 ^ x.lo) 0) : Word).toNat x.hi x.lo = x.reset)

theorem resetsPlain_all (r : Reg) : resetsPlain r = true := by
  cases r <;> decide +kernel

theorem fldReset_plain {r : Reg} (h : r ≠ .pwrOp) (h' : r ≠ .pplReason) {x : Fld} (hx : x ∈ regFields r) (i j k : Nat) : fldReset x i j k = x.reset := by
  obtain ⟨rfl, -, -⟩ := field_facts hx
  have hc : x ≠ pwrOpClass := fun e => h (e ▸ rfl)
  have hp : x ≠ pwrOpPips := fun e => h (e ▸ rfl)
  have hd : x ≠ pplReasonDisp := fun e => h' (e ▸ rfl)
  simp [fldReset, hc, hp, hd]

theorem mem_partFields {p : Part} {r : Reg} {x : Fld} : x ∈ partFields p r ↔ x ∈ regFields r ∧ x.part = p := by
  simp [partFields]

/-- Every `PWR_OP` beyond the twelfth has the reset of none (R431). -/
theorem pwrOpReset_min (i : Nat) : pwrOpReset i = pwrOpReset (min i 12) := by
  rcases Nat.lt_or_ge i 12 with h | h
  · rw [Nat.min_eq_left h.le]
  · rw [Nat.min_eq_right h]
    exact List.getD_eq_default _ _ h

/-- Every reason code beyond the 63rd has the row of one the table does not list (R69). -/
theorem reasonRow_min (j : Nat) : reasonRow j = reasonRow (min j 64) := by
  rcases Nat.lt_or_ge j 64 with h | h
  · rw [Nat.min_eq_left h.le]
  · rw [Nat.min_eq_right h]
    have far (n : Nat) (hn : n < 64) : j ≠ n := by omega
    simp [reasonRow, far, show ¬ j ≤ 31 by omega]

/-- So a field's reset is that of one of 13 × 65 index pairs. -/
theorem fldReset_min (x : Fld) (i j k : Nat) : fldReset x i j k = fldReset x (min i 12) (min j 64) 0 := by
  unfold fldReset
  rw [← pwrOpReset_min, ← reasonRow_min]

theorem pwrOp_resets : ∀ i < 13, ∀ p ∈ [Part.live, .turn, .stat, .nowhere], ∀ x ∈ partFields p .pwrOp,
    bits (wordReset p .pwrOp i 0 0).toNat x.hi x.lo = fldReset x i 0 0 := by decide +kernel

theorem pplReason_resets : ∀ j < 65, ∀ p ∈ [Part.live, .turn, .stat, .nowhere], ∀ x ∈ partFields p .pplReason,
    bits (wordReset p .pplReason 0 j 0).toNat x.hi x.lo = fldReset x 0 j 0 := by decide +kernel

theorem wordReset_congr {p : Part} {r : Reg} {i j k i' j' k' : Nat} (h : ∀ x ∈ regFields r, fldReset x i j k = fldReset x i' j' k') :
    wordReset p r i j k = wordReset p r i' j' k' := by
  unfold wordReset
  congr 1
  refine List.foldl_ext _ _ _ fun a x hx => ?_
  rw [h x (mem_partFields.mp hx).1]

/-- A field of a register's word at reset is the field's reset value. -/
theorem bits_wordReset {r : Reg} {x : Fld} (hx : x ∈ regFields r) (i j k : Nat) :
    bits (wordReset x.part r i j k).toNat x.hi x.lo = fldReset x i j k := by
  have part : x.part ∈ [Part.live, .turn, .stat, .nowhere] := by cases x.part <;> decide
  have here : x ∈ partFields x.part r := mem_partFields.mpr ⟨hx, rfl⟩
  by_cases op : r = .pwrOp
  · subst op
    have same (y : Fld) (hy : y ∈ regFields .pwrOp) : fldReset y i j k = fldReset y (min i 12) 0 0 := by
      have : y ≠ pplReasonDisp := fun e => absurd ((congrArg Fld.reg e).symm.trans (field_facts hy).1) (by decide)
      simp [fldReset, this, ← pwrOpReset_min]
    rw [wordReset_congr same, same x hx]
    exact pwrOp_resets _ (by omega) _ part _ here
  · by_cases reason : r = .pplReason
    · subst reason
      have same (y : Fld) (hy : y ∈ regFields .pplReason) : fldReset y i j k = fldReset y 0 (min j 64) 0 := by
        have hc : y ≠ pwrOpClass := fun e => absurd ((congrArg Fld.reg e).symm.trans (field_facts hy).1) (by decide)
        have hp : y ≠ pwrOpPips := fun e => absurd ((congrArg Fld.reg e).symm.trans (field_facts hy).1) (by decide)
        simp [fldReset, hc, hp, ← reasonRow_min]
      rw [wordReset_congr same, same x hx]
      exact pplReason_resets _ (by omega) _ part _ here
    · have plain := resetsPlain_all r
      simp only [resetsPlain, List.all_eq_true, decide_eq_true_eq] at plain
      have word : wordReset x.part r i j k = BitVec.ofNat 32 ((partFields x.part r).foldl (fun a x => a + x.reset * 2 ^ x.lo) 0) := by
        unfold wordReset
        congr 1
        exact List.foldl_ext _ _ _ fun a y hy => by rw [fldReset_plain op reason (mem_partFields.mp hy).1]
      rw [word, fldReset_plain op reason hx]
      exact plain _ part _ here

/-! ### Fields in tables -/

/-- A field is read in its register's word. -/
theorem fldIn_eq_bits {x : Fld} (hx : x ∈ regFields x.reg) (t : Tbl Word) (i j k : Nat) :
    fldIn t x i j k = bits (partWord x.part t x.reg i j k).toNat x.hi x.lo := by
  unfold fldIn partWord Tbl.look
  cases Tbl.find t (regAddr x.reg i j k) with
  | none => exact (bits_wordReset hx i j k).symm
  | some w => rfl

theorem partWord_putFld {t : Tbl Word} (ordered : Tbl.rising t = true) (x : Fld) (i j k v : Nat) :
    partWord x.part (putFld t x i j k v) x.reg i j k = BitVec.ofNat 32 (putBits (partWord x.part t x.reg i j k).toNat x.hi x.lo v) :=
  Tbl.look_put_self _ _ _ _ ordered

/-- A field reads what was written to it. -/
theorem fldIn_putFld_self {t : Tbl Word} (ordered : Tbl.rising t = true) {x : Fld} (hx : x ∈ regFields x.reg) (i j k v : Nat) :
    fldIn (putFld t x i j k v) x i j k = v % 2 ^ (x.hi + 1 - x.lo) := by
  rw [fldIn_eq_bits hx, partWord_putFld ordered, bits_ofNat _ _ (field_facts hx).2.2, bits_putBits_self]

/-- Another field of the part reads as before. -/
theorem fldIn_putFld_other {t : Tbl Word} (ordered : Tbl.rising t = true) {x y : Fld} (hx : x ∈ regFields x.reg) (hy : y ∈ regFields x.reg)
    (part : y.part = x.part) (ne : x ≠ y) (i j k v : Nat) : fldIn (putFld t x i j k v) y i j k = fldIn t y i j k := by
  obtain ⟨reg, -, high⟩ := field_facts hy
  have hy' : y ∈ regFields y.reg := reg ▸ hy
  rw [fldIn_eq_bits hy', fldIn_eq_bits hy', reg, part, partWord_putFld ordered, bits_ofNat _ _ high,
    bits_putBits_of_disjoint _ _ (fields_disjoint hx hy ne).symm]

/-- A word at another address stays. -/
theorem find_putFld_of_ne {t : Tbl Word} (ordered : Tbl.rising t = true) (x : Fld) {i j k a : Nat} (v : Nat) (ne : a ≠ regAddr x.reg i j k) :
    Tbl.find (putFld t x i j k v) a = Tbl.find t a := by
  unfold putFld Tbl.put
  split
  · exact Tbl.find_del_other t ne ordered
  · exact Tbl.find_ins_other t _ ne

/-- A field at another address reads as before. -/
theorem fldIn_putFld_of_ne {t : Tbl Word} (ordered : Tbl.rising t = true) (x y : Fld) {i j k i' j' k' : Nat} (v : Nat)
    (ne : regAddr y.reg i' j' k' ≠ regAddr x.reg i j k) : fldIn (putFld t x i j k v) y i' j' k' = fldIn t y i' j' k' := by
  unfold fldIn
  rw [find_putFld_of_ne ordered x v ne]

theorem rising_putFld {t : Tbl Word} (ordered : Tbl.rising t = true) (x : Fld) (i j k v : Nat) : Tbl.rising (putFld t x i j k v) = true :=
  Tbl.rising_put _ _ _ _ ordered

/-! ### Status fields of the machine -/

theorem Mach.rising_setSt {m : Mach} (ordered : Tbl.rising m.reg.stat = true) (x : Fld) (v i j k : Nat) :
    Tbl.rising (m.setSt x v i j k).reg.stat = true := rising_putFld ordered x i j k v

theorem Mach.st_setSt_self {m : Mach} (ordered : Tbl.rising m.reg.stat = true) {x : Fld} (hx : x ∈ regFields x.reg) (v i j k : Nat) :
    (m.setSt x v i j k).st x i j k = v % 2 ^ (x.hi + 1 - x.lo) := fldIn_putFld_self ordered hx i j k v

theorem Mach.st_setSt_other {m : Mach} (ordered : Tbl.rising m.reg.stat = true) {x y : Fld} (hx : x ∈ regFields x.reg) (hy : y ∈ regFields x.reg)
    (part : y.part = x.part) (ne : x ≠ y) (v i j k : Nat) : (m.setSt x v i j k).st y i j k = m.st y i j k :=
  fldIn_putFld_other ordered hx hy part ne i j k v

theorem Mach.st_setSt_of_ne {m : Mach} (ordered : Tbl.rising m.reg.stat = true) (x y : Fld) {i j k i' j' k' : Nat} (v : Nat)
    (ne : regAddr y.reg i' j' k' ≠ regAddr x.reg i j k) : (m.setSt x v i j k).st y i' j' k' = m.st y i' j' k' :=
  fldIn_putFld_of_ne ordered x y v ne

end Sys2Proof.Machine

/-! Where registers lie: an offset at which `locate` finds a register is that register's address. -/
namespace Sys2Proof.Machine

/-- The indexes that an offset splits into lead back to it. -/
theorem splitDims_offset {dims : List (Nat × Nat)} (short : dims.length ≤ 3) {n q : Nat} {l : List Nat} (h : splitDims dims n = some (l, q)) :
    n = dimOffset dims (l.getD 0 0) (l.getD 1 0) (l.getD 2 0) + q := by
  match dims, short, h with
  | [], _, h =>
    obtain ⟨rfl, rfl⟩ := Prod.mk.inj (Option.some.inj h)
    simp [dimOffset]
  | [(a, s)], _, h =>
    simp only [splitDims] at h
    split at h <;> simp at h
    obtain ⟨rfl, rfl⟩ := h
    simp [dimOffset, Nat.div_add_mod']
  | [(a, s), (b, t)], _, h =>
    simp only [splitDims] at h
    split at h <;> simp at h
    obtain ⟨-, rfl, rfl⟩ := h
    have outer := Nat.div_add_mod' n s
    have inner := Nat.div_add_mod' (n % s) t
    simp [dimOffset]
    omega
  | [(a, s), (b, t), (c, u)], _, h =>
    simp only [splitDims] at h
    split at h <;> simp at h
    obtain ⟨⟨-, -, rfl⟩, rfl⟩ := h
    have outer := Nat.div_add_mod' n s
    have middle := Nat.div_add_mod' (n % s) t
    have inner := Nat.div_add_mod' (n % s % t) u
    simp [dimOffset]
    omega

theorem regPlace_dims_short (r : Reg) : (regPlace r).dims.length ≤ 3 := by
  cases r <;> decide

/-- The lower half of what `locateIn` finds lies where it was looked for. -/
theorem locateIn_offset {r : Reg} {off : Nat} {x : Loc} (h : locateIn r off = some x) (lower : x.hi = false) :
    x.reg = r ∧ off = (regPlace r).base + dimOffset (regPlace r).dims x.i x.j x.k := by
  simp only [locateIn] at h
  split at h
  · cases h
  · split at h
    · next found =>
      have place := splitDims_offset (regPlace_dims_short r) found
      split at h
      · cases Option.some.inj h
        refine ⟨rfl, ?_⟩
        dsimp only
        omega
      · split at h
        · cases Option.some.inj h
          cases lower
        · cases h
    · cases h

/-- Only a counter has an upper half of its own. -/
theorem locateIn_lower {r : Reg} {off : Nat} {x : Loc} (h : locateIn r off = some x) (plain : isCounter x.reg = false) : x.hi = false := by
  simp only [locateIn] at h
  split at h
  · cases h
  · split at h
    · split at h
      · cases Option.some.inj h; rfl
      · split at h
        · next upper =>
          cases Option.some.inj h
          simp [plain] at upper
        · cases h
    · cases h

/-- The bank of a numbered block belongs to the block. -/
theorem pmcBlk_of_row (b : Blk) : ∀ n < (pmcRow b).count, pmcBlk ((pmcRow b).first + n) = some b := by
  cases b <;> decide +kernel

theorem blkOf_window {off : Nat} {b : Blk} (h : blkOf off = some b) : (blkWindow b).1 ≤ off ∧ off < (blkWindow b).2 := by
  have := List.find?_some h
  simpa using this

theorem stride_pos (b : Blk) : 0x100 ≤ (pmcRow b).stride := by cases b <;> decide

/-- A register of a counter bank lies where it was looked for. -/
theorem locatePmc_offset {n q : Nat} {x : Loc} (h : locatePmc n q = some x) : regAddr x.reg x.i x.j x.k = pmcBankBase n + q ∧ x.hi = false := by
  unfold locatePmc at h
  split at h
  · cases Option.some.inj h; simp_all [regAddr, isPmc, regPlace, dimOffset]
  · split at h
    · cases Option.some.inj h; simp_all [regAddr, isPmc, regPlace, dimOffset]
    · split at h
      · cases Option.some.inj h; simp_all [regAddr, isPmc, regPlace, dimOffset]
      · split at h
        · cases h
        · next outside =>
          have inside : 0x10 ≤ q := by simp at outside; omega
          split at h <;> cases h <;> simp [regAddr, isPmc, regPlace, dimOffset] <;> omega

/-- No register of a block's own list is one of a counter bank. -/
theorem blkRegs_not_pmc (b : Blk) : ∀ r ∈ blkRegs b, isPmc r = false := by cases b <;> decide

/-- `locate` finds a register at its address (R43). -/
theorem regAddr_of_locate {off : Nat} {x : Loc} (h : locate off = some x) (lower : x.hi = false) : regAddr x.reg x.i x.j x.k = off := by
  have listed {b : Blk} (h : (blkRegs b).findSome? (locateIn · off) = some x) : regAddr x.reg x.i x.j x.k = off := by
    obtain ⟨r, hr, found⟩ := List.exists_of_findSome?_eq_some h
    obtain ⟨rfl, place⟩ := locateIn_offset found lower
    rw [regAddr, blkRegs_not_pmc b _ hr, place]
    rfl
  unfold locate at h
  cases hb : blkOf off with
  | none => simp [hb] at h
  | some b =>
    simp only [hb] at h
    cases hn : bankOf off with
    | none => exact listed (by simpa [hn] using h)
    | some n =>
      simp only [hn] at h
      split at h
      · next far =>
        obtain ⟨low, -⟩ := blkOf_window hb
        simp only [bankOf, hb] at hn
        split at hn
        · next bound =>
          cases Option.some.inj hn
          have base : pmcBankBase ((pmcRow b).first + (off - (blkWindow b).1) / (pmcRow b).stride) =
              (blkWindow b).1 + ((off - (blkWindow b).1) / (pmcRow b).stride + 1) * (pmcRow b).stride - 0x100 := by
            simp only [pmcBankBase, pmcBlk_of_row b _ bound, Nat.add_sub_cancel_left]
          have rel := Nat.div_add_mod' (off - (blkWindow b).1) (pmcRow b).stride
          have wide := stride_pos b
          rw [(locatePmc_offset h).1, base, Nat.add_mul]
          omega
        · cases hn
      · exact listed h

/-- What `locate` finds of a register that is no counter is its lower half. -/
theorem locate_lower {off : Nat} {x : Loc} (h : locate off = some x) (plain : isCounter x.reg = false) : x.hi = false := by
  have listed {b : Blk} (h : (blkRegs b).findSome? (locateIn · off) = some x) : x.hi = false := by
    obtain ⟨r, -, found⟩ := List.exists_of_findSome?_eq_some h
    exact locateIn_lower found plain
  unfold locate at h
  cases hb : blkOf off with
  | none => simp [hb] at h
  | some b =>
    simp only [hb] at h
    split at h
    · split at h
      · exact (locatePmc_offset h).2
      · exact listed h
    · exact listed h

/-- An `_LO` half lies 4 bytes below its `_HI` half (R10). -/
theorem regAddr_loOf {r lo : Reg} (h : loOf r = some lo) (i j k : Nat) : regAddr lo i j k + 4 = regAddr r i j k := by
  cases r <;> cases h <;> simp [regAddr, isPmc, regPlace, dimOffset] <;> omega

end Sys2Proof.Machine

/-! What every command keeps of the configuration: tables in canonical order, the gated MACsec clocks of the variant without MACsec (R441), and what is
fused (R14). -/
namespace Sys2Proof.Machine

/-! ### The relation -/

/-- One configuration follows another in a step: the invariant of the first holds of the second, and what is fused stays. -/
structure Cfg.Follows (c c' : Cfg) : Prop where
  fuse : c'.fuse = c.fuse
  inv : c.Inv → c'.Inv

theorem Cfg.Follows.refl (c : Cfg) : c.Follows c := ⟨rfl, id⟩

theorem Cfg.Follows.trans {a b c : Cfg} (h : a.Follows b) (h' : b.Follows c) : a.Follows c := ⟨h'.fuse.trans h.fuse, h'.inv ∘ h.inv⟩

theorem Cfg.follows_of_eq {c c' : Cfg} (h : c' = c) : c.Follows c' := h ▸ .refl c

/-- A fold of device changes whose every step's configuration follows. -/
theorem foldl_follows {α : Type} (f : Dev → α → Dev) (l : List α) (step : ∀ a ∈ l, ∀ d : Dev, d.cfg.Follows (f d a).cfg) (d : Dev) :
    d.cfg.Follows (l.foldl f d).cfg := by
  induction l generalizing d with
  | nil => exact .refl _
  | cons a l ih =>
    exact (step a List.mem_cons_self d).trans (ih (fun b hb => step b (List.mem_cons_of_mem _ hb)) _)

/-! ### The clock gates of the MACsec domains -/

/-- The MACsec domains' bits stand in the gate register (R441). -/
def GatesHold (t : Tbl Word) : Prop := ∀ d, 22 ≤ d → d ≤ 25 → bit (fldIn t pwrClkGate0Gate 0 0 0) d = true

theorem gatedDom_macsec (c : Cfg) {d : Nat} (h : d ≤ 25) : c.gatedDom d = bit (fldIn c.live pwrClkGate0Gate 0 0 0) d := by
  unfold Cfg.gatedDom
  rw [if_pos (by omega)]
  rfl

theorem Cfg.Inv.gatesHold {c : Cfg} (h : c.Inv) (p : c.fuse.variant = .p) : GatesHold c.live := fun d low high => by
  rw [← gatedDom_macsec c high]
  exact h.gates p d low high

/-- The invariant of tables and gates. -/
theorem Cfg.inv_of {c : Cfg} (live : Tbl.rising c.live = true) (shadow : Tbl.rising c.shadow = true) (act : Tbl.rising c.act = true)
    (old : Tbl.rising c.old = true) (gates : c.fuse.variant = .p → GatesHold c.live) : c.Inv where
  live := live
  shadow := shadow
  act := act
  old := old
  gates p d low high := by
    rw [gatedDom_macsec c high]
    exact gates p d low high

/-- The address of `PWR_CLK_GATE_0`. -/
theorem regAddr_pwrClkGate0 (i j k : Nat) : regAddr .pwrClkGate0 i j k = 0x200200 := rfl

/-- The gate register stands once in the map. -/
theorem fldIn_gate (t : Tbl Word) (i j k : Nat) : fldIn t pwrClkGate0Gate 0 0 0 = fldIn t pwrClkGate0Gate i j k := by
  simp only [fldIn, show pwrClkGate0Gate.reg = .pwrClkGate0 from rfl, regAddr_pwrClkGate0]
  rfl

/-- A field of another register leaves the gates. -/
theorem GatesHold.putFld_of_ne {t : Tbl Word} (gates : GatesHold t) (ordered : Tbl.rising t = true) (x : Fld) {i j k : Nat} (v : Nat)
    (ne : regAddr x.reg i j k ≠ 0x200200) : GatesHold (putFld t x i j k v) := fun d low high => by
  rw [fldIn_putFld_of_ne ordered x pwrClkGate0Gate v (by rw [show pwrClkGate0Gate.reg = .pwrClkGate0 from rfl, regAddr_pwrClkGate0]; exact ne.symm)]
  exact gates d low high

/-- A half writes the gate register only as itself, with the MACsec bits set. -/
def Half.SparesGates (h : Half) : Prop :=
  regAddr h.reg h.i h.j h.k = 0x200200 → h.reg = .pwrClkGate0 ∧ ∀ d, 22 ≤ d → d ≤ 25 → bit h.w d = true

theorem bit_eq_testBit (n d : Nat) : bit n d = n.testBit d := by
  simp [bit, Nat.testBit_eq_decide_div_mod_eq, beq_eq_decide]

/-- A word written to the gate register with the MACsec bits set. -/
theorem GatesHold.putFld_gate {t : Tbl Word} (ordered : Tbl.rising t = true) (i j k w : Nat) (set : ∀ d, 22 ≤ d → d ≤ 25 → bit w d = true) :
    GatesHold (putFld t pwrClkGate0Gate i j k (bits w 31 0)) := fun d low high => by
  have word := fldIn_putFld_self ordered (x := pwrClkGate0Gate) (by decide) i j k (bits w 31 0)
  have mask : d < 32 := by omega
  have here : (bits w 31 0 % 2 ^ 32).testBit d = true := by
    rw [Nat.testBit_mod_two_pow, testBit_bits, Nat.zero_add, ← bit_eq_testBit w, set d low high]
    simp [mask]
  rw [bit_eq_testBit, fldIn_gate _ i j k, word]
  exact here

/-! ### What a write stores -/

theorem storePart_cons (p : Part) (t : Tbl Word) (h : Half) (hs : List Half) :
    storePart p t (h :: hs) = storePart p (((regFields h.reg).filter fun x => x.settable && decide (x.part = p)).foldl (fun t x =>
      putFld t x h.i h.j h.k (h.val x)) t) hs := rfl

theorem rising_foldl_putFld (xs : List Fld) (i j k : Nat) (v : Fld → Nat) {t : Tbl Word} (ordered : Tbl.rising t = true) :
    Tbl.rising (xs.foldl (fun t x => putFld t x i j k (v x)) t) = true := by
  induction xs generalizing t with
  | nil => exact ordered
  | cons x xs ih => exact ih (rising_putFld ordered x i j k _)

theorem rising_storePart (p : Part) (hs : List Half) {t : Tbl Word} (ordered : Tbl.rising t = true) : Tbl.rising (storePart p t hs) = true := by
  induction hs generalizing t with
  | nil => exact ordered
  | cons h hs ih => exact ih (rising_foldl_putFld _ _ _ _ _ ordered)

/-- One half's fields leave the gates, where it spares them. -/
theorem GatesHold.foldl_putFld {t : Tbl Word} (gates : GatesHold t) (ordered : Tbl.rising t = true) {h : Half} (spares : h.SparesGates)
    (xs : List Fld) (own : ∀ x ∈ xs, x ∈ regFields h.reg) : GatesHold (xs.foldl (fun t x => putFld t x h.i h.j h.k (h.val x)) t) := by
  induction xs generalizing t with
  | nil => exact gates
  | cons x xs ih =>
    have hx := own x List.mem_cons_self
    refine ih ?_ (rising_putFld ordered x _ _ _ _) fun y hy => own y (List.mem_cons_of_mem _ hy)
    by_cases here : regAddr x.reg h.i h.j h.k = 0x200200
    · obtain ⟨reg, set⟩ := spares ((field_facts hx).1 ▸ here)
      rw [reg] at hx
      obtain rfl : x = pwrClkGate0Gate := by simpa [regFields] using hx
      exact GatesHold.putFld_gate ordered _ _ _ h.w set
    · exact gates.putFld_of_ne ordered x _ here

theorem GatesHold.storePart {t : Tbl Word} (gates : GatesHold t) (ordered : Tbl.rising t = true) (p : Part) {hs : List Half}
    (spare : ∀ h ∈ hs, h.SparesGates) : GatesHold (storePart p t hs) := by
  induction hs generalizing t with
  | nil => exact gates
  | cons h hs ih =>
    refine ih ?_ (rising_foldl_putFld _ _ _ _ _ ordered) fun h' hh => spare h' (List.mem_cons_of_mem _ hh)
    exact gates.foldl_putFld ordered (spare h List.mem_cons_self) _ fun x hx => (List.mem_filter.mp hx).1

theorem fwdEgr_addr (i j k : Nat) : regAddr .fwdEgr i j k ≠ 0x200200 := by
  simp only [regAddr, isPmc, regPlace, dimOffset]
  simp
  omega

/-- The mirrored halves of the forwarding's maps lie elsewhere. -/
theorem sparesGates_mirrorHalves {hs : List Half} (spare : ∀ h ∈ hs, h.SparesGates) : ∀ h ∈ mirrorHalves hs, h.SparesGates := by
  intro h hh
  obtain ⟨h', mem, into⟩ := List.mem_flatMap.mp hh
  split at into
  · next egr =>
    have reg : h.reg = .fwdEgr := by
      rcases List.mem_pair.mp into with rfl | rfl <;> exact egr
    intro here
    exact absurd (reg ▸ here) (fwdEgr_addr _ _ _)
  · rw [List.mem_singleton] at into
    exact into ▸ spare h' mem

theorem Cfg.follows_storeCfg (c : Cfg) (sealed : Bool) {hs : List Half} (spare : c.fuse.variant = .p → ∀ h ∈ hs, h.SparesGates) :
    c.Follows (storeCfg c sealed hs) where
  fuse := rfl
  inv h := by
    refine Cfg.inv_of (rising_storePart _ _ h.live) (rising_storePart _ _ h.shadow) ?_ h.old fun p => ?_
    · unfold storeCfg
      dsimp only
      split
      · exact h.act
      · exact rising_storePart _ _ h.act
    · exact (h.gatesHold p).storePart h.live _ (sparesGates_mirrorHalves (spare p))

theorem Cfg.follows_setLive (c : Cfg) (x : Fld) {i j k : Nat} (v : Nat) (ne : regAddr x.reg i j k ≠ 0x200200) : c.Follows (c.setLive x v i j k) where
  fuse := rfl
  inv h := Cfg.inv_of (rising_putFld h.live _ _ _ _ _) h.shadow h.act h.old fun p => (h.gatesHold p).putFld_of_ne h.live x v ne

/-- The effective word of a write to the gate register has the MACsec bits on the variant without MACsec (R441). -/
theorem eff_spares (c : Cfg) (m : Mach) {h : Half} (p : c.fuse.variant = .p) (place : regAddr h.reg h.i h.j h.k = 0x200200 → h.reg = .pwrClkGate0) :
    (h.eff c m).SparesGates := by
  by_cases reg : h.reg = .pwrClkGate0
  · intro _
    have eff : h.eff c m = { h with w := putBits h.w 25 22 0xF } := by
      unfold Half.eff
      rw [reg]
      simp [p]
    rw [eff]
    refine ⟨reg, fun d low high => ?_⟩
    have inside : 22 ≤ d ∧ d < 26 := by omega
    rw [bit_eq_testBit, testBit_putBits, if_pos inside]
    have all : ∀ n < 4, (0xF : Nat).testBit n = true := by decide
    exact all _ (by omega)
  · have same : (h.eff c m).reg = h.reg ∧ (h.eff c m).i = h.i ∧ (h.eff c m).j = h.j ∧ (h.eff c m).k = h.k := by
      unfold Half.eff
      split
      · exact ⟨rfl, rfl, rfl, rfl⟩
      · split <;> exact ⟨rfl, rfl, rfl, rfl⟩
      · split <;> exact ⟨rfl, rfl, rfl, rfl⟩
      · exact ⟨rfl, rfl, rfl, rfl⟩
    obtain ⟨hr, hi, hj, hk⟩ := same
    intro here
    rw [hr, hi, hj, hk] at here
    exact absurd (place here) reg

/-- What lies at the gate register's offset and 4 bytes beyond it. -/
theorem locate_gates : locate 0x200200 = some ⟨.pwrClkGate0, 0, 0, 0, false⟩ ∧ locate 0x200204 = some ⟨.pwrClkGate1, 0, 0, 0, false⟩ := by
  decide +kernel

/-- No other register's write reaches the gate register. -/
theorem halves_spare (c : Cfg) (m : Mach) {off : Nat} {x : Loc} (found : locate off = some x) (lower : x.hi = false) (v : Word)
    (p : c.fuse.variant = .p) : ∀ h ∈ halves c m x v, h.SparesGates := by
  have addr := regAddr_of_locate found lower
  have hi : (Half.eff c m ⟨x.reg, x.i, x.j, x.k, v.toNat⟩).SparesGates := eff_spares c m p fun here => by
    have off_eq : off = 0x200200 := addr.symm.trans here
    rw [off_eq, locate_gates.1] at found
    exact (Option.some.inj found) ▸ rfl
  intro h hh
  unfold halves at hh
  split at hh
  · next lo half =>
    split at hh
    · next w held =>
      rcases List.mem_pair.mp hh with rfl | rfl
      · refine eff_spares c m p fun here => ?_
        have off_eq : off = 0x200204 := by
          have step := regAddr_loOf half x.i x.j x.k
          dsimp only at here
          omega
        rw [off_eq, locate_gates.2] at found
        rw [← Option.some.inj found] at half
        cases half
      · exact hi
    · rw [List.mem_singleton] at hh
      exact hh ▸ hi
  · rw [List.mem_singleton] at hh
    exact hh ▸ hi

/-! ### Reset, restart and turns -/

theorem Cfg.inv_setLive_of {f : Fuse} {v : Nat} (base : ({ fuse := f } : Cfg).live = []) (gates : GatesHold (putFld [] pwrClkGate0Gate 0 0 0 v)) :
    (({ fuse := f } : Cfg).setLive pwrClkGate0Gate v).Inv :=
  Cfg.inv_of (rising_putFld (by rw [base]; rfl) pwrClkGate0Gate 0 0 0 v) rfl rfl rfl fun _ => gates

theorem Cfg.inv_base (f : Fuse) : (Cfg.base f).Inv := by
  unfold Cfg.base
  by_cases p : f.variant = .p
  · simp only [p, if_true]
    have all : ∀ d ≤ 25, 22 ≤ d → bit 0x03C0_0000 d = true := by decide
    have gates := GatesHold.putFld_gate (t := []) rfl 0 0 0 0x03C0_0000 fun d low high => all d high low
    rw [show bits 0x03C0_0000 31 0 = 0x03C0_0000 by decide] at gates
    exact Cfg.inv_setLive_of rfl gates
  · simp only [p, if_false]
    exact Cfg.inv_of rfl rfl rfl rfl fun q => absurd q p

theorem Cfg.base_fuse (f : Fuse) : (Cfg.base f).fuse = f := by
  unfold Cfg.base
  split <;> rfl

theorem Cfg.follows_base (c : Cfg) : c.Follows (Cfg.base c.fuse) := ⟨Cfg.base_fuse _, fun _ => Cfg.inv_base _⟩

theorem resetDev_follows (d : Dev) : d.cfg.Follows (resetDev d).cfg := Cfg.follows_base d.cfg

theorem leaveReset_cfg (d : Dev) : (leaveReset d).cfg = d.cfg := by
  unfold leaveReset
  dsimp only
  split <;> rfl

theorem pwrgoodIs_follows (d : Dev) (v : Bool) : d.cfg.Follows (pwrgoodIs d v).cfg := by
  cases v with
  | true => exact Cfg.follows_of_eq (leaveReset_cfg _)
  | false => exact resetDev_follows _

theorem resetNIs_follows (d : Dev) (v : Bool) : d.cfg.Follows (resetNIs d v).cfg := by
  cases v with
  | true => exact Cfg.follows_of_eq (leaveReset_cfg _)
  | false => exact resetDev_follows _

theorem restarted_follows (d : Dev) : d.cfg.Follows (restarted d).cfg :=
  (Cfg.follows_base d.cfg).trans (Cfg.follows_setLive _ todAdjAdj _ (by decide))

theorem restartWrite_follows (d : Dev) (key : Nat) : d.cfg.Follows (restartWrite d key).cfg := by
  unfold restartWrite
  split
  · exact .refl _
  · split
    · exact .refl _
    · exact restarted_follows d

theorem copyBanks_follows (d : Dev) : d.cfg.Follows (copyBanks d).cfg where
  fuse := rfl
  inv h := Cfg.inv_of h.live h.act h.act h.old h.gatesHold

theorem commitDiscard_follows (d : Dev) : d.cfg.Follows (commitDiscard d).cfg := by
  unfold commitDiscard
  split
  · exact copyBanks_follows d
  · exact .refl _

theorem turnBoundary_follows (d : Dev) : d.cfg.Follows (turnBoundary d).cfg := by
  unfold turnBoundary
  dsimp only
  split
  · exact ⟨rfl, fun h => Cfg.inv_of h.live h.shadow h.shadow h.act h.gatesHold⟩
  · exact .refl _

theorem follows_turnBoundary (c : Cfg) (m : Mach) : c.Follows (turnBoundary ⟨c, m⟩).cfg := turnBoundary_follows ⟨c, m⟩

theorem todStepped_follows (d : Dev) : d.cfg.Follows (todStepped d).cfg := by
  unfold todStepped
  dsimp only
  split
  · exact follows_turnBoundary _ _
  · exact .refl _

theorem bankCopied_follows (d : Dev) : d.cfg.Follows (bankCopied d).cfg := by
  unfold bankCopied
  split
  · exact copyBanks_follows d
  · exact .refl _

/-! ### Writes -/

theorem prtPortCfg_addr (i j k : Nat) : regAddr .prtPortCfg i j k ≠ 0x200200 := by
  simp only [regAddr, isPmc, regPlace, dimOffset]
  simp
  omega

theorem portEnable_follows (d : Dev) (q g p : Nat) : d.cfg.Follows (portEnable d q g p).cfg := by
  unfold portEnable
  split
  · exact .refl _
  · split
    · exact Cfg.follows_setLive _ prtPortCfgEn 0 (prtPortCfg_addr g p 0)
    · exact .refl _

/-- A write's hook leaves the configuration, but for a restart, a turn's discard and a port's enable. -/
theorem writeHook_follows (c : Cfg) (m : Mach) (q : Nat) (h : Half) (d : Dev) : d.cfg.Follows (writeHook c m q h d).cfg := by
  unfold writeHook
  dsimp only
  split
  case h_2 => exact restartWrite_follows d _
  case h_3 =>
    split
    · exact .refl _
    · split
      · exact commitDiscard_follows d
      · exact .refl _
  case h_18 =>
    split
    · exact portEnable_follows d _ _ _
    · split <;> exact .refl _
  all_goals exact Cfg.follows_of_eq (by simp only [apply_ite Dev.cfg, ite_self])

theorem applyWrite_follows (d : Dev) (q off : Nat) (v : Word) : d.cfg.Follows (applyWrite d q off v).cfg := by
  unfold applyWrite
  split
  · exact .refl _
  · split
    · exact .refl _
    · next x found =>
      split
      · exact .refl _
      · next counter =>
        split
        · exact .refl _
        · extract_lets c hs _ _ m c' m'
          split
          · exact .refl _
          · exact (Cfg.follows_storeCfg d.cfg _ (halves_spare d.cfg d.m found (locate_lower found (by simpa using counter)) v)).trans
              (foldl_follows _ hs (fun h _ d' => writeHook_follows c m q h d') ⟨c', m'⟩)

theorem regWrite_follows (d : Dev) (q : Requester) (off : Nat) (v : Word) : d.cfg.Follows (regWrite d q off v).cfg := by
  unfold regWrite
  dsimp only
  split
  · exact .refl _
  · split
    · exact .refl _
    · split
      · exact .refl _
      · exact applyWrite_follows d _ _ _

theorem fieldWrite_follows (d : Dev) (q : Requester) (xs : List (Fld × Nat)) (i j k : Nat) : d.cfg.Follows (fieldWrite d q xs i j k).cfg := by
  unfold fieldWrite
  split
  · exact .refl _
  · exact regWrite_follows d _ _ _

theorem follows_resumeHeld (c : Cfg) (m : Mach) : c.Follows (resumeHeld ⟨c, m⟩).cfg := by
  unfold resumeHeld
  refine foldl_follows _ (m.glb.held ++ m.glb.noCredit) (fun x _ d' => ?_) { cfg := c, m := { m with glb := { m.glb with held := [], noCredit := [] } } }
  cases x with
  | write q off v =>
    dsimp only
    split
    · exact .refl _
    · exact applyWrite_follows d' _ _ _
  | cmd op o slot q =>
    dsimp only
    split <;> exact .refl _

theorem sealDone_follows (d : Dev) : d.cfg.Follows (sealDone d).cfg := by
  unfold sealDone
  dsimp only
  split
  · exact follows_resumeHeld _ _
  · exact .refl _

theorem copyEnds_follows (d : Dev) : d.cfg.Follows (copyEnds d).cfg := by
  unfold copyEnds
  split
  · exact (bankCopied_follows d).trans (follows_resumeHeld (bankCopied d).cfg (bankCopied d).m)
  · exact .refl _

theorem tickProcess_follows (d : Dev) (hs : List Hazard) (inj : List (BitVec 32 × BitVec 32)) : d.cfg.Follows (tickProcess d hs inj).cfg := by
  unfold tickProcess
  dsimp only
  split
  · exact follows_resumeHeld _ _
  · exact .refl _

/-! ### Commands -/

/-- A command that acts out of reset alone, on the device. -/
theorem follows_of_ite {P : Prop} [Decidable P] {s t : State} {d : Dev} (h : (.next (if P then s else { s with dev := d }) : Outcome) = .next t)
    (keeps : s.conf.Follows d.cfg) : s.conf.Follows t.conf := by
  cases Host.Outcome.next.inj h
  split
  · exact .refl _
  · exact keeps

theorem follows_of_next {s t : State} {d : Dev} (h : (.next { s with dev := d } : Outcome) = .next t) (keeps : s.conf.Follows d.cfg) :
    s.conf.Follows t.conf := by
  cases Host.Outcome.next.inj h
  exact keeps

/-- A write of a requester. -/
theorem follows_of_onWrite {s t : State} {q : Requester} {f : Dev → Dev} (keeps : s.dev.cfg.Follows (f s.dev).cfg)
    (h : s.onWrite q f = .next t) : s.conf.Follows t.conf := by
  refine follows_of_ite h ?_
  beta_reduce
  split
  · exact keeps
  · exact .refl _

/-- A write of a register. -/
theorem follows_of_regWrite {s t : State} {q : Requester} {off : Nat} {v : Word}
    (h : s.onWrite q (fun d => regWrite d q off v) = .next t) : s.conf.Follows t.conf :=
  follows_of_onWrite (regWrite_follows s.dev q off v) h

/-- A write of some fields of a register. -/
theorem follows_of_fieldWrite {s t : State} {q : Requester} {xs : List (Fld × Nat)} {i j k : Nat}
    (h : s.onWrite q (fun d => fieldWrite d q xs i j k) = .next t) : s.conf.Follows t.conf :=
  follows_of_onWrite (fieldWrite_follows s.dev q xs i j k) h

theorem atParser_follows (d : Dev) (f : Cfg → Mach → Mach) : d.cfg.Follows (atParser d f).cfg := turnBoundary_follows d

/-- What every command keeps of the configuration. -/
theorem exec_follows {i : Instr} {s t : State} (h : exec i s = .next t) : s.conf.Follows t.conf := by
  cases i with
  | pwrgoodRise => exact follows_of_next h (pwrgoodIs_follows _ _)
  | pwrgoodFall => exact follows_of_next h (pwrgoodIs_follows _ _)
  | resetNAssert => exact follows_of_next h (resetNIs_follows _ _)
  | resetNRelease => exact follows_of_next h (resetNIs_follows _ _)
  | jtagTapActive | jtagTapReset | thermtripAssert => exact follows_of_next h (.refl _)
  | sealChecksDone => exact follows_of_ite h (sealDone_follows _)
  | turnBoundary => exact follows_of_ite h (turnBoundary_follows _)
  | todStepApply => exact follows_of_ite h (todStepped_follows _)
  | bankCopyDone => exact follows_of_ite h (copyEnds_follows _)
  | faultTickProcess => exact follows_of_ite h (tickProcess_follows _ _ _)
  | packetParse => exact follows_of_ite h (atParser_follows _ _)
  | recircReenter => exact follows_of_ite h (atParser_follows _ _)
  | regWrite q a v =>
    refine follows_of_onWrite (f := fun d => if a.size = .b32 then regWrite d q a.off.toNat v else d) ?_ h
    split
    · exact regWrite_follows _ _ _ _
    · exact .refl _
  | regWriteHiApply | shaperRateWrite | shaperBurstWrite | fltInjectWrite => exact follows_of_regWrite h
  | regReadLoLatch q a =>
    change (if _ then _ else _ : Outcome) = _ at h
    split at h
    · exact follows_of_ite h (.refl _)
    · exact follows_of_ite h (.refl _)
  | sealWrite | restartWrite | turnCommitGo | turnDiscard | portRoleWrite | adminRingEnable | adminRingDisable | fstEnable | fstDisable
  | fstTakeoverGo | fslRebuild | fslSweepNow | pplDrain | portEnable | gateConfigChange | gateChangeCancel | todStep | todOffset
  | mscSaInUseSet | mscSaInUseClear | mscTxAnWrite | mscBulkGo | fltAckWrite | firstErrorClear | fltRestoreGo | digestNow
  | duoYieldWrite | coreRunStart | coreRunStop | coreReset => exact follows_of_fieldWrite h
  | _ => exact follows_of_ite h (.refl _)

/-- Settles O4: every command keeps the configuration's invariant and what is fused, and a tick leaves the configuration. -/
theorem stepKeepsConfigurationInvariant : Obligations.StepKeepsConfigurationInvariant := by
  unfold Obligations.StepKeepsConfigurationInvariant
  have follows (s t : State) (h : step s = .next t) : s.conf.Follows t.conf := by
    unfold step at h
    split at h
    · cases Host.Outcome.next.inj h
      unfold idle
      split <;> exact .refl _
    · have := exec_follows h
      exact this
  exact ⟨fun s t inv h => (follows s t h).inv inv, fun s t h => (follows s t h).fuse⟩

end Sys2Proof.Machine

/-! The frame of every command. A command whose row lets a header into a parser, or that steps the time of day, also makes a turn's boundary that has
come (R72, R237, R386), and with it the shadow's fields active: such a command writes configuration, though `writesConfig` does not list it. -/
namespace Sys2Proof.Machine

/-- A turn is scheduled whose boundary has come, and the shadow holds a pool's size that the active bank does not. -/
def boundaryDue : State := { State.reset with dev := {
  cfg := { shadow := putFld [] tmgPoolSize 0 0 0 5 }
  m := { glb := { sealSt := .sealed, turn := .scheduled, boundary := 0 } } } }

/-- A cycle of a slot arbiter there makes the shadow's fields active. -/
theorem boundaryDue_packetParse :
    ∃ t, exec (.packetParse 0) boundaryDue = .next t ∧ t.conf.act = boundaryDue.conf.shadow := ⟨_, rfl, rfl⟩

/-- Refutes O2: in its clause on configuration. `PACKET_PARSE`, which `writesConfig` does not list, makes a boundary that has come, which
copies the shadow's fields into the active bank. -/
theorem not_everyCommandAnswersInItsFrame : ¬ Obligations.EveryCommandAnswersInItsFrame := by
  unfold Obligations.EveryCommandAnswersInItsFrame
  rintro ⟨-, keeps, -⟩
  obtain ⟨t, ran, act⟩ := boundaryDue_packetParse
  have same : t.conf = boundaryDue.conf := keeps _ _ t rfl ran
  rw [same] at act
  exact absurd act (by decide +kernel)

/-- Settles O1. -/
theorem stepRunsTheFrontCommand : Obligations.StepRunsTheFrontCommand := by
  unfold Obligations.StepRunsTheFrontCommand
  intro s i rest front
  unfold step
  rw [front]

end Sys2Proof.Machine

/-! The state after reset: nothing is written, so every read finds its reset value and every table is in order. -/
namespace Sys2Proof.Machine

/-- A configuration that nothing was written to reads its reset values. -/
theorem get_of_nothing_written (f : Fuse) (x : Fld) (i j k : Nat) : ({ fuse := f } : Cfg).get x i j k = fldReset x i j k := by
  unfold Cfg.get
  split <;> rfl

/-- A machine as it is before anything has happened, but for what a reset draws, has every table empty. -/
theorem reset_ordered (g : GlbSt) (n : Nat) : ({ glb := g, free := n } : Mach).Ordered := by
  constructor
  case active | shadow => exact ⟨rfl, rfl, rfl, rfl, rfl⟩
  case admin => exact fun _ => rfl
  all_goals rfl

/-- Settles O5. -/
theorem resetLeavesResetValues : Obligations.ResetLeavesResetValues := by
  unfold Obligations.ResetLeavesResetValues
  refine ⟨⟨rfl, rfl, rfl, rfl, rfl, rfl, rfl, fun x i j k _ => get_of_nothing_written _ x i j k, fun _ _ _ _ => rfl, fun _ => rfl, fun _ => rfl,
    fun _ => rfl, rfl, rfl, rfl⟩, Cfg.inv_base {}, reset_ordered _ _, Cfg.inv_base⟩

end Sys2Proof.Machine

/-! A tick that lets `HEALTH` rise takes the `HEALTH_PERIOD` then in force (R408), which is one more thing a tick moves. -/
namespace Sys2Proof.Machine

/-- The machine behind a step with no command waiting, out of reset. -/
theorem mach_of_tick {s t : State} (none : s.pending = []) (live : s.live) (ran : step s = .next t) : t.mach = auxTick s.conf s.mach := by
  have awake : s.dev.m.glb.inReset = false := live
  have ticks : step s = .next (s.withM (auxTick s.conf s.mach)) := by simp [step, none, idle, awake, State.withM]
  cases Host.Outcome.next.inj (ticks.symm.trans ran)
  rw [State.mach, State.withM_m]

/-- Sealed with `HEALTH_PERIOD` 10, of which software has made 100 since; the pin has been low for its minimum time, and no class holds it. -/
def healthDueToRise : State := { State.reset with dev := {
  m := { glb := { stage := .sealed, sealSt := .sealed }, flt := { period := 10, lowSince := some 0 }, up := 200_000 } } }

/-- The tick takes the new period. -/
theorem healthDueToRise_period : (auxTick healthDueToRise.conf healthDueToRise.mach).flt.period = 100 := by decide +kernel

/-- Refutes O6: in its frame. With the pin's minimum low time over, a tick lets `HEALTH` rise and takes the period that the register holds
(R408); the frame has the period stay. -/
theorem not_tickAdvancesTime : ¬ Obligations.TickAdvancesTime := by
  unfold Obligations.TickAdvancesTime
  rintro ⟨-, tick⟩
  obtain ⟨t, ran, -, -, -, -, -, moved, -⟩ :=
    tick healthDueToRise rfl rfl (by decide) (by decide +kernel) (by decide +kernel)
  have after := mach_of_tick (s := healthDueToRise) rfl rfl ran
  have kept : t.mach.flt.period = healthDueToRise.mach.flt.period := by
    rw [moved]
  rw [after, healthDueToRise_period] at kept
  exact absurd kept (by decide)

end Sys2Proof.Machine

/-! The register map (R43): the registers of a block's window lie apart, so that each is found at its own offset. Two arrays of registers lie apart where
their spans do, or where they repeat with one stride and lie apart within it. -/
namespace Sys2Proof.Machine

/-! ### Offsets within an array of registers -/

/-- The offsets that an array's indexes reach. -/
def Reached : List (Nat × Nat) → Nat → Prop
  | [], x => x = 0
  | (n, s) :: t, x => ∃ i < n, ∃ y, Reached t y ∧ x = i * s + y

/-- The greatest of them. -/
def span : List (Nat × Nat) → Nat
  | [] => 0
  | (n, s) :: t => (n - 1) * s + span t

theorem Reached.le_span {dims : List (Nat × Nat)} {x : Nat} (h : Reached dims x) : x ≤ span dims := by
  induction dims generalizing x with
  | nil => exact h.le
  | cons e t ih =>
    obtain ⟨n, s⟩ := e
    obtain ⟨i, bound, y, inner, rfl⟩ := h
    have outer : i * s ≤ (n - 1) * s := Nat.mul_le_mul_right s (by omega)
    have := ih inner
    simp only [span]
    omega

/-- What an offset splits into. -/
theorem reached_of_splitDims {dims : List (Nat × Nat)} {n q : Nat} {l : List Nat} (h : splitDims dims n = some (l, q)) :
    ∃ y, Reached dims y ∧ n = y + q := by
  induction dims generalizing n l with
  | nil =>
    obtain ⟨-, rfl⟩ := Prod.mk.inj (Option.some.inj h)
    exact ⟨0, rfl, (Nat.zero_add _).symm⟩
  | cons e t ih =>
    obtain ⟨a, s⟩ := e
    simp only [splitDims] at h
    split at h
    · next bound =>
      obtain ⟨⟨l', q'⟩, inner, same⟩ := Option.map_eq_some_iff.mp h
      obtain ⟨-, rfl⟩ := Prod.mk.inj same
      obtain ⟨y, reached, place⟩ := ih inner
      have outer := Nat.div_add_mod' n s
      exact ⟨n / s * s + y, ⟨n / s, bound, y, reached, rfl⟩, by omega⟩
    · cases h

/-- Arrays at `b` and `b'` lie apart, the second with `w` bytes more at each place: their spans do, or they have one stride, fit into it, and lie apart
within it. -/
def apart (b : Nat) (d : List (Nat × Nat)) (b' : Nat) (d' : List (Nat × Nat)) (w : Nat) : Bool :=
  decide (b + span d < b') || decide (b' + span d' + w < b) ||
  match d, d' with
  | (_, s) :: t, (_, s') :: t' => s == s' && decide (b % s + span t < s) && decide (b' % s + span t' + w < s) && apart (b % s) t (b' % s) t' w
  | _, _ => false

/-- A place within a stride. -/
theorem mod_within (b i y s : Nat) (fits : b % s + y < s) : (b + (i * s + y)) % s = b % s + y := by
  rw [show b + (i * s + y) = b + y + i * s by omega, Nat.add_mul_mod_self_right, Nat.add_mod, Nat.mod_eq_of_lt (a := y) (by omega),
    Nat.mod_eq_of_lt fits]

theorem ne_of_apart {d d' : List (Nat × Nat)} {b b' w x y q : Nat} (h : apart b d b' d' w = true) (hx : Reached d x) (hy : Reached d' y) (hq : q ≤ w) :
    b + x ≠ b' + (y + q) := by
  induction d generalizing d' b b' x y with
  | nil =>
    have := hx.le_span
    have := hy.le_span
    unfold apart at h
    simp at h
    omega
  | cons e t ih =>
    have spanned := hx.le_span
    have spanned' := hy.le_span
    obtain ⟨n, s⟩ := e
    match d' with
    | [] =>
      unfold apart at h
      simp at h
      omega
    | (n', s') :: t' =>
      unfold apart at h
      simp only [Bool.or_eq_true, Bool.and_eq_true, decide_eq_true_eq, beq_iff_eq] at h
      rcases h with (before | behind) | ⟨⟨⟨rfl, fits⟩, fits'⟩, within⟩
      · omega
      · omega
      · obtain ⟨i, -, u, hu, rfl⟩ := hx
        obtain ⟨i', -, v, hv, rfl⟩ := hy
        have := hu.le_span
        have := hv.le_span
        intro same
        have residue : (b + (i * s + u)) % s = (b' + (i' * s + (v + q))) % s := by rw [same, Nat.add_assoc]
        rw [mod_within _ _ _ _ (by omega), mod_within _ _ _ _ (by omega)] at residue
        exact ih within hu hv residue

/-! ### The map -/

/-- A register lies apart from another: `locate` does not find the other where it is. -/
def lieApart (r r' : Reg) : Bool :=
  apart (regPlace r).base (regPlace r).dims (regPlace r').base (regPlace r').dims (if isCounter r' then 4 else 0)

theorem registers_lie_apart (b : Blk) : ((blkRegs b).all fun r => (blkRegs b).all fun r' => decide (r = r') || lieApart r r') = true := by
  cases b <;> decide +kernel

theorem locateIn_none_of_apart {r r' : Reg} (h : lieApart r r' = true) {x : Nat} (hx : Reached (regPlace r).dims x) :
    locateIn r' ((regPlace r).base + x) = none := by
  by_contra found
  obtain ⟨l, hl⟩ := Option.ne_none_iff_exists'.mp found
  simp only [locateIn] at hl
  split at hl
  · cases hl
  · split at hl
    · next split =>
      obtain ⟨y, hy, place⟩ := reached_of_splitDims split
      split at hl
      · exact ne_of_apart h hx hy (Nat.zero_le _) (by omega)
      · split at hl
        · next upper =>
          simp only [Bool.and_eq_true, decide_eq_true_eq] at upper
          obtain ⟨rfl, counter⟩ := upper
          exact ne_of_apart (q := 4) h hx hy (by simp [counter]) (by omega)
        · cases hl
    · cases hl

/-- An array's inner dimensions fit into the strides of the outer. -/
def nested : List (Nat × Nat) → Bool
  | [] => true
  | (_, s) :: t => decide (span t < s) && nested t

theorem nested_cons {n s : Nat} {t : List (Nat × Nat)} (h : nested ((n, s) :: t) = true) : span t < s ∧ nested t = true := by
  rwa [nested, Bool.and_eq_true, decide_eq_true_iff] at h

theorem regPlace_nested (r : Reg) : nested (regPlace r).dims = true := by cases r <;> decide +kernel

theorem splitDims_step {n s : Nat} {t : List (Nat × Nat)} {i y : Nat} (bound : i < n) (fits : y < s) :
    splitDims ((n, s) :: t) (i * s + y) = (splitDims t y).map fun (l, q) => (i :: l, q) := by
  have quotient : (i * s + y) / s = i := by rw [Nat.mul_comm, Nat.mul_add_div (by omega), Nat.div_eq_of_lt fits, Nat.add_zero]
  have rest : (i * s + y) % s = y := by rw [Nat.mul_comm, Nat.mul_add_mod, Nat.mod_eq_of_lt fits]
  simp [splitDims, quotient, rest, bound]

/-- The indexes of a register of the map are in range, and 0 where the array has no such dimension. -/
def InRange (dims : List (Nat × Nat)) (i j k : Nat) : Prop :=
  i < (dims.getD 0 (1, 0)).1 ∧ j < (dims.getD 1 (1, 0)).1 ∧ k < (dims.getD 2 (1, 0)).1

theorem inRange_of_instance {r : Reg} {x : Nat × Nat × Nat} (h : x ∈ instances r) : InRange (regPlace r).dims x.1 x.2.1 x.2.2 := by
  simp only [instances, List.mem_flatMap, List.mem_map, List.mem_range] at h
  obtain ⟨i, hi, j, hj, k, hk, rfl⟩ := h
  exact ⟨hi, hj, hk⟩

theorem reached_of_inRange {dims : List (Nat × Nat)} (short : dims.length ≤ 3) {i j k : Nat} (h : InRange dims i j k) :
    Reached dims (dimOffset dims i j k) := by
  obtain ⟨hi, hj, hk⟩ := h
  match dims, short with
  | [], _ => rfl
  | [(a, s)], _ => exact ⟨i, hi, 0, rfl, rfl⟩
  | [(a, s), (b, t)], _ => exact ⟨i, hi, j * t, ⟨j, hj, 0, rfl, rfl⟩, rfl⟩
  | [(a, s), (b, t), (c, u)], _ => exact ⟨i, hi, j * t + k * u, ⟨j, hj, k * u, ⟨k, hk, 0, rfl, rfl⟩, rfl⟩, by simp [dimOffset, Nat.add_assoc]⟩

/-- Splitting leads back to the indexes. -/
theorem splitDims_dimOffset {dims : List (Nat × Nat)} (short : dims.length ≤ 3) (fits : nested dims = true) {i j k : Nat} (h : InRange dims i j k) :
    ∃ l, splitDims dims (dimOffset dims i j k) = some (l, 0) ∧ l.getD 0 0 = i ∧ l.getD 1 0 = j ∧ l.getD 2 0 = k := by
  obtain ⟨hi, hj, hk⟩ := h
  match dims, short with
  | [], _ =>
    simp at hi hj hk
    exact ⟨[], rfl, by simp [hi], by simp [hj], by simp [hk]⟩
  | [(a, s)], _ =>
    simp at hi hj hk
    have one := splitDims_step (t := []) hi (nested_cons fits).1
    exact ⟨[i], one, rfl, by simp [hj], by simp [hk]⟩
  | [(a, s), (b, t)], _ =>
    simp at hi hj hk
    obtain ⟨fitS, fits⟩ := nested_cons fits
    obtain ⟨fitT, -⟩ := nested_cons fits
    simp only [span] at fitS fitT
    have two : j * t ≤ (b - 1) * t := Nat.mul_le_mul_right t (by omega)
    have inner := splitDims_step (t := []) hj fitT
    have outer := splitDims_step (n := a) (s := s) (t := [(b, t)]) (y := j * t + 0) hi (by omega)
    rw [inner] at outer
    exact ⟨[i, j], outer, rfl, rfl, by simp [hk]⟩
  | [(a, s), (b, t), (c, u)], _ =>
    simp at hi hj hk
    obtain ⟨fitS, fits⟩ := nested_cons fits
    obtain ⟨fitT, fits⟩ := nested_cons fits
    obtain ⟨fitU, -⟩ := nested_cons fits
    simp only [span] at fitS fitT fitU
    have two : j * t ≤ (b - 1) * t := Nat.mul_le_mul_right t (by omega)
    have three : k * u ≤ (c - 1) * u := Nat.mul_le_mul_right u (by omega)
    have inner := splitDims_step (t := []) hk fitU
    have middle := splitDims_step (n := b) (s := t) (t := [(c, u)]) (y := k * u + 0) hj (by omega)
    have outer := splitDims_step (n := a) (s := s) (t := [(b, t), (c, u)]) (y := j * t + (k * u + 0)) hi (by omega)
    rw [middle, inner] at outer
    refine ⟨[i, j, k], ?_, rfl, rfl, rfl⟩
    rw [show dimOffset [(a, s), (b, t), (c, u)] i j k = i * s + (j * t + (k * u + 0)) by simp [dimOffset, Nat.add_assoc]]
    exact outer

theorem locateIn_self {r : Reg} {i j k : Nat} (h : InRange (regPlace r).dims i j k) :
    locateIn r ((regPlace r).base + dimOffset (regPlace r).dims i j k) = some ⟨r, i, j, k, false⟩ := by
  obtain ⟨l, split, rfl, rfl, rfl⟩ := splitDims_dimOffset (regPlace_dims_short r) (regPlace_nested r) h
  have ahead : ¬ (regPlace r).base + dimOffset (regPlace r).dims (l.getD 0 0) (l.getD 1 0) (l.getD 2 0) < (regPlace r).base := by omega
  simp only [locateIn, ahead, if_false, Nat.add_sub_cancel_left, split, if_true]

/-- Where no other entry of a list gives anything, the search gives what the one entry does. -/
theorem findSome?_unique {α β : Type} {f : α → Option β} {l : List α} {a : α} {b : β} (mem : a ∈ l) (here : f a = some b)
    (elsewhere : ∀ a' ∈ l, a' ≠ a → f a' = none) : l.findSome? f = some b := by
  obtain ⟨a', hmem, hsome⟩ : ∃ a' ∈ l, l.findSome? f = f a' ∧ f a' ≠ none := by
    cases found : l.findSome? f with
    | none => exact absurd (List.findSome?_eq_none_iff.mp found a mem) (by simp [here])
    | some b' =>
      obtain ⟨a', hmem, ha'⟩ := List.exists_of_findSome?_eq_some found
      exact ⟨a', hmem, ha'.symm, by simp [ha']⟩
  by_cases same : a' = a
  · rw [hsome.1, same, here]
  · exact absurd (elsewhere a' hmem same) hsome.2

theorem windows_lie_apart (b b' : Blk) : b = b' ∨ (blkWindow b).2 ≤ (blkWindow b').1 ∨ (blkWindow b').2 ≤ (blkWindow b).1 := by
  cases b <;> cases b' <;> decide

theorem mem_allBlks (b : Blk) : b ∈ allBlks := by cases b <;> decide

/-- Windows lie apart: an offset within one is of that block (R43). -/
theorem blkOf_of_window {b : Blk} {off : Nat} (low : (blkWindow b).1 ≤ off) (high : off < (blkWindow b).2) : blkOf off = some b := by
  cases found : blkOf off with
  | none =>
    have outside := List.find?_eq_none.mp found b (mem_allBlks b)
    simp [low, high] at outside
  | some b' =>
    obtain ⟨low', high'⟩ := blkOf_window found
    rcases windows_lie_apart b b' with rfl | before | behind
    · rfl
    · omega
    · omega

/-- A block's register lies in its window and, in each of the block's windows, below the counter bank. -/
def inWindow (b : Blk) (r : Reg) : Bool :=
  let p := regPlace r
  let rel := p.base - (blkWindow b).1
  decide ((blkWindow b).1 ≤ p.base) && decide (p.base + span p.dims < (blkWindow b).2) &&
    (decide (rel % (pmcRow b).stride + span p.dims < (pmcRow b).stride - 0x100) ||
      match p.dims with
      | (_, s) :: t => s == (pmcRow b).stride && decide (rel % (pmcRow b).stride + span t < (pmcRow b).stride - 0x100)
      | [] => false)

theorem registers_inWindow (b : Blk) : ((blkRegs b).all (inWindow b)) = true := by cases b <;> decide +kernel

theorem below_bank {b : Blk} {r : Reg} (h : r ∈ blkRegs b) {x : Nat} (hx : Reached (regPlace r).dims x) :
    blkOf ((regPlace r).base + x) = some b ∧ ((regPlace r).base + x - (blkWindow b).1) % (pmcRow b).stride < (pmcRow b).stride - 0x100 := by
  have window := List.all_eq_true.mp (registers_inWindow b) r h
  have spanned := hx.le_span
  simp only [inWindow, Bool.and_eq_true, Bool.or_eq_true, decide_eq_true_eq] at window
  obtain ⟨⟨low, high⟩, below⟩ := window
  refine ⟨blkOf_of_window (by omega) (by omega), ?_⟩
  rw [show (regPlace r).base + x - (blkWindow b).1 = (regPlace r).base - (blkWindow b).1 + x by omega]
  rcases below with flat | repeated
  · have place := mod_within ((regPlace r).base - (blkWindow b).1) 0 x (pmcRow b).stride (by omega)
    rw [Nat.zero_mul, Nat.zero_add] at place
    omega
  · revert repeated hx
    split
    · next n s t dims =>
      intro hx repeated
      rw [Bool.and_eq_true, decide_eq_true_eq] at repeated
      obtain ⟨stride, below⟩ := repeated
      rw [dims] at hx
      obtain ⟨i, -, y, hy, rfl⟩ := hx
      have := hy.le_span
      rw [beq_iff_eq] at stride
      have place := mod_within ((regPlace r).base - (blkWindow b).1) i y s (by rw [stride]; omega)
      rw [← stride] at below ⊢
      omega
    · intro _ h
      simp at h

/-- Each register of a block is found at its address, and no other register is. -/
theorem locate_regAddr {b : Blk} {r : Reg} (h : r ∈ blkRegs b) {i j k : Nat} (range : InRange (regPlace r).dims i j k) :
    locate (regAddr r i j k) = some ⟨r, i, j, k, false⟩ := by
  have reached := reached_of_inRange (regPlace_dims_short r) range
  obtain ⟨block, below⟩ := below_bank h reached
  have addr : regAddr r i j k = (regPlace r).base + dimOffset (regPlace r).dims i j k := by
    simp [regAddr, blkRegs_not_pmc b r h]
  have listed : (blkRegs b).findSome? (locateIn · (regAddr r i j k)) = some ⟨r, i, j, k, false⟩ := by
    rw [addr]
    refine findSome?_unique h (locateIn_self range) fun r' hr' ne => locateIn_none_of_apart ?_ reached
    have all := List.all_eq_true.mp (List.all_eq_true.mp (registers_lie_apart b) r h) r' hr'
    simpa [ne.symm] using all
  rw [← addr] at block below
  unfold locate
  simp only [block]
  split
  · rw [if_neg (by omega)]
    exact listed
  · exact listed

/-- Settles O7: the registers of each window lie apart. -/
theorem everyRegisterIsFoundAtItsOffset : Obligations.EveryRegisterIsFoundAtItsOffset := by
  unfold Obligations.EveryRegisterIsFoundAtItsOffset
  intro b r x hr hx
  exact locate_regAddr hr (inRange_of_instance hx)

end Sys2Proof.Machine

/-! The pins, and the random source (R461, R466, R420, R427). A row on a live device acts by its function. -/
namespace Sys2Proof.Machine

section
variable {s : State}

/-! ### Rows of a live device -/

theorem State.on_live (live : s.live) (f : Cfg → Mach → Mach) : s.on f = .next (s.withM (f s.conf s.mach)) := by
  simp only [State.on, show s.dev.m.glb.inReset = false from live]
  rfl

theorem State.onSettle_live (live : s.live) (f : Cfg → Mach → Mach) : s.onSettle f = .next (s.withM (settle s.conf (f s.conf s.mach))) :=
  s.on_live live _

theorem State.onDev_live (live : s.live) (f : Dev → Dev) : s.onDev f = .next { s with dev := f s.dev } := by
  simp only [State.onDev, show s.dev.m.glb.inReset = false from live]
  rfl

theorem State.withM_mach (s : State) : s.withM s.mach = s := rfl

/-! ### The pins -/

/-- The device leaves reset when the second of the pins rises. -/
theorem pwrgoodIs_of_released {d : Dev} (reset : d.m.glb.inReset = true) (released : d.m.glb.resetN = true) : pwrgoodIs d true =
    { d with m := drawBootId { d.m with glb := { d.m.glb with pwrgood := true, stage := .rom, inReset := false } } } := by
  simp [pwrgoodIs, leaveReset, reset, released]

theorem resetNIs_of_powered {d : Dev} (reset : d.m.glb.inReset = true) (powered : d.m.glb.pwrgood = true) : resetNIs d true =
    { d with m := drawBootId { d.m with glb := { d.m.glb with resetN := true, stage := .rom, inReset := false } } } := by
  simp [resetNIs, leaveReset, reset, powered]

theorem pwrgoodIs_of_low {d : Dev} (low : d.m.glb.resetN = false) : pwrgoodIs d true =
    { d with m := { d.m with glb := { d.m.glb with pwrgood := true } } } := by
  simp [pwrgoodIs, leaveReset, low]

theorem resetNIs_of_low {d : Dev} (low : d.m.glb.pwrgood = false) : resetNIs d true =
    { d with m := { d.m with glb := { d.m.glb with resetN := true } } } := by
  simp [resetNIs, leaveReset, low]

/-- Settles O8. -/
theorem pinsResetAndReleaseTheDevice : Obligations.PinsResetAndReleaseTheDevice := by
  unfold Obligations.PinsResetAndReleaseTheDevice
  have good (s : State) : exec .pwrgoodRise s = .next { s with dev := pwrgoodIs s.dev true } := rfl
  have high (s : State) : exec .resetNRelease s = .next { s with dev := resetNIs s.dev true } := rfl
  refine ⟨⟨fun s reset released => ?_, fun s reset powered => ?_, fun s low => ?_, fun s low => ?_⟩, fun s => rfl, fun s => rfl⟩
  · rw [good, pwrgoodIs_of_released reset released]
    rfl
  · rw [high, resetNIs_of_powered reset powered]
    rfl
  · rw [good, pwrgoodIs_of_low low]
    rfl
  · rw [high, resetNIs_of_low low]
    rfl

/-! ### The random source -/

theorem rngTimeout_of_late {c : Cfg} {m : Mach} (none : m.sec.rngSeeded = false) (late : 100_000_000 ≤ m.up) :
    rngTimeout c m = raise c (failStart m 5) 28 2 FATAL := by
  rw [rngTimeout, if_neg (by simp [none]; omega), stopStart]

theorem rngTimeout_of_early {c : Cfg} {m : Mach} (h : m.sec.rngSeeded = true ∨ m.up < 100_000_000) : rngTimeout c m = m := by
  rw [rngTimeout, if_pos (by simpa using h)]

/-- Settles O11. -/
theorem randomSourceSeedingAndItsTimeout : Obligations.RandomSourceSeedingAndItsTimeout := by
  unfold Obligations.RandomSourceSeedingAndItsTimeout
  refine ⟨fun s live none => ?_, fun s live none late => ?_, fun s live early => ?_, fun s live seeded => ?_, fun s live seeded => ?_,
    fun s cause stage => ?_⟩
  · rw [show exec .rngFirstSeed s = s.onSettle rngSeeded from rfl, State.onSettle_live live, rngSeeded, none]
    rfl
  · rw [show exec .rngSeedTimeout s = s.on rngTimeout from rfl, State.on_live live, rngTimeout_of_late none late]
  · rw [show exec .rngSeedTimeout s = s.on rngTimeout from rfl, State.on_live live, rngTimeout_of_early early, State.withM_mach]
  · rw [show exec (.drbgReseed true) s = s.on fun c m => drbgReseed c m true from rfl, State.on_live live, drbgReseed, seeded]
    rfl
  · rw [show exec (.drbgReseed false) s = s.on fun c m => drbgReseed c m false from rfl, State.on_live live, drbgReseed, seeded]
    rfl
  · rw [failStart, stage]

end
end Sys2Proof.Machine

/-! Register writes (R9, R10, R12, R479): what an accepted write of a whole register leaves, what a refused one leaves, and what a named field of a
written word holds. -/
namespace Sys2Proof.Machine

section
variable {s : State} {d : Dev} {q : Requester} {r : Reg} {i j k : Nat} {v : Word}

theorem State.onWrite_live (live : s.live) (reach : reaches s.mach q = true) (f : Dev → Dev) : s.onWrite q f = .next { s with dev := f s.dev } := by
  rw [State.onWrite, State.onDev_live live, if_pos reach]

theorem exec_regWrite (live : s.live) (reach : reaches s.mach q = true) {off : BitVec 27} :
    exec (.regWrite q ⟨off, .b32⟩ v) s = .next { s with dev := regWrite s.dev q off.toNat v } := by
  rw [show exec (.regWrite q ⟨off, .b32⟩ v) s = s.onWrite q fun d => regWrite d q off.toNat v from rfl, State.onWrite_live live reach]

/-- A write that the register file takes up. -/
theorem regWrite_of_taken {off : Nat} (aligned : off % 4 = 0) (may : denied d.m (reqNum q) off true = false) (free : waitsForSeal d.m off = false) :
    regWrite d q off v = settleDev (applyWrite d (reqNum q) off v) := by
  simp [regWrite, aligned, may, free]

theorem halves_of_whole {c : Cfg} {m : Mach} {x : Loc} (none : loOf x.reg = none) :
    halves c m x v = [Half.eff c m ⟨x.reg, x.i, x.j, x.k, v.toNat⟩] := by
  rw [halves, none]

/-- An accepted write of a whole register. -/
theorem applyWrite_of_takes (h : Takes d q r i j k v) : applyWrite d (reqNum q) (regAddr r i j k) v =
    (halves d.cfg d.m ⟨r, i, j, k, false⟩ v).foldl (fun e x => writeHook d.cfg d.m (reqNum q) x e)
      ⟨storeCfg d.cfg (d.m.glb.sealSt == .sealed) (halves d.cfg d.m ⟨r, i, j, k, false⟩ v),
       (halves d.cfg d.m ⟨r, i, j, k, false⟩ v).foldl (fun m x => storeStat (noteWrote m x) (reqNum q) x)
        (countWrite d.cfg ((halves d.cfg d.m ⟨r, i, j, k, false⟩ v).foldl clearStat d.m) (halves d.cfg d.m ⟨r, i, j, k, false⟩ v))⟩ := by
  obtain ⟨counter, noLo, noHi⟩ := h.whole
  simp only [applyWrite, h.present, h.linked, h.here, counter, noHi, noLo, h.accepted, Bool.or_self, Bool.false_eq_true, if_false, Option.isSome_none,
    Bool.false_and]

/-- A refused one changes what a refusal does, and nothing else. -/
theorem applyWrite_of_refusal {off n cause : Nat} {x : Loc} {h : Half} (present : absentBlock d.cfg off = false) (linked : unreachable d.m off = false)
    (here : locate off = some x) (counter : isCounter x.reg = false) (noHi : hiOf x.reg = none) (noLo : loOf x.reg = none)
    (refused : refusal d.cfg (storeCfg d.cfg (d.m.glb.sealSt == .sealed) (halves d.cfg d.m x v)) d.m (halves d.cfg d.m x v) = some (cause, h)) :
    applyWrite d n off v = { d with m := refuse d.m n h.off cause 0 } := by
  simp only [applyWrite, present, linked, here, counter, noHi, noLo, refused, Bool.or_self, Bool.false_eq_true, if_false, Option.isSome_none,
    Bool.false_and]

/-- An `_LO` half is held. -/
theorem applyWrite_of_lower {off n : Nat} {x : Loc} (present : absentBlock d.cfg off = false) (linked : unreachable d.m off = false)
    (here : locate off = some x) (counter : isCounter x.reg = false) (upper : (hiOf x.reg).isSome = true)
    (settable : (regFields x.reg).any (·.settable) = true) :
    applyWrite d n off v = { d with m := { d.m with reg := { d.m.reg with loHeld := Tbl.ins d.m.reg.loHeld off v } } } := by
  simp only [applyWrite, present, linked, here, counter, upper, settable, Bool.or_self, Bool.false_eq_true, if_false, Bool.and_self, if_true]

/-! ### Refusals -/

/-- Changes of the registers alone, said of the result. -/
theorem eq_of_reg_frame {m m' : Mach} (h : ∃ g, m' = { m with reg := g }) : m' = { m with reg := m'.reg } := by
  obtain ⟨g, rfl⟩ := h
  rfl

theorem refuse_frame (m : Mach) (n off cause code : Nat) : ∃ g, refuse m n off cause code = { m with reg := g } := by
  unfold refuse
  extract_lets m₁ m₂
  have counted : ∃ g, m₁ = { m with reg := g } := setSt_frame _ _ _ _ _ _
  split
  · exact counted
  · have noted : ∃ g, m₂ = { m with reg := g } :=
      reg_trans (reg_trans counted (setSt_frame _ _ _ _ _ _)) (setSt_frame _ _ _ _ _ _)
    exact reg_trans (reg_trans (reg_trans (reg_trans noted (setSt_frame _ _ _ _ _ _)) (setSt_frame _ _ _ _ _ _)) (setSt_frame _ _ _ _ _ _))
      (setSt_frame _ _ _ _ _ _)

/-- A count from 1 up to its end is entered in its table. -/
theorem putFld_refusedCount (t : Tbl Word) {n : Nat} (low : 0 < n) (high : n < 2 ^ 32) :
    ∃ w, putFld t glbCfgRefusedCntCount 0 0 0 n = Tbl.ins t (regAddr .glbCfgRefusedCnt 0 0 0) w := by
  refine ⟨_, if_neg fun same => ?_⟩
  have held : bits (0 : Word).toNat 31 0 = bits (putBits (partWord .stat t .glbCfgRefusedCnt 0 0 0).toNat 31 0 n) 31 0 := by
    rw [← bits_ofNat (putBits _ _ _ _) _ (by decide : 31 < 32)]
    exact congrArg (fun w : Word => bits w.toNat 31 0) same.symm
  rw [bits_putBits_self, Nat.mod_eq_of_lt high] at held
  exact absurd held (by rw [show bits (0 : Word).toNat 31 0 = 0 from rfl]; omega)

/-- The latch's bit is held apart from the count. -/
theorem latched_of_counted (m : Mach) {n : Nat} (low : 0 < n) (high : n < 2 ^ 32) :
    (m.setSt glbCfgRefusedCntCount n).stOn glbCfgRefusedCfgWriteRefused = m.stOn glbCfgRefusedCfgWriteRefused := by
  obtain ⟨w, entered⟩ := putFld_refusedCount m.reg.stat low high
  simp only [Mach.stOn, Mach.st, Mach.setSt, fldIn]
  rw [entered, Tbl.find_ins_other _ _ (by decide)]

theorem refuse_of_held (m : Mach) (n off cause code : Nat) (held : m.stOn glbCfgRefusedCfgWriteRefused = true) :
    refuse m n off cause code = m.setSt glbCfgRefusedCntCount (min (2 ^ 32 - 1) (m.st glbCfgRefusedCntCount + 1)) :=
  if_pos ((latched_of_counted m (by omega) (by omega)).trans held)

/-- Settles O13. -/
theorem refusedWriteIsRefusedWhole : Obligations.RefusedWriteIsRefusedWhole := by
  unfold Obligations.RefusedWriteIsRefusedWhole
  intro s q off v x cause h live reach aligned may free present linked here counter noHi noLo refused
  refine ⟨?_, eq_of_reg_frame (refuse_frame _ _ _ _ _), refuse_of_held _ _ _ _ _⟩
  rw [exec_regWrite live reach, regWrite_of_taken aligned may free, applyWrite_of_refusal present linked here counter noHi noLo refused]
  rfl

/-! ### What a write stores with the status -/

theorem clearStat_frame (m : Mach) (h : Half) : ∃ g, clearStat m h = { m with reg := g } := by
  refine foldl_reg _ (fun m x => ?_) _ m
  split
  · exact setSt_frame _ _ _ _ _ _
  · exact ⟨m.reg, rfl⟩

theorem noteWrote_frame (m : Mach) (h : Half) : ∃ g, noteWrote m h = { m with reg := g } := by
  unfold noteWrote
  split
  · exact ⟨_, rfl⟩
  · exact ⟨m.reg, rfl⟩

theorem storeStat_frame (m : Mach) (n : Nat) (h : Half) : ∃ g, storeStat m n h = { m with reg := g } := by
  refine foldl_reg _ (fun m x => ?_) _ m
  split
  · exact ⟨_, rfl⟩
  · split
    · exact ⟨m.reg, rfl⟩
    · split
      · exact setSt_frame _ _ _ _ _ _
      · exact setSt_frame _ _ _ _ _ _
      · exact ⟨m.reg, rfl⟩

theorem countWrite_frame (c : Cfg) (m : Mach) (hs : List Half) : ∃ g, countWrite c m hs = { m with reg := g } := by
  refine foldl_reg _ (fun m h => ?_) _ m
  split
  · exact pmcEvent_frame _ _ _ _ _
  · exact ⟨m.reg, rfl⟩

theorem wrote_frame (s : State) (q : Requester) (r : Reg) (i j k : Nat) (v : Word) : ∃ g, s.wrote q r i j k v = { s.mach with reg := g } := by
  unfold State.wrote
  extract_lets hs
  refine reg_trans (reg_trans (foldl_reg _ clearStat_frame _ _) (countWrite_frame _ _ _)) (foldl_reg _ (fun m h => ?_) _ _)
  exact reg_trans (noteWrote_frame m h) (storeStat_frame _ _ _)

/-- What becomes of a register does not change with the bits that a write cannot. -/
theorem Half.eff_reg (c : Cfg) (m : Mach) (h : Half) : (h.eff c m).reg = h.reg := by
  unfold Half.eff
  split
  · rfl
  · split <;> rfl
  · split <;> rfl
  · rfl

/-- A register whose write sets nothing else off. -/
theorem writeHook_fwdLport {c : Cfg} {m : Mach} {n : Nat} {h : Half} (reg : h.reg = .fwdLport) : writeHook c m n h d = d := by
  rw [writeHook, reg]

/-- An accepted write of a whole register takes effect: its hook runs on what it stores. -/
theorem regWrite_of_takes (h : Takes s.dev q r i j k v) : regWrite s.dev q (regAddr r i j k) v =
    settleDev (writeHook s.conf s.mach (reqNum q) (Half.eff s.conf s.mach ⟨r, i, j, k, v.toNat⟩) ⟨s.stored r i j k v, s.wrote q r i j k v⟩) := by
  have one : halves s.dev.cfg s.dev.m ⟨r, i, j, k, false⟩ v = [Half.eff s.dev.cfg s.dev.m ⟨r, i, j, k, v.toNat⟩] := halves_of_whole h.whole.2.1
  rw [regWrite_of_taken h.aligned h.may h.free, applyWrite_of_takes h]
  simp only [State.stored, State.wrote, one, List.foldl_cons, List.foldl_nil]

/-- Settles O14. -/
theorem acceptedWriteStoresItsFields : Obligations.AcceptedWriteStoresItsFields := by
  unfold Obligations.AcceptedWriteStoresItsFields
  refine ⟨fun s q r i j k v off live h place => ?_, fun s q i j v off live h place => ?_, fun c hs => ⟨rfl, rfl, rfl, rfl⟩,
    fun s q off v x live reach aligned may free present linked here counter upper settable => ?_⟩
  · rw [exec_regWrite live h.reach, place, regWrite_of_takes h, halves_of_whole (x := ⟨r, i, j, k, false⟩) h.whole.2.1]
    rfl
  · obtain ⟨g, kept⟩ := wrote_frame s q .fwdLport i j 0 v
    refine ⟨g, ?_⟩
    rw [exec_regWrite live h.reach, place, regWrite_of_takes h, writeHook_fwdLport (Half.eff_reg _ _ _), kept]
    rfl
  · rw [exec_regWrite live reach, regWrite_of_taken aligned may free, applyWrite_of_lower present linked here counter upper settable]
    rfl

end
end Sys2Proof.Machine

/-! What a register write stores with the status (R13): only words that its halves' addresses or its counter bank hold. -/
namespace Sys2Proof.Machine

/-- The step changes status words, outside `A`, and the notes of counter banks alone. -/
structure StatusOnly (A : Nat → Prop) (m m' : Mach) : Prop where
  frame : m' = { m with reg := { m.reg with stat := m'.reg.stat, pmcLast := m'.reg.pmcLast, pmcWrote := m'.reg.pmcWrote } }
  ordered : Tbl.rising m.reg.stat = true → Tbl.rising m'.reg.stat = true
  kept : Tbl.rising m.reg.stat = true → ∀ a, A a → Tbl.find m'.reg.stat a = Tbl.find m.reg.stat a

section
variable {A : Nat → Prop} {c : Cfg} {m m' m'' : Mach}

namespace StatusOnly

theorem refl (m : Mach) : StatusOnly A m m := ⟨rfl, id, fun _ _ _ => rfl⟩

theorem trans (h : StatusOnly A m m') (h' : StatusOnly A m' m'') : StatusOnly A m m'' where
  frame := by rw [h'.frame, h.frame]
  ordered o := h'.ordered (h.ordered o)
  kept o a ha := (h'.kept (h.ordered o) a ha).trans (h.kept o a ha)

theorem foldl {α : Type} {f : Mach → α → Mach} {l : List α} (hf : ∀ m, ∀ x ∈ l, StatusOnly A m (f m x)) : StatusOnly A m (l.foldl f m) := by
  induction l generalizing m with
  | nil => exact refl m
  | cons x l ih =>
    exact (hf m x List.mem_cons_self).trans (ih fun m y hy => hf m y (List.mem_cons_of_mem _ hy))

theorem setSt {x : Fld} {v i j k : Nat} (ne : ∀ a, A a → a ≠ regAddr x.reg i j k) : StatusOnly A m (m.setSt x v i j k) where
  frame := rfl
  ordered o := Mach.rising_setSt o x v i j k
  kept o a ha := find_putFld_of_ne o x v (ne a ha)

/-- A note of a bank leaves every status word. -/
theorem of_stat (h : m' = { m with reg := { m.reg with pmcLast := m'.reg.pmcLast, pmcWrote := m'.reg.pmcWrote } }) : StatusOnly A m m' where
  frame := by rw [h]
  ordered o := by rwa [h]
  kept o a _ := by rw [h]

end StatusOnly

/-! ### Counter banks -/

/-- The counters of a bank lie in its 256 bytes. -/
theorem pmc_in_bank {b n : Nat} (small : n < 8) {r : Reg} (hr : r = .pmcCntLo ∨ r = .pmcCntHi ∨ r = .pmcCntCfg) :
    pmcBankBase b ≤ regAddr r b n 0 ∧ regAddr r b n 0 < pmcBankBase b + 0x100 := by
  rcases hr with rfl | rfl | rfl <;> simp [regAddr, isPmc, regPlace, dimOffset] <;> omega

variable {b : Nat} (outside : ∀ a, A a → a < pmcBankBase b ∨ pmcBankBase b + 0x100 ≤ a)
include outside

theorem setSt_of_bank {x : Fld} (hx : x.reg = .pmcCntLo ∨ x.reg = .pmcCntHi ∨ x.reg = .pmcCntCfg) {n : Nat} (small : n < 8) (v : Nat) :
    StatusOnly A m (m.setSt x v b n) := by
  refine StatusOnly.setSt fun a ha same => ?_
  have := pmc_in_bank (b := b) small hx
  have := outside a ha
  omega

theorem pmcAdd_statusOnly {n : Nat} (small : n < 8) (x : Nat) : StatusOnly A m (pmcAdd m b n x) := by
  unfold pmcAdd
  split
  · exact .of_stat rfl
  · extract_lets w m'
    have stored : StatusOnly A m m' := (setSt_of_bank outside (.inl rfl) small _).trans (setSt_of_bank outside (.inr (.inl rfl)) small _)
    split
    · exact stored.trans (setSt_of_bank outside (.inr (.inr rfl)) small _)
    · exact stored

theorem pmcChain_statusOnly (fuel n : Nat) : StatusOnly A m (pmcChain c fuel m b n) := by
  induction fuel generalizing m n with
  | zero => exact .refl m
  | succ fuel ih =>
    unfold pmcChain
    split
    · next more =>
      simp only [Bool.and_eq_true, decide_eq_true_eq] at more
      have added : StatusOnly A m (pmcAdd m b (n + 1) 1) := pmcAdd_statusOnly outside more.1.1 _
      split
      · exact added.trans (ih _)
      · exact added
    · exact .refl m

theorem pmcEvent_statusOnly (ev x : Nat) : StatusOnly A m (pmcEvent c m b ev x) := by
  unfold pmcEvent
  split
  · exact .refl m
  · refine StatusOnly.foldl fun m n hn => ?_
    have small : n < 8 := List.mem_range.mp hn
    split
    · extract_lets key now last src m' add
      have noted : StatusOnly A m m' := .of_stat rfl
      split
      · exact (noted.trans (pmcAdd_statusOnly outside small _)).trans (pmcChain_statusOnly outside _ _)
      · exact noted.trans (pmcAdd_statusOnly outside small _)
    · exact .refl m

end

/-! ### The halves of a write -/

section
variable {A : Nat → Prop} {c : Cfg} {m : Mach} {h : Half}

theorem clearStat_statusOnly (ne : ∀ a, A a → a ≠ h.off) : StatusOnly A m (clearStat m h) := by
  refine StatusOnly.foldl fun m x hx => ?_
  split
  · exact StatusOnly.setSt (by rwa [(field_facts hx).1])
  · exact .refl m

theorem noteWrote_statusOnly : StatusOnly A m (noteWrote m h) := by
  unfold noteWrote
  split
  · exact .of_stat rfl
  · exact .refl m

theorem storeStat_statusOnly (ne : ∀ a, A a → a ≠ h.off) (bank : h.reg ≠ .glbReadBank) (n : Nat) : StatusOnly A m (storeStat m n h) := by
  refine StatusOnly.foldl fun m x hx => ?_
  split
  · next same =>
    have reg := (field_facts hx).1
    rw [same] at reg
    exact absurd reg.symm bank
  · split
    · exact .refl m
    · split
      · exact StatusOnly.setSt (by rwa [(field_facts hx).1])
      · exact StatusOnly.setSt (by rwa [(field_facts hx).1])
      · exact .refl m

theorem Half.eff_place (c : Cfg) (m : Mach) (h : Half) : (h.eff c m).i = h.i ∧ (h.eff c m).j = h.j ∧ (h.eff c m).k = h.k := by
  unfold Half.eff
  split
  · exact ⟨rfl, rfl, rfl⟩
  · split <;> exact ⟨rfl, rfl, rfl⟩
  · split <;> exact ⟨rfl, rfl, rfl⟩
  · exact ⟨rfl, rfl, rfl⟩

theorem Half.eff_off (c : Cfg) (m : Mach) (h : Half) : (h.eff c m).off = h.off := by
  obtain ⟨hi, hj, hk⟩ := Half.eff_place c m h
  rw [Half.off, Half.eff_reg, hi, hj, hk, Half.off]

/-- A write's halves are of its register, or of the `_LO` half that goes with it. -/
theorem mem_halves {x : Loc} {v : Word} (mem : h ∈ halves c m x v) :
    (h.reg = x.reg ∧ h.off = regAddr x.reg x.i x.j x.k) ∨ ∃ lo, loOf x.reg = some lo ∧ h.reg = lo ∧ h.off = regAddr lo x.i x.j x.k := by
  unfold halves at mem
  have upper : ∀ w : Nat, ((Half.eff c m ⟨x.reg, x.i, x.j, x.k, w⟩).reg = x.reg) ∧
      (Half.eff c m ⟨x.reg, x.i, x.j, x.k, w⟩).off = regAddr x.reg x.i x.j x.k := fun w => ⟨Half.eff_reg _ _ _, Half.eff_off _ _ _⟩
  split at mem
  · next lo pair =>
    split at mem
    · rcases List.mem_cons.mp mem with rfl | mem
      · exact .inr ⟨lo, pair, Half.eff_reg _ _ _, Half.eff_off _ _ _⟩
      · exact .inl (List.mem_singleton.mp mem ▸ upper _)
    · exact .inl (List.mem_singleton.mp mem ▸ upper _)
  · exact .inl (List.mem_singleton.mp mem ▸ upper _)

theorem loOf_ne_readBank {r lo : Reg} (pair : loOf r = some lo) : lo ≠ .glbReadBank := by
  rintro rfl
  revert pair
  cases r <;> decide

end

/-- A status word that a write of a register does not reach. -/
def Apart (r : Reg) (i j k a : Nat) : Prop :=
  a ≠ regAddr r i j k ∧ (∀ lo, loOf r = some lo → a ≠ regAddr lo i j k) ∧
  ∀ b, bankOf (regAddr r i j k) = some b ∨ (∃ lo, loOf r = some lo ∧ bankOf (regAddr lo i j k) = some b) →
    a < pmcBankBase b ∨ pmcBankBase b + 0x100 ≤ a

/-- What halves store with the status. -/
theorem stored_statusOnly {A : Nat → Prop} {c : Cfg} {m : Mach} {hs : List Half} (n : Nat) (apart : ∀ h ∈ hs, ∀ a, A a → a ≠ h.off)
    (readBank : ∀ h ∈ hs, h.reg ≠ .glbReadBank)
    (banks : ∀ h ∈ hs, ∀ b, bankOf h.off = some b → ∀ a, A a → a < pmcBankBase b ∨ pmcBankBase b + 0x100 ≤ a) :
    StatusOnly A m (hs.foldl (fun m h => storeStat (noteWrote m h) n h) (countWrite c (hs.foldl clearStat m) hs)) := by
  refine ((StatusOnly.foldl fun m h mem => clearStat_statusOnly (apart h mem)).trans (StatusOnly.foldl fun m h mem => ?_)).trans
    (StatusOnly.foldl fun m h mem => noteWrote_statusOnly.trans (storeStat_statusOnly (apart h mem) (readBank h mem) _))
  split
  · next b found => exact pmcEvent_statusOnly (banks h mem b found) _ _
  · exact .refl m

theorem wrote_statusOnly {s : State} {q : Requester} {r : Reg} {i j k : Nat} {v : Word} (readBank : r ≠ .glbReadBank) :
    StatusOnly (Apart r i j k) s.mach (s.wrote q r i j k v) := by
  refine stored_statusOnly _ (fun h mem a ha => ?_) (fun h mem => ?_) fun h mem b found a ha => ha.2.2 b ?_
  all_goals rcases mem_halves mem with ⟨reg, off⟩ | ⟨lo, pair, reg, off⟩
  · exact off ▸ ha.1
  · exact off ▸ ha.2.1 lo pair
  · exact reg ▸ readBank
  · exact reg ▸ loOf_ne_readBank pair
  · exact .inl (off ▸ found)
  · exact .inr ⟨lo, pair, off ▸ found⟩

/-- Settles O16. -/
theorem acceptedWriteTouchesItsOwnStatus : Obligations.AcceptedWriteTouchesItsOwnStatus := by
  unfold Obligations.AcceptedWriteTouchesItsOwnStatus
  intro s q r i j k v ordered readBank
  have only := wrote_statusOnly (s := s) (q := q) (r := r) (i := i) (j := j) (k := k) (v := v) readBank
  have frame := only.frame
  exact ⟨by rw [frame], by rw [frame], fun a own lower banks => only.kept ordered a ⟨own, lower, banks⟩⟩

end Sys2Proof.Machine

/-! Halves and reads (R10, R13, R236): the held `_LO` half goes with its `_HI` half, a counter's low half latches the high one, and a histogram's bin is
cleared by its read. -/
namespace Sys2Proof.Machine

section
variable {s : State} {q : Requester} {off : Nat}

/-! ### Reads -/

theorem State.onRead_live (live : s.live) (reach : reaches s.mach q = true) : s.onRead q off = .next (s.withM (regRead s.conf s.mach q off)) := by
  rw [State.onRead, State.on_live live, if_pos reach]

/-- A read that reaches a register. -/
theorem regRead_of_here {c : Cfg} {m : Mach} {x : Loc} (aligned : off % 4 = 0) (may : denied m (reqNum q) off false = false)
    (linked : unreachable m off = false) (present : absentBlock c off = false) (here : locate off = some x) :
    regRead c m q off = (readLoc c m (reqNum q) x).2.emit (.regRead q off (readLoc c m (reqNum q) x).1) := by
  simp [regRead, aligned, may, linked, present, here]

theorem readLoc_counter {c : Cfg} {m : Mach} {n : Nat} {x : Loc} (counter : isCounter x.reg = true) (lower : x.hi = false) :
    readLoc c m n x = (BitVec.ofNat 32 (m.ctr x.reg x.i x.j x.k), setLatch m n (BitVec.ofNat 32 (m.ctr x.reg x.i x.j x.k / 2 ^ 32))) := by
  simp [readLoc, counter, lower]

/-- A block but that of MACsec is on every variant. -/
theorem absentBlock_of_blk {c : Cfg} {b : Blk} (block : blkOf off = some b) (ne : b ≠ .msc) : absentBlock c off = false := by
  simp [absentBlock, block, ne]

theorem todNow_here : locate (regAddr .todNowNs 0 0 0) = some ⟨.todNowNs, 0, 0, 0, false⟩ := by decide +kernel

theorem todNow_linked (m : Mach) : unreachable m (regAddr .todNowNs 0 0 0) = false := by
  rw [unreachable, show dieAt (regAddr .todNowNs 0 0 0) = none by decide +kernel]
  rfl

theorem readLoc_todNow (c : Cfg) (m : Mach) (n : Nat) :
    readLoc c m n ⟨.todNowNs, 0, 0, 0, false⟩ = (readReg c (todLatch m n) n .todNowNs 0 0 0, todLatch m n) := rfl

/-- A register of one computed field shows it. -/
theorem readReg_of_view {c : Cfg} {m : Mach} {n : Nat} {r : Reg} {i j k : Nat} {x : Fld} {v : Nat} (fields : regFields r = [x])
    (view : viewOf c m n r i j = [(x, v)]) (low : x.lo = 0) : readReg c m n r i j k = BitVec.ofNat 32 (v % 2 ^ (x.hi + 1)) := by
  simp [readReg, fields, view, low]

/-- The whole time is latched, and its nanoseconds shown. -/
theorem readReg_todNow {c : Cfg} {m : Mach} {n : Nat} (ordered : Tbl.rising m.reg.todLatch = true) :
    readReg c (todLatch m n) n .todNowNs 0 0 0 = BitVec.ofNat 32 (m.todNs % 1_000_000_000) := by
  have latched : Tbl.look 0 (todLatch m n).reg.todLatch n = m.todFrac := Tbl.look_put_self _ _ _ _ ordered
  have whole : m.todFrac / 65536 = m.todNs := by
    rw [Mach.todFrac, Mach.todNs, Nat.div_div_eq_div_mul]
    rfl
  have view : viewOf c (todLatch m n) n .todNowNs 0 0 = [(todNowNsNs, nsOf (Tbl.look 0 (todLatch m n).reg.todLatch n / 65536))] := rfl
  rw [latched, whole, nsOf] at view
  rw [readReg_of_view rfl view rfl, Nat.mod_eq_of_lt]
  exact (Nat.mod_lt _ (by decide)).trans (by decide)

theorem readLoc_hist (c : Cfg) (m : Mach) (n k : Nat) : readLoc c m n ⟨.tskHistBin, k, 0, 0, false⟩ =
    (readReg c m n .tskHistBin k 0 0, clearOnRead c m ⟨.tskHistBin, k, 0, 0, false⟩) := rfl

theorem readReg_hist (c : Cfg) (m : Mach) (n k : Nat) :
    readReg c m n .tskHistBin k 0 0 = BitVec.ofNat 32 (Tbl.look 0 (m.wq (c.get tskHistSelWq)).hist k % 2 ^ 32) :=
  readReg_of_view (x := tskHistBinCount) rfl rfl rfl

theorem hist_block (k : Fin 16) : blkOf (regAddr .tskHistBin k 0 0) = some .tsk := by
  revert k
  decide +kernel

theorem regAddr_hist_aligned (k : Fin 16) : regAddr .tskHistBin k 0 0 % 4 = 0 := by
  revert k
  decide +kernel

/-! ### `FST_SAVE_BASE` -/

/-- The halves of a write of the upper half while the lower is held. -/
theorem halves_saveBase {c : Cfg} {m : Mach} {v w : Word} (held : Tbl.find m.reg.loHeld (regAddr .fstSaveBaseLo 0 0 0) = some w) :
    halves c m ⟨.fstSaveBaseHi, 0, 0, 0, false⟩ v = [⟨.fstSaveBaseLo, 0, 0, 0, w.toNat⟩, ⟨.fstSaveBaseHi, 0, 0, 0, v.toNat⟩] := by
  simp only [halves, show loOf .fstSaveBaseHi = some .fstSaveBaseLo from rfl, held]
  rfl

/-- Both are stored. -/
theorem live_of_saveBase (c : Cfg) (sealed : Bool) (v w : Nat) :
    (storeCfg c sealed [⟨.fstSaveBaseLo, 0, 0, 0, w⟩, ⟨.fstSaveBaseHi, 0, 0, 0, v⟩]).live =
      putFld (putFld c.live fstSaveBaseLoBase 0 0 0 (bits w 31 12)) fstSaveBaseHiBase 0 0 0 (bits v 1 0) := rfl

theorem get_of_saveBase {c : Cfg} (ordered : Tbl.rising c.live = true) (sealed : Bool) (v w : Nat) {x : Fld} (hx : x ∈ regFields .fstSaveBaseLo) :
    (storeCfg c sealed [⟨.fstSaveBaseLo, 0, 0, 0, w⟩, ⟨.fstSaveBaseHi, 0, 0, 0, v⟩]).get x = bits w x.hi x.lo := by
  obtain rfl : x = fstSaveBaseLoBase := List.mem_singleton.mp hx
  change fldIn (storeCfg c sealed _).live fstSaveBaseLoBase 0 0 0 = bits w 31 12
  rw [live_of_saveBase, fldIn_putFld_of_ne (rising_putFld ordered _ _ _ _ _) _ _ _ (by decide), fldIn_putFld_self ordered (by decide)]
  exact Nat.mod_eq_of_lt (bits_lt w 31 12)

/-- The machine with a held lower half used up. -/
def Mach.usesLower (m : Mach) (a : Nat) : Mach := { m with reg := { m.reg with loHeld := Tbl.del m.reg.loHeld a } }

/-- An accepted write of an upper half. -/
theorem applyWrite_of_upper {d : Dev} {n off : Nat} {v : Word} {x : Loc} {lo : Reg} (present : absentBlock d.cfg off = false)
    (linked : unreachable d.m off = false) (here : locate off = some x) (counter : isCounter x.reg = false) (noHi : hiOf x.reg = none)
    (pair : loOf x.reg = some lo)
    (accepted : refusal d.cfg (storeCfg d.cfg (d.m.glb.sealSt == .sealed) (halves d.cfg d.m x v)) (d.m.usesLower (regAddr lo x.i x.j x.k))
      (halves d.cfg d.m x v) = none) :
    applyWrite d n off v = (halves d.cfg d.m x v).foldl (fun e h => writeHook d.cfg (d.m.usesLower (regAddr lo x.i x.j x.k)) n h e)
      ⟨storeCfg d.cfg (d.m.glb.sealSt == .sealed) (halves d.cfg d.m x v), (halves d.cfg d.m x v).foldl (fun m h => storeStat (noteWrote m h) n h)
        (countWrite d.cfg ((halves d.cfg d.m x v).foldl clearStat (d.m.usesLower (regAddr lo x.i x.j x.k))) (halves d.cfg d.m x v))⟩ := by
  simp only [Mach.usesLower] at accepted ⊢
  simp only [applyWrite, present, linked, here, counter, noHi, pair, accepted, Bool.or_self, Bool.false_eq_true, if_false, Option.isSome_none,
    Bool.false_and]

theorem writeHook_saveBase (c : Cfg) (m : Mach) (n w : Nat) (d : Dev) :
    writeHook c m n ⟨.fstSaveBaseLo, 0, 0, 0, w⟩ d = d ∧ writeHook c m n ⟨.fstSaveBaseHi, 0, 0, 0, w⟩ d = d := ⟨rfl, rfl⟩

/-- An accepted write of it uses the lower half up. -/
theorem applyWrite_saveBase {d : Dev} {n : Nat} {v w : Word} (linked : unreachable d.m (regAddr .fstSaveBaseHi 0 0 0) = false)
    (held : Tbl.find d.m.reg.loHeld (regAddr .fstSaveBaseLo 0 0 0) = some w)
    (accepted : refusal d.cfg (storeCfg d.cfg (d.m.glb.sealSt == .sealed) (halves d.cfg d.m ⟨.fstSaveBaseHi, 0, 0, 0, false⟩ v))
      (d.m.usesLower (regAddr .fstSaveBaseLo 0 0 0)) (halves d.cfg d.m ⟨.fstSaveBaseHi, 0, 0, 0, false⟩ v) = none) :
    ∃ g, applyWrite d n (regAddr .fstSaveBaseHi 0 0 0) v = ⟨storeCfg d.cfg (d.m.glb.sealSt == .sealed)
        [⟨.fstSaveBaseLo, 0, 0, 0, w.toNat⟩, ⟨.fstSaveBaseHi, 0, 0, 0, v.toNat⟩], { d.m with reg := g }⟩ ∧
      g.loHeld = Tbl.del d.m.reg.loHeld (regAddr .fstSaveBaseLo 0 0 0) := by
  have stored := stored_statusOnly (A := fun _ => False) (c := d.cfg) (m := d.m.usesLower (regAddr .fstSaveBaseLo 0 0 0))
    (hs := [⟨.fstSaveBaseLo, 0, 0, 0, w.toNat⟩, ⟨.fstSaveBaseHi, 0, 0, 0, v.toNat⟩]) n (by simp) (by simp) (by simp)
  rw [applyWrite_of_upper (absentBlock_of_blk (b := .fst) (by decide +kernel) (by decide)) linked
    (show locate (regAddr .fstSaveBaseHi 0 0 0) = some ⟨.fstSaveBaseHi, 0, 0, 0, false⟩ by decide +kernel) rfl rfl rfl accepted, halves_saveBase held,
    List.foldl_cons, List.foldl_cons, List.foldl_nil, (writeHook_saveBase _ _ _ _ _).1, (writeHook_saveBase _ _ _ _ _).2]
  refine ⟨_, congrArg (Dev.mk _) stored.frame, rfl⟩

/-- Settles O15. -/
theorem halvesAreHeldLatchedAndCleared : Obligations.HalvesAreHeldLatchedAndCleared := by
  unfold Obligations.HalvesAreHeldLatchedAndCleared
  refine ⟨fun s q v w off live reach place may free linked ordered held unsealed accepted => ?_,
    ⟨fun s q off x live reach aligned may present linked here counter lower => ?_, fun s q live reach may => ?_⟩,
    fun s q k off live reach place may linked here => ?_⟩
  · rw [place] at may free linked
    obtain ⟨g, taken, used⟩ := applyWrite_saveBase (d := s.dev) (n := reqNum q) (v := v) linked held (by rw [unsealed]; exact accepted)
    refine ⟨_, g, ?_, used, fun x hx settable => get_of_saveBase ordered (s.mach.glb.sealSt == .sealed) v.toNat _ hx⟩
    rw [show exec (.regWriteHiApply q off v) s = s.onWrite q fun d => regWrite d q off.toNat v from rfl, State.onWrite_live live reach, place,
      regWrite_of_taken (by decide) may free, taken]
    rfl
  · rw [show exec (.regReadLoLatch q ⟨off, .b32⟩) s = s.onRead q off.toNat from rfl, State.onRead_live live reach,
      regRead_of_here aligned may linked present here, readLoc_counter counter lower]
    rfl
  · refine ⟨readReg s.conf (todLatch s.mach (reqNum q)) (reqNum q) .todNowNs 0 0 0, ?_, readReg_todNow⟩
    rw [show exec (.todNowRead q) s = s.onRead q (regAddr .todNowNs 0 0 0) from rfl, State.onRead_live live reach,
      regRead_of_here (by decide) may (todNow_linked _) (absentBlock_of_blk (b := .tod) (by decide +kernel) (by decide)) todNow_here, readLoc_todNow]
    rfl
  · rw [show exec (.regReadClear q off) s = s.onRead q off.toNat from rfl, State.onRead_live live reach,
      regRead_of_here (place ▸ regAddr_hist_aligned k) may linked (absentBlock_of_blk (place ▸ hist_block k) (by decide)) here, readLoc_hist, readReg_hist]
    rfl

end
end Sys2Proof.Machine

/-! What the machine's functions keep. A step keeps the order of every table of `Mach.Ordered` and the uptime, and one of the data path, where `k` stands, keeps the global
state, the time of day, the security store and the mark of a FATAL fault as well. Each function of the model has one such rule, by the rules of
what it calls; the functions that write a table come first. -/
namespace Sys2Proof.Machine

/-- What stays where a function keeps more than order. -/
structure Still (m m' : Mach) : Prop where
  glb : m'.glb = m.glb
  tod : m'.tod = m.tod
  nv : m'.sec.nv = m.sec.nv
  up : m'.up = m.up
  fatal : m'.flt.fatal = m.flt.fatal

/-- The step keeps order and, where `k` stands, more. -/
structure Keeps (k : Prop) (m m' : Mach) : Prop where
  ordered : m.Ordered → m'.Ordered
  up : m'.up = m.up
  still : k → Still m m'

variable {k : Prop} {c : Cfg} {m₀ m : Mach}

theorem Still.refl (m : Mach) : Still m m := ⟨rfl, rfl, rfl, rfl, rfl⟩

theorem Still.trans {a b e : Mach} (h : Still a b) (h' : Still b e) : Still a e :=
  ⟨h'.glb.trans h.glb, h'.tod.trans h.tod, h'.nv.trans h.nv, h'.up.trans h.up, h'.fatal.trans h.fatal⟩

theorem Keeps.refl (m : Mach) : Keeps k m m := ⟨id, rfl, fun _ => .refl m⟩

theorem Keeps.trans {a b e : Mach} (h : Keeps k a b) (h' : Keeps k b e) : Keeps k a e :=
  ⟨fun o => h'.ordered (h.ordered o), h'.up.trans h.up, fun hk => (h.still hk).trans (h'.still hk)⟩

theorem Keeps.foldl {α : Type} {f : Mach → α → Mach} {l : List α} (hf : ∀ m x, Keeps k m₀ m → Keeps k m₀ (f m x)) {m : Mach} (h : Keeps k m₀ m) :
    Keeps k m₀ (l.foldl f m) := by
  induction l generalizing m with
  | nil => exact h
  | cons x l ih => exact ih (hf m x h)

/-- A step that leaves the tables of `Mach.Ordered`. -/
theorem Keeps.update (h : Keeps k m₀ m) {reg : RegSt} {glb : GlbSt} {flt : FltSt} {hif : HifSt} {tod : TodSt} {pwr : PwrSt} {fwd : FwdSt} {tmg : TmgSt}
    {sch : SchSt} {fsl : FslSt} {act : ActSt} {tsk : TskSt} {duo : DuoSt} {ppl : PplSt} {msc : MscSt} {sec : SecSt} {free : Nat} {out : List Output}
    (stat : reg.stat = m.reg.stat) (loHeld : reg.loHeld = m.reg.loHeld) (todLatch : reg.todLatch = m.reg.todLatch) (ports : hif.ports = m.hif.ports)
    (rings : hif.rings = m.hif.rings) (active : act.act = m.act.act) (shadow : act.shadow = m.act.shadow) (sweep : fsl.sweep = m.fsl.sweep)
    (natBit : fsl.natBit = m.fsl.natBit) (beGroup : fsl.beGroup = m.fsl.beGroup) (beSlot : fsl.beSlot = m.fsl.beSlot)
    (backend : fsl.backend = m.fsl.backend) (fdb : fwd.fdb = m.fwd.fdb) (bd : fwd.bd = m.fwd.bd) (nh : fwd.nh = m.fwd.nh)
    (group : fwd.group = m.fwd.group) (member : fwd.member = m.fwd.member) (map : fwd.map = m.fwd.map) (sub : fwd.sub = m.fwd.sub)
    (cir : sch.cir = m.sch.cir) (pir : sch.pir = m.sch.pir) (gates : sch.gates = m.sch.gates) (steer : duo.steer = m.duo.steer)
    (est : duo.est = m.duo.est) (cores : tsk.cores = m.tsk.cores) (tag : sec.nv.tag = m.sec.nv.tag)
    (hglb : k → glb = m.glb) (htod : k → tod = m.tod) (hnv : k → sec.nv = m.sec.nv) (hfatal : k → flt.fatal = m.flt.fatal) :
    Keeps k m₀ ⟨reg, glb, flt, hif, tod, pwr, fwd, tmg, sch, fsl, act, tsk, duo, ppl, msc, sec, m.up, free, out⟩ where
  ordered o := by
    obtain ⟨o₁, o₂, o₃, o₄, o₅, o₆, o₇, o₈, o₉, o₁₀, o₁₁, o₁₂, o₁₃, o₁₄, o₁₅, o₁₆, o₁₇, o₁₈, o₁₉, o₂₀, o₂₁, o₂₂, o₂₃, o₂₄, o₂₅, o₂₆, o₂₇⟩ := h.ordered o
    constructor <;> simp_all [Mach.gate]
  up := h.up
  still hk := (h.still hk).trans ⟨hglb hk, htod hk, hnv hk, rfl, hfatal hk⟩

/-- A step that changes tables of `Mach.Ordered` and nothing besides that stays. -/
theorem Keeps.of_ordered {m' : Mach} (h : Keeps k m₀ m) (ordered : m.Ordered → m'.Ordered) (still : Still m m') : Keeps k m₀ m' :=
  h.trans ⟨ordered, still.up, fun _ => still⟩

/-- The same where each table is the one before by computation. -/
theorem Keeps.rest (h : Keeps k m₀ m) {reg : RegSt} {flt : FltSt} {hif : HifSt} {pwr : PwrSt} {fwd : FwdSt} {tmg : TmgSt}
    {sch : SchSt} {fsl : FslSt} {act : ActSt} {tsk : TskSt} {duo : DuoSt} {ppl : PplSt} {msc : MscSt} {sec : SecSt} {free : Nat} {out : List Output}
    (tables : (reg.stat, reg.loHeld, reg.todLatch, hif.ports, hif.rings, act.act, act.shadow, fsl.sweep, fsl.natBit, fsl.beGroup, fsl.beSlot, fsl.backend,
        fwd.fdb, fwd.bd, fwd.nh, fwd.group, fwd.member, fwd.map, fwd.sub, sch.cir, sch.pir, sch.gates, duo.steer, duo.est, tsk.cores, sec.nv, flt.fatal) =
      (m.reg.stat, m.reg.loHeld, m.reg.todLatch, m.hif.ports, m.hif.rings, m.act.act, m.act.shadow, m.fsl.sweep, m.fsl.natBit, m.fsl.beGroup,
        m.fsl.beSlot, m.fsl.backend, m.fwd.fdb, m.fwd.bd, m.fwd.nh, m.fwd.group, m.fwd.member, m.fwd.map, m.fwd.sub, m.sch.cir, m.sch.pir, m.sch.gates,
        m.duo.steer, m.duo.est, m.tsk.cores, m.sec.nv, m.flt.fatal)) :
    Keeps k m₀ ⟨reg, m.glb, flt, hif, m.tod, pwr, fwd, tmg, sch, fsl, act, tsk, duo, ppl, msc, sec, m.up, free, out⟩ := by
  simp only [Prod.mk.injEq] at tables
  obtain ⟨e₁, e₂, e₃, e₄, e₅, e₆, e₇, e₈, e₉, e₁₀, e₁₁, e₁₂, e₁₃, e₁₄, e₁₅, e₁₆, e₁₇, e₁₈, e₁₉, e₂₀, e₂₁, e₂₂, e₂₃, e₂₄, e₂₅, e₂₆, e₂₇⟩ := tables
  exact h.update e₁ e₂ e₃ e₄ e₅ e₆ e₇ e₈ e₉ e₁₀ e₁₁ e₁₂ e₁₃ e₁₄ e₁₅ e₁₆ e₁₇ e₁₈ e₁₉ e₂₀ e₂₁ e₂₂ e₂₃ e₂₄ e₂₅ (congrArg NvSt.tag e₂₆) (fun _ => rfl)
    (fun _ => rfl) (fun _ => e₂₆) fun _ => e₂₇

theorem Keeps.of_pair {α : Type} {p : α × Mach} {a : α} {m' : Mach} (h : Keeps k m₀ p.2) (e : p = (a, m')) : Keeps k m₀ m' := by
  subst e
  exact h

/-- Order and uptime alone. -/
theorem Keeps.of_order {m' : Mach} (h : Keeps False m₀ m) (ordered : m.Ordered → m'.Ordered) (up : m'.up = m.up := by rfl) : Keeps False m₀ m' :=
  h.trans ⟨ordered, up, False.elim⟩

/-- A step that may change all but the tables, where order alone is kept. -/
theorem Keeps.tables (h : Keeps False m₀ m) {reg : RegSt} {glb : GlbSt} {flt : FltSt} {hif : HifSt} {tod : TodSt} {pwr : PwrSt} {fwd : FwdSt} {tmg : TmgSt}
    {sch : SchSt} {fsl : FslSt} {act : ActSt} {tsk : TskSt} {duo : DuoSt} {ppl : PplSt} {msc : MscSt} {sec : SecSt} {free : Nat} {out : List Output}
    (tables : (reg.stat, reg.loHeld, reg.todLatch, hif.ports, hif.rings, act.act, act.shadow, fsl.sweep, fsl.natBit, fsl.beGroup, fsl.beSlot, fsl.backend,
        fwd.fdb, fwd.bd, fwd.nh, fwd.group, fwd.member, fwd.map, fwd.sub, sch.cir, sch.pir, sch.gates, duo.steer, duo.est, tsk.cores, sec.nv.tag) =
      (m.reg.stat, m.reg.loHeld, m.reg.todLatch, m.hif.ports, m.hif.rings, m.act.act, m.act.shadow, m.fsl.sweep, m.fsl.natBit, m.fsl.beGroup,
        m.fsl.beSlot, m.fsl.backend, m.fwd.fdb, m.fwd.bd, m.fwd.nh, m.fwd.group, m.fwd.member, m.fwd.map, m.fwd.sub, m.sch.cir, m.sch.pir, m.sch.gates,
        m.duo.steer, m.duo.est, m.tsk.cores, m.sec.nv.tag)) :
    Keeps False m₀ ⟨reg, glb, flt, hif, tod, pwr, fwd, tmg, sch, fsl, act, tsk, duo, ppl, msc, sec, m.up, free, out⟩ := by
  simp only [Prod.mk.injEq] at tables
  obtain ⟨e₁, e₂, e₃, e₄, e₅, e₆, e₇, e₈, e₉, e₁₀, e₁₁, e₁₂, e₁₃, e₁₄, e₁₅, e₁₆, e₁₇, e₁₈, e₁₉, e₂₀, e₂₁, e₂₂, e₂₃, e₂₄, e₂₅, e₂₆⟩ := tables
  refine (h.update (glb := glb) (tod := tod) (free := free) (out := out) (flt := flt) (pwr := pwr) (tmg := tmg) (ppl := ppl) (msc := msc) e₁ e₂ e₃ e₄ e₅ e₆ e₇ e₈ e₉ e₁₀ e₁₁ e₁₂ e₁₃ e₁₄ e₁₅ e₁₆ e₁₇ e₁₈ e₁₉ e₂₀ e₂₁ e₂₂ e₂₃ e₂₄ e₂₅ e₂₆ False.elim False.elim False.elim
    False.elim).of_order fun o => ?_
  obtain ⟨⟩ := o
  constructor <;> assumption

/-- Every machine that an answer carries has a property. -/
def Alloc.Leaves (P : Mach → Prop) : Alloc → Prop
  | .ok _ _ m => P m
  | .wait => True
  | .fail m => P m

def QuoteAns.Leaves (P : Mach → Prop) : QuoteAns → Prop
  | .done _ _ m => P m
  | .wait _ m => P m

def CmdAns.Leaves (P : Mach → Prop) : CmdAns → Prop
  | .done _ _ _ m => P m
  | .leave _ m => P m
  | .later m => P m

end Sys2Proof.Machine

namespace Sys2Proof.Machine
variable {k : Prop} {c : Cfg} {m₀ m : Mach}

/-! ### Functions that write a table -/

theorem Mach.setSt_keeps {x : Fld} {v i j k1 : Nat} (h : Keeps k m₀ m) : Keeps k m₀ (m.setSt x v i j k1) :=
  h.of_ordered (fun o => { o with stat := Mach.rising_setSt o.stat x v i j k1 }) ⟨rfl, rfl, rfl, rfl, rfl⟩

theorem Mach.setRing_keeps {r : Nat} {x : Ring} (h : Keeps k m₀ m) : Keeps k m₀ (m.setRing r x) :=
  h.of_ordered (fun o => { o with rings := Tbl.rising_put _ _ r x o.rings }) ⟨rfl, rfl, rfl, rfl, rfl⟩

theorem Mach.setPort_keeps {p : Nat} {x : HostPort} (h : Keeps k m₀ m) : Keeps k m₀ (m.setPort p x) :=
  h.of_ordered (fun o => { o with ports := Tbl.rising_put _ _ p x o.ports }) ⟨rfl, rfl, rfl, rfl, rfl⟩

theorem Mach.setCore_keeps {n : Nat} {x : Core} (h : Keeps k m₀ m) : Keeps k m₀ (m.setCore n x) :=
  h.of_ordered (fun o => { o with cores := Tbl.rising_put _ _ n x o.cores }) ⟨rfl, rfl, rfl, rfl, rfl⟩

theorem Mach.setSweep_keeps {region : Nat} {x : Sweep} (h : Keeps k m₀ m) : Keeps k m₀ (m.setSweep region x) :=
  h.of_ordered (fun o => { o with sweep := Tbl.rising_put _ _ region x o.sweep }) ⟨rfl, rfl, rfl, rfl, rfl⟩

theorem Mach.setEnt_keeps {e state : Nat} {shadowed : Bool} (h : Keeps k m₀ m) : Keeps k m₀ (m.setEnt e state shadowed) :=
  h.of_ordered (fun o => { o with est := Tbl.rising_put _ _ e _ o.est }) ⟨rfl, rfl, rfl, rfl, rfl⟩

theorem Mach.setFdb_keeps {p e : Nat} (h : Keeps k m₀ m) : Keeps k m₀ (m.setFdb p e) :=
  h.of_ordered (fun o => { o with fdb := Tbl.rising_put _ _ p e o.fdb }) ⟨rfl, rfl, rfl, rfl, rfl⟩

theorem natSet_keeps {row port : Nat} {v : Bool} (h : Keeps k m₀ m) : Keeps k m₀ (natSet m row port v) :=
  h.of_ordered (fun o => { o with natBit := Tbl.rising_put _ _ (row * 65536 + port) v o.natBit }) ⟨rfl, rfl, rfl, rfl, rfl⟩

theorem todLatch_keeps {q : Nat} (h : Keeps k m₀ m) : Keeps k m₀ (todLatch m q) :=
  h.of_ordered (fun o => { o with todLatch := Tbl.rising_put _ _ q _ o.todLatch }) ⟨rfl, rfl, rfl, rfl, rfl⟩

/-- A gate unit whose admin list is in order. -/
theorem Mach.setGate_keeps {l : Nat} {g : GateUnit} (h : Keeps k m₀ m) (admin : (∀ l, Tbl.rising (m.gate l).admin = true) → Tbl.rising g.admin = true) :
    Keeps k m₀ (m.setGate l g) := by
  refine h.of_ordered (fun o => { o with gates := Tbl.rising_put _ _ l g o.gates, admin := fun l' => ?_ }) ⟨rfl, rfl, rfl, rfl, rfl⟩
  by_cases same : l' = l
  · rw [same, Mach.gate, Mach.setGate, Tbl.look_put_self _ _ _ _ o.gates]
    exact admin o.admin
  · rw [Mach.gate, Mach.setGate, Tbl.look_put_other _ _ _ _ same o.gates]
    exact o.admin l'

theorem buckets_put_keeps {n n' : Nat} {a b : Bucket} (h : Keeps k m₀ m) :
    Keeps k m₀ { m with sch := { m.sch with cir := Tbl.put {} m.sch.cir n a, pir := Tbl.put {} m.sch.pir n' b } } :=
  h.of_ordered (fun o => { o with cir := Tbl.rising_put _ _ n a o.cir, pir := Tbl.rising_put _ _ n' b o.pir }) ⟨rfl, rfl, rfl, rfl, rfl⟩

theorem steer_put_keeps {e x : Nat} (h : Keeps k m₀ m) : Keeps k m₀ { m with duo := { m.duo with steer := Tbl.put 0 m.duo.steer e x } } :=
  h.of_ordered (fun o => { o with steer := Tbl.rising_put _ _ e x o.steer }) ⟨rfl, rfl, rfl, rfl, rfl⟩

theorem evalNode_keeps {n : Node} (h : Keeps k m₀ m) : Keeps k m₀ (evalNode c m n) := buckets_put_keeps h

theorem chargeNode_keeps {n : Node} {len : Int} (h : Keeps k m₀ m) : Keeps k m₀ (chargeNode c m n len) := buckets_put_keeps h

theorem rateWrite_keeps {c' : Cfg} {n : Node} {cirRst pirRst : Option Nat} (h : Keeps k m₀ m) : Keeps k m₀ (rateWrite c c' m n cirRst pirRst) :=
  buckets_put_keeps h

theorem nodeFault_keeps {n : Nat} (h : Keeps k m₀ m) : Keeps k m₀ (nodeFault m n) :=
  h.of_ordered (fun o => { o with cir := Tbl.rising_ins _ n _ o.cir, pir := Tbl.rising_ins _ n _ o.pir }) ⟨rfl, rfl, rfl, rfl, rfl⟩

theorem unstash_keeps {region : Nat} {key : List Byte} (h : Keeps k m₀ m) : Keeps k m₀ (unstash m region key) := by
  refine h.of_ordered (fun o => { o with sweep := ?_ }) ⟨rfl, rfl, rfl, rfl, rfl⟩
  simp only [unstash]
  split
  · exact Tbl.rising_put _ _ _ _ o.sweep
  · exact o.sweep

/-! ### Tables of commands -/

theorem bd_put_keeps {n e : Nat} (h : Keeps k m₀ m) : Keeps k m₀ { m with fwd := { m.fwd with bd := Tbl.put 0 m.fwd.bd n e } } :=
  h.of_ordered (fun o => { o with bd := Tbl.rising_put _ _ n e o.bd }) ⟨rfl, rfl, rfl, rfl, rfl⟩

theorem nh_put_keeps {n e : Nat} (h : Keeps k m₀ m) : Keeps k m₀ { m with fwd := { m.fwd with nh := Tbl.put 0 m.fwd.nh n e } } :=
  h.of_ordered (fun o => { o with nh := Tbl.rising_put _ _ n e o.nh }) ⟨rfl, rfl, rfl, rfl, rfl⟩

theorem group_put_keeps {n e : Nat} (h : Keeps k m₀ m) : Keeps k m₀ { m with fwd := { m.fwd with group := Tbl.put 0 m.fwd.group n e } } :=
  h.of_ordered (fun o => { o with group := Tbl.rising_put _ _ n e o.group }) ⟨rfl, rfl, rfl, rfl, rfl⟩

theorem member_put_keeps {n e : Nat} (h : Keeps k m₀ m) : Keeps k m₀ { m with fwd := { m.fwd with member := Tbl.put 0 m.fwd.member n e } } :=
  h.of_ordered (fun o => { o with member := Tbl.rising_put _ _ n e o.member }) ⟨rfl, rfl, rfl, rfl, rfl⟩

theorem sub_put_keeps {d b : List Byte} {n e : Nat} (h : Keeps k m₀ m) :
    Keeps k m₀ { m with fwd := { m.fwd with sub := Tbl.put d m.fwd.sub n b, map := Tbl.put 0 m.fwd.map n e } } :=
  h.of_ordered (fun o => { o with sub := Tbl.rising_put _ _ n b o.sub, map := Tbl.rising_put _ _ n e o.map }) ⟨rfl, rfl, rfl, rfl, rfl⟩

theorem beGroup_put_keeps {n e : Nat} (h : Keeps k m₀ m) : Keeps k m₀ { m with fsl := { m.fsl with beGroup := Tbl.put 0 m.fsl.beGroup n e } } :=
  h.of_ordered (fun o => { o with beGroup := Tbl.rising_put _ _ n e o.beGroup }) ⟨rfl, rfl, rfl, rfl, rfl⟩

theorem beSlot_put_keeps {n e : Nat} (h : Keeps k m₀ m) : Keeps k m₀ { m with fsl := { m.fsl with beSlot := Tbl.put 0 m.fsl.beSlot n e } } :=
  h.of_ordered (fun o => { o with beSlot := Tbl.rising_put _ _ n e o.beSlot }) ⟨rfl, rfl, rfl, rfl, rfl⟩

theorem backend_put_keeps {n : Nat} {e : List Byte} (h : Keeps k m₀ m) :
    Keeps k m₀ { m with fsl := { m.fsl with backend := Tbl.put [] m.fsl.backend n e } } :=
  h.of_ordered (fun o => { o with backend := Tbl.rising_put _ _ n e o.backend }) ⟨rfl, rfl, rfl, rfl, rfl⟩

/-- A change of the banked tables that keeps their order. -/
theorem onBanks_keeps {f : TurnTabs → TurnTabs} (h : Keeps k m₀ m) (hf : ∀ t : TurnTabs, t.Ordered → (f t).Ordered) : Keeps k m₀ (onBanks m f) := by
  refine h.of_ordered (fun o => { o with active := ?_, shadow := ?_ }) ⟨rfl, rfl, rfl, rfl, rfl⟩
  · simp only [onBanks]
    split
    · exact o.active
    · exact hf _ o.active
  · simp only [onBanks]
    split <;> exact hf _ o.shadow

theorem applyEach_keeps {f : Mach → Nat → List Byte → Except Nat Mach} {l : List (List Byte)} {i : Nat} (h : Keeps k m₀ m)
    (hf : ∀ m i b m', Keeps k m₀ m → f m i b = .ok m' → Keeps k m₀ m') : Keeps k m₀ (applyEach f l i m).2.2.2 := by
  induction l generalizing i m with
  | nil => exact h
  | cons b bs ih =>
    unfold applyEach
    split
    · exact h
    · next m' e => exact ih (hf _ _ _ _ h e)

theorem setTable_keeps {q : Cmd} {n size : Nat} {good : Nat → Bool} {write : Mach → Nat → Nat → Mach} (h : Keeps k m₀ m)
    (hw : ∀ m n e, Keeps k m₀ m → Keeps k m₀ (write m n e)) : Keeps k m₀ (setTable m q n size good write).2.2.2 := by
  refine applyEach_keeps h fun m i b m' h e => ?_
  split at e
  · cases e
  · cases e
    exact hw _ _ _ h

theorem queryEach_keeps {f : Nat → Except Nat (List Byte)} {l : List Nat} {i : Nat} {out : List Byte} (h : Keeps k m₀ m) :
    Keeps k m₀ (queryEach f m l i out).2.2.2 := by
  induction l generalizing i out with
  | nil => exact h
  | cons b bs ih =>
    unfold queryEach
    split
    · exact h
    · exact ih

theorem pastBank_keeps {first count size : Nat} {r : CmdRes} (h : Keeps k m₀ m) (hr : Keeps k m₀ r.2.2.2) :
    Keeps k m₀ (pastBank m first count size r).2.2.2 := by
  unfold pastBank
  split
  · exact h
  · exact hr

theorem rising_putBytes {l : List (Byte × Nat)} (off : Nat) {t : Tbl Byte} (h : Tbl.rising t = true) :
    Tbl.rising (l.foldl (fun t e => Tbl.put 0 t (off + e.2) e.1) t) = true := by
  induction l generalizing t with
  | nil => exact h
  | cons e l ih => exact ih (Tbl.rising_put _ _ _ _ h)

/-- A change of values alone keeps keys rising. -/
theorem rising_map {α : Type} {t : Tbl α} {f : α → α} (h : Tbl.rising t = true) : Tbl.rising (t.map fun e => (e.1, f e.2)) = true := by
  induction t with
  | nil => rfl
  | cons e t ih =>
    cases t with
    | nil => rfl
    | cons e' t =>
      simp only [List.map_cons, Tbl.rising, Bool.and_eq_true] at h ih ⊢
      exact ⟨h.1, ih h.2⟩

/-! ### Answers that may be absent, and branches -/

theorem Keeps.getD {o : Option Mach} {m' : Mach} (some : ∀ x, o = some x → Keeps k m₀ x) (none : Keeps k m₀ m') : Keeps k m₀ (o.getD m') := by
  cases o with
  | none => exact none
  | some x => exact some x rfl

theorem Keeps.ite {p : Prop} [Decidable p] {a b : Mach} (ha : Keeps k m₀ a) (hb : Keeps k m₀ b) : Keeps k m₀ (if p then a else b) := by
  split
  · exact ha
  · exact hb

/-- A fold that carries a value beside the machine. -/
theorem Keeps.foldl_pair {α β : Type} {f : β × Mach → α → β × Mach} {l : List α} {e : β × Mach} (h : Keeps k m₀ e.2)
    (hf : ∀ e x, Keeps k m₀ e.2 → Keeps k m₀ (f e x).2) : Keeps k m₀ (l.foldl f e).2 := by
  induction l generalizing e with
  | nil => exact h
  | cons x l ih => exact ih (hf e x h)

end Sys2Proof.Machine

/-! What the functions of the registers, the rings, the buffers and the leave keep. -/
namespace Sys2Proof.Machine
variable {k : Prop} {c : Cfg} {m₀ m : Mach}

theorem Mach.emit_keeps {o : Output} (h : Keeps k m₀ m) : Keeps k m₀ (Mach.emit m o) := by
  unfold Mach.emit
  have := @Keeps.update; grind

theorem Mach.draw_keeps (h : Keeps k m₀ m) : Keeps k m₀ (Mach.draw m) := by
  unfold Mach.draw
  have := @Keeps.update; grind

theorem pmcAdd_keeps {bank n x : Nat} (h : Keeps k m₀ m) : Keeps k m₀ (pmcAdd m bank n x) := by
  unfold pmcAdd
  have := @Keeps.update; have := @Mach.setSt_keeps; grind

theorem pmcChain_keeps {x1 x3 x4 : Nat} (h : Keeps k m₀ m) : Keeps k m₀ (pmcChain c x1 m x3 x4) := by
  have := @pmcAdd_keeps; fun_induction pmcChain c x1 m x3 x4 <;> grind

theorem pmcEvent_keeps {bank ev x : Nat} (h : Keeps k m₀ m) : Keeps k m₀ (pmcEvent c m bank ev x) := by
  unfold pmcEvent
  have := @Keeps.update; have := @Keeps.foldl; have := @pmcAdd_keeps; have := @pmcChain_keeps; grind

theorem bump_keeps {r : Reg} {i j x1 x : Nat} (h : Keeps k m₀ m) : Keeps k m₀ (bump c m r i j x1 x) := by
  unfold bump
  have := @Keeps.update; have := @pmcEvent_keeps; grind

theorem Mach.inc32_keeps {x : Fld} {i j x1 : Nat} (h : Keeps k m₀ m) : Keeps k m₀ (Mach.inc32 m x i j x1) := by
  unfold Mach.inc32
  have := @Mach.setSt_keeps; grind

theorem loadStops_keeps {x1 n : Nat} {left : List Nat} (h : Keeps k m₀ m) : Keeps k m₀ (loadStops m x1 n left) := by
  unfold loadStops
  have := @Keeps.update; grind

theorem loadDone_keeps {ks : List Nat} (h : Keeps k m₀ m) : Keeps k m₀ (loadDone m ks) := by
  unfold loadDone
  have := @Keeps.update; grind

theorem sendReport_keeps {r : Report} (h : Keeps k m₀ m) : Keeps k m₀ (sendReport c m r) := by
  unfold sendReport
  have := @Keeps.update; have := @pmcEvent_keeps; grind

theorem raise_keeps {cls inst sev detail : Nat} (h : Keeps k m₀ m) : Keeps k m₀ (raise c m cls inst sev detail) := by
  unfold raise
  have := @sendReport_keeps; grind

theorem sendPending_keeps {p v : Nat} (h : Keeps k m₀ m) : Keeps k m₀ (sendPending c m p v) := by
  unfold sendPending
  have := @Mach.setSt_keeps; have := @Mach.emit_keeps; grind

theorem sendAllPending_keeps {p : Nat} (h : Keeps k m₀ m) : Keeps k m₀ (sendAllPending c m p) := by
  unfold sendAllPending
  have := @Keeps.foldl; have := @sendPending_keeps; grind

theorem deliverIrq_keeps {rid : Nat} (h : Keeps k m₀ m) : Keeps k m₀ (deliverIrq c m rid) := by
  unfold deliverIrq
  have := @Keeps.update; have := @Mach.emit_keeps; have := @Mach.setSt_keeps; have := @bump_keeps; have := @Mach.setRing_keeps; grind

theorem dueIrq_keeps {rid : Nat} (h : Keeps k m₀ m) : Keeps k m₀ (dueIrq c m rid) := by
  unfold dueIrq
  have := @Keeps.update; have := @deliverIrq_keeps; have := @Mach.setPort_keeps; have := @Mach.emit_keeps; have := @bump_keeps
  have := @Mach.setRing_keeps; grind

theorem checkCount_keeps {rid : Nat} (h : Keeps k m₀ m) : Keeps k m₀ (checkCount c m rid) := by
  unfold checkCount
  have := @dueIrq_keeps; grind

theorem writeDesc_keeps {rid opc status flags : Nat} {ctx : BitVec 32} {body : List Byte} (h : Keeps k m₀ m) : Keeps k m₀ (writeDesc c m rid opc
    status flags ctx body) := by
  unfold writeDesc
  have := @Keeps.update; have := @checkCount_keeps; have := @Mach.setRing_keeps; have := @Mach.emit_keeps; grind

theorem writeCompletion_keeps {rid : Nat} {e : Consumed} {q : Completion} (h : Keeps k m₀ m) : Keeps k m₀ (writeCompletion c m rid e q) := by
  unfold writeCompletion
  have := @writeDesc_keeps; have := @Mach.emit_keeps; grind

theorem flushDone_keeps {x1 x3 : Nat} (h : Keeps k m₀ m) : Keeps k m₀ (flushDone c x1 m x3) := by
  have := @Keeps.update; have := @Mach.setRing_keeps; have := @writeCompletion_keeps; fun_induction flushDone c x1 m x3 <;> grind

theorem markDone_keeps {rid slot : Nat} {q : Completion} (h : Keeps k m₀ m) : Keeps k m₀ (markDone m rid slot q) := by
  unfold markDone
  have := @Keeps.update; have := @Mach.setRing_keeps; grind

theorem endDrain_keeps {rid : Nat} (h : Keeps k m₀ m) : Keeps k m₀ (endDrain m rid) := by
  unfold endDrain
  have := @Mach.setRing_keeps; grind

theorem flushRing_keeps {rid : Nat} (h : Keeps k m₀ m) : Keeps k m₀ (flushRing c m rid) := by
  unfold flushRing
  extract_lets m₁ r m₂
  have flushed : Keeps k m₀ m₁ := flushDone_keeps h
  split
  · split
    · exact endDrain_keeps (flushDone_keeps (markDone_keeps (Mach.setRing_keeps flushed)))
    · exact Mach.setRing_keeps flushed
  · exact flushed

theorem complete_keeps {rid slot : Nat} {q : Completion} (h : Keeps k m₀ m) : Keeps k m₀ (complete c m rid slot q) := by
  unfold complete
  have := @markDone_keeps; have := @flushRing_keeps; grind

theorem writeEntries_keeps {seq : BitVec 32} {type : Nat} {x1 : List (List Byte)} {x3 : Nat} (h : Keeps k m₀ m) : Keeps k m₀ (writeEntries c seq type
    x1 m x3) := by
  have := @writeDesc_keeps; fun_induction writeEntries c seq type x1 m x3 <;> grind

theorem writeEvt_keeps {rid : Nat} {e : Evt} (h : Keeps k m₀ m) : Keeps k m₀ (writeEvt c m rid e) := by
  unfold writeEvt
  have := @Keeps.update; have := @Mach.setRing_keeps; have := @writeEntries_keeps; grind

theorem holdEvt_keeps {rid : Nat} {e : Evt} (h : Keeps k m₀ m) : Keeps k m₀ (holdEvt c m rid e) := by
  unfold holdEvt
  have := @Keeps.update; have := @Mach.setRing_keeps; have := @bump_keeps; grind

theorem postEvent_keeps {e : Evt} (h : Keeps k m₀ m) : Keeps k m₀ (postEvent c m e) := by
  unfold postEvent
  have := @holdEvt_keeps; have := @writeEvt_keeps; have := @bump_keeps; grind

theorem postFault_keeps {f : FaultEvt} (h : Keeps k m₀ m) : Keeps k m₀ (postFault c m f) := by
  unfold postFault
  have := @Keeps.update; have := @writeEvt_keeps; grind

theorem drainEvents.drainHeld_keeps {x1 x3 : Nat} (h : Keeps k m₀ m) : Keeps k m₀ (drainEvents.drainHeld c x1 m x3) := by
  have := @Keeps.update; have := @Mach.setRing_keeps; have := @writeEvt_keeps; fun_induction drainEvents.drainHeld c x1 m x3 <;> grind

theorem drainEvents.drainRest_keeps {fuel rid : Nat} {r : Sys2Proof.Machine.Ring} {room : Nat} (h : Keeps k m₀ m) : Keeps k m₀ (drainEvents.drainRest
    c fuel m rid r room) := by
  unfold drainEvents.drainRest
  have := @Keeps.update; have := @Mach.setRing_keeps; have := @writeEvt_keeps; have := @drainEvents.drainHeld_keeps; grind

theorem drainEvents_keeps {x1 x3 : Nat} (h : Keeps k m₀ m) : Keeps k m₀ (drainEvents c x1 m x3) := by
  have := @Keeps.update; have := @Mach.setRing_keeps; have := @writeEvt_keeps; have := @drainEvents.drainRest_keeps
  fun_induction drainEvents c x1 m x3 <;> grind

theorem fillBufs_keeps {f : Fill} {x1 : List (List Byte)} {x2 : List Byte} {x4 : Nat} (h : Keeps k m₀ m) : Keeps k m₀ (fillBufs c f x1 x2 m x4) := by
  have := @writeDesc_keeps; have := @Mach.emit_keeps; fun_induction fillBufs c f x1 x2 m x4 <;> grind

theorem countDrop_keeps {port : Nat} {kind : RingKind} {f : Fill} (h : Keeps k m₀ m) : Keeps k m₀ (countDrop c m port kind f) := by
  unfold countDrop
  have := @bump_keeps; grind

theorem dropFill_keeps {rid : Nat} {f : Fill} (h : Keeps k m₀ m) : Keeps k m₀ (dropFill c m rid f) := by
  unfold dropFill
  have := @Keeps.update; have := @Mach.setRing_keeps; have := @countDrop_keeps; grind

theorem serveFill_keeps {rid : Nat} (h : Keeps k m₀ m) : Keeps k m₀ (serveFill c m rid) := by
  unfold serveFill
  have := @Keeps.update; have := @fillBufs_keeps; have := @Mach.setRing_keeps; have := @dropFill_keeps; grind

theorem serveFills_keeps {x1 x3 : Nat} (h : Keeps k m₀ m) : Keeps k m₀ (serveFills c x1 m x3) := by
  have := @serveFill_keeps; fun_induction serveFills c x1 m x3 <;> grind

theorem queueFill_keeps {rid : Nat} {kind : RingKind} {f : Fill} (h : Keeps k m₀ m) : Keeps k m₀ (queueFill c m rid kind f) := by
  unfold queueFill
  have := @Keeps.update; have := @countDrop_keeps; have := @dropFill_keeps; have := @Mach.setRing_keeps; grind

theorem writeBatch_keeps {rid : Nat} {kind : RingKind} {payload : List Byte} (h : Keeps k m₀ m) : Keeps k m₀ (writeBatch c m rid kind payload) := by
  unfold writeBatch
  have := @serveFills_keeps; have := @queueFill_keeps; grind

theorem Mach.setCell_keeps {p : Nat} {x : Cell} (h : Keeps k m₀ m) : Keeps k m₀ (Mach.setCell m p x) := by
  unfold Mach.setCell
  have := @Keeps.update; grind

theorem bufError_keeps {die : Nat} {e : BufErr} {req addr : Nat} (h : Keeps k m₀ m) : Keeps k m₀ (bufError c m die e req addr) := by
  unfold bufError
  extract_lets m₁ m₂
  have counted : Keeps k m₀ m₁ := bump_keeps h
  exact raise_keeps (Keeps.ite counted (Mach.setSt_keeps (Mach.setSt_keeps (Mach.setSt_keeps (Mach.setSt_keeps counted)))))

theorem Mach.setBank_keeps {b : Nat} {x : Bank} (h : Keeps k m₀ m) : Keeps k m₀ (Mach.setBank m b x) := by
  unfold Mach.setBank
  have := @Keeps.update; grind

theorem popCell_keeps {die n owner : Nat} (h : Keeps k m₀ m) : Keeps k m₀ (popCell c m die n owner).2 := by
  unfold popCell
  have := @Keeps.update; have := @Mach.setBank_keeps; have := @Mach.setCell_keeps; have := @bufError_keeps; grind

theorem allocCell_keeps {die owner : Nat} (h : Keeps k m₀ m) : Keeps k m₀ (allocCell c m die owner).2 := by
  unfold allocCell
  have := @Keeps.update; have := @popCell_keeps; grind

theorem loseHeader_keeps {p : Nat} (h : Keeps k m₀ m) : Keeps k m₀ (loseHeader m p) := by
  unfold loseHeader
  have := @Keeps.update; have := @Mach.setBank_keeps; have := @Mach.setCell_keeps; grind

theorem pushCell_keeps {p : Nat} (h : Keeps k m₀ m) : Keeps k m₀ (pushCell m p) := by
  unfold pushCell
  have := @Keeps.update; have := @Mach.setBank_keeps; have := @Mach.setCell_keeps; grind

theorem takeCells_keeps {die owner x1 : Nat} (h : Keeps k m₀ m) : Keeps k m₀ (takeCells c die owner x1 m).2 := by
  have := @allocCell_keeps; fun_induction takeCells c die owner x1 m <;> grind

theorem allocCells_keeps {die owner n : Nat} {r : _} {m' : Mach} (h : Keeps k m₀ m) (e : allocCells c die owner n m = some (r, m')) : Keeps k m₀ m' := by
  unfold allocCells at e
  have := @takeCells_keeps; grind

theorem allocFail_keeps {die owner n : Nat} (h : Keeps k m₀ m) : Keeps k m₀ (allocFail c m die owner n) := by
  unfold allocFail
  have := @Keeps.foldl; have := @pushCell_keeps; have := @takeCells_keeps; grind

theorem writeChain_keeps {owner : Nat} {sof : Bool} {x1 : List Nat} {x2 : List Byte} (h : Keeps k m₀ m) : Keeps k m₀ (writeChain owner sof x1 x2 m) := by
  have := @Keeps.update; have := @Mach.setCell_keeps; fun_induction writeChain owner sof x1 x2 m <;> grind

theorem storeFrame_keeps {die owner : Nat} {b : List Byte} {r : _} {m' : Mach} (h : Keeps k m₀ m) (e : storeFrame c m die owner b = some (r, m')) :
    Keeps k m₀ m' := by
  unfold storeFrame at e
  have := @writeChain_keeps; have := @allocCells_keeps; grind

theorem handFrom_keeps {req owner refcnt x1 x3 : Nat} (h : Keeps k m₀ m) : Keeps k m₀ (handFrom c req owner refcnt x1 m x3) := by
  have := @Keeps.update; have := @Mach.setCell_keeps; have := @bufError_keeps; fun_induction handFrom c req owner refcnt x1 m x3 <;> grind

theorem handOver_keeps {req p owner refcnt : Nat} (h : Keeps k m₀ m) : Keeps k m₀ (handOver c m req p owner refcnt) := by
  unfold handOver
  have := @handFrom_keeps; grind

theorem freeRest_keeps {req x1 x3 : Nat} (h : Keeps k m₀ m) : Keeps k m₀ (freeRest c req x1 m x3) := by
  have := @pushCell_keeps; have := @bufError_keeps; fun_induction freeRest c req x1 m x3 <;> grind

theorem freeFrame_keeps {die req addr : Nat} (h : Keeps k m₀ m) : Keeps k m₀ (freeFrame c m die req addr) := by
  unfold freeFrame
  have := @freeRest_keeps; have := @pushCell_keeps; have := @bufError_keeps; grind

theorem releaseCopy_keeps {die req addr : Nat} (h : Keeps k m₀ m) : Keeps k m₀ (releaseCopy c m die req addr) := by
  unfold releaseCopy
  have := @Keeps.update; have := @freeFrame_keeps; have := @Mach.setCell_keeps; have := @bufError_keeps; grind

theorem sendRelease_keeps {req p : Nat} (h : Keeps k m₀ m) : Keeps k m₀ (sendRelease m req p) := by
  unfold sendRelease
  have := @Keeps.update; grind

theorem dropFrame_keeps {req : Nat} {fd : FrameD} (h : Keeps k m₀ m) : Keeps k m₀ (dropFrame c m req fd) := by
  unfold dropFrame
  have := @freeFrame_keeps; have := @sendRelease_keeps; grind

theorem chargeIng_keeps {pipe : Nat} {n : Int} (h : Keeps k m₀ m) : Keeps k m₀ (chargeIng m pipe n) := by
  unfold chargeIng
  have := @Keeps.update; grind

theorem chargePunt_keeps {pipe : Nat} {n : Int} (h : Keeps k m₀ m) : Keeps k m₀ (chargePunt m pipe n) := by
  unfold chargePunt
  have := @Keeps.update; grind

theorem storeIngress_keeps {pipe owner : Nat} {b : List Byte} {r : _} {m' : Mach} (h : Keeps k m₀ m) (e : storeIngress c m pipe owner b = some (r,
    m')) : Keeps k m₀ m' := by
  unfold storeIngress at e
  extract_lets n at e
  split at e
  · cases e
  · obtain ⟨⟨p, m₁⟩, stored, same⟩ := Option.map_eq_some_iff.mp e
    cases same
    exact chargeIng_keeps (storeFrame_keeps h stored)

theorem ingressFail_keeps {pipe owner : Nat} {b : List Byte} (h : Keeps k m₀ m) : Keeps k m₀ (ingressFail c m pipe owner b) := by
  unfold ingressFail
  have := @allocFail_keeps; grind

theorem appendCells_keeps {req p : Nat} {b : List Byte} {m' : Mach} (h : Keeps k m₀ m) (e : appendCells c m req p b = some m') : Keeps k m₀ m' := by
  unfold appendCells at e
  have := @Keeps.update; have := @Mach.setCell_keeps; have := @writeChain_keeps; have := @allocCells_keeps; grind

theorem Mach.putPage_keeps {p : Nat} {x : Page} (h : Keeps k m₀ m) : Keeps k m₀ (Mach.putPage m p x) := by
  unfold Mach.putPage
  have := @Keeps.update; grind

theorem Mach.setPage_keeps {p : Nat} {x : Page} (h : Keeps k m₀ m) : Keeps k m₀ (Mach.setPage m p x) := by
  unfold Mach.setPage
  have := @Keeps.update; have := @Mach.putPage_keeps; grind

theorem pageError_keeps {kind req p : Nat} (h : Keeps k m₀ m) : Keeps k m₀ (pageError c m kind req p) := by
  unfold pageError
  have := @raise_keeps; have := @Mach.setSt_keeps; have := @bump_keeps; grind

theorem pageReadError_keeps {req p : Nat} (h : Keeps k m₀ m) : Keeps k m₀ (pageReadError c m req p) := by
  unfold pageReadError
  have := @pageError_keeps; grind

theorem refillPages_keeps {x1 : Nat} (h : Keeps k m₀ m) : Keeps k m₀ (refillPages m x1) := by
  unfold refillPages
  have := @Keeps.update; have := @Keeps.foldl; have := @Mach.setPage_keeps; grind

theorem allocPage_keeps {die owner qid : Nat} {r : _} {m' : Mach} (h : Keeps k m₀ m) (e : allocPage c m die owner qid = some (r, m')) : Keeps k m₀ m'
    := by
  unfold allocPage at e
  have := @Keeps.update; have := @Mach.setPage_keeps; have := @bump_keeps; grind

theorem checkReady_keeps {req : Nat} (h : Keeps k m₀ m) : Keeps k m₀ (checkReady c m req) := by
  unfold checkReady
  have := @Keeps.update; have := @Keeps.foldl; have := @pageError_keeps; grind

theorem freePage_keeps {req p : Nat} (h : Keeps k m₀ m) : Keeps k m₀ (freePage c m req p) := by
  unfold freePage
  have := @Keeps.update; have := @Mach.setPage_keeps; have := @bump_keeps; have := @pageError_keeps; grind

theorem pwrReport_keeps {q : LeaveReq} {outcome reason : Nat} (h : Keeps k m₀ m) : Keeps k m₀ (pwrReport c m q outcome reason) := by
  unfold pwrReport
  have := @postEvent_keeps; have := @bump_keeps; have := @Mach.setSt_keeps; grind

theorem leaveGrants_keeps {x1 : Nat} (h : Keeps k m₀ m) : Keeps k m₀ (leaveGrants c x1 m) := by
  have := @Keeps.update; have := @pwrReport_keeps; fun_induction leaveGrants c x1 m <;> grind

theorem leaveEval_keeps (h : Keeps k m₀ m) : Keeps k m₀ (leaveEval c m) := by
  unfold leaveEval
  have := @Keeps.update; have := @Keeps.foldl; have := @pwrReport_keeps; have := @leaveGrants_keeps; grind

theorem leaveRefuse_keeps {q : LeaveReq} {reason : Nat} (h : Keeps k m₀ m) : Keeps k m₀ (leaveRefuse c m q reason).2 := by
  unfold leaveRefuse
  have := @pwrReport_keeps; have := @leaveEval_keeps; grind

theorem leaveArrive_keeps {op unit : Nat} (h : Keeps k m₀ m) : Keeps k m₀ (leaveArrive c m op unit).2 := by
  unfold leaveArrive
  have := @Keeps.update; have := @leaveRefuse_keeps; have := @bump_keeps; have := @raise_keeps; have := @leaveEval_keeps; have := @pwrReport_keeps
  grind

theorem askLeave_keeps {op unit : Nat} (h : Keeps k m₀ m) : Keeps k m₀ (askLeave c m op unit).2 := by
  unfold askLeave
  have := @Keeps.update; have := @leaveArrive_keeps; grind

theorem sendBatch_keeps {b : UpBatch} (h : Keeps k m₀ m) : Keeps k m₀ (sendBatch c m b) := by
  unfold sendBatch
  have := @Keeps.update; have := @writeBatch_keeps; grind

theorem behindGo_keeps (h : Keeps k m₀ m) : Keeps k m₀ (behindGo c m) := by
  unfold behindGo
  have := @Keeps.update; have := @Keeps.foldl; have := @sendBatch_keeps; grind

theorem releaseLeave_keeps {op unit : Nat} (h : Keeps k m₀ m) : Keeps k m₀ (releaseLeave c m op unit) := by
  unfold releaseLeave
  have := @Keeps.update; have := @pwrReport_keeps; have := @leaveEval_keeps; grind

theorem dropLeave_keeps {op unit : Nat} (h : Keeps k m₀ m) : Keeps k m₀ (dropLeave m op unit) := by
  unfold dropLeave
  have := @Keeps.update; grind

theorem tallyRefused_keeps {u : Nat} (h : Keeps k m₀ m) : Keeps k m₀ (tallyRefused m u) := by
  unfold tallyRefused
  have := @Keeps.update; grind

theorem tallyOn_keeps {u : Nat} (h : Keeps k m₀ m) : Keeps k m₀ (tallyOn c m u) := by
  unfold tallyOn
  have := @Keeps.update; grind

theorem traceFlush_keeps {src : Nat} (h : Keeps k m₀ m) : Keeps k m₀ (traceFlush c m src) := by
  unfold traceFlush
  have := @Keeps.update; have := @sendBatch_keeps; grind

theorem traceAdd_keeps {src : Nat} {r : List Byte} (h : Keeps k m₀ m) : Keeps k m₀ (traceAdd c m src r) := by
  unfold traceAdd
  have := @Keeps.update; have := @traceFlush_keeps; have := @bump_keeps; grind

theorem traceExpiry_keeps {src : Nat} (h : Keeps k m₀ m) : Keeps k m₀ (traceExpiry c m src) := by
  unfold traceExpiry
  have := @traceFlush_keeps; grind

theorem traceBegin_keeps {x1 : Pkt} (h : Keeps k m₀ m) : Keeps k m₀ (traceBegin c m x1).2 := by
  unfold traceBegin
  split
  · exact h
  · exact Keeps.ite (Mach.draw_keeps h) h

theorem traceEnd_keeps {t : List Byte} {disp code : Nat} (h : Keeps k m₀ m) : Keeps k m₀ (traceEnd c m t disp code) := by
  unfold traceEnd
  have := @traceAdd_keeps; grind

end Sys2Proof.Machine

/-! What the functions of queues, gates and scheduling keep. -/
namespace Sys2Proof.Machine
variable {k : Prop} {c : Cfg} {m₀ m : Mach}

theorem Mach.setQueue_keeps {q : Nat} {x : Queue} (h : Keeps k m₀ m) : Keeps k m₀ (Mach.setQueue m q x) := by
  unfold Mach.setQueue
  have := @Keeps.update; grind

theorem tsDropped_keeps {q : Nat} {fd : FrameD} (h : Keeps k m₀ m) : Keeps k m₀ (tsDropped c m q fd) := by
  unfold tsDropped
  have := @postEvent_keeps; grind

theorem countLost_keeps {q : Nat} {fd : FrameD} (h : Keeps k m₀ m) : Keeps k m₀ (countLost c m q fd) := by
  unfold countLost
  have := @Keeps.update; have := @Mach.setQueue_keeps; have := @bump_keeps; have := @tsDropped_keeps; have := @traceEnd_keeps; grind

theorem countRefuse_keeps {q : Nat} {fd : FrameD} (h : Keeps k m₀ m) : Keeps k m₀ (countRefuse c m q fd) := by
  unfold countRefuse
  have := @Keeps.update; have := @Mach.setQueue_keeps; have := @countLost_keeps; grind

theorem enqueue_keeps {q : Nat} {fd : FrameD} {m' : Mach} (h : Keeps k m₀ m) (e : enqueue c m q fd = some m') : Keeps k m₀ m' := by
  unfold enqueue at e
  have := @Keeps.update; have := @Mach.setQueue_keeps; grind

theorem takePages_keeps {die q own x1 x2 : Nat} {x3 : List Nat} {r : _} {m' : Mach} (h : Keeps k m₀ m) (e : takePages c die q own x1 x2 x3 m = some
    (r, m')) : Keeps k m₀ m' := by
  have := @Keeps.update; have := @allocPage_keeps; have := @Mach.setPage_keeps; fun_induction takePages c die q own x1 x2 x3 m <;> grind

theorem endChain_keeps {req q p : Nat} (h : Keeps k m₀ m) : Keeps k m₀ (endChain c m req q p) := by
  unfold endChain
  have := @Keeps.update; have := @Keeps.foldl; have := @countLost_keeps; have := @Mach.setQueue_keeps; have := @pageReadError_keeps; grind

theorem tailCheck_keeps {req q x1 : Nat} (h : Keeps k m₀ m) : Keeps k m₀ (tailCheck c req q x1 m) := by
  have := @endChain_keeps; fun_induction tailCheck c req q x1 m <;> grind

theorem skipFrame_keeps {req q p : Nat} {fd : FrameD} (h : Keeps k m₀ m) : Keeps k m₀ (skipFrame c m req q p fd) := by
  unfold skipFrame
  have := @bufError_keeps; have := @countLost_keeps; grind

theorem spillWrite_keeps {die : Nat} (h : Keeps k m₀ m) : Keeps k m₀ (spillWrite c m die) := by
  unfold spillWrite
  split
  · exact h
  · split
    · exact h.rest rfl
    · split
      · exact pmcEvent_keeps (pmcEvent_keeps (bump_keeps (Mach.draw_keeps h)))
      · split
        · exact skipFrame_keeps (Keeps.rest (Mach.setQueue_keeps (Mach.draw_keeps h)) rfl)
        · extract_lets m₁ x bytes n room
          have checked : Keeps k m₀ m₁ := checkReady_keeps (tailCheck_keeps (Mach.draw_keeps h))
          split
          · exact bump_keeps checked
          · next ps m₂ took =>
            have taken := takePages_keeps checked took
            exact bump_keeps (Keeps.ite (sendRelease_keeps (Mach.setQueue_keeps (Keeps.rest (Mach.setPage_keeps taken) rfl)))
              (freeFrame_keeps (handOver_keeps (Mach.setQueue_keeps (Keeps.rest (Mach.setPage_keeps taken) rfl)))))

theorem endSpill_keeps {q : Nat} (h : Keeps k m₀ m) : Keeps k m₀ (endSpill m q) := by
  unfold endSpill
  have := @Keeps.update; have := @Mach.setQueue_keeps; grind

theorem freeRead_keeps {q : Nat} (h : Keeps k m₀ m) : Keeps k m₀ (freeRead c m q) := by
  unfold freeRead
  have := @Keeps.update; have := @Keeps.foldl; have := @freePage_keeps; have := @Mach.setQueue_keeps; have := @endChain_keeps; grind

theorem returnOne_keeps {q : Nat} (h : Keeps k m₀ m) : Keeps k m₀ (returnOne c m q).2 := by
  unfold returnOne
  extract_lets die x
  split
  · exact h
  · split
    · exact freeRead_keeps (endChain_keeps h)
    · split
      · exact allocFail_keeps h
      · next p m' stored => exact freeRead_keeps (Mach.setQueue_keeps (handOver_keeps (storeFrame_keeps h stored)))

theorem returnLoop_keeps {q x1 : Nat} (h : Keeps k m₀ m) : Keeps k m₀ (returnLoop c q x1 m) := by
  have := @returnOne_keeps; fun_induction returnLoop c q x1 m <;> grind

theorem pageReturn_keeps {q : Nat} (h : Keeps k m₀ m) : Keeps k m₀ (pageReturn c m q) := by
  unfold pageReturn
  have := @returnLoop_keeps; have := @endSpill_keeps; grind

theorem dropQueued_keeps {q : Nat} {fd : FrameD} (h : Keeps k m₀ m) : Keeps k m₀ (dropQueued c m q fd) := by
  unfold dropQueued
  have := @dropFrame_keeps; grind

theorem flushQueue_keeps {q : Nat} (h : Keeps k m₀ m) : Keeps k m₀ (flushQueue c m q) := by
  unfold flushQueue
  have := @Keeps.update; have := @Keeps.foldl; have := @Mach.setQueue_keeps; have := @freePage_keeps; have := @countLost_keeps
  have := @dropQueued_keeps; have := @endChain_keeps; grind

theorem chooseNode_keeps {parent : Node} {mk : Nat → Node} {kids : List Nat} {r : _} {m' : Mach} (h : Keeps k m₀ m) (e : chooseNode c m parent mk kids
    = some (r, m')) : Keeps k m₀ m' := by
  obtain ⟨⟨n, d⟩, -, same⟩ := Option.map_eq_some_iff.mp e
  cases same
  exact h.rest rfl

theorem chooseQ_keeps {s : Nat} {qs : List Nat} {r : _} {m' : Mach} (h : Keeps k m₀ m) (e : chooseQ c m s qs = some (r, m')) : Keeps k m₀ m' := by
  obtain ⟨⟨n, d⟩, -, same⟩ := Option.map_eq_some_iff.mp e
  cases same
  exact h.rest rfl

theorem zeroDeficits_keeps {l : Nat} {live : List (Nat × Nat)} (h : Keeps k m₀ m) : Keeps k m₀ (zeroDeficits c m l live) := by
  unfold zeroDeficits
  have := @Keeps.update; grind

theorem restDeficits_keeps {l : Nat} (h : Keeps k m₀ m) : Keeps k m₀ (restDeficits c m l) := by
  unfold restDeficits
  have := @zeroDeficits_keeps; grind

theorem gateHeads_keeps {l q x1 : Nat} (h : Keeps k m₀ m) : Keeps k m₀ (gateHeads c l q x1 m) := by
  have := @Keeps.update; have := @bump_keeps; have := @Mach.setQueue_keeps; have := @tsDropped_keeps; have := @dropQueued_keeps
  fun_induction gateHeads c l q x1 m <;> grind

theorem selectQueue_keeps {l : Nat} (h : Keeps k m₀ m) : Keeps k m₀ (selectQueue c m l).2 := by
  unfold selectQueue
  extract_lets m₁ live m₂
  have heads : Keeps k m₀ m₁ := Keeps.foldl (fun m e h => gateHeads_keeps h) h
  have nodes : Keeps k m₀ m₂ := Keeps.foldl (fun m e h => evalNode_keeps h) (zeroDeficits_keeps heads)
  split
  · exact nodes
  · split
    · exact nodes
    · next v m₃ chosen =>
      have first := chooseNode_keeps nodes chosen
      dsimp only
      split
      · exact nodes
      · next s m₄ chosen' =>
        have second := chooseNode_keeps first chosen'
        split
        · exact nodes
        · next q m₅ chosen'' => exact chooseQ_keeps second chosen''

theorem chargePath_keeps {l q : Nat} {fd : FrameD} (h : Keeps k m₀ m) : Keeps k m₀ (chargePath c m l q fd) := by
  unfold chargePath
  have := @Keeps.update; have := @chargeNode_keeps; grind

theorem gateConfigChange_keeps {l : Nat} (h : Keeps k m₀ m) : Keeps k m₀ (gateConfigChange c m l) := by
  unfold gateConfigChange
  extract_lets d n g cycle ext len base w time
  split
  · exact Mach.setGate_keeps h fun admin => admin l
  · split
    · exact Mach.setGate_keeps h fun admin => admin l
    · exact Mach.setGate_keeps h fun admin => admin l

theorem gateShow_keeps {l : Nat} (h : Keeps k m₀ m) : Keeps k m₀ (gateShow m l) := Mach.setGate_keeps h fun admin => admin l

theorem gateChange_keeps {l : Nat} (h : Keeps k m₀ m) : Keeps k m₀ (gateChange m l) := by
  unfold gateChange
  extract_lets g
  split
  · refine gateShow_keeps (Mach.setGate_keeps h fun admin => ?_)
    have same : (g.applied m.todNs).admin = g.admin := by
      unfold GateUnit.applied
      split
      · split <;> rfl
      · rfl
    rw [same]
    exact admin l
  · exact h

theorem gateCancel_keeps {l : Nat} (h : Keeps k m₀ m) : Keeps k m₀ (gateCancel m l) := by
  unfold gateCancel
  have := @Keeps.update; have := @Mach.setGate_keeps; grind

theorem sampleOn_keeps {d : Nat} (h : Keeps k m₀ m) : Keeps k m₀ (sampleOn c m d) := by
  unfold sampleOn
  have := @Keeps.update; grind

theorem sampleWalk_keeps {d : Nat} (h : Keeps k m₀ m) : Keeps k m₀ (sampleWalk c m d) := by
  unfold sampleWalk
  have := @Keeps.update; have := @Keeps.foldl; have := @writeBatch_keeps; have := @Mach.setQueue_keeps; have := @bump_keeps; grind

end Sys2Proof.Machine

/-! What the functions of packets, the host port and the cores keep. -/
namespace Sys2Proof.Machine
variable {k : Prop} {c : Cfg} {m₀ m : Mach}

theorem countReason_keeps {pipe code : Nat} (h : Keeps k m₀ m) : Keeps k m₀ (countReason c m pipe code) := by
  unfold countReason
  have := @bump_keeps; have := @pmcEvent_keeps; grind

theorem readPkt_keeps {x1 : Pkt} (h : Keeps k m₀ m) : Keeps k m₀ (readPkt c m x1).2 := by
  unfold readPkt
  have := @bufError_keeps; grind

theorem oweSlots_keeps {pipe n : Nat} (h : Keeps k m₀ m) : Keeps k m₀ (oweSlots m pipe n) := by
  unfold oweSlots
  have := @Keeps.update; grind

theorem dropPkt_keeps {x1 : Pkt} {code : Nat} (h : Keeps k m₀ m) : Keeps k m₀ (dropPkt c m x1 code) := by
  unfold dropPkt
  have := @Keeps.update; have := @freeFrame_keeps; have := @chargeIng_keeps; have := @traceEnd_keeps; grind

theorem truncFrame_keeps {req p : Nat} (h : Keeps k m₀ m) : Keeps k m₀ (truncFrame c m req p) := by
  unfold truncFrame
  have := @Keeps.update; have := @Mach.setCell_keeps; have := @freeRest_keeps; have := @bufError_keeps; grind

theorem Mach.setPunts_keeps {pipe : Nat} {l : List Punt} (h : Keeps k m₀ m) : Keeps k m₀ (Mach.setPunts m pipe l) := by
  unfold Mach.setPunts
  have := @Keeps.update; grind

theorem puntAccrue_keeps {c' : Cfg} {pipe code : Nat} (h : Keeps k m₀ m) : Keeps k m₀ (puntAccrue c c' m pipe code) := by
  unfold puntAccrue
  have := @Keeps.update; grind

theorem puntColour_keeps {pipe code : Nat} (h : Keeps k m₀ m) : Keeps k m₀ (puntColour c m pipe code).2 := by
  unfold puntColour
  have := @Keeps.update; grind

theorem dropPunt_keeps {pipe : Nat} {e : Punt} (h : Keeps k m₀ m) : Keeps k m₀ (dropPunt c m pipe e) := by
  unfold dropPunt
  have := @bump_keeps; have := @freeFrame_keeps; have := @chargePunt_keeps; grind

theorem displaceRed_keeps {pipe n x1 : Nat} (h : Keeps k m₀ m) : Keeps k m₀ (displaceRed c pipe n x1 m) := by
  have := @Mach.setPunts_keeps; have := @dropPunt_keeps; fun_induction displaceRed c pipe n x1 m <;> grind

theorem puntPkt_keeps {x1 : Pkt} {code : Nat} (h : Keeps k m₀ m) : Keeps k m₀ (puntPkt c m x1 code) := by
  unfold puntPkt
  extract_lets total m₁ k' m₂ n
  have cut : Keeps k m₀ m₂ := Keeps.ite (truncFrame_keeps (traceEnd_keeps h)) (traceEnd_keeps h)
  have shown : Keeps k m₀ (puntColour c m₂ k'.pipe code).2 := puntColour_keeps cut
  have room : Keeps k m₀ (chargeIng (if (puntColour c m₂ k'.pipe code).1 then displaceRed c k'.pipe n 4096 (puntColour c m₂ k'.pipe code).2
      else (puntColour c m₂ k'.pipe code).2) k'.pipe (-(total : Int))) := chargeIng_keeps (Keeps.ite (displaceRed_keeps shown) shown)
  exact Keeps.ite (bump_keeps (freeFrame_keeps room)) (Mach.setPunts_keeps (chargePunt_keeps (handOver_keeps room)))

theorem ctWait_keeps {x : CtFrame} (h : Keeps k m₀ m) : Keeps k m₀ (ctWait m x) := by
  unfold ctWait
  have := @Keeps.update; grind

theorem ctLeave_keeps {x1 : Pkt} (h : Keeps k m₀ m) : Keeps k m₀ (ctLeave m x1).2 := by
  unfold ctLeave
  have := @Keeps.update; grind

theorem noCell_keeps {pipe : Nat} (h : Keeps k m₀ m) : Keeps k m₀ (noCell c m pipe) := by
  unfold noCell
  have := @countReason_keeps; have := @bump_keeps; grind

theorem raiseReason_keeps {x1 : Pkt} {code : Nat} (h : Keeps k m₀ m) : Keeps k m₀ (raiseReason c m x1 code).2 := by
  unfold raiseReason
  have := @countReason_keeps; grind

theorem reasonDrop_keeps {x1 : Pkt} {code : Nat} (h : Keeps k m₀ m) : Keeps k m₀ (reasonDrop c m x1 code) := by
  unfold reasonDrop
  have := @dropPkt_keeps; have := @raiseReason_keeps; grind

theorem fcsDrop_keeps {x1 : Pkt} (h : Keeps k m₀ m) : Keeps k m₀ (fcsDrop c m x1) := by
  unfold fcsDrop
  have := @reasonDrop_keeps; have := @dropPkt_keeps; have := @noCell_keeps; grind

theorem endWith_keeps {x1 : Pkt} {code : Nat} {d : Disp} (h : Keeps k m₀ m) : Keeps k m₀ (endWith c m x1 code d) := by
  unfold endWith
  have := @Keeps.update; have := @dropPkt_keeps; have := @puntPkt_keeps; have := @ctLeave_keeps; have := @fcsDrop_keeps; have := @ctWait_keeps
  have := @reasonDrop_keeps; have := @raiseReason_keeps; grind

theorem puntCopy_keeps {x1 : Pkt} {bytes : List Byte} {code : Nat} {trunc : Bool} (h : Keeps k m₀ m) : Keeps k m₀ (puntCopy c m x1 bytes code trunc)
    := by
  unfold puntCopy
  extract_lets b b' m₁
  have counted : Keeps k m₀ m₁ := countReason_keeps h
  split
  · next p m' stored => exact puntPkt_keeps (storeIngress_keeps counted stored)
  · exact noCell_keeps (ingressFail_keeps counted)

theorem enqueueAll_keeps {fd : FrameD} {x1 : List (Nat × EditRes)} (h : Keeps k m₀ m) : Keeps k m₀ (enqueueAll c fd x1 m).2 := by
  have := @Keeps.update; have := @countRefuse_keeps; have := @enqueue_keeps; fun_induction enqueueAll c fd x1 m <;> grind

theorem crossDie_keeps {die : Nat} (h : Keeps k m₀ m) : Keeps k m₀ (crossDie c m die) := by
  unfold crossDie
  split
  · exact h
  · split
    · exact Keeps.foldl (fun m t h => countLost_keeps h) (traceEnd_keeps (bufError_keeps (h.rest rfl)))
    · split
      · exact Keeps.ite (sendRelease_keeps (bump_keeps (Keeps.rest (Keeps.foldl (fun m t h => tsDropped_keeps h) (allocFail_keeps (traceEnd_keeps h))) rfl)))
          (freeFrame_keeps (bump_keeps (Keeps.rest (Keeps.foldl (fun m t h => tsDropped_keeps h) (allocFail_keeps (traceEnd_keeps h))) rfl)))
      · next p m₁ stored =>
        have got := storeFrame_keeps h stored
        extract_lets t m₂ source fd fd' m₃ m₄
        have left : Keeps k m₀ m₂ := got.rest rfl
        have all {fd : FrameD} {ts : List (Nat × EditRes)} {n : Nat} {m' : Mach} (queued : enqueueAll c fd ts m₂ = (n, m')) : Keeps k m₀ m' :=
          (enqueueAll_keeps left).of_pair queued
        have placed : Keeps k m₀ m₃ := by
          unfold m₃
          split
          · split
            · split
              next n m' queued => exact Keeps.ite (freeFrame_keeps (traceEnd_keeps (all queued))) (handOver_keeps (all queued))
            · split
              · next m' queued => exact handOver_keeps (enqueue_keeps left queued)
              · exact freeFrame_keeps (countRefuse_keeps left)
          · split
            next n m' queued => exact Keeps.ite (freeFrame_keeps (traceEnd_keeps (all queued))) (handOver_keeps (all queued))
        have settled : Keeps k m₀ m₄ := Keeps.ite (sendRelease_keeps placed) (freeFrame_keeps placed)
        split
        · exact settled.rest rfl
        · exact settled

theorem crossFirst_keeps {q x1 : Nat} (h : Keeps k m₀ m) : Keeps k m₀ (crossFirst c q x1 m) := by
  have := @crossDie_keeps; fun_induction crossFirst c q x1 m <;> grind

theorem handToQueues_keeps {x1 : Pkt} {fd : FrameD} {targets : List (Nat × EditRes)} (h : Keeps k m₀ m) : Keeps k m₀ (handToQueues c m x1 fd targets)
    := by
  rcases targets with _ | ⟨⟨q, r⟩, _ | ⟨t, ts⟩⟩
  · exact dropPkt_keeps h
  · dsimp only [handToQueues]
    have first : Keeps k m₀ (List.foldl (fun m t => crossFirst c t.1 m.tmg.xfer.length m) m ([(q, r)].filter fun t => t.1 / 65536 == x1.pipe / 16)) :=
      Keeps.foldl (fun m t h => crossFirst_keeps h) h
    generalize List.foldl _ m _ = m₁ at first ⊢
    split
    · split
      · next m₂ queued => exact handOver_keeps (chargeIng_keeps (enqueue_keeps first queued))
      · exact dropPkt_keeps (countRefuse_keeps first)
    · exact Keeps.rest (handOver_keeps (chargeIng_keeps first)) rfl
  · dsimp only [handToQueues]
    have first : Keeps k m₀ (List.foldl (fun m t => crossFirst c t.1 m.tmg.xfer.length m) m
        (((q, r) :: t :: ts).filter fun t => t.1 / 65536 == x1.pipe / 16)) := Keeps.foldl (fun m t h => crossFirst_keeps h) h
    generalize List.foldl _ m _ = m₁ at first ⊢
    have all {fd : FrameD} {ts : List (Nat × EditRes)} : Keeps k m₀ (enqueueAll c fd ts m₁).2 := enqueueAll_keeps first
    exact Keeps.ite (dropPkt_keeps all) (Keeps.ite (handOver_keeps (chargeIng_keeps all)) (Keeps.rest (handOver_keeps (chargeIng_keeps all)) rfl))

theorem takeRelease_keeps {die : Nat} (h : Keeps k m₀ m) : Keeps k m₀ (takeRelease c m die) := by
  unfold takeRelease
  have := @Keeps.update; have := @releaseCopy_keeps; grind

theorem copyAlone_keeps {x1 : Pkt} {bytes : List Byte} {q : Nat} (h : Keeps k m₀ m) : Keeps k m₀ (copyAlone c m x1 bytes q) := by
  unfold copyAlone
  have := @Keeps.update; have := @ingressFail_keeps; have := @noCell_keeps; have := @handToQueues_keeps; have := @storeIngress_keeps; grind

theorem makeReady_keeps {x1 : Pkt} (h : Keeps k m₀ m) : Keeps k m₀ (makeReady m x1) := by
  unfold makeReady
  have := @Keeps.update; grind

theorem hostStore_keeps {f : HostFrame} (h : Keeps k m₀ m) : Keeps k m₀ (hostStore c m f).2 := by
  unfold hostStore
  have := @Keeps.update; have := @Keeps.foldl; have := @makeReady_keeps; have := @chargeIng_keeps; have := @allocFail_keeps
  have := @storeFrame_keeps; have := @noCell_keeps; have := @complete_keeps; grind

theorem hostFrameIn_keeps {f : HostFrame} (h : Keeps k m₀ m) : Keeps k m₀ (hostFrameIn c m f) := by
  unfold hostFrameIn
  have := @Keeps.update; have := @hostStore_keeps; grind

theorem hostRetry_keeps {pipe : Nat} (h : Keeps k m₀ m) : Keeps k m₀ (hostRetry c m pipe) := by
  unfold hostRetry
  have := @Keeps.update; have := @hostStore_keeps; grind

theorem Mach.setWq_keeps {q : Nat} {x : WQueue} (h : Keeps k m₀ m) : Keeps k m₀ (Mach.setWq m q x) := by
  unfold Mach.setWq
  have := @Keeps.update; grind

theorem Mach.freeWork_keeps {bs : List Nat} (h : Keeps k m₀ m) : Keeps k m₀ (Mach.freeWork m bs) := by
  unfold Mach.freeWork
  have := @Keeps.update; have := @Keeps.foldl; grind

theorem notifyReady_keeps (h : Keeps k m₀ m) : Keeps k m₀ (notifyReady c m) := by
  unfold notifyReady
  have := @Keeps.update; have := @Keeps.foldl; have := @Mach.setCore_keeps; have := @Mach.emit_keeps; grind

theorem enqueueItem_keeps {w : WItem} (h : Keeps k m₀ m) : Keeps k m₀ (enqueueItem c m w) := by
  unfold enqueueItem
  have := @Keeps.update; have := @bump_keeps; have := @notifyReady_keeps; have := @Mach.setWq_keeps; grind

theorem admitItem_keeps {w : WItem} (h : Keeps k m₀ m) : Keeps k m₀ (admitItem c m w) := by
  unfold admitItem
  have := @Keeps.update; have := @enqueueItem_keeps; grind

theorem finishItem_keeps {w : WItem} {keepBufs : Bool} (h : Keeps k m₀ m) : Keeps k m₀ (finishItem m w keepBufs) := by
  unfold finishItem
  have := @Keeps.update; have := @Mach.freeWork_keeps; have := @Mach.setWq_keeps; grind

theorem releaseOne_keeps {e : OutEntry} (h : Keeps k m₀ m) : Keeps k m₀ (releaseOne c m e) := by
  unfold releaseOne
  have := @Keeps.update; have := @enqueueItem_keeps; have := @queueFill_keeps; have := @Mach.freeWork_keeps; have := @hostFrameIn_keeps
  have := @bump_keeps; have := @finishItem_keeps; grind

theorem releaseAll_keeps {x1 : Nat} (h : Keeps k m₀ m) : Keeps k m₀ (releaseAll c x1 m) := by
  have := @releaseOne_keeps; fun_induction releaseAll c x1 m <;> grind

theorem doneStore_keeps {core slot : Nat} {out : TOutput} {e : InService} (h : Keeps k m₀ m) : Keeps k m₀ (doneStore c m core slot out e) := by
  unfold doneStore
  have := @Keeps.update; have := @bump_keeps; have := @Mach.freeWork_keeps; have := @Mach.setCore_keeps; grind

theorem postStore_keeps {core : Nat} {staged held : List Byte} (h : Keeps k m₀ m) : Keeps k m₀ (postStore m core staged held) := by
  unfold postStore
  have := @Keeps.update; have := @Mach.setCore_keeps; grind

theorem resumeStore_keeps {core : Nat} (h : Keeps k m₀ m) : Keeps k m₀ (resumeStore c m core) := by
  unfold resumeStore
  have := @Keeps.update; have := @postStore_keeps; have := @doneStore_keeps; have := @Mach.setCore_keeps; grind

theorem releaseLoop_keeps {x1 : Nat} (h : Keeps k m₀ m) : Keeps k m₀ (releaseLoop c x1 m) := by
  have := @resumeStore_keeps; have := @releaseAll_keeps; fun_induction releaseLoop c x1 m <;> grind

theorem release_keeps (h : Keeps k m₀ m) : Keeps k m₀ (release c m) := by
  unfold release
  have := @releaseLoop_keeps; have := @notifyReady_keeps; grind

theorem portMisuse_keeps {core : Nat} (h : Keeps k m₀ m) : Keeps k m₀ (portMisuse c m core) := by
  unfold portMisuse
  have := @bump_keeps; have := @raise_keeps; grind

theorem retire_keeps {core stall : Nat} (h : Keeps k m₀ m) : Keeps k m₀ (retire c m core stall) := by
  unfold retire
  split
  · exact h
  · extract_lets set
    have sets (m : Mach) (n : Nat) (h : Keeps k m₀ m) : Keeps k m₀ (set m n) := h.rest rfl
    have drawn : Keeps k m₀ (match Tbl.find m.pwr.sampleLeft core with | some k => (k, m) | none => (sampleGap c m core, m.draw)).2 := by
      split
      · exact h
      · exact Mach.draw_keeps h
    exact Keeps.ite (sets _ _ drawn) (Mach.draw_keeps (sets _ _ (Mach.draw_keeps (Mach.draw_keeps (traceAdd_keeps drawn)))))

theorem retireMany_keeps {core x1 : Nat} (h : Keeps k m₀ m) : Keeps k m₀ (retireMany c core x1 m) := by
  have := @Mach.draw_keeps; have := @retire_keeps; fun_induction retireMany c core x1 m <;> grind

theorem dispatchTo_keeps {core slot q : Nat} {w : WItem} (h : Keeps k m₀ m) : Keeps k m₀ (dispatchTo c m core slot q w) := by
  unfold dispatchTo
  have := @Keeps.update; have := @bump_keeps; have := @Mach.setWq_keeps; have := @Mach.setCore_keeps; grind

theorem workGet_keeps {core : Nat} (h : Keeps k m₀ m) : Keeps k m₀ (workGet c m core) := by
  unfold workGet
  have := @dispatchTo_keeps; have := @Mach.emit_keeps; grind

theorem doneWith_keeps {core slot : Nat} {out : TOutput} (h : Keeps k m₀ m) : Keeps k m₀ (doneWith c m core slot out) := by
  unfold doneWith
  have := @Keeps.update; have := @doneStore_keeps; have := @release_keeps; have := @Mach.setCore_keeps; have := @portMisuse_keeps; grind

theorem workDrop_keeps {core slot : Nat} {reserved : Bool} (h : Keeps k m₀ m) : Keeps k m₀ (workDrop c m core slot reserved) := by
  unfold workDrop
  have := @doneWith_keeps; have := @portMisuse_keeps; grind

theorem workInject_keeps {core slot v : Nat} {held : List Byte} (h : Keeps k m₀ m) : Keeps k m₀ (workInject c m core slot v held) := by
  unfold workInject
  have := @doneWith_keeps; have := @portMisuse_keeps; grind

theorem workDeliver_keeps {core slot v : Nat} {held : List Byte} (h : Keeps k m₀ m) : Keeps k m₀ (workDeliver c m core slot v held) := by
  unfold workDeliver
  have := @doneWith_keeps; grind

theorem workForward_keeps {core slot v : Nat} (h : Keeps k m₀ m) : Keeps k m₀ (workForward c m core slot v) := by
  unfold workForward
  have := @doneWith_keeps; grind

theorem workArm_keeps {core v : Nat} (h : Keeps k m₀ m) : Keeps k m₀ (workArm c m core v) := by
  unfold workArm
  have := @Keeps.update; have := @Mach.setCore_keeps; have := @notifyReady_keeps; grind

theorem bufAlloc_keeps {core : Nat} (h : Keeps k m₀ m) : Keeps k m₀ (bufAlloc m core) := by
  unfold bufAlloc
  have := @Keeps.update; have := @Mach.setCore_keeps; have := @Mach.emit_keeps; grind

theorem bufFree_keeps {core v : Nat} (h : Keeps k m₀ m) : Keeps k m₀ (bufFree c m core v) := by
  unfold bufFree
  have := @Keeps.update; have := @Mach.setCore_keeps; have := @Mach.freeWork_keeps; have := @portMisuse_keeps; grind

theorem postGo_keeps {core : Nat} {staged held : List Byte} (h : Keeps k m₀ m) : Keeps k m₀ (postGo c m core staged held) := by
  unfold postGo
  have := @Keeps.update; have := @postStore_keeps; have := @release_keeps; have := @Mach.setCore_keeps; grind

theorem abandonAll_keeps {core : Nat} (h : Keeps k m₀ m) : Keeps k m₀ (abandonAll c m core) := by
  unfold abandonAll
  have := @Keeps.update; have := @Keeps.foldl; have := @finishItem_keeps; have := @bump_keeps; have := @Mach.freeWork_keeps
  have := @Mach.setCore_keeps; grind

theorem coreRunStart_keeps {core : Nat} (h : Keeps k m₀ m) : Keeps k m₀ (coreRunStart c m core) := by
  unfold coreRunStart
  have := @Keeps.update; have := @Mach.setCore_keeps; grind

theorem coreRunStop_keeps {core : Nat} (h : Keeps k m₀ m) : Keeps k m₀ (coreRunStop m core) := by
  unfold coreRunStop
  have := @Keeps.update; have := @Mach.setCore_keeps; grind

theorem coreStopped_keeps {core : Nat} (h : Keeps k m₀ m) : Keeps k m₀ (coreStopped m core) := by
  unfold coreStopped
  have := @Keeps.update; have := @Mach.setCore_keeps; grind

theorem coreReset_keeps {core : Nat} (h : Keeps k m₀ m) : Keeps k m₀ (coreReset c m core) := by
  unfold coreReset
  have := @Keeps.update; have := @coreRunStart_keeps; have := @release_keeps; have := @Mach.setCore_keeps; have := @abandonAll_keeps; grind

theorem coreIsolate_keeps {core : Nat} (h : Keeps k m₀ m) : Keeps k m₀ (coreIsolate c m core) := by
  unfold coreIsolate
  have := @Keeps.update; have := @Mach.setCore_keeps; have := @release_keeps; have := @abandonAll_keeps; grind

theorem svcTimeout_keeps {core slot : Nat} (h : Keeps k m₀ m) : Keeps k m₀ (svcTimeout c m core slot) := by
  unfold svcTimeout
  have := @Keeps.update; have := @bump_keeps; have := @raise_keeps; grind

end Sys2Proof.Machine

/-! What the functions of host ports and their rings keep. -/
namespace Sys2Proof.Machine
variable {k : Prop} {c : Cfg} {m₀ m : Mach}

theorem reclaim_keeps {keep x1 : Nat} (h : Keeps k m₀ m) : Keeps k m₀ (reclaim keep x1 m) := by
  have := @Keeps.update; have := @Keeps.foldl; have := @Mach.setRing_keeps; fun_induction reclaim keep x1 m <;> grind

theorem consume_keeps {rid : Nat} {e : Consumed} (h : Keeps k m₀ m) : Keeps k m₀ (consume m rid e).2 := by
  unfold consume
  have := @Keeps.update; have := @Mach.setRing_keeps; grind

theorem consumeAll_keeps {rid : Nat} {x1 : List Consumed} (h : Keeps k m₀ m) : Keeps k m₀ (consumeAll m rid x1).2 := by
  have := @consume_keeps; fun_induction consumeAll m rid x1 <;> grind

theorem beginReads_keeps {rid : Nat} (h : Keeps k m₀ m) : Keeps k m₀ (beginReads m rid) := by
  unfold beginReads
  have := @Keeps.update; have := @Mach.setRing_keeps; have := @consumeAll_keeps; grind

theorem completeAll_keeps {rid status : Nat} {slots : List Nat} (h : Keeps k m₀ m) : Keeps k m₀ (completeAll c m rid status slots) := by
  unfold completeAll
  have := @Keeps.foldl; have := @complete_keeps; grind

theorem txpTake_keeps {rid : Nat} (h : Keeps k m₀ m) : Keeps k m₀ (txpTake c m rid) := by
  unfold txpTake
  have := @Keeps.update; have := @hostFrameIn_keeps; have := @countReason_keeps; have := @completeAll_keeps; have := @Mach.setRing_keeps; grind

theorem txpAdmit_keeps {rid : Nat} (h : Keeps k m₀ m) : Keeps k m₀ (txpAdmit c m rid) := by
  unfold txpAdmit
  have := @txpTake_keeps; grind

theorem dropWaiting_keeps {rid : Nat} (h : Keeps k m₀ m) : Keeps k m₀ (dropWaiting c m rid) := by
  unfold dropWaiting
  have := @Keeps.update; have := @Keeps.foldl; have := @Mach.setRing_keeps; have := @bump_keeps; have := @dropFill_keeps; grind

theorem abortPart_keeps {rid : Nat} (h : Keeps k m₀ m) : Keeps k m₀ (abortPart c m rid) := by
  unfold abortPart
  have := @Keeps.update; have := @Mach.setRing_keeps; have := @completeAll_keeps; grind

theorem clearAdmin_keeps {rid : Nat} (h : Keeps k m₀ m) : Keeps k m₀ (clearAdmin m rid) := by
  unfold clearAdmin
  have := @Mach.setSt_keeps; grind

theorem ringDestroy_keeps {rid : Nat} {by' : Option (Nat × Nat)} (h : Keeps k m₀ m) : Keeps k m₀ (ringDestroy c m rid by') := by
  unfold ringDestroy
  have := @Keeps.update; have := @Mach.setRing_keeps; have := @flushRing_keeps; have := @clearAdmin_keeps; have := @dropWaiting_keeps
  have := @abortPart_keeps; grind

theorem lastFrames_keeps {rid x1 : Nat} (h : Keeps k m₀ m) : Keeps k m₀ (lastFrames c rid x1 m) := by
  have := @txpTake_keeps; fun_induction lastFrames c rid x1 m <;> grind

theorem ringLost_keeps {rid : Nat} (h : Keeps k m₀ m) : Keeps k m₀ (ringLost c m rid) := by
  unfold ringLost
  dsimp only
  have lost : Keeps k m₀ (lastFrames c rid
      (((dropWaiting c (clearAdmin m rid) rid).setRing rid { (dropWaiting c (clearAdmin m rid) rid).ring rid with state := .absent }).ring rid).begun.length
      ((dropWaiting c (clearAdmin m rid) rid).setRing rid { (dropWaiting c (clearAdmin m rid) rid).ring rid with state := .absent })) :=
    lastFrames_keeps (Mach.setRing_keeps (dropWaiting_keeps (clearAdmin_keeps h)))
  generalize lastFrames c rid _ _ = m₁ at lost ⊢
  split
  · exact complete_keeps (Mach.setRing_keeps lost)
  · exact Mach.setRing_keeps lost

theorem ringError_keeps {rid cause addr : Nat} (h : Keeps k m₀ m) : Keeps k m₀ (ringError c m rid cause addr) := by
  unfold ringError
  have := @postEvent_keeps; grind

theorem portLoss_keeps {p : Nat} (h : Keeps k m₀ m) : Keeps k m₀ (portLoss c m p) := by
  unfold portLoss
  have := @Keeps.foldl; have := @Mach.draw_keeps; have := @ringError_keeps; have := @ringLost_keeps; grind

theorem adminEnable_keeps {p : Nat} (h : Keeps k m₀ m) : Keeps k m₀ (adminEnable c m p) := by
  unfold adminEnable
  have := @Keeps.update; have := @Mach.setRing_keeps; have := @Mach.setPort_keeps; have := @Mach.setSt_keeps; grind

theorem ringCreate_keeps {p rid : Nat} {b : List Byte} (h : Keeps k m₀ m) : Keeps k m₀ (ringCreate m p rid b).2 := by
  unfold ringCreate
  have := @Keeps.update; have := @Mach.setRing_keeps; grind

theorem discardPrefetched_keeps {rid : Nat} {inFlight : Bool} (h : Keeps k m₀ m) : Keeps k m₀ (discardPrefetched m rid inFlight) := by
  unfold discardPrefetched
  have := @Keeps.update; have := @Mach.setRing_keeps; grind

theorem doorbellTake_keeps {rid v : Nat} (h : Keeps k m₀ m) : Keeps k m₀ (doorbellTake c m rid v) := by
  unfold doorbellTake
  have taken {x : Ring} : Keeps k m₀ (m.setRing rid x) := Mach.setRing_keeps h
  have discarded {x : Ring} {b f : Bool} : Keeps k m₀ (if b then discardPrefetched (m.setRing rid x) rid f else m.setRing rid x) :=
    Keeps.ite (discardPrefetched_keeps taken) taken
  extract_lets inFlight r m₁ m₂ r' m₃
  have armed : Keeps k m₀ m₃ := Keeps.ite (checkCount_keeps (Mach.setRing_keeps discarded)) discarded
  split
  · exact drainEvents_keeps armed
  · exact serveFills_keeps armed

theorem doorbellFor_keeps {p rid v : Nat} (h : Keeps k m₀ m) : Keeps k m₀ (doorbellFor c m p rid v) := by
  unfold doorbellFor
  have := @doorbellTake_keeps; have := @bump_keeps; grind

theorem doorbellWrite_keeps {p off len v : Nat} (h : Keeps k m₀ m) : Keeps k m₀ (doorbellWrite c m p off len v) := by
  unfold doorbellWrite
  have := @doorbellFor_keeps; have := @bump_keeps; grind

theorem pollTail_keeps {rid v : Nat} (h : Keeps k m₀ m) : Keeps k m₀ (pollTail c m rid v) := by
  unfold pollTail
  have := @Keeps.update; have := @Mach.setRing_keeps; have := @doorbellFor_keeps; grind

theorem dmaError_keeps {rid addr : Nat} (h : Keeps k m₀ m) : Keeps k m₀ (dmaError c m rid addr) := by
  unfold dmaError
  have := @Keeps.update; have := @raise_keeps; have := @bump_keeps; have := @ringError_keeps; have := @serveFills_keeps; have := @Mach.setPort_keeps
  have := @Mach.setRing_keeps; grind

theorem fetchDone_keeps {rid : Nat} {ds : Option (List (List Byte))} (h : Keeps k m₀ m) : Keeps k m₀ (fetchDone c m rid ds) := by
  unfold fetchDone
  have := @Keeps.update; have := @serveFills_keeps; have := @reclaim_keeps; have := @beginReads_keeps; have := @dmaError_keeps
  have := @Mach.setRing_keeps; grind

theorem txpFail_keeps {rid addr : Nat} (h : Keeps k m₀ m) : Keeps k m₀ (txpFail c m rid addr) := by
  unfold txpFail
  have := @Keeps.update; have := @Mach.setRing_keeps; have := @dmaError_keeps; have := @completeAll_keeps; grind

theorem txpData_keeps {rid : Nat} {b : Option (List Byte)} (h : Keeps k m₀ m) : Keeps k m₀ (txpData c m rid b) := by
  unfold txpData
  have := @Keeps.update; have := @txpFail_keeps; have := @Mach.setRing_keeps; grind

theorem modExpiry_keeps {rid : Nat} (h : Keeps k m₀ m) : Keeps k m₀ (modExpiry c m rid) := by
  unfold modExpiry
  have := @dueIrq_keeps; grind

theorem sendDue_keeps {p : Nat} (h : Keeps k m₀ m) : Keeps k m₀ (sendDue c m p) := by
  unfold sendDue
  have := @Keeps.update; have := @Keeps.foldl; have := @Mach.setRing_keeps; have := @dueIrq_keeps; grind

theorem linkL1_keeps {p : Nat} {l : LinkL} (h : Keeps k m₀ m) : Keeps k m₀ (linkL1 c m p l) := by
  unfold linkL1
  have := @Keeps.update; have := @Mach.setPort_keeps; grind

theorem l1Exit_keeps {p : Nat} (h : Keeps k m₀ m) : Keeps k m₀ (l1Exit c m p) := by
  unfold l1Exit
  have := @Keeps.update; have := @Mach.setPort_keeps; grind

theorem linkL0_keeps {p : Nat} (h : Keeps k m₀ m) : Keeps k m₀ (linkL0 c m p) := by
  unfold linkL0
  have := @Keeps.update; have := @Mach.setPort_keeps; have := @sendDue_keeps; grind

theorem portResume_keeps {p : Nat} (h : Keeps k m₀ m) : Keeps k m₀ (portResume c m p) := by
  unfold portResume
  have := @Keeps.foldl; have := @sendDue_keeps; have := @sendAllPending_keeps; have := @serveFills_keeps; have := @drainEvents_keeps
  have := @flushRing_keeps; grind

theorem powerState_keeps {p : Nat} {d3 bme : Bool} {pme : PmeWrite} {msix : MsixWrite} (h : Keeps k m₀ m) : Keeps k m₀ (powerState c m p d3 bme pme
    msix) := by
  unfold powerState
  have := @Keeps.update; have := @Mach.setPort_keeps; have := @portResume_keeps; grind

theorem linkUp_keeps {p : Nat} (h : Keeps k m₀ m) : Keeps k m₀ (linkUp c m p) := by
  unfold linkUp
  have := @Keeps.update; have := @portResume_keeps; have := @Mach.setPort_keeps; grind

theorem linkDown_keeps {p : Nat} (h : Keeps k m₀ m) : Keeps k m₀ (linkDown c m p) := by
  unfold linkDown
  have := @Keeps.update; have := @portLoss_keeps; have := @Mach.setPort_keeps; grind

theorem functionReset_keeps {p : Nat} {hot : Bool} (h : Keeps k m₀ m) : Keeps k m₀ (functionReset c m p hot) := by
  unfold functionReset
  have := @Keeps.update; have := @Mach.setPort_keeps; have := @portLoss_keeps; have := @linkDown_keeps; grind

theorem roleChanged_keeps (h : Keeps k m₀ m) : Keeps k m₀ (roleChanged c m) := by
  unfold roleChanged
  have := @Keeps.foldl; have := @ringDestroy_keeps; grind

theorem primaryMove_keeps (h : Keeps k m₀ m) : Keeps k m₀ (primaryMove c m) := by
  unfold primaryMove
  have := @raise_keeps; have := @Mach.setSt_keeps; have := @roleChanged_keeps; grind

theorem bufferDeliver_keeps {rid : Nat} (h : Keeps k m₀ m) : Keeps k m₀ (bufferDeliver c m rid) := by
  unfold bufferDeliver
  have := @serveFills_keeps; grind

theorem puntLeave_keeps {pipe : Nat} {e : Punt} (h : Keeps k m₀ m) : Keeps k m₀ (puntLeave c m pipe e) := by
  unfold puntLeave
  have := @freeFrame_keeps; have := @chargePunt_keeps; have := @Mach.setPunts_keeps; grind

theorem sendPunt_keeps {pipe : Nat} {e : Punt} (h : Keeps k m₀ m) : Keeps k m₀ (sendPunt c m pipe e) := by
  unfold sendPunt
  have := @Keeps.update; have := @admitItem_keeps; have := @bump_keeps; have := @serveFills_keeps; have := @puntLeave_keeps
  have := @queueFill_keeps; grind

theorem puntTransfer_keeps {pipe : Nat} (h : Keeps k m₀ m) : Keeps k m₀ (puntTransfer c m pipe) := by
  unfold puntTransfer
  have := @sendPunt_keeps; grind

theorem admitFrom_keeps {x1 : WorkSrc} (h : Keeps k m₀ m) : Keeps k m₀ (admitFrom c m x1) := by
  unfold admitFrom
  have := @Keeps.update; have := @bump_keeps; have := @Mach.setCore_keeps; have := @enqueueItem_keeps; have := @completeAll_keeps
  have := @admitItem_keeps; have := @sendPunt_keeps; grind

end Sys2Proof.Machine

/-! What the functions of programs, forwarding and editing keep. -/
namespace Sys2Proof.Machine
variable {k : Prop} {c : Cfg} {m₀ m : Mach}

theorem Mach.met_keeps {src which : Nat} {entries : List Nat} (h : Keeps k m₀ m) : Keeps k m₀ (Mach.met m src which entries) := by
  unfold Mach.met
  have := @Keeps.update; grind

theorem meter_keeps {die n b colour : Nat} {aware : Bool} (h : Keeps k m₀ m) : Keeps k m₀ (meter m die n b colour aware).2 := by
  unfold meter
  have := @Keeps.update; have := @Mach.met_keeps; grind

theorem raiseIn_keeps {w : Work} {x1 : Pkt} {code : Nat} (h : Keeps k m₀ m) : Keeps k m₀ (raiseIn c m w x1 code).2 := by
  unfold raiseIn
  have := @Keeps.update; have := @countReason_keeps; grind

theorem trackTcp_keeps {e : ActIn} {w0 w : Work} {op : Nat} (h : Keeps k m₀ m) : Keeps k m₀ (trackTcp c m e w0 w op).2 := by
  unfold trackTcp
  have := @Keeps.update; have := @raiseIn_keeps; grind

theorem natOp_keeps {e : ActIn} {w0 w : Work} {op : Nat} {src : Bool} (h : Keeps k m₀ m) : Keeps k m₀ (natOp c m e w0 w op src).2 := by
  unfold natOp
  have := @Keeps.update; have := @raiseIn_keeps; grind

theorem hostCopy_keeps {e : ActIn} {code : Nat} {trunc : Bool} (h : Keeps k m₀ m) : Keeps k m₀ (hostCopy c m e code trunc) := by
  unfold hostCopy
  have := @puntCopy_keeps; have := @countReason_keeps; grind

theorem microOp_keeps {e : ActIn} {op : Nat} {w0 w : Work} (h : Keeps k m₀ m) : Keeps k m₀ (microOp c e op w0 w m).2 := by
  unfold microOp
  have := @Keeps.update; have := @trackTcp_keeps; have := @Mach.met_keeps; have := @bump_keeps; have := @Mach.draw_keeps; have := @hostCopy_keeps
  have := @meter_keeps; have := @raiseIn_keeps; have := @natOp_keeps; grind

theorem runSlots_keeps {e : ActIn} {w0 : Work} {x1 : List Nat} {x2 : Work} (h : Keeps k m₀ m) : Keeps k m₀ (runSlots c e w0 x1 x2 m).2 := by
  have := @microOp_keeps; fun_induction runSlots c e w0 x1 x2 m <;> grind

theorem runStages_keeps {e : ActIn} {prog : List Byte} {x1 : List Nat} {x2 : Work} (h : Keeps k m₀ m) : Keeps k m₀ (runStages c e prog x1 x2 m).2 := by
  have := @runSlots_keeps; fun_induction runStages c e prog x1 x2 m <;> grind

theorem runProgram_keeps {e : ActIn} {stamp : Nat} (h : Keeps k m₀ m) : Keeps k m₀ (runProgram c m e stamp).2 := by
  unfold runProgram
  have := @runStages_keeps; have := @raiseIn_keeps; have := @Mach.met_keeps; grind

theorem fdbMet_keeps {die bd mac : Nat} (h : Keeps k m₀ m) : Keeps k m₀ (fdbMet m die bd mac) := by
  unfold fdbMet
  have := @Mach.met_keeps; grind

theorem learnOne_keeps {die : Nat} (h : Keeps k m₀ m) : Keeps k m₀ (learnOne c m die) := by
  unfold learnOne
  split
  · exact h
  · next r rs pending =>
    extract_lets f m₁ now
    have met : Keeps k m₀ (fdbMet m₁ die r.bd r.mac) := fdbMet_keeps (h.rest rfl)
    split
    · exact Keeps.ite (Mach.setFdb_keeps met) (Keeps.ite met (Keeps.ite (postEvent_keeps (bump_keeps (Mach.setFdb_keeps met))) (bump_keeps (Mach.setFdb_keeps met))))
    · split
      · exact Keeps.ite (postEvent_keeps (bump_keeps (Mach.setFdb_keeps met))) (bump_keeps (Mach.setFdb_keeps met))
      · exact bump_keeps met

theorem fdbTick_keeps {die : Nat} (h : Keeps k m₀ m) : Keeps k m₀ (fdbTick c m die) := by
  unfold fdbTick
  have := @Keeps.update; have := @Keeps.foldl; have := @postEvent_keeps; have := @Mach.setFdb_keeps; have := @bump_keeps; have := @Mach.setSt_keeps
  grind

theorem softReason_keeps {pipe code : Nat} (h : Keeps k m₀ m) : Keeps k m₀ (softReason c m pipe code).2 := by
  unfold softReason
  have := @countReason_keeps; grind

theorem routeTo_keeps {e : ActIn} {ecmp len3 : Nat} {route : Option Lpm} (h : Keeps k m₀ m) : Keeps k m₀ (routeTo c m e ecmp len3 route).2 := by
  unfold routeTo
  extract_lets die pipe src via
  have vias (m : Mach) (n : Nat) (h : Keeps k m₀ m) : Keeps k m₀ (via m n).2 := by
    unfold via
    have := @Mach.met_keeps; have := @bump_keeps; grind
  split
  · exact h
  · have := @Mach.met_keeps; have := @bump_keeps; grind

theorem learnStage_keeps {e : ActIn} {bd smac bdE : Nat} (h : Keeps k m₀ m) : Keeps k m₀ (learnStage c m e bd smac bdE).2.2 := by
  unfold learnStage
  have := @Keeps.update; have := @softReason_keeps; have := @Mach.setFdb_keeps; have := @fdbMet_keeps; have := @bump_keeps; grind

theorem bridgeTo_keeps {x1 : Pkt} {bd dmac bdE : Nat} (h : Keeps k m₀ m) : Keeps k m₀ (bridgeTo c m x1 bd dmac bdE).2 := by
  unfold bridgeTo
  have := @softReason_keeps; have := @bump_keeps; have := @fdbMet_keeps; grind

theorem forward_keeps {e : ActIn} {w : Work} (h : Keeps k m₀ m) : Keeps k m₀ (forward c m e w).2 := by
  unfold forward
  have := @bridgeTo_keeps; have := @bump_keeps; have := @routeTo_keeps; have := @learnStage_keeps; grind

end Sys2Proof.Machine

/-! What the functions of the flow store, its services and its slices keep. -/
namespace Sys2Proof.Machine
variable {k : Prop} {c : Cfg} {m₀ m : Mach}

theorem Mach.putSet_keeps {x1 : Nat} {l : List Line} (h : Keeps k m₀ m) : Keeps k m₀ (Mach.putSet m x1 l) := by
  unfold Mach.putSet
  have := @Keeps.update; grind

theorem Mach.storeHbm_keeps {region pos : Nat} {r : Option Rec} (h : Keeps k m₀ m) : Keeps k m₀ (Mach.storeHbm m region pos r) := by
  unfold Mach.storeHbm
  have := @Keeps.update; grind

theorem Mach.putHbm_keeps {region pos : Nat} {r : Option Rec} (h : Keeps k m₀ m) : Keeps k m₀ (Mach.putHbm m region pos r) := by
  unfold Mach.putHbm
  have := @Keeps.update; have := @Mach.storeHbm_keeps; grind

theorem evictLine_keeps {region x1 : Nat} {x : Line} (h : Keeps k m₀ m) : Keeps k m₀ (evictLine m region x1 x) := by
  unfold evictLine
  have := @Keeps.update; have := @Mach.putSet_keeps; have := @Mach.storeHbm_keeps; grind

theorem evict_keeps {region n x1 x3 : Nat} (h : Keeps k m₀ m) : Keeps k m₀ (evict region n x1 m x3) := by
  have := @evictLine_keeps; fun_induction evict region n x1 m x3 <;> grind

theorem dropLine_keeps {phys pos : Nat} (h : Keeps k m₀ m) : Keeps k m₀ (dropLine m phys pos) := by
  unfold dropLine
  have := @Mach.putSet_keeps; grind

theorem putLine_keeps {region pos : Nat} {r : Rec} {dirty half : Bool} (h : Keeps k m₀ m) : Keeps k m₀ (putLine c m region pos r dirty half) := by
  unfold putLine
  have := @Keeps.update; have := @bump_keeps; have := @dropLine_keeps; have := @evict_keeps; have := @Mach.putSet_keeps; grind

theorem clearPlace_keeps {region pos : Nat} (h : Keeps k m₀ m) : Keeps k m₀ (clearPlace m region pos) := by
  unfold clearPlace
  have := @Mach.putHbm_keeps; have := @dropLine_keeps; grind

theorem moveRec_keeps {region src dst : Nat} {r : Rec} (h : Keeps k m₀ m) : Keeps k m₀ (moveRec c m region src dst r) := by
  unfold moveRec
  have := @Keeps.update; have := @Mach.putHbm_keeps; have := @Mach.storeHbm_keeps; have := @putLine_keeps; have := @clearPlace_keeps; grind

theorem Mach.putStash_keeps {region : Nat} {l : List Rec} (h : Keeps k m₀ m) : Keeps k m₀ (Mach.putStash m region l) := by
  unfold Mach.putStash
  have := @Keeps.update; grind

theorem putRec_keeps {region : Nat} {pl : Spot} {r : Rec} (h : Keeps k m₀ m) : Keeps k m₀ (putRec c m region pl r) := by
  unfold putRec
  have := @putLine_keeps; have := @Mach.putStash_keeps; grind

theorem ovfAdd_keeps {region b held : Nat} (h : Keeps k m₀ m) : Keeps k m₀ (ovfAdd c m region b held) := by
  unfold ovfAdd
  have := @Keeps.update; have := @bump_keeps; grind

theorem ovfSub_keeps {region b held : Nat} (h : Keeps k m₀ m) : Keeps k m₀ (ovfSub c m region b held) := by
  unfold ovfSub
  have := @Keeps.update; have := @bump_keeps; grind

theorem countPlaced_keeps {region b fh : Nat} (h : Keeps k m₀ m) : Keeps k m₀ (countPlaced c m region b fh) := by
  unfold countPlaced
  have := @ovfAdd_keeps; grind

theorem countRemoved_keeps {region b fh : Nat} (h : Keeps k m₀ m) : Keeps k m₀ (countRemoved c m region b fh) := by
  unfold countRemoved
  have := @ovfSub_keeps; grind

theorem placeRec_keeps {region pos : Nat} {r : Rec} (h : Keeps k m₀ m) : Keeps k m₀ (placeRec c m region pos r) := by
  unfold placeRec
  have := @bump_keeps; have := @countPlaced_keeps; have := @putLine_keeps; grind

theorem stashRec_keeps {region : Nat} {r : Rec} (h : Keeps k m₀ m) : Keeps k m₀ (stashRec c m region r) := by
  unfold stashRec
  have := @bump_keeps; have := @Mach.putStash_keeps; grind

theorem readBucket_keeps {region b : Nat} (h : Keeps k m₀ m) : Keeps k m₀ (readBucket c m region b) := by
  unfold readBucket
  refine Keeps.foldl (fun m s h => ?_) h
  dsimp only
  split
  · split
    · have cleared {b n : Nat} {fh : Nat} {p : Nat} : Keeps k m₀ (bump c (countRemoved c (clearPlace m region p) region b fh) .fslCnt n cFslCheckError) :=
        bump_keeps (countRemoved_keeps (clearPlace_keeps h))
      refine raise_keeps (Keeps.rest (m := ite _ _ _) (Keeps.ite cleared (Mach.setSt_keeps (Mach.setSt_keeps (Mach.setSt_keeps cleared)))) rfl)
    · exact h
  · exact h

theorem guardKey_keeps {region : Nat} {key : List Byte} (h : Keeps k m₀ m) : Keeps k m₀ (guardKey c m region key) := by
  unfold guardKey
  have := @Keeps.update; grind

theorem removeRec_keeps {region : Nat} {pl : Spot} {r : Rec} (h : Keeps k m₀ m) : Keeps k m₀ (removeRec c m region pl r) := by
  unfold removeRec
  have := @guardKey_keeps; have := @clearPlace_keeps; have := @countRemoved_keeps; have := @unstash_keeps; grind

theorem Mach.setPool_keeps {n : Nat} {p : NatPool} (h : Keeps k m₀ m) : Keeps k m₀ (Mach.setPool m n p) := by
  unfold Mach.setPool
  have := @Keeps.update; grind

theorem natFill_keeps {n x1 : Nat} (h : Keeps k m₀ m) : Keeps k m₀ (natFill n x1 m) := by
  have := @Keeps.update; have := @Mach.setPool_keeps; have := @natSet_keeps; fun_induction natFill n x1 m <;> grind

theorem natRefill_keeps {n : Nat} (h : Keeps k m₀ m) : Keeps k m₀ (natRefill m n) := by
  unfold natRefill
  have := @natFill_keeps; grind

theorem natTake_keeps {n : Nat} (h : Keeps k m₀ m) : Keeps k m₀ (natTake c m n).2 := by
  unfold natTake
  have := @Keeps.update; have := @Mach.setPool_keeps; have := @bump_keeps; grind

theorem natReturn_keeps {n addr port : Nat} (h : Keeps k m₀ m) : Keeps k m₀ (natReturn c m n addr port) := by
  unfold natReturn
  have := @natSet_keeps; have := @bump_keeps; grind

theorem natClaim_keeps {r : Rec} (h : Keeps k m₀ m) : Keeps k m₀ (natClaim c m r) := by
  unfold natClaim
  have := @natSet_keeps; have := @bump_keeps; grind

theorem natRelease_keeps {b : List Byte} (h : Keeps k m₀ m) : Keeps k m₀ (natRelease c m b) := by
  unfold natRelease
  have := @bump_keeps; have := @natSet_keeps; grind

theorem releaseBinding_keeps {r : Rec} (h : Keeps k m₀ m) : Keeps k m₀ (releaseBinding c m r) := by
  unfold releaseBinding
  have := @natRelease_keeps; grind

theorem ipfixOut_keeps {n : Nat} {msg : List Byte} (h : Keeps k m₀ m) : Keeps k m₀ (ipfixOut c m n msg) := by
  unfold ipfixOut
  have := @hostFrameIn_keeps; have := @serveFills_keeps; have := @queueFill_keeps; grind

theorem ipfixFlush_keeps {n : Nat} (h : Keeps k m₀ m) : Keeps k m₀ (ipfixFlush c m n) := by
  unfold ipfixFlush
  have := @Keeps.update; have := @ipfixOut_keeps; grind

theorem ipfixAdd_keeps {n : Nat} {e : Nat × List Byte} (h : Keeps k m₀ m) : Keeps k m₀ (ipfixAdd c m n e).2 := by
  unfold ipfixAdd
  have := @Keeps.update; have := @ipfixFlush_keeps; grind

theorem exportRec_keeps {r : Rec} {reason : Nat} (h : Keeps k m₀ m) : Keeps k m₀ (exportRec c m r reason) := by
  unfold exportRec
  split
  · exact h
  · split
    next all m₁ added =>
    have tried : Keeps k m₀ m₁ := by
      refine Keeps.of_pair (Keeps.foldl_pair (bump_keeps h) fun e x he => ?_) added
      dsimp only
      exact ipfixAdd_keeps he
    exact Keeps.ite tried (bump_keeps tried)

theorem ipfixTemplates_keeps (h : Keeps k m₀ m) : Keeps k m₀ (ipfixTemplates c m) := by
  unfold ipfixTemplates
  have := @Keeps.foldl; have := @ipfixOut_keeps; grind

theorem Mach.setLink_keeps {p : Nat} {x : Link} (h : Keeps k m₀ m) : Keeps k m₀ (Mach.setLink m p x) := by
  unfold Mach.setLink
  have := @Keeps.update; grind

theorem setTarget_keeps {e : Nat} {p : Option Nat} (h : Keeps k m₀ m) : Keeps k m₀ (setTarget c m e p) := by
  unfold setTarget
  have := @Keeps.update; grind

theorem duoSend_keeps {p : Nat} {g : Msg} {strict : Option Nat} {m' : Mach} (h : Keeps k m₀ m) (e : duoSend m p g strict = some m') : Keeps k m₀ m' := by
  unfold duoSend at e
  have := @Keeps.update; have := @Mach.setLink_keeps; grind

theorem addRetry_keeps {region : Nat} {key : List Byte} (h : Keeps k m₀ m) : Keeps k m₀ (addRetry c m region key) := by
  unfold addRetry
  have := @Keeps.update; grind

theorem markUnmirrored_keeps {r : Rec} (h : Keeps k m₀ m) : Keeps k m₀ (markUnmirrored c m r).2 := by
  unfold markUnmirrored
  have := @Keeps.update; have := @addRetry_keeps; have := @bump_keeps; grind

theorem emitChange_keeps {r : Rec} {insert : Bool} {strict : Option Nat} (h : Keeps k m₀ m) : Keeps k m₀ (emitChange c m r insert strict).2 := by
  unfold emitChange
  have := @Keeps.update; have := @bump_keeps; have := @duoSend_keeps; have := @markUnmirrored_keeps; grind

theorem emitDelete_keeps {r : Rec} (h : Keeps k m₀ m) : Keeps k m₀ (emitDelete c m r) := by
  unfold emitDelete
  split
  · exact h
  · split
    · exact h
    · split
      · exact h
      · exact Keeps.getD (fun _ sent => duoSend_keeps h sent) (bump_keeps h)

theorem promoteRec_keeps {fh : Nat} {r : Rec} (h : Keeps k m₀ m) : Keeps k m₀ (promoteRec c m fh r).2 := by
  unfold promoteRec
  have := @Keeps.update; have := @markUnmirrored_keeps; grind

theorem roleNow_keeps {fh : Nat} {r : Rec} (h : Keeps k m₀ m) : Keeps k m₀ (roleNow c m fh r).2 := by
  unfold roleNow
  have := @promoteRec_keeps; grind

theorem readmit_keeps {no : Nat} {key : List Byte} {holds : List Nat} (h : Keeps k m₀ m) : Keeps k m₀ (readmit m no key holds) := by
  unfold readmit
  have := @Keeps.update; grind

theorem enterOrder_keeps {fh : Nat} {key : List Byte} (h : Keeps k m₀ m) : Keeps k m₀ (enterOrder c m fh key).2 := by
  unfold enterOrder
  have := @bump_keeps; grind

theorem pushJob_keeps {job : Job} {key : List Byte} (h : Keeps k m₀ m) : Keeps k m₀ (pushJob c m job key) := by
  unfold pushJob
  have := @Keeps.update; have := @enterOrder_keeps; grind

theorem issueRead_keeps {region b : Nat} (h : Keeps k m₀ m) : Keeps k m₀ (issueRead m region b) := by
  unfold issueRead
  have := @Keeps.update; grind

theorem endRead_keeps {region b : Nat} (h : Keeps k m₀ m) : Keeps k m₀ (endRead m region b) := by
  unfold endRead
  have := @Keeps.update; grind

theorem extendPath_keeps {region : Nat} {seen : List Nat} {all : Bool} {x1 : Nat} {x2 : List Move} {x3 : Nat} {x4 : Bool} (h : Keeps k m₀ m) : Keeps k
    m₀ (extendPath c region seen all x1 x2 x3 x4 m).2.2 := by
  have := @Keeps.update; have := @readBucket_keeps; fun_induction extendPath c region seen all x1 x2 x3 x4 m <;> grind

theorem startMove_keeps {region : Nat} {mv : Move} (h : Keeps k m₀ m) : Keeps k m₀ (startMove c m region mv).2 := by
  unfold startMove
  have := @Keeps.update; have := @readBucket_keeps; grind

theorem movedOn_keeps {e : LedgerEnt} (h : Keeps k m₀ m) : Keeps k m₀ (movedOn m e) := by
  unfold movedOn
  have := @Keeps.update; have := @readmit_keeps; grind

theorem finishMove_keeps {e : LedgerEnt} (h : Keeps k m₀ m) : Keeps k m₀ (finishMove c m e) := by
  unfold finishMove
  extract_lets fh m₁ m₂ m₃
  exact movedOn_keeps (bump_keeps (countRemoved_keeps (moveRec_keeps (countPlaced_keeps (h.rest rfl)))))

theorem touchKey_keeps {fh : Nat} {key : List Byte} (h : Keeps k m₀ m) : Keeps k m₀ (touchKey c m fh key).2 := by
  unfold touchKey
  have := @readBucket_keeps; grind

theorem lookupKey_keeps {fh : Nat} {key : List Byte} (h : Keeps k m₀ m) : Keeps k m₀ (lookupKey c m fh key).2 := by
  unfold lookupKey
  have := @bump_keeps; have := @touchKey_keeps; grind

theorem insertFailed_keeps {region : Nat} (h : Keeps k m₀ m) : Keeps k m₀ (insertFailed c m region) := by
  unfold insertFailed
  have := @bump_keeps; grind

theorem placeNew_keeps {region : Nat} {spot : Option Spot} {r : Rec} (h : Keeps k m₀ m) : Keeps k m₀ (placeNew c m region spot r).2 := by
  unfold placeNew
  have := @insertFailed_keeps; have := @stashRec_keeps; have := @placeRec_keeps; grind

theorem setJob_keeps {w : Waiter} {place : OpAt} {holds : List Nat} (h : Keeps k m₀ m) : Keeps k m₀ (setJob m w place holds) := by
  unfold setJob
  have := @Keeps.update; grind

theorem jobSearch_keeps {w : Waiter} {att : Nat} (h : Keeps k m₀ m) : Keeps k m₀ (jobSearch c m w att).2 := by
  unfold jobSearch
  have := @setJob_keeps; have := @extendPath_keeps; grind

theorem jobAgain_keeps {w : Waiter} {att : Nat} (h : Keeps k m₀ m) : Keeps k m₀ (jobAgain c m w att).2 := by
  unfold jobAgain
  have := @jobSearch_keeps; have := @bump_keeps; grind

theorem jobPlace_keeps {w : Waiter} (h : Keeps k m₀ m) : Keeps k m₀ (jobPlace c m w).2 := by
  unfold jobPlace
  have := @jobSearch_keeps; have := @readmit_keeps; have := @jobAgain_keeps; have := @startMove_keeps; grind

theorem answer_keeps {q : FlowReq} {outcome : Nat} {snap : Option Rec} {strict loop : Bool} (h : Keeps k m₀ m) : Keeps k m₀ (answer c m q outcome snap
    strict loop) := by
  unfold answer
  have := @Keeps.update; grind

theorem setOp_keeps {o : SliceOp} (h : Keeps k m₀ m) : Keeps k m₀ (setOp m o) := by
  unfold setOp
  have := @Keeps.update; grind

theorem answerSteer_keeps {q : FlowReq} {p : Option Nat} (h : Keeps k m₀ m) : Keeps k m₀ (answerSteer c m q p) := by
  unfold answerSteer
  have := @setTarget_keeps; have := @answer_keeps; grind

theorem serveHit_keeps {q : FlowReq} {pl : Spot} {r : Rec} (h : Keeps k m₀ m) : Keeps k m₀ (serveHit c m q pl r) := by
  unfold serveHit
  have := @Keeps.update; have := @putRec_keeps; have := @answer_keeps; have := @roleNow_keeps; grind

theorem allocFor_keeps {q : FlowReq} {r : Rec} (h : Keeps k m₀ m) : (allocFor c m q r).Leaves (Keeps k m₀) := by
  unfold allocFor
  extract_lets hdr shadow pool be?
  split
  next nat m₁ took =>
  have taken : Keeps k m₀ m₁ := by
    split at took
    · exact (natTake_keeps h).of_pair took
    · cases took
      exact h
  clear_value be?
  split
  · trivial
  · exact bump_keeps h
  · exact bump_keeps h
  · exact taken

theorem commitInsert_keeps {o : SliceOp} {spot : Spot} (h : Keeps k m₀ m) : Keeps k m₀ (commitInsert c m o spot) := by
  unfold commitInsert
  extract_lets q region
  have allocated : (allocFor c m q (newRec c m q)).Leaves (Keeps k m₀) := allocFor_keeps h
  split
  · exact setOp_keeps h
  · next m₁ failed =>
    rw [failed] at allocated
    exact answer_keeps allocated
  · next r comp m₁ given =>
    rw [given] at allocated
    split
    next r send strict e =>
    extract_lets m₂
    have counted : Keeps k m₀ m₂ := Keeps.ite (bump_keeps allocated) allocated
    split
    next r' m₃ told =>
    have emitted : Keeps k m₀ m₃ := by
      split at told
      · exact (emitChange_keeps counted).of_pair told
      · cases told
        exact counted
    extract_lets m₄ f m₅
    have placed : Keeps k m₀ m₄ := by
      unfold m₄
      split
      · exact placeRec_keeps emitted
      · exact stashRec_keeps emitted
    have sent : Keeps k m₀ m₅ := by
      unfold m₅
      split
      · exact placed.rest rfl
      · exact placed
    exact answer_keeps sent

theorem failInsert_keeps {q : FlowReq} (h : Keeps k m₀ m) : Keeps k m₀ (failInsert c m q) := by
  unfold failInsert
  have := @insertFailed_keeps; have := @answer_keeps; grind

theorem insertStash_keeps {o : SliceOp} (h : Keeps k m₀ m) : Keeps k m₀ (insertStash c m o) := by
  unfold insertStash
  have := @failInsert_keeps; have := @commitInsert_keeps; grind

theorem insertSearch_keeps {o : SliceOp} {attempt : Nat} {mv : List Move} {b : Nat} {wide : Bool} (h : Keeps k m₀ m) : Keeps k m₀ (insertSearch c m o
    attempt mv b wide) := by
  unfold insertSearch
  have := @Keeps.update; have := @insertStash_keeps; have := @issueRead_keeps; have := @setOp_keeps; have := @extendPath_keeps; grind

theorem insertOp_keeps {o : SliceOp} (h : Keeps k m₀ m) : Keeps k m₀ (insertOp c m o) := by
  unfold insertOp
  have := @Keeps.update; have := @insertSearch_keeps; have := @issueRead_keeps; have := @readmit_keeps; have := @commitInsert_keeps
  have := @bump_keeps; have := @setOp_keeps; grind

theorem lookedUp_keeps {o : SliceOp} (h : Keeps k m₀ m) : Keeps k m₀ (lookedUp c m o) := by
  unfold lookedUp
  have := @Keeps.update; have := @answer_keeps; have := @setOp_keeps; have := @insertOp_keeps; have := @answerSteer_keeps; have := @serveHit_keeps
  grind

theorem admitOp_keeps {o : SliceOp} (h : Keeps k m₀ m) : Keeps k m₀ (admitOp c m o) := by
  unfold admitOp
  have := @Keeps.update; have := @Keeps.foldl; have := @issueRead_keeps; have := @setOp_keeps; have := @bump_keeps; have := @enterOrder_keeps; grind

theorem startReq_keeps {o : SliceOp} (h : Keeps k m₀ m) : Keeps k m₀ (startReq c m o) := by
  unfold startReq
  have := @Keeps.update; have := @admitOp_keeps; have := @answer_keeps; have := @answerSteer_keeps; grind

theorem admitReq_keeps {q : FlowReq} (h : Keeps k m₀ m) : Keeps k m₀ (admitReq m q) := by
  unfold admitReq
  have := @Keeps.update; grind

theorem pathAgain_keeps {o : SliceOp} {att : Nat} (h : Keeps k m₀ m) : Keeps k m₀ (pathAgain c m o att) := by
  unfold pathAgain
  have := @insertStash_keeps; have := @insertSearch_keeps; have := @bump_keeps; grind

theorem finalPlace_keeps {o : SliceOp} {att : Nat} (h : Keeps k m₀ m) : Keeps k m₀ (finalPlace c m o att) := by
  unfold finalPlace
  have := @Keeps.update; have := @pathAgain_keeps; have := @commitInsert_keeps; have := @lookedUp_keeps; grind

theorem enterMove_keeps {o : SliceOp} {att : Nat} {v : Move} (h : Keeps k m₀ m) : Keeps k m₀ (enterMove c m o att v) := by
  unfold enterMove
  have := @pathAgain_keeps; have := @startMove_keeps; grind

theorem goOp_keeps {o : SliceOp} (h : Keeps k m₀ m) : Keeps k m₀ (goOp c m o) := by
  unfold goOp
  have := @lookedUp_keeps; have := @enterMove_keeps; have := @finalPlace_keeps; have := @startReq_keeps; grind

theorem settleLoop_keeps {x1 : Nat} (h : Keeps k m₀ m) : Keeps k m₀ (settleLoop c x1 m) := by
  have := @goOp_keeps; fun_induction settleLoop c x1 m <;> grind

theorem settleOps_keeps (h : Keeps k m₀ m) : Keeps k m₀ (settleOps c m) := by
  unfold settleOps
  have := @settleLoop_keeps; grind

theorem sliceRequest_keeps {pipe region : Nat} (h : Keeps k m₀ m) : Keeps k m₀ (sliceRequest c m pipe region) := by
  unfold sliceRequest
  have := @Keeps.update; have := @admitReq_keeps; have := @settleOps_keeps; grind

theorem opRead_keeps {o : SliceOp} {b : Nat} (h : Keeps k m₀ m) : Keeps k m₀ (opRead c m o b) := by
  unfold opRead
  have := @Keeps.update; have := @insertSearch_keeps; have := @setOp_keeps; grind

theorem bucketRead_keeps {region b : Nat} (h : Keeps k m₀ m) : Keeps k m₀ (bucketRead c m region b) := by
  unfold bucketRead
  have := @Keeps.foldl; have := @opRead_keeps; have := @settleOps_keeps; have := @endRead_keeps; have := @readBucket_keeps; grind

theorem recordMove_keeps {region : Nat} (h : Keeps k m₀ m) : Keeps k m₀ (recordMove c m region) := by
  unfold recordMove
  have := @finishMove_keeps; have := @settleOps_keeps; grind

theorem retryNat_keeps (h : Keeps k m₀ m) : Keeps k m₀ (retryNat c m) := by
  unfold retryNat
  have := @Keeps.update; have := @settleOps_keeps; grind

theorem stashMove_keeps {region : Nat} {r : Rec} (h : Keeps k m₀ m) : Keeps k m₀ (stashMove c m region r) := by
  unfold stashMove
  extract_lets fh p a m₁
  have read : Keeps k m₀ m₁ := readBucket_keeps (readBucket_keeps h)
  split
  · exact read
  · exact bump_keeps (unstash_keeps (Mach.putHbm_keeps (countPlaced_keeps read)))

theorem stashRetry_keeps {region : Nat} (h : Keeps k m₀ m) : Keeps k m₀ (stashRetry c m region) := by
  unfold stashRetry
  have := @Keeps.update; have := @stashMove_keeps; grind

theorem wbOrphan_keeps {region : Nat} (h : Keeps k m₀ m) : Keeps k m₀ (wbOrphan c m region) := by
  unfold wbOrphan
  have := @bump_keeps; grind

theorem admitWb_keeps {w : WriteBack} (h : Keeps k m₀ m) : Keeps k m₀ (admitWb c m w) := by
  unfold admitWb
  have := @pushJob_keeps; have := @wbOrphan_keeps; grind

theorem wbApply_keeps {region : Nat} (h : Keeps k m₀ m) : Keeps k m₀ (wbApply c m region) := by
  unfold wbApply
  have := @Keeps.update; have := @admitWb_keeps; grind

theorem wbRun_keeps {no : Nat} {w : WriteBack} (h : Keeps k m₀ m) : Keeps k m₀ (wbRun c m no w) := by
  unfold wbRun
  extract_lets region
  split
  next hit m₁ looked =>
  have kept := (lookupKey_keeps h).of_pair looked
  split
  · exact wbOrphan_keeps kept
  · next pl r found =>
    split
    next r₁ m₂ now =>
    split
    next r₂ m₃ told =>
    have put {r : Rec} : Keeps k m₀ (putRec c m₃ region pl r) := putRec_keeps ((emitChange_keeps ((roleNow_keeps kept).of_pair now)).of_pair told)
    extract_lets m₄ m₅ f m₆
    have noted : Keeps k m₀ m₅ := Keeps.ite (exportRec_keeps put) put
    exact bump_keeps (noted.rest rfl)

theorem wbExpire_keeps (h : Keeps k m₀ m) : Keeps k m₀ (wbExpire c m) := by
  unfold wbExpire
  have := @Keeps.update; have := @Keeps.foldl; have := @wbOrphan_keeps; grind

end Sys2Proof.Machine

/-! What the functions of passes over the flow store keep. -/
namespace Sys2Proof.Machine
variable {k : Prop} {c : Cfg} {m₀ m : Mach}

theorem returnBinding_keeps {r : Rec} {natReturnOn : Bool} (h : Keeps k m₀ m) : Keeps k m₀ (returnBinding c m r natReturnOn) := by
  unfold returnBinding
  have := @Keeps.update; have := @natReturn_keeps; have := @releaseBinding_keeps; grind

theorem notifyAge_keeps {pl : Spot} {r : Rec} (h : Keeps k m₀ m) : Keeps k m₀ (notifyAge c m pl r) := by
  unfold notifyAge
  have := @Keeps.update; have := @postEvent_keeps; have := @bump_keeps; grind

theorem deleteWith_keeps {region : Nat} {pl : Spot} {r : Rec} {x1 : DelAct} {reason : Nat} (h : Keeps k m₀ m) : Keeps k m₀ (deleteWith c m region pl r
    x1 reason) := by
  unfold deleteWith
  have := @notifyAge_keeps; have := @emitDelete_keeps; have := @returnBinding_keeps; have := @removeRec_keeps; have := @exportRec_keeps; grind

theorem flowInsert_keeps {spot : Option Spot} {q : Cmd} (h : Keeps k m₀ m) : Keeps k m₀ (flowInsert c m spot q).2.2 := by
  unfold flowInsert
  split
  · exact h
  · extract_lets r fh region
    split
    · exact h
    · split
      next hit m₁ looked =>
      have kept := (lookupKey_keeps h).of_pair looked
      split
      · exact kept
      · extract_lets _ r'
        split
        next r₁ send strict role =>
        split
        · next m₂ failed => exact (placeNew_keeps kept).of_pair failed
        · next m₂ placed =>
          have new := (placeNew_keeps kept).of_pair placed
          extract_lets m₃
          have counted : Keeps k m₀ m₃ := Keeps.ite (bump_keeps new) new
          split
          next r₂ m₄ told =>
          have emitted : Keeps k m₀ m₄ := by
            split at told
            · exact (emitChange_keeps counted).of_pair told
            · cases told
              exact counted
          split
          · exact putRec_keeps emitted
          · exact emitted

theorem flowModify_keeps {q : Cmd} (h : Keeps k m₀ m) : Keeps k m₀ (flowModify c m q).2.2 := by
  unfold flowModify
  have := @Keeps.update; have := @putRec_keeps; have := @emitChange_keeps; have := @lookupKey_keeps; grind

theorem flowDelete_keeps {q : Cmd} (h : Keeps k m₀ m) : Keeps k m₀ (flowDelete c m q).2.2 := by
  unfold flowDelete
  have := @deleteWith_keeps; have := @roleNow_keeps; have := @lookupKey_keeps; grind

theorem flowQuery_keeps {q : Cmd} (h : Keeps k m₀ m) : Keeps k m₀ (flowQuery c m q).2.2 := by
  unfold flowQuery
  have := @putLine_keeps; have := @lookupKey_keeps; grind

theorem undoForward_keeps {fwd : List Byte} {pool addr port : Nat} (h : Keeps k m₀ m) : Keeps k m₀ (undoForward c m fwd pool addr port) := by
  unfold undoForward
  have := @Keeps.update; have := @natReturn_keeps; have := @bump_keeps; have := @removeRec_keeps; have := @emitDelete_keeps
  have := @lookupKey_keeps; grind

theorem compFailed_keeps {fwd comp : List Byte} {pool addr port : Nat} (h : Keeps k m₀ m) : Keeps k m₀ (compFailed c m fwd comp pool addr port) := by
  unfold compFailed
  have := @Keeps.update; have := @pushJob_keeps; grind

theorem compInsert_keeps {spot : Option Spot} {fwd : List Byte} {comp : Rec} {pool addr port : Nat} (h : Keeps k m₀ m) : Keeps k m₀ (compInsert c m
    spot fwd comp pool addr port) := by
  unfold compInsert
  extract_lets fh region
  split
  next hit m₁ looked =>
  have kept := (lookupKey_keeps h).of_pair looked
  split
  · exact compFailed_keeps kept
  · extract_lets r
    split
    next r₁ send strict role =>
    split
    · next m₂ failed => exact compFailed_keeps ((placeNew_keeps kept).of_pair failed)
    · next m₂ placed =>
      have new := (placeNew_keeps kept).of_pair placed
      extract_lets m₃
      have counted : Keeps k m₀ m₃ := Keeps.ite (bump_keeps new) new
      split
      next r₂ m₄ told =>
      have emitted : Keeps k m₀ m₄ := by
        split at told
        · exact (emitChange_keeps counted).of_pair told
        · cases told
          exact counted
      split
      · exact putRec_keeps emitted
      · exact emitted

theorem compDelete_keeps {key : List Byte} {pool addr port : Nat} (h : Keeps k m₀ m) : Keeps k m₀ (compDelete c m key pool addr port) := by
  unfold compDelete
  have := @natReturn_keeps; have := @removeRec_keeps; have := @emitDelete_keeps; have := @lookupKey_keeps; grind

theorem companionGo_keeps {x : CompOp} (h : Keeps k m₀ m) : Keeps k m₀ (companionGo c m x) := by
  unfold companionGo
  have := @Keeps.update; have := @pushJob_keeps; grind

theorem companionInsert_keeps (h : Keeps k m₀ m) : Keeps k m₀ (companionInsert c m) := by
  unfold companionInsert
  have := @companionGo_keeps; grind

theorem companionDelete_keeps (h : Keeps k m₀ m) : Keeps k m₀ (companionDelete c m) := by
  unfold companionDelete
  have := @companionGo_keeps; grind

theorem guardLapse_keeps {region : Nat} (h : Keeps k m₀ m) : Keeps k m₀ (guardLapse c m region) := by
  unfold guardLapse
  have := @Keeps.update; have := @settleOps_keeps; grind

theorem sweepRefused_keeps {region : Nat} (h : Keeps k m₀ m) : Keeps k m₀ (sweepRefused c m region) := by
  unfold sweepRefused
  have := @Keeps.update; have := @Mach.setSweep_keeps; have := @bump_keeps; grind

theorem sweepAsk_keeps {region : Nat} (h : Keeps k m₀ m) : Keeps k m₀ (sweepAsk c m region) := by
  unfold sweepAsk
  have := @sweepRefused_keeps; have := @askLeave_keeps; grind

theorem sweepDue_keeps (h : Keeps k m₀ m) : Keeps k m₀ (sweepDue c m) := by
  unfold sweepDue
  have := @Keeps.update; have := @Keeps.foldl; have := @Mach.setSweep_keeps; have := @bump_keeps; have := @sweepAsk_keeps; grind

theorem sweepWant_keeps {region : Nat} {x1 : SweepKind} (h : Keeps k m₀ m) : Keeps k m₀ (sweepWant c m region x1) := by
  unfold sweepWant
  have := @Keeps.update; have := @Mach.setSweep_keeps; have := @sweepAsk_keeps; grind

theorem sweepBegin_keeps {region : Nat} {x1 : SweepKind} (h : Keeps k m₀ m) : Keeps k m₀ (sweepBegin c m region x1) := by
  unfold sweepBegin
  have := @Keeps.update; have := @Mach.setSweep_keeps; grind

theorem sweepStart_keeps {region : Nat} (h : Keeps k m₀ m) : Keeps k m₀ (sweepStart c m region) := by
  unfold sweepStart
  have := @sweepBegin_keeps; grind

theorem roundVisit_keeps {region p pass : Nat} {pl : Spot} {r : Rec} (h : Keeps k m₀ m) : Keeps k m₀ (roundVisit c m region p pass pl r) := by
  unfold roundVisit
  extract_lets fh bulk
  have sent (n : Nat) : Keeps k m₀ (bulk n) := Keeps.getD (fun _ sent => duoSend_keeps h sent) h
  split
  · refine Keeps.ite h (Keeps.ite (sent _) (Keeps.ite ?_ h))
    exact Keeps.ite (sent _) (putRec_keeps h)
  · exact Keeps.ite (sent _) h
  · exact Keeps.ite (releaseBinding_keeps (removeRec_keeps h)) h

theorem visitRec_keeps {region : Nat} {x : Sweep} {pl : Spot} {r : Rec} (h : Keeps k m₀ m) : Keeps k m₀ (visitRec c m region x pl r) := by
  unfold visitRec
  extract_lets fh
  split
  next r₁ m₁ now =>
  have kept := (roleNow_keeps h).of_pair now
  extract_lets r₂ m₂ r₃ part isLate d m₃ m₄ since body m₅ m₆
  have stored : Keeps k m₀ m₂ := Keeps.ite kept (putRec_keeps kept)
  have marked : Keeps k m₀ m₃ := Keeps.ite (stored.rest rfl) stored
  have updated : Keeps k m₀ m₄ := by
    cases e : part with
    | none => simp only [m₄, e, marked]
    | some p =>
      simp only [m₄, e]
      exact Keeps.ite (Keeps.getD (fun _ sent => duoSend_keeps marked sent) (addRetry_keeps (bump_keeps marked))) marked
  have counted : Keeps k m₀ m₅ := by
    cases e : part with
    | none => simp only [m₅, e, updated]
    | some p =>
      simp only [m₅, e]
      exact Keeps.ite (Keeps.getD (fun _ sent => duoSend_keeps updated sent) (bump_keeps updated)) updated
  have exported : Keeps k m₀ m₆ := Keeps.ite (exportRec_keeps counted) counted
  split
  · exact roundVisit_keeps exported
  · exact exported

theorem countFresh_keeps {region : Nat} {pl : Spot} {r : Rec} (h : Keeps k m₀ m) : Keeps k m₀ (countFresh c m region pl r) := by
  unfold countFresh
  have := @Keeps.update; grind

theorem sweeperVisit_keeps {region : Nat} (h : Keeps k m₀ m) : Keeps k m₀ (sweeperVisit c m region) := by
  unfold sweeperVisit
  have := @Keeps.update; have := @Keeps.foldl; have := @visitRec_keeps; have := @Mach.setSweep_keeps; have := @countFresh_keeps
  have := @readBucket_keeps; grind

theorem ageKeep_keeps {region : Nat} {key : List Byte} {x1 : DelAct} (h : Keeps k m₀ m) : Keeps k m₀ (ageKeep c m region key x1) := by
  unfold ageKeep
  have := @Keeps.update; have := @notifyAge_keeps; have := @emitDelete_keeps; have := @putRec_keeps; have := @exportRec_keeps; grind

theorem ageOut_keeps {region : Nat} (h : Keeps k m₀ m) : Keeps k m₀ (ageOut c m region) := by
  unfold ageOut
  extract_lets x
  split
  · exact h
  · extract_lets fh next
    have nexts (m : Mach) (h : Keeps k m₀ m) : Keeps k m₀ (next m) := Mach.setSweep_keeps h
    split
    · exact h
    · split
      · next m₁ touched => exact nexts _ ((touchKey_keeps h).of_pair touched)
      · next pl r m₁ touched =>
        have kept := (touchKey_keeps h).of_pair touched
        extract_lets act old del visits out a
        refine Keeps.ite h ?_
        split
        · split
          next r₁ m₂ now =>
          exact bump_keeps (deleteWith_keeps ((roleNow_keeps (nexts _ kept)).of_pair now))
        · exact Keeps.ite (ageKeep_keeps (visitRec_keeps (nexts _ kept))) (visitRec_keeps (nexts _ kept))

theorem passEnd_keeps {region : Nat} (h : Keeps k m₀ m) : Keeps k m₀ (passEnd c m region) := by
  unfold passEnd
  have := @Keeps.update; have := @Keeps.foldl; have := @sweepAsk_keeps; have := @Mach.setSweep_keeps; have := @releaseLeave_keeps; grind

theorem resend_keeps {x1 : Resend} (h : Keeps k m₀ m) : Keeps k m₀ (resend c m x1) := by
  unfold resend
  have := @pushJob_keeps; have := @admitWb_keeps; have := @admitReq_keeps; grind

theorem adoptMove_keeps {e : LedgerEnt} (h : Keeps k m₀ m) : Keeps k m₀ (adoptMove m e) := by
  unfold adoptMove
  have := @Keeps.update; have := @clearPlace_keeps; grind

theorem takeover_keeps {slot : Nat} {loses : Bool} (h : Keeps k m₀ m) : Keeps k m₀ (takeover c m slot loses) := by
  unfold takeover
  have := @resend_keeps; have := @dropLeave_keeps; have := @releaseLeave_keeps; have := @sweepBegin_keeps; have := @adoptMove_keeps
  have := @askLeave_keeps; grind [← Keeps.update, ← Keeps.foldl]

theorem takeoverGo_keeps (h : Keeps k m₀ m) : Keeps k m₀ (takeoverGo c m) := by
  unfold takeoverGo
  have := @takeover_keeps; have := @settleOps_keeps; grind

theorem imageLoaded_keeps (h : Keeps k m₀ m) : Keeps k m₀ (imageLoaded c m) := by
  unfold imageLoaded
  have := @Keeps.update; have := @settleOps_keeps; grind

theorem takeoverEnd_keeps (h : Keeps k m₀ m) : Keeps k m₀ (takeoverEnd c m) := by
  unfold takeoverEnd
  have := @Keeps.update; have := @Keeps.foldl; have := @settleOps_keeps; have := @Mach.putHbm_keeps; have := @bump_keeps; have := @raise_keeps
  grind

theorem storeOff_keeps (h : Keeps k m₀ m) : Keeps k m₀ (storeOff m) := by
  unfold storeOff
  have := @Keeps.update; grind

theorem storeOn_keeps (h : Keeps k m₀ m) : Keeps k m₀ (storeOn m) := by
  unfold storeOn
  have := @Keeps.update; grind

theorem storeReady_keeps (h : Keeps k m₀ m) : Keeps k m₀ (storeReady c m) := by
  unfold storeReady
  have := @Keeps.update; grind

theorem ageTick_keeps (h : Keeps k m₀ m) : Keeps k m₀ (ageTick c m) := by
  unfold ageTick
  have := @Keeps.update; grind

end Sys2Proof.Machine

/-! What the functions of partners and their messages keep. -/
namespace Sys2Proof.Machine
variable {k : Prop} {c : Cfg} {m₀ m : Mach}

theorem rxBad_keeps (h : Keeps k m₀ m) : Keeps k m₀ (rxBad c m) := by
  unfold rxBad
  have := @bump_keeps; grind

theorem syncFrameRx_keeps {l : Nat} {f : List Byte} (h : Keeps k m₀ m) : Keeps k m₀ (syncFrameRx c m l f) := by
  unfold syncFrameRx
  have := @Keeps.update; have := @Keeps.foldl; have := @Mach.setLink_keeps; have := @bump_keeps; have := @oweSlots_keeps; have := @rxBad_keeps
  grind

theorem carriedOut_keeps {p : Nat} {g : Msg} {refused : Bool} (h : Keeps k m₀ m) : Keeps k m₀ (carriedOut m p g refused) := by
  unfold carriedOut
  have := @Keeps.update; have := @Mach.setLink_keeps; grind

theorem setEntries_keeps {p state : Nat} {shadowed : Bool → Bool} (h : Keeps k m₀ m) : Keeps k m₀ (setEntries c m p state shadowed) := by
  unfold setEntries
  have := @Keeps.foldl; have := @Mach.setEnt_keeps; grind

theorem dropRound_keeps {p : Nat} (h : Keeps k m₀ m) : Keeps k m₀ (dropRound c m p) := by
  unfold dropRound
  have := @Keeps.update; have := @Keeps.foldl; have := @dropLeave_keeps; have := @releaseLeave_keeps; have := @Mach.setSweep_keeps; grind

theorem enterLink_keeps {p new reason : Nat} (h : Keeps k m₀ m) : Keeps k m₀ (enterLink c m p new reason) := by
  unfold enterLink
  have := @Keeps.update; have := @postEvent_keeps; have := @raise_keeps; have := @setEntries_keeps; have := @dropRound_keeps
  have := @Mach.setLink_keeps; grind

theorem helloSend_keeps {p : Nat} (h : Keeps k m₀ m) : Keeps k m₀ (helloSend c m p) := by
  unfold helloSend
  have := @Keeps.update; have := @Keeps.foldl; have := @Mach.setLink_keeps; grind

theorem leaseOne_keeps {p : Nat} (h : Keeps k m₀ m) : Keeps k m₀ (leaseOne c m p) := by
  unfold leaseOne
  have := @enterLink_keeps; grind

theorem leaseCheck_keeps (h : Keeps k m₀ m) : Keeps k m₀ (leaseCheck c m) := by
  unfold leaseCheck
  have := @Keeps.foldl; have := @leaseOne_keeps; grind

theorem sendOr_keeps {p : Nat} {g : Msg} (h : Keeps k m₀ m) : Keeps k m₀ (sendOr m p g) :=
  Keeps.getD (fun _ sent => duoSend_keeps h sent) (Mach.setLink_keeps h)

theorem sendLater_keeps {p : Nat} (h : Keeps k m₀ m) : Keeps k m₀ (sendLater m p) := by
  unfold sendLater
  have := @Keeps.update; have := @Keeps.foldl; have := @Mach.setLink_keeps; have := @sendOr_keeps; grind

theorem sendItems_keeps {p : Nat} {loss : Bool} {items : List (Nat × DigestItem)} (h : Keeps k m₀ m) : Keeps k m₀ (sendItems m p loss items) := by
  unfold sendItems
  have := @Keeps.foldl; have := @sendOr_keeps; grind

theorem excludeEntry_keeps {e : Nat} {x1 b : DigestItem} (h : Keeps k m₀ m) : Keeps k m₀ (excludeEntry c m e x1 b) := by
  unfold excludeEntry
  have := @raise_keeps; have := @postEvent_keeps; have := @Mach.setEnt_keeps; grind

theorem setRound_keeps {p : Nat} {r : Round} (h : Keeps k m₀ m) : Keeps k m₀ (setRound m p r) := by
  unfold setRound
  have := @Keeps.update; have := @Mach.setLink_keeps; grind

theorem startPass_keeps {p pass : Nat} {r : Round} (h : Keeps k m₀ m) : Keeps k m₀ (startPass c m p pass r) := by
  unfold startPass
  have := @Keeps.update; have := @Keeps.foldl; have := @setRound_keeps; have := @sweepWant_keeps; grind

theorem sendDone_keeps {p x1 : Nat} {r : Round} (h : Keeps k m₀ m) : Keeps k m₀ (sendDone m p x1 r) := by
  unfold sendDone
  have := @Keeps.update; have := @sendOr_keeps; have := @setRound_keeps; grind

theorem advanceRound_keeps {p : Nat} (h : Keeps k m₀ m) : Keeps k m₀ (advanceRound c m p) := by
  unfold advanceRound
  have := @Keeps.update; have := @Keeps.foldl; have := @Mach.setLink_keeps; have := @enterLink_keeps; have := @Mach.setEnt_keeps
  have := @sendDone_keeps; have := @startPass_keeps; grind

theorem exchange_keeps {p : Nat} (h : Keeps k m₀ m) : Keeps k m₀ (exchange c m p) := by
  unfold exchange
  have := @Keeps.update; have := @Keeps.foldl; have := @startPass_keeps; have := @enterLink_keeps; have := @setRound_keeps
  have := @Mach.setLink_keeps; have := @Mach.setEnt_keeps; have := @excludeEntry_keeps; grind

theorem beginRound_keeps {p : Nat} (h : Keeps k m₀ m) : Keeps k m₀ (beginRound c m p) := by
  unfold beginRound
  have := @Keeps.update; have := @exchange_keeps; have := @sendItems_keeps; have := @sendOr_keeps; have := @Mach.setLink_keeps; grind

theorem roundPassEnded_keeps {p pass region : Nat} (h : Keeps k m₀ m) : Keeps k m₀ (roundPassEnded c m p pass region) := by
  unfold roundPassEnded
  have := @Keeps.update; have := @advanceRound_keeps; have := @sendDone_keeps; have := @setRound_keeps; grind

theorem sweepPassEnd_keeps {region : Nat} (h : Keeps k m₀ m) : Keeps k m₀ (sweepPassEnd c m region) := by
  unfold sweepPassEnd
  have := @roundPassEnded_keeps; have := @passEnd_keeps; grind

theorem roundsFrom_keeps {p : Nat → Bool} (h : Keeps k m₀ m) : Keeps k m₀ (roundsFrom c m p) := by
  unfold roundsFrom
  have := @Keeps.foldl; have := @beginRound_keeps; grind

theorem roundsForLoss_keeps (h : Keeps k m₀ m) : Keeps k m₀ (roundsForLoss c m) := by
  unfold roundsForLoss
  have := @Keeps.update; have := @Keeps.foldl; have := @roundsFrom_keeps; have := @Mach.setLink_keeps; grind

theorem digestPeriod_keeps {p : Nat} (h : Keeps k m₀ m) : Keeps k m₀ (digestPeriod c m p) := by
  unfold digestPeriod
  have := @roundsFrom_keeps; grind

theorem reconcileMsgIn_keeps {p : Nat} {g : Msg} (h : Keeps k m₀ m) : Keeps k m₀ (reconcileMsgIn c m p g) := by
  unfold reconcileMsgIn
  have := @Keeps.update; have := @Keeps.foldl; have := @exchange_keeps; have := @advanceRound_keeps; have := @excludeEntry_keeps
  have := @sendItems_keeps; have := @setRound_keeps; have := @beginRound_keeps; grind

theorem negotiate_keeps {p : Nat} {x1 : Hello} (h : Keeps k m₀ m) : Keeps k m₀ (negotiate c m p x1) := by
  unfold negotiate
  have := @Keeps.update; have := @beginRound_keeps; have := @Mach.setLink_keeps; have := @enterLink_keeps; grind

theorem helloRx_keeps {p : Nat} {x1 : Hello} (h : Keeps k m₀ m) : Keeps k m₀ (helloRx c m p x1) := by
  unfold helloRx
  have := @Keeps.update; have := @enterLink_keeps; have := @negotiate_keeps; have := @Mach.setLink_keeps; grind

theorem insertFor_keeps {region : Nat} {spot : Option Spot} {r : Rec} (h : Keeps k m₀ m) : Keeps k m₀ (insertFor c m region spot r).2 := by
  unfold insertFor
  have := @bump_keeps; have := @natClaim_keeps; have := @placeNew_keeps; grind

theorem recUpdate_keeps {spot : Option Spot} {p : Nat} {g : Msg} (h : Keeps k m₀ m) : Keeps k m₀ (recUpdate c m spot p g).2 := by
  unfold recUpdate
  have := @Keeps.update; have := @insertFor_keeps; have := @putRec_keeps; have := @natClaim_keeps; have := @lookupKey_keeps; grind

theorem recDelete_keeps {g : Msg} (h : Keeps k m₀ m) : Keeps k m₀ (recDelete c m g).2 := by
  unfold recDelete
  have := @removeRec_keeps; have := @natRelease_keeps; have := @lookupKey_keeps; grind

theorem ctrDelta_keeps {g : Msg} (h : Keeps k m₀ m) : Keeps k m₀ (ctrDelta c m g).2 := by
  unfold ctrDelta
  have := @Keeps.update; have := @putRec_keeps; have := @lookupKey_keeps; grind

theorem bulkHome_keeps {spot : Option Spot} {p kind : Nat} {g : Msg} (h : Keeps k m₀ m) : Keeps k m₀ (bulkHome c m spot p kind g).2 := by
  unfold bulkHome
  have := @Keeps.update; have := @bump_keeps; have := @postEvent_keeps; have := @putRec_keeps; have := @insertFor_keeps; have := @lookupKey_keeps
  grind

theorem recordMsg_keeps {p type : Nat} (h : Keeps k m₀ m) : Keeps k m₀ (recordMsg c m p type) := by
  unfold recordMsg
  have := @pushJob_keeps; grind

theorem recordMsgRun_keeps {spot : Option Spot} {p : Nat} {g : Msg} (h : Keeps k m₀ m) : Keeps k m₀ (recordMsgRun c m spot p g) := by
  unfold recordMsgRun
  have := @carriedOut_keeps; have := @bulkHome_keeps; have := @ctrDelta_keeps; have := @recDelete_keeps; have := @recUpdate_keeps; grind

theorem reconcileRx_keeps {p : Nat} (h : Keeps k m₀ m) : Keeps k m₀ (reconcileRx c m p) := by
  unfold reconcileRx
  have := @reconcileMsgIn_keeps; have := @carriedOut_keeps; grind

theorem steerMsgRx_keeps {p : Nat} (h : Keeps k m₀ m) : Keeps k m₀ (steerMsgRx c m p) := by
  unfold steerMsgRx
  split
  · exact h
  · extract_lets e x home mirror men y m₁
    exact carriedOut_keeps (Keeps.ite (steer_put_keeps h) (rxBad_keeps h))

theorem helloMsgRx_keeps {p : Nat} (h : Keeps k m₀ m) : Keeps k m₀ (helloMsgRx c m p) := by
  unfold helloMsgRx
  have := @carriedOut_keeps; have := @helloRx_keeps; grind

theorem sendUnpark_keeps {fh : Nat} (h : Keeps k m₀ m) : Keeps k m₀ (sendUnpark m fh) := by
  unfold sendUnpark
  have := @Keeps.update; grind

theorem withRecord_keeps {key : List Byte} {f : Mach → Nat → Spot → Rec → Mach} (h : Keeps k m₀ m) (hf : ∀ m region pl r, Keeps k m₀ m → Keeps k m₀ (f
    m region pl r)) : Keeps k m₀ (withRecord c m key f) := by
  unfold withRecord
  extract_lets fh
  split
  next hit m' found =>
    have looked : Keeps k m₀ m' := by
      have := lookupKey_keeps (fh := fh) (key := key) (c := c) h
      rwa [found] at this
    split
    · exact hf _ _ _ _ looked
    · exact looked

theorem markRun_keeps {key : List Byte} (h : Keeps k m₀ m) : Keeps k m₀ (markRun c m key) := by
  unfold markRun
  have := @putRec_keeps; have := @markUnmirrored_keeps; have := @withRecord_keeps; grind

theorem markKey_keeps {key : List Byte} (h : Keeps k m₀ m) : Keeps k m₀ (markKey c m key) := by
  unfold markKey
  have := @pushJob_keeps; grind

theorem ackEffect_keeps {g : Msg} {refused : Bool} (h : Keeps k m₀ m) : Keeps k m₀ (ackEffect c m g refused) := by
  unfold ackEffect
  have := @Keeps.update; have := @removeRec_keeps; have := @releaseBinding_keeps; have := @putRec_keeps; have := @withRecord_keeps
  have := @markRun_keeps; grind

theorem ackJob_keeps {g : Msg} {refused : Bool} (h : Keeps k m₀ m) : Keeps k m₀ (ackJob c m g refused) := by
  unfold ackJob
  have := @pushJob_keeps; grind

theorem strictCovered_keeps {e : Copy} (h : Keeps k m₀ m) : Keeps k m₀ (strictCovered m e) := by
  unfold strictCovered
  have := @sendUnpark_keeps; grind

theorem ackRx_keeps {p : Nat} (h : Keeps k m₀ m) : Keeps k m₀ (ackRx c m p) := by
  unfold ackRx
  split
  · exact h
  · extract_lets m₁ cum map ref x live upTo inMap isRef gone newly cover m₂ m₃
    have freed : Keeps k m₀ m₂ := Mach.setLink_keeps (carriedOut_keeps h)
    have covered : Keeps k m₀ m₃ := Keeps.foldl (fun m e h => strictCovered_keeps h) freed
    exact Keeps.foldl (fun m e h => ackJob_keeps h) (sendLater_keeps covered)

theorem ackSend_keeps {p : Nat} (h : Keeps k m₀ m) : Keeps k m₀ (ackSend c m p) := by
  unfold ackSend
  have := @Keeps.update; have := @Keeps.foldl; have := @Mach.setLink_keeps; grind

theorem retxTimeout_keeps {p : Nat} (h : Keeps k m₀ m) : Keeps k m₀ (retxTimeout c m p) := by
  unfold retxTimeout
  have := @Keeps.update; have := @Mach.setLink_keeps; have := @bump_keeps; grind

theorem strictExpiry_keeps {p : Nat} (h : Keeps k m₀ m) : Keeps k m₀ (strictExpiry c m p) := by
  unfold strictExpiry
  have := @Keeps.update; have := @Keeps.foldl; have := @strictCovered_keeps; have := @bump_keeps; have := @markKey_keeps
  have := @Mach.setLink_keeps; grind

theorem mirrorRetry_keeps {region : Nat} (h : Keeps k m₀ m) : Keeps k m₀ (mirrorRetry c m region) := by
  unfold mirrorRetry
  split
  · exact h
  · refine withRecord_keeps (h.rest rfl) fun m region pl r h => ?_
    split
    · exact Keeps.ite (Keeps.getD (fun _ sent => duoSend_keeps h sent) (addRetry_keeps (bump_keeps h))) h
    · exact h

theorem syncFrameTx_keeps {p path : Nat} (h : Keeps k m₀ m) : Keeps k m₀ (syncFrameTx c m p path) := by
  unfold syncFrameTx
  extract_lets x ms
  split
  · exact h
  · split
    · exact h
    · next p m₁ stored =>
      dsimp only
      split
      · exact h
      · next m₂ queued =>
        exact bump_keeps (Mach.setLink_keeps (chargeIng_keeps (handOver_keeps (oweSlots_keeps (enqueue_keeps (storeIngress_keeps h stored) queued)))))

theorem parkAdd_keeps {die : Nat} {e : Parked} (h : Keeps k m₀ m) : Keeps k m₀ (parkAdd m die e) := by
  unfold parkAdd
  have := @Keeps.update; grind

theorem parkOut_keeps {die fh : Nat} (h : Keeps k m₀ m) : Keeps k m₀ (parkOut c m die fh) := by
  unfold parkOut
  have := @Keeps.update; have := @Keeps.foldl; have := @handToQueues_keeps; grind

theorem parkRelease_keeps (h : Keeps k m₀ m) : Keeps k m₀ (parkRelease c m) := by
  unfold parkRelease
  have := @Keeps.update; have := @parkOut_keeps; grind

theorem promoteEntry_keeps {mirror : Option (Nat × Option Nat)} {e : Nat} (h : Keeps k m₀ m) : Keeps k m₀ (promoteEntry c m mirror e) := by
  unfold promoteEntry
  have taken {x : Nat} : Keeps k m₀ ({ m with duo := { m.duo with steer := Tbl.put 0 m.duo.steer e x } }.setEnt e 0 false) := Mach.setEnt_keeps (steer_put_keeps h)
  exact Keeps.foldl (fun m p h => Keeps.ite (sendOr_keeps h) h) taken

theorem sealLinks_keeps (h : Keeps k m₀ m) : Keeps k m₀ (sealLinks c m) := by
  unfold sealLinks
  have := @Keeps.foldl; have := @enterLink_keeps; grind

end Sys2Proof.Machine

/-! What the functions of MACsec, the pipelines and the egress keep. -/
namespace Sys2Proof.Machine
variable {k : Prop} {c : Cfg} {m₀ m : Mach}

theorem setReady_keeps {die e : Nat} {v : Bool} (h : Keeps k m₀ m) : Keeps k m₀ (setReady m die e v) := by
  unfold setReady
  have := @Keeps.update; grind

theorem saInstalled_keeps {die e : Nat} (h : Keeps k m₀ m) : Keeps k m₀ (saInstalled m die e) := by
  unfold saInstalled
  have := @Keeps.update; grind

theorem saFail_keeps {die e : Nat} (h : Keeps k m₀ m) : Keeps k m₀ (saFail m die e) := by
  unfold saFail
  have := @Keeps.update; have := @setReady_keeps; grind

theorem setPn_keeps {die e cipher pn : Nat} (h : Keeps k m₀ m) : Keeps k m₀ (setPn m die e cipher pn) := by
  unfold setPn
  have := @Mach.setSt_keeps; grind

theorem mscStat_keeps {die obj idx n x : Nat} (h : Keeps k m₀ m) : Keeps k m₀ (mscStat m die obj idx n x) := by
  unfold mscStat
  have := @Keeps.update; grind

theorem scStat_keeps {die obj sc e n : Nat} (h : Keeps k m₀ m) : Keeps k m₀ (scStat m die obj sc e n) := by
  unfold scStat
  have := @mscStat_keeps; grind

theorem pnNear_keeps {die e cipher next : Nat} (h : Keeps k m₀ m) : Keeps k m₀ (pnNear c m die e cipher next) := by
  unfold pnNear
  have := @Mach.setSt_keeps; have := @raise_keeps; grind

theorem mscTx_keeps {l : Nat} {f : List Byte} (h : Keeps k m₀ m) : Keeps k m₀ (mscTx c m l f).2 := by
  unfold mscTx
  have := @scStat_keeps; have := @setPn_keeps; have := @pnNear_keeps; have := @bump_keeps; have := @mscStat_keeps; grind

theorem mscRx_keeps {l : Nat} {f : List Byte} (h : Keeps k m₀ m) : Keeps k m₀ (mscRx c m l f).2 := by
  unfold mscRx
  split
  · exact h
  · extract_lets die n strict tci sc enc conf an hdr sl cipher low badTag f body bare sci replay off aad m₁
    have counted : Keeps k m₀ m₁ := mscStat_keeps h
    split
    · have := @mscStat_keeps; grind
    · split
      · exact mscStat_keeps h
      · split
        · have := @mscStat_keeps; grind
        · extract_lets e next pn floor open' seen m₂
          have seens (m : Mach) (h : Keeps k m₀ m) : Keeps k m₀ (seen m) := Keeps.ite (setPn_keeps h) h
          have told : Keeps k m₀ m₂ := scStat_keeps counted
          split
          · have := @mscStat_keeps; grind
          · have stats {s n : Nat} : Keeps k m₀ (scStat m die 2 s e n) := scStat_keeps h
            clear_value open'
            split
            · exact stats
            · split
              · cases open' with
                | some p => exact seens _ stats
                | none =>
                  dsimp only
                  split
                  · exact stats
                  · exact seens _ stats
              · cases open' with
                | some p => exact seens _ told
                | none =>
                  dsimp only
                  split
                  · exact stats
                  · exact seens _ stats

theorem saReady_keeps {die e : Nat} (h : Keeps k m₀ m) : Keeps k m₀ (saReady c m die e) := by
  unfold saReady
  have := @setReady_keeps; grind

theorem bulkGo_keeps {die : Nat} (h : Keeps k m₀ m) : Keeps k m₀ (bulkGo c m die) := by
  unfold bulkGo
  have := @askLeave_keeps; grind

theorem bulkDone_keeps {die : Nat} (h : Keeps k m₀ m) : Keeps k m₀ (bulkDone c m die) := by
  unfold bulkDone
  have := @Keeps.update; have := @Keeps.foldl; have := @releaseLeave_keeps; have := @Mach.setSt_keeps; have := @setReady_keeps; grind

theorem storeArrival_keeps {l : Nat} {b : List Byte} {uncontrolled : Bool} {steered : Option Nat} {ct : Option (Bool × Bool)} {wire : Nat} (h : Keeps
    k m₀ m) : Keeps k m₀ (storeArrival c m l b uncontrolled steered ct wire) := by
  unfold storeArrival
  have := @Keeps.update; have := @makeReady_keeps; have := @ingressFail_keeps; have := @noCell_keeps; have := @storeIngress_keeps; grind

theorem steeredFrameRx_keeps {l : Nat} {b : List Byte} {uncontrolled : Bool} {ct : Option (Bool × Bool)} {wire : Nat} (h : Keeps k m₀ m) : Keeps k m₀
    (steeredFrameRx c m l b uncontrolled ct wire) := by
  unfold steeredFrameRx
  have := @bump_keeps; have := @storeArrival_keeps; have := @rxBad_keeps; grind

theorem frameTake_keeps {l : Nat} {b : List Byte} {uncontrolled : Bool} {ct : Option (Bool × Bool)} {wire : Nat} (h : Keeps k m₀ m) : Keeps k m₀
    (frameTake c m l b uncontrolled ct wire) := by
  unfold frameTake
  have := @storeArrival_keeps; have := @steeredFrameRx_keeps; have := @syncFrameRx_keeps; grind

theorem badArrival_keeps {l : Nat} {b : List Byte} (h : Keeps k m₀ m) : Keeps k m₀ (badArrival c m l b) := by
  unfold badArrival
  have := @freeFrame_keeps; have := @chargeIng_keeps; have := @countReason_keeps; have := @ingressFail_keeps; have := @noCell_keeps
  have := @storeIngress_keeps; grind

theorem verifiedTake_keeps {l : Nat} {b : List Byte} {uncontrolled bad : Bool} {wire : Nat} (h : Keeps k m₀ m) : Keeps k m₀ (verifiedTake c m l b
    uncontrolled bad wire) := by
  unfold verifiedTake
  have := @frameTake_keeps; have := @badArrival_keeps; have := @countReason_keeps; have := @bump_keeps; grind

theorem frameArrival_keeps {l : Nat} {f : List Byte} {err more : Bool} (h : Keeps k m₀ m) : Keeps k m₀ (frameArrival c m l f err more) := by
  unfold frameArrival
  have := @verifiedTake_keeps; have := @mscRx_keeps; have := @frameTake_keeps; grind

theorem parkOrQueue_keeps {x1 : Pkt} {fd : FrameD} {targets : List (Nat × EditRes)} {strict : Bool} (h : Keeps k m₀ m) : Keeps k m₀ (parkOrQueue c m
    x1 fd targets strict) := by
  unfold parkOrQueue
  have := @Keeps.update; have := @Keeps.foldl; have := @markKey_keeps; have := @tsDropped_keeps; have := @dropPkt_keeps; have := @bump_keeps
  have := @parkAdd_keeps; have := @handToQueues_keeps; grind

theorem toEnqueue_keeps {x1 : Pkt} {fd : FrameD} {targets : List (Nat × EditRes)} {strict : Bool} (h : Keeps k m₀ m) : Keeps k m₀ (toEnqueue c m x1 fd
    targets strict) := by
  unfold toEnqueue
  have := @Keeps.update; have := @ctLeave_keeps; have := @fcsDrop_keeps; have := @ctWait_keeps; have := @handToQueues_keeps; have := @bump_keeps
  have := @parkOrQueue_keeps; grind

theorem enterRecirc_keeps {x1 : Pkt} (h : Keeps k m₀ m) : Keeps k m₀ (enterRecirc c m x1) := by
  unfold enterRecirc
  have := @Keeps.update; have := @traceEnd_keeps; have := @handOver_keeps; have := @ctLeave_keeps; have := @fcsDrop_keeps; have := @ctWait_keeps
  have := @endWith_keeps; grind

theorem rewriteFrame_keeps {x1 : Pkt} {b : List Byte} (h : Keeps k m₀ m) : Keeps k m₀ (rewriteFrame c m x1 b).2 := by
  unfold rewriteFrame
  extract_lets die n m₁
  have freed : Keeps k m₀ m₁ := chargeIng_keeps (freeFrame_keeps h)
  split
  · dsimp only
    have counted : Keeps k m₀ (noCell c (ingressFail c m₁ x1.pipe x1.owner (b ++ fcsOf b)) x1.pipe) := noCell_keeps (ingressFail_keeps freed)
    split
    · exact Keeps.rest (traceEnd_keeps counted) rfl
    · exact traceEnd_keeps counted
  · next p m₂ stored =>
    dsimp only
    split
    · exact Keeps.rest (storeIngress_keeps freed stored) rfl
    · exact storeIngress_keeps freed stored

theorem ctTail_keeps {key : Nat} {x : CtFrame} (h : Keeps k m₀ m) : Keeps k m₀ (ctTail c m key x).2 := by
  unfold ctTail
  have := @Keeps.update; have := @allocFail_keeps; have := @chargeIng_keeps; have := @appendCells_keeps; grind

theorem tailArrival_keeps {l : Nat} {err : Bool} (h : Keeps k m₀ m) : Keeps k m₀ (tailArrival c m l err) := by
  unfold tailArrival
  split
  · exact h
  · split
    next x m₁ told =>
    have kept := (ctTail_keeps h).of_pair told
    dsimp only
    split
    · exact kept.rest rfl
    · exact kept.rest rfl
    · have waits {t : Tbl CtFrame} : Keeps k m₀ { m₁ with ppl := { m₁.ppl with ct := t } } := kept.rest rfl
      split
      · exact fcsDrop_keeps waits
      · split
        · exact puntPkt_keeps (ctLeave_keeps waits)
        · exact Keeps.ite (enterRecirc_keeps waits) (toEnqueue_keeps waits)
    · exact Keeps.rest (m := ite _ _ _) (Keeps.ite (countReason_keeps kept) kept) rfl

theorem finishForward_keeps {e : ActIn} {w : Work} {res : EditRes} {fwd : FwdTo} {strict : Bool} (h : Keeps k m₀ m) : Keeps k m₀ (finishForward c m e
    w res fwd strict) := by
  unfold finishForward
  have := @Keeps.update; have := @Keeps.foldl; have := @toEnqueue_keeps; have := @bump_keeps; have := @tsDropped_keeps; have := @meter_keeps
  have := @endWith_keeps; have := @copyAlone_keeps; have := @Mach.met_keeps; grind

theorem lostPkt_keeps {x1 : Pkt} (h : Keeps k m₀ m) : Keeps k m₀ (lostPkt c m x1) := by
  unfold lostPkt
  have := @chargeIng_keeps; have := @traceEnd_keeps; grind

theorem actionStage_keeps {x1 : Pkt} {snap : Option Rec} {outcome stamp : Nat} {strict : Bool} (h : Keeps k m₀ m) : Keeps k m₀ (actionStage c m x1
    snap outcome stamp strict) := by
  unfold actionStage
  split
  · next m₁ lost => exact lostPkt_keeps ((readPkt_keeps h).of_pair lost)
  · next f m₁ read =>
    have kept := (readPkt_keeps h).of_pair read
    extract_lets e₀ x e prog before
    split
    next o m₂ ran =>
    have run := (runProgram_keeps kept).of_pair ran
    extract_lets src m₃ t x' w cut m₄ alone src' fd b m₅
    have written : Keeps k m₀ m₃ := by
      unfold m₃
      split
      · exact oweSlots_keeps (run.rest rfl)
      · exact run
    have copied : Keeps k m₀ m₄ := Keeps.foldl (fun m x h => copyAlone_keeps h) written
    have alones (m : Mach) (h : Keeps k m₀ m) : Keeps k m₀ (alone m) := Keeps.foldl (fun m x h => copyAlone_keeps h) h
    split
    · exact dropPkt_keeps (alones _ copied)
    · exact endWith_keeps (alones _ copied)
    · split
      · exact dropPkt_keeps (bump_keeps (alones _ copied))
      · split
        · next p m₆ edited => exact enterRecirc_keeps ((rewriteFrame_keeps (alones _ copied)).of_pair edited)
        · next m₆ edited => exact (rewriteFrame_keeps (alones _ copied)).of_pair edited
    · split
      · exact dropPkt_keeps (bump_keeps (alones _ copied))
      · split
        next fwd m₆ went =>
        have sent := (forward_keeps copied).of_pair went
        dsimp only
        split
        · exact dropPkt_keeps (alones _ sent)
        · exact endWith_keeps (alones _ sent)
        · exact finishForward_keeps sent

theorem steerStage_keeps {x1 : Pkt} {entry : Nat} {loop : Bool} (h : Keeps k m₀ m) : Keeps k m₀ (steerStage c m x1 entry loop) := by
  unfold steerStage
  have := @Keeps.update; have := @toEnqueue_keeps; have := @traceEnd_keeps; have := @bump_keeps; have := @dropPkt_keeps; have := @endWith_keeps
  grind

theorem unresolved_keeps {x1 : Pkt} {code : Nat} (h : Keeps k m₀ m) : Keeps k m₀ (unresolved c m x1 code) := by
  unfold unresolved
  have := @actionStage_keeps; have := @Mach.inc32_keeps; have := @dropPkt_keeps; have := @countReason_keeps; grind

theorem flowRequest_keeps {x1 : Pkt} (h : Keeps k m₀ m) : Keeps k m₀ (flowRequest c m x1) := by
  unfold flowRequest
  have := @Keeps.update; have := @unresolved_keeps; have := @reasonDrop_keeps; have := @Mach.setSt_keeps; grind

theorem flowResponse_keeps {pipe idx : Nat} (h : Keeps k m₀ m) : Keeps k m₀ (flowResponse c m pipe idx) := by
  unfold flowResponse
  have := @Keeps.update; have := @actionStage_keeps; have := @endWith_keeps; have := @steerStage_keeps; grind

theorem holdTimeout_keeps {pipe idx : Nat} (h : Keeps k m₀ m) : Keeps k m₀ (holdTimeout c m pipe idx) := by
  unfold holdTimeout
  have := @Keeps.update; have := @unresolved_keeps; grind

theorem steerLost_keeps {x1 : Pkt} (h : Keeps k m₀ m) : Keeps k m₀ (steerLost c m x1).2 := by
  unfold steerLost
  have := @bump_keeps; have := @raiseReason_keeps; grind

theorem endEarly_keeps {x1 : Pkt} {code : Nat} {d : Disp} (h : Keeps k m₀ m) : Keeps k m₀ (endEarly c m x1 code d) := by
  unfold endEarly
  have := @endWith_keeps; have := @steerLost_keeps; grind

theorem badDrop_keeps {x1 : Pkt} {e : Nat × Nat} (h : Keeps k m₀ m) : Keeps k m₀ (badDrop c m x1 e) := by
  unfold badDrop
  have := @raise_keeps; have := @dropPkt_keeps; have := @Mach.met_keeps; have := @steerLost_keeps; grind

theorem keyStage_keeps {x1 : Pkt} {f : List Byte} (h : Keeps k m₀ m) : Keeps k m₀ (keyStage c m x1 f) := by
  unfold keyStage
  have := @Keeps.update; have := @flowRequest_keeps; have := @actionStage_keeps; have := @endEarly_keeps; have := @bump_keeps
  have := @endWith_keeps; grind

theorem admitHeader_keeps {x1 : Pkt} (h : Keeps k m₀ m) : Keeps k m₀ (admitHeader c m x1) := by
  unfold admitHeader
  extract_lets pipe p x2 x3
  split
  next t m₁ begun =>
  have kept := (traceBegin_keeps h).of_pair begun
  extract_lets x4
  split
  · next m₂ lost => exact lostPkt_keeps ((readPkt_keeps kept).of_pair lost)
  · next f m₂ read =>
    have got := (readPkt_keeps kept).of_pair read
    split
    · exact endEarly_keeps got
    · dsimp only
      split
      · exact badDrop_keeps got
      · have counted {p : Nat} {l : List Nat} : Keeps k m₀ (l.foldl (fun m r => countReason c m p r) m₂) := Keeps.foldl (fun m r h => countReason_keeps h) got
        split
        · exact endEarly_keeps counted
        · split
          · exact badDrop_keeps counted
          · exact Keeps.ite (endEarly_keeps counted) (keyStage_keeps counted)

theorem arbiterAge_keeps {pipe : Nat} {p : Option Nat} (h : Keeps k m₀ m) : Keeps k m₀ (arbiterAge m pipe p) := by
  unfold arbiterAge
  have := @Keeps.update; grind

theorem recircAdmit_keeps {pipe : Nat} (h : Keeps k m₀ m) : Keeps k m₀ (recircAdmit c m pipe) := by
  unfold recircAdmit
  have := @Keeps.update; have := @admitHeader_keeps; grind

theorem arbiterCycle_keeps {pipe : Nat} (h : Keeps k m₀ m) : Keeps k m₀ (arbiterCycle c m pipe) := by
  unfold arbiterCycle
  have := @Keeps.update; have := @admitHeader_keeps; have := @recircAdmit_keeps; have := @arbiterAge_keeps; grind

theorem recircReenter_keeps {pipe : Nat} (h : Keeps k m₀ m) : Keeps k m₀ (recircReenter c m pipe) := by
  unfold recircReenter
  have := @arbiterCycle_keeps; grind

theorem takeHead_keeps {q : Nat} (h : Keeps k m₀ m) : Keeps k m₀ (takeHead m q) := by
  unfold takeHead
  have := @Keeps.update; have := @Mach.setQueue_keeps; grind

theorem ageDrop_keeps {q : Nat} {fd : FrameD} (h : Keeps k m₀ m) : Keeps k m₀ (ageDrop c m q fd) := by
  unfold ageDrop
  have := @Keeps.update; have := @dropQueued_keeps; have := @bump_keeps; have := @Mach.setQueue_keeps; have := @takeHead_keeps
  have := @tsDropped_keeps; have := @traceEnd_keeps; grind

theorem idleDrop_keeps {q : Nat} {fd : FrameD} (h : Keeps k m₀ m) : Keeps k m₀ (idleDrop c m q fd) := by
  unfold idleDrop
  have := @takeHead_keeps; have := @countLost_keeps; have := @dropQueued_keeps; grind

theorem finishFrame_keeps {l : Nat} {fd : FrameD} {f : List Byte} {ts : Nat} (h : Keeps k m₀ m) : Keeps k m₀ (finishFrame c m l fd f ts).2 := by
  unfold finishFrame
  have := @mscTx_keeps; have := @bump_keeps; grind

theorem transmit_keeps {l q : Nat} {fd : FrameD} (h : Keeps k m₀ m) : Keeps k m₀ (transmit c m l q fd) := by
  unfold transmit
  extract_lets m₁ x m₂ f ts t
  have charged : Keeps k m₀ m₂ := Mach.setQueue_keeps (chargePath_keeps (takeHead_keeps h))
  split
  · next f' m₃ done => exact Keeps.rest ((finishFrame_keeps charged).of_pair done) rfl
  · next m₃ failed => exact dropFrame_keeps (traceEnd_keeps (tsDropped_keeps ((finishFrame_keeps charged).of_pair failed)))

theorem dequeueSelect_keeps {l : Nat} (h : Keeps k m₀ m) : Keeps k m₀ (dequeueSelect c m l) := by
  unfold dequeueSelect
  split
  · exact h
  · split
    next q? m₁ chosen =>
    have selected := (selectQueue_keeps h).of_pair chosen
    split
    · exact selected
    · split
      · exact selected
      · refine Keeps.ite (restDeficits_keeps (ageDrop_keeps selected)) (Keeps.ite h ?_)
        split
        · exact restDeficits_keeps (skipFrame_keeps (takeHead_keeps selected))
        · exact restDeficits_keeps (Keeps.ite (idleDrop_keeps selected) (transmit_keeps selected))

theorem txDone_keeps {l : Nat} (h : Keeps k m₀ m) : Keeps k m₀ (txDone c m l) := by
  unfold txDone
  split
  · exact h
  · split
    · exact h
    · have left {t : Tbl TxFrame} : Keeps k m₀ { m with tmg := { m.tmg with tx := t } } := h.rest rfl
      dsimp only
      have sent {p : Prop} [Decidable p] {q : Nat} {x : Queue} {o : Output} {m : Mach} (h : Keeps k m₀ m) :
          Keeps k m₀ (if p then (m.setQueue q x).emit o else m.setQueue q x) := Keeps.ite (Mach.emit_keeps (Mach.setQueue_keeps h)) (Mach.setQueue_keeps h)
      have ended {p : Prop} [Decidable p] {n i : Nat} {t : List Byte} {m : Mach} (h : Keeps k m₀ m) :
          Keeps k m₀ (traceEnd c (if p then bump c m .tmgCnt n i else m) t 0 0) := traceEnd_keeps (Keeps.ite (bump_keeps h) h)
      exact dropFrame_keeps (Keeps.ite (postEvent_keeps (ended (sent left))) (ended (sent left)))

end Sys2Proof.Machine

/-! What the functions of the trust unit and the commands of rings keep. -/
namespace Sys2Proof.Machine
variable {k : Prop} {c : Cfg} {m₀ m : Mach}

theorem setMeas_keeps {i : Nat} {x : Meas} (h : Keeps k m₀ m) : Keeps k m₀ (setMeas m i x) := by
  unfold setMeas
  have := @Keeps.update; grind

theorem applyPolicy_keeps {x : Bundle} (h : Keeps False m₀ m) : Keeps False m₀ (applyPolicy m x) := by
  unfold applyPolicy
  have := @Keeps.update; grind

theorem treeAsk_keeps (h : Keeps k m₀ m) : Keeps k m₀ (treeAsk c m).2 := by
  unfold treeAsk
  have := @Keeps.update; have := @askLeave_keeps; grind

theorem treeDone_keeps (h : Keeps k m₀ m) : Keeps k m₀ (treeDone c m) := by
  unfold treeDone
  have := @Keeps.update; have := @releaseLeave_keeps; have := @treeAsk_keeps; grind

theorem reserveLeaf_keeps (h : Keeps False m₀ m) : Keeps False m₀ (reserveLeaf m).2 := by
  unfold reserveLeaf
  have := @Keeps.update; grind

theorem signQuote_keeps {body : List Byte} (h : Keeps k m₀ m) : Keeps k m₀ (signQuote c m body).2 := by
  unfold signQuote
  extract_lets leaf left body' sig m₁ f m₂ m₃
  have drawn : Keeps k m₀ m₁ := Mach.draw_keeps (Mach.draw_keeps (Mach.draw_keeps (Mach.draw_keeps h)))
  have signed : Keeps k m₀ m₂ := drawn.rest rfl
  exact treeAsk_keeps (Keeps.ite (raise_keeps (signed.rest rfl)) signed)

theorem quote_keeps {n : Nat} {body : List Byte} (h : Keeps False m₀ m) : (quote c m n body).Leaves (Keeps False m₀) := by
  have sign {m : Mach} (h : Keeps False m₀ m) : (match reserveLeaf m with
      | (false, m) => QuoteAns.wait body m
      | (true, m) => let (out, m) := signQuote c m body
        .done 0x00 out (releaseLeave c m opQuote n)).Leaves (Keeps False m₀) := by
    split
    · next m₁ full => exact (reserveLeaf_keeps h).of_pair full
    · next m₁ kept => exact releaseLeave_keeps (signQuote_keeps (body := body) ((reserveLeaf_keeps h).of_pair kept))
  unfold quote
  split
  · exact h
  · split
    · split
      · next m₁ asked => exact (treeAsk_keeps h).of_pair asked
      · next m₁ asked => exact (treeAsk_keeps h).of_pair asked
    · split
      · exact h
      · dsimp only
        split
        · exact sign h
        · split
          · exact h
          · split
            · next m₁ asked => exact sign ((askLeave_keeps h).of_pair asked)
            · next m₁ asked => exact (askLeave_keeps h).of_pair asked
            · next m₁ asked => exact (askLeave_keeps h).of_pair asked

theorem tagWrite_keeps {off : Nat} {b : List Byte} (h : Keeps False m₀ m) : Keeps False m₀ (tagWrite m off b).2 := by
  unfold tagWrite
  split
  · exact h
  · split
    · exact h
    · exact h.of_order fun o => { o with tag := rising_putBytes _ o.tag }

theorem setOwner_keeps {x1 : List Byte} (h : Keeps False m₀ m) : Keeps False m₀ (setOwner m x1) := by
  unfold setOwner
  have := @Keeps.update; grind

theorem ownerEnrol_keeps {b : List Byte} (h : Keeps False m₀ m) : Keeps False m₀ (ownerEnrol m b).2 := by
  unfold ownerEnrol
  have := @setOwner_keeps; grind

theorem coreLoadImage_keeps {slot : Nat} {b : List Byte} (h : Keeps k m₀ m) : Keeps k m₀ (coreLoadImage c m slot b).2.2 := by
  unfold coreLoadImage
  split
  · exact h
  · split
    · exact h
    · split
      · exact h
      · dsimp only
        split
        · exact loadStops_keeps (h.rest rfl)
        · exact loadDone_keeps (Keeps.rest (setMeas_keeps h) rfl)

theorem okRes_keeps {out : List Byte} (h : Keeps k m₀ m) : Keeps k m₀ (okRes m out).2.2.2 := by
  unfold okRes
  grind

theorem failRes_keeps {status detail : Nat} (h : Keeps k m₀ m) : Keeps k m₀ (failRes m status detail).2.2.2 := by
  unfold failRes
  grind

theorem repaired_keeps {src which entry : Nat} (h : Keeps k m₀ m) : Keeps k m₀ (repaired m src which entry) := by
  unfold repaired
  have := @Keeps.update; grind

theorem repairedOn_keeps {dies : List Nat} {part which entry : Nat} (h : Keeps k m₀ m) : Keeps k m₀ (repairedOn m dies part which entry) := by
  unfold repairedOn
  have := @Keeps.foldl; have := @repaired_keeps; grind

theorem repairedParse_keeps {which entry : Nat} (h : Keeps k m₀ m) : Keeps k m₀ (repairedParse m which entry) := by
  unfold repairedParse
  have := @Keeps.foldl; have := @repaired_keeps; grind

theorem parseSet_keeps {q : Cmd} (h : Keeps k m₀ m) : Keeps k m₀ (parseSet m q).2.2.2 := by
  unfold parseSet
  extract_lets trans first
  refine pastBank_keeps h (applyEach_keeps h fun m i b m' h e => ?_)
  dsimp only at e
  split at e
  · cases e
  · cases e
    refine repairedParse_keeps (onBanks_keeps h fun t o => ?_)
    split
    · exact { o with trans := Tbl.rising_put _ _ _ _ o.trans }
    · exact { o with states := Tbl.rising_put _ _ _ _ o.states }

theorem clsSet_keeps {q : Cmd} (h : Keeps k m₀ m) : Keeps k m₀ (clsSet m q).2.2.2 := by
  unfold clsSet
  extract_lets pipe first
  split
  · exact h
  · refine pastBank_keeps h (applyEach_keeps h fun m i b m' h e => ?_)
    split at e
    · cases e
    · cases e
      exact repaired_keeps (onBanks_keeps h fun t o => { o with rules := Tbl.rising_put _ _ _ _ o.rules })

theorem tmplSet_keeps {q : Cmd} (h : Keeps k m₀ m) : Keeps k m₀ (tmplSet m q).2.2.2 := by
  unfold tmplSet
  extract_lets r
  have loaded : Keeps k m₀ r.2.2.2 := by
    refine applyEach_keeps h fun m i b m' h e => ?_
    dsimp only at e
    split at e
    · cases e
    · split at e
      · cases e
      · split at e
        · cases e
        · cases e
          exact repairedOn_keeps (onBanks_keeps h fun t o => { o with tmpls := Tbl.rising_put _ _ _ _ o.tmpls })
  split
  · exact loadDone_keeps loaded
  · split
    · exact loadStops_keeps loaded
    · exact loaded

theorem loadProgs_keeps {first : Nat} {x1 : List (List Byte)} {x2 : Nat} (h : Keeps k m₀ m) : Keeps k m₀ (loadProgs m first x1 x2).2.2.2 := by
  induction x1 generalizing m x2 with
  | nil =>
    unfold loadProgs
    exact h
  | cons p ps ih =>
    unfold loadProgs
    split
    · exact h
    · split
      · exact h
      · split
        · exact loadStops_keeps h
        · have stored {e : List Byte} : Keeps k m₀ (onBanks m fun t => { t with progs := Tbl.put [] t.progs (first + x2) e }) :=
            onBanks_keeps h fun t o => { o with progs := Tbl.rising_put _ _ _ _ o.progs }
          exact ih (repairedOn_keeps stored)

theorem progEnd_keeps {x : Bundle} (h : Keeps k m₀ m) : Keeps k m₀ (progEnd m x).2.2.2 := by
  unfold progEnd
  have := @Keeps.update; have := @setMeas_keeps; have := @okRes_keeps; have := @loadDone_keeps; grind

theorem progLoad_keeps {q : Cmd} (h : Keeps k m₀ m) : Keeps k m₀ (progLoad c m q).2.2.2 := by
  unfold progLoad
  have := @progEnd_keeps; have := @loadProgs_keeps; have := @failRes_keeps; grind

theorem fdbWrite_keeps {die e : Nat} {m' : Mach} (h : Keeps k m₀ m) (e : fdbWrite m die e = some m') : Keeps k m₀ m' := by
  unfold fdbWrite at e
  split at e
  · cases e
    exact Mach.setFdb_keeps h
  · obtain ⟨p, -, rfl⟩ := Option.map_eq_some_iff.mp e
    exact Mach.setFdb_keeps h

theorem fdbSet_keeps {q : Cmd} (h : Keeps k m₀ m) : Keeps k m₀ (fdbSet m q).2.2.2 := by
  refine applyEach_keeps h fun m i b m' h e => ?_
  dsimp only at e
  split at e
  · cases e
  · split at e
    · next m₁ written =>
      cases e
      have kept (l : List Nat) (r : Option Mach) (hr : ∀ m, r = some m → Keeps k m₀ m) (m : Mach)
          (e : l.foldl (fun (r : Option Mach) d => r.bind fun m => fdbWrite m d (beNat b)) r = some m) : Keeps k m₀ m := by
        induction l generalizing r with
        | nil => exact hr m e
        | cons d l ih =>
          refine ih _ (fun m₂ wrote => ?_) e
          obtain ⟨m₃, same, wrote⟩ := Option.bind_eq_some_iff.mp wrote
          exact fdbWrite_keeps (hr _ same) wrote
      exact kept _ _ (fun m same => by cases same; exact h) _ written
    · cases e

theorem fdbDelete_keeps {q : Cmd} (h : Keeps k m₀ m) : Keeps k m₀ (fdbDelete m q).2.2.2 := by
  unfold fdbDelete
  have := @Keeps.foldl; have := @Mach.setFdb_keeps; have := @applyEach_keeps; grind

theorem fdbQuery_keeps {q : Cmd} (h : Keeps k m₀ m) : Keeps k m₀ (fdbQuery m q).2.2.2 := by
  unfold fdbQuery
  have := @queryEach_keeps; grind

theorem fdbFlush_keeps {q : Cmd} (h : Keeps k m₀ m) : Keeps k m₀ (fdbFlush m q).2.2.2 := by
  unfold fdbFlush
  have := @Keeps.foldl; have := @Mach.setFdb_keeps; have := @okRes_keeps; grind

theorem bdSet_keeps {q : Cmd} (h : Keeps k m₀ m) : Keeps k m₀ (bdSet m q).2.2.2 := setTable_keeps h fun _ _ _ h => bd_put_keeps h

theorem nhSet_keeps {q : Cmd} (h : Keeps k m₀ m) : Keeps k m₀ (nhSet m q).2.2.2 := setTable_keeps h fun _ _ _ h => repairedOn_keeps (nh_put_keeps h)

theorem setGroup_keeps {n e : Nat} (h : Keeps k m₀ m) : Keeps k m₀ (setGroup m n e) := repairedOn_keeps (group_put_keeps h)

theorem ecmpGroupSet_keeps {q : Cmd} (h : Keeps k m₀ m) : Keeps k m₀ (ecmpGroupSet m q).2.2.2 := by
  unfold ecmpGroupSet
  have := @setGroup_keeps; have := @setTable_keeps; grind

theorem setMember_keeps {n e : Nat} (h : Keeps k m₀ m) : Keeps k m₀ (setMember m n e) := repairedOn_keeps (member_put_keeps h)

theorem ecmpMemberSet_keeps {q : Cmd} (h : Keeps k m₀ m) : Keeps k m₀ (ecmpMemberSet m q).2.2.2 := by
  unfold ecmpMemberSet
  have := @setMember_keeps; have := @setTable_keeps; grind

theorem ecmpMove_keeps {q : Cmd} {up : Bool} (h : Keeps k m₀ m) : Keeps k m₀ (ecmpMove m q up).2.2.2 := by
  unfold ecmpMove
  have := @setGroup_keeps; have := @okRes_keeps; have := @setMember_keeps; have := @failRes_keeps; grind

theorem lpmAdd_keeps {q : Cmd} (h : Keeps k m₀ m) : Keeps k m₀ (lpmAdd m q).2.2.2 := by
  unfold lpmAdd
  have := @Keeps.update; have := @repairedOn_keeps; have := @applyEach_keeps; grind

theorem lpmDelete_keeps {q : Cmd} (h : Keeps k m₀ m) : Keeps k m₀ (lpmDelete m q).2.2.2 := by
  unfold lpmDelete
  have := @Keeps.update; have := @applyEach_keeps; grind

theorem subSet_keeps {q : Cmd} (h : Keeps k m₀ m) : Keeps k m₀ (subSet m q).2.2.2 := by
  refine applyEach_keeps h fun m i b m' h e => ?_
  dsimp only at e
  split at e
  · cases e
  · cases e
    exact repairedOn_keeps (sub_put_keeps h)

theorem subQuery_keeps {q : Cmd} (h : Keeps k m₀ m) : Keeps k m₀ (subQuery m q).2.2.2 := by
  unfold subQuery
  have := @queryEach_keeps; grind

theorem policerSet_keeps {q : Cmd} (h : Keeps k m₀ m) : Keeps k m₀ (policerSet m q).2.2.2 := by
  unfold policerSet
  have := @Keeps.update; have := @Keeps.foldl; have := @repaired_keeps; have := @applyEach_keeps; grind

theorem policerQuery_keeps {q : Cmd} (h : Keeps k m₀ m) : Keeps k m₀ (policerQuery m q).2.2.2 := by
  unfold policerQuery
  have := @queryEach_keeps; grind

theorem gclSet_keeps {q : Cmd} (h : Keeps k m₀ m) : Keeps k m₀ (gclSet m q).2.2.2 := by
  unfold gclSet
  extract_lets l first count
  split
  · exact h
  · split
    · exact h
    · refine applyEach_keeps h fun m i b m' h e => ?_
      dsimp only at e
      split at e
      · cases e
      · cases e
        exact Mach.setGate_keeps h fun admin => Tbl.rising_put _ _ _ _ (admin l)

theorem dropReady_keeps {n : Nat} (h : Keeps k m₀ m) : Keeps k m₀ (dropReady m n) := by
  unfold dropReady
  have := @Keeps.update; have := @Keeps.foldl; have := @Mach.setPool_keeps; have := @natSet_keeps; grind

theorem setWindows_keeps {d : List Byte} (h : Keeps k m₀ m) : Keeps k m₀ (setWindows m d) := by
  unfold setWindows
  have := @Keeps.update; grind

theorem natPoolSet_keeps {q : Cmd} (h : Keeps k m₀ m) : Keeps k m₀ (natPoolSet m q).2.2.2 := by
  unfold natPoolSet
  have := @Keeps.update; have := @natFill_keeps; have := @setWindows_keeps; have := @dropReady_keeps; have := @Mach.setPool_keeps
  have := @okRes_keeps; have := @failRes_keeps; grind

theorem natPortFree_keeps {q : Cmd} (h : Keeps k m₀ m) : Keeps k m₀ (natPortFree m q).2.2.2 := by
  unfold natPortFree
  have := @natSet_keeps; have := @okRes_keeps; have := @failRes_keeps; grind

theorem beGroupSet_keeps {q : Cmd} (h : Keeps k m₀ m) : Keeps k m₀ (beGroupSet m q).2.2.2 := setTable_keeps h fun _ _ _ h => beGroup_put_keeps h

theorem beSlotSet_keeps {q : Cmd} (h : Keeps k m₀ m) : Keeps k m₀ (beSlotSet m q).2.2.2 := setTable_keeps h fun _ _ _ h => beSlot_put_keeps h

theorem backendSet_keeps {q : Cmd} (h : Keeps k m₀ m) : Keeps k m₀ (backendSet m q).2.2.2 := by
  refine applyEach_keeps h fun m i b m' h e => ?_
  dsimp only at e
  split at e
  · cases e
  · cases e
    exact backend_put_keeps h

theorem steerSet_keeps {q : Cmd} (h : Keeps k m₀ m) : Keeps k m₀ (steerSet c m q).2.2.2 := by
  unfold steerSet
  split
  · exact h
  · refine applyEach_keeps h fun m i b m' h e => ?_
    dsimp only at e
    split at e
    · cases e
    · split at e
      · cases e
      · cases e
        exact Keeps.ite (Mach.setEnt_keeps (steer_put_keeps h)) (Keeps.ite (Mach.setEnt_keeps (steer_put_keeps h)) (steer_put_keeps h))

theorem steerQuery_keeps {q : Cmd} (h : Keeps k m₀ m) : Keeps k m₀ (steerQuery m q).2.2.2 := by
  unfold steerQuery
  have := @queryEach_keeps; have := @failRes_keeps; grind

theorem promote_keeps {q : Cmd} (h : Keeps k m₀ m) : Keeps k m₀ (promote c m q).2.2.2 := by
  unfold promote
  have := @Keeps.foldl; have := @promoteEntry_keeps; have := @okRes_keeps; have := @failRes_keeps; grind

theorem attest_keeps {n : Nat} {q : Cmd} (h : Keeps False m₀ m) : (attest c m n q).Leaves (Keeps False m₀) := by
  unfold attest
  split
  · exact h
  · extract_lets body
    have quoted : (quote c m n body).Leaves (Keeps False m₀) := quote_keeps h
    split
    · next st out m₁ e =>
      rw [e] at quoted
      exact quoted
    · next body' m₁ e =>
      rw [e] at quoted
      exact quoted

theorem cmdEffect_keeps {n : Nat} {rid : Option Nat} {slot : Nat} {op : CmdOp} {q : Cmd} {spot : Option Spot} (h : Keeps False m₀ m) : (cmdEffect c m
    n rid slot op q spot).Leaves (Keeps False m₀) := by
  cases op with
  | nop => exact h
  | ringCreate => exact ringCreate_keeps h
  | ringDestroy =>
    simp only [cmdEffect]
    split
    · exact h
    · exact h
    · split
      · exact ringDestroy_keeps h
      · exact ringDestroy_keeps h
  | ringQuery => exact h
  | flowInsert => exact flowInsert_keeps h
  | flowModify => exact flowModify_keeps h
  | flowDelete => exact flowDelete_keeps h
  | flowQuery => exact flowQuery_keeps h
  | natPoolSet => exact natPoolSet_keeps h
  | natPortFree => exact natPortFree_keeps h
  | beGroupSet => exact beGroupSet_keeps h
  | beSlotSet => exact beSlotSet_keeps h
  | backendSet => exact backendSet_keeps h
  | progLoad => exact progLoad_keeps h
  | tmplSet => exact tmplSet_keeps h
  | parseSet => exact parseSet_keeps h
  | clsSet => exact clsSet_keeps h
  | fdbSet => exact fdbSet_keeps h
  | fdbDelete => exact fdbDelete_keeps h
  | fdbQuery => exact fdbQuery_keeps h
  | fdbFlush => exact fdbFlush_keeps h
  | bdSet => exact bdSet_keeps h
  | lpmAdd => exact lpmAdd_keeps h
  | lpmDelete => exact lpmDelete_keeps h
  | nhSet => exact nhSet_keeps h
  | ecmpGroupSet => exact ecmpGroupSet_keeps h
  | ecmpMemberSet => exact ecmpMemberSet_keeps h
  | ecmpMemberDown => exact ecmpMove_keeps h
  | ecmpMemberUp => exact ecmpMove_keeps h
  | subSet => exact subSet_keeps h
  | subQuery => exact subQuery_keeps h
  | policerSet => exact policerSet_keeps h
  | policerQuery => exact policerQuery_keeps h
  | gclSet => exact gclSet_keeps h
  | steerSet => exact steerSet_keeps h
  | steerQuery => exact steerQuery_keeps h
  | promote => exact promote_keeps h
  | coreLoad => exact coreLoadImage_keeps h
  | attest => exact attest_keeps h
  | tagWrite => exact tagWrite_keeps h
  | ownerEnrol => exact ownerEnrol_keeps h
  | reserved => exact h

theorem tableWrites_keeps {op : CmdOp} {q : Cmd} {st d : Nat} (h : Keeps k m₀ m) : Keeps k m₀ (tableWrites c op q st d m) := by
  unfold tableWrites
  have := @Keeps.foldl; have := @pmcEvent_keeps; grind

theorem cmdRun_keeps {n : Nat} {rid : Option Nat} {slot : Nat} {op : CmdOp} {q : Cmd} {spot : Option Spot} (h : Keeps False m₀ m) : (cmdRun c m n rid
    slot op q spot).Leaves (Keeps False m₀) := by
  have ran {m : Mach} (h : Keeps False m₀ m) : (countTable c op q (cmdEffect c m n rid slot op q spot)).Leaves (Keeps False m₀) := by
    have done : (cmdEffect c m n rid slot op q spot).Leaves (Keeps False m₀) := cmdEffect_keeps h
    unfold countTable
    split
    · next st d out m₁ e =>
      rw [e] at done
      exact tableWrites_keeps done
    · exact done
  have go {m : Mach} (h : Keeps False m₀ m) : (match countTable c op q (cmdEffect c m n rid slot op q spot) with
      | .done st d out m => CmdAns.done st d out (releaseLeave c m opBulk n)
      | a => a).Leaves (Keeps False m₀) := by
    have := ran h
    split
    · next st d out m₁ e =>
      rw [e] at this
      exact releaseLeave_keeps this
    · exact this
  unfold cmdRun
  dsimp only
  split
  · exact ran h
  · split
    · exact go h
    · split
      · exact h
      · split
        · next m₁ asked => exact go ((askLeave_keeps h).of_pair asked)
        · next m₁ asked => exact (askLeave_keeps h).of_pair asked
        · next m₁ asked => exact (askLeave_keeps h).of_pair asked

theorem flushCluster_keeps {x1 x2 : Nat} (h : Keeps k m₀ m) : Keeps k m₀ (flushCluster x1 x2 m) := by
  have := @Keeps.update; have := @Mach.emit_keeps; fun_induction flushCluster x1 x2 m <;> grind

theorem cmdDone_keeps {o : Origin} {slot status detail : Nat} {out : List Byte} (h : Keeps k m₀ m) : Keeps k m₀ (cmdDone c m o slot status detail out)
    := by
  unfold cmdDone
  have := @Keeps.update; have := @flushCluster_keeps; have := @release_keeps; have := @complete_keeps; grind

theorem cmdPlace_keeps {n : Option Nat} {o : Origin} {slot : Nat} {op : CmdOp} {q : Cmd} {spot : Option Spot} (h : Keeps False m₀ m) : Keeps False m₀
    (cmdPlace c m n o slot op q spot) := by
  unfold cmdPlace
  extract_lets n'
  have ran := cmdRun_keeps (n := n') (rid := originRing o) (slot := slot) (op := op) (q := q) (spot := spot) (c := c) h
  split
  · next st d out m' e =>
    rw [e] at ran
    exact cmdDone_keeps (Keeps.rest ran rfl)
  · next q' m' e =>
    rw [e] at ran
    exact Keeps.rest ran rfl
  · next m' e =>
    rwa [e] at ran

theorem cmdGo_keeps {o : Origin} {slot : Nat} {op : CmdOp} {q : Cmd} (h : Keeps False m₀ m) : Keeps False m₀ (cmdGo c m o slot op q) := by
  unfold cmdGo
  have := @cmdPlace_keeps; have := @pushJob_keeps; grind

theorem cmdStart_keeps {o : Origin} {slot : Nat} {op : CmdOp} {q : Cmd} (h : Keeps False m₀ m) : Keeps False m₀ (cmdStart c m o slot op q) := by
  unfold cmdStart
  have := @Keeps.update; have := @cmdGo_keeps; have := @cmdDone_keeps; grind

theorem cmdResume_keeps {op : CmdOp} {o : Origin} {slot : Nat} {q : Cmd} (h : Keeps False m₀ m) : Keeps False m₀ (cmdResume c m op o slot q) := by
  unfold cmdResume
  have := @cmdGo_keeps; have := @cmdDone_keeps; grind

theorem cmdGet_keeps {rid opc : Nat} {q : Cmd} {r r' : _} {m' : Mach} (h : Keeps k m₀ m) (e : cmdGet m rid opc q = some (r, r', m')) : Keeps k m₀ m'
    := by
  unfold cmdGet at e
  have := @Keeps.update; have := @Mach.setRing_keeps; have := @consume_keeps; grind

theorem ringCmd_keeps {r : Fin 16384} {opc : Nat} {q : Cmd} (h : Keeps False m₀ m) : Keeps False m₀ (ringCmd c m r opc q) := by
  unfold ringCmd
  have := @cmdStart_keeps; have := @beginReads_keeps; have := @cmdGet_keeps; grind

theorem dataReadDone_keeps {r : Fin 16384} {x : HostRead} (h : Keeps False m₀ m) : Keeps False m₀ (dataReadDone c m r x) := by
  unfold dataReadDone
  have := @Keeps.update; have := @Mach.setRing_keeps; have := @dmaError_keeps; have := @complete_keeps; have := @ringCmd_keeps
  have := @txpData_keeps; grind

theorem coreCmd_keeps {core opc : Fin 128} {q : Cmd} (h : Keeps False m₀ m) : Keeps False m₀ (coreCmd c m core opc q) := by
  unfold coreCmd
  have := @Keeps.update; have := @retire_keeps; have := @cmdStart_keeps; have := @Mach.setCore_keeps; grind

theorem retryCmds_keeps (h : Keeps False m₀ m) : Keeps False m₀ (retryCmds c m) := by
  unfold retryCmds
  have := @Keeps.foldl; have := @cmdPlace_keeps; grind

theorem refuseCmd_keeps {n : Nat} (h : Keeps k m₀ m) : Keeps k m₀ (refuseCmd c m n) := by
  unfold refuseCmd
  have := @Keeps.update; have := @cmdDone_keeps; grind

theorem jobRun_keeps {w : Waiter} {spot : Option Spot} (h : Keeps False m₀ m) : Keeps False m₀ (jobRun c m w spot) := by
  unfold jobRun
  have := @Keeps.update; have := @ackEffect_keeps; have := @markRun_keeps; have := @recordMsgRun_keeps; have := @wbRun_keeps
  have := @undoForward_keeps; have := @compDelete_keeps; have := @compInsert_keeps; have := @bump_keeps; have := @cmdPlace_keeps; grind

theorem jobTry_keeps {w : Waiter} (h : Keeps False m₀ m) : Keeps False m₀ (jobTry c m w) := by
  unfold jobTry
  have := @Keeps.update; have := @bump_keeps; have := @jobPlace_keeps; have := @jobRun_keeps; grind

theorem storeGo_keeps {x1 : Nat} (h : Keeps False m₀ m) : Keeps False m₀ (storeGo c x1 m) := by
  have := @Keeps.foldl; have := @jobTry_keeps; have := @settleOps_keeps; fun_induction storeGo c x1 m <;> grind

theorem settle_keeps (h : Keeps False m₀ m) : Keeps False m₀ (settle c m) := by
  unfold settle
  have := @storeGo_keeps; have := @roundsForLoss_keeps; have := @retryCmds_keeps; grind

end Sys2Proof.Machine

/-! What the functions of the fault controller and the registers keep. -/
namespace Sys2Proof.Machine
variable {k : Prop} {c : Cfg} {m₀ m : Mach}

theorem Mach.setClass_keeps {x1 : Nat} {x : ClassSt} (h : Keeps k m₀ m) : Keeps k m₀ (Mach.setClass m x1 x) := by
  unfold Mach.setClass
  have := @Keeps.update; grind

theorem setHealth_keeps {v : Bool} (h : Keeps k m₀ m) : Keeps k m₀ (setHealth m v) := by
  unfold setHealth
  have := @Keeps.update; grind

theorem healthDrive_keeps (h : Keeps k m₀ m) : Keeps k m₀ (healthDrive c m) := by
  unfold healthDrive
  have := @Keeps.update; have := @setHealth_keeps; grind

theorem healthRise_keeps (h : Keeps k m₀ m) : Keeps k m₀ (healthRise c m) := by
  unfold healthRise
  have := @Keeps.update; grind

theorem healthToggle_keeps (h : Keeps k m₀ m) : Keeps k m₀ (healthToggle c m) := by
  unfold healthToggle
  have := @healthRise_keeps; have := @setHealth_keeps; grind

theorem healthRelease_keeps (h : Keeps k m₀ m) : Keeps k m₀ (healthRelease c m) := by
  unfold healthRelease
  have := @healthRise_keeps; grind

theorem cutTx_keeps {l : Nat} (h : Keeps k m₀ m) : Keeps k m₀ (cutTx c m l) := by
  unfold cutTx
  have := @Keeps.update; have := @tsDropped_keeps; have := @dropQueued_keeps; grind

theorem stopGroup_keeps {g : Nat} (h : Keeps k m₀ m) : Keeps k m₀ (stopGroup c m g) := by
  unfold stopGroup
  have := @Keeps.foldl; have := @tailArrival_keeps; have := @cutTx_keeps; grind

theorem dropInside_keeps {x1 : Pkt} (h : Keeps k m₀ m) : Keeps k m₀ (dropInside c m x1) := by
  unfold dropInside
  have := @bump_keeps; have := @dropPkt_keeps; grind

theorem emptyPipe_keeps {pipe : Nat} (h : Keeps k m₀ m) : Keeps k m₀ (emptyPipe c m pipe) := by
  unfold emptyPipe
  have := @Keeps.update; have := @Keeps.foldl; have := @dropInside_keeps; grind

theorem isolatePipe_keeps {pipe : Nat} (h : Keeps k m₀ m) : Keeps k m₀ (isolatePipe c m pipe) := by
  unfold isolatePipe
  have := @Keeps.update; have := @emptyPipe_keeps; have := @stopGroup_keeps; grind

theorem isolateGroup_keeps {g : Nat} (h : Keeps k m₀ m) : Keeps k m₀ (isolateGroup c m g) := by
  unfold isolateGroup
  have := @Keeps.update; have := @stopGroup_keeps; grind

theorem holdGroups_keeps {gs : List Nat} (h : Keeps k m₀ m) : Keeps k m₀ (holdGroups c m gs) := by
  unfold holdGroups
  have := @Keeps.update; have := @Keeps.foldl; have := @stopGroup_keeps; grind

theorem isolateSlice_keeps {i : Nat} {loses : Bool} (h : Keeps k m₀ m) : Keeps k m₀ (isolateSlice c m i loses) := by
  unfold isolateSlice
  have := @Keeps.update; have := @takeover_keeps; have := @settleOps_keeps; grind

theorem isolateChannel_keeps {stack pc : Nat} (h : Keeps k m₀ m) : Keeps k m₀ (isolateChannel c m stack pc) := by
  unfold isolateChannel
  have := @Keeps.update; have := @askLeave_keeps; grind

theorem poisonLines_keeps (h : Keeps k m₀ m) : Keeps k m₀ (poisonLines m) := by
  unfold poisonLines
  have := @Keeps.update; have := @Mach.draw_keeps; grind

theorem copyDone_keeps {stack : Nat} (h : Keeps k m₀ m) : Keeps k m₀ (copyDone c m stack) := by
  unfold copyDone
  have := @Keeps.update; have := @poisonLines_keeps; have := @releaseLeave_keeps; grind

theorem holdOutputs_keeps (h : Keeps False m₀ m) : Keeps False m₀ (holdOutputs c m) := by
  unfold holdOutputs
  have := @Keeps.update; have := @Keeps.foldl; have := @stopGroup_keeps; grind

theorem abortCommit_keeps (h : Keeps False m₀ m) : Keeps False m₀ (abortCommit m) := by
  unfold abortCommit
  have := @Keeps.update; grind

theorem failStart_keeps {cause : Nat} (h : Keeps False m₀ m) : Keeps False m₀ (failStart m cause) := by
  unfold failStart
  have := @Keeps.update; grind

theorem reactFatal_keeps {cls : Nat} (h : Keeps False m₀ m) : Keeps False m₀ (reactFatal c m cls) := by
  unfold reactFatal
  have := @Keeps.update; have := @failStart_keeps; have := @holdOutputs_keeps; have := @abortCommit_keeps; grind

theorem isolate_keeps {cls inst detail arg : Nat} (h : Keeps k m₀ m) : Keeps k m₀ (isolate c m cls inst detail arg) := by
  unfold isolate
  have := @Keeps.foldl; have := @coreIsolate_keeps; have := @isolateChannel_keeps; have := @isolateSlice_keeps; have := @isolatePipe_keeps
  have := @isolateGroup_keeps; grind

theorem latchFirst_keeps {r : Report} {sev : Nat} {esc : Bool} (h : Keeps k m₀ m) : Keeps k m₀ (latchFirst m r sev esc) := by
  unfold latchFirst
  extract_lets take m₁
  have takes (m : Mach) (h : Keeps k m₀ m) : Keeps k m₀ (take m) :=
    Mach.setSt_keeps (Mach.setSt_keeps (Mach.setSt_keeps (Mach.setSt_keeps (Mach.setSt_keeps (Mach.setSt_keeps (Mach.setSt_keeps (Mach.setSt_keeps h)))))))
  have marked : Keeps k m₀ m₁ := Mach.setSt_keeps h
  exact Keeps.ite (takes _ h) (Keeps.ite (takes _ marked) marked)

theorem processReport_keeps {r : Report} (h : Keeps False m₀ m) : Keeps False m₀ (processReport c m r) := by
  unfold processReport
  have := @healthDrive_keeps; have := @reactFatal_keeps; have := @isolate_keeps; have := @postFault_keeps; have := @latchFirst_keeps
  have := @Mach.setClass_keeps; have := @Mach.inc32_keeps; grind

theorem processAll_keeps (h : Keeps False m₀ m) : Keeps False m₀ (processAll c m) := by
  unfold processAll
  have := @Keeps.update; have := @Keeps.foldl; have := @processReport_keeps; have := @healthDrive_keeps; grind

theorem abandonOne_keeps {core slot : Nat} (h : Keeps k m₀ m) : Keeps k m₀ (abandonOne c m core slot) := by
  unfold abandonOne
  have := @Keeps.update; have := @release_keeps; have := @Mach.setCore_keeps; have := @abandonAll_keeps; grind

theorem loseLine_keeps {region pos : Nat} (h : Keeps k m₀ m) : Keeps k m₀ (loseLine c m region pos) := by
  unfold loseLine
  have := @Keeps.update; have := @dropLine_keeps; have := @bump_keeps; grind

theorem natFault_keeps {n : Nat} (h : Keeps k m₀ m) : Keeps k m₀ (natFault c m n) := by
  unfold natFault
  dsimp only
  refine natRefill_keeps ?_
  split
  · exact settleOps_keeps (answer_keeps (bump_keeps (Keeps.rest (Mach.setPool_keeps h) rfl)))
  · exact Mach.setPool_keeps h

theorem gateFault_keeps {l i : Nat} (h : Keeps k m₀ m) : Keeps k m₀ (gateFault m l i) := by
  unfold gateFault
  have := @Keeps.update; have := @Mach.setGate_keeps; grind

theorem spoilRec_keeps {region pos : Nat} (h : Keeps k m₀ m) : Keeps k m₀ (spoilRec m region pos) := by
  unfold spoilRec
  have := @Keeps.update; have := @Mach.storeHbm_keeps; grind

theorem meetWrite_keeps {x1 n : Nat} (h : Keeps k m₀ m) : Keeps k m₀ (meetWrite m x1 n) := by
  unfold meetWrite
  have := @Keeps.update; grind

theorem ownReaction_keeps {cls inst sev detail arg : Nat} (h : Keeps k m₀ m) : Keeps k m₀ (ownReaction c m cls inst sev detail arg) := by
  unfold ownReaction
  exact Keeps.ite h (Keeps.ite (h.rest rfl) (Keeps.ite (saFail_keeps h) (Keeps.ite (Keeps.rest (m := ite _ _ _) (Keeps.ite (meetWrite_keeps h) h) rfl)
    (Keeps.ite (meetWrite_keeps h) (Keeps.ite (isolatePipe_keeps h) (Keeps.ite (Keeps.ite (nodeFault_keeps h) (gateFault_keeps h))
    (Keeps.ite (loseHeader_keeps h) (Keeps.ite (Mach.putPage_keeps h) (Keeps.ite (Keeps.ite (loseLine_keeps h) (spoilRec_keeps h))
    (Keeps.ite (Keeps.ite (natFault_keeps h) (Keeps.ite (bump_keeps (h.rest rfl)) h)) (Keeps.ite (h.rest rfl) (Keeps.ite (coreIsolate_keeps h)
    (Keeps.ite (h.rest rfl) (Keeps.ite (abandonOne_keeps h) h))))))))))))))

theorem raiseWith_keeps {src sev detail arg : Nat} {inj react : Bool} (h : Keeps k m₀ m) : Keeps k m₀ (raiseWith c m src sev detail arg inj react) := by
  unfold raiseWith
  have := @Keeps.update; have := @sendReport_keeps; grind

theorem hazard_keeps {x1 : Hazard} (h : Keeps k m₀ m) : Keeps k m₀ (hazard c m x1) := by
  unfold hazard
  have := @raiseWith_keeps; have := @ownReaction_keeps; grind

theorem injectPage_keeps {p : Nat} (h : Keeps k m₀ m) : Keeps k m₀ (injectPage c m p) := by
  unfold injectPage
  have := @endChain_keeps; grind

theorem injectActs_keeps {src sev detail arg : Nat} (h : Keeps k m₀ m) : Keeps k m₀ (injectActs c m src sev detail arg) := by
  unfold injectActs
  have := @Keeps.update; have := @injectPage_keeps; have := @spoilRec_keeps; have := @readBucket_keeps; have := @ownReaction_keeps
  have := @raiseWith_keeps; grind

theorem injectOne_keeps {x : BitVec 32 × BitVec 32} (h : Keeps k m₀ m) : Keeps k m₀ (injectOne c m x) := by
  unfold injectOne
  split
  · exact h
  · have counted {m₁ : Mach} {x : FltSt} (h : Keeps k m₀ m₁) (same : x.fatal = m₁.flt.fatal) : Keeps k m₀ { m₁ with flt := x } :=
      h.update rfl rfl rfl rfl rfl rfl rfl rfl rfl rfl rfl rfl rfl rfl rfl rfl rfl rfl rfl rfl rfl rfl rfl rfl rfl rfl (fun _ => rfl) (fun _ => rfl) (fun _ => rfl)
        fun _ => same
    have armed : Keeps k m₀ (if m.flt.injLeft - 1 = 0 then m.setSt fltInjectArmed 0 else m) := Keeps.ite (Mach.setSt_keeps h) h
    have same : (if m.flt.injLeft - 1 = 0 then m.setSt fltInjectArmed 0 else m).flt.fatal = m.flt.fatal := by
      split
      · exact congrArg FltSt.fatal (Mach.setSt_flt ..)
      · rfl
    exact Keeps.ite (injectActs_keeps (counted armed same.symm)) (raiseWith_keeps (counted armed same.symm))

theorem linkEventRx_keeps {link : Fin 18} {module : Nat} {ok : Bool} (h : Keeps k m₀ m) : Keeps k m₀ (linkEventRx c m link module ok) := by
  unfold linkEventRx
  have := @Keeps.update; have := @holdGroups_keeps; have := @raise_keeps; grind

theorem crossDrop_keeps {die : Nat} (h : Keeps k m₀ m) : Keeps k m₀ (crossDrop c m die) := by
  unfold crossDrop
  have := @Keeps.update; have := @Keeps.foldl; have := @freeFrame_keeps; have := @sendRelease_keeps; have := @traceEnd_keeps
  have := @tsDropped_keeps; have := @bump_keeps; grind

theorem clearClass_keeps {x1 : Nat} (h : Keeps k m₀ m) : Keeps k m₀ (clearClass c m x1) := by
  unfold clearClass
  have := @Mach.setClass_keeps; have := @Mach.inc32_keeps; have := @healthDrive_keeps; grind

theorem fltAck_keeps {x1 : Nat} {clear : Bool} (h : Keeps k m₀ m) : Keeps k m₀ (fltAck c m x1 clear) := by
  unfold fltAck
  have := @Keeps.update; have := @clearClass_keeps; have := @Mach.setClass_keeps; grind

theorem quietExpiry_keeps {x1 : Nat} (h : Keeps k m₀ m) : Keeps k m₀ (quietExpiry c m x1) := by
  unfold quietExpiry
  have := @clearClass_keeps; grind

theorem restoreGo_keeps {kind inst : Nat} (h : Keeps k m₀ m) : Keeps k m₀ (restoreGo c m kind inst) := by
  unfold restoreGo
  have := @Keeps.update; have := @askLeave_keeps; have := @Mach.setSt_keeps; grind

theorem restoreUnit_keeps {kind inst : Nat} (h : Keeps k m₀ m) : Keeps k m₀ (restoreUnit c m kind inst) := by
  unfold restoreUnit
  have := @Keeps.update; have := @Keeps.foldl; have := @coreRunStart_keeps; have := @Mach.setCore_keeps; grind

theorem restoreDone_keeps {pass : Bool} (h : Keeps k m₀ m) : Keeps k m₀ (restoreDone c m pass) := by
  unfold restoreDone
  have := @Keeps.update; have := @raise_keeps; have := @Mach.setSt_keeps; have := @restoreUnit_keeps; have := @releaseLeave_keeps; grind

theorem leaveRefused_keeps {op unit : Nat} (h : Keeps k m₀ m) : Keeps k m₀ (leaveRefused c m op unit) := by
  unfold leaveRefused
  have := @Keeps.update; have := @Keeps.foldl; have := @Mach.setSt_keeps; have := @refuseCmd_keeps; have := @tallyRefused_keeps
  have := @sweepRefused_keeps; grind

theorem leaveGoesOn_keeps (h : Keeps False m₀ m) : Keeps False m₀ (leaveGoesOn c m) := by
  unfold leaveGoesOn
  have := @treeAsk_keeps; have := @settle_keeps; grind

theorem upwardGo_keeps (h : Keeps False m₀ m) : Keeps False m₀ (upwardGo c m) := by
  unfold upwardGo
  have := @Keeps.update; have := @Keeps.foldl; have := @leaveGoesOn_keeps; have := @behindGo_keeps; have := @leaveRefused_keeps
  have := @leaveArrive_keeps; grind

theorem faultTick_keeps {hs : List Hazard} {inj : List (BitVec 32 × BitVec 32)} (h : Keeps False m₀ m) : Keeps False m₀ (faultTick c m hs inj) := by
  unfold faultTick
  have := @Keeps.foldl; have := @hazard_keeps; have := @injectOne_keeps; have := @processAll_keeps; have := @upwardGo_keeps; grind

theorem heavyRequest_keeps {op unit : Nat} (h : Keeps False m₀ m) : Keeps False m₀ (heavyRequest c m op unit) := by
  unfold heavyRequest
  have := @leaveGoesOn_keeps; have := @leaveRefused_keeps; have := @askLeave_keeps; grind

theorem deferTimeout_keeps (h : Keeps False m₀ m) : Keeps False m₀ (deferTimeout c m) := by
  unfold deferTimeout
  have := @Keeps.foldl; have := @dropLeave_keeps; have := @pwrReport_keeps; have := @leaveRefused_keeps; have := @leaveGoesOn_keeps; grind

theorem scheduleStep_keeps {tgt : Option Nat} {add : Int} (h : Keeps False m₀ m) : Keeps False m₀ (scheduleStep m tgt add) := by
  unfold scheduleStep
  have := @Keeps.update; grind

theorem todStep_keeps (h : Keeps False m₀ m) : Keeps False m₀ (todStep c m) := by
  unfold todStep
  have := @scheduleStep_keeps; grind

theorem todOffset_keeps (h : Keeps False m₀ m) : Keeps False m₀ (todOffset c m) := by
  unfold todOffset
  have := @scheduleStep_keeps; grind

theorem todApply_keeps (h : Keeps False m₀ m) : Keeps False m₀ (todApply c m) := by
  unfold todApply
  have := @Keeps.update; grind

theorem replicaCorrect_keeps {die : Nat} {skew : Int} (h : Keeps False m₀ m) : Keeps False m₀ (replicaCorrect c m die skew) := by
  unfold replicaCorrect
  have := @Keeps.update; have := @Mach.draw_keeps; have := @raise_keeps; grind

theorem ppsAlign_keeps {cap : Nat} (h : Keeps False m₀ m) : Keeps False m₀ (ppsAlign c m cap) := by
  unfold ppsAlign
  have := @Keeps.update; have := @Mach.inc32_keeps; have := @Mach.setSt_keeps; have := @scheduleStep_keeps; grind

theorem ppsCapture_keeps {cap phase : Nat} (h : Keeps False m₀ m) : Keeps False m₀ (ppsCapture c m cap phase) := by
  unfold ppsCapture
  extract_lets ns m₁ m₂ f t m₃
  have begun : Keeps False m₀ m₁ := Mach.setSt_keeps (Mach.setSt_keeps (Mach.setSt_keeps h))
  have captured : Keeps False m₀ m₂ := Mach.setSt_keeps (Mach.inc32_keeps (Mach.setSt_keeps begun))
  --.setSt_keeps (Mach.inc32_keeps (Mach.setSt_keeps (Mach.setSt_keeps (Mach.setSt_keeps (Mach.setSt_keeps h)))))
  have edge : Keeps False m₀ m₃ := (Mach.setSt_keeps captured).tables rfl
  exact Keeps.ite (postEvent_keeps edge) edge

theorem ppsEdge_keeps {phase : Nat} (h : Keeps False m₀ m) : Keeps False m₀ (ppsEdge c m phase) := by
  unfold ppsEdge
  have := @ppsAlign_keeps; have := @ppsCapture_keeps; have := @Mach.inc32_keeps; grind

theorem ppsMissing_keeps (h : Keeps False m₀ m) : Keeps False m₀ (ppsMissing c m) := by
  unfold ppsMissing
  have := @Keeps.update; have := @raise_keeps; have := @Mach.setSt_keeps; grind

theorem ppsRise_keeps (h : Keeps False m₀ m) : Keeps False m₀ (ppsRise c m) := by
  unfold ppsRise
  have := @Keeps.update; grind

theorem ppsFall_keeps (h : Keeps False m₀ m) : Keeps False m₀ (ppsFall m) := by
  unfold ppsFall
  have := @Keeps.update; grind

theorem drawBootId_keeps (h : Keeps False m₀ m) : Keeps False m₀ (drawBootId m) := by
  unfold drawBootId
  have := @Keeps.update; have := @Mach.draw_keeps; grind

theorem rootUnlock_keeps (h : Keeps False m₀ m) : Keeps False m₀ (rootUnlock c m) := by
  unfold rootUnlock
  have := @Keeps.update; have := @holdOutputs_keeps; grind

theorem familyUnlock_keeps {x1 : Nat} (h : Keeps k m₀ m) : Keeps k m₀ (familyUnlock c m x1) := by
  unfold familyUnlock
  have := @Keeps.update; have := @raise_keeps; grind

theorem setStage_keeps {s : Stage} (h : Keeps False m₀ m) : Keeps False m₀ (setStage m s) := by
  unfold setStage
  have := @Keeps.update; grind

theorem stopStart_keeps {cause cls inst : Nat} (h : Keeps False m₀ m) : Keeps False m₀ (stopStart c m cause cls inst) := by
  unfold stopStart
  have := @failStart_keeps; have := @raise_keeps; grind

theorem takeImage_keeps {kind : Nat} {first other : List Byte} (h : Keeps k m₀ m) : Keeps k m₀ (takeImage c m kind first other).2 := by
  unfold takeImage
  have := @raise_keeps; grind

theorem loaderVerified_keeps {setA setB : List Byte} (h : Keeps False m₀ m) : Keeps False m₀ (loaderVerified c m setA setB) := by
  unfold loaderVerified
  have := @Keeps.update; have := @stopStart_keeps; have := @setMeas_keeps; have := @setStage_keeps; have := @takeImage_keeps; grind

theorem verifyEnd_keeps (h : Keeps False m₀ m) : Keeps False m₀ (verifyEnd m) := by
  unfold verifyEnd
  have := @setStage_keeps; grind

theorem imageVerified_keeps {setA setB : List Byte} {started : Bool} (h : Keeps False m₀ m) : Keeps False m₀ (imageVerified c m setA setB started) := by
  unfold imageVerified
  have := @Keeps.update; have := @stopStart_keeps; have := @setMeas_keeps; have := @applyPolicy_keeps; have := @takeImage_keeps
  have := @verifyEnd_keeps; grind

theorem d2dTrained_keeps {ok : Bool} (h : Keeps False m₀ m) : Keeps False m₀ (d2dTrained c m ok) := by
  unfold d2dTrained
  have := @Keeps.update; have := @stopStart_keeps; have := @verifyEnd_keeps; grind

theorem hbmTrained_keeps {ok : Bool} (h : Keeps False m₀ m) : Keeps False m₀ (hbmTrained c m ok) := by
  unfold hbmTrained
  have := @stopStart_keeps; have := @setStage_keeps; grind

theorem serdesCalibrated_keeps {failed : BitVec 256} (h : Keeps False m₀ m) : Keeps False m₀ (serdesCalibrated c m failed) := by
  unfold serdesCalibrated
  have := @Keeps.foldl; have := @setStage_keeps; have := @raise_keeps; have := @Mach.setSt_keeps; grind

theorem rngSeeded_keeps (h : Keeps k m₀ m) : Keeps k m₀ (rngSeeded c m) := by
  unfold rngSeeded
  have := @Keeps.update; have := @treeAsk_keeps; grind

theorem rngTimeout_keeps (h : Keeps False m₀ m) : Keeps False m₀ (rngTimeout c m) := by
  unfold rngTimeout
  have := @stopStart_keeps; grind

theorem drbgReseed_keeps {ok : Bool} (h : Keeps k m₀ m) : Keeps k m₀ (drbgReseed c m ok) := by
  unfold drbgReseed
  have := @Keeps.update; have := @raise_keeps; grind

theorem refuse_keeps {q off cause code : Nat} (h : Keeps k m₀ m) : Keeps k m₀ (refuse m q off cause code) := by
  unfold refuse
  have := @Mach.setSt_keeps; grind

theorem sealWrite_keeps {q key : Nat} (h : Keeps False m₀ m) : Keeps False m₀ (sealWrite m q key) := by
  unfold sealWrite
  have := @Keeps.update; grind

theorem drawSeed_keeps (h : Keeps False m₀ m) : Keeps False m₀ (drawSeed c m) := by
  unfold drawSeed
  split
  · exact h
  · exact h.of_order fun o => { o with }

theorem startOutputs_keeps (h : Keeps False m₀ m) : Keeps False m₀ (startOutputs c m) := by
  unfold startOutputs
  have := @Keeps.update; have := @ipfixTemplates_keeps; have := @healthDrive_keeps; have := @sealLinks_keeps; grind

theorem sealPass_keeps (h : Keeps False m₀ m) : Keeps False m₀ (sealPass c m) := by
  unfold sealPass
  have := @Keeps.update; have := @Keeps.foldl; have := @startOutputs_keeps; have := @Mach.setSt_keeps; have := @drawSeed_keeps; grind

theorem sealFail_keeps {code at' : Nat} (h : Keeps False m₀ m) : Keeps False m₀ (sealFail c m code at') := by
  unfold sealFail
  have := @Keeps.update; have := @refuse_keeps; grind

theorem sealChecked_keeps (h : Keeps False m₀ m) : Keeps False m₀ (sealChecked c m) := by
  unfold sealChecked
  have := @Keeps.update; have := @sealPass_keeps; have := @sealFail_keeps; grind

theorem setResult_keeps {n : Nat} (h : Keeps False m₀ m) : Keeps False m₀ (setResult m n) := by
  unfold setResult
  have := @Keeps.update; grind

theorem commitGo_keeps (h : Keeps False m₀ m) : Keeps False m₀ (commitGo c m) := by
  unfold commitGo
  split
  · exact setResult_keeps h
  · split
    · exact setResult_keeps h
    · split
      · exact setResult_keeps h
      · split
        · exact h.of_order fun o => { o with }
        · exact h.of_order fun o => { o with }

theorem passQueue_keeps {c' : Cfg} {q : Nat} (h : Keeps k m₀ m) : Keeps k m₀ (passQueue c c' m q) := by
  unfold passQueue
  have := @Keeps.foldl; have := @handOver_keeps; grind

theorem newTree_keeps {c' : Cfg} (h : Keeps k m₀ m) : Keeps k m₀ (newTree c c' m) := by
  unfold newTree
  have := @Keeps.update; have := @Keeps.foldl; have := @restDeficits_keeps; have := @passQueue_keeps; have := @flushQueue_keeps; grind

theorem turnDrained_keeps (h : Keeps False m₀ m) : Keeps False m₀ (turnDrained m) := by
  unfold turnDrained
  have := @Keeps.update; grind

theorem finishHeld_keeps (h : Keeps False m₀ m) : Keeps False m₀ (finishHeld c m) := by
  unfold finishHeld
  dsimp only
  refine Keeps.foldl (fun m x h => ?_) (h.of_order fun o => ?_)
  · cases x
    · exact h
    · exact cmdResume_keeps h
  · exact { o with rings := rising_map (f := fun r : Ring => { r with state := .absent, consumed := [], destroyBy := none }) o.rings }

theorem restartDone_keeps (h : Keeps False m₀ m) : Keeps False m₀ (restartDone c m) := by
  unfold restartDone
  have := @Keeps.update; have := @treeAsk_keeps; have := @setStage_keeps; grind

theorem countDenied_keeps {q off : Nat} {write : Bool} (h : Keeps k m₀ m) : Keeps k m₀ (countDenied c m q off write) := by
  unfold countDenied
  have := @Mach.setSt_keeps; have := @bump_keeps; grind

theorem setLatch_keeps {q : Nat} {v : Word} (h : Keeps k m₀ m) : Keeps k m₀ (setLatch m q v) := by
  unfold setLatch
  have := @Keeps.update; grind

theorem clearOnRead_keeps {x : Loc} (h : Keeps k m₀ m) : Keeps k m₀ (clearOnRead c m x) := by
  unfold clearOnRead
  have := @Keeps.update; have := @Mach.setSt_keeps; have := @Mach.setWq_keeps; grind

theorem readLoc_keeps {q : Nat} {x : Loc} (h : Keeps k m₀ m) : Keeps k m₀ (readLoc c m q x).2 := by
  unfold readLoc
  have := @clearOnRead_keeps; have := @todLatch_keeps; have := @setLatch_keeps; grind

theorem refusedRead_keeps {q : Requester} {off : Nat} (h : Keeps k m₀ m) : Keeps k m₀ (refusedRead m q off) := by
  unfold refusedRead
  have := @Mach.emit_keeps; grind

theorem regRead_keeps {q : Requester} {off : Nat} (h : Keeps k m₀ m) : Keeps k m₀ (regRead c m q off) := by
  unfold regRead
  have := @readLoc_keeps; have := @countDenied_keeps; have := @refusedRead_keeps; have := @Mach.emit_keeps; grind

theorem clearStat_keeps {x1 : Half} (h : Keeps k m₀ m) : Keeps k m₀ (clearStat m x1) := by
  unfold clearStat
  have := @Keeps.foldl; have := @Mach.setSt_keeps; grind

theorem noteWrote_keeps {x1 : Half} (h : Keeps k m₀ m) : Keeps k m₀ (noteWrote m x1) := by
  unfold noteWrote
  have := @Keeps.update; grind

theorem storeStat_keeps {q : Nat} {x1 : Half} (h : Keeps k m₀ m) : Keeps k m₀ (storeStat m q x1) := by
  unfold storeStat
  have := @Keeps.update; have := @Keeps.foldl; have := @Mach.setSt_keeps; grind

theorem firstClear_keeps (h : Keeps k m₀ m) : Keeps k m₀ (firstClear m) := by
  unfold firstClear
  have := @Keeps.foldl; have := @Mach.setSt_keeps; grind

theorem dumpEnable_keeps {s : Nat} {en : Bool} (h : Keeps k m₀ m) : Keeps k m₀ (dumpEnable c m s en) := by
  unfold dumpEnable
  have := @Keeps.update; have := @dropLeave_keeps; have := @releaseLeave_keeps; grind

theorem sliceWant_keeps {i : Nat} {x1 : SweepKind} (h : Keeps k m₀ m) : Keeps k m₀ (sliceWant c m i x1) := by
  unfold sliceWant
  have := @sweepWant_keeps; grind

theorem countWrite_keeps {hs : List Half} (h : Keeps k m₀ m) : Keeps k m₀ (countWrite c m hs) := by
  unfold countWrite
  have := @Keeps.foldl; have := @pmcEvent_keeps; grind

theorem holdWrite_keeps {x : HeldOp} (h : Keeps False m₀ m) : Keeps False m₀ (holdWrite m x) := by
  unfold holdWrite
  have := @Keeps.update; grind

theorem showTemp_keeps {n : Nat} {x1 : SensorRead} (h : Keeps k m₀ m) : Keeps k m₀ (showTemp m n x1) := by
  unfold showTemp
  have := @Mach.setSt_keeps; grind

theorem thermAlert_keeps (h : Keeps k m₀ m) : Keeps k m₀ (thermAlert c m) := by
  unfold thermAlert
  have := @Keeps.update; have := @raise_keeps; grind

theorem thermTrip_keeps (h : Keeps k m₀ m) : Keeps k m₀ (thermTrip c m) := by
  unfold thermTrip
  have := @Keeps.update; have := @raise_keeps; grind

theorem sensorsRead_keeps {temps : List SensorRead} (h : Keeps k m₀ m) : Keeps k m₀ (sensorsRead c m temps) := by
  unfold sensorsRead
  have := @Keeps.update; have := @Keeps.foldl; have := @thermTrip_keeps; have := @thermAlert_keeps; have := @raise_keeps; have := @showTemp_keeps
  grind

theorem railsRead_keeps {rails : List (Option Nat)} (h : Keeps k m₀ m) : Keeps k m₀ (railsRead c m rails) := by
  unfold railsRead
  have := @Keeps.update; have := @raise_keeps; grind

theorem i2cRead_keeps {off : Nat} (h : Keeps k m₀ m) : Keeps k m₀ (i2cRead c m off) := by
  unfold i2cRead
  have := @Mach.emit_keeps; grind

theorem tallyWalk_keeps {u : Nat} {e : Bool} {p : Nat} (h : Keeps k m₀ m) : Keeps k m₀ (tallyWalk c u e m p) := by
  unfold tallyWalk
  have := @Keeps.update; have := @Keeps.foldl; have := @bufError_keeps; have := @Mach.setCell_keeps; grind

theorem tallyChain_keeps {e : Bool} {q : Nat} (h : Keeps k m₀ m) : Keeps k m₀ (tallyChain c e m q) := by
  unfold tallyChain
  have := @Keeps.update; have := @Keeps.foldl; have := @Mach.setPage_keeps; have := @endChain_keeps; grind

theorem tallyBegin_keeps {u : Nat} (h : Keeps k m₀ m) : Keeps k m₀ (tallyBegin c m u) := by
  unfold tallyBegin
  have := @Keeps.update; have := @Keeps.foldl; have := @tallyChain_keeps; have := @tallyWalk_keeps; grind

theorem tallyStart_keeps {u : Nat} (h : Keeps k m₀ m) : Keeps k m₀ (tallyStart c m u) := by
  unfold tallyStart
  have := @Keeps.update; have := @tallyRefused_keeps; have := @askLeave_keeps; have := @tallyBegin_keeps; grind

theorem tallyCell_keeps {die : Nat} {e : Nat × Cell} (h : Keeps k m₀ m) : Keeps k m₀ (tallyCell c m die e) := by
  unfold tallyCell
  dsimp only
  split
  · exact Mach.setCell_keeps h
  · split
    · exact Mach.setCell_keeps h
    · have latched {p o : Nat} {s : Nat} : Keeps k m₀ (raise c (if (bump c m .tmgCnt die cTmgTallyLeak).stOn tmgTallyStatLeakValid die then
          bump c m .tmgCnt die cTmgTallyLeak else (((bump c m .tmgCnt die cTmgTallyLeak).setSt tmgTallyStatLeakValid 1 die).setSt tmgTallyLeakPtrPtr p die).setSt
          tmgTallyLeakPtrOwner o die) 14 die s) :=
        raise_keeps (Keeps.ite (bump_keeps h) (Mach.setSt_keeps (Mach.setSt_keeps (Mach.setSt_keeps (bump_keeps h)))))
      exact Keeps.ite (pushCell_keeps (bump_keeps latched)) (Mach.setCell_keeps latched)

theorem tallyMark_keeps {p : Nat} {x y : Page} (h : Keeps k m₀ m) : Keeps k m₀ (tallyMark m p x y) := by
  unfold tallyMark
  have := @Keeps.update; have := @Mach.putPage_keeps; have := @Mach.setPage_keeps; grind

theorem tallyPage_keeps {e : Nat × Page} (h : Keeps k m₀ m) : Keeps k m₀ (tallyPage c m e) := by
  unfold tallyPage
  have := @Keeps.update; have := @bump_keeps; have := @raise_keeps; have := @tallyMark_keeps; have := @Mach.setPage_keeps; have := @pageError_keeps
  have := @endChain_keeps; grind

theorem tallyDone_keeps {u : Nat} (h : Keeps k m₀ m) : Keeps k m₀ (tallyDone c m u) := by
  unfold tallyDone
  have := @Keeps.update; have := @Keeps.foldl; have := @tallyPage_keeps; have := @raise_keeps; have := @Mach.setSt_keeps; have := @tallyCell_keeps
  have := @releaseLeave_keeps; grind

theorem scrubDue_keeps {stack : Nat} (h : Keeps k m₀ m) : Keeps k m₀ (scrubDue c m stack) := by
  unfold scrubDue
  have := @Keeps.update; have := @askLeave_keeps; grind

theorem dumpLeave_keeps {s : Nat} (h : Keeps k m₀ m) : Keeps k m₀ (dumpLeave c m s) := by
  unfold dumpLeave
  have := @leaveRefused_keeps; have := @askLeave_keeps; have := @dropLeave_keeps; have := @releaseLeave_keeps; grind

theorem dumpLatch_keeps {s : Nat} (h : Keeps k m₀ m) : Keeps k m₀ (dumpLatch c m s) := by
  unfold dumpLatch
  have := @Keeps.update; have := @Keeps.foldl; have := @sendBatch_keeps; have := @bump_keeps; have := @dumpLeave_keeps; have := @Mach.inc32_keeps
  grind

theorem tapIs_keeps {v : Bool} (h : Keeps k m₀ m) : Keeps k m₀ (tapIs c m v) := by
  unfold tapIs
  have := @Keeps.update; have := @healthDrive_keeps; grind

theorem thermtripPin_keeps (h : Keeps k m₀ m) : Keeps k m₀ (thermtripPin c m) := by
  unfold thermtripPin
  have := @Keeps.update; have := @thermAlert_keeps; have := @thermTrip_keeps; grind

theorem bankClocks_keeps (h : Keeps k m₀ m) : Keeps k m₀ (bankClocks c m) := by
  unfold bankClocks
  have := @Keeps.foldl; have := @pmcEvent_keeps; grind

theorem countGated_keeps (h : Keeps k m₀ m) : Keeps k m₀ (countGated c m) := by
  unfold countGated
  have := @Keeps.update; have := @Keeps.foldl; grind

theorem coreClocks_keeps (h : Keeps k m₀ m) : Keeps k m₀ (coreClocks c m) := by
  unfold coreClocks
  have := @Keeps.foldl; have := @bump_keeps; grind

theorem heldClocks_keeps (h : Keeps k m₀ m) : Keeps k m₀ (heldClocks c m) := by
  unfold heldClocks
  have := @bump_keeps; grind

theorem coresRetire_keeps (h : Keeps k m₀ m) : Keeps k m₀ (coresRetire c m) := by
  unfold coresRetire
  have := @Keeps.foldl; have := @Mach.draw_keeps; have := @retireMany_keeps; grind

/-- A tick keeps the order, time going on. -/
theorem auxTick_ordered (o : m.Ordered) : (auxTick c m).Ordered := by
  unfold auxTick
  extract_lets m₁
  have later : m₁.Ordered := { o with }
  exact (healthRelease_keeps (healthDrive_keeps (heldClocks_keeps (coresRetire_keeps (coreClocks_keeps (bankClocks_keeps (countGated_keeps
    (k := False) (.refl m₁)))))))).ordered later

end Sys2Proof.Machine

/-! The steps that act on configuration and machine keep the machine's order, and so does every command. -/
namespace Sys2Proof.Machine
variable {m₀ m : Mach}

theorem rising_keep {α : Type} {t : Tbl α} {p : Nat → α → Bool} (h : Tbl.rising t = true) : Tbl.rising (Tbl.keep t p) = true := by
  induction t with
  | nil => rfl
  | cons e t ih =>
    obtain ⟨i, x⟩ := e
    rw [Tbl.rising_cons] at h
    unfold Tbl.keep at ih ⊢
    rw [List.filter_cons]
    split
    · exact (Tbl.rising_cons ..).mpr ⟨fun e mem => h.1 e (List.mem_filter.mp mem).1, ih h.2⟩
    · exact ih h.2

/-- A machine with few tables left: those of a reset or a restart. -/
theorem Mach.ordered_begun {stat : Tbl Word} {ports : Tbl HostPort} {glb : GlbSt} {flt : FltSt} {tmg : TmgSt} {tod : TodSt} {pwr : PwrSt} {sec : SecSt}
    {due : List (Nat × Nat)} {up free : Nat} {out : List Output} (hstat : Tbl.rising stat = true) (hports : Tbl.rising ports = true)
    (htag : Tbl.rising sec.nv.tag = true) : Mach.Ordered { glb, reg := { stat }, flt, hif := { ports }, tmg, tod, pwr, sec, fwd := { fdbDue := due }, up, free, out } := by
  constructor
  case active | shadow => exact ⟨rfl, rfl, rfl, rfl, rfl⟩
  case admin => exact fun _ => rfl
  case stat => exact hstat
  case ports => exact hports
  case tag => exact htag
  all_goals rfl

variable {d : Dev} (h : Keeps False m₀ d.m)
include h

omit h in
theorem Keeps.iteDev {p : Prop} [Decidable p] {a b : Dev} (ha : Keeps False m₀ a.m) (hb : Keeps False m₀ b.m) : Keeps False m₀ (if p then a else b).m := by
  split
  · exact ha
  · exact hb

omit h in
theorem resetDev_ordered (o : d.m.Ordered) : (resetDev d).m.Ordered := Mach.ordered_begun rfl rfl o.tag

theorem leaveReset_keeps : Keeps False m₀ (leaveReset d).m := by
  unfold leaveReset
  dsimp only
  split
  · exact drawBootId_keeps (h.tables rfl)
  · exact h

omit h in
theorem pwrgoodIs_ordered {v : Bool} (o : d.m.Ordered) : (pwrgoodIs d v).m.Ordered := by
  unfold pwrgoodIs
  dsimp only
  split
  · exact (leaveReset_keeps (.refl _)).ordered { o with }
  · exact resetDev_ordered { o with }

omit h in
theorem resetNIs_ordered {v : Bool} (o : d.m.Ordered) : (resetNIs d v).m.Ordered := by
  unfold resetNIs
  dsimp only
  split
  · exact (leaveReset_keeps (.refl _)).ordered { o with }
  · exact resetDev_ordered { o with }

theorem portEnable_keeps {q g p : Nat} : Keeps False m₀ (portEnable d q g p).m := by
  unfold portEnable
  split
  · exact h
  · split
    · exact refuse_keeps h
    · exact h

theorem copyBanks_keeps : Keeps False m₀ (copyBanks d).m :=
  h.of_order fun o => { o with shadow := o.active }

theorem bankCopied_keeps : Keeps False m₀ (bankCopied d).m := by
  unfold bankCopied
  split
  · exact (copyBanks_keeps h).tables rfl
  · exact h

theorem commitDiscard_keeps : Keeps False m₀ (commitDiscard d).m := by
  unfold commitDiscard
  split
  · exact setResult_keeps (copyBanks_keeps h)
  · exact setResult_keeps h

theorem turnBoundary_keeps : Keeps False m₀ (turnBoundary d).m := by
  unfold turnBoundary
  dsimp only
  split
  · exact newTree_keeps (setMeas_keeps (h.of_order fun o => { o with active := o.shadow }))
  · exact h

theorem todStepped_keeps : Keeps False m₀ (todStepped d).m := by
  unfold todStepped
  dsimp only
  split
  · exact turnBoundary_keeps (Keeps.foldl (fun m e h => gateShow_keeps (gateChange_keeps h)) (todApply_keeps h))
  · exact todApply_keeps h

theorem restarted_keeps : Keeps False m₀ (restarted d).m := by
  have held : Keeps False m₀ (finishHeld d.cfg (holdOutputs d.cfg d.m)) := finishHeld_keeps (holdOutputs_keeps h)
  unfold restarted
  dsimp only
  generalize finishHeld d.cfg (holdOutputs d.cfg d.m) = m at held ⊢
  refine drawBootId_keeps (held.of_order fun o => Mach.ordered_begun (rising_keep o.stat) ?_ o.tag)
  exact rising_map (f := fun p : HostPort => { p with adminErr := 0 }) o.ports

theorem restartWrite_keeps {key : Nat} : Keeps False m₀ (restartWrite d key).m := by
  unfold restartWrite
  split
  · exact h
  · split
    · exact Mach.setSt_keeps h
    · exact restarted_keeps h

theorem atParser_keeps {f : Cfg → Mach → Mach} (hf : ∀ c m, Keeps False m₀ m → Keeps False m₀ (f c m)) : Keeps False m₀ (atParser d f).m :=
  hf _ _ (turnBoundary_keeps h)

theorem settleDev_keeps : Keeps False m₀ (settleDev d).m := settle_keeps h

theorem writeHook_keeps {c : Cfg} {m₁ : Mach} {q : Nat} {x : Half} : Keeps False m₀ (writeHook c m₁ q x d).m := by
  unfold writeHook
  extract_lets m c' on sets clears mk rate
  have pps {p : Prop} [Decidable p] {m : Mach} {b : Bool} (h : Keeps False m₀ m) : Keeps False m₀ (if p then m else { m with tod := { m.tod with aligned := b } }) :=
    Keeps.ite h (h.tables rfl)
  have rated {n : Node} {a b : Option Nat} : Keeps False m₀ (rate n a b).m := rateWrite_keeps h
  split
  · exact sealWrite_keeps h
  · exact restartWrite_keeps h
  · exact Keeps.iteDev (commitGo_keeps h) (Keeps.iteDev (commitDiscard_keeps h) h)
  · exact Keeps.iteDev (firstClear_keeps h) h
  · exact fltAck_keeps h
  · exact h.tables rfl
  · exact Keeps.iteDev (restoreGo_keeps h) h
  · exact healthDrive_keeps h
  · exact Keeps.ite (deferTimeout_keeps h) h
  · exact Keeps.ite (tallyOn_keeps h) h
  · exact Keeps.ite (tallyOn_keeps h) h
  · have stepped : Keeps False m₀ (if on todCtrlStep then todStep c' m else m) := Keeps.ite (todStep_keeps h) h
    exact pps (Keeps.ite (todOffset_keeps stepped) stepped)
  · have changed : Keeps False m₀ (roleChanged c' m) := roleChanged_keeps h
    simpa only [mk] using changed
  · exact Keeps.ite (adminEnable_keeps h) (Keeps.ite (ringDestroy_keeps h) h)
  · exact drainEvents_keeps h
  · exact sendPending_keeps h
  · exact dumpEnable_keeps h
  · exact Keeps.iteDev (portEnable_keeps h) (Keeps.iteDev (cutTx_keeps h) h)
  · exact Keeps.ite (setReady_keeps h) (Keeps.ite (saInstalled_keeps h) h)
  · exact Keeps.ite (bulkGo_keeps h) h
  · exact puntAccrue_keeps h
  · have drained : Keeps False m₀ (if on pplCtrlDrain then m.setSt pplCtrlDrain 1 x.i else m) := Keeps.ite (Mach.setSt_keeps h) h
    exact Keeps.ite (Mach.setSt_keeps drained) drained
  · exact rated
  · exact rated
  · exact rated
  · exact rated
  · exact rated
  · exact rated
  · exact rated
  · exact rated
  · have cancelled : Keeps False m₀ (if x.val schGateCtrlGateEn = 0 then gateCancel m (128 * x.i + x.j) else m) := Keeps.ite (gateCancel_keeps h) h
    exact Keeps.ite (gateConfigChange_keeps cancelled) cancelled
  · exact Keeps.ite (sampleOn_keeps h) h
  · have rebuilt : Keeps False m₀ (if on fslCtrlRebuild then sliceWant c' m x.i .rebuild else m) := Keeps.ite (sliceWant_keeps h) h
    exact Keeps.ite (sliceWant_keeps rebuilt) rebuilt
  · exact Keeps.ite (storeOn_keeps h) (Keeps.ite (storeOff_keeps h) h)
  · exact Keeps.ite (h.tables rfl) h
  · exact Keeps.ite (takeoverGo_keeps h) h
  · exact Keeps.ite (ipfixTemplates_keeps (h.tables rfl)) h
  · have reviewed : Keeps False m₀ (if sets duoCtrlYield then leaseCheck c' m else m) := Keeps.ite (leaseCheck_keeps h) h
    have begun : Keeps False m₀ (if on duoCtrlDigestNow then roundsFrom c' (if sets duoCtrlYield then leaseCheck c' m else m) fun _ => true
        else if sets duoCtrlYield then leaseCheck c' m else m) := Keeps.ite (roundsFrom_keeps reviewed) reviewed
    simpa only [mk] using begun
  · have reviewed : Keeps False m₀ (leaseCheck c' m) := leaseCheck_keeps h
    simpa only [mk] using reviewed
  · exact Keeps.ite (coreReset_keeps h) (Keeps.ite (notifyReady_keeps (coreRunStart_keeps h)) (Keeps.ite (coreStopped_keeps (coreRunStop_keeps h)) h))
  · exact notifyReady_keeps h
  · exact notifyReady_keeps h
  · exact notifyReady_keeps h
  · exact h

theorem applyWrite_keeps {q off : Nat} {v : Word} : Keeps False m₀ (applyWrite d q off v).m := by
  unfold applyWrite
  refine Keeps.iteDev h ?_
  split
  · exact h
  · next x found =>
    refine Keeps.iteDev h (Keeps.iteDev (h.of_order fun o => { o with loHeld := Tbl.rising_ins _ _ _ o.loHeld }) ?_)
    extract_lets c hs source g m c'  m'
    have used : Keeps False m₀ m := by
      unfold m
      split
      · exact h.of_order fun o => { o with loHeld := Tbl.rising_del _ _ o.loHeld }
      · exact h
    split
    · exact refuse_keeps used
    · have stored : Keeps False m₀ m' := Keeps.foldl (fun m x h => storeStat_keeps (noteWrote_keeps h))
        (countWrite_keeps (Keeps.foldl (fun m x h => clearStat_keeps h) used))
      have hooked (l : List Half) (d : Dev) (h : Keeps False m₀ d.m) : Keeps False m₀ (l.foldl (fun d x => writeHook c m q x d) d).m := by
        induction l generalizing d with
        | nil => exact h
        | cons x l ih => exact ih _ (writeHook_keeps h)
      exact hooked hs _ stored

theorem regWrite_keeps {q : Requester} {off : Nat} {v : Word} : Keeps False m₀ (regWrite d q off v).m :=
  Keeps.iteDev h (Keeps.iteDev (countDenied_keeps h) (Keeps.iteDev (holdWrite_keeps h) (settleDev_keeps (applyWrite_keeps h))))

theorem fieldWrite_keeps {q : Requester} {xs : List (Fld × Nat)} {i j n : Nat} : Keeps False m₀ (fieldWrite d q xs i j n).m := by
  unfold fieldWrite
  split
  · exact h
  · exact regWrite_keeps h

theorem resumeHeld_keeps : Keeps False m₀ (resumeHeld d).m := by
  unfold resumeHeld
  extract_lets wait keep
  have resumed (l : List HeldOp) (d : Dev) (h : Keeps False m₀ d.m) : Keeps False m₀ (l.foldl (fun (d : Dev) x => match x with
      | .write q off v => if waitsForSeal d.m off then { d with m := holdWrite d.m x } else applyWrite d (reqNum q) off v
      | .cmd op o slot q => if mustHold d.m op then keep d x else { d with m := cmdResume d.cfg d.m op o slot q }) d).m := by
    induction l generalizing d with
    | nil => exact h
    | cons x l ih =>
      refine ih _ ?_
      cases x with
      | write q off v => exact Keeps.iteDev (holdWrite_keeps h) (applyWrite_keeps h)
      | cmd op o slot q => exact Keeps.iteDev (h.tables rfl) (cmdResume_keeps h)
  exact settleDev_keeps (resumed wait _ (h.tables rfl))

theorem sealDone_keeps : Keeps False m₀ (sealDone d).m :=
  Keeps.iteDev (resumeHeld_keeps (d := { d with m := sealChecked d.cfg d.m }) (sealChecked_keeps h)) (sealChecked_keeps h)

theorem copyEnds_keeps : Keeps False m₀ (copyEnds d).m := Keeps.iteDev (resumeHeld_keeps (bankCopied_keeps h)) h

theorem tickProcess_keeps {hs : List Hazard} {inj : List (BitVec 32 × BitVec 32)} : Keeps False m₀ (tickProcess d hs inj).m := by
  have ticked : Keeps False m₀ (faultTick d.cfg d.m hs inj) := faultTick_keeps h
  exact Keeps.iteDev (resumeHeld_keeps (d := { d with m := faultTick d.cfg d.m hs inj }) ticked) (settleDev_keeps (d := { d with m := faultTick d.cfg d.m hs inj }) ticked)

end Sys2Proof.Machine

/-! Every command keeps the machine's order. -/
namespace Sys2Proof.Machine
variable {s : State}

/-- The outcome is a state whose machine is in order where the one before is. -/
def Leads (m₀ : Mach) (o : Outcome) : Prop := ∃ t, o = .next t ∧ (m₀.Ordered → t.dev.m.Ordered)

theorem leads_of_ite {t : State} (kept : Keeps False s.dev.m t.dev.m) : Leads s.dev.m (.next (if s.dev.m.glb.inReset then s else t)) := by
  refine ⟨_, rfl, ?_⟩
  split
  · exact id
  · exact kept.ordered

theorem leads_of_settle {f : Cfg → Mach → Mach} (kept : Keeps False s.dev.m (f s.dev.cfg s.dev.m)) : Leads s.dev.m (s.onSettle f) :=
  leads_of_ite (settle_keeps kept)

theorem leads_of_fieldWrite {q : Requester} {xs : List (Fld × Nat)} {i j n : Nat} : Leads s.dev.m (s.onWrite q fun d => fieldWrite d q xs i j n) :=
  leads_of_ite (.iteDev (fieldWrite_keeps (.refl _)) (.refl _))

theorem leads_of_regWrite {q : Requester} {off : Nat} {v : Word} : Leads s.dev.m (s.onWrite q fun d => regWrite d q off v) :=
  leads_of_ite (.iteDev (regWrite_keeps (.refl _)) (.refl _))

theorem leads_of_ringCmd {r : Fin 16384} {opc : Nat} {q : Cmd} : Leads s.dev.m (s.onSettle fun c m => ringCmd c m r opc q) :=
  leads_of_ite (settle_keeps (ringCmd_keeps (.refl _)))

theorem leads_of_read {q : Requester} {off : Nat} : Leads s.dev.m (s.onRead q off) :=
  leads_of_ite (.ite (regRead_keeps (.refl _)) (.refl _))

theorem leads_of_port {core : Nat} {acc : CoreAcc} {off : Nat} {f : Cfg → Mach → Mach} (kept : Keeps False s.dev.m (f s.dev.cfg s.dev.m)) :
    Leads s.dev.m (s.onPort core acc off f) :=
  leads_of_ite (.ite (.ite kept (retire_keeps kept)) (.refl _))

theorem leads_of_recordMsg {p type : Nat} : Leads s.dev.m (s.onSettle fun c m => recordMsg c m p type) :=
  leads_of_settle (f := fun c m => recordMsg c m p type) (recordMsg_keeps (.refl _))

theorem leads_of_reconcile {p : Fin 8} : Leads s.dev.m (s.onSettle fun c m => reconcileRx c m p) :=
  leads_of_settle (f := fun c m => reconcileRx c m p) (reconcileRx_keeps (.refl _))

theorem leads_of_powerState {p : Nat} {d3 bme : Bool} {pme : PmeWrite} {msix : MsixWrite} :
    Leads s.dev.m (s.onSettle fun c m => powerState c m p d3 bme pme msix) :=
  leads_of_settle (f := fun c m => powerState c m p d3 bme pme msix) (powerState_keeps (.refl _))

theorem leads_of_functionReset {p : Nat} {hot : Bool} : Leads s.dev.m (s.onSettle fun c m => functionReset c m p hot) :=
  leads_of_settle (f := fun c m => functionReset c m p hot) (functionReset_keeps (.refl _))

theorem leads_of_dataRead {r : Fin 16384} {x : HostRead} : Leads s.dev.m (s.onSettle fun c m => dataReadDone c m r x) :=
  leads_of_settle (f := fun c m => dataReadDone c m r x) (dataReadDone_keeps (.refl _))

theorem leads_of_leave {f : Cfg → Mach → Mach} (kept : Keeps False s.dev.m (f s.dev.cfg s.dev.m)) :
    Leads s.dev.m (s.on fun c m => leaveGoesOn c (f c m)) :=
  leads_of_ite (leaveGoesOn_keeps kept)

theorem leads_of_tally {u : Nat} : Leads s.dev.m (s.on fun c m => leaveGoesOn c (tallyDone c m u)) :=
  leads_of_leave (f := fun c m => tallyDone c m u) (tallyDone_keeps (.refl _))

theorem leads_of_release {op u : Nat} : Leads s.dev.m (s.on fun c m => leaveGoesOn c (releaseLeave c m op u)) :=
  leads_of_leave (f := fun c m => releaseLeave c m op u) (releaseLeave_keeps (.refl _))

theorem leads_of_eval : Leads s.dev.m (s.on fun c m => leaveGoesOn c (leaveEval c m)) :=
  leads_of_leave (f := leaveEval) (leaveEval_keeps (.refl _))

theorem leads_of_deferTimeout : Leads s.dev.m (s.on deferTimeout) :=
  leads_of_ite (t := s.withM (deferTimeout s.dev.cfg s.dev.m)) (deferTimeout_keeps (.refl _))

/-- Every command keeps the machine's order. -/
theorem exec_leads (i : Instr) (s : State) : Leads s.dev.m (exec i s) := by
  cases i with
  | rootPllUnlock => exact leads_of_ite (rootUnlock_keeps (.refl _))
  | familyPllUnlock => exact leads_of_ite (familyUnlock_keeps (.refl _))
  | ppsInEdge => exact leads_of_ite (ppsEdge_keeps (.refl _))
  | ppsMissingTimeout => exact leads_of_ite (ppsMissing_keeps (.refl _))
  | ppsOutRise => exact leads_of_ite (ppsRise_keeps (.refl _))
  | ppsOutFall => exact leads_of_ite (ppsFall_keeps (.refl _))
  | i2c1Alert => exact leads_of_ite (Mach.emit_keeps (.refl _))
  | i2c0Read => exact leads_of_ite (i2cRead_keeps (.refl _))
  | thermalSensorRead => exact leads_of_ite (leaveGoesOn_keeps (sensorsRead_keeps (.refl _)))
  | railTelemetryRead => exact leads_of_ite (leaveGoesOn_keeps (railsRead_keeps (.refl _)))
  | loaderVerified => exact leads_of_ite (loaderVerified_keeps (.refl _))
  | imageVerified => exact leads_of_ite (imageVerified_keeps (.refl _))
  | hbmTrainingDone => exact leads_of_ite (hbmTrained_keeps (.refl _))
  | serdesCalibrationDone => exact leads_of_ite (serdesCalibrated_keeps (.refl _))
  | rngSeedTimeout => exact leads_of_ite (rngTimeout_keeps (.refl _))
  | drbgReseed => exact leads_of_ite (drbgReseed_keeps (.refl _))
  | turnDrainDone => exact leads_of_ite (turnDrained_keeps (.refl _))
  | primaryMove => exact leads_of_ite (primaryMove_keeps (.refl _))
  | fstClearDone => exact leads_of_ite (storeReady_keeps (.refl _))
  | gateChangeTime => exact leads_of_ite (gateChange_keeps (.refl _))
  | gateIntervalExpiry | gateCycleStart => exact leads_of_ite (gateShow_keeps (.refl _))
  | todReplicaCorrect => exact leads_of_ite (replicaCorrect_keeps (.refl _))
  | mscSaReady => exact leads_of_ite (saReady_keeps (.refl _))
  | coreStopped => exact leads_of_ite (coreStopped_keeps (.refl _))
  | doorbell | doorbellInval | doorbellArm => exact leads_of_ite (.ite (doorbellWrite_keeps (.refl _)) (.refl _))
  | pollTailRead => exact leads_of_ite (pollTail_keeps (.refl _))
  | descFetchDone => exact leads_of_ite (fetchDone_keeps (.refl _))
  | modTimeExpiry => exact leads_of_ite (modExpiry_keeps (.refl _))
  | l1ExitStart => exact leads_of_ite (l1Exit_keeps (.refl _))
  | txpFrameAdmit => exact leads_of_ite (txpAdmit_keeps (.refl _))
  | rxpDeliver => exact leads_of_ite (bufferDeliver_keeps (.refl _))
  | hostDmaRetry => exact leads_of_ite (hostRetry_keeps (.refl _))
  | workItemAdmit => exact leads_of_ite (admitFrom_keeps (.refl _))
  | outputRelease => exact leads_of_ite (release_keeps (.refl _))
  | svcTimeout => exact leads_of_ite (svcTimeout_keeps (.refl _))
  | ctTailArrival => exact leads_of_ite (tailArrival_keeps (.refl _))
  | flowResponse => exact leads_of_ite (flowResponse_keeps (.refl _))
  | holdTimeout => exact leads_of_ite (holdTimeout_keeps (.refl _))
  | puntTransfer => exact leads_of_ite (puntTransfer_keeps (.refl _))
  | crossDieArrival => exact leads_of_ite (.ite (crossDrop_keeps (.refl _)) (crossDie_keeps (.refl _)))
  | parkRelease => exact leads_of_ite (parkRelease_keeps (.refl _))
  | dequeueSelect => exact leads_of_ite (dequeueSelect_keeps (.refl _))
  | frameTxDone => exact leads_of_ite (txDone_keeps (.refl _))
  | mcastRelease => exact leads_of_ite (takeRelease_keeps (.refl _))
  | spillWrite => exact leads_of_ite (spillWrite_keeps (.refl _))
  | pageReturn => exact leads_of_ite (pageReturn_keeps (.refl _))
  | pageQueueRefill => exact leads_of_ite (refillPages_keeps (.refl _))
  | tallyPassStart | pageTallyStart => exact leads_of_ite (tallyStart_keeps (.refl _))
  | tallyPassDone | pageTallyDone => exact leads_of_tally
  | learnProcess => exact leads_of_ite (learnOne_keeps (.refl _))
  | fdbAgeTick => exact leads_of_ite (fdbTick_keeps (.refl _))
  | writebackHoldExpiry => exact leads_of_ite (wbExpire_keeps (.refl _))
  | ageTick => exact leads_of_ite (ageTick_keeps (.refl _))
  | helloSend => exact leads_of_ite (helloSend_keeps (.refl _))
  | syncFrameRx => exact leads_of_ite (.ite (syncFrameRx_keeps (.refl _)) (.refl _))
  | steerMsgRx => exact leads_of_ite (steerMsgRx_keeps (.refl _))
  | syncFrameTx => exact leads_of_ite (syncFrameTx_keeps (.refl _))
  | ackSend => exact leads_of_ite (ackSend_keeps (.refl _))
  | retxTimeout => exact leads_of_ite (retxTimeout_keeps (.refl _))
  | strictWaitExpiry => exact leads_of_ite (strictExpiry_keeps (.refl _))
  | mirrorRetry => exact leads_of_ite (mirrorRetry_keeps (.refl _))
  | quietTimerExpiry => exact leads_of_ite (quietExpiry_keeps (.refl _))
  | healthToggle => exact leads_of_ite (healthToggle_keeps (.refl _))
  | heavyOpRequest => exact leads_of_ite (heavyRequest_keeps (.refl _))
  | heavyOpRelease | scrubPassEnd => exact leads_of_release
  | governorEval => exact leads_of_eval
  | deferTimeout => exact leads_of_deferTimeout
  | scrubPassDue => exact leads_of_ite (scrubDue_keeps (.refl _))
  | latencySampleWalk => exact leads_of_ite (sampleWalk_keeps (.refl _))
  | traceBatchFlush => exact leads_of_ite (traceExpiry_keeps (.refl _))
  | d2dLinkTrainingDone => exact leads_of_ite (d2dTrained_keeps (.refl _))
  | hostLinkUp => exact leads_of_ite (linkUp_keeps (.refl _))
  | linkL0Return => exact leads_of_ite (linkL0_keeps (.refl _))
  | healthLowHoldExpiry => exact leads_of_ite (healthRelease_keeps (.refl _))
  | pciePerstAssert | hostFunctionReset => exact leads_of_functionReset
  | rngFirstSeed => exact leads_of_ite (settle_keeps (rngSeeded_keeps (.refl _)))
  | restartComplete => exact leads_of_ite (settle_keeps (restartDone_keeps (.refl _)))
  | stashImageLoaded => exact leads_of_ite (settle_keeps (imageLoaded_keeps (.refl _)))
  | takeoverWritebackDone => exact leads_of_ite (settle_keeps (takeoverEnd_keeps (.refl _)))
  | mscBulkPrepareDone => exact leads_of_ite (settle_keeps (bulkDone_keeps (.refl _)))
  | restoreSelftestDone => exact leads_of_ite (settle_keeps (restoreDone_keeps (.refl _)))
  | dataReadDone => exact leads_of_dataRead
  | hostLinkDown => exact leads_of_ite (settle_keeps (linkDown_keeps (.refl _)))
  | hostPowerStateChange => exact leads_of_powerState
  | cmdNop | ringCreate | ringDestroy | ringQuery | flowInsert | flowModify | flowDelete | flowQuery | natPoolSet | natPortFree | beGroupSet |
  beSlotSet | backendSet | progLoad | tmplSet | parseSet | clsSet | fdbSet | fdbDelete | fdbQuery | fdbFlush | bdSet | lpmAdd | lpmDelete | nhSet |
  ecmpGroupSet | ecmpMemberSet | ecmpMemberDown | ecmpMemberUp | subSet | subQuery | policerSet | policerQuery | gclSet | steerSet | steerQuery |
  promote | coreLoad | attest | tagWrite | ownerEnrol => exact leads_of_ringCmd
  | keyTreeGenDone => exact leads_of_ite (settle_keeps (treeDone_keeps (.refl _)))
  | clusterCmdSubmit => exact leads_of_ite (settle_keeps (coreCmd_keeps (.refl _)))
  | sliceRequest => exact leads_of_ite (settle_keeps (sliceRequest_keeps (.refl _)))
  | hbmBucketReadDone => exact leads_of_ite (settle_keeps (bucketRead_keeps (.refl _)))
  | recordMove => exact leads_of_ite (settle_keeps (recordMove_keeps (.refl _)))
  | stashRetry => exact leads_of_ite (settle_keeps (stashRetry_keeps (.refl _)))
  | writebackApply => exact leads_of_ite (settle_keeps (wbApply_keeps (.refl _)))
  | guardLapse => exact leads_of_ite (settle_keeps (guardLapse_keeps (.refl _)))
  | companionInsert => exact leads_of_ite (settle_keeps (companionInsert_keeps (.refl _)))
  | companionDeleteConfirm => exact leads_of_ite (settle_keeps (companionDelete_keeps (.refl _)))
  | natQueueRefill pool =>
    have kept : Keeps False s.dev.m (retryNat s.dev.cfg (natRefill s.dev.m pool)) := retryNat_keeps (natRefill_keeps (.refl _))
    exact leads_of_settle (f := fun c m => retryNat c (natRefill m pool)) kept
  | sweepDue => exact leads_of_ite (settle_keeps (sweepDue_keeps (.refl _)))
  | sweepPassStart => exact leads_of_ite (settle_keeps (sweepStart_keeps (.refl _)))
  | ageOut => exact leads_of_ite (settle_keeps (ageOut_keeps (.refl _)))
  | sweepPassEnd => exact leads_of_ite (settle_keeps (sweepPassEnd_keeps (.refl _)))
  | helloRx => exact leads_of_ite (settle_keeps (helloMsgRx_keeps (.refl _)))
  | recUpdateRx | recDeleteRx | ctrDeltaRx | bulkRx => exact leads_of_recordMsg
  | ackRx => exact leads_of_ite (settle_keeps (ackRx_keeps (.refl _)))
  | reconcileRx => exact leads_of_reconcile
  | leaseCheck =>
    have kept : Keeps False s.dev.m (leaseCheck s.dev.cfg s.dev.m) := leaseCheck_keeps (.refl _)
    exact leads_of_settle (f := leaseCheck) kept
  | digestPeriodExpiry => exact leads_of_ite (settle_keeps (digestPeriod_keeps (.refl _)))
  | linkRetrainFail => exact leads_of_ite (settle_keeps (linkEventRx_keeps (.refl _)))
  | pcCopyDone => exact leads_of_ite (settle_keeps (copyDone_keeps (.refl _)))
  | dumpLatch => exact leads_of_ite (settle_keeps (dumpLatch_keeps (.refl _)))
  | sweeperVisit => exact leads_of_ite (settle_keeps (sweeperVisit_keeps (.refl _)))
  | workGet core => exact leads_of_port (f := fun c m => workGet c m core) (workGet_keeps (.refl _))
  | workArm core v => exact leads_of_port (f := fun c m => workArm c m core v.toNat) (workArm_keeps (.refl _))
  | workDoneDrop core slot reserved => exact leads_of_port (f := fun c m => workDrop c m core slot reserved) (workDrop_keeps (.refl _))
  | workDoneInject core slot v held => exact leads_of_port (f := fun c m => workInject c m core slot v.toNat held) (workInject_keeps (.refl _))
  | workDoneDeliver core slot v held => exact leads_of_port (f := fun c m => workDeliver c m core slot v.toNat held) (workDeliver_keeps (.refl _))
  | workDoneForward core slot v => exact leads_of_port (f := fun c m => workForward c m core slot v.toNat) (workForward_keeps (.refl _))
  | workBufAlloc core => exact leads_of_port (f := fun _ m => bufAlloc m core) (bufAlloc_keeps (.refl _))
  | workBufFree core v => exact leads_of_port (f := fun c m => bufFree c m core v.toNat) (bufFree_keeps (.refl _))
  | workPostGo core staged held => exact leads_of_port (f := fun c m => postGo c m core staged held) (postGo_keeps (.refl _))
  | regWriteHiApply | shaperRateWrite | shaperBurstWrite | fltInjectWrite => exact leads_of_regWrite
  | sealWrite | restartWrite | turnCommitGo | turnDiscard | portRoleWrite | adminRingEnable | adminRingDisable | fstEnable | fstDisable |
  fstTakeoverGo | fslRebuild | fslSweepNow | pplDrain | portEnable | gateConfigChange | gateChangeCancel | todStep | todOffset | mscSaInUseSet |
  mscSaInUseClear | mscTxAnWrite | mscBulkGo | fltAckWrite | firstErrorClear | fltRestoreGo | digestNow | duoYieldWrite | coreRunStart | coreRunStop |
  coreReset => exact leads_of_fieldWrite
  | regReadClear | todNowRead => exact leads_of_read
  | pwrgoodRise | pwrgoodFall => exact ⟨_, rfl, pwrgoodIs_ordered⟩
  | resetNAssert | resetNRelease => exact ⟨_, rfl, resetNIs_ordered⟩
  | jtagTapActive | jtagTapReset => exact ⟨_, rfl, (tapIs_keeps (k := False) (.refl _)).ordered⟩
  | thermtripAssert => exact ⟨_, rfl, (thermtripPin_keeps (k := False) (.refl _)).ordered⟩
  | sealChecksDone => exact leads_of_ite (sealDone_keeps (.refl _))
  | turnBoundary => exact leads_of_ite (turnBoundary_keeps (.refl _))
  | bankCopyDone => exact leads_of_ite (copyEnds_keeps (.refl _))
  | todStepApply => exact leads_of_ite (todStepped_keeps (.refl _))
  | faultTickProcess => exact leads_of_ite (tickProcess_keeps (.refl _))
  | packetParse => exact leads_of_ite (atParser_keeps (.refl _) fun _ _ h => arbiterCycle_keeps h)
  | recircReenter => exact leads_of_ite (atParser_keeps (.refl _) fun _ _ h => recircReenter_keeps h)
  | regWrite => exact leads_of_ite (.iteDev (.iteDev (regWrite_keeps (.refl _)) (.refl _)) (.refl _))
  | regReadLoLatch =>
    change Leads _ (if _ then _ else _)
    split
    · exact leads_of_read
    · exact leads_of_ite (.ite (refusedRead_keeps (.refl _)) (.refl _))
  | frameArrival => exact leads_of_ite (.ite (frameArrival_keeps ((Keeps.refl _).rest rfl)) (frameArrival_keeps (.refl _)))
  | ipfixFlush => exact leads_of_ite (.ite (ipfixFlush_keeps (.refl _)) (.refl _))
  | ipfixTemplateRefresh => exact leads_of_ite (.ite (ipfixTemplates_keeps ((Keeps.refl _).rest rfl)) (.refl _))
  | steeredFrameRx => exact leads_of_ite (.ite (steeredFrameRx_keeps (.refl _)) (.refl _))
  | linkL1Entry => exact leads_of_ite (linkL1_keeps (.refl _))
  | steeringEntryRestore => exact leads_of_ite ((Keeps.refl _).rest rfl)
  | cmdReservedOpcode => exact leads_of_ite (settle_keeps (.ite (ringCmd_keeps (.refl _)) (.refl _)))

/-- Settles O3: every command keeps the machine's order, and so does a tick. -/
theorem stepKeepsTablesOrdered : Obligations.StepKeepsTablesOrdered := by
  unfold Obligations.StepKeepsTablesOrdered
  intro s t ordered stepped
  have kept : Leads s.dev.m (step s) := by
    unfold step
    split
    · have ticked : s.dev.m.Ordered → (auxTick s.dev.cfg s.dev.m).Ordered := auxTick_ordered
      refine ⟨idle s, rfl, ?_⟩
      unfold idle
      generalize auxTick s.dev.cfg s.dev.m = m at ticked
      split
      · exact id
      · exact ticked
    · exact exec_leads ..
  obtain ⟨t', e, kept⟩ := kept
  cases e.symm.trans stepped
  exact kept ordered

end Sys2Proof.Machine

/-! The TAP, the thermal pins, the PLLs, the sensors and the rails (R407, R437, R438, R442, R463). -/
namespace Sys2Proof.Machine

/-- A row that acts on a live device. -/
theorem State.next_live {s : State} (live : s.live) (t : State) : (.next (if s.dev.m.glb.inReset then s else t) : Outcome) = .next t := by
  rw [if_neg (by rw [show s.dev.m.glb.inReset = false from live]; decide)]

/-- A next state with another machine, and what holds of that machine. -/
theorem exists_withM {s : State} {o : Outcome} {m : Mach} {P : Mach → Prop} (row : o = .next (s.withM m)) (h : P m) :
    ∃ t, o = .next t ∧ t.conf = s.conf ∧ t.pending = s.pending ∧ P t.mach := ⟨_, row, rfl, rfl, h⟩

/-- A report leaves all but registers and the reports on their way. -/
theorem raise_pwr (c : Cfg) (m : Mach) (cls inst sev detail : Nat) : (raise c m cls inst sev detail).pwr = m.pwr := by
  obtain ⟨g, same⟩ := raise_frame c m cls inst sev detail
  rw [same]

/-! ### The thermal pins -/

theorem thermTrip_trip (c : Cfg) (m : Mach) : (thermTrip c m).pwr.trip = true := by
  unfold thermTrip
  dsimp only
  split
  · rfl
  · rw [raise_pwr]

theorem thermTrip_alert (c : Cfg) (m : Mach) : (thermTrip c m).pwr.alert = m.pwr.alert := by
  unfold thermTrip
  dsimp only
  split
  · rfl
  · rw [raise_pwr]

theorem thermAlert_alert (c : Cfg) (m : Mach) : (thermAlert c m).pwr.alert = true := by
  unfold thermAlert
  split
  · assumption
  · rw [raise_pwr]

theorem thermAlert_trip (c : Cfg) (m : Mach) : (thermAlert c m).pwr.trip = m.pwr.trip := by
  unfold thermAlert
  split
  · rfl
  · rw [raise_pwr]

/-- A pin that is low already raises nothing. -/
theorem thermAlert_of_low {c : Cfg} {m : Mach} (low : m.pwr.alert = true) : thermAlert c m = m := by
  simp [thermAlert, low]

theorem thermAlert_of_high {c : Cfg} {m : Mach} (high : m.pwr.alert = false) : ∃ g, thermAlert c m = { m with
    reg := g
    pwr := { m.pwr with alert := true }
    flt := { m.flt with waiting := m.flt.waiting ++ [reportOf m (srcOf 29 0) NOTE 0] } } := by
  obtain ⟨g, raised⟩ := raise_frame c { m with pwr := { m.pwr with alert := true } } 29 0 NOTE 0
  exact ⟨g, by simp only [thermAlert, high, Bool.false_eq_true, if_false, raised]; rfl⟩

theorem thermTrip_of_untold {c : Cfg} {m : Mach} (untold : m.pwr.tripTold = false) : ∃ g, thermTrip c m = { m with
    reg := g
    pwr := { m.pwr with trip := true, tripTold := true }
    flt := { m.flt with waiting := m.flt.waiting ++ [reportOf m (srcOf 29 1) FATAL 0] } } := by
  obtain ⟨g, raised⟩ := raise_frame c { m with pwr := { m.pwr with trip := true, tripTold := true } } 29 1 FATAL 0
  exact ⟨g, by simp only [thermTrip, untold, Bool.false_eq_true, if_false, raised]; rfl⟩

theorem thermTrip_of_told {c : Cfg} {m : Mach} (told : m.pwr.tripTold = true) : thermTrip c m = { m with pwr := { m.pwr with trip := true } } := by
  simp [thermTrip, told]

/-! ### The sensors -/

theorem showTemp_frame (m : Mach) (n : Nat) (x : SensorRead) : ∃ g, showTemp m n x = { m with reg := g } := by
  cases x
  case silent => exact setSt_frame ..
  all_goals exact reg_trans (setSt_frame ..) (setSt_frame ..)

/-- What a reading leaves before the pins are driven: registers and reports have moved. -/
theorem sensors_told (c : Cfg) (m : Mach) (l : List (Nat × SensorRead)) :
    (l.foldl (fun m e => if sensorBad e.2 then raise c m 29 3 DEGRADED e.1 else m) (l.foldl (fun m e => showTemp m e.1 e.2) m)).pwr = m.pwr := by
  have shown (l : List (Nat × SensorRead)) (m : Mach) : (l.foldl (fun m e => showTemp m e.1 e.2) m).pwr = m.pwr := by
    induction l generalizing m with
    | nil => rfl
    | cons e l ih =>
      obtain ⟨g, same⟩ := showTemp_frame m e.1 e.2
      rw [List.foldl_cons, ih, same]
  have raised (l : List (Nat × SensorRead)) (m : Mach) :
      (l.foldl (fun m e => if sensorBad e.2 then raise c m 29 3 DEGRADED e.1 else m) m).pwr = m.pwr := by
    induction l generalizing m with
    | nil => rfl
    | cons e l ih =>
      rw [List.foldl_cons, ih]
      split
      · exact raise_pwr ..
      · rfl
  rw [raised, shown]

/-- The readings by number, of which a full answer misses none. -/
theorem mem_readings {temps : List SensorRead} (full : temps.length = 14) (P : SensorRead → Prop) :
    (∀ e ∈ (List.range 14).map fun n => (n, temps.getD n .silent), P e.2) ↔ ∀ e ∈ temps, P e := by
  simp only [List.forall_mem_map, List.mem_range]
  constructor
  · intro all e mem
    obtain ⟨n, h, rfl⟩ := List.mem_iff_getElem.mp mem
    simpa [List.getD, List.getElem?_eq_getElem h] using all n (full ▸ h)
  · intro all n h
    rw [← full] at h
    simpa [List.getD, List.getElem?_eq_getElem h] using all _ (List.getElem_mem h)

section
variable {c : Cfg} {m : Mach} {temps : List SensorRead} (full : temps.length = 14)
include full

theorem any_readings (p : SensorRead → Bool) : (((List.range 14).map fun n => (n, temps.getD n .silent)).any fun e => p e.2) = temps.any p := by
  rw [Bool.eq_iff_iff, ← not_iff_not]
  simpa using mem_readings full fun e => p e = false

theorem all_readings (p : SensorRead → Bool) : (((List.range 14).map fun n => (n, temps.getD n .silent)).all fun e => p e.2) = temps.all p := by
  rw [Bool.eq_iff_iff]
  simpa using mem_readings full fun e => p e = true

/-- A reading drives the thermal pins by what the sensors count. -/
theorem sensorsRead_pwr : ∃ m', m'.pwr = m.pwr ∧ sensorsRead c m temps =
    (let m := if temps.any fun e => decide ((c.get pwrThermCfgAlert : Int) ≤ sensorCounts e) then thermAlert c m'
      else if temps.all fun e => decide (sensorCounts e < (c.get pwrThermCfgAlert : Int) - 3) then { m' with pwr := { m'.pwr with alert := false } } else m'
    if temps.any fun e => decide (115 ≤ sensorCounts e) then thermTrip c m else m) := by
  refine ⟨_, sensors_told c m ((List.range 14).map fun n => (n, temps.getD n .silent)), ?_⟩
  unfold sensorsRead
  simp only [← any_readings full, ← all_readings full]

end

/-! ### The PLLs -/

/-- A port group that stops leaves the global state and the time of day. -/
theorem stopGroups_still (c : Cfg) (m : Mach) : Still m ((List.range 32).foldl (stopGroup c) m) :=
  (Keeps.foldl (k := True) (fun _ _ h => stopGroup_keeps h) (.refl m)).still trivial

theorem holdOutputs_rootLost (c : Cfg) (m : Mach) : (holdOutputs c m).glb.rootLost = m.glb.rootLost := by
  have still := (stopGroups_still c m).glb
  unfold holdOutputs
  generalize (List.range 32).foldl (stopGroup c) m = m' at still ⊢
  rw [← still]

theorem familyUnlock_of_locked {c : Cfg} {m : Mach} {k : Nat} (locked : m.pwr.pllLost.getLsbD k = false) : ∃ g, familyUnlock c m k = { m with
    reg := g
    pwr := { m.pwr with pllLost := m.pwr.pllLost ||| BitVec.ofNat 6 (2 ^ k) }
    flt := { m.flt with waiting := m.flt.waiting ++ [reportOf m (srcOf 29 5) FATAL 0] } } := by
  obtain ⟨g, raised⟩ := raise_frame c { m with pwr := { m.pwr with pllLost := m.pwr.pllLost ||| BitVec.ofNat 6 (2 ^ k) } } 29 5 FATAL 0
  exact ⟨g, by simp only [familyUnlock, locked, Bool.false_eq_true, if_false, raised]; rfl⟩

/-! ### The rails -/

/-- The reading of a list of the rails' number is the list. -/
theorem range_getD {α : Type} {l : List α} {d : α} {n : Nat} (full : l.length = n) : (List.range n).map (fun i => l.getD i d) = l := by
  refine List.ext_getElem (by simp [full]) fun i h _ => ?_
  simp [show i < l.length by simpa [full] using h]

theorem railsRead_of_full {c : Cfg} {m : Mach} {rails : List Nat} (full : rails.length = 8) : railsRead c m (rails.map some) =
    { m with pwr := { m.pwr with railFail := false, base := (rails.sum + 499) / 500 - pipsOf m.pwr.grants } } := by
  have read : (List.range 8).map (fun n => (rails.map some).getD n none) = rails.map some := range_getD (by rw [List.length_map, full])
  have answered : (rails.map some).any (·.isNone) = false := by simp
  have values : (rails.map some).map (fun x => x.getD 0) = rails := by simp
  rw [railsRead, read]
  dsimp only
  rw [answered, values, if_neg (by decide)]
  rfl

theorem railsRead_of_missing {c : Cfg} {m : Mach} {rails : List (Option Nat)} (missing : ∃ r < 8, rails.getD r none = none) :
    railsRead c m rails = raise c { m with pwr := { m.pwr with railFail := true } } 29 4 DEGRADED := by
  obtain ⟨r, rail, absent⟩ := missing
  have unanswered : ((List.range 8).map fun n => rails.getD n none).any (·.isNone) = true :=
    List.any_eq_true.mpr ⟨_, List.mem_map.mpr ⟨r, List.mem_range.mpr rail, absent⟩, rfl⟩
  rw [railsRead]
  dsimp only
  rw [unanswered, if_pos rfl]

/-- Settles O9. -/
theorem pinsSensorsAndPllsAreFollowed : Obligations.PinsSensorsAndPllsAreFollowed := by
  unfold Obligations.PinsSensorsAndPllsAreFollowed
  have tap (s : State) (v : Bool) : (if v then exec .jtagTapActive s else exec .jtagTapReset s) = .next (s.withM (tapIs s.conf s.mach v)) := by
    cases v <;> rfl
  have trip (s : State) : exec .thermtripAssert s = .next (s.withM (thermtripPin s.conf s.mach)) := rfl
  have tripLive (s : State) (live : s.live) : exec .thermtripAssert s = .next (s.withM (thermTrip s.conf (thermAlert s.conf s.mach))) := by
    rw [trip, thermtripPin, show s.mach.glb.inReset = false from live]
    rfl
  have family (s : State) (k : Fin 6) (live : s.live) : exec (.familyPllUnlock k) s = .next (s.withM (familyUnlock s.conf s.mach k)) := State.next_live live _
  have moved (s : State) {m m' : Mach} (same : m = m') : (.next (s.withM m) : Outcome) = .next (s.withM m') := by rw [same]
  refine ⟨⟨fun s reset => ⟨?_, ?_, ?_⟩, fun s live => ⟨?_, ?_⟩, fun s live untold high => ?_, fun s live untold low => ?_, fun s live low told high => ?_,
    fun s live trips told low => ?_⟩, ⟨fun s k live locked => ?_, fun s k live lost => ?_, fun s live => ?_, fun s live => State.next_live live _⟩,
    fun s temps live => State.next_live live _, fun c m temps full => ?_, fun s rails live full => ?_, fun s rails live missing => ?_⟩
  · rw [show exec .jtagTapActive s = _ from tap s true, tapIs, show s.mach.glb.inReset = true from reset]
    rfl
  · rw [show exec .jtagTapReset s = _ from tap s false, tapIs, show s.mach.glb.inReset = true from reset]
    rfl
  · rw [trip, thermtripPin, show s.mach.glb.inReset = true from reset]
    rfl
  · rw [show exec .jtagTapActive s = _ from tap s true, tapIs, show s.mach.glb.inReset = false from live]
    rfl
  · rw [show exec .jtagTapReset s = _ from tap s false, tapIs, show s.mach.glb.inReset = false from live]
    rfl
  · obtain ⟨g, alerted⟩ := thermAlert_of_high (c := s.conf) high
    obtain ⟨g', tripped⟩ := thermTrip_of_untold (c := s.conf) (m := thermAlert s.conf s.mach) (by rw [alerted]; exact untold)
    rw [alerted] at tripped
    refine ⟨_, (tripLive s live).trans (moved s ((congrArg (thermTrip s.conf) alerted).trans tripped)), rfl, rfl, ?_⟩
    simp only [List.append_assoc, List.cons_append, List.nil_append]
    rfl
  · obtain ⟨g', tripped⟩ := thermTrip_of_untold (c := s.conf) untold
    exact ⟨_, (tripLive s live).trans (moved s ((congrArg (thermTrip s.conf) (thermAlert_of_low low)).trans tripped)), rfl, rfl, rfl⟩
  · obtain ⟨g, alerted⟩ := thermAlert_of_high (c := s.conf) high
    have tripped := thermTrip_of_told (c := s.conf) (m := thermAlert s.conf s.mach) (by rw [alerted]; exact told)
    rw [alerted] at tripped
    refine ⟨_, (tripLive s live).trans (moved s ((congrArg (thermTrip s.conf) alerted).trans tripped)), rfl, rfl, ?_⟩
    rw [← low]
    rfl
  · rw [tripLive s live, thermAlert_of_low low, thermTrip_of_told told, ← trips]
    rfl
  · obtain ⟨g, unlocked⟩ := familyUnlock_of_locked (c := s.conf) locked
    exact ⟨_, (family s k live).trans (moved s unlocked), rfl, rfl, rfl⟩
  · rw [family s k live, familyUnlock, lost]
    rfl
  · have row : exec .rootPllUnlock s = .next (s.withM (rootUnlock s.conf s.mach)) := State.next_live live _
    refine exists_withM (P := fun m => m = holdOutputs s.conf { s.mach with glb := { s.mach.glb with rootLost := true } } ∧
      m.glb.rootLost = true ∧ m.glb.outputs = false ∧ m.tod.ppsOut = false) row ⟨rfl, ?_, rfl, rfl⟩
    exact holdOutputs_rootLost ..
  · obtain ⟨m', same, read⟩ := sensorsRead_pwr (c := c) (m := m) full
    rw [read, ← same]
    simp only [List.any_eq_true, List.all_eq_true, decide_eq_true_eq]
    refine ⟨fun hot => ?_, fun cool => ?_, fun hot => ?_, fun cool => ?_⟩
    · rw [if_pos hot]
      split
      · rw [thermTrip_alert, thermAlert_alert]
      · exact thermAlert_alert ..
    · have below : ¬∃ e ∈ temps, (c.get pwrThermCfgAlert : Int) ≤ sensorCounts e := fun ⟨e, mem, hot⟩ => absurd (cool e mem).1 (by omega)
      have untripped : ¬∃ e ∈ temps, 115 ≤ sensorCounts e := fun ⟨e, mem, hot⟩ => absurd (cool e mem).2 (by omega)
      rw [if_neg below, if_pos fun e mem => (cool e mem).1, if_neg untripped]
    · rw [if_pos hot]
      exact thermTrip_trip ..
    · have below : ¬∃ e ∈ temps, 115 ≤ sensorCounts e := fun ⟨e, mem, hot⟩ => absurd (cool e mem) (by omega)
      rw [if_neg below]
      split
      · exact thermAlert_trip ..
      · split <;> rfl
  · have row : exec (.railTelemetryRead (rails.map some)) s = .next (s.withM (leaveGoesOn s.conf (railsRead s.conf s.mach (rails.map some)))) :=
      State.next_live live _
    rw [row, railsRead_of_full full]
  · have row : exec (.railTelemetryRead rails) s = .next (s.withM (leaveGoesOn s.conf (railsRead s.conf s.mach rails))) := State.next_live live _
    rw [row, railsRead_of_missing missing]

end Sys2Proof.Machine

/-! Commands that write one register (R9, R13): what the fields of the word they write hold, and what an accepted one ends with. -/
namespace Sys2Proof.Machine

/-! ### The fields of the word written -/

/-- Fields put one after another leave one that lies apart from all. -/
theorem bits_foldl_of_apart {α : Type} (x : α → Fld) (v : α → Nat) {y : Fld} {l : List α} (apart : ∀ a ∈ l, y.hi < (x a).lo ∨ (x a).hi < y.lo) (n : Nat) :
    bits (l.foldl (fun n a => putBits n (x a).hi (x a).lo (v a)) n) y.hi y.lo = bits n y.hi y.lo := by
  induction l generalizing n with
  | nil => rfl
  | cons a l ih =>
    rw [List.foldl_cons, ih (fun b hb => apart b (List.mem_cons_of_mem _ hb)), bits_putBits_of_disjoint _ _ (apart a List.mem_cons_self)]

/-- Of fields that lie apart, each holds what was put there. -/
theorem bits_foldl_of_mem {α : Type} (x : α → Fld) (v : α → Nat) {a : α} {l : List α} (nodup : (l.map x).Nodup)
    (apart : ∀ b ∈ l, x b ≠ x a → (x a).hi < (x b).lo ∨ (x b).hi < (x a).lo) (mem : a ∈ l) (n : Nat) :
    bits (l.foldl (fun n a => putBits n (x a).hi (x a).lo (v a)) n) (x a).hi (x a).lo = v a % 2 ^ ((x a).hi + 1 - (x a).lo) := by
  induction l generalizing n with
  | nil => cases mem
  | cons b l ih =>
    obtain ⟨fresh, nodup⟩ := List.nodup_cons.mp nodup
    rw [List.foldl_cons]
    rcases List.mem_cons.mp mem with rfl | mem
    · rw [bits_foldl_of_apart x v fun b hb => apart b (List.mem_cons_of_mem _ hb) fun same => fresh (same ▸ List.mem_map_of_mem hb), bits_putBits_self]
    · exact ih nodup (fun b hb => apart b (List.mem_cons_of_mem _ hb)) mem _

/-- The fields of a register that a write of some of them leaves as they are. -/
def softFields (r : Reg) : List Fld := (regFields r).filter fun y => y.acc = .rw || y.acc = .rwl

theorem softFields_nodup (r : Reg) : (softFields r).Nodup := by
  cases r <;> decide +kernel

section
variable {c : Cfg} {m : Mach} {r : Reg} {x : Fld × Nat} {xs : List (Fld × Nat)} {i j k n : Nat} {y : Fld}

theorem fieldWord_eq (c : Cfg) (m : Mach) (x : Fld × Nat) (xs : List (Fld × Nat)) (i j k : Nat) : fieldWord c m (x :: xs) i j k =
    BitVec.ofNat 32 ((x :: xs).foldl (fun a e => putBits a e.1.hi e.1.lo e.2)
      ((softFields x.1.reg).foldl (fun a y => putBits a y.hi y.lo (softVal c m y i j k)) 0)) := rfl

/-- A field that a command writes holds its value. -/
theorem val_fieldWord_of_mem (own : ∀ f ∈ (x :: xs).map Prod.fst, f ∈ regFields r) (nodup : ((x :: xs).map Prod.fst).Nodup) (mem : (y, n) ∈ x :: xs) :
    bits (fieldWord c m (x :: xs) i j k).toNat y.hi y.lo = n % 2 ^ (y.hi + 1 - y.lo) := by
  have here : y ∈ regFields r := own y (List.mem_map_of_mem mem)
  rw [fieldWord_eq, bits_ofNat _ _ (field_facts here).2.2]
  exact bits_foldl_of_mem (a := (y, n)) Prod.fst Prod.snd nodup
    (fun b hb ne => fields_disjoint here (own _ (List.mem_map_of_mem hb)) fun same => ne same.symm) mem _

theorem softVal_lt (hy : y ∈ regFields y.reg) : softVal c m y i j k < 2 ^ (y.hi + 1 - y.lo) := by
  have inTable (t : Tbl Word) : fldIn t y i j k < 2 ^ (y.hi + 1 - y.lo) := fldIn_eq_bits hy t i j k ▸ bits_lt _ _ _
  unfold softVal
  split
  · exact inTable _
  · exact inTable _
  · exact inTable _
  · exact Nat.two_pow_pos _

/-- One that it leaves holds what it held. -/
theorem val_fieldWord_of_soft (reg : x.1.reg = r) (own : ∀ f ∈ (x :: xs).map Prod.fst, f ∈ regFields r) (soft : y ∈ softFields r)
    (fresh : y ∉ (x :: xs).map Prod.fst) : bits (fieldWord c m (x :: xs) i j k).toNat y.hi y.lo = softVal c m y i j k := by
  subst reg
  have here : y ∈ regFields x.1.reg := (List.mem_filter.mp soft).1
  have apart : ∀ b ∈ x :: xs, y.hi < b.1.lo ∨ b.1.hi < y.lo := fun b hb =>
    fields_disjoint here (own _ (List.mem_map_of_mem hb)) fun same => fresh (same ▸ List.mem_map_of_mem hb)
  obtain ⟨at', -, high⟩ := field_facts here
  rw [fieldWord_eq, bits_ofNat _ _ high, bits_foldl_of_apart Prod.fst Prod.snd apart]
  refine (bits_foldl_of_mem (a := y) id (fun y => softVal c m y i j k) (by simpa using softFields_nodup x.1.reg) (fun b hb ne => ?_) soft 0).trans
    (Nat.mod_eq_of_lt (softVal_lt (at' ▸ here)))
  exact fields_disjoint here (List.mem_filter.mp hb).1 fun same => ne same.symm

/-- A self-clearing field that it leaves is written as 0. -/
theorem val_fieldWord_of_idle (reg : x.1.reg = r) (own : ∀ f ∈ (x :: xs).map Prod.fst, f ∈ regFields r) (here : y ∈ regFields r) (idle : y ∉ softFields r)
    (fresh : y ∉ (x :: xs).map Prod.fst) : bits (fieldWord c m (x :: xs) i j k).toNat y.hi y.lo = 0 := by
  subst reg
  have apart : ∀ b ∈ x :: xs, y.hi < b.1.lo ∨ b.1.hi < y.lo := fun b hb =>
    fields_disjoint here (own _ (List.mem_map_of_mem hb)) fun same => fresh (same ▸ List.mem_map_of_mem hb)
  have quiet : ∀ b ∈ softFields x.1.reg, y.hi < b.lo ∨ b.hi < y.lo := fun b hb =>
    fields_disjoint here (List.mem_filter.mp hb).1 fun same => idle (same ▸ hb)
  rw [fieldWord_eq, bits_ofNat _ _ (field_facts here).2.2, bits_foldl_of_apart Prod.fst Prod.snd apart]
  exact (bits_foldl_of_apart id (fun y => softVal c m y i j k) quiet 0).trans (by simp [bits])

/-- The value of a field that the command alone writes. -/
theorem val_fieldWord_self (own : y ∈ regFields r) : bits (fieldWord c m [(y, n)] i j k).toNat y.hi y.lo = n % 2 ^ (y.hi + 1 - y.lo) :=
  val_fieldWord_of_mem (r := r) (by simpa using own) (by simp) List.mem_cons_self

end

/-! ### What an accepted write ends with -/

/-- Machines that differ in their registers alone. -/
def Mach.SameButReg (m m' : Mach) : Prop := ∃ g, m' = { m with reg := g }

namespace Mach.SameButReg
variable {m m' : Mach} (h : m.SameButReg m')
include h

theorem glb : m'.glb = m.glb := by obtain ⟨g, rfl⟩ := h; rfl
theorem flt : m'.flt = m.flt := by obtain ⟨g, rfl⟩ := h; rfl
theorem hif : m'.hif = m.hif := by obtain ⟨g, rfl⟩ := h; rfl
theorem tod : m'.tod = m.tod := by obtain ⟨g, rfl⟩ := h; rfl
theorem pwr : m'.pwr = m.pwr := by obtain ⟨g, rfl⟩ := h; rfl
theorem fsl : m'.fsl = m.fsl := by obtain ⟨g, rfl⟩ := h; rfl
theorem sch : m'.sch = m.sch := by obtain ⟨g, rfl⟩ := h; rfl
theorem msc : m'.msc = m.msc := by obtain ⟨g, rfl⟩ := h; rfl
theorem tsk : m'.tsk = m.tsk := by obtain ⟨g, rfl⟩ := h; rfl
theorem sec : m'.sec = m.sec := by obtain ⟨g, rfl⟩ := h; rfl
theorem up : m'.up = m.up := by obtain ⟨g, rfl⟩ := h; rfl

end Mach.SameButReg

section
variable {s : State} {q : Requester} {r : Reg} {i j k : Nat} {v : Word} {ins : Instr} {f : Cfg → Mach → Dev}

/-- The bits a write cannot change are in three registers. -/
theorem Half.eff_of_plain {c : Cfg} {m : Mach} {h : Half} (plain : h.reg ∉ [Reg.hifPortRole, .pplReason, .pwrClkGate0]) : Half.eff c m h = h := by
  unfold Half.eff
  split
  · next e => simp [e] at plain
  · next e => simp [e] at plain
  · next e => simp [e] at plain
  · rfl

/-- A command that writes a word, by what the register's write sets off. -/
theorem doesWord_of_eff {w : Dev → Dev} (row : exec ins s = s.onWrite q w) (same : w s.dev = regWrite s.dev q (regAddr r i j k) v)
    (hook : ∀ c m, s.mach.SameButReg m → writeHook s.conf s.mach (reqNum q) (Half.eff s.conf s.mach ⟨r, i, j, k, v.toNat⟩) ⟨c, m⟩ = f c m) :
    DoesWord ins s q r i j k v f := by
  intro live takes
  rw [row, State.onWrite_live live takes.reach, same, regWrite_of_takes takes, hook _ _ (wrote_frame s q r i j k v)]

theorem doesWord_of_hook {w : Dev → Dev} (row : exec ins s = s.onWrite q w) (same : w s.dev = regWrite s.dev q (regAddr r i j k) v)
    (plain : r ∉ [Reg.hifPortRole, .pplReason, .pwrClkGate0])
    (hook : ∀ c m, s.mach.SameButReg m → writeHook s.conf s.mach (reqNum q) ⟨r, i, j, k, v.toNat⟩ ⟨c, m⟩ = f c m) : DoesWord ins s q r i j k v f :=
  doesWord_of_eff row same fun c m apart => (congrArg (writeHook _ _ _ · _) (Half.eff_of_plain plain)).trans (hook c m apart)

/-- A command that writes fields, by what the register's write sets off. -/
theorem does_of_hook (r : Reg) {x : Fld} {n : Nat} {xs : List (Fld × Nat)} (row : exec ins s = s.onWrite q fun d => fieldWrite d q ((x, n) :: xs) i j k)
    (reg : x.reg = r) (plain : r ∉ [Reg.hifPortRole, .pplReason, .pwrClkGate0])
    (hook : ∀ c m, s.mach.SameButReg m →
      writeHook s.conf s.mach (reqNum q) ⟨r, i, j, k, (fieldWord s.conf s.mach ((x, n) :: xs) i j k).toNat⟩ ⟨c, m⟩ = f c m) :
    Does ins s q (x, n) xs i j k f := by
  subst reg
  exact doesWord_of_hook row rfl plain hook

end
end Sys2Proof.Machine

/-! The keys of the seal, of a restart and of a turn (R375, R385, R388–R390, R402). -/
namespace Sys2Proof.Machine

section
variable {s : State} {q : Requester}

theorem sealKey_val (c : Cfg) (m : Mach) : bits (fieldWord c m [(glbSealKey, 0x5EA1)] 0 0 0).toNat glbSealKey.hi glbSealKey.lo = 0x5EA1 :=
  val_fieldWord_self (r := .glbSeal) (by decide)

theorem restartKey_val (c : Cfg) (m : Mach) : bits (fieldWord c m [(glbRestartKey, 0xC01D)] 0 0 0).toNat glbRestartKey.hi glbRestartKey.lo = 0xC01D :=
  val_fieldWord_self (r := .glbRestart) (by decide)

theorem writeHook_glbSeal (c : Cfg) (m : Mach) (n i j k w : Nat) (d : Dev) :
    writeHook c m n ⟨.glbSeal, i, j, k, w⟩ d = { d with m := sealWrite d.m n (bits w glbSealKey.hi glbSealKey.lo) } := rfl

theorem writeHook_glbRestart (c : Cfg) (m : Mach) (n i j k w : Nat) (d : Dev) :
    writeHook c m n ⟨.glbRestart, i, j, k, w⟩ d = restartWrite d (bits w glbRestartKey.hi glbRestartKey.lo) := rfl

theorem does_sealWrite {f : Cfg → Mach → Dev} (act : ∀ c m, s.mach.SameButReg m → (⟨c, sealWrite m (reqNum q) 0x5EA1⟩ : Dev) = f c m) :
    Does (.sealWrite q) s q (glbSealKey, 0x5EA1) [] 0 0 0 f :=
  does_of_hook .glbSeal rfl rfl (by decide) fun c m same => by
    rw [writeHook_glbSeal, sealKey_val]
    exact act c m same

theorem does_restartWrite {f : Cfg → Mach → Dev} (act : ∀ c m, s.mach.SameButReg m → restartWrite ⟨c, m⟩ 0xC01D = f c m) :
    Does (.restartWrite q) s q (glbRestartKey, 0xC01D) [] 0 0 0 f :=
  does_of_hook .glbRestart rfl rfl (by decide) fun c m same => by
    rw [writeHook_glbRestart, restartKey_val]
    exact act c m same

theorem restartWrite_of_refused {d : Dev} (h : d.m.flt.resetReq = true ∨ d.m.glb.stage.num < 5 ∨ d.m.glb.stage = .failed) :
    restartWrite d 0xC01D = { d with m := d.m.setSt fltStatRestartRefused 1 } := by
  rw [restartWrite, if_neg (by decide), if_pos (by simpa [or_assoc] using h)]

theorem restartWrite_of_ready {d : Dev} (req : d.m.flt.resetReq = false) (num : 5 ≤ d.m.glb.stage.num) (stage : d.m.glb.stage ≠ .failed) :
    restartWrite d 0xC01D = restarted d := by
  rw [restartWrite, if_neg (by decide), if_neg (by simp [req, stage]; omega)]

/-! ### What waits on an idle machine -/

theorem storeGo_of_idle {c : Cfg} {m : Mach} (n : Nat) (ops : m.fsl.ops = []) (jobs : m.fsl.jobs = []) : storeGo c n m = m := by
  have settled : settleOps c m = m := by
    rw [settleOps, ops]
    rfl
  induction n with
  | zero => exact settled
  | succ n ih => rw [storeGo, settled, jobs, List.foldl_nil, ih]

theorem roundsForLoss_of_no_links {c : Cfg} {m : Mach} (none : m.duo = {}) : roundsForLoss c m = m := by
  rw [roundsForLoss, none]
  have quiet (p : Nat) : (m.link p).lossDue = false := by
    rw [Mach.link, none]
    rfl
  simp [quiet]

theorem settle_of_idle {c : Cfg} {m : Mach} (ops : m.fsl.ops = []) (jobs : m.fsl.jobs = []) (links : m.duo = {}) (cmds : m.pwr.waitCmds = []) :
    settle c m = m := by
  rw [settle, storeGo_of_idle _ ops jobs, roundsForLoss_of_no_links links, retryCmds, cmds, List.foldl_nil]

/-! ### A restart -/

/-- A machine with no command held ends none with its rings (R348). -/
theorem finishHeld_of_none {c : Cfg} {m : Mach} (none : m.glb.held = []) :
    (finishHeld c m).tod = m.tod ∧ (finishHeld c m).sec = m.sec ∧ (finishHeld c m).up = m.up := by
  rw [finishHeld]
  simp only [none, List.foldl_nil, and_self]

theorem holdOutputs_kept (c : Cfg) (m : Mach) : (holdOutputs c m).tod.now = m.tod.now ∧ (holdOutputs c m).sec.nv = m.sec.nv ∧ (holdOutputs c m).up = m.up ∧
    (holdOutputs c m).glb.held = m.glb.held := by
  have still := stopGroups_still c m
  unfold holdOutputs
  generalize (List.range 32).foldl (stopGroup c) m = m' at still ⊢
  have now : m'.tod.now = m.tod.now := congrArg TodSt.now still.tod
  have held : m'.glb.held = m.glb.held := congrArg GlbSt.held still.glb
  exact ⟨now, still.nv, still.up, held⟩

theorem settle_restarted (d : Dev) : settleDev (restarted d) = restarted d :=
  congrArg (fun m => { restarted d with m := m }) (settle_of_idle rfl rfl rfl rfl)

theorem restarted_now (d : Dev) : (restarted d).m.tod.now = (finishHeld d.cfg (holdOutputs d.cfg d.m)).tod.now := by
  simp only [restarted, drawBootId, Mach.draw]

theorem restarted_nv (d : Dev) : (restarted d).m.sec.nv = (finishHeld d.cfg (holdOutputs d.cfg d.m)).sec.nv := by
  simp only [restarted, drawBootId, Mach.draw]

theorem restarted_up (d : Dev) : (restarted d).m.up = (finishHeld d.cfg (holdOutputs d.cfg d.m)).up := by
  simp only [restarted, drawBootId, Mach.draw]

/-- The time of day, the secure NV store and the uptime outlive a restart with no command held (R390). -/
theorem restarted_kept {d : Dev} (none : d.m.glb.held = []) :
    (restarted d).m.tod.now = d.m.tod.now ∧ (restarted d).m.sec.nv = d.m.sec.nv ∧ (restarted d).m.up = d.m.up := by
  obtain ⟨tod, nv, up, held⟩ := holdOutputs_kept d.cfg d.m
  obtain ⟨tod', sec, up'⟩ := finishHeld_of_none (c := d.cfg) (held.trans none)
  rw [restarted_now, restarted_nv, restarted_up, tod', sec, up']
  exact ⟨tod, nv, up⟩

theorem finishedHeld_up (d : Dev) : (finishHeld d.cfg (holdOutputs d.cfg d.m)).up = d.m.up :=
  (finishHeld_keeps (holdOutputs_keeps (.refl d.m))).up

/-- A part keeps nothing of a register without fields there. -/
theorem storePart_of_none {p : Part} {t : Tbl Word} {h : Half} (none : ((regFields h.reg).filter fun x => x.settable && decide (x.part = p)) = []) :
    storePart p t [h] = t := by
  rw [storePart, List.foldl_cons, none]
  rfl

/-- The key is not held: a write of it leaves the configuration. -/
theorem stored_restartKey (s : State) (v : Word) : s.stored .glbRestart 0 0 0 v = s.conf := by
  have one : mirrorHalves (halves s.dev.cfg s.dev.m ⟨.glbRestart, 0, 0, 0, false⟩ v) = [⟨.glbRestart, 0, 0, 0, v.toNat⟩] := rfl
  have none (p : Part) (t : Tbl Word) (configured : p = .live ∨ p = .turn) : storePart p t [⟨.glbRestart, 0, 0, 0, v.toNat⟩] = t := by
    refine storePart_of_none (show ((regFields .glbRestart).filter fun x => x.settable && decide (x.part = p)) = [] from ?_)
    rcases configured with rfl | rfl <;> decide
  simp only [State.stored, storeCfg, one, none _ _ (.inl rfl), none _ _ (.inr rfl), ite_self]

/-- Settles O17. -/
theorem sealAndRestartKeysAct : Obligations.SealAndRestartKeysAct := by
  unfold Obligations.SealAndRestartKeysAct
  refine ⟨fun s q stage sealed => does_sealWrite fun c m same => ?_, fun s q held => does_sealWrite fun c m same => ?_,
    fun s q refused => does_restartWrite fun c m same => restartWrite_of_refused ?_, fun s q live req num stage takes => ?_⟩
  · rw [sealWrite, same.glb, if_pos (by rcases sealed with h | h <;> simp [stage, h])]
  · rw [sealWrite, same.glb, if_neg (by rcases held with h | h | h <;> simp [h])]
  · rwa [same.flt, same.glb]
  · have same : s.mach.SameButReg (s.wrote q .glbRestart 0 0 0 (fieldWord s.conf s.mach [(glbRestartKey, 0xC01D)] 0 0 0)) :=
      wrote_frame ..
    have done : exec (.restartWrite q) s = .next { s with dev := settleDev (restarted
        ⟨s.stored .glbRestart 0 0 0 (fieldWord s.conf s.mach [(glbRestartKey, 0xC01D)] 0 0 0),
          s.wrote q .glbRestart 0 0 0 (fieldWord s.conf s.mach [(glbRestartKey, 0xC01D)] 0 0 0)⟩) } :=
      does_restartWrite (f := fun c m => restarted ⟨c, m⟩)
        (fun c m same => restartWrite_of_ready (by rwa [same.flt]) (by rwa [same.glb]) (by rwa [same.glb])) live takes
    rw [settle_restarted, stored_restartKey] at done
    generalize s.wrote q _ _ _ _ _ = m at same done
    have up : (finishHeld s.conf (holdOutputs s.conf m)).up = s.mach.up := (finishedHeld_up ⟨s.conf, m⟩).trans same.up
    refine ⟨_, done, rfl, rfl, rfl, rfl, rfl, rfl, rfl, rfl, rfl, rfl, rfl, ?_, ?_, rfl, rfl, rfl, rfl, rfl, fun none => ?_⟩
    · rw [← up]
      rfl
    · rw [← up]
      rfl
    · rw [← same.tod, ← same.sec, ← same.up]
      exact restarted_kept (d := ⟨s.conf, m⟩) (by rwa [same.glb])

/-! ### A turn -/

theorem writeHook_glbTurnCommit (c : Cfg) (m : Mach) (n i j k w : Nat) (d : Dev) : writeHook c m n ⟨.glbTurnCommit, i, j, k, w⟩ d =
    if bits w glbTurnCommitGo.hi glbTurnCommitGo.lo == 1 then { d with m := commitGo d.cfg d.m }
    else if bits w glbTurnCommitDiscard.hi glbTurnCommitDiscard.lo == 1 then commitDiscard d else d := rfl

theorem does_turnCommitGo {f : Cfg → Mach → Dev} (act : ∀ c m, s.mach.SameButReg m → (⟨c, commitGo c m⟩ : Dev) = f c m) :
    Does (.turnCommitGo q) s q (glbTurnCommitGo, 1) [] 0 0 0 f :=
  does_of_hook .glbTurnCommit rfl rfl (by decide) fun c m same => by
    rw [writeHook_glbTurnCommit, val_fieldWord_self (r := .glbTurnCommit) (by decide)]
    exact act c m same

theorem does_turnDiscard {f : Cfg → Mach → Dev} (act : ∀ c m, s.mach.SameButReg m → commitDiscard ⟨c, m⟩ = f c m) :
    Does (.turnDiscard q) s q (glbTurnCommitDiscard, 1) [] 0 0 0 f :=
  does_of_hook .glbTurnCommit rfl rfl (by decide) fun c m same => by
    rw [writeHook_glbTurnCommit, val_fieldWord_of_idle (r := .glbTurnCommit) rfl (by decide) (by decide) (by decide) (by decide),
      val_fieldWord_self (r := .glbTurnCommit) (by decide)]
    exact act c m same

/-- Settles O18. -/
theorem turnCommitIsScheduledOrAnswered : Obligations.TurnCommitIsScheduledOrAnswered := by
  unfold Obligations.TurnCommitIsScheduledOrAnswered
  refine ⟨fun s q unsealed => does_turnCommitGo fun c m same => ?_, fun s q sealed busy => does_turnCommitGo fun c m same => ?_,
    fun s q sealed idle => does_turnCommitGo fun c m same => ?_⟩
  · rw [commitGo, if_pos (by rwa [same.glb])]
    rfl
  · rw [commitGo, if_neg (by rw [same.glb, not_not]; exact sealed), if_pos (by rwa [same.glb])]
    rfl
  · rw [commitGo, if_neg (by rw [same.glb, not_not]; exact sealed), if_neg (by rw [same.glb, not_not]; exact idle)]
    split
    · rfl
    · cases firstFailure c m commitCodes <;> rfl

/-- Settles O19. -/
theorem turnDiscardRestoresTheShadow : Obligations.TurnDiscardRestoresTheShadow := by
  unfold Obligations.TurnDiscardRestoresTheShadow
  refine ⟨fun s q idle => does_turnDiscard fun c m same => ?_, fun s q busy => does_turnDiscard fun c m same => ?_⟩
  · rw [commitDiscard, if_pos (by rwa [same.glb])]
    rfl
  · rw [commitDiscard, if_neg (by rwa [same.glb])]
    rfl

end
end Sys2Proof.Machine

/-! Port roles and admin rings by register (R319, R320, R324). -/
namespace Sys2Proof.Machine

section
variable {s : State} {q : Requester} {c : Cfg} {m : Mach} {p : Nat}

theorem roleChanged_of_no_rings (none : m.hif.rings = []) : roleChanged c m = m := by
  have owns (p : Nat) : ringsOf m p = [] := by rw [ringsOf, none]; rfl
  rw [roleChanged]
  refine List.foldl_fixed' (fun p => ?_) _
  rw [owns, List.foldl_nil]

theorem writeHook_hifPortRole (c : Cfg) (m : Mach) (n : Nat) {h : Half} (reg : h.reg = .hifPortRole) (d : Dev) :
    writeHook c m n h d = { d with m := roleChanged d.cfg d.m } := by
  rw [writeHook, reg]

theorem writeHook_hifAdminCfg (c : Cfg) (m : Mach) (n i j k w : Nat) (d : Dev) : writeHook c m n ⟨.hifAdminCfg, i, j, k, w⟩ d =
    { d with m := if bits w hifAdminCfgEn.hi hifAdminCfgEn.lo == 1 && softVal c m hifAdminCfgEn i j k == 0 then adminEnable d.cfg d.m i
      else if bits w hifAdminCfgEn.hi hifAdminCfgEn.lo == 0 && softVal c m hifAdminCfgEn i j k == 1 then ringDestroy d.cfg d.m i none else d.m } := rfl

theorem adminEn_val {p v : Nat} (bit : v < 2) : bits (fieldWord c m [(hifAdminCfgEn, v)] p 0 0).toNat hifAdminCfgEn.hi hifAdminCfgEn.lo = v :=
  (val_fieldWord_self (r := .hifAdminCfg) (by decide)).trans (Nat.mod_eq_of_lt bit)

/-! ### The admin ring -/

theorem Mach.ring_shown (m : Mach) (n p : Nat) (x : HostPort) (f : Fld) (v : Nat) : ((m.setPort p x).setSt f v p).ring n = m.ring n := rfl

theorem adminEnable_of_good (ver : c.get hifAdminCfgVer p = 1 ∨ c.get hifAdminCfgVer p = 2) (low : 6 ≤ c.get hifAdminCfgLog2 p)
    (high : c.get hifAdminCfgLog2 p ≤ 16) (absent : (m.ring p).state = .absent) : adminEnable c m p =
    ((m.setPort p { m.port p with adminErr := 0 }).setSt hifAdminCfgEn 1 p).setRing p
      { state := .active, kind := .cmd, ver := c.get hifAdminCfgVer p, log2 := c.get hifAdminCfgLog2 p, owner := p, admin := true
        base := BitVec.ofNat 64 (c.get hifAdminBaseHiBase p * 2 ^ 32 + c.get hifAdminBaseLoBase p * 4096)
        irqEn := c.on hifAdminCfgIrqEn p, vector := c.get hifAdminCfgVector p, armed := c.on hifAdminCfgIrqEn p, nextSlot := (m.ring p).nextSlot } := by
  have known : verOk .cmd (c.get hifAdminCfgVer p) = true := by rcases ver with h | h <;> rw [h] <;> decide
  rw [adminEnable]
  dsimp only
  rw [if_neg (by simp [known]), if_neg (by simp; omega), if_neg (by rw [Mach.ring_shown, not_not, absent]), Mach.ring_shown]

theorem adminEnable_of_version (old : c.get hifAdminCfgVer p ≠ 1) (new : c.get hifAdminCfgVer p ≠ 2) :
    adminEnable c m p = (m.setPort p { m.port p with adminErr := 1 }).setSt hifAdminCfgEn 0 p := by
  rw [adminEnable]
  dsimp only
  rw [if_pos (by simp [verOk, old, new])]

theorem adminEnable_of_size (ver : c.get hifAdminCfgVer p = 1 ∨ c.get hifAdminCfgVer p = 2)
    (size : c.get hifAdminCfgLog2 p < 6 ∨ 16 < c.get hifAdminCfgLog2 p) :
    adminEnable c m p = (m.setPort p { m.port p with adminErr := 2 }).setSt hifAdminCfgEn 0 p := by
  have known : verOk .cmd (c.get hifAdminCfgVer p) = true := by rcases ver with h | h <;> rw [h] <;> decide
  rw [adminEnable]
  dsimp only
  rw [if_neg (by simp [known]), if_pos (by simpa using size)]

theorem ringDestroy_of_absent {by' : Option (Nat × Nat)} (absent : (m.ring p).state = .absent) : ringDestroy c m p by' = m := by
  rw [ringDestroy, if_pos absent]

/-! ### The roles -/

theorem bits_bits_low (w : Nat) {hi h l : Nat} (within : h ≤ hi) : bits (bits w hi 0) h l = bits w h l := by
  refine Nat.eq_of_testBit_eq fun i => ?_
  simp only [testBit_bits, Nat.zero_add]
  by_cases inside : i < h + 1 - l
  · rw [decide_eq_true (show l + i < hi + 1 - 0 by omega)]
    simp
  · simp [inside]

theorem Half.eff_hifPortRole (c : Cfg) (m : Mach) (i j k w : Nat) : (Half.eff c m ⟨.hifPortRole, i, j, k, w⟩).w =
    putBits w (2 * m.primary + 1) (2 * m.primary) (bits (m.st hifPortRoleRoles) (2 * m.primary + 1) (2 * m.primary)) := rfl

/-- Roles that were written, in the field of a port that is not the primary. -/
theorem bits_role {w roles n old v : Nat} (written : bits w 7 0 = roles) (port : n < 4) (ne : n ≠ old) :
    bits (bits (putBits w (2 * old + 1) (2 * old) v) 7 0) (2 * n + 1) (2 * n) = roles / 4 ^ n % 4 := by
  rw [bits_bits_low _ (by omega), bits_putBits_of_disjoint _ _ (by omega), ← written]
  rw [← bits_bits_low w (show 2 * n + 1 ≤ 7 by omega), bits, show 2 * n + 1 + 1 - 2 * n = 2 by omega, Nat.pow_mul]
  rfl

theorem storeStat_hifPortRole (m : Mach) (n w : Nat) : storeStat m n ⟨.hifPortRole, 0, 0, 0, w⟩ =
    (m.setSt hifPortRolePrimary (bits w 31 30)).setSt hifPortRoleRoles (bits w 7 0) := rfl

/-- Counting a write keeps the order of the status words. -/
theorem countWrite_ordered {hs : List Half} : StatusOnly (fun _ => False) m (countWrite c m hs) := by
  refine StatusOnly.foldl fun m h _ => ?_
  split
  · exact pmcEvent_statusOnly (fun _ => False.elim) _ _
  · exact .refl m

/-- What a write of the roles stores. -/
theorem wrote_roles (ordered : Tbl.rising s.mach.reg.stat = true) {v : Word} :
    (s.wrote q .hifPortRole 0 0 0 v).primary = bits (Half.eff s.conf s.mach ⟨.hifPortRole, 0, 0, 0, v.toNat⟩).w 31 30 ∧
    (s.wrote q .hifPortRole 0 0 0 v).st hifPortRoleRoles = bits (Half.eff s.conf s.mach ⟨.hifPortRole, 0, 0, 0, v.toNat⟩).w 7 0 := by
  have one : halves s.dev.cfg s.dev.m ⟨.hifPortRole, 0, 0, 0, false⟩ v = [Half.eff s.dev.cfg s.dev.m ⟨.hifPortRole, 0, 0, 0, v.toNat⟩] :=
    halves_of_whole rfl
  have reg := Half.eff_reg s.dev.cfg s.dev.m ⟨.hifPortRole, 0, 0, 0, v.toNat⟩
  obtain ⟨hi, hj, hk⟩ := Half.eff_place s.dev.cfg s.dev.m ⟨.hifPortRole, 0, 0, 0, v.toNat⟩
  rw [State.wrote, one]
  generalize Half.eff s.dev.cfg s.dev.m ⟨.hifPortRole, 0, 0, 0, v.toNat⟩ = h at reg hi hj hk
  obtain ⟨r, i, j, k, w⟩ := h
  cases reg; cases hi; cases hj; cases hk
  simp only [List.foldl_cons, List.foldl_nil]
  have counted : StatusOnly (fun _ => False) s.dev.m
      (countWrite s.dev.cfg (clearStat s.dev.m ⟨.hifPortRole, 0, 0, 0, w⟩) [⟨.hifPortRole, 0, 0, 0, w⟩]) :=
    (clearStat_statusOnly fun _ => False.elim).trans countWrite_ordered
  generalize countWrite s.dev.cfg (clearStat s.dev.m ⟨.hifPortRole, 0, 0, 0, w⟩) [⟨.hifPortRole, 0, 0, 0, w⟩] = m at counted
  have rising := counted.ordered ordered
  rw [show noteWrote m ⟨.hifPortRole, 0, 0, 0, w⟩ = m from rfl, storeStat_hifPortRole, Mach.primary]
  rw [Mach.st_setSt_other (Mach.rising_setSt rising _ _ _ _ _) (by decide) (by decide) (by decide) (by decide), Mach.st_setSt_self rising (by decide),
    Mach.st_setSt_self (Mach.rising_setSt rising _ _ _ _ _) (by decide)]
  exact ⟨Nat.mod_eq_of_lt (bits_lt _ _ _), Nat.mod_eq_of_lt (bits_lt _ _ _)⟩

/-- Settles O20. -/
theorem rolesAndAdminRingsFollowTheirRegisters : Obligations.RolesAndAdminRingsFollowTheirRegisters := by
  unfold Obligations.RolesAndAdminRingsFollowTheirRegisters
  refine ⟨fun s q p roles => doesWord_of_eff (w := fun d => fieldWrite d q [(hifPortRolePrimary, p.val), (hifPortRoleRoles, roles.toNat)] 0 0 0) rfl rfl
      fun c m _ => writeHook_hifPortRole _ _ _ (Half.eff_reg ..) _,
    fun s q p roles ordered low => ?_, fun c m none => roleChanged_of_no_rings none, fun s q p off => ?_,
    fun c m p ver low high absent => adminEnable_of_good ver low high absent, fun c m p old new => adminEnable_of_version old new,
    fun c m p ver size => adminEnable_of_size ver size, fun s q p on => ?_, fun c m n absent => ringDestroy_of_absent absent⟩
  · have written := wrote_roles (q := q) ordered (v := fieldWord s.conf s.mach [(hifPortRolePrimary, p.val), (hifPortRoleRoles, roles.toNat)] 0 0 0)
    obtain ⟨primary, stored⟩ := written
    have named : bits (fieldWord s.conf s.mach [(hifPortRolePrimary, p.val), (hifPortRoleRoles, roles.toNat)] 0 0 0).toNat 31 30 = p :=
      (val_fieldWord_of_mem (r := .hifPortRole) (y := hifPortRolePrimary) (by simp only [List.map]; decide) (by simp only [List.map]; decide)
        List.mem_cons_self).trans (Nat.mod_eq_of_lt p.isLt)
    have given : bits (fieldWord s.conf s.mach [(hifPortRolePrimary, p.val), (hifPortRoleRoles, roles.toNat)] 0 0 0).toNat 7 0 = roles.toNat :=
      (val_fieldWord_of_mem (r := .hifPortRole) (y := hifPortRoleRoles) (by simp only [List.map]; decide) (by simp only [List.map]; decide)
        (List.mem_cons_of_mem _ List.mem_cons_self)).trans (Nat.mod_eq_of_lt roles.isLt)
    generalize fieldWord s.conf s.mach [(hifPortRolePrimary, p.val), (hifPortRoleRoles, roles.toNat)] 0 0 0 = v at *
    rw [Half.eff_hifPortRole, bits_putBits_of_disjoint _ _ (by omega), named] at primary
    rw [Half.eff_hifPortRole] at stored
    refine ⟨primary, if_pos primary.symm, fun n other kept => ?_⟩
    rw [Mach.role, primary, if_neg (fun same => other (Fin.ext same)), stored, bits_role given n.isLt kept]
  · refine does_of_hook .hifAdminCfg rfl rfl (by decide) fun c m _ => ?_
    rw [writeHook_hifAdminCfg, adminEn_val (by decide), show softVal s.conf s.mach hifAdminCfgEn p 0 0 = 0 from off]
    rfl
  · refine does_of_hook .hifAdminCfg rfl rfl (by decide) fun c m _ => ?_
    rw [writeHook_hifAdminCfg, adminEn_val (by decide), show softVal s.conf s.mach hifAdminCfgEn p 0 0 = 1 from on]
    rfl

end
end Sys2Proof.Machine

/-! The flow store's controls (R117, R120, R121). A configuration table that is out of order, which the statement does not exclude, may show another slot than
the one written. -/
namespace Sys2Proof.Machine

/-- A device with the takeover's register held twice. -/
def heldTwice : State :=
  { dev :=
      { cfg := { fuse := {}, live := [(regAddr .fstTakeover 0 0 0, 5), (regAddr .fstTakeover 0 0 0, 5)] }
        m := { glb := { inReset := false, stage := .waitHost }, fsl := { spareAvail := true } } }
    pending := [] }

/-- The slot of the last takeover, after a command. -/
def takenSlot : Outcome → Option Nat
  | .next t => some t.mach.fsl.lastSlot
  | _ => none

theorem heldTwice_takes : Takes heldTwice.dev .agent .fstTakeover 0 0 0
    (fieldWord heldTwice.conf heldTwice.mach [(fstTakeoverGo, 1), (fstTakeoverSlot, 0)] 0 0 0) where
  reach := rfl
  aligned := by decide +kernel
  may := by decide +kernel
  free := by decide +kernel
  present := by decide +kernel
  linked := by decide +kernel
  here := by decide +kernel
  whole := by decide +kernel
  accepted := by decide +kernel

/-- Slot 0 is written; the register that is held a second time still names slot 5. -/
theorem heldTwice_takes_five : takenSlot (exec (.fstTakeoverGo .agent 0) heldTwice) = some 5 := by decide +kernel

/-- Refutes O21: where the configuration's table holds `FST_TAKEOVER` twice, writing slot 0 removes the first entry and the second one's slot is taken. -/
theorem not_flowStoreControlsAct : ¬ Obligations.FlowStoreControlsAct := by
  unfold Obligations.FlowStoreControlsAct
  intro ⟨_, _, _, _, _, _, _, takes⟩
  have taken := congrArg takenSlot (takes heldTwice .agent 0 rfl rfl rfl heldTwice_takes)
  rw [heldTwice_takes_five] at taken
  revert taken
  decide +kernel

end Sys2Proof.Machine

/-! Drains, port enables and gate changes by register (R75, R246, R381, R468). -/
namespace Sys2Proof.Machine

section
variable {s : State} {q : Requester} {c : Cfg} {m : Mach} {l : Nat}

theorem writeHook_pplCtrl (c : Cfg) (m : Mach) (n i j k w : Nat) (d : Dev) : writeHook c m n ⟨.pplCtrl, i, j, k, w⟩ d =
    let drained := if bits w pplCtrlDrain.hi pplCtrlDrain.lo == 1 then d.m.setSt pplCtrlDrain 1 i else d.m
    { d with m := if bits w pplCtrlEnable.hi pplCtrlEnable.lo == 1 && softVal c m pplCtrlEnable i j k == 0 then drained.setSt pplCtrlDrain 0 i
        else drained } := rfl

theorem writeHook_prtPortCfg (c : Cfg) (m : Mach) (n i j k w : Nat) (d : Dev) : writeHook c m n ⟨.prtPortCfg, i, j, k, w⟩ d =
    if bits w prtPortCfgEn.hi prtPortCfgEn.lo == 1 && softVal c m prtPortCfgEn i j k == 0 then portEnable d n i j
    else if bits w prtPortCfgEn.hi prtPortCfgEn.lo == 0 && softVal c m prtPortCfgEn i j k == 1 then { d with m := cutTx d.cfg d.m (8 * i + j) }
    else d := rfl

theorem writeHook_schGateCtrl (c : Cfg) (m : Mach) (n i j k w : Nat) (d : Dev) : writeHook c m n ⟨.schGateCtrl, i, j, k, w⟩ d =
    let kept := if bits w schGateCtrlGateEn.hi schGateCtrlGateEn.lo = 0 then gateCancel d.m (128 * i + j) else d.m
    { d with m := if bits w schGateCtrlConfigChange.hi schGateCtrlConfigChange.lo == 1 then gateConfigChange d.cfg kept (128 * i + j) else kept } := rfl

theorem does_pplDrain (n : Fin 32) : Does (.pplDrain q n) s q (pplCtrlDrain, 1) [] n 0 0 fun c m => ⟨c, m.setSt pplCtrlDrain 1 n⟩ :=
  does_of_hook .pplCtrl rfl rfl (by decide) fun c m _ => by
    rw [writeHook_pplCtrl, val_fieldWord_self (r := .pplCtrl) (by decide),
      val_fieldWord_of_soft (r := .pplCtrl) rfl (by decide) (by decide) (by decide)]
    generalize softVal s.conf s.mach pplCtrlEnable n 0 0 = v
    have still : ¬(v == 1 && v == 0) = true := by
      simp only [Bool.and_eq_true, beq_iff_eq]
      omega
    dsimp only
    rw [if_neg still]
    rfl

theorem does_portEnable (g : Fin 32) (p : Fin 6) (speed : Fin 8) (fec : Fin 4) (lane : Fin 8) (off : s.conf.get prtPortCfgEn g p = 0) :
    Does (.portEnable q g p speed fec lane) s q (prtPortCfgEn, 1)
      [(prtPortCfgSpeed, speed.val), (prtPortCfgFec, fec.val), (prtPortCfgFirstLane, lane.val)] g p 0 fun c m => portEnable ⟨c, m⟩ (reqNum q) g p :=
  does_of_hook .prtPortCfg rfl rfl (by decide) fun c m _ => by
    rw [writeHook_prtPortCfg, val_fieldWord_of_mem (r := .prtPortCfg) (n := 1) (by simp only [List.map]; decide) (by simp only [List.map]; decide)
      List.mem_cons_self, show softVal s.conf s.mach prtPortCfgEn g p 0 = 0 from off]
    rfl

/-! ### Gate changes -/

theorem gate_place (l : Fin 256) : 128 * (l.val / 128) + l.val % 128 = l := Nat.div_add_mod _ _

theorem does_gateConfigChange (l : Fin 256) {f : Cfg → Mach → Dev}
    (act : ∀ c m, (⟨c, gateConfigChange c (if s.conf.get schGateCtrlGateEn (l / 128) (l % 128) = 0 then gateCancel m l else m) l⟩ : Dev) = f c m) :
    Does (.gateConfigChange q l) s q (schGateCtrlConfigChange, 1) [] (l / 128) (l % 128) 0 f :=
  does_of_hook .schGateCtrl rfl rfl (by decide) fun c m _ => by
    rw [writeHook_schGateCtrl, val_fieldWord_self (r := .schGateCtrl) (by decide),
      val_fieldWord_of_soft (r := .schGateCtrl) rfl (by decide) (by decide) (by decide), gate_place]
    exact act c m

theorem does_gateChangeCancel (l : Fin 256) :
    Does (.gateChangeCancel q l) s q (schGateCtrlGateEn, 0) [] (l / 128) (l % 128) 0 fun c m => ⟨c, m.setGate l { m.gate l with change := none }⟩ :=
  does_of_hook .schGateCtrl rfl rfl (by decide) fun c m _ => by
    rw [writeHook_schGateCtrl, val_fieldWord_self (r := .schGateCtrl) (by decide),
      val_fieldWord_of_idle (r := .schGateCtrl) rfl (by decide) (by decide) (by decide) (by decide), gate_place]
    rfl

theorem gateConfigChange_of_pending (pending : (m.gate l).change.isSome = true) : gateConfigChange c m l = m.setGate l { m.gate l with err := 1 } := by
  rw [gateConfigChange]
  exact if_pos pending

theorem gateConfigChange_of_bad (free : (m.gate l).change = none) (bad : c.get schGateCycleCycle (l / 128) (l % 128) < 1000 ∨
      1_000_000_000 < c.get schGateCycleCycle (l / 128) (l % 128) ∨ c.get schGateCtrlAdminLen (l / 128) (l % 128) = 0 ∨
      1024 < c.get schGateCtrlAdminLen (l / 128) (l % 128) ∨ c.get schGateCycleCycle (l / 128) (l % 128) < c.get schGateExtExt (l / 128) (l % 128)) :
    gateConfigChange c m l = m.setGate l { m.gate l with err := 2 } := by
  rw [gateConfigChange]
  dsimp only
  rw [if_neg (by rw [free]; decide), if_pos (by simpa [or_assoc] using bad)]

/-- The least multiple of a cycle from a base that a time is not beyond. -/
theorem ceilDiv_least {a b : Nat} (pos : 0 < b) : a ≤ ceilDiv a b * b ∧ ∀ n, a ≤ n * b → ceilDiv a b ≤ n := by
  unfold ceilDiv
  refine ⟨?_, fun n enough => ?_⟩
  · have := Nat.div_add_mod (a + b - 1) b
    have := Nat.mod_lt (a + b - 1) pos
    rw [Nat.mul_comm _ b]
    omega
  · refine Nat.le_of_lt_succ ((Nat.div_lt_iff_lt_mul pos).mpr ?_)
    rw [Nat.succ_mul]
    omega

/-- The cycle start that a change waits for: the first at or beyond a time. -/
theorem cycleStart_first {base cycle w : Nat} (pos : 0 < cycle) : ∃ n, w ≤ base + n * cycle ∧ (0 < n → base + (n - 1) * cycle < w) ∧
    (if w ≤ base then base else base + ceilDiv (w - base) cycle * cycle) = base + n * cycle := by
  by_cases early : w ≤ base
  · exact ⟨0, by omega, fun h => absurd h (by omega), by rw [if_pos early]; omega⟩
  · obtain ⟨enough, least⟩ := ceilDiv_least (a := w - base) pos
    refine ⟨ceilDiv (w - base) cycle, by omega, fun some => ?_, if_neg early⟩
    by_contra late
    have := least (ceilDiv (w - base) cycle - 1) (by omega)
    omega

/-- The same of a time in the master's units, 2 µs ahead. -/
theorem cycleStart_ahead {now base cycle : Nat} (pos : 0 < cycle) :
    ∃ n, now + 2000 * 2 ^ 48 ≤ (base + n * cycle) * 2 ^ 48 ∧ (0 < n → (base + (n - 1) * cycle) * 2 ^ 48 < now + 2000 * 2 ^ 48) ∧
      (if ceilDiv (now + 2000 * 2 ^ 48) (2 ^ 48) ≤ base then base
        else base + ceilDiv (ceilDiv (now + 2000 * 2 ^ 48) (2 ^ 48) - base) cycle * cycle) = base + n * cycle := by
  obtain ⟨reach, least⟩ := ceilDiv_least (a := now + 2000 * 2 ^ 48) (b := 2 ^ 48) (by decide)
  obtain ⟨n, after, first, time⟩ := cycleStart_first (base := base) (w := ceilDiv (now + 2000 * 2 ^ 48) (2 ^ 48)) pos
  refine ⟨n, reach.trans (Nat.mul_le_mul_right _ after), fun pos => ?_, time⟩
  by_contra late
  exact absurd (least _ (not_lt.mp late)) (not_le.mpr (first pos))

theorem gateConfigChange_of_good (free : (m.gate l).change = none) (low : 1000 ≤ c.get schGateCycleCycle (l / 128) (l % 128))
    (high : c.get schGateCycleCycle (l / 128) (l % 128) ≤ 1_000_000_000) (some' : 0 < c.get schGateCtrlAdminLen (l / 128) (l % 128))
    (short : c.get schGateCtrlAdminLen (l / 128) (l % 128) ≤ 1024)
    (ext : c.get schGateExtExt (l / 128) (l % 128) ≤ c.get schGateCycleCycle (l / 128) (l % 128)) :
    let base := (c.get schGateBaseSecHiSec (l / 128) (l % 128) * 2 ^ 32 + c.get schGateBaseSecLoSec (l / 128) (l % 128)) * 1_000_000_000 +
      c.get schGateBaseNsNs (l / 128) (l % 128)
    let cycle := c.get schGateCycleCycle (l / 128) (l % 128)
    ∃ n, m.tod.now + 2000 * 2 ^ 48 ≤ (base + n * cycle) * 2 ^ 48 ∧ (0 < n → (base + (n - 1) * cycle) * 2 ^ 48 < m.tod.now + 2000 * 2 ^ 48) ∧
      gateConfigChange c m l = m.setGate l { m.gate l with
        err := 0, shown := base + n * cycle
        change := some ⟨base + n * cycle, cycle, c.get schGateExtExt (l / 128) (l % 128), c.get schGateCtrlAdminLen (l / 128) (l % 128)⟩ } := by
  intro base cycle
  obtain ⟨n, after, first, time⟩ := cycleStart_ahead (now := m.tod.now) (base := base) (cycle := cycle) (by omega)
  refine ⟨n, after, first, ?_⟩
  rw [← time, gateConfigChange]
  dsimp only
  rw [if_neg (by rw [free]; decide), if_neg (by simp; omega)]

/-- Settles O22. -/
theorem pipelinesPortsAndGatesAreControlled : Obligations.PipelinesPortsAndGatesAreControlled := by
  unfold Obligations.PipelinesPortsAndGatesAreControlled
  refine ⟨fun s q n => does_pplDrain n, fun s q g p speed fec lane off => ?_, fun s q l on => does_gateConfigChange l fun c m => ?_,
    fun s q l off => does_gateConfigChange l fun c m => ?_, fun c m l pending => gateConfigChange_of_pending pending,
    fun c m l free bad => gateConfigChange_of_bad free bad,
    fun c m l free low high some' short ext => gateConfigChange_of_good free low high some' short ext, fun s q l => does_gateChangeCancel l⟩
  · refine cast (congrArg (Does _ _ _ _ _ _ _ _) ?_) (does_portEnable g p speed fec lane off)
    funext c m
    rfl
  · rw [if_neg (by rw [on]; decide)]
  · rw [if_pos off, gateCancel]

end
end Sys2Proof.Machine

/-! Shaper writes and steps of the time of day by register (R228, R230, R236). -/
namespace Sys2Proof.Machine

section
variable {s : State} {q : Requester} {r : Reg} {off : BitVec 27} {v : Word} {d n : Nat} {f : Cfg → Mach → Dev}

theorem doesWord_rate (place : off.toNat = regAddr r d n 0) (plain : r ∉ [Reg.hifPortRole, .pplReason, .pwrClkGate0])
    (hook : ∀ c m, writeHook s.conf s.mach (reqNum q) ⟨r, d, n, 0, v.toNat⟩ ⟨c, m⟩ = f c m) : DoesWord (.shaperRateWrite q off v) s q r d n 0 v f :=
  doesWord_of_hook (w := fun d => regWrite d q off.toNat v) rfl (by rw [place]) plain fun c m _ => hook c m

theorem doesWord_burst (place : off.toNat = regAddr r d n 0) (plain : r ∉ [Reg.hifPortRole, .pplReason, .pwrClkGate0])
    (hook : ∀ c m, writeHook s.conf s.mach (reqNum q) ⟨r, d, n, 0, v.toNat⟩ ⟨c, m⟩ = f c m) : DoesWord (.shaperBurstWrite q off v) s q r d n 0 v f :=
  doesWord_of_hook (w := fun d => regWrite d q off.toNat v) rfl (by rw [place]) plain fun c m _ => hook c m

/-! ### Buckets -/

section
variable {c c' : Cfg} {m : Mach} {k : Node} {a b : Option Nat}

/-- What a write leaves of a bucket. -/
def Bucket.written (x : Bucket) (burst : Nat) : Option Nat → Bucket
  | some r => x.rst burst r
  | none => x

theorem rateWrite_eq (c c' : Cfg) (m : Mach) (k : Node) (a b : Option Nat) : rateWrite c c' m k a b = { m with sch := { m.sch with
    cir := Tbl.put {} m.sch.cir k.key ((cirNow c m k).written (k.cbs c') a)
    pir := Tbl.put {} m.sch.pir k.key ((pirNow c m k).written (k.pbs c') b) } } := by
  cases a <;> cases b <;> rfl

theorem cir_of_rateWrite (ordered : Tbl.rising m.sch.cir = true) :
    Tbl.look {} (rateWrite c c' m k a b).sch.cir k.key = (cirNow c m k).written (k.cbs c') a := by
  rw [rateWrite_eq]
  exact Tbl.look_put_self _ _ _ _ ordered

theorem pir_of_rateWrite (ordered : Tbl.rising m.sch.pir = true) :
    Tbl.look {} (rateWrite c c' m k a b).sch.pir k.key = (pirNow c m k).written (k.pbs c') b := by
  rw [rateWrite_eq]
  exact Tbl.look_put_self _ _ _ _ ordered

theorem rateWrite_other (cir : Tbl.rising m.sch.cir = true) (pir : Tbl.rising m.sch.pir = true) {i : Nat} (other : i ≠ k.key) :
    Tbl.look {} (rateWrite c c' m k a b).sch.cir i = Tbl.look {} m.sch.cir i ∧
    Tbl.look {} (rateWrite c c' m k a b).sch.pir i = Tbl.look {} m.sch.pir i := by
  rw [rateWrite_eq]
  exact ⟨Tbl.look_put_other _ _ _ _ other cir, Tbl.look_put_other _ _ _ _ other pir⟩

end

theorem refill_within (b : Bucket) (rate burst t : Nat) : -16384 * 2 ^ 24 ≤ (b.refill rate burst t).tok ∧
    (b.refill rate burst t).tok ≤ (burst : Int) * 2 ^ 24 := by
  unfold Bucket.refill
  dsimp only
  omega

/-- While time goes on, nothing is taken. -/
theorem refill_grows {b : Bucket} {rate burst t : Nat} (later : b.last ≤ t) (held : b.tok ≤ (burst : Int) * 2 ^ 24) :
    b.tok ≤ (b.refill rate burst t).tok := by
  have passed : (0 : Int) ≤ (rate : Int) * ((t : Int) - b.last) := Int.mul_nonneg (by omega) (by omega)
  have added : (0 : Int) ≤ ((rate : Int) * ((t : Int) - b.last) * 256 + b.frac) / 8_000_000 := Int.ediv_nonneg (by omega) (by omega)
  unfold Bucket.refill
  dsimp only
  omega

/-- Settles O23. -/
theorem shaperWritesAccrueThenReset : Obligations.ShaperWritesAccrueThenReset := by
  unfold Obligations.ShaperWritesAccrueThenReset
  refine ⟨fun s q off v d n => ⟨?_, ?_, ?_, ?_, ?_, ?_, ?_, ?_⟩, fun c c' m n a b cir pir => ?_,
    fun b rate burst t => ⟨(refill_within ..).1, (refill_within ..).2, rfl⟩, fun b rate burst t later held _ => refill_grows later held⟩
  · exact fun place => doesWord_rate place (by decide) fun _ _ => rfl
  · exact fun place => doesWord_rate place (by decide) fun _ _ => rfl
  · exact fun place => doesWord_rate place (by decide) fun _ _ => rfl
  · exact fun place => doesWord_rate place (by decide) fun _ _ => rfl
  · exact fun place => doesWord_rate place (by decide) fun _ _ => rfl
  · exact fun place => doesWord_burst place (by decide) fun _ _ => rfl
  · exact fun place => doesWord_burst place (by decide) fun _ _ => rfl
  · exact fun place => doesWord_burst place (by decide) fun _ _ => rfl
  · intro t
    refine ⟨?_, fun k other => rateWrite_other cir pir other, fun e => ?_, fun e => ?_, fun e => ?_, fun e => ?_, fun e => ?_, fun e => ?_, fun e => ?_,
      fun e => ?_⟩
    · rw [show t = rateWrite c c' m n a b from rfl, rateWrite_eq]
    all_goals subst e
    · exact cir_of_rateWrite cir
    · exact pir_of_rateWrite pir
    · exact cir_of_rateWrite cir
    · exact cir_of_rateWrite cir
    · exact cir_of_rateWrite cir
    · exact pir_of_rateWrite pir
    · exact pir_of_rateWrite pir
    · exact pir_of_rateWrite pir

end

/-! ### Steps of the time of day -/

section
variable {s : State} {q : Requester} {m : Mach}

theorem writeHook_todCtrl (c : Cfg) (m : Mach) (n i j k w : Nat) (d : Dev) : writeHook c m n ⟨.todCtrl, i, j, k, w⟩ d =
    let stepped := if bits w todCtrlStep.hi todCtrlStep.lo == 1 then todStep d.cfg d.m else d.m
    let moved := if bits w todCtrlOffset.hi todCtrlOffset.lo == 1 then todOffset d.cfg stepped else stepped
    { d with m := if bits w todCtrlPpsMode.hi todCtrlPpsMode.lo = softVal c m todCtrlPpsMode i j k then moved
        else { moved with tod := { moved.tod with aligned := false } } } := rfl

theorem does_todStep {f : Cfg → Mach → Dev} (act : ∀ c m, s.mach.SameButReg m → (⟨c, todStep c m⟩ : Dev) = f c m) :
    Does (.todStep q) s q (todCtrlStep, 1) [] 0 0 0 f :=
  does_of_hook .todCtrl rfl rfl (by decide) fun c m same => by
    rw [writeHook_todCtrl, val_fieldWord_self (r := .todCtrl) (by decide),
      val_fieldWord_of_idle (r := .todCtrl) (y := todCtrlOffset) rfl (by decide) (by decide) (by decide) (by decide),
      val_fieldWord_of_soft (r := .todCtrl) rfl (by decide) (by decide) (by decide)]
    dsimp only
    rw [if_pos rfl]
    exact act c m same

theorem does_todOffset {f : Cfg → Mach → Dev} (act : ∀ c m, s.mach.SameButReg m → (⟨c, todOffset c m⟩ : Dev) = f c m) :
    Does (.todOffset q) s q (todCtrlOffset, 1) [] 0 0 0 f :=
  does_of_hook .todCtrl rfl rfl (by decide) fun c m same => by
    rw [writeHook_todCtrl, val_fieldWord_self (r := .todCtrl) (y := todCtrlOffset) (by decide),
      val_fieldWord_of_idle (r := .todCtrl) (y := todCtrlStep) rfl (by decide) (by decide) (by decide) (by decide),
      val_fieldWord_of_soft (r := .todCtrl) rfl (by decide) (by decide) (by decide)]
    dsimp only
    rw [if_pos rfl]
    exact act c m same

theorem scheduleStep_of_free (free : m.tod.stepAt = none) (tgt : Option Nat) (add : Int) :
    scheduleStep m tgt add = { m with tod := { m.tod with stepAt := some (stepTime m), stepTo := tgt, stepBy := add } } := by
  rw [scheduleStep, if_neg (by rw [free]; decide)]

theorem scheduleStep_of_pending (pending : m.tod.stepAt.isSome = true) (tgt : Option Nat) (add : Int) : scheduleStep m tgt add = m := by
  rw [scheduleStep, if_pos pending]

theorem ceilDiv_mul_lt {a b : Nat} (pos : 0 < b) : ceilDiv a b * b < a + b := by
  have := Nat.div_mul_le_self (a + b - 1) b
  unfold ceilDiv
  omega

theorem stepTime_ahead (m : Mach) : m.tod.now + 2000 * 2 ^ 48 ≤ stepTime m * 2 ^ 48 ∧ stepTime m * 2 ^ 48 < m.tod.now + 3000 * 2 ^ 48 := by
  have reach := (ceilDiv_least (a := m.tod.now + 2000 * 2 ^ 48) (b := 1000 * 2 ^ 48) (by decide)).1
  have short := ceilDiv_mul_lt (a := m.tod.now + 2000 * 2 ^ 48) (b := 1000 * 2 ^ 48) (by decide)
  rw [Nat.add_assoc, ← Nat.add_mul] at short
  rw [stepTime, Nat.mul_assoc]
  exact ⟨reach, short⟩

/-- Settles O24. -/
theorem todStepsAreScheduledOnce : Obligations.TodStepsAreScheduledOnce := by
  unfold Obligations.TodStepsAreScheduledOnce
  refine ⟨fun s q free => ⟨does_todStep fun c m same => ?_, does_todOffset fun c m same => ?_⟩,
    fun s q pending => ⟨does_todStep fun c m same => ?_, does_todOffset fun c m same => ?_⟩,
    fun m => ⟨Dvd.intro_left _ rfl, (stepTime_ahead m).1, (stepTime_ahead m).2⟩⟩
  · rw [todStep, scheduleStep_of_free (by rwa [same.tod])]
  · rw [todOffset, scheduleStep_of_free (by rwa [same.tod])]
  · rw [todStep, scheduleStep_of_pending (by rwa [same.tod])]
  · rw [todOffset, scheduleStep_of_pending (by rwa [same.tod])]

end
end Sys2Proof.Machine

/-! MACsec associations by register, and keys made ready (R361, R364, R365, R367). -/
namespace Sys2Proof.Machine

section
variable {s : State} {q : Requester} {die : Fin 4} {e : Fin 4096}

theorem writeHook_mscSaCtrl (c : Cfg) (m : Mach) (n i j k w : Nat) (d : Dev) : writeHook c m n ⟨.mscSaCtrl, i, j, k, w⟩ d =
    { d with m := if bits w mscSaCtrlInUse.hi mscSaCtrlInUse.lo == 0 && softVal c m mscSaCtrlInUse i j k == 1 then setReady d.m i j false
        else if bits w mscSaCtrlInUse.hi mscSaCtrlInUse.lo == 1 && softVal c m mscSaCtrlInUse i j k == 0 then saInstalled d.m i j else d.m } := rfl

theorem writeHook_mscBulkCtrl (c : Cfg) (m : Mach) (n i j k w : Nat) (d : Dev) : writeHook c m n ⟨.mscBulkCtrl, i, j, k, w⟩ d =
    { d with m := if bits w mscBulkCtrlGo.hi mscBulkCtrlGo.lo == 1 then bulkGo d.cfg d.m i else d.m } := rfl

theorem inUse_val {c : Cfg} {m : Mach} {i j v : Nat} (bit : v < 2) :
    bits (fieldWord c m [(mscSaCtrlInUse, v)] i j 0).toNat mscSaCtrlInUse.hi mscSaCtrlInUse.lo = v :=
  (val_fieldWord_self (r := .mscSaCtrl) (by decide)).trans (Nat.mod_eq_of_lt bit)

/-- `IN_USE` set, by what it held. -/
theorem does_inUseSet {f : Cfg → Mach → Dev}
    (act : ∀ c m, s.mach.SameButReg m → (⟨c, if s.conf.get mscSaCtrlInUse die e = 0 then saInstalled m die e else m⟩ : Dev) = f c m) :
    Does (.mscSaInUseSet q die e) s q (mscSaCtrlInUse, 1) [] die e 0 f :=
  does_of_hook .mscSaCtrl rfl rfl (by decide) fun c m same => by
    rw [writeHook_mscSaCtrl, inUse_val (by decide), ← act c m same]
    simp [show softVal s.conf s.mach mscSaCtrlInUse die e 0 = s.conf.get mscSaCtrlInUse die e from rfl]

theorem does_inUseClear {f : Cfg → Mach → Dev}
    (act : ∀ c m, s.mach.SameButReg m → (⟨c, if s.conf.get mscSaCtrlInUse die e = 1 then setReady m die e false else m⟩ : Dev) = f c m) :
    Does (.mscSaInUseClear q die e) s q (mscSaCtrlInUse, 0) [] die e 0 f :=
  does_of_hook .mscSaCtrl rfl rfl (by decide) fun c m same => by
    rw [writeHook_mscSaCtrl, inUse_val (by decide), ← act c m same]
    simp [show softVal s.conf s.mach mscSaCtrlInUse die e 0 = s.conf.get mscSaCtrlInUse die e from rfl]

theorem does_bulkGo {f : Cfg → Mach → Dev} (act : ∀ c m, s.mach.SameButReg m → (⟨c, bulkGo c m die⟩ : Dev) = f c m) :
    Does (.mscBulkGo q die) s q (mscBulkCtrlGo, 1) [] die 0 0 f :=
  does_of_hook .mscBulkCtrl rfl rfl (by decide) fun c m same => by
    rw [writeHook_mscBulkCtrl, val_fieldWord_self (r := .mscBulkCtrl) (by decide)]
    exact act c m same

theorem Cfg.get_live {c : Cfg} {x : Fld} {i j k : Nat} (live : x.part = .live) : c.get x i j k = fldIn c.live x i j k := by
  rw [Cfg.get, live]

/-- What an accepted write of a whole register stores with the live configuration. -/
theorem stored_live {r : Reg} {i j k : Nat} {v : Word} (whole : loOf r = none) (plain : r ∉ [Reg.hifPortRole, .pplReason, .pwrClkGate0])
    (once : r ≠ .fwdEgr) : (s.stored r i j k v).live =
      ((regFields r).filter fun x => x.settable && decide (x.part = .live)).foldl (fun t x => putFld t x i j k (bits v.toNat x.hi x.lo)) s.conf.live := by
  rw [State.stored, halves_of_whole (x := ⟨r, i, j, k, false⟩) whole, Half.eff_of_plain plain, storeCfg]
  simp only [mirrorHalves, List.flatMap_cons, List.flatMap_nil, List.append_nil, if_neg once]
  rfl

/-- `IN_USE` is stored as it is written. -/
theorem stored_inUse (ordered : Tbl.rising s.conf.live = true) :
    (s.stored .mscSaCtrl die e 0 (fieldWord s.conf s.mach [(mscSaCtrlInUse, 1)] die e 0)).on mscSaCtrlInUse die e = true := by
  have fields : ((regFields .mscSaCtrl).filter fun x => x.settable && decide (x.part = .live)) = [mscSaCtrlInUse] := by decide
  have shown : (s.stored .mscSaCtrl die e 0 (fieldWord s.conf s.mach [(mscSaCtrlInUse, 1)] die e 0)).get mscSaCtrlInUse die e = 1 := by
    rw [Cfg.get_live (by decide), stored_live rfl (by decide) (by decide), fields, List.foldl_cons, List.foldl_nil, inUse_val (by decide),
      fldIn_putFld_self ordered (by decide)]
    rfl
  rw [Cfg.on, shown]
  rfl

theorem storeStat_mscSecyTx (m : Mach) (n i j w : Nat) : storeStat m n ⟨.mscSecyTx, i, j, 0, w⟩ =
    (m.setSt mscSecyTxTxAn (bits w 31 30) i j).setSt mscSecyTxArmed (bits w 27 27) i j := rfl

/-- What an accepted write of a whole register stores with the status. -/
theorem wrote_eq {r : Reg} {i j k : Nat} {v : Word} (whole : loOf r = none) (plain : r ∉ [Reg.hifPortRole, .pplReason, .pwrClkGate0])
    (ordered : Tbl.rising s.mach.reg.stat = true) : ∃ m, Tbl.rising m.reg.stat = true ∧
      s.wrote q r i j k v = storeStat (noteWrote m ⟨r, i, j, k, v.toNat⟩) (reqNum q) ⟨r, i, j, k, v.toNat⟩ := by
  have one : halves s.dev.cfg s.dev.m ⟨r, i, j, k, false⟩ v = [⟨r, i, j, k, v.toNat⟩] := by
    rw [halves_of_whole (x := ⟨r, i, j, k, false⟩) whole, Half.eff_of_plain plain]
  rw [State.wrote, one]
  exact ⟨_, ((clearStat_statusOnly fun _ => False.elim).trans (countWrite_ordered (hs := [⟨r, i, j, k, v.toNat⟩]))).ordered ordered, rfl⟩

theorem wrote_txAn (ordered : Tbl.rising s.mach.reg.stat = true) {i j : Nat} {v : Word} :
    (s.wrote q .mscSecyTx i j 0 v).st mscSecyTxTxAn i j = bits v.toNat 31 30 := by
  obtain ⟨m, rising, wrote⟩ := wrote_eq (q := q) (r := .mscSecyTx) (i := i) (j := j) (k := 0) (v := v) rfl (by decide) ordered
  rw [wrote, show noteWrote m ⟨.mscSecyTx, i, j, 0, v.toNat⟩ = m from rfl, storeStat_mscSecyTx,
    Mach.st_setSt_other (Mach.rising_setSt rising _ _ _ _ _) (by decide) (by decide) (by decide) (by decide), Mach.st_setSt_self rising (by decide)]
  exact Nat.mod_eq_of_lt (bits_lt _ _ _)

end

/-! ### Keys made ready -/

section
variable {c : Cfg} {m : Mach} {die e : Nat}

theorem saWaits_iff : saWaits c m die e = true ↔ c.on mscSaCtrlInUse die e = true ∧ saIdx die e ∉ m.msc.failed := by
  simp [saWaits]

theorem foldl_of_still {α β : Type} {f : β → α → β} {b : β} {l : List α} (still : ∀ a ∈ l, f b a = b) : l.foldl f b = b := by
  induction l with
  | nil => rfl
  | cons a l ih =>
    rw [List.foldl_cons, still a List.mem_cons_self]
    exact ih fun a ha => still a (List.mem_cons_of_mem _ ha)

/-- A die's preparation of one association in a bulk rekey. -/
def bulkPrep (c : Cfg) (die : Nat) (m : Mach) (e : Nat) : Mach :=
  if c.on mscSaCtrlInUse die e = true ∧ saIdx die e ∉ m.msc.failed ∧ saIdx die e ∉ m.msc.late then
    { m with msc := { m.msc with ready := saIdx die e :: m.msc.ready.filter (· != saIdx die e) } }
  else m

theorem bulkPrep_eq (c : Cfg) (die : Nat) (m : Mach) (e : Nat) :
    (if saWaits c m die e && !m.msc.late.contains (saIdx die e) then setReady m die e true else m) = bulkPrep c die m e := by
  rw [bulkPrep]
  simp only [Bool.and_eq_true, saWaits_iff, Bool.not_eq_true', List.contains_eq_mem, decide_eq_false_iff_not, and_assoc]
  rfl

theorem bulkPrep_late (c : Cfg) (die : Nat) (m : Mach) (e : Nat) : (bulkPrep c die m e).msc.late = m.msc.late := by
  unfold bulkPrep
  split <;> rfl

theorem bulkPreps_late (c : Cfg) (die : Nat) (l : List Nat) (m : Mach) : (l.foldl (bulkPrep c die) m).msc.late = m.msc.late := by
  induction l generalizing m with
  | nil => rfl
  | cons e l ih => rw [List.foldl_cons, ih, bulkPrep_late]

/-- A SecY that is armed and whose next association is usable switches. -/
def bulkSwitch (c : Cfg) (die : Nat) (m : Mach) (n : Nat) : Mach :=
  if m.stOn mscSecyTxArmed die n = true ∧ saUsable c m die (4 * c.get mscSecyTxSaGroup die n + c.get mscSecyTxNextAn die n) = true then
    (m.setSt mscSecyTxTxAn (c.get mscSecyTxNextAn die n) die n).setSt mscSecyTxArmed 0 die n
  else m

theorem bulkSwitch_eq (c : Cfg) (die : Nat) (m : Mach) (n : Nat) :
    (if m.stOn mscSecyTxArmed die n && saUsable c m die (4 * c.get mscSecyTxSaGroup die n + c.get mscSecyTxNextAn die n) then
      (m.setSt mscSecyTxTxAn (c.get mscSecyTxNextAn die n) die n).setSt mscSecyTxArmed 0 die n else m) = bulkSwitch c die m n := by
  rw [bulkSwitch]
  simp only [Bool.and_eq_true]

/-- A bulk rekey that holds leave, in its three parts. -/
theorem bulkDone_of_held (held : m.holdsLeave opRekey die = true) : bulkDone c m die =
    releaseLeave c ((List.range 64).foldl (bulkSwitch c die) { (List.range 4096).foldl (bulkPrep c die) m with msc :=
      { ((List.range 4096).foldl (bulkPrep c die) m).msc with late := m.msc.late.filter (· / 4096 != die) } }) opRekey die := by
  rw [bulkDone, if_neg (by rw [held]; decide)]
  simp only [bulkPrep_eq, bulkSwitch_eq]
  rw [bulkPreps_late]

theorem bulkDone_parts {prep switch : Mach → Nat → Mach} (preps : prep = bulkPrep c die) (switches : switch = bulkSwitch c die)
    (held : m.holdsLeave opRekey die = true) : bulkDone c m die =
    releaseLeave c ((List.range 64).foldl switch { (List.range 4096).foldl prep m with msc :=
      { ((List.range 4096).foldl prep m).msc with late := m.msc.late.filter (· / 4096 != die) } }) opRekey die := by
  rw [preps, switches, bulkDone_of_held held]

/-- Settles O25. -/
theorem macsecAssociationsFollowTheirRegisters : Obligations.MacsecAssociationsFollowTheirRegisters := by
  unfold Obligations.MacsecAssociationsFollowTheirRegisters
  refine ⟨⟨fun s q die e on => does_inUseSet fun c m _ => ?_, fun s q die e off => does_inUseSet fun c m _ => ?_, fun s q die e ordered => stored_inUse ordered,
    fun s q die e on => does_inUseClear fun c m _ => ?_, fun s q die e off => does_inUseClear fun c m _ => ?_,
    fun s q die n an => does_of_hook .mscSecyTx rfl rfl (by decide) fun _ _ _ => rfl, fun s q die n an ordered => ?_,
    fun s q die busy => does_bulkGo fun c m same => ?_, fun s q die idle free => does_bulkGo fun c m same => ?_⟩,
    fun s die e live => ⟨fun no => ?_, fun on ok => ?_⟩, fun s die live none => ?_, fun s die live held => ?_⟩
  · rw [if_neg (by rw [on]; decide)]
  · rw [if_pos off]
    rfl
  · rw [if_pos on]
    rfl
  · rw [if_neg (by rw [off]; decide)]
  · exact (wrote_txAn ordered).trans ((val_fieldWord_self (r := .mscSecyTx) (y := mscSecyTxTxAn) (by decide)).trans (Nat.mod_eq_of_lt an.isLt))
  · rw [bulkGo, Mach.holdsLeave, Mach.waitsLeave, same.pwr, if_pos (by simpa [Mach.holdsLeave, Mach.waitsLeave] using busy)]
  · rw [bulkGo, if_neg]
    rw [Mach.holdsLeave, Mach.waitsLeave, same.pwr]
    rw [Mach.holdsLeave] at idle
    rw [Mach.waitsLeave] at free
    rw [idle, free]
    decide
  · have row : exec (.mscSaReady die e) s = .next (s.withM (saReady s.conf s.mach die e)) := State.next_live live _
    have waits : ¬saWaits s.conf s.mach die e = true := by
      rw [saWaits_iff]
      rintro ⟨on, ok⟩
      rcases no with off | failed
      · rw [off] at on
        cases on
      · exact ok failed
    rw [row, saReady, if_neg waits]
    rfl
  · have row : exec (.mscSaReady die e) s = .next (s.withM (saReady s.conf s.mach die e)) := State.next_live live _
    rw [row, saReady, if_pos (saWaits_iff.mpr ⟨on, ok⟩)]
    rfl
  · have row : exec (.mscBulkPrepareDone die) s = .next (s.withM (settle s.conf (bulkDone s.conf s.mach die))) := State.next_live live _
    rw [row, bulkDone, if_pos (by rw [none]; decide)]
  · have row : exec (.mscBulkPrepareDone die) s = .next (s.withM (settle s.conf (bulkDone s.conf s.mach die))) := State.next_live live _
    intro prep able an sw
    refine ⟨row.trans (congrArg (fun m => (.next (s.withM (settle s.conf m)) : Outcome)) (bulkDone_parts (prep := prep) rfl rfl held)), fun off => ?_,
      fun off => foldl_of_still fun n mem => ?_⟩
    · have same : (List.range 4096).foldl prep s.mach = s.mach := foldl_of_still fun e mem => if_neg (by simp [off e (List.mem_range.mp mem)])
      simp only [able, same]
    · exact if_neg (by simp [off n (List.mem_range.mp mem)])

end
end Sys2Proof.Machine

/-! The fault controller's restore register (R406). Where the status table is out of order, which the statement does not exclude, counting the write in its
counter bank brings to light an entry that the search for the register stopped short of. -/
namespace Sys2Proof.Machine

/-- A device whose status table holds a counter of the fault controller's bank, about to wrap, before `FLT_RESTORE` with `RESULT` 1. -/
def restoreHidden : State :=
  { dev :=
      { cfg :=
          { fuse := {}
            live := putFld (putFld [] pmcCntCfgEn 1 0 0 1) pmcCntCfgEvent 1 0 0 4 }
        m :=
          { glb := { inReset := false, stage := .waitHost }
            reg := { stat := [(regAddr .pmcCntLo 1 0 0, 0xFFFFFFFF), (regAddr .fltRestore 0 0 0, 0x10000000)] } } }
    pending := [] }

/-- `RESULT` after a command. -/
def shownResult : Outcome → Option Nat
  | .next t => some (t.mach.st fltRestoreResult)
  | _ => none

theorem restoreHidden_takes : Takes restoreHidden.dev .agent .fltRestore 0 0 0
    (fieldWord restoreHidden.conf restoreHidden.mach [(fltRestoreGo, 1), (fltRestoreKind, 0), (fltRestoreInstance, 0)] 0 0 0) where
  reach := rfl
  aligned := by decide +kernel
  may := by decide +kernel
  free := by decide +kernel
  present := by decide +kernel
  linked := by decide +kernel
  here := by decide +kernel
  whole := by decide +kernel
  accepted := by decide +kernel

/-- The write's count clears the counter's word, and the restore that the word hid counts as running. -/
theorem restoreHidden_shows_running : shownResult (exec (.fltRestoreGo .agent 0 0) restoreHidden) = some 1 := by decide +kernel

/-- Refutes O26: `RESULT` reads 0 before the write, which is to be turned away with 4, but the write finds `RESULT` 1 and does nothing. -/
theorem not_faultRegistersAct : ¬ Obligations.FaultRegistersAct := by
  unfold Obligations.FaultRegistersAct
  intro ⟨_, _, _, _, _, _, refused, _⟩
  have idle : restoreHidden.mach.st fltRestoreResult ≠ 1 := by decide +kernel
  have whole : restorable restoreHidden.mach 0 0 = false := by decide +kernel
  have shown := congrArg shownResult (refused restoreHidden .agent 0 0 idle (.inr (.inr whole)) rfl restoreHidden_takes)
  rw [restoreHidden_shows_running] at shown
  revert shown
  decide +kernel

end Sys2Proof.Machine

/-! Duilo's controls and the cores' by register (R271, R305, R311). -/
namespace Sys2Proof.Machine

section
variable {s : State} {q : Requester} {n : Fin 128}

theorem writeHook_duoCtrl (c : Cfg) (m : Mach) (a i j k w : Nat) (d : Dev) : writeHook c m a ⟨.duoCtrl, i, j, k, w⟩ d =
    let reviewed := if bits w duoCtrlYield.hi duoCtrlYield.lo == 1 && softVal c m duoCtrlYield i j k == 0 then leaseCheck d.cfg d.m else d.m
    { d with m := if bits w duoCtrlDigestNow.hi duoCtrlDigestNow.lo == 1 then roundsFrom d.cfg reviewed (fun _ => true) else reviewed } := rfl

theorem writeHook_tskCoreCtrl (c : Cfg) (m : Mach) (a i j k w : Nat) (d : Dev) : writeHook c m a ⟨.tskCoreCtrl, i, j, k, w⟩ d =
    { d with m := if bits w tskCoreCtrlReset.hi tskCoreCtrlReset.lo == 1 then coreReset d.cfg d.m i
      else if bits w tskCoreCtrlRun.hi tskCoreCtrlRun.lo == 1 && softVal c m tskCoreCtrlRun i j k == 0 then notifyReady d.cfg (coreRunStart d.cfg d.m i)
      else if bits w tskCoreCtrlRun.hi tskCoreCtrlRun.lo == 0 && softVal c m tskCoreCtrlRun i j k == 1 then coreStopped (coreRunStop d.m i) i
      else d.m } := rfl

/-- A field cannot be both as it was and turned on. -/
theorem not_sets_kept (v : Nat) : ¬(v == 1 && v == 0) = true := by
  simp only [Bool.and_eq_true, beq_iff_eq]
  omega

theorem does_digestNow : Does (.digestNow q) s q (duoCtrlDigestNow, 1) [] 0 0 0 fun c m => ⟨c, roundsFrom c m fun _ => true⟩ :=
  does_of_hook .duoCtrl rfl rfl (by decide) fun c m _ => by
    rw [writeHook_duoCtrl, val_fieldWord_self (r := .duoCtrl) (by decide),
      val_fieldWord_of_soft (r := .duoCtrl) (y := duoCtrlYield) rfl (by decide) (by decide) (by decide)]
    dsimp only
    rw [if_neg (not_sets_kept _)]
    rfl

theorem yield_val {c : Cfg} {m : Mach} {v : Nat} (bit : v < 2) :
    bits (fieldWord c m [(duoCtrlYield, v)] 0 0 0).toNat duoCtrlYield.hi duoCtrlYield.lo = v :=
  (val_fieldWord_self (r := .duoCtrl) (by decide)).trans (Nat.mod_eq_of_lt bit)

theorem digestNow_idle {c : Cfg} {m : Mach} {v : Nat} :
    bits (fieldWord c m [(duoCtrlYield, v)] 0 0 0).toNat duoCtrlDigestNow.hi duoCtrlDigestNow.lo = 0 :=
  val_fieldWord_of_idle (r := .duoCtrl) rfl (by simp only [List.map]; decide) (by decide) (by decide) (by simp only [List.map]; decide)

theorem run_val {c : Cfg} {m : Mach} {i v : Nat} (bit : v < 2) :
    bits (fieldWord c m [(tskCoreCtrlRun, v)] i 0 0).toNat tskCoreCtrlRun.hi tskCoreCtrlRun.lo = v :=
  (val_fieldWord_self (r := .tskCoreCtrl) (by decide)).trans (Nat.mod_eq_of_lt bit)

theorem coreReset_idle {c : Cfg} {m : Mach} {i v : Nat} :
    bits (fieldWord c m [(tskCoreCtrlRun, v)] i 0 0).toNat tskCoreCtrlReset.hi tskCoreCtrlReset.lo = 0 :=
  val_fieldWord_of_idle (r := .tskCoreCtrl) rfl (by simp only [List.map]; decide) (by decide) (by decide) (by simp only [List.map]; decide)

end

section
variable {c : Cfg} {m : Mach} {n : Nat}

theorem roundsFrom_of_none {p : Nat → Bool} (none : ∀ n < 8, (m.link n).state ≠ 4 ∨ (m.link n).round.isSome = true ∨ p n = false) :
    roundsFrom c m p = m := by
  refine foldl_of_still fun n mem => if_neg ?_
  rcases none n (List.mem_range.mp mem) with h | h | h <;> simp [h]
  exact fun _ unbegun => absurd h (by rw [unbegun]; decide)

theorem coreRunStart_of_reset (reset : (m.core n).state = .reset) : coreRunStart c m n = m.setCore n { m.core n with
    state := .running, slotB := c.on tskGroupCfgSlot (c.get tskCoreCtrlGroup n), entry := c.get tskGroupCfgEntry (c.get tskCoreCtrlGroup n) } := by
  rw [coreRunStart]
  dsimp only
  rw [reset]

theorem coreRunStart_of_stopping (stopping : (m.core n).state = .stopping) :
    coreRunStart c m n = m.setCore n { m.core n with state := .running } := by
  rw [coreRunStart]
  dsimp only
  rw [stopping]

theorem coreRunStart_of_isolated (isolated : (m.core n).state = .isolated) : coreRunStart c m n = m := by
  rw [coreRunStart, isolated]

theorem core_setCore (ordered : Tbl.rising m.tsk.cores = true) (x : Core) : (m.setCore n x).core n = x := Tbl.look_put_self _ _ _ _ ordered

theorem rising_setCore (ordered : Tbl.rising m.tsk.cores = true) (x : Core) : Tbl.rising (m.setCore n x).tsk.cores = true :=
  Tbl.rising_put _ _ _ _ ordered

theorem coreStopped_of_empty (ordered : Tbl.rising m.tsk.cores = true) (running : (m.core n).state = .running) (slots : (m.core n).slots = [])
    (stall : (m.core n).stall = none) : (coreStopped (coreRunStop m n) n).core n = { m.core n with state := .reset, armed := false, irq := false } := by
  have stopped : coreRunStop m n = m.setCore n { m.core n with state := .stopping } := if_pos running
  rw [stopped, coreStopped]
  dsimp only
  rw [core_setCore ordered, if_pos (by simp [slots, stall]), core_setCore (rising_setCore ordered _)]

theorem coreStopped_of_busy (ordered : Tbl.rising m.tsk.cores = true) (running : (m.core n).state = .running)
    (busy : (m.core n).slots ≠ [] ∨ (m.core n).stall ≠ none) : (coreStopped (coreRunStop m n) n).core n = { m.core n with state := .stopping } := by
  have stopped : coreRunStop m n = m.setCore n { m.core n with state := .stopping } := if_pos running
  rw [stopped, coreStopped]
  dsimp only
  rw [core_setCore ordered, if_neg (by rcases busy with h | h <;> simp [h]), core_setCore ordered]

end

/-- Settles O28. -/
theorem duiloAndCoreControlsAct : Obligations.DuiloAndCoreControlsAct := by
  unfold Obligations.DuiloAndCoreControlsAct
  refine ⟨fun s q => does_digestNow, fun c m p none => roundsFrom_of_none none, fun s q off => ?_, fun s q => ?_, fun s q n off => ?_,
    fun c m n reset => coreRunStart_of_reset reset, fun c m n stopping => coreRunStart_of_stopping stopping,
    fun c m n isolated => coreRunStart_of_isolated isolated, fun s q n on => ?_,
    fun m n ordered running slots stall => coreStopped_of_empty ordered running slots stall,
    fun m n ordered running busy => coreStopped_of_busy ordered running busy, fun s q n => ?_⟩
  · refine does_of_hook .duoCtrl rfl rfl (by decide) fun c m _ => ?_
    rw [writeHook_duoCtrl, yield_val (by decide), digestNow_idle, show softVal s.conf s.mach duoCtrlYield 0 0 0 = 0 from off]
    rfl
  · refine does_of_hook .duoCtrl rfl rfl (by decide) fun c m _ => ?_
    rw [writeHook_duoCtrl, yield_val (by decide), digestNow_idle]
    rfl
  · refine does_of_hook .tskCoreCtrl rfl rfl (by decide) fun c m _ => ?_
    rw [writeHook_tskCoreCtrl, run_val (by decide), coreReset_idle, show softVal s.conf s.mach tskCoreCtrlRun n 0 0 = 0 from off]
    rfl
  · refine does_of_hook .tskCoreCtrl rfl rfl (by decide) fun c m _ => ?_
    rw [writeHook_tskCoreCtrl, run_val (by decide), coreReset_idle, show softVal s.conf s.mach tskCoreCtrlRun n 0 0 = 1 from on]
    rfl
  · refine does_of_hook .tskCoreCtrl rfl rfl (by decide) fun c m _ => ?_
    rw [writeHook_tskCoreCtrl, val_fieldWord_self (r := .tskCoreCtrl) (y := tskCoreCtrlReset) (by decide)]
    rfl

end Sys2Proof.Machine

/-! A command of a ring: how it is taken, checked, carried out and answered (R319, R328, R329, R331, R338, R375, R387). -/
namespace Sys2Proof.Machine

section
variable {s : State} {r : Fin 16384} {op : CmdOp} {q q' : Cmd} {slot : Nat} {m : Mach}

theorem opOf_opcode (op : CmdOp) : opOf (opcode op) = op := by cases op <;> decide

/-- Every row of a ring's commands takes the command of its opcode. -/
theorem exec_ringRow (op : CmdOp) (r : Fin 16384) (q : Cmd) (s : State) :
    exec (ringRow op r q) s = s.onSettle fun c m => ringCmd c m r (opcode op) q := by
  cases op
  case reserved =>
    change (s.onSettle fun c m => if opOf 0x7F = .reserved then ringCmd c m r 0x7F q else m) = _
    simp only [show opOf 0x7F = .reserved by decide, if_true]
    rfl
  all_goals rfl

/-- A command taken is the one given, as its ring's version carries it, and of the machine the rings alone have changed. -/
theorem cmdGet_some {m₀ : Mach} {rid opc : Nat} (got : cmdGet m₀ rid opc q = some (q', slot, m)) :
    q' = atVersion q (m₀.ring rid).ver ∧ ∃ h, m = { m₀ with hif := h } := by
  unfold cmdGet at got
  extract_lets r q₁ same start at got
  have begins (m₁ : Mach) (rings : ∃ h, m₁ = { m₀ with hif := h }) (e : some (start m₁) = some (q', slot, m)) :
      q' = q₁ ∧ ∃ h, m = { m₀ with hif := h } := by
    obtain ⟨h, rfl⟩ := rings
    obtain ⟨same, rest⟩ := Prod.mk.inj (Option.some.inj e)
    exact ⟨same.symm, _, (Prod.mk.inj rest).2.symm⟩
  split at got
  · cases got
  · split at got
    · split at got
      · obtain ⟨same, rest⟩ := Prod.mk.inj (Option.some.inj got)
        exact ⟨same.symm, _, (Prod.mk.inj rest).2.symm⟩
      · cases got
    · split at got
      · cases got
      · split at got
        · exact begins _ ⟨_, rfl⟩ got
        · split at got
          · exact begins _ ⟨_, rfl⟩ got
          · cases got

theorem atVersion_data (q : Cmd) (v : Nat) : (atVersion q v).data = q.data := by
  unfold atVersion
  split <;> rfl

theorem ringCmd_of_none {c : Cfg} {opc : Nat} (none : cmdGet m r opc q = none) : ringCmd c m r opc q = m := by
  rw [ringCmd, none]

theorem ringCmd_of_got {c : Cfg} {m₀ : Mach} {opc : Nat} (got : cmdGet m₀ r opc q = some (q', slot, m)) :
    ringCmd c m₀ r opc q = beginReads (cmdStart c m (.ring r) slot (opOf opc) q') r := by
  rw [ringCmd, got]

/-- A command that is taken ends with what `cmdStart` leaves. -/
theorem ringRow_of_got (live : s.live) (got : cmdGet s.mach r (opcode op) q = some (q', slot, m)) :
    exec (ringRow op r q) s = s.ringGoesOn r (cmdStart s.conf m (.ring r) slot op q') := by
  rw [exec_ringRow, State.onSettle_live live, ringCmd_of_got got, opOf_opcode]
  rfl

/-! ### The checks -/

theorem cmdStart_of_reserved {c : Cfg} : cmdStart c m (.ring r) slot .reserved q = complete c m r slot ⟨sBAD_OPCODE, 0, []⟩ := rfl

section
variable {c : Cfg} (named : op ≠ .reserved)
include named

theorem cmdStart_of_forbidden (no : permitted m (m.ring r).owner op q = false) :
    cmdStart c m (.ring r) slot op q = complete c m r slot ⟨sNOT_PERMITTED, 0, []⟩ := by
  simp only [cmdStart, named, no, decide_false, Bool.false_and, Bool.false_eq_true, if_false, Bool.not_false, if_true]
  rfl

variable (may : permitted m (m.ring r).owner op q = true)
include may

theorem cmdStart_of_bad_length (bad : inputOk op q = false ∨ q.outLen.toNat < outputMax op q) :
    cmdStart c m (.ring r) slot op q = complete c m r slot ⟨sBAD_LENGTH, 0, []⟩ := by
  have length : (!inputOk op q || decide (q.outLen.toNat < outputMax op q)) = true := by simpa using bad
  simp only [cmdStart, named, may, length, decide_false, Bool.false_and, Bool.false_eq_true, if_false, Bool.not_true, if_true]
  rfl

variable (input : inputOk op q = true) (room : outputMax op q ≤ q.outLen.toNat)
include input room

theorem cmdStart_of_held (held : mustHold m op = true) :
    cmdStart c m (.ring r) slot op q = { m with glb := { m.glb with held := m.glb.held ++ [.cmd op (.ring r) slot q] } } := by
  simp only [cmdStart, named, may, input, not_lt.mpr room, held, decide_false, Bool.false_and, Bool.or_self, Bool.false_eq_true, if_false, Bool.not_true,
    if_true]

variable (free : mustHold m op = false)
include free

theorem cmdStart_of_busy_store (flow : isFlowOp op = true) (store : m.fsl.ready = false) :
    cmdStart c m (.ring r) slot op q = complete c m r slot ⟨sBUSY, 0, []⟩ := by
  simp only [cmdStart, named, may, input, not_lt.mpr room, free, flow, store, decide_false, Bool.false_and, Bool.or_self, Bool.false_eq_true, if_false,
    Bool.not_true, Bool.not_false, Bool.and_self, if_true]
  rfl

theorem cmdStart_of_ready (store : isFlowOp op = true → m.fsl.ready = true) :
    cmdStart c m (.ring r) slot op q = cmdGo c m (.ring r) slot op q := by
  have open' : (isFlowOp op && !m.fsl.ready) = false := by
    cases flow : isFlowOp op
    · rfl
    · rw [store flow]
      rfl
  simp only [cmdStart, named, may, input, not_lt.mpr room, free, open', decide_false, Bool.false_and, Bool.or_self, Bool.false_eq_true, if_false,
    Bool.not_true]

end

/-- Settles O29. -/
theorem commandsAreCheckedBeforeTheyAct : Obligations.CommandsAreCheckedBeforeTheyAct := by
  unfold Obligations.CommandsAreCheckedBeforeTheyAct
  refine ⟨fun s r op q live none => ?_, fun s r opc q q' slot m live reserved got => ?_, fun s r op q q' slot m live named got =>
    ⟨fun no => ?_, fun may bad => ?_, fun may input room held => ?_, fun may input room free flow store => ?_⟩⟩
  · rw [exec_ringRow, State.onSettle_live live, ringCmd_of_none none]
  · have row : exec (.cmdReservedOpcode r opc q) s =
        .next (s.withM (settle s.conf (if opOf opc = .reserved then ringCmd s.conf s.mach r opc q else s.mach))) := State.next_live live _
    rw [row, if_pos reserved, ringCmd_of_got got, reserved]
    rfl
  · rw [ringRow_of_got live got, cmdStart_of_forbidden named no]
  · rw [ringRow_of_got live got, cmdStart_of_bad_length named may bad]
  · rw [ringRow_of_got live got, cmdStart_of_held named may input room held]
  · rw [ringRow_of_got live got, cmdStart_of_busy_store named may input room free flow store]

end
end Sys2Proof.Machine

/-! Bulk commands (R431, R433). The statement speaks of every opcode, a reserved one too: with more than 64 KiB of input such a command counts as bulk, but it
is answered by `BAD_OPCODE` before it would ask for leave. -/
namespace Sys2Proof.Machine

/-- A device whose ring 5 has one command posted, and where no bulk command may have leave. -/
def bulkOff : State :=
  { dev :=
      { cfg := { fuse := {}, live := putFld [] pwrOpEn opBulk 0 0 0 }
        m :=
          { glb := { inReset := false, stage := .waitHost }
            hif :=
              { ports := [(0, { linkUp := true, bme := true, lostAt := none })]
                rings := [(5, { state := .active, kind := .cmd, ver := 2, owner := 0, tail := 1, log2 := 6 })] } } }
    pending := [] }

/-- A command with more than 64 KiB of input. -/
def bulkInput : Cmd := { data := List.replicate 65537 0 }

/-- The command as `bulkOff` takes it. -/
def bulkTaken : Cmd × Nat × Mach := (cmdGet bulkOff.mach 5 (opcode .reserved) bulkInput).getD (bulkInput, 0, {})

/-- What the device has written after a command. -/
def written : Outcome → List Output
  | .next t => t.mach.out
  | _ => []

theorem bulkOff_got : cmdGet bulkOff.mach 5 (opcode .reserved) bulkInput = some bulkTaken := by
  have some : (cmdGet bulkOff.mach 5 (opcode .reserved) bulkInput).isSome = true := by decide +kernel
  obtain ⟨x, got⟩ := Option.isSome_iff_exists.mp some
  rw [bulkTaken, got]
  rfl

theorem bulkOff_starts : Starts bulkOff 5 .reserved bulkInput bulkTaken.1 bulkTaken.2.1 bulkTaken.2.2 where
  live := rfl
  got := bulkOff_got
  may := by decide +kernel
  input := rfl
  room := Nat.zero_le _
  free := by decide +kernel
  ready flow := by cases flow

theorem bulkTaken_bulk : isBulk .reserved bulkTaken.1 = true := by
  have taken : bulkTaken.1 = atVersion bulkInput (bulkOff.mach.ring 5).ver :=
    (cmdGet_some (q' := bulkTaken.1) (slot := bulkTaken.2.1) (m := bulkTaken.2.2) bulkOff_got).1
  have data : bulkTaken.1.data = List.replicate 65537 0 := (congrArg Cmd.data taken).trans (atVersion_data _ _)
  rw [isBulk, data, List.length_replicate]
  rfl

/-- Refutes O30: a command of a reserved opcode on `bulkOff` with 65,537 bytes of input would be refused leave, but completes with `BAD_OPCODE`, not `BUSY`. -/
theorem not_bulkCommandsTakeLeave : ¬ Obligations.BulkCommandsTakeLeave := by
  unfold Obligations.BulkCommandsTakeLeave
  intro h
  have leave : askLeave bulkOff.conf bulkTaken.2.2 opBulk bulkTaken.2.2.pwr.nextWait =
      (.refused, (askLeave bulkOff.conf bulkTaken.2.2 opBulk bulkTaken.2.2.pwr.nextWait).2) := Prod.ext (by decide +kernel) rfl
  have busy := congrArg written ((h bulkOff 5 .reserved bulkInput _ _ _ _ bulkOff_starts bulkTaken_bulk (by decide +kernel) (by decide +kernel)).2.1 leave)
  revert busy
  decide +kernel

end Sys2Proof.Machine

/-! Commands that end with an answer at once, and rings made, shown and destroyed by command (R324–R326, R329). -/
namespace Sys2Proof.Machine

section
variable {s : State} {r : Fin 16384} {op : CmdOp} {q q' : Cmd} {slot : Nat} {m m' : Mach}

theorem Starts.pwr (h : Starts s r op q q' slot m) : m.pwr = s.mach.pwr := by
  obtain ⟨hif, same⟩ := (cmdGet_some h.got).2
  rw [same]

/-- A command that starts is carried out in its place. -/
theorem exec_of_starts (named : op ≠ .reserved) (starts : Starts s r op q q' slot m) :
    exec (ringRow op r q) s = s.ringGoesOn r (cmdGo s.conf m (.ring r) slot op q') := by
  rw [ringRow_of_got starts.live starts.got, cmdStart_of_ready named starts.may starts.input starts.room starts.free starts.ready]

theorem cmdPlace_of_done {c : Cfg} {st d : Nat} {out : List Byte} {spot : Option Spot}
    (run : cmdRun c m m.pwr.nextWait (some r.val) slot op q spot = .done st d out m') : cmdPlace c m none (.ring r) slot op q spot =
      complete c { m' with pwr := { m'.pwr with waitCmds := Tbl.del m'.pwr.waitCmds m.pwr.nextWait } } r slot ⟨st, d, out⟩ := by
  simp only [cmdPlace, Option.getD_none, originRing, run]
  rfl

theorem cmdRun_of_small {c : Cfg} {n : Nat} {rid : Option Nat} {spot : Option Spot} (small : isBulk op q = false) :
    cmdRun c m n rid slot op q spot = countTable c op q (cmdEffect c m n rid slot op q spot) := by
  simp only [cmdRun, small, Bool.not_false, if_true]

/-- One that its table answers at once completes with the answer. -/
theorem exec_of_done {st d : Nat} {out : List Byte} (named : op ≠ .reserved) (plain : isFlowOp op = false) (starts : Starts s r op q q' slot m)
    (small : isBulk op q' = false) (done : cmdEffect s.conf m m.pwr.nextWait (some r.val) slot op q' none = .done st d out m') :
    exec (ringRow op r q) s = s.completes r slot (st, d, out, tableWrites s.conf op q' st d m') := by
  rw [exec_of_starts named starts, cmdGo, plain]
  have run : cmdRun s.conf m m.pwr.nextWait (some r.val) slot op q' none = .done st d out (tableWrites s.conf op q' st d m') := by
    rw [cmdRun_of_small small, done]
    rfl
  rw [if_neg (by decide), cmdPlace_of_done run, starts.pwr]
  rfl

/-- A command whose effect is one answer. -/
theorem answers_of_effect {i : Instr} {f : Mach → Cmd → CmdRes} (row : i = ringRow op r q) (named : op ≠ .reserved) (plain : isFlowOp op = false)
    (effect : ∀ m n slot q', cmdEffect s.conf m n (some r.val) slot op q' none = .of (f m q')) : Answers i s r op q f := by
  intro q' slot m starts small
  rw [row, exec_of_done named plain starts small (effect m _ slot q')]
  rfl

/-- A command that another ends, or time, leaves what it has begun. -/
theorem exec_of_later (named : op ≠ .reserved) (plain : isFlowOp op = false) (starts : Starts s r op q q' slot m)
    (small : isBulk op q' = false) (later : cmdEffect s.conf m m.pwr.nextWait (some r.val) slot op q' none = .later m') :
    exec (ringRow op r q) s = s.ringGoesOn r m' := by
  rw [exec_of_starts named starts, cmdGo, plain, if_neg (by decide)]
  simp only [cmdPlace, Option.getD_none, originRing, cmdRun_of_small small, later, countTable]

/-! ### Rings -/

theorem ringQuery_of_absent {n : Nat} (absent : (m.ring n).state = .absent) : ringQuery m n = List.replicate 16 0 := if_pos absent

theorem ringQuery_of_present {n : Nat} (present : (m.ring n).state ≠ .absent) : (ringQuery m n).length = 16 ∧
    be (ringQuery m n) 4 2 = (m.ring n).head % 65536 ∧ be (ringQuery m n) 6 2 = (m.ring n).tail % 65536 := by
  rw [ringQuery]
  dsimp only
  rw [if_neg present]
  refine ⟨by simp [beBytes], ?_, ?_⟩
  · simp [beBytes, be, slice, beNat]
    omega
  · simp [beBytes, be, slice, beNat]
    omega

theorem ringContext_some {b : List Byte} {k : RingKind} {x : Ring} (h : ringContext b k = some x) :
    x.state = .active ∧ x.kind = k ∧ x.head = 0 ∧ x.tail = 0 ∧ x.consumed = [] ∧ x.phase = true ∧ 6 ≤ x.log2 ∧ x.log2 ≤ 16 := by
  unfold ringContext at h
  extract_lets log2 fl wq pipes reserved at h
  split at h
  · cases h
  · next ok =>
    split at h
    · cases h
    · cases h
      have size : 6 ≤ log2 ∧ log2 ≤ 16 := by
        simp at ok
        omega
      exact ⟨rfl, rfl, rfl, rfl, rfl, rfl, size.1, size.2⟩

/-- The writes of a command that names no table are none. -/
theorem tableWrites_of_no_banks {c : Cfg} {st d : Nat} (none : tableBanks op q = []) : tableWrites c op q st d m = m := by
  rw [tableWrites, none, List.foldl_nil, ite_self]

/-- `RING_CREATE`, by what it checks. -/
theorem ringCreate_answers (c : Cfg) (n : Nat) (m : Mach) : cmdEffect c m n (some r.val) slot .ringCreate q none = .of
    (let n := q.ringNo
    if (m.ring n).state ≠ .absent then (sEXISTS, 0, [], m)
    else match kindOf (byteAt q.data 8) with
      | none => (sBAD_ENTRY, 0, [], m)
      | some k =>
        if verOk k (byteAt q.data 9) = false then (0x0C, 0, [], m)
        else if roleOwns (m.role (m.ring r).owner) k = false ∨ n < 4 then (sNOT_PERMITTED, 0, [], m)
        else match ringContext q.data k with
          | none => (sBAD_ENTRY, 0, [], m)
          | some x => (sOK, 0, [], m.setRing n { x with owner := (m.ring r).owner, nextSlot := (m.ring n).nextSlot, polledAt := m.up })) := by
  change CmdAns.ofPair (ringCreate m (m.ring r).owner q.ringNo q.data) = _
  unfold ringCreate
  dsimp only
  split
  · rfl
  · cases kindOf (byteAt q.data 8) with
    | none => rfl
    | some k =>
      simp only [Bool.not_eq_true', Bool.or_eq_true, decide_eq_true_eq]
      split
      · rfl
      · split
        · rfl
        · cases ringContext q.data k <;> rfl

/-- Settles O31. -/
theorem ringCommandsMakeAndEndRings : Obligations.RingCommandsMakeAndEndRings := by
  unfold Obligations.RingCommandsMakeAndEndRings
  refine ⟨fun s r q => answers_of_effect (op := .nop) rfl (by decide) rfl fun _ _ _ _ => rfl,
    fun s r q => answers_of_effect (op := .ringQuery) rfl (by decide) rfl fun _ _ _ _ => rfl, fun m n absent => ringQuery_of_absent absent,
    fun m n present => ringQuery_of_present present,
    fun s r q => answers_of_effect (op := .ringCreate) rfl (by decide) rfl fun m n slot q => ringCreate_answers s.conf n m,
    fun b k x h => ringContext_some h, fun s r q q' slot m starts small => ⟨fun absent => ?_, fun draining => ?_, fun stands own => ?_, fun stands other => ?_⟩⟩
  · have done : cmdEffect s.conf m m.pwr.nextWait (some r.val) slot .ringDestroy q' none = .done sNOT_FOUND 0 [] m := by
      simp only [cmdEffect, absent]
    exact (exec_of_done (by decide) rfl starts small done).trans (by rw [tableWrites_of_no_banks rfl])
  · have done : cmdEffect s.conf m m.pwr.nextWait (some r.val) slot .ringDestroy q' none = .done sBUSY 0 [] m := by
      simp only [cmdEffect, draining]
    exact (exec_of_done (by decide) rfl starts small done).trans (by rw [tableWrites_of_no_banks rfl])
  · have done : cmdEffect s.conf m m.pwr.nextWait (some r.val) slot .ringDestroy q' none = .done sOK 0 [] (ringDestroy s.conf m q'.ringNo none) := by
      rcases stands with h | h <;> simp only [cmdEffect, h, own, if_true]
    exact (exec_of_done (by decide) rfl starts small done).trans (by rw [tableWrites_of_no_banks rfl])
  · have later : cmdEffect s.conf m m.pwr.nextWait (some r.val) slot .ringDestroy q' none = .later (ringDestroy s.conf m q'.ringNo (some (r, slot))) := by
      rcases stands with h | h <;> simp only [cmdEffect, h, Option.some.injEq, other, if_false, Option.map_some]
    exact exec_of_later (by decide) rfl starts small later

end
end Sys2Proof.Machine

/-! Tables written by command, entry for entry (R329). -/
namespace Sys2Proof.Machine

/-! ### A run of entries -/

section
variable {f : Mach → Nat → List Byte → Except Nat Mach} {g : Nat → List Byte} {P : Nat → Mach → Prop}

theorem applyEach_range' {n i : Nat} {m : Mach} (start : P i m)
    (step : ∀ j, i ≤ j → j < i + n → ∀ m, P j m → ∃ m', f m j (g j) = .ok m' ∧ P (j + 1) m') :
    ∃ m', applyEach f ((List.range' i n).map g) i m = okRes m' ∧ P (i + n) m' := by
  induction n generalizing i m with
  | zero => exact ⟨m, rfl, start⟩
  | succ n ih =>
    obtain ⟨m₁, took, holds⟩ := step i (Nat.le_refl i) (by omega) m start
    obtain ⟨m', rest, last⟩ := ih holds fun j low high => step j (by omega) (by omega)
    refine ⟨m', ?_, by rwa [show i + (n + 1) = i + 1 + n by omega]⟩
    rw [List.range'_succ, List.map_cons, applyEach, took]
    exact rest

theorem applyEach_range'_stops {n i k st : Nat} {m : Mach} (start : P i m)
    (step : ∀ j, i ≤ j → j < k → ∀ m, P j m → ∃ m', f m j (g j) = .ok m' ∧ P (j + 1) m') (low : i ≤ k) (high : k < i + n)
    (stop : ∀ m, P k m → f m k (g k) = .error st) : ∃ m', applyEach f ((List.range' i n).map g) i m = failRes m' st k := by
  induction n generalizing i m with
  | zero => omega
  | succ n ih =>
    rw [List.range'_succ, List.map_cons, applyEach]
    rcases Nat.eq_or_lt_of_le low with rfl | low
    · exact ⟨m, by rw [stop m start]⟩
    · obtain ⟨m₁, took, holds⟩ := step i (Nat.le_refl i) low m start
      rw [took]
      exact ih holds (fun j low => step j (by omega)) low (by omega)

variable {n : Nat} {m : Mach} {b : List Byte} {count : Nat}

/-- Where every entry is taken, what holds before each holds of the answer behind them all. -/
theorem applyEach_entries (start : P 0 m) (step : ∀ j < count, ∀ m, P j m → ∃ m', f m j (slice b (n * j) n) = .ok m' ∧ P (j + 1) m') :
    ∃ m', applyEach f (entriesOf n count b) 0 m = okRes m' ∧ P count m' := by
  have done := applyEach_range' (n := count) (g := fun i => slice b (n * i) n) start fun j _ high => step j (by omega)
  rwa [Nat.zero_add, ← List.range_eq_range'] at done

/-- The first entry that is refused names its position. -/
theorem applyEach_entries_stops {k st : Nat} (start : P 0 m)
    (step : ∀ j < k, ∀ m, P j m → ∃ m', f m j (slice b (n * j) n) = .ok m' ∧ P (j + 1) m') (inside : k < count)
    (stop : ∀ m, P k m → f m k (slice b (n * k) n) = .error st) : ∃ m', applyEach f (entriesOf n count b) 0 m = failRes m' st k := by
  have done := applyEach_range'_stops (n := count) (g := fun i => slice b (n * i) n) start (fun j _ high => step j high) (Nat.zero_le k) (by omega) stop
  rwa [← List.range_eq_range'] at done

end

section
variable {α : Type} [DecidableEq α] {d : α} {t t' : Tbl α} {first : Nat} {e : Nat → α}

/-- A table in order that holds the first `i` of the entries. -/
def FilledTo (d : α) (t : Tbl α) (first : Nat) (e : Nat → α) (i : Nat) (t' : Tbl α) : Prop :=
  Tbl.rising t' = true ∧ Filled (Tbl.look d t) (Tbl.look d t') first i e

omit [DecidableEq α] in
theorem FilledTo.zero (ordered : Tbl.rising t = true) : FilledTo d t first e 0 t := ⟨ordered, ⟨fun _ h => absurd h (by omega), fun _ _ => rfl⟩⟩

theorem FilledTo.put {i : Nat} (h : FilledTo d t first e i t') : FilledTo d t first e (i + 1) (Tbl.put d t' (first + i) (e i)) := by
  obtain ⟨ordered, inside, outside⟩ := h
  refine ⟨Tbl.rising_put _ _ _ _ ordered, fun j below => ?_, fun n beyond => ?_⟩
  · rcases Nat.lt_succ_iff_lt_or_eq.mp below with low | rfl
    · rw [Tbl.look_put_other _ _ _ _ (by omega) ordered, inside j low]
    · exact Tbl.look_put_self _ _ _ _ ordered
  · rw [Tbl.look_put_other _ _ _ _ (by omega) ordered, outside n (by omega)]

/-- A command that puts its entries in one table, `set` of which leaves the rest of the machine as it is. -/
theorem applyEach_fills {f : Mach → Nat → List Byte → Except Nat Mach} {n count : Nat} {b : List Byte} (set : Tbl α → Mach) (ordered : Tbl.rising t = true)
    (good : ∀ i < count, ∀ t, f (set t) i (slice b (n * i) n) = .ok (set (Tbl.put d t (first + i) (e i)))) :
    ∃ t', applyEach f (entriesOf n count b) 0 (set t) = okRes (set t') ∧ Filled (Tbl.look d t) (Tbl.look d t') first count e := by
  obtain ⟨m', done, t', rfl, filled⟩ := applyEach_entries (P := fun i m => ∃ t', m = set t' ∧ FilledTo d t first e i t') ⟨t, rfl, .zero ordered⟩
    fun i inside m ⟨t', same, filled⟩ => ⟨_, same ▸ good i inside t', _, rfl, filled.put⟩
  exact ⟨t', done, filled.2⟩

/-- A table held once for both dies, of entries that are all good. -/
theorem setTable_fills {d : Nat} {t : Tbl Nat} {e : Nat → Nat} {q : Cmd} {n size : Nat} {good : Nat → Bool} {write : Mach → Nat → Nat → Mach}
    (set : Tbl Nat → Mach) (ordered : Tbl.rising t = true) (writes : ∀ t a x, write (set t) a x = set (Tbl.put d t a x))
    (entries : ∀ i < q.a1, beNat (slice q.data (n * i) n) = e i) (all : ∀ i < q.a1, q.a0 + i < size ∧ good (e i) = true) :
    ∃ t', setTable (set t) q n size good write = (sOK, 0, [], set t') ∧ Filled (Tbl.look d t) (Tbl.look d t') q.a0 q.a1 e := by
  refine applyEach_fills set ordered fun i inside t => ?_
  obtain ⟨below, fine⟩ := all i inside
  simp only [entries i inside, fine, writes, Nat.not_le.mpr below, decide_false, Bool.not_true, Bool.or_self, Bool.false_eq_true, if_false]

end
end Sys2Proof.Machine

/-! The allocation service by command (R140, R141, R143, R146). -/
namespace Sys2Proof.Machine

section
variable {m : Mach} {q : Cmd}

theorem natPoolSet_answers (m : Mach) (q : Cmd) : natPoolSet m q =
    (let n := q.arg0.toNat
    let old := m.pool n
    if 1024 ≤ n ∨ poolOk q.data = false then (sBAD_ENTRY, 0, [], m)
    else if old.desc ≠ [] ∧ plEnable old.desc = true ∧ onlyDisables old.desc q.data = false then (sBUSY, 0, [], m)
    else if splice old.desc 5 [0] = splice q.data 5 [0] then (sOK, 0, [], m.setPool n { old with desc := q.data })
    else
      let m := setWindows ((dropReady m n).setPool n { desc := q.data }) q.data
      (sOK, 0, [], if plEnable q.data then natFill n 64 m else m)) := by
  unfold natPoolSet Cmd.a0
  dsimp only
  simp only [Bool.or_eq_true, Bool.and_eq_true, decide_eq_true_eq, Bool.not_eq_true', and_assoc]
  rfl

theorem natPortFree_answers (m : Mach) (q : Cmd) : natPortFree m q =
    (let n := q.arg0.toNat
    if 1024 ≤ n then (sBAD_ENTRY, 0, [], m)
    else match natCell (m.pool n) (be q.data 0 4) (be q.data 4 2) with
      | none => (sNOT_FOUND, 0, [], m)
      | some row =>
        if natMarked m row (be q.data 4 2) = true ∧ (be q.data 0 4, be q.data 4 2) ∉ (m.pool n).ready then
          (sOK, 0, [], natSet m row (be q.data 4 2) false)
        else (sNOT_FOUND, 0, [], m)) := by
  simp only [natPortFree, okRes, failRes, Cmd.a0, Bool.and_eq_true, Bool.not_eq_true', List.contains_eq_mem,
    decide_eq_false_iff_not] <;> rfl

theorem natMarked_natSet_true (ordered : Tbl.rising m.fsl.natBit = true) (row port : Nat) : natMarked (natSet m row port true) row port = true := by
  simp only [natMarked, natSet, Tbl.look_put_self _ _ _ _ ordered, Bool.true_or]

/-- A bit cleared outside its pool's ports is remembered as cleared. -/
theorem natMarked_natSet_false (ordered : Tbl.rising m.fsl.natBit = true) (row port : Nat) : natMarked (natSet m row port false) row port = false := by
  simp only [natMarked, natSet, Tbl.look_put_self _ _ _ _ ordered, Bool.false_or]
  change (natOutside m row port && _) = false
  cases natOutside m row port
  · rfl
  · cases h : m.fsl.natFreed.contains (row * 65536 + port)
    · simp
    · simpa using h

theorem beGroupSet_fills (ordered : Tbl.rising m.fsl.beGroup = true)
    (good : ∀ i < q.a1, q.a0 + i < 16384 ∧ bgLog2 (be q.data (8 * i) 8) ≤ 20 ∧ 2 ^ bgLog2 (be q.data (8 * i) 8) ∣ bgBase (be q.data (8 * i) 8) ∧
      bits (be q.data (8 * i) 8) 37 0 = 0) : ∃ t, beGroupSet m q = (sOK, 0, [], { m with fsl := { m.fsl with beGroup := t } }) ∧
    Filled (Tbl.look 0 m.fsl.beGroup) (Tbl.look 0 t) q.a0 q.a1 fun i => be q.data (8 * i) 8 := by
  refine setTable_fills (fun t => { m with fsl := { m.fsl with beGroup := t } }) ordered (fun _ _ _ => rfl) (fun _ _ => rfl) fun i inside => ?_
  obtain ⟨below, size, base, low⟩ := good i inside
  exact ⟨below, by simp [size, Nat.mod_eq_zero_of_dvd base, low]⟩

theorem beSlotSet_fills (ordered : Tbl.rising m.fsl.beSlot = true)
    (good : ∀ i < q.a1, q.a0 + i < 1048576 ∧ bits (be q.data (4 * i) 4) 29 16 = 0) :
    ∃ t, beSlotSet m q = (sOK, 0, [], { m with fsl := { m.fsl with beSlot := t } }) ∧
      Filled (Tbl.look 0 m.fsl.beSlot) (Tbl.look 0 t) q.a0 q.a1 fun i => be q.data (4 * i) 4 := by
  refine setTable_fills (fun t => { m with fsl := { m.fsl with beSlot := t } }) ordered (fun _ _ _ => rfl) (fun _ _ => rfl) fun i inside => ?_
  obtain ⟨below, low⟩ := good i inside
  exact ⟨below, by simp [low]⟩

theorem backendSet_fills (ordered : Tbl.rising m.fsl.backend = true)
    (good : ∀ i < q.a1, q.a0 + i < 65536 ∧ be (slice q.data (20 * i) 20) 0 16 ≠ 0 ∧ bits (byteAt (slice q.data (20 * i) 20) 18) 6 0 = 0 ∧
      byteAt (slice q.data (20 * i) 20) 19 = 0) :
    ∃ t, backendSet m q = (sOK, 0, [], { m with fsl := { m.fsl with backend := t } }) ∧
      Filled (Tbl.look [] m.fsl.backend) (Tbl.look [] t) q.a0 q.a1 fun i => slice q.data (20 * i) 20 := by
  refine applyEach_fills (fun t => { m with fsl := { m.fsl with backend := t } }) ordered fun i inside t => ?_
  obtain ⟨below, address, low, last⟩ := good i inside
  simp [Nat.not_le.mpr below, address, low, last]

/-- The first bad slot ends the command. -/
theorem beSlotSet_stops {k : Nat} (inside : k < q.a1) (good : ∀ i < k, q.a0 + i < 1048576 ∧ bits (be q.data (4 * i) 4) 29 16 = 0)
    (bad : 1048576 ≤ q.a0 + k ∨ bits (be q.data (4 * k) 4) 29 16 ≠ 0) : ∃ m', beSlotSet m q = failRes m' sBAD_ENTRY k := by
  refine applyEach_entries_stops (P := fun _ _ => True) trivial (fun i before m _ =>
    ⟨{ m with fsl := { m.fsl with beSlot := Tbl.put 0 m.fsl.beSlot (q.a0 + i) (be q.data (4 * i) 4) } }, ?_, trivial⟩) inside fun m _ => ?_
  · obtain ⟨below, low⟩ := good i before
    have low' : bits (beNat (slice q.data (4 * i) 4)) 29 16 = 0 := low
    simp only [low', Nat.not_le.mpr below, decide_false, beq_self_eq_true, Bool.not_true, Bool.or_self, Bool.false_eq_true, if_false]
    rfl
  · have bad' : (decide (1048576 ≤ q.a0 + k) || !(bits (beNat (slice q.data (4 * k) 4)) 29 16 == 0)) = true := by simpa [be] using bad
    simp only [bad', if_true]

/-- Settles O33. -/
theorem allocationCommandsWriteTheirTables : Obligations.AllocationCommandsWriteTheirTables := by
  unfold Obligations.AllocationCommandsWriteTheirTables
  exact ⟨fun s r q => answers_of_effect (op := .natPoolSet) rfl (by decide) rfl fun m _ _ q => congrArg CmdAns.of (natPoolSet_answers m q),
    fun s r q => answers_of_effect (op := .natPortFree) rfl (by decide) rfl fun m _ _ q => congrArg CmdAns.of (natPortFree_answers m q),
    fun m row port ordered => ⟨natMarked_natSet_false ordered row port, natMarked_natSet_true ordered row port⟩,
    fun s r q => ⟨answers_of_effect (op := .beGroupSet) rfl (by decide) rfl fun _ _ _ _ => rfl,
      answers_of_effect (op := .beSlotSet) rfl (by decide) rfl fun _ _ _ _ => rfl,
      answers_of_effect (op := .backendSet) rfl (by decide) rfl fun _ _ _ _ => rfl⟩,
    fun m q => beGroupSet_fills, fun m q => beSlotSet_fills, fun m q => backendSet_fills, fun m q k inside good bad => by
      obtain ⟨m', stopped⟩ := beSlotSet_stops (m := m) inside good bad
      rw [stopped]
      exact ⟨rfl, rfl⟩⟩

end
end Sys2Proof.Machine

/-! The banked tables by command (R51, R57, R73, R122, R154, R373). -/
namespace Sys2Proof.Machine

/-! ### Repairs and banks -/

section
variable {m : Mach} {q : Cmd}

theorem foldl_repaired {α : Type} (l : List α) (src : α → Nat) (which entry : Nat) (m : Mach) :
    ∃ e, l.foldl (fun (m : Mach) d => repaired m (src d) which entry) m = { m with flt := { m.flt with badEntries := e } } := by
  induction l generalizing m with
  | nil => exact ⟨_, rfl⟩
  | cons d l ih =>
    obtain ⟨e, same⟩ := ih (repaired m (src d) which entry)
    exact ⟨e, same⟩

theorem repairedOn_eq (m : Mach) (dies : List Nat) (part which entry : Nat) :
    ∃ e, repairedOn m dies part which entry = { m with flt := { m.flt with badEntries := e } } := foldl_repaired ..

theorem repairedParse_eq (m : Mach) (which entry : Nat) : ∃ e, repairedParse m which entry = { m with flt := { m.flt with badEntries := e } } :=
  foldl_repaired ..

theorem repairedOn_act (m : Mach) (dies : List Nat) (part which entry : Nat) : (repairedOn m dies part which entry).act = m.act := by
  obtain ⟨e, same⟩ := repairedOn_eq m dies part which entry
  rw [same]

theorem repairedOn_sec (m : Mach) (dies : List Nat) (part which entry : Nat) : (repairedOn m dies part which entry).sec = m.sec := by
  obtain ⟨e, same⟩ := repairedOn_eq m dies part which entry
  rw [same]

theorem onBanks_shadow (m : Mach) (f : TurnTabs → TurnTabs) : (onBanks m f).act.shadow = f m.act.shadow := by
  unfold onBanks
  dsimp only
  split <;> rfl

theorem onBanks_sealed {f : TurnTabs → TurnTabs} (h : m.glb.sealSt = .sealed) : onBanks m f = { m with act := { m.act with shadow := f m.act.shadow } } := by
  simp only [onBanks, h, if_true]

theorem onBanks_open {f : TurnTabs → TurnTabs} (h : m.glb.sealSt ≠ .sealed) :
    onBanks m f = { m with act := { m.act with shadow := f m.act.shadow, act := f m.act.act } } := by
  simp only [onBanks, h, if_false]

theorem pastBank_of_inside {first count size : Nat} {k : CmdRes} (inside : ∀ i < count, first + i < size) : pastBank m first count size k = k := by
  refine if_neg fun ⟨past, _⟩ => ?_
  have := inside (count - 1) (by omega)
  omega

/-! ### Parser -/

/-- A machine that differs from `m` in the parser's states and the entries known as bad. -/
def Mach.withStates (m : Mach) (shadow act : Tbl Nat) (bad : List (Nat × Nat)) : Mach :=
  { m with act := { m.act with shadow := { m.act.shadow with states := shadow }, act := { m.act.act with states := act } }
           flt := { m.flt with badEntries := bad } }

/-- One state written is the shadow's, and before the seal the active one's too. -/
theorem parse_state_written {first i e : Nat} {ts ta : Tbl Nat} {bad : List (Nat × Nat)} :
    ∃ bad', repairedParse (onBanks (m.withStates ts ta bad) fun t => { t with states := Tbl.put 0 t.states (first + i) e }) 0 (first + i) =
      m.withStates (Tbl.put 0 ts (first + i) e) (if m.glb.sealSt = .sealed then ta else Tbl.put 0 ta (first + i) e) bad' := by
  obtain ⟨bad', same⟩ := repairedParse_eq (onBanks (m.withStates ts ta bad) fun t => { t with states := Tbl.put 0 t.states (first + i) e }) 0 (first + i)
  refine ⟨bad', same.trans ?_⟩
  by_cases h : m.glb.sealSt = .sealed
  · rw [onBanks_sealed (m := m.withStates ts ta bad) h, if_pos h]
    rfl
  · rw [onBanks_open (m := m.withStates ts ta bad) h, if_neg h]
    rfl

theorem parseSet_states (shadow : Tbl.rising m.act.shadow.states = true) (act : Tbl.rising m.act.act.states = true) (state : bit q.a0 31 = false)
    (good : ∀ i < q.a1, bits q.a0 7 0 + i < 64 ∧ bits (be q.data (8 * i) 8) 19 0 = 0) :
    ∃ ts ta bad, parseSet m q = (sOK, 0, [], m.withStates ts ta bad) ∧
      Filled (Tbl.look 0 m.act.shadow.states) (Tbl.look 0 ts) (bits q.a0 7 0) q.a1 (fun i => be q.data (8 * i) 8) ∧
      (m.glb.sealSt = .sealed → ta = m.act.act.states) ∧
      (m.glb.sealSt ≠ .sealed → Filled (Tbl.look 0 m.act.act.states) (Tbl.look 0 ta) (bits q.a0 7 0) q.a1 fun i => be q.data (8 * i) 8) := by
  obtain ⟨m', done, ts, ta, bad, rfl, filled, kept, active⟩ := applyEach_entries
    (f := fun m i b => if !parseEntryOk false (beNat b) then .error sBAD_ENTRY
      else .ok (repairedParse (onBanks m fun t => { t with states := Tbl.put 0 t.states (bits q.a0 7 0 + i) (beNat b) }) 0 (bits q.a0 7 0 + i)))
    (n := 8) (b := q.data) (count := q.a1) (m := m)
    (P := fun i m' => ∃ ts ta bad, m' = m.withStates ts ta bad ∧ FilledTo 0 m.act.shadow.states (bits q.a0 7 0) (fun i => be q.data (8 * i) 8) i ts ∧
      (m.glb.sealSt = .sealed → ta = m.act.act.states) ∧
      (m.glb.sealSt ≠ .sealed → FilledTo 0 m.act.act.states (bits q.a0 7 0) (fun i => be q.data (8 * i) 8) i ta))
    ⟨_, _, _, rfl, .zero shadow, fun _ => rfl, fun _ => .zero act⟩ fun i inside m' ⟨ts, ta, bad, same, filled, kept, active⟩ => by
      obtain ⟨bad', written⟩ := parse_state_written (m := m) (first := bits q.a0 7 0) (i := i) (e := be q.data (8 * i) 8) (ts := ts) (ta := ta) (bad := bad)
      have fine : parseEntryOk false (beNat (slice q.data (8 * i) 8)) = true := by simpa [parseEntryOk, be] using (good i inside).2
      refine ⟨_, ?_, _, if m.glb.sealSt = .sealed then ta else Tbl.put 0 ta (bits q.a0 7 0 + i) (be q.data (8 * i) 8), bad', rfl, filled.put,
        fun h => by rw [if_pos h]; exact kept h, fun h => by rw [if_neg h]; exact (active h).put⟩
      simp only [fine, Bool.not_true, Bool.false_eq_true, if_false, same]
      exact congrArg Except.ok written
  refine ⟨ts, ta, bad, Eq.trans ?_ done, filled.2, kept, fun h => (active h).2⟩
  unfold parseSet
  simp only [state, Bool.false_eq_true, if_false]
  exact pastBank_of_inside fun i inside => (good i inside).1

theorem parseSet_past (trans : bit q.a0 31 = true) (past : 256 < bits q.a0 7 0 + q.a1) (some : q.a1 ≠ 0) :
    parseSet m q = (sBAD_ENTRY, 256 - bits q.a0 7 0, [], m) := by
  unfold parseSet
  simp only [trans, if_true]
  exact if_pos ⟨past, some⟩

/-! ### Classifier and templates -/

theorem clsSet_fills (shadow : Tbl.rising m.act.shadow.rules = true) (pipe : bits q.a0 31 24 ≤ 31)
    (good : ∀ i < q.a1, bits q.a0 10 0 + i < 2048 ∧ ruleOk (slice q.data (96 * i) 96) = true) :
    ∃ t, clsSet m q = (sOK, 0, [], t) ∧ Filled (Tbl.look emptyRule m.act.shadow.rules) (Tbl.look emptyRule t.act.shadow.rules)
      (2048 * bits q.a0 31 24 + bits q.a0 10 0) q.a1 fun i => slice q.data (96 * i) 96 := by
  unfold clsSet
  simp only [Nat.not_lt.mpr pipe, if_false]
  rw [pastBank_of_inside fun i inside => (good i inside).1]
  obtain ⟨m', done, filled⟩ := applyEach_entries (n := 96) (b := q.data) (count := q.a1) (m := m)
    (f := fun m i b => if !ruleOk b then .error sBAD_ENTRY
      else .ok (repaired (onBanks m fun t => { t with rules := Tbl.put emptyRule t.rules (2048 * bits q.a0 31 24 + bits q.a0 10 0 + i) b })
        (srcOf (6 + bits q.a0 31 24 / 16) (bits q.a0 31 24 % 16)) 3 (bits q.a0 10 0 + i)))
    (P := fun i m' => FilledTo emptyRule m.act.shadow.rules (2048 * bits q.a0 31 24 + bits q.a0 10 0) (fun i => slice q.data (96 * i) 96) i m'.act.shadow.rules)
    (.zero shadow) fun i inside m' filled => by
      simp only [(good i inside).2, Bool.not_true, Bool.false_eq_true, if_false]
      refine ⟨_, rfl, ?_⟩
      rw [show ∀ (m : Mach) src which entry, (repaired m src which entry).act = m.act from fun _ _ _ _ => rfl, onBanks_shadow]
      exact filled.put
  exact ⟨m', done, filled.2⟩

/-- The first `i` templates are written and no mark or error of a load has changed. -/
def TmplsTo (m : Mach) (q : Cmd) (i : Nat) (m' : Mach) : Prop :=
  FilledTo [] m.act.shadow.tmpls q.a0 (fun i => slice q.data (160 * i) 160) i m'.act.shadow.tmpls ∧ m'.sec = m.sec

/-- What `TMPL_SET` takes at position `i`. -/
def TmplGood (m : Mach) (q : Cmd) (i : Nat) : Prop :=
  q.a0 + i < 4096 ∧ tmplOk (slice q.data (160 * i) 160) = true ∧ m.writeMeets 1 (q.a0 + i) = false

/-- One entry of `TMPL_SET`. -/
def tmplEntry (q : Cmd) (m : Mach) (i : Nat) (b : List Byte) : Except Nat Mach :=
  let n := q.a0 + i
  if 4096 ≤ n then .error sBAD_ENTRY
  else if !tmplOk b then .error sBAD_TEMPLATE
  else if m.writeMeets 1 n then .error sDMA_ERROR
  else .ok (repairedOn (onBanks m fun t => { t with tmpls := Tbl.put [] t.tmpls n b }) [0, 1] 0 1 n)

theorem onBanks_sec (m : Mach) (f : TurnTabs → TurnTabs) : (onBanks m f).sec = m.sec := rfl

theorem writeMeets_of_sec {m' : Mach} (same : m'.sec = m.sec) (k n : Nat) : m'.writeMeets k n = m.writeMeets k n := by
  rw [Mach.writeMeets, same, Mach.writeMeets]

theorem tmplEntry_of_good {i : Nat} {m' : Mach} (good : TmplGood m q i) (same : m'.sec = m.sec) :
    tmplEntry q m' i (slice q.data (160 * i) 160) = .ok (repairedOn
      (onBanks m' fun t => { t with tmpls := Tbl.put [] t.tmpls (q.a0 + i) (slice q.data (160 * i) 160) }) [0, 1] 0 1 (q.a0 + i)) := by
  obtain ⟨below, fine, clean⟩ := good
  simp only [tmplEntry, Nat.not_le.mpr below, fine, writeMeets_of_sec same, clean, Bool.not_true, Bool.false_eq_true, if_false]

theorem TmplsTo.step {i : Nat} {m' : Mach} (good : TmplGood m q i) (held : TmplsTo m q i m') :
    ∃ m'', tmplEntry q m' i (slice q.data (160 * i) 160) = .ok m'' ∧ TmplsTo m q (i + 1) m'' := by
  obtain ⟨filled, same⟩ := held
  refine ⟨_, tmplEntry_of_good good same, ?_, (repairedOn_sec ..).trans same⟩
  rw [repairedOn_act, onBanks_shadow]
  exact filled.put

theorem tmplSet_fills (shadow : Tbl.rising m.act.shadow.tmpls = true) (good : ∀ i < q.a1, TmplGood m q i) :
    ∃ t, tmplSet m q = (sOK, 0, [], t) ∧
      Filled (Tbl.look [] m.act.shadow.tmpls) (Tbl.look [] t.act.shadow.tmpls) q.a0 q.a1 fun i => slice q.data (160 * i) 160 := by
  obtain ⟨m', done, filled, _⟩ := applyEach_entries (f := tmplEntry q) (P := TmplsTo m q) ⟨.zero shadow, rfl⟩
    fun i inside m' => TmplsTo.step (good i inside)
  refine ⟨loadDone m' [4, 5], ?_, filled.2⟩
  change (let r := applyEach (tmplEntry q) (entriesOf 160 q.a1 q.data) 0 m
    if r.1 = sOK then okRes (loadDone r.2.2.2 [4, 5]) else if r.1 = sDMA_ERROR then failRes (loadStops r.2.2.2 1 (q.a0 + r.2.1) [4, 5]) sDMA_ERROR r.2.1
    else r) = _
  rw [done]
  rfl

/-- The first template that is bad, or that meets an error, ends the load with its position. -/
theorem tmplSet_stops {k : Nat} (inside : k < q.a1) (good : ∀ i < k, TmplGood m q i) (below : q.a0 + k < 4096) :
    (tmplOk (slice q.data (160 * k) 160) = false → (tmplSet m q).1 = sBAD_TEMPLATE ∧ (tmplSet m q).2.1 = k) ∧
    (tmplOk (slice q.data (160 * k) 160) = true → m.writeMeets 1 (q.a0 + k) = true → (tmplSet m q).1 = sDMA_ERROR ∧ (tmplSet m q).2.1 = k) := by
  have ends {st : Nat} (stop : ∀ m', m'.sec = m.sec → tmplEntry q m' k (slice q.data (160 * k) 160) = .error st) :
      ∃ m', applyEach (tmplEntry q) (entriesOf 160 q.a1 q.data) 0 m = failRes m' st k :=
    applyEach_entries_stops (P := fun _ m' => m'.sec = m.sec) rfl
      (fun i before m' same => ⟨_, tmplEntry_of_good (good i before) same, (repairedOn_sec ..).trans same⟩) inside stop
  have shape : tmplSet m q = (let r := applyEach (tmplEntry q) (entriesOf 160 q.a1 q.data) 0 m
    if r.1 = sOK then okRes (loadDone r.2.2.2 [4, 5]) else if r.1 = sDMA_ERROR then failRes (loadStops r.2.2.2 1 (q.a0 + r.2.1) [4, 5]) sDMA_ERROR r.2.1
    else r) := rfl
  refine ⟨fun bad => ?_, fun fine meets => ?_⟩
  · obtain ⟨m', stopped⟩ := ends (st := sBAD_TEMPLATE) fun m' _ => by
      simp only [tmplEntry, Nat.not_le.mpr below, bad, Bool.not_false, if_true, if_false]
    rw [shape, stopped]
    exact ⟨rfl, rfl⟩
  · obtain ⟨m', stopped⟩ := ends (st := sDMA_ERROR) fun m' same => by
      simp only [tmplEntry, Nat.not_le.mpr below, fine, writeMeets_of_sec same, meets, Bool.not_true, Bool.false_eq_true, if_true, if_false]
    rw [shape, stopped]
    exact ⟨rfl, rfl⟩

/-! ### Programs -/

/-- A program as the device stores it. -/
def storedProg (p : List Byte) : List Byte := beBytes 16 (headerOf p) ++ p.drop 16

/-- The first `i` programs are written and no mark, measurement or error has changed. -/
def ProgsTo (m : Mach) (first : Nat) (g : Nat → List Byte) (i : Nat) (m' : Mach) : Prop :=
  FilledTo [] m.act.shadow.progs first (fun i => storedProg (g i)) i m'.act.shadow.progs ∧ m'.sec = m.sec

theorem loadProgs_range' {m₀ : Mach} {first : Nat} {g : Nat → List Byte} {n i : Nat} {m : Mach} (held : ProgsTo m₀ first g i m)
    (good : ∀ j < i + n, headerOk (g j) = true ∧ firstBadOp (opsOf (g j)) 0 false false = none ∧ m₀.writeMeets 0 (first + j) = false) :
    ∃ m', loadProgs m first ((List.range' i n).map g) i = okRes m' ∧ ProgsTo m₀ first g (i + n) m' := by
  induction n generalizing i m with
  | zero => exact ⟨m, by rw [List.range'_zero, List.map_nil, loadProgs], held⟩
  | succ n ih =>
    obtain ⟨header, ops, clean⟩ := good i (by omega)
    obtain ⟨filled, same⟩ := held
    rw [List.range'_succ, List.map_cons, loadProgs]
    simp only [header, ops, writeMeets_of_sec same, clean, Bool.not_true, Bool.false_eq_true, if_false]
    rw [show i + (n + 1) = i + 1 + n by omega]
    have next : ProgsTo m₀ first g (i + 1) (repairedOn (onBanks m fun t => { t with progs := Tbl.put [] t.progs (first + i) (storedProg (g i)) })
        [0, 1] 0 0 (first + i)) := by
      refine ⟨?_, (repairedOn_sec ..).trans same⟩
      rw [repairedOn_act, onBanks_shadow]
      dsimp only
      exact filled.put
    exact ih next fun j below => good j (by omega)

theorem progEnd_eq (m : Mach) (x : Bundle) : ∃ m', progEnd m x = (sOK, 0, [], m') ∧ m'.act = m.act ∧
    m'.sec.shadowProg.digest = shake256 32 (m.sec.shadowProg.digest ++ x.meas.digest) := by
  unfold progEnd
  dsimp only
  split <;> exact ⟨_, rfl, rfl, rfl⟩

theorem progLoad_fills {c : Cfg} (shadow : Tbl.rising m.act.shadow.progs = true) (checked : bundleCheck c m [6] q.data = none)
    (first : (bundleOf q.data).first = q.a0) (count : (bundleOf q.data).count = q.a1) (below : q.a0 + q.a1 ≤ 4096)
    (good : ∀ i < q.a1, headerOk (slice (bundleOf q.data).payload (272 * i) 272) = true ∧
      firstBadOp (opsOf (slice (bundleOf q.data).payload (272 * i) 272)) 0 false false = none ∧ m.writeMeets 0 (q.a0 + i) = false) :
    ∃ t, progLoad c m q = (sOK, 0, [], t) ∧ Filled (Tbl.look [] m.act.shadow.progs) (Tbl.look [] t.act.shadow.progs) q.a0 q.a1
        (fun i => storedProg (slice (bundleOf q.data).payload (272 * i) 272)) ∧
      t.sec.shadowProg.digest = shake256 32 (m.sec.shadowProg.digest ++ (bundleOf q.data).meas.digest) := by
  obtain ⟨m₁, done, filled, same⟩ := loadProgs_range' (m₀ := m) (n := q.a1) (i := 0) (m := m) (g := fun i => slice (bundleOf q.data).payload (272 * i) 272)
    ⟨.zero shadow, rfl⟩ fun j low => good j (by omega)
  obtain ⟨t, ended, act, digest⟩ := progEnd_eq m₁ (bundleOf q.data)
  rw [Nat.zero_add] at filled
  refine ⟨t, ?_, act ▸ filled.2, same ▸ digest⟩
  have loaded : loadProgs m q.a0 (entriesOf 272 q.a1 (bundleOf q.data).payload) 0 = okRes m₁ := by
    rw [entriesOf, List.range_eq_range']
    exact done
  simp only [progLoad, first, count, checked, loaded, Nat.not_lt.mpr below, ne_eq, not_true_eq_false, decide_false, Bool.or_self, Bool.false_eq_true, if_false]
  exact ended

theorem progLoad_of_other_arguments {c : Cfg} (other : (bundleOf q.data).first ≠ q.a0 ∨ (bundleOf q.data).count ≠ q.a1) :
    progLoad c m q = (0x20, 0xFFFF, [], m) := by
  have differs : (decide ((bundleOf q.data).first ≠ q.a0) || decide ((bundleOf q.data).count ≠ q.a1)) = true := by simpa using other
  simp only [progLoad, differs, if_true]
  rfl

theorem progLoad_of_unverified {c : Cfg} {st : Nat} (first : (bundleOf q.data).first = q.a0) (count : (bundleOf q.data).count = q.a1)
    (refused : bundleCheck c m [6] q.data = some st) : progLoad c m q = (st, 0xFFFF, [], m) := by
  simp only [progLoad, first, count, refused, ne_eq, not_true_eq_false, decide_false, Bool.or_self, Bool.false_eq_true, if_false]
  rfl

/-- Settles O34. -/
theorem bankedTableCommandsWriteTheShadow : Obligations.BankedTableCommandsWriteTheShadow := by
  unfold Obligations.BankedTableCommandsWriteTheShadow
  refine ⟨fun s r q => ⟨answers_of_effect (op := .parseSet) rfl (by decide) rfl fun _ _ _ _ => rfl,
      answers_of_effect (op := .clsSet) rfl (by decide) rfl fun _ _ _ _ => rfl, answers_of_effect (op := .tmplSet) rfl (by decide) rfl fun _ _ _ _ => rfl,
      answers_of_effect (op := .progLoad) rfl (by decide) rfl fun _ _ _ _ => rfl⟩,
    fun m q shadow act state good => ?_, fun m q => parseSet_past, fun m q => clsSet_fills, fun m q => tmplSet_fills, fun m q k => tmplSet_stops,
    fun c m q => progLoad_of_other_arguments, fun c m q st => progLoad_of_unverified, fun c m q => progLoad_fills⟩
  obtain ⟨ts, ta, bad, done, filled, kept, active⟩ := parseSet_states shadow act state good
  exact ⟨_, done, filled, fun sealed => by rw [Mach.withStates, kept sealed], active, rfl⟩

end
end Sys2Proof.Machine

/-! Forwarding entries by command (R171, R184). -/
namespace Sys2Proof.Machine

section
variable {m : Mach} {q : Cmd}

/-! ### Commands of one entry -/

theorem entriesOf_one {n count : Nat} {b : List Byte} (one : count = 1) : entriesOf n count b = [slice b 0 n] := by
  rw [one]
  rfl

theorem applyEach_one_ok {f : Mach → Nat → List Byte → Except Nat Mach} {b : List Byte} {m' : Mach} (took : f m 0 b = .ok m') :
    applyEach f [b] 0 m = okRes m' := by
  rw [applyEach, took]
  rfl

theorem applyEach_one_error {f : Mach → Nat → List Byte → Except Nat Mach} {b : List Byte} {st : Nat} (refused : f m 0 b = .error st) :
    applyEach f [b] 0 m = failRes m st := by
  rw [applyEach, refused]

/-! ### Places -/

theorem mem_fdbPlaces {die b p : Nat} : p ∈ fdbPlaces die b ↔ ∃ i < 4, die * 2 ^ 20 + 4 * b + i = p := by
  simp [fdbPlaces]

/-- The places where a key's entry may stand on a die. -/
def fdbKeyPlaces (die bd mac : Nat) : List Nat := fdbPlaces die (fdbBuckets bd mac).1 ++ fdbPlaces die (fdbBuckets bd mac).2

theorem fdbFind_eq (m : Mach) (die bd mac : Nat) : fdbFind m die bd mac =
    (fdbKeyPlaces die bd mac).find? fun p => fdbValid (m.fdbAt p) && fdbBd (m.fdbAt p) == bd && fdbMac (m.fdbAt p) == mac := rfl

theorem fdbBuckets_lt (bd mac : Nat) : (fdbBuckets bd mac).1 < 2 ^ 18 ∧ (fdbBuckets bd mac).2 < 2 ^ 18 := by
  unfold fdbBuckets
  generalize crc32c (beBytes 2 bd ++ beBytes 6 mac) = h
  dsimp only
  omega

theorem die_of_mem_fdbKeyPlaces {die bd mac p : Nat} (mem : p ∈ fdbKeyPlaces die bd mac) : p / 2 ^ 20 = die := by
  obtain ⟨half, other⟩ := fdbBuckets_lt bd mac
  rw [fdbKeyPlaces, List.mem_append, mem_fdbPlaces, mem_fdbPlaces] at mem
  generalize (fdbBuckets bd mac).1 = a at half mem
  generalize (fdbBuckets bd mac).2 = b at other mem
  rcases mem with ⟨i, low, rfl⟩ | ⟨i, low, rfl⟩ <;> omega

/-- The place of a key's entry lies on its die. -/
theorem fdbFind_die {die bd mac p : Nat} (found : fdbFind m die bd mac = some p) : p / 2 ^ 20 = die := by
  rw [fdbFind_eq] at found
  exact die_of_mem_fdbKeyPlaces (List.mem_of_find?_eq_some found)

/-- A write on one die leaves the entries of the other. -/
theorem fdbAt_setFdb_of_other_die (ordered : Tbl.rising m.fwd.fdb = true) {p p' e : Nat} (other : p' / 2 ^ 20 ≠ p / 2 ^ 20) : (m.setFdb p e).fdbAt p' = m.fdbAt p' := by
  have bad : (m.setFdb p e).bad (srcOf 10 (4 * (p' / 2 ^ 20) + 1)) 0 (p' % 2 ^ 20) = m.bad (srcOf 10 (4 * (p' / 2 ^ 20) + 1)) 0 (p' % 2 ^ 20) := by
    have ne : (srcOf 10 (4 * (p' / 2 ^ 20) + 1) + 1024 * 0, p' % 2 ^ 20) ≠ (srcOf 10 (4 * (p / 2 ^ 20) + 1), p % 2 ^ 20) := fun same => by
      have src := (Prod.mk.inj same).1
      unfold srcOf at src
      omega
    unfold Mach.bad
    congr 1
    simp only [Mach.setFdb, List.contains_eq_mem, List.mem_filter, bne_iff_ne]
    exact decide_eq_decide.mpr ⟨fun h => h.1, fun h => ⟨h, ne⟩⟩
  rw [Mach.fdbAt, bad, Mach.fdbAt]
  refine if_congr Iff.rfl rfl (Tbl.look_put_other _ _ _ _ (fun same => other (by rw [same])) ordered)

theorem fdbFind_setFdb_of_other_die (ordered : Tbl.rising m.fwd.fdb = true) {p e die bd mac : Nat} (other : p / 2 ^ 20 ≠ die) :
    fdbFind (m.setFdb p e) die bd mac = fdbFind m die bd mac := by
  rw [fdbFind_eq, fdbFind_eq]
  refine List.find?_congr fun p' mem => ?_
  rw [fdbAt_setFdb_of_other_die ordered fun same => other (same ▸ die_of_mem_fdbKeyPlaces mem)]

/-! ### Set, delete and query -/

/-- One entry of `FDB_SET`. -/
def fdbSetOne (q : Cmd) (m : Mach) (e : Nat) : Except Nat Mach :=
  if !fdbOk e then .error sBAD_ENTRY
  else
    match q.dies.foldl (fun (r : Option Mach) d => r.bind fun m => fdbWrite m d e) (some m) with
    | some m' => .ok m'
    | none => .error sNO_ROOM

theorem fdbSet_one (one : q.a1 = 1) : fdbSet m q = applyEach (fun m _ b => fdbSetOne q m (beNat b)) [slice q.data 0 16] 0 m := by
  rw [← entriesOf_one one]
  rfl

theorem fdbSet_of_writes (one : q.a1 = 1) {e : Nat} (entry : be q.data 0 16 = e) (fine : fdbOk e = true) {m' : Mach}
    (writes : q.dies.foldl (fun (r : Option Mach) d => r.bind fun m => fdbWrite m d e) (some m) = some m') : fdbSet m q = (sOK, 0, [], m') := by
  rw [fdbSet_one one]
  refine applyEach_one_ok ?_
  change fdbSetOne q m (be q.data 0 16) = _
  simp only [fdbSetOne, entry, fine, writes, Bool.not_true, Bool.false_eq_true, if_false]

theorem fdbSet_of_full (one : q.a1 = 1) {e : Nat} (entry : be q.data 0 16 = e) (fine : fdbOk e = true)
    (full : q.dies.foldl (fun (r : Option Mach) d => r.bind fun m => fdbWrite m d e) (some m) = none) : fdbSet m q = (sNO_ROOM, 0, [], m) := by
  rw [fdbSet_one one]
  refine applyEach_one_error ?_
  change fdbSetOne q m (be q.data 0 16) = _
  simp only [fdbSetOne, entry, fine, full, Bool.not_true, Bool.false_eq_true, if_false]

theorem fdbSet_of_bad (one : q.a1 = 1) (bad : fdbOk (be q.data 0 16) = false) : fdbSet m q = (sBAD_ENTRY, 0, [], m) := by
  rw [fdbSet_one one]
  refine applyEach_one_error ?_
  change fdbSetOne q m (be q.data 0 16) = _
  simp only [fdbSetOne, bad, Bool.not_false, if_true]

theorem fdbWrite_of_found {die e p : Nat} (found : fdbFind m die (fdbBd e) (fdbMac e) = some p) : fdbWrite m die e = some (m.setFdb p e) := by
  rw [fdbWrite, found]

theorem fdbWrite_of_absent {die e : Nat} (absent : fdbFind m die (fdbBd e) (fdbMac e) = none) :
    fdbWrite m die e = (fdbRoom m die (fdbBd e) (fdbMac e)).map fun p => m.setFdb p e := by
  rw [fdbWrite, absent]

/-- The places of an entry's key on the dies of a command. -/
def fdbAtDies (m : Mach) (q : Cmd) (e : Nat) : List Nat := q.dies.filterMap fun d => fdbFind m d (fdbBd e) (fdbMac e)

theorem fdbDelete_of_found (one : q.a1 = 1) {p : Nat} (places : fdbAtDies m q (be q.data 0 16) = [p]) : fdbDelete m q = (sOK, 0, [], m.setFdb p 0) := by
  rw [fdbDelete, entriesOf_one one]
  refine applyEach_one_ok ?_
  change (if fdbAtDies m q (be q.data 0 16) = [] then _ else Except.ok ((fdbAtDies m q (be q.data 0 16)).foldl _ m)) = _
  rw [places]
  rfl

theorem fdbDelete_of_absent (one : q.a1 = 1) (places : fdbAtDies m q (be q.data 0 16) = []) : fdbDelete m q = (sNOT_FOUND, 0, [], m) := by
  rw [fdbDelete, entriesOf_one one]
  exact applyEach_one_error (if_pos places)

theorem fdbQuery_of_found (one : q.a1 = 1) {p : Nat} (places : fdbAtDies m q (be q.data 0 16) = [p]) : fdbQuery m q = (sOK, 0, beBytes 16 (m.fdbAt p), m) := by
  have first : (fdbAtDies m q (beNat (slice q.data 0 16))).head? = some p := congrArg List.head? places
  unfold fdbAtDies at first
  simp only [fdbQuery, one, List.range_one, queryEach, Nat.mul_zero, first, okRes, List.nil_append]

theorem fdbQuery_of_absent (one : q.a1 = 1) (places : fdbAtDies m q (be q.data 0 16) = []) : fdbQuery m q = (sNOT_FOUND, 0, [], m) := by
  have first : (fdbAtDies m q (beNat (slice q.data 0 16))).head? = none := congrArg List.head? places
  unfold fdbAtDies at first
  simp only [fdbQuery, one, List.range_one, queryEach, Nat.mul_zero, first]
  rfl

/-! ### Flush -/

/-- What a flush removes: a dynamic entry of its dies that meets its criteria. -/
def fdbGone (q : Cmd) (p e : Nat) : Bool :=
  fdbValid e && !fdbStatic e && q.dies.contains (p / 2 ^ 20) && (bit q.a0 31 || bit q.a1 31) &&
    (!bit q.a0 31 || fdbBd e == bits q.a0 13 0) && (!bit q.a1 31 || fdbLport e == bits q.a1 7 0)

theorem fdbFlush_eq (m : Mach) (q : Cmd) : fdbFlush m q =
    (sOK, 0, [], ((m.fwd.fdb.filter fun x => fdbGone q x.1 x.2).map (·.1)).foldl (fun (m : Mach) p => m.setFdb p 0) m) := rfl

theorem fdbFlush_of_no_criterion (bd : bit q.a0 31 = false) (port : bit q.a1 31 = false) : fdbFlush m q = (sOK, 0, [], m) := by
  rw [fdbFlush_eq, List.filter_eq_nil_iff.mpr fun x _ => by simp [fdbGone, bd, port]]
  rfl

/-- Removing the entries of some places leaves those of the others. -/
theorem look_setFdbs (ps : List Nat) (p : Nat) (ordered : Tbl.rising m.fwd.fdb = true) :
    Tbl.look 0 (ps.foldl (fun (m : Mach) p => m.setFdb p 0) m).fwd.fdb p = if p ∈ ps then 0 else Tbl.look 0 m.fwd.fdb p := by
  induction ps generalizing m with
  | nil => rfl
  | cons p' ps ih =>
    rw [List.foldl_cons, ih (Tbl.rising_put 0 m.fwd.fdb p' 0 ordered)]
    by_cases same : p = p'
    · subst same
      rw [if_pos List.mem_cons_self, Mach.setFdb, Tbl.look_put_self _ _ _ _ ordered, ite_self]
    · simp only [List.mem_cons, same, false_or]
      exact if_congr Iff.rfl rfl (Tbl.look_put_other 0 0 m.fwd.fdb 0 same ordered)

/-- In a table in order a key's read is what stands there. -/
theorem find_eq_some_iff_mem {α : Type} {t : Tbl α} (ordered : Tbl.rising t = true) (k : Nat) (x : α) : Tbl.find t k = some x ↔ (k, x) ∈ t := by
  induction t with
  | nil => simp
  | cons e t ih =>
    obtain ⟨k', x'⟩ := e
    obtain ⟨above, rest⟩ := (Tbl.rising_cons k' x' t).mp ordered
    rw [Tbl.find, List.mem_cons, Prod.mk.injEq]
    split
    · next same =>
      refine ⟨fun h => .inl ⟨same, (Option.some.inj h).symm⟩, fun h => ?_⟩
      rcases h with h | h
      · rw [h.2]
      · exact absurd (above _ h) (by simp [same])
    · next other =>
      split
      · next below =>
        refine ⟨fun h => (nomatch h), fun h => ?_⟩
        rcases h with h | h
        · exact absurd h.1 other
        · exact absurd (above _ h) (by simp only; omega)
      · rw [ih rest]
        simp [other]

theorem mem_gone (ordered : Tbl.rising m.fwd.fdb = true) (p : Nat) :
    p ∈ (m.fwd.fdb.filter fun x => fdbGone q x.1 x.2).map (·.1) ↔ fdbGone q p (Tbl.look 0 m.fwd.fdb p) = true := by
  rw [List.mem_map]
  refine ⟨fun h => ?_, fun gone => ?_⟩
  · obtain ⟨⟨k, x⟩, member, rfl⟩ := h
    obtain ⟨mem, gone⟩ := List.mem_filter.mp member
    rw [Tbl.look, (find_eq_some_iff_mem ordered k x).mpr mem]
    exact gone
  · cases found : Tbl.find m.fwd.fdb p with
    | none =>
      rw [Tbl.look, found] at gone
      simp [fdbGone, fdbValid, bit] at gone
    | some x =>
      rw [Tbl.look, found] at gone
      exact ⟨(p, x), List.mem_filter.mpr ⟨(find_eq_some_iff_mem ordered p x).mp found, gone⟩, rfl⟩

theorem fdbFlush_by_bd (ordered : Tbl.rising m.fwd.fdb = true) (bd : bit q.a0 31 = true) (port : bit q.a1 31 = false) (p : Nat) :
    Tbl.look 0 (fdbFlush m q).2.2.2.fwd.fdb p =
      if fdbValid (Tbl.look 0 m.fwd.fdb p) && !fdbStatic (Tbl.look 0 m.fwd.fdb p) && q.dies.contains (p / 2 ^ 20) &&
        fdbBd (Tbl.look 0 m.fwd.fdb p) == bits q.a0 13 0 then 0 else Tbl.look 0 m.fwd.fdb p := by
  rw [fdbFlush_eq]
  change Tbl.look 0 (List.foldl _ m _).fwd.fdb p = _
  rw [look_setFdbs _ p ordered]
  refine if_congr ((mem_gone ordered p).trans ?_) rfl rfl
  simp only [fdbGone, bd, port, Bool.true_or, Bool.and_true, Bool.not_true, Bool.false_or, Bool.not_false]

/-- A bulk command that is granted leave acts, and releases it. -/
theorem cmdRun_of_granted {c : Cfg} {n : Nat} {rid : Option Nat} {slot : Nat} {op : CmdOp} {st d : Nat} {out : List Byte} {m' m'' : Mach}
    (bulk : isBulk op q = true) (holds : m.holdsLeave opBulk n = false) (waits : m.waitsLeave opBulk n = false)
    (granted : askLeave c m opBulk n = (.granted, m')) (done : cmdEffect c m' n rid slot op q none = .done st d out m'') :
    cmdRun c m n rid slot op q none = .done st d out (releaseLeave c (tableWrites c op q st d m'') opBulk n) := by
  simp only [cmdRun, bulk, holds, waits, granted, done, countTable, Bool.not_true, Bool.false_eq_true, if_false]

theorem exec_fdbFlush_granted {s : State} {r : Fin 16384} {q' : Cmd} {slot : Nat} {m' : Mach} (starts : Starts s r .fdbFlush q q' slot m)
    (holds : m.holdsLeave opBulk m.pwr.nextWait = false) (waits : m.waitsLeave opBulk m.pwr.nextWait = false)
    (granted : askLeave s.conf m opBulk m.pwr.nextWait = (.granted, m')) :
    exec (.fdbFlush r q) s = s.completes r slot (sOK, 0, [], releaseLeave s.conf (tableWrites s.conf .fdbFlush q' sOK 0 (fdbFlush m' q').2.2.2) opBulk
      m.pwr.nextWait) := by
  have run : cmdRun s.conf m m.pwr.nextWait (some r.val) slot .fdbFlush q' none = .done sOK 0 []
      (releaseLeave s.conf (tableWrites s.conf .fdbFlush q' sOK 0 (fdbFlush m' q').2.2.2) opBulk m.pwr.nextWait) :=
    cmdRun_of_granted rfl holds waits granted rfl
  refine (exec_of_starts (op := .fdbFlush) (by decide) starts).trans ?_
  rw [cmdGo, if_neg (by decide), cmdPlace_of_done run, starts.pwr]
  rfl

/-- Settles O35. -/
theorem fdbCommandsSetFindAndRemove : Obligations.FdbCommandsSetFindAndRemove := by
  unfold Obligations.FdbCommandsSetFindAndRemove
  refine ⟨fun s r q => ⟨answers_of_effect (op := .fdbSet) rfl (by decide) rfl fun _ _ _ _ => rfl,
      answers_of_effect (op := .fdbDelete) rfl (by decide) rfl fun _ _ _ _ => rfl, answers_of_effect (op := .fdbQuery) rfl (by decide) rfl fun _ _ _ _ => rfl⟩,
    fun s r q q' slot m m' => exec_fdbFlush_granted, fun m q d e p one dies entry fine place => ?_,
    fun m q e p p' ordered one dies entry fine here there => ?_, fun m q d e one dies entry fine absent full => ?_, fun m q => fdbSet_of_bad,
    fun m q d e p one dies entry found => ?_, fun m q one absent => ?_, fun m q => fdbFlush_of_no_criterion, fun m q p => fdbFlush_by_bd (p := p)⟩
  · refine fdbSet_of_writes one entry fine ?_
    rw [dies]
    rcases place with found | ⟨absent, room⟩
    · exact fdbWrite_of_found found
    · exact (fdbWrite_of_absent absent).trans (by rw [room]; rfl)
  · refine fdbSet_of_writes one entry fine ?_
    have there' : fdbFind (m.setFdb p e) 1 (fdbBd e) (fdbMac e) = some p' := by
      rw [fdbFind_setFdb_of_other_die ordered (by rw [fdbFind_die here]; decide), there]
    rw [dies]
    change ((fdbWrite m 0 e).bind fun m => fdbWrite m 1 e) = _
    rw [fdbWrite_of_found here]
    exact fdbWrite_of_found there'
  · refine fdbSet_of_full one entry fine ?_
    rw [dies]
    exact (fdbWrite_of_absent absent).trans (by rw [full]; rfl)
  · have places : fdbAtDies m q (be q.data 0 16) = [p] := by
      rw [fdbAtDies, entry, dies, List.filterMap_cons, found, List.filterMap_nil]
    exact ⟨fdbDelete_of_found one places, fdbQuery_of_found one places⟩
  · have places : fdbAtDies m q (be q.data 0 16) = [] := List.filterMap_eq_nil_iff.mpr absent
    exact ⟨fdbDelete_of_absent one places, fdbQuery_of_absent one places⟩

end
end Sys2Proof.Machine

/-! Routing entries by command (R180, R184). Software that rewrites an ECMP member repairs its error (R395), so more than the member changes. -/
namespace Sys2Proof.Machine

/-- A machine in which ECMP member 0 of die 0 is in error. -/
def memberInError : Mach := { flt := { badEntries := [(srcOf 10 2 + 1024 * 3, 0)] } }

/-- Refutes O36: `ECMP_MEMBER_SET` of member 0 on `memberInError` repairs the member, so the machine's list of entries in error changes with the table. -/
theorem not_routingCommandsWriteTheirTables : ¬ Obligations.RoutingCommandsWriteTheirTables := by
  unfold Obligations.RoutingCommandsWriteTheirTables
  intro ⟨_, _, _, _, members, _⟩
  obtain ⟨t, done, _⟩ := members memberInError { arg1 := 1, data := [0, 7] } (by decide) (by decide)
  have repaired := congrArg (fun x => x.2.2.2.flt.badEntries) done
  revert repaired
  change _ → False
  simp only [memberInError]
  decide +kernel

end Sys2Proof.Machine

/-! Prefixes, subscribers, policers and gate lists by command (R178, R181, R182, R231, R244). -/
namespace Sys2Proof.Machine

section
variable {m : Mach} {q : Cmd}

/-- A query of a run of entries that are all there answers them in order. -/
theorem queryEach_of_all {f : Nat → Except Nat (List Byte)} {g : Nat → List Byte} {l : List Nat} (all : ∀ n ∈ l, f n = .ok (g n)) (i : Nat) (out : List Byte) :
    queryEach f m l i out = (sOK, 0, out ++ l.flatMap g, m) := by
  induction l generalizing i out with
  | nil => simp [queryEach, okRes]
  | cons n l ih =>
    rw [queryEach, all n List.mem_cons_self]
    simp only [ih (fun k mem => all k (List.mem_cons_of_mem _ mem)), List.flatMap_cons, List.append_assoc]

theorem queryEach_run {f : Nat → Except Nat (List Byte)} {g : Nat → List Byte} {first count : Nat} (all : ∀ i < count, f (first + i) = .ok (g (first + i))) :
    queryEach f m ((List.range count).map (first + ·)) 0 [] = (sOK, 0, (List.range count).flatMap fun i => g (first + i), m) := by
  rw [queryEach_of_all (g := g), List.nil_append, List.flatMap_map]
  intro n mem
  obtain ⟨i, inside, rfl⟩ := List.mem_map.mp mem
  exact all i (List.mem_range.mp inside)

/-! ### Prefixes -/

theorem lpmAdd_of_room (one : q.a1 = 1) (fine : lpmOk (slice q.data 0 32) = true)
    (room : ((m.fwd.lpm.filter fun y => !y.same (lpmOf (slice q.data 0 32))).filter fun y => y.v6 == (lpmOf (slice q.data 0 32)).v6).length <
      (if (lpmOf (slice q.data 0 32)).v6 then 262144 else 1048576)) :
    ∃ e, lpmAdd m q = (sOK, 0, [], { m with
      fwd := { m.fwd with lpm := (m.fwd.lpm.filter fun y => !y.same (lpmOf (slice q.data 0 32))) ++
        [{ lpmOf (slice q.data 0 32) with place := lpmPlace m.fwd.lpm (lpmOf (slice q.data 0 32)) }] }
      flt := { m.flt with badEntries := e } }) := by
  obtain ⟨e, repaired⟩ := repairedOn_eq { m with fwd := { m.fwd with lpm := (m.fwd.lpm.filter fun y => !y.same (lpmOf (slice q.data 0 32))) ++
    [{ lpmOf (slice q.data 0 32) with place := lpmPlace m.fwd.lpm (lpmOf (slice q.data 0 32)) }] } } [0, 1] 2 0 (lpmPlace m.fwd.lpm (lpmOf (slice q.data 0 32)))
  refine ⟨e, ?_⟩
  rw [lpmAdd, entriesOf_one one]
  refine applyEach_one_ok ?_
  simp only [fine, Nat.not_le.mpr room, Bool.not_true, Bool.false_eq_true, if_false]
  exact congrArg Except.ok repaired

theorem lpmAdd_of_bad (one : q.a1 = 1) (bad : lpmOk (slice q.data 0 32) = false) : lpmAdd m q = (sBAD_ENTRY, 0, [], m) := by
  rw [lpmAdd, entriesOf_one one]
  refine applyEach_one_error ?_
  simp only [bad, Bool.not_false, if_true]

theorem lpmDelete_eq (one : q.a1 = 1) (fine : lpmOk (splice (slice q.data 0 32) 4 [0, 0, 0, 0]) = true) :
    lpmDelete m q = if m.fwd.lpm.any (·.same (lpmOf (slice q.data 0 32))) then
        (sOK, 0, [], { m with fwd := { m.fwd with lpm := m.fwd.lpm.filter fun y => !y.same (lpmOf (slice q.data 0 32)) } })
      else (sNOT_FOUND, 0, [], m) := by
  rw [lpmDelete, entriesOf_one one]
  split
  · next found =>
    refine applyEach_one_ok ?_
    simp only [fine, found, Bool.not_true, Bool.false_eq_true, if_false]
  · next absent =>
    refine applyEach_one_error ?_
    simp only [fine, absent, Bool.not_true, Bool.not_false, Bool.false_eq_true, if_true, if_false]

/-! ### Subscribers -/

/-- A machine that differs from `m` in the subscribers' entries, their map and the entries known as bad. -/
def Mach.withSubs (m : Mach) (sub : Tbl (List Byte)) (map : Tbl Nat) (bad : List (Nat × Nat)) : Mach :=
  { m with fwd := { m.fwd with sub := sub, map := map }, flt := { m.flt with badEntries := bad } }

theorem subSet_fills (sub : Tbl.rising m.fwd.sub = true) (map : Tbl.rising m.fwd.map = true)
    (good : ∀ i < q.a1, q.a0 + i < 8388608 ∧ subOk (slice q.data (256 * i) 256) = true) :
    ∃ t u e, subSet m q = (sOK, 0, [], { m with fwd := { m.fwd with sub := t, map := u }, flt := { m.flt with badEntries := e } }) ∧
      Filled (Tbl.look (List.replicate 256 0) m.fwd.sub) (Tbl.look (List.replicate 256 0) t) q.a0 q.a1 (fun i => slice q.data (256 * i) 256) ∧
      Filled (Tbl.look 0 m.fwd.map) (Tbl.look 0 u) q.a0 q.a1 fun i => be (slice q.data (256 * i) 256) 0 4 := by
  obtain ⟨m', done, t, u, e, rfl, filled, mapped⟩ := applyEach_entries (n := 256) (b := q.data) (count := q.a1) (m := m)
    (f := fun m i b => if 8388608 ≤ q.a0 + i || !subOk b then .error sBAD_ENTRY
      else .ok (repairedOn { m with fwd := { m.fwd with
        sub := Tbl.put (List.replicate 256 0) m.fwd.sub (q.a0 + i) b, map := Tbl.put 0 m.fwd.map (q.a0 + i) (be b 0 4) } } [0, 1] 3 1 (q.a0 + i)))
    (P := fun i m' => ∃ t u e, m' = m.withSubs t u e ∧ FilledTo (List.replicate 256 0) m.fwd.sub q.a0 (fun i => slice q.data (256 * i) 256) i t ∧
      FilledTo 0 m.fwd.map q.a0 (fun i => be (slice q.data (256 * i) 256) 0 4) i u)
    ⟨_, _, _, rfl, .zero sub, .zero map⟩ fun i inside m' ⟨t, u, e, same, filled, mapped⟩ => by
      obtain ⟨below, fine⟩ := good i inside
      obtain ⟨e', repaired⟩ := repairedOn_eq (m.withSubs (Tbl.put (List.replicate 256 0) t (q.a0 + i) (slice q.data (256 * i) 256))
        (Tbl.put 0 u (q.a0 + i) (be (slice q.data (256 * i) 256) 0 4)) e) [0, 1] 3 1 (q.a0 + i)
      refine ⟨_, ?_, _, _, e', rfl, filled.put, mapped.put⟩
      simp only [same, fine, Nat.not_le.mpr below, decide_false, Bool.not_true, Bool.or_self, Bool.false_eq_true, if_false]
      exact congrArg Except.ok repaired
  exact ⟨t, u, e, done, filled.2, mapped.2⟩

theorem subQuery_run (below : q.a0 + q.a1 ≤ 8388608) : subQuery m q =
    (sOK, 0, (List.range q.a1).flatMap fun i => Tbl.look (List.replicate 256 0) m.fwd.sub (q.a0 + i), m) :=
  queryEach_run fun i inside => if_neg (by omega)

/-! ### Policers -/

theorem policerSet_one (one : q.a1 = 1) {d : Nat} (dies : q.dies = [d]) (below : q.a0 < 65536) (fine : polOk (beNat (slice q.data 0 16)) = true) :
    policerSet m q = (sOK, 0, [], repaired { m with fwd := { m.fwd with
      policer := Tbl.ins m.fwd.policer (65536 * d + q.a0) (newPolicer m (beNat (slice q.data 0 16))) } } (srcOf 10 (4 * d + 3)) 0 q.a0) := by
  rw [policerSet, entriesOf_one one]
  refine applyEach_one_ok ?_
  simp only [dies, fine, Nat.not_le.mpr below, Nat.add_zero, decide_false, Bool.not_true, Bool.or_self, Bool.false_eq_true, if_false]
  rfl

theorem policerQuery_run {d : Nat} (dies : q.dies = [d]) (below : q.a0 + q.a1 ≤ 65536) :
    policerQuery m q = (sOK, 0, (List.range q.a1).flatMap fun i => beBytes 16 (m.policer d (q.a0 + i)).entry, m) := by
  rw [policerQuery, dies]
  exact queryEach_run (g := fun n => beBytes 16 (m.policer d n).entry) fun i inside => if_neg (by omega)

/-! ### Gate lists -/

section
variable (line : q.a0 < 256) (place : q.a0 % 8 < 6)
include line place

theorem gclSet_of_pending (pending : (m.gate q.a0).change.isSome = true) : gclSet m q = (sBUSY, 0, [], m) := by
  have held : (decide (256 ≤ q.a0) || decide (6 ≤ q.a0 % 8)) = false := by simp [line, place]
  simp only [gclSet, held, pending, Bool.false_eq_true, if_false, if_true]
  rfl

theorem gclSet_fills (gates : Tbl.rising m.sch.gates = true) (admin : Tbl.rising (m.gate q.a0).admin = true) (free : (m.gate q.a0).change = none)
    (good : ∀ i < bits q.a1 26 16, bits q.a1 10 0 + i < 1024 ∧ bits (beNat (slice q.data (8 * i) 8)) 63 40 = 0 ∧ 8 ≤ gInterval (beNat (slice q.data (8 * i) 8))) :
    ∃ t, (gclSet m q).1 = sOK ∧ (gclSet m q).2.2.2.gate q.a0 = { m.gate q.a0 with admin := t } ∧
      Filled (Tbl.look 0 (m.gate q.a0).admin) (Tbl.look 0 t) (bits q.a1 10 0) (bits q.a1 26 16) fun i => beNat (slice q.data (8 * i) 8) := by
  have held : (decide (256 ≤ q.a0) || decide (6 ≤ q.a0 % 8)) = false := by simp [line, place]
  obtain ⟨m', done, _, t, same, filled⟩ := applyEach_entries (n := 8) (b := q.data) (count := bits q.a1 26 16) (m := m)
    (f := fun m i b => if 1024 ≤ bits q.a1 10 0 + i || bits (beNat b) 63 40 ≠ 0 || gInterval (beNat b) < 8 then .error sBAD_ENTRY
      else .ok (m.setGate q.a0 { m.gate q.a0 with admin := Tbl.put 0 (m.gate q.a0).admin (bits q.a1 10 0 + i) (beNat b) }))
    (P := fun i m' => Tbl.rising m'.sch.gates = true ∧ ∃ t, m'.gate q.a0 = { m.gate q.a0 with admin := t } ∧
      FilledTo 0 (m.gate q.a0).admin (bits q.a1 10 0) (fun i => beNat (slice q.data (8 * i) 8)) i t)
    ⟨gates, _, rfl, .zero admin⟩ fun i inside m' ⟨ordered, t, same, filled⟩ => by
      obtain ⟨below, low, interval⟩ := good i inside
      let g : GateUnit := { m.gate q.a0 with admin := Tbl.put 0 t (bits q.a1 10 0 + i) (beNat (slice q.data (8 * i) 8)) }
      refine ⟨m'.setGate q.a0 g, ?_, Tbl.rising_put ({} : GateUnit) m'.sch.gates q.a0 g ordered, _, Tbl.look_put_self ({} : GateUnit) m'.sch.gates q.a0 g ordered, filled.put⟩
      simp only [same, low, Nat.not_le.mpr below, Nat.not_lt.mpr interval, decide_false, ne_eq, not_true_eq_false, Bool.or_self, Bool.false_eq_true, if_false]
      rfl
  refine ⟨t, ?_⟩
  have set : gclSet m q = okRes m' := by
    rw [← done, gclSet]
    simp only [held, free, Option.isSome_none, Bool.false_eq_true, if_false]
  rw [set]
  exact ⟨rfl, same, filled.2⟩

end

/-- Settles O37. -/
theorem forwardingListCommandsWriteTheirTables : Obligations.ForwardingListCommandsWriteTheirTables := by
  unfold Obligations.ForwardingListCommandsWriteTheirTables
  exact ⟨fun s r q => ⟨answers_of_effect (op := .lpmAdd) rfl (by decide) rfl fun _ _ _ _ => rfl,
      answers_of_effect (op := .lpmDelete) rfl (by decide) rfl fun _ _ _ _ => rfl, answers_of_effect (op := .subSet) rfl (by decide) rfl fun _ _ _ _ => rfl,
      answers_of_effect (op := .subQuery) rfl (by decide) rfl fun _ _ _ _ => rfl, answers_of_effect (op := .policerSet) rfl (by decide) rfl fun _ _ _ _ => rfl,
      answers_of_effect (op := .policerQuery) rfl (by decide) rfl fun _ _ _ _ => rfl, answers_of_effect (op := .gclSet) rfl (by decide) rfl fun _ _ _ _ => rfl⟩,
    fun m q one fine room => lpmAdd_of_room one fine room, fun m q => lpmAdd_of_bad, fun m q one fine => lpmDelete_eq one fine, fun m q => subSet_fills,
    fun m q => subQuery_run, fun m q d one dies below fine => ⟨_, policerSet_one one dies below fine⟩, fun m q d => policerQuery_run,
    fun m q => gclSet_of_pending, fun m q gates admin line place free _ good => gclSet_fills line place gates admin free good⟩

end
end Sys2Proof.Machine

/-! Steering and promotion by command (R281, R286, R303, R309, R315). -/
namespace Sys2Proof.Machine

section
variable {c : Cfg} {m : Mach} {q : Cmd}

/-! ### STEER_SET and STEER_QUERY -/

theorem steer_of_bad_count (bad : q.a1 = 0 ∨ 1024 < q.a1) : steerSet c m q = (sBAD_ENTRY, 0, [], m) ∧ steerQuery m q = (sBAD_ENTRY, 0, [], m) := by
  have count : (decide (q.a1 = 0) || decide (1024 < q.a1)) = true := by simpa using bad
  simp only [steerSet, steerQuery, count, if_true]
  exact ⟨rfl, rfl⟩

theorem steerQuery_run (some : 0 < q.a1) (few : q.a1 ≤ 1024) (below : q.a0 + q.a1 ≤ 65536) : steerQuery m q = (sOK, 0, (List.range q.a1).flatMap fun i =>
    beBytes 8 (putBits (putBits (m.entry (q.a0 + i)) 15 14 (m.entState (q.a0 + i))) 13 13 (b2n (m.entShadowed (q.a0 + i)))), m) := by
  have count : (decide (q.a1 = 0) || decide (1024 < q.a1)) = false := by simp [Nat.ne_of_gt some, few]
  simp only [steerQuery, count, Bool.false_eq_true, if_false]
  exact queryEach_run (g := fun e => beBytes 8 (putBits (putBits (m.entry e) 15 14 (m.entState e)) 13 13 (b2n (m.entShadowed e)))) fun i inside => if_neg (by omega)

/-- The entry that a write of the first entry of its data stores. -/
def steerNew (q : Cmd) : Nat := putBits (beNat (slice q.data 0 8)) 15 13 0

/-- A machine that differs from `m` in the steering table. -/
def Mach.withSteer (m : Mach) (e x : Nat) : Mach := { m with duo := { m.duo with steer := Tbl.put 0 m.duo.steer e x } }

section
variable (one : q.a1 = 1) (below : q.a0 < 65536)
include one

theorem steerSet_one : steerSet c m q = applyEach (fun m i b =>
    let e := q.a0 + i
    let x := putBits (beNat b) 15 13 0
    let excluded := m.entState e = 3
    let old := m.entry e
    if 65536 ≤ e || !steerOk c x then .error sBAD_ENTRY
    else if m.glb.sealSt = .sealed && !excluded && changesPart c (m.entry e) x then .error sNOT_PERMITTED
    else
      let m := m.withSteer e x
      let st := entryFor c m x
      .ok (if excluded then m.setEnt e st true
           else if seHome x ≠ seHome old then m.setEnt e st (st == 1 || m.entShadowed e) else m)) [slice q.data 0 8] 0 m := by
  have count : (decide (q.a1 = 0) || decide (1024 < q.a1)) = false := by simp [one]
  rw [← entriesOf_one one]
  simp only [steerSet, count, Bool.false_eq_true, if_false]
  rfl

include below

omit below in
theorem steerSet_of_bad (bad : steerOk c (steerNew q) = false) : steerSet c m q = (sBAD_ENTRY, 0, [], m) := by
  rw [steerSet_one one]
  refine applyEach_one_error ?_
  rw [steerNew] at bad
  simp only [bad, Bool.not_false, Bool.or_true, if_true]

variable (fine : steerOk c (steerNew q) = true)
include fine

theorem steerSet_of_forbidden (sealed : m.glb.sealSt = .sealed) (kept : m.entState q.a0 ≠ 3) (part : changesPart c (m.entry q.a0) (steerNew q) = true) :
    steerSet c m q = (sNOT_PERMITTED, 0, [], m) := by
  rw [steerSet_one one]
  refine applyEach_one_error ?_
  rw [steerNew] at fine part
  simp only [Nat.add_zero, Nat.not_le.mpr below, fine, sealed, kept, part, decide_false, decide_true, Bool.not_true, Bool.not_false, Bool.or_self, Bool.and_self,
    Bool.false_eq_true, if_false, if_true]

theorem steerSet_of_excluded (excluded : m.entState q.a0 = 3) :
    steerSet c m q = (sOK, 0, [], (m.withSteer q.a0 (steerNew q)).setEnt q.a0 (entryFor c m (steerNew q)) true) := by
  rw [steerSet_one one]
  refine applyEach_one_ok ?_
  have fine' := fine
  rw [steerNew] at fine'
  simp only [Nat.add_zero, Nat.not_le.mpr below, fine', excluded, decide_false, decide_true, Bool.not_true, Bool.or_self, Bool.and_false, Bool.false_and,
    Bool.false_eq_true, if_false, if_true]
  rfl

theorem steerSet_of_kept (kept : m.entState q.a0 ≠ 3) (may : m.glb.sealSt ≠ .sealed ∨ changesPart c (m.entry q.a0) (steerNew q) = false) :
    steerSet c m q = (sOK, 0, [], if seHome (steerNew q) ≠ seHome (m.entry q.a0) then
      (m.withSteer q.a0 (steerNew q)).setEnt q.a0 (entryFor c m (steerNew q)) (entryFor c m (steerNew q) == 1 || m.entShadowed q.a0)
      else m.withSteer q.a0 (steerNew q)) := by
  rw [steerSet_one one]
  refine applyEach_one_ok ?_
  rw [steerNew] at fine may
  have open' : (decide (m.glb.sealSt = .sealed) && !false && changesPart c (m.entry q.a0) (putBits (beNat (slice q.data 0 8)) 15 13 0)) = false := by
    rcases may with h | h <;> simp [h]
  simp only [Nat.add_zero, Nat.not_le.mpr below, fine, open', kept, decide_false, Bool.not_true, Bool.or_self, Bool.false_eq_true, if_false]
  rfl

end

/-! ### PROMOTE -/

theorem promote_of_forbidden (bad : 65536 < q.a0 + q.a1 ∨ ∃ i < q.a1, entRole c (m.entry (q.a0 + i)) ≠ .mirror ∨ m.entState (q.a0 + i) ≠ 1) :
    promote c m q = (sNOT_PERMITTED, 0, [], m) := by
  unfold promote
  refine if_pos ?_
  rw [Bool.or_eq_true, decide_eq_true_eq, Bool.not_eq_true', ← Bool.not_eq_true, List.all_map, List.all_eq_true]
  refine bad.imp_right fun ⟨i, inside, not⟩ all => ?_
  have holds := all i (List.mem_range.mpr inside)
  simp only [Function.comp_apply, Bool.and_eq_true, beq_iff_eq] at holds
  exact not.elim (absurd holds.1) (absurd holds.2)

/-- The mirror that `PROMOTE` names. -/
def promoteMirror (c : Cfg) (q : Cmd) : Option (Nat × Option Nat) :=
  if bit q.arg2.toNat 31 = true then some (bits q.arg2.toNat 17 0, partnerOf c (bits q.arg2.toNat 17 0)) else none

theorem promote_of_shadow (below : q.a0 + q.a1 ≤ 65536) (all : ∀ i < q.a1, entRole c (m.entry (q.a0 + i)) = .mirror ∧ m.entState (q.a0 + i) = 1) :
    promote c m q = (sOK, 0, [], (List.range q.a1).foldl (fun m i => promoteEntry c m (promoteMirror c q) (q.a0 + i)) m) := by
  have every : (((List.range q.a1).map (q.a0 + ·)).all fun e => entRole c (m.entry e) == .mirror && m.entState e == 1) = true := by
    rw [List.all_map, List.all_eq_true]
    intro i mem
    obtain ⟨mirror, shadow⟩ := all i (List.mem_range.mp mem)
    simp only [Function.comp_apply, mirror, shadow, beq_self_eq_true, Bool.and_self]
  simp only [promote, every, Nat.not_lt.mpr below, decide_false, Bool.not_true, Bool.or_self, Bool.false_eq_true, if_false, List.foldl_map]
  rfl

/-- The entry that a promotion leaves. -/
def promoted (c : Cfg) (x : Nat) (mirror : Option (Nat × Option Nat)) : Nat :=
  let x := putBits x 59 42 (deviceId c)
  match mirror with
  | some (dev, p) => putBits (putBits (putBits x 62 62 1) 41 24 dev) 18 16 (p.getD (seMirrorP x))
  | none => putBits x 62 62 0

theorem bit_eq_bits (n i : Nat) : bit n i = (bits n i i == 1) := by
  rw [bit, bits, Nat.add_sub_cancel_left]
  rfl

theorem seHome_promoted {x : Nat} {mirror : Option (Nat × Option Nat)} (device : deviceId c < 2 ^ 18) : seHome (promoted c x mirror) = deviceId c := by
  have self : bits (putBits x 59 42 (deviceId c)) 59 42 = deviceId c := (bits_putBits_self x 59 42 _).trans (Nat.mod_eq_of_lt device)
  rcases mirror with _ | ⟨dev, p⟩
  · exact (bits_putBits_of_disjoint _ _ (by decide)).trans self
  · exact (bits_putBits_of_disjoint _ _ (by decide)).trans ((bits_putBits_of_disjoint _ _ (by decide)).trans
      ((bits_putBits_of_disjoint _ _ (by decide)).trans self))

theorem seMEn_promoted {x : Nat} {mirror : Option (Nat × Option Nat)} : seMEn (promoted c x mirror) = mirror.isSome := by
  rw [seMEn, bit_eq_bits]
  rcases mirror with _ | ⟨dev, p⟩
  · exact congrArg (· == 1) (bits_putBits_self _ 62 62 0)
  · exact congrArg (· == 1) ((bits_putBits_of_disjoint _ _ (by decide)).trans ((bits_putBits_of_disjoint _ _ (by decide)).trans (bits_putBits_self _ 62 62 1)))

theorem seMirror_promoted {x dev : Nat} {p : Option Nat} (small : dev < 2 ^ 18) : seMirror (promoted c x (some (dev, p))) = dev :=
  (bits_putBits_of_disjoint _ _ (by decide)).trans ((bits_putBits_self _ 41 24 dev).trans (Nat.mod_eq_of_lt small))

theorem seMirrorP_promoted {x dev p : Nat} (small : p < 8) : seMirrorP (promoted c x (some (dev, some p))) = p :=
  (bits_putBits_self _ 18 16 p).trans (Nat.mod_eq_of_lt small)

theorem sendOr_steer (m : Mach) (p : Nat) (g : Msg) : (sendOr m p g).duo.steer = m.duo.steer ∧ (sendOr m p g).duo.est = m.duo.est := by
  unfold sendOr duoSend
  dsimp only
  split <;> exact ⟨rfl, rfl⟩

/-- A `STEER` message to every partner that is reachable. -/
def steerOut (g : Msg) (m : Mach) (p : Nat) : Mach := if (m.link p).ver = 2 && reachable m p then sendOr m p g else m

theorem steerOut_steer (g : Msg) (l : List Nat) (m : Mach) :
    (l.foldl (steerOut g) m).duo.steer = m.duo.steer ∧ (l.foldl (steerOut g) m).duo.est = m.duo.est := by
  induction l generalizing m with
  | nil => exact ⟨rfl, rfl⟩
  | cons p l ih =>
    rw [List.foldl_cons, (ih _).1, (ih _).2, steerOut]
    split
    · exact sendOr_steer m p g
    · exact ⟨rfl, rfl⟩

theorem promoteEntry_eq (c : Cfg) (m : Mach) (mirror : Option (Nat × Option Nat)) (e : Nat) :
    ∃ g, promoteEntry c m mirror e = (List.range 8).foldl (steerOut g) ((m.withSteer e (promoted c (m.entry e) mirror)).setEnt e 0 false) := by
  unfold promoteEntry
  extract_lets x x' duo m₁ m₂ body
  have start : m₂ = (m.withSteer e (promoted c (m.entry e) mirror)).setEnt e 0 false := rfl
  have sends : (fun (m : Mach) p => if (m.link p).ver = 2 && reachable m p then sendOr m p { type := 8, body := body } else m) =
    steerOut { type := 8, body := body } := rfl
  exact ⟨{ type := 8, body := body }, by rw [sends, start]⟩

theorem promoteEntry_tables (c : Cfg) (m : Mach) (mirror : Option (Nat × Option Nat)) (e : Nat) :
    (promoteEntry c m mirror e).duo.steer = Tbl.put 0 m.duo.steer e (promoted c (m.entry e) mirror) ∧
      (promoteEntry c m mirror e).duo.est = Tbl.put 0 m.duo.est e 0 := by
  obtain ⟨g, sends⟩ := promoteEntry_eq c m mirror e
  obtain ⟨steer, est⟩ := steerOut_steer g (List.range 8) ((m.withSteer e (promoted c (m.entry e) mirror)).setEnt e 0 false)
  rw [sends]
  exact ⟨steer, est⟩

theorem promoteEntry_entry (steer : Tbl.rising m.duo.steer = true) {mirror : Option (Nat × Option Nat)} (e n : Nat) :
    (promoteEntry c m mirror e).entry n = if n = e then promoted c (m.entry e) mirror else m.entry n := by
  rw [Mach.entry, (promoteEntry_tables c m mirror e).1]
  split
  · next same => rw [same, Tbl.look_put_self _ _ _ _ steer]
  · next other => exact Tbl.look_put_other _ _ _ _ other steer

theorem promoteEntry_est (est : Tbl.rising m.duo.est = true) {mirror : Option (Nat × Option Nat)} (e n : Nat) :
    Tbl.look 0 (promoteEntry c m mirror e).duo.est n = if n = e then 0 else Tbl.look 0 m.duo.est n := by
  rw [(promoteEntry_tables c m mirror e).2]
  split
  · next same => rw [same, Tbl.look_put_self _ _ _ _ est]
  · next other => exact Tbl.look_put_other _ _ _ _ other est

/-- Settles O38. -/
theorem steeringCommandsActOnTheirEntries : Obligations.SteeringCommandsActOnTheirEntries := by
  unfold Obligations.SteeringCommandsActOnTheirEntries
  refine ⟨fun s r q => ⟨answers_of_effect (op := .steerSet) rfl (by decide) rfl fun _ _ _ _ => rfl,
      answers_of_effect (op := .steerQuery) rfl (by decide) rfl fun _ _ _ _ => rfl, answers_of_effect (op := .promote) rfl (by decide) rfl fun _ _ _ _ => rfl⟩,
    fun c m q => steer_of_bad_count, fun c m q one below => ⟨steerSet_of_bad one, steerSet_of_forbidden one below, fun fine kept may same => ?_,
      fun fine kept may moved => ?_, steerSet_of_excluded one below⟩, fun m q => steerQuery_run, fun c m q => promote_of_forbidden,
    fun c m q => promote_of_shadow, fun c m e mirror steer est device _ names => ?_⟩
  · have same' : seHome (steerNew q) = seHome (m.entry q.a0) := same
    exact (steerSet_of_kept one below fine kept may).trans (by rw [if_neg (not_not.mpr same')]; rfl)
  · have moved' : seHome (steerNew q) ≠ seHome (m.entry q.a0) := moved
    exact (steerSet_of_kept one below fine kept may).trans (by rw [if_pos moved']; rfl)
  · have self : (promoteEntry c m mirror e).entry e = promoted c (m.entry e) mirror := (promoteEntry_entry steer e e).trans (if_pos rfl)
    have state : Tbl.look 0 (promoteEntry c m mirror e).duo.est e = 0 := (promoteEntry_est est e e).trans (if_pos rfl)
    refine ⟨fun _ => ?_, ?_, ?_, ?_, ?_, fun n other => ⟨?_, ?_⟩⟩
    · rw [self, entRole, seHome_promoted device, if_pos rfl]
    · rw [self, seMEn_promoted]
    · rw [Mach.entState, state]
    · rw [Mach.entShadowed, state]
      decide
    · rintro ⟨dev, p⟩ rfl
      obtain ⟨small, index⟩ := names _ rfl
      rw [self]
      refine ⟨seMirror_promoted small, ?_⟩
      rintro p rfl
      exact seMirrorP_promoted (index p rfl)
    · exact (promoteEntry_entry steer e n).trans (if_neg other)
    · rw [Mach.entState, promoteEntry_est est, if_neg other]
      rfl

end
end Sys2Proof.Machine

/-! Core images, quotes, the tag and the owner by command (R274, R418, R421, R423–R426). -/
namespace Sys2Proof.Machine

section
variable {s : State} {r : Fin 16384} {c : Cfg} {m m' : Mach} {q q' : Cmd} {slot : Nat}

/-- A command answers as `f` says where its effect, on the input that its checks let through, is `f`'s answer. -/
theorem answers_of_input {i : Instr} {op : CmdOp} {f : Mach → Cmd → CmdRes} (row : i = ringRow op r q) (named : op ≠ .reserved) (plain : isFlowOp op = false)
    (effect : ∀ m n slot q', inputOk op q' = true → cmdEffect s.conf m n (some r.val) slot op q' none = .of (f m q')) : Answers i s r op q f := by
  intro q' slot m starts small
  rw [row, exec_of_done named plain starts small (effect m _ slot q' starts.input)]
  rfl

/-! ### Core images -/

/-- What `CORE_LOAD` answers. -/
theorem coreLoad_answers (c : Cfg) (m : Mach) (q : Cmd) (n : Nat) : cmdEffect c m n (some r.val) slot .coreLoad q none = .of
    (let slot := q.arg0.toNat
    if 1 < slot then (sBAD_ENTRY, 0, [], m)
    else if slotBusy c m slot then (sBUSY, 0, [], m)
    else match bundleCheck c m [7] q.data with
      | some st => (st, 0xFFFF, [], m)
      | none =>
        let image := (bundleOf q.data).payload
        match m.sec.writeErrs.find? fun e => e.1 = 2 + slot && decide (e.2 < image.length) with
        | some (_, n) => (0x0F, 0xFFFF, [], loadStops { m with tsk := { m.tsk with
            image := Tbl.ins m.tsk.image slot (image.take n ++ (Tbl.look [] m.tsk.image slot).drop n) } } (2 + slot) n [2 + slot])
        | none => (sOK, 0, [], { m with
          tsk := { m.tsk with image := Tbl.ins m.tsk.image slot image }
          sec := { m.sec with meas := Tbl.put {} m.sec.meas (6 + slot) (bundleOf q.data).meas
                              incomplete := m.sec.incomplete.filter fun i => decide (i ≠ 2 + slot) } })) := by
  change (fun x : Nat × Nat × Mach => CmdAns.done x.1 x.2.1 [] x.2.2) (coreLoadImage c m q.arg0.toNat q.data) = _
  have marks (n : Nat) : (fun i => !([n] : List Nat).contains i) = fun i => decide (i ≠ n) := by
    funext i
    simp
  unfold coreLoadImage
  by_cases far : 1 < q.arg0.toNat
  · simp only [far, if_true]
    rfl
  · by_cases busy : slotBusy c m q.arg0.toNat = true
    · simp only [far, busy, if_true, if_false]
      rfl
    · simp only [far, busy, if_false]
      cases bundleCheck c m [7] q.data with
      | some st => rfl
      | none =>
        dsimp only
        generalize (m.sec.writeErrs.find? fun e => decide (e.1 = 2 + q.arg0.toNat) && decide (e.2 < (bundleOf q.data).payload.length)) = found
        cases found with
        | some e => rfl
        | none =>
          simp only [loadDone, setMeas, marks]
          rfl

/-! ### Quotes -/

theorem completes_of_attest {n : Nat} {st : Nat} {out : List Byte} (starts : Starts s r .attest q q' slot m) (small : isBulk .attest q' = false)
    (done : attest s.conf m m.pwr.nextWait q' = .done st n out m') : exec (.attest r q) s = s.completes r slot (st, n, out, m') :=
  (exec_of_done (op := .attest) (by decide) rfl starts small done).trans (by rw [tableWrites_of_no_banks rfl])

theorem attest_certificate {n : Nat} (cert : q.arg0.getLsbD 0 = true) : attest c m n q = .done sOK 0 (certificate c) m := if_pos cert

theorem attest_of_quote {n st : Nat} {out : List Byte} (plain : q.arg0.getLsbD 0 = false) (input : inputOk .attest q = true)
    (done : quote c m n (quoteBody c m q.data) = .done st out m') : attest c m n q = .done st 0 out m' := by
  have nonce : (q.arg0.getLsbD 0 || q.data.length == 32) = true := input
  rw [plain, Bool.false_or, beq_iff_eq] at nonce
  have first : ¬q.data.length = 432 := by omega
  simp only [attest, plain, first, done, Bool.false_eq_true, if_false]

theorem quote_of_no_leaf {n : Nat} {body : List Byte} (none : 2 ^ 40 ≤ m.sec.next) : quote c m n body = .done 0x28 [] m := if_pos none

theorem quote_of_granted {n : Nat} {body : List Byte} {m'' : Mach} (leaf : m.sec.next < 2 ^ 40) (key : keyReady m = true) (quiet : m.sec.signedAt = none)
    (holds : m.holdsLeave opQuote n = false) (waits : m.waitsLeave opQuote n = false) (granted : askLeave c m opQuote n = (.granted, m'))
    (reserved : reserveLeaf m' = (true, m'')) :
    quote c m n body = .done 0x00 (signQuote c m'' body).1 (releaseLeave c (signQuote c m'' body).2 opQuote n) := by
  have some : ¬leafCount ≤ m.sec.next := Nat.not_le.mpr leaf
  simp only [quote, some, key, quiet, holds, waits, granted, reserved, Option.map_none, Option.getD_none, Bool.not_true, Bool.false_eq_true, if_false]

theorem reserveLeaf_of_reserved (other : m.sec.nv.reserved.2.2 ≠ m.sec.next) : reserveLeaf m = (true, m) := by
  unfold reserveLeaf
  exact if_pos fun same => other same.symm

theorem reserved_of_reserveLeaf (took : reserveLeaf m = (true, m')) (last : m.sec.nv.reserved.2.2 = m.sec.next) : m'.sec.nv.reserved.2.2 = m.sec.next + 1024 := by
  unfold reserveLeaf at took
  dsimp only at took
  rw [if_neg (not_not.mpr last.symm)] at took
  obtain ⟨stands, same⟩ := Prod.mk.inj took
  rw [← same]
  dsimp only
  rw [beq_iff_eq.mp stands, ← last]

theorem treeAsk_of_none (none : treeDue m = none) : treeAsk c m = (true, m) := by
  unfold treeAsk
  rw [none]
  cases m.sec.gen <;> rfl

theorem treeDue_congr (next : m'.sec.next = m.sec.next) (trees : m'.sec.trees = m.sec.trees) : treeDue m' = treeDue m := by
  rw [treeDue, treeDue, next, trees]

theorem draw_draw_draw_draw (m : Mach) : m.draw.draw.draw.draw = { m with free := m.free + 4 } := by simp only [Mach.draw]

/-- The machine once a quote is signed. -/
def Mach.signed (m : Mach) : Mach := { m with sec := { m.sec with next := m.sec.next + 1, signedAt := some m.up }, free := m.free + 4 }

theorem signQuote_of_quiet {body : List Byte} (many : 2 ^ 30 ≤ 2 ^ 40 - m.sec.next - 1)
    (trees : treeDue { m with sec := { m.sec with next := m.sec.next + 1 } } = none) : ∃ out, signQuote c m body = (out, m.signed) := by
  have left : ¬leafCount - m.sec.next - 1 < 2 ^ 30 := by
    unfold leafCount
    omega
  have quiet : treeAsk c m.signed = (true, m.signed) := treeAsk_of_none ((treeDue_congr rfl rfl).trans trees)
  unfold signQuote
  rw [draw_draw_draw_draw]
  extract_lets leaf few body' sig m₁ sec₁ m₂ sec₂ m₃
  have still : m₃ = m.signed := if_neg (by rw [decide_eq_false left, Bool.false_and]; exact Bool.false_ne_true)
  exact ⟨body' ++ (sig ++ List.replicate (9893 - sig.length) 0).take 9893, by rw [still, quiet]⟩

/-! ### The tag and the owner -/

theorem tagWrite_answers (m : Mach) (q : Cmd) : CmdAns.ofPair (tagWrite m q.a0 q.data) = .of
    (if q.arg0.toNat % 64 ≠ 0 ∨ q.data.length % 64 ≠ 0 ∨ 4096 < q.arg0.toNat + q.data.length then (sBAD_ENTRY, 0, [], m)
    else if 1_000_000 ≤ m.sec.nv.tagWrites then (0x29, 0, [], m)
    else (sOK, 0, [], { m with sec := { m.sec with nv := { m.sec.nv with
      tag := q.data.zipIdx.foldl (fun t e => Tbl.put 0 t (q.arg0.toNat + e.2) e.1) m.sec.nv.tag, tagWrites := m.sec.nv.tagWrites + 1 } } })) := by
  unfold tagWrite Cmd.a0
  simp only [Bool.or_eq_true, decide_eq_true_eq, or_assoc]
  split
  · rfl
  · split <;> rfl

/-- Bytes put one after the other from a place on. -/
theorem putBytes_filled (off : Nat) (b : List Byte) (i : Nat) {t : Tbl Byte} (ordered : Tbl.rising t = true) :
    Filled (Tbl.look 0 t) (Tbl.look 0 ((b.zipIdx i).foldl (fun t e => Tbl.put 0 t (off + e.2) e.1) t)) (off + i) b.length fun j => b.getD j 0 := by
  induction b generalizing i t with
  | nil => exact ⟨fun _ h => absurd h (Nat.not_lt_zero _), fun _ _ => rfl⟩
  | cons x b ih =>
    obtain ⟨inside, outside⟩ := ih (i + 1) (Tbl.rising_put 0 t (off + i) x ordered)
    rw [List.zipIdx_cons, List.foldl_cons]
    refine ⟨fun j below => ?_, fun n beyond => ?_⟩
    · cases j with
      | zero => rw [Nat.add_zero, outside _ (.inl (by omega)), ← Nat.add_zero (off + i), Tbl.look_put_self _ _ _ _ ordered, List.getD_cons_zero]
      | succ j =>
        rw [show off + i + (j + 1) = off + (i + 1) + j by omega, inside j (Nat.lt_of_succ_lt_succ below), List.getD_cons_succ]
    · rw [List.length_cons] at beyond
      rw [outside n (by omega), Tbl.look_put_other _ _ _ _ (by omega) ordered]

theorem ownerEnrol_answers (m : Mach) (q : Cmd) (input : inputOk .ownerEnrol q = true) : CmdAns.ofPair (ownerEnrol m q.data) = .of
    (let enrol (h : List Byte) : CmdRes := (sOK, 0, [], { m with sec := { m.sec with nv := { m.sec.nv with owner := some h } } })
    if q.data.length = 68 then
      if m.sec.nv.owner.isSome then (0x27, 0, [], m)
      else if m.glb.sealSt = .sealed ∨ m.glb.sealSt = .checking then (sNOT_PERMITTED, 0, [], m)
      else enrol (shake256 32 q.data)
    else match m.sec.nv.owner with
      | none => (sNOT_PERMITTED, 0, [], m)
      | some h =>
        if Config.xmssVerify h ([0x4F, 0x57, 0x4E, 0x45, 0x52, 0x2D, 0x52, 0x4F, 0x54, 0x41, 0x54, 0x45] ++ shake256 32 (q.data.take 68)) (q.data.drop 68)
        then enrol (shake256 32 (q.data.take 68)) else (0x24, 0, [], m)) := by
  unfold ownerEnrol
  by_cases short : q.data.length = 68
  · simp only [short, if_true, Bool.or_eq_true, decide_eq_true_eq]
    split
    · rfl
    · split <;> rfl
  · have long : q.data.length = 2888 := by
      change (q.data.length == 68 || q.data.length == 2888) = true at input
      simpa [short] using input
    have other : ¬2888 = 68 := by decide
    simp only [long, other, if_false, if_true]
    cases m.sec.nv.owner with
    | none => rfl
    | some h =>
      dsimp only
      split <;> rfl

/-- Settles O39. -/
theorem trustCommandsActAsTheirRulesSay : Obligations.TrustCommandsActAsTheirRulesSay := by
  unfold Obligations.TrustCommandsActAsTheirRulesSay
  refine ⟨fun s r q => answers_of_effect (op := .coreLoad) rfl (by decide) rfl fun m n slot q => coreLoad_answers s.conf m q n,
    fun s r q q' slot m starts small => ⟨fun cert => completes_of_attest starts small (attest_certificate cert), fun plain none => ?_,
      fun plain leaf key quiet holds waits m' m'' granted reserved => ?_⟩,
    fun m => reserveLeaf_of_reserved, fun m m' => reserved_of_reserveLeaf, fun c m body _ => signQuote_of_quiet,
    fun s r q => answers_of_effect (op := .tagWrite) rfl (by decide) rfl fun m _ _ q => tagWrite_answers m q, fun t off b => putBytes_filled off b 0,
    fun s r q => answers_of_input (op := .ownerEnrol) rfl (by decide) rfl fun m _ _ q => ownerEnrol_answers m q⟩
  · exact completes_of_attest starts small (attest_of_quote plain starts.input (quote_of_no_leaf none))
  · exact completes_of_attest starts small (attest_of_quote plain starts.input (quote_of_granted leaf key quiet holds waits granted reserved))

end
end Sys2Proof.Machine

/-! Flow commands (R113). An insert is admitted to both its buckets from the first where its primary one has overflowed, is rebuilt, or its slot has a state
(R89, R109); looking into its alternate bucket, it then takes no further place in the slices' order. -/
namespace Sys2Proof.Machine

/-- `FLOW_INSERT` of a valid record of the key of 16 zero bytes. -/
def fullInsert : Cmd := { data := List.replicate 16 0 ++ [0x80] ++ List.replicate 47 0 }

/-- A device whose ring 5 has one command posted, and whose flow store is ready. -/
def fullBase : Mach :=
  { glb := { inReset := false, stage := .waitHost }
    hif :=
      { ports := [(0, { linkUp := true, bme := true, lostAt := none })]
        rings := [(5, { state := .active, kind := .cmd, ver := 2, owner := 0, tail := 1, log2 := 6 })] }
    fsl := { ready := true } }

/-- The flow hash of that key. -/
def fullHash : Nat := fhOf { fuse := {} } fullBase (List.replicate 16 0)

/-- The same with four records in the key's primary bucket, its slot in takeover. -/
def fullBucket : State :=
  { dev :=
      { cfg := { fuse := {} }
        m := { fullBase with fsl := { fullBase.fsl with
          mapState := [(fhSlot fullHash, 1)]
          hbm := (List.range 4).map fun i => (hkey (fhSlot fullHash) (4 * fhBucket fullHash + i), { key := [1] }) } } }
    pending := [] }

/-- The command as `fullBucket` takes it. -/
def fullTaken : Cmd × Nat × Mach := (cmdGet fullBucket.mach 5 (opcode .flowInsert) fullInsert).getD (fullInsert, 0, {})

/-- The machine in which its slice carries it out. -/
def fullServed : Mach :=
  bump fullBucket.conf (beginReads fullTaken.2.2.takesPlace 5) .fslCnt
    (fullTaken.2.2.phys (fhSlot (fhOf fullBucket.conf fullTaken.2.2 (flowKey .flowInsert fullTaken.1)))) cFslHostCmd

/-- The place in its alternate bucket. -/
def fullPlace : Option Nat := roomAt fullTaken.2.2 (fhSlot fullHash) (otherBucket fullHash (fhBucket fullHash)) false

/-- The next number of the slices' order after a command. -/
def nextPlace : Outcome → Nat
  | .next t => t.mach.fsl.nextOrd
  | _ => 0

theorem fullBucket_got : cmdGet fullBucket.mach 5 (opcode .flowInsert) fullInsert = some fullTaken := by
  have some : (cmdGet fullBucket.mach 5 (opcode .flowInsert) fullInsert).isSome = true := by decide +kernel
  obtain ⟨x, got⟩ := Option.isSome_iff_exists.mp some
  rw [fullTaken, got]
  rfl

theorem fullBucket_serves : Serves fullBucket 5 .flowInsert fullInsert fullTaken.1 fullTaken.2.1 fullTaken.2.2 fullServed where
  starts :=
    { live := rfl
      got := fullBucket_got
      may := by decide +kernel
      input := by decide +kernel
      room := Nat.zero_le _
      free := by decide +kernel
      ready := fun _ => by decide +kernel }
  free :=
    { noOps := by decide +kernel
      noJobs := by decide +kernel
      noMoves := by decide +kernel
      noImage := by decide +kernel
      room := by decide +kernel
      unguarded := by decide +kernel
      guardRoom := by decide +kernel }
  here := rfl

theorem fullBucket_finds_room : FindsRoom fullBucket.conf fullTaken.2.2 fullServed (flowKey .flowInsert fullTaken.1) (fullPlace.map .at) fullServed.takesPlace := by
  refine .inr ⟨by decide +kernel, rfl, .inl ?_⟩
  have some : fullPlace.isSome = true := by decide +kernel
  obtain ⟨pos, place⟩ := Option.isSome_iff_exists.mp some
  refine ⟨pos, Eq.trans (by decide +kernel) place, by rw [place]; rfl⟩

/-- Refutes O32: on `fullBucket` the insert is admitted to both buckets at once and takes one place in the slices' order, where the statement has it take a
second one when it looks into its alternate bucket. -/
theorem not_flowCommandsActOnTheirRecord : ¬ Obligations.FlowCommandsActOnTheirRecord := by
  unfold Obligations.FlowCommandsActOnTheirRecord
  intro ⟨serves, _⟩
  have placed := ((serves fullBucket 5 fullInsert _ _ _ _).1 fullBucket_serves).2 ⟨by decide +kernel, by decide +kernel, by decide +kernel⟩ _ _ fullBucket_finds_room
  have places := congrArg nextPlace placed
  revert places
  decide +kernel

end Sys2Proof.Machine

/-! Doorbells, tail records, fetches and reads of host memory (R335, R337, R338, R343, R349). -/
namespace Sys2Proof.Machine

/-! ### A ring written twice -/

theorem Tbl.ins_ins {α : Type} (t : Tbl α) (i : Nat) (x y : α) : Tbl.ins (Tbl.ins t i x) i y = Tbl.ins t i y := by
  induction t with
  | nil => simp [Tbl.ins]
  | cons e t ih =>
    obtain ⟨k, z⟩ := e
    by_cases below : i < k
    · simp [Tbl.ins, below]
    · by_cases same : i = k
      · simp [Tbl.ins, same]
      · simp [Tbl.ins, below, same, ih]

section
variable {m : Mach} {r : Nat} {x y : Ring}

theorem Ring.ne_default (present : x.state ≠ .absent) : x ≠ {} := fun same => present (by rw [same])

theorem Mach.setRing_of_present (present : x.state ≠ .absent) : m.setRing r x = { m with hif := { m.hif with rings := Tbl.ins m.hif.rings r x } } := by
  rw [Mach.setRing, Tbl.put, if_neg (Ring.ne_default present)]

theorem Mach.ring_setRing_of_present (present : x.state ≠ .absent) : (m.setRing r x).ring r = x := by
  rw [Mach.setRing_of_present present, Mach.ring, Tbl.look, Tbl.find_ins_self]
  rfl

theorem Mach.setRing_setRing_of_present (present : x.state ≠ .absent) (present' : y.state ≠ .absent) :
    (m.setRing r x).setRing r y = m.setRing r y := by
  rw [Mach.setRing_of_present present, Mach.setRing_of_present present', Mach.setRing_of_present present']
  simp only [Tbl.ins_ins]

end

/-! ### Doorbells -/

section
variable {s : State} {c : Cfg} {m : Mach} {p r v : Nat}

/-- A ring behind `INVAL`, with a fetch in flight or without. -/
def Ring.emptied (x : Ring) (inval flight : Bool) : Ring := if inval then { x with cache := [], reserved := [], stale := x.stale + b2n flight } else x

/-- A ring behind `ARM`. -/
def Ring.rearmed (x : Ring) (arm : Bool) : Ring := if arm && x.irqEn then { x with armed := true } else x

/-- A ring as a doorbell's `TAIL` and bits leave it. -/
def Mach.rung (m : Mach) (r v : Nat) : Ring :=
  (({ m.ring r with tail := bits v 15 0 } : Ring).emptied (bit v 16) (mayFetch m r && decide (0 < fetchRoom m r))).rearmed (bit v 17)

theorem Ring.emptied_same (x : Ring) (inval flight : Bool) : (x.emptied inval flight).state = x.state ∧ (x.emptied inval flight).kind = x.kind ∧
    (x.emptied inval flight).fills = x.fills ∧ (x.emptied inval flight).irqEn = x.irqEn ∧ (x.emptied inval flight).unsig = x.unsig := by
  unfold Ring.emptied
  split <;> exact ⟨rfl, rfl, rfl, rfl, rfl⟩

theorem Ring.rearmed_same (x : Ring) (arm : Bool) : (x.rearmed arm).state = x.state ∧ (x.rearmed arm).kind = x.kind ∧ (x.rearmed arm).fills = x.fills := by
  unfold Ring.rearmed
  split <;> exact ⟨rfl, rfl, rfl⟩

/-- Without unsignalled writes no interrupt falls due. -/
theorem checkCount_of_none (none : (m.ring r).unsig = 0) : checkCount c m r = m := by
  simp [checkCount, none]

section
variable {x : Ring} (active : x.state = .active)
include active

theorem ring_set : (m.setRing r x).ring r = x := Mach.ring_setRing_of_present (by rw [active]; decide)

theorem setRing_set {y : Ring} (active' : y.state = .active) : (m.setRing r x).setRing r y = m.setRing r y :=
  Mach.setRing_setRing_of_present (by rw [active]; decide) (by rw [active']; decide)

theorem discardPrefetched_set (inval flight : Bool) : (if inval then discardPrefetched (m.setRing r x) r flight else m.setRing r x) =
    m.setRing r (x.emptied inval flight) := by
  cases inval
  · rfl
  · rw [if_pos rfl, discardPrefetched, ring_set active]
    exact setRing_set active active

theorem checkCount_set (arm : Bool) (quiet : arm = true → x.irqEn = true → x.unsig = 0) :
    (if arm && ((m.setRing r x).ring r).irqEn then checkCount c ((m.setRing r x).setRing r { (m.setRing r x).ring r with armed := true }) r else m.setRing r x) =
      m.setRing r (x.rearmed arm) := by
  rw [ring_set active, Ring.rearmed]
  by_cases on : (arm && x.irqEn) = true
  · rw [if_pos on, if_pos on]
    have armed : ({ x with armed := true } : Ring).state = .active := active
    rw [Bool.and_eq_true] at on
    rw [setRing_set active armed, checkCount_of_none (by rw [ring_set armed]; exact quiet on.1 on.2)]
  · rw [if_neg on, if_neg on]

end

theorem doorbellTake_eq (active : (m.ring r).state = .active) (kind : (m.ring r).kind ≠ .evt) (fills : (m.ring r).fills = [])
    (quiet : bit v 17 = true → (m.ring r).irqEn = true → (m.ring r).unsig = 0) : doorbellTake c m r v = m.setRing r (m.rung r v) := by
  obtain ⟨state, same, none, irq, unsig⟩ := ({ m.ring r with tail := bits v 15 0 } : Ring).emptied_same (bit v 16) (mayFetch m r && decide (0 < fetchRoom m r))
  obtain ⟨state', same', none'⟩ := (({ m.ring r with tail := bits v 15 0 } : Ring).emptied (bit v 16)
    (mayFetch m r && decide (0 < fetchRoom m r))).rearmed_same (bit v 17)
  unfold doorbellTake
  dsimp only
  rw [discardPrefetched_set (x := { m.ring r with tail := bits v 15 0 }) active, checkCount_set (state.trans active) _ (by rw [irq, unsig]; exact quiet)]
  rw [ring_set (state'.trans (state.trans active)), same', same, none', none]
  change (match (m.ring r).kind with | .evt => _ | _ => serveFills c (m.ring r).fills.length _ r) = _
  rw [fills]
  cases k : (m.ring r).kind
  case evt => exact absurd k kind
  all_goals rfl

/-! The words of a doorbell. -/

theorem tail_word {v t : Nat} (word : v % 2 ^ 18 = t) (small : t < 2 ^ 16) : bits v 15 0 = t ∧ bit v 16 = false ∧ bit v 17 = false := by
  simp only [bits, bit, beq_eq_false_iff_ne]
  omega

theorem inval_word {t : Nat} (small : t < 2 ^ 16) : bits (2 ^ 16 + t) 15 0 = t ∧ bit (2 ^ 16 + t) 16 = true ∧ bit (2 ^ 16 + t) 17 = false := by
  simp only [bits, bit, beq_eq_false_iff_ne, beq_iff_eq]
  omega

theorem arm_word {t : Nat} (small : t < 2 ^ 16) : bits (2 ^ 17 + t) 15 0 = t ∧ bit (2 ^ 17 + t) 16 = false ∧ bit (2 ^ 17 + t) 17 = true := by
  simp only [bits, bit, beq_eq_false_iff_ne, beq_iff_eq]
  omega

theorem rung_plain {t : Nat} (tail : bits v 15 0 = t) (inval : bit v 16 = false) (arm : bit v 17 = false) : m.rung r v = { m.ring r with tail := t } := by
  simp only [Mach.rung, Ring.emptied, Ring.rearmed, tail, inval, arm, Bool.false_and, Bool.false_eq_true, if_false]

/-- The word of a doorbell as its length carries it. -/
def doorWord (len v : Nat) : Nat := if len = 4 then v % 2 ^ 32 else v

section
variable (active : (m.ring r).state = .active) (kind : (m.ring r).kind ≠ .evt) (fills : (m.ring r).fills = []) (inside : bits v 15 0 < (m.ring r).size)
  (ahead : (m.ring r).posted ≤ (bits v 15 0 + (m.ring r).size - (m.ring r).head) % (m.ring r).size)
  (quiet : bit v 17 = true → (m.ring r).irqEn = true → (m.ring r).unsig = 0)
include active kind fills inside ahead quiet

theorem doorbellFor_eq : doorbellFor c m p r v = m.setRing r (m.rung r v) := by
  simp only [doorbellFor, active, Nat.not_le.mpr inside, Nat.not_lt.mpr ahead, if_false]
  exact doorbellTake_eq active kind fills quiet

end

section
variable {off len : Nat}

theorem doorbellWrite_of_bad_place (bad : off % 4096 ≠ 0 ∨ (len ≠ 8 ∧ len ≠ 4)) : doorbellWrite c m p off len v = bump c m .hifCnt p cHifDbBad := by
  refine if_pos ?_
  rcases bad with h | ⟨h, h'⟩
  · simp [h]
  · simp [h, h']

variable (place : off % 4096 = 0) (length : len = 8 ∨ len = 4)
include place length

theorem doorbellWrite_of_foreign (present : (m.ring (off / 4096 % 16384)).state ≠ .absent) (foreign : (m.ring (off / 4096 % 16384)).owner ≠ p) :
    doorbellWrite c m p off len v = bump c m .hifCnt p cHifDbForeign := by
  have good : ¬(decide (off % 4096 ≠ 0) || !(decide (len = 8) || decide (len = 4))) = true := by rcases length with h | h <;> simp [place, h]
  have other : (decide ((m.ring (off / 4096 % 16384)).state ≠ .absent) && decide ((m.ring (off / 4096 % 16384)).owner ≠ p)) = true := by simp [present, foreign]
  exact (if_neg good).trans (if_pos other)

theorem doorbellWrite_of_own (own : (m.ring (off / 4096 % 16384)).state = .absent ∨ (m.ring (off / 4096 % 16384)).owner = p) :
    doorbellWrite c m p off len v = doorbellFor c m p (off / 4096 % 16384) (doorWord len v) := by
  have good : ¬(decide (off % 4096 ≠ 0) || !(decide (len = 8) || decide (len = 4))) = true := by rcases length with h | h <;> simp [place, h]
  have mine : ¬(decide ((m.ring (off / 4096 % 16384)).state ≠ .absent) && decide ((m.ring (off / 4096 % 16384)).owner ≠ p)) = true := by
    rcases own with h | h <;> simp [h]
  exact (if_neg good).trans (if_neg mine)

end

theorem doorbellFor_of_closed (closed : (m.ring r).state = .absent ∨ (m.ring r).state = .draining) : doorbellFor c m p r v = bump c m .hifCnt p cHifDbBad := by
  rcases closed with h | h <;> simp only [doorbellFor, h]

theorem doorbellFor_of_bad_tail (active : (m.ring r).state = .active)
    (bad : (m.ring r).size ≤ bits v 15 0 ∨ (bits v 15 0 + (m.ring r).size - (m.ring r).head) % (m.ring r).size < (m.ring r).posted) :
    doorbellFor c m p r v = bump c m .hifCnt p cHifDbBad := by
  simp only [doorbellFor, active]
  rcases bad with h | h
  · rw [if_pos h]
  · rw [if_pos h, ite_self]

/-- Bits 15:0 of a doorbell's word do not depend on its length. -/
theorem bits_doorWord (len v : Nat) : bits (doorWord len v) 15 0 = bits v 15 0 ∧ doorWord len v % 2 ^ 18 = v % 2 ^ 18 := by
  unfold doorWord bits
  split <;> omega

/-- The first part of O40: doorbells that a ring takes. -/
theorem doorbell_taken (live : s.live) (p : Fin 4) (r : Fin 16384) (t : BitVec 16) (active : (s.mach.ring r).state = .active)
    (kind : (s.mach.ring r).kind ≠ .evt) (fills : (s.mach.ring r).fills = []) (inside : t.toNat < (s.mach.ring r).size)
    (ahead : (s.mach.ring r).posted ≤ (t.toNat + (s.mach.ring r).size - (s.mach.ring r).head) % (s.mach.ring r).size)
    (takes : portTakes s.mach p = true) (own : (s.mach.ring r).owner = p) {len v : Nat} (length : len = 8 ∨ len = 4) (word : bits v 15 0 = t.toNat)
    (quiet : bit (doorWord len v) 17 = true → (s.mach.ring r).irqEn = true → (s.mach.ring r).unsig = 0) :
    (s.on fun c m => if portTakes m p then doorbellWrite c m p (4096 * r.val) len v else m) = .next (s.withM (s.mach.setRing r (s.mach.rung r (doorWord len v)))) := by
  have here : 4096 * r.val / 4096 % 16384 = r.val := by omega
  have tail : bits (doorWord len v) 15 0 = t.toNat := (bits_doorWord len v).1.trans word
  rw [State.on_live live, if_pos takes, doorbellWrite_of_own (by omega) length (by rw [here]; exact .inr own), here,
    doorbellFor_eq active kind fills (by rw [tail]; exact inside) (by rw [tail]; exact ahead) quiet]

end
end Sys2Proof.Machine

/-! Fetches of descriptors and reads of host memory (R338, R349). -/
namespace Sys2Proof.Machine

section
variable {s : State} {c : Cfg} {m : Mach} {r : Nat}

/-! ### The device begins on what is prefetched -/

theorem Ring.reads_eq_take (x : Ring) : x.reads = x.cache.take x.reads.length := by
  unfold Ring.reads
  cases x.kind
  case txp => exact (List.take_length).symm
  case cmd => exact List.prefix_iff_eq_take.mp (List.takeWhile_prefix _)
  all_goals rfl

theorem Ring.reads_length_le (x : Ring) : x.reads.length ≤ x.cache.length := by
  rw [x.reads_eq_take, List.length_take]
  exact Nat.min_le_right _ _

theorem Ring.drop_reads_of_txp {x : Ring} (kind : x.kind = .txp) : x.cache.drop x.reads.length = [] := by
  simp only [Ring.reads, kind, List.drop_length]

theorem Ring.head_drop_reads_of_cmd {x : Ring} (kind : x.kind = .cmd) {d : List Byte} (first : d ∈ (x.cache.drop x.reads.length).head?) : be d 16 4 = 0 := by
  simp only [Ring.reads, kind] at first
  generalize x.cache = l at first
  induction l with
  | nil => cases first
  | cons e l ih =>
    rw [List.takeWhile_cons] at first
    split at first
    · exact ih (by simpa using first)
    · next stop =>
      simp only [List.length_nil, List.drop_zero, List.head?_cons, Option.mem_def, Option.some.injEq] at first
      simpa [first] using stop

/-- A ring that can be rewritten: it is present, or the rings stand in order. -/
def Mach.Rewrites (m : Mach) (r : Nat) : Prop := Tbl.rising m.hif.rings = true ∨ (m.ring r).state ≠ .absent

section
variable {x : Ring} (can : m.Rewrites r) (same : x.state = (m.ring r).state)
include can same

theorem Mach.Rewrites.self : (m.setRing r x).ring r = x := by
  rcases can with ordered | present
  · exact Tbl.look_put_self _ _ _ _ ordered
  · exact Mach.ring_setRing_of_present (by rwa [same])

theorem Mach.Rewrites.other {k : Nat} (other : k ≠ r) : (m.setRing r x).ring k = m.ring k := by
  rcases can with ordered | present
  · exact Tbl.look_put_other _ _ _ _ other ordered
  · rw [Mach.setRing_of_present (by rwa [same]), Mach.ring, Tbl.look, Tbl.find_ins_other _ _ other]
    rfl

theorem Mach.Rewrites.set : (m.setRing r x).Rewrites r := by
  rcases can with ordered | present
  · exact .inl (Tbl.rising_put _ _ _ _ ordered)
  · exact .inr (by rw [Mach.ring_setRing_of_present (by rwa [same]), same]; exact present)

end

/-- A ring that has given its next descriptor. -/
def Ring.consuming (x : Ring) (e : Consumed) (up : Nat) : Ring :=
  { x with consumed := x.consumed ++ [{ e with slot := x.nextSlot }], nextSlot := x.nextSlot + 1, usedAt := up }

/-- Taking descriptors out of a ring in order: their slots, and the ring behind it. -/
theorem consumeAll_eq (can : m.Rewrites r) (es : List Consumed) :
    (consumeAll m r es).1 = (List.range es.length).map ((m.ring r).nextSlot + ·) ∧ (∃ t, (consumeAll m r es).2 = { m with hif := { m.hif with rings := t } }) ∧
    (consumeAll m r es).2.Rewrites r ∧ (∀ k, k ≠ r → (consumeAll m r es).2.ring k = m.ring k) ∧
    ∃ l u, l.length = es.length ∧ (consumeAll m r es).2.ring r =
      { m.ring r with consumed := (m.ring r).consumed ++ l, nextSlot := (m.ring r).nextSlot + es.length, usedAt := u } := by
  induction es generalizing m with
  | nil => exact ⟨rfl, ⟨_, rfl⟩, can, fun _ _ => rfl, [], (m.ring r).usedAt, rfl, by simp [consumeAll]⟩
  | cons e es ih =>
    have first : (m.setRing r ((m.ring r).consuming e m.up)).ring r = (m.ring r).consuming e m.up := can.self rfl
    obtain ⟨slots, ⟨t, frame⟩, can', rest, l, u, len, ring⟩ := ih (m := (consume m r e).2) (can.set rfl)
    change _ = List.map (((consume m r e).2.ring r).nextSlot + ·) _ at slots
    refine ⟨?_, ⟨t, frame⟩, can', fun k other => (rest k other).trans (can.other (by rfl) other), { e with slot := (m.ring r).nextSlot } :: l, u, by simp [len], ?_⟩
    · change _ :: (consumeAll (consume m r e).2 r es).1 = _
      rw [slots, show ((consume m r e).2.ring r).nextSlot = (m.ring r).nextSlot + 1 from congrArg Ring.nextSlot first, List.length_cons, List.range_succ_eq_map,
        List.map_cons, List.map_map]
      refine congrArg₂ _ rfl (List.map_congr_left fun i _ => ?_)
      simp only [Function.comp_apply]
      omega
    · change (consumeAll (consume m r e).2 r es).2.ring r = _
      rw [ring, show (consume m r e).2.ring r = _ from first]
      simp only [Ring.consuming, List.append_assoc, List.singleton_append, List.length_cons, Nat.add_assoc, Nat.add_comm 1]

/-- The slots a ring gives next. -/
def Ring.nextSlots (x : Ring) (n : Nat) : List Nat := (List.range n).map (x.nextSlot + ·)

/-- What `beginReads` leaves. -/
theorem beginReads_eq (can : m.Rewrites r) :
    (∃ t, beginReads m r = { m with hif := { m.hif with rings := t } }) ∧ (∀ k, k ≠ r → (beginReads m r).ring k = m.ring k) ∧
      ∃ l u, l.length = (m.ring r).reads.length ∧ (beginReads m r).ring r = { m.ring r with
        cache := (m.ring r).cache.drop (m.ring r).reads.length
        begun := (m.ring r).begun ++ ((m.ring r).nextSlots (m.ring r).reads.length).zip (m.ring r).reads
        nextSlot := (m.ring r).nextSlot + (m.ring r).reads.length, consumed := (m.ring r).consumed ++ l, usedAt := u } := by
  unfold beginReads
  extract_lets x ds
  have set : (m.setRing r { x with cache := x.cache.drop ds.length }).ring r = { x with cache := x.cache.drop ds.length } := can.self rfl
  have others (k : Nat) (other : k ≠ r) : (m.setRing r { x with cache := x.cache.drop ds.length }).ring k = m.ring k := can.other (by rfl) other
  obtain ⟨slots, ⟨t, frame⟩, can', rest, l, u, len, ring⟩ := consumeAll_eq (r := r) (m := m.setRing r { x with cache := x.cache.drop ds.length })
    (can.set rfl) (ds.map fun d => if x.kind = .txp then txpConsumed d else cmdConsumed (cmdIn d x.ver).1 (cmdIn d x.ver).2.1 (d.drop 8))
  generalize consumeAll (m.setRing r { x with cache := x.cache.drop ds.length }) r _ = taken at slots frame can' rest ring
  obtain ⟨ss, m₁⟩ := taken
  dsimp only at slots frame can' rest ring ⊢
  rw [set] at ring slots
  rw [List.length_map] at slots len ring
  refine ⟨⟨_, by rw [frame]; rfl⟩, fun k other => (can'.other (by rfl) other).trans ((rest k other).trans (others k other)), l, u, len, ?_⟩
  rw [can'.self (x := { m₁.ring r with begun := x.begun ++ ss.zip ds }) rfl, ring, slots]
  rfl

/-! ### Fetches -/

theorem reclaim_of_room {keep n : Nat} (room : prefetched m ≤ 65536) : reclaim keep n m = m := by
  cases n with
  | zero => rfl
  | succ n => exact if_pos room

theorem fetchDone_of_stale {ds : List (List Byte)} (stale : 0 < (m.ring r).stale) :
    fetchDone c m r (some ds) = m.setRing r { m.ring r with stale := (m.ring r).stale - 1 } := if_pos (by simp [stale])

theorem active_of_mayFetch (may : mayFetch m r = true) : (m.ring r).state = .active := by
  unfold mayFetch at may
  simp only [Bool.and_eq_true, beq_iff_eq] at may
  exact may.1.1.1

/-- The ring with the descriptors it has room for. -/
def Mach.fetched (m : Mach) (r : Nat) (ds : List (List Byte)) : Ring :=
  { m.ring r with
    cache := (m.ring r).cache ++ (ds.take (fetchRoom m r)).map fun d => (d ++ List.replicate ((m.ring r).descBytes - d.length) 0).take (m.ring r).descBytes
    usedAt := m.up }

section
variable (may : mayFetch m r = true) (room : 0 < fetchRoom m r)
include may room

theorem fetchDone_of_read {ds : List (List Byte)} (fresh : (m.ring r).stale = 0) (fills : (m.ring r).fills = [])
    (space : prefetched (m.setRing r (m.fetched r ds)) ≤ 65536) : fetchDone c m r (some ds) = beginReads (m.setRing r (m.fetched r ds)) r := by
  have active := active_of_mayFetch may
  have can : (m.setRing r (m.fetched r ds)).Rewrites r := Mach.Rewrites.set (.inr (by rw [active]; decide)) rfl
  have set : (m.setRing r (m.fetched r ds)).ring r = m.fetched r ds := ring_set active
  obtain ⟨_, _, l, u, _, ring⟩ := beginReads_eq can
  have none : ((beginReads (m.setRing r (m.fetched r ds)) r).ring r).fills = [] := by
    rw [ring, set]
    exact fills
  have first : ¬(decide (0 < (m.ring r).stale) && (some ds).isSome) = true := by simp [fresh]
  have second : ¬(!mayFetch m r || decide (fetchRoom m r = 0)) = true := by simp [may, Nat.ne_of_gt room]
  refine (if_neg first).trans ((if_neg second).trans ?_)
  dsimp only
  have read : { m.ring r with cache := (m.ring r).cache ++ (ds.take (fetchRoom m r)).map fun d => fetchDone.padTo' (m.ring r).descBytes d, usedAt := m.up } =
    m.fetched r ds := rfl
  dsimp only at read
  rw [read, reclaim_of_room space]
  rw [none, List.length_nil, serveFills]

theorem fetchDone_of_failed : fetchDone c m r none = dmaError c m r
    ((m.ring r).base.toNat + ((m.ring r).head + (m.ring r).consumed.length + (m.ring r).reserved.length + (m.ring r).cache.length) % (m.ring r).size *
      (m.ring r).descBytes) := by
  have empty : ¬fetchRoom m r = 0 := Nat.ne_of_gt room
  simp only [fetchDone, may, empty, Option.isSome_none, decide_false, Bool.and_false, Bool.not_true, Bool.or_self, Bool.false_eq_true, if_false]

end

theorem fetchDone_of_none {ds : Option (List (List Byte))} (still : mayFetch m r = false ∨ fetchRoom m r = 0) (fresh : ds = none ∨ (m.ring r).stale = 0) :
    fetchDone c m r ds = m := by
  have first : ¬(decide (0 < (m.ring r).stale) && ds.isSome) = true := by rcases fresh with h | h <;> simp [h]
  have second : (!mayFetch m r || decide (fetchRoom m r = 0)) = true := by rcases still with h | h <;> simp [h]
  exact (if_neg first).trans (if_pos second)

/-! ### Data of commands and frames -/

theorem dataReadDone_of_input {r : Fin 16384} {d b : List Byte} {rest : List (Nat × List Byte)} {slot opc n : Nat} {x : Cmd} (kind : (m.ring r).kind = .cmd)
    (begun : (m.ring r).begun = (slot, d) :: rest) (read : cmdIn d (m.ring r).ver = (opc, x, n)) (length : b.length = n) :
    dataReadDone c m r (.data b) = ringCmd c m r opc { x with data := b } := by
  have other : ¬RingKind.cmd = .txp := by decide
  simp only [dataReadDone, kind, begun, read, length, other, if_true, if_false]

theorem dataReadDone_of_failed_input {r : Fin 16384} {d : List Byte} {rest : List (Nat × List Byte)} {slot opc n : Nat} {x : Cmd}
    (kind : (m.ring r).kind = .cmd) (begun : (m.ring r).begun = (slot, d) :: rest) (read : cmdIn d (m.ring r).ver = (opc, x, n)) (free : ringWaits m r = false) :
    dataReadDone c m r .failed = complete c (dmaError c (m.setRing r { m.ring r with begun := rest }) r x.dataAddr.toNat) r slot ⟨sDMA_ERROR, 0, []⟩ := by
  have other : ¬RingKind.cmd = .txp := by decide
  simp only [dataReadDone, kind, begun, read, free, other, Bool.false_eq_true, if_false]

theorem txpData_of_read {d b : List Byte} {rest : List (Nat × List Byte)} {slot : Nat} (next : (m.ring r).begun.drop (m.ring r).got.length = (slot, d) :: rest)
    (length : b.length = be d 12 2) : txpData c m r (some b) = m.setRing r { m.ring r with got := (m.ring r).got ++ [b] } := by
  simp only [txpData, next, List.head?_cons, length, if_true]

theorem txpData_of_failed {d : List Byte} {slot : Nat} (begun : (m.ring r).begun = [(slot, d)]) (got : (m.ring r).got = []) :
    txpData c m r none = complete c (dmaError c (m.setRing r { m.ring r with begun := [] }) r (be d 16 8)) r slot ⟨0x0F, 0, []⟩ := by
  have frame : ((frameDescs [d]).getD [d]).length = 1 := by
    unfold frameDescs
    split <;> rfl
  simp only [txpData, txpFail, begun, got, List.length_nil, List.drop_zero, List.head?_cons, List.map_cons, List.map_nil, List.take_nil, wholeLen, List.take_zero,
    List.reverse_nil, List.takeWhile_nil, Nat.sub_zero, frame, Nat.zero_add, List.nil_append, List.drop_succ_cons, List.take_succ_cons, completeAll, List.foldl_cons,
    List.foldl_nil]

end
end Sys2Proof.Machine

/-! Doorbells, tail records and reads of host memory, as the device's rows (R335, R337, R338, R343, R349). -/
namespace Sys2Proof.Machine

section
variable {s : State}

/-- A doorbell that its ring takes. -/
theorem doorbell_rows (live : s.live) (p : Fin 4) (r : Fin 16384) (t : BitVec 16) (len : Nat) (v : BitVec 64) (active : (s.mach.ring r).state = .active)
    (kind : (s.mach.ring r).kind ≠ .evt) (fills : (s.mach.ring r).fills = []) (inside : t.toNat < (s.mach.ring r).size)
    (ahead : (s.mach.ring r).posted ≤ (t.toNat + (s.mach.ring r).size - (s.mach.ring r).head) % (s.mach.ring r).size)
    (takes : portTakes s.mach p = true) (own : (s.mach.ring r).owner = p) :
    (len = 8 ∨ len = 4 → v.toNat % 2 ^ 18 = t.toNat →
      exec (.doorbell p (BitVec.ofNat 26 (4096 * r.val)) len v) s = .next (s.withM (s.mach.setRing r { s.mach.ring r with tail := t.toNat }))) ∧
    exec (.doorbellInval p r t) s = .next (s.withM (s.mach.setRing r { s.mach.ring r with
      tail := t.toNat, cache := [], reserved := []
      stale := (s.mach.ring r).stale + b2n (mayFetch s.mach r && decide (0 < fetchRoom s.mach r)) })) ∧
    ((s.mach.ring r).irqEn = true → (s.mach.ring r).unsig = 0 →
      exec (.doorbellArm p r t) s = .next (s.withM (s.mach.setRing r { s.mach.ring r with tail := t.toNat, armed := true }))) ∧
    ((s.mach.ring r).irqEn = false → exec (.doorbellArm p r t) s = .next (s.withM (s.mach.setRing r { s.mach.ring r with tail := t.toNat }))) := by
  have small : t.toNat < 2 ^ 16 := t.isLt
  refine ⟨fun length word => ?_, ?_, fun irq quiet => ?_, fun still => ?_⟩
  · have place : (BitVec.ofNat 26 (4096 * r.val)).toNat = 4096 * r.val := by
      rw [BitVec.toNat_ofNat, Nat.mod_eq_of_lt (by omega)]
    obtain ⟨tail, inval, arm⟩ := tail_word ((bits_doorWord len v.toNat).2.trans word) small
    have taken := doorbell_taken live p r t active kind fills inside ahead takes own length (tail_word word small).1 (by rw [arm]; exact fun h => nomatch h)
    rw [rung_plain tail inval arm, ← place] at taken
    exact taken
  · obtain ⟨tail, inval, arm⟩ := inval_word small
    have taken := doorbell_taken live p r t active kind fills inside ahead takes own (.inl rfl) tail
      (show bit (2 ^ 16 + t.toNat) 17 = true → _ by rw [arm]; exact fun h => nomatch h)
    refine Eq.trans taken ?_
    simp only [doorWord, Mach.rung, Ring.emptied, Ring.rearmed, tail, inval, arm, Nat.reduceEqDiff, Bool.false_and, Bool.false_eq_true, if_false, if_true]
  all_goals obtain ⟨tail, inval, arm⟩ := arm_word small
  · have taken := doorbell_taken (v := 2 ^ 17 + t.toNat) live p r t active kind fills inside ahead takes own (.inl rfl) tail fun _ _ => quiet
    refine Eq.trans taken ?_
    simp only [doorWord, Mach.rung, Ring.emptied, Ring.rearmed, tail, inval, arm, irq, Nat.reduceEqDiff, Bool.and_self, Bool.false_eq_true, if_false, if_true]
  · have taken := doorbell_taken (v := 2 ^ 17 + t.toNat) live p r t active kind fills inside ahead takes own (.inl rfl) tail
      fun _ on => absurd on (by rw [still]; decide)
    refine Eq.trans taken ?_
    simp only [doorWord, Mach.rung, Ring.emptied, Ring.rearmed, tail, inval, arm, still, Nat.reduceEqDiff, Bool.and_false, Bool.false_eq_true, if_false]

/-- A tail record that is read, or not. -/
theorem pollTail_rows (live : s.live) (r : Fin 16384) (t : BitVec 16) (v : BitVec 64) (active : (s.mach.ring r).state = .active)
    (kind : (s.mach.ring r).kind ≠ .evt) (fills : (s.mach.ring r).fills = []) (inside : t.toNat < (s.mach.ring r).size)
    (ahead : (s.mach.ring r).posted ≤ (t.toNat + (s.mach.ring r).size - (s.mach.ring r).head) % (s.mach.ring r).size) :
    let due := (s.mach.ring r).polledAt + 100 * s.conf.get hifPollPeriodPeriod ≤ s.mach.up
    ((s.mach.ring r).polled = true → s.mach.dmaOk (s.mach.ring r).owner = true → due → v.toNat % 2 ^ 18 = t.toNat →
       exec (.pollTailRead r v) s = .next (s.withM (s.mach.setRing r { s.mach.ring r with tail := t.toNat, polledAt := s.mach.up }))) ∧
     ((s.mach.ring r).polled = false ∨ s.mach.dmaOk (s.mach.ring r).owner = false ∨ ¬due → exec (.pollTailRead r v) s = .next s) := by
  have row : exec (.pollTailRead r v) s = .next (s.withM (pollTail s.conf s.mach r v.toNat)) :=
    State.on_live live fun c m => pollTail c m r v.toNat
  refine ⟨fun polled dma due word => ?_, fun no => ?_⟩
  · have open' : (decide ((s.mach.ring r).state = .active) && (s.mach.ring r).polled && s.mach.dmaOk (s.mach.ring r).owner &&
        decide ((s.mach.ring r).polledAt + 100 * s.conf.get hifPollPeriodPeriod ≤ s.mach.up)) = true := by
      simp [active, polled, dma, show _ ≤ s.mach.up from due]
    obtain ⟨tail, inval, arm⟩ := tail_word word t.isLt
    have set : (s.mach.setRing r { s.mach.ring r with polledAt := s.mach.up }).ring r = { s.mach.ring r with polledAt := s.mach.up } := ring_set active
    rw [row, show pollTail s.conf s.mach r v.toNat = _ from if_pos open', doorbellFor_eq (by rw [set]; exact active) (by rw [set]; exact kind)
      (by rw [set]; exact fills) (by rw [set, tail]; exact inside) (by rw [set, tail]; exact ahead) (by rw [arm]; exact fun h => nomatch h),
      rung_plain tail inval arm, set]
    exact congrArg (fun m => (.next (s.withM m) : Outcome)) (setRing_set (by exact active) (by exact active))
  · have closed : ¬(decide ((s.mach.ring r).state = .active) && (s.mach.ring r).polled && s.mach.dmaOk (s.mach.ring r).owner &&
        decide ((s.mach.ring r).polledAt + 100 * s.conf.get hifPollPeriodPeriod ≤ s.mach.up)) = true := by
      rcases no with h | h | h
      · simp [h]
      · simp [h]
      · simp [show ¬_ ≤ s.mach.up from h]
    rw [row, show pollTail s.conf s.mach r v.toNat = _ from if_neg closed]
    rfl

/-- A doorbell that no ring takes. -/
theorem doorbell_refused (live : s.live) (p : Fin 4) (off : BitVec 26) (len : Nat) (v : BitVec 64) :
    let q := s.mach.ring (off.toNat / 4096)
    let bad : Outcome := .next (s.withM (bump s.conf s.mach .hifCnt p cHifDbBad))
    (portTakes s.mach p = false → exec (.doorbell p off len v) s = .next s) ∧
    (portTakes s.mach p = true →
      (off.toNat % 4096 ≠ 0 ∨ (len ≠ 8 ∧ len ≠ 4) → exec (.doorbell p off len v) s = bad) ∧
      (off.toNat % 4096 = 0 → len = 8 ∨ len = 4 →
        (q.state ≠ .absent → q.owner ≠ p →
          exec (.doorbell p off len v) s = .next (s.withM (bump s.conf s.mach .hifCnt p cHifDbForeign))) ∧
        (q.state = .absent ∨ q.state = .draining ∧ q.owner = p → exec (.doorbell p off len v) s = bad) ∧
        (q.state = .active → q.owner = p →
          q.size ≤ bits v.toNat 15 0 ∨ (bits v.toNat 15 0 + q.size - q.head) % q.size < q.posted → exec (.doorbell p off len v) s = bad))) := by
  intro q bad
  have row : exec (.doorbell p off len v) s = .next (s.withM (if portTakes s.mach p then doorbellWrite s.conf s.mach p off.toNat len v.toNat else s.mach)) :=
    State.on_live live fun c m => if portTakes m p then doorbellWrite c m p off.toNat len v.toNat else m
  have here : off.toNat / 4096 % 16384 = off.toNat / 4096 := Nat.mod_eq_of_lt (by have := off.isLt; omega)
  have taken (takes : portTakes s.mach p = true) {m : Mach} (write : doorbellWrite s.conf s.mach p off.toNat len v.toNat = m) :
      exec (.doorbell p off len v) s = .next (s.withM m) := by
    rw [row, if_pos takes, write]
  refine ⟨fun no => ?_, fun takes => ⟨fun place => taken takes (doorbellWrite_of_bad_place place), fun place length => ⟨fun present foreign => ?_, fun closed => ?_,
    fun active own wrong => ?_⟩⟩⟩
  · rw [row, if_neg (by rw [no]; decide)]
    rfl
  · exact taken takes (doorbellWrite_of_foreign place length (by rwa [here]) (by rwa [here]))
  · refine taken takes ?_
    rw [doorbellWrite_of_own place length (by rw [here]; exact closed.imp_right (·.2)), here]
    exact doorbellFor_of_closed (closed.imp_right (·.1))
  · refine taken takes ?_
    rw [doorbellWrite_of_own place length (by rw [here]; exact .inr own), here]
    exact doorbellFor_of_bad_tail active (by rw [(bits_doorWord len v.toNat).1]; exact wrong)

theorem fetch_row (live : s.live) (r : Fin 16384) (ds : Option (List (List Byte))) :
    exec (.descFetchDone r ds) s = .next (s.withM (fetchDone s.conf s.mach r ds)) := State.on_live live fun c m => fetchDone c m r ds

theorem read_row (live : s.live) (r : Fin 16384) (x : HostRead) :
    exec (.dataReadDone r x) s = .next (s.withM (settle s.conf (dataReadDone s.conf s.mach r x))) := State.onSettle_live live fun c m => dataReadDone c m r x

theorem dataReadDone_of_txp {c : Cfg} {m : Mach} {r : Fin 16384} {x : HostRead} (kind : (m.ring r).kind = .txp) :
    dataReadDone c m r x = txpData c m r (match x with
      | .data b => some b
      | .failed => none) := by
  simp only [dataReadDone, kind, if_true] <;> rfl

/-- What a failed read of an active ring leaves. -/
theorem dmaError_of_active {c : Cfg} {m : Mach} {r a : Nat} (active : (m.ring r).state = .active) : dmaError c m r a =
    (let q := m.ring r
    let e := m.setRing r { q with state := .error, cache := [], stale := 0, reserved := [] }
    let e := if r < 4 then e.setPort r { e.port r with adminErr := 3 } else e
    let m' := bump c (serveFills c q.fills.length e r) .hifCnt q.owner cHifDmaError
    raise c (postEvent c m' { type := 0x0C, bodies := [beBytes 2 r ++ beBytes 1 1 ++ [0] ++ beBytes 8 a] }) 27 q.owner DEGRADED r) := by
  have other : ¬(m.ring r).state = .draining := by rw [active]; decide
  simp only [dmaError, other, if_false, ringError]

/-- Settles O40. -/
theorem doorbellsAndReadsReachTheirRing : Obligations.DoorbellsAndReadsReachTheirRing := by
  unfold Obligations.DoorbellsAndReadsReachTheirRing
  refine ⟨⟨fun s p r t len v live active kind fills inside ahead => ⟨doorbell_rows live p r t len v active kind fills inside ahead,
      pollTail_rows live r t v active kind fills inside ahead⟩, fun s p off len v live => doorbell_refused live p off len v⟩,
    fun s r ds live => ⟨fun stale => ?_, fun fresh may room fills space => ?_⟩, fun m r ordered => ?_, fun s r live may room => ?_,
    fun s r ds live still fresh => ?_, fun s r d b rest slot opc n x live kind begun read => ⟨fun length => ?_, fun free => ?_⟩,
    fun s r d b slot rest live kind => ⟨fun next length => ?_, fun begun got => ?_⟩⟩
  · exact (fetch_row live r _).trans (by rw [fetchDone_of_stale stale])
  · exact (fetch_row live r _).trans (congrArg (fun m => (.next (s.withM m) : Outcome)) (fetchDone_of_read may room fresh fills space))
  · obtain ⟨⟨t, frame⟩, others, l, u, len, ring⟩ := beginReads_eq (r := r) (.inl ordered)
    refine ⟨by rw [frame], others, by rw [ring], by rw [ring, ← Ring.reads_eq_take]; rfl, by rw [ring], by rw [ring, List.length_append, len], by rw [ring],
      by rw [ring], fun kind => by rw [ring]; exact Ring.drop_reads_of_txp kind, fun kind d first => ?_⟩
    rw [ring] at first
    exact Ring.head_drop_reads_of_cmd kind first
  · rw [fetch_row live r none, fetchDone_of_failed may room]
    exact congrArg (fun m => (.next (s.withM m) : Outcome)) (dmaError_of_active (active_of_mayFetch may))
  · exact (fetch_row live r _).trans (by rw [fetchDone_of_none still fresh]; rfl)
  · exact (read_row live r _).trans (by rw [dataReadDone_of_input kind begun read length])
  · exact (read_row live r _).trans (by rw [dataReadDone_of_failed_input kind begun read free])
  · exact (read_row live r _).trans (by rw [dataReadDone_of_txp kind, txpData_of_read next length])
  · exact (read_row live r _).trans (by rw [dataReadDone_of_txp kind, txpData_of_failed begun got])

end
end Sys2Proof.Machine

/-! Frames on rings (R332, R333, R338–R340). -/
namespace Sys2Proof.Machine

section
variable {s : State} {c : Cfg} {m : Mach}

/-! ### Frames of a `TXP` ring -/

theorem txpAdmit_row (live : s.live) (r : Fin 16384) : exec (.txpFrameAdmit r) s = .next (s.withM (txpAdmit s.conf s.mach r)) :=
  State.on_live live fun c m => txpAdmit c m r

theorem txpAdmit_of_still {r : Nat} (still : (m.ring r).kind ≠ .txp ∨ txpWaits m r = true ∨ frameDescs ((m.ring r).begun.map (·.2)) = none) :
    txpAdmit c m r = m := by
  unfold txpAdmit
  split
  · rfl
  · next open' =>
    simp only [Bool.or_eq_true, decide_eq_true_eq, not_or, not_not] at open'
    have none : frameDescs ((m.ring r).begun.map (·.2)) = none := (still.resolve_left (not_not.mpr open'.1)).resolve_left open'.2
    rw [txpTake, none]

section
variable {r : Nat} {ds : List (List Byte)} (free : txpWaits m r = false) (kind : (m.ring r).kind = .txp)
  (frame : frameDescs ((m.ring r).begun.map (·.2)) = some ds)

/-- The slots of a frame of `n` descriptors. -/
def Mach.frameSlots (m : Mach) (r n : Nat) : List Nat := ((m.ring r).begun.take n).map (·.1)

/-- The machine without the first frame of a ring, of `n` descriptors. -/
def Mach.frameTaken (m : Mach) (r n : Nat) : Mach := m.setRing r { m.ring r with begun := (m.ring r).begun.drop n, got := (m.ring r).got.drop n }

/-- The data of a frame of `n` descriptors. -/
def Mach.frameData (m : Mach) (r n : Nat) : List Byte := ((m.ring r).got.take n).flatten

include free kind

theorem txpAdmit_of_open : txpAdmit c m r = txpTake c m r := if_neg (by simp [free, kind])

include frame

theorem txpAdmit_of_bad_extent (bad : badExtent ds = true) : txpAdmit c m r = completeAll c (m.frameTaken r ds.length) r 0x0E (m.frameSlots r ds.length) := by
  rw [txpAdmit_of_open free kind, txpTake, frame]
  exact if_pos bad

variable (fine : badExtent ds = false)
include fine

theorem txpAdmit_of_bad_ptp (ptp : bits (be (ds.headD []) 0 8) 46 45 = 3) :
    txpAdmit c m r = completeAll c (m.frameTaken r ds.length) r 0x07 (m.frameSlots r ds.length) := by
  rw [txpAdmit_of_open free kind, txpTake, frame]
  exact (if_neg (by rw [fine]; decide)).trans (if_pos ptp)

variable (ptp : bits (be (ds.headD []) 0 8) 46 45 ≠ 3)
include ptp

theorem txpAdmit_of_part (part : (m.ring r).got.length < ds.length) : txpAdmit c m r = m := by
  rw [txpAdmit_of_open free kind, txpTake, frame]
  exact (if_neg (by rw [fine]; decide)).trans ((if_neg ptp).trans (if_pos part))

variable (whole : ds.length ≤ (m.ring r).got.length)
include whole

theorem txpAdmit_of_work (work : (m.ring r).toWq = true) : txpAdmit c m r =
    (let taken := m.frameTaken r ds.length
    let item : WItem := { src := 1, wq := (m.ring r).wq, tag := be (ds.headD []) 8 4, origLen := (m.frameData r ds.length).length + 4
                          user := slice (ds.headD []) 48 16, data := m.frameData r ds.length, ring := r, slots := m.frameSlots r ds.length, ts := m.todNs }
    { taken with tsk := { taken.tsk with hostIn := Tbl.put [] taken.tsk.hostIn r (Tbl.look [] taken.tsk.hostIn r ++ [item]) } }) := by
  rw [txpAdmit_of_open free kind, txpTake, frame]
  exact (if_neg (by rw [fine]; decide)).trans ((if_neg ptp).trans ((if_neg (Nat.not_lt.mpr whole)).trans (if_pos work)))

variable (host : (m.ring r).toWq = false)
include host

theorem txpAdmit_of_unlisted (unlisted : (m.ring r).pipes.getLsbD (bits (be (ds.headD []) 0 8) 44 40) = false) : txpAdmit c m r =
    completeAll c (countReason c (m.frameTaken r ds.length) (bits (be (ds.headD []) 0 8) 44 40) 0x37) r 0x0B (m.frameSlots r ds.length) := by
  rw [txpAdmit_of_open free kind, txpTake, frame]
  exact (if_neg (by rw [fine]; decide)).trans ((if_neg ptp).trans ((if_neg (Nat.not_lt.mpr whole)).trans
    ((if_neg (by rw [host]; decide)).trans (if_pos (by rw [unlisted]; rfl)))))

theorem txpAdmit_of_listed (listed : (m.ring r).pipes.getLsbD (bits (be (ds.headD []) 0 8) 44 40) = true) : txpAdmit c m r =
    hostFrameIn c (m.frameTaken r ds.length)
      { pipe := bits (be (ds.headD []) 0 8) 44 40, data := m.frameData r ds.length, metaw := be (ds.headD []) 14 2, ptp := bits (be (ds.headD []) 0 8) 46 45
        ptpTag := be (ds.headD []) 24 2, port := (m.ring r).owner, ring := r, slots := m.frameSlots r ds.length } := by
  rw [txpAdmit_of_open free kind, txpTake, frame]
  exact (if_neg (by rw [fine]; decide)).trans ((if_neg ptp).trans ((if_neg (Nat.not_lt.mpr whole)).trans
    ((if_neg (by rw [host]; decide)).trans (if_neg (by rw [listed]; decide)))))

end

/-! ### Descriptors written -/

theorem writeDesc_of_polled {r opc st fl : Nat} {ctx : BitVec 32} {body : List Byte} (present : (m.ring r).state ≠ .absent) (polled : (m.ring r).irqEn = false) :
    writeDesc c m r opc st fl ctx body =
      ((m.emit (.desc (m.ring r).owner r (m.ring r).head (body.take ((m.ring r).descBytes - 8)))).emit
        (.word0 (m.ring r).owner r (m.ring r).head (word0 (m.ring r).phase opc st fl ctx))).setRing r { m.ring r with
          head := if (m.ring r).head + 1 = (m.ring r).size then 0 else (m.ring r).head + 1
          phase := if (m.ring r).head + 1 = (m.ring r).size then !(m.ring r).phase else (m.ring r).phase } := by
  unfold writeDesc
  simp only [polled, Bool.false_eq_true, if_false]
  have off (m' : Mach) (h : (m'.ring r).irqEn = false) : checkCount c m' r = m' := by simp [checkCount, h]
  exact off _ (by rw [Mach.ring_setRing_of_present (by exact present)])

theorem bufsNeeded_of_first {d : List Byte} {rest : List (List Byte)} {n : Nat} (filled : 0 < n) (fits : n ≤ bufLen d) : bufsNeeded (d :: rest) n = some 1 := by
  cases n with
  | zero => omega
  | succ n => simp [bufsNeeded, Nat.sub_eq_zero_of_le fits]

theorem fillBufs_of_one {r : Nat} {f : Fill} {d pay : List Byte} (fits : pay.length ≤ bufLen d) : fillBufs c f [d] pay m r = writeDesc c
    (m.emit (.data (m.ring r).owner (be d 16 8) pay)) r 0 0 (f.flags % 2 ^ 15) (BitVec.ofNat 32 (be d 4 4))
    (splice (splice (pad56 f.body) 4 (beBytes 2 pay.length)) 8 (slice d 16 8)) := by
  unfold fillBufs
  simp only [Nat.min_eq_right fits, List.take_length, List.drop_length, ne_eq, not_true_eq_false, decide_false, Bool.and_false, b2n, Bool.false_eq_true, if_false,
    if_true, Nat.zero_mul, Nat.add_zero]

/-- A ring that has given its first buffer to the frame that waited. -/
def Ring.filling (x : Ring) (rest : List (List Byte)) (up : Nat) : Ring := { x with fills := [], cache := rest, usedAt := up }

section
variable {r : Nat} {f : Fill} {d : List Byte} {rest : List (List Byte)} (active : (m.ring r).state = .active)
  (dma : m.dmaOk (m.ring r).owner = true) (fills : (m.ring r).fills = [f]) (reserved : (m.ring r).reserved = []) (cache : (m.ring r).cache = d :: rest)
  (filled : 0 < f.payload.length) (fits : f.payload.length ≤ bufLen d)
include active dma fills reserved cache filled fits

theorem serveFill_of_first : serveFill c m r = fillBufs c f [d] f.payload (m.setRing r ((m.ring r).filling rest m.up)) r := by
  have one : max 1 f.payload.length = f.payload.length := Nat.max_eq_right filled
  have same : ({ m.ring r with fills := [], reserved := [], cache := rest, usedAt := m.up } : Ring) = (m.ring r).filling rest m.up := by
    rw [Ring.filling, ← reserved]
  dsimp only at same
  unfold serveFill
  simp only [fills]
  rw [if_neg (not_not.mpr active), if_neg (by rw [dma]; decide), reserved, cache, List.nil_append, one, bufsNeeded_of_first filled fits]
  simp only [List.drop_succ_cons, List.drop_zero, List.take_succ_cons, List.take_zero, same]

/-- A frame that fits the first buffer. -/
theorem bufferDeliver_of_first : bufferDeliver c m r = writeDesc c
    ((m.setRing r ((m.ring r).filling rest m.up)).emit (.data (m.ring r).owner (be d 16 8) f.payload)) r 0 0
    (f.flags % 2 ^ 15) (BitVec.ofNat 32 (be d 4 4)) (splice (splice (pad56 f.body) 4 (beBytes 2 f.payload.length)) 8 (slice d 16 8)) := by
  have set : (m.setRing r ((m.ring r).filling rest m.up)).ring r = (m.ring r).filling rest m.up := ring_set active
  rw [bufferDeliver, fills, List.length_singleton, serveFills, fills, List.length_singleton, serveFill_of_first active dma fills reserved cache filled fits,
    fillBufs_of_one fits, set]
  split
  · rw [serveFills]
    rfl
  · rfl

end

/-- Settles O41. -/
theorem framesCrossTheRings : Obligations.FramesCrossTheRings := by
  unfold Obligations.FramesCrossTheRings
  refine ⟨fun s r ds live free => ?_, fun s r live still => (txpAdmit_row live r).trans (by rw [txpAdmit_of_still still]; rfl),
    fun s r f d rest live => ?_, fun s r live none => ?_, fun c m r opc st fl ctx body => writeDesc_of_polled⟩
  · intro q n d w data slots taken ends kind frame
    have row {m : Mach} (h : txpAdmit s.conf s.mach r = m) : exec (.txpFrameAdmit r) s = .next (s.withM m) := (txpAdmit_row live r).trans (by rw [h])
    refine ⟨fun bad => row (txpAdmit_of_bad_extent free kind frame bad), fun fine ptp => row (txpAdmit_of_bad_ptp free kind frame fine ptp),
      fun fine ptp => ⟨fun part => row (txpAdmit_of_part free kind frame fine ptp part),
        fun whole host listed => row (txpAdmit_of_listed free kind frame fine ptp whole host listed),
        fun whole host unlisted => row (txpAdmit_of_unlisted free kind frame fine ptp whole host unlisted),
        fun whole work => ⟨_, row (txpAdmit_of_work free kind frame fine ptp whole work), rfl, fun ordered =>
          ⟨_, Tbl.look_put_self _ _ _ _ ordered, rfl, rfl, rfl, rfl, rfl, rfl, rfl⟩⟩⟩⟩
  · intro q active dma fills reserved cache filled fits
    exact (State.on_live live fun c m => bufferDeliver c m r).trans (by
      rw [bufferDeliver_of_first active dma fills reserved cache filled fits]
      rfl)
  · exact (State.on_live live fun c m => bufferDeliver c m r).trans (by rw [bufferDeliver, none]; rfl)

end
end Sys2Proof.Machine

/-! Moderated interrupts and the states of a host link (R318, R343, R344, R346). -/
namespace Sys2Proof.Machine

section
variable {s : State} {c : Cfg} {m : Mach} {r p t : Nat}

theorem modExpiry_of_early (first : (m.ring r).firstAt = some t) (early : m.up < t + 1000 * (m.ring r).modTime) : modExpiry c m r = m := by
  rw [modExpiry, first]
  exact if_neg (by simp [early])

theorem modExpiry_of_due (enabled : (m.ring r).irqEn = true) (armed : (m.ring r).armed = true) (unsig : 0 < (m.ring r).unsig)
    (idle : (m.ring r).irqDue = false) (first : (m.ring r).firstAt = some t) (due : t + 1000 * (m.ring r).modTime ≤ m.up) :
    modExpiry c m r = dueIrq c m r := by
  rw [modExpiry, first]
  exact if_pos (by simp [enabled, armed, unsig, idle, due])

theorem dueIrq_of_sent (d0 : (m.port (m.ring r).owner).d3 = false) (bme : (m.port (m.ring r).owner).bme = true)
    (l0 : (m.port (m.ring r).owner).link = .l0) : dueIrq c m r = deliverIrq c m r :=
  (if_neg (by rw [d0]; decide)).trans ((if_neg (by rw [bme]; decide)).trans (if_neg (not_not.mpr l0)))

/-- The ring once its vector is sent. -/
def Ring.disarmed (x : Ring) : Ring := { x with armed := false, unsig := 0, firstAt := none }

/-- The machine with a ring's interrupt counted and the ring disarmed. -/
def irqCounted (c : Cfg) (m : Mach) (r : Nat) : Mach := bump c (m.setRing r (m.ring r).disarmed) .hifCnt (m.ring r).owner cHifIntr

theorem vectorMasked_irqCounted (q v : Nat) : vectorMasked c (irqCounted c m r) q v = vectorMasked c m q v := by
  obtain ⟨g, frame⟩ := bump_frame c (m.setRing r (m.ring r).disarmed) .hifCnt (m.ring r).owner cHifIntr 0 1
  rw [irqCounted, frame]
  rfl

theorem deliverIrq_of_idle (idle : (m.ring r).irqDue = false) : deliverIrq c m r =
    if vectorMasked c m (m.ring r).owner (m.ring r).vector then (irqCounted c m r).setSt hifMsixPbaPend
      (putBits ((irqCounted c m r).st hifMsixPbaPend (m.ring r).owner ((m.ring r).vector / 32)) ((m.ring r).vector % 32) ((m.ring r).vector % 32) 1)
      (m.ring r).owner ((m.ring r).vector / 32)
    else (irqCounted c m r).emit (.msix (m.ring r).owner (m.ring r).vector) := by
  have same : { m.ring r with armed := false, unsig := 0, firstAt := none, irqDue := false } = (m.ring r).disarmed := by
    rw [Ring.disarmed, ← idle]
  unfold deliverIrq
  extract_lets x m₁ m₂ w
  have counted : m₂ = irqCounted c m r := congrArg (fun y => bump c (m.setRing r y) .hifCnt (m.ring r).owner cHifIntr) same
  simp only [w, counted, vectorMasked_irqCounted, x]

theorem l1Exit_of_near (l12 : (m.port p).link = .l12) (b0 : c.fuse.rev = .b0) (near : timerNear m p = true) :
    l1Exit c m p = m.setPort p { m.port p with leaving := true } :=
  if_pos (by simp [l12, b0, near])

theorem l1Exit_of_still (still : (m.port p).link ≠ .l12 ∨ c.fuse.rev = .a0 ∨ timerNear m p = false) : l1Exit c m p = m := by
  refine if_neg ?_
  rcases still with off | a0 | far
  · simp [off]
  · simp [a0]
  · simp [far]

theorem linkL1_of_up {l : LinkL} (up : (m.port p).linkUp = true) (low : l ≠ .l0) :
    linkL1 c m p l = m.setPort p { m.port p with link := l, leaving := decide (l = .l12) && decide (c.fuse.rev = .b0) && timerNear m p } :=
  if_neg (by simp [up, low])

theorem sendDue_of_none_due (none : ∀ r ∈ ringsOf m p, (m.ring r).irqDue = false) : sendDue c m p = m := by
  unfold sendDue
  split
  · rfl
  · exact foldl_of_still fun r mem => if_neg (by rw [none r mem]; decide)

theorem linkL0_of_low (low : (m.port p).link ≠ .l0) (none : ∀ r ∈ ringsOf m p, (m.ring r).irqDue = false) :
    linkL0 c m p = m.setPort p { m.port p with link := .l0, leaving := false } :=
  (if_neg low).trans (sendDue_of_none_due none)

end

/-- Settles O42, the moderated interrupts and each change of a link's state in turn. -/
theorem timersSendInterruptsAndLeaveL1 : Obligations.TimersSendInterruptsAndLeaveL1 := by
  unfold Obligations.TimersSendInterruptsAndLeaveL1
  refine ⟨fun s r t live => ?_, fun s p live l12 b0 near => ?_, fun s p live still => ?_, fun s p live up => ?_, fun s p live low none => ?_, fun s p live l0 => ?_⟩
  · intro q _ enabled armed unsig idle first
    have row : exec (.modTimeExpiry r) s = .next (s.withM (modExpiry s.conf s.mach r)) := State.on_live live fun c m => modExpiry c m r
    refine ⟨fun due d0 bme l0 => ?_, fun early => by rw [row, modExpiry_of_early first early, State.withM_mach]⟩
    rw [row, modExpiry_of_due enabled armed unsig idle first due, dueIrq_of_sent d0 bme l0, deliverIrq_of_idle idle]
    refine ⟨fun msix unmasked clear => ?_, fun masked => ?_⟩
    · rw [if_neg (by simp only [vectorMasked]; rw [msix, unmasked, clear]; decide)]
      rfl
    · rw [if_pos (by
        simp only [vectorMasked, Bool.or_eq_true, Bool.not_eq_true', or_assoc]
        exact masked)]
      rfl
  · rw [show exec (.l1ExitStart p) s = .next (s.withM (l1Exit s.conf s.mach p)) from State.on_live live fun c m => l1Exit c m p, l1Exit_of_near l12 b0 near]
  · rw [show exec (.l1ExitStart p) s = .next (s.withM (l1Exit s.conf s.mach p)) from State.on_live live fun c m => l1Exit c m p, l1Exit_of_still still,
      State.withM_mach]
  · have row (sub : Fin 3) (l : LinkL) (entered : (match sub with | 0 => .l10 | 1 => .l11 | 2 => .l12) = l) :
        exec (.linkL1Entry p sub) s = .next (s.withM (linkL1 s.conf s.mach p l)) := by
      subst entered
      exact State.on_live live fun c m => linkL1 c m p (match sub with | 0 => .l10 | 1 => .l11 | 2 => .l12)
    refine ⟨?_, ?_, ?_⟩
    · rw [row 0 .l10 rfl, linkL1_of_up up (by decide)]
      rfl
    · rw [row 1 .l11 rfl, linkL1_of_up up (by decide)]
      rfl
    · rw [row 2 .l12 rfl, linkL1_of_up up (by decide)]
      rfl
  · rw [show exec (.linkL0Return p) s = .next (s.withM (linkL0 s.conf s.mach p)) from State.on_live live fun c m => linkL0 c m p, linkL0_of_low low none]
  · rw [show exec (.linkL0Return p) s = .next (s.withM (linkL0 s.conf s.mach p)) from State.on_live live fun c m => linkL0 c m p,
      show linkL0 s.conf s.mach p = s.mach from if_pos l0, State.withM_mach]

end Sys2Proof.Machine

/-! Power states of a host port (R345). `Obligations.PortsFollowTheirLinksAndResets` takes the order of the machine's port table as a premise of a hot reset
alone; a power state, too, may return a port to its reset values, whose entry then leaves the table. -/
namespace Sys2Proof.Machine

/-- A device whose port table holds port 0 twice: once in D3hot with its link down, and behind that, out of order, making DMA. An interrupt of the port's ring
5 waits. -/
def portTwice : State :=
  { dev :=
      { cfg := { fuse := {} }
        m :=
          { glb := { inReset := false }
            hif :=
              { ports := [(0, { d3 := true }), (0, { linkUp := true, bme := true })]
                rings := [(5, { state := .active, irqDue := true })] } } }
    pending := [] }

/-- An interrupt of ring 5 waits. -/
def irqWaits : Outcome → Bool
  | .next t => (t.mach.ring 5).irqDue
  | _ => false

/-- Refutes O43: on `portTwice` the write that returns port 0 to D0 leaves it at its reset values, its entry leaves the table, and the second entry, which
makes DMA, sends the interrupt that waits. The statement, whose link is down, has the write change the port alone. -/
theorem not_portsFollowTheirLinksAndResets : ¬ Obligations.PortsFollowTheirLinksAndResets := by
  unfold Obligations.PortsFollowTheirLinksAndResets
  intro ⟨_, _, _, power, _⟩
  have waits := congrArg irqWaits (power portTwice 0 false false ⟨false, false⟩ ⟨false, false⟩ rfl (.inl (by decide +kernel)))
  revert waits
  decide +kernel

end Sys2Proof.Machine

/-! Frames that arrive at a port of their pipeline (R29, R48, R49, R193, R199, R279, R285, R353, R357, R359). -/
namespace Sys2Proof.Machine

section
variable {s : State} {c : Cfg} {m : Mach} {l : Nat} {f b : List Byte} {err more : Bool}

/-- A frame that ended in an error, or whose FCS is wrong. -/
abbrev WrongFrame (f : List Byte) (err : Bool) : Prop := err = true ∨ f.length < 4 ∨ f.drop (f.length - 4) ≠ fcsOf (f.take (f.length - 4))

/-- The same as the model decides it. -/
def wrongFrame (f : List Byte) (err : Bool) : Bool := err || decide (f.length < 4) || f.drop (f.length - 4) != fcsOf (f.take (f.length - 4))

theorem wrongFrame_iff : wrongFrame f err = true ↔ WrongFrame f err := by
  simp [wrongFrame, WrongFrame, or_assoc]

theorem wrongFrame_of_wrong (wrong : WrongFrame f err) : wrongFrame f err = true := wrongFrame_iff.mpr wrong

theorem wrongFrame_of_good (good : ¬WrongFrame f err) : wrongFrame f err = false := by
  rw [← Bool.not_eq_true, wrongFrame_iff]
  exact good

/-- The machine without the error that waits for a port's next frame. -/
def Mach.lessBadFrame (m : Mach) (l : Nat) : Mach := { m with flt := { m.flt with badFrame := m.flt.badFrame.erase l } }

theorem arrival_row (live : s.live) (l : Fin 256) : exec (.frameArrival l f err more) s = .next (s.withM
    (if s.mach.flt.badFrame.contains l.val then frameArrival s.conf (s.mach.lessBadFrame l) l f true more else frameArrival s.conf s.mach l f err more)) :=
  State.on_live live fun c m => if m.flt.badFrame.contains l.val then frameArrival c (m.lessBadFrame l) l f true more else frameArrival c m l f err more

theorem frameArrival_of_off (off : macOn c m l = false) : frameArrival c m l f err more = m := if_pos (by rw [off]; rfl)

/-! ### After the MACsec check -/

/-- What becomes of a frame by the answer of its MACsec check. -/
def afterMacsec (c : Cfg) (l : Nat) (bad : Bool) (wire : Nat) : RxAns × Mach → Mach
  | (.discard, m) => m
  | (.controlled b, m) => verifiedTake c m l b false bad wire
  | (.uncontrolled b, m) => verifiedTake c m l b true bad wire

theorem frameArrival_of_stored (on : macOn c m l = true) (stored : c.on pplPortCfgCtEn (l / 8) (l % 8) = false ∨ secyOn c l = true ∨ f.length < 4 ∨
      toEngine c l (f.take (f.length - 4)) = true) :
    frameArrival c m l f err more = afterMacsec c l (wrongFrame f err) f.length (mscRx c m l (f.take (f.length - 4))) := by
  have not_ct : ¬((c.on pplPortCfgCtEn (l / 8) (l % 8) && !secyOn c l && decide (4 ≤ f.length) && !toEngine c l (f.take (f.length - 4))) = true) := by
    rcases stored with off | secy | short | engine
    · simp [off]
    · simp [secy]
    · simp [Nat.not_le.mpr short]
    · simp [engine]
  unfold frameArrival
  refine (if_neg (by rw [on]; decide)).trans ((if_neg not_ct).trans ?_)
  unfold afterMacsec
  cases mscRx c m l (f.take (f.length - 4)) with
  | mk a m' => cases a <;> rfl

theorem mscRx_of_no_secy (off : secyOn c l = false) : mscRx c m l b = (.controlled b, m) := if_pos (by rw [off]; rfl)

section
variable (off : secyOn c l = false) {wire : Nat} {bad : Bool}

theorem verifiedTake_of_long (long : 9216 < b.length + 4) : verifiedTake c m l b false bad wire =
    if secyOn c l then bump c m .mscCnt (ioDie l) cMscRxTooLong else countReason c m (l / 8) 0x3B := by
  unfold verifiedTake
  cases secyOn c l <;> simp [long]

include off

theorem verifiedTake_of_bad_sync (engine : toEngine c l b = true) : verifiedTake c m l b false true wire = countReason c m (l / 8) 0x3B :=
  (if_neg (by simp [off])).trans (if_pos (by simp [engine]))

theorem verifiedTake_of_bad (short : ¬9216 < b.length + 4) (frame : toEngine c l b = false) : verifiedTake c m l b false true wire = badArrival c m l b :=
  (if_neg (by simp [off])).trans ((if_neg (by simp [short, frame])).trans (if_pos rfl))

end

theorem verifiedTake_of_secy_long {wire : Nat} {u bad : Bool} (on : secyOn c l = true) (long : 9216 < b.length + 4) :
    verifiedTake c m l b u bad wire = bump c m .mscCnt (ioDie l) cMscRxTooLong :=
  if_pos (by simp [on, long])

theorem verifiedTake_of_good {wire : Nat} {u : Bool} (short : ¬9216 < b.length + 4) : verifiedTake c m l b u false wire = frameTake c m l b u none wire :=
  (if_neg (by simp [short])).trans ((if_neg (by simp [short])).trans (if_neg (by decide)))

/-! ### Storing -/

theorem badArrival_of_none (none : storeIngress c m (l / 8) (ownIngress (l / 8)) (b ++ [0, 0, 0, 0]) = none) :
    badArrival c m l b = noCell c (ingressFail c m (l / 8) (ownIngress (l / 8)) (b ++ [0, 0, 0, 0])) (l / 8) := by
  unfold badArrival
  simp only [none]

theorem badArrival_of_stored {p : Nat} {m' : Mach} (stored : storeIngress c m (l / 8) (ownIngress (l / 8)) (b ++ [0, 0, 0, 0]) = some (p, m')) :
    badArrival c m l b = countReason c (chargeIng (freeFrame c m' (l / 8 / 16) (ownIngress (l / 8)) (cellAddr p)) (l / 8)
      (-(cellsFor (b.length + 4) : Int))) (l / 8) 0x3B := by
  unfold badArrival
  simp only [stored, List.length_append]
  rfl

theorem frameTake_of_sync {ct : Option (Bool × Bool)} {wire : Nat} (engine : toEngine c l b = true) : frameTake c m l b false ct wire = syncFrameRx c m l b :=
  if_pos (by rw [engine]; rfl)

section
variable {ct : Option (Bool × Bool)} {wire : Nat} (frame : toEngine c l b = false)
include frame

theorem frameTake_of_steered (sync : syncPort c l = true) (steered : be b 12 2 = 0x88B6) :
    frameTake c m l b false ct wire = steeredFrameRx c m l b false ct wire :=
  (if_neg (by rw [frame]; decide)).trans (if_pos (by simp [sync, steered]))

theorem frameTake_of_plain (plain : syncPort c l = false ∨ be b 12 2 ≠ 0x88B6) : frameTake c m l b false ct wire = storeArrival c m l b false none ct wire :=
  (if_neg (by rw [frame]; decide)).trans (if_neg (by rcases plain with off | other <;> simp_all))

end

/-- A received frame's timestamp, `wire` bytes after its start delimiter. -/
abbrev sfdTime (c : Cfg) (m : Mach) (l wire : Nat) : Nat :=
  adjusted (m.dieFrac (Blk.prt.die (l / 8)) - wire * 8 * 65536 / portSpeed c l) (c.get prtPtpAdjIngAdj (l / 8) (l % 8))

theorem storeArrival_of_none {wire : Nat} (none : storeIngress c m (l / 8) (ownIngress (l / 8)) (b ++ fcsOf b) = none) :
    storeArrival c m l b false Option.none Option.none wire = noCell c (ingressFail c m (l / 8) (ownIngress (l / 8)) (b ++ fcsOf b)) (l / 8) := by
  unfold storeArrival
  simp only [Option.all_none, if_true, none]

theorem storeArrival_of_stored {wire p : Nat} {m' : Mach} (stored : storeIngress c m (l / 8) (ownIngress (l / 8)) (b ++ fcsOf b) = some (p, m')) :
    storeArrival c m l b false none none wire =
      makeReady m' { pipe := l / 8, lport := l, len := b.length, head := p, owner := ownIngress (l / 8), ts := sfdTime c m' l wire } := by
  unfold storeArrival
  simp only [Option.all_none, if_true, stored]
  rfl

theorem frameArrival_of_cut_through (on : macOn c m l = true) (enabled : c.on pplPortCfgCtEn (l / 8) (l % 8) = true) (off : secyOn c l = false)
    (whole : 4 ≤ f.length) (frame : toEngine c l (f.take (f.length - 4)) = false) :
    frameArrival c m l f err more = frameTake c m l (f.take (f.length - 4)) false
      (some (!(wrongFrame f err || decide (9216 < f.length)), !(more && decide (256 < f.length))))
      (if (more && decide (256 < f.length)) = true then 256 else f.length) :=
  (if_neg (by rw [on]; decide)).trans (if_pos (by simp [enabled, off, whole, frame]))

theorem storeArrival_of_head {wire p : Nat} {m' : Mach} {bad part : Bool}
    (stored : storeIngress c m (l / 8) (ownIngress (l / 8)) (if part = true then (b ++ fcsOf b).take 256 else b ++ fcsOf b) = some (p, m')) :
    let now := if part = true then (b ++ fcsOf b).take 256 else b ++ fcsOf b
    let k : Pkt := { pipe := l / 8, lport := l, len := b.length, head := p, owner := ownIngress (l / 8), ts := sfdTime c m' l wire, ct := true }
    storeArrival c m l b false none (some (!bad, !part)) wire = makeReady { m' with ppl := { m'.ppl with
      ct := Tbl.ins m'.ppl.ct p { head := p, rest := (b ++ fcsOf b).drop now.length, fcsOk := !bad, bad := if part = true then none else some bad, pkt := k } } } k := by
  unfold storeArrival
  cases part with
  | false =>
    simp only [Option.all_some, Bool.not_false, Bool.not_not, if_true, Bool.false_eq_true, if_false] at stored ⊢
    simp only [stored]
    rfl
  | true =>
    simp only [Option.all_some, Bool.not_true, Bool.not_not, if_true, Bool.false_eq_true, if_false] at stored ⊢
    simp only [stored]
    rfl


/-! ### MACsec -/

section
variable (on : secyOn c l = true)
include on

theorem mscRx_of_eapol (eapol : be f 12 2 = 0x888E) : mscRx c m l f = (.uncontrolled f, m) :=
  (if_neg (by rw [on]; decide)).trans ((if_pos (by rw [eapol]; decide)).trans (if_pos eapol))

section
variable (untagged : be f 12 2 ≠ 0x88E5) (other : be f 12 2 ≠ 0x888E)
include untagged other

theorem mscRx_of_untagged_strict (strict : c.get mscSecyCfgValidate (ioDie l) (secyOf l) = 2) :
    mscRx c m l f = (.uncontrolled f, mscStat m (ioDie l) 0 (secyOf l) 1 1) :=
  (if_neg (by rw [on]; decide)).trans ((if_pos untagged).trans ((if_neg other).trans (if_pos strict)))

theorem mscRx_of_untagged (loose : ¬c.get mscSecyCfgValidate (ioDie l) (secyOf l) = 2) :
    mscRx c m l f = (.controlled f, mscStat m (ioDie l) 0 (secyOf l) 0 1) :=
  (if_neg (by rw [on]; decide)).trans ((if_pos untagged).trans ((if_neg other).trans (if_neg loose)))

end

section
variable (tagged : be f 12 2 = 0x88E5)
include tagged

theorem mscRx_of_bad_tag (bad : bit (byteAt f 14) 7 = true ∨ 48 ≤ byteAt f 15 ∨ f.length < (if bit (byteAt f 14) 5 then 44 else 36)) :
    mscRx c m l f = (.discard, mscStat m (ioDie l) 0 (secyOf l) 2 1) := by
  refine (if_neg (by rw [on]; decide)).trans ((if_neg (not_not.mpr tagged)).trans (if_pos ?_))
  rcases bad with version | long | short
  · simp [version]
  · simp [long]
  · cases sc : bit (byteAt f 14) 5 <;> simp_all

end
end
end

/-- A frame whose tag says that it is encrypted, with an explicit SCI and no short length, of a suite without XPN, for a usable association `4 * SA group + AN` of
its channel `x`, and at or beyond its next packet number. -/
structure Sealed (c : Cfg) (m : Mach) (l : Nat) (f : List Byte) (x : Nat) : Prop where
  on : secyOn c l = true
  tagged : be f 12 2 = 0x88E5
  version : bit (byteAt f 14) 7 = false
  endStation : bit (byteAt f 14) 6 = false
  channel : bit (byteAt f 14) 5 = true
  broadcast : bit (byteAt f 14) 4 = false
  encrypted : bit (byteAt f 14) 3 = true
  changed : bit (byteAt f 14) 2 = true
  whole : byteAt f 15 = 0
  long : 92 ≤ f.length
  narrow : isXpn (c.get mscSecyCfgCipher (ioDie l) (secyOf l)) = false
  number : 0 < be f 16 4
  known : rxScOf c (ioDie l) (secyOf l) (be f 20 8) = some x
  usable : saUsable c m (ioDie l) (4 * c.get mscRxscCfgSaGroup (ioDie l) x + byteAt f 14 % 4) = true
  counting : 0 < saPn m (ioDie l) (4 * c.get mscRxscCfgSaGroup (ioDie l) x + byteAt f 14 % 4) (c.get mscSecyCfgCipher (ioDie l) (secyOf l))
  fresh : saPn m (ioDie l) (4 * c.get mscRxscCfgSaGroup (ioDie l) x + byteAt f 14 % 4) (c.get mscSecyCfgCipher (ioDie l) (secyOf l)) ≤ be f 16 4
  validated : c.get mscSecyCfgValidate (ioDie l) (secyOf l) ≠ 0
  offset : confOffset (c.get mscSecyCfgConfOffset (ioDie l) (secyOf l)) = 0

section
variable {c : Cfg} {m : Mach} {l x : Nat} {f : List Byte}

theorem Sealed.mscRx (h : Sealed c m l f x) :
    let die := ioDie l
    let n := secyOf l
    let cipher := c.get mscSecyCfgCipher die n
    let e := 4 * c.get mscRxscCfgSaGroup die x + byteAt f 14 % 4
    let pn := be f 16 4
    mscRx c m l f = match Config.gcmOpen (saKey c die e cipher) (gcmIv c die e cipher (be f 20 8) pn) (f.take 28) ((f.drop 28).take (f.length - 44))
        (f.drop (f.length - 16)) with
      | some p => (.controlled (f.take 12 ++ p), setPn (scStat (mscStat m die 0 n 7 (f.length - 44)) die 2 x e 5) die e cipher (pn + 1))
      | none => (.discard, scStat m die 2 x e 4) := by
  intro die n cipher e pn
  obtain ⟨on, tagged, version, endStation, channel, broadcast, encrypted, changed, whole, long, narrow, number, known, usable, counting, fresh, validated, offset⟩ := h
  have body : slice f 28 (f.length - 28 - 16) = (f.drop 28).take (f.length - 44) := by rw [slice, Nat.sub_sub]
  have filled : ((f.drop 28).take (f.length - 44)).length = f.length - 44 := by simp; omega
  have unreplayed (w : Nat) : ¬be f 16 4 < saPn m (ioDie l) (4 * c.get mscRxscCfgSaGroup (ioDie l) x + byteAt f 14 % 4)
      (c.get mscSecyCfgCipher (ioDie l) (secyOf l)) - w := by omega
  unfold Machine.mscRx
  simp only [on, tagged, version, endStation, channel, broadcast, encrypted, changed, whole, narrow, known, usable, offset, body, filled, counting.ne', number.ne',
    unreplayed, fresh, validated, show ¬f.length < 28 + 16 by omega, show ¬f.length < 28 + 48 + 16 by omega, show ¬48 ≤ 0 by decide,
    Bool.not_true, Bool.false_eq_true, if_false, ne_eq, not_true, if_true, Bool.and_false, Bool.false_and, Bool.or_false, Bool.or_true,
    Nat.min_zero, List.take_zero, List.append_nil, List.drop_zero, Nat.lt_irrefl, decide_false, decide_true]
  rfl

end

/-! ### Tails of cut-through frames -/

section
variable {c : Cfg} {m : Mach} {l n : Nat} {x : CtFrame} {err : Bool}

/-- The cut-through frame of a port whose tail is to come. -/
def Mach.tailAwaited (m : Mach) (l : Nat) : Option (Nat × CtFrame) :=
  m.ppl.ct.find? fun e => e.2.pkt.pipe == l / 8 && e.2.bad.isNone && (e.1 == ctGone l || e.2.pkt.lport == l)

/-- The machine in which the tail of a cut-through frame has settled whether it was good. -/
def Mach.tailSettled (m : Mach) (n : Nat) (x : CtFrame) (bad noRoom : Bool) : Mach :=
  { m with ppl := { m.ppl with ct := Tbl.ins m.ppl.ct n { x with rest := [], noRoom := noRoom, bad := some bad } } }

/-- The requester of the cells of a cut-through frame's tail. -/
def CtFrame.requester (x : CtFrame) (n : Nat) : Nat := if dieOf n = x.pkt.pipe / 16 then ownIngress x.pkt.pipe else ownXfer (dieOf n)

/-- The frame once its tail has come, with cells for it or without. -/
def CtFrame.ended (x : CtFrame) (noRoom : Bool) : CtFrame := { x with rest := [], noRoom := noRoom }

theorem tailArrival_of_none (none : m.tailAwaited l = none) : tailArrival c m l err = m := by
  unfold tailArrival
  rw [show (m.ppl.ct.find? fun e => e.2.pkt.pipe == l / 8 && e.2.bad.isNone && (e.1 == ctGone l || e.2.pkt.lport == l)) = Option.none from none]

theorem ctTail_of_no_rest (empty : x.rest = []) : ctTail c m n x = (x.ended x.noRoom, m) := if_pos (by simp [empty])

section
variable (inside : x.place = .pipe)
include inside

section
variable (rest : x.rest ≠ [])
include rest

theorem ctTail_of_full (full : c.get tmgIngLimitIngLimit (x.pkt.pipe / 16) (x.pkt.pipe % 16) < Tbl.look 0 m.tmg.ing x.pkt.pipe + cellsFor x.rest.length) :
    ctTail c m n x = (x.ended true, m) :=
  (if_neg (by simp [rest, inside])).trans (if_pos (by simp [inside, full]))

variable (room : Tbl.look 0 m.tmg.ing x.pkt.pipe + cellsFor x.rest.length ≤ c.get tmgIngLimitIngLimit (x.pkt.pipe / 16) (x.pkt.pipe % 16))
include room

theorem ctTail_of_no_cells (none : appendCells c m (x.requester n) n x.rest = none) :
    ctTail c m n x = (x.ended true, allocFail c m (dieOf n) (x.requester n) (cellsFor x.rest.length)) := by
  refine (if_neg (by simp [rest, inside])).trans ((if_neg (by simp [room])).trans ?_)
  rw [show (if dieOf n = x.pkt.pipe / 16 then ownIngress x.pkt.pipe else ownXfer (dieOf n)) = x.requester n from rfl]
  dsimp only
  rw [none]
  rfl

theorem ctTail_of_cells {m' : Mach} (taken : appendCells c m (x.requester n) n x.rest = some m') :
    ctTail c m n x = (x.ended x.noRoom, chargeIng m' x.pkt.pipe (cellsFor x.rest.length)) := by
  refine (if_neg (by simp [rest, inside])).trans ((if_neg (by simp [room])).trans ?_)
  rw [show (if dieOf n = x.pkt.pipe / 16 then ownIngress x.pkt.pipe else ownXfer (dieOf n)) = x.requester n from rfl]
  dsimp only
  rw [taken]
  exact congrArg (Prod.mk _) (if_neg (by simp [inside]))

end

theorem tailArrival_of_pipe (found : m.tailAwaited l = some (n, x)) {noRoom : Bool} {m' : Mach} (ended : ctTail c m n x = (x.ended noRoom, m')) :
    tailArrival c m l err = m'.tailSettled n x (err || !x.fcsOk || noRoom) noRoom := by
  unfold tailArrival
  rw [show (m.ppl.ct.find? fun e => e.2.pkt.pipe == l / 8 && e.2.bad.isNone && (e.1 == ctGone l || e.2.pkt.lport == l)) = some (n, x) from found]
  dsimp only
  rw [ended]
  dsimp only [CtFrame.ended, Mach.tailSettled]
  rw [inside]

end
end

/-! ### Waiting frames of the host port -/

section
variable {c : Cfg} {m : Mach} {pipe : Nat} {f : HostFrame}

/-- The machine without a frame that waits for cells. -/
def Mach.lessWaiting (m : Mach) (f : HostFrame) : Mach := { m with ppl := { m.ppl with hostWait := m.ppl.hostWait.erase f } }

/-- The descriptors of a host frame complete. -/
def frameSent (c : Cfg) (f : HostFrame) (m : Mach) : Mach := f.slots.foldl (fun m k => complete c m f.ring k ⟨0, 0, []⟩) m

theorem hostRetry_of_none (none : m.ppl.hostWait.find? (·.pipe == pipe) = none) : hostRetry c m pipe = m := by
  rw [hostRetry, none]

section
variable (first : m.ppl.hostWait.find? (·.pipe == pipe) = some f)
include first

theorem hostRetry_of_ended {m' : Mach} (ended : hostStore c (m.lessWaiting f) f = (true, m')) : hostRetry c m pipe = m' := by
  rw [hostRetry, first]
  dsimp only
  rw [show hostStore c { m with ppl := { m.ppl with hostWait := m.ppl.hostWait.erase f } } f = (true, m') from ended]

theorem hostRetry_of_waiting {m' : Mach} (waits : hostStore c (m.lessWaiting f) f = (false, m')) :
    hostRetry c m pipe = { m' with ppl := { m'.ppl with hostWait := m.ppl.hostWait } } := by
  rw [hostRetry, first]
  dsimp only
  rw [show hostStore c { m with ppl := { m.ppl with hostWait := m.ppl.hostWait.erase f } } f = (false, m') from waits]

end

theorem hostStore_of_full (full : ingFull c m f.pipe (cellsFor (withFcs f.data).length) = true) :
    hostStore c m f = (true, frameSent c f (noCell c m f.pipe)) := if_pos full

section
variable (room : ingFull c m f.pipe (cellsFor (withFcs f.data).length) = false)
include room

section
variable (none : storeFrame c m (f.pipe / 16) f.owner (withFcs f.data) = none)
include none

theorem hostStore_of_waiting (dma : f.dma = true) :
    hostStore c m f = (false, allocFail c m (f.pipe / 16) f.owner (cellsFor (withFcs f.data).length)) := by
  refine (if_neg (by rw [room]; decide)).trans ?_
  rw [none]
  exact if_pos dma

theorem hostStore_of_dropped (direct : f.dma = false) :
    hostStore c m f = (true, noCell c (allocFail c m (f.pipe / 16) f.owner (cellsFor (withFcs f.data).length)) f.pipe) := by
  refine (if_neg (by rw [room]; decide)).trans ?_
  rw [none]
  exact if_neg (by rw [direct]; decide)

end

/-- The header of a host frame of `n` bytes in the cells from `p` on. -/
def HostFrame.header (f : HostFrame) (n p ts : Nat) : Pkt :=
  { pipe := f.pipe, lport := 8 * f.pipe + 6, metaw := f.metaw, len := n - 4, head := p, owner := f.owner, ts := ts, host := true, core := f.core, ptp := f.ptp,
    ptpTag := f.ptpTag }

theorem hostStore_of_stored {p : Nat} {m' : Mach} (stored : storeFrame c m (f.pipe / 16) f.owner (withFcs f.data) = some (p, m')) :
    hostStore c m f = (true, makeReady (frameSent c f (chargeIng m' f.pipe (cellsFor (withFcs f.data).length)))
      (f.header (withFcs f.data).length p (frameSent c f (chargeIng m' f.pipe (cellsFor (withFcs f.data).length))).todFrac)) := by
  refine (if_neg (by rw [room]; decide)).trans ?_
  rw [stored]
  rfl

end
end

theorem retry_row {s : State} (live : s.live) (pipe : Fin 32) : exec (.hostDmaRetry pipe) s = .next (s.withM (hostRetry s.conf s.mach pipe)) :=
  State.on_live live fun c m => hostRetry c m pipe

theorem tail_row {s : State} (live : s.live) (l : Fin 256) (err : Bool) :
    exec (.ctTailArrival l err) s = .next (s.withM (tailArrival s.conf s.mach l err)) := State.on_live live fun c m => tailArrival c m l err

/-- Settles O44, each outcome of an arrival, of its MACsec check, of a tail and of a retry in turn. -/
theorem arrivingFramesStandReady : Obligations.ArrivingFramesStandReady := by
  unfold Obligations.ArrivingFramesStandReady
  refine ⟨fun s l f err more live whole => ?_, fun c m l f on => ?_, fun s l f err more live bad => ?_, fun s l err live => ?_, fun s pipe live => ?_⟩
  · intro b wrong long own sfd
    have row : exec (.frameArrival l f err more) s = .next (s.withM (frameArrival s.conf s.mach l f err more)) := by
      rw [arrival_row live, whole]
      rfl
    rw [row]
    refine ⟨fun off => by rw [frameArrival_of_off off, State.withM_mach], fun on secy stored => ?_, fun on secy => ?_,
      fun on secy enabled len frame plain => ?_⟩
    · have plain : ∀ {bad}, wrongFrame f err = bad → frameArrival s.conf s.mach l f err more = verifiedTake s.conf s.mach l b false bad f.length := by
        intro bad same
        rw [frameArrival_of_stored on (stored.imp_right .inr), mscRx_of_no_secy secy, same]
        rfl
      refine ⟨fun dropped => ?_, fun bad short frame => ⟨fun none => ?_, fun p m kept => ?_⟩, fun good short sync => ?_,
        fun good short frame path steered => ?_, fun good short frame other => ⟨fun none => ?_, fun p m kept => ?_⟩⟩
      · rcases dropped with tooLong | ⟨bad, sync⟩
        · rw [plain rfl, verifiedTake_of_long tooLong, secy]
          rfl
        · rw [plain (wrongFrame_of_wrong bad), verifiedTake_of_bad_sync secy sync]
      · rw [plain (wrongFrame_of_wrong bad), verifiedTake_of_bad secy short frame, badArrival_of_none none]
      · rw [plain (wrongFrame_of_wrong bad), verifiedTake_of_bad secy short frame, badArrival_of_stored kept]
      · rw [plain (wrongFrame_of_good good), verifiedTake_of_good short, frameTake_of_sync sync]
      · rw [plain (wrongFrame_of_good good), verifiedTake_of_good short, frameTake_of_steered frame path steered]
      · rw [plain (wrongFrame_of_good good), verifiedTake_of_good short, frameTake_of_plain frame other, storeArrival_of_none none]
      · rw [plain (wrongFrame_of_good good), verifiedTake_of_good short, frameTake_of_plain frame other, storeArrival_of_stored kept]
    · rw [frameArrival_of_stored on (.inr (.inl secy))]
      refine ⟨fun m checked => by rw [checked]; rfl, fun u b' m checked => ?_⟩
      have taken : afterMacsec s.conf l (wrongFrame f err) f.length (mscRx s.conf s.mach l (f.take (f.length - 4))) =
          verifiedTake s.conf m l b' u (wrongFrame f err) f.length := by
        rw [checked]
        cases u <;> rfl
      rw [taken]
      refine ⟨fun tooLong => by rw [verifiedTake_of_secy_long secy tooLong], fun short good => ?_⟩
      rw [wrongFrame_of_good good, verifiedTake_of_good (Nat.not_lt.mpr short)]
    · intro part whole now p m stored k
      have bad : (wrongFrame f err || decide (9216 < f.length)) = decide (wrong ∨ 9216 < f.length) := by
        rw [Bool.decide_or, ← Bool.decide_coe (wrongFrame f err)]
        exact congrArg (· || _) (decide_eq_decide.mpr wrongFrame_iff)
      have size : (f.take (f.length - 4)).length = f.length - 4 := by simp
      rw [frameArrival_of_cut_through on enabled secy len frame, frameTake_of_plain frame plain, bad, storeArrival_of_head stored, size]
  · refine ⟨fun eapol => mscRx_of_eapol on eapol, fun untagged other strict => mscRx_of_untagged_strict on untagged other strict,
      fun untagged other loose => mscRx_of_untagged on untagged other loose, fun tagged bad => mscRx_of_bad_tag on tagged bad, fun x => ?_⟩
    intro tci cipher e pn next tagged version endStation channel broadcast encrypted changed whole long narrow number known usable counting fresh validated offset
    exact Sealed.mscRx ⟨on, tagged, version, endStation, channel, broadcast, encrypted, changed, whole, long, narrow, number, known, usable, counting, fresh,
      validated, offset⟩
  · rw [arrival_row live, bad]
    rfl
  · intro found
    refine ⟨fun none => by rw [tail_row live, tailArrival_of_none none, State.withM_mach], fun n x first inside => ?_⟩
    intro pipe cells req settled
    refine ⟨fun empty => ?_, fun rest full => ?_, fun rest room => ⟨fun none => ?_, fun m taken => ?_⟩⟩
    · rw [tail_row live, tailArrival_of_pipe inside first (ctTail_of_no_rest empty)]
      rfl
    · rw [tail_row live, tailArrival_of_pipe inside first (ctTail_of_full inside rest full), Bool.or_true]
      rfl
    · rw [tail_row live, tailArrival_of_pipe inside first (ctTail_of_no_cells inside rest room none), Bool.or_true]
      rfl
    · rw [tail_row live, tailArrival_of_pipe inside first (ctTail_of_cells inside rest room taken)]
      rfl
  · refine ⟨fun none => by rw [retry_row live, hostRetry_of_none none, State.withM_mach], fun f first => ?_⟩
    intro b n m sent
    refine ⟨fun full => ?_, fun room => ⟨fun none dma => ?_, fun none direct => ?_, fun p m' stored => ?_⟩⟩
    · rw [retry_row live, hostRetry_of_ended first (hostStore_of_full full)]
      rfl
    · rw [retry_row live, hostRetry_of_waiting first (hostStore_of_waiting room none dma)]
      rfl
    · rw [retry_row live, hostRetry_of_ended first (hostStore_of_dropped room none direct)]
      rfl
    · rw [retry_row live, hostRetry_of_ended first (hostStore_of_stored room stored)]
      rfl

end Sys2Proof.Machine

/-! A packet's way through its pipeline (R47, R65, R67, R70–R72, R137, R264). -/
namespace Sys2Proof.Machine

/-! ### The slot arbiter -/

section
variable {s : State} {c : Cfg} {m : Mach}

/-- A turn whose boundary has not come. -/
abbrev NotDue (m : Mach) : Prop := m.glb.turn ≠ .scheduled ∨ m.todNs < m.glb.boundary

theorem turnBoundary_of_not_due {d : Dev} (early : NotDue d.m) : turnBoundary d = d :=
  if_neg (by rcases early with other | early <;> simp_all)

/-- A turn whose boundary has passed drains, and what is in reset stays there. -/
theorem turnBoundary_glb (d : Dev) : NotDue (turnBoundary d).m ∧ (turnBoundary d).m.glb.inReset = d.m.glb.inReset := by
  unfold turnBoundary
  extract_lets m src cfg glb act m'
  split
  · have still := ((newTree_keeps (c := d.cfg) (c' := cfg) (.refl (setMeas m' 5 m'.sec.shadowProg))).still trivial).glb
    refine ⟨.inl ?_, ?_⟩
    · show (newTree d.cfg cfg (setMeas m' 5 m'.sec.shadowProg)).glb.turn ≠ _
      rw [still]
      exact TurnSt.noConfusion
    · show (newTree d.cfg cfg (setMeas m' 5 m'.sec.shadowProg)).glb.inReset = _
      rw [still]
      rfl
  · next early =>
    refine ⟨?_, rfl⟩
    simp only [Bool.and_eq_true, decide_eq_true_eq, not_and, not_le] at early
    exact Classical.or_iff_not_imp_left.mpr fun due => early (not_not.mp due)

theorem turnBoundary_twice (d : Dev) : turnBoundary (turnBoundary d) = turnBoundary d := turnBoundary_of_not_due (turnBoundary_glb d).1

theorem atParser_turnBoundary (d : Dev) (f : Cfg → Mach → Mach) : atParser (turnBoundary d) f = atParser d f := by
  unfold atParser
  rw [turnBoundary_twice]

theorem State.atParser_live (live : s.live) (early : NotDue s.mach) (f : Cfg → Mach → Mach) :
    s.onDev (fun d => atParser d f) = .next (s.withM (f s.conf s.mach)) := by
  rw [State.onDev_live live, atParser, turnBoundary_of_not_due early]
  rfl

theorem State.atParser_boundary (live : s.live) {t : State} (passed : exec .turnBoundary s = .next t) (f : Cfg → Mach → Mach) :
    s.onDev (fun d => atParser d f) = t.onDev fun d => atParser d f := by
  have row : exec .turnBoundary s = .next { s with dev := turnBoundary s.dev } := State.onDev_live live _
  obtain rfl : { s with dev := turnBoundary s.dev } = t := Host.Outcome.next.inj (row.symm.trans passed)
  have live' : State.live { s with dev := turnBoundary s.dev } := (turnBoundary_glb s.dev).2.trans live
  rw [State.onDev_live live, State.onDev_live live']
  exact congrArg (fun d => Host.Outcome.next { s with dev := d }) (atParser_turnBoundary s.dev f).symm

section
variable {pipe : Nat}

theorem arbiterCycle_of_owed (owed : Tbl.look 0 m.ppl.owed pipe ≠ 0) : arbiterCycle c m pipe =
    arbiterAge { m with ppl := { m.ppl with owed := Tbl.put 0 m.ppl.owed pipe (Tbl.look 0 m.ppl.owed pipe - 1) } } pipe none := if_pos owed

/-- The arbiter's turn passes to an Ethernet port. -/
def Mach.turnTo (m : Mach) (pipe p : Nat) : Mach := if p < 6 then { m with ppl := { m.ppl with rr := Tbl.put 5 m.ppl.rr pipe p } } else m

theorem Mach.ready_turnTo (m : Mach) (pipe p : Nat) : (m.turnTo pipe p).ppl.ready = m.ppl.ready := by
  unfold turnTo
  split <;> rfl

section
variable (free : Tbl.look 0 m.ppl.owed pipe = 0)
include free

theorem arbiterCycle_of_none (idle : arbiterPick c m pipe = none) : arbiterCycle c m pipe = arbiterAge m pipe none := by
  refine (if_neg (not_not.mpr free)).trans ?_
  rw [idle]

theorem arbiterCycle_of_ready {p : Nat} {k : Pkt} {ks : List Pkt} (pick : arbiterPick c m pipe = some p) (other : p ≠ 7)
    (ready : Tbl.look [] m.ppl.ready (8 * pipe + p) = k :: ks) :
    let m' := (arbiterAge m pipe (some p)).turnTo pipe p
    arbiterCycle c m pipe = admitHeader c { m' with ppl := { m'.ppl with ready := Tbl.put [] m.ppl.ready (8 * pipe + p) ks } } k := by
  refine (if_neg (not_not.mpr free)).trans ?_
  have same : ((arbiterAge m pipe (some p)).turnTo pipe p).ppl.ready = m.ppl.ready := Mach.ready_turnTo ..
  rw [pick]
  split
  · next e => cases e
  · next e => exact absurd (Option.some.inj e) other
  · next e =>
    cases e
    change (match Tbl.look [] ((arbiterAge m pipe (some p)).turnTo pipe p).ppl.ready (8 * pipe + p) with
      | k :: ks => admitHeader c { (arbiterAge m pipe (some p)).turnTo pipe p with ppl := { ((arbiterAge m pipe (some p)).turnTo pipe p).ppl with
          ready := Tbl.put [] ((arbiterAge m pipe (some p)).turnTo pipe p).ppl.ready (8 * pipe + p) ks } } k
      | [] => (arbiterAge m pipe (some p)).turnTo pipe p) = _
    rw [same, ready]

theorem arbiterCycle_of_port {p : Nat} {k : Pkt} {ks : List Pkt} (pick : arbiterPick c m pipe = some p) (port : p < 6)
    (ready : Tbl.look [] m.ppl.ready (8 * pipe + p) = k :: ks) : arbiterCycle c m pipe =
      admitHeader c { arbiterAge m pipe (some p) with ppl := { (arbiterAge m pipe (some p)).ppl with
        rr := Tbl.put 5 m.ppl.rr pipe p, ready := Tbl.put [] m.ppl.ready (8 * pipe + p) ks } } k := by
  rw [arbiterCycle_of_ready free pick (by omega) ready, Mach.turnTo, if_pos port]
  rfl

theorem arbiterCycle_of_host {k : Pkt} {ks : List Pkt} (pick : arbiterPick c m pipe = some 6)
    (ready : Tbl.look [] m.ppl.ready (8 * pipe + 6) = k :: ks) : arbiterCycle c m pipe =
      admitHeader c { arbiterAge m pipe (some 6) with ppl := { (arbiterAge m pipe (some 6)).ppl with
        ready := Tbl.put [] m.ppl.ready (8 * pipe + 6) ks } } k := by
  rw [arbiterCycle_of_ready free pick (by decide) ready, Mach.turnTo, if_neg (by decide)]

theorem arbiterCycle_of_recirc {k : Pkt} {ks : List Pkt} (pick : arbiterPick c m pipe = some 7)
    (waiting : Tbl.look [] m.ppl.recirc pipe = k :: ks) : arbiterCycle c m pipe =
      admitHeader c { arbiterAge m pipe (some 7) with ppl := { (arbiterAge m pipe (some 7)).ppl with recirc := Tbl.put [] m.ppl.recirc pipe ks } } k := by
  refine (if_neg (not_not.mpr free)).trans ?_
  rw [pick]
  have waiting' : Tbl.look [] (arbiterAge m pipe (some 7)).ppl.recirc pipe = k :: ks := waiting
  dsimp only
  rw [recircAdmit, waiting']
  rfl

end
end
end

/-! ### Responses and timeouts -/

section
variable {c : Cfg} {m : Mach} {pipe idx : Nat} {r : Resp} {h : Hold}

/-- The response that releases a hold entry next. -/
def Mach.nextResp (m : Mach) (pipe idx : Nat) : Option Resp := m.ppl.resps.find? fun r => r.pipe == pipe && r.idx == idx && respFirst m r

/-- The machine without a response. -/
def Mach.lessResp (m : Mach) (r : Resp) : Mach := { m with ppl := { m.ppl with resps := m.ppl.resps.erase r } }

/-- The machine without a response and the entry that it releases. -/
def Mach.released (m : Mach) (r : Resp) (key : Nat) : Mach := { m with ppl := { m.ppl with resps := m.ppl.resps.erase r, hold := Tbl.del m.ppl.hold key } }

/-- The packet of an entry, its trace with the outcome of its response. -/
def Hold.answered (h : Hold) (up outcome : Nat) : Pkt := { h.pkt with trace := tracePut (traceTime h.pkt.trace 1 up) 53 1 outcome }

/-- What becomes of a packet by the outcome of its response. -/
def afterResp (c : Cfg) (m : Mach) (pipe : Nat) (k : Pkt) (r : Resp) : Mach :=
  match r.outcome with
  | 3 => steerStage c m k r.steer r.loop
  | 2 =>
    match c.of m k.turn pplZprofInsertFailPolicy pipe k.cls.zprof with
    | 1 => endWith c m k 0x09 .punt
    | 2 => endWith c m k 0x09 .drop
    | _ => actionStage c m k none 2 0 false
  | o => actionStage c m k r.snap o r.stamp r.strict

theorem flowResponse_of_none (none : m.nextResp pipe idx = none) : flowResponse c m pipe idx = m := by
  rw [flowResponse, show (m.ppl.resps.find? fun r => r.pipe == pipe && r.idx == idx && respFirst m r) = Option.none from none]

section
variable (found : m.nextResp pipe idx = some r) (held : Tbl.find m.ppl.hold (2048 * pipe + idx) = some h)
include found held

theorem flowResponse_of_stale (stale : r.gen ≠ Tbl.look 0 m.ppl.gen (2048 * pipe + idx)) : flowResponse c m pipe idx = m.lessResp r := by
  rw [flowResponse, show (m.ppl.resps.find? fun r => r.pipe == pipe && r.idx == idx && respFirst m r) = some r from found]
  dsimp only
  rw [show Tbl.find m.ppl.hold (holdKey pipe idx) = some h from held]
  exact if_pos stale

theorem flowResponse_of_current (current : r.gen = Tbl.look 0 m.ppl.gen (2048 * pipe + idx)) :
    flowResponse c m pipe idx = afterResp c (m.released r (2048 * pipe + idx)) pipe (h.answered m.up r.outcome) r := by
  rw [flowResponse, show (m.ppl.resps.find? fun r => r.pipe == pipe && r.idx == idx && respFirst m r) = some r from found]
  dsimp only
  rw [show Tbl.find m.ppl.hold (holdKey pipe idx) = some h from held]
  exact if_neg (not_not.mpr current)

end

section
variable {k : Pkt}

theorem afterResp_of_action (other : r.outcome ≠ 2) (other' : r.outcome ≠ 3) : afterResp c m pipe k r = actionStage c m k r.snap r.outcome r.stamp r.strict := by
  unfold afterResp
  split
  · next steer => exact absurd steer other'
  · next failed => exact absurd failed other
  · rfl

theorem afterResp_of_loop (steer : r.outcome = 3) (loop : r.loop = true) : afterResp c m pipe k r = endWith c m k 0x0B (reasonDisp c k.pipe 0x0B) := by
  rw [afterResp, steer]
  exact if_pos loop

variable (failed : r.outcome = 2)
include failed

theorem afterResp_of_default (policy : c.of m k.turn pplZprofInsertFailPolicy pipe k.cls.zprof = 0) :
    afterResp c m pipe k r = actionStage c m k none 2 0 false := by
  rw [afterResp, failed, policy]
  rfl

theorem afterResp_of_punt (policy : c.of m k.turn pplZprofInsertFailPolicy pipe k.cls.zprof = 1) : afterResp c m pipe k r = endWith c m k 0x09 .punt := by
  rw [afterResp, failed, policy]
  rfl

theorem afterResp_of_drop (policy : c.of m k.turn pplZprofInsertFailPolicy pipe k.cls.zprof = 2) : afterResp c m pipe k r = endWith c m k 0x09 .drop := by
  rw [afterResp, failed, policy]
  rfl

end

theorem holdTimeout_of_none (none : Tbl.find m.ppl.hold (2048 * pipe + idx) = none) : holdTimeout c m pipe idx = m := by
  rw [holdTimeout, show Tbl.find m.ppl.hold (holdKey pipe idx) = Option.none from none]

/-- The machine in which a held entry has been given up. -/
def Mach.givenUp (m : Mach) (key : Nat) : Mach :=
  { m with ppl := { m.ppl with hold := Tbl.del m.ppl.hold key, gen := Tbl.upd 0 m.ppl.gen key fun g => (g + 1) % 256 } }

section
variable (held : Tbl.find m.ppl.hold (2048 * pipe + idx) = some h)
include held

theorem holdTimeout_of_waiting (waits : m.up < h.since + 10 * c.get pplHoldCfgHoldTimeout pipe ∨ heldFirst m h = false) : holdTimeout c m pipe idx = m := by
  rw [holdTimeout, show Tbl.find m.ppl.hold (holdKey pipe idx) = some h from held]
  exact if_pos (by rcases waits with early | behind <;> simp_all)

theorem holdTimeout_of_due (due : h.since + 10 * c.get pplHoldCfgHoldTimeout pipe ≤ m.up) (first : heldFirst m h = true) :
    holdTimeout c m pipe idx = unresolved c (m.givenUp (2048 * pipe + idx)) h.pkt 0x0D := by
  rw [holdTimeout, show Tbl.find m.ppl.hold (holdKey pipe idx) = some h from held]
  exact if_neg (by simp [due, first])

end

theorem traceReasons_of_untraced {m₀ : Mach} {k : Pkt} (untraced : k.trace = []) : traceReasons c m₀ m k = k := by
  unfold traceReasons
  simp only [untraced, ne_eq, not_true, decide_false, Bool.false_and, traceSelect, Bool.false_eq_true, if_false]
  rw [← untraced]

section
variable {k : Pkt} {code : Nat} (untraced : k.trace = [])
include untraced

theorem unresolved_of_drop (policy : c.of (countReason c m k.pipe code) k.turn pplZprofOverloadPolicy k.pipe k.cls.zprof = 0) :
    unresolved c m k code = dropPkt c ((countReason c m k.pipe code).inc32 pplUnresDropCount k.pipe) k code := by
  unfold unresolved
  dsimp only
  rw [traceReasons_of_untraced untraced]
  exact if_pos policy

theorem unresolved_of_default (policy : c.of (countReason c m k.pipe code) k.turn pplZprofOverloadPolicy k.pipe k.cls.zprof ≠ 0) :
    unresolved c m k code = actionStage c ((countReason c m k.pipe code).inc32 pplUnresDefaultCount k.pipe) k none 5 0 false := by
  unfold unresolved
  dsimp only
  rw [traceReasons_of_untraced untraced]
  exact if_neg policy

end
end

/-! ### Punts -/

section
variable {c : Cfg} {m : Mach} {pipe q : Nat} {e : Punt}

theorem puntTransfer_of_none (none : nextPunt c m pipe (fun _ => true) [] (m.punts pipe) = none) : puntTransfer c m pipe = m := by
  rw [puntTransfer, none]

theorem puntTransfer_of_queue (found : nextPunt c m pipe (fun _ => true) [] (m.punts pipe) = some e) (target : puntTo c pipe e.code = .queue q) :
    puntTransfer c m pipe = if noQueue c q then bump c (puntLeave c m pipe e) .tskCnt cTskNoQueue else admitItem c (puntLeave c m pipe e) (puntItem m q e) := by
  rw [puntTransfer, found]
  dsimp only
  rw [sendPunt, target]

end

/-- Settles O45, the arbiter's picks, the outcomes of a response and of a timeout, and a punt's targets in turn. -/
theorem packetsMoveThroughTheirPipeline : Obligations.PacketsMoveThroughTheirPipeline := by
  unfold Obligations.PacketsMoveThroughTheirPipeline
  refine ⟨fun s pipe live => ⟨fun t passed => ⟨State.atParser_boundary live passed _, State.atParser_boundary live passed _⟩, fun early => ?_⟩,
    fun s pipe idx live => ?_, fun s pipe idx live => ?_, fun s pipe live => ?_⟩
  · have parse : exec (.packetParse pipe) s = .next (s.withM (arbiterCycle s.conf s.mach pipe)) :=
      State.atParser_live live early fun c m => arbiterCycle c m pipe
    have reenter : exec (.recircReenter pipe) s = .next (s.withM (recircReenter s.conf s.mach pipe)) :=
      State.atParser_live live early fun c m => recircReenter c m pipe
    intro owed pick aged
    have free_of_pick {p : Nat} (picked : pick = some p) : owed = 0 := by
      by_contra busy
      have none : pick = Option.none := if_pos (by simp [show Tbl.look 0 s.mach.ppl.owed pipe ≠ 0 from busy])
      rw [none] at picked
      cases picked
    refine ⟨fun busy => by rw [parse, arbiterCycle_of_owed busy], fun free none => ?_, fun p k ks picked port ready => ?_, fun k ks picked ready => ?_,
      fun k ks picked waiting => ?_, fun other => ?_⟩
    · rw [parse, arbiterCycle_of_none free none, ← none]
    · rw [parse, arbiterCycle_of_port (free_of_pick picked) picked port ready, ← picked]
    · rw [parse, arbiterCycle_of_host (free_of_pick picked) picked ready, ← picked]
    · have passed := arbiterCycle_of_recirc (c := s.conf) (free_of_pick picked) picked waiting
      rw [← picked] at passed
      refine ⟨parse.trans (by rw [passed]), reenter.trans ?_⟩
      rw [show recircReenter s.conf s.mach pipe = arbiterCycle s.conf s.mach pipe from if_pos picked, passed]
    · rw [reenter, show recircReenter s.conf s.mach pipe = s.mach from if_neg other, State.withM_mach]
  · have row : exec (.flowResponse pipe idx) s = .next (s.withM (flowResponse s.conf s.mach pipe idx)) := State.on_live live fun c m => flowResponse c m pipe idx
    intro found key
    refine ⟨fun none => by rw [row, flowResponse_of_none none, State.withM_mach], fun r h first held => ?_⟩
    intro m k
    refine ⟨fun stale => ?_, fun current other other' => ?_, fun current failed => ?_, fun current steer loop => ?_⟩
    · rw [row, flowResponse_of_stale first held stale]
      rfl
    · rw [row, flowResponse_of_current first held current, afterResp_of_action other other']
      rfl
    · intro policy
      refine ⟨fun value => ?_, fun value => ?_, fun value => ?_⟩
      · rw [row, flowResponse_of_current first held current]
        exact congrArg (fun m => Host.Outcome.next (s.withM m)) (afterResp_of_default failed value)
      · rw [row, flowResponse_of_current first held current]
        exact congrArg (fun m => Host.Outcome.next (s.withM m)) (afterResp_of_punt failed value)
      · rw [row, flowResponse_of_current first held current]
        exact congrArg (fun m => Host.Outcome.next (s.withM m)) (afterResp_of_drop failed value)
    · rw [row, flowResponse_of_current first held current, afterResp_of_loop steer loop]
      rfl
  · have row : exec (.holdTimeout pipe idx) s = .next (s.withM (holdTimeout s.conf s.mach pipe idx)) := State.on_live live fun c m => holdTimeout c m pipe idx
    intro key
    refine ⟨fun none => by rw [row, holdTimeout_of_none none, State.withM_mach], fun h held => ⟨fun waits => ?_, fun due first untraced => ?_⟩⟩
    · rw [row, holdTimeout_of_waiting held waits, State.withM_mach]
    · intro m policy
      refine ⟨fun value => ?_, fun value => ?_⟩
      · rw [row, holdTimeout_of_due held due first]
        exact congrArg (fun m => Host.Outcome.next (s.withM m)) (unresolved_of_drop untraced value)
      · rw [row, holdTimeout_of_due held due first]
        exact congrArg (fun m => Host.Outcome.next (s.withM m)) (unresolved_of_default untraced value)
  · have row : exec (.puntTransfer pipe) s = .next (s.withM (puntTransfer s.conf s.mach pipe)) := State.on_live live fun c m => puntTransfer c m pipe
    intro found
    refine ⟨fun none => by rw [row, puntTransfer_of_none none, State.withM_mach], fun e q first target => ?_⟩
    intro left m
    refine ⟨fun off => ?_, fun on => ?_⟩
    · rw [row, puntTransfer_of_queue first target, if_pos off]
      rfl
    · rw [row, puntTransfer_of_queue first target, if_neg (by rw [on]; decide)]
      rfl

end Sys2Proof.Machine

/-! Queues, cells and pages (R26, R28, R30, R189, R193, R195, R198, R202, R207, R208, R212, R224, R295). -/
namespace Sys2Proof.Machine

/-! ### Selections and transmissions -/

section
variable {c : Cfg} {m : Mach} {l : Nat}

theorem dequeueSelect_of_still (still : m.glb.outputs = false ∨ (Tbl.find m.tmg.tx l).isSome = true) : dequeueSelect c m l = m :=
  if_pos (by rcases still with off | busy <;> simp_all)

section
variable (outputs : m.glb.outputs = true) (idle : Tbl.find m.tmg.tx l = none)
include outputs idle

theorem dequeueSelect_of_none {m' : Mach} (selected : selectQueue c m l = (none, m')) : dequeueSelect c m l = m' := by
  refine (if_neg (by simp [outputs, idle])).trans ?_
  rw [selected]

section
variable {m' : Mach} {q : Nat} {fd : FrameD} {rest : List FrameD} (selected : selectQueue c m l = (some q, m')) (head : (m'.queue q).head = fd :: rest)
include selected head

theorem dequeueSelect_of_head : dequeueSelect c m l =
    if tooOld c m' q fd then restDeficits c (ageDrop c m' q fd) l
    else if pgHeld m (l / 8) then m
    else match chainBad (q / 65536) maxChain m fd.head with
      | some p => restDeficits c (skipFrame c (takeHead m' q) (ownDequeue l) q p fd) l
      | none => restDeficits c (if !macOn c m l then idleDrop c m' q fd else transmit c m' l q fd) l := by
  refine (if_neg (by simp [outputs, idle])).trans ?_
  rw [selected]
  dsimp only
  simp only [head] <;> rfl

theorem dequeueSelect_of_old (old : tooOld c m' q fd = true) : dequeueSelect c m l = restDeficits c (ageDrop c m' q fd) l :=
  (dequeueSelect_of_head outputs idle selected head).trans (if_pos old)

section
variable (young : tooOld c m' q fd = false)
include young

theorem dequeueSelect_of_held (held : pgHeld m (l / 8) = true) : dequeueSelect c m l = m :=
  (dequeueSelect_of_head outputs idle selected head).trans ((if_neg (by rw [young]; decide)).trans (if_pos held))

variable (free : pgHeld m (l / 8) = false)
include free

theorem dequeueSelect_of_bad {p : Nat} (bad : chainBad (q / 65536) maxChain m fd.head = some p) :
    dequeueSelect c m l = restDeficits c (skipFrame c (takeHead m' q) (ownDequeue l) q p fd) l := by
  rw [dequeueSelect_of_head outputs idle selected head, if_neg (by rw [young]; decide), if_neg (by rw [free]; decide), bad]

variable (good : chainBad (q / 65536) maxChain m fd.head = none)
include good

theorem dequeueSelect_of_idle_port (off : macOn c m l = false) : dequeueSelect c m l = restDeficits c (idleDrop c m' q fd) l := by
  rw [dequeueSelect_of_head outputs idle selected head, if_neg (by rw [young]; decide), if_neg (by rw [free]; decide), good, off]
  rfl

theorem dequeueSelect_of_sent (on : macOn c m l = true) : dequeueSelect c m l = restDeficits c (transmit c m' l q fd) l := by
  rw [dequeueSelect_of_head outputs idle selected head, if_neg (by rw [young]; decide), if_neg (by rw [free]; decide), good, on]
  rfl

end
end
end

theorem txDone_of_none (none : Tbl.find m.tmg.tx l = none) : txDone c m l = m := by
  rw [txDone, none]

theorem traceEnd_of_untraced (d x : Nat) : traceEnd c m [] d x = m := if_neg (by decide)

/-- The machine in which a queue's frame has been counted as sent by a port. -/
def Mach.sentFrame (m : Mach) (l : Nat) (x : TxFrame) : Mach :=
  { m with tmg := { m.tmg with tx := Tbl.del m.tmg.tx l } }.setQueue x.qid
    { m.queue x.qid with sent := (m.queue x.qid).sent + 1, sentBytes := (m.queue x.qid).sentBytes + x.bytes.length + 4 }

section
variable {x : TxFrame} (sent : Tbl.find m.tmg.tx l = some x)
include sent

theorem txDone_of_open (ct : x.fd.ct = true) : txDone c m l = m := by
  rw [txDone, sent]
  exact if_pos ct

theorem txDone_of_plain (ct : x.fd.ct = false) (stomp : x.fd.stomp = false) (trace : x.fd.trace = []) (ptp : x.fd.res.ptp ≠ 2) (on : macOn c m l = true) :
    txDone c m l = dropFrame c ((m.sentFrame l x).emit (.frame l (x.bytes ++ fcsOf x.bytes) x.ts)) (ownDequeue l) x.fd := by
  have on' : macOn c (m.sentFrame l x) l = true := on
  rw [txDone, sent]
  refine (if_neg (by rw [ct]; decide)).trans ?_
  change dropFrame c (if x.fd.res.ptp = 2 then _ else _) (ownDequeue l) x.fd = _
  rw [if_neg ptp, trace, traceEnd_of_untraced, stomp]
  change dropFrame c (if macOn c (m.sentFrame l x) l then _ else _) (ownDequeue l) x.fd = _
  rw [if_pos on']
  rfl

end

theorem tx_row {s : State} (live : s.live) (l : Fin 256) : exec (.frameTxDone l) s = .next (s.withM (txDone s.conf s.mach l)) :=
  State.on_live live fun c m => txDone c m l

end

/-! ### Frames that cross -/

section
variable {c : Cfg} {m : Mach} {die : Nat} {x : Xfer}

/-- The first frame for a die. -/
def Mach.nextCrossing (m : Mach) (die : Nat) : Option Xfer := m.tmg.xfer.find? fun x => dieOf x.head != die

/-- The machine without a frame that crosses. -/
def Mach.lessCrossing (m : Mach) (x : Xfer) : Mach := { m with tmg := { m.tmg with xfer := m.tmg.xfer.erase x } }

/-- The targets of a frame that crosses lose it. -/
def crossingLost (c : Cfg) (x : Xfer) (m : Mach) : Mach := x.targets.foldl (fun m t => tsDropped c m t.1 { x.fd with res := t.2 }) m

/-- The cells that a frame left on the other die are freed. -/
def crossingFreed (c : Cfg) (die : Nat) (x : Xfer) (m : Mach) : Mach := freeFrame c m (1 - die) (ownXfer (1 - die)) (cellAddr x.head)

theorem crossDie_of_none (none : m.nextCrossing die = none) : crossDie c m die = m := by
  rw [crossDie, show (m.tmg.xfer.find? fun x => dieOf x.head != die) = Option.none from none]

theorem crossDrop_of_none (none : m.nextCrossing die = none) : crossDrop c m die = m := by
  rw [crossDrop, show (m.tmg.xfer.find? fun x => dieOf x.head != die) = Option.none from none]

section
variable (found : m.nextCrossing die = some x) (single : x.mcast = false)
include found single

theorem crossDrop_of_single : crossDrop c m die = crossingFreed c die x (crossingLost c x (traceEnd c
    (bump c (m.lessCrossing x) .tmgCnt (1 - die) cTmgEnqDrop (x := x.targets.length)) x.fd.trace 1 0)) := by
  rw [crossDrop, show (m.tmg.xfer.find? fun x => dieOf x.head != die) = some x from found]
  exact if_neg (by rw [single]; decide)

section
variable (good : chainBad (1 - die) maxChain m x.head = none)
include good

theorem crossDie_of_no_cells (none : storeFrame c m die (ownXfer die) (frameBytes m x.head) = none) : crossDie c m die = crossingFreed c die x
    (bump c ((crossingLost c x (allocFail c (traceEnd c m x.fd.trace 1 0) die (ownXfer die) (cellsFor (frameBytes m x.head).length))).lessCrossing x)
      .tmgCnt die cTmgNoBuffer (x := x.targets.length)) := by
  rw [crossDie, show (m.tmg.xfer.find? fun x => dieOf x.head != die) = some x from found]
  dsimp only
  rw [good]
  dsimp only
  rw [none]
  exact if_neg (by rw [single]; decide)

theorem crossDie_of_queued {p q : Nat} {r : EditRes} {m₁ m₂ : Mach} (stored : storeFrame c m die (ownXfer die) (frameBytes m x.head) = some (p, m₁))
    (target : x.targets = [(q, r)]) (queued : enqueue c (m₁.lessCrossing x) q { x.fd with head := p, mcast := false, res := r } = some m₂)
    (whole : Tbl.find (crossingFreed c die x (handOver c m₂ (ownXfer die) p (ownDequeue (queuePort c q)) 0)).ppl.ct x.head = none) :
    crossDie c m die = crossingFreed c die x (handOver c m₂ (ownXfer die) p (ownDequeue (queuePort c q)) 0) := by
  rw [crossDie, show (m.tmg.xfer.find? fun x => dieOf x.head != die) = some x from found]
  dsimp only
  rw [good]
  dsimp only
  rw [stored]
  dsimp only
  rw [target, single]
  dsimp only
  rw [if_neg (by decide), if_neg (by decide)]
  rw [show enqueue c { m₁ with tmg := { m₁.tmg with xfer := m₁.tmg.xfer.erase x } } q { x.fd with head := p, mcast := false, res := r } = some m₂ from queued]
  dsimp only
  rw [show Tbl.find (freeFrame c (handOver c m₂ (ownXfer die) p (ownDequeue (queuePort c q)) 0) (1 - die) (ownXfer (1 - die)) (cellAddr x.head)).ppl.ct x.head =
    none from whole]
  rfl

end
end
end

/-! ### Multicast copies -/

section
variable {c : Cfg} {m : Mach} {die req addr : Nat}

/-- The first release for a die's agent. -/
def Mach.nextRelease (m : Mach) (die : Nat) : Option (Nat × Nat) := m.tmg.releases.find? fun r => r.1 / 2048 == die

/-- The machine without a release. -/
def Mach.lessRelease (m : Mach) (r : Nat × Nat) : Mach := { m with tmg := { m.tmg with releases := m.tmg.releases.erase r } }

theorem takeRelease_of_none (none : m.nextRelease die = none) : takeRelease c m die = m := by
  rw [takeRelease, show (m.tmg.releases.find? fun r => r.1 / 2048 == die) = Option.none from none]

theorem takeRelease_of_next (found : m.nextRelease die = some (req, addr)) : takeRelease c m die = releaseCopy c (m.lessRelease (req, addr)) die req addr := by
  rw [takeRelease, show (m.tmg.releases.find? fun r => r.1 / 2048 == die) = some (req, addr) from found]
  rfl

theorem releaseCopy_of_bad_pointer (bad : cellAddrOk die addr = false) : releaseCopy c m die req addr = bufError c m die .pointer req addr :=
  if_pos (by rw [bad]; rfl)

theorem releaseCopy_of_copy (ok : cellAddrOk die addr = true) (kept : (m.cell (addr / 256)).lost = false)
    (owner : (m.cell (addr / 256)).owner = ownMcast die) (copies : 0 < (m.cell (addr / 256)).refcnt) :
    let m' := m.setCell (addr / 256) { m.cell (addr / 256) with refcnt := (m.cell (addr / 256)).refcnt - 1 }
    releaseCopy c m die req addr = if (m.cell (addr / 256)).refcnt = 1 then freeFrame c m' die (ownMcast die) addr else m' := by
  have seen : (m.cell (addr / 256)).seen = ownMcast die := by
    rw [Cell.seen, kept, owner]
    rfl
  have used : ownMcast die ≠ 0xFFF := by
    rw [ownMcast]
    omega
  refine (if_neg (by rw [ok]; decide)).trans ((if_neg (by rw [seen]; exact used)).trans (if_neg ?_))
  rw [seen]
  simp [copies.ne']

end

/-! ### Pages -/

section
variable {c : Cfg} {m : Mach} {q : Nat}

theorem pageReturn_of_still (still : (m.queue q).spill = false ∨ spillThresh c q * 8 ≤ (m.queue q).headCells) : pageReturn c m q = m :=
  if_neg (by rcases still with off | full <;> simp_all)

/-- The machine in which a queue without pages holds cells again. -/
def Mach.cellsAgain (m : Mach) (q : Nat) : Mach :=
  let x := m.queue q
  let m := m.setQueue q { x with spill := false, head := x.head ++ x.staging, staging := [], pages := [] }
  { m with tmg := { m.tmg with stage := Tbl.upd [] m.tmg.stage (q / 65536) (·.filter (· != q)) } }

theorem pageReturn_of_empty (spill : (m.queue q).spill = true) (low : (m.queue q).headCells < spillThresh c q * 8) (empty : (m.queue q).entries = []) :
    pageReturn c m q = m.cellsAgain q := by
  refine (if_pos (by simp [spill, low])).trans ?_
  rw [empty]
  exact if_pos (by simp [returnLoop, spill, empty])

theorem refillPages_of_full {k : Nat} (full : 16 < (Tbl.look [] m.tmg.ready k).length) : refillPages m k = m := if_pos full

/-- The machine in which pages are no longer free in the bitmap. -/
def pagesTaken (ps : List Nat) (m : Mach) : Mach := ps.foldl (fun m p => m.setPage p { m.page p with l0 := false }) m

theorem refillPages_of_found {k p : Nat} {ps : List Nat} (low : (Tbl.look [] m.tmg.ready k).length ≤ 16)
    (found : findPages m k (Tbl.look 0 m.tmg.cursor k) (min (m.tmg.pages.length + 64) pagesPerAlloc) (64 - (Tbl.look [] m.tmg.ready k).length) = ps ++ [p]) :
    let m' := pagesTaken (ps ++ [p]) m
    refillPages m k = { m' with tmg := { m'.tmg with
      ready := Tbl.put [] m'.tmg.ready k (Tbl.look [] m.tmg.ready k ++ ps ++ [p])
      cursor := Tbl.put 0 m'.tmg.cursor k ((p - k * pagesPerAlloc + 1) % pagesPerAlloc) } } := by
  refine (if_neg (Nat.not_lt.mpr low)).trans ?_
  rw [found, List.getLast?_concat, ← List.append_assoc]
  rfl

end

/-! ### Spills -/

/-- Cells, pages and releases change, and reports and counts, but no queue and no order of spills. -/
structure KeepsQueues (m m' : Mach) : Prop where
  queues : m'.tmg.queues = m.tmg.queues
  stage : m'.tmg.stage = m.tmg.stage

section
variable {c : Cfg} {m m₀ : Mach} {die : Nat}

theorem KeepsQueues.refl : KeepsQueues m m := ⟨rfl, rfl⟩

theorem KeepsQueues.trans {m' : Mach} (h : KeepsQueues m₀ m) (h' : KeepsQueues m m') : KeepsQueues m₀ m' :=
  ⟨h'.queues.trans h.queues, h'.stage.trans h.stage⟩

theorem keepsQueues_bump (r : Reg) (i j k x : Nat) : KeepsQueues m (bump c m r i j k x) := by
  obtain ⟨g, same⟩ := bump_frame c m r i j k x
  rw [same]
  exact ⟨rfl, rfl⟩

theorem keepsQueues_setSt (f : Fld) (v i j k : Nat) : KeepsQueues m (m.setSt f v i j k) := ⟨rfl, rfl⟩

theorem keepsQueues_setCell (p : Nat) (x : Cell) : KeepsQueues m (m.setCell p x) := ⟨rfl, rfl⟩

theorem keepsQueues_raise (cls inst sev detail : Nat) : KeepsQueues m (raise c m cls inst sev detail) := by
  obtain ⟨g, same⟩ := raise_frame c m cls inst sev detail
  rw [same]
  exact ⟨rfl, rfl⟩

theorem keepsQueues_bufError (e : BufErr) (req addr : Nat) : KeepsQueues m (bufError c m die e req addr) := by
  refine (keepsQueues_bump (c := c) .tmgCnt die e.counter 0 1).trans (.trans ?_ (keepsQueues_raise 12 die DEGRADED 0))
  split
  · exact .refl
  · exact (keepsQueues_setSt ..).trans ((keepsQueues_setSt ..).trans ((keepsQueues_setSt ..).trans (keepsQueues_setSt ..)))

theorem keepsQueues_pushCell (p : Nat) : KeepsQueues m (pushCell m p) := ⟨rfl, rfl⟩

theorem keepsQueues_freeRest (req n p : Nat) : KeepsQueues m (freeRest c req n m p) := by
  induction n generalizing m p with
  | zero => exact .refl
  | succ n ih =>
    unfold freeRest
    dsimp only
    split
    · exact keepsQueues_bufError ..
    split
    · exact keepsQueues_bufError ..
    split
    · exact keepsQueues_pushCell p
    · exact (keepsQueues_pushCell p).trans (ih _)

theorem keepsQueues_freeFrame (req addr : Nat) : KeepsQueues m (freeFrame c m die req addr) := by
  unfold freeFrame
  dsimp only
  split
  · exact keepsQueues_bufError ..
  split
  · exact keepsQueues_bufError ..
  split
  · exact keepsQueues_bufError ..
  split
  · exact keepsQueues_bufError ..
  split
  · exact keepsQueues_pushCell _
  · exact (keepsQueues_pushCell _).trans (keepsQueues_freeRest ..)

theorem keepsQueues_handFrom (req owner refcnt n p : Nat) : KeepsQueues m (handFrom c req owner refcnt n m p) := by
  induction n generalizing m p with
  | zero => exact .refl
  | succ n ih =>
    unfold handFrom
    dsimp only
    split
    · exact keepsQueues_bufError ..
    split
    · exact keepsQueues_setCell ..
    · exact (keepsQueues_setCell ..).trans (ih _)

/-- The cells of a frame that has been spilled go. -/
def spilledFreed (c : Cfg) (die q : Nat) (fd : FrameD) (m : Mach) : Mach :=
  if fd.mcast then sendRelease m (ownSpill die) fd.head
  else freeFrame c (handOver c m (ownDequeue (queuePort c q)) fd.head (ownSpill die) 0) die (ownSpill die) (cellAddr fd.head)

theorem keepsQueues_spilledFreed (q : Nat) (fd : FrameD) : KeepsQueues m (spilledFreed c die q fd m) := by
  unfold spilledFreed
  split
  · exact ⟨rfl, rfl⟩
  · exact (keepsQueues_handFrom ..).trans (keepsQueues_freeFrame ..)

/-- The entry of a frame that a queue spills to the pages `ps`. -/
def spilledEntry (m : Mach) (q : Nat) (fd : FrameD) (ps : List Nat) : PEntry :=
  let x := m.queue q
  let first := ps.getD (if 0 < tailRoom m x then x.pages.length - 1 else x.pages.length) 0
  { fd := { fd with head := 0, mcast := false }, bytes := fd.stored m, first := first, last := ps.getLast?.getD first }

/-- The machine, after `m` and the pages taken in `m'`, with a frame in the page part of its queue. -/
def spilled (m m' : Mach) (die q : Nat) (rest : List Nat) (fd : FrameD) (fs : List FrameD) (ps : List Nat) : Mach :=
  let room := tailRoom m (m.queue q)
  let entry := spilledEntry m q fd ps
  let pg := m'.page entry.first
  let off := if 0 < room then 4096 - room else 0
  let m₁ := m'.setPage entry.first { pg with frames := pg.frames + 1, first := if pg.frames = 0 then off else pg.first }
  let m₂ := { m₁ with tmg := { m₁.tmg with stage := Tbl.put [] m₁.tmg.stage die rest } }
  m₂.setQueue q { m₂.queue q with staging := fs, pages := ps, entries := (m.queue q).entries ++ [entry] }

/-- The spill writer's answer by the pages that it finds. -/
def afterPages (c : Cfg) (m : Mach) (die q : Nat) (rest : List Nat) (fd : FrameD) (fs : List FrameD) : Option (List Nat × Mach) → Mach
  | none => bump c m .hbmCnt cHbmNoPage
  | some (ps, m') => bump c (spilledFreed c die q fd (spilled m m' die q rest fd fs ps)) .tmgCnt die cTmgSpillFrames

theorem spillWrite_of_none (none : Tbl.look [] m.tmg.stage die = []) : spillWrite c m die = m := by
  rw [spillWrite, none]

section
variable {q : Nat} {rest : List Nat} {fd : FrameD} {fs : List FrameD} (staged : Tbl.look [] m.tmg.stage die = q :: rest) (staging : (m.queue q).staging = fd :: fs)
include staged staging

theorem spillWrite_of_pressed (pressed : Config.spillPressed m.free = true) : spillWrite c m die =
    pmcEvent c (pmcEvent c (bump c m.draw .hbmCnt cHbmSpillBp) ((pmcRow .tmg).first + die) 0x02 1) (pmcRow .hbm).first 0x03 1 := by
  rw [spillWrite, staged]
  dsimp only
  rw [staging]
  exact if_pos pressed

/-- The machine in which the spill writer has checked the queue's last page and the pages it may take. -/
def Mach.spillChecked (c : Cfg) (m : Mach) (die q : Nat) : Mach := checkReady c (tailCheck c (ownSpill die) q (m.queue q).pages.length m.draw) (ownSpill die)

/-- The pages for a spilled frame. -/
def spillPages (c : Cfg) (m : Mach) (die q : Nat) (fd : FrameD) : Option (List Nat × Mach) :=
  takePages c die q (ownDequeue (queuePort c q)) 8 (entryBytes fd.len) (m.queue q).pages m

section
variable (free : Config.spillPressed m.free = false) (good : chainBad die maxChain m fd.head = none)
include free good

theorem spillWrite_of_good :
    spillWrite c m die = afterPages c (m.spillChecked c die q) die q rest fd fs (spillPages c (m.spillChecked c die q) die q fd) := by
  unfold spillWrite
  rw [staged]
  dsimp -zeta only
  rw [staging]
  dsimp -zeta only
  rw [if_neg (by rw [free]; decide), good]
  dsimp -zeta only
  extract_lets m₁ x bytes n room
  change _ = afterPages c m₁ die q rest fd fs (takePages c die q (ownDequeue (queuePort c q)) 8 n x.pages m₁)
  cases takePages c die q (ownDequeue (queuePort c q)) 8 n x.pages m₁ <;> rfl

end
end

section
variable {q : Nat} {rest ps : List Nat} {fd : FrameD} {fs : List FrameD} {m' : Mach}

theorem spilled_stage : (spilled m m' die q rest fd fs ps).tmg.stage = Tbl.put [] m'.tmg.stage die rest := rfl

theorem spilled_queue : (spilled m m' die q rest fd fs ps).queue q =
    { m'.queue q with staging := fs, pages := ps, entries := (m.queue q).entries ++ [spilledEntry m q fd ps] } := by
  have filled : { m'.queue q with staging := fs, pages := ps, entries := (m.queue q).entries ++ [spilledEntry m q fd ps] } ≠ ({} : Queue) := by
    intro same
    have none : (m.queue q).entries ++ [spilledEntry m q fd ps] = [] := congrArg Queue.entries same
    simp at none
  have put : (spilled m m' die q rest fd fs ps).tmg.queues = Tbl.ins m'.tmg.queues q
      { m'.queue q with staging := fs, pages := ps, entries := (m.queue q).entries ++ [spilledEntry m q fd ps] } := if_neg filled
  rw [Mach.queue, put, Tbl.look, Tbl.find_ins_self]
  rfl

theorem keepsQueues_afterPages : KeepsQueues (spilled m m' die q rest fd fs ps) (afterPages c m die q rest fd fs (some (ps, m'))) :=
  (keepsQueues_spilledFreed q fd).trans (keepsQueues_bump .tmgCnt die cTmgSpillFrames 0 1)

theorem afterPages_queue : (afterPages c m die q rest fd fs (some (ps, m'))).queue q =
    { m'.queue q with staging := fs, pages := ps, entries := (m.queue q).entries ++ [spilledEntry m q fd ps] } :=
  (congrArg (fun t => Tbl.look ({} : Queue) t q) keepsQueues_afterPages.queues).trans spilled_queue

theorem afterPages_stage : (afterPages c m die q rest fd fs (some (ps, m'))).tmg.stage = Tbl.put [] m'.tmg.stage die rest :=
  keepsQueues_afterPages.stage.trans spilled_stage

theorem State.conf_withM (s : State) (m : Mach) : (s.withM m).conf = s.conf := rfl

/-- A queue with a spilled entry more. -/
theorem exists_afterPages {s : State} {o : Outcome} (row : o = .next (s.withM (afterPages s.conf m die q rest fd fs (some (ps, m'))))) :
    let x := m.queue q
    let first := ps.getD (if 0 < tailRoom m x then x.pages.length - 1 else x.pages.length) 0
    let entry : PEntry := { fd := { fd with head := 0, mcast := false }, bytes := fd.stored m, first := first, last := ps.getLast?.getD first }
    ∃ t : State, o = .next t ∧ t.conf = s.conf ∧ t.mach.queue q = { m'.queue q with staging := fs, pages := ps, entries := x.entries ++ [entry] } ∧
      t.mach.tmg.stage = Tbl.put [] m'.tmg.stage die rest :=
  ⟨_, row, State.conf_withM .., afterPages_queue, afterPages_stage⟩

end
end

/-! ### Parked packets -/

theorem parkRelease_of_none {c : Cfg} {m : Mach} (none : m.duo.release = []) : parkRelease c m = m := by
  rw [parkRelease, none]

/-- Settles O46, each outcome of a selection, a crossing, a release, a spill, a return and a refill in turn. -/
theorem queuesCellsAndPagesFollowTheirRules : Obligations.QueuesCellsAndPagesFollowTheirRules := by
  unfold Obligations.QueuesCellsAndPagesFollowTheirRules
  refine ⟨fun s l live => ?_, fun s l live => ?_, fun s die live => ?_, fun s die live => ?_, fun s die live => ?_, fun s q live => ?_, fun s k live => ?_,
    fun s live => ?_⟩
  · have row : exec (.dequeueSelect l) s = .next (s.withM (dequeueSelect s.conf s.mach l)) := State.on_live live fun c m => dequeueSelect c m l
    refine ⟨fun still => by rw [row, dequeueSelect_of_still still, State.withM_mach], fun outputs idle => ⟨fun m selected => ?_,
      fun q m fd rest selected head => ⟨fun old => ?_, fun young held => ?_, fun young free => ?_⟩⟩⟩
    · rw [row, dequeueSelect_of_none outputs idle selected]
    · rw [row, dequeueSelect_of_old outputs idle selected head old]
    · rw [row, dequeueSelect_of_held outputs idle selected head young held, State.withM_mach]
    · refine ⟨fun p bad => ?_, fun good off => ?_, fun good on => ?_⟩
      · rw [row, dequeueSelect_of_bad outputs idle selected head young free bad]
      · rw [row, dequeueSelect_of_idle_port outputs idle selected head young free good off]
      · rw [row, dequeueSelect_of_sent outputs idle selected head young free good on]
  · refine ⟨fun none => by rw [tx_row live, txDone_of_none none, State.withM_mach], fun x sent => ⟨fun ct => ?_, fun ct stomp trace ptp on => ?_⟩⟩
    · rw [tx_row live, txDone_of_open sent ct, State.withM_mach]
    · rw [tx_row live, txDone_of_plain sent ct stomp trace ptp on]
      rfl
  · have row : exec (.crossDieArrival die) s =
        .next (s.withM (if s.mach.flt.pdpdDown then crossDrop s.conf s.mach die else crossDie s.conf s.mach die)) :=
      State.on_live live fun c m => if m.flt.pdpdDown then crossDrop c m die else crossDie c m die
    refine ⟨fun none => ?_, fun x found single => ?_⟩
    · rw [row, crossDrop_of_none none, crossDie_of_none none, ite_self, State.withM_mach]
    · intro taken lost freed bytes
      refine ⟨fun down => ?_, fun up good => ⟨fun none => ?_, fun p q r m m' stored target queued => ?_⟩⟩
      · rw [row, if_pos down, crossDrop_of_single found single]
        rfl
      · rw [row, if_neg (by rw [up]; decide), crossDie_of_no_cells found single good none]
        rfl
      · intro t whole
        rw [row, if_neg (by rw [up]; decide), crossDie_of_queued found single good stored target queued whole]
        rfl
  · have row : exec (.mcastRelease die) s = .next (s.withM (takeRelease s.conf s.mach die)) := State.on_live live fun c m => takeRelease c m die
    intro found
    refine ⟨fun none => by rw [row, takeRelease_of_none none, State.withM_mach], fun req addr next => ?_⟩
    intro x m m'
    refine ⟨fun bad => ?_, fun ok kept owner copies => ⟨fun more => ?_, fun last => ?_⟩⟩
    · rw [row, takeRelease_of_next next, releaseCopy_of_bad_pointer bad]
      rfl
    · rw [row, takeRelease_of_next next]
      exact congrArg (fun m => Host.Outcome.next (s.withM m)) ((releaseCopy_of_copy (c := s.conf) (m := s.mach.lessRelease (req, addr)) ok kept owner copies).trans (if_neg more.ne'))
    · rw [row, takeRelease_of_next next]
      exact congrArg (fun m => Host.Outcome.next (s.withM m)) ((releaseCopy_of_copy (c := s.conf) (m := s.mach.lessRelease (req, addr)) ok kept owner copies).trans (if_pos last))
  · have row : exec (.spillWrite die) s = .next (s.withM (spillWrite s.conf s.mach die)) := State.on_live live fun c m => spillWrite c m die
    refine ⟨fun none => by rw [row, spillWrite_of_none none, State.withM_mach], fun q rest fd fs staged staging => ⟨fun pressed => ?_, fun free good => ?_⟩⟩
    · rw [row, spillWrite_of_pressed staged staging pressed]
    · have written := spillWrite_of_good (c := s.conf) staged staging free good
      unfold spillPages Mach.spillChecked at written
      dsimp only
      refine ⟨fun none => ?_, fun ps m found => ?_⟩
      · rw [row, written, none]
        rfl
      · rw [found] at written
        rw [written] at row
        exact exists_afterPages row
  · have row : exec (.pageReturn q) s = .next (s.withM (pageReturn s.conf s.mach q)) := State.on_live live fun c m => pageReturn c m q
    intro x
    refine ⟨fun still => by rw [row, pageReturn_of_still still, State.withM_mach], fun spill low empty => ?_⟩
    rw [row, pageReturn_of_empty spill low empty]
    rfl
  · have row : exec (.pageQueueRefill k) s = .next (s.withM (refillPages s.mach k)) := State.on_live live fun _ m => refillPages m k
    intro q
    refine ⟨fun full => by rw [row, refillPages_of_full full, State.withM_mach], fun ps p low found => ?_⟩
    rw [row, refillPages_of_found low found]
    rfl
  · have row : exec .parkRelease s = .next (s.withM (parkRelease s.conf s.mach)) := State.on_live live parkRelease
    refine ⟨fun none => by rw [row, parkRelease_of_none none, State.withM_mach], fun v rest next => ?_⟩
    rw [row, parkRelease, next]
    rfl

end Sys2Proof.Machine

/-! Due changes of gate lists (R246). A change may leave a gate unit at its reset values, whose entry then leaves the machine's table of gate units;
`Obligations.TablesAgeAndTimersRun` does not take that table's order as a premise. -/
namespace Sys2Proof.Machine

/-- A device whose table of gate units holds the unit of port 0 twice: once with a change to an empty list that is due, and behind that, out of order, with a
change time shown. -/
def gateTwice : State :=
  { dev :=
      { cfg := { fuse := {} }
        m :=
          { glb := { inReset := false }
            sch := { gates := [(0, { change := some { time := 0, cycle := 0, ext := 0, len := 0 } }), (0, { shown := 5 })] } } }
    pending := [] }

/-- The change time that the gate unit of port 0 shows. -/
def gateShown : Outcome → Nat
  | .next t => (t.mach.gate 0).shown
  | _ => 0

/-- Refutes O47: on `gateTwice` the change leaves the unit at its reset values, its entry leaves the table, and the states are shown in the second entry, which
the statement has removed as well. -/
theorem not_tablesAgeAndTimersRun : ¬ Obligations.TablesAgeAndTimersRun := by
  unfold Obligations.TablesAgeAndTimersRun
  intro ⟨_, _, gates, _⟩
  have shown := congrArg gateShown ((gates gateTwice 0 rfl).2.1 { time := 0, cycle := 0, ext := 0, len := 0 } (by decide +kernel) (by decide +kernel))
  revert shown
  decide +kernel

end Sys2Proof.Machine

/-! Companions of the flow store (R105). A companion's insert, too, is admitted to both its buckets from the first where its slot has a state (R89, R109); looking into its
alternate bucket, it then takes no further place in the slices' order. -/
namespace Sys2Proof.Machine

/-- A companion record of the key of 16 zero bytes. -/
def fullCompanion : Rec := { key := List.replicate 16 0 }

/-- The device of `fullBucket`, with that companion to be placed. -/
def companionDue : State :=
  { fullBucket with dev := { fullBucket.dev with m := { fullBucket.mach with fsl := { fullBucket.mach.fsl with comps := [.ins [] fullCompanion 0 0 0] } } } }

/-- The machine that has taken it up, at its place in the slices' order. -/
def companionTaken : Mach :=
  ({ companionDue.mach with fsl := { companionDue.mach.fsl with comps := companionDue.mach.fsl.comps.erase (.ins [] fullCompanion 0 0 0) } } : Mach).takesPlace

/-- The machine as `Obligations.FlowStoreServesRequests` has it look the companion's key up: at a second place. -/
def companionLooked : Option (Spot × Rec) × Mach := lookupKey companionDue.conf companionTaken.takesPlace fullHash fullCompanion.key

/-- The companion as it is placed. -/
def companionPlaced : Rec :=
  { fullCompanion with role := 0, peer := deviceId companionDue.conf, unmirrored := false, lastHit := companionLooked.2.fsl.ageNow, created := companionLooked.2.fsl.ageNow }

/-- What placing it leaves. -/
def companionLeft : Bool × Mach := placeNew companionDue.conf companionLooked.2 (fhSlot fullHash) (fullPlace.map .at) companionPlaced

/-- The companion's record, and where it is. -/
def companionFound : Spot × Rec := (findKey companionLeft.2 (fhSlot fullHash) fullHash fullCompanion.key).getD (.stash, fullCompanion)

theorem companionDue_hash : fhOf companionDue.conf companionDue.mach fullCompanion.key = fullHash := by decide +kernel

theorem companionDue_free : SliceFree companionDue.conf companionDue.mach fullCompanion.key where
  noOps := by decide +kernel
  noJobs := by decide +kernel
  noMoves := by decide +kernel
  noImage := by decide +kernel
  room := by decide +kernel
  unguarded := by decide +kernel
  guardRoom := by decide +kernel

theorem companionDue_finds_room :
    FindsRoom companionDue.conf companionDue.mach companionTaken fullCompanion.key (fullPlace.map .at) companionTaken.takesPlace := by
  refine .inr ⟨by decide +kernel, rfl, .inl ?_⟩
  have some : fullPlace.isSome = true := by decide +kernel
  obtain ⟨pos, place⟩ := Option.isSome_iff_exists.mp some
  refine ⟨pos, Eq.trans (by decide +kernel) place, by rw [place]; rfl⟩

theorem companionLeft_placed : placeNew companionDue.conf companionLooked.2 (fhSlot fullHash) (fullPlace.map .at) companionPlaced = (true, companionLeft.2) :=
  Prod.ext (by decide +kernel) rfl

theorem companionFound_found : findKey companionLeft.2 (fhSlot fullHash) fullHash fullCompanion.key = some (companionFound.1, companionFound.2) := by
  have some : (findKey companionLeft.2 (fhSlot fullHash) fullHash fullCompanion.key).isSome = true := by decide +kernel
  obtain ⟨x, found⟩ := Option.isSome_iff_exists.mp some
  rw [companionFound, found]
  rfl

/-- Refutes O48: on `companionDue` the companion's insert is admitted to both buckets at once and takes one place in the slices' order, where the statement has
it take a second one when it looks into its alternate bucket. -/
theorem not_flowStoreServesRequests : ¬ Obligations.FlowStoreServesRequests := by
  unfold Obligations.FlowStoreServesRequests
  intro serves
  obtain ⟨_, _, _, _, _, _, ⟨_, inserts⟩, _⟩ := serves companionDue rfl (by decide +kernel)
  have placed := (((inserts [] fullCompanion 0 0 0 (by decide +kernel)).2 companionDue_free).2 (fullPlace.map .at) companionTaken.takesPlace companionLeft.2
    companionDue_finds_room (by decide +kernel)).2 companionFound.1 companionFound.2
  rw [companionDue_hash] at placed
  have left := companionLeft_placed
  unfold companionPlaced companionLooked at left
  have places := congrArg nextPlace (placed left companionFound_found)
  revert places
  decide +kernel

end Sys2Proof.Machine

/-! Operations that a slice of the flow store carries out at once (R89, R94, R99, R112, R117), and what leaves the slices' work alone. -/
namespace Sys2Proof.Machine

section
variable {c : Cfg} {m : Mach} {key : List Byte} {job : Job}

/-- An operation as a slice admits it. -/
def Mach.waiter (m : Mach) (c : Cfg) (job : Job) (key : List Byte) : Waiter :=
  { job := job, key := key, region := fhSlot (fhOf c m key), no := m.fsl.nextOrd, ord := m.fsl.nextOrd, holds := admitted m (fhOf c m key), fh := fhOf c m key }

/-- The machine with an operation as the slices' only one. -/
def Mach.withJob (m : Mach) (w : Waiter) : Mach := { m with fsl := { m.fsl with jobs := [w], nextOrd := m.fsl.nextOrd + 1 } }

section
variable (free : SliceFree c m key)
include free

theorem pushJob_of_free : pushJob c m job key = m.withJob (m.waiter c job key) := by
  obtain ⟨-, jobs, moves, -, -, -, -⟩ := free
  have still : enterOrder c m (fhOf c m key) key = (admitted m (fhOf c m key), m) := by
    rw [enterOrder, ledgerOf, moves]
    rfl
  rw [pushJob, still]
  dsimp only
  rw [jobs]
  rfl

theorem settleOps_withJob (w : Waiter) : settleOps c (m.withJob w) = m.withJob w := by
  rw [settleOps, show (m.withJob w).fsl.ops = [] from free.noOps]
  rfl

/-- An operation whose slice is free is not kept waiting by others. -/
theorem jobWait_of_free : jobWait c (m.withJob (m.waiter c job key)) (m.waiter c job key) =
    match jobKind c (m.withJob (m.waiter c job key)) (m.waiter c job key)
      ((touchKey c (m.withJob (m.waiter c job key)) (fhOf c m key) key).1.map (·.2)) with
    | .insert => if m.guarded (fhSlot (fhOf c m key)) key then .guard else .place
    | .delete => if m.guardFull (fhSlot (fhOf c m key)) then .turn else .run
    | .other => .run := by
  obtain ⟨ops, -, moves, image, room, -, -⟩ := free
  have open' : blockedAt (m.withJob (m.waiter c job key)) (m.waiter c job key).region (m.waiter c job key).holds (m.waiter c job key).ord = false := by
    simp [blockedAt, Mach.withJob, ops, moves]
  have room' : tableFull (m.withJob (m.waiter c job key)) (m.waiter c job key).region = false := room
  have image' : (m.withJob (m.waiter c job key)).imageDue (m.waiter c job key).region = false := image
  unfold jobWait
  rw [open', room', image']
  exact (if_neg (by simp)).trans (if_neg (by simp))

end

/-- An operation that is carried out at once: what it leaves goes on. -/
theorem storeGo_of_run (free : SliceFree c m key) (runs : jobWait c (m.withJob (m.waiter c job key)) (m.waiter c job key) = .run) (n : Nat) :
    storeGo c (n + 1) (pushJob c m job key) = storeGo c n (jobRun c (m.withJob (m.waiter c job key)) (m.waiter c job key) none) := by
  rw [pushJob_of_free free, storeGo, settleOps_withJob free]
  have once : jobTry c (m.withJob (m.waiter c job key)) (m.waiter c job key) = jobRun c (m.withJob (m.waiter c job key)) (m.waiter c job key) none := by
    refine (if_neg (by simp [Mach.withJob])).trans ?_
    rw [runs]
  exact congrArg (storeGo c n) once

/-- The machine in which an operation is carried out: it is no longer among those that wait. -/
theorem less_withJob (free : SliceFree c m key) (w : Waiter) :
    { m.withJob w with fsl := { (m.withJob w).fsl with jobs := (m.withJob w).fsl.jobs.filter (·.no != w.no) } } = m.takesPlace := by
  have jobs : (m.withJob w).fsl.jobs.filter (·.no != w.no) = m.fsl.jobs := by
    rw [free.noJobs]
    simp [Mach.withJob]
  rw [jobs]
  rfl

/-! ### What leaves the slices' work alone -/

/-- No operation comes or goes. -/
structure KeepsWork (m m' : Mach) : Prop where
  ops : m'.fsl.ops = m.fsl.ops
  jobs : m'.fsl.jobs = m.fsl.jobs

theorem KeepsWork.refl : KeepsWork m m := ⟨rfl, rfl⟩

theorem KeepsWork.trans {m₀ m' : Mach} (h : KeepsWork m₀ m) (h' : KeepsWork m m') : KeepsWork m₀ m' := ⟨h'.ops.trans h.ops, h'.jobs.trans h.jobs⟩

theorem keepsWork_bump (r : Reg) (i j k x : Nat) : KeepsWork m (bump c m r i j k x) := by
  obtain ⟨g, same⟩ := bump_frame c m r i j k x
  rw [same]
  exact ⟨rfl, rfl⟩

theorem keepsWork_raise (cls inst sev detail : Nat) : KeepsWork m (raise c m cls inst sev detail) := by
  obtain ⟨g, same⟩ := raise_frame c m cls inst sev detail
  rw [same]
  exact ⟨rfl, rfl⟩

theorem keepsWork_raise_duo (d : DuoSt) (cls inst sev detail : Nat) : KeepsWork m (raise c { m with duo := d } cls inst sev detail) := by
  obtain ⟨g, same⟩ := raise_frame c { m with duo := d } cls inst sev detail
  rw [same]
  exact ⟨rfl, rfl⟩

theorem keepsWork_setSt (f : Fld) (v i j k : Nat) : KeepsWork m (m.setSt f v i j k) := ⟨rfl, rfl⟩

theorem keepsWork_putSet (k : Nat) (l : List Line) : KeepsWork m (m.putSet k l) := ⟨rfl, rfl⟩

theorem keepsWork_putHbm (region pos : Nat) (r : Option Rec) : KeepsWork m (m.putHbm region pos r) := ⟨rfl, rfl⟩

theorem keepsWork_storeHbm (region pos : Nat) (r : Option Rec) : KeepsWork m (m.storeHbm region pos r) := ⟨rfl, rfl⟩

theorem keepsWork_dropLine (phys pos : Nat) : KeepsWork m (dropLine m phys pos) := ⟨rfl, rfl⟩

theorem keepsWork_dropFailing (region pos : Nat) : KeepsWork m (match m.failing region with
    | some f => dropLine m f pos
    | none => m) := by
  split
  · exact keepsWork_dropLine ..
  · exact .refl

theorem keepsWork_clearPlace (region pos : Nat) : KeepsWork m (clearPlace m region pos) :=
  (keepsWork_putHbm region pos none).trans ((keepsWork_dropLine ..).trans (keepsWork_dropFailing ..))

theorem keepsWork_ovfSub (region b held : Nat) : KeepsWork m (ovfSub c m region b held) := by
  unfold ovfSub
  extract_lets v src m'
  have counted : KeepsWork m m' := by
    unfold m'
    split
    · exact keepsWork_bump ..
    · exact ⟨rfl, rfl⟩
  split
  · exact counted.trans ⟨rfl, rfl⟩
  · exact counted

theorem keepsWork_countRemoved (region b fh : Nat) : KeepsWork m (countRemoved c m region b fh) := by
  unfold countRemoved
  split
  · exact .refl
  · exact keepsWork_ovfSub ..

theorem keepsWork_foldl {α : Type} {f : Mach → α → Mach} (each : ∀ m x, KeepsWork m (f m x)) (l : List α) : KeepsWork m (l.foldl f m) := by
  induction l generalizing m with
  | nil => exact .refl
  | cons x l ih => exact (each m x).trans ih

theorem keepsWork_readBucket (region b : Nat) : KeepsWork m (readBucket c m region b) := by
  refine keepsWork_foldl (fun m s => ?_) _
  extract_lets pos
  split
  · split
    · extract_lets m₁ m₂ m₃ src
      have latched : KeepsWork m₂ m₃ := by
        unfold m₃
        split
        · exact .refl
        · exact (keepsWork_setSt ..).trans ((keepsWork_setSt ..).trans (keepsWork_setSt ..))
      have cleared : KeepsWork m m₁ := (keepsWork_clearPlace ..).trans (keepsWork_countRemoved ..)
      exact cleared.trans ((keepsWork_bump ..).trans (latched.trans (keepsWork_raise_duo ..)))
    · exact .refl
  · exact .refl

theorem touchKey_snd (fh : Nat) :
    (touchKey c m fh key).2 = readBucket c (readBucket c m (fhSlot fh) (fhBucket fh)) (fhSlot fh) (otherBucket fh (fhBucket fh)) := by
  rw [touchKey]

theorem keepsWork_touchKey (fh : Nat) : KeepsWork m (touchKey c m fh key).2 := by
  rw [touchKey_snd]
  exact .trans (keepsWork_readBucket ..) (keepsWork_readBucket ..)

theorem keepsWork_lookupKey (fh : Nat) : KeepsWork m (lookupKey c m fh key).2 := by
  unfold lookupKey
  exact .trans (keepsWork_bump ..) (keepsWork_touchKey fh)

theorem keepsWork_evictLine (region k : Nat) (x : Line) : KeepsWork m (evictLine m region k x) := by
  unfold evictLine
  dsimp only
  split
  · exact (keepsWork_storeHbm ..).trans (keepsWork_putSet ..)
  · exact keepsWork_putSet ..

theorem keepsWork_evict (region n k fuel : Nat) : KeepsWork m (evict region n fuel m k) := by
  induction fuel generalizing m with
  | zero => exact .refl
  | succ fuel ih =>
    unfold evict
    dsimp only
    split
    · exact .refl
    split
    · exact (keepsWork_evictLine ..).trans ih
    · exact .refl

theorem keepsWork_putLine (region pos : Nat) (r : Rec) (dirty half : Bool) : KeepsWork m (putLine c m region pos r dirty half) := by
  unfold putLine
  extract_lets phys k old m₁ n m₂ theirs m₃ extra was m₄ dirty'
  have counted : KeepsWork m₃ m₄ := by
    unfold m₄
    split
    · exact keepsWork_bump ..
    · exact .refl
  exact (keepsWork_putSet ..).trans ((keepsWork_evict ..).trans ((keepsWork_dropFailing region pos).trans (counted.trans (keepsWork_putSet ..))))

theorem keepsWork_putRec (region : Nat) (pl : Spot) (r : Rec) : KeepsWork m (putRec c m region pl r) := by
  rcases pl with _ | pos
  · exact ⟨rfl, rfl⟩
  · exact keepsWork_putLine ..

end
end Sys2Proof.Machine

/-! Write-backs, and the end of a takeover (R111, R117). -/
namespace Sys2Proof.Machine

section
variable {s : State} {c : Cfg} {m : Mach} {w : WriteBack}

/-- A slice that has carried out an operation, and has no other, goes on. -/
theorem settle_of_run {key : List Byte} {job : Job} {m' : Mach} (free : SliceFree c m key)
    (runs : jobWait c (m.withJob (m.waiter c job key)) (m.waiter c job key) = .run)
    (left : jobRun c (m.withJob (m.waiter c job key)) (m.waiter c job key) none = m') (ops : m'.fsl.ops = []) (jobs : m'.fsl.jobs = []) :
    settle c (pushJob c m job key) = retryCmds c (roundsForLoss c (storeGo c 1 m')) := by
  have pushed : (pushJob c m job key).fsl.jobs.length = 1 := by
    rw [pushJob_of_free free]
    rfl
  rw [settle, pushed, storeGo_of_run free runs, left, storeGo_of_idle _ ops jobs, storeGo_of_idle _ ops jobs]

/-! ### Write-backs -/

/-- The machine without a write-back. -/
def Mach.lessWb (m : Mach) (w : WriteBack) : Mach := { m with fsl := { m.fsl with wbs := m.fsl.wbs.erase w } }

theorem SliceFree.lessWb {key : List Byte} (free : SliceFree c m key) : SliceFree c (m.lessWb w) key where
  noOps := free.noOps
  noJobs := free.noJobs
  noMoves := free.noMoves
  noImage := free.noImage
  room := free.room
  unguarded := free.unguarded
  guardRoom := free.guardRoom

theorem wbApply_of_still {region : Nat} (still : (m.fsl.wbs.find? fun w => fhSlot w.fh == region) = none ∨ tableFull m region = true) :
    wbApply c m region = m := by
  unfold wbApply
  rcases still with none | full
  · rw [none]
  · split
    · rfl
    · exact if_pos full

section
variable {region : Nat} (found : (m.fsl.wbs.find? fun w => fhSlot w.fh == region) = some w) (room : tableFull m region = false)
include found

theorem fhSlot_of_found : fhSlot w.fh = region := by
  have slot := List.find?_some found
  exact eq_of_beq slot

include room

theorem wbApply_of_found : wbApply c m region = admitWb c (m.lessWb w) w := by
  rw [wbApply, found]
  exact if_neg (by rw [room]; decide)

theorem wbApply_of_late (late : 10 * c.get fstGuardCfgReinsertGuard - 10 ≤ (m.stamp + 65536 - w.stamp) % 65536) :
    wbApply c m region = wbOrphan c (m.lessWb w) region :=
  (wbApply_of_found found room).trans ((if_pos late).trans (by rw [fhSlot_of_found found]))

theorem wbApply_of_early (early : ¬10 * c.get fstGuardCfgReinsertGuard - 10 ≤ (m.stamp + 65536 - w.stamp) % 65536) :
    wbApply c m region = pushJob c (m.lessWb w) (.wb w) w.key := (wbApply_of_found found room).trans (if_neg early)

end

theorem jobWait_wb (free : SliceFree c m w.key) : jobWait c (m.withJob (m.waiter c (.wb w) w.key)) (m.waiter c (.wb w) w.key) = .run := by
  rw [jobWait_of_free free]
  rfl

theorem jobRun_wb (free : SliceFree c m w.key) :
    jobRun c (m.withJob (m.waiter c (.wb w) w.key)) (m.waiter c (.wb w) w.key) none = wbRun c m.takesPlace m.fsl.nextOrd w := by
  rw [jobRun, less_withJob free]
  rfl

/-- A write-back's slice goes on with what it leaves. -/
theorem settle_wb (free : SliceFree c m w.key) {m' : Mach} (left : wbRun c m.takesPlace m.fsl.nextOrd w = m') (kept : KeepsWork m.takesPlace m') :
    settle c (pushJob c m (.wb w) w.key) = retryCmds c (roundsForLoss c (storeGo c 1 m')) :=
  settle_of_run free (jobWait_wb free) ((jobRun_wb free).trans left) (kept.ops.trans free.noOps) (kept.jobs.trans free.noJobs)

section
variable {no : Nat} {x : Option (Spot × Rec) × Mach} (looked : lookupKey c m w.fh w.key = x)
include looked

theorem wbRun_of_none (none : x.1 = none) : wbRun c m no w = wbOrphan c x.2 (fhSlot w.fh) := by
  unfold wbRun
  rw [looked]
  obtain ⟨_, m'⟩ := x
  dsimp only at none ⊢
  rw [none]
  rfl

section
variable {pl : Spot} {r : Rec} (here : x.1 = some (pl, r))
include here

theorem wbRun_of_other (other : r.created ≠ w.created) : wbRun c m no w = wbOrphan c x.2 (fhSlot w.fh) := by
  have gone : (some (pl, r)).filter (fun x => x.2.created == w.created) = none := by simp [Option.filter, other]
  unfold wbRun
  rw [looked]
  obtain ⟨_, m'⟩ := x
  dsimp only at here ⊢
  rw [here, gone]

/-- The machine in which a write-back has been applied to its record. -/
def wbApplied (c : Cfg) (m : Mach) (no : Nat) (w : WriteBack) (pl : Spot) (r : Rec) : Mach :=
  let m := putRec c m (fhSlot w.fh) pl (applyWb r w)
  let m := { m with fsl := { m.fsl with wbDone := (m.fsl.wbDone.filter fun e => decide (m.up < e.2.1 + 20)) ++ [(w, m.up, no)] } }
  bump c m .fslCnt (m.phys (fhSlot w.fh)) cFslWbApplied

theorem wbRun_of_applied (off : duoOn c = false) (same : r.created = w.created) (quiet : w.now = false) : wbRun c m no w = wbApplied c x.2 no w pl r := by
  have kept : (some (pl, r)).filter (fun x => x.2.created == w.created) = some (pl, r) := by simp [Option.filter, same]
  unfold wbRun
  rw [looked]
  obtain ⟨_, m'⟩ := x
  dsimp -zeta only at here ⊢
  rw [here, kept]
  have role : roleNow c m' w.fh r = (r, m') := by simp [roleNow, promoteRec, shadowRec, inShadow, off]
  have change : emitChange c m' (applyWb r w) false none = (applyWb r w, m') := by simp [emitChange, off]
  dsimp -zeta only
  rw [role]
  dsimp -zeta only
  rw [change]
  dsimp -zeta only
  rw [quiet]
  rfl

end
end

theorem keepsWork_wbApplied (no : Nat) (pl : Spot) (r : Rec) : KeepsWork m (wbApplied c m no w pl r) := by
  unfold wbApplied
  extract_lets m₁ src m₂
  have put : KeepsWork m m₁ := keepsWork_putRec ..
  have done : KeepsWork m₁ m₂ := ⟨rfl, rfl⟩
  exact (put.trans done).trans (keepsWork_bump ..)


theorem wbExpire_of_young (young : ∀ w ∈ m.fsl.wbs, m.up ≤ w.issued + 100_000) : wbExpire c m = m := by
  have none : (m.fsl.wbs.filter fun w => decide (w.issued + 100_000 < m.up)) = [] :=
    List.filter_eq_nil_iff.mpr fun w mem => by simpa using young w mem
  rw [wbExpire, none]
  rfl

theorem wbExpire_of_one (only : m.fsl.wbs = [w]) (old : w.issued + 100_000 < m.up) :
    wbExpire c m = bump c { m with fsl := { m.fsl with wbs := [] } } .fslCnt (m.phys (fhSlot w.fh)) cFslWbOrphan := by
  have expired : ([w].filter fun w => decide (w.issued + 100_000 < m.up)) = [w] := List.filter_eq_self.mpr (by simpa using old)
  have none : [w].erase w = [] := List.erase_cons_head ..
  rw [wbExpire, only, expired, List.foldl_cons, List.foldl_nil, only, none]
  rfl

/-! ### The end of a takeover -/

section
variable {t : Takeover}

/-- The dirty lines of a failed slice. -/
def Mach.dirtyLines (m : Mach) (failed : Nat) : List Line := ((m.fsl.cache.filter fun e => e.1 / 8192 == failed).flatMap (·.2)).filter (·.dirty)

/-- A failed slice's cache is empty, the slice offline and its slot served by the spare. -/
def Mach.offlined (m : Mach) (t : Takeover) : Mach :=
  { m with fsl := { m.fsl with
    cache := m.fsl.cache.filter fun e => e.1 / 8192 != t.failed, takeover := none, spareAvail := false
    offline := t.failed :: m.fsl.offline
    mapState := Tbl.put 0 m.fsl.mapState t.slot (if m.rebuilding t.slot then 2 else 0) } }

/-- The failed slice's dirty lines reach the region, or are lost. -/
def dirtyWritten (c : Cfg) (m : Mach) (t : Takeover) : Mach :=
  if t.loses then
    bump c (if m.dirtyLines t.failed = [] then m else raise c { m with duo := { m.duo with lost := true } } 16 t.slot DEGRADED) .fslCnt t.failed cFslLostLine
      (x := (m.dirtyLines t.failed).length)
  else (m.dirtyLines t.failed).foldl (fun m l => m.putHbm t.slot l.pos (some l.rcd)) m

theorem keepsWork_dirtyWritten : KeepsWork m (dirtyWritten c m t) := by
  unfold dirtyWritten
  split
  · refine .trans ?_ (keepsWork_bump ..)
    split
    · exact .refl
    · exact keepsWork_raise_duo ..
  · exact keepsWork_foldl (fun m l => keepsWork_putHbm ..) _

theorem settleOps_of_no_ops (none : m.fsl.ops = []) : settleOps c m = m := by
  rw [settleOps, none]
  rfl

theorem takeoverEnd_of_none (none : m.fsl.takeover = none) : takeoverEnd c m = m := by
  rw [takeoverEnd, none]

theorem takeoverEnd_of_idle (found : m.fsl.takeover = some t) (idle : m.fsl.ops = []) :
    takeoverEnd c m = raise c ((dirtyWritten c m t).offlined t) 19 0 DEGRADED := by
  have still : settleOps c ((dirtyWritten c m t).offlined t) = (dirtyWritten c m t).offlined t :=
    settleOps_of_no_ops (keepsWork_dirtyWritten.ops.trans idle)
  unfold takeoverEnd
  rw [found]
  exact congrArg (raise c · 19 0 DEGRADED) still

end

/-! ### The stash image -/

theorem imageLoaded_of_none (none : m.fsl.imagesDue = []) : imageLoaded c m = m := by
  rw [imageLoaded, none]

end

/-- Settles O49, each outcome of a write-back, of the end of a takeover and of a stash image in turn. -/
theorem writeBacksAndTakeoversReachTheirRecords : Obligations.WriteBacksAndTakeoversReachTheirRecords := by
  unfold Obligations.WriteBacksAndTakeoversReachTheirRecords
  refine ⟨fun s live off => ⟨fun region => ?_, fun young => ?_, fun w only old => ?_⟩, fun s live => ?_⟩
  · have row : exec (.writebackApply region) s = .next (s.withM (settle s.conf (wbApply s.conf s.mach region))) := State.onSettle_live live fun c m => wbApply c m region
    intro found now orphan
    refine ⟨fun still => by rw [row, wbApply_of_still still], fun w first room => ?_⟩
    have slot := fhSlot_of_found first
    intro m late
    refine ⟨fun isLate => ?_, fun early => ?_, fun early free hash => ?_⟩
    · rw [row, wbApply_of_late first room isLate]
      rfl
    · rw [row, wbApply_of_early first room early]
      rfl
    · have free' : SliceFree s.conf (s.mach.lessWb w) w.key := free.lessWb
      have goes {m' : Mach} (left : wbRun s.conf (s.mach.lessWb w).takesPlace (s.mach.lessWb w).fsl.nextOrd w = m')
          (kept : KeepsWork (s.mach.lessWb w).takesPlace m') : exec (.writebackApply region) s = s.goesOn m' := by
        rw [row, wbApply_of_early first room early, settle_wb free' left kept]
        rfl
      have looked : KeepsWork (s.mach.lessWb w).takesPlace (lookupKey s.conf (s.mach.lessWb w).takesPlace w.fh w.key).2 := keepsWork_lookupKey _
      intro x
      refine ⟨fun none => ?_, fun pl r here => ⟨fun other => ?_, fun same quiet => ?_⟩⟩
      · rw [goes (wbRun_of_none rfl none) (looked.trans (keepsWork_bump ..)), slot]
        rfl
      · rw [goes (wbRun_of_other rfl here other) (looked.trans (keepsWork_bump ..)), slot]
        rfl
      · rw [goes (wbRun_of_applied rfl here off same quiet) (looked.trans (keepsWork_wbApplied ..)), wbApplied, slot]
        rfl
  · rw [show exec .writebackHoldExpiry s = .next (s.withM (wbExpire s.conf s.mach)) from State.on_live live wbExpire, wbExpire_of_young young, State.withM_mach]
  · rw [show exec .writebackHoldExpiry s = .next (s.withM (wbExpire s.conf s.mach)) from State.on_live live wbExpire, wbExpire_of_one only old]
  · have image : exec .stashImageLoaded s = .next (s.withM (settle s.conf (imageLoaded s.conf s.mach))) := State.onSettle_live live imageLoaded
    have ended : exec .takeoverWritebackDone s = .next (s.withM (settle s.conf (takeoverEnd s.conf s.mach))) := State.onSettle_live live takeoverEnd
    intro now
    refine ⟨fun none => by rw [image, imageLoaded_of_none none], fun slot rest due => ?_, fun none => by rw [ended, takeoverEnd_of_none none],
      fun t found idle => ?_⟩
    · intro m
      have loaded : imageLoaded s.conf s.mach = settleOps s.conf m := by
        rw [imageLoaded, due]
      exact ⟨by rw [image, loaded], fun idle => by rw [image, loaded, settleOps_of_no_ops (m := m) idle]⟩
    · intro dirty off
      refine ⟨fun keeps => ?_, fun loses some' => ?_⟩
      · rw [ended, takeoverEnd_of_idle found idle, dirtyWritten, if_neg (by rw [keeps]; decide)]
        rfl
      · rw [ended, takeoverEnd_of_idle found idle, dirtyWritten, if_pos loses, if_neg (show s.mach.dirtyLines t.failed ≠ [] from some')]
        rfl

end Sys2Proof.Machine

/-! What an event that is posted, and the governor's evaluation, leave as it was (R334, R430, R432, R436). -/
namespace Sys2Proof.Machine

/-- A step that writes registers, rings, ports and outputs alone. -/
def Posts (m m' : Mach) : Prop := ∃ g h o, m' = { m with reg := g, hif := h, out := o }

/-- A step that writes these and the governor's state alone. -/
def Governs (m m' : Mach) : Prop := ∃ g h p o, m' = { m with reg := g, hif := h, pwr := p, out := o }

section
variable {c : Cfg} {m m₁ m₂ : Mach}

/-! ### Events -/

theorem Posts.refl : Posts m m := ⟨m.reg, m.hif, m.out, rfl⟩

theorem Posts.trans (first : Posts m m₁) (second : Posts m₁ m₂) : Posts m m₂ := by
  obtain ⟨g, h, o, rfl⟩ := first
  obtain ⟨g', h', o', rfl⟩ := second
  exact ⟨g', h', o', rfl⟩

theorem Posts.pwr (posts : Posts m m₁) : m₁.pwr = m.pwr := by
  obtain ⟨g, h, o, rfl⟩ := posts
  rfl

theorem posts_bump (r : Reg) (i j k x : Nat) : Posts m (bump c m r i j k x) := by
  obtain ⟨g, frame⟩ := bump_frame c m r i j k x
  exact ⟨g, m.hif, m.out, frame⟩

theorem posts_setRing (r : Nat) (x : Ring) : Posts m (m.setRing r x) := ⟨m.reg, _, m.out, rfl⟩

theorem posts_setPort (p : Nat) (x : HostPort) : Posts m (m.setPort p x) := ⟨m.reg, _, m.out, rfl⟩

theorem posts_emit (o : Output) : Posts m (m.emit o) := ⟨m.reg, m.hif, _, rfl⟩

theorem posts_setSt (f : Fld) (v i j k : Nat) : Posts m (m.setSt f v i j k) := ⟨_, m.hif, m.out, rfl⟩

theorem posts_deliverIrq (r : Nat) : Posts m (deliverIrq c m r) := by
  unfold deliverIrq
  extract_lets x m₁ m₂ w
  have counted : Posts m m₂ := (posts_setRing r _).trans (posts_bump ..)
  split
  · exact counted.trans (posts_setSt ..)
  · exact counted.trans (posts_emit _)

theorem posts_dueIrq (r : Nat) : Posts m (dueIrq c m r) := by
  unfold dueIrq
  extract_lets x p m₁ 
  have waits : Posts m m₁ := posts_setRing r _
  split
  · split
    · exact ((waits.trans (posts_setPort ..)).trans (posts_emit _)).trans (posts_bump ..)
    · exact waits
  · split
    · exact waits
    · split
      · split
        · exact waits
        · exact waits.trans (posts_setPort ..)
      · exact posts_deliverIrq r

theorem posts_checkCount (r : Nat) : Posts m (checkCount c m r) := by
  unfold checkCount
  extract_lets x
  split
  · exact posts_dueIrq r
  · exact .refl

theorem posts_writeDesc (r opc status flags : Nat) (ctx : BitVec 32) (body : List Byte) : Posts m (writeDesc c m r opc status flags ctx body) := by
  unfold writeDesc
  extract_lets x m₁ m₂ wrap m₃
  exact (((posts_emit _).trans (posts_emit _)).trans (posts_setRing ..)).trans (posts_checkCount r)

theorem posts_writeEntries (seq : BitVec 32) (type : Nat) (bodies : List (List Byte)) (r : Nat) : Posts m (writeEntries c seq type bodies m r) := by
  induction bodies generalizing m with
  | nil => exact .refl
  | cons b bs ih => exact (posts_writeDesc ..).trans ih

theorem posts_writeEvt (r : Nat) (e : Evt) : Posts m (writeEvt c m r e) := (posts_writeEntries ..).trans (posts_setRing ..)

theorem posts_holdEvt (r : Nat) (e : Evt) : Posts m (holdEvt c m r e) := by
  unfold holdEvt
  extract_lets x
  split
  · exact (posts_setRing ..).trans (posts_bump ..)
  · split <;> exact posts_setRing ..

theorem posts_postEvent (e : Evt) : Posts m (postEvent c m e) := by
  unfold postEvent
  split
  · exact posts_bump ..
  · next r _ =>
    extract_lets x
    split
    · exact posts_writeEvt r e
    · exact posts_holdEvt r e

theorem posts_pwrReport (q : LeaveReq) (outcome reason : Nat) : Posts m (pwrReport c m q outcome reason) := by
  unfold pwrReport
  extract_lets shown counted evt
  have shows : Posts m shown := by
    unfold shown
    split
    · exact .refl
    · exact (((posts_setSt ..).trans (posts_setSt ..)).trans (posts_setSt ..)).trans (posts_setSt ..)
  have counts : Posts m counted := by
    unfold counted
    repeat' split
    · exact shows.trans (posts_bump ..)
    · exact shows.trans (posts_bump ..)
    · exact shows.trans (posts_bump ..)
    · exact shows
  split
  · exact counts.trans (posts_postEvent _)
  · exact counts

/-! ### The governor -/

theorem Posts.governs (posts : Posts m m₁) : Governs m m₁ := by
  obtain ⟨g, h, o, rfl⟩ := posts
  exact ⟨g, h, m.pwr, o, rfl⟩

theorem Governs.refl : Governs m m := Posts.refl.governs

theorem Governs.trans (first : Governs m m₁) (second : Governs m₁ m₂) : Governs m m₂ := by
  obtain ⟨g, h, p, o, rfl⟩ := first
  obtain ⟨g', h', p', o', rfl⟩ := second
  exact ⟨g', h', p', o', rfl⟩

theorem Governs.fsl (governs : Governs m m₁) : m₁.fsl = m.fsl := by
  obtain ⟨g, h, p, o, rfl⟩ := governs
  rfl

theorem governs_pwr (p : PwrSt) : Governs m { m with pwr := p } := ⟨m.reg, m.hif, p, m.out, rfl⟩

theorem governs_foldl {α : Type} {f : Mach → α → Mach} (steps : ∀ m x, Governs m (f m x)) (l : List α) : Governs m (l.foldl f m) := by
  induction l generalizing m with
  | nil => exact .refl
  | cons x l ih => exact (steps m x).trans ih

theorem governs_leaveGrants (fuel : Nat) : Governs m (leaveGrants c fuel m) := by
  induction fuel generalizing m with
  | zero => exact .refl
  | succ fuel ih =>
    unfold leaveGrants
    split
    · exact .refl
    · split
      · exact .refl
      · exact ((governs_pwr _).trans (posts_pwrReport ..).governs).trans ih

theorem governs_leaveEval : Governs m (leaveEval c m) := by
  refine (governs_leaveGrants _).trans (governs_foldl (fun m q => ?_) _)
  split
  · exact .refl
  · exact (governs_pwr _).trans (posts_pwrReport ..).governs

theorem governs_releaseLeave (op unit : Nat) : Governs m (releaseLeave c m op unit) := by
  unfold releaseLeave
  split
  · exact ((governs_pwr _).trans (posts_pwrReport ..).governs).trans governs_leaveEval
  · exact .refl

end

end Sys2Proof.Machine

/-! The flow store's age, its sweeps, its clear and its exports (R106, R108-R110, R120, R159). -/
namespace Sys2Proof.Machine

section
variable {c : Cfg} {m : Mach} {region : Nat} {x : Sweep}

/-! ### The age and the grid -/

theorem ageTick_of_early (early : m.fsl.ready = false ∨ m.up < m.fsl.ageAt) : ageTick c m = m :=
  if_neg (by rcases early with off | early <;> simp [*])

theorem ageTick_of_due (ready : m.fsl.ready = true) (due : m.fsl.ageAt ≤ m.up) : ageTick c m =
    { m with fsl := { m.fsl with ageNow := (m.fsl.ageNow + 1) % 65536, ageAt := m.fsl.ageAt + 1000 * c.get fstAgeCfgAgeTick } } :=
  if_pos (by simp [*])

/-- The grid has come to its next due time. -/
def Mach.gridOn (m : Mach) (c : Cfg) : Mach := { m with fsl := { m.fsl with due := m.fsl.due + c.get fstSweepCfgInterval * 1_000_000 } }

/-- A due time at one region. -/
def sweepDueAt (c : Cfg) (m : Mach) (region : Nat) : Mach :=
  let x := m.sweepOf region
  let late (m : Mach) : Mach := bump c m .fslCnt (m.phys region) cFslSweepLate
  if x.gridWaits then sweepAsk c (late m) region
  else if x.running.isSome ∨ x.gridNow = true ∨ x.waiting ≠ [] then sweepAsk c (late (m.setSweep region { x with gridWaits := true })) region
  else sweepAsk c (m.setSweep region { x with gridNow := true }) region

theorem sweepDue_of_early (early : m.fsl.ready = false ∨ m.up < m.fsl.due) : sweepDue c m = m :=
  if_pos (by rcases early with off | early <;> simp [*])

section
variable (ready : m.fsl.ready = true) (due : m.fsl.due ≤ m.up)
include ready due

theorem sweepDue_of_off (off : c.on fstSweepCfgEn = false) : sweepDue c m = (List.range 16).foldl (sweepAsk c) (m.gridOn c) :=
  (if_neg (by simp [ready, due])).trans (if_pos (by simp [off]))

theorem sweepDue_of_on (on : c.on fstSweepCfgEn = true) : sweepDue c m = (List.range 16).foldl (sweepDueAt c) (m.gridOn c) := by
  have each : (sweepDueAt c) = fun m region => sweepDueAt c m region := rfl
  rw [each]
  simp only [sweepDueAt]
  refine (if_neg (by simp [ready, due])).trans ((if_neg (by simp [on])).trans ?_)
  simp only [Bool.or_eq_true, decide_eq_true_eq, or_assoc]
  rfl

end

/-! ### A pass begins -/

theorem sweepStart_of_still (still : (m.sweepOf region).next = none ∨ (m.sweepOf region).running.isSome = true ∨ m.holdsLeave opSweep (m.phys region) = false) :
    sweepStart c m region = m := by
  unfold sweepStart
  dsimp only
  cases next : (m.sweepOf region).next with
  | none => rfl
  | some k =>
    refine if_neg ?_
    rcases still with none | running | held
    · simp [next] at none
    · simp [Option.isSome_iff_ne_none.mp running]
    · simp [held]

/-- The grid's pass of a region begins. -/
theorem sweepStart_of_grid (waiting : (m.sweepOf region).waiting = []) (grid : (m.sweepOf region).gridNow = true) (idle : (m.sweepOf region).running = none)
    (held : m.holdsLeave opSweep (m.phys region) = true) :
    sweepStart c m region = m.setSweep region { m.sweepOf region with
      running := some .sweep, cursor := 0, found := [], passes := (m.sweepOf region).passes + 1, prev := (m.sweepOf region).start, start := m.fsl.ageNow
      gridNow := false
      delta := decide (c.get duoSyncCfgDeltaEvery ≠ 0) && decide (((m.sweepOf region).passes + 1) % c.get duoSyncCfgDeltaEvery = 0) } := by
  have next : (m.sweepOf region).next = some .sweep := by simp [Sweep.next, waiting, grid]
  unfold sweepStart
  dsimp only
  rw [next]
  refine (if_pos (by simp [idle, held])).trans ?_
  simp only [sweepBegin, waiting, grid, List.erase_nil, List.contains_nil, Bool.false_or, Bool.true_and, bne_self_eq_false, reduceCtorEq, if_false]

/-! ### The sweeper's visit -/

theorem sweeperVisit_of_still (still : (m.sweepOf region).running = none ∨ (m.sweepOf region).found ≠ [] ∨
    visitHeld c m region (nextSpot m region) (m.sweepOf region) = true) : sweeperVisit c m region = m := by
  refine if_pos ?_
  rcases still with idle | found | held
  · simp [idle]
  · simp [found]
  · simp [held]

section
variable (running : (m.sweepOf region).running.isSome = true) (none : (m.sweepOf region).found = [])
    (free : visitHeld c m region (nextSpot m region) (m.sweepOf region) = false)
include running none free

theorem visits : ¬((m.sweepOf region).running.isNone || decide ((m.sweepOf region).found ≠ []) || visitHeld c m region (nextSpot m region) (m.sweepOf region)) := by
  simp [Option.isSome_iff_ne_none.mp running, none, free]

theorem sweeperVisit_of_end (last : nextSpot m region = cursorEnd) (short : (m.stash region).length ≤ 4096) :
    sweeperVisit c m region = m.setSweep region { m.sweepOf region with cursor := cursorEnd } := by
  have nothing : spotRecs m region cursorEnd = [] := by
    have beyond : (m.stash region)[cursorEnd - 2 ^ 24]? = Option.none := List.getElem?_eq_none (by simpa [cursorEnd] using short)
    rw [spotRecs, if_neg (by decide), beyond]
  have before : ¬cursorEnd < 2 ^ 24 := by decide
  have stop : min cursorEnd (cursorEnd + 1) = cursorEnd := by decide
  refine (if_neg (visits running none free)).trans ?_
  simp only [last, before, if_false, nothing, List.foldl_nil, List.filter_nil, List.map_nil, ite_self, stop]
  rw [← none]

section
variable {pl : Spot} {r : Rec} (bucket : nextSpot m region < 2 ^ 24)
include bucket

/-- A rebuild counts the record it comes to. -/
def countedAt (c : Cfg) (m : Mach) (region : Nat) (x : Sweep) (pl : Spot) (r : Rec) : Mach :=
  if x.running = some .rebuild then countFresh c m region pl r else m

omit running none free bucket in
theorem expired_countedAt (r' : Rec) : expired c (countedAt c m region x pl r) r' = expired c m r' := by
  unfold countedAt countFresh
  split
  · extract_lets p
    rcases pl with _ | pos
    · rfl
    · dsimp only
      split <;> rfl
  · rfl

theorem sweeperVisit_of_one (only : spotRecs (readBucket c m region (nextSpot m region)) region (nextSpot m region) = [(pl, r)]) :
    sweeperVisit c m region =
      ([(pl, r)].filter fun e => !expired c (readBucket c m region (nextSpot m region)) e.2).foldl (fun n e => visitRec c n region (m.sweepOf region) e.1 e.2)
        ((countedAt c (readBucket c m region (nextSpot m region)) region (m.sweepOf region) pl r).setSweep region { m.sweepOf region with
          cursor := nextSpot m region + 1
          found := ([(pl, r)].filter fun e => expired c (readBucket c m region (nextSpot m region)) e.2).map fun e => e.2.key }) := by
  have step : min cursorEnd (nextSpot m region + 1) = nextSpot m region + 1 := Nat.min_eq_right (by unfold cursorEnd; omega)
  have aged (n : Mach) (y : Sweep) (r : Rec) : expired c (n.setSweep region y) r = expired c n r := rfl
  refine (if_neg (visits running none free)).trans ?_
  rw [if_pos bucket]
  dsimp only
  rw [only, step]
  have kept := expired_countedAt (c := c) (m := readBucket c m region (nextSpot m region)) (region := region) (x := m.sweepOf region) (pl := pl) (r := r)
  unfold countedAt at kept ⊢
  simp only [aged, kept, List.foldl_cons, List.foldl_nil]

end
end

/-! ### The second reading -/

theorem eq_mk_of_fst {α β : Type} {x : α × β} {a : α} (first : x.1 = a) : x = (a, x.2) := by rw [← first]

/-- The region's operations and pending entries let a key be read again. -/
def mayRead (c : Cfg) (m : Mach) (region : Nat) (key : List Byte) : Bool :=
  openNow m region (admitted m (fhOf c m key)) && (!tableFull m region || nearby m (fhOf c m key) key)

/-- The first key that was found expired is done with. -/
def Mach.foundOff (m : Mach) (region : Nat) (rest : List (List Byte)) : Mach := m.setSweep region { m.sweepOf region with found := rest }

theorem ageOut_of_none (none : (m.sweepOf region).found = []) : ageOut c m region = m := by
  unfold ageOut
  dsimp only
  rw [none]

section
variable {key : List Byte} {rest : List (List Byte)} (found : (m.sweepOf region).found = key :: rest)
include found

theorem ageOut_of_held (held : mayRead c m region key = false) : ageOut c m region = m := by
  unfold ageOut
  dsimp only
  rw [found]
  refine if_pos ?_
  simpa [mayRead, Bool.and_eq_false_iff, or_iff_not_imp_left] using held

section
variable (may : mayRead c m region key = true)
include may

omit found in
theorem reads : ¬(!openNow m region (admitted m (fhOf c m key)) || (tableFull m region && !nearby m (fhOf c m key) key)) := by
  simpa [mayRead, imp_iff_not_or] using may

theorem ageOut_of_gone {n : Mach} (touched : touchKey c m (fhOf c m key) key = (none, n)) : ageOut c m region = n.foundOff region rest := by
  unfold ageOut
  dsimp only
  rw [found]
  refine (if_neg (reads may)).trans ?_
  rw [touched]
  rfl

/-- What lets the actions of an expired record, and the sweeper's visit to one that stays, be carried out. -/
def ageHeld (c : Cfg) (m : Mach) (region : Nat) (old : Bool) (r : Rec) : Bool :=
  let visits := if old && c.on fstTprofActDelete r.tprof then [] else [r]
  (old && c.on fstTprofActDelete r.tprof && m.guardFull region) || (old && c.on fstTprofActNotify r.tprof && noticeHeld m region) ||
    visitsHeld c m region (m.sweepOf region) visits ||
    !ipfixOpen c m ((visits.filter fun r => activeDue c m (m.sweepOf region) r) ++ if old && c.on fstTprofActExport r.tprof then [r] else [])

/-- The actions of a profile. -/
def agedActs (c : Cfg) (r : Rec) : DelAct :=
  ⟨c.on fstTprofActExport r.tprof, c.on fstTprofActNatReturn r.tprof, c.on fstTprofActDuoDelete r.tprof, c.on fstTprofActNotify r.tprof⟩

section
variable {n : Mach} {pl : Spot} {r : Rec} (touched : touchKey c m (fhOf c m key) key = (some (pl, r), n))
include touched

theorem ageOut_of_waits (held : ageHeld c m region (expired c n r) r = true) : ageOut c m region = m := by
  unfold ageOut
  dsimp only
  rw [found]
  refine (if_neg (reads may)).trans ?_
  rw [touched]
  exact if_pos held

theorem ageOut_of_stays (held : ageHeld c m region (expired c n r) r = false) (stays : (expired c n r && c.on fstTprofActDelete r.tprof) = false) :
    ageOut c m region = if expired c n r then ageKeep c (visitRec c (n.foundOff region rest) region (m.sweepOf region) pl r) region key (agedActs c r)
      else visitRec c (n.foundOff region rest) region (m.sweepOf region) pl r := by
  unfold ageOut
  dsimp only
  rw [found]
  refine (if_neg (reads may)).trans ?_
  rw [touched]
  refine (if_neg (show ¬ageHeld c m region (expired c n r) r = true by rw [held]; decide)).trans ?_
  exact if_neg (by rw [stays]; decide)

theorem ageOut_of_deletes (off : duoOn c = false) (held : ageHeld c m region (expired c n r) r = false)
    (deletes : (expired c n r && c.on fstTprofActDelete r.tprof) = true) :
    ageOut c m region = bump c (deleteWith c (n.foundOff region rest) region pl r (agedActs c r) 1) .fslCnt ((n.foundOff region rest).phys region) cFslAgeDelete := by
  have role : roleNow c (n.foundOff region rest) (fhOf c m key) r = (r, n.foundOff region rest) := by simp [roleNow, promoteRec, shadowRec, inShadow, off]
  unfold ageOut
  dsimp only
  rw [found]
  refine (if_neg (reads may)).trans ?_
  rw [touched]
  refine (if_neg (show ¬ageHeld c m region (expired c n r) r = true by rw [held]; decide)).trans ((if_pos deletes).trans ?_)
  unfold Mach.foundOff at role ⊢
  rw [role]
  rfl

end
end
end

/-! ### A pass ends -/

theorem sweepPassEnd_of_on (on : passOver m region = false) : sweepPassEnd c m region = m :=
  if_pos (by rw [on]; rfl)

theorem sweepAsk_of_none (none : (m.sweepOf region).wants = false) : sweepAsk c m region = m :=
  if_pos (by simp [none])

theorem sweepOf_setSweep_of_ne (ne : x ≠ {}) : (m.setSweep region x).sweepOf region = x := by
  rw [Mach.sweepOf, Mach.setSweep, Tbl.put, if_neg ne, Tbl.look, Tbl.find_ins_self]
  rfl

theorem sweepPassEnd_of_grid (ended : passOver m region = true) (running : (m.sweepOf region).running = some .sweep) (full : (m.sweepOf region).delta = false)
    (noWaits : (m.sweepOf region).waiting = []) (noGrid : (m.sweepOf region).gridNow = false) (nothing : (m.sweepOf region).gridWaits = false)
    (some' : 0 < (m.sweepOf region).passes) :
    sweepPassEnd c m region =
      releaseLeave c (m.setSweep region { m.sweepOf region with running := none, cursor := 0 }) opSweep (m.phys region) := by
  have left : passEnd c m region =
      sweepAsk c (releaseLeave c (m.setSweep region { m.sweepOf region with running := none, cursor := 0 }) opSweep (m.phys region)) region := by
    simp only [passEnd, running, full, noGrid, nothing, Option.some.injEq, reduceCtorEq, if_false, Bool.false_eq_true, Bool.or_false, Bool.and_false]
  have ne : ({ m.sweepOf region with running := none, cursor := 0 } : Sweep) ≠ {} := fun same => by
    have passes : (m.sweepOf region).passes = 0 := congrArg Sweep.passes same
    omega
  have wants : (releaseLeave c (m.setSweep region { m.sweepOf region with running := none, cursor := 0 }) opSweep (m.phys region)).sweepOf region =
      { m.sweepOf region with running := none, cursor := 0 } := by
    rw [Mach.sweepOf, (governs_releaseLeave ..).fsl]
    exact sweepOf_setSweep_of_ne ne
  unfold sweepPassEnd
  rw [if_neg (by rw [ended]; decide)]
  dsimp only
  rw [running]
  refine left.trans (sweepAsk_of_none ?_)
  rw [wants]
  simp [Sweep.wants, noWaits, noGrid]

/-! ### The clear and the exporter -/

theorem storeReady_of_idle (idle : m.fsl.clearing = false) : storeReady c m = m := if_pos (by rw [idle]; rfl)

theorem storeReady_of_clearing (clearing : m.fsl.clearing = true) : storeReady c m = { m with fsl := { m.fsl with
    hbm := [], cache := [], ovf := [], fresh := [], stash := [], retry := [], guard := [], victim := [], ledger := []
    retryAt := (List.range 16).map fun r => (r, m.up + 1000 * c.get fstGuardCfgStashRetry)
    clearing := false, ready := true, ageNow := 0, ageAt := m.up + 1000 * c.get fstAgeCfgAgeTick
    due := m.up + 1_000_000 * c.get fstSweepCfgInterval } } := if_neg (by rw [clearing]; decide)

/-- A collector's message, once its time has passed. -/
def flushDue (n : Nat) (c : Cfg) (m : Mach) : Mach := if (Tbl.look {} m.fsl.ipfix n).since + 1000 * c.get fstIpfixCfgFlush ≤ m.up then ipfixFlush c m n else m

theorem flushDue_of_still {n : Nat} (still : m.up < (Tbl.look {} m.fsl.ipfix n).since + 1000 * c.get fstIpfixCfgFlush ∨ (Tbl.look {} m.fsl.ipfix n).recs = [] ∨
    m.glb.outputs = false) : flushDue n c m = m := by
  unfold flushDue
  rcases still with early | rest
  · exact if_neg (by omega)
  · have same : ipfixFlush c m n = m := if_pos (by rcases rest with none | off <;> simp [*])
    rw [same, ite_self]

/-- The templates' time begins anew. -/
def Mach.refreshed (m : Mach) : Mach := { m with fsl := { m.fsl with tmplAt := m.up } }

/-- The templates, once their time has passed. -/
def refreshDue (c : Cfg) (m : Mach) : Mach :=
  if m.fsl.tmplAt + 1_000_000_000 * c.get fstIpfixTimersTmplRefresh ≤ m.up then ipfixTemplates c m.refreshed else m

theorem ipfixTemplates_of_off (off : c.on fstIpfixCfgEn = false ∨ m.glb.outputs = false) : ipfixTemplates c m = m :=
  if_pos (by rcases off with off | off <;> simp [off])

theorem ipfixTemplates_of_one {n : Nat} (on : c.on fstIpfixCfgEn = true) (outputs : m.glb.outputs = true)
    (one : (pick 16 fun n => c.on fstCollEn n) = [n]) :
    ipfixTemplates c m = ipfixOut c m n (ipfixMsg c m (Tbl.look {} m.fsl.ipfix n).seq
      (beBytes 2 2 ++ beBytes 2 ((ipfixTemplate false ++ ipfixTemplate true).length + 4) ++ (ipfixTemplate false ++ ipfixTemplate true))) := by
  refine (if_neg (by simp [on, outputs])).trans ?_
  rw [one]
  rfl

end

/-- Settles O50: the age, the grid, a pass's beginning, visit, second reading and end, the clear and the exporter in turn. -/
theorem flowStoreAgesSweepsAndExports : Obligations.FlowStoreAgesSweepsAndExports := by
  unfold Obligations.FlowStoreAgesSweepsAndExports
  intro s live now
  refine ⟨?_, ?_, fun region => ?_, fun region => ?_, fun region => ?_, fun region => ?_, ?_, fun n => ?_, ?_⟩
  · have row : exec .ageTick s = .next (s.withM (ageTick s.conf s.mach)) := State.on_live live ageTick
    exact ⟨fun early => by rw [row, ageTick_of_early early, State.withM_mach], fun ready due => by rw [row, ageTick_of_due ready due]⟩
  · have row : exec .sweepDue s = .next (s.withM (settle s.conf (sweepDue s.conf s.mach))) := State.onSettle_live live sweepDue
    refine ⟨fun early => by rw [row, sweepDue_of_early early], fun ready due => ⟨fun off => ?_, fun on => ?_⟩⟩
    · rw [row, sweepDue_of_off ready due off]
      rfl
    · rw [row, sweepDue_of_on ready due on]
      rfl
  · have row : exec (.sweepPassStart region) s = .next (s.withM (settle s.conf (sweepStart s.conf s.mach region))) :=
      State.onSettle_live live fun c m => sweepStart c m region
    refine ⟨fun still => by rw [row, sweepStart_of_still still], fun waiting grid idle held => ?_⟩
    rw [row, sweepStart_of_grid waiting grid idle held]
  · have row : exec (.sweeperVisit region) s = .next (s.withM (settle s.conf (sweeperVisit s.conf s.mach region))) :=
      State.onSettle_live live fun c m => sweeperVisit c m region
    refine ⟨fun still => by rw [row, sweeperVisit_of_still still], fun running none free => ⟨fun last short => ?_, fun pl r bucket => ?_⟩⟩
    · rw [row, sweeperVisit_of_end running none free last short]
    · intro m m' only
      refine ⟨fun old => ?_, fun young => ?_⟩
      · have none' : ([(pl, r)].filter fun e => !expired s.conf m e.2) = [] := by simp [old]
        have one : ([(pl, r)].filter fun e => expired s.conf m e.2) = [(pl, r)] := by simp [old]
        rw [row, sweeperVisit_of_one running none free bucket only, none', one]
        rfl
      · have one : ([(pl, r)].filter fun e => !expired s.conf m e.2) = [(pl, r)] := by simp [young]
        have none' : ([(pl, r)].filter fun e => expired s.conf m e.2) = [] := by simp [young]
        rw [row, sweeperVisit_of_one running none free bucket only, none', one]
        rfl
  · have row : exec (.ageOut region) s = .next (s.withM (settle s.conf (ageOut s.conf s.mach region))) :=
      State.onSettle_live live fun c m => ageOut c m region
    refine ⟨fun none => by rw [row, ageOut_of_none none], fun key rest found => ?_⟩
    intro fh may got m
    have read : touchKey s.conf s.mach fh key = got := rfl
    clear_value got
    refine ⟨fun held => by rw [row, ageOut_of_held found held], fun reads absent => ?_, fun pl r reads here => ?_⟩
    · have touched : touchKey s.conf s.mach (fhOf s.conf s.mach key) key = (none, got.2) := read.trans (eq_mk_of_fst absent)
      rw [row, ageOut_of_gone found reads touched]
      rfl
    · have touched : touchKey s.conf s.mach (fhOf s.conf s.mach key) key = (some (pl, r), got.2) := read.trans (eq_mk_of_fst here)
      have gone : m = got.2.foundOff region rest := rfl
      intro act old out
      rw [row, gone]
      clear_value m
      have aged : expired s.conf got.2 r = old := rfl
      refine ⟨fun young free opens => ?_, fun isOld deletes full => ?_, fun isOld off quiet => ⟨fun deletes room free opens => ?_, fun keeps free opens => ?_⟩⟩
      · have held : ageHeld s.conf s.mach region (expired s.conf got.2 r) r = false := by
          simp only [out, act] at opens
          simpa [ageHeld, aged, young, free] using opens
        rw [ageOut_of_stays found reads touched held (by rw [aged, young]; rfl), aged, young]
        rfl
      · have delete : s.conf.on fstTprofActDelete r.tprof = true := deletes
        rw [ageOut_of_waits found reads touched (by simp [ageHeld, aged, isOld, delete, full])]
      · have delete : s.conf.on fstTprofActDelete r.tprof = true := deletes
        have silent : s.conf.on fstTprofActNotify r.tprof = false := quiet
        have held : ageHeld s.conf s.mach region (expired s.conf got.2 r) r = false := by
          simp only [out, act, isOld] at opens
          simpa [ageHeld, aged, isOld, delete, silent, room, free] using opens
        rw [ageOut_of_deletes found reads touched off held (by rw [aged, isOld, delete]; rfl), agedActs, silent]
      · have keep : s.conf.on fstTprofActDelete r.tprof = false := keeps
        have silent : s.conf.on fstTprofActNotify r.tprof = false := quiet
        have held : ageHeld s.conf s.mach region (expired s.conf got.2 r) r = false := by
          simp only [out, act, isOld] at opens
          simpa [ageHeld, aged, isOld, keep, silent, free] using opens
        rw [ageOut_of_stays found reads touched held (by rw [keep, Bool.and_false]), aged, isOld]
        rfl
  · have row : exec (.sweepPassEnd region) s = .next (s.withM (settle s.conf (sweepPassEnd s.conf s.mach region))) :=
      State.onSettle_live live fun c m => sweepPassEnd c m region
    refine ⟨fun on => by rw [row, sweepPassEnd_of_on on], fun ended running full noWaits noGrid nothing passes => ?_⟩
    rw [row, sweepPassEnd_of_grid ended running full noWaits noGrid nothing passes]
  · have row : exec .fstClearDone s = .next (s.withM (storeReady s.conf s.mach)) := State.on_live live storeReady
    exact ⟨fun idle => by rw [row, storeReady_of_idle idle, State.withM_mach], fun clearing => row.trans (congrArg (fun m => Host.Outcome.next (s.withM m)) (storeReady_of_clearing clearing))⟩
  · have row : exec (.ipfixFlush n) s = .next (s.withM (flushDue n s.conf s.mach)) := State.on_live live (flushDue n)
    refine ⟨fun still => by rw [row, flushDue_of_still still, State.withM_mach], fun due some' outputs => ?_⟩
    have goes : ¬(decide ((Tbl.look {} s.mach.fsl.ipfix n).recs = []) || !s.mach.glb.outputs) := by simp [some', outputs]
    rw [row, flushDue, if_pos due]
    exact congrArg (fun m => Host.Outcome.next (s.withM m)) (if_neg goes)
  · have row : exec .ipfixTemplateRefresh s = .next (s.withM (refreshDue s.conf s.mach)) := State.on_live live refreshDue
    intro due m
    refine ⟨fun early => ?_, fun late off => ?_, fun n late on outputs one => ?_⟩
    · rw [row, refreshDue, if_neg (Nat.not_le.mpr early), State.withM_mach]
    · rw [row, refreshDue, if_pos late, ipfixTemplates_of_off (m := s.mach.refreshed) off]
      rfl
    · rw [row, refreshDue, if_pos late, ipfixTemplates_of_one (m := s.mach.refreshed) on outputs one]
      rfl

end Sys2Proof.Machine

/-! Frames between partners (R279, R280, R285, R287, R290, R291, R302). -/
namespace Sys2Proof.Machine

section
variable {c : Cfg} {m : Mach} {l : Nat} {f b : List Byte}

theorem be_drop (b : List Byte) (k off n : Nat) : be (b.drop k) off n = be b (k + off) n := by
  rw [be, be, slice, slice, List.drop_drop]

theorem byteAt_drop (b : List Byte) (k i : Nat) : byteAt (b.drop k) i = byteAt b (k + i) := by
  simp [byteAt, List.getD_eq_getElem?_getD]

/-! ### A sync frame arrives -/

@[simp] theorem oweSlots_link (pipe n p : Nat) : (oweSlots m pipe n).link p = m.link p := rfl

theorem syncFrameRx_of_no_path (none : pathOf c l = none) : syncFrameRx c m l f = if pathDisabled c l then bump c m .duoCnt cDuoRxBad else m := by
  unfold syncFrameRx
  rw [none]
  rfl

/-- A sync frame names its sender and this device, and the link is in use. -/
def SyncOurs (c : Cfg) (m : Mach) (p : Nat) (f : List Byte) : Prop :=
  bits (be f 16 3) 17 0 = partnerDev c p ∧ bits (be f 19 3) 17 0 = deviceId c ∧ (m.link p).state ≠ 0

section
variable {p path : Nat} (on : pathOf c l = some (p, path))
include on

theorem syncFrameRx_of_other (other : ¬SyncOurs c m p f) :
    syncFrameRx c m l f = bump c (oweSlots m (l / 8) (syncSlots (f.length + 4))) .duoCnt cDuoRxBad := by
  have refused : bits (be (f.drop 14) 2 3) 17 0 ≠ partnerDev c p ∨ bits (be (f.drop 14) 5 3) 17 0 ≠ deviceId c ∨ (m.link p).state = 0 := by
    rw [be_drop, be_drop]
    simpa [SyncOurs, imp_iff_not_or, ← or_assoc] using other
  unfold syncFrameRx
  rw [on]
  exact if_pos (by
    simp only [Bool.or_eq_true, decide_eq_true_eq, or_assoc]
    exact refused)

theorem syncFrameRx_of_ours (ours : SyncOurs c m p f) {ms : List Msg} (read : readMsgs (min 64 (byteAt f 15)) (f.drop 22) = (ms, false))
    (plain : ∀ g ∈ ms, g.type ≠ 8) :
    syncFrameRx c m l f = bump c ((oweSlots m (l / 8) (syncSlots (f.length + 4))).setLink p (ms.foldl (takeMsg path m.up)
      { m.link p with rx := Tbl.ins (m.link p).rx path m.up })) .duoCnt cDuoRxMsg (x := ms.length) := by
  have accepted : ¬(bits (be (f.drop 14) 2 3) 17 0 ≠ partnerDev c p ∨ bits (be (f.drop 14) 5 3) 17 0 ≠ deviceId c ∨ (m.link p).state = 0) := by
    rw [be_drop, be_drop]
    simpa [SyncOurs, not_or] using ours
  have read' : readMsgs (min 64 (byteAt (f.drop 14) 1)) ((f.drop 14).drop 8) = (ms, false) := by
    rw [byteAt_drop, List.drop_drop]
    exact read
  have whole : (ms.findIdx? fun g => decide (g.type = 8) && decide ((m.link p).ver ≠ 2)) = none := by
    rw [List.findIdx?_eq_none_iff]
    intro g mem
    simp [plain g mem]
  unfold syncFrameRx
  rw [on]
  refine (if_neg (by
    simp only [Bool.or_eq_true, decide_eq_true_eq, or_assoc]
    exact accepted)).trans ?_
  rw [oweSlots_link, read']
  dsimp only
  rw [whole, Option.getD_none, List.take_length]
  rfl

end

/-! ### Messages are taken -/

section
variable {path now : Nat} {x : Link} {g : Msg}

theorem takeMsg_of_unsequenced (plain : g.type = 1 ∨ g.type = 5) : takeMsg path now x g = { x with inbox := x.inbox ++ [(g, path)] } :=
  if_pos (by simpa using plain)

theorem takeMsg_of_next (first : g.type ≠ 1) (other : g.type ≠ 5) (turn : seqAhead x.rxSeq g.seq = 0) (none : x.ahead = []) :
    takeMsg path now x g = { x with inbox := x.inbox ++ [(g, path)], rxSeq := (x.rxSeq + 1) % 2 ^ 32 } := by
  refine (if_neg (by simp [first, other])).trans ((if_pos turn).trans ?_)
  simp only [drainAhead, none]
  rfl

end

/-! ### A steered frame arrives -/

/-- A steered frame is of the version known and names this device. -/
def SteeredOurs (c : Cfg) (b : List Byte) : Prop := byteAt b 14 / 16 = 1 ∧ bits (be b 19 3) 17 0 = deviceId c

section
variable {u : Bool} {wire : Nat}

theorem steeredFrameRx_of_other (other : ¬SteeredOurs c b) : steeredFrameRx c m l b u none wire = bump c m .duoCnt cDuoRxBad :=
  if_pos (by
    rw [byteAt_drop, be_drop]
    simpa [SteeredOurs, imp_iff_not_or] using other)

theorem steeredFrameRx_of_ours (ours : SteeredOurs c b) : steeredFrameRx c m l b u none wire =
    storeArrival c (bump c m .duoCnt cDuoSteerIn) l (b.drop 30) u (some (be b 22 8)) none wire := by
  refine (if_neg ?_).trans ?_
  · rw [byteAt_drop, be_drop]
    simpa [SteeredOurs, not_or] using ours
  · rw [be_drop]

end

theorem storeArrival_of_whole {u : Bool} {st : Option Nat} {wire p : Nat} {m' : Mach}
    (stored : storeIngress c m (l / 8) (ownIngress (l / 8)) (b ++ fcsOf b) = some (p, m')) :
    storeArrival c m l b u st none wire = makeReady m' { pipe := l / 8, lport := l, len := b.length, head := p, owner := ownIngress (l / 8), uncontrolled := u
                                                         steered := st, ts := sfdTime c m' l wire } := by
  unfold storeArrival
  simp only [Option.all_none, if_true, stored]
  rfl

/-! ### What waits for a partner -/

section
variable {p : Nat}

theorem helloSend_of_still (still : (m.link p).state = 0 ∨ m.glb.outputs = false ∨ m.up < (m.link p).helloAt + 100 * c.get duoTimersLeasePeriod) :
    helloSend c m p = m :=
  if_pos (by rcases still with down | off | early <;> simp [*])

theorem helloSend_of_due (used : (m.link p).state ≠ 0) (on : m.glb.outputs = true) (due : ¬m.up < (m.link p).helloAt + 100 * c.get duoTimersLeasePeriod) :
    helloSend c m p = m.setLink p { m.link p with
      helloAt := m.up
      wait := (syncPaths c p).foldl (fun t path => Tbl.upd [] t path (· ++ [helloOf c m p])) (m.link p).wait } :=
  if_neg (by simp [used, on, due])

/-- An `ACK` is owed to a partner. -/
def AckDue (m : Mach) (p : Nat) : Prop := (m.link p).ackDue ≠ none ∨ (m.link p).inbox ≠ []

theorem ackSend_of_still (still : streams m p = false ∨ ¬AckDue m p ∨ m.up < (m.link p).ackAt + 100) : ackSend c m p = m := by
  refine if_pos ?_
  rcases still with off | none | early
  · simp [off]
  · have clear : (m.link p).ackDue = Option.none ∧ (m.link p).inbox = [] := by simpa [AckDue, not_or] using none
    simp [clear]
  · simp [early]

theorem ackSend_goes (streams' : streams m p = true) (due : AckDue m p) (late : (m.link p).ackAt + 100 ≤ m.up) :
    ¬(!streams m p || ((m.link p).ackDue.isNone && decide ((m.link p).inbox = [])) || decide (m.up < (m.link p).ackAt + 100)) := by
  have owed : ¬((m.link p).ackDue = none ∧ (m.link p).inbox = []) := by
    rw [not_and_or]
    exact due
  simpa [streams', late] using not_and.mp owed

theorem retxTimeout_of_one {e : Copy} {t : Nat} (only : (m.link p).copies = [e]) (out : e.toSend = false) (open' : e.covered = false)
    (live : e.msg.seq < 2 ^ 32) (sent : e.sent = some t) (late : t + 100 * c.get duoSyncCfgRetx ≤ m.up) :
    retxTimeout c m p = bump c (m.setLink p { m.link p with copies := [{ e with toSend := true }] }) .duoCnt cDuoRetx := by
  unfold retxTimeout
  extract_lets x due n
  have isDue : due e = true := by simpa [due, out, open', sent, late] using live
  have one : x.copies.filter due = [e] := by rw [only, List.filter_cons_of_pos isDue, List.filter_nil]
  have again : (x.copies.map fun e => if due e then { e with toSend := true } else e) = [{ e with toSend := true }] := by
    rw [only, List.map_cons, List.map_nil, if_pos isDue]
  rw [again]
  simp only [n, one]
  rfl

end

/-! ### A frame for a partner -/

section
variable {p path : Nat}

/-- What the next frame on a path carries. -/
def nextMsgs (c : Cfg) (m : Mach) (p path : Nat) : List Msg := fitMsgs (waitingFor c m p path) 64 1492

theorem syncFrameTx_of_still (still : (m.link p).state = 0 ∨ nextMsgs c m p path = [] ∨ m.glb.outputs = false ∨ (syncPaths c p).contains path = false) :
    syncFrameTx c m p path = m := by
  have room : fitMsgs (waitingFor c m p path) 64 (1518 - 26) = nextMsgs c m p path := rfl
  refine if_pos ?_
  rw [room]
  rcases still with down | none | off | other <;> simp_all

theorem syncFrameTx_of_stored {h : Nat} {m₁ m₂ : Mach} (used : (m.link p).state ≠ 0) (some' : nextMsgs c m p path ≠ []) (on : m.glb.outputs = true)
    (path' : (syncPaths c p).contains path = true)
    (stored : storeIngress c m (pathPort c p path / 8) (ownIngress (pathPort c p path / 8))
      (withFcs (syncFrame c p (max 1 (m.link p).ver) (nextMsgs c m p path))) = some (h, m₁))
    (queued : enqueue c m₁ (pathSync c p path)
      { head := h, len := (withFcs (syncFrame c p (max 1 (m.link p).ver) (nextMsgs c m p path))).length, enq := m.todNs % 2 ^ 32
        inLport := pathPort c p path, res := { raw := true }, turn := m.glb.active } = some m₂) :
    syncFrameTx c m p path = bump c
      ((chargeIng (handOver c (oweSlots m₂ (pathPort c p path / 8) (syncSlots (withFcs (syncFrame c p (max 1 (m.link p).ver) (nextMsgs c m p path))).length))
        (ownIngress (pathPort c p path / 8)) h (ownDequeue (queuePort c (pathSync c p path))) 0) (pathPort c p path / 8)
        (-(cellsFor (withFcs (syncFrame c p (max 1 (m.link p).ver) (nextMsgs c m p path))).length : Int))).setLink p
        ((m.link p).sentMsgs path m.up (nextMsgs c m p path))) .duoCnt cDuoTxMsg (x := (nextMsgs c m p path).length) := by
  have room : fitMsgs (waitingFor c m p path) 64 (1518 - 26) = nextMsgs c m p path := rfl
  unfold syncFrameTx
  rw [room]
  refine (if_neg (by simpa [used, some', on] using path')).trans ?_
  dsimp only
  rw [stored]
  dsimp only
  rw [queued]

end

end

/-- A sync frame, on a port whose MAC runs. -/
def syncRx (l : Nat) (f : List Byte) (c : Cfg) (m : Mach) : Mach := if macOn c m l then syncFrameRx c m l f else m

/-- A steered frame, on a port whose MAC runs. -/
def steeredRx (l : Nat) (b : List Byte) (u : Bool) (c : Cfg) (m : Mach) : Mach :=
  if macOn c m l then steeredFrameRx c m l b u none (b.length + 4) else m

theorem macOn_path_off {c : Cfg} {m : Mach} {l : Nat} {f : List Byte} (none : pathOf c l = none) (other : pathDisabled c l = false) : syncRx l f c m = m := by
  rw [syncRx, syncFrameRx_of_no_path none, other, if_neg Bool.false_ne_true, ite_self]

/-- Settles O51: what a sync and a steered frame do, how a message is taken, what begins to wait for a partner, and the frame that takes it. -/
theorem partnersExchangeFrames : Obligations.PartnersExchangeFrames := by
  unfold Obligations.PartnersExchangeFrames
  refine ⟨fun s l f live => ?_, fun path now x g => ⟨takeMsg_of_unsequenced, takeMsg_of_next⟩, fun s l b u live => ?_, fun s p live => ?_,
    fun s p path live => ?_⟩
  · have row : exec (.syncFrameRx l f) s = .next (s.withM (syncRx l f s.conf s.mach)) := State.on_live live (syncRx l f)
    refine ⟨fun off => ?_, fun none other => by rw [row, macOn_path_off none other, State.withM_mach], fun on none disabled => ?_, fun p path on found => ?_⟩
    · rw [row, syncRx, if_neg (by rw [off]; decide), State.withM_mach]
    · rw [row, syncRx, if_pos on, syncFrameRx_of_no_path none, if_pos disabled]
    · intro x m ours
      refine ⟨fun other => ?_, fun ms isOurs read plain => ?_⟩
      · rw [row, syncRx, if_pos on, syncFrameRx_of_other found other]
      · rw [row, syncRx, if_pos on, syncFrameRx_of_ours found isOurs read plain]
  · have row : exec (.steeredFrameRx l b u) s = .next (s.withM (steeredRx l b u s.conf s.mach)) := State.on_live live (steeredRx l b u)
    intro ours
    refine ⟨fun off => ?_, fun on other => ?_, fun p m on isOurs stored => ?_⟩
    · rw [row, steeredRx, if_neg (by rw [off]; decide), State.withM_mach]
    · rw [row, steeredRx, if_pos on, steeredFrameRx_of_other other]
    · rw [row, steeredRx, if_pos on, steeredFrameRx_of_ours isOurs, storeArrival_of_whole stored]
  · intro x early
    refine ⟨fun still => ?_, fun used on due => ?_, ?_, fun e t only out uncovered fresh sent late => ?_⟩
    · have row : exec (.helloSend p) s = .next (s.withM (helloSend s.conf s.mach p)) := State.on_live live fun c m => helloSend c m p
      rw [row, helloSend_of_still still, State.withM_mach]
    · have row : exec (.helloSend p) s = .next (s.withM (helloSend s.conf s.mach p)) := State.on_live live fun c m => helloSend c m p
      rw [row, helloSend_of_due used on due]
    · have row : exec (.ackSend p) s = .next (s.withM (ackSend s.conf s.mach p)) := State.on_live live fun c m => ackSend c m p
      intro due sum ack
      refine ⟨fun still => by rw [row, ackSend_of_still still, State.withM_mach], fun on owed late => row.trans ?_⟩
      exact congrArg (fun m => Host.Outcome.next (s.withM m)) (if_neg (ackSend_goes on owed late))
    · have row : exec (.retxTimeout p) s = .next (s.withM (retxTimeout s.conf s.mach p)) := State.on_live live fun c m => retxTimeout c m p
      rw [row, retxTimeout_of_one only out uncovered fresh sent late]
  · have row : exec (.syncFrameTx p path) s = .next (s.withM (syncFrameTx s.conf s.mach p path)) := State.on_live live fun c m => syncFrameTx c m p path
    intro x ms f pipe q
    refine ⟨fun still => by rw [row, syncFrameTx_of_still still, State.withM_mach], fun h m m' used some' on path' stored queued => ?_⟩
    rw [row, syncFrameTx_of_stored used some' on path' stored queued]
    rfl

end Sys2Proof.Machine

/-! Links, leases, acknowledgements and rounds (R291, R302-R304, R311, R312). -/
namespace Sys2Proof.Machine

/-- One of a list alone changes anything. -/
theorem foldl_of_only {α : Type} {f : Mach → α → Mach} {l : List α} {a : α} (others : ∀ m, ∀ x ∈ l, x ≠ a → f m x = m) (nodup : l.Nodup) (mem : a ∈ l)
    (m : Mach) : l.foldl f m = f m a := by
  induction l generalizing m with
  | nil => exact absurd mem List.not_mem_nil
  | cons x xs ih =>
    obtain ⟨fresh, nodup⟩ := List.nodup_cons.mp nodup
    have rest : ∀ m, ∀ y ∈ xs, y ≠ a → f m y = m := fun m y mem => others m y (List.mem_cons_of_mem x mem)
    rw [List.foldl_cons]
    rcases List.mem_cons.mp mem with same | later
    · subst same
      exact foldl_of_still fun y mem => rest _ y mem fun same => fresh (same ▸ mem)
    · rw [others m x List.mem_cons_self fun same => fresh (same ▸ later)]
      exact ih rest nodup later m

section
variable {c : Cfg} {m : Mach} {p : Nat} {x y : Link} {g : Msg} {n : Nat}

/-! ### A link's state -/

theorem setLink_of_ne (ne : x ≠ {}) : m.setLink p x = { m with duo := { m.duo with links := Tbl.ins m.duo.links p x } } := by
  rw [Mach.setLink, Tbl.put, if_neg ne]

theorem link_setLink (ne : x ≠ {}) : (m.setLink p x).link p = x := by
  rw [setLink_of_ne ne, Mach.link, Tbl.look, Tbl.find_ins_self]
  rfl

theorem setLink_setLink (ne : x ≠ {}) (ne' : y ≠ {}) : (m.setLink p x).setLink p y = m.setLink p y := by
  rw [setLink_of_ne ne, setLink_of_ne ne', setLink_of_ne ne', Tbl.ins_ins]

theorem Link.ne_of_state (used : x.state ≠ 0) : x ≠ {} := fun same => used (congrArg Link.state same)

/-- What an inbox holds behind a message that has been carried out. -/
def Link.inboxLess (x : Link) (g : Msg) : List (Msg × Nat) := x.inbox.eraseIdx ((x.inbox.findIdx? fun e => e.1 == g).getD x.inbox.length)

theorem type_of_nextMsg {type : Nat} (plain : type = 1 ∨ type = 5) (next : nextMsg c m p type = some (g, n)) : g.type = type := by
  have found : (m.link p).inbox.find? (·.1.type == type) = some (g, n) := by
    unfold nextMsg at next
    dsimp only at next
    rwa [if_pos (by simpa using plain)] at next
  exact eq_of_beq (List.find?_some (p := fun e : Msg × Nat => e.1.type == type) found)

theorem carriedOut_of_unsequenced (plain : g.type = 1 ∨ g.type = 5) (refused : Bool) :
    carriedOut m p g refused = m.setLink p { m.link p with inbox := (m.link p).inboxLess g } :=
  if_pos (by simpa using plain)

/-! ### `HELLO` -/

/-- The machine in which a partner's `HELLO` is known. -/
def Mach.greeted (m : Mach) (p : Nat) (g : Msg) : Mach :=
  m.setLink p { m.link p with inbox := (m.link p).inboxLess g, hello := some (helloIn g.body) }

/-- What a `HELLO` says next to what is known of the partner and this device. -/
def Quiet (c : Cfg) (m : Mach) (h : Hello) : Prop := h.yielding = false ∧ yields c m = false

def Rebooted (x : Link) (h : Hello) : Prop := ∃ o, x.hello = some o ∧ o.boot ≠ h.boot

def Changed (x : Link) (h : Hello) : Prop :=
  ∃ o, x.hello = some o ∧ (o.versions ≠ h.versions ∨ o.ageTick ≠ h.ageTick ∨ o.seedCheck ≠ h.seedCheck ∨ o.boot ≠ h.boot)

/-- What a link that stood as `x` does with a `HELLO`, once it is known. -/
def helloGoes (c : Cfg) (m : Mach) (p : Nat) (x : Link) (h : Hello) : Mach :=
  let quiet := !h.yielding && !yields c m
  let rebooted := match x.hello with
    | some o => o.boot != h.boot
    | none => false
  match x.state with
  | 1 | 5 => if quiet then negotiate c (enterLink c m p 2 0) p h else m
  | 2 => if !quiet || rebooted then enterLink c m p 5 0 else negotiate c m p h
  | 3 | 4 => if !quiet || rebooted then enterLink c m p 5 0 else m
  | 6 =>
    match x.hello with
    | some o =>
      if o.versions ≠ h.versions || o.ageTick ≠ h.ageTick || o.seedCheck ≠ h.seedCheck || o.boot ≠ h.boot then
        negotiate c (enterLink c m p 2 0) p h
      else m
    | none => m
  | _ => m

theorem helloRx_eq (h : Hello) : helloRx c m p h = helloGoes c (m.setLink p { m.link p with hello := some h }) p (m.link p) h := rfl

theorem helloGoes_inbox (x : Link) (box : List (Msg × Nat)) (h : Hello) : helloGoes c m p { x with inbox := box } h = helloGoes c m p x h := rfl

theorem helloMsgRx_of_next (used : (m.link p).state ≠ 0) (next : nextMsg c m p 1 = some (g, n)) :
    helloMsgRx c m p = helloGoes c (m.greeted p g) p (m.link p) (helloIn g.body) := by
  have type : g.type = 1 := type_of_nextMsg (.inl rfl) next
  have left : ({ m.link p with inbox := (m.link p).inboxLess g } : Link) ≠ {} := Link.ne_of_state used
  have known : ({ m.link p with inbox := (m.link p).inboxLess g, hello := some (helloIn g.body) } : Link) ≠ {} := Link.ne_of_state used
  unfold helloMsgRx
  rw [next]
  dsimp only
  rw [carriedOut_of_unsequenced (.inl type), helloRx_eq, link_setLink left, helloGoes_inbox, setLink_setLink left known]
  rfl

section
variable {h : Hello}

theorem quiet_iff : (!h.yielding && !yields c m) = true ↔ Quiet c m h := by simp [Quiet]

theorem rebooted_iff : (match x.hello with
    | some o => o.boot != h.boot
    | none => false) = true ↔ Rebooted x h := by
  unfold Rebooted
  cases x.hello <;> simp

theorem helloGoes_of_away (away : x.state = 1 ∨ x.state = 5) :
    (Quiet c m h → helloGoes c m p x h = negotiate c (enterLink c m p 2 0) p h) ∧ (¬Quiet c m h → helloGoes c m p x h = m) := by
  unfold helloGoes
  rcases away with state | state <;> rw [state] <;> exact ⟨fun quiet => if_pos (quiet_iff.mpr quiet), fun loud => if_neg (mt quiet_iff.mp loud)⟩

theorem loud_iff : (!(!h.yielding && !yields c m) || match x.hello with
    | some o => o.boot != h.boot
    | none => false) = true ↔ ¬Quiet c m h ∨ Rebooted x h := by
  rw [Bool.or_eq_true, rebooted_iff, Bool.not_eq_true', ← Bool.not_eq_true, quiet_iff]

theorem helloGoes_of_negotiating (state : x.state = 2) :
    (Quiet c m h → ¬Rebooted x h → helloGoes c m p x h = negotiate c m p h) ∧
      (¬Quiet c m h ∨ Rebooted x h → helloGoes c m p x h = enterLink c m p 5 0) := by
  unfold helloGoes
  rw [state]
  exact ⟨fun quiet same => if_neg (mt loud_iff.mp (not_or.mpr ⟨not_not.mpr quiet, same⟩)), fun lost => if_pos (loud_iff.mpr lost)⟩

theorem helloGoes_of_mirroring (state : x.state = 3 ∨ x.state = 4) :
    (Quiet c m h → ¬Rebooted x h → helloGoes c m p x h = m) ∧ (¬Quiet c m h ∨ Rebooted x h → helloGoes c m p x h = enterLink c m p 5 0) := by
  unfold helloGoes
  rcases state with state | state <;> rw [state] <;>
    exact ⟨fun quiet same => if_neg (mt loud_iff.mp (not_or.mpr ⟨not_not.mpr quiet, same⟩)), fun lost => if_pos (loud_iff.mpr lost)⟩

theorem helloGoes_of_incompatible (state : x.state = 6) :
    (Changed x h → helloGoes c m p x h = negotiate c (enterLink c m p 2 0) p h) ∧ (¬Changed x h → helloGoes c m p x h = m) := by
  unfold helloGoes Changed
  rw [state]
  cases known : x.hello with
  | none => exact ⟨fun changed => absurd changed (by simp), fun _ => rfl⟩
  | some o =>
    refine ⟨fun changed => if_pos ?_, fun same => if_neg ?_⟩
    · simpa [or_assoc] using changed
    · simpa [or_assoc] using same

/-! ### What a `HELLO` decides -/

theorem negotiate_of_no_version (none : commonVersion (c.get duoSyncCfgVersions) h.versions = 0) : negotiate c m p h = enterLink c m p 6 0 := if_pos none

section
variable (common : commonVersion (c.get duoSyncCfgVersions) h.versions ≠ 0)
include common

theorem negotiate_of_tick (other : h.ageTick ≠ c.get fstAgeCfgAgeTick) : negotiate c m p h = enterLink c m p 6 1 := (if_neg common).trans (if_pos other)

section
variable (tick : h.ageTick = c.get fstAgeCfgAgeTick)
include tick

theorem negotiate_of_seed (other : h.seedCheck ≠ seedCheck c m) : negotiate c m p h = enterLink c m p 6 2 :=
  (if_neg common).trans ((if_neg (not_not.mpr tick)).trans (if_pos other))

/-- A link's version is chosen. -/
def Mach.chosen (m : Mach) (c : Cfg) (p : Nat) (h : Hello) : Mach :=
  m.setLink p { m.link p with ver := commonVersion (c.get duoSyncCfgVersions) h.versions }

theorem negotiate_of_seeded (seed : h.seedCheck = seedCheck c m) : negotiate c m p h =
    if (decide (h.chosen = commonVersion (c.get duoSyncCfgVersions) h.versions) && h.hearing) = true then
      beginRound c (enterLink c (m.chosen c p h) p 3 0) p else m.chosen c p h :=
  (if_neg common).trans ((if_neg (not_not.mpr tick)).trans (if_neg (not_not.mpr seed)))

end
end
end

/-! ### The end of a round -/

/-- The entries of a round that has ended are normal again, unless they are excluded. -/
def roundEntries (r : Round) (m : Mach) : Mach :=
  (r.exchanged.getD []).foldl (fun (m : Mach) e => if m.entState e = 3 then m else m.setEnt e 0 false) m

/-- A link without a round, from now on. -/
def Mach.roundless (m : Mach) (p : Nat) : Mach :=
  m.setLink p { m.link p with round := none, roundAt := m.up, upBoot := ((m.link p).hello.map (·.boot)).getD 0 }

theorem advanceRound_of_done {r : Round} (round : (m.link p).round = some r) (pass : r.pass = 3) (sent : bit r.doneTx 3 = true) (heard : bit r.doneRx 3 = true) :
    advanceRound c m p = enterLink c ((roundEntries r m).roundless p) p 4 0 := by
  have told : (if r.pass = 3 && decide (16 ≤ r.ended.length) && !bit r.doneTx 3 && bit r.doneRx 3 then sendDone m p 3 r else m) = m := if_neg (by simp [sent])
  unfold advanceRound
  rw [round]
  refine (if_neg (by simp [pass])).trans ((if_neg (by simp [pass])).trans ?_)
  rw [told]
  dsimp only
  rw [round, Option.getD_some]
  exact if_pos (by simp [sent, heard])

/-! ### Acknowledgements -/

theorem sendLater_setLink (ne : x ≠ {}) (last : x.later = []) : sendLater (m.setLink p x) p = m.setLink p x := by
  have same : ({ x with later := [] } : Link) = x := by rw [← last]
  unfold sendLater
  rw [link_setLink ne]
  dsimp only
  rw [last, List.foldl_nil, same, setLink_setLink ne ne]

/-- A link without one message. -/
def Link.less (x : Link) (g : Msg) : Link := { x with inbox := x.inboxLess g }

/-- A link without one message, and without copies. -/
def Link.freed (x : Link) (g : Msg) : Link := { x with inbox := x.inboxLess g, copies := [] }

theorem ackRx_of_one {e : Copy} (used : (m.link p).state ≠ 0) (next : nextMsg c m p 5 = some (g, n)) (only : (m.link p).copies = [e])
    (live : e.msg.seq < 2 ^ 32) (covered : seqAhead e.msg.seq (be g.body 0 4) < 2 ^ 31) (plain : e.strict = none) (last : (m.link p).later = []) :
    ackRx c m p = ackJob c (m.setLink p ((m.link p).freed g)) e.msg
      (decide (seqAhead e.msg.seq (be g.body 0 4) < 32) && bit (be g.body 8 4) (seqAhead e.msg.seq (be g.body 0 4))) := by
  have type : g.type = 5 := type_of_nextMsg (.inr rfl) next
  have left : (m.link p).less g ≠ {} := Link.ne_of_state used
  have freed : (m.link p).freed g ≠ {} := Link.ne_of_state used
  have taken : carriedOut m p g false = m.setLink p ((m.link p).less g) := carriedOut_of_unsequenced (.inr type) false
  have copies : ((m.link p).less g).copies = [e] := only
  have upTo : (decide (e.msg.seq < 2 ^ 32) && decide (seqAhead e.msg.seq (be g.body 0 4) < 2 ^ 31)) = true := by rw [decide_eq_true live, decide_eq_true covered]; rfl
  have without : ({ (m.link p).less g with copies := [] } : Link) = (m.link p).freed g := rfl
  unfold ackRx
  rw [next]
  dsimp only
  rw [taken, link_setLink left]
  simp only [copies, List.filter_cons, List.filter_nil, upTo, Bool.not_true, Bool.and_false, Bool.false_and, if_true, if_false,
    Bool.false_eq_true, List.append_nil, List.foldl_cons, List.foldl_nil, List.map_nil, strictCovered, plain]
  rw [without, setLink_setLink left freed, sendLater_setLink freed last]

/-! ### Rounds and leases -/

theorem reconcileRx_of_next (next : nextMsg c m p 7 = some (g, n)) :
    reconcileRx c m p = if (m.link p).state = 2 then m else carriedOut (reconcileMsgIn c m p g) p g false := by
  rw [reconcileRx, next]

theorem reconcileMsgIn_of_off (off : mirrors m p = false) : reconcileMsgIn c m p g = m := if_pos (by rw [off]; rfl)

theorem digestPeriod_of_early (early : c.get duoCtrlDigestPeriod = 0 ∨ m.up < (m.link p).roundAt + c.get duoCtrlDigestPeriod * 1_000_000_000) :
    digestPeriod c m p = m := if_pos (by simpa using early)

theorem roundsFrom_of_one (low : p < 8) : roundsFrom c m (· == p) =
    if (m.link p).state = 4 ∧ (m.link p).round = none then beginRound c m p else m := by
  refine (foldl_of_only (fun m n _ other => if_neg (by simp [other])) List.nodup_range (List.mem_range.mpr low) m).trans ?_
  refine if_congr ?_ rfl rfl
  simp

theorem digestPeriod_of_due (low : p < 8) (on : c.get duoCtrlDigestPeriod ≠ 0) (due : (m.link p).roundAt + c.get duoCtrlDigestPeriod * 1_000_000_000 ≤ m.up) :
    digestPeriod c m p = if (m.link p).state = 4 ∧ (m.link p).round = none then beginRound c m p else m := by
  refine Eq.trans (if_neg ?_) (roundsFrom_of_one low)
  simpa [on] using due

theorem leaseOne_eq : leaseOne c m p =
    if ((m.link p).state = 2 ∨ (m.link p).state = 3 ∨ (m.link p).state = 4) ∧ (yields c m = true ∨ leaseHeld c m p = false) then enterLink c m p 5 0 else m := by
  refine if_congr ?_ rfl rfl
  simp [or_assoc]

theorem leaseCheck_of_none (none : ∀ p < 8, (m.link p).state ≠ 2 ∧ (m.link p).state ≠ 3 ∧ (m.link p).state ≠ 4) : leaseCheck c m = m :=
  foldl_of_still fun p mem => by
    obtain ⟨other, other', other''⟩ := none p (List.mem_range.mp mem)
    rw [leaseOne_eq, if_neg (by simp [other, other', other''])]

end

/-- Settles O52: a `HELLO` by the state of its link, the end of a round, an `ACK`, a `RECONCILE`, the digests' period and the leases. -/
theorem linksFollowLeasesAndRounds : Obligations.LinksFollowLeasesAndRounds := by
  unfold Obligations.LinksFollowLeasesAndRounds
  intro s live now
  refine ⟨fun p => ?_, ?_, fun none => ?_⟩
  · have low : p.val < 8 := p.isLt
    have hello : exec (.helloRx p) s = now (helloMsgRx s.conf s.mach p) := State.onSettle_live live fun c m => helloMsgRx c m p
    have ack : exec (.ackRx p) s = now (ackRx s.conf s.mach p) := State.onSettle_live live fun c m => ackRx c m p
    have reconcile : exec (.reconcileRx p) s = now (reconcileRx s.conf s.mach p) := State.onSettle_live live fun c m => reconcileRx c m p
    have digest : exec (.digestPeriodExpiry p) s = now (digestPeriod s.conf s.mach p) := State.onSettle_live live fun c m => digestPeriod c m p
    clear_value now
    intro x rest
    refine ⟨fun none => ?_, fun g n next => ?_, fun r round pass sent heard => advanceRound_of_done round pass sent heard, fun none => ?_,
      fun g n e next used only fresh covered plain last => ?_, fun none => ?_, fun g n next => ⟨fun waits => ?_, fun other off => ?_, fun on => ?_⟩, ?_⟩
    · rw [hello, helloMsgRx, none]
    · intro h m quiet rebooted other lost negotiates
      have goes (used : x.state ≠ 0) : exec (.helloRx p) s = now (helloGoes s.conf m p x h) := hello.trans (congrArg now (helloMsgRx_of_next used next))
      have decided (n : Mach) (runs : exec (.helloRx p) s = now (negotiate s.conf n p h)) : negotiates n := by
        refine ⟨fun none => ?_, fun common tick => ?_, fun common tick => ⟨fun seed => ?_, fun seed => ⟨fun both => ?_, fun alone => ?_⟩⟩⟩
        · rw [runs, negotiate_of_no_version none]
        · rw [runs, negotiate_of_tick common tick]
        · rw [runs, negotiate_of_seed common tick seed]
        · rw [runs, negotiate_of_seeded common tick seed]
          exact congrArg now (if_pos (by simpa using both))
        · rw [runs, negotiate_of_seeded common tick seed]
          exact congrArg now (if_neg (by simpa using alone))
      refine ⟨fun away => ?_, fun state => ?_, fun state => ?_, fun state => ?_⟩
      · have runs := goes (by omega)
        obtain ⟨goesOn, stays⟩ := helloGoes_of_away (c := s.conf) (m := m) (p := p) (h := h) away
        exact ⟨fun isQuiet => decided _ (runs.trans (congrArg now (goesOn isQuiet))), fun loud => runs.trans (congrArg now (stays loud))⟩
      · have runs := goes (by omega)
        obtain ⟨goesOn, drops⟩ := helloGoes_of_negotiating (c := s.conf) (m := m) (p := p) (h := h) state
        exact ⟨fun isQuiet same => decided _ (runs.trans (congrArg now (goesOn isQuiet same))), fun isLost => runs.trans (congrArg now (drops isLost))⟩
      · have runs := goes (by omega)
        obtain ⟨stays, drops⟩ := helloGoes_of_mirroring (c := s.conf) (m := m) (p := p) (h := h) state
        exact ⟨fun isQuiet same => runs.trans (congrArg now (stays isQuiet same)), fun isLost => runs.trans (congrArg now (drops isLost))⟩
      · have runs := goes (by omega)
        obtain ⟨goesOn, stays⟩ := helloGoes_of_incompatible (c := s.conf) (m := m) (p := p) (h := h) state
        exact ⟨fun isOther => decided _ (runs.trans (congrArg now (goesOn isOther))), fun same => runs.trans (congrArg now (stays same))⟩
    · rw [ack, ackRx, none]
    · intro m back
      rw [ack, ackRx_of_one used next only fresh covered plain last]
      refine ⟨fun other other' => ?_, fun record => ?_⟩
      · exact congrArg now (if_neg (by simp [other, other']))
      · exact congrArg now (if_pos (by simpa using record))
    · rw [reconcile, reconcileRx, none]
    · rw [reconcile, reconcileRx_of_next next, if_pos waits]
    · rw [reconcile, reconcileRx_of_next next, if_neg other, reconcileMsgIn_of_off off]
    · have other : (s.mach.link p).state ≠ 2 := fun same => by simp [mirrors, same] at on
      rw [reconcile, reconcileRx_of_next next, if_neg other]
    · intro t
      refine ⟨fun early => by rw [digest, digestPeriod_of_early early], fun on due => ⟨fun up idle => ?_, fun other => ?_⟩⟩
      · rw [digest, digestPeriod_of_due low on due, if_pos ⟨up, idle⟩]
      · rw [digest, digestPeriod_of_due low on due, if_neg]
        rintro ⟨up, idle⟩
        have up' : x.state = 4 := up
        have idle' : x.round = Option.none := idle
        simp [up', idle'] at other
  · have row : exec .leaseCheck s = now (leaseCheck s.conf s.mach) := State.onSettle_live live leaseCheck
    rw [row, leaseCheck, show leaseOne s.conf = fun m p => leaseOne s.conf m p from rfl]
    simp only [leaseOne_eq]
  · have row : exec .leaseCheck s = now (leaseCheck s.conf s.mach) := State.onSettle_live live leaseCheck
    rw [row, leaseCheck_of_none none]

end Sys2Proof.Machine

/-! Records from a partner (R294). An update whose record is not there is placed like an insert: it, too, is admitted to both its buckets from the first where its slot has
a state (R89, R109), and takes no second place in the slices' order when it looks into its alternate bucket. -/
namespace Sys2Proof.Machine

/-- An update of the record of the key of 16 zero bytes. -/
def updateMsg : Msg := { type := 2, body := List.replicate 64 0 }

/-- The device of `fullBucket`, with that update in the inbox of partner 0. -/
def updateDue : State :=
  { fullBucket with dev := { fullBucket.dev with m := { fullBucket.mach with duo := { links := [(0, { state := 4, inbox := [(updateMsg, 0)] })] } } } }

/-- The record as it is placed. -/
def updatePlaced : Rec := { rebased updateDue.mach updateMsg with role := 1, peer := partnerDev updateDue.conf (0 : Fin 8), unmirrored := false }

/-- The machine as `Obligations.PartnersRecordsAreCarriedOut` has it look the key up first. -/
def updateTaken : Mach := { updateDue.mach with fsl := { updateDue.mach.fsl with nextOrd := updateDue.mach.fsl.nextOrd + 1 } }

/-- The machine as the statement has it look the key up behind the alternate bucket: at a second place. -/
def updateLooked : Option (Spot × Rec) × Mach := lookupKey updateDue.conf updateTaken.takesPlace fullHash updatePlaced.key

/-- What placing the record leaves. -/
def updateLeft : Bool × Mach := placeNew updateDue.conf updateLooked.2 (fhSlot fullHash) (fullPlace.map .at) updatePlaced

theorem updateDue_hash : fhOf updateDue.conf updateDue.mach updatePlaced.key = fullHash := by decide +kernel

theorem updateDue_free : SliceFree updateDue.conf updateDue.mach updateMsg.key where
  noOps := by decide +kernel
  noJobs := by decide +kernel
  noMoves := by decide +kernel
  noImage := by decide +kernel
  room := by decide +kernel
  unguarded := by decide +kernel
  guardRoom := by decide +kernel

theorem updateDue_finds_room : FindsRoom updateDue.conf updateDue.mach updateTaken updatePlaced.key (fullPlace.map .at) updateTaken.takesPlace := by
  refine .inr ⟨by decide +kernel, rfl, .inl ?_⟩
  have some : fullPlace.isSome = true := by decide +kernel
  obtain ⟨pos, place⟩ := Option.isSome_iff_exists.mp some
  refine ⟨pos, Eq.trans (by decide +kernel) place, by rw [place]; rfl⟩

theorem updateLeft_placed : placeNew updateDue.conf updateLooked.2 (fhSlot fullHash) (fullPlace.map .at) updatePlaced = (true, updateLeft.2) :=
  Prod.ext (by decide +kernel) rfl

/-- Refutes O53: on `updateDue` the update is admitted to both buckets at once and takes one place in the slices' order, where the statement has it take a second
one when it looks into its alternate bucket. -/
theorem not_partnersRecordsAreCarriedOut : ¬ Obligations.PartnersRecordsAreCarriedOut := by
  unfold Obligations.PartnersRecordsAreCarriedOut
  intro carries
  obtain ⟨_, updates, _⟩ := carries updateDue (by decide +kernel)
  have placed := ((updates 0 updateMsg 0 (by decide +kernel) updateDue_free).2 (fullPlace.map .at) updateTaken.takesPlace updateLeft.2
    (by decide +kernel) updateDue_finds_room).1
  have hash := updateDue_hash
  have left := updateLeft_placed
  unfold updateLooked at left
  unfold updatePlaced at hash left
  rw [hash] at placed
  have places := congrArg nextPlace (placed left)
  revert places
  decide +kernel

end Sys2Proof.Machine

/-! What leaves a core's records as they were, and what leaves a running core unstalled (R266, R269). -/
namespace Sys2Proof.Machine

/-- A step that leaves the task scheduler as it was. -/
def SameTsk (m m' : Mach) : Prop := m'.tsk = m.tsk

section
variable {c : Cfg} {m m₁ m₂ : Mach} {die owner : Nat}

theorem SameTsk.refl : SameTsk m m := rfl

theorem SameTsk.trans (first : SameTsk m m₁) (second : SameTsk m₁ m₂) : SameTsk m m₂ := Eq.trans second first

theorem Posts.sameTsk (posts : Posts m m₁) : SameTsk m m₁ := by
  obtain ⟨g, h, o, rfl⟩ := posts
  rfl

theorem sameTsk_foldl {α : Type} {f : Mach → α → Mach} (steps : ∀ m x, SameTsk m (f m x)) (l : List α) : SameTsk m (l.foldl f m) := by
  induction l generalizing m with
  | nil => exact .refl
  | cons x l ih => exact (steps m x).trans ih

theorem sameTsk_bump (r : Reg) (i j k x : Nat) : SameTsk m (bump c m r i j k x) := (posts_bump r i j k x).sameTsk

theorem sameTsk_raise (cls inst sev detail : Nat) : SameTsk m (raise c m cls inst sev detail) := by
  obtain ⟨g, frame⟩ := raise_frame c m cls inst sev detail
  rw [frame]
  rfl

/-! ### Rings -/

theorem posts_writeCompletion (r : Nat) (e : Consumed) (q : Completion) : Posts m (writeCompletion c m r e q) := by
  unfold writeCompletion
  extract_lets x m' body
  refine .trans ?_ (posts_writeDesc ..)
  unfold m'
  split
  · exact .refl
  · exact posts_emit _

theorem posts_flushDone (fuel r : Nat) : Posts m (flushDone c fuel m r) := by
  induction fuel generalizing m with
  | zero => exact .refl
  | succ fuel ih =>
    unfold flushDone
    dsimp only
    repeat' split
    · exact ((posts_setRing ..).trans (posts_writeCompletion ..)).trans ih
    · exact .refl
    · exact .refl
    · exact .refl

theorem posts_markDone (r slot : Nat) (q : Completion) : Posts m (markDone m r slot q) := posts_setRing ..

theorem posts_endDrain (r : Nat) : Posts m (endDrain m r) := by
  unfold endDrain
  dsimp only
  split
  · exact posts_setRing ..
  · exact .refl

theorem posts_flushRing (r : Nat) : Posts m (flushRing c m r) := by
  unfold flushRing
  extract_lets m₁ x m₂
  have flushed : Posts m m₁ := posts_flushDone ..
  have gone : Posts m m₂ := flushed.trans (posts_setRing ..)
  split
  · split
    · exact ((gone.trans (posts_markDone ..)).trans (posts_flushDone ..)).trans (posts_endDrain _)
    · exact gone
  · exact flushed

theorem posts_complete (r slot : Nat) (q : Completion) : Posts m (complete c m r slot q) := (posts_markDone ..).trans (posts_flushRing _)

theorem posts_countDrop (port : Nat) (kind : RingKind) (f : Fill) : Posts m (countDrop c m port kind f) := by
  unfold countDrop
  extract_lets m₁
  have counted : Posts m m₁ := by
    unfold m₁
    split <;> exact posts_bump ..
  split
  · exact counted.trans (posts_bump ..)
  · exact counted

theorem posts_queueFill (r : Nat) (kind : RingKind) (f : Fill) : Posts m (queueFill c m r kind f) := by
  unfold queueFill
  dsimp only
  split
  · exact posts_setRing ..
  · split
    · exact (posts_setRing ..).trans (posts_countDrop ..)
    · exact posts_countDrop ..

/-! ### Cells -/

theorem sameTsk_countReason (pipe code : Nat) : SameTsk m (countReason c m pipe code) := by
  obtain ⟨g, frame⟩ := pmcEvent_frame c (bump c m .pplReasonCnt pipe code) ((pmcRow .ppl).first + pipe) (0x40 + code) 1
  rw [countReason, frame]
  have counted : SameTsk m (bump c m .pplReasonCnt pipe code) := sameTsk_bump ..
  exact counted

theorem sameTsk_noCell (pipe : Nat) : SameTsk m (noCell c m pipe) := (sameTsk_countReason ..).trans (sameTsk_bump ..)

theorem sameTsk_setSt (f : Fld) (v i j k : Nat) : SameTsk m (m.setSt f v i j k) := rfl

theorem sameTsk_setCell (p : Nat) (x : Cell) : SameTsk m (m.setCell p x) := rfl

theorem sameTsk_setBank (b : Nat) (x : Bank) : SameTsk m (m.setBank b x) := rfl

theorem sameTsk_pushCell (p : Nat) : SameTsk m (pushCell m p) := (sameTsk_setBank ..).trans (sameTsk_setCell ..)

theorem sameTsk_bufError (e : BufErr) (req addr : Nat) : SameTsk m (bufError c m die e req addr) := by
  unfold bufError
  extract_lets m₁ m₂
  have counted : SameTsk m m₁ := sameTsk_bump ..
  refine .trans ?_ (sameTsk_raise ..)
  unfold m₂
  split
  · exact counted
  · exact counted.trans ((((sameTsk_setSt ..).trans (sameTsk_setSt ..)).trans (sameTsk_setSt ..)).trans (sameTsk_setSt ..))

theorem sameTsk_popCell (n : Nat) : SameTsk m (popCell c m die n owner).2 := by
  unfold popCell
  extract_lets b x p link src m₁
  have taken : SameTsk m m₁ := sameTsk_setCell ..
  split
  · exact sameTsk_bufError ..
  · split
    · exact taken.trans (sameTsk_setBank ..)
    · exact taken.trans ((sameTsk_setBank ..).trans (sameTsk_bufError ..))

theorem sameTsk_allocCell : SameTsk m (allocCell c m die owner).2 := by
  unfold allocCell
  dsimp only
  split
  · exact sameTsk_popCell _
  · exact .refl

theorem sameTsk_takeCells (n : Nat) : SameTsk m (takeCells c die owner n m).2 := by
  induction n generalizing m with
  | zero => exact .refl
  | succ n ih =>
    have one : SameTsk m (allocCell c m die owner).2 := sameTsk_allocCell
    unfold takeCells
    split
    · next p m' got =>
      rw [got] at one
      exact one.trans ih
    · next m' got =>
      rw [got] at one
      exact one

theorem sameTsk_allocFail (n : Nat) : SameTsk m (allocFail c m die owner n) :=
  (sameTsk_takeCells n).trans (sameTsk_foldl (fun _ => sameTsk_pushCell) _)

theorem sameTsk_writeChain (sof : Bool) (ps : List Nat) (b : List Byte) : SameTsk m (writeChain owner sof ps b m) := by
  induction ps generalizing m sof b with
  | nil => exact .refl
  | cons p ps ih =>
    cases ps with
    | nil => rfl
    | cons q qs => exact .trans (m₁ := m.setCell p _) rfl (ih false (b.drop 256))

theorem sameTsk_storeFrame {b : List Byte} {p : Nat} (stored : storeFrame c m die owner b = some (p, m₁)) : SameTsk m m₁ := by
  have taken : SameTsk m (takeCells c die owner (cellsFor b.length) m).2 := sameTsk_takeCells _
  unfold storeFrame allocCells at stored
  dsimp only at stored
  split at stored
  · next p' ps m' got =>
    have same : m' = (takeCells c die owner (cellsFor b.length) m).2 := by
      split at got
      · exact (congrArg Prod.snd (Option.some.inj got)).symm
      · exact absurd got (by simp)
    obtain ⟨rfl, rfl⟩ := Prod.mk.inj (Option.some.inj stored)
    exact (same ▸ taken).trans (sameTsk_writeChain ..)
  · exact absurd stored (by simp)

theorem sameTsk_hostStore (f : HostFrame) : SameTsk m (hostStore c m f).2 := by
  have completes (m : Mach) : SameTsk m (f.slots.foldl (fun m s => complete c m f.ring s ⟨0, 0, []⟩) m) :=
    sameTsk_foldl (fun m s => (posts_complete f.ring s _).sameTsk) _
  unfold hostStore
  dsimp only
  split
  · exact (sameTsk_noCell _).trans (completes _)
  · split
    · split
      · exact sameTsk_allocFail _
      · exact (sameTsk_allocFail _).trans (sameTsk_noCell _)
    · next p m' stored => exact (sameTsk_storeFrame stored).trans (completes (chargeIng m' f.pipe (cellsFor (withFcs f.data).length)))

theorem sameTsk_hostFrameIn (f : HostFrame) : SameTsk m (hostFrameIn c m f) := by
  have stored : SameTsk m (hostStore c m f).2 := sameTsk_hostStore f
  unfold hostFrameIn
  extract_lets wait
  split
  · rfl
  · split
    · next m' got =>
      rw [got] at stored
      exact stored
    · next m' got =>
      rw [got] at stored
      exact stored

/-! ### A core that works -/

/-- A core out of reset whose store does not stall it. -/
def Works (m : Mach) (core : Nat) : Prop := ∃ x, Tbl.find m.tsk.cores core = some x ∧ x.state ≠ .reset ∧ x.stall = none

variable {core : Nat}

theorem Works.started (works : Works m core) : (m.core core).state ≠ .reset ∧ (m.core core).stall = none := by
  obtain ⟨x, found, state, free⟩ := works
  have same : m.core core = x := by rw [Mach.core, Tbl.look, found, Option.getD_some]
  rw [same]
  exact ⟨state, free⟩

theorem works_of_runs (runs : coreRuns m core = true) : Works m core := by
  unfold coreRuns at runs
  rw [Bool.and_eq_true, Option.isNone_iff_eq_none] at runs
  obtain ⟨state, free⟩ := runs
  have started : (m.core core).state ≠ .reset := fun same => by simp [same] at state
  cases found : Tbl.find m.tsk.cores core with
  | none => exact absurd (by rw [Mach.core, Tbl.look, found, Option.getD_none]) started
  | some x =>
    have same : m.core core = x := by rw [Mach.core, Tbl.look, found, Option.getD_some]
    rw [same] at started free
    exact ⟨x, found, started, free⟩

theorem Works.of_sameTsk (works : Works m core) (same : SameTsk m m₁) : Works m₁ core := by
  unfold Works
  rw [show m₁.tsk = m.tsk from same]
  exact works

theorem find_del_of_found {α : Type} {t : Tbl α} {i j : Nat} {x : α} (other : j ≠ i) (found : Tbl.find t j = some x) : Tbl.find (Tbl.del t i) j = some x := by
  induction t with
  | nil => exact found
  | cons e t ih =>
    obtain ⟨k, v⟩ := e
    unfold Tbl.del
    split
    · exact found
    · rw [Tbl.find] at found
      split
      · next below same =>
        subst same
        rw [if_neg other] at found
        split at found
        · exact absurd found (by simp)
        · exact found
      · rw [Tbl.find]
        split at found
        · next same => rw [if_pos same, found]
        · next differs =>
          rw [if_neg differs]
          split at found
          · exact absurd found (by simp)
          · next above =>
            rw [if_neg above]
            exact ih found

/-- A core's record is written: that of the core that works stays one of a core that works. -/
theorem Works.setCore (works : Works m core) {n : Nat} {y : Core} (own : n = core → y.state ≠ .reset ∧ y.stall = none) : Works (m.setCore n y) core := by
  obtain ⟨x, found, state, free⟩ := works
  by_cases same : n = core
  · subst same
    obtain ⟨state', free'⟩ := own rfl
    have ne : y ≠ {} := fun same => state' (congrArg Core.state same)
    refine ⟨y, ?_, state', free'⟩
    rw [Mach.setCore, Tbl.put, if_neg ne]
    exact Tbl.find_ins_self ..
  · refine ⟨x, ?_, state, free⟩
    rw [Mach.setCore, Tbl.put]
    split
    · exact find_del_of_found (Ne.symm same) found
    · exact (Tbl.find_ins_other _ _ (Ne.symm same)).trans found

theorem Works.own (works : Works m core) {n : Nat} : n = core → (m.core n).state ≠ .reset ∧ (m.core n).stall = none := fun same => same ▸ works.started

theorem Works.notifyReady (works : Works m core) : Works (notifyReady c m) core := by
  unfold Machine.notifyReady
  generalize Tbl.keys m.tsk.cores = ns
  induction ns generalizing m with
  | nil => exact works
  | cons n ns ih =>
    refine ih ?_
    dsimp only
    split
    · exact works.setCore (works.own)
    · exact works

theorem Works.finishItem (works : Works m core) (w : WItem) (keep : Bool) : Works (finishItem m w keep) core := by
  unfold Machine.finishItem
  dsimp only
  split <;> exact works

theorem Works.last (works : Works m core) (last keep : Bool) (w : WItem) : Works (if last then Machine.finishItem m w keep else m) core := by
  split
  · exact works.finishItem w keep
  · exact works

theorem Works.freeWork (works : Works m core) (bs : List Nat) : Works (m.freeWork bs) core := works

theorem Works.releaseOne (works : Works m core) (e : OutEntry) : Works (releaseOne c m e) core := by
  unfold Machine.releaseOne
  dsimp only
  split
  · exact Works.last (m := { m with tsk := { m.tsk with outs := m.tsk.outs.erase e } }) works ..
  · refine Works.last (Works.freeWork ?_ _) ..
    exact Works.of_sameTsk (m := { m with tsk := { m.tsk with outs := m.tsk.outs.erase e } }) works ((sameTsk_hostFrameIn _).trans (sameTsk_bump ..))
  · exact (Works.of_sameTsk (m := { m with tsk := { m.tsk with outs := m.tsk.outs.erase e } }) works
      ((posts_queueFill ..).sameTsk.trans (sameTsk_bump ..))).last ..
  · unfold enqueueItem
    dsimp only
    refine Works.notifyReady (Works.of_sameTsk (m := Mach.setWq _ _ _) ?_ (sameTsk_bump ..))
    exact Works.finishItem (m := { m with tsk := { m.tsk with outs := m.tsk.outs.erase e } }) works e.item true
  · next n w _ =>
    exact Works.last (m := { m with tsk := { m.tsk with outs := m.tsk.outs.erase e, postIn := Tbl.upd [] m.tsk.postIn n (· ++ [w]) } }) works ..

theorem Works.releaseAll (works : Works m core) (fuel : Nat) : Works (releaseAll c fuel m) core := by
  induction fuel generalizing m with
  | zero => exact works
  | succ fuel ih =>
    unfold Machine.releaseAll
    split
    · exact ih (works.releaseOne _)
    · exact works

theorem Works.doneStore (works : Works m core) (n slot : Nat) (out : TOutput) (e : InService) : Works (doneStore c m n slot out e) core := by
  unfold Machine.doneStore
  extract_lets x chain m₁ m₂ src m₃
  have emptied : Works m₁ core := works.setCore works.own
  have freed : Works m₂ core := by
    unfold m₂
    split <;> exact emptied
  exact Works.of_sameTsk (m := m₃) freed (sameTsk_bump ..)

theorem Works.postStore (works : Works m core) (n : Nat) (staged held : List Byte) : Works (postStore m n staged held) core := by
  have passed : Works (m.setCore n { m.core n with post := 3, bufs := (m.core n).bufs.filter (!(stagedBufs (m.core n) staged).contains ·) }) core :=
    works.setCore works.own
  unfold Machine.postStore
  dsimp only
  split <;> exact passed

theorem Works.resumeStore (works : Works m core) (n : Nat) : Works (resumeStore c m n) core := by
  have goesOn : Works (m.setCore n { m.core n with stall := none }) core := works.setCore fun same => ⟨(works.own same).1, rfl⟩
  unfold Machine.resumeStore
  dsimp only
  split
  · split
    · exact goesOn.doneStore ..
    · exact goesOn
  · exact goesOn.postStore ..
  · exact goesOn

theorem Works.releaseLoop (works : Works m core) (fuel : Nat) : Works (releaseLoop c fuel m) core := by
  induction fuel generalizing m with
  | zero => exact works.releaseAll _
  | succ fuel ih =>
    have released : Works (Machine.releaseAll c m.tsk.outs.length m) core := works.releaseAll _
    unfold Machine.releaseLoop
    dsimp only
    split
    · split
      · exact released
      · exact ih (released.resumeStore _)
    · exact released

theorem Works.release (works : Works m core) : Works (release c m) core := (works.releaseLoop _).notifyReady

end

end Sys2Proof.Machine

/-! The work port (R259, R266, R267, R269, R270, R451). -/
namespace Sys2Proof.Machine

section
variable {s : State} {c : Cfg} {m : Mach} {core : Nat} {acc : CoreAcc} {off : Nat} {f : Cfg → Mach → Mach}

/-! ### An access -/

/-- A core's access to its work port, and what follows it. -/
def portGo (core : Nat) (acc : CoreAcc) (off : Nat) (f : Cfg → Mach → Mach) (c : Cfg) (m : Mach) : Mach :=
  if portOpen m core acc off then if ((f c m).core core).stall.isSome then f c m else retire c (f c m) core 4 else m

theorem onPort_live (live : s.live) : s.onPort core acc off f = .next (s.withM (portGo core acc off f s.conf s.mach)) :=
  State.on_live live (portGo core acc off f)

theorem onPort_of_closed (live : s.live) (closed : portOpen s.mach core acc off = false) : s.onPort core acc off f = .next (s.withM s.mach) := by
  rw [onPort_live live, portGo, if_neg (by rw [closed]; decide)]

section
variable (live : s.live) (may : portOpen s.mach core acc off = true)
include live may

theorem onPort_of_works (works : Works (f s.conf s.mach) core) : s.onPort core acc off f = .next (s.withM (retire s.conf (f s.conf s.mach) core 4)) := by
  rw [onPort_live live, portGo, if_pos may, if_neg (by rw [works.started.2]; decide)]

theorem onPort_of_stalls (stalls : ((f s.conf s.mach).core core).stall.isSome = true) : s.onPort core acc off f = .next (s.withM (f s.conf s.mach)) := by
  rw [onPort_live live, portGo, if_pos may, if_pos stalls]

omit live in
theorem works_of_may : Works s.mach core := works_of_runs (Bool.and_eq_true_iff.mp may).1

end

theorem core_setCore_of_ne {x : Core} (ne : x ≠ {}) : (m.setCore core x).core core = x := by
  rw [Mach.core, Mach.setCore, Tbl.put, if_neg ne, Tbl.look, Tbl.find_ins_self]
  rfl

/-- A store that stalls its core. -/
theorem stalls_setCore (x : PortStore) : ((m.setCore core { m.core core with stall := some x }).core core).stall.isSome = true := by
  have ne : ({ m.core core with stall := some x } : Core) ≠ {} := fun same => nomatch congrArg Core.stall same
  rw [core_setCore_of_ne ne]
  rfl

theorem Works.emit (works : Works m core) (o : Output) : Works (m.emit o) core := works

theorem Works.portMisuse (works : Works m core) (n : Nat) : Works (portMisuse c m n) core :=
  works.of_sameTsk ((sameTsk_bump ..).trans (sameTsk_raise ..))

/-! ### `GET` -/

/-- The lowest free slot of a core. -/
def Core.freeSlot (x : Core) : Option Nat := lowest? 4 fun i => (Tbl.find x.slots i).isNone

theorem workGet_of_none (none : (m.core core).state ≠ .running ∨ chooseQueue c m (c.get tskCoreCtrlGroup core) = none ∨ (m.core core).freeSlot = none) :
    workGet c m core = m.emit (.coreLoad core 0) := by
  unfold workGet
  dsimp only
  cases free : lowest? 4 fun i => (Tbl.find (m.core core).slots i).isNone with
  | none => rfl
  | some slot =>
    dsimp only
    by_cases running : (m.core core).state = .running
    · have noQueue : chooseQueue c m (c.get tskCoreCtrlGroup core) = Option.none := by
        rcases none with other | none | full
        · exact absurd running other
        · exact none
        · exact absurd (free.symm.trans full) (by simp)
      rw [if_pos running, noQueue]
    · rw [if_neg running]

theorem workGet_of_item {slot q : Nat} {w : WItem} (running : (m.core core).state = .running) (queue : chooseQueue c m (c.get tskCoreCtrlGroup core) = some q)
    (free : (m.core core).freeSlot = some slot) (next : nextItem c m q = some w) :
    workGet c m core = (dispatchTo c m core slot q w).emit (.coreLoad core (2 ^ 63 + slot)) := by
  unfold workGet
  dsimp only
  rw [show (lowest? 4 fun i => (Tbl.find (m.core core).slots i).isNone) = some slot from free]
  dsimp only
  rw [if_pos running, queue]
  dsimp only
  rw [next]

theorem Works.dispatchTo (works : Works m core) (n slot q : Nat) (w : WItem) : Works (dispatchTo c m n slot q w) core := by
  unfold Machine.dispatchTo
  extract_lets x m₁ k bin m₂ src m₃
  have taken : Works m₁ core := works.setCore works.own
  exact Works.of_sameTsk (m := m₃) taken (sameTsk_bump ..)

theorem Works.workGet (works : Works m core) : Works (workGet c m core) core := by
  unfold Machine.workGet
  dsimp only
  repeat' split
  · exact works.dispatchTo ..
  all_goals exact works

/-! ### `DONE` -/

section
variable {slot : Nat} {out : TOutput}

theorem doneWith_of_none (none : Tbl.find (m.core core).slots slot = none) : doneWith c m core slot out = portMisuse c m core := by
  unfold doneWith
  dsimp only
  rw [none]

section
variable {e : InService} (held : Tbl.find (m.core core).slots slot = some e)
include held

theorem doneWith_of_full (full : m.outsFull = true) (output : out ≠ .drop) :
    doneWith c m core slot out = m.setCore core { m.core core with stall := some (.done slot out) } := by
  unfold doneWith
  dsimp only
  rw [held]
  exact if_pos (by simp [full, output])

theorem doneWith_of_room (room : m.outsFull = false ∨ out = .drop) : doneWith c m core slot out = release c (doneStore c m core slot out e) := by
  unfold doneWith
  dsimp only
  rw [held]
  exact if_neg (by rcases room with room | rfl <;> simp [*])

end
end

/-- An output with the buffers that its core gives up has left its slot. -/
def doneAt (c : Cfg) (m : Mach) (core slot : Nat) (e : InService) (out : TOutput) (bufs : List Nat) : Mach :=
  let m := m.setCore core { m.core core with slots := Tbl.del (m.core core).slots slot, bufs := bufs }
  let m := if out = .drop then m.freeWork e.item.bufs else m
  bump c { m with tsk := { m.tsk with outs := m.tsk.outs ++ [{ out := out, core := core, item := e.item, cmds := e.cmds, last := true }] } } .tskCnt cTskDone

/-- The chain that an output keeps. -/
def TOutput.chain : TOutput → List Nat
  | .inject _ _ _ l => l
  | _ => []

theorem doneStore_eq (slot : Nat) (out : TOutput) (e : InService) :
    doneStore c m core slot out e = doneAt c m core slot e out ((m.core core).bufs.filter fun b => !out.chain.contains b) := by
  cases out <;> rfl

theorem doneStore_of_no_chain {slot : Nat} {out : TOutput} {e : InService} (none : out.chain = []) :
    doneStore c m core slot out e = doneAt c m core slot e out (m.core core).bufs := by
  have all : ((m.core core).bufs.filter fun b => !([] : List Nat).contains b) = (m.core core).bufs := List.filter_eq_self.mpr fun _ _ => rfl
  rw [doneStore_eq, none, all]

/-! ### Buffers -/

theorem bufAlloc_of_none (none : m.freeBufs 1 = []) : bufAlloc m core = m.emit (.coreLoad core 0xFFFF) := by
  rw [bufAlloc, none]

theorem bufAlloc_of_some {b : Nat} {bs : List Nat} (free : m.freeBufs 1 = b :: bs) : bufAlloc m core =
    ({ m with tsk := { m.tsk with link := Tbl.ins m.tsk.link b none } }.setCore core { m.core core with bufs := (m.core core).bufs ++ [b] }).emit (.coreLoad core b) := by
  rw [bufAlloc, free]

theorem Works.bufAlloc (works : Works m core) (n : Nat) : Works (bufAlloc m n) core := by
  unfold Machine.bufAlloc
  split
  · extract_lets x src m₁
    have linked : Works m₁ core := works
    refine Works.emit ?_ _
    exact linked.setCore works.own
  · exact works

theorem bits_12_0 (v : Nat) : bits v 12 0 = v % 8192 := by simp [bits]

theorem bufFree_of_none {v : Nat} (none : Tbl.find m.tsk.link (v % 8192) = none) : bufFree c m core v = portMisuse c m core :=
  if_pos (by rw [bits_12_0, none]; simp)

theorem bufFree_of_some {v : Nat} (some' : (Tbl.find m.tsk.link (v % 8192)).isSome = true) : bufFree c m core v =
    (m.setCore core { m.core core with bufs := (m.core core).bufs.filter (· != v % 8192) }).freeWork [v % 8192] := by
  have low : v % 8192 < 8192 := Nat.mod_lt _ (by decide)
  unfold bufFree
  rw [bits_12_0]
  exact if_neg (by simp [Option.isSome_iff_ne_none.mp some', low])

theorem Works.bufFree (works : Works m core) (n v : Nat) : Works (bufFree c m n v) core := by
  unfold Machine.bufFree
  dsimp only
  split
  · exact works.portMisuse n
  · refine Works.freeWork ?_ _
    exact works.setCore works.own

/-! ### `POST_GO` -/

/-- Something is wrong with a staged item. -/
def PostBad (c : Cfg) (x : Core) (b : List Byte) : Prop :=
  (stagedItem b).2 = false ∨ c.on tskWqCfgEn (stagedItem b).1.wq = false ∨ (stagedBufs x b).length ≠ bits (be b 20 2) 15 13

section
variable {b held : List Byte}

theorem postBad_iff (x : Core) : (!(stagedItem b).2 || !c.on tskWqCfgEn (stagedItem b).1.wq || (stagedBufs x b).length != bits (be b 20 2) 15 13) = true ↔
    PostBad c x b := by simp [PostBad, or_assoc]

theorem postGo_of_bad (bad : PostBad c (m.core core) b) : postGo c m core b held = m.setCore core { m.core core with post := 2 } :=
  if_pos ((postBad_iff _).mpr bad)

theorem postGo_of_full (good : ¬PostBad c (m.core core) b) (full : m.outsFull = true) :
    postGo c m core b held = m.setCore core { m.core core with stall := some (.post b held) } :=
  (if_neg (mt (postBad_iff _).mp good)).trans (if_pos full)

theorem postGo_of_room (good : ¬PostBad c (m.core core) b) (room : m.outsFull = false) : postGo c m core b held = release c (postStore m core b held) :=
  (if_neg (mt (postBad_iff _).mp good)).trans (if_neg (by rw [room]; decide))

end

/-! ### The rows -/

section
variable (s : State) (n : Fin 128) (v : BitVec 64) (i : Fin 4) (u : BitVec 60) (b held : List Byte)

theorem exec_workGet : exec (.workGet n) s = s.onPort n .load 0x000 fun c m => workGet c m n := rfl

theorem exec_workArm : exec (.workArm n v) s = s.onPort n .store 0x008 fun c m => workArm c m n v.toNat := rfl

theorem exec_workDoneDrop (reserved : Bool) :
    exec (.workDoneDrop n i reserved) s = s.onPort n .store (0x200 + 8 * i) fun c m => workDrop c m n i reserved := rfl

theorem exec_workDoneInject : exec (.workDoneInject n i u held) s = s.onPort n .store (0x200 + 8 * i) fun c m => workInject c m n i u.toNat held := rfl

theorem exec_workDoneDeliver : exec (.workDoneDeliver n i u held) s = s.onPort n .store (0x200 + 8 * i) fun c m => workDeliver c m n i u.toNat held := rfl

theorem exec_workDoneForward : exec (.workDoneForward n i u) s = s.onPort n .store (0x200 + 8 * i) fun c m => workForward c m n i u.toNat := rfl

theorem exec_workBufAlloc : exec (.workBufAlloc n) s = s.onPort n .load 0x300 fun _ m => bufAlloc m n := rfl

theorem exec_workBufFree : exec (.workBufFree n v) s = s.onPort n .store 0x308 fun c m => bufFree c m n v.toNat := rfl

theorem exec_workPostGo : exec (.workPostGo n b held) s = s.onPort n .store 0x440 fun c m => postGo c m n b held := rfl

end

end

/-- Settles O54: each access of the work port where it is not open, and where it is. -/
theorem coresWorkThroughTheirPort : Obligations.CoresWorkThroughTheirPort := by
  unfold Obligations.CoresWorkThroughTheirPort
  intro s core live x now ran misuse may
  have goes {acc : CoreAcc} {off : Nat} {f : Cfg → Mach → Mach} {m : Mach} (open' : may acc off) (works : Works (f s.conf s.mach) core)
      (left : f s.conf s.mach = m) : s.onPort core acc off f = ran m := by
    rw [onPort_of_works live open' works, left]
  have misused {acc : CoreAcc} {off : Nat} {f : Cfg → Mach → Mach} (open' : may acc off) (left : f s.conf s.mach = portMisuse s.conf s.mach core) :
      s.onPort core acc off f = misuse := by
    refine goes open' ?_ left
    rw [left]
    exact (works_of_may open').portMisuse core
  refine ⟨fun v slot u b held reserved => ?_, fun idle acc off open' => ?_, fun open' => ⟨fun none => ?_, fun slot q w running queue free next => ?_⟩,
    fun v open' => ?_, fun slot u held open' => ?_, fun open' => ⟨fun none => ?_, fun b bs free => ?_⟩, fun v open' => ⟨fun none => ?_, fun taken => ?_⟩,
    fun b held open' => ?_⟩
  · intro done rows r mem closed
    simp only [rows, List.mem_cons, List.not_mem_nil, or_false] at mem
    rcases mem with rfl | rfl | rfl | rfl | rfl | rfl | rfl | rfl | rfl <;> dsimp only at closed ⊢
    · rw [exec_workGet, onPort_of_closed live closed]
    · rw [exec_workArm, onPort_of_closed live closed]
    · rw [exec_workDoneDrop, onPort_of_closed live closed]
    · rw [exec_workDoneInject, onPort_of_closed live closed]
    · rw [exec_workDoneDeliver, onPort_of_closed live closed]
    · rw [exec_workDoneForward, onPort_of_closed live closed]
    · rw [exec_workBufAlloc, onPort_of_closed live closed]
    · rw [exec_workBufFree, onPort_of_closed live closed]
    · rw [exec_workPostGo, onPort_of_closed live closed]
  · have runs : coreRuns s.mach core = true := (Bool.and_eq_true_iff.mp (show portOpen s.mach core acc off = true from open')).1
    rw [idle] at runs
    exact Bool.false_ne_true runs
  · rw [exec_workGet]
    exact goes open' (works_of_may open').workGet (workGet_of_none none)
  · rw [exec_workGet]
    exact goes open' (works_of_may open').workGet (workGet_of_item running queue free next)
  · rw [exec_workArm]
    refine goes open' (Works.notifyReady ((works_of_may open').setCore (works_of_may open').own)) ?_
    have bit0 : bit v.toNat 0 = v.getLsbD 0 := by simp [bit, BitVec.getLsbD, Nat.testBit_zero, beq_eq_decide]
    rw [workArm, bit0]
  · intro v chain rows
    have works : Works s.mach core := works_of_may open'
    have plain (key : bit v 47 = false) : workInject s.conf s.mach core slot v held =
        doneWith s.conf s.mach core slot (.inject (bits v 52 48) (held.take (bits v 31 16)) (bits v 15 0) []) := by
      unfold workInject
      simp [key]
    have keyed (key : bit v 47 = true) : workInject s.conf s.mach core slot v held =
        if chain = [] then portMisuse s.conf s.mach core
        else doneWith s.conf s.mach core slot (.inject (bits v 52 48) (held.take (bits v 31 16)) (bits v 15 0) chain) := by
      unfold workInject
      simp only [key, if_true, Bool.true_and, List.isEmpty_iff]
      rfl
    have row (r : Instr × TOutput) (mem : r ∈ rows) :
        ∃ f, exec r.1 s = s.onPort core .store (0x200 + 8 * slot.val) f ∧ f s.conf s.mach = doneWith s.conf s.mach core slot r.2 ∧ r.2.chain = [] := by
      rcases List.mem_append.mp mem with own | inject
      · simp only [List.mem_cons, List.not_mem_nil, or_false] at own
        rcases own with rfl | rfl | rfl
        · exact ⟨_, exec_workDoneDrop s core slot false, rfl, rfl⟩
        · exact ⟨_, exec_workDoneDeliver s core slot u held, rfl, rfl⟩
        · exact ⟨_, exec_workDoneForward s core slot u, rfl, rfl⟩
      · split at inject
        · exact absurd inject List.not_mem_nil
        · next key =>
          obtain rfl := List.mem_singleton.mp inject
          exact ⟨_, exec_workDoneInject s core slot u held, plain (Bool.eq_false_iff.mpr key), rfl⟩
    refine ⟨?_, fun key none => ?_, fun none => ⟨fun r mem => ?_, ?_⟩, fun e held' => ?_⟩
    · rw [exec_workDoneDrop]
      exact misused open' (if_pos rfl)
    · rw [exec_workDoneInject]
      exact misused open' ((keyed key).trans (if_pos none))
    · obtain ⟨f, runs, does, -⟩ := row r mem
      rw [runs]
      exact misused open' (does.trans (doneWith_of_none none))
    · rw [exec_workDoneInject]
      refine misused open' ?_
      cases key : bit v 47 with
      | false => exact (plain key).trans (doneWith_of_none none)
      | true =>
        refine (keyed key).trans ?_
        rw [doneWith_of_none none, ite_self]
    · intro done
      have ends {f : Cfg → Mach → Mach} {out : TOutput} {bufs : List Nat} (does : f s.conf s.mach = doneWith s.conf s.mach core slot out)
          (room : s.mach.outsFull = false ∨ out = .drop) (kept : doneStore s.conf s.mach core slot out e = doneAt s.conf s.mach core slot e out bufs) :
          s.onPort core .store (0x200 + 8 * slot.val) f = done out bufs := by
        have left : f s.conf s.mach = release s.conf (doneStore s.conf s.mach core slot out e) := does.trans (doneWith_of_room held' room)
        refine goes open' ?_ (left.trans (congrArg (release s.conf) kept))
        rw [left]
        exact (works.doneStore ..).release
      refine ⟨fun full r mem output => ?_, fun r mem room => ?_, fun room key some' => ?_⟩
      · obtain ⟨f, runs, does, -⟩ := row r mem
        have left : f s.conf s.mach = s.mach.setCore core { s.mach.core core with stall := some (.done slot r.2) } :=
          does.trans (doneWith_of_full held' full output)
        rw [runs, onPort_of_stalls live open' (by rw [left]; exact stalls_setCore _), left]
      · obtain ⟨f, runs, does, none⟩ := row r mem
        rw [runs]
        exact ends does room (doneStore_of_no_chain none)
      · rw [exec_workDoneInject]
        exact ends ((keyed key).trans (if_neg some')) (.inl room) (doneStore_eq ..)
  · rw [exec_workBufAlloc]
    exact goes open' ((works_of_may open').bufAlloc core) (bufAlloc_of_none none)
  · rw [exec_workBufAlloc]
    exact goes open' ((works_of_may open').bufAlloc core) (bufAlloc_of_some free)
  · rw [exec_workBufFree]
    exact misused open' (bufFree_of_none none)
  · rw [exec_workBufFree]
    exact goes open' ((works_of_may open').bufFree core v.toNat) (bufFree_of_some taken)
  · rw [exec_workPostGo]
    have works : Works s.mach core := works_of_may open'
    intro w bs bad m m' w'
    refine ⟨fun isBad => ?_, fun good full => ?_, fun good room => ?_⟩
    · have left : postGo s.conf s.mach core b held = s.mach.setCore core { s.mach.core core with post := 2 } := postGo_of_bad isBad
      refine goes open' ?_ left
      rw [left]
      exact works.setCore works.own
    · have left : postGo s.conf s.mach core b held = s.mach.setCore core { s.mach.core core with stall := some (.post b held) } := postGo_of_full good full
      rw [onPort_of_stalls (f := fun c m => postGo c m core b held) live open' (by rw [left]; exact stalls_setCore _), left]
    · have left : postGo s.conf s.mach core b held = release s.conf (postStore s.mach core b held) := postGo_of_room good room
      have goesOn {m : Mach} (posted : postStore s.mach core b held = m) :
          s.onPort core .store 0x440 (fun c m => postGo c m core b held) = ran (release s.conf m) := by
        refine goes open' ?_ (left.trans (congrArg (release s.conf) posted))
        rw [left]
        exact (works.postStore ..).release
      refine ⟨fun none => goesOn ?_, fun e oldest => goesOn ?_⟩
      · unfold postStore
        dsimp only
        rw [none]
      · unfold postStore
        dsimp only
        rw [oldest]

end Sys2Proof.Machine

/-! Outputs of work items (R262, R269). A drop's buffers are freed when its store takes effect (R262), not again when the release unit releases it. -/
namespace Sys2Proof.Machine

/-- A dropped item of queue 0 whose buffer 0 a later item holds by now. -/
def droppedOut : OutEntry := { out := .drop, core := 0, item := { src := 0, wq := 0, bufs := [0] }, last := true }

/-- A device whose release unit holds that output alone. -/
def dropDue : State :=
  { dev := { cfg := { fuse := {} }, m := { glb := { inReset := false }, tsk := { outs := [droppedOut], link := [(0, none)] } } }
    pending := [] }

/-- The work buffers in use after a command. -/
def buffersUsed : Outcome → List Nat
  | .next t => Tbl.keys t.mach.tsk.link
  | _ => []

/-- Refutes O55: on `dropDue` the release leaves buffer 0 in use, where the statement has it freed a second time. -/
theorem not_itemsEnterServiceAndLeaveIt : ¬ Obligations.ItemsEnterServiceAndLeaveIt := by
  unfold Obligations.ItemsEnterServiceAndLeaveIt
  intro serves
  obtain ⟨_, _, _, _, _, _, _, _, releases, _⟩ := serves dropDue (by decide)
  have released := (releases droppedOut rfl (by decide +kernel) (by decide +kernel)).1 rfl rfl
  have buffers := congrArg buffersUsed released
  revert buffers
  decide +kernel

end Sys2Proof.Machine

/-! The time of day: edges, pulses, steps and replicas (R235-R240). -/
namespace Sys2Proof.Machine

section
variable {c : Cfg} {m : Mach} {phase cap : Nat}

/-! ### Edges -/

/-- An edge within half a second of the last. -/
def Glitch (m : Mach) (phase : Nat) : Prop := ∃ e, m.tod.lastEdge = some e ∧ 4 * m.up + phase - e < 2_000_000_000

theorem glitch_iff : (match m.tod.lastEdge with
    | some t => decide (4 * m.up + phase - t < 2_000_000_000)
    | none => false) = true ↔ Glitch m phase := by
  unfold Glitch
  cases m.tod.lastEdge <;> simp

theorem ppsEdge_of_off (off : c.get todCtrlPpsMode = 0) : ppsEdge c m phase = m := if_pos off

theorem ppsEdge_of_glitch (on : c.get todCtrlPpsMode ≠ 0) (glitch : Glitch m phase) : ppsEdge c m phase = m.inc32 todPpsGlitchCount :=
  (if_neg on).trans (if_pos (glitch_iff.mpr glitch))

theorem ppsEdge_of_accepted (on : c.get todCtrlPpsMode ≠ 0) (plain : ¬Glitch m phase) : ppsEdge c m phase =
    if c.get todCtrlPpsMode = 2 then ppsAlign c (ppsCapture c m (m.todFrac + phase * 16384) phase) (m.todFrac + phase * 16384)
    else ppsCapture c m (m.todFrac + phase * 16384) phase :=
  (if_neg on).trans (if_neg (mt glitch_iff.mp plain))

theorem ppsAlign_of_near (near : (ppsOffset c cap).natAbs ≤ c.get todPpsWindowWindow * 65536 ∨ m.tod.aligned = false) (none : m.tod.stepAt = none) :
    ppsAlign c m cap = { m with tod := { m.tod with aligned := true, stepAt := some (stepTime m), stepTo := Option.none, stepBy := -ppsOffset c cap } } := by
  refine (if_pos (by simpa using near)).trans (if_neg ?_)
  dsimp only
  rw [none]
  decide

theorem ppsAlign_of_far (far : c.get todPpsWindowWindow * 65536 < (ppsOffset c cap).natAbs) (aligned : m.tod.aligned = true) :
    ppsAlign c m cap = (m.inc32 todPpsRejectCount).setSt todStatPpsOutside 1 :=
  if_neg (by simpa [aligned] using far)

theorem inc32_frame (m : Mach) (x : Fld) (i j k : Nat) : ∃ r, m.inc32 x i j k = { m with reg := r } := setSt_frame ..

/-- An edge's time is kept. -/
def Mach.edgeAt (m : Mach) (t : Nat) : Mach := { m with tod := { m.tod with lastEdge := some t, lossRaised := false } }

theorem ppsCapture_of_silent (silent : c.on todPpsCfgEvt = false) :
    ∃ r, ppsCapture c m cap phase = { m with reg := r, tod := { m.tod with lastEdge := some (4 * m.up + phase), lossRaised := false } } := by
  unfold ppsCapture
  extract_lets ns m₁ m₂ m₃ src m₄
  have captured : ∃ r, m₁ = { m with reg := r } := reg_trans (reg_trans (setSt_frame ..) (setSt_frame ..)) (setSt_frame ..)
  have counted : ∃ r, m₂ = { m₁ with reg := r } := reg_trans (reg_trans (setSt_frame ..) (inc32_frame ..)) (setSt_frame ..)
  obtain ⟨r₂, same₂⟩ : ∃ r, m₂ = { m with reg := r } := reg_trans captured counted
  obtain ⟨r, same⟩ : ∃ r, m₃ = { m with reg := r } := reg_trans ⟨r₂, same₂⟩ (setSt_frame ..)
  have up : m₂.up = m.up := by rw [same₂]
  have edge : m₄ = m₃.edgeAt (4 * m.up + phase) := by
    rw [← up]
    rfl
  refine ⟨r, (if_neg (by rw [silent]; decide)).trans ?_⟩
  rw [edge, same]
  rfl

theorem ppsMissing_of_heard (heard : ¬6_000_000_000 ≤ 4 * m.up - m.tod.lastEdge.getD 0) : ppsMissing c m = m := if_neg heard

/-- The loss of the input has been told. -/
def Mach.lossTold (m : Mach) : Mach := { m with tod := { m.tod with lossRaised := true } }

/-- The loss of the input, told once. -/
def lossShown (c : Cfg) (m : Mach) : Mach := if m.tod.lossRaised then m else raise c m.lossTold 23 1 NOTE

theorem ppsMissing_of_late (late : 6_000_000_000 ≤ 4 * m.up - m.tod.lastEdge.getD 0) : ppsMissing c m = lossShown c (m.setSt todStatPpsMissing 1) := by
  unfold ppsMissing
  rw [if_pos late]
  rfl

theorem lossShown_of_told (told : m.tod.lossRaised = true) : lossShown c m = m := if_pos told

theorem lossShown_of_fresh (fresh : m.tod.lossRaised = false) : lossShown c m = raise c m.lossTold 23 1 NOTE := if_neg (by rw [fresh]; decide)

/-! ### Pulses -/

/-- A second's pulse may be driven. -/
def PulseMay (c : Cfg) (m : Mach) : Prop :=
  c.on todCtrlPpsOutEn = true ∧ m.glb.outputs = true ∧ m.flt.fatal = false ∧ (ppsSecond c m).toNat ∉ m.tod.ppsDone

theorem pulseMay_iff : (ppsMay c m && !m.tod.ppsDone.contains (ppsSecond c m).toNat) = true ↔ PulseMay c m := by
  simp [ppsMay, PulseMay, and_assoc]

theorem ppsRise_of_may (may : PulseMay c m) : ppsRise c m = { m with tod := { m.tod with
    ppsOut := true, ppsEnd := m.up + c.get todPpsOutCfgWidth * 10_000, ppsDone := (ppsSecond c m).toNat :: m.tod.ppsDone } } :=
  if_pos (pulseMay_iff.mpr may)

theorem ppsRise_of_not (not : ¬PulseMay c m) : ppsRise c m = m := if_neg (mt pulseMay_iff.mp not)

/-! ### Steps -/

/-- The time after a step. -/
def steppedNow (t : TodSt) : Nat := match t.stepTo with
  | some w => w * 2 ^ 32
  | none => ((t.now : Int) + t.stepBy * 2 ^ 32).toNat

/-- The machine whose step has been taken. -/
def Mach.steppedTod (m : Mach) : Mach := { m with tod := { m.tod with now := steppedNow m.tod, stepAt := none, stepTo := none, stepBy := 0 } }

theorem todApply_of_waits (waits : ∀ e, m.tod.stepAt = some e → m.todNs < e) : todApply c m = m := by
  unfold todApply
  cases at' : m.tod.stepAt with
  | none => rfl
  | some e => exact if_neg (Nat.not_le.mpr (waits e at'))

theorem todStepped_of_waits {d : Dev} (waits : ∀ e, d.m.tod.stepAt = some e → d.m.todNs < e) : todStepped d = d := by
  unfold todStepped
  rw [todApply_of_waits waits]
  exact if_neg (by cases d.m.tod.stepAt <;> simp)

theorem todApply_of_due {e : Nat} (step : m.tod.stepAt = some e) (due : e ≤ m.todNs) : todApply c m =
    if ppsSecond c m < ppsSecond c m.steppedTod then
      { m.steppedTod with tod := { m.steppedTod.tod with ppsDone := (ppsSecond c m.steppedTod).toNat :: m.steppedTod.tod.ppsDone } } else m.steppedTod := by
  unfold todApply
  rw [step]
  exact if_pos due

theorem todApply_sch {e : Nat} (step : m.tod.stepAt = some e) (due : e ≤ m.todNs) : (todApply c m).sch = m.sch := by
  rw [todApply_of_due step due]
  split <;> rfl

/-- The gate lists take their position. -/
def gatesShown (m : Mach) : Mach := m.sch.gates.foldl (fun m g => gateShow (gateChange m g.1) g.1) m

theorem gatesShown_glb : (gatesShown m).glb = m.glb := by
  have each (m : Mach) (l : Nat) : (gateShow (gateChange m l) l).glb = m.glb := by
    unfold gateShow gateChange
    dsimp only
    split <;> rfl
  unfold gatesShown
  generalize m.sch.gates = gs
  induction gs generalizing m with
  | nil => rfl
  | cons g gs ih => exact ih.trans (each m g.1)

theorem todStepped_of_due {d : Dev} {e : Nat} (step : d.m.tod.stepAt = some e) (due : e ≤ d.m.todNs) :
    todStepped d = turnBoundary { d with m := gatesShown (todApply d.cfg d.m) } := by
  have taken : (todApply d.cfg d.m).tod.stepAt = none := by
    rw [todApply_of_due step due]
    split <;> rfl
  exact if_pos (by rw [step, taken]; rfl)

/-! ### Replicas -/

theorem raise_tod (cls inst sev detail : Nat) : (raise c m cls inst sev detail).tod = m.tod := by
  obtain ⟨g, frame⟩ := raise_frame c m cls inst sev detail
  rw [frame]

theorem replicaRest_near : (replicaRest m).natAbs ≤ 26214 := by
  unfold replicaRest
  omega

end

/-- Settles O56: the edges of `PPS_IN` and their absence, `PPS_OUT`, a step and what it passes, and the replicas. -/
theorem timeOfDayFollowsItsEdgesAndSteps : Obligations.TimeOfDayFollowsItsEdgesAndSteps := by
  unfold Obligations.TimeOfDayFollowsItsEdgesAndSteps
  intro s live t mode
  refine ⟨fun phase => ?_, fun cap phase silent => ppsCapture_of_silent silent, ?_, ?_, ?_, fun waits => ?_, fun e step due => ?_, fun die skew => ?_⟩
  · have row : exec (.ppsInEdge phase) s = .next (s.withM (ppsEdge s.conf s.mach phase)) := State.on_live live fun c m => ppsEdge c m phase
    intro glitch cap m
    refine ⟨fun off => ?_, fun on isGlitch => ?_, fun on plain other => ?_, fun align plain => ⟨fun near none => ?_, fun far aligned => ?_⟩⟩
    · rw [row, ppsEdge_of_off off, State.withM_mach]
    · rw [row, ppsEdge_of_glitch on isGlitch]
    · rw [row, ppsEdge_of_accepted on plain, if_neg other]
    · rw [row, ppsEdge_of_accepted (by rw [show s.conf.get todCtrlPpsMode = 2 from align]; decide) plain, if_pos align]
      exact congrArg (fun m => Host.Outcome.next (s.withM m)) (ppsAlign_of_near near none)
    · rw [row, ppsEdge_of_accepted (by rw [show s.conf.get todCtrlPpsMode = 2 from align]; decide) plain, if_pos align]
      exact congrArg (fun m => Host.Outcome.next (s.withM m)) (ppsAlign_of_far far aligned)
  · have row : exec .ppsMissingTimeout s = .next (s.withM (ppsMissing s.conf s.mach)) := State.on_live live ppsMissing
    intro late m
    refine ⟨fun heard => ?_, fun isLate told => ?_, fun isLate fresh => ?_⟩
    · rw [row, ppsMissing_of_heard heard, State.withM_mach]
    · rw [row, ppsMissing_of_late isLate, lossShown_of_told (m := s.mach.setSt todStatPpsMissing 1) told]
    · rw [row, ppsMissing_of_late isLate, lossShown_of_fresh (m := s.mach.setSt todStatPpsMissing 1) fresh]
      rfl
  · have row : exec .ppsOutRise s = .next (s.withM (ppsRise s.conf s.mach)) := State.on_live live ppsRise
    intro n may
    exact ⟨fun isMay => by rw [row, ppsRise_of_may isMay], fun not => by rw [row, ppsRise_of_not not, State.withM_mach]⟩
  · have row : exec .ppsOutFall s = .next (s.withM (ppsFall s.mach)) := State.on_live live fun _ m => ppsFall m
    exact ⟨fun ended => by rw [row, ppsFall, if_pos ended], fun early => by rw [row, ppsFall, if_neg (Nat.not_le.mpr early), State.withM_mach]⟩
  · have row : exec .todStepApply s = .next { s with dev := todStepped s.dev } := State.onDev_live live todStepped
    rw [row, todStepped_of_waits waits]
  · have row : exec .todStepApply s = .next { s with dev := todStepped s.dev } := State.onDev_live live todStepped
    have taken : gatesShown (todApply s.conf s.mach) = s.mach.sch.gates.foldl (fun m g => gateShow (gateChange m g.1) g.1) (todApply s.conf s.mach) := by
      rw [gatesShown, todApply_sch step due]
    rw [todApply_of_due (c := s.conf) step due] at taken
    intro v m₀ m₁ m
    have shown : gatesShown (todApply s.conf s.mach) = m := by
      rw [todApply_of_due (c := s.conf) step due]
      exact taken
    have glb : m.glb = s.mach.glb := by
      rw [← shown, gatesShown_glb, todApply_of_due step due]
      split <;> rfl
    have live' : (s.withM m).live := by
      show m.glb.inReset = false
      rw [glb]
      exact live
    have stepped : todStepped s.dev = turnBoundary (s.withM m).dev := (todStepped_of_due step due).trans (by rw [shown]; rfl)
    have boundary : exec .turnBoundary (s.withM m) = .next { s.withM m with dev := turnBoundary (s.withM m).dev } := State.onDev_live live' turnBoundary
    refine ⟨?_, fun not => ?_⟩
    · rw [row, boundary, stepped]
      rfl
    · rw [row, stepped, turnBoundary_of_not_due not]
      rfl
  · have row : exec (.todReplicaCorrect die skew) s = .next (s.withM (replicaCorrect s.conf s.mach die skew)) :=
      State.on_live live fun c m => replicaCorrect c m die skew
    intro m
    refine ⟨fun far => ?_, fun near master => ?_, fun near other => ⟨replicaRest s.mach, replicaRest_near, ?_⟩⟩
    · rw [row, replicaCorrect, if_pos far]
      exact congrArg (fun t : TodSt => Host.Outcome.next (s.withM { m with tod := { t with replica := Tbl.put 0 t.replica die 0 } })) (raise_tod ..)
    · rw [row, replicaCorrect, if_neg (Nat.not_lt.mpr near), if_pos (by rw [master]; rfl), State.withM_mach]
    · have other' : die.val ≠ 7 := fun same => other (Fin.ext same)
      rw [row, replicaCorrect, if_neg (Nat.not_lt.mpr near), if_neg other']
      rfl

end Sys2Proof.Machine

/-! What ends the seal checks, a turn and a restart (R73, R375, R377, R378, R386, R387, R390). -/
namespace Sys2Proof.Machine

section
variable {c : Cfg} {m : Mach} {d : Dev}

/-! ### The seal checks -/

theorem sealDone_of_idle (idle : d.m.glb.sealSt ≠ .checking) : sealDone d = d := by
  have same : sealChecked d.cfg d.m = d.m := if_pos idle
  unfold sealDone
  rw [same]
  exact if_neg fun checks => idle checks.1

section
variable (checking : d.m.glb.sealSt = .checking)
include checking

theorem sealDone_of_earlier (stage : d.m.glb.stage = .waitHost) (waits : earlierWaits d.m = true) : sealDone d = d := by
  have same : sealChecked d.cfg d.m = d.m :=
    (if_neg (not_not.mpr checking)).trans ((if_neg (not_not.mpr stage)).trans (if_pos waits))
  unfold sealDone
  rw [same]
  exact if_neg fun ends => by simp [stage, waits] at ends

theorem sealDone_of_ends {m' : Mach} (ends : d.m.glb.stage ≠ .waitHost ∨ earlierWaits d.m = false) (left : sealChecked d.cfg d.m = m') :
    sealDone d = resumeHeld ⟨d.cfg, m'⟩ := by
  subst left
  exact if_pos ⟨checking, ends⟩

theorem sealChecked_of_stopped (stopped : d.m.glb.stage ≠ .waitHost) :
    sealChecked d.cfg d.m = { d.m with glb := { d.m.glb with sealSt := .unsealed } } :=
  (if_neg (not_not.mpr checking)).trans (if_pos stopped)

section
variable (stage : d.m.glb.stage = .waitHost) (first : earlierWaits d.m = false)
include stage first

theorem sealChecked_of_failed {k w : Nat} (failed : firstFailure d.cfg d.m sealCodes = some (k, w)) : sealChecked d.cfg d.m = sealFail d.cfg d.m k w := by
  refine (if_neg (not_not.mpr checking)).trans ((if_neg (not_not.mpr stage)).trans ((if_neg (by rw [first]; decide)).trans ?_))
  rw [failed]

theorem sealChecked_of_passed (passed : firstFailure d.cfg d.m sealCodes = none) : sealChecked d.cfg d.m = sealPass d.cfg d.m := by
  refine (if_neg (not_not.mpr checking)).trans ((if_neg (not_not.mpr stage)).trans ((if_neg (by rw [first]; decide)).trans ?_))
  rw [passed]

end
end

theorem sealFail_of_other {k w : Nat} (other : k ≠ 6) :
    sealFail c m k w = { m with glb := { m.glb with sealSt := .refused, sealCode := k, sealWhere := w } } := by
  unfold sealFail
  rw [if_neg other]

/-- A refusal of the seal. -/
def Mach.sealRefused (m : Mach) (k w : Nat) : Mach := { m with glb := { m.glb with sealSt := .refused, sealCode := k, sealWhere := w } }

theorem sealFail_of_port (w : Nat) : sealFail c m 6 w = (refuse m m.glb.sealBy (badPortOff c) 3 6).sealRefused 6 w := by
  unfold sealFail
  rw [if_pos rfl]
  rfl

/-- What the digest covers stands in the registers and the active banks. -/
theorem sealDigest_of_same {m' : Mach} (reg : m'.reg = m.reg) (act : m'.act = m.act) : sealDigest c m' = sealDigest c m := by
  have words : digestWord c m' = digestWord c m := by
    funext r i j k
    unfold digestWord Mach.st
    rw [reg]
  unfold sealDigest digestRegs
  rw [words, act]

/-- A seed drawn for the flow hash. -/
def Mach.seeded (m : Mach) : Mach :=
  { m with
    free := m.free + 2
    fsl := { m.fsl with seed := beBytes 8 (Config.random m.free).toNat ++ beBytes 8 (Config.random (m.free + 1)).toNat } }

theorem drawSeed_eq : drawSeed c m = if c.on fstCtrlSwSeed = true then m else m.seeded := rfl

/-- The digest's words are shown. -/
def Mach.digestShown (m : Mach) (digest : List Byte) : Mach := (List.range 8).foldl (fun m n => m.setSt glbSealDigestDigest (be digest (4 * n) 4) n) m

theorem digestShown_glb (digest : List Byte) : (m.digestShown digest).glb = m.glb := by
  unfold Mach.digestShown
  generalize List.range 8 = l
  induction l generalizing m with
  | nil => rfl
  | cons n l ih => exact ih

/-- The seal stands, in turn 0. -/
def Mach.sealedAs (m : Mach) (g : GlbSt) : Mach := { m with glb := { g with sealSt := .sealed, sealCode := 0, sealWhere := 0, active := 0, stage := .sealed } }

theorem sealPass_eq :
    sealPass c m = startOutputs c (((if c.on fstCtrlSwSeed = true then m else m.seeded).digestShown (sealDigest c m)).sealedAs m.glb) := by
  have reg : (drawSeed c m).reg = m.reg := by
    rw [drawSeed_eq]
    split <;> rfl
  have act : (drawSeed c m).act = m.act := by
    rw [drawSeed_eq]
    split <;> rfl
  have glb : (drawSeed c m).glb = m.glb := by
    rw [drawSeed_eq]
    split <;> rfl
  have pass : sealPass c m = startOutputs c (((drawSeed c m).digestShown (sealDigest c (drawSeed c m))).sealedAs
      ((drawSeed c m).digestShown (sealDigest c (drawSeed c m))).glb) := rfl
  rw [pass, digestShown_glb, glb, sealDigest_of_same reg act, drawSeed_eq]

/-! ### A turn -/

theorem turnBoundary_of_due (scheduled : d.m.glb.turn = .scheduled) (due : d.m.glb.boundary ≤ d.m.todNs) : turnBoundary d =
    ⟨{ d.cfg with old := d.cfg.act, act := d.cfg.shadow }, newTree d.cfg { d.cfg with old := d.cfg.act, act := d.cfg.shadow } (setMeas { d.m with
      glb := { d.m.glb with turn := .draining, active := d.m.glb.active + 1 }
      act := { d.m.act with old := d.m.act.act, act := d.m.act.shadow } } 5 d.m.sec.shadowProg)⟩ :=
  if_pos (by simp [scheduled, due])

theorem turnDrained_of_drained (draining : m.glb.turn = .draining) (none : oldUsers m = false) :
    turnDrained m = { m with glb := { m.glb with copying := true } } := if_pos (by simp [draining, none])

theorem turnDrained_of_not (not : m.glb.turn ≠ .draining ∨ oldUsers m = true) : turnDrained m = m :=
  if_neg (by rcases not with other | used <;> simp [*])

theorem copyEnds_of_idle (idle : d.m.glb.copying = false) : copyEnds d = d := if_neg (by rw [idle]; decide)

theorem copyEnds_of_copying (copying : d.m.glb.copying = true) : copyEnds d = resumeHeld ⟨{ d.cfg with shadow := d.cfg.act },
    { d.m with
      act := { d.m.act with shadow := d.m.act.act }, sec := { d.m.sec with shadowProg := Tbl.look {} d.m.sec.meas 5 }
      glb := { d.m.glb with turn := .idle, copying := false } }⟩ :=
  (if_pos copying).trans (congrArg resumeHeld (if_pos copying))

/-! ### A restart -/

/-- A restart's end. -/
def Mach.restartOver (m : Mach) : Mach := { m with glb := { m.glb with restarting := false, stage := .waitHost } }

theorem restartDone_of_idle (idle : m.glb.restarting = false) : restartDone c m = m := if_neg (by rw [idle]; decide)

theorem restartDone_of_restarting (restarting : m.glb.restarting = true) :
    restartDone c m = if m.sec.rngSeeded then (treeAsk c m.restartOver).2 else m.restartOver := if_pos restarting

theorem treeAsk_of_asked {t : Nat × Nat} {a : LeaveAns} {m' : Mach} (idle : m.sec.gen = none) (due : treeDue m = some t)
    (notHeld : m.holdsLeave opTree t.1 = false) (notAsked : m.waitsLeave opTree t.1 = false) (asked : askLeave c m opTree t.1 = (a, m')) :
    (treeAsk c m).2 = if a = .granted then { m' with sec := { m'.sec with gen := some t } } else m' := by
  unfold treeAsk
  rw [idle, due]
  dsimp only
  rw [if_neg (by rw [notHeld]; decide), if_neg (by rw [notAsked]; decide), asked]
  cases a <;> rfl

end

/-- Settles O57: how the seal checks end, a turn's boundary, drain and bank copy, and the end of a restart. -/
theorem sealTurnAndRestartEnd : Obligations.SealTurnAndRestartEnd := by
  unfold Obligations.SealTurnAndRestartEnd
  intro s live g c
  have checks : exec .sealChecksDone s = .next { s with dev := sealDone s.dev } := State.onDev_live live sealDone
  have boundary : exec .turnBoundary s = .next { s with dev := turnBoundary s.dev } := State.onDev_live live turnBoundary
  have drain : exec .turnDrainDone s = .next (s.withM (turnDrained s.mach)) := State.on_live live fun _ m => turnDrained m
  have copy : exec .bankCopyDone s = .next { s with dev := copyEnds s.dev } := State.onDev_live live copyEnds
  have restart : exec .restartComplete s = .next (s.withM (settle s.conf (restartDone s.conf s.mach))) := State.onSettle_live live restartDone
  refine ⟨fun idle => ?_, fun checking stopped => ?_, fun checking stage => ⟨fun waits => ?_, fun first => ⟨fun k w failed other => ?_, fun w failed => ?_,
    fun passed => ?_⟩⟩, fun not => ?_, fun scheduled due => ?_, fun draining none => ?_, fun not => ?_, fun idle => ?_, fun copying => ?_, fun idle => ?_,
    fun restarting => ?_⟩
  · rw [checks, sealDone_of_idle idle]
  · rw [checks, sealDone_of_ends checking (.inl stopped) (sealChecked_of_stopped checking stopped)]
  · rw [checks, sealDone_of_earlier checking stage waits]
  · rw [checks, sealDone_of_ends checking (.inr first) ((sealChecked_of_failed checking stage first failed).trans (sealFail_of_other other))]
  · intro m
    have refused : refuse s.dev.m s.dev.m.glb.sealBy (badPortOff s.dev.cfg) 3 6 = m := rfl
    rw [checks, sealDone_of_ends checking (.inr first) ((sealChecked_of_failed checking stage first failed).trans (sealFail_of_port w)), refused]
    clear_value m
    rfl
  · intro seed shown m
    have drawn : (if s.dev.cfg.on fstCtrlSwSeed = true then s.dev.m else s.dev.m.seeded) = seed := rfl
    have digest : seed.digestShown (sealDigest s.dev.cfg s.dev.m) = shown := rfl
    have started : startOutputs s.dev.cfg (shown.sealedAs s.dev.m.glb) = m := rfl
    rw [checks, sealDone_of_ends checking (.inr first) ((sealChecked_of_passed checking stage first passed).trans sealPass_eq), drawn, digest, started]
  · rw [boundary, turnBoundary_of_not_due not]
  · rw [boundary, turnBoundary_of_due scheduled due]
  · rw [drain, turnDrained_of_drained draining none]
  · rw [drain, turnDrained_of_not not, State.withM_mach]
  · rw [copy, copyEnds_of_idle idle]
  · rw [copy, copyEnds_of_copying copying]
  · rw [restart, restartDone_of_idle idle]
  · intro m
    refine ⟨fun unseeded => ?_, fun seeded => ⟨?_, fun t a m' idle dueTree notHeld notAsked asked => ?_⟩⟩
    · rw [restart, restartDone_of_restarting restarting, if_neg (by rw [unseeded]; decide)]
      rfl
    · rw [restart, restartDone_of_restarting restarting, if_pos seeded]
      rfl
    · rw [restart, restartDone_of_restarting restarting, if_pos seeded,
        treeAsk_of_asked (m := s.mach.restartOver) idle dueTree notHeld notAsked asked]

end Sys2Proof.Machine

/-! What settling keeps. A command that waited for leave may sign a quote, write the tag or enrol an owner, so what settles behind a step does not keep
the secure store; it keeps the global state, the time of day and the mark of a FATAL fault all the same. -/
namespace Sys2Proof.Machine

/-- The global state, the time of day and the mark of a FATAL fault stay. -/
structure Steady (m m' : Mach) : Prop where
  glb : m'.glb = m.glb
  tod : m'.tod = m.tod
  fatal : m'.flt.fatal = m.flt.fatal

variable {c : Cfg} {m₀ m m' : Mach}

theorem Steady.refl (m : Mach) : Steady m m := ⟨rfl, rfl, rfl⟩

theorem Steady.trans {a b e : Mach} (h : Steady a b) (h' : Steady b e) : Steady a e :=
  ⟨h'.glb.trans h.glb, h'.tod.trans h.tod, h'.fatal.trans h.fatal⟩

theorem Steady.step (h : Steady m₀ m) (keeps : Keeps True m m') : Steady m₀ m' :=
  h.trans ⟨(keeps.still trivial).glb, (keeps.still trivial).tod, (keeps.still trivial).fatal⟩

theorem Steady.foldl {α : Type} {f : Mach → α → Mach} {l : List α} (hf : ∀ m x, Steady m₀ m → Steady m₀ (f m x)) {m : Mach} (h : Steady m₀ m) :
    Steady m₀ (l.foldl f m) := by
  induction l generalizing m with
  | nil => exact h
  | cons x l ih => exact ih (hf m x h)

/-! ### What writes the secure store -/

theorem reserveLeaf_steady (h : Steady m₀ m) : Steady m₀ (reserveLeaf m).2 := by
  unfold reserveLeaf
  dsimp only
  split
  · exact h
  · exact h.trans ⟨rfl, rfl, rfl⟩

theorem tagWrite_steady {off : Nat} {b : List Byte} (h : Steady m₀ m) : Steady m₀ (tagWrite m off b).2 := by
  unfold tagWrite
  split
  · exact h
  · split
    · exact h
    · exact h.trans ⟨rfl, rfl, rfl⟩

theorem ownerEnrol_steady {b : List Byte} (h : Steady m₀ m) : Steady m₀ (ownerEnrol m b).2 := by
  have owner (x : List Byte) : Steady m₀ (setOwner m x) := h.trans ⟨rfl, rfl, rfl⟩
  unfold ownerEnrol
  grind

theorem sign_steady {n : Nat} {body : List Byte} (h : Steady m₀ m) : (match reserveLeaf m with
    | (false, m) => QuoteAns.wait body m
    | (true, m) => let (out, m) := signQuote c m body
      .done 0x00 out (releaseLeave c m opQuote n)).Leaves (Steady m₀) := by
  have kept : Steady m₀ (reserveLeaf m).2 := reserveLeaf_steady h
  split
  · next m₁ full => rwa [full] at kept
  · next m₁ e =>
    rw [e] at kept
    exact kept.step (releaseLeave_keeps (signQuote_keeps (body := body) (.refl m₁)))

theorem quote_steady {n : Nat} {body : List Byte} (h : Steady m₀ m) : (quote c m n body).Leaves (Steady m₀) := by
  have asked : Steady m₀ (askLeave c m opQuote n).2 := h.step (askLeave_keeps (.refl m))
  have tree : Steady m₀ (treeAsk c m).2 := h.step (treeAsk_keeps (.refl m))
  unfold quote
  split
  · exact h
  · split
    · split
      · next m₁ e => rwa [e] at tree
      · next m₁ e => rwa [e] at tree
    · split
      · exact h
      · dsimp only
        split
        · exact sign_steady h
        · split
          · exact h
          · split
            · next m₁ e => rw [e] at asked; exact sign_steady asked
            · next m₁ e => rwa [e] at asked
            · next m₁ e => rwa [e] at asked

theorem attest_steady {n : Nat} {q : Cmd} (h : Steady m₀ m) : (attest c m n q).Leaves (Steady m₀) := by
  unfold attest
  split
  · exact h
  · extract_lets body
    have quoted : (quote c m n body).Leaves (Steady m₀) := quote_steady h
    split
    · next st out m₁ e => rwa [e] at quoted
    · next body' m₁ e => rwa [e] at quoted

/-! ### Commands -/

theorem cmdEffect_steady {n : Nat} {rid : Option Nat} {slot : Nat} {op : CmdOp} {q : Cmd} {spot : Option Spot} (h : Steady m₀ m) :
    (cmdEffect c m n rid slot op q spot).Leaves (Steady m₀) := by
  cases op with
  | nop => exact h
  | ringCreate => exact h.step (ringCreate_keeps (.refl m))
  | ringDestroy =>
    simp only [cmdEffect]
    split
    · exact h
    · exact h
    · split
      · exact h.step (ringDestroy_keeps (.refl m))
      · exact h.step (ringDestroy_keeps (.refl m))
  | ringQuery => exact h
  | flowInsert => exact h.step (flowInsert_keeps (.refl m))
  | flowModify => exact h.step (flowModify_keeps (.refl m))
  | flowDelete => exact h.step (flowDelete_keeps (.refl m))
  | flowQuery => exact h.step (flowQuery_keeps (.refl m))
  | natPoolSet => exact h.step (natPoolSet_keeps (.refl m))
  | natPortFree => exact h.step (natPortFree_keeps (.refl m))
  | beGroupSet => exact h.step (beGroupSet_keeps (.refl m))
  | beSlotSet => exact h.step (beSlotSet_keeps (.refl m))
  | backendSet => exact h.step (backendSet_keeps (.refl m))
  | progLoad => exact h.step (progLoad_keeps (.refl m))
  | tmplSet => exact h.step (tmplSet_keeps (.refl m))
  | parseSet => exact h.step (parseSet_keeps (.refl m))
  | clsSet => exact h.step (clsSet_keeps (.refl m))
  | fdbSet => exact h.step (fdbSet_keeps (.refl m))
  | fdbDelete => exact h.step (fdbDelete_keeps (.refl m))
  | fdbQuery => exact h.step (fdbQuery_keeps (.refl m))
  | fdbFlush => exact h.step (fdbFlush_keeps (.refl m))
  | bdSet => exact h.step (bdSet_keeps (.refl m))
  | lpmAdd => exact h.step (lpmAdd_keeps (.refl m))
  | lpmDelete => exact h.step (lpmDelete_keeps (.refl m))
  | nhSet => exact h.step (nhSet_keeps (.refl m))
  | ecmpGroupSet => exact h.step (ecmpGroupSet_keeps (.refl m))
  | ecmpMemberSet => exact h.step (ecmpMemberSet_keeps (.refl m))
  | ecmpMemberDown => exact h.step (ecmpMove_keeps (.refl m))
  | ecmpMemberUp => exact h.step (ecmpMove_keeps (.refl m))
  | subSet => exact h.step (subSet_keeps (.refl m))
  | subQuery => exact h.step (subQuery_keeps (.refl m))
  | policerSet => exact h.step (policerSet_keeps (.refl m))
  | policerQuery => exact h.step (policerQuery_keeps (.refl m))
  | gclSet => exact h.step (gclSet_keeps (.refl m))
  | steerSet => exact h.step (steerSet_keeps (.refl m))
  | steerQuery => exact h.step (steerQuery_keeps (.refl m))
  | promote => exact h.step (promote_keeps (.refl m))
  | coreLoad => exact h.step (coreLoadImage_keeps (.refl m))
  | attest => exact attest_steady h
  | tagWrite => exact tagWrite_steady h
  | ownerEnrol => exact ownerEnrol_steady h
  | reserved => exact h

theorem countTable_steady {op : CmdOp} {q : Cmd} {a : CmdAns} (h : a.Leaves (Steady m₀)) : (countTable c op q a).Leaves (Steady m₀) := by
  unfold countTable
  split
  · next st d out m₁ => exact Steady.step h (tableWrites_keeps (.refl m₁))
  · exact h

theorem cmdRun_steady {n : Nat} {rid : Option Nat} {slot : Nat} {op : CmdOp} {q : Cmd} {spot : Option Spot} (h : Steady m₀ m) :
    (cmdRun c m n rid slot op q spot).Leaves (Steady m₀) := by
  have ran {m : Mach} (h : Steady m₀ m) : (countTable c op q (cmdEffect c m n rid slot op q spot)).Leaves (Steady m₀) :=
    countTable_steady (cmdEffect_steady h)
  have go {m : Mach} (h : Steady m₀ m) : (match countTable c op q (cmdEffect c m n rid slot op q spot) with
      | .done st d out m => CmdAns.done st d out (releaseLeave c m opBulk n)
      | a => a).Leaves (Steady m₀) := by
    have := ran h
    split
    · next st d out m₁ e =>
      rw [e] at this
      exact Steady.step this (releaseLeave_keeps (.refl m₁))
    · exact this
  have asked : Steady m₀ (askLeave c m opBulk n).2 := h.step (askLeave_keeps (.refl m))
  unfold cmdRun
  dsimp only
  split
  · exact ran h
  · split
    · exact go h
    · split
      · exact h
      · split
        · next m₁ e => rw [e] at asked; exact go asked
        · next m₁ e => rwa [e] at asked
        · next m₁ e => rwa [e] at asked

theorem cmdPlace_steady {n : Option Nat} {o : Origin} {slot : Nat} {op : CmdOp} {q : Cmd} {spot : Option Spot} (h : Steady m₀ m) :
    Steady m₀ (cmdPlace c m n o slot op q spot) := by
  unfold cmdPlace
  extract_lets n'
  have ran := cmdRun_steady (n := n') (rid := originRing o) (slot := slot) (op := op) (q := q) (spot := spot) (c := c) h
  split
  · next st d out m' e =>
    rw [e] at ran
    exact Steady.step ran (cmdDone_keeps (Keeps.rest (.refl m') rfl))
  · next q' m' e =>
    rw [e] at ran
    exact Steady.trans ran ⟨rfl, rfl, rfl⟩
  · next m' e => rwa [e] at ran

theorem retryCmds_steady (h : Steady m₀ m) : Steady m₀ (retryCmds c m) := by
  unfold retryCmds
  refine Steady.foldl (fun m e hm => ?_) h
  split
  · split
    · exact hm
    · exact cmdPlace_steady hm
  · exact hm

/-! ### The slices' work -/

theorem jobRun_steady {w : Waiter} {spot : Option Spot} (h : Steady m₀ m) : Steady m₀ (jobRun c m w spot) := by
  unfold jobRun
  extract_lets f m₁
  have taken : Steady m₀ m₁ := h.trans ⟨rfl, rfl, rfl⟩
  split
  · exact cmdPlace_steady (taken.step (bump_keeps (.refl m₁)))
  · exact taken.step (compInsert_keeps (.refl m₁))
  · exact taken.step (compDelete_keeps (.refl m₁))
  · exact taken.step (undoForward_keeps (.refl m₁))
  · exact taken.step (wbRun_keeps (.refl m₁))
  · exact taken.step (recordMsgRun_keeps (.refl m₁))
  · exact taken.step (markRun_keeps (.refl m₁))
  · exact taken.step (ackEffect_keeps (.refl m₁))

theorem jobTry_steady {w : Waiter} (h : Steady m₀ m) : Steady m₀ (jobTry c m w) := by
  have placed : Steady m₀ (jobPlace c m w).2 := h.step (jobPlace_keeps (.refl m))
  unfold jobTry
  split
  · exact h
  · split
    · exact jobRun_steady h
    · split
      · next spot m₁ e => rw [e] at placed; exact jobRun_steady placed
      · next m₁ e => rwa [e] at placed
    · split
      · exact h
      · exact h.step (bump_keeps (Keeps.rest (.refl m) rfl))
    · exact h

theorem storeGo_steady {n : Nat} (h : Steady m₀ m) : Steady m₀ (storeGo c n m) := by
  induction n generalizing m with
  | zero => exact h.step (settleOps_keeps (.refl m))
  | succ n ih => exact ih (Steady.foldl (fun _ _ hm => jobTry_steady hm) (h.step (settleOps_keeps (.refl m))))

theorem settle_steady (h : Steady m₀ m) : Steady m₀ (settle c m) := by
  unfold settle
  exact retryCmds_steady ((storeGo_steady h).step (roundsForLoss_keeps (.refl _)))

/-! ### Leave and what waits behind reports -/

theorem leaveGoesOn_steady (h : Steady m₀ m) : Steady m₀ (leaveGoesOn c m) := settle_steady (h.step (treeAsk_keeps (.refl m)))

theorem upwardGo_steady (h : Steady m₀ m) : Steady m₀ (upwardGo c m) := by
  have go (m : Mach) (e : Nat × Nat) (hm : Steady m₀ m) : Steady m₀ (if reportsWait m (leaveDie e.1 e.2) then { m with pwr := { m.pwr with asks := m.pwr.asks ++ [e] } }
      else match leaveArrive c m e.1 e.2 with
        | (.refused, m) => leaveRefused c m e.1 e.2
        | (_, m) => m) := by
    have arrived : Steady m₀ (leaveArrive c m e.1 e.2).2 := hm.step (leaveArrive_keeps (.refl m))
    split
    · exact hm.trans ⟨rfl, rfl, rfl⟩
    · split
      · next m₁ eq => rw [eq] at arrived; exact arrived.step (leaveRefused_keeps (.refl m₁))
      · next a m₁ _ eq => rwa [eq] at arrived
  have gone : Steady m₀ (m.pwr.asks.foldl (fun m e => if reportsWait m (leaveDie e.1 e.2) then { m with pwr := { m.pwr with asks := m.pwr.asks ++ [e] } }
      else match leaveArrive c m e.1 e.2 with
        | (.refused, m) => leaveRefused c m e.1 e.2
        | (_, m) => m) { m with pwr := { m.pwr with asks := [] } }) := Steady.foldl go (h.trans ⟨rfl, rfl, rfl⟩)
  unfold upwardGo
  refine Steady.step ?_ (behindGo_keeps (.refl _))
  split
  · exact gone
  · exact leaveGoesOn_steady gone

end Sys2Proof.Machine

/-! Reports and what follows them (chapter 13): a tick of the fault controller, links, quiet times, restores, copies and the `HEALTH` pin. What waits
behind the reports ends no turn, so a tick without a FATAL report settles as any other step. -/
namespace Sys2Proof.Machine
variable {k₀ : Prop} {c : Cfg} {m₀ m : Mach} {s : State}

/-! ### The pin -/

theorem healthDrive_of_served (served : healthMode c m = 1) (still : healthHeld c m = false ∨ m.flt.lowSince.isSome = true) : healthDrive c m = m := by
  refine (if_pos served).trans (if_neg ?_)
  rcases still with still | still
  · simp [still]
  · cases low : m.flt.lowSince <;> simp_all

theorem setHealth_frame (v : Bool) : ∃ h e, setHealth m v = { m with flt := { m.flt with health := h, edgeAt := e } } := by
  unfold setHealth
  split
  · exact ⟨_, _, rfl⟩
  · exact ⟨_, _, rfl⟩

theorem setHealth_health (v : Bool) : (setHealth m v).flt.health = v := by
  unfold setHealth
  split
  · assumption
  · rfl

theorem setHealth_of_same {v : Bool} (same : m.flt.health = v) : setHealth m v = m := if_pos same

/-- The pin at rest in a static mode. -/
def pinStatic (m : Mach) : Mach := { setHealth m (!anyActive m) with flt := { (setHealth m (!anyActive m)).flt with lowSince := none } }

/-- The pin taken low in service. -/
def pinLow (m : Mach) : Mach := { setHealth m false with flt := { (setHealth m false).flt with lowSince := some (setHealth m false).up } }

theorem pinStatic_of_same (same : m.flt.health = !anyActive m) (rises : m.flt.lowSince = none) : pinStatic m = m := by
  unfold pinStatic
  rw [setHealth_of_same same]
  exact congrArg (fun low => { m with flt := { m.flt with lowSince := low } }) rises.symm

theorem pinStatic_static : pinStatic (pinStatic m) = pinStatic m := by
  obtain ⟨h, e, same⟩ := setHealth_frame (m := m) (!anyActive m)
  have cls : anyActive (pinStatic m) = anyActive m := by
    unfold pinStatic
    rw [same]
    rfl
  exact pinStatic_of_same (by rw [cls]; exact setHealth_health (m := m) (!anyActive m)) rfl

theorem healthMode_pinStatic : healthMode c (pinStatic m) = healthMode c m := by
  obtain ⟨h, e, same⟩ := setHealth_frame (m := m) (!anyActive m)
  unfold pinStatic
  rw [same]
  rfl

theorem healthDrive_static (static : healthMode c m ≠ 1) : healthDrive c m = pinStatic m := if_neg static

theorem healthMode_pinLow : healthMode c (pinLow m) = healthMode c m := by
  obtain ⟨h, e, same⟩ := setHealth_frame (m := m) false
  unfold pinLow
  rw [same]
  rfl

/-- The pin driven once stays as it is when it is driven again. -/
theorem healthDrive_driven : healthDrive c (healthDrive c m) = healthDrive c m := by
  by_cases served : healthMode c m = 1
  · by_cases low : (healthHeld c m && m.flt.lowSince.isNone) = true
    · have driven : healthDrive c m = pinLow m := (if_pos served).trans (if_pos low)
      rw [driven]
      exact healthDrive_of_served (healthMode_pinLow.trans served) (.inr rfl)
    · have driven : healthDrive c m = m := (if_pos served).trans (if_neg low)
      rw [driven, driven]
  · rw [healthDrive_static served, healthDrive_static (fun h => served (healthMode_pinStatic.symm.trans h)), pinStatic_static]

/-! ### A tick -/

/-- A tick that ends no turn settles as any other step. -/
theorem tickProcess_of_turn {d : Dev} {hs : List Hazard} {inj : List (BitVec 32 × BitVec 32)}
    (turn : (faultTick d.cfg d.m hs inj).glb.turn = d.m.glb.turn) : tickProcess d hs inj = settleDev { d with m := faultTick d.cfg d.m hs inj } :=
  if_neg fun ⟨was, now⟩ => was (turn.symm.trans now)

/-- What the reports of a tick leave goes up behind them, where they end no turn. -/
theorem exec_tick (live : s.live) {inj : List (BitVec 32 × BitVec 32)} {m' : Mach}
    (all : processAll s.conf (inj.foldl (injectOne s.conf) s.mach) = m') (turn : m'.glb.turn = s.mach.glb.turn) :
    exec (.faultTickProcess [] inj) s = .next (s.withM (settle s.conf (upwardGo s.conf m'))) := by
  have tick : faultTick s.conf s.mach [] inj = upwardGo s.conf m' := congrArg (upwardGo s.conf) all
  have row : exec (.faultTickProcess [] inj) s = .next { s with dev := tickProcess s.dev [] inj } := State.onDev_live live fun d => tickProcess d [] inj
  have kept : (faultTick s.dev.cfg s.dev.m [] inj).glb.turn = s.dev.m.glb.turn :=
    (congrArg (fun m => m.glb.turn) tick).trans ((congrArg GlbSt.turn (upwardGo_steady (.refl m')).glb).trans turn)
  rw [row, tickProcess_of_turn kept]
  exact congrArg (fun m => Host.Outcome.next (s.withM (settle s.conf m))) tick

theorem foldl_injectOne_of_disarmed (off : m.stOn fltInjectArmed = false) (inj : List (BitVec 32 × BitVec 32)) : inj.foldl (injectOne c) m = m := by
  induction inj with
  | nil => rfl
  | cons x xs ih =>
    have one : injectOne c m x = m := if_pos (by rw [off]; rfl)
    rw [List.foldl_cons, one, ih]

theorem processAll_of_none (quiet : m.flt.waiting = []) : processAll c m = healthDrive c m := by
  unfold processAll
  rw [quiet]
  exact congrArg (healthDrive c) (congrArg (fun w => { m with flt := { m.flt with waiting := w } }) quiet.symm)

theorem processAll_of_one {r : Report} (one : m.flt.waiting = [r]) :
    processAll c m = healthDrive c (processReport c { m with flt := { m.flt with waiting := [] } } r) := by
  unfold processAll
  rw [one]
  rfl


/-! ### A report -/

/-- A report escalates where its class has not been acknowledged. -/
def Mach.escalates (m : Mach) (r : Report) : Bool := (m.class (r.src / 16)).unacked && decide (r.sev < 4)

/-- The severity a report has then. -/
def Mach.sevOf (m : Mach) (r : Report) : Nat := if m.escalates r = true then r.sev + 1 else r.sev

/-- The machine with a report in its class. -/
def Mach.takes (c : Cfg) (m : Mach) (r : Report) : Mach := (m.inc32 fltClassCntCount (r.src / 16)).setClass (r.src / 16)
  { active := true, unacked := true, sev := max (m.class (r.src / 16)).sev (m.sevOf r), expire := m.up + 1_000_000 * c.get fltQuietTimeQuiet }

/-- The machine with a report latched. -/
def Mach.latches (c : Cfg) (m : Mach) (r : Report) : Mach := latchFirst (m.takes c r) r (m.sevOf r) (m.escalates r)

/-- The machine with a report's event posted. -/
def Mach.posts (c : Cfg) (m : Mach) (r : Report) : Mach :=
  postFault c (m.latches c r) { src := r.src, sev := m.sevOf r, time := r.time, inj := false, esc := m.escalates r }

theorem processReport_of_real {r : Report} (real : r.inj = false) (mild : m.sevOf r ≠ SEVERE) : processReport c m r =
    healthDrive c (if m.sevOf r = FATAL then
      reactFatal c (if m.sevOf r = CORRECTED ∧ (m.class (r.src / 16)).active = true then m.latches c r else m.posts c r) (r.src / 16)
    else if m.sevOf r = CORRECTED ∧ (m.class (r.src / 16)).active = true then m.latches c r else m.posts c r) := by
  unfold processReport
  extract_lets cls inst m₁ acts k esc sev₀ sev m₂ m₃ m₄ m₅
  have does : acts = true := by simp only [acts, real]; rfl
  have escalates : esc = m.escalates r := by simp only [esc, does, Bool.true_and]; rfl
  have base : sev₀ = m.sevOf r := by simp only [sev₀, escalates]; rfl
  have same : sev = m.sevOf r := by
    simp only [sev]
    rw [if_neg (by simp [base, show m.sevOf r ≠ 3 from mild]), base]
  have taken : m₂ = m.takes c r := by
    simp only [m₂, does, if_true, same]
    rfl
  have latched : m₃ = m.latches c r := by
    simp only [m₃, taken, same, escalates]
    rfl
  have active : k.active = (m.class (r.src / 16)).active := rfl
  have posted : m₄ = if m.sevOf r = CORRECTED ∧ (m.class (r.src / 16)).active = true then m.latches c r else m.posts c r := by
    simp only [m₄, latched, same, active, escalates, real, Bool.and_eq_true, decide_eq_true_eq]
    rfl
  have reacted : m₅ = if m.sevOf r = FATAL then reactFatal c m₄ (r.src / 16) else m₄ := by
    simp only [m₅, does, same, Bool.not_true, Bool.false_eq_true, if_false]
    rw [if_neg mild]
  rw [reacted, posted]

/-- A mark of overflow stands in a word of its own, whatever the order of the table. -/
theorem fldIn_marked (t : Tbl Word) : fldIn (putFld t fltOverflowOverflow 0 0 0 1) fltFirstInjInj 0 0 0 = fldIn t fltFirstInjInj 0 0 0 := by
  have marked (w : Nat) : ¬BitVec.ofNat 32 (putBits w fltOverflowOverflow.hi fltOverflowOverflow.lo 1) = wordReset fltOverflowOverflow.part fltOverflowOverflow.reg 0 0 0 := fun same => by
    have set : bits (BitVec.ofNat 32 (putBits w fltOverflowOverflow.hi fltOverflowOverflow.lo 1)).toNat
        fltOverflowOverflow.hi fltOverflowOverflow.lo = 1 := by
      rw [bits_ofNat _ _ (by decide), bits_putBits_self]
      rfl
    rw [same] at set
    exact absurd set (by decide +kernel)
  unfold fldIn putFld Tbl.put
  rw [if_neg (marked _), Tbl.find_ins_other t _ (by decide)]

/-- Where the first error is real and stands, another marks an overflow. -/
theorem latchFirst_of_held {r : Report} {sev : Nat} {esc : Bool} (held : m.stOn fltFirstSrcValid = true) (real : m.stOn fltFirstInjInj = false) :
    latchFirst m r sev esc = m.setSt fltOverflowOverflow 1 := by
  have apart : (m.setSt fltOverflowOverflow 1).stOn fltFirstInjInj = m.stOn fltFirstInjInj := congrArg (· == 1) (fldIn_marked m.reg.stat)
  unfold latchFirst
  extract_lets take m₁
  rw [if_neg (by rw [held]; decide)]
  exact if_neg (by rw [show m₁.stOn fltFirstInjInj = m.stOn fltFirstInjInj from apart, real, Bool.false_and]; decide)

/-- A real report below SEVERE is latched, and its event posted unless it is CORRECTED and of an active class. -/
theorem processAll_of_mild {r : Report} (one : m.flt.waiting = [r]) (real : r.inj = false) {n : Mach}
    (cleared : n = { m with flt := { m.flt with waiting := [] } }) (mild : n.sevOf r ≤ DEGRADED) :
    processAll c m = healthDrive c (if n.sevOf r = CORRECTED ∧ (n.class (r.src / 16)).active = true then n.latches c r else n.posts c r) := by
  have low : n.sevOf r ≤ 2 := mild
  rw [processAll_of_one one, ← cleared, processReport_of_real real (fun h => by rw [h] at low; exact absurd low (by decide)),
    if_neg (fun h => by rw [h] at low; exact absurd low (by decide)), healthDrive_driven]

theorem latches_keeps {r : Report} (h : Keeps k₀ m₀ m) : Keeps k₀ m₀ (m.latches c r) :=
  latchFirst_keeps (Mach.setClass_keeps (Mach.inc32_keeps h))

theorem posts_keeps {r : Report} (h : Keeps k₀ m₀ m) : Keeps k₀ m₀ (m.posts c r) := postFault_keeps (latches_keeps h)

/-! ### FATAL -/

theorem abortCommit_of_not_scheduled (turn : m.glb.turn ≠ .scheduled) : abortCommit m = m := if_neg turn

theorem failStart_frame (m : Mach) (cause : Nat) :
    ∃ stage k restarting, failStart m cause = { m with glb := { m.glb with stage := stage, cause := k, restarting := restarting } } := by
  unfold failStart
  split
  · exact ⟨_, _, _, rfl⟩
  · exact ⟨_, _, _, rfl⟩
  · split
    · exact ⟨_, _, _, rfl⟩
    · exact ⟨_, _, _, rfl⟩
  · exact ⟨_, _, _, rfl⟩

/-- The machine with its outputs off. -/
def Mach.muted (m : Mach) : Mach := { m with glb := { m.glb with outputs := false }, tod := { m.tod with ppsOut := false } }

theorem holdOutputs_eq : holdOutputs c m = ((List.range 32).foldl (stopGroup c) m).muted := rfl

theorem holdOutputs_held : (holdOutputs c m).glb.turn = m.glb.turn ∧ (holdOutputs c m).glb.outputs = false ∧ (holdOutputs c m).tod.ppsOut = false := by
  have stopped : Steady m ((List.range 32).foldl (stopGroup c) m) := Steady.foldl (fun _ _ h => h.step (stopGroup_keeps (.refl _))) (.refl m)
  rw [holdOutputs_eq]
  generalize (List.range 32).foldl (stopGroup c) m = n at stopped
  exact ⟨(congrArg GlbSt.turn stopped.glb :), rfl, rfl⟩

/-- A FATAL report stops the outputs and, where none is scheduled, ends no turn. -/
structure Stopped (m m' : Mach) : Prop where
  turn : m'.glb.turn = m.glb.turn
  fatal : m'.flt.fatal = true
  outputs : m'.glb.outputs = false
  ppsOut : m'.tod.ppsOut = false

theorem Stopped.steady {m' m'' : Mach} (h : Stopped m m') (steady : Steady m' m'') : Stopped m m'' where
  turn := (congrArg GlbSt.turn steady.glb).trans h.turn
  fatal := steady.fatal.trans h.fatal
  outputs := (congrArg GlbSt.outputs steady.glb).trans h.outputs
  ppsOut := (congrArg TodSt.ppsOut steady.tod).trans h.ppsOut

theorem reactFatal_stopped {cls : Nat} (turn : m.glb.turn ≠ .scheduled) : Stopped m (reactFatal c m cls) := by
  obtain ⟨held, off, low⟩ := holdOutputs_held (c := c) (m := m)
  unfold reactFatal
  generalize holdOutputs c m = h at held off low
  rw [abortCommit_of_not_scheduled (m := h) (by rwa [held])]
  extract_lets m₁ m₂
  obtain ⟨stage, k, restarting, same⟩ := failStart_frame h (if h.glb.cause = 0 then 6 else h.glb.cause)
  have second : m₂ = { h with glb := { h.glb with stage := stage, cause := k, restarting := restarting } } := same
  rw [second]
  exact ⟨held, rfl, off, low⟩

theorem processAll_of_fatal {r : Report} (one : m.flt.waiting = [r]) (real : r.inj = false) {n : Mach}
    (cleared : n = { m with flt := { m.flt with waiting := [] } }) (fatal : n.sevOf r = FATAL) (turn : m.glb.turn ≠ .scheduled) :
    Stopped m (processAll c m) := by
  have posted : Keeps True n (n.posts c r) := posts_keeps (.refl n)
  have glb : (n.posts c r).glb = m.glb := (posted.still trivial).glb.trans (by rw [cleared])
  have stopped : Stopped (n.posts c r) (reactFatal c (n.posts c r) (r.src / 16)) := reactFatal_stopped (by rwa [glb])
  have driven : processAll c m = healthDrive c (reactFatal c (n.posts c r) (r.src / 16)) := by
    rw [processAll_of_one one, ← cleared, processReport_of_real real (by rw [fatal]; decide), if_pos fatal, if_neg (fun h => absurd (fatal.symm.trans h.1) (by decide)), healthDrive_driven]
  rw [driven]
  exact { stopped with turn := stopped.turn.trans (congrArg GlbSt.turn glb) }.steady ((Steady.refl _).step (healthDrive_keeps (.refl _)))

end Sys2Proof.Machine

/-! The rows of links, quiet times, restores, copies and the `HEALTH` pin (R28, R400, R404, R406, R408), and of the fault controller's tick. -/
namespace Sys2Proof.Machine
variable {c : Cfg} {m : Mach} {s : State}

/-! ### Links -/

theorem linkEventRx_of_cd {link : Fin 18} {mod : Nat} {ok : Bool} (cd : link.val < 7) : linkEventRx c m link mod ok =
    if ok then raise c m 1 link.val CORRECTED
    else raise c { m with flt := { m.flt with cdDown := m.flt.cdDown ||| (1 <<< link.val) } } 1 link.val FATAL := if_pos cd

theorem linkEventRx_of_ok {link : Fin 18} {mod : Nat} (die : ¬link.val < 7) :
    linkEventRx c m link mod true = raise c m 2 (link.val - 7) CORRECTED mod := if_neg die

theorem linkEventRx_of_pdpd {link : Fin 18} {mod : Nat} (seven : link.val = 7) :
    linkEventRx c m link mod false = raise c { m with flt := { m.flt with pdpdDown := true } } 2 0 SEVERE mod := by
  refine (if_neg (by omega)).trans ((if_neg Bool.false_ne_true).trans (if_pos ?_))
  omega

theorem linkEventRx_of_sd {link : Fin 18} {mod : Nat} (sd : link.val = 8 ∨ link.val = 9) : linkEventRx c m link mod false = raise c
    (holdGroups c { m with flt := { m.flt with sdDown := m.flt.sdDown ||| (1 <<< (link.val - 8)) } } (groupsOfDie (link.val - 8))) 2 (link.val - 7) SEVERE mod := by
  have below : link.val - 7 - 1 = link.val - 8 := by omega
  rw [← below]
  refine (if_neg (by omega)).trans ((if_neg Bool.false_ne_true).trans ((if_neg ?_).trans (if_pos ?_)))
  · omega
  · omega

/-- What a failed module adds to the modules of its link. -/
theorem linkEventRx_of_io {link : Fin 18} {mod : Nat} {now : Nat} (io : 10 ≤ link.val)
    (joins : Nat.lor (Tbl.look 0 m.flt.ioModules (link.val - 10)) (2 ^ (mod % 2)) = now) : linkEventRx c m link mod false =
    let m := { m with flt := { m.flt with ioModules := Tbl.put 0 m.flt.ioModules (link.val - 10) now } }
    if now = 3 then raise c (holdGroups c m (groupsOfLink ((link.val - 10) / 2) ((link.val - 10) % 2))) 2 (link.val - 7) SEVERE mod
    else raise c m 2 (link.val - 7) DEGRADED mod := by
  have below : link.val - 7 - 3 = link.val - 10 := by omega
  rw [← below] at joins ⊢
  subst now
  refine (if_neg (by omega)).trans ((if_neg Bool.false_ne_true).trans ((if_neg ?_).trans (if_neg ?_)))
  · omega
  · omega

theorem linkEventRx_of_first_module {link : Fin 18} {mod : Fin 2} (io : 10 ≤ link.val) (sound : Tbl.look 0 m.flt.ioModules (link.val - 10) = 0) :
    linkEventRx c m link mod false =
      raise c { m with flt := { m.flt with ioModules := Tbl.put 0 m.flt.ioModules (link.val - 10) (2 ^ mod.val) } } 2 (link.val - 7) DEGRADED mod := by
  rw [linkEventRx_of_io (now := 2 ^ mod.val) io (by rw [sound, Nat.mod_eq_of_lt mod.isLt]; exact Nat.zero_or _)]
  exact if_neg (by revert mod; decide)

theorem linkEventRx_of_second_module {link : Fin 18} {mod : Fin 2} (io : 10 ≤ link.val)
    (other : Tbl.look 0 m.flt.ioModules (link.val - 10) = 2 - mod.val) : linkEventRx c m link mod false =
      raise c (holdGroups c { m with flt := { m.flt with ioModules := Tbl.put 0 m.flt.ioModules (link.val - 10) 3 } }
        (groupsOfLink ((link.val - 10) / 2) ((link.val - 10) % 2))) 2 (link.val - 7) SEVERE mod := by
  have joins : ∀ mod : Fin 2, Nat.lor (2 - mod.val) (2 ^ (mod.val % 2)) = 3 := by decide
  rw [linkEventRx_of_io (now := 3) io (by rw [other]; exact joins mod)]
  exact if_pos rfl

/-! ### Quiet times, restores and copies -/

theorem quietExpiry_of_kept {k : Nat} (kept : (m.class k).active = false ∨ m.up < (m.class k).expire ∨ (m.class k).sev = 4) : quietExpiry c m k = m := by
  by_cases due : ((m.class k).active && decide ((m.class k).expire ≤ m.up)) = true
  · have fatal : (m.class k).sev = 4 := by
      simp only [Bool.and_eq_true, decide_eq_true_eq] at due
      rcases kept with off | early | fatal
      · rw [off] at due; exact absurd due.1 Bool.false_ne_true
      · omega
      · exact fatal
    exact (if_pos due).trans (if_pos (by simp [fatal]))
  · exact if_neg due

theorem quietExpiry_of_due {k : Nat} (active : (m.class k).active = true) (due : (m.class k).expire ≤ m.up) (mild : (m.class k).sev ≠ 4) :
    quietExpiry c m k = healthDrive c ((m.setClass k {}).inc32 fltRecoveryCountCount) :=
  (if_pos (by simp [active, due])).trans (if_neg (by simp [active, mild]))

theorem restoreDone_of_none {pass : Bool} (idle : m.flt.restore = none ∨ m.holdsLeave opSelfTest 0 = false) : restoreDone c m pass = m := by
  unfold restoreDone
  split
  · rfl
  · next kind inst restoring =>
    exact if_pos (by rw [idle.resolve_left (by rw [restoring]; exact Option.some_ne_none _)]; rfl)

theorem restoreDone_of_held {pass : Bool} {kind inst : Nat} (restoring : m.flt.restore = some (kind, inst)) (held : m.holdsLeave opSelfTest 0 = true)
    {ended : Mach} (ends : releaseLeave c { m with flt := { m.flt with restore := none } } opSelfTest 0 = ended) : restoreDone c m pass =
    if pass then restoreUnit c (ended.setSt fltRestoreResult 2) kind inst
    else raise c (ended.setSt fltRestoreResult 3) (restoreSrc kind inst).1 (restoreSrc kind inst).2.1 DEGRADED (restoreSrc kind inst).2.2 := by
  subst ends
  unfold restoreDone
  rw [restoring]
  exact if_neg (by rw [held]; decide)

theorem copyDone_of_running {stack pc : Nat} (running : Tbl.find m.flt.repair stack = some (pc, false)) : copyDone c m stack =
    releaseLeave c (poisonLines { m with flt := { m.flt with repair := Tbl.ins m.flt.repair stack (pc, true) } }) opCopy stack := by
  unfold copyDone
  rw [running]

theorem copyDone_of_none {stack : Nat} (idle : (Tbl.find m.flt.repair stack).map (·.2) ≠ some false) : copyDone c m stack = m := by
  unfold copyDone
  split
  · next pc running =>
    rw [running] at idle
    exact absurd rfl idle
  · rfl

/-! ### The pin's edges -/

/-- Half a period has passed since the pin's last edge in service. -/
def ToggleDue (c : Cfg) (m : Mach) : Prop := healthMode c m = 1 ∧ m.flt.lowSince = none ∧ m.flt.edgeAt + 5_000 * m.flt.period ≤ m.up

theorem toggle_waits_iff : (healthMode c m ≠ 1 || m.flt.lowSince.isSome || m.up < m.flt.edgeAt + 5_000 * m.flt.period) = true ↔ ¬ToggleDue c m := by
  unfold ToggleDue
  cases m.flt.lowSince with
  | none =>
    simp
    omega
  | some t => simp

theorem healthToggle_of_early (early : ¬ToggleDue c m) : healthToggle c m = m := if_pos (toggle_waits_iff.mpr early)

theorem healthToggle_of_due (due : ToggleDue c m) : healthToggle c m = if m.flt.health then setHealth m false else healthRise c m :=
  if_neg fun waits => toggle_waits_iff.mp waits due

theorem healthToggle_of_high (due : ToggleDue c m) (high : m.flt.health = true) :
    healthToggle c m = { m with flt := { m.flt with health := false, edgeAt := m.up } } :=
  (healthToggle_of_due due).trans ((if_pos high).trans (if_neg (by rw [high]; decide)))

theorem healthToggle_of_low (due : ToggleDue c m) (low : m.flt.health = false) :
    healthToggle c m = { m with flt := { m.flt with health := true, edgeAt := m.up, period := c.get fltHealthCfgHealthPeriod } } := by
  rw [healthToggle_of_due due, if_neg (by rw [low]; decide)]
  exact congrArg (fun t => { m with flt := { m.flt with health := true, edgeAt := m.up, period := c.get fltHealthCfgHealthPeriod, lowSince := t } }) due.2.1.symm

theorem healthRelease_of_high (high : m.flt.lowSince = none) : healthRelease c m = m := by
  unfold healthRelease
  rw [high]

/-- The pin may leave a low hold that began at `t`. -/
def MayRise (c : Cfg) (m : Mach) (t : Nat) : Prop := healthMode c m = 1 ∧ healthHeld c m = false ∧ t + 20_000 * m.flt.period ≤ m.up

theorem healthRelease_of_low {t : Nat} (low : m.flt.lowSince = some t) [Decidable (MayRise c m t)] :
    healthRelease c m = if MayRise c m t then healthRise c m else m := by
  unfold healthRelease
  rw [low]
  exact ite_congr (by simp [MayRise, and_assoc]) (fun _ => rfl) fun _ => rfl

/-! ### The rows -/

theorem exec_tick_of_none (live : s.live) (quiet : s.mach.flt.waiting = []) (off : s.mach.stOn fltInjectArmed = false) (inj : List (BitVec 32 × BitVec 32)) :
    exec (.faultTickProcess [] inj) s = .next (s.withM (settle s.conf (upwardGo s.conf (healthDrive s.conf s.mach)))) := by
  have driven : Steady s.mach (healthDrive s.conf s.mach) := (Steady.refl _).step (healthDrive_keeps (.refl _))
  refine exec_tick live ?_ (congrArg GlbSt.turn driven.glb)
  rw [foldl_injectOne_of_disarmed off, processAll_of_none quiet]

theorem exec_tick_of_mild (live : s.live) {r : Report} (one : s.mach.flt.waiting = [r]) (real : r.inj = false) {n : Mach}
    (cleared : n = { s.mach with flt := { s.mach.flt with waiting := [] } }) (mild : n.sevOf r ≤ DEGRADED) :
    exec (.faultTickProcess [] []) s = .next (s.withM (settle s.conf (upwardGo s.conf (healthDrive s.conf
      (if n.sevOf r = CORRECTED ∧ (n.class (r.src / 16)).active = true then n.latches s.conf r else n.posts s.conf r))))) := by
  have steady : Steady s.mach n := by
    rw [cleared]
    exact ⟨rfl, rfl, rfl⟩
  have taken : Steady s.mach (if n.sevOf r = CORRECTED ∧ (n.class (r.src / 16)).active = true then n.latches s.conf r else n.posts s.conf r) := by
    split
    · exact steady.step (latches_keeps (.refl n))
    · exact steady.step (posts_keeps (.refl n))
  exact exec_tick live (processAll_of_mild one real cleared mild) (congrArg GlbSt.turn (taken.step (healthDrive_keeps (.refl _))).glb)

theorem exec_tick_of_fatal (live : s.live) {r : Report} (one : s.mach.flt.waiting = [r]) (real : r.inj = false) {n : Mach}
    (cleared : n = { s.mach with flt := { s.mach.flt with waiting := [] } }) (fatal : n.sevOf r = FATAL) (turn : s.mach.glb.turn ≠ .scheduled) :
    ∃ m', exec (.faultTickProcess [] []) s = .next (s.withM (settle s.conf m')) ∧ Stopped s.mach m' := by
  have stopped : Stopped s.mach (processAll s.conf s.mach) := processAll_of_fatal one real cleared fatal turn
  exact ⟨_, exec_tick live rfl stopped.turn, stopped.steady (upwardGo_steady (.refl _))⟩

/-- Settles O58: what waits behind the reports (R40) keeps the global state, so no tick below FATAL ends a turn, and each row is its function's case. -/
theorem faultsAndHealthFollowReports : Obligations.FaultsAndHealthFollowReports := by
  intro s live c m f now
  refine ⟨fun quiet off inj => ⟨exec_tick_of_none live quiet off inj, fun served still => ?_⟩, fun r one real => ?_, fun link mod => ?_, fun k => ?_,
    fun pass idle => ?_, fun kind inst restoring held => ?_, ?_, fun high => ?_, fun t low => ?_, fun stack => ?_⟩
  · rw [exec_tick_of_none live quiet off inj, healthDrive_of_served served still]
  · intro cls k esc sev taken latched
    have tick := exec_tick_of_mild live one real rfl
    refine ⟨fun valid inj => latchFirst_of_held valid inj, fun mild posts => ?_, fun corrected active => ?_, fun fatal turn => ?_⟩
    · exact (tick mild).trans (congrArg (fun m => now (settle c (upwardGo c (healthDrive c m)))) (if_neg posts))
    · exact (tick (corrected.le.trans (by decide))).trans (congrArg (fun m => now (settle c (upwardGo c (healthDrive c m)))) (if_pos ⟨corrected, active⟩))
    · obtain ⟨m', row, stopped⟩ := exec_tick_of_fatal live one real rfl fatal turn
      exact ⟨m', row, stopped.fatal, stopped.outputs, stopped.ppsOut⟩
  · have row (ok : Bool) : exec (.linkRetrainFail link mod ok) s = now (settle c (linkEventRx c m link mod ok)) :=
      State.onSettle_live live fun c m => linkEventRx c m link mod ok
    refine ⟨fun cd => ?_, fun cd => ?_, fun die => ?_, fun seven => ?_, fun sd => ?_, fun io sound => ?_, fun io other => ?_⟩
    · rw [row, linkEventRx_of_cd cd]
      rfl
    · rw [row, linkEventRx_of_cd cd]
      rfl
    · rw [row, linkEventRx_of_ok (by omega)]
    · rw [row, linkEventRx_of_pdpd seven]
    · rw [row, linkEventRx_of_sd sd]
    · rw [row, linkEventRx_of_first_module io sound]
    · rw [row, linkEventRx_of_second_module io other]
  · have row : exec (.quietTimerExpiry k) s = now (quietExpiry c m k) := State.on_live live fun c m => quietExpiry c m k
    exact ⟨fun kept => row.trans (congrArg now (quietExpiry_of_kept kept)), fun active due mild => row.trans (congrArg now (quietExpiry_of_due active due mild))⟩
  · exact (State.onSettle_live live fun c m => restoreDone c m pass).trans (congrArg (fun m => now (settle c m)) (restoreDone_of_none idle))
  · have row (pass : Bool) : exec (.restoreSelftestDone pass) s = now (settle c (restoreDone c m pass)) :=
      State.onSettle_live live fun c m => restoreDone c m pass
    exact ⟨(row true).trans (congrArg (fun m => now (settle c m)) (restoreDone_of_held restoring held rfl)),
      (row false).trans (congrArg (fun m => now (settle c m)) (restoreDone_of_held restoring held rfl))⟩
  · have row : exec .healthToggle s = now (healthToggle c m) := State.on_live live healthToggle
    exact ⟨fun early => row.trans (congrArg now (healthToggle_of_early early)), fun due high => row.trans (congrArg now (healthToggle_of_high due high)),
      fun due low => row.trans (congrArg now (healthToggle_of_low due low))⟩
  · exact (State.on_live live healthRelease).trans (congrArg now (healthRelease_of_high high))
  · classical
    have row : exec .healthLowHoldExpiry s = now (healthRelease c m) := State.on_live live healthRelease
    exact ⟨fun stays => row.trans (congrArg now ((healthRelease_of_low low).trans (if_neg stays))),
      fun rises => row.trans (congrArg now ((healthRelease_of_low low).trans (if_pos rises)))⟩
  · have row : exec (.pcCopyDone stack) s = now (settle c (copyDone c m stack)) := State.onSettle_live live fun c m => copyDone c m stack
    exact ⟨fun pc running => row.trans (congrArg (fun m => now (settle c m)) (copyDone_of_running running)),
      fun idle => row.trans (congrArg (fun m => now (settle c m)) (copyDone_of_none idle))⟩

end Sys2Proof.Machine

/-! The governor's evaluation and a request's arrival, by the length of the queue (R430-R434), and what leave goes on with. -/
namespace Sys2Proof.Machine
variable {c : Cfg} {m : Mach} {q : LeaveReq}

/-- A request fits the room, and none is kept back by a hot device. -/
def Fits (c : Cfg) (m : Mach) (q : LeaveReq) : Prop := m.pwr.alert = false ∧ (q.pips : Int) ≤ pwrRoom c m m.pipsHeld

theorem not_fits_iff : (m.pwr.alert || decide (pwrRoom c m m.pipsHeld < q.pips)) = true ↔ ¬Fits c m q := by
  unfold Fits
  cases m.pwr.alert <;> simp

/-- The only request of a queue is granted. -/
def Mach.grantsOne (c : Cfg) (m : Mach) (q : LeaveReq) : Mach :=
  pwrReport c { m with pwr := { m.pwr with queue := [], grants := m.pwr.grants ++ [q] } } q 0 0

/-- The only request of a queue is deferred. -/
def Mach.defersOne (c : Cfg) (m : Mach) (q : LeaveReq) (reason : Nat) : Mach :=
  pwrReport c { m with pwr := { m.pwr with queue := [{ q with posted := true }] } } q 1 reason

theorem leaveEval_of_empty (empty : m.pwr.queue = []) : leaveEval c m = m := by
  have granted : leaveGrants c m.pwr.queue.length m = m := by
    rw [empty]
    rfl
  unfold leaveEval
  dsimp only
  rw [granted, empty]
  rfl

theorem leaveGrants_one (one : m.pwr.queue = [q]) (fits : Fits c m q) : leaveGrants c 1 m = m.grantsOne c q := by
  have head : leaveHead m.pwr.queue = some q := by rw [one]; rfl
  have left : m.pwr.queue.erase q = [] := by simp [one]
  unfold leaveGrants
  rw [head]
  dsimp only
  rw [if_neg (fun waits => not_fits_iff.mp waits fits), left]
  rfl

theorem leaveGrants_none (one : m.pwr.queue = [q]) (waits : ¬Fits c m q) : leaveGrants c 1 m = m := by
  have head : leaveHead m.pwr.queue = some q := by rw [one]; rfl
  unfold leaveGrants
  rw [head]
  exact if_pos (not_fits_iff.mpr waits)

theorem leaveEval_of_fits (one : m.pwr.queue = [q]) (fits : Fits c m q) : leaveEval c m = m.grantsOne c q := by
  have granted : leaveGrants c m.pwr.queue.length m = m.grantsOne c q := by
    rw [one]
    exact leaveGrants_one one fits
  have empty : (m.grantsOne c q).pwr.queue = [] := by
    unfold Mach.grantsOne
    rw [pwrReport_pwr]
  unfold leaveEval
  dsimp only
  rw [granted, empty]
  rfl

/-- A request that does not fit is deferred, once. -/
theorem leaveEval_of_waits (one : m.pwr.queue = [q]) (waits : ¬Fits c m q) :
    leaveEval c m = if q.posted then m else m.defersOne c q (if m.pwr.alert then 3 else 1) := by
  have granted : leaveGrants c m.pwr.queue.length m = m := by
    rw [one]
    exact leaveGrants_none one waits
  have reason : deferReason m q = if m.pwr.alert then 3 else 1 := by
    unfold deferReason
    rw [one]
    exact ite_congr rfl (fun _ => rfl) fun _ => if_neg (Nat.lt_irrefl q.cls)
  unfold leaveEval
  dsimp only
  rw [granted, one]
  dsimp only [List.foldl_cons, List.foldl_nil]
  rw [one, reason]
  refine ite_congr rfl (fun _ => rfl) fun _ => ?_
  unfold Mach.defersOne
  rw [List.map_cons, if_pos rfl, List.map_nil]

/-! ### A request's arrival -/

/-- The request that an operation makes. -/
def reqOf (c : Cfg) (m : Mach) (op unit : Nat) : LeaveReq :=
  { op := op, unit := unit, cls := c.get pwrOpClass op, pips := c.get pwrOpPips op, since := m.up }

/-- The machine with a request in the queue. -/
def Mach.enters (m : Mach) (q : LeaveReq) : Mach := { m with pwr := { m.pwr with queue := q.enter m.pwr.queue } }

section arrival
variable {op unit : Nat}

theorem leaveArrive_of_off (normal : recoveryOp op = false) (off : c.on pwrOpEn op = false) :
    leaveArrive c m op unit = leaveRefuse c m (reqOf c m op unit) 2 :=
  (if_neg (by rw [normal]; decide)).trans (if_pos (by rw [off]; rfl))

theorem leaveArrive_of_on (normal : recoveryOp op = false) (on : c.on pwrOpEn op = true) : leaveArrive c m op unit =
    if pwrRoom c m 0 < (reqOf c m op unit).pips then leaveRefuse c m (reqOf c m op unit) 1
    else if 64 ≤ m.pwr.queue.length then leaveRefuse c m (reqOf c m op unit) 3
    else (if (leaveEval c (m.enters (reqOf c m op unit))).holdsLeave op unit then .granted else .deferred, leaveEval c (m.enters (reqOf c m op unit))) :=
  (if_neg (by rw [normal]; decide)).trans (if_neg (by rw [on]; decide))

/-- A request that stands behind nothing reaches the governor. -/
theorem askLeave_of_clear (clear : ¬(reportsWait m (leaveDie op unit) = true ∨ asksWait m (leaveDie op unit) = true)) :
    askLeave c m op unit = leaveArrive c m op unit := by
  refine if_neg fun waits => clear ?_
  simp only [Bool.and_eq_true, Bool.or_eq_true] at waits
  exact waits.2

theorem askLeave_of_behind (normal : recoveryOp op = false) (behind : reportsWait m (leaveDie op unit) = true ∨ asksWait m (leaveDie op unit) = true) :
    askLeave c m op unit = (.deferred, { m with pwr := { m.pwr with asks := m.pwr.asks ++ [(op, unit)] } }) := by
  refine if_pos ?_
  simp only [normal, Bool.not_false, Bool.true_and, Bool.or_eq_true]
  exact behind

/-- What an answer to a request sets going. -/
theorem heavyRequest_of_new (notHeld : m.holdsLeave op unit = false) (notAsked : m.waitsLeave op unit = false) {a : LeaveAns} {m' : Mach}
    (asked : askLeave c m op unit = (a, m')) : heavyRequest c m op unit = if a = .refused then leaveRefused c m' op unit else leaveGoesOn c m' := by
  unfold heavyRequest
  rw [if_neg (by rw [notHeld, notAsked]; decide), asked]
  cases a <;> rfl

theorem heavyRequest_of_old (old : m.holdsLeave op unit = true ∨ m.waitsLeave op unit = true) : heavyRequest c m op unit = m :=
  if_pos (Bool.or_eq_true_iff.mpr old)

end arrival

/-! ### A release -/

theorem releaseLeave_of_none {op unit : Nat} (none : ∀ g ∈ m.pwr.grants, ¬(g.op = op ∧ g.unit = unit)) : releaseLeave c m op unit = m := by
  have found : (m.pwr.grants.find? fun q => q.op == op && q.unit == unit) = Option.none := List.find?_eq_none.mpr fun g mem => by simpa using none g mem
  unfold releaseLeave
  rw [found]

theorem releaseLeave_of_one {g : LeaveReq} {op unit : Nat} (one : m.pwr.grants = [g]) (isOp : g.op = op) (isUnit : g.unit = unit) (empty : m.pwr.queue = []) :
    releaseLeave c m op unit = pwrReport c { m with pwr := { m.pwr with grants := [] } } g 3 0 := by
  have found : (m.pwr.grants.find? fun q => q.op == op && q.unit == unit) = some g := by simp [one, isOp, isUnit]
  have left : m.pwr.grants.erase g = [] := by simp [one]
  unfold releaseLeave
  rw [found]
  dsimp only
  rw [left, leaveEval_of_empty (by rw [pwrReport_pwr]; exact empty)]

/-! ### The order of requests -/

theorem enter_nil : q.enter [] = [q] := rfl

theorem enter_one (p : LeaveReq) : q.enter [p] = if p.since = q.since ∧ q.before p = true then [q, p] else [p, q] := by
  by_cases late : p.since = q.since ∧ q.before p = true
  · simp [LeaveReq.enter, late]
  · simp only [not_and, Bool.not_eq_true] at late
    by_cases same : p.since = q.since
    · simp [LeaveReq.enter, same, late same]
    · simp [LeaveReq.enter, same]

end Sys2Proof.Machine

/-! The rows of the governor and of what asks it for leave: key trees, tally passes, scrubs and dumps (R215, R216, R420, R430-R433, R439, R446, R447). -/
namespace Sys2Proof.Machine
variable {c : Cfg} {m : Mach} {s : State}

/-! ### Tally passes -/

/-- A pass of a unit has begun. -/
def Mach.tallying (m : Mach) (u : Nat) : Mach :=
  { m with tmg := { m.tmg with epoch := Tbl.put false m.tmg.epoch u (!m.epochOf u), tally := Tbl.put false m.tmg.tally u true } }

/-- A pass of a unit has ended. -/
def Mach.tallied (m : Mach) (u : Nat) : Mach := { m with tmg := { m.tmg with tally := Tbl.put false m.tmg.tally u false } }

/-- The next pass of a unit is a period after this one. -/
def Mach.tallyAsks (c : Cfg) (m : Mach) (u : Nat) : Mach :=
  { m with tmg := { m.tmg with tallyAt := Tbl.ins m.tmg.tallyAt u (tallyDue c m u + tallyPeriod c u) } }

theorem tallyBegin_of_die {u : Nat} (die : u < 2) : tallyBegin c m u =
    ((heldHeads (m.tallying u)).filter fun p => dieOf p == u).foldl (tallyWalk c u (!m.epochOf u)) (m.tallying u) := if_pos die

theorem tallyBegin_of_pages {u : Nat} (pages : ¬u < 2) :
    tallyBegin c m u = ((m.tallying u).tmg.queues.map (·.1)).foldl (tallyChain c (!m.epochOf u)) (m.tallying u) := if_neg pages

theorem tallyBegin_of_no_frames {u : Nat} (die : u < 2) (empty : heldHeads m = []) : tallyBegin c m u = m.tallying u := by
  rw [tallyBegin_of_die die, show heldHeads (m.tallying u) = [] from empty]
  rfl

theorem tallyBegin_of_no_queues (empty : m.tmg.queues = []) : tallyBegin c m 2 = m.tallying 2 := by
  rw [tallyBegin_of_pages (by decide), show (m.tallying 2).tmg.queues = [] from empty]
  rfl

theorem tallyStart_of_off {u : Nat} (off : tallyEn c u = false ∨ Tbl.look false m.tmg.tally u = true) : tallyStart c m u = m := by
  refine if_pos ?_
  rcases off with off | runs
  · simp [off]
  · simp [runs]

section start
variable {u : Nat} (on : tallyEn c u = true) (idle : Tbl.look false m.tmg.tally u = false)
include on idle

theorem tallyStart_of_on : tallyStart c m u =
    if m.holdsLeave (tallyOp u).1 (tallyOp u).2 then tallyBegin c m u
    else if m.waitsLeave (tallyOp u).1 (tallyOp u).2 || decide (m.up < tallyDue c m u) then m
    else match askLeave c (m.tallyAsks c u) (tallyOp u).1 (tallyOp u).2 with
      | (.granted, m) => tallyBegin c m u
      | (.refused, m) => tallyRefused m u
      | (.deferred, m) => m := by
  refine (if_neg (by rw [on, idle]; decide)).trans ?_
  rfl

theorem tallyStart_of_held (held : m.holdsLeave (tallyOp u).1 (tallyOp u).2 = true) : tallyStart c m u = tallyBegin c m u := by
  rw [tallyStart_of_on on idle, if_pos held]

theorem tallyStart_of_early (notHeld : m.holdsLeave (tallyOp u).1 (tallyOp u).2 = false)
    (early : m.waitsLeave (tallyOp u).1 (tallyOp u).2 = true ∨ m.up < tallyDue c m u) : tallyStart c m u = m := by
  rw [tallyStart_of_on on idle, if_neg (by rw [notHeld]; decide)]
  exact if_pos (by simpa using early)

theorem tallyStart_of_due (notHeld : m.holdsLeave (tallyOp u).1 (tallyOp u).2 = false) (notAsked : m.waitsLeave (tallyOp u).1 (tallyOp u).2 = false)
    (due : tallyDue c m u ≤ m.up) {a : LeaveAns} {m' : Mach} (asked : askLeave c (m.tallyAsks c u) (tallyOp u).1 (tallyOp u).2 = (a, m')) :
    tallyStart c m u = if a = .granted then tallyBegin c m' u else if a = .refused then tallyRefused m' u else m' := by
  rw [tallyStart_of_on on idle, if_neg (by rw [notHeld]; decide), if_neg (by simpa [notAsked] using due), asked]
  cases a <;> rfl

end start

theorem tallyDone_of_idle {u : Nat} (idle : Tbl.look false m.tmg.tally u = false) : tallyDone c m u = m := if_pos (by rw [idle]; rfl)

/-- The cells of a die read by its pass, and the suspects counted. -/
def cellsTallied (c : Cfg) (m : Mach) (u : Nat) : Mach :=
  let m' := (dieCells m u).foldl (fun m e => tallyCell c m u e) m
  m'.setSt tmgTallyStatSuspects ((dieCells m u).filter fun e => !e.2.suspect && (m'.cell e.1).suspect).length u

/-- The pages read by their pass. -/
def pagesTallied (c : Cfg) (m : Mach) : Mach := (m.tmg.pages.filter fun e => !e.2.l0 && e.2.owner != 0xFFF).foldl (tallyPage c) m

theorem tallyDone_of_die {u : Nat} (die : u < 2) (runs : Tbl.look false m.tmg.tally u = true) {n : Mach} (read : cellsTallied c m u = n) : tallyDone c m u =
    releaseLeave c ((if cellsFree n u = n.bankFree u then n else raise c (n.setSt tmgTallyStatMismatch 1 u) 14 u DEGRADED).tallied u) opCellTally u := by
  subst read
  have op : tallyOp u = (opCellTally, u) := if_pos die
  unfold tallyDone
  rw [op]
  exact (if_neg (by rw [runs]; decide)).trans (if_pos die)

theorem tallyDone_of_pages {u : Nat} (pages : ¬u < 2) (runs : Tbl.look false m.tmg.tally u = true) {n : Mach} (read : pagesTallied c m = n) :
    tallyDone c m u = releaseLeave c ((if pagesFree n = allocPages n then n else raise c n 14 2 DEGRADED).tallied u) opPageTally 0 := by
  subst read
  have op : tallyOp u = (opPageTally, 0) := if_neg pages
  unfold tallyDone
  rw [op]
  exact (if_neg (by rw [runs]; decide)).trans (if_neg pages)

theorem tallyDone_of_no_cells {u : Nat} (die : u < 2) (runs : Tbl.look false m.tmg.tally u = true) (empty : dieCells m u = []) {n : Mach}
    (shown : m.setSt tmgTallyStatSuspects 0 u = n) (same : cellsFree n u = n.bankFree u) :
    tallyDone c m u = releaseLeave c (n.tallied u) opCellTally u := by
  have read : cellsTallied c m u = n := by
    rw [cellsTallied, empty]
    exact shown
  rw [tallyDone_of_die die runs read, if_pos same]

theorem tallyDone_of_no_pages (runs : Tbl.look false m.tmg.tally 2 = true) (empty : m.tmg.pages = []) (same : pagesFree m = allocPages m) :
    tallyDone c m 2 = releaseLeave c (m.tallied 2) opPageTally 0 := by
  have read : pagesTallied c m = m := by
    rw [pagesTallied, empty]
    rfl
  rw [tallyDone_of_pages (by decide) runs read, if_pos same]

/-! ### Key trees -/

/-- A tree is kept, of those wanted. -/
def Mach.keepsTree (m : Mach) (t : Nat × Nat) : Mach :=
  { m with sec := { m.sec with gen := none, trees := (m.sec.trees.filter (treesWanted m.sec.next).contains) ++ [t] } }

theorem treeDone_of_none (none : m.sec.gen = none) : treeDone c m = m := by
  unfold treeDone
  rw [none]

theorem treeDone_of_some {t : Nat × Nat} (gen : m.sec.gen = some t) : treeDone c m = (treeAsk c (releaseLeave c (m.keepsTree t) opTree t.1)).2 := by
  unfold treeDone
  rw [gen]
  rfl

/-- A tree that holds its leave begins. -/
theorem treeAsk_of_held {t : Nat × Nat} (idle : m.sec.gen = none) (due : treeDue m = some t) (held : m.holdsLeave opTree t.1 = true) :
    (treeAsk c m).2 = { m with sec := { m.sec with gen := some t } } := by
  unfold treeAsk
  rw [idle, due]
  dsimp only
  rw [if_pos held]

/-- A request for a tree's leave that is granted starts the tree. -/
theorem treeAsk_of_granted {q : LeaveReq} {t : Nat × Nat} (idle : m.sec.gen = none) (due : treeDue m = some t) (isTree : q.op = opTree)
    (isUnit : q.unit = t.1) : (treeAsk c (m.grantsOne c q)).2 = { m.grantsOne c q with sec := { (m.grantsOne c q).sec with gen := some t } } := by
  have posts : Posts { m with pwr := { m.pwr with queue := [], grants := m.pwr.grants ++ [q] } } (m.grantsOne c q) := posts_pwrReport ..
  have sec : (m.grantsOne c q).sec = m.sec := by
    obtain ⟨g, h, o, same⟩ := posts
    rw [same]
  have held : (m.grantsOne c q).holdsLeave opTree t.1 = true := by
    unfold Mach.holdsLeave Mach.grantsOne
    rw [pwrReport_pwr]
    simp [isTree, isUnit]
  exact treeAsk_of_held (by rw [sec, idle]) (by rw [treeDue_congr (congrArg SecSt.next sec) (congrArg SecSt.trees sec), due]) held

/-! ### What waits -/

theorem retryCmds_of_one {op : CmdOp} {o : Origin} {slot n : Nat} {q : Cmd} (may : writesBank op = true → m.glb.turn = .idle)
    (one : m.pwr.waitCmds = [(n, (op, o, slot, q))]) : retryCmds c m = cmdPlace c m (some n) o slot op q := by
  have held : (writesBank op && m.glb.turn != .idle) = false := by
    cases writes : writesBank op
    · rfl
    · rw [may writes]
      rfl
  have found : Tbl.find m.pwr.waitCmds n = some (op, o, slot, q) := by
    rw [one]
    simp [Tbl.find]
  unfold retryCmds
  rw [one, List.foldl_cons, List.foldl_nil]
  dsimp only
  rw [found]
  exact if_neg (by rw [held]; decide)

/-- The machine with no request that stands behind reports. -/
def Mach.asksNone (m : Mach) : Mach := { m with pwr := { m.pwr with asks := [] } }

theorem asksNone_of_none (none : m.pwr.asks = []) : m.asksNone = m :=
  congrArg (fun a => { m with pwr := { m.pwr with asks := a } }) none.symm

theorem upwardGo_of_none (none : m.pwr.asks = []) : upwardGo c m = behindGo c m := by
  unfold upwardGo
  dsimp only
  rw [none]
  dsimp only [List.foldl_nil]
  rw [if_pos rfl]
  exact congrArg (behindGo c) (asksNone_of_none none)

/-- The one request goes to the governor, or back where it stood. -/
theorem upwardGo_of_one {e : Nat × Nat} (one : m.pwr.asks = [e]) : upwardGo c m = behindGo c (leaveGoesOn c
    (if reportsWait m.asksNone (leaveDie e.1 e.2) then { m.asksNone with pwr := { m.asksNone.pwr with asks := m.asksNone.pwr.asks ++ [e] } }
    else match leaveArrive c m.asksNone e.1 e.2 with
      | (.refused, m) => leaveRefused c m e.1 e.2
      | (_, m) => m)) := by
  unfold upwardGo
  dsimp only
  rw [one]
  dsimp only [List.foldl_cons, List.foldl_nil]
  rw [if_neg (List.cons_ne_nil _ _)]
  rfl

theorem upwardGo_of_behind {e : Nat × Nat} (one : m.pwr.asks = [e]) (behind : reportsWait m (leaveDie e.1 e.2) = true) :
    upwardGo c m = behindGo c (leaveGoesOn c m) := by
  rw [upwardGo_of_one one, if_pos (show reportsWait m.asksNone _ = true from behind)]
  exact congrArg (fun a => behindGo c (leaveGoesOn c { m with pwr := { m.pwr with asks := a } })) one.symm

theorem upwardGo_of_clear {e : Nat × Nat} (one : m.pwr.asks = [e]) (clear : reportsWait m (leaveDie e.1 e.2) = false) {a : LeaveAns} {m' : Mach}
    (arrives : leaveArrive c m.asksNone e.1 e.2 = (a, m')) :
    upwardGo c m = behindGo c (leaveGoesOn c (if a = .refused then leaveRefused c m' e.1 e.2 else m')) := by
  rw [upwardGo_of_one one, if_neg (by rw [show reportsWait m.asksNone _ = false from clear]; decide), arrives]
  cases a <;> rfl

/-! ### Deferrals -/

/-- A deferral that ended refused. -/
def Mach.endsDeferral (c : Cfg) (m : Mach) (q : LeaveReq) (reason : Nat) : Mach :=
  leaveRefused c (pwrReport c (dropLeave m q.op q.unit) q 2 reason) q.op q.unit

theorem deferTimeout_of_none (none : leaveLapsed c m = []) : deferTimeout c m = leaveGoesOn c m := by
  unfold deferTimeout
  rw [none]
  rfl

theorem deferTimeout_of_one {q : LeaveReq} {reason : Nat} (one : leaveLapsed c m = [(q, reason)]) :
    deferTimeout c m = leaveGoesOn c (m.endsDeferral c q reason) := by
  unfold deferTimeout
  rw [one]
  rfl

theorem leaveLapsed_of_off {q : LeaveReq} (one : m.pwr.queue = [q]) (off : c.on pwrOpEn q.op = false) : leaveLapsed c m = [(q, 2)] := by
  unfold leaveLapsed
  rw [one]
  simp [off]

theorem leaveLapsed_of_old {q : LeaveReq} (one : m.pwr.queue = [q]) (on : c.on pwrOpEn q.op = true)
    (old : c.get pwrCtrlDeferMax * 1_000_000 < m.up - q.since) : leaveLapsed c m = [(q, 4)] := by
  unfold leaveLapsed
  rw [one]
  simp [on, old]

/-! ### Scrubs and dumps -/

/-- The machine with a stack's next scrub pass an interval on. -/
def Mach.scrubs (m : Mach) (stack : Nat) : Mach :=
  { m with pwr := { m.pwr with scrubAt := Tbl.ins m.pwr.scrubAt stack ((Tbl.find m.pwr.scrubAt stack).getD scrubInterval + scrubInterval) } }

theorem scrubDue_of_early {stack : Nat} (early : m.up < (Tbl.find m.pwr.scrubAt stack).getD scrubInterval) : scrubDue c m stack = m := if_pos early

theorem scrubDue_of_due {stack : Nat} (due : (Tbl.find m.pwr.scrubAt stack).getD scrubInterval ≤ m.up) : scrubDue c m stack =
    if !Config.scrubEn || m.holdsLeave opScrub stack || m.waitsLeave opScrub stack then m.scrubs stack
    else (askLeave c (m.scrubs stack) opScrub stack).2 := if_neg (Nat.not_lt.mpr due)

theorem scrubDue_of_busy {stack : Nat} (due : (Tbl.find m.pwr.scrubAt stack).getD scrubInterval ≤ m.up)
    (busy : m.holdsLeave opScrub stack = true ∨ m.waitsLeave opScrub stack = true) : scrubDue c m stack = m.scrubs stack := by
  rw [scrubDue_of_due due]
  refine if_pos ?_
  rcases busy with held | asked
  · simp [held]
  · simp [asked]

theorem scrubDue_of_free {stack : Nat} (due : (Tbl.find m.pwr.scrubAt stack).getD scrubInterval ≤ m.up)
    (free : ¬(m.holdsLeave opScrub stack = true ∨ m.waitsLeave opScrub stack = true)) :
    scrubDue c m stack = if Config.scrubEn = true then (askLeave c (m.scrubs stack) opScrub stack).2 else m.scrubs stack := by
  rw [scrubDue_of_due due]
  simp only [not_or, Bool.not_eq_true] at free
  rw [free.1, free.2]
  cases Config.scrubEn <;> rfl

theorem dumpLatch_of_early {set : Nat} (early : m.up < (Tbl.find m.pwr.dumpAt set).getD (m.up + 1)) : dumpLatch c m set = m := by
  unfold dumpLatch
  split
  · rfl
  · next t at' =>
    rw [at'] at early
    exact if_pos early

/-- A slow set's latch gives back any leave of the set. -/
def Mach.latchesDump (c : Cfg) (m : Mach) (set : Nat) : Mach := releaseLeave c (dropLeave (m.inc32 pmuDumpSeqSeq set) opDump set) opDump set

/-- The next latch of a set. -/
def Mach.nextDump (c : Cfg) (m : Mach) (set t : Nat) : Mach :=
  { m with pwr := { m.pwr with dumpAt := Tbl.ins m.pwr.dumpAt set (t + 1000 * c.get pmuDumpPeriodPeriod set) } }

/-- When a batch of `n` bytes is written, behind those before it. -/
def Mach.dumpEnd (m : Mach) (n : Nat) : Nat := (m.pwr.dumpBusy.map (·.2)).foldl max m.up + ceilDiv n 32

/-- A latch's batch leaves. -/
def Mach.sendsDump (c : Cfg) (m : Mach) (set : Nat) : Mach :=
  sendBatch c { m with pwr := { m.pwr with dumpBusy := Tbl.ins m.pwr.dumpBusy set (m.dumpEnd (dumpBatch c m set).length) } }
    ⟨dumpDies c set, c.get pmuDumpCfgRing set, .dmp, dumpBatch c m set⟩

theorem dumpLatch_of_due {set t : Nat} (at' : Tbl.find m.pwr.dumpAt set = some t) (due : t ≤ m.up) (slow : 100 ≤ c.get pmuDumpPeriodPeriod set) {n : Mach}
    (latched : (m.latchesDump c set).nextDump c set t = n) : dumpLatch c m set =
    if n.up < Tbl.look 0 n.pwr.dumpBusy set then bump c n .pmuCnt cPmuDumpLate
    else if (dumpDies c set).any (upwardFull n) then n else n.sendsDump c set := by
  subst latched
  have leave : dumpLeave c (m.inc32 pmuDumpSeqSeq set) set = m.latchesDump c set := if_pos slow
  have period (m : Mach) : dumpPeriod c m set = c.get pmuDumpPeriodPeriod set := if_neg (by simp [Nat.not_lt.mpr slow])
  unfold dumpLatch
  rw [at']
  dsimp only
  rw [if_neg (Nat.not_lt.mpr due), leave, period]
  rfl

end Sys2Proof.Machine

/-! The rows of leave, put together (chapter 15). -/
namespace Sys2Proof.Machine
variable {s : State}

/-- A request for leave that reaches the governor: refused for its class, the budget or a full queue, else in the queue. -/
theorem exec_heavyOpRequest_of_refused (live : s.live) {op : Fin 12} {unit : Nat} (notHeld : s.mach.holdsLeave op unit = false)
    (notAsked : s.mach.waitsLeave op unit = false) {m' : Mach} (asked : askLeave s.conf s.mach op unit = (.refused, m')) :
    exec (.heavyOpRequest op unit) s = .next (s.withM (leaveRefused s.conf m' op unit)) := by
  rw [exec_heavyOpRequest_of_live live, heavyRequest_of_new notHeld notAsked asked, if_pos rfl]

theorem exec_heavyOpRequest_of_accepted (live : s.live) {op : Fin 12} {unit : Nat} (notHeld : s.mach.holdsLeave op unit = false)
    (notAsked : s.mach.waitsLeave op unit = false) {a : LeaveAns} {m' : Mach} (asked : askLeave s.conf s.mach op unit = (a, m')) (accepted : a ≠ .refused) :
    exec (.heavyOpRequest op unit) s = .next (s.withM (leaveGoesOn s.conf m')) := by
  rw [exec_heavyOpRequest_of_live live, heavyRequest_of_new notHeld notAsked asked, if_neg accepted]

/-- A request that the class's `EN` and the budget allow, where the queue has room, enters it. -/
theorem exec_heavyOpRequest_of_room (live : s.live) {op : Fin 12} {unit : Nat} (notHeld : s.mach.holdsLeave op unit = false)
    (notAsked : s.mach.waitsLeave op unit = false) (normal : recoveryOp op = false)
    (clear : ¬(reportsWait s.mach (leaveDie op unit) = true ∨ asksWait s.mach (leaveDie op unit) = true)) (on : s.conf.on pwrOpEn op = true)
    (fits : (s.conf.get pwrOpPips op : Int) ≤ pwrRoom s.conf s.mach 0) (room : s.mach.pwr.queue.length < 64) :
    exec (.heavyOpRequest op unit) s = .next (s.withM (leaveGoesOn s.conf (leaveEval s.conf (s.mach.enters (reqOf s.conf s.mach op unit))))) := by
  have asked := (askLeave_of_clear (c := s.conf) clear).trans ((leaveArrive_of_on normal on).trans ((if_neg (Int.not_lt.mpr fits)).trans
    (if_neg (Nat.not_le.mpr room))))
  refine exec_heavyOpRequest_of_accepted live notHeld notAsked asked ?_
  split
  · decide
  · decide

/-- Settles O59: each row is the case of its function, with the governor's evaluation worked out for a queue of at most one request. -/
theorem leaveIsAskedForHeldAndReleased : Obligations.LeaveIsAskedForHeldAndReleased := by
  intro s live c m now
  have tree : exec .keyTreeGenDone s = now (settle c (treeDone c m)) := State.onSettle_live live treeDone
  have start (die : Fin 2) : exec (.tallyPassStart die) s = now (tallyStart c m die) := State.on_live live fun c m => tallyStart c m die
  have done (die : Fin 2) : exec (.tallyPassDone die) s = now (leaveGoesOn c (tallyDone c m die)) :=
    State.on_live live fun c m => leaveGoesOn c (tallyDone c m die)
  have pageStart : exec .pageTallyStart s = now (tallyStart c m 2) := State.on_live live fun c m => tallyStart c m 2
  have pageDone : exec .pageTallyDone s = now (leaveGoesOn c (tallyDone c m 2)) := State.on_live live fun c m => leaveGoesOn c (tallyDone c m 2)
  have eval : exec .governorEval s = now (leaveGoesOn c (leaveEval c m)) := State.on_live live fun c m => leaveGoesOn c (leaveEval c m)
  have lapse : exec .deferTimeout s = now (deferTimeout c m) := State.on_live live deferTimeout
  have dieEn (die : Fin 2) : tallyEn c die = c.on tmgTallyCfgEn die := if_pos die.isLt
  have dieOp (die : Fin 2) : tallyOp die = (opCellTally, die.val) := if_pos die.isLt
  refine ⟨fun none => ?_, fun t gen => ?_, fun die off => ?_, fun die on idle held empty => ?_, fun u => ?_, fun die idle => ?_,
    fun die runs empty => ?_, fun off => ?_, fun on idle held empty => ?_, fun idle => ?_, fun runs empty same => ?_, fun op unit => ?_,
    fun q p => ⟨enter_nil, enter_one p⟩, fun empty => ?_, fun q one => ?_, fun op o slot n q may one => retryCmds_of_one may one,
    fun none => upwardGo_of_none none, fun e one => ⟨fun behind => upwardGo_of_behind one behind, fun a m' clear arrives => upwardGo_of_clear one clear arrives⟩,
    fun none => ?_, fun q one => ?_, fun stack => ?_, fun set => ?_⟩
  · rw [tree, treeDone_of_none none]
  · rw [tree, treeDone_of_some gen]
    rfl
  · exact (start die).trans (congrArg now (tallyStart_of_off (by rwa [dieEn])))
  · have begun : tallyStart c m die = tallyBegin c m die := tallyStart_of_held ((dieEn die).trans on) idle (by rwa [dieOp])
    exact (start die).trans (congrArg now (begun.trans (tallyBegin_of_no_frames die.isLt empty)))
  · intro row op due on idle notHeld
    have starts : exec row s = now (tallyStart c m u) := by
      unfold row
      split
      · next die => exact start ⟨u, die⟩
      · next pages =>
        rw [show u.val = 2 by omega]
        exact pageStart
    exact ⟨fun early => starts.trans (congrArg now (tallyStart_of_early on idle notHeld early)),
      fun notAsked due a m' asked => starts.trans (congrArg now (tallyStart_of_due on idle notHeld notAsked due asked))⟩
  · rw [done, tallyDone_of_idle idle]
  · intro e same
    exact (done die).trans (congrArg (fun m => now (leaveGoesOn c m)) (tallyDone_of_no_cells die.isLt runs empty rfl same))
  · exact pageStart.trans (congrArg now (tallyStart_of_off off))
  · have begun : tallyStart c m 2 = tallyBegin c m 2 := tallyStart_of_held on idle held
    exact pageStart.trans (congrArg now (begun.trans (tallyBegin_of_no_queues empty)))
  · rw [pageDone, tallyDone_of_idle idle]
  · exact pageDone.trans (congrArg (fun m => now (leaveGoesOn c m)) (tallyDone_of_no_pages runs empty same))
  · intro q
    refine ⟨fun old => ?_, fun notHeld notAsked normal => ?_, fun none => ?_, fun g one isOp isUnit empty => ?_⟩
    · rw [exec_heavyOpRequest_of_live live, heavyRequest_of_old old]
      rfl
    · intro behind refused
      refine ⟨fun waits => ?_, fun clear => ⟨fun off => ?_, fun on beyond => ?_, fun on fits => ⟨fun full => ?_, fun room => ?_, fun empty => ?_⟩⟩⟩
      · exact exec_heavyOpRequest_of_accepted live notHeld notAsked (askLeave_of_behind normal waits) (by decide)
      · exact exec_heavyOpRequest_of_refused live notHeld notAsked ((askLeave_of_clear clear).trans (leaveArrive_of_off normal off))
      · exact exec_heavyOpRequest_of_refused live notHeld notAsked ((askLeave_of_clear clear).trans ((leaveArrive_of_on normal on).trans (if_pos beyond)))
      · exact exec_heavyOpRequest_of_refused live notHeld notAsked ((askLeave_of_clear clear).trans ((leaveArrive_of_on normal on).trans
          ((if_neg (Int.not_lt.mpr fits)).trans (if_pos full))))
      · exact exec_heavyOpRequest_of_room live notHeld notAsked normal clear on fits room
      · have enters := exec_heavyOpRequest_of_room live notHeld notAsked normal clear on fits (by rw [show s.mach.pwr.queue = [] from empty]; decide)
        have alone : (m.enters q).pwr.queue = [q] := by
          show q.enter m.pwr.queue = [q]
          rw [empty, enter_nil]
        exact ⟨fun fit => enters.trans (congrArg (fun m => now (leaveGoesOn c m)) (leaveEval_of_fits alone fit)),
          fun wait => enters.trans (congrArg (fun m => now (leaveGoesOn c m)) ((leaveEval_of_waits alone wait).trans (if_neg Bool.false_ne_true)))⟩
    · exact (State.on_live live fun c m => leaveGoesOn c (releaseLeave c m op unit)).trans
        (congrArg (fun m => now (leaveGoesOn c m)) (releaseLeave_of_none none))
    · exact (State.on_live live fun c m => leaveGoesOn c (releaseLeave c m op unit)).trans
        (congrArg (fun m => now (leaveGoesOn c m)) (releaseLeave_of_one one isOp isUnit empty))
  · rw [eval, leaveEval_of_empty empty]
  · intro fits granted
    refine ⟨fun waits posted => ?_, fun fit => ⟨?_, fun t idle due isTree isUnit => ?_⟩⟩
    · rw [eval, leaveEval_of_waits one waits, if_pos posted]
    · exact eval.trans (congrArg (fun m => now (leaveGoesOn c m)) (leaveEval_of_fits one fit))
    · exact eval.trans ((congrArg (fun m => now (leaveGoesOn c m)) (leaveEval_of_fits one fit)).trans
        (congrArg (fun m => now (settle c m)) (treeAsk_of_granted idle due isTree isUnit)))
  · rw [lapse, deferTimeout_of_none none]
  · intro ended
    exact ⟨fun off => lapse.trans (congrArg now (deferTimeout_of_one (leaveLapsed_of_off one off))),
      fun on old => lapse.trans (congrArg now (deferTimeout_of_one (leaveLapsed_of_old one on old)))⟩
  · intro due m' busy
    have row : exec (.scrubPassDue stack) s = now (scrubDue c m stack) := State.on_live live fun c m => scrubDue c m stack
    exact ⟨fun early => row.trans (congrArg now (scrubDue_of_early early)), fun due busy => row.trans (congrArg now (scrubDue_of_busy due busy)),
      fun due free => row.trans (congrArg now (scrubDue_of_free due free)), State.on_live live fun c m => leaveGoesOn c (releaseLeave c m opScrub stack)⟩
  · have row : exec (.dumpLatch set) s = now (settle c (dumpLatch c m set)) := State.onSettle_live live fun c m => dumpLatch c m set
    refine ⟨fun early => row.trans (congrArg (fun m => now (settle c m)) (dumpLatch_of_early early)), fun t at' due slow => ?_⟩
    intro m1 m2 b start
    have latched := row.trans (congrArg (fun m => now (settle c m)) (dumpLatch_of_due (n := m2) at' due slow rfl))
    refine ⟨fun late => ?_, fun free full => ?_, fun free room => ?_⟩
    · rw [latched, if_pos late]
    · rw [latched, if_neg (Nat.not_lt.mpr free), if_pos full]
    · rw [latched, if_neg (Nat.not_lt.mpr free), if_neg (by rw [room]; decide)]
      rfl

end Sys2Proof.Machine

end
